-- ==== Sys2Proof/Word.lean ====
section
/-! DEFINITION. The word types of the ST960 model and their plainest arithmetic. -/

namespace Sys2Proof

/-- One byte. -/
abbrev Byte := BitVec 8

/-- One 64-bit word. -/
abbrev Word := BitVec 64

/-- A 64-byte descriptor or command slot: byte 0 is least significant, word Dk is bits 64k to 64k+63 (R15). -/
abbrev Desc := BitVec 512

/-- The exact value of a number format (06): a NaN, an infinity, or ± mant × 2^exp. -/
inductive FVal where
  | nan
  | inf (neg : Bool)
  | fin (neg : Bool) (mant : Nat) (exp : Int)
  deriving DecidableEq, Repr

end Sys2Proof
end

