-- ==== Sys2Proof/Syntax.lean ====
section
/-! DEFINITION. The commands of the ST960 block: one constructor for every row of spec/opcode_table.json, in its order,
and the types of their operands. -/

namespace Sys2Proof

/-- The port classes of R480. -/
inductive PortClass where
  | H
  | S
  | F
  | B
  deriving DecidableEq, Repr

/-- A UDP endpoint: IPv6 or IPv4 address and port (R36, R454). -/
structure Endpoint where
  v6 : Bool
  addr : Nat
  port : Nat
  deriving DecidableEq, Repr

/-- The way of a datagram to or from an interface: the interface, the far end, and the module's own end (R495). -/
structure UdpPath where
  iface : Nat
  peer : Endpoint
  here : Endpoint
  deriving DecidableEq, Repr

/-- What the port finds of the frame that carried a datagram (R34, R39): whether its FCS and its IP header are sound, whether it
is a fragment of an IP datagram, and the UDP checksum it holds. -/
structure FrameCheck where
  fcsOk : Bool := true
  ipOk : Bool := true
  fragment : Bool := false
  udpSum : BitVec 16 := 0
  deriving DecidableEq, Repr

/-- A datagram as a port receives it: its bytes, and what the port finds of its frame. -/
structure Received where
  bytes : List Byte
  frame : FrameCheck := {}
  deriving DecidableEq, Repr

/-- What a read of device memory finds in error: the number of a codeword among those it reads, from 0, and the symbols in
error in it (R383). -/
abbrev CodewordErrors := List (Nat × Nat)

/-- The copy of a row: an address in the row, and the codewords that the copy finds in error (R389). -/
structure RowCopy where
  mpa : Nat
  errors : CodewordErrors := []
  deriving DecidableEq, Repr

/-- The other end of a link as it trains: its highest generation, and the generation at which the lanes train (R427, R428). -/
structure LinkPartner where
  highest : Nat
  trained : Nat := 7
  deriving DecidableEq, Repr

/-- A tile request of a Dray: its transfer, and the codewords of the tile found in error (R383). -/
structure TileRead where
  transfer : Nat
  errors : CodewordErrors := []
  deriving DecidableEq, Repr

/-- A read through BAR2: its offset, and the codewords of device memory it finds in error (R383). -/
structure WindowRead where
  offset : Nat
  errors : CodewordErrors := []
  deriving DecidableEq, Repr

/-- A read at a lane: the lane, and the codewords it finds in error (R95). -/
structure LaneRead where
  lane : Nat
  errors : CodewordErrors := []
  deriving DecidableEq, Repr

/-- A dictionary message as a transport carries it (R552, R553). `dest` and `ethertype` are the destination address and ethertype of
a 10BASE-T1S frame, none for the module's management address and DICT_ETHERTYPE; `mctp` is the MCTP message type and vendor ID,
none for 0x7E and 0x1F8D; `target` is the 7-bit target address of I3C or SMBus where it is a static one, none for the dynamic
address that the bus controller gave. -/
structure DictFrame where
  bytes : List Byte
  dest : Option (BitVec 48) := none
  ethertype : Option (BitVec 16) := none
  mctp : Option (Nat × Nat) := none
  target : Option (BitVec 7) := none
  deriving DecidableEq, Repr

/-- A requester of dictionary messages (R547); `biv` is port class B, which counts as one requester (R558). -/
inductive ReqId where
  | t1s (mac : BitVec 48)
  | mctp (eid : BitVec 8)
  | window
  | owner (session : Nat)
  | biv
  deriving DecidableEq, Repr

/-- Who issued a descriptor: what it belongs to and under which rights it runs. -/
structure Origin where
  cls : PortClass := .B
  context : Nat := 0
  queue : Nat := 0
  /-- launch and stage it belongs to -/
  launch : Option Nat := none
  stage : Nat := 0
  /-- command of the queue it belongs to (DESCRIPTOR, TASK) -/
  cmd : Option Nat := none
  /-- issued by the Postilion as a stage prologue or for a command, not by a task -/
  postilion : Bool := false
  /-- when it was passed to its engine, and the table epoch then (R94, R119) -/
  issue : Option (Nat × Nat) := none
  deriving DecidableEq, Repr

/-- Kinds of access of Table 15.2. -/
inductive Access where
  | read
  | write
  | atomic
  deriving DecidableEq, Repr

/-- PCIe AtomicOps into BAR2 (R433). -/
inductive AtomicOp where
  | fetchAdd
  | swap
  | cas
  deriving DecidableEq, Repr

/-- A host write to a register of BAR0 or BAR4 (R431): its width in bytes, its byte offset within the 8-byte register
and the value written. -/
structure HostWrite where
  bytes : Nat := 8
  offset : Nat := 0
  value : BitVec 64
  deriving DecidableEq, Repr

/-- A configuration-space write of the host that R447 and R442 name. -/
inductive HostEvent where
  | busMaster (on : Bool)
  | d3hot (on : Bool)
  | atomicRequests (on : Bool)
  deriving DecidableEq, Repr

/-- What can happen to the PCIe reset on J1 or through the link (R448). -/
inductive LinkReset where
  | perstAsserted
  | perstReleased
  | hotReset
  deriving DecidableEq, Repr

/-- The commands (spec/opcode_table.json). -/
inductive Instr where
  -- 02 Serving requests without the host
  | lorjoSegmentRx (port : Nat) (src dst : Endpoint) (datagram : Received)
  | reassemblyTimeout (src : Endpoint) (requestId : BitVec 64)
  | keepalive (port : Nat) (src dst : Endpoint) (datagram : Received)
  | probe (port : Nat) (src dst : Endpoint) (datagram : Received)
  | exitTimer (request : Nat)
  | responseTransmit (port : Nat)
  | bindingEnable (req : ReqId) (binding : Nat) (value : Nat)
  | svcEnable (req : ReqId) (value : Nat)
  | keyLoad (req : ReqId) (value : List Byte)
  -- 03 Embedding lookup
  | lookup (core : Nat) (desc : Desc) (org : Origin)
  | laneServe (lookup : Nat) (lane : LaneRead)
  | stackReduce (lookup stack : Nat)
  | bagCombine (lookup bag : Nat)
  | remoteTimeout (lookup owner : Nat)
  | tableDefine (req : ReqId) (desc : Desc)
  | tableDelete (req : ReqId) (tableId : Nat)
  | tableDeleteComplete (tableId : Nat)
  -- 04 Table updates
  | rowWrite (core : Nat) (desc : Desc) (org : Origin)
  | immediateWriteChunk (write lane : Nat)
  | rowStage (write lane : Nat)
  | deferredRowRetry (write lane : Nat)
  | deferLimitExpiry (write : Nat)
  | batchOpen (core : Nat) (desc : Desc) (org : Origin)
  | batchCommit (core : Nat) (desc : Desc) (org : Origin)
  | batchCommitProper (write : Nat)
  | commitWaitTimeout (write : Nat)
  | batchAbort (core : Nat) (desc : Desc) (org : Origin)
  | backgroundCopy (lane : Nat)
  | preimageFree (epoch : Nat)
  | remoteCommitTimeout (write owner : Nat)
  -- 05 Matrix arrays
  | matmul (core : Nat) (desc : Desc) (org : Origin)
  | tileStream (core : Nat)
  | chainDrain (core accBase : Nat)
  | chainReplay (core accBase : Nat)
  | tilePreempt (core : Nat)
  -- 07 Vector engine and control core
  | vsetl (core : Nat) (word : BitVec 32)
  | vld (core : Nat) (word : BitVec 32)
  | vst (core : Nat) (word : BitVec 32)
  | vopVv (core : Nat) (word : BitVec 32)
  | vopVx (core : Nat) (word : BitVec 32)
  | vcvt (core : Nat) (word : BitVec 32)
  | vun (core : Nat) (word : BitVec 32)
  | vred (core : Nat) (word : BitVec 32)
  | vtopkSet (core : Nat) (word : BitVec 32)
  | vtopkInsert (core : Nat) (word : BitVec 32)
  | vtopkStore (core : Nat) (word : BitVec 32)
  | vtopkFloor (core : Nat) (word : BitVec 32)
  | eissue (core : Nat) (word : BitVec 32)
  | efence (core : Nat) (word : BitVec 32)
  | smrd (core : Nat) (word : BitVec 32)
  | hwait (core : Nat) (word : BitVec 32)
  | hsig (core : Nat) (word : BitVec 32)
  | sfop (core : Nat) (word : BitVec 32)
  | resolve (core : Nat) (word : BitVec 32)
  | taskend (core : Nat) (word : BitVec 32)
  | baseInstruction (core : Nat) (word : BitVec 32)
  | timerInterrupt (core : Nat)
  | qworkInterrupt (core : Nat)
  | taskStart (core : Nat)
  | taskLimitExpiry (core : Nat)
  | vtensor (core : Nat) (desc : Desc) (org : Origin)
  -- 08 User-history sequences
  | seqSummary (core : Nat) (desc : Desc) (org : Origin)
  | segmentPass (summary segment : Nat)
  | summaryMerge (summary : Nat)
  | appendStage (launch stage : Nat)
  | appendChunkWait (launch : Nat)
  | sessionStep
  | sessionClose (req : ReqId) (session : BitVec 64)
  -- 09 Feeding the engines
  | transfer (core : Nat) (desc : Desc) (org : Origin)
  | caravan (core : Nat) (desc : Desc) (org : Origin)
  | tileRequest (transfer : TileRead)
  | tileDelivery (transfer tile : Nat)
  | weightRingStart (core : Nat)
  | caravanTileSend (transfer : Nat)
  | catchupFetch (transfer core : Nat)
  | transferFaultResume (transfer : Nat)
  | stageBarrier (launch stage : Nat)
  | stagePrologue (launch stage : Nat)
  | residentSegmentLoad (context : Nat)
  -- 10 Queues, commands and Hitch
  | tailDoorbell (queue : Nat) (w : HostWrite)
  | phaseRetry (queue : Nat)
  | cqHeadDoorbell (queue : Nat) (w : HostWrite)
  | nop (queue : Nat)
  | launch (queue : Nat)
  | descriptor (queue : Nat)
  | inlineWrite (queue : Nat)
  | graphLoad (queue : Nat)
  | graphPatch (queue : Nat)
  | graphUnload (queue : Nat)
  | task (queue : Nat)
  | commandWaitMet (queue : Nat)
  | hostPoll
  | hitchTimeout (queue core : Option Nat)
  | commandCompletion (queue cmd : Nat)
  | stageDispatch (launch stage : Nat)
  | launchComplete (launch : Nat)
  | queueEnable (req : ReqId) (queue value : Nat)
  | queueDrainDone (queue : Nat)
  | patchSlotTimeout (queue cmd : Nat)
  | versionFree (graph version : Nat)
  -- 11 Run-ahead and speculation
  | specDispatch (launch stage : Nat)
  | branchResolve (launch branch : Nat) (outcome : BitVec 64)
  | rangeInvalidate (spec : Nat)
  | predictReset (req : ReqId) (value : Nat)
  -- 12 The ST320-compatible queue interface
  | lqCtrlWrite (offset : Nat) (w : HostWrite)
  | sqTail (w : HostWrite)
  | legacyCqHead (w : HostWrite)
  | legacyNop
  | legacyDma
  | legacyDesc
  | legacyKernel
  | legacyLaunch
  | legacyWait
  | legacySignal
  -- 13 Jobs, resident contexts and the cyclic schedule
  | jobDeploy (req : ReqId) (value : BitVec 128)
  | jobUndeploy (req : ReqId) (value : Nat)
  | undeployDrainTimeout
  | contextCreate (req : ReqId) (desc : BitVec 256)
  | contextDelete (req : ReqId) (context : Nat)
  | schedCommit (req : ReqId) (value : Nat)
  | scheduleCycleStart
  | slotBoundary
  | reclaim (core : Nat)
  | predictiveWake (cg : Nat)
  | idleStepDown (cg : Nat)
  -- 14 HBM4E stacks and the cold tier
  | patrolScrub (cold : Bool) (symbols : Nat)
  | rowRemap (copy : RowCopy)
  | repairRun (req : ReqId) (value : Nat)
  | repairAdd (req : ReqId) (entry : BitVec 128)
  | testPortRaw (req : ReqId) (value : BitVec 512)
  -- 15 Address translation, page faults and migration
  | mapTail (w : HostWrite)
  | alloc
  | free
  | mapHost
  | setAbsent
  | protect
  | migrate
  | deny
  | pageFault (agent : Nat) (va : BitVec 64) (access : Access)
  | fqHead (w : HostWrite)
  | fqOverflowClear (req : ReqId) (value : Nat)
  | faultReplay (agent : Nat)
  | faultTimeout (page : Nat)
  -- 16 The PCIe host interface
  | bar2Read (read : WindowRead) (bytes : Nat)
  | bar2Write (offset : Nat) (bytes : List Byte)
  | bar2Atomic (offset : Nat) (op : AtomicOp) (width : Nat) (operand compare : BitVec 64)
  | eventCauseClear (w : HostWrite)
  | functionLevelReset (start : Bool)
  | perstN (ev : LinkReset)
  | linkDown
  | linkTraining (partner : LinkPartner) (lanes : Nat)
  | hostUnreachable (ev : HostEvent)
  | dmaRequestError (busAddr agent : Nat) (error : Nat)
  | poisonedWrite (correctable : Bool)
  | dwGo (request : List Byte) (w : HostWrite)
  -- 17 The Mboes fabric
  | peerSet (req : ReqId) (value : List Byte)
  | fabricJoin (req : ReqId) (value : Nat)
  | fabricLeave (req : ReqId) (value : Nat)
  | hello (iface : Nat) (datagram : List Byte)
  | accept (iface : Nat) (datagram : List Byte)
  | finish (iface : Nat) (datagram : List Byte)
  | handshakeTimeout (peer : Nat)
  | fabricDataRx (iface : Nat) (ce : Bool) (datagram : List Byte)
  | fabricAckRx (iface : Nat) (ce : Bool) (datagram : List Byte)
  | ackTimer (peer : Nat)
  | retransmitTimeout (peer psn : Nat)
  | cwndUpdate (peer : Nat)
  | rekey (peer : Nat)
  | pathMove (peer path : Nat) (down : Bool)
  | fabricLoadServe (peer seq : Nat)
  | fabricStoreServe (peer seq : Nat)
  | fabricAtomicServe (peer seq : Nat)
  | fabricSignalServe (peer seq : Nat)
  | fabricLookupServe (peer seq : Nat)
  | fabricRowStage (peer seq : Nat)
  | fabricBatchCommit (peer seq : Nat)
  | fabricBatchAbort (peer seq : Nat)
  | fabricResponseRx (peer : Nat) (record : List Byte)
  | opTimeout (peer seq : Nat)
  | closeRx (iface : Nat) (datagram : List Byte)
  | peerDead (peer : Nat)
  | keepaliveAckTimer (peer : Nat)
  | fabricAtomic (core : Nat) (desc : Desc) (org : Origin)
  | fabricBarrier (core : Nat) (desc : Desc) (org : Origin)
  | fabricBroadcast (core : Nat) (desc : Desc) (org : Origin)
  | fabricSnapshot (core : Nat) (desc : Desc) (org : Origin)
  | globalTimeout (group : Nat)
  | ggroupEnable (req : ReqId) (group value : Nat)
  -- 18 Security, identity and attestation
  | ownerOpen (via : Option UdpPath) (record : List Byte)
  | ownerHandshakeTimeout (via : Option UdpPath)
  | ownerDict (via : Option UdpPath) (record : List Byte)
  | ownerStage (via : Option UdpPath) (record : List Byte)
  | ownerCommand (via : Option UdpPath) (record : List Byte)
  | ownerMap (via : Option UdpPath) (record : List Byte)
  | ownerClose (via : Option UdpPath) (record : List Byte)
  | ownerGapTimeout (session : Nat)
  | relayIn (req : ReqId) (value : List Byte)
  | relayOut (req : ReqId) (length : Nat)
  | quoteNonce (req : ReqId) (value : List Byte)
  | measureExtend (req : ReqId) (value : List Byte)
  | rollbackCommit (req : ReqId) (value : Nat)
  | keyWipe (req : ReqId) (value : Nat)
  | zeroisation
  -- 19 Power, clocks and the Bivouac
  | opPointMove (faster : Bool)
  | capProjection (watts demand : Nat)
  | powerCapWrite (req : ReqId) (value : Nat)
  | sensorSample (temps : List Int)
  | thermalTrip
  | powerOff (req : ReqId) (value : Nat)
  | thermTripInN (ns : Nat)
  | refClockLoss
  | cgWake (cg : Nat)
  | cgWakeComplete (cg : Nat)
  | netSwitchOn
  | netSwitchOff
  | coldSwitchOn
  | coldSelfRefresh
  | selfRefreshExit
  | powerManagerTick
  | bivGraphLoad
  -- 20 Start-up, reset and recovery
  | coldReset (req : ReqId) (value : Nat)
  | modResetN (ns : Nat)
  | startUp
  | firmwareFallback
  | jobFault
  | watchdogExpiry
  | postilionWedge
  | maintMode (req : ReqId) (value : Nat)
  | cgReset (req : ReqId) (mask : Nat)
  | fwWrite (req : ReqId) (value : List Byte)
  | fwInstall (req : ReqId) (value : Nat)
  | fwActivate (req : ReqId) (value : Nat)
  | fwConfirm (req : ReqId) (value : Nat)
  -- 21, 22 The object dictionary
  | dictRead (req : ReqId) (message : DictFrame)
  | dictWrite (req : ReqId) (message : DictFrame)
  | multiWrite (req : ReqId) (message : DictFrame)
  | multiRead (req : ReqId) (message : DictFrame)
  | segmentLapse (req : ReqId)
  | snapshotLapse (req : ReqId)
  -- 23 The Waybill
  | waybillRecordWrite
  | rateWindowEnd
  | wbRead (req : ReqId)
  | wbClear (req : ReqId) (value : Nat)
  | wbClearCopyDone
  -- 24 and later rows
  | inputPowerLoss
  | refClockRestored
  | interfaceUp (iface : Nat)
  | globalOperationRx (peer : Nat) (record : List Byte)
  | fabricAtomicCoreRelease (id : Nat)
  | sessionRetry (peer : Nat)
  | keptResponseLapse (req : ReqId)
  | msixTableWrite (offset : Nat) (w : HostWrite)
  | bar2Resize (gib : Nat)
  | neighborDiscoveryFrame (iface : Nat) (v6 : Bool) (request : Bool) (target sender : Nat) (mac : BitVec 48)
  deriving DecidableEq, Repr

end Sys2Proof
end

