-- ==== Sys2Proof/Decode.lean ====
section
/-! DEFINITION. The command that a word spells by the opcode table's bits. No row of the table gives bits (every row's
field list is empty), so no word spells a command. -/

namespace Sys2Proof

/-- The command spelt by a word of `nbits` bits, numbered as the opcode table numbers them. -/
def decodeTableWord (_nbits _w : Nat) : Option Instr := none

end Sys2Proof
end

