-- ==== Sys2Proof/Config.lean ====
section
/-! DEFINITION. What an implementation fixes and the spec leaves open. Every function here is opaque: it has no body, so no proof can rest on a value of it. -/

namespace Sys2Proof

/-! Free values drawn by the counter of State (log 5). -/

/-- A 64-bit value the spec leaves undefined. -/
opaque Config.freeWord : Nat → BitVec 64

/-- A vector-register value the spec leaves undefined. -/
opaque Config.freeVec : Nat → BitVec 4096

/-- A rank that orders things the spec leaves unordered: draw, item. -/
opaque Config.freeRank : Nat → Nat → Nat

/-- Whether a THERM_TRIP_IN_N pulse of 50 ns to 100 ns trips, which R591 leaves open: draw. -/
opaque Config.pulseTrips : Nat → Bool

/-! Cryptographic functions, standardised outside the spec (log 9). -/

/-- Byte i of the SHAKE256 output over a message. -/
opaque Config.shakeByte : List Byte → Nat → Byte

/-- Byte i of the AES-256-GCM keystream of a key and a nonce. -/
opaque Config.gcmStreamByte : List Byte → List Byte → Nat → Byte

/-- Byte i of the AES-256-GCM tag: key, nonce, additional data, ciphertext. -/
opaque Config.gcmTagByte : List Byte → List Byte → List Byte → List Byte → Nat → Byte

/-- ML-DSA-65 verification: public key, context string, message, signature. -/
opaque Config.dsaVerify : List Byte → List Byte → List Byte → List Byte → Bool

/-- Byte i of the ML-DSA-65 signature of the key grown from a seed: seed, context string, message. -/
opaque Config.dsaSignByte : List Byte → List Byte → List Byte → Nat → Byte

/-- Byte i of the ML-DSA-65 public key grown from a seed. -/
opaque Config.dsaPublicByte : List Byte → Nat → Byte

/-- Byte i of the ML-KEM-768 encapsulation key made from a random string. -/
opaque Config.kemKeyByte : List Byte → Nat → Byte

/-- Byte i of the ML-KEM-768 ciphertext for an encapsulation key and a random string. -/
opaque Config.kemCipherByte : List Byte → List Byte → Nat → Byte

/-- Byte i of the shared secret that encapsulation gives. -/
opaque Config.kemEncapsByte : List Byte → List Byte → Nat → Byte

/-- Byte i of the shared secret that decapsulation gives: random string of the key, ciphertext. -/
opaque Config.kemDecapsByte : List Byte → List Byte → Nat → Byte

/-- Byte i of draw d of the root of trust's random source (R497). -/
opaque Config.randomByte : Nat → Nat → Byte

/-- Byte i of the certificate chain kept in the nonvolatile store, where the certificates' issuers chose it (R491). -/
opaque Config.chainByte : Nat → Byte

/-- Byte i of the published root public key that product CA certificates are issued by (R491). -/
opaque Config.rootKeyByte : Nat → Byte

/-! Choices the spec leaves to the implementation. -/

/-- Bank and row of a granule below the channel or package: region, channel or package, granule (R379). -/
opaque Config.dramRow : Nat → Nat → Nat → Nat × Nat

/-- Where in the row cache's carve-out a codeword of a set lies, its tags first (R77): channel, set, codeword. -/
opaque Config.cacheWord : Nat → Nat → Nat → Nat

/-- The package of a cold-tier row that a journal entry names, which has no field for it (Table 14.4): channel, bank, row. -/
opaque Config.repairPackage : Nat → Nat → Nat → Nat

/-- Whether a TEST_PORT_RAW instruction changes the configuration of its stack other than by repair (R398): its bytes. -/
opaque Config.rawConfigures : List Byte → Bool

/-- A byte whose value is unpredictable each time it is read: address, time. -/
opaque Config.unsteadyByte : Nat → Nat → Byte

/-- The channel, 0 to 3, of a granule within its cold-tier package (R379): granule. -/
opaque Config.coldChannel : Nat → Nat

/-- The other granule of a granule's 2 KiB row (R379): region, channel or package, granule. -/
opaque Config.rowMate : Nat → Nat → Nat → Nat

/-- The update-log entry of a committed row lies on a page (R115, R422): page, table, row. -/
opaque Config.logOnPage : Nat → Nat → Nat → Bool

/-- The MPA of a row's first granule (R379): region, channel or package, bank, row. -/
opaque Config.rowFirst : Nat → Nat → Nat → Nat → Nat

/-- A granule of a stack reserve lies in the page-table slice (R385, R406): region, granule. -/
opaque Config.inSlice : Nat → Nat → Bool

/-- The pages whose entries lie in a granule of a page-table slice (R406): region, granule. -/
opaque Config.slicePages : Nat → Nat → List Nat

/-- An error in four or more symbols goes undetected (R383): draw. -/
opaque Config.errorMissed : Nat → Bool

/-- What reading a tile's operands from core SRAM meets (R163): 0 no error, 1 a corrected error, 2 an uncorrectable one: draw. -/
opaque Config.sramError : Nat → Nat

/-- Bank and row of that error: draw. -/
opaque Config.sramErrorRow : Nat → Nat × Nat

/-- The core-SRAM rows, bank and row, that a self-test of a core finds faulty (R163): draw, core. -/
opaque Config.selfTest : Nat → Nat → List (Nat × Nat)

/-- The bank has a hard-repair resource left after a fuse (R393): draw. -/
opaque Config.repairResource : Nat → Bool

/-- A hard repair's verification passes (R393): draw. -/
opaque Config.fuseWorks : Nat → Bool

/-- The rows that the power-on test finds faulty, by MPA (R388): draw. -/
opaque Config.postFaulty : Nat → List Nat

/-- The hash of a COLD row that chooses its channel and its row-cache set: TABLE_ID, row (R77). -/
opaque Config.rowHash : Nat → Nat → Nat

/-- Transcendental functions within 2 ulp (R222): VUN operation code, argument. -/
opaque Config.transcendental : Nat → BitVec 32 → BitVec 32

/-- The place of an element in the pairwise tree of a VRED SUM, fixed for a given VL (Table 7.9): VL, element. -/
opaque Config.sumRank : Nat → Nat → Nat

/-- The staging-SRAM offset of a launch's argument block (R295), by launch. -/
opaque Config.argOffset : Nat → Nat

/-- The core-SRAM offset at which a graph version's code is loaded (Table 10.9): graph, version. -/
opaque Config.codeOffset : Nat → Nat → Nat

/-- The score of a candidate at an exit point of an admitted request's launch; the place of a graph's results is not stated
(log 32). -/
opaque Config.score : Nat → Nat → Nat → BitVec 32

/-- MAX_CANDIDATES of a feature map, whose layout is not stated (log 37). -/
opaque Config.maxCandidates : List Byte → Nat

/-- The sections, (TYPE, PARAM), that a feature map requires (log 37). -/
opaque Config.requiredSections : List Byte → List (Nat × Nat)

/-- The code a FW_REFUSED record gives to the check of R487 that failed: 0 no image, 1 header, 2 key, 3 digest or signature,
4 SVN, 5 VERSION. -/
opaque Config.fwCheck : Nat → Nat

/-- A kept record's CRC fails when power returns (R574): draw, SEQ. -/
opaque Config.keptDamaged : Nat → Nat → Bool

/-- How the CRC of a kept record that the loss of power has cut differs from the CRC of its bytes (R580). -/
opaque Config.keptDamage : Nat → Nat → BitVec 32

/-- Address and data of the message of a vector whose table entry was reprogrammed while its source could raise it, by vector and
time (R450). -/
opaque Config.msixAddr : Nat → Nat → BitVec 64
opaque Config.msixData : Nat → Nat → BitVec 32

/-- Core-SRAM address at which the firmware's persistent task begins (R316, R529). -/
opaque Config.persistentEntry : Nat

/-- The code a SESSION_ENDED record gives to each of the three ways of R475. -/
opaque Config.sessionEndCause : Nat → Nat

/-- The formats that a peer gives a table of this module agree with the module's own, which a ROW_STAGE does not carry (R130,
Table 17.3; log 159): peer, table. -/
opaque Config.formatsAgree : Nat → Nat → Bool

/-- The place in the session pool, in 8-byte units, at which a session's APPENDED stands (R244, R305; log 164): context,
session. -/
opaque Config.appendedPlace : Nat → Nat → Nat

end Sys2Proof
end

