-- ==== Sys2Proof/Machine/State.lean ====
section
/-! DEFINITION. The state of the ST960 block, its value right after input power is applied, and the reasons a command
can stop. Each field's docstring gives its width, the chapter and rules that name it, its value at reset and its
meaning. -/

namespace Sys2Proof.Machine

open Sys2Proof

/-- A memory: (address, byte) pairs, addresses strictly rising, no byte equal to 0, which every unlisted address
reads as (log 3). -/
abbrev SMem := List Host.Cell

/-- Fused identity and running image (0x1000). -/
structure Identity where
  /-- 16 bytes | 00 R7 | DESIGN CHOICE "ST960-384-L" (log 2) | ORDERING_NUMBER, ASCII, fused -/
  orderingNumber : List Byte
  /-- 384 bits | 00 R5 R7 | DESIGN CHOICE all ones, the full grade (log 2) | ARRAY_MAP, fused; bit 4c+a is Core[c].Array[a]; ENABLED_ARRAYS is its population count -/
  arrayMap : BitVec 384
  /-- 8 bits | 00 R7 R8 | 0x11 | NORTH_STEPPING, fused -/
  northStepping : BitVec 8
  /-- 8 bits | 00 R7 R8 | 0x11 | SOUTH_STEPPING, fused -/
  southStepping : BitVec 8
  /-- 8 bits | 00 R7 R8 | 0x10 | HUB_STEPPING, fused -/
  hubStepping : BitVec 8
  /-- 32 bits | 00 R7 R8 | 0x03010000 (3.1.0) | FW_VERSION of the running image -/
  fwVersion : BitVec 32
  deriving DecidableEq, Repr

/-- The decoded Lorjo header (Table 2.1). -/
structure LorjoHdr where
  ver : Nat := 2
  typ : Nat := 0
  secure : Bool := false
  cacheable : Bool := false
  exitOk : Bool := false
  candsU64 : Bool := false
  rsvd : Nat := 0
  segNo : Nat := 0
  segLast : Nat := 0
  segLen : Nat := 0
  requestId : Nat := 0
  modelId : Nat := 0
  topK : Nat := 0
  candCount : Nat := 0
  budgetNs : Nat := 0
  keyId : Nat := 0
  sessionId : Nat := 0
  status : Nat := 0
  reason : Nat := 0
  exitPoint : Nat := 0
  torn : Bool := false
  saturated : Bool := false
  boundVoid : Bool := false
  late : Bool := false
  cached : Bool := false
  deriving DecidableEq, Repr

/-- A segmented request being reassembled (R38, R46). -/
structure Reassembly where
  src : Endpoint
  /-- address and port on which its last segment arrived (R55) -/
  dst : Endpoint
  port : Nat
  /-- the key under which its last segment came (R43) -/
  key : Option (BitVec 256)
  hdr : LorjoHdr
  startedAt : Nat
  /-- segment number and its cleartext payload -/
  segs : List (Nat × List Byte)
  maxSeg : Nat
  malformed : Bool
  deriving DecidableEq, Repr

/-- A request admitted and not yet answered (R49, R50). -/
structure Admitted where
  /-- order of admission -/
  seq : Nat
  hdr : LorjoHdr
  src : Endpoint
  dst : Endpoint
  port : Nat
  binding : Nat
  context : Nat
  queue : Nat
  /-- t0, the last byte of the request (R31) -/
  arrived : Nat
  deadline : Nat
  /-- the instant at which an armed exit timer fires (R52) -/
  exitAt : Option Nat
  /-- the exit point selected when the exit timer fired (R52) -/
  exitChosen : Option Nat
  /-- the key under which it came, so that its response is secure under it (R43) -/
  key : Option (BitVec 256)
  graph : Nat
  version : Nat
  epoch : Nat
  payload : List Byte
  /-- request buffer 0..1023 holding a payload above 256 bytes (R51) -/
  buffer : Option Nat
  cacheKey : Option (BitVec 128)
  maxSeg : Nat
  /-- EXIT_MIN of its binding when it was admitted (R64) -/
  exitMin : Nat
  /-- its events went to a pending join, so its append stage writes none (R253) -/
  joined : Bool
  launch : Option Nat
  launchedAt : Nat
  /-- handled by the Bivouac graph (R522) -/
  bivouac : Bool
  deriving DecidableEq, Repr

/-- A response that is ready on its port (R56). -/
structure ReadyResp where
  port : Nat
  src : Endpoint
  dst : Endpoint
  hdr : LorjoHdr
  payload : List Byte
  arrived : Nat
  deadline : Nat
  maxSeg : Nat
  binding : Nat
  /-- the key of a secure request (R43) -/
  key : Option (BitVec 256)
  /-- seq of the admitted request it answers, none for a refusal or a cache hit -/
  request : Option Nat
  readyAt : Nat
  /-- the request buffer it frees once it is sent, where its request is no longer held as admitted (R51) -/
  buffer : Option Nat := none
  deriving DecidableEq, Repr

/-- How a frame is addressed on its interface: the MAC address of its next hop, and its VLAN, 0 for an untagged frame (R454). -/
structure Link where
  mac : BitVec 48
  vlan : Nat
  deriving DecidableEq, Repr

/-- A datagram the module has sent from an Ethernet port. -/
structure SentDatagram where
  /-- next hop and VLAN (R454) -/
  link : Link
  port : Nat
  src : Endpoint
  dst : Endpoint
  dscp : Nat
  bytes : List Byte
  at_ : Nat
  deriving DecidableEq, Repr

/-- Run-time state of one service binding (R48, R64, Table 2.11). -/
structure BindingRun where
  draining : Bool
  /-- launch times to the last stage, newest first, at most 1,024 -/
  serviceTimes : List Nat
  /-- launch times to EXIT_MIN, newest first, at most 1,024 -/
  exitTimes : List Nat
  /-- sum and number of the intervals between completions while the queue is not empty -/
  intervalSum : Nat
  intervalCount : Nat
  completions : Nat
  lastCompletion : Option Nat
  deriving DecidableEq, Repr

/-- A Lorjo key slot (R43, R44). -/
structure KeySlot where
  key : BitVec 256
  /-- highest REQUEST_ID accepted -/
  highest : Option Nat
  /-- the last 4,096 accepted, newest first -/
  accepted : List Nat
  deriving DecidableEq, Repr

/-- One result-cache entry (R61, R62). -/
structure CacheEntry where
  set : Nat
  key : BitVec 128
  results : List Byte
  exitPoint : Nat
  storedAt : Nat
  lastUse : Nat
  deriving DecidableEq, Repr

/-- The request front end (02). -/
structure Service where
  /-- list | 02 R38 R46 | empty | reassembly buffers -/
  reassembly : List Reassembly
  /-- 16 records | 02 R48 R64 | none draining, no measurements | bindings -/
  bindings : List BindingRun
  /-- 1,024 slots, sparse | 02 R44 | empty | Lorjo key slots -/
  keySlots : List (Nat × KeySlot)
  /-- list | 02 R49 | empty | requests admitted and not yet answered, oldest first -/
  admitted : List Admitted
  /-- Nat | 02 R49 | 0 | number of requests admitted so far, the next seq -/
  nextSeq : Nat
  /-- 1,024 buffers | 02 R51 | all free | request buffers in use -/
  buffersUsed : List Nat
  /-- up to 65,536 entries, 8 ways | 02 R61 R62 | empty | result cache -/
  cache : List CacheEntry
  /-- Bool | 02 R61 R66 | 0 | CACHE_ENABLE as taken at the last deploy -/
  cacheOn : Bool
  /-- Nat | 02 R61 R66 | 0 | CACHE_ENTRIES as taken at the last deploy -/
  cacheEntries : Nat
  /-- list | 02 R55 R56 | empty | responses ready on the ports -/
  ready : List ReadyResp
  /-- list | 02 R55 | empty | datagrams sent, newest first (the model's record of the ports' output) -/
  sent : List SentDatagram
  /-- 4 times | 02 R56 | 0 | earliest instant at which RESP_RATE_MBPS lets each port send again -/
  portFreeAt : List Nat
  /-- 4 counts | 02 R34 R39 | 0 | frames and IP fragments each port has discarded -/
  portDiscards : List Nat
  /-- 65,536 times | 02 R60 | empty | service times of the last responses, newest first -/
  serviceTimes : List Nat
  /-- Nat | 02 R60 | 0 | the TIME64 second in which responsesThis counts -/
  rateSecond : Nat
  /-- Nat | 02 R60 | 0 | responses sent in that second -/
  responsesThis : Nat
  /-- Nat | 02 R60 | 0 | responses sent in the last full second (RATE) -/
  responsesLast : Nat
  deriving DecidableEq, Repr

/-- One entry of a lookup's index list, resolved by the splitter (R75, R76, R78, R79). -/
structure LookupEntry where
  /-- entry number in the index list -/
  pos : Nat
  bag : Nat
  /-- position within its bag (CONCAT) -/
  place : Nat
  table : Nat
  row : Nat
  /-- F16 weight bits, 0 when unweighted -/
  weight : BitVec 16
  /-- home lane 0..383 (32 × stack + channel) -/
  lane : Nat
  /-- re-reads of the row so far (R85) -/
  tries : Nat := 0
  deriving DecidableEq, Repr

/-- A partial result of one bag: how many entries it holds and its F32 elements (R86). -/
structure Partial where
  /-- lane number, stack number, or owner module, according to the list that holds it -/
  source : Nat
  bag : Nat
  n : Nat
  vec : List (BitVec 32)
  deriving DecidableEq, Repr

/-- A CONCAT position already served (R82, R89). -/
structure Placed where
  bag : Nat
  place : Nat
  /-- dequantised F32 elements, or nothing in RAW -/
  vec : List (BitVec 32)
  /-- RAW: the element area and the scale bytes -/
  elems : List Byte
  scales : List Byte
  deriving DecidableEq, Repr

/-- A remote group of a lookup: the entries of one owner module (R96, R98). -/
structure RemoteGroup where
  owner : Nat
  entries : List LookupEntry
  /-- time it was sent, none while held (R91) or not yet handed to the fabric engine -/
  sentAt : Option Nat
  /-- answered, denied or timed out -/
  settled : Bool
  deriving DecidableEq, Repr

/-- A lookup descriptor in flight (R83 to R91). -/
structure LookupJob where
  id : Nat
  core : Nat
  desc : Desc
  org : Origin
  epoch : Nat
  issuedAt : Nat
  spec : Nat
  dim : Nat
  /-- table that sets the shape and formats (R78) -/
  shapeTable : Nat
  /-- entries sent and not yet served, in list order -/
  toServe : List LookupEntry
  /-- entries parked behind a page fault (lane and entry), in list order -/
  parked : List LookupEntry
  lanePartials : List Partial
  stackPartials : List Partial
  placed : List Placed
  remote : List RemoteGroup
  /-- bags whose output is written -/
  written : List Nat
  released : Nat
  torn : Nat
  sat : Nat
  oor : Nat
  misses : Nat
  rowsRead : Nat
  retries : Nat
  timedOut : Bool
  denied : Bool
  /-- issued by the fabric engine for another module: (peer, op number) (R97) -/
  serves : Option (Nat × Nat)
  /-- tables that its list names (R102) -/
  tables : List Nat := []
  deriving DecidableEq, Repr

/-- One defined embedding table: its 64-byte descriptor with the M fields filled (R70, R74). -/
structure Table where
  desc : BitVec 512
  /-- a TABLE_DELETE is waiting (R102, R133) -/
  deleting : Bool
  /-- requester whose command status the deletion completes -/
  context : Nat
  deriving DecidableEq, Repr

/-- A row-cache line: the row it holds and the consecutive ways it takes (R77). -/
structure CacheLine where
  channel : Nat
  set : Nat
  way : Nat
  ways : Nat
  table : Nat
  row : Nat
  lastUse : Nat
  deriving DecidableEq, Repr

/-- Embedding lookup (03). -/
structure Lookup where
  /-- 4,096 tables, sparse by TABLE_ID | 03 R70 | none | tables defined -/
  tables : List (Nat × Table)
  /-- list | 03 R77 | empty | row-cache lines that hold a row -/
  rowCache : List CacheLine
  /-- 8 bits | 03 R77 R103 | 0 | ROW_CACHE_GB as taken at the last deploy -/
  rowCacheGb : Nat
  /-- list | 03 R83 | empty | lookup descriptors in flight -/
  jobs : List LookupJob
  /-- Nat | 03 R83 | 0 | number of the next lookup -/
  nextId : Nat
  /-- Nat | 03 R77 | 0 | use counter for least-recently-used replacement -/
  useClock : Nat
  deriving DecidableEq, Repr

/-- A row held in a stack's update log through its redirect index (R115, R120, R121). -/
structure StagedRow where
  /-- local batch 1..16, or 16 + the number of a remote batch -/
  batch : Nat
  table : Nat
  row : Nat
  lane : Nat
  data : List Byte
  deriving DecidableEq, Repr

/-- A row of the current epoch that was published by a commit (R119 to R121). -/
structure CommittedRow where
  /-- the epoch whose content `data` is -/
  epoch : Nat
  table : Nat
  row : Nat
  lane : Nat
  data : List Byte
  /-- the background copy has moved the row into its slot -/
  copied : Bool
  /-- chunks of the background copy applied so far -/
  chunks : Nat
  /-- former content, kept for readers of epoch − 1 -/
  preImage : Option (List Byte)
  deriving DecidableEq, Repr

/-- One row of a write descriptor on its way to its home lane. -/
structure RowJob where
  pos : Nat
  table : Nat
  row : Nat
  lane : Nat
  data : List Byte
  /-- chunks of an immediate write applied so far (R113) -/
  chunks : Nat
  /-- the odd version word w stored with the first chunk -/
  word : Nat
  /-- since when the row is deferred (R116) -/
  deferredAt : Option Nat
  deriving DecidableEq, Repr

/-- A write descriptor in flight (R109 to R131). -/
structure WriteJob where
  id : Nat
  core : Nat
  desc : Desc
  org : Origin
  cls : PortClass
  issuedAt : Nat
  /-- rows sent to their lanes and not yet applied or staged, in list order -/
  rows : List RowJob
  applied : Nat
  oor : Nat
  deferred : Nat
  /-- rows sent to owners and not yet confirmed: owner and number of rows -/
  remotePending : List (Nat × Nat)
  /-- BATCH_COMMIT: waiting for readers since issue (R118) -/
  waiting : Bool
  /-- BATCH_COMMIT: the local epoch published, while owners' confirmations are awaited, with rows and time -/
  published : Option (Nat × Nat × Nat)
  /-- owners whose commit confirmation is awaited (R131) -/
  owners : List Nat
  status : Nat
  reason : Nat
  /-- held in the splitter under this speculation ID (R127); 0 = none -/
  held : Nat
  /-- its lists wait for a page: its place in the order is kept (R111) -/
  stalled : Bool := false
  /-- since when a commit waits for readers (R118) -/
  waitFrom : Nat := 0
  /-- the opening of the batch that took it (R117) -/
  opening : Nat := 0
  deriving DecidableEq, Repr

/-- An open batch (R117). -/
structure Batch where
  num : Nat
  cls : PortClass
  accepting : Bool
  /-- owners that hold remote rows of it, with their count (R129) -/
  owners : List (Nat × Nat)
  /-- number of the BATCH_OPEN that opened it: a batch opened again under its number is another batch -/
  opening : Nat := 0
  /-- rows confirmed by owners: owner, table and row (R110) -/
  remoteRows : List (Nat × Nat × Nat) := []
  deriving DecidableEq, Repr

/-- A remote batch held for another module (R129, R130). -/
structure RemoteBatch where
  num : Nat
  peer : Nat
  /-- the requester's batch number -/
  batch : Nat
  /-- rows staged in it -/
  rows : Nat := 0
  deriving DecidableEq, Repr

/-- Table updates (04). -/
structure Updates where
  /-- 16 batches | 04 R117 | none open | open batches -/
  batches : List Batch
  /-- up to 15 | 04 R129 | none | remote batches held for other modules -/
  remoteBatches : List RemoteBatch
  /-- 262,144 index entries per stack | 04 R115 | empty | staged rows in the redirect indexes and update logs -/
  staged : List StagedRow
  /-- as above | 04 R120 R121 R123 | empty | committed rows with their pre-images -/
  committed : List CommittedRow
  /-- 64 bits | 04 R135 | 1 | CURRENT_EPOCH -/
  epoch : Nat
  /-- list | 04 R109 | empty | write descriptors in flight -/
  jobs : List WriteJob
  /-- Nat | 04 | 0 | number of the next write descriptor -/
  nextId : Nat
  /-- Nat | 04 R135 | 256 | UPDATE_LOG_MB as taken at the last deploy -/
  logMb : Nat
  /-- rows left with an odd version word by a restart | 04 R132 | empty | table and row -/
  cutRows : List (Nat × Nat)
  deriving DecidableEq, Repr

/-- A matrix descriptor in a core's tile queue (R144, R152). -/
structure TileEntry where
  /-- order of decode in the core's tile queue -/
  num : Nat
  desc : Desc
  org : Origin
  /-- tiles already streamed in the current pass (R153) -/
  tile : Nat
  /-- its last tile of the current pass has streamed -/
  done : Bool
  /-- stopped at a tile boundary by a switch to another queue (R153) -/
  preempted : Bool
  /-- blocks of its next tile that it had loaded from a weight ring when the shadows were taken from it; empty: none
  (log 25) -/
  loaded : List (List Byte)
  deriving DecidableEq, Repr

/-- An open accumulation chain (R150 to R156, R190 to R195). -/
structure Chain where
  accBase : Nat
  m : Nat
  mask : Nat
  actFmt : Nat
  wFmt : Nat
  group : Nat
  scaleFmt : Nat
  spec : Nat
  org : Origin
  /-- descriptors of the chain, oldest first, with the tiles streamed of each in this pass -/
  descs : List TileEntry
  /-- products accumulated per output element in this pass (R154, R192) -/
  products : Nat
  /-- replay shift of this pass: 0, 16 or 32 -/
  shift : Nat
  /-- passes begun after the first -/
  replays : Nat
  /-- an addition of this pass overflowed (R155) -/
  overflow : Bool
  /-- the pass with shift 32 overflowed (R191) -/
  overflowFinal : Bool
  /-- partial group sums, one per array, column and vector, exact (R183) -/
  groupReg : List (Nat × (FVal × FVal))
  /-- array-clock cycle of the first vector read of this pass -/
  firstRead : Option Nat
  lastRead : Nat
  waits : Nat
  /-- weight ring that the chain reads (number of its transfer) and the ring's first stream tile of the chain (R269,
  R270) -/
  rings : List (Nat × Nat)
  deriving DecidableEq, Repr

/-- The matrix side of one core (05). -/
structure CoreMatrix where
  /-- ring of TILE_RING_ENTRIES | 05 R152 | empty | open chains (at most 16), each with its descriptors of the tile queue in order -/
  chains : List Chain
  /-- 4 × 512 × 32 × 48 bits, sparse, key (array × 512 + entry) × 32 + column | 05 R150 R169 | all zero | accumulator files -/
  acc : List (Nat × BitVec 48)
  /-- 4 weight blocks | 05 R137 R142 | DESIGN CHOICE empty (log 4) | active weights of each array -/
  active : List (List Byte)
  /-- 4 weight blocks | 05 R137 R142 | DESIGN CHOICE empty (log 4) | shadow weights of each array -/
  shadow : List (List Byte)
  /-- decode number of the descriptor and tile whose blocks the shadows hold | 05 R142 | none | shadow tag -/
  shadowTag : Option (Nat × Nat)
  /-- Nat | 05 R143 | 0 | array-clock cycle up to which the activation stream is taken -/
  clock : Nat
  /-- array-clock cycle at which the running shadow load is complete | 05 R142 | 0 -/
  loadDone : Nat
  /-- TIME64 | 09 R268 | none | since when the sequencer waits for a weight ring's progress -/
  ringWaitSince : Option Nat
  /-- Nat | 05 R145 | 0 | array-clock cycle before which no descriptor with DEP reads its first vector -/
  writtenAt : Nat
  /-- Bool | 05 R164 | 0 | CORE_FAILED -/
  failed : Bool
  /-- 64 banks, sparse: bank, spares in use | 05 R162 R163 R167 | DESIGN CHOICE none, fused (log 2) | SPARES_USED is their sum -/
  sparesUsed : List (Nat × Nat)
  /-- bank, row | 05 R163 R167 | none | rows queued for soft repair (REPAIR_PENDING) -/
  repairPending : List (Nat × Nat)
  /-- (bank, row), count | 05 R163 | none | corrected errors per core-SRAM row -/
  rowErrors : List ((Nat × Nat) × Nat)
  deriving DecidableEq, Repr

/-- A task running on a control core (R232, R294). -/
structure TaskRec where
  id : Nat
  /-- launch and stage it belongs to -/
  launch : Option Nat
  stage : Nat
  /-- fetched command it belongs to (TASK, KERNEL) -/
  cmd : Option Nat
  queue : Nat
  context : Nat
  graph : Nat
  version : Nat
  spec : Nat
  startedAt : Nat
  /-- persistent task of a direct queue (R316) -/
  persistent : Bool
  /-- append stage or one it depends on, kept by R54 -/
  kept : Bool
  deriving DecidableEq, Repr

/-- A HSIG or RESOLVE held while the task is speculative (R237). -/
inductive HeldEffect where
  | hsig (addr : Nat) (isLocal : Bool) (store : Bool) (operand : BitVec 64)
  | resolve (branch : Nat) (outcome : BitVec 64)
  deriving DecidableEq, Repr

/-- The top-k unit (R220). -/
structure TopK where
  isSet : Bool
  k : Nat
  floor : BitVec 32
  /-- (score, position) in rank order -/
  entries : List (BitVec 32 × BitVec 32)
  deriving DecidableEq, Repr

/-- A vector instruction in the vector queue: its word, with the pc, the integer operands, VL and VFMT of its issue. -/
structure VqInstr where
  word : BitVec 32
  pc : BitVec 64
  a : BitVec 64
  b : BitVec 64
  vl : Nat
  vfmt : Nat
  deriving DecidableEq, Repr

/-- An entry of the vector queue: a vector tensor descriptor, or an instruction behind one (R205, R226). -/
inductive VqEntry where
  | tensor (desc : Desc) (org : Origin)
  | instr (i : VqInstr)
  deriving DecidableEq, Repr

/-- The vector engine of one core (R205). -/
structure CoreVector where
  /-- 32 × 4,096 bits (a quarter on the Bivouac) | 07 R205 R208 R232 | DESIGN CHOICE 0 (log 4); a free value at task start (log 5) | v0 to v31 -/
  v : List (BitVec 4096)
  /-- 0 to 1,024 | 07 R205 R216 | 0 | VL -/
  vl : Nat
  /-- 4 bits | 07 R205 R216 | 0x7 | VFMT -/
  vfmt : Nat
  /-- 8 × 64 bits | 07 R205 R223 R232 | 0 | summary slots -/
  slots : List (BitVec 64)
  /-- (k, floor, up to 512 entries) | 07 R220 | empty, not set | top-k unit -/
  topk : TopK
  /-- 16 entries | 07 R205 R226 | empty | the vector queue: vector tensor descriptors, and the instructions behind them -/
  vqueue : List VqEntry
  deriving DecidableEq, Repr

/-- The control core of one core (R216, R232 to R238). -/
structure CoreControl where
  /-- 32 × 64 bits, x0 reads 0 | 07 R216 R232 | DESIGN CHOICE 0 (log 4); a free value at task start (log 5) | x0 to x31 -/
  x : List (BitVec 64)
  /-- 64 bits | 07 R232 R233 | DESIGN CHOICE 0 (log 4); the entry address at task start | pc -/
  pc : BitVec 64
  /-- 64 bits | 07 R216 | PRESUMED 0x1800, MPP = 3 (log 6) | mstatus -/
  mstatus : BitVec 64
  /-- 64 bits | 07 R216 R232 | 0 | mie -/
  mie : BitVec 64
  /-- 64 bits, of which bits 7 and 16 | 07 R234 | 0 | mip -/
  mip : BitVec 64
  /-- 64 bits | 07 R216 R234 | PRESUMED 0 (log 6) | mtvec -/
  mtvec : BitVec 64
  /-- 64 bits | 07 R216 | PRESUMED 0 (log 6) | mscratch -/
  mscratch : BitVec 64
  /-- 64 bits | 07 R216 | PRESUMED 0 (log 6) | mepc -/
  mepc : BitVec 64
  /-- 64 bits | 07 R216 | PRESUMED 0 (log 6) | mcause -/
  mcause : BitVec 64
  /-- 64 bits | 07 R216 | PRESUMED 0 (log 6) | mtval -/
  mtval : BitVec 64
  /-- 64 bits | 07 R216 | PRESUMED 0 (log 6) | mcycle -/
  mcycle : BitVec 64
  /-- 64 bits | 07 R216 | PRESUMED 0 (log 6) | minstret -/
  minstret : BitVec 64
  /-- 32 bits | 07 R216 | PRESUMED 0 (log 6) | mcountinhibit -/
  mcountinhibit : BitVec 64
  /-- 16 bits | 07 R216 | 0 | SPECID -/
  specid : Nat
  /-- 2 × 32 bits | 07 R216 | 0 | VSAT: elements saturated, NaNs converted -/
  vsatSat : Nat
  vsatNan : Nat
  /-- 64 bits | 07 R216 | all ones | HMASK -/
  hmask : BitVec 64
  /-- 64 bits | 07 R216 | all ones | TIMECMP -/
  timecmp : BitVec 64
  /-- address and width | 07 R216 (RV64A) | none | load-reserved reservation -/
  reservation : Option (Nat × Nat)
  /-- list | 07 R237 | empty | HSIG and RESOLVE held, in program order, each with its speculation ID (0 once committed)
  and where it comes from -/
  held : List (Nat × Origin × HeldEffect)
  /-- task | 07 R232 | none | the task running -/
  task : Option TaskRec
  /-- 3 bits | 07 R230 | 0 | CC_STATE -/
  ccState : Nat
  /-- 64 bits | 07 R230 | 0 | TASKS_RUN -/
  tasksRun : Nat
  /-- (graph, version) | 07 R233 | none | version of the previous task; a change invalidates the instruction cache -/
  icacheTag : Option (Nat × Nat)
  /-- descriptors passed by EISSUE and not yet taken by their engine | 07 R214 | empty -/
  issued : List (Desc × Origin)
  deriving DecidableEq, Repr

/-- A resident session (R243, R244). -/
structure Session where
  id : Nat
  context : Nat
  /-- device virtual address of ring block 0 -/
  base : Nat
  blocks : Nat
  dk : Nat
  dv : Nat
  heads : Nat
  /-- APPENDED, whose Hitch object stands in the session pool (log 164) -/
  appended : Nat
  lastRequest : Nat
  closeMark : Bool
  /-- session block number and the graph version, as GRAPH_ID × 2^16 + version, under which its state was folded (R251) -/
  folded : List (Nat × Nat)
  deriving DecidableEq, Repr

/-- A pending join (R253). -/
structure PendingJoin where
  session : Nat
  context : Nat
  graph : Nat
  /-- held events, oldest first, at most JOIN_HOLD_EVENTS -/
  events : List (BitVec 128)
  lastRequest : Nat
  /-- completed with DEFERRED at least once (R254) -/
  deferred : Bool
  deriving DecidableEq, Repr

/-- One segment of a summary: its core and its events, and the state it sends (R248). -/
structure Segment where
  core : Nat
  /-- first and last + 1 of the window's blocks, the inline events' after the session's -/
  first : Nat
  last : Nat
  /-- per head (m, l, o) once the pass is done -/
  result : Option (List (BitVec 32 × BitVec 32 × List (BitVec 32)))
  /-- merged from the stored block state (R251) -/
  fromState : Bool
  deriving DecidableEq, Repr

/-- The query that a context's folds use: its descriptor, and the weight and scale bytes read at its decode (R251; log 33). -/
structure FoldQuery where
  context : Nat
  graph : Nat
  version : Nat
  core : Nat
  desc : Desc
  weights : List Byte
  scales : List Byte
  deriving DecidableEq, Repr

/-- A summary in flight (R247 to R250). -/
structure SummaryJob where
  id : Nat
  core : Nat
  desc : Desc
  org : Origin
  session : Nat
  spec : Nat
  appended : Nat
  /-- events of the window taken from the session -/
  events : Nat
  inline : Nat
  segments : List Segment
  blocksRecomputed : Nat
  decodedAt : Nat
  /-- its query, for the folds of its context once it completes (R251, R252) -/
  query : Option FoldQuery
  deriving DecidableEq, Repr

/-- An append of a launch that waits or is being written (R244, R245). -/
structure AppendJob where
  launch : Nat
  stage : Nat
  context : Nat
  session : Nat
  events : List (BitVec 128)
  /-- events already written to the event plane -/
  written : Nat
  waiting : Bool
  /-- the encoder's tasks have been dispatched -/
  encoding : Bool
  deriving DecidableEq, Repr

/-- User-history sequences (08). -/
structure Sequences where
  /-- list | 08 R243 R244 | empty | resident sessions, the running batch -/
  sessions : List Session
  /-- list | 08 R253 | empty | pending joins in arrival order -/
  joins : List PendingJoin
  /-- list | 08 R247 | empty | summaries in flight -/
  summaries : List SummaryJob
  /-- list | 08 R244 R245 | empty | appends in progress -/
  appends : List AppendJob
  /-- list | 08 R251 | none | the last BLOCKED summary of each context's current version, whose query and SCORE_SCALE the folds
  use (log 33) -/
  queries : List FoldQuery
  /-- (SPEC_ID, query) | 08 R252 | none | queries of speculative summaries, which a commit puts in force and a squash drops -/
  heldQueries : List (Nat × FoldQuery)
  /-- Nat | 08 R259 | 0 | SESSION_POOL_GB as taken at the last deploy, in bytes -/
  poolBytes : Nat
  /-- device virtual address | 08 R243 | 0 | start of the session pool -/
  poolBase : Nat
  /-- 64 bits | 08 R259 | 0 | POOL_FREE_BYTES, free pool at the last step start -/
  poolFree : Nat
  /-- TIME64 | 08 R252 | 0 | start of the last step -/
  lastStep : Nat
  /-- Nat | 08 | 0 | number of the next summary -/
  nextId : Nat
  deriving DecidableEq, Repr

/-- A member of a Caravan stream (R276 to R280). -/
structure Member where
  core : Nat
  /-- tiles delivered to this member -/
  delivered : Nat
  attached : Bool
  /-- tiles its sequencer has loaded from the weight ring (R268) -/
  ringLoads : Nat
  /-- Dray of its core whose catch-up fetch has faulted (R271, R280) -/
  faulted : Option Nat
  /-- its weight ring has yet to become active: its core held four when the stream started (R268) -/
  ringWaits : Bool := false
  deriving DecidableEq, Repr

/-- A transfer or Caravan stream, queued or running (R262 to R284). -/
structure Transfer where
  id : Nat
  core : Nat
  desc : Desc
  org : Origin
  spec : Nat
  issuedAt : Nat
  /-- left the Dray queue -/
  running : Bool
  startedAt : Nat
  /-- tiles requested so far: the next tile to request -/
  requested : Nat
  /-- tiles delivered in order, the value of the progress count -/
  delivered : Nat
  /-- tiles in flight -/
  inFlight : List Nat
  /-- tile whose access faulted (R271) -/
  faultTile : Option Nat
  faultResumes : Nat
  rewinds : Nat
  members : List Member
  memberCount : Nat
  detached : Nat
  catchup : Nat
  /-- held until its speculation ID commits (R272) -/
  held : Bool
  /-- tiles the sequencer has loaded from the weight ring (R268) -/
  ringLoads : Nat
  /-- waiting for one of the core's four weight rings (R268) -/
  ringWait : Bool
  /-- TIME64 second of the detachments not yet recorded, their number and their lowest core (R281) -/
  detSecond : Nat
  detCount : Nat
  detLow : Nat
  /-- TIME64 of the last of them -/
  detAt : Nat
  /-- Dray 0 to 3 of the core that runs it; 4 while a rewound transfer waits for one (R270) -/
  dray : Nat
  /-- since when it waits for a release or for a weight ring (R266, R268) -/
  waitSince : Option Nat
  /-- fabric pieces received and not yet delivered: tile, offset in the tile, bytes (R466) -/
  buf : List (Nat × Nat × List Byte)
  /-- tiles in flight whose fabric STOREs are sent -/
  storing : List Nat
  /-- its status record is written; a weight ring stays until its tiles are loaded (log 24) -/
  done : Bool
  /-- stopped by a squash or exit after the tiles in flight (R272) -/
  stopping : Bool
  /-- tile at which a fabric operation has failed: nothing from it on is delivered (R468) -/
  failed : Option Nat
  /-- completed once before a rewind (R270) -/
  recorded : Bool
  /-- status so far: OK, DENIED or TIMEOUT of fabric addresses -/
  status : Nat
  deriving DecidableEq, Repr

/-- Drays and Caravan (09). -/
structure Streaming where
  /-- list | 09 R261 R276 | empty | transfers and streams in the Dray queues or running, in issue order -/
  transfers : List Transfer
  /-- Nat | 09 | 0 | number of the next transfer -/
  nextId : Nat
  /-- (launch, stage) whose prologue has been issued | 09 R275 | none -/
  prologues : List (Nat × Nat)
  deriving DecidableEq, Repr

/-- Progress of a fetched command (R300, R301). -/
inductive CmdPhase where
  | fetched
  /-- its wait is not met: start of the wait and last value seen (R308, R309) -/
  | waiting (since : Nat) (lastSeen : BitVec 64)
  | dispatched
  | finished
  deriving DecidableEq, Repr

/-- A fetched command (R293, R302, and R341 for the legacy interface). -/
structure Cmd where
  id : Nat
  queue : Nat
  /-- slot count modulo 2^32 -/
  count : Nat
  words : BitVec 512
  ext : List (BitVec 512)
  cls : PortClass
  /-- format v2 command of the legacy interface -/
  legacy : Bool
  fetchedAt : Nat
  phase : CmdPhase
  status : Nat
  reason : Nat
  result : BitVec 64
  saturated : Bool
  boundVoid : Bool
  torn : Bool
  /-- admitted request whose launch it is (R51) -/
  request : Option Nat
  /-- core and status-record address of a DESCRIPTOR; legacy DMA holds up to two -/
  watching : List (Nat × Nat)
  /-- its records, signals and interrupts bound for host memory are dropped: its queue was disabled by a function-level
  reset (R449) -/
  drop : Bool := false
  /-- its signal: 0 not applied, 1 sent over the fabric and not acknowledged, 2 applied -/
  signal : Nat := 0
  /-- a write to the object it waits on has met its wait (R308) -/
  met : Bool := false
  /-- its object lay in host memory when it was last read: the value last seen is that of the last poll (R308) -/
  polled : Bool := false
  deriving DecidableEq, Repr

/-- Run state of one queue (R291, R297, R298, R302, R304). -/
structure Queue where
  /-- 3 bits | 10 R291 | 0 OFF | STATE -/
  state : Nat
  /-- 32 bits | 10 R297 | DESIGN CHOICE 0 (log 4) | TAIL -/
  tail : Nat
  /-- 32 bits | 10 R291 | 0 | HEAD, slots consumed -/
  head : Nat
  /-- 32 bits | 10 R297 | DESIGN CHOICE 0 (log 4) | CQ_HEAD -/
  cqHead : Nat
  /-- 32 bits | 10 R302 | 0 | completion records written -/
  written : Nat
  /-- list | 10 R304 | empty | completions held by a full ring, in order (command ids) -/
  held : List Cmd
  /-- list | 10 R298 | empty | fetched commands not yet completed, in count order -/
  cmds : List Cmd
  /-- 0 to 64 | 10 R298 | none | re-reads of the stale slot at HEAD; 64: given up until the next TAIL write; none when no slot is
  held -/
  staleReads : Option Nat
  /-- TIME64 | 10 R298 | 0 | last read of the stale slot -/
  staleAt : Nat := 0
  /-- device virtual | 10 R291 | 0 | rings the module allocated (REQUEST, INTERNAL) -/
  ringAlloc : Nat
  complAlloc : Nat
  ringBytes : Nat
  /-- Nat | 11 R325 | 0 | launches begun on the queue -/
  begun : Nat := 0
  deriving DecidableEq, Repr

/-- A weight segment of a graph version (Table 10.9). -/
structure WeightSegment where
  offset : Nat
  bytes : Nat
  /-- staging-resident, else core-resident -/
  staging : Bool
  target : Nat
  data : List Byte
  deriving DecidableEq, Repr

/-- A graph version (R310 to R315). -/
structure GraphVersion where
  num : Nat
  /-- running launches bound to it -/
  running : Nat
  stages : List (BitVec 256)
  code : List Byte
  weights : List WeightSegment
  featureMap : List Byte
  coreSets : List (BitVec 96)
  groups : List (BitVec 96)
  exits : List Nat
  /-- SEQUENCE section: WINDOW, DK, DV, heads, key format -/
  sequence : Option (Nat × Nat × Nat × Nat × Nat)
  /-- SPEC_REGIONS entries (Table 11.1) -/
  regions : List (BitVec 128)
  imageBytes : Nat
  /-- the resident segments are in place (R283) -/
  loaded : Bool
  /-- a page that holds its code or segments was lost, or an error in it went undetected (R383, R422, R531) -/
  damaged : Bool := false
  /-- integrity tags computed when it was loaded: of its code section, then of each resident segment (R531) -/
  tags : List (BitVec 256) := []
  /-- version whose code it shares: its own, unless a patch left it out (R314) -/
  codeNum : Nat := num
  deriving DecidableEq, Repr

/-- A graph (R599). -/
structure Graph where
  id : Nat
  /-- owning resident context -/
  context : Nat
  current : Nat
  versions : List GraphVersion
  /-- versions created so far -/
  created : Nat
  launches : Nat
  unloading : Bool
  /-- command of the GRAPH_UNLOAD in progress: (queue, id) -/
  unloadCmd : Option (Nat × Nat)
  /-- command of the GRAPH_LOAD in progress -/
  loadCmd : Option (Nat × Nat)
  /-- number of the command that loaded it: a graph loaded again under its GRAPH_ID is another graph -/
  stamp : Nat := 0
  deriving DecidableEq, Repr

/-- A patch that waits for a version slot (R314). -/
structure PatchWait where
  queue : Nat
  cmd : Nat
  graph : Nat
  since : Nat
  deriving DecidableEq, Repr

/-- State of one stage of a launch (R289). -/
inductive StagePhase where
  | waiting
  /-- dispatched; the cores whose task has not yet ended -/
  | running (cores : List Nat)
  /-- every task ended, but still speculative -/
  | ended
  | committed
  | skipped
  /-- stopped by an exit timer or a squash -/
  | stopped
  deriving DecidableEq, Repr

structure StageState where
  num : Nat
  phase : StagePhase
  /-- speculation ID under which it was dispatched, 0 none -/
  spec : Nat
  dispatchedAt : Nat
  /-- when it committed; measured for exit points (Table 2.11) -/
  committedAt : Nat := 0
  /-- it has been dispatched ahead, and not squashed since (R321) -/
  ahead : Bool := false
  deriving DecidableEq, Repr

/-- A launch (R289, R295, R315). -/
structure Launch where
  id : Nat
  graph : Nat
  version : Nat
  epoch : Nat
  context : Nat
  queue : Nat
  /-- launch number of the graph, from 1 -/
  number : Nat
  /-- command that started it -/
  cmd : Option Nat
  request : Option Nat
  session : Nat
  stages : List StageState
  /-- branch outcomes resolved: (branch, outcome), first wins (R224) -/
  resolved : List (Nat × BitVec 64)
  args : List Byte
  /-- staging-SRAM offset of the argument block -/
  argAt : Nat
  startedAt : Nat
  saturated : Bool
  boundVoid : Bool
  torn : Bool
  /-- an exit timer has stopped it (R52) -/
  exited : Bool
  legacy : Bool
  /-- it runs on the Bivouac's cores (R522) -/
  biv : Bool := false
  /-- its place among the launches begun on its queue (R325) -/
  order : Nat := 0
  deriving DecidableEq, Repr

/-- A task handed to a core and not yet started (R232, R288). -/
structure PendingTask where
  core : Nat
  entry : Nat
  arg : BitVec 64
  launchWord : BitVec 64
  task : TaskRec
  deriving DecidableEq, Repr

/-- A HWAIT in progress on a core (R214, R308, R309). -/
structure CoreWait where
  core : Nat
  addr : Nat
  isLocal : Bool
  cond : Nat
  threshold : BitVec 64
  mask : BitVec 64
  since : Nat
  lastSeen : BitVec 64
  /-- a write to its object has met it (R308) -/
  met : Bool := false
  /-- its object lay in host memory when it was last read: the value last seen is that of the last poll (R308) -/
  polled : Bool := false
  deriving DecidableEq, Repr

/-- The Postilion, queues, graphs and launches (10). -/
structure Dispatch where
  /-- 64 queues | 10 R290 R291 | OFF | run state of Q[0..63] -/
  queues : List Queue
  /-- up to 1,024 | 10 R599 | none | graphs -/
  graphs : List Graph
  /-- list | 10 R289 | empty | launches running -/
  launches : List Launch
  /-- list | 10 R314 | empty | patches waiting for a version slot -/
  patchWaits : List PatchWait
  /-- list | 10 R232 R288 | empty | tasks dispatched to cores and not yet started; also work held for a group that is not on (R29) -/
  tasks : List PendingTask
  /-- list | 10 R308 | empty | HWAIT entries of the watch table -/
  coreWaits : List CoreWait
  /-- 2 bits | 10 R319 | 0 | POSTILION_STATE -/
  postilionState : Nat
  /-- Nat | 10 | 0 | numbers of the next command, launch and task -/
  nextCmd : Nat
  nextLaunch : Nat
  nextTask : Nat
  /-- TIME64 | 10 R308 | 0 | last poll of host-memory Hitch objects -/
  lastPoll : Nat
  deriving DecidableEq, Repr

/-- A prediction-table entry (R323), most recently used first in the table. -/
structure Prediction where
  queue : Nat
  graph : Nat
  branch : Nat
  outcome : BitVec 32
  deriving DecidableEq, Repr

/-- A live speculation ID (R324, R326). -/
structure SpecId where
  id : Nat
  /-- the open predictions it stands for: (launch, branch, predicted outcome) -/
  set : List (Nat × Nat × BitVec 32)
  queue : Nat
  /-- squashed and waiting for its agents to stop (R329) -/
  squashed : Bool
  /-- it covers a stage that R54 keeps -/
  kept : Bool
  /-- lookup entries served for its descriptors that have ended, and core cycles of its tasks that have ended (R337) -/
  rows : Nat := 0
  cycles : Nat := 0
  deriving DecidableEq, Repr

/-- A provisional range (R327): in the table of core `place` or, for staging, of die `place`. -/
structure ProvRange where
  spec : Nat
  staging : Bool
  place : Nat
  offset : Nat
  length : Nat
  deriving DecidableEq, Repr

/-- A store to HBM4E, the cold tier or host memory held under an ID (Table 11.2). -/
structure HeldStore where
  spec : Nat
  addr : Nat
  bytes : List Byte
  deriving DecidableEq, Repr

/-- Run-ahead (11). -/
structure RunAhead where
  /-- 4,096 entries | 11 R323 | empty | prediction table, most recently used first -/
  predictions : List Prediction
  /-- up to 64 | 11 R324 | none | live speculation IDs -/
  ids : List SpecId
  /-- 16 bits | 11 R324 | DESIGN CHOICE 0 (log 4) | counter from which IDs are allocated -/
  nextId : Nat
  /-- 8 per core, 32 per die | 11 R327 | empty | range tables -/
  ranges : List ProvRange
  /-- list | 11 R330 | empty | held stores, oldest first -/
  heldStores : List HeldStore
  /-- Waybill records held: (ID, code, INSTANCE and parameters) | 11 R330 | empty -/
  heldRecords : List (Nat × Nat × Nat × List Nat)
  /-- ID, launch, saturated, bound void, torn | 11 R330 | empty | reports for launch records held -/
  heldMarks : List (Nat × Nat × Bool × Bool × Bool)
  /-- launch, branch, outcome | 11 R224 R326 | empty | RESOLVEs on their way to the Postilion, oldest first -/
  resolves : List (Nat × Nat × BitVec 64)
  deriving DecidableEq, Repr

/-- The ST320-compatible queue interface, BAR4 (12). -/
structure Legacy where
  /-- 2 bits | 12 R339 | 0 OFF | LQ_STATUS[1:0] and LEGACY_STATE -/
  state : Nat
  /-- 64 bits | 12 R339 | 0 | LQ_CTRL, of which bit 0 -/
  ctrl : BitVec 64
  /-- 64 bits | 12 R339 | 0 | SQ_BASE -/
  sqBase : BitVec 64
  /-- 64 bits | 12 R339 | 0 | SQ_DEPTH -/
  sqDepth : BitVec 64
  /-- 64 bits | 12 R339 | 0 | CQ_BASE -/
  cqBase : BitVec 64
  /-- 64 bits | 12 R339 | 0 | CQ_DEPTH -/
  cqDepth : BitVec 64
  /-- 64 bits, of which 7 | 12 R339 | 0 | LQ_MSIX -/
  msix : BitVec 64
  /-- 32 bits | 12 R339 | DESIGN CHOICE 0, write-only (log 4) | SQ_TAIL -/
  sqTail : Nat
  /-- 32 bits | 12 R339 | DESIGN CHOICE 0, write-only (log 4) | CQ_HEAD -/
  cqHead : Nat
  /-- 32 bits | 12 R339 | 0 | SQ_HEAD, slots fetched -/
  sqHead : Nat
  /-- 32 bits | 12 R348 | 0 | completion records written -/
  written : Nat
  /-- list, up to 512 | 12 R346 | empty | legacy commands in flight, in count order -/
  cmds : List Cmd
  /-- list | 12 R340 R304 | empty | completions held by a full ring -/
  held : List Cmd
  /-- as Queue.staleReads | 12 R340 | none -/
  staleReads : Option Nat
  /-- TIME64 | 12 R340 | 0 | last read of the stale slot -/
  staleAt : Nat := 0
  deriving DecidableEq, Repr

/-- A resident context (R356, R357). -/
structure Ctx where
  num : Nat
  cgMask : BitVec 16
  sramBase : Nat
  sramBytes : Nat
  stagingBase : Nat
  stagingBytes : Nat
  accBase : Nat
  accEntries : Nat
  hbmQuota : Nat
  hbmUsed : Nat
  coldQuota : Nat
  coldUsed : Nat
  /-- resident segments are in place on the cores (R283) -/
  segmentsLoaded : Bool
  deriving DecidableEq, Repr

/-- Debt of a queue on a core group (R367). -/
structure Debt where
  queue : Nat
  cg : Nat
  amount : Nat
  /-- instant from which it is being paid, none while waiting for the queue's next reservation -/
  payFrom : Option Nat
  deriving DecidableEq, Repr

/-- Work of a queue that is to end on a core (R365, R366). -/
structure Outgoing where
  core : Nat
  queue : Nat
  /-- instant of the change -/
  since : Nat
  /-- a return of a lent core (R364), which creates no debt -/
  reclaim : Bool
  deriving DecidableEq, Repr

/-- Jobs and the schedule (13). -/
structure Job where
  /-- 3 bits | 13 R353 | 0 NONE | JOB_STATE -/
  state : Nat
  /-- 64 bits | 13 R373 | 0 | JOB_TAG -/
  tag : BitVec 64
  /-- Bool | 13 R353 | 0 | the job is sealed -/
  sealed_ : Bool
  /-- TIME64 | 13 R373 | 0 | DEPLOYED_AT -/
  deployedAt : Nat
  /-- 8 bits | 13 R373 | 0xFF | DEPLOYER -/
  deployer : Nat
  /-- 32 bits | 13 R373 | 0 | RESTARTS -/
  restarts : Nat
  /-- TIME64s | 20 R532 | empty | completion times of recent job restarts, newest first -/
  restartTimes : List Nat
  /-- Nat | 13 R355 | 0 | instant at which the running undeploy began -/
  undeployAt : Nat
  /-- Bool | 13 R353 | 0 | a JOB_UNDEPLOY held until RUNNING -/
  undeployHeld : Bool
  /-- 256 to 4,096 | 05 R152 R166 | 1,024 | TILE_RING_ENTRIES as taken at the last deploy -/
  tileRing : Nat
  /-- 16 contexts | 13 R356 | none | resident contexts created -/
  contexts : List Ctx
  /-- 128 × 16 bytes | 13 R362 | 0 | pending schedule table, sparse by slot -/
  pendingTable : List (Nat × BitVec 128)
  /-- 128 × 16 bytes | 13 R362 | 0 | active schedule table, sparse by slot -/
  activeTable : List (Nat × BitVec 128)
  /-- Bool and the table checked | 13 R363 | 0 | SCHED_PENDING -/
  schedPending : Bool
  /-- 128 × 16 bytes | 13 R363 | none | the table that the pending commit has checked -/
  committedTable : List (Nat × BitVec 128) := []
  /-- Nat | 13 R361 R363 | 0 | the cycle, counted from TIME64 0, in which the pending commit was made -/
  committedIn : Nat := 0
  /-- (slot, 16 bytes) | 13 R363 R366 | (0, 0) | the slot, counted from TIME64 0, at which the last commit was applied, and slot 127 of the table it replaced -/
  replaced : Nat × BitVec 128 := (0, 0)
  /-- Nat | 13 R361 R365 | 0 | the slot, counted from TIME64 0, whose boundary was the last to be carried out -/
  boundaryAt : Nat := 0
  /-- list | 13 R367 | none | debts -/
  debts : List Debt
  /-- per core, the queue whose work it takes | 13 R364 | none -/
  coreQueue : List (Nat × Nat)
  /-- list | 13 R365 R366 | none | work that is to end on a core after a change of queue -/
  outgoing : List Outgoing
  /-- per queue, core-ns dispatched in deficit round robin | 13 R364 | 0 -/
  deficit : List (Nat × Nat)
  /-- (core group, queue, TIME64) | 13 R374 | none | since when the queue of a reservation in force has ready work there -/
  readyFrom : List (Nat × Nat × Nat)
  deriving DecidableEq, Repr

/-- A row counted in a channel's or package's row error table (R384). -/
structure RowError where
  region : Nat
  /-- channel within the stack, or cold-tier package -/
  unit : Nat
  bank : Nat
  row : Nat
  count : Nat
  deriving DecidableEq, Repr

/-- A remapped row (R388 to R390). -/
structure Remap where
  region : Nat
  unit : Nat
  bank : Nat
  row : Nat
  /-- times remapped, 1 or 2 -/
  remaps : Nat
  deriving DecidableEq, Repr

/-- A hard-repair journal entry (R392). -/
structure JournalEntry where
  state : Nat
  region : Nat
  unit : Nat
  /-- cold tier: channel within the package, 0 to 3; HBM4E: the channel again (Table 14.2) -/
  channel : Nat
  bank : Nat
  row : Nat
  attempts : Nat
  time : Nat
  /-- MPA of the row's first granule, for its records (Table 14.2) -/
  mpa : Nat := 0
  deriving DecidableEq, Repr

/-- A frame that a failed row keeps retired until its repair is verified (R390, R393). -/
structure RowFrame where
  region : Nat
  unit : Nat
  bank : Nat
  row : Nat
  frame : Nat
  deriving DecidableEq, Repr

/-- A row that asks to be remapped on the fly (R388, R389): an MPA of the row, whether an uncorrectable error asks for it, and
the SOURCE of the error that does (Table 14.2). -/
structure RowAsk where
  mpa : Nat
  ue : Bool
  source : Nat
  /-- submission of the record of the error that asks -/
  record : Nat
  deriving DecidableEq, Repr

/-- A module-range allocation (R403): pages first..first+count−1, whose frames are taken when first written. -/
structure Extent where
  first : Nat
  count : Nat
  cold : Bool
  rights : Nat
  /-- context charged, none for job-wide structures -/
  context : Option Nat
  /-- what it holds, so that it can be freed -/
  tag : Nat
  deriving DecidableEq, Repr

/-- Frame allocation of one region (R376, R380). -/
structure RegionAlloc where
  /-- lowest frame never yet allocated -/
  next : Nat
  /-- frames freed and available again, newest first -/
  freed : List Nat
  deriving DecidableEq, Repr

/-- HBM4E stacks and the cold tier (14). -/
structure Mem where
  /-- 2^44 MPA bytes, sparse | 14 R376 | DESIGN CHOICE every unlisted byte 0 (log 3) | contents of both tiers under the present key pairs -/
  dram : SMem
  /-- 98 × 4 MiB (512 KiB for 96, 97), key core × 2^23 + offset | 01 R21 | DESIGN CHOICE 0 (log 3) | core SRAM -/
  sram : SMem
  /-- 2 × 64 MiB, key die × 2^26 + offset | 01 R21 | DESIGN CHOICE 0 (log 3) | staging SRAM -/
  staging : SMem
  /-- bus addresses below 2^64 | 15 R404, 16 R442 | DESIGN CHOICE 0 (log 3) | host memory as the module sees it -/
  host : SMem
  /-- 13 regions | 14 R376 R380 | nothing allocated | frame allocation of Stack[0..11] and the cold tier -/
  alloc : List RegionAlloc
  /-- list | 15 R403 | none | module-range allocations -/
  extents : List Extent
  /-- 256 rows per channel or package | 14 R384 | empty | row error tables, most recently raised first -/
  rowErrors : List RowError
  /-- 64 spares per channel, 128 per package | 14 R388 | empty, nonvolatile | remap tables -/
  remaps : List Remap
  /-- 1,024 entries | 14 R392 | empty, nonvolatile | hard-repair journal -/
  journal : List JournalEntry
  /-- (region, frame) | 14 R390 | none, nonvolatile | retired frames -/
  retired : List (Nat × Nat)
  /-- (row, frame) | 14 R390 R393 | none, nonvolatile | the failed rows that keep each retired frame out of use -/
  retiredFor : List RowFrame
  /-- (region, frame) | 14 R393 | none | retired frames whose repair is verified, free at the next deploy -/
  unretire : List (Nat × Nat)
  /-- list | 14 R385 R390 | none | rows to remap or retire in the next job restart: an MPA of the row, and the SOURCE of its failure -/
  failing : List (Nat × Nat)
  /-- 32 bytes | 14 R385 | 0 | LAST_UE -/
  lastUe : BitVec 256
  /-- codeword position in HBM4E and cold tier | 14 R387 | DESIGN CHOICE 0 (log 4) | patrol scrub positions -/
  scrubHbm : Nat
  scrubCold : Nat
  /-- TIME64 | 14 R387 | 0 | start of the current pass of each tier -/
  scrubHbmStart : Nat
  scrubColdStart : Nat
  /-- 2 Bools | 14 R387 | 0 | the current pass of each tier is already counted late -/
  scrubHbmLate : Bool
  scrubColdLate : Bool
  /-- list | 14 R388 R389 | none | rows to be remapped on the fly, in order -/
  remapDue : List RowAsk
  /-- generation numbers of the key pairs: job HBM, job cold | 14 R381 | none | keys of a running job -/
  jobKeys : Option (Nat × Nat)
  /-- generation of the idle key pair | 14 R381 | 0 | key pair outside a job, new at each cold reset -/
  idleKey : Nat
  /-- 2 × 16 bits | 14 R394 | 0 | REPAIR_PROGRESS: done in this run -/
  repairDone : Nat
  /-- stack numbers | 14 R398 | none | stacks whose contents a TEST_PORT_RAW has made unpredictable until the next cold reset -/
  scrambled : List Nat
  deriving DecidableEq, Repr

/-- What a stalled access was doing (R414, R415). -/
structure Waiter where
  agent : Nat
  write : Bool
  atomic : Bool
  deriving DecidableEq, Repr

/-- A pending page fault (R415, R416). -/
structure PendingFault where
  page : Nat
  firstAgent : Nat
  /-- 0 read, 1 write, 2 atomic -/
  access : Nat
  typ : Nat
  spec : Bool
  pte : BitVec 32
  context : Nat
  time : Nat
  waiters : List Nat
  /-- TAG and OPCODE of the first agent's descriptor or command (Table 23.3) -/
  work : Nat × Nat
  /-- in the fault queue, else latched (R417) -/
  queued : Bool
  /-- the record's bytes as they were written, empty while latched -/
  written : List Byte := []
  deriving DecidableEq, Repr

/-- A fault held because its work is speculative (R420). -/
structure HeldFault where
  agent : Nat
  page : Nat
  access : Nat
  spec : Nat
  context : Nat
  /-- TAG and OPCODE of its descriptor (Table 23.3) -/
  work : Nat × Nat
  deriving DecidableEq, Repr

/-- A map record fetched and being executed (R409). -/
structure MapRecord where
  count : Nat
  words : BitVec 256
  /-- bus address of the record, or none for one that came in an owner MAP record -/
  at_ : Option Nat
  cls : PortClass
  deriving DecidableEq, Repr

/-- Address translation (15). -/
structure Xlate where
  /-- 2^40 pages × 32 bits, sparse | 15 R404 R406 | 0 NOT_PRESENT | page table entries -/
  ptes : List (Nat × BitVec 32)
  /-- page, context | 15 R409 | none | context charged for each page allocated by a map record -/
  charged : List (Nat × Nat)
  /-- 392 TLBs × 512 entries: (Dray, page, entry) | 15 R407 | empty | Dray TLBs -/
  drayTlb : List (Nat × Nat × BitVec 32)
  /-- 65,536 entries | 15 R407 | empty | hub TLB -/
  hubTlb : List (Nat × BitVec 32)
  /-- 12 × 32,768 entries: pages | 15 R407 | empty | PTE caches -/
  pteCache : List Nat
  /-- list | 15 R415 | none | pending faults in order of creation -/
  faults : List PendingFault
  /-- list | 15 R420 | none | FAULT_HELD latches -/
  heldFaults : List HeldFault
  /-- agents released and not yet replayed: (agent, page) | 15 R418 | none -/
  released : List (Nat × Nat)
  /-- 32 bits | 15 R425 | 0 | FQ_TAIL, records written -/
  fqTail : Nat
  /-- 32 bits | 15 R416 | DESIGN CHOICE 0 (log 4) | FQ_HEAD -/
  fqHead : Nat
  /-- Bool | 15 R417 | 0 | OVERFLOW of FQ_STATUS -/
  overflow : Bool
  /-- Nat | 15 R425 | 0 | FQ_ENTRIES and FQ_ADDR as taken at the last deploy -/
  fqEntries : Nat
  fqAddr : Nat
  /-- TIME64 | 15 R416 | none | last FAULT_MSIX raised, for merging within 1 µs -/
  lastMsix : Option Nat
  /-- 32 bits | 15 R409 | DESIGN CHOICE 0 (log 4) | MAP_TAIL -/
  mapTail : Nat
  /-- 32 bits | 15 R425 | 0 | MAP_HEAD, records completed -/
  mapHead : Nat
  /-- list | 15 R409 | empty | map records fetched and not yet completed, in order -/
  mapRecords : List MapRecord
  /-- 32 bits | 15 R409 | 0 | slots of the map ring fetched -/
  mapFetched : Nat
  /-- re-reads of a stale slot | 15 R409 R298 | none -/
  mapStale : Option Nat
  /-- TIME64 | 15 R409 R298 | 0 | last read of the map ring's stale slot -/
  mapStaleAt : Nat := 0
  deriving DecidableEq, Repr

/-- Bytes bound for host memory that R447 holds, or a dropped record's kind (R447, R449). -/
structure HeldRecord where
  /-- queue whose work it belongs to, none for the fault queue and events -/
  queue : Option Nat
  addr : Nat
  bytes : List Byte
  /-- a signal that adds to the object at `addr` -/
  addend : Option Nat := none
  /-- an interrupt -/
  vector : Option Nat
  deriving DecidableEq, Repr

/-- A host-memory access of the job's work that R447 holds at the hub. -/
structure HeldAccess where
  agent : Nat
  addr : Nat
  since : Nat
  /-- TAG and OPCODE of its descriptor or command (Table 23.3) -/
  work : Nat × Nat
  deriving DecidableEq, Repr

/-- An MSI-X message the module has sent (R443). -/
structure MsixMessage where
  vector : Nat
  addr : Nat
  data : BitVec 32
  at_ : Nat
  deriving DecidableEq, Repr

/-- The PCIe host interface (16). -/
structure HostIf where
  /-- 64 bits, of which 6 | 16 R431 | 0 | EVENT_CAUSE -/
  eventCause : BitVec 64
  /-- 64 × 64 bits, sparse | 16 R431 | 0 | TAIL of Q[n], last value written -/
  tailReg : List (Nat × BitVec 64)
  /-- 64 × 64 bits, sparse | 16 R431 | 0 | CQ_HEAD of Q[n], last value written -/
  cqHeadReg : List (Nat × BitVec 64)
  /-- 64 bits | 16 R431 | 0 | FQ_HEAD register -/
  fqHeadReg : BitVec 64
  /-- 64 bits | 16 R431 | 0 | MAP_TAIL register -/
  mapTailReg : BitVec 64
  /-- 128 × 64 bits, sparse | 16 R431 R443 | PRESUMED 0 (PCIe; log 7) | MSI-X table: message address -/
  msixAddr : List (Nat × BitVec 64)
  /-- 128 × 32 bits, sparse | 16 R431 R443 | PRESUMED 0 (PCIe; log 7) | MSI-X table: message data -/
  msixData : List (Nat × BitVec 32)
  /-- vectors whose mask bit is 0 | 16 R431 R443 | PRESUMED every vector masked (PCIe; log 7) | MSI-X table: vector control -/
  msixUnmasked : List Nat
  /-- 128 bits, the set ones listed | 16 R431 R443 | 0 | MSI-X pending bit array -/
  msixPending : List Nat
  /-- list | 16 R443 | empty | MSI-X messages sent, newest first (the model's record of the port's output) -/
  msixSent : List MsixMessage
  /-- (vector, TIME64 of the first raise, queue) | 16 R443 | none | raises that IRQ_HOLDOFF_NS merges into one message -/
  holdoff : List (Nat × Nat × Nat)
  /-- Bool | 16 R429 R447 | PRESUMED 0 (PCIe; log 7) | Bus Master Enable -/
  bme : Bool
  /-- Bool | 16 R429 R447 | PRESUMED D0 (PCIe; log 7) | the function is in D3hot -/
  d3hot : Bool
  /-- Bool | 16 R447 R449 | 0 | a function-level reset is in progress -/
  flr : Bool
  /-- Bool | 16 R429 R442 | PRESUMED 0 (PCIe; log 7) | AtomicOp requests enabled by the host -/
  atomicEnable : Bool
  /-- bytes | 16 R435 R451 | 16 GiB (BAR2_RESET_GIB) | BAR2_SIZE -/
  bar2Size : Nat
  /-- 0, 4 to 7 | 16 R451 | 0 | LINK_GEN -/
  linkGen : Nat
  /-- 0 to 16 | 16 R451 | 0 | LINK_WIDTH -/
  linkWidth : Nat
  /-- Bool | 16 R448 | 0 | the link has been up and went down -/
  wasUp : Bool
  /-- TIME64 | 16 R447 | 0 | start of the present host-unreachable condition; none while reachable -/
  unreachableSince : Option Nat
  /-- list | 16 R447 | empty | records and interrupts held in order -/
  heldRecords : List HeldRecord
  /-- list | 16 R447 | empty | host-memory accesses held at the hub -/
  heldAccesses : List HeldAccess
  /-- list | 16 R446 | empty | errors reported through AER, newest first: fatal?, correctable? and time -/
  aer : List (Bool × Nat)
  /-- Nat | 20 R528 | 0 | configuration requests answered with Request Retry Status (the model's record) -/
  retryAnswers : Nat := 0
  /-- list | 16 R432 R433 | empty | completions of BAR2 reads and AtomicOps, newest first: offset and bytes, none for Unsupported Request -/
  completions : List (Nat × Option (List Byte))
  /-- list | 16 R440 | none | completions of commands without VIS_ALL: time, and first byte and end of what they may have written; BAR2 may
  read stale bytes there for 150 ns (log 189) -/
  unseen : List (Nat × Nat × Nat) := []
  /-- list | 16 R441 | none | BAR2 writes of the host while some are: time, first byte and end -/
  hostWrites : List (Nat × Nat × Nat) := []
  /-- 128 bits as a list | 16 R450 | none | vectors whose table entry was reprogrammed while unmasked, and not yet raised -/
  msixTorn : List Nat := []
  deriving DecidableEq, Repr

/-- The unit that issued a fabric operation (R466, R469). -/
inductive FabUnit where
  | tile (transfer tile : Nat)
  | signal (queue cmd : Nat)
  | atomic (id : Nat)
  | lookup (lookup owner : Nat)
  | rowStage (write owner : Nat)
  | batchCommit (write owner : Nat)
  | batchAbort (write owner : Nat)
  /-- a record of a global operation, which nothing answers (R461) -/
  | global
  deriving DecidableEq, Repr

/-- A fabric operation of this module (R461, R468). -/
structure FabOp where
  /-- OP_SEQ, 0 while it waits for a sequence number -/
  seq : Nat
  opcode : Nat
  subop : Nat
  o1 : BitVec 64
  body : List Byte
  cls : Nat
  unit : FabUnit
  issuedAt : Nat
  firstSent : Option Nat
  /-- to be sent, or sent again after a loss (R463) -/
  queued : Bool
  deriving DecidableEq, Repr

/-- A packet sent and not yet acknowledged (R463, R464). -/
structure FabSent where
  psn : Nat
  path : Nat
  /-- OP_SEQs of the requests it carries -/
  ops : List Nat
  /-- OP_SEQs of the responses it carries -/
  responses : List Nat
  bytes : Nat
  at_ : Nat
  cls : Nat
  deriving DecidableEq, Repr

/-- A request received and not yet served (R462, R467, R469). -/
structure RxOp where
  seq : Nat
  opcode : Nat
  subop : Nat
  o1 : BitVec 64
  body : List Byte
  /-- CLASS of the packet it came in -/
  cls : Nat
  /-- since when its service waits: a deferred row (R116), a commit (R118) -/
  since : Option Nat := none
  /-- table epoch when it arrived (R97) -/
  epoch : Nat := 0
  deriving DecidableEq, Repr

/-- A response kept until ACK_PSN covers its packet (R462). -/
structure KeptResponse where
  seq : Nat
  record : List Byte
  cls : Nat
  /-- packet that carried it last, none while it waits to be sent -/
  psn : Option Nat
  deriving DecidableEq, Repr

/-- One of the four paths of a session (R465). -/
structure FabPath where
  iface : Nat
  port : Nat
  timeouts : Nat
  deriving DecidableEq, Repr

/-- A handshake in progress (R458). -/
structure Handshake where
  initiator : Bool
  gen : Nat
  startedAt : Nat
  /-- message bytes sent and received so far, the transcript -/
  transcript : List Byte
  /-- fragments of the message being received -/
  frags : List (Nat × List Byte)
  /-- initiator: the random string of its ML-KEM key; responder: the shared secret -/
  secret : List Byte
  deriving DecidableEq, Repr

/-- The session of a module pair (R457 to R465, R475). -/
structure FabSession where
  peer : Nat
  /-- 0 none, 1 handshake, 2 up, 3 down (PEER_STATE byte 0) -/
  state : Nat
  gen : Nat
  initiator : Bool
  /-- the 72 bytes of R459 for sending and for receiving, and the receiver's previous ones -/
  txKeys : List Byte
  rxKeys : List Byte
  rxOld : List Byte
  txEpoch : Nat
  rxEpoch : Nat
  /-- until when the previous receive epoch is accepted -/
  rxOldUntil : Nat
  epochSince : Nat
  /-- next PSN when the present epoch of sending began -/
  epochPsn : Nat
  /-- next PSN -/
  psn : Nat
  /-- every packet below it has been received -/
  ackPsn : Nat
  /-- packets received at or above ackPsn -/
  received : List Nat
  /-- TS of the latest packet received -/
  tsEcho : Nat
  srtt : Nat
  rttvar : Nat
  hasRtt : Bool
  /-- bytes -/
  cwnd : Nat
  /-- α in units of 2^−16 -/
  alpha : Nat
  /-- acknowledged packets of the current SRTT, and those whose acknowledgement carried ECE -/
  acked : Nat
  eceAcked : Nat
  /-- an ECE has been seen in the current SRTT -/
  eceSeen : Bool := false
  cwndAt : Nat
  sent : List FabSent
  ops : List FabOp
  waiting : List FabOp
  nextSeq : Nat
  /-- receiver: every request below it is settled -/
  settled : Nat
  /-- receiver: settled requests at or above it -/
  settledSet : List Nat
  rxOps : List RxOp
  kept : List KeptResponse
  /-- responses and GLOBAL records received and not yet acted on -/
  inbox : List (List Byte)
  /-- CE-marked packets received since the last acknowledgement -/
  ce : Bool
  /-- packets received and not yet acknowledged, and since when -/
  owed : Nat
  owedSince : Nat
  ackNow : Bool
  lastRx : Nat
  lastTx : Nat
  nextPath : Nat
  paths : List FabPath
  handshake : Option Handshake
  /-- time of the last failure or end, for R457's retries -/
  failedAt : Nat
  /-- up or has failed once since FABRIC_JOIN -/
  tried : Bool
  deriving DecidableEq, Repr

/-- A fabric descriptor in flight (R471, R472). -/
structure FabDesc where
  id : Nat
  core : Nat
  desc : Desc
  org : Origin
  issuedAt : Nat
  /-- the core waits for it (a fabric atomic sequence of Table 13.4) -/
  holdsCore : Bool
  /-- held until its speculation ID commits -/
  held : Bool
  /-- words of an atomic not yet answered -/
  remaining : Nat
  /-- GSEQ of a global operation -/
  gseq : Nat
  deriving DecidableEq, Repr

/-- A global group (R472). -/
structure GGroup where
  enabled : Bool
  /-- GSEQ of the next operation -/
  gseq : Nat
  blocked : Bool
  /-- arrivals received from child modules: (module, GSEQ, SUBOP) -/
  arrivals : List (Nat × Nat × Nat)
  /-- GSEQs whose arrival the module has passed up or, at the root, released -/
  sentUp : List Nat
  deriving DecidableEq, Repr

/-- A neighbour resolved on an interface (R454). -/
structure Neighbour where
  iface : Nat
  v6 : Bool
  addr : Nat
  mac : BitVec 48
  deriving DecidableEq, Repr

/-- A frame or datagram sent by the fabric engine or an interface (R455, R460). -/
structure FabOut where
  iface : Nat
  peer : Nat
  cls : Nat
  dscp : Nat
  /-- 2, ECT(0) -/
  ecn : Nat
  src : Endpoint
  dst : Endpoint
  link : Link
  bytes : List Byte
  at_ : Nat
  deriving DecidableEq, Repr

/-- A datagram that leaves on an interface. -/
inductive Departure where
  | fabric (o : FabOut)
  | lorjo (o : SentDatagram)
  | owner (path : UdpPath) (bytes : List Byte)
  deriving DecidableEq, Repr

/-- A datagram whose next hop is not yet resolved (R454). -/
structure HopWait where
  iface : Nat
  v6 : Bool
  hop : Nat
  out : Departure
  deriving DecidableEq, Repr

/-- The Mboes fabric and the Ethernet ports (17). -/
structure Fabric where
  /-- 2 bits | 17 R457 R478 | 0 OUT | FABRIC_STATE -/
  state : Nat
  /-- up to 4,095 records of 64 bytes, sparse by module | 17 R456 | none | peer records -/
  peers : List (Nat × BitVec 512)
  /-- list | 17 R457 R459 | none | sessions, at most one per peer -/
  sessions : List FabSession
  /-- 8 bits per pair | 17 R459 | DESIGN CHOICE 0 (log 4) | last SESSION_GEN used with each peer -/
  gens : List (Nat × Nat)
  /-- list | 17 R471 | empty | fabric descriptors in flight -/
  descs : List FabDesc
  /-- Nat | 17 | 0 | number of the next fabric descriptor -/
  nextId : Nat
  /-- 16 groups | 17 R472 | off, GSEQ 1 | global groups -/
  groups : List GGroup
  /-- 64 slots, those faulted: slot, peer, OP_SEQ, page | 17 R467 | none | service slots held by page faults -/
  slots : List (Nat × Nat × Nat × Nat)
  /-- 24 bytes | 17 R472 R478 | 0 | LAST_SNAPSHOT: number, epoch, TIME64 -/
  lastSnapshot : Nat × Nat × Nat
  /-- interfaces up, 0 to 15 | 17 R453 R478 | none | PORT_UP -/
  ifUp : List Nat
  /-- 4 × 3 bits | 17 R453 | 0 | PORT_MODE as taken at each port's last link start -/
  mode : List Nat
  /-- list | 17 R454 | empty | neighbours resolved by Neighbor Discovery and ARP -/
  neighbours : List Neighbour
  /-- list | 17 R454 | empty | datagrams that wait for the resolution of their next hop, oldest first -/
  unresolved : List HopWait := []
  /-- list | 19 R507 | empty | datagrams that the links hold while the operating point moves, oldest first -/
  paused : List (Link × Departure) := []
  /-- list | 17 R454 R455 R460 | empty | packets sent, newest first (the model's record of the ports' output) -/
  out : List FabOut
  /-- TIME64 | 17 R457 | 0 | start of JOINING -/
  joinAt : Nat
  deriving DecidableEq, Repr

/-- A firmware image of a bank (R487, R538). -/
structure FwImage where
  version : BitVec 32
  svn : Nat
  keySlot : Nat
  /-- SHAKE256 over its header and body, which start-up measures -/
  digest : BitVec 256
  /-- the stored bytes still verify (R539) -/
  intact : Bool
  deriving DecidableEq, Repr

/-- A record of an owner session held behind a SEQ gap (R496). -/
structure HeldOwnerRecord where
  seq : Nat
  kind : Nat
  payload : List Byte
  since : Nat
  deriving DecidableEq, Repr

/-- An open owner session (R494 to R496). -/
structure OwnerSession where
  id : Nat
  keyDigest : BitVec 256
  /-- the owner's public key, from its OPEN -/
  key : List Byte
  keyIn : List Byte
  keyOut : List Byte
  /-- SEQ of the next record to apply -/
  nextIn : Nat
  nextOut : Nat
  held : List HeldOwnerRecord
  /-- where its answers go: none for the relay of the host -/
  peer : Option UdpPath
  deriving DecidableEq, Repr

/-- An owner handshake whose fragments are arriving (R494). -/
structure OwnerHandshake where
  peer : Option UdpPath
  startedAt : Nat
  frags : List (Nat × List Byte)
  deriving DecidableEq, Repr

/-- A 64-byte measurement-log entry (R486). -/
structure LogEntry where
  slot : Nat
  event : Nat
  time : Nat
  digest : BitVec 256
  deriving DecidableEq, Repr

/-- Security, identity and attestation (18). -/
structure Security where
  /-- 5 × 7 bits | 18 R483 R489 | DESIGN CHOICE 0, fused (log 2) | ROLLBACK counters by image type -/
  rollback : List Nat
  /-- 2 × 256 bits | 18 R483 | DESIGN CHOICE 0, fused (log 2) | FW_KEY_DIGEST -/
  fwKeyDigest : List (BitVec 256)
  /-- 2 bits | 18 R483 | DESIGN CHOICE 0, fused (log 2) | FW_KEY_REVOKED -/
  fwKeyRevoked : BitVec 2
  /-- 1 bit | 18 R483 R484 | 1 | DEBUG_LOCK -/
  debugLock : Bool
  /-- 48 bits | 18 R483 | DESIGN CHOICE 0, fused (log 2) | MAC_BASE -/
  macBase : BitVec 48
  /-- 16 bits | 18 R483 | 0x88B5 | DICT_ETHERTYPE -/
  dictEthertype : BitVec 16
  /-- 16 bits | 18 R483 | 0x001F | SEAL_POLICY -/
  sealPolicy : BitVec 16
  /-- 32 bits | 18 R482 R483 | 0x01F34F27 | PORT_ROLES -/
  portRoles : BitVec 32
  /-- 64 bits | 18 R483 | DESIGN CHOICE 0, fused (log 2) | SERIAL_NUMBER -/
  serial : BitVec 64
  /-- 256 bits | 18 R483 | DESIGN CHOICE 0, fused (log 2) | IDENTITY_SEED -/
  identitySeed : BitVec 256
  /-- Bool | 18 R490 | none | the identity key has been derived since the last cold reset -/
  identityKey : Bool
  /-- 256 bits | 18 R497 | none before the first start-up has made it | nonvolatile-store key, recomputed at each boot -/
  nvsKey : Option (BitVec 256)
  /-- 16 × 256 bits | 18 R485 | 0 | measurement slots MS[0..15] -/
  ms : List (BitVec 256)
  /-- up to 4,096 entries | 18 R486 | empty | measurement log, oldest first -/
  log : List LogEntry
  /-- Bool | 18 R486 | 0 | LOG_OVERFLOW -/
  logOverflow : Bool
  /-- 3,949 bytes | 18 R492 R505 | 0 | QUOTE, the last quote (empty stands for all zero) -/
  quote : List Byte
  /-- up to 4 | 18 R494 | none | owner sessions -/
  owners : List OwnerSession
  /-- list | 18 R494 | none | owner handshakes in progress -/
  ownerHandshakes : List OwnerHandshake
  /-- bytes and VA | 18 R496 R505 | 0 | OWNER_BUFFER_MB in force, in bytes, and OWNER_BUFFER_VA -/
  ownerBytes : Nat
  ownerVa : Nat
  /-- list | 18 R495 R546 | empty | owner records waiting in RELAY_OUT, oldest first -/
  relayOut : List (List Byte)
  /-- list | 18 R495 | empty | owner records sent by UDP, newest first (the model's record of the ports' output) -/
  ownerOut : List (UdpPath × List Byte × Link)
  /-- (queue, slot count, session) | 18 R495 | empty | command slots placed by COMMAND records whose COMPLETION is due -/
  ownerPlaced : List (Nat × Nat × Nat)
  /-- 256 bits | 18 R498 R505 | 0 | OWNER_DIGEST -/
  ownerDigest : BitVec 256
  /-- TIME64 | 18 R489 | none | when the next fuse of a ROLLBACK_COMMIT in progress is blown -/
  committing : Option Nat := none
  /-- 1,952 bytes | 18 R498 R500 | empty | the public key of OWNER_DIGEST -/
  ownerKey : List Byte
  /-- Bool | 18 R505, 20 R535 | 0 | ZEROISE_PENDING, the AON copy -/
  zeroisePending : Bool
  /-- Bool | 20 R535 | 0 | the nonvolatile mirror of the zeroise-pending flag -/
  zeroiseMirror : Bool
  /-- Nat | 18 R502 R505 | 0 | ZEROISE_PROGRESS, cold-tier gigabytes done -/
  zeroiseProgress : Nat
  /-- TIME64 | 18 R502 | 0 | start of the present zeroisation -/
  zeroiseAt : Nat
  deriving DecidableEq, Repr

/-- State of one core group (R509, R510). -/
structure GroupPower where
  /-- code of Table 19.2, 0 to 6 -/
  code : Nat
  /-- state being entered (code 6), or the state a wake leaves (code 5) -/
  other : Nat
  /-- code 6: the state the entry left (R510); code 5: the state the wake leads to (R369) -/
  left : Nat
  /-- instant at which the entry or the wake ends -/
  until_ : Nat
  /-- a wake was requested during an entry that completes (R510) -/
  wakeAfter : Bool
  /-- since when the group is idle (R370) -/
  idleSince : Option Nat
  deriving DecidableEq, Repr

/-- Power, clocks and the Bivouac (19). -/
structure Power where
  /-- 2 bits | 19 R507 | 0 | OP_POINT -/
  opPoint : Nat
  /-- (instant, tenths of a cycle by then, tenths of a GHz from then on), newest first | 01 R27, 19 R507 | empty: 4.0 GHz from the start |
  changes of the arithmetic clock, from which cycle counts are taken (log 27) -/
  clockMoves : List (Nat × Nat × Nat)
  /-- end of the move in progress | 19 R507 | none | operating-point move -/
  moveUntil : Option Nat
  /-- 0 to 16 | 19 R515 | 0 | sixteenths of the array cycles withheld -/
  throttle : Nat
  /-- TIME64 | 19 R515 | none | since when the limit exceeds 4/16 -/
  throttleSince : Option Nat
  /-- TIME64 | 19 R515 | none | since when demand is below 85 % of the cap -/
  lowSince : Option Nat
  /-- watts | 19 R514 | 1,800 | cap in force -/
  cap : Nat
  /-- new cap and the instant at which it takes effect | 19 R514 | none -/
  capNext : Option (Nat × Nat)
  /-- 16 bits | 19 R514 R524 | 0 | INPUT_POWER_W as of the window of the last projection -/
  inputPower : Nat
  /-- watts | 19 R515 | 0 | the last projection of its window's mean, as drawn -/
  projection : Nat
  /-- Nat | 19 R514 | 0 | the 50 µs window, counted from TIME64 0, of the last projection -/
  window : Nat
  /-- 32 bits | 19 R524 | 0 | INPUT_MV -/
  inputMv : Nat
  /-- 16 groups | 19 R509 R524 | DESIGN CHOICE fully off after power applied; CG_STATES reads 0 before it is reported (log 8) | core groups -/
  groups : List GroupPower
  /-- 2 × 2 bits | 19 R512 R524 | DESIGN CHOICE off (log 8) | STAGE[0], STAGE[1]: 0 on, 1 retention, 2 off -/
  stage : List Nat
  /-- 2 Bools | 19 R512, 09 R283 | 0 | the staging SRAM of a die was lost, so its resident segments are reloaded when its groups wake -/
  stageReload : List Bool
  /-- Bool | 19 R512 R524 | DESIGN CHOICE off (log 8) | MAIN switched on -/
  mainOn : Bool
  /-- Bool | 19 R512 R524 | off | NET -/
  netOn : Bool
  /-- TIME64 | 19 R512 | none | since when the conditions of NET's switch-off hold -/
  netIdleSince : Option Nat
  /-- 2 bits | 19 R512 R524 | DESIGN CHOICE 2, off (log 8) | COLD: 0 on, 1 self-refresh, 2 off -/
  cold : Nat
  /-- end of COLD's switch-on or self-refresh exit | 19 R397 R513 | none -/
  coldUntil : Option Nat
  /-- TIME64 | 19 R512 | 0 | last access to the cold tier -/
  coldLast : Nat
  /-- list | 19 R513 | none | CMD entries that wait for COLD's switch-on: requester, index × 256 + sub and bytes written -/
  coldWaits : List (ReqId × Nat × List Byte)
  /-- 31 × 32 bits, m°C | 19 R517 R524 | 0 | TEMPS -/
  temps : List Int
  /-- the instant of the last slow-down for a hot sensor | 19 R517 | none -/
  hotSince : Option Nat
  /-- up to 31 sensors | 19 R517 | none | those that have exceeded THROTTLE_C and not yet fallen below THROTTLE_C − 3 °C -/
  hotSensors : List Nat
  /-- Bool | 19 R517, 24 R583 | released | THERM_ALARM_N asserted -/
  alarm : Bool
  /-- Bool | 19 R518 | 0 | tripped state -/
  tripped : Bool
  /-- 2 bits | 19 R518 R524 | 0 | TRIP_CAUSE -/
  tripCause : Nat
  /-- Bool | 19 R518, 24 R591 | released | THERM_TRIP_OUT_N asserted -/
  tripOut : Bool
  /-- Bool | 19 R519 R524 | 1 | REF_CLOCK_OK -/
  refClockOk : Bool
  /-- TIME64 | 19 R519 | 0 | since when the reference is present -/
  refSince : Nat
  /-- 2 bits | 19 R521 R524 | 0 | BIV_STATE -/
  bivState : Nat
  /-- 16 bits | 19 R521 R524 | 0 | BIV_VERSION -/
  bivVersion : Nat
  /-- Nat | 19 R521 | 0 | stamp of the graph whose version the Bivouac holds -/
  bivStamp : Nat
  /-- microjoules below one millijoule | 19 R525 | 0 | input energy not yet counted in ENERGY_MJ -/
  energyUj : Nat
  /-- up to 64, newest first | 19 R522 R524 | empty | Bivouac admission-to-response times -/
  bivTimes : List Nat
  deriving DecidableEq, Repr

/-- A job fault whose restart is running (R530, R532). -/
structure FaultInfo where
  time : Nat
  /-- Waybill code of its cause (R598) -/
  code : Nat
  deriving DecidableEq, Repr

/-- Start-up, reset and recovery (20). -/
structure Reset where
  /-- 8 bits | 20 R540 | 0 power applied | RESET_CAUSE -/
  cause : Nat
  /-- 4 bits | 20 R528 R540 | 0 | BOOT_STAGE -/
  bootStage : Nat
  /-- TIME64 | 20 R528 | 0 | start of the present start-up -/
  bootAt : Nat
  /-- TIME64, ns, code | 20 R530 R540 | 0 | LAST_RESTART -/
  lastRestart : Nat × Nat × Nat
  /-- fault | 20 R530 R532 | none | the job fault whose restart is running -/
  fault : Option FaultInfo
  /-- TIME64s of restarts begun in the last second | 20 R532 | none -/
  begun : List Nat
  /-- Bool | 20 R537 | 0 | maintenance mode -/
  maint : Bool
  /-- Bool | 20 R569 | 0 | maintenance mode ends when the running action completes -/
  maintEnding : Bool
  /-- bytes, sparse by offset | 20 R538 | DESIGN CHOICE 0 (log 3) | firmware staging buffer -/
  staging : SMem
  /-- 2 × 5 images | 20 R538 R540 | DESIGN CHOICE bank 0 holds 3.1.0 of every type, bank 1 empty (log 2) | firmware banks -/
  banks : List (List (Option FwImage))
  /-- 1 bit | 20 R538 | DESIGN CHOICE 0 (log 2) | active (confirmed) bank -/
  active : Nat
  /-- 1 bit | 20 R538 | DESIGN CHOICE 0 (log 2) | bank selected for the next cold reset -/
  next : Nat
  /-- Bool | 20 R538 | 0 | the selected bank is on trial -/
  trial : Bool
  /-- 1 bit | 20 R538 | DESIGN CHOICE 0 (log 2) | bank the module runs from -/
  running : Nat
  /-- image types written into the inactive bank since the last activation | 20 R538 | none -/
  written : List Nat
  /-- RESET_CAUSE | 19 R518 | none | a cold reset asked for while a trip is latched and a sensor stands above ALARM_C -/
  heldReset : Option Nat
  /-- Bool | 20 R534, 22 R562 | 0 | the hub management core runs -/
  hubRunning : Bool
  /-- Bool | 20 R534 | 0 | the Postilion is wedged -/
  postilionWedged : Bool
  /-- 5 images | 18 R489 R492, 20 R538 | DESIGN CHOICE 3.1.0 of every type (log 2) | the images that run: those of the running bank when
  this start-up began, whatever is installed there since -/
  runImages : List (Option FwImage)
  /-- Bool | 20 R539 | 0 | the root-of-trust image is refused in both banks -/
  romOnly : Bool
  /-- 32 bits | 18 R492, 22 R564 | DESIGN CHOICE 1, counting this reset (log 2) | BOOTS -/
  boots : Nat
  /-- Bool | 24 R587 | 1 | input power in its operating range -/
  powerGood : Bool
  deriving DecidableEq, Repr

/-- A snapshot of an entry held for a requester (R546). -/
structure Snapshot where
  index : Nat
  sub : Nat
  bytes : List Byte
  lastRead : Nat
  deriving DecidableEq, Repr

/-- The kept response of a requester (R547). -/
structure Kept where
  seq : Nat
  index : Nat
  sub : Nat
  offset : Nat
  bytes : List Byte
  at_ : Nat
  deriving DecidableEq, Repr

/-- A segmented write open on an entry (R545). -/
structure PartialWrite where
  index : Nat
  sub : Nat
  bytes : List Byte
  last : Nat
  deriving DecidableEq, Repr

/-- What the dictionary server keeps for one requester (R545 to R547, R558). -/
structure Requester where
  id : ReqId
  kept : Option Kept
  snapshot : Option Snapshot
  /-- segmented writes open -/
  partials : List PartialWrite
  /-- selector values written: (index × 256 + sub, value); unlisted reads the default -/
  selectors : List (Nat × Nat)
  /-- number of its last activity, for R558's replacement -/
  used : Nat
  deriving DecidableEq, Repr

/-- Status of a command entry (Table 21.4). -/
structure CmdStatus where
  /-- 0 IDLE, 1 RUNNING, 2 DONE, 3 REFUSED -/
  state : Nat
  status : Nat
  reason : Nat
  cls : Nat
  runs : Nat
  time : Nat
  deriving DecidableEq, Repr

/-- A dictionary response sent, in order newest first. -/
structure DictResponse where
  dest : ReqId
  bytes : List Byte
  /-- what 10BASE-T1S, I3C or SMBus carries for it (R552, R553) -/
  units : List (List Byte)
  deriving DecidableEq, Repr

/-- The object dictionary (21, 22). -/
structure Dict where
  /-- sparse by index × 256 + sub | 21 R541, 22 R559 | every entry at its default | values of RW entries written since the last cold reset and of RWS entries -/
  values : List (Nat × List Byte)
  /-- sparse by index × 256 + sub | 22 R567 | 0 | statistics counters 0x5000 to 0x5FFF, 64 bits each -/
  counters : List (Nat × Nat)
  /-- sparse by index × 256 + sub | 21 R551 | IDLE, all zero | status of the CMD entries -/
  cmds : List (Nat × CmdStatus)
  /-- list | 21 R545 R546 R547, 22 R558 | none | requesters known -/
  requesters : List Requester
  /-- Nat | 22 R558 | 0 | use counter of the requesters -/
  useClock : Nat
  /-- list | 21 R542 | empty | responses sent, newest first (the model's record of the transports' output) -/
  responses : List DictResponse
  /-- 2,048 bytes | 21 R554 | 0 | DW_REQUEST (bytes written; the rest 0) -/
  dwRequest : List Byte
  /-- 2,048 bytes | 21 R554 | 0 | DW_RESPONSE (bytes written; the rest 0) -/
  dwResponse : List Byte
  /-- 32 bits | 21 R554 | 0 | DW_DONE: [15:0] value, [16] BUSY -/
  dwDone : BitVec 32
  /-- requester, index × 256 + sub and error of the last command-entry write given as its own command -/
  lastWrite : Option (ReqId × Nat × Nat)
  deriving DecidableEq, Repr

/-- A Waybill record (Table 23.1) without its CRC, which R571 computes from the rest. -/
structure WbRecord where
  seq : Nat
  time : Nat
  code : Nat
  inst : Nat
  /-- [1] SYNTHETIC and [2] HELD; [0] KEPT follows from SEQ -/
  flags : Nat
  p : List Nat
  gen : Nat
  boot : Nat
  /-- number of its submission, the model's own; 0 for one that no unit submitted -/
  num : Nat := 0
  /-- how the CRC it bears differs from the CRC of its bytes: 0 but for a kept record that a loss of power has cut (R574, R580) -/
  damage : BitVec 32 := 0
  deriving DecidableEq, Repr

/-- A record submitted and not yet accepted by the writer (R575). -/
structure WbSubmit where
  time : Nat
  code : Nat
  inst : Nat
  held : Bool
  /-- for a JOB_FAULT, p holds the number of its cause's submission in the place of P1 (R598) -/
  p : List Nat
  /-- number of the submission, the model's own, from 1 -/
  num : Nat
  deriving DecidableEq, Repr

/-- Records of one code in the current TIME64 second (R576, R577). -/
structure WbCode where
  code : Nat
  /-- records written in the window -/
  written : Nat
  /-- suppressed in the window, with the first and last suppression time -/
  suppressed : Nat
  first : Nat
  last : Nat
  /-- suppressed since the last clear -/
  total : Nat
  deriving DecidableEq, Repr

/-- The Waybill (23). -/
structure Waybill where
  /-- up to 1,024 | 23 R573 | DESIGN CHOICE empty, a new module (log 2) | kept records, SEQ 0 first -/
  kept : List WbRecord
  /-- up to 16,384 | 23 R573 | empty | circulating records, newest first -/
  circ : List WbRecord
  /-- 64 bits | 23 R571, 22 R565 | DESIGN CHOICE 0 (log 2) | NEXT_SEQ -/
  nextSeq : Nat
  /-- 64 bits | 23 R573 R574 | DESIGN CHOICE 1,024 (log 2) | OLDEST_SEQ floor: no circulating record below it is held -/
  oldestFloor : Nat
  /-- 16 bits | 23 R571 | DESIGN CHOICE 0 (log 2) | CLEAR_GEN -/
  clearGen : Nat
  /-- TIME64 | 23 R581, 22 R565 | DESIGN CHOICE 0, never (log 2) | LAST_CLEAR -/
  lastClear : Nat
  /-- list | 23 R576 | DESIGN CHOICE empty (log 2) | counts per code -/
  codes : List WbCode
  /-- 64 bits | 23 R576, 22 R565 | DESIGN CHOICE 0 (log 2) | SUPPRESSED_TOTAL -/
  suppressedTotal : Nat
  /-- TIME64 second | 23 R576 | 0 | the window in which the counts run -/
  second : Nat
  /-- 256 entries | 23 R575 | empty | submission queue, oldest first -/
  queue : List WbSubmit
  /-- 64 bits | 23 R574 | DESIGN CHOICE 0 (log 2) | nonvolatile mirror of NEXT_SEQ -/
  mirror : Nat
  /-- TIME64 | 23 R581 | none | start of the nonvolatile copy of a clear -/
  copying : Option Nat
  /-- counter | model's own (log 193) | 0 | submissions so far, by which a JOB_FAULT names its cause -/
  submitted : Nat
  /-- Bool | 23 R574 | true | input power has returned and NEXT_SEQ is not yet restored: nothing is written -/
  restoreDue : Bool
  deriving DecidableEq, Repr

/-- Pins of J1 and J2 the module senses (24). -/
structure Pins where
  /-- 5 bits | 24 R583 R591 | DESIGN CHOICE 0, a strap (log 2) | SLOT_ID -/
  slotId : BitVec 5
  /-- 5 bits | 22 R564, 24 R591 | DESIGN CHOICE 0 (log 2) | MODULE_SLOT as sampled at step 1 -/
  moduleSlot : BitVec 5
  /-- Bool | 24 R582 | DESIGN CHOICE 1, deasserted (log 2) | PERST_N -/
  perstN : Bool
  /-- Bool | 24 R583 | DESIGN CHOICE 1, deasserted (log 2) | THERM_TRIP_IN_N -/
  thermTripInN : Bool
  /-- Bool | 24 R583 | DESIGN CHOICE 1, released (log 2) | MOD_RESET_N -/
  modResetN : Bool
  /-- Bool | 24 R589 | DESIGN CHOICE 1 (log 2) | REF_25M present -/
  refPresent : Bool
  deriving DecidableEq, Repr

/-- Why a command stops without a next state. -/
inductive Fault where
  /-- Raised by a command whose operand names a core, queue, core group, interface, key or other unit the module does
  not have: no such command can reach the hardware. Safe: no statement about a next state follows. -/
  | noSuchUnit
  deriving DecidableEq, Repr

/-- Why a command has no meaning. -/
inductive Refusal where
  /-- Raised by an arm of `exec` that has no meaning yet. Safe. -/
  | notModelled (mnemonic : String)
  deriving DecidableEq, Repr

/-- Saturations counted for the SATURATION_RATE record (06 R203). -/
structure Numerics where
  /-- TIME64 second | 06 R203 | 0 | the second in which `satThis` counts -/
  satSecond : Nat
  /-- Nat | 06 R203 | 0 | elements saturated in that second -/
  satThis : Nat
  deriving DecidableEq, Repr

/-- The state of the module (R21 to R33 and the chapters named at each part). -/
structure State where
  identity : Identity
  service : Service
  lookup : Lookup
  updates : Updates
  /-- 98 cores, 96 and 97 the Bivouac's (R21, R216) -/
  matrix : List CoreMatrix
  vector : List CoreVector
  control : List CoreControl
  numerics : Numerics
  sequences : Sequences
  streaming : Streaming
  dispatch : Dispatch
  runahead : RunAhead
  legacy : Legacy
  job : Job
  mem : Mem
  xlate : Xlate
  hostif : HostIf
  fabric : Fabric
  security : Security
  power : Power
  recovery : Reset
  dict : Dict
  waybill : Waybill
  pins : Pins
  /-- TIME64, ns since AON start | 00 R17 | 0 -/
  now : Nat
  /-- the model's own counter of free values drawn so far (log 5) | DESIGN CHOICE 0 -/
  free : Nat
  /-- commands waiting, first in, first out | the model's own queue | empty -/
  pending : List Instr
  deriving DecidableEq, Repr

/-- The matrix side of a core right after reset. -/
def CoreMatrix.reset : CoreMatrix :=
  { chains := [], acc := [], active := List.replicate 4 [], shadow := List.replicate 4 [], shadowTag := none,
    clock := 0, loadDone := 0, ringWaitSince := none, writtenAt := 0, failed := false, sparesUsed := [], repairPending := [], rowErrors := [] }

/-- The vector engine of a core right after reset. -/
def CoreVector.reset : CoreVector :=
  { v := List.replicate 32 0, vl := 0, vfmt := 7, slots := List.replicate 8 0,
    topk := { isSet := false, k := 0, floor := 0, entries := [] }, vqueue := [] }

/-- The control core of a core right after reset. -/
def CoreControl.reset : CoreControl :=
  { x := List.replicate 32 0, pc := 0, mstatus := 0x1800, mie := 0, mip := 0, mtvec := 0, mscratch := 0, mepc := 0,
    mcause := 0, mtval := 0, mcycle := 0, minstret := 0, mcountinhibit := 0, specid := 0, vsatSat := 0, vsatNan := 0,
    hmask := BitVec.allOnes 64, timecmp := BitVec.allOnes 64, reservation := none, held := [], task := none,
    ccState := 0, tasksRun := 0, icacheTag := none, issued := [] }

/-- A queue right after reset: OFF (R291). -/
def Queue.reset : Queue :=
  { state := 0, tail := 0, head := 0, cqHead := 0, written := 0, held := [], cmds := [], staleReads := none,
    ringAlloc := 0, complAlloc := 0, ringBytes := 0 }

/-- A binding right after reset: not draining, nothing measured. -/
def BindingRun.reset : BindingRun :=
  { draining := false, serviceTimes := [], exitTimes := [], intervalSum := 0, intervalCount := 0, completions := 0,
    lastCompletion := none }

/-- A core group right after power is applied: fully off (log 8). -/
def GroupPower.reset : GroupPower :=
  { code := 4, other := 4, left := 4, until_ := 0, wakeAfter := false, idleSince := none }

/-- A global group right after reset: off, GSEQ restarting at 1 (R472). -/
def GGroup.reset : GGroup :=
  { enabled := false, gseq := 1, blocked := false, arrivals := [], sentUp := [] }

/-- Image `t` of the firmware the model finds in bank 0: 3.1.0 (R8; log 2). -/
def FwImage.factory : FwImage :=
  { version := 0x03010000, svn := 0, keySlot := 0, digest := 0, intact := true }

/-- The module right after input power is applied, before the first step of start-up (R528). -/
def State.reset : State :=
  { identity :=
      { orderingNumber := [0x53, 0x54, 0x39, 0x36, 0x30, 0x2D, 0x33, 0x38, 0x34, 0x2D, 0x4C, 0, 0, 0, 0, 0],
        arrayMap := BitVec.allOnes 384, northStepping := 0x11, southStepping := 0x11, hubStepping := 0x10,
        fwVersion := 0x03010000 },
    service :=
      { reassembly := [], bindings := List.replicate 16 BindingRun.reset, keySlots := [], admitted := [], nextSeq := 0,
        buffersUsed := [], cache := [], cacheOn := false, cacheEntries := 0, ready := [], sent := [],
        portFreeAt := List.replicate 4 0, portDiscards := List.replicate 4 0, serviceTimes := [], rateSecond := 0, responsesThis := 0, responsesLast := 0 },
    lookup := { tables := [], rowCache := [], rowCacheGb := 0, jobs := [], nextId := 0, useClock := 0 },
    updates :=
      { batches := [], remoteBatches := [], staged := [], committed := [], epoch := 1, jobs := [], nextId := 0,
        logMb := 256, cutRows := [] },
    matrix := List.replicate 98 CoreMatrix.reset,
    vector := List.replicate 98 CoreVector.reset,
    control := List.replicate 98 CoreControl.reset,
    numerics := { satSecond := 0, satThis := 0 },
    sequences :=
      { sessions := [], joins := [], summaries := [], appends := [], queries := [], heldQueries := [], poolBytes := 0, poolBase := 0, poolFree := 0,
        lastStep := 0, nextId := 0 },
    streaming := { transfers := [], nextId := 0, prologues := [] },
    dispatch :=
      { queues := List.replicate 64 Queue.reset, graphs := [], launches := [], patchWaits := [], tasks := [],
        coreWaits := [], postilionState := 0, nextCmd := 0, nextLaunch := 0, nextTask := 0, lastPoll := 0 },
    runahead :=
      { predictions := [], ids := [], nextId := 0, ranges := [], heldStores := [], heldRecords := [], heldMarks := [], resolves := [] },
    legacy :=
      { state := 0, ctrl := 0, sqBase := 0, sqDepth := 0, cqBase := 0, cqDepth := 0, msix := 0, sqTail := 0,
        cqHead := 0, sqHead := 0, written := 0, cmds := [], held := [], staleReads := none },
    job :=
      { state := 0, tag := 0, sealed_ := false, deployedAt := 0, deployer := 0xFF, restarts := 0, restartTimes := [],
        undeployAt := 0, undeployHeld := false, tileRing := 1024, contexts := [], pendingTable := [], activeTable := [],
        schedPending := false, debts := [], coreQueue := [], outgoing := [], deficit := [], readyFrom := [] },
    mem :=
      { dram := [], sram := [], staging := [], host := [],
        alloc := List.replicate 13 { next := 0, freed := [] }, extents := [], rowErrors := [], remaps := [],
        journal := [], retired := [], retiredFor := [], unretire := [], failing := [], lastUe := 0, scrubHbm := 0, scrubCold := 0,
        scrubHbmStart := 0, scrubColdStart := 0, scrubHbmLate := false, scrubColdLate := false, remapDue := [], jobKeys := none, idleKey := 0, repairDone := 0, scrambled := [] },
    xlate :=
      { ptes := [], charged := [], drayTlb := [], hubTlb := [], pteCache := [], faults := [], heldFaults := [], released := [],
        fqTail := 0, fqHead := 0, overflow := false, fqEntries := 0, fqAddr := 0, lastMsix := none, mapTail := 0,
        mapHead := 0, mapRecords := [], mapFetched := 0, mapStale := none },
    hostif :=
      { eventCause := 0, tailReg := [], cqHeadReg := [], fqHeadReg := 0, mapTailReg := 0, msixAddr := [],
        msixData := [], msixUnmasked := [], msixPending := [], msixSent := [], holdoff := [], bme := false,
        d3hot := false, flr := false, atomicEnable := false, bar2Size := 0x400000000, linkGen := 0, linkWidth := 0,
        wasUp := false, unreachableSince := some 0, heldRecords := [], heldAccesses := [], aer := [],
        completions := [] },
    fabric :=
      { state := 0, peers := [], sessions := [], gens := [], descs := [], nextId := 0,
        groups := List.replicate 16 GGroup.reset, slots := [], lastSnapshot := (0, 0, 0), ifUp := [],
        mode := [0, 0, 0, 0], neighbours := [], out := [], joinAt := 0 },
    security :=
      { rollback := [0, 0, 0, 0, 0], fwKeyDigest := [0, 0], fwKeyRevoked := 0, debugLock := true, macBase := 0,
        dictEthertype := 0x88B5, sealPolicy := 0x001F, portRoles := 0x01F34F27, serial := 0, identitySeed := 0,
        identityKey := false, nvsKey := none, ms := List.replicate 16 0, log := [], logOverflow := false, quote := [],
        owners := [], ownerHandshakes := [], ownerBytes := 0, ownerVa := 0,
        relayOut := [], ownerOut := [], ownerPlaced := [], ownerDigest := 0, ownerKey := [], zeroisePending := false, zeroiseMirror := false,
        zeroiseProgress := 0, zeroiseAt := 0 },
    power :=
      { opPoint := 0, clockMoves := [], moveUntil := none, throttle := 0, throttleSince := none, lowSince := none, cap := 1800,
        capNext := none, inputPower := 0, projection := 0, window := 0, inputMv := 0, groups := List.replicate 16 GroupPower.reset, stage := [2, 2],
        stageReload := [false, false], mainOn := false, netOn := false, netIdleSince := none, cold := 2, coldUntil := none, coldLast := 0, coldWaits := [],
        temps := List.replicate 31 0, hotSince := none, hotSensors := [], alarm := false, tripped := false, tripCause := 0,
        tripOut := false, refClockOk := true, refSince := 0, bivState := 0, bivVersion := 0, bivStamp := 0, energyUj := 0, bivTimes := [] },
    recovery :=
      { cause := 0, bootStage := 0, bootAt := 0, lastRestart := (0, 0, 0), fault := none, begun := [], maint := false,
        maintEnding := false, staging := [],
        banks := [List.replicate 5 (some FwImage.factory), List.replicate 5 none],
        runImages := List.replicate 5 (some FwImage.factory), active := 0, next := 0,
        trial := false, running := 0, written := [], heldReset := none, hubRunning := false, postilionWedged := false,
        romOnly := false, boots := 1, powerGood := true },
    dict :=
      { values := [], counters := [], cmds := [], requesters := [], useClock := 0, responses := [], dwRequest := [],
        dwResponse := [], dwDone := 0, lastWrite := none },
    waybill :=
      { kept := [], circ := [], nextSeq := 0, oldestFloor := 1024, clearGen := 0, lastClear := 0, codes := [],
        suppressedTotal := 0, second := 0, queue := [], mirror := 0, copying := none, submitted := 0, restoreDue := true },
    pins :=
      { slotId := 0, moduleSlot := 0, perstN := true, thermTripInN := true, modResetN := true, refPresent := true },
    now := 0, free := 0, pending := [] }

end Sys2Proof.Machine
end

