-- ==== Sys2Proof/Machine/Bits.lean ====
section
/-! DEFINITION. Bit fields, byte orders, association lists and sparse memories: the plain helpers every other file uses. -/

namespace Sys2Proof.Machine

open Sys2Proof

/-- Bits [hi:lo] of a number. -/
def field (x hi lo : Nat) : Nat := x / 2 ^ lo % 2 ^ (hi + 1 - lo)

/-- Bit i of a number, as a Bool. -/
def bitOf (x i : Nat) : Bool := x / 2 ^ i % 2 == 1

/-- Word k of a 64-byte descriptor or slot (R15). -/
def dword (d : Desc) (k : Nat) : Nat := d.toNat / 2 ^ (64 * k) % 2 ^ 64

/-- Bits [hi:lo] of word k of a descriptor. -/
def df (d : Desc) (k hi lo : Nat) : Nat := field (dword d k) hi lo

/-- Bit i of word k of a descriptor. -/
def db (d : Desc) (k i : Nat) : Bool := bitOf (dword d k) i

/-- The n bytes of v, least significant first (R15). -/
def leBytes : Nat → Nat → List Byte
  | 0, _ => []
  | n + 1, v => BitVec.ofNat 8 v :: leBytes n (v / 256)

/-- The number a little-endian byte list holds. -/
def ofLe : List Byte → Nat
  | [] => 0
  | b :: bs => b.toNat + 256 * ofLe bs

/-- The n bytes of v, most significant first (R15, network headers). -/
def beBytes (n v : Nat) : List Byte := (leBytes n v).reverse

/-- The number a big-endian byte list holds. -/
def ofBe (bs : List Byte) : Nat := ofLe bs.reverse

/-- n bytes of a list from offset o, missing bytes reading as 0. -/
def slice (bs : List Byte) (o n : Nat) : List Byte :=
  let t := (bs.drop o).take n
  t ++ List.replicate (n - t.length) 0

/-- The little-endian number of n bytes of a list from offset o. -/
def leAt (bs : List Byte) (o n : Nat) : Nat := ofLe (slice bs o n)

/-- The big-endian number of n bytes of a list from offset o. -/
def beAt (bs : List Byte) (o n : Nat) : Nat := ofBe (slice bs o n)

/-- A list cut or padded with zero bytes to n bytes. -/
def padTo (n : Nat) (bs : List Byte) : List Byte := slice bs 0 n

/-- Two's complement reading of the low n bits. -/
def signed (n x : Nat) : Int := if x % 2 ^ n < 2 ^ (n - 1) then (x % 2 ^ n : Nat) else (x % 2 ^ n : Nat) - (2 ^ n : Nat)

/-- The n-bit two's complement code of an integer. -/
def unsigned (n : Nat) (x : Int) : Nat := (x % (2 ^ n : Nat)).toNat

/-- The number of set bits among the low n. -/
def popcount : Nat → Nat → Nat
  | 0, _ => 0
  | n + 1, x => x % 2 + popcount n (x / 2)

/-- The numbers of the set bits among the low n, ascending. -/
def setBits (n x : Nat) : List Nat := (List.range n).filter (fun i => bitOf x i)

/-- The low n-bit pieces of x folded together by XOR; `fuel` pieces are read (R377, R378). -/
def foldXor (n : Nat) : Nat → Nat → Nat
  | 0, _ => 0
  | fuel + 1, x => (x % 2 ^ n) ^^^ foldXor n fuel (x / 2 ^ n)

/-! Association lists with rising keys. -/

/-- The value at a key. -/
def alGet {α : Type} (l : List (Nat × α)) (k : Nat) : Option α := (l.find? (fun p => p.1 == k)).map (·.2)

/-- The list with a key set, keys kept rising. -/
def alSet {α : Type} : List (Nat × α) → Nat → α → List (Nat × α)
  | [], k, v => [(k, v)]
  | (k', v') :: t, k, v =>
    if k < k' then (k, v) :: (k', v') :: t
    else if k = k' then (k, v) :: t
    else (k', v') :: alSet t k v

/-- The list with a key removed. -/
def alErase {α : Type} (l : List (Nat × α)) (k : Nat) : List (Nat × α) := l.filter (fun p => p.1 != k)

/-- Replace the first element that satisfies p. -/
def updFirst {α : Type} (p : α → Bool) (f : α → α) : List α → List α
  | [] => []
  | x :: t => if p x then f x :: t else x :: updFirst p f t

/-- Element i changed by f; a list too short is unchanged. -/
def updAt {α : Type} (l : List α) (i : Nat) (f : α → α) : List α := l.modify i f

/-! Sparse memories (log 3): addresses strictly rising, no byte equal to 0. -/

/-- What a memory holds at an address; an unlisted address holds 0. -/
def memGet : SMem → Nat → Byte
  | [], _ => 0
  | (k, v) :: t, a => if k = a then v else memGet t a

/-- A memory with one byte written, in canonical form. -/
def memSet : SMem → Nat → Byte → SMem
  | [], a, b => if b = 0 then [] else [(a, b)]
  | (k, v) :: t, a, b =>
    if a < k then (if b = 0 then (k, v) :: t else (a, b) :: (k, v) :: t)
    else if a = k then (if b = 0 then t else (a, b) :: t)
    else (k, v) :: memSet t a b

/-- n bytes from an address. -/
def memRead (m : SMem) : Nat → Nat → List Byte
  | _, 0 => []
  | a, n + 1 => memGet m a :: memRead m (a + 1) n

/-- Consecutive bytes written from an address. -/
def memWrite : SMem → Nat → List Byte → SMem
  | m, _, [] => m
  | m, a, b :: bs => memWrite (memSet m a b) (a + 1) bs

/-- A memory with every byte of [lo, hi) set to 0. -/
def memZero (m : SMem) (lo hi : Nat) : SMem := m.filter (fun c => c.1 < lo || hi ≤ c.1)

/-- Keys strictly rise from above `lo` (exclusive bound given as a lower bound) and no value is 0. -/
def memWfFrom : Nat → SMem → Bool
  | _, [] => true
  | lo, (k, v) :: t => decide (lo ≤ k) && (v != 0) && memWfFrom (k + 1) t

/-- The canonical form of a memory. -/
def memWf (m : SMem) : Bool := memWfFrom 0 m

/-- CRC-32C over bytes (R571): polynomial 0x1EDC6F41 reflected, initial value and final XOR 0xFFFFFFFF. -/
def crcBits : Nat → BitVec 32 → BitVec 32
  | 0, c => c
  | n + 1, c => crcBits n (if c.getLsbD 0 then (c >>> 1) ^^^ 0x82F63B78#32 else c >>> 1)

/-- The CRC register after more bytes. -/
def crcStep (c : BitVec 32) (bs : List Byte) : BitVec 32 :=
  bs.foldl (fun c b => crcBits 8 (c ^^^ b.setWidth 32)) c

/-- CRC-32C of a byte list. -/
def crc32c (bs : List Byte) : BitVec 32 := crcStep 0xFFFFFFFF#32 bs ^^^ 0xFFFFFFFF#32

/-- Numbers sorted ascending (insertion). -/
def insertSorted (x : Nat) : List Nat → List Nat
  | [] => [x]
  | y :: t => if x ≤ y then x :: y :: t else y :: insertSorted x t

def sortNats (l : List Nat) : List Nat := l.foldr insertSorted []

/-- The median of a list, the lower of the two middle values; 0 of the empty list. -/
def median (l : List Nat) : Nat := (sortNats l).getD ((l.length - 1) / 2) 0

/-- Round n up to a multiple of k. -/
def alignUp (n k : Nat) : Nat := (n + k - 1) / k * k

/-- The low n bits XORed byte-wise with a keystream. -/
def xorBytes : List Byte → List Byte → List Byte
  | a :: as, b :: bs => (a ^^^ b) :: xorBytes as bs
  | as, _ => as

end Sys2Proof.Machine
end

