-- ==== Sys2Proof/Machine/Entries.lean ====
section
/-! DEFINITION. The object dictionary's entry table, from the entry tables of the spec's chapters: for every entry its
index, instances, subindex, type, access code, rights per port class and default (R541, R556 to R567). -/

namespace Sys2Proof.Machine

open Sys2Proof

/-- Value types of Table 21.1. -/
inductive EType where
  | bool | u8 | u16 | u32 | u64 | i32 | f32 | time64
  | octets (n : Nat)
  deriving DecidableEq, Repr

/-- Access codes of the entry model. -/
inductive EAccess where
  | ro | rw | wo | rws | cmd
  deriving DecidableEq, Repr

/-- One row of an entry table. Rights are bit sets: H 1, S 2, F 4, B 8. -/
structure EntryDef where
  index : Nat
  /-- instances and the distance of their indices -/
  count : Nat := 1
  stride : Nat := 1
  sub : Nat
  /-- consecutive subindices with this row -/
  subs : Nat := 1
  typ : EType
  acc : EAccess
  rd : Nat
  wr : Nat := 0
  dflt : Nat := 0
  deriving DecidableEq, Repr

/-- Key of an entry: index × 256 + subindex. -/
def entryKey (index sub : Nat) : Nat := index * 256 + sub

/-! Keys of the entries; copy n of an index lies n × 256 above (a core n × 0x2000). -/

/-- ORDERING_NUMBER, 0x1000:01 (Table 0.2). -/
abbrev Ent.orderingNumber : Nat := 0x100001
/-- ENABLED_ARRAYS, 0x1000:02 (Table 0.2). -/
abbrev Ent.enabledArrays : Nat := 0x100002
/-- ARRAY_MAP, 0x1000:03 (Table 0.2). -/
abbrev Ent.arrayMap : Nat := 0x100003
/-- NORTH_STEPPING, 0x1000:04 (Table 0.2). -/
abbrev Ent.northStepping : Nat := 0x100004
/-- SOUTH_STEPPING, 0x1000:05 (Table 0.2). -/
abbrev Ent.southStepping : Nat := 0x100005
/-- HUB_STEPPING, 0x1000:06 (Table 0.2). -/
abbrev Ent.hubStepping : Nat := 0x100006
/-- FW_VERSION, 0x1000:07 (Table 0.2). -/
abbrev Ent.fwVersion : Nat := 0x100007
/-- SVC_ENABLE, 0x2000:01 (Table 2.10). -/
abbrev Ent.svcEnable : Nat := 0x200001
/-- UDP_PORT, 0x2000:02 (Table 2.10). -/
abbrev Ent.udpPort : Nat := 0x200002
/-- VERSIONS, 0x2000:03 (Table 2.10). -/
abbrev Ent.versions : Nat := 0x200003
/-- ADMIT_MARGIN_NS, 0x2000:04 (Table 2.10). -/
abbrev Ent.admitMarginNs : Nat := 0x200004
/-- REASSEMBLY_NS, 0x2000:05 (Table 2.10). -/
abbrev Ent.reassemblyNs : Nat := 0x200005
/-- RESP_DSCP, 0x2000:06 (Table 2.10). -/
abbrev Ent.respDscp : Nat := 0x200006
/-- RESP_RATE_MBPS, 0x2000:07 (Table 2.10). -/
abbrev Ent.respRateMbps : Nat := 0x200007
/-- CACHE_ENABLE, 0x2000:08 (Table 2.10). -/
abbrev Ent.cacheEnable : Nat := 0x200008
/-- CACHE_ENTRIES, 0x2000:09 (Table 2.10). -/
abbrev Ent.cacheEntries : Nat := 0x200009
/-- REQUIRE_SECURE, 0x2000:0A (Table 2.10). -/
abbrev Ent.requireSecure : Nat := 0x20000A
/-- KEY_LOAD, 0x2000:0B (Table 2.10). -/
abbrev Ent.keyLoad : Nat := 0x20000B
/-- CACHE_TTL_NS, 0x2000:0C (Table 2.10). -/
abbrev Ent.cacheTtlNs : Nat := 0x20000C
/-- KEY_SLOTS, 0x2000:0D (Table 2.10). -/
abbrev Ent.keySlots : Nat := 0x20000D
/-- MODEL_ID, 0x2010:01 (Table 2.11). -/
abbrev Ent.bindingModelId : Nat := 0x201001
/-- CONTEXT, 0x2010:02 (Table 2.11). -/
abbrev Ent.bindingContext : Nat := 0x201002
/-- QUEUE, 0x2010:03 (Table 2.11). -/
abbrev Ent.bindingQueue : Nat := 0x201003
/-- VERSIONS, 0x2010:04 (Table 2.11). -/
abbrev Ent.bindingVersions : Nat := 0x201004
/-- ENABLE, 0x2010:05 (Table 2.11). -/
abbrev Ent.bindingEnable : Nat := 0x201005
/-- DEFAULT_BUDGET_NS, 0x2010:06 (Table 2.11). -/
abbrev Ent.bindingDefaultBudgetNs : Nat := 0x201006
/-- EST_SERVICE_NS, 0x2010:07 (Table 2.11). -/
abbrev Ent.bindingEstServiceNs : Nat := 0x201007
/-- EXIT_EST_NS, 0x2010:08 (Table 2.11). -/
abbrev Ent.bindingExitEstNs : Nat := 0x201008
/-- INTERVAL_NS, 0x2010:09 (Table 2.11). -/
abbrev Ent.bindingIntervalNs : Nat := 0x201009
/-- EXIT_RESERVE_NS, 0x2010:0A (Table 2.11). -/
abbrev Ent.bindingExitReserveNs : Nat := 0x20100A
/-- EXIT_MIN, 0x2010:0B (Table 2.11). -/
abbrev Ent.bindingExitMin : Nat := 0x20100B
/-- ADMIT_POLICY, 0x2010:0C (Table 2.11). -/
abbrev Ent.bindingAdmitPolicy : Nat := 0x20100C
/-- QUEUE_LIMIT, 0x2010:0D (Table 2.11). -/
abbrev Ent.bindingQueueLimit : Nat := 0x20100D
/-- MAX_CANDIDATES, 0x2010:0E (Table 2.11). -/
abbrev Ent.bindingMaxCandidates : Nat := 0x20100E
/-- MEASURED_SERVICE_NS, 0x2010:0F (Table 2.11). -/
abbrev Ent.bindingMeasuredServiceNs : Nat := 0x20100F
/-- MEASURED_EXIT_NS, 0x2010:10 (Table 2.11). -/
abbrev Ent.bindingMeasuredExitNs : Nat := 0x201010
/-- MEASURED_INTERVAL_NS, 0x2010:11 (Table 2.11). -/
abbrev Ent.bindingMeasuredIntervalNs : Nat := 0x201011
/-- TABLE_COUNT, 0x2100:01 (Table 3.9). -/
abbrev Ent.tableCount : Nat := 0x210001
/-- MAX_TABLES, 0x2100:02 (Table 3.9). -/
abbrev Ent.maxTables : Nat := 0x210002
/-- TABLE_DEFINE, 0x2100:03 (Table 3.9). -/
abbrev Ent.tableDefine : Nat := 0x210003
/-- TABLE_DELETE, 0x2100:04 (Table 3.9). -/
abbrev Ent.tableDelete : Nat := 0x210004
/-- TABLE_SELECT, 0x2100:05 (Table 3.9). -/
abbrev Ent.tableSelect : Nat := 0x210005
/-- ROW_CACHE_GB, 0x2100:06 (Table 3.9). -/
abbrev Ent.rowCacheGb : Nat := 0x210006
/-- REMOTE_TIMEOUT_NS, 0x2100:07 (Table 3.9). -/
abbrev Ent.remoteTimeoutNs : Nat := 0x210007
/-- TABLE_READ, 0x2100:08 (Table 3.9). -/
abbrev Ent.tableRead : Nat := 0x210008
/-- EXPORT_ENABLE, 0x2100:09 (Table 3.9). -/
abbrev Ent.exportEnable : Nat := 0x210009
/-- LOOKUP_LANES, 0x2100:0A (Table 3.9). -/
abbrev Ent.lookupLanes : Nat := 0x21000A
/-- CURRENT_EPOCH, 0x2200:01 (Table 4.8). -/
abbrev Ent.currentEpoch : Nat := 0x220001
/-- OPEN_BATCHES, 0x2200:02 (Table 4.8). -/
abbrev Ent.openBatches : Nat := 0x220002
/-- UPDATE_LOG_MB, 0x2200:03 (Table 4.8). -/
abbrev Ent.updateLogMb : Nat := 0x220003
/-- UPDATE_SHARE_PCT, 0x2200:04 (Table 4.8). -/
abbrev Ent.updateSharePct : Nat := 0x220004
/-- COMMIT_WAIT_NS, 0x2200:05 (Table 4.8). -/
abbrev Ent.commitWaitNs : Nat := 0x220005
/-- DEFER_LIMIT_NS, 0x2200:06 (Table 4.8). -/
abbrev Ent.deferLimitNs : Nat := 0x220006
/-- HOST_WRITES, 0x2200:07 (Table 4.8). -/
abbrev Ent.hostWrites : Nat := 0x220007
/-- IMPORT_WRITES, 0x2200:08 (Table 4.8). -/
abbrev Ent.importWrites : Nat := 0x220008
/-- REMOTE_COMMIT_NS, 0x2200:09 (Table 4.8). -/
abbrev Ent.remoteCommitNs : Nat := 0x220009
/-- INDEX_ENTRIES, 0x2200:0A (Table 4.8). -/
abbrev Ent.indexEntries : Nat := 0x22000A
/-- INDEX_USED, 0x2200:0B (Table 4.8). -/
abbrev Ent.indexUsed : Nat := 0x22000B
/-- PREVIOUS_READERS, 0x2200:0C (Table 4.8). -/
abbrev Ent.previousReaders : Nat := 0x22000C
/-- PIPE_LATENCY_CYCLES, 0x2300:01 (Table 5.5). -/
abbrev Ent.pipeLatencyCycles : Nat := 0x230001
/-- DRAIN_CYCLES, 0x2300:02 (Table 5.5). -/
abbrev Ent.drainCycles : Nat := 0x230002
/-- WEIGHT_LOAD_CYCLES, 0x2300:03 (Table 5.5). -/
abbrev Ent.weightLoadCycles : Nat := 0x230003
/-- ACC_ENTRIES, 0x2300:04 (Table 5.5). -/
abbrev Ent.accEntries : Nat := 0x230004
/-- OPEN_CHAINS_MAX, 0x2300:05 (Table 5.5). -/
abbrev Ent.openChainsMax : Nat := 0x230005
/-- CHAIN_DESCRIPTORS_MAX, 0x2300:06 (Table 5.5). -/
abbrev Ent.chainDescriptorsMax : Nat := 0x230006
/-- TILE_RING_ENTRIES, 0x2300:07 (Table 5.5). -/
abbrev Ent.tileRingEntries : Nat := 0x230007
/-- SOFT_REPAIR, 0x2300:08 (Table 5.5). -/
abbrev Ent.softRepair : Nat := 0x230008
/-- CE_REPAIR_THRESHOLD, 0x2300:09 (Table 5.5). -/
abbrev Ent.ceRepairThreshold : Nat := 0x230009
/-- ARRAY_ENABLE, 0x3001:01 (Table 5.6). -/
abbrev Ent.coreArrayEnable : Nat := 0x300101
/-- CORE_FAILED, 0x3001:02 (Table 5.6). -/
abbrev Ent.coreFailed : Nat := 0x300102
/-- SPARES_USED, 0x3001:03 (Table 5.6). -/
abbrev Ent.coreSparesUsed : Nat := 0x300103
/-- REPAIR_PENDING, 0x3001:04 (Table 5.6). -/
abbrev Ent.coreRepairPending : Nat := 0x300104
/-- ACC_FRACTION_BITS, 0x2400:01 (Table 6.4). -/
abbrev Ent.accFractionBits : Nat := 0x240001
/-- ACC_EXPONENT_BIAS, 0x2400:02 (Table 6.4). -/
abbrev Ent.accExponentBias : Nat := 0x240002
/-- BOUND_PRODUCTS, 0x2400:03 (Table 6.4). -/
abbrev Ent.boundProducts : Nat := 0x240003
/-- REPLAY_SHIFTS, 0x2400:04 (Table 6.4). -/
abbrev Ent.replayShifts : Nat := 0x240004
/-- FORMATS, 0x2400:05 (Table 6.4). -/
abbrev Ent.formats : Nat := 0x240005
/-- SAT_RECORD_RATE, 0x2400:06 (Table 6.4). -/
abbrev Ent.satRecordRate : Nat := 0x240006
/-- REPLAY_RECORD, 0x2400:07 (Table 6.4). -/
abbrev Ent.replayRecord : Nat := 0x240007
/-- VECTOR_LANES, 0x2310:01 (Table 7.13). -/
abbrev Ent.vectorLanes : Nat := 0x231001
/-- TOPK_MAX, 0x2310:02 (Table 7.13). -/
abbrev Ent.topkMax : Nat := 0x231002
/-- SUMMARY_SLOTS, 0x2310:03 (Table 7.13). -/
abbrev Ent.summarySlots : Nat := 0x231003
/-- VQUEUE_DEPTH, 0x2310:04 (Table 7.13). -/
abbrev Ent.vqueueDepth : Nat := 0x231004
/-- ICACHE_KIB, 0x2310:05 (Table 7.13). -/
abbrev Ent.icacheKib : Nat := 0x231005
/-- ISA_VERSION, 0x2310:06 (Table 7.13). -/
abbrev Ent.isaVersion : Nat := 0x231006
/-- TASK_LIMIT_NS, 0x2310:07 (Table 7.13). -/
abbrev Ent.taskLimitNs : Nat := 0x231007
/-- CC_STATE, 0x3002:01 (Table 7.14). -/
abbrev Ent.coreCcState : Nat := 0x300201
/-- TASKS_RUN, 0x3002:02 (Table 7.14). -/
abbrev Ent.coreTasksRun : Nat := 0x300202
/-- SESSION_POOL_GB, 0x2020:01 (Table 8.6). -/
abbrev Ent.sessionPoolGb : Nat := 0x202001
/-- SESSIONS_RESIDENT, 0x2020:02 (Table 8.6). -/
abbrev Ent.sessionsResident : Nat := 0x202002
/-- STEP_NS, 0x2020:03 (Table 8.6). -/
abbrev Ent.stepNs : Nat := 0x202003
/-- STEP_JOINS_MAX, 0x2020:04 (Table 8.6). -/
abbrev Ent.stepJoinsMax : Nat := 0x202004
/-- SESSION_IDLE_NS, 0x2020:05 (Table 8.6). -/
abbrev Ent.sessionIdleNs : Nat := 0x202005
/-- SESSION_CLOSE, 0x2020:06 (Table 8.6). -/
abbrev Ent.sessionClose : Nat := 0x202006
/-- POOL_FREE_BYTES, 0x2020:07 (Table 8.6). -/
abbrev Ent.poolFreeBytes : Nat := 0x202007
/-- JOIN_HOLD_EVENTS, 0x2020:09 (Table 8.6). -/
abbrev Ent.joinHoldEvents : Nat := 0x202009
/-- SESSION_QUEUE, 0x2020:0A (Table 8.6). -/
abbrev Ent.sessionQueue : Nat := 0x20200A
/-- STEP_BUDGET_NS, 0x2020:0B (Table 8.6). -/
abbrev Ent.stepBudgetNs : Nat := 0x20200B
/-- DRAYS_PER_CORE, 0x2330:01 (Table 9.4). -/
abbrev Ent.draysPerCore : Nat := 0x233001
/-- RUN_AHEAD_TILES, 0x2330:02 (Table 9.4). -/
abbrev Ent.runAheadTiles : Nat := 0x233002
/-- RING_SLOTS_MIN, 0x2330:03 (Table 9.4). -/
abbrev Ent.ringSlotsMin : Nat := 0x233003
/-- RING_SLOTS_MAX, 0x2330:04 (Table 9.4). -/
abbrev Ent.ringSlotsMax : Nat := 0x233004
/-- CARAVAN_GROUPS, 0x2330:05 (Table 9.4). -/
abbrev Ent.caravanGroups : Nat := 0x233005
/-- STREAMS_PER_DIE, 0x2330:06 (Table 9.4). -/
abbrev Ent.streamsPerDie : Nat := 0x233006
/-- BARRIER_SHARE_16THS, 0x2330:07 (Table 9.4). -/
abbrev Ent.barrierShare16ths : Nat := 0x233007
/-- BULK_SHARE_16THS, 0x2330:08 (Table 9.4). -/
abbrev Ent.bulkShare16ths : Nat := 0x233008
/-- DETACH_RECORD_NS, 0x2330:09 (Table 9.4). -/
abbrev Ent.detachRecordNs : Nat := 0x233009
/-- CLASS, 0x2510:01 (Table 10.2). -/
abbrev Ent.queueClass : Nat := 0x251001
/-- QUEUE_DEPTH, 0x2510:02 (Table 10.2). -/
abbrev Ent.queueDepth : Nat := 0x251002
/-- RING_ADDR, 0x2510:03 (Table 10.2). -/
abbrev Ent.queueRingAddr : Nat := 0x251003
/-- COMPL_ADDR, 0x2510:04 (Table 10.2). -/
abbrev Ent.queueComplAddr : Nat := 0x251004
/-- CONTEXT, 0x2510:05 (Table 10.2). -/
abbrev Ent.queueContext : Nat := 0x251005
/-- ENABLE, 0x2510:06 (Table 10.2). -/
abbrev Ent.queueEnable : Nat := 0x251006
/-- HEAD, 0x2510:07 (Table 10.2). -/
abbrev Ent.queueHead : Nat := 0x251007
/-- STATE, 0x2510:08 (Table 10.2). -/
abbrev Ent.queueState : Nat := 0x251008
/-- MSIX_VECTOR, 0x2510:09 (Table 10.2). -/
abbrev Ent.queueMsixVector : Nat := 0x251009
/-- DIRECT_CORE, 0x2510:0A (Table 10.2). -/
abbrev Ent.queueDirectCore : Nat := 0x25100A
/-- DIRECT_SHADOW, 0x2510:0B (Table 10.2). -/
abbrev Ent.queueDirectShadow : Nat := 0x25100B
/-- QUEUES, 0x2500:01 (Table 10.11). -/
abbrev Ent.queues : Nat := 0x250001
/-- HITCH_TIMEOUT_NS, 0x2500:02 (Table 10.11). -/
abbrev Ent.hitchTimeoutNs : Nat := 0x250002
/-- HOST_POLL_NS, 0x2500:03 (Table 10.11). -/
abbrev Ent.hostPollNs : Nat := 0x250003
/-- PHASE_RETRY_NS, 0x2500:04 (Table 10.11). -/
abbrev Ent.phaseRetryNs : Nat := 0x250004
/-- PHASE_RETRIES, 0x2500:05 (Table 10.11). -/
abbrev Ent.phaseRetries : Nat := 0x250005
/-- GRAPH_SELECT, 0x2500:06 (Table 10.11). -/
abbrev Ent.graphSelect : Nat := 0x250006
/-- POSTILION_STATE, 0x2500:07 (Table 10.11). -/
abbrev Ent.postilionState : Nat := 0x250007
/-- GRAPH_READ, 0x2500:08 (Table 10.11). -/
abbrev Ent.graphRead : Nat := 0x250008
/-- GRAPHS_LOADED, 0x2500:09 (Table 10.11). -/
abbrev Ent.graphsLoaded : Nat := 0x250009
/-- RUN_AHEAD_ENABLE, 0x2550:01 (Table 11.4). -/
abbrev Ent.runAheadEnable : Nat := 0x255001
/-- STAGES_AHEAD_MAX, 0x2550:02 (Table 11.4). -/
abbrev Ent.stagesAheadMax : Nat := 0x255002
/-- LAUNCHES_AHEAD_MAX, 0x2550:03 (Table 11.4). -/
abbrev Ent.launchesAheadMax : Nat := 0x255003
/-- SPEC_IDS_MAX, 0x2550:04 (Table 11.4). -/
abbrev Ent.specIdsMax : Nat := 0x255004
/-- SPEC_IDS_LIVE, 0x2550:05 (Table 11.4). -/
abbrev Ent.specIdsLive : Nat := 0x255005
/-- PROV_RANGES_CORE, 0x2550:06 (Table 11.4). -/
abbrev Ent.provRangesCore : Nat := 0x255006
/-- PROV_RANGES_STAGING, 0x2550:07 (Table 11.4). -/
abbrev Ent.provRangesStaging : Nat := 0x255007
/-- PREDICT_ENTRIES, 0x2550:08 (Table 11.4). -/
abbrev Ent.predictEntries : Nat := 0x255008
/-- PREDICT_RESET, 0x2550:09 (Table 11.4). -/
abbrev Ent.predictReset : Nat := 0x255009
/-- SPEC_QUEUE_MASK, 0x2550:0A (Table 11.4). -/
abbrev Ent.specQueueMask : Nat := 0x25500A
/-- LEGACY_QUEUE, 0x2560:01 (Table 12.5). -/
abbrev Ent.legacyQueue : Nat := 0x256001
/-- LEGACY_INFLIGHT_MAX, 0x2560:02 (Table 12.5). -/
abbrev Ent.legacyInflightMax : Nat := 0x256002
/-- LEGACY_STATE, 0x2560:03 (Table 12.5). -/
abbrev Ent.legacyState : Nat := 0x256003
/-- JOB_STATE, 0x2600:01 (Table 13.5). -/
abbrev Ent.jobState : Nat := 0x260001
/-- JOB_DEPLOY, 0x2600:02 (Table 13.5). -/
abbrev Ent.jobDeploy : Nat := 0x260002
/-- JOB_UNDEPLOY, 0x2600:03 (Table 13.5). -/
abbrev Ent.jobUndeploy : Nat := 0x260003
/-- JOB_TAG, 0x2600:04 (Table 13.5). -/
abbrev Ent.jobTag : Nat := 0x260004
/-- DEPLOYED_AT, 0x2600:05 (Table 13.5). -/
abbrev Ent.deployedAt : Nat := 0x260005
/-- DEPLOYER, 0x2600:06 (Table 13.5). -/
abbrev Ent.deployer : Nat := 0x260006
/-- RESTARTS, 0x2600:07 (Table 13.5). -/
abbrev Ent.restarts : Nat := 0x260007
/-- UNDEPLOY_DRAIN_NS, 0x2600:08 (Table 13.5). -/
abbrev Ent.undeployDrainNs : Nat := 0x260008
/-- CONTEXT_CREATE, 0x2601:01 (Table 13.5). -/
abbrev Ent.contextCreate : Nat := 0x260101
/-- CONTEXT_DELETE, 0x2601:02 (Table 13.5). -/
abbrev Ent.contextDelete : Nat := 0x260102
/-- CONTEXTS_MAX, 0x2601:03 (Table 13.5). -/
abbrev Ent.contextsMax : Nat := 0x260103
/-- QUEUE_WEIGHT, 0x2602:01 (Table 13.5). -/
abbrev Ent.queueWeight : Nat := 0x260201
/-- SCHED_ENABLE, 0x2603:01 (Table 13.5). -/
abbrev Ent.schedEnable : Nat := 0x260301
/-- SCHED_COMMIT, 0x2603:02 (Table 13.5). -/
abbrev Ent.schedCommit : Nat := 0x260302
/-- SLOT_NS, 0x2603:03 (Table 13.5). -/
abbrev Ent.slotNs : Nat := 0x260303
/-- SLOTS, 0x2603:04 (Table 13.5). -/
abbrev Ent.slots : Nat := 0x260304
/-- WAKE_MARGIN_NS, 0x2603:05 (Table 13.5). -/
abbrev Ent.wakeMarginNs : Nat := 0x260305
/-- IDLE_HOLD_NS, 0x2603:06 (Table 13.5). -/
abbrev Ent.idleHoldNs : Nat := 0x260306
/-- DEBT_MAX_NS, 0x2603:07 (Table 13.5). -/
abbrev Ent.debtMaxNs : Nat := 0x260307
/-- CURRENT_SLOT, 0x2603:08 (Table 13.5). -/
abbrev Ent.currentSlot : Nat := 0x260308
/-- SCHED_PENDING, 0x2603:09 (Table 13.5). -/
abbrev Ent.schedPending : Nat := 0x260309
/-- PENDING_SLOT, 0x2620:01 (Table 13.6). -/
abbrev Ent.pendingSlot : Nat := 0x262001
/-- ACTIVE_SLOT, 0x2621:01 (Table 13.6). -/
abbrev Ent.activeSlot : Nat := 0x262101
/-- CTX_STATE, 0x2610:01 (Table 13.7). -/
abbrev Ent.ctxState : Nat := 0x261001
/-- CG_MASK, 0x2610:02 (Table 13.7). -/
abbrev Ent.ctxCgMask : Nat := 0x261002
/-- SRAM_BASE, 0x2610:03 (Table 13.7). -/
abbrev Ent.ctxSramBase : Nat := 0x261003
/-- SRAM_BYTES, 0x2610:04 (Table 13.7). -/
abbrev Ent.ctxSramBytes : Nat := 0x261004
/-- STAGING_BASE, 0x2610:05 (Table 13.7). -/
abbrev Ent.ctxStagingBase : Nat := 0x261005
/-- STAGING_BYTES, 0x2610:06 (Table 13.7). -/
abbrev Ent.ctxStagingBytes : Nat := 0x261006
/-- ACC_BASE, 0x2610:07 (Table 13.7). -/
abbrev Ent.ctxAccBase : Nat := 0x261007
/-- ACC_ENTRIES, 0x2610:08 (Table 13.7). -/
abbrev Ent.ctxAccEntries : Nat := 0x261008
/-- HBM_QUOTA, 0x2610:09 (Table 13.7). -/
abbrev Ent.ctxHbmQuota : Nat := 0x261009
/-- HBM_USED, 0x2610:0A (Table 13.7). -/
abbrev Ent.ctxHbmUsed : Nat := 0x26100A
/-- COLD_QUOTA, 0x2610:0B (Table 13.7). -/
abbrev Ent.ctxColdQuota : Nat := 0x26100B
/-- HBM_CAPACITY, 0x2700:01 (Table 14.7). -/
abbrev Ent.hbmCapacity : Nat := 0x270001
/-- HBM_RESERVE, 0x2700:02 (Table 14.7). -/
abbrev Ent.hbmReserve : Nat := 0x270002
/-- COLD_CAPACITY, 0x2700:03 (Table 14.7). -/
abbrev Ent.coldCapacity : Nat := 0x270003
/-- SCRUB_PERIOD_S, 0x2700:04 (Table 14.7). -/
abbrev Ent.scrubPeriodS : Nat := 0x270004
/-- ROW_CE_THRESHOLD, 0x2700:05 (Table 14.7). -/
abbrev Ent.rowCeThreshold : Nat := 0x270005
/-- SPARES_FREE_HBM, 0x2700:06 (Table 14.7). -/
abbrev Ent.sparesFreeHbm : Nat := 0x270006
/-- SPARES_FREE_COLD, 0x2700:07 (Table 14.7). -/
abbrev Ent.sparesFreeCold : Nat := 0x270007
/-- RETIRED_FRAMES, 0x2700:08 (Table 14.7). -/
abbrev Ent.retiredFrames : Nat := 0x270008
/-- LAST_UE, 0x2700:09 (Table 14.7). -/
abbrev Ent.lastUe : Nat := 0x270009
/-- JOURNAL_PENDING, 0x2700:0A (Table 14.7). -/
abbrev Ent.journalPending : Nat := 0x27000A
/-- HBM_PIN_RATE_MBPS, 0x2700:0B (Table 14.7). -/
abbrev Ent.hbmPinRateMbps : Nat := 0x27000B
/-- COLD_PIN_RATE_MBPS, 0x2700:0C (Table 14.7). -/
abbrev Ent.coldPinRateMbps : Nat := 0x27000C
/-- REPAIR_RUN, 0x6700:01 (Table 14.8). -/
abbrev Ent.repairRun : Nat := 0x670001
/-- REPAIR_PROGRESS, 0x6700:02 (Table 14.8). -/
abbrev Ent.repairProgress : Nat := 0x670002
/-- REPAIR_ADD, 0x6700:03 (Table 14.8). -/
abbrev Ent.repairAdd : Nat := 0x670003
/-- TEST_PORT_RAW, 0x6700:04 (Table 14.8). -/
abbrev Ent.testPortRaw : Nat := 0x670004
/-- JOURNAL_SELECT, 0x6700:05 (Table 14.8). -/
abbrev Ent.journalSelect : Nat := 0x670005
/-- JOURNAL_READ, 0x6700:06 (Table 14.8). -/
abbrev Ent.journalRead : Nat := 0x670006
/-- PAGE_BYTES, 0x2800:01 (Table 15.8). -/
abbrev Ent.pageBytes : Nat := 0x280001
/-- FQ_ENTRIES, 0x2800:02 (Table 15.8). -/
abbrev Ent.fqEntries : Nat := 0x280002
/-- FQ_ADDR, 0x2800:03 (Table 15.8). -/
abbrev Ent.fqAddr : Nat := 0x280003
/-- FQ_TAIL, 0x2800:04 (Table 15.8). -/
abbrev Ent.fqTail : Nat := 0x280004
/-- FQ_STATUS, 0x2800:05 (Table 15.8). -/
abbrev Ent.fqStatus : Nat := 0x280005
/-- FQ_OVERFLOW_CLEAR, 0x2800:06 (Table 15.8). -/
abbrev Ent.fqOverflowClear : Nat := 0x280006
/-- FAULT_MSIX, 0x2800:07 (Table 15.8). -/
abbrev Ent.faultMsix : Nat := 0x280007
/-- FAULT_TIMEOUT_NS, 0x2800:08 (Table 15.8). -/
abbrev Ent.faultTimeoutNs : Nat := 0x280008
/-- MAP_ADDR, 0x2800:09 (Table 15.8). -/
abbrev Ent.mapAddr : Nat := 0x280009
/-- MAP_DEPTH, 0x2800:0A (Table 15.8). -/
abbrev Ent.mapDepth : Nat := 0x28000A
/-- MAP_ENABLE, 0x2800:0B (Table 15.8). -/
abbrev Ent.mapEnable : Nat := 0x28000B
/-- MAP_HEAD, 0x2800:0C (Table 15.8). -/
abbrev Ent.mapHead : Nat := 0x28000C
/-- DRAY_TLB_ENTRIES, 0x2800:0D (Table 15.8). -/
abbrev Ent.drayTlbEntries : Nat := 0x28000D
/-- HUB_TLB_ENTRIES, 0x2800:0E (Table 15.8). -/
abbrev Ent.hubTlbEntries : Nat := 0x28000E
/-- PTE_CACHE_ENTRIES, 0x2800:0F (Table 15.8). -/
abbrev Ent.pteCacheEntries : Nat := 0x28000F
/-- LEAVES_FREE, 0x2800:10 (Table 15.8). -/
abbrev Ent.leavesFree : Nat := 0x280010
/-- FAULT_AGENTS, 0x2800:11 (Table 15.8). -/
abbrev Ent.faultAgents : Nat := 0x280011
/-- AGENT_SELECT, 0x2800:12 (Table 15.8). -/
abbrev Ent.agentSelect : Nat := 0x280012
/-- AGENT_FAULT, 0x2800:13 (Table 15.8). -/
abbrev Ent.agentFault : Nat := 0x280013
/-- VENDOR_ID, 0x2900:01 (Table 16.8). -/
abbrev Ent.vendorId : Nat := 0x290001
/-- DEVICE_ID, 0x2900:02 (Table 16.8). -/
abbrev Ent.deviceId : Nat := 0x290002
/-- LINK_GEN, 0x2900:03 (Table 16.8). -/
abbrev Ent.linkGen : Nat := 0x290003
/-- LINK_WIDTH, 0x2900:04 (Table 16.8). -/
abbrev Ent.linkWidth : Nat := 0x290004
/-- MAX_LINK_GEN, 0x2900:05 (Table 16.8). -/
abbrev Ent.maxLinkGen : Nat := 0x290005
/-- BAR2_WINDOW_VA, 0x2900:06 (Table 16.8). -/
abbrev Ent.bar2WindowVa : Nat := 0x290006
/-- BAR2_RESET_GIB, 0x2900:07 (Table 16.8). -/
abbrev Ent.bar2ResetGib : Nat := 0x290007
/-- EVENT_MSIX, 0x2900:08 (Table 16.8). -/
abbrev Ent.eventMsix : Nat := 0x290008
/-- IRQ_HOLDOFF_NS, 0x2900:09 (Table 16.8). -/
abbrev Ent.irqHoldoffNs : Nat := 0x290009
/-- L1_ALLOWED, 0x2900:0A (Table 16.8). -/
abbrev Ent.l1Allowed : Nat := 0x29000A
/-- BAR2_SIZE, 0x2900:0B (Table 16.8). -/
abbrev Ent.bar2Size : Nat := 0x29000B
/-- HOST_REACHABLE, 0x2900:0C (Table 16.8). -/
abbrev Ent.hostReachable : Nat := 0x29000C
/-- MODULE_NUMBER, 0x2A00:01 (Table 17.11). -/
abbrev Ent.fabModuleNumber : Nat := 0x2A0001
/-- FABRIC_ID, 0x2A00:02 (Table 17.11). -/
abbrev Ent.fabFabricId : Nat := 0x2A0002
/-- FABRIC_JOIN, 0x2A00:03 (Table 17.11). -/
abbrev Ent.fabFabricJoin : Nat := 0x2A0003
/-- FABRIC_LEAVE, 0x2A00:04 (Table 17.11). -/
abbrev Ent.fabFabricLeave : Nat := 0x2A0004
/-- FABRIC_STATE, 0x2A00:05 (Table 17.11). -/
abbrev Ent.fabFabricState : Nat := 0x2A0005
/-- PEER_SET, 0x2A00:06 (Table 17.11). -/
abbrev Ent.fabPeerSet : Nat := 0x2A0006
/-- PEER_SELECT, 0x2A00:07 (Table 17.11). -/
abbrev Ent.fabPeerSelect : Nat := 0x2A0007
/-- PEER_READ, 0x2A00:08 (Table 17.11). -/
abbrev Ent.fabPeerRead : Nat := 0x2A0008
/-- PEER_STATE, 0x2A00:09 (Table 17.11). -/
abbrev Ent.fabPeerState : Nat := 0x2A0009
/-- UDP_PORT, 0x2A00:0A (Table 17.11). -/
abbrev Ent.fabUdpPort : Nat := 0x2A000A
/-- FABRIC_MTU, 0x2A00:0B (Table 17.11). -/
abbrev Ent.fabFabricMtu : Nat := 0x2A000B
/-- DSCP_INFERENCE, 0x2A00:0C (Table 17.11). -/
abbrev Ent.fabDscpInference : Nat := 0x2A000C
/-- DSCP_BARRIER, 0x2A00:0D (Table 17.11). -/
abbrev Ent.fabDscpBarrier : Nat := 0x2A000D
/-- DSCP_BULK, 0x2A00:0E (Table 17.11). -/
abbrev Ent.fabDscpBulk : Nat := 0x2A000E
/-- OP_TIMEOUT_NS, 0x2A00:0F (Table 17.11). -/
abbrev Ent.fabOpTimeoutNs : Nat := 0x2A000F
/-- GLOBAL_TIMEOUT_NS, 0x2A00:10 (Table 17.11). -/
abbrev Ent.fabGlobalTimeoutNs : Nat := 0x2A0010
/-- PEER_DEAD_NS, 0x2A00:11 (Table 17.11). -/
abbrev Ent.fabPeerDeadNs : Nat := 0x2A0011
/-- REKEY_S, 0x2A00:12 (Table 17.11). -/
abbrev Ent.fabRekeyS : Nat := 0x2A0012
/-- RTO_MIN_NS, 0x2A00:13 (Table 17.11). -/
abbrev Ent.fabRtoMinNs : Nat := 0x2A0013
/-- CWND_INIT_KIB, 0x2A00:14 (Table 17.11). -/
abbrev Ent.fabCwndInitKib : Nat := 0x2A0014
/-- CWND_MAX_KIB, 0x2A00:15 (Table 17.11). -/
abbrev Ent.fabCwndMaxKib : Nat := 0x2A0015
/-- WINDOW_BASE, 0x2A00:16 (Table 17.11). -/
abbrev Ent.fabWindowBase : Nat := 0x2A0016
/-- WINDOW_BYTES, 0x2A00:17 (Table 17.11). -/
abbrev Ent.fabWindowBytes : Nat := 0x2A0017
/-- TX_WEIGHTS, 0x2A00:18 (Table 17.11). -/
abbrev Ent.fabTxWeights : Nat := 0x2A0018
/-- PEERS, 0x2A00:19 (Table 17.11). -/
abbrev Ent.fabPeers : Nat := 0x2A0019
/-- LAST_SNAPSHOT, 0x2A00:1A (Table 17.11). -/
abbrev Ent.fabLastSnapshot : Nat := 0x2A001A
/-- PORT_MODE, 0x2A10:01 (Table 17.11). -/
abbrev Ent.portMode : Nat := 0x2A1001
/-- PORT_UP, 0x2A10:02 (Table 17.11). -/
abbrev Ent.portUp : Nat := 0x2A1002
/-- MAC, 0x2A20:01 (Table 17.11). -/
abbrev Ent.ifaceMac : Nat := 0x2A2001
/-- IPV6, 0x2A20:02 (Table 17.11). -/
abbrev Ent.ifaceIpv6 : Nat := 0x2A2002
/-- IPV6_PREFIX, 0x2A20:03 (Table 17.11). -/
abbrev Ent.ifaceIpv6Prefix : Nat := 0x2A2003
/-- GATEWAY6, 0x2A20:04 (Table 17.11). -/
abbrev Ent.ifaceGateway6 : Nat := 0x2A2004
/-- IPV4, 0x2A20:05 (Table 17.11). -/
abbrev Ent.ifaceIpv4 : Nat := 0x2A2005
/-- IPV4_PREFIX, 0x2A20:06 (Table 17.11). -/
abbrev Ent.ifaceIpv4Prefix : Nat := 0x2A2006
/-- GATEWAY4, 0x2A20:07 (Table 17.11). -/
abbrev Ent.ifaceGateway4 : Nat := 0x2A2007
/-- VLAN, 0x2A20:08 (Table 17.11). -/
abbrev Ent.ifaceVlan : Nat := 0x2A2008
/-- GGROUP_MEMBERS, 0x2A30:01 (Table 17.11). -/
abbrev Ent.ggGgroupMembers : Nat := 0x2A3001
/-- GGROUP_ENABLE, 0x2A30:02 (Table 17.11). -/
abbrev Ent.ggGgroupEnable : Nat := 0x2A3002
/-- SERIAL_NUMBER, 0x2B00:01 (Table 18.12). -/
abbrev Ent.serialNumber : Nat := 0x2B0001
/-- DEBUG_LOCK, 0x2B00:02 (Table 18.12). -/
abbrev Ent.debugLock : Nat := 0x2B0002
/-- PORT_ROLES, 0x2B00:03 (Table 18.12). -/
abbrev Ent.portRoles : Nat := 0x2B0003
/-- SEAL_POLICY, 0x2B00:04 (Table 18.12). -/
abbrev Ent.sealPolicy : Nat := 0x2B0004
/-- ROLLBACK_SVN, 0x2B00:05 (Table 18.12). -/
abbrev Ent.rollbackSvn : Nat := 0x2B0005
/-- ROLLBACK_COMMIT, 0x2B00:06 (Table 18.12). -/
abbrev Ent.rollbackCommit : Nat := 0x2B0006
/-- FW_KEY_DIGEST, 0x2B00:07 (Table 18.12). -/
abbrev Ent.fwKeyDigest : Nat := 0x2B0007
/-- FW_KEY_REVOKED, 0x2B00:08 (Table 18.12). -/
abbrev Ent.fwKeyRevoked : Nat := 0x2B0008
/-- DEVID_CHAIN, 0x2B00:09 (Table 18.12). -/
abbrev Ent.devidChain : Nat := 0x2B0009
/-- QUOTE_NONCE, 0x2B00:0A (Table 18.12). -/
abbrev Ent.quoteNonce : Nat := 0x2B000A
/-- QUOTE, 0x2B00:0B (Table 18.12). -/
abbrev Ent.quote : Nat := 0x2B000B
/-- MS_READ, 0x2B00:0C (Table 18.12). -/
abbrev Ent.msRead : Nat := 0x2B000C
/-- LOG_SELECT, 0x2B00:0D (Table 18.12). -/
abbrev Ent.logSelect : Nat := 0x2B000D
/-- LOG_READ, 0x2B00:0E (Table 18.12). -/
abbrev Ent.logRead : Nat := 0x2B000E
/-- MEASURE_EXTEND, 0x2B00:0F (Table 18.12). -/
abbrev Ent.measureExtend : Nat := 0x2B000F
/-- OWNER_UDP_PORT, 0x2B00:10 (Table 18.12). -/
abbrev Ent.ownerUdpPort : Nat := 0x2B0010
/-- RELAY_IN, 0x2B00:11 (Table 18.12). -/
abbrev Ent.relayIn : Nat := 0x2B0011
/-- RELAY_OUT, 0x2B00:12 (Table 18.12). -/
abbrev Ent.relayOut : Nat := 0x2B0012
/-- OWNER_DIGEST, 0x2B00:13 (Table 18.12). -/
abbrev Ent.ownerDigest : Nat := 0x2B0013
/-- OWNER_BUFFER_MB, 0x2B00:14 (Table 18.12). -/
abbrev Ent.ownerBufferMb : Nat := 0x2B0014
/-- OWNER_BUFFER_VA, 0x2B00:15 (Table 18.12). -/
abbrev Ent.ownerBufferVa : Nat := 0x2B0015
/-- OWNER_QUEUE, 0x2B00:16 (Table 18.12). -/
abbrev Ent.ownerQueue : Nat := 0x2B0016
/-- SEAL_HOST_PAGES, 0x2B00:17 (Table 18.12). -/
abbrev Ent.sealHostPages : Nat := 0x2B0017
/-- KEY_WIPE, 0x2B00:18 (Table 18.12). -/
abbrev Ent.keyWipe : Nat := 0x2B0018
/-- ZEROISE_PENDING, 0x2B00:19 (Table 18.12). -/
abbrev Ent.zeroisePending : Nat := 0x2B0019
/-- ZEROISE_PROGRESS, 0x2B00:1A (Table 18.12). -/
abbrev Ent.zeroiseProgress : Nat := 0x2B001A
/-- OWNER_SESSIONS, 0x2B00:1B (Table 18.12). -/
abbrev Ent.ownerSessions : Nat := 0x2B001B
/-- SEALED, 0x2B00:1C (Table 18.12). -/
abbrev Ent.sealed : Nat := 0x2B001C
/-- OWNER_KEYS, 0x2B00:1D (Table 18.12). -/
abbrev Ent.ownerKeys : Nat := 0x2B001D
/-- POWER_CAP_W, 0x2C00:01 (Table 19.5). -/
abbrev Ent.powerCapW : Nat := 0x2C0001
/-- INPUT_POWER_W, 0x2C00:02 (Table 19.5). -/
abbrev Ent.inputPowerW : Nat := 0x2C0002
/-- INPUT_MV, 0x2C00:03 (Table 19.5). -/
abbrev Ent.inputMv : Nat := 0x2C0003
/-- OP_POINT, 0x2C00:04 (Table 19.5). -/
abbrev Ent.opPoint : Nat := 0x2C0004
/-- OP_MIN, 0x2C00:05 (Table 19.5). -/
abbrev Ent.opMin : Nat := 0x2C0005
/-- IDLE_DEPTH_DEFAULT, 0x2C00:06 (Table 19.5). -/
abbrev Ent.idleDepthDefault : Nat := 0x2C0006
/-- CG_STATES, 0x2C00:07 (Table 19.5). -/
abbrev Ent.cgStates : Nat := 0x2C0007
/-- DOMAIN_STATES, 0x2C00:08 (Table 19.5). -/
abbrev Ent.domainStates : Nat := 0x2C0008
/-- COLD_IDLE_NS, 0x2C00:09 (Table 19.5). -/
abbrev Ent.coldIdleNs : Nat := 0x2C0009
/-- TEMP_MAX_MC, 0x2C00:0A (Table 19.5). -/
abbrev Ent.tempMaxMc : Nat := 0x2C000A
/-- TEMPS, 0x2C00:0B (Table 19.5). -/
abbrev Ent.temps : Nat := 0x2C000B
/-- THROTTLE_C, 0x2C00:0C (Table 19.5). -/
abbrev Ent.throttleC : Nat := 0x2C000C
/-- ALARM_C, 0x2C00:0D (Table 19.5). -/
abbrev Ent.alarmC : Nat := 0x2C000D
/-- TRIP_C, 0x2C00:0E (Table 19.5). -/
abbrev Ent.tripC : Nat := 0x2C000E
/-- TRIP_CAUSE, 0x2C00:0F (Table 19.5). -/
abbrev Ent.tripCause : Nat := 0x2C000F
/-- POWER_OFF, 0x2C00:10 (Table 19.5). -/
abbrev Ent.powerOff : Nat := 0x2C0010
/-- REF_CLOCK_OK, 0x2C00:11 (Table 19.5). -/
abbrev Ent.refClockOk : Nat := 0x2C0011
/-- BIV_BINDING, 0x2C10:01 (Table 19.6). -/
abbrev Ent.bivBinding : Nat := 0x2C1001
/-- BIV_GRAPH, 0x2C10:02 (Table 19.6). -/
abbrev Ent.bivGraph : Nat := 0x2C1002
/-- BIV_ENABLE, 0x2C10:03 (Table 19.6). -/
abbrev Ent.bivEnable : Nat := 0x2C1003
/-- BIV_EST_NS, 0x2C10:04 (Table 19.6). -/
abbrev Ent.bivEstNs : Nat := 0x2C1004
/-- BIV_MEASURED_NS, 0x2C10:05 (Table 19.6). -/
abbrev Ent.bivMeasuredNs : Nat := 0x2C1005
/-- BIV_STATE, 0x2C10:06 (Table 19.6). -/
abbrev Ent.bivState : Nat := 0x2C1006
/-- BIV_VERSION, 0x2C10:07 (Table 19.6). -/
abbrev Ent.bivVersion : Nat := 0x2C1007
/-- BIV_QUEUE_LIMIT, 0x2C10:08 (Table 19.6). -/
abbrev Ent.bivQueueLimit : Nat := 0x2C1008
/-- COLD_RESET, 0x2D00:01 (Table 20.5). -/
abbrev Ent.coldReset : Nat := 0x2D0001
/-- RESET_CAUSE, 0x2D00:02 (Table 20.5). -/
abbrev Ent.resetCause : Nat := 0x2D0002
/-- BOOT_STAGE, 0x2D00:03 (Table 20.5). -/
abbrev Ent.bootStage : Nat := 0x2D0003
/-- RESTART_LIMIT, 0x2D00:04 (Table 20.5). -/
abbrev Ent.restartLimit : Nat := 0x2D0004
/-- MAINT_MODE, 0x2D00:05 (Table 20.5). -/
abbrev Ent.maintMode : Nat := 0x2D0005
/-- FW_WRITE, 0x2D00:06 (Table 20.5). -/
abbrev Ent.fwWrite : Nat := 0x2D0006
/-- FW_INSTALL, 0x2D00:07 (Table 20.5). -/
abbrev Ent.fwInstall : Nat := 0x2D0007
/-- FW_ACTIVATE, 0x2D00:08 (Table 20.5). -/
abbrev Ent.fwActivate : Nat := 0x2D0008
/-- FW_CONFIRM, 0x2D00:09 (Table 20.5). -/
abbrev Ent.fwConfirm : Nat := 0x2D0009
/-- FW_BANKS, 0x2D00:0A (Table 20.5). -/
abbrev Ent.fwBanks : Nat := 0x2D000A
/-- POST_MEMORY, 0x2D00:0B (Table 20.5). -/
abbrev Ent.postMemory : Nat := 0x2D000B
/-- LAST_RESTART, 0x2D00:0C (Table 20.5). -/
abbrev Ent.lastRestart : Nat := 0x2D000C
/-- CG_RESET, 0x6D00:01 (Table 20.5). -/
abbrev Ent.cgReset : Nat := 0x6D0001
/-- T1S_NODE_ID, 0x1F00:01 (Table 21.7). -/
abbrev Ent.t1sNodeId : Nat := 0x1F0001
/-- I3C_STATIC_ADDR, 0x1F00:02 (Table 21.7). -/
abbrev Ent.i3cStaticAddr : Nat := 0x1F0002
/-- DICT_ETHERTYPE, 0x1F00:03 (Table 21.7). -/
abbrev Ent.dictEthertype : Nat := 0x1F0003
/-- DICT_BODY_MAX, 0x1F00:04 (Table 21.7). -/
abbrev Ent.dictBodyMax : Nat := 0x1F0004
/-- MODULE_SLOT, 0x1000:08 (Table 22.3). -/
abbrev Ent.moduleSlot : Nat := 0x100008
/-- BOOTS, 0x1000:09 (Table 22.3). -/
abbrev Ent.boots : Nat := 0x100009
/-- NOW, 0x1000:0A (Table 22.3). -/
abbrev Ent.now : Nat := 0x10000A
/-- DICT_VERSION, 0x1000:0B (Table 22.3). -/
abbrev Ent.dictVersion : Nat := 0x10000B
/-- INDEX_COUNT, 0x1001:01 (Table 22.3). -/
abbrev Ent.indexCount : Nat := 0x100101
/-- INDEX_SELECT, 0x1001:02 (Table 22.3). -/
abbrev Ent.indexSelect : Nat := 0x100102
/-- INDEX_READ, 0x1001:03 (Table 22.3). -/
abbrev Ent.indexRead : Nat := 0x100103
/-- KEPT_CAPACITY, 0x2E00:01 (Table 22.4). -/
abbrev Ent.keptCapacity : Nat := 0x2E0001
/-- CIRC_CAPACITY, 0x2E00:02 (Table 22.4). -/
abbrev Ent.circCapacity : Nat := 0x2E0002
/-- KEPT_USED, 0x2E00:03 (Table 22.4). -/
abbrev Ent.keptUsed : Nat := 0x2E0003
/-- NEXT_SEQ, 0x2E00:04 (Table 22.4). -/
abbrev Ent.nextSeq : Nat := 0x2E0004
/-- OLDEST_SEQ, 0x2E00:05 (Table 22.4). -/
abbrev Ent.oldestSeq : Nat := 0x2E0005
/-- WB_CURSOR, 0x2E00:06 (Table 22.4). -/
abbrev Ent.wbCursor : Nat := 0x2E0006
/-- WB_READ, 0x2E00:07 (Table 22.4). -/
abbrev Ent.wbRead : Nat := 0x2E0007
/-- WB_CLEAR, 0x2E00:08 (Table 22.4). -/
abbrev Ent.wbClear : Nat := 0x2E0008
/-- SUPPRESSED_TOTAL, 0x2E00:09 (Table 22.4). -/
abbrev Ent.suppressedTotal : Nat := 0x2E0009
/-- RATE_SELECT, 0x2E00:0A (Table 22.4). -/
abbrev Ent.rateSelect : Nat := 0x2E000A
/-- RATE_READ, 0x2E00:0B (Table 22.4). -/
abbrev Ent.rateRead : Nat := 0x2E000B
/-- LAST_CLEAR, 0x2E00:0C (Table 22.4). -/
abbrev Ent.lastClear : Nat := 0x2E000C

/-! Keys of the statistics counters (R567). -/

/-- LORJO_RX, 0x5000:01. -/
abbrev Cnt.lorjoRx : Nat := 0x500001
/-- LORJO_DROPPED, 0x5000:02. -/
abbrev Cnt.lorjoDropped : Nat := 0x500002
/-- ADMITTED, 0x5000:03. -/
abbrev Cnt.admitted : Nat := 0x500003
/-- REFUSED, 0x5000:04. -/
abbrev Cnt.refused : Nat := 0x500004
/-- EARLY_EXITS, 0x5000:05. -/
abbrev Cnt.earlyExits : Nat := 0x500005
/-- CACHE_HITS, 0x5000:06. -/
abbrev Cnt.cacheHits : Nat := 0x500006
/-- RESTARTED_ANSWERS, 0x5000:07. -/
abbrev Cnt.restartedAnswers : Nat := 0x500007
/-- LATE_RESPONSES, 0x5000:08. -/
abbrev Cnt.lateResponses : Nat := 0x500008
/-- LOOKUP_DESCRIPTORS, 0x5100:01. -/
abbrev Cnt.lookupDescriptors : Nat := 0x510001
/-- ROWS_READ, 0x5100:02. -/
abbrev Cnt.rowsRead : Nat := 0x510002
/-- TORN_ROWS, 0x5100:03. -/
abbrev Cnt.tornRows : Nat := 0x510003
/-- VERSION_RETRIES, 0x5100:04. -/
abbrev Cnt.versionRetries : Nat := 0x510004
/-- OOR_ENTRIES, 0x5100:05. -/
abbrev Cnt.oorEntries : Nat := 0x510005
/-- SAT_ELEMENTS, 0x5100:06. -/
abbrev Cnt.satElements : Nat := 0x510006
/-- ROW_CACHE_HITS, 0x5100:07. -/
abbrev Cnt.rowCacheHits : Nat := 0x510007
/-- ROW_CACHE_MISSES, 0x5100:08. -/
abbrev Cnt.rowCacheMisses : Nat := 0x510008
/-- REMOTE_SENT, 0x5100:09. -/
abbrev Cnt.remoteSent : Nat := 0x510009
/-- REMOTE_SERVED, 0x5100:0A. -/
abbrev Cnt.remoteServed : Nat := 0x51000A
/-- REMOTE_TIMEOUTS, 0x5100:0B. -/
abbrev Cnt.remoteTimeouts : Nat := 0x51000B
/-- REMOTE_DENIED, 0x5100:0C. -/
abbrev Cnt.remoteDenied : Nat := 0x51000C
/-- IMMEDIATE_ROWS, 0x5200:01. -/
abbrev Cnt.immediateRows : Nat := 0x520001
/-- STAGED_ROWS, 0x5200:02. -/
abbrev Cnt.stagedRows : Nat := 0x520002
/-- COMMITS, 0x5200:03. -/
abbrev Cnt.commits : Nat := 0x520003
/-- ABORTS, 0x5200:04. -/
abbrev Cnt.aborts : Nat := 0x520004
/-- DEFERRED_ROWS, 0x5200:05. -/
abbrev Cnt.deferredRows : Nat := 0x520005
/-- WRITE_OOR_ROWS, 0x5200:06. -/
abbrev Cnt.writeOorRows : Nat := 0x520006
/-- CUT_WRITES, 0x5200:07. -/
abbrev Cnt.cutWrites : Nat := 0x520007
/-- REMOTE_ROWS_SENT, 0x5200:08. -/
abbrev Cnt.remoteRowsSent : Nat := 0x520008
/-- REMOTE_ROWS_IMPORTED, 0x5200:09. -/
abbrev Cnt.remoteRowsImported : Nat := 0x520009
/-- CHAINS_DRAINED, 0x5300:01. -/
abbrev Cnt.chainsDrained : Nat := 0x530001
/-- STREAM_CYCLES, 0x5300:02. -/
abbrev Cnt.streamCycles : Nat := 0x530002
/-- WEIGHT_WAIT_CYCLES, 0x5300:03. -/
abbrev Cnt.weightWaitCycles : Nat := 0x530003
/-- DEP_WAIT_CYCLES, 0x5300:04. -/
abbrev Cnt.depWaitCycles : Nat := 0x530004
/-- CHAIN_REPLAYS, 0x5300:05. -/
abbrev Cnt.chainReplays : Nat := 0x530005
/-- FINAL_OVERFLOWS, 0x5300:06. -/
abbrev Cnt.finalOverflows : Nat := 0x530006
/-- BOUND_VOID_CHAINS, 0x5300:07. -/
abbrev Cnt.boundVoidChains : Nat := 0x530007
/-- SAT_ELEMENTS, 0x5300:08. -/
abbrev Cnt.satElements3 : Nat := 0x530008
/-- SQUASHED_TILES, 0x5300:09. -/
abbrev Cnt.squashedTiles : Nat := 0x530009
/-- SRAM_CORRECTED, 0x5300:0A. -/
abbrev Cnt.sramCorrected : Nat := 0x53000A
/-- SOFT_REPAIRS, 0x5300:0B. -/
abbrev Cnt.softRepairs : Nat := 0x53000B
/-- SATURATED_ELEMENTS, 0x5400:01. -/
abbrev Cnt.saturatedElements : Nat := 0x540001
/-- NAN_TO_ZERO, 0x5400:02. -/
abbrev Cnt.nanToZero : Nat := 0x540002
/-- FIRST_REPLAYS, 0x5400:03. -/
abbrev Cnt.firstReplays : Nat := 0x540003
/-- SECOND_REPLAYS, 0x5400:04. -/
abbrev Cnt.secondReplays : Nat := 0x540004
/-- INF_RESULTS, 0x5400:05. -/
abbrev Cnt.infResults : Nat := 0x540005
/-- NAN_RESULTS, 0x5400:06. -/
abbrev Cnt.nanResults : Nat := 0x540006
/-- BOUND_VOID_RESULTS, 0x5400:07. -/
abbrev Cnt.boundVoidResults : Nat := 0x540007
/-- VECTOR_INSTRUCTIONS, 0x5310:01. -/
abbrev Cnt.vectorInstructions : Nat := 0x531001
/-- VTENSOR_DESCRIPTORS, 0x5310:02. -/
abbrev Cnt.vtensorDescriptors : Nat := 0x531002
/-- TASKS_ENDED, 0x5310:03. -/
abbrev Cnt.tasksEnded : Nat := 0x531003
/-- TASKS_STOPPED, 0x5310:04. -/
abbrev Cnt.tasksStopped : Nat := 0x531004
/-- HITCH_WAIT_CYCLES, 0x5310:05. -/
abbrev Cnt.hitchWaitCycles : Nat := 0x531005
/-- VEC_SRAM_WAIT_CYCLES, 0x5310:06. -/
abbrev Cnt.vecSramWaitCycles : Nat := 0x531006
/-- TOPK_ENTERED, 0x5310:07. -/
abbrev Cnt.topkEntered : Nat := 0x531007
/-- TASK_OVERRUNS, 0x5310:08. -/
abbrev Cnt.taskOverruns : Nat := 0x531008
/-- STEPS, 0x5020:01. -/
abbrev Cnt.steps : Nat := 0x502001
/-- JOINS, 0x5020:02. -/
abbrev Cnt.joins : Nat := 0x502002
/-- JOINS_DEFERRED, 0x5020:03. -/
abbrev Cnt.joinsDeferred : Nat := 0x502003
/-- LEAVES, 0x5020:04. -/
abbrev Cnt.leaves : Nat := 0x502004
/-- EVENTS_APPENDED, 0x5020:05. -/
abbrev Cnt.eventsAppended : Nat := 0x502005
/-- SUMMARIES, 0x5020:06. -/
abbrev Cnt.summaries : Nat := 0x502006
/-- BLOCKS_FOLDED, 0x5020:07. -/
abbrev Cnt.blocksFolded : Nat := 0x502007
/-- HELD_DROPPED, 0x5020:08. -/
abbrev Cnt.heldDropped : Nat := 0x502008
/-- APPEND_WAITS, 0x5020:09. -/
abbrev Cnt.appendWaits : Nat := 0x502009
/-- TRANSFERS, 0x5330:01. -/
abbrev Cnt.transfers : Nat := 0x533001
/-- TILES_DELIVERED, 0x5330:02. -/
abbrev Cnt.tilesDelivered : Nat := 0x533002
/-- BYTES_MOVED, 0x5330:03. -/
abbrev Cnt.bytesMoved : Nat := 0x533003
/-- RELEASE_WAIT_CYCLES, 0x5330:04. -/
abbrev Cnt.releaseWaitCycles : Nat := 0x533004
/-- RING_WAIT_CYCLES, 0x5330:05. -/
abbrev Cnt.ringWaitCycles : Nat := 0x533005
/-- FAULT_RESUMES, 0x5330:06. -/
abbrev Cnt.faultResumes : Nat := 0x533006
/-- RING_REWINDS, 0x5330:07. -/
abbrev Cnt.ringRewinds : Nat := 0x533007
/-- CARAVAN_STREAMS, 0x5330:08. -/
abbrev Cnt.caravanStreams : Nat := 0x533008
/-- CARAVAN_DETACHES, 0x5330:09. -/
abbrev Cnt.caravanDetaches : Nat := 0x533009
/-- CATCHUP_TILES, 0x5330:0A. -/
abbrev Cnt.catchupTiles : Nat := 0x53300A
/-- BARRIER_STAGES, 0x5330:0B. -/
abbrev Cnt.barrierStages : Nat := 0x53300B
/-- COMMANDS, 0x5500:01. -/
abbrev Cnt.commands : Nat := 0x550001
/-- LAUNCHES, 0x5500:02. -/
abbrev Cnt.launches : Nat := 0x550002
/-- PHASE_STALE_READS, 0x5500:03. -/
abbrev Cnt.phaseStaleReads : Nat := 0x550003
/-- DOORBELL_GIVEUPS, 0x5500:04. -/
abbrev Cnt.doorbellGiveups : Nat := 0x550004
/-- HITCH_WAITS, 0x5500:05. -/
abbrev Cnt.hitchWaits : Nat := 0x550005
/-- HITCH_TIMEOUTS, 0x5500:06. -/
abbrev Cnt.hitchTimeouts : Nat := 0x550006
/-- BAD_COMMANDS, 0x5500:07. -/
abbrev Cnt.badCommands : Nat := 0x550007
/-- HELD_COMPLETIONS, 0x5500:08. -/
abbrev Cnt.heldCompletions : Nat := 0x550008
/-- VERSIONS_CREATED, 0x5500:09. -/
abbrev Cnt.versionsCreated : Nat := 0x550009
/-- SPEC_STAGES, 0x5510:01. -/
abbrev Cnt.specStages : Nat := 0x551001
/-- SPEC_COMMITS, 0x5510:02. -/
abbrev Cnt.specCommits : Nat := 0x551002
/-- SPEC_SQUASHES, 0x5510:03. -/
abbrev Cnt.specSquashes : Nat := 0x551003
/-- PREDICTIONS, 0x5510:04. -/
abbrev Cnt.predictions : Nat := 0x551004
/-- MISPREDICTIONS, 0x5510:05. -/
abbrev Cnt.mispredictions : Nat := 0x551005
/-- SQUASHED_TASKS, 0x5510:06. -/
abbrev Cnt.squashedTasks : Nat := 0x551006
/-- HELD_FAULTS_DROPPED, 0x5510:07. -/
abbrev Cnt.heldFaultsDropped : Nat := 0x551007
/-- SQUASHED_CORE_CYCLES, 0x5510:08. -/
abbrev Cnt.squashedCoreCycles : Nat := 0x551008
/-- SQUASHED_ENTRIES, 0x5510:09. -/
abbrev Cnt.squashedEntries : Nat := 0x551009
/-- HELD_EFFECTS_DROPPED, 0x5510:0A. -/
abbrev Cnt.heldEffectsDropped : Nat := 0x55100A
/-- WINDOW_WAITS, 0x5510:0B. -/
abbrev Cnt.windowWaits : Nat := 0x55100B
/-- REGION_WAITS, 0x5510:0C. -/
abbrev Cnt.regionWaits : Nat := 0x55100C
/-- LEGACY_COMMANDS, 0x5560:01. -/
abbrev Cnt.legacyCommands : Nat := 0x556001
/-- LEGACY_BAD_COMMANDS, 0x5560:02. -/
abbrev Cnt.legacyBadCommands : Nat := 0x556002
/-- INFLIGHT_STALLS, 0x5560:03. -/
abbrev Cnt.inflightStalls : Nat := 0x556003
/-- ENABLE_REFUSED, 0x5560:04. -/
abbrev Cnt.enableRefused : Nat := 0x556004
/-- SLOT_OVERRUNS, 0x5600:01. -/
abbrev Cnt.slotOverruns : Nat := 0x560001
/-- OVERRUN_NS, 0x5600:02. -/
abbrev Cnt.overrunNs : Nat := 0x560002
/-- DEBT_DISCARDED_NS, 0x5600:03. -/
abbrev Cnt.debtDiscardedNs : Nat := 0x560003
/-- RECLAIMS, 0x5600:04. -/
abbrev Cnt.reclaims : Nat := 0x560004
/-- RECLAIM_NS, 0x5600:05. -/
abbrev Cnt.reclaimNs : Nat := 0x560005
/-- PREDICTIVE_WAKES, 0x5600:06. -/
abbrev Cnt.predictiveWakes : Nat := 0x560006
/-- LATE_WAKES, 0x5600:07. -/
abbrev Cnt.lateWakes : Nat := 0x560007
/-- STEP_DOWNS, 0x5600:08. -/
abbrev Cnt.stepDowns : Nat := 0x560008
/-- SCHED_COMMITS, 0x5600:09. -/
abbrev Cnt.schedCommits : Nat := 0x560009
/-- HBM_CORRECTED, 0x5700:01. -/
abbrev Cnt.hbmCorrected : Nat := 0x570001
/-- HBM_UNCORRECTABLE, 0x5700:02. -/
abbrev Cnt.hbmUncorrectable : Nat := 0x570002
/-- COLD_CORRECTED, 0x5700:03. -/
abbrev Cnt.coldCorrected : Nat := 0x570003
/-- COLD_UNCORRECTABLE, 0x5700:04. -/
abbrev Cnt.coldUncorrectable : Nat := 0x570004
/-- SCRUB_PASSES, 0x5700:05. -/
abbrev Cnt.scrubPasses : Nat := 0x570005
/-- SCRUB_LATE, 0x5700:06. -/
abbrev Cnt.scrubLate : Nat := 0x570006
/-- REMAPS_ONLINE, 0x5700:07. -/
abbrev Cnt.remapsOnline : Nat := 0x570007
/-- REMAPS_AT_RESET, 0x5700:08. -/
abbrev Cnt.remapsAtReset : Nat := 0x570008
/-- FRAMES_RETIRED, 0x5700:09. -/
abbrev Cnt.framesRetired : Nat := 0x570009
/-- JOURNAL_FULL, 0x5700:0A. -/
abbrev Cnt.journalFull : Nat := 0x57000A
/-- HARD_REPAIRS, 0x5700:0B. -/
abbrev Cnt.hardRepairs : Nat := 0x57000B
/-- FAULT_RECORDS, 0x5800:01. -/
abbrev Cnt.faultRecords : Nat := 0x580001
/-- COALESCED, 0x5800:02. -/
abbrev Cnt.coalesced : Nat := 0x580002
/-- LATCHED, 0x5800:03. -/
abbrev Cnt.latched : Nat := 0x580003
/-- RIGHTS_FAULTS, 0x5800:04. -/
abbrev Cnt.rightsFaults : Nat := 0x580004
/-- REPLAYS, 0x5800:05. -/
abbrev Cnt.replays : Nat := 0x580005
/-- MIGRATIONS, 0x5800:06. -/
abbrev Cnt.migrations : Nat := 0x580006
/-- MAP_RECORDS, 0x5800:07. -/
abbrev Cnt.mapRecords : Nat := 0x580007
/-- INVALIDATIONS, 0x5800:08. -/
abbrev Cnt.invalidations : Nat := 0x580008
/-- DRAY_TLB_MISSES, 0x5800:09. -/
abbrev Cnt.drayTlbMisses : Nat := 0x580009
/-- PTE_CACHE_MISSES, 0x5800:0A. -/
abbrev Cnt.pteCacheMisses : Nat := 0x58000A
/-- HUB_TLB_MISSES, 0x5800:0B. -/
abbrev Cnt.hubTlbMisses : Nat := 0x58000B
/-- BAR2_UNMAPPED, 0x5800:0C. -/
abbrev Cnt.bar2Unmapped : Nat := 0x58000C
/-- BAR_BAD_ACCESS, 0x5900:01. -/
abbrev Cnt.barBadAccess : Nat := 0x590001
/-- BAR2_CLOSED, 0x5900:02. -/
abbrev Cnt.bar2Closed : Nat := 0x590002
/-- VIS_ALL_WAITS, 0x5900:03. -/
abbrev Cnt.visAllWaits : Nat := 0x590003
/-- CORRECTABLE_ERRORS, 0x5900:04. -/
abbrev Cnt.correctableErrors : Nat := 0x590004
/-- POISONED_RECEIVED, 0x5900:05. -/
abbrev Cnt.poisonedReceived : Nat := 0x590005
/-- LINK_DOWNS, 0x5900:06. -/
abbrev Cnt.linkDowns : Nat := 0x590006
/-- RECORDS_DROPPED, 0x5900:07. -/
abbrev Cnt.recordsDropped : Nat := 0x590007
/-- FLRS, 0x5900:08. -/
abbrev Cnt.flrs : Nat := 0x590008
/-- DMA_READ_BYTES, 0x5900:09. -/
abbrev Cnt.dmaReadBytes : Nat := 0x590009
/-- DMA_WRITE_BYTES, 0x5900:0A. -/
abbrev Cnt.dmaWriteBytes : Nat := 0x59000A
/-- HOST_HELD_ACCESSES, 0x5900:0B. -/
abbrev Cnt.hostHeldAccesses : Nat := 0x59000B
/-- PACKETS_SENT, 0x5A00:01. -/
abbrev Cnt.packetsSent : Nat := 0x5A0001
/-- PACKETS_RECEIVED, 0x5A00:02. -/
abbrev Cnt.packetsReceived : Nat := 0x5A0002
/-- PACKETS_DROPPED, 0x5A00:03. -/
abbrev Cnt.packetsDropped : Nat := 0x5A0003
/-- RETRANSMITS, 0x5A00:04. -/
abbrev Cnt.retransmits : Nat := 0x5A0004
/-- RTO_EVENTS, 0x5A00:05. -/
abbrev Cnt.rtoEvents : Nat := 0x5A0005
/-- ECE_REDUCTIONS, 0x5A00:06. -/
abbrev Cnt.eceReductions : Nat := 0x5A0006
/-- OPS_SERVED, 0x5A00:07. -/
abbrev Cnt.opsServed : Nat := 0x5A0007
/-- OPS_DENIED, 0x5A00:08. -/
abbrev Cnt.opsDenied : Nat := 0x5A0008
/-- OPS_TIMED_OUT, 0x5A00:09. -/
abbrev Cnt.opsTimedOut : Nat := 0x5A0009
/-- SESSIONS_UP, 0x5A00:0A. -/
abbrev Cnt.sessionsUp : Nat := 0x5A000A
/-- SESSIONS_ENDED, 0x5A00:0B. -/
abbrev Cnt.sessionsEnded : Nat := 0x5A000B
/-- PATH_MOVES, 0x5A00:0C. -/
abbrev Cnt.pathMoves : Nat := 0x5A000C
/-- GLOBAL_OPS, 0x5A00:0D. -/
abbrev Cnt.globalOps : Nat := 0x5A000D
/-- OWNER_SESSIONS_OPENED, 0x5B00:01. -/
abbrev Cnt.ownerSessionsOpened : Nat := 0x5B0001
/-- OWNER_AUTH_FAILURES, 0x5B00:02. -/
abbrev Cnt.ownerAuthFailures : Nat := 0x5B0002
/-- OWNER_RECORDS_DROPPED, 0x5B00:03. -/
abbrev Cnt.ownerRecordsDropped : Nat := 0x5B0003
/-- QUOTES, 0x5B00:04. -/
abbrev Cnt.quotes : Nat := 0x5B0004
/-- SEALED_DENIALS, 0x5B00:05. -/
abbrev Cnt.sealedDenials : Nat := 0x5B0005
/-- SIGNATURE_FAILURES, 0x5B00:06. -/
abbrev Cnt.signatureFailures : Nat := 0x5B0006
/-- KEY_WIPES, 0x5B00:07. -/
abbrev Cnt.keyWipes : Nat := 0x5B0007
/-- ZEROISATIONS, 0x5B00:08. -/
abbrev Cnt.zeroisations : Nat := 0x5B0008
/-- WAKES_ON_DEMAND, 0x5C00:01. -/
abbrev Cnt.wakesOnDemand : Nat := 0x5C0001
/-- CAP_THROTTLE_NS, 0x5C00:02. -/
abbrev Cnt.capThrottleNs : Nat := 0x5C0002
/-- OP_CHANGES, 0x5C00:03. -/
abbrev Cnt.opChanges : Nat := 0x5C0003
/-- THERMAL_THROTTLE_NS, 0x5C00:04. -/
abbrev Cnt.thermalThrottleNs : Nat := 0x5C0004
/-- THERMAL_ALARMS, 0x5C00:05. -/
abbrev Cnt.thermalAlarms : Nat := 0x5C0005
/-- BIV_SERVED, 0x5C00:06. -/
abbrev Cnt.bivServed : Nat := 0x5C0006
/-- BIV_LATE, 0x5C00:07. -/
abbrev Cnt.bivLate : Nat := 0x5C0007
/-- ENERGY_MJ, 0x5C00:08. -/
abbrev Cnt.energyMj : Nat := 0x5C0008
/-- RECORDS_WRITTEN, 0x5E00:01. -/
abbrev Cnt.recordsWritten : Nat := 0x5E0001
/-- RECORDS_SUPPRESSED, 0x5E00:02. -/
abbrev Cnt.recordsSuppressed : Nat := 0x5E0002
/-- JOB_FAULTS, 0x5D00:01. -/
abbrev Cnt.jobFaults : Nat := 0x5D0001
/-- RESTART_NS_MAX, 0x5D00:02. -/
abbrev Cnt.restartNsMax : Nat := 0x5D0002
/-- TAG_FAILURES, 0x5D00:03. -/
abbrev Cnt.tagFailures : Nat := 0x5D0003

/-- Entries of Table 0.2. -/
def entriesT0_2 : List EntryDef :=
  [ { index := 0x1000, sub := 0x01, typ := (.octets 16), acc := .ro, rd := 15 },
    { index := 0x1000, sub := 0x02, typ := .u16, acc := .ro, rd := 15 },
    { index := 0x1000, sub := 0x03, typ := (.octets 48), acc := .ro, rd := 15 },
    { index := 0x1000, sub := 0x04, typ := .u8, acc := .ro, rd := 15 },
    { index := 0x1000, sub := 0x05, typ := .u8, acc := .ro, rd := 15 },
    { index := 0x1000, sub := 0x06, typ := .u8, acc := .ro, rd := 15 },
    { index := 0x1000, sub := 0x07, typ := .u32, acc := .ro, rd := 15 } ]

/-- Entries of Table 2.10. -/
def entriesT2_10 : List EntryDef :=
  [ { index := 0x2000, sub := 0x01, typ := .bool, acc := .rw, rd := 15, wr := 3 },
    { index := 0x2000, sub := 0x02, typ := .u16, acc := .rw, rd := 15, wr := 3, dflt := 0x1d24 },
    { index := 0x2000, sub := 0x03, typ := .u8, acc := .rw, rd := 15, wr := 3, dflt := 3 },
    { index := 0x2000, sub := 0x04, typ := .u32, acc := .rw, rd := 15, wr := 3, dflt := 0x3e8 },
    { index := 0x2000, sub := 0x05, typ := .u32, acc := .rw, rd := 15, wr := 3, dflt := 0x186a0 },
    { index := 0x2000, sub := 0x06, typ := .u8, acc := .rw, rd := 15, wr := 3, dflt := 0x2e },
    { index := 0x2000, sub := 0x07, typ := .u32, acc := .rw, rd := 15, wr := 3 },
    { index := 0x2000, sub := 0x08, typ := .bool, acc := .rw, rd := 15, wr := 3 },
    { index := 0x2000, sub := 0x09, typ := .u32, acc := .rw, rd := 15, wr := 3, dflt := 0x1000 },
    { index := 0x2000, sub := 0x0A, typ := .bool, acc := .rw, rd := 15, wr := 3 },
    { index := 0x2000, sub := 0x0B, typ := (.octets 40), acc := .wo, rd := 0, wr := 2 },
    { index := 0x2000, sub := 0x0C, typ := .u32, acc := .rw, rd := 15, wr := 3, dflt := 0x5f5e100 },
    { index := 0x2000, sub := 0x0D, typ := .u32, acc := .ro, rd := 15, dflt := 0x400 } ]

/-- Entries of Table 2.11. -/
def entriesT2_11 : List EntryDef :=
  [ { index := 0x2010, count := 16, sub := 0x01, typ := .u32, acc := .rw, rd := 15, wr := 3 },
    { index := 0x2010, count := 16, sub := 0x02, typ := .u8, acc := .rw, rd := 15, wr := 3, dflt := 0xff },
    { index := 0x2010, count := 16, sub := 0x03, typ := .u8, acc := .rw, rd := 15, wr := 3 },
    { index := 0x2010, count := 16, sub := 0x04, typ := .u8, acc := .rw, rd := 15, wr := 3, dflt := 3 },
    { index := 0x2010, count := 16, sub := 0x05, typ := .bool, acc := .rw, rd := 15, wr := 3 },
    { index := 0x2010, count := 16, sub := 0x06, typ := .u32, acc := .rw, rd := 15, wr := 3, dflt := 0x30d40 },
    { index := 0x2010, count := 16, sub := 0x07, typ := .u32, acc := .rw, rd := 15, wr := 3 },
    { index := 0x2010, count := 16, sub := 0x08, typ := .u32, acc := .rw, rd := 15, wr := 3 },
    { index := 0x2010, count := 16, sub := 0x09, typ := .u32, acc := .rw, rd := 15, wr := 3 },
    { index := 0x2010, count := 16, sub := 0x0A, typ := .u32, acc := .rw, rd := 15, wr := 3, dflt := 0xbb8 },
    { index := 0x2010, count := 16, sub := 0x0B, typ := .u8, acc := .rw, rd := 15, wr := 3, dflt := 1 },
    { index := 0x2010, count := 16, sub := 0x0C, typ := .u8, acc := .rw, rd := 15, wr := 3, dflt := 1 },
    { index := 0x2010, count := 16, sub := 0x0D, typ := .u16, acc := .rw, rd := 15, wr := 3, dflt := 0x100 },
    { index := 0x2010, count := 16, sub := 0x0E, typ := .u16, acc := .ro, rd := 15 },
    { index := 0x2010, count := 16, sub := 0x0F, typ := .u32, acc := .ro, rd := 15 },
    { index := 0x2010, count := 16, sub := 0x10, typ := .u32, acc := .ro, rd := 15 },
    { index := 0x2010, count := 16, sub := 0x11, typ := .u32, acc := .ro, rd := 15 } ]

/-- Entries of Table 3.9. -/
def entriesT3_9 : List EntryDef :=
  [ { index := 0x2100, sub := 0x01, typ := .u16, acc := .ro, rd := 15 },
    { index := 0x2100, sub := 0x02, typ := .u16, acc := .ro, rd := 15, dflt := 0x1000 },
    { index := 0x2100, sub := 0x03, typ := (.octets 64), acc := .cmd, rd := 3, wr := 3 },
    { index := 0x2100, sub := 0x04, typ := .u16, acc := .cmd, rd := 3, wr := 3 },
    { index := 0x2100, sub := 0x05, typ := .u16, acc := .rw, rd := 15, wr := 3 },
    { index := 0x2100, sub := 0x06, typ := .u8, acc := .rw, rd := 15, wr := 3 },
    { index := 0x2100, sub := 0x07, typ := .u32, acc := .rw, rd := 15, wr := 3, dflt := 0xf4240 },
    { index := 0x2100, sub := 0x08, typ := (.octets 64), acc := .ro, rd := 15 },
    { index := 0x2100, sub := 0x09, typ := .bool, acc := .rw, rd := 15, wr := 2 },
    { index := 0x2100, sub := 0x0A, typ := .u16, acc := .ro, rd := 15, dflt := 0x180 } ]

/-- Entries of Table 4.8. -/
def entriesT4_8 : List EntryDef :=
  [ { index := 0x2200, sub := 0x01, typ := .u64, acc := .ro, rd := 15, dflt := 1 },
    { index := 0x2200, sub := 0x02, typ := .u32, acc := .ro, rd := 15 },
    { index := 0x2200, sub := 0x03, typ := .u16, acc := .rw, rd := 15, wr := 3, dflt := 0x100 },
    { index := 0x2200, sub := 0x04, typ := .u8, acc := .rw, rd := 15, wr := 3, dflt := 0xa },
    { index := 0x2200, sub := 0x05, typ := .u32, acc := .rw, rd := 15, wr := 3, dflt := 0x989680 },
    { index := 0x2200, sub := 0x06, typ := .u32, acc := .rw, rd := 15, wr := 3, dflt := 0x989680 },
    { index := 0x2200, sub := 0x07, typ := .bool, acc := .rw, rd := 15, wr := 2, dflt := 1 },
    { index := 0x2200, sub := 0x08, typ := .bool, acc := .rw, rd := 15, wr := 2 },
    { index := 0x2200, sub := 0x09, typ := .u32, acc := .rw, rd := 15, wr := 3, dflt := 0x989680 },
    { index := 0x2200, sub := 0x0A, typ := .u32, acc := .ro, rd := 15, dflt := 0x40000 },
    { index := 0x2200, sub := 0x0B, typ := (.octets 48), acc := .ro, rd := 15 },
    { index := 0x2200, sub := 0x0C, typ := .u32, acc := .ro, rd := 15 } ]

/-- Entries of Table 5.5. -/
def entriesT5_5 : List EntryDef :=
  [ { index := 0x2300, sub := 0x01, typ := .u16, acc := .ro, rd := 15, dflt := 0x64 },
    { index := 0x2300, sub := 0x02, typ := .u16, acc := .ro, rd := 15, dflt := 0xc },
    { index := 0x2300, sub := 0x03, typ := .u16, acc := .ro, rd := 15, dflt := 0x20 },
    { index := 0x2300, sub := 0x04, typ := .u16, acc := .ro, rd := 15, dflt := 0x200 },
    { index := 0x2300, sub := 0x05, typ := .u8, acc := .ro, rd := 15, dflt := 0x10 },
    { index := 0x2300, sub := 0x06, typ := .u16, acc := .ro, rd := 15, dflt := 0x100 },
    { index := 0x2300, sub := 0x07, typ := .u16, acc := .rw, rd := 15, wr := 3, dflt := 0x400 },
    { index := 0x2300, sub := 0x08, typ := .bool, acc := .rws, rd := 15, wr := 7, dflt := 1 },
    { index := 0x2300, sub := 0x09, typ := .u16, acc := .rws, rd := 15, wr := 7, dflt := 0x10 } ]

/-- Entries of Table 5.6. -/
def entriesT5_6 : List EntryDef :=
  [ { index := 0x3001, count := 98, stride := 0x20, sub := 0x01, typ := .u8, acc := .ro, rd := 15 },
    { index := 0x3001, count := 98, stride := 0x20, sub := 0x02, typ := .bool, acc := .ro, rd := 15 },
    { index := 0x3001, count := 98, stride := 0x20, sub := 0x03, typ := .u16, acc := .ro, rd := 15 },
    { index := 0x3001, count := 98, stride := 0x20, sub := 0x04, typ := .u16, acc := .ro, rd := 15 } ]

/-- Entries of Table 6.4. -/
def entriesT6_4 : List EntryDef :=
  [ { index := 0x2400, sub := 0x01, typ := .u8, acc := .ro, rd := 15, dflt := 0x26 },
    { index := 0x2400, sub := 0x02, typ := .u16, acc := .ro, rd := 15, dflt := 0xe3 },
    { index := 0x2400, sub := 0x03, typ := .u32, acc := .ro, rd := 15, dflt := 0x1000000 },
    { index := 0x2400, sub := 0x04, typ := .u16, acc := .ro, rd := 15, dflt := 0x2010 },
    { index := 0x2400, sub := 0x05, typ := .u16, acc := .ro, rd := 15, dflt := 0x7f },
    { index := 0x2400, sub := 0x06, typ := .u32, acc := .rw, rd := 15, wr := 3, dflt := 0xf4240 },
    { index := 0x2400, sub := 0x07, typ := .bool, acc := .rw, rd := 15, wr := 3, dflt := 1 } ]

/-- Entries of Table 7.13. -/
def entriesT7_13 : List EntryDef :=
  [ { index := 0x2310, sub := 0x01, typ := .u16, acc := .ro, rd := 15, dflt := 0x80 },
    { index := 0x2310, sub := 0x02, typ := .u16, acc := .ro, rd := 15, dflt := 0x200 },
    { index := 0x2310, sub := 0x03, typ := .u8, acc := .ro, rd := 15, dflt := 8 },
    { index := 0x2310, sub := 0x04, typ := .u8, acc := .ro, rd := 15, dflt := 0x10 },
    { index := 0x2310, sub := 0x05, typ := .u16, acc := .ro, rd := 15, dflt := 0x20 },
    { index := 0x2310, sub := 0x06, typ := .u16, acc := .ro, rd := 15, dflt := 0x301 },
    { index := 0x2310, sub := 0x07, typ := .u32, acc := .rw, rd := 15, wr := 3, dflt := 0x989680 } ]

/-- Entries of Table 7.14. -/
def entriesT7_14 : List EntryDef :=
  [ { index := 0x3002, count := 98, stride := 0x20, sub := 0x01, typ := .u8, acc := .ro, rd := 15 },
    { index := 0x3002, count := 98, stride := 0x20, sub := 0x02, typ := .u64, acc := .ro, rd := 15 } ]

/-- Entries of Table 8.6. -/
def entriesT8_6 : List EntryDef :=
  [ { index := 0x2020, sub := 0x01, typ := .u16, acc := .rw, rd := 15, wr := 3, dflt := 0x40 },
    { index := 0x2020, sub := 0x02, typ := .u32, acc := .ro, rd := 15 },
    { index := 0x2020, sub := 0x03, typ := .u32, acc := .rw, rd := 15, wr := 3, dflt := 0x186a0 },
    { index := 0x2020, sub := 0x04, typ := .u32, acc := .rw, rd := 15, wr := 3, dflt := 0x1000 },
    { index := 0x2020, sub := 0x05, typ := .u64, acc := .rw, rd := 15, wr := 3, dflt := 0x8bb2c97000 },
    { index := 0x2020, sub := 0x06, typ := .u64, acc := .cmd, rd := 3, wr := 3 },
    { index := 0x2020, sub := 0x07, typ := .u64, acc := .ro, rd := 15 },
    { index := 0x2020, sub := 0x09, typ := .u16, acc := .ro, rd := 15, dflt := 0x100 },
    { index := 0x2020, sub := 0x0A, typ := .u8, acc := .rw, rd := 15, wr := 3, dflt := 0x3f },
    { index := 0x2020, sub := 0x0B, typ := .u32, acc := .rw, rd := 15, wr := 3, dflt := 0x2710 } ]

/-- Entries of Table 9.4. -/
def entriesT9_4 : List EntryDef :=
  [ { index := 0x2330, sub := 0x01, typ := .u8, acc := .ro, rd := 15, dflt := 4 },
    { index := 0x2330, sub := 0x02, typ := .u8, acc := .ro, rd := 15, dflt := 4 },
    { index := 0x2330, sub := 0x03, typ := .u8, acc := .ro, rd := 15, dflt := 5 },
    { index := 0x2330, sub := 0x04, typ := .u8, acc := .ro, rd := 15, dflt := 0x40 },
    { index := 0x2330, sub := 0x05, typ := .u8, acc := .ro, rd := 15, dflt := 0x20 },
    { index := 0x2330, sub := 0x06, typ := .u8, acc := .ro, rd := 15, dflt := 8 },
    { index := 0x2330, sub := 0x07, typ := .u8, acc := .rw, rd := 15, wr := 3, dflt := 2 },
    { index := 0x2330, sub := 0x08, typ := .u8, acc := .rw, rd := 15, wr := 3, dflt := 1 },
    { index := 0x2330, sub := 0x09, typ := .u32, acc := .ro, rd := 15, dflt := 0x3b9aca00 } ]

/-- Entries of Table 10.2. -/
def entriesT10_2 : List EntryDef :=
  [ { index := 0x2510, count := 64, sub := 0x01, typ := .u8, acc := .rw, rd := 15, wr := 3 },
    { index := 0x2510, count := 64, sub := 0x02, typ := .u32, acc := .rw, rd := 15, wr := 3, dflt := 0x100 },
    { index := 0x2510, count := 64, sub := 0x03, typ := .u64, acc := .rw, rd := 15, wr := 3 },
    { index := 0x2510, count := 64, sub := 0x04, typ := .u64, acc := .rw, rd := 15, wr := 3 },
    { index := 0x2510, count := 64, sub := 0x05, typ := .u8, acc := .rw, rd := 15, wr := 3, dflt := 0xff },
    { index := 0x2510, count := 64, sub := 0x06, typ := .bool, acc := .rw, rd := 15, wr := 3 },
    { index := 0x2510, count := 64, sub := 0x07, typ := .u32, acc := .ro, rd := 15 },
    { index := 0x2510, count := 64, sub := 0x08, typ := .u8, acc := .ro, rd := 15 },
    { index := 0x2510, count := 64, sub := 0x09, typ := .u16, acc := .rw, rd := 15, wr := 3 },
    { index := 0x2510, count := 64, sub := 0x0A, typ := .u8, acc := .rw, rd := 15, wr := 7, dflt := 0xff },
    { index := 0x2510, count := 64, sub := 0x0B, typ := .u32, acc := .rw, rd := 15, wr := 7 } ]

/-- Entries of Table 10.11. -/
def entriesT10_11 : List EntryDef :=
  [ { index := 0x2500, sub := 0x01, typ := .u8, acc := .ro, rd := 15, dflt := 0x40 },
    { index := 0x2500, sub := 0x02, typ := .u32, acc := .rw, rd := 15, wr := 3, dflt := 0x5f5e100 },
    { index := 0x2500, sub := 0x03, typ := .u32, acc := .rw, rd := 15, wr := 3, dflt := 0x3e8 },
    { index := 0x2500, sub := 0x04, typ := .u16, acc := .ro, rd := 15, dflt := 0xc8 },
    { index := 0x2500, sub := 0x05, typ := .u8, acc := .ro, rd := 15, dflt := 0x40 },
    { index := 0x2500, sub := 0x06, typ := .u16, acc := .rw, rd := 15, wr := 3 },
    { index := 0x2500, sub := 0x07, typ := .u8, acc := .ro, rd := 15 },
    { index := 0x2500, sub := 0x08, typ := (.octets 32), acc := .ro, rd := 15 },
    { index := 0x2500, sub := 0x09, typ := .u16, acc := .ro, rd := 15 } ]

/-- Entries of Table 11.4. -/
def entriesT11_4 : List EntryDef :=
  [ { index := 0x2550, sub := 0x01, typ := .bool, acc := .rw, rd := 15, wr := 3, dflt := 1 },
    { index := 0x2550, sub := 0x02, typ := .u8, acc := .ro, rd := 15, dflt := 4 },
    { index := 0x2550, sub := 0x03, typ := .u8, acc := .ro, rd := 15, dflt := 2 },
    { index := 0x2550, sub := 0x04, typ := .u8, acc := .ro, rd := 15, dflt := 0x40 },
    { index := 0x2550, sub := 0x05, typ := .u8, acc := .ro, rd := 15 },
    { index := 0x2550, sub := 0x06, typ := .u8, acc := .ro, rd := 15, dflt := 8 },
    { index := 0x2550, sub := 0x07, typ := .u8, acc := .ro, rd := 15, dflt := 0x20 },
    { index := 0x2550, sub := 0x08, typ := .u16, acc := .ro, rd := 15, dflt := 0x1000 },
    { index := 0x2550, sub := 0x09, typ := .bool, acc := .cmd, rd := 3, wr := 3 },
    { index := 0x2550, sub := 0x0A, typ := .u64, acc := .rw, rd := 15, wr := 3, dflt := 0xffffffffffffffff } ]

/-- Entries of Table 12.5. -/
def entriesT12_5 : List EntryDef :=
  [ { index := 0x2560, sub := 0x01, typ := .u8, acc := .rw, rd := 15, wr := 3, dflt := 0x3e },
    { index := 0x2560, sub := 0x02, typ := .u16, acc := .ro, rd := 15, dflt := 0x200 },
    { index := 0x2560, sub := 0x03, typ := .u8, acc := .ro, rd := 15 } ]

/-- Entries of Table 13.5. -/
def entriesT13_5 : List EntryDef :=
  [ { index := 0x2600, sub := 0x01, typ := .u8, acc := .ro, rd := 15 },
    { index := 0x2600, sub := 0x02, typ := (.octets 16), acc := .cmd, rd := 3, wr := 3 },
    { index := 0x2600, sub := 0x03, typ := .bool, acc := .cmd, rd := 3, wr := 3 },
    { index := 0x2600, sub := 0x04, typ := .u64, acc := .ro, rd := 15 },
    { index := 0x2600, sub := 0x05, typ := .time64, acc := .ro, rd := 15 },
    { index := 0x2600, sub := 0x06, typ := .u8, acc := .ro, rd := 15, dflt := 0xff },
    { index := 0x2600, sub := 0x07, typ := .u32, acc := .ro, rd := 15 },
    { index := 0x2600, sub := 0x08, typ := .u32, acc := .rw, rd := 15, wr := 3, dflt := 0x3b9aca00 },
    { index := 0x2601, sub := 0x01, typ := (.octets 32), acc := .cmd, rd := 3, wr := 3 },
    { index := 0x2601, sub := 0x02, typ := .u8, acc := .cmd, rd := 3, wr := 3 },
    { index := 0x2601, sub := 0x03, typ := .u8, acc := .ro, rd := 15, dflt := 0x10 },
    { index := 0x2602, sub := 0x01, subs := 0x40, typ := .u8, acc := .rw, rd := 15, wr := 3, dflt := 0x10 },
    { index := 0x2603, sub := 0x01, typ := .bool, acc := .rw, rd := 15, wr := 3 },
    { index := 0x2603, sub := 0x02, typ := .bool, acc := .cmd, rd := 3, wr := 3 },
    { index := 0x2603, sub := 0x03, typ := .u16, acc := .ro, rd := 15, dflt := 0x3e8 },
    { index := 0x2603, sub := 0x04, typ := .u8, acc := .ro, rd := 15, dflt := 0x80 },
    { index := 0x2603, sub := 0x05, typ := .u32, acc := .rw, rd := 15, wr := 3, dflt := 0x3e8 },
    { index := 0x2603, sub := 0x06, typ := .u32, acc := .rw, rd := 15, wr := 3, dflt := 0x1388 },
    { index := 0x2603, sub := 0x07, typ := .u32, acc := .ro, rd := 15, dflt := 0x1f400 },
    { index := 0x2603, sub := 0x08, typ := .u8, acc := .ro, rd := 15 },
    { index := 0x2603, sub := 0x09, typ := .bool, acc := .ro, rd := 15 } ]

/-- Entries of Table 13.6. -/
def entriesT13_6 : List EntryDef :=
  [ { index := 0x2620, sub := 0x01, subs := 0x80, typ := (.octets 16), acc := .rw, rd := 15, wr := 3 },
    { index := 0x2621, sub := 0x01, subs := 0x80, typ := (.octets 16), acc := .ro, rd := 15 } ]

/-- Entries of Table 13.7. -/
def entriesT13_7 : List EntryDef :=
  [ { index := 0x2610, count := 16, sub := 0x01, typ := .u8, acc := .ro, rd := 15 },
    { index := 0x2610, count := 16, sub := 0x02, typ := .u16, acc := .ro, rd := 15 },
    { index := 0x2610, count := 16, sub := 0x03, typ := .u32, acc := .ro, rd := 15 },
    { index := 0x2610, count := 16, sub := 0x04, typ := .u32, acc := .ro, rd := 15 },
    { index := 0x2610, count := 16, sub := 0x05, typ := .u32, acc := .ro, rd := 15 },
    { index := 0x2610, count := 16, sub := 0x06, typ := .u32, acc := .ro, rd := 15 },
    { index := 0x2610, count := 16, sub := 0x07, typ := .u16, acc := .ro, rd := 15 },
    { index := 0x2610, count := 16, sub := 0x08, typ := .u16, acc := .ro, rd := 15 },
    { index := 0x2610, count := 16, sub := 0x09, typ := .u64, acc := .ro, rd := 15 },
    { index := 0x2610, count := 16, sub := 0x0A, typ := .u64, acc := .ro, rd := 15 },
    { index := 0x2610, count := 16, sub := 0x0B, typ := .u64, acc := .ro, rd := 15 } ]

/-- Entries of Table 14.7. -/
def entriesT14_7 : List EntryDef :=
  [ { index := 0x2700, sub := 0x01, typ := .u64, acc := .ro, rd := 15, dflt := 0xb2d05e0000 },
    { index := 0x2700, sub := 0x02, typ := .u64, acc := .ro, rd := 15, dflt := 0x10000000 },
    { index := 0x2700, sub := 0x03, typ := .u64, acc := .ro, rd := 15, dflt := 0xee6b280000 },
    { index := 0x2700, sub := 0x04, typ := .u32, acc := .rws, rd := 15, wr := 7, dflt := 0x15180 },
    { index := 0x2700, sub := 0x05, typ := .u16, acc := .rws, rd := 15, wr := 7, dflt := 0x10 },
    { index := 0x2700, sub := 0x06, typ := (.octets 48), acc := .ro, rd := 15, dflt := 0x40 },
    { index := 0x2700, sub := 0x07, typ := (.octets 64), acc := .ro, rd := 15, dflt := 0x80 },
    { index := 0x2700, sub := 0x08, typ := .u32, acc := .ro, rd := 15 },
    { index := 0x2700, sub := 0x09, typ := (.octets 32), acc := .ro, rd := 15 },
    { index := 0x2700, sub := 0x0A, typ := .u16, acc := .ro, rd := 15 },
    { index := 0x2700, sub := 0x0B, typ := .u16, acc := .ro, rd := 15, dflt := 0x3200 },
    { index := 0x2700, sub := 0x0C, typ := .u16, acc := .ro, rd := 15, dflt := 0x3840 } ]

/-- Entries of Table 14.8. -/
def entriesT14_8 : List EntryDef :=
  [ { index := 0x6700, sub := 0x01, typ := .bool, acc := .cmd, rd := 4, wr := 4 },
    { index := 0x6700, sub := 0x02, typ := .u32, acc := .ro, rd := 4 },
    { index := 0x6700, sub := 0x03, typ := (.octets 16), acc := .cmd, rd := 4, wr := 4 },
    { index := 0x6700, sub := 0x04, typ := (.octets 64), acc := .cmd, rd := 4, wr := 4 },
    { index := 0x6700, sub := 0x05, typ := .u16, acc := .rw, rd := 4, wr := 4 },
    { index := 0x6700, sub := 0x06, typ := (.octets 16), acc := .ro, rd := 4 } ]

/-- Entries of Table 15.8. -/
def entriesT15_8 : List EntryDef :=
  [ { index := 0x2800, sub := 0x01, typ := .u32, acc := .ro, rd := 15, dflt := 0x1000 },
    { index := 0x2800, sub := 0x02, typ := .u32, acc := .rw, rd := 15, wr := 3, dflt := 0x1000 },
    { index := 0x2800, sub := 0x03, typ := .u64, acc := .rw, rd := 15, wr := 3 },
    { index := 0x2800, sub := 0x04, typ := .u32, acc := .ro, rd := 15 },
    { index := 0x2800, sub := 0x05, typ := .u64, acc := .ro, rd := 15 },
    { index := 0x2800, sub := 0x06, typ := .bool, acc := .cmd, rd := 3, wr := 3 },
    { index := 0x2800, sub := 0x07, typ := .u16, acc := .rw, rd := 15, wr := 3, dflt := 0x40 },
    { index := 0x2800, sub := 0x08, typ := .u32, acc := .rw, rd := 15, wr := 3, dflt := 0x5f5e100 },
    { index := 0x2800, sub := 0x09, typ := .u64, acc := .rw, rd := 15, wr := 3 },
    { index := 0x2800, sub := 0x0A, typ := .u32, acc := .rw, rd := 15, wr := 3, dflt := 0x100 },
    { index := 0x2800, sub := 0x0B, typ := .bool, acc := .rw, rd := 15, wr := 3 },
    { index := 0x2800, sub := 0x0C, typ := .u32, acc := .ro, rd := 15 },
    { index := 0x2800, sub := 0x0D, typ := .u16, acc := .ro, rd := 15, dflt := 0x200 },
    { index := 0x2800, sub := 0x0E, typ := .u32, acc := .ro, rd := 15, dflt := 0x10000 },
    { index := 0x2800, sub := 0x0F, typ := .u32, acc := .ro, rd := 15, dflt := 0x8000 },
    { index := 0x2800, sub := 0x10, typ := (.octets 48), acc := .ro, rd := 15, dflt := 0xa800 },
    { index := 0x2800, sub := 0x11, typ := .u16, acc := .ro, rd := 15, dflt := 0x224 },
    { index := 0x2800, sub := 0x12, typ := .u16, acc := .rw, rd := 15, wr := 3 },
    { index := 0x2800, sub := 0x13, typ := (.octets 16), acc := .ro, rd := 15 } ]

/-- Entries of Table 16.8. -/
def entriesT16_8 : List EntryDef :=
  [ { index := 0x2900, sub := 0x01, typ := .u16, acc := .ro, rd := 15, dflt := 0x1f8d },
    { index := 0x2900, sub := 0x02, typ := .u16, acc := .ro, rd := 15, dflt := 0x960 },
    { index := 0x2900, sub := 0x03, typ := .u8, acc := .ro, rd := 15 },
    { index := 0x2900, sub := 0x04, typ := .u8, acc := .ro, rd := 15 },
    { index := 0x2900, sub := 0x05, typ := .u8, acc := .rws, rd := 15, wr := 7, dflt := 7 },
    { index := 0x2900, sub := 0x06, typ := .u64, acc := .rw, rd := 15, wr := 3 },
    { index := 0x2900, sub := 0x07, typ := .u16, acc := .rws, rd := 15, wr := 7, dflt := 0x10 },
    { index := 0x2900, sub := 0x08, typ := .u16, acc := .rw, rd := 15, wr := 3, dflt := 0x41 },
    { index := 0x2900, sub := 0x09, typ := .u32, acc := .rw, rd := 15, wr := 3 },
    { index := 0x2900, sub := 0x0A, typ := .bool, acc := .rws, rd := 15, wr := 7 },
    { index := 0x2900, sub := 0x0B, typ := .u64, acc := .ro, rd := 15, dflt := 0x400000000 },
    { index := 0x2900, sub := 0x0C, typ := .bool, acc := .ro, rd := 15 } ]

/-- Entries of Table 17.11. -/
def entriesT17_11 : List EntryDef :=
  [ { index := 0x2A00, sub := 0x01, typ := .u16, acc := .rw, rd := 15, wr := 3, dflt := 0xffff },
    { index := 0x2A00, sub := 0x02, typ := .u64, acc := .rw, rd := 15, wr := 3 },
    { index := 0x2A00, sub := 0x03, typ := .bool, acc := .cmd, rd := 3, wr := 3 },
    { index := 0x2A00, sub := 0x04, typ := .bool, acc := .cmd, rd := 3, wr := 3 },
    { index := 0x2A00, sub := 0x05, typ := .u8, acc := .ro, rd := 15 },
    { index := 0x2A00, sub := 0x06, typ := (.octets 64), acc := .cmd, rd := 3, wr := 3 },
    { index := 0x2A00, sub := 0x07, typ := .u16, acc := .rw, rd := 15, wr := 3 },
    { index := 0x2A00, sub := 0x08, typ := (.octets 64), acc := .ro, rd := 15 },
    { index := 0x2A00, sub := 0x09, typ := (.octets 16), acc := .ro, rd := 15 },
    { index := 0x2A00, sub := 0x0A, typ := .u16, acc := .rw, rd := 15, wr := 3, dflt := 0x1d25 },
    { index := 0x2A00, sub := 0x0B, typ := .u16, acc := .rw, rd := 15, wr := 3, dflt := 0x2328 },
    { index := 0x2A00, sub := 0x0C, typ := .u8, acc := .rw, rd := 15, wr := 3, dflt := 0x22 },
    { index := 0x2A00, sub := 0x0D, typ := .u8, acc := .rw, rd := 15, wr := 3, dflt := 0x30 },
    { index := 0x2A00, sub := 0x0E, typ := .u8, acc := .rw, rd := 15, wr := 3, dflt := 0xa },
    { index := 0x2A00, sub := 0x0F, typ := .u32, acc := .rw, rd := 15, wr := 3, dflt := 0xf4240 },
    { index := 0x2A00, sub := 0x10, typ := .u32, acc := .rw, rd := 15, wr := 3, dflt := 0x2faf080 },
    { index := 0x2A00, sub := 0x11, typ := .u32, acc := .rw, rd := 15, wr := 3, dflt := 0x4c4b40 },
    { index := 0x2A00, sub := 0x12, typ := .u32, acc := .rw, rd := 15, wr := 3, dflt := 0xe10 },
    { index := 0x2A00, sub := 0x13, typ := .u32, acc := .rw, rd := 15, wr := 3, dflt := 0x4e20 },
    { index := 0x2A00, sub := 0x14, typ := .u16, acc := .rw, rd := 15, wr := 3, dflt := 0x80 },
    { index := 0x2A00, sub := 0x15, typ := .u16, acc := .rw, rd := 15, wr := 3, dflt := 0x2000 },
    { index := 0x2A00, sub := 0x16, typ := .u64, acc := .rw, rd := 15, wr := 3 },
    { index := 0x2A00, sub := 0x17, typ := .u64, acc := .rw, rd := 15, wr := 3 },
    { index := 0x2A00, sub := 0x18, typ := .u32, acc := .rw, rd := 15, wr := 3, dflt := 0x20608 },
    { index := 0x2A00, sub := 0x19, typ := .u16, acc := .ro, rd := 15 },
    { index := 0x2A00, sub := 0x1A, typ := (.octets 24), acc := .ro, rd := 15 },
    { index := 0x2A10, count := 4, sub := 0x01, typ := .u8, acc := .rws, rd := 15, wr := 7 },
    { index := 0x2A10, count := 4, sub := 0x02, typ := .u8, acc := .ro, rd := 15 },
    { index := 0x2A20, count := 16, sub := 0x01, typ := (.octets 6), acc := .ro, rd := 15 },
    { index := 0x2A20, count := 16, sub := 0x02, typ := (.octets 16), acc := .rws, rd := 15, wr := 7 },
    { index := 0x2A20, count := 16, sub := 0x03, typ := .u8, acc := .rws, rd := 15, wr := 7, dflt := 0x40 },
    { index := 0x2A20, count := 16, sub := 0x04, typ := (.octets 16), acc := .rws, rd := 15, wr := 7 },
    { index := 0x2A20, count := 16, sub := 0x05, typ := .u32, acc := .rws, rd := 15, wr := 7 },
    { index := 0x2A20, count := 16, sub := 0x06, typ := .u8, acc := .rws, rd := 15, wr := 7, dflt := 0x18 },
    { index := 0x2A20, count := 16, sub := 0x07, typ := .u32, acc := .rws, rd := 15, wr := 7 },
    { index := 0x2A20, count := 16, sub := 0x08, typ := .u16, acc := .rws, rd := 15, wr := 7 },
    { index := 0x2A30, count := 16, sub := 0x01, typ := (.octets 512), acc := .rw, rd := 15, wr := 3 },
    { index := 0x2A30, count := 16, sub := 0x02, typ := .bool, acc := .rw, rd := 15, wr := 3 } ]

/-- Entries of Table 18.12. -/
def entriesT18_12 : List EntryDef :=
  [ { index := 0x2B00, sub := 0x01, typ := .u64, acc := .ro, rd := 15 },
    { index := 0x2B00, sub := 0x02, typ := .bool, acc := .ro, rd := 15 },
    { index := 0x2B00, sub := 0x03, typ := .u32, acc := .ro, rd := 15 },
    { index := 0x2B00, sub := 0x04, typ := .u16, acc := .ro, rd := 15 },
    { index := 0x2B00, sub := 0x05, typ := (.octets 5), acc := .ro, rd := 15 },
    { index := 0x2B00, sub := 0x06, typ := .bool, acc := .cmd, rd := 5, wr := 5 },
    { index := 0x2B00, sub := 0x07, typ := (.octets 64), acc := .ro, rd := 15 },
    { index := 0x2B00, sub := 0x08, typ := .u8, acc := .ro, rd := 15 },
    { index := 0x2B00, sub := 0x09, typ := (.octets 10650), acc := .ro, rd := 15 },
    { index := 0x2B00, sub := 0x0A, typ := (.octets 32), acc := .cmd, rd := 7, wr := 7 },
    { index := 0x2B00, sub := 0x0B, typ := (.octets 3949), acc := .ro, rd := 15 },
    { index := 0x2B00, sub := 0x0C, typ := (.octets 512), acc := .ro, rd := 15 },
    { index := 0x2B00, sub := 0x0D, typ := .u32, acc := .rw, rd := 15, wr := 7 },
    { index := 0x2B00, sub := 0x0E, typ := (.octets 64), acc := .ro, rd := 15 },
    { index := 0x2B00, sub := 0x0F, typ := (.octets 33), acc := .cmd, rd := 2, wr := 2 },
    { index := 0x2B00, sub := 0x10, typ := .u16, acc := .rws, rd := 15, wr := 7, dflt := 0x1d26 },
    { index := 0x2B00, sub := 0x11, typ := (.octets 8944), acc := .cmd, rd := 1, wr := 1 },
    { index := 0x2B00, sub := 0x12, typ := (.octets 8944), acc := .ro, rd := 1 },
    { index := 0x2B00, sub := 0x13, typ := (.octets 32), acc := .ro, rd := 15 },
    { index := 0x2B00, sub := 0x14, typ := .u16, acc := .rw, rd := 15, wr := 3, dflt := 0x40 },
    { index := 0x2B00, sub := 0x15, typ := .u64, acc := .ro, rd := 15 },
    { index := 0x2B00, sub := 0x16, typ := .u8, acc := .rw, rd := 15, wr := 2, dflt := 0xff },
    { index := 0x2B00, sub := 0x17, typ := .bool, acc := .rw, rd := 15, wr := 2 },
    { index := 0x2B00, sub := 0x18, typ := .bool, acc := .cmd, rd := 6, wr := 6 },
    { index := 0x2B00, sub := 0x19, typ := .bool, acc := .ro, rd := 15 },
    { index := 0x2B00, sub := 0x1A, typ := .u32, acc := .ro, rd := 15 },
    { index := 0x2B00, sub := 0x1B, typ := .u8, acc := .ro, rd := 15 },
    { index := 0x2B00, sub := 0x1C, typ := .bool, acc := .ro, rd := 15 },
    { index := 0x2B00, sub := 0x1D, typ := (.octets 128), acc := .rws, rd := 15, wr := 5 } ]

/-- Entries of Table 19.5. -/
def entriesT19_5 : List EntryDef :=
  [ { index := 0x2C00, sub := 0x01, typ := .u16, acc := .rws, rd := 15, wr := 7, dflt := 0x708 },
    { index := 0x2C00, sub := 0x02, typ := .u16, acc := .ro, rd := 15 },
    { index := 0x2C00, sub := 0x03, typ := .u32, acc := .ro, rd := 15 },
    { index := 0x2C00, sub := 0x04, typ := .u8, acc := .ro, rd := 15 },
    { index := 0x2C00, sub := 0x05, typ := .u8, acc := .rw, rd := 15, wr := 3 },
    { index := 0x2C00, sub := 0x06, typ := .u8, acc := .rw, rd := 15, wr := 3, dflt := 1 },
    { index := 0x2C00, sub := 0x07, typ := (.octets 16), acc := .ro, rd := 15 },
    { index := 0x2C00, sub := 0x08, typ := .u16, acc := .ro, rd := 15 },
    { index := 0x2C00, sub := 0x09, typ := .u32, acc := .rw, rd := 15, wr := 3, dflt := 0x186a0 },
    { index := 0x2C00, sub := 0x0A, typ := .i32, acc := .ro, rd := 15 },
    { index := 0x2C00, sub := 0x0B, typ := (.octets 124), acc := .ro, rd := 15 },
    { index := 0x2C00, sub := 0x0C, typ := .u8, acc := .rws, rd := 15, wr := 7, dflt := 0x64 },
    { index := 0x2C00, sub := 0x0D, typ := .u8, acc := .rws, rd := 15, wr := 7, dflt := 0x69 },
    { index := 0x2C00, sub := 0x0E, typ := .u8, acc := .ro, rd := 15, dflt := 0x73 },
    { index := 0x2C00, sub := 0x0F, typ := .u8, acc := .ro, rd := 15 },
    { index := 0x2C00, sub := 0x10, typ := .bool, acc := .cmd, rd := 4, wr := 4 },
    { index := 0x2C00, sub := 0x11, typ := .bool, acc := .ro, rd := 15, dflt := 1 } ]

/-- Entries of Table 19.6. -/
def entriesT19_6 : List EntryDef :=
  [ { index := 0x2C10, sub := 0x01, typ := .u8, acc := .rw, rd := 15, wr := 3, dflt := 0xff },
    { index := 0x2C10, sub := 0x02, typ := .u16, acc := .rw, rd := 15, wr := 3, dflt := 0xffff },
    { index := 0x2C10, sub := 0x03, typ := .bool, acc := .rw, rd := 15, wr := 3 },
    { index := 0x2C10, sub := 0x04, typ := .u32, acc := .rw, rd := 15, wr := 3 },
    { index := 0x2C10, sub := 0x05, typ := .u32, acc := .ro, rd := 15 },
    { index := 0x2C10, sub := 0x06, typ := .u8, acc := .ro, rd := 15 },
    { index := 0x2C10, sub := 0x07, typ := .u16, acc := .ro, rd := 15 },
    { index := 0x2C10, sub := 0x08, typ := .u8, acc := .ro, rd := 15, dflt := 0x10 } ]

/-- Entries of Table 20.5. -/
def entriesT20_5 : List EntryDef :=
  [ { index := 0x2D00, sub := 0x01, typ := .bool, acc := .cmd, rd := 7, wr := 7 },
    { index := 0x2D00, sub := 0x02, typ := .u8, acc := .ro, rd := 15 },
    { index := 0x2D00, sub := 0x03, typ := .u8, acc := .ro, rd := 15 },
    { index := 0x2D00, sub := 0x04, typ := .u8, acc := .rw, rd := 15, wr := 3, dflt := 8 },
    { index := 0x2D00, sub := 0x05, typ := .bool, acc := .cmd, rd := 4, wr := 4 },
    { index := 0x2D00, sub := 0x06, typ := (.octets 4104), acc := .cmd, rd := 5, wr := 5 },
    { index := 0x2D00, sub := 0x07, typ := .u32, acc := .cmd, rd := 5, wr := 5 },
    { index := 0x2D00, sub := 0x08, typ := .bool, acc := .cmd, rd := 5, wr := 5 },
    { index := 0x2D00, sub := 0x09, typ := .bool, acc := .cmd, rd := 5, wr := 5 },
    { index := 0x2D00, sub := 0x0A, typ := (.octets 44), acc := .ro, rd := 15 },
    { index := 0x2D00, sub := 0x0B, typ := .bool, acc := .rws, rd := 15, wr := 7 },
    { index := 0x2D00, sub := 0x0C, typ := (.octets 16), acc := .ro, rd := 15 },
    { index := 0x6D00, sub := 0x01, typ := .u16, acc := .cmd, rd := 4, wr := 4 } ]

/-- Entries of Table 21.7. -/
def entriesT21_7 : List EntryDef :=
  [ { index := 0x1F00, sub := 0x01, typ := .u8, acc := .rws, rd := 15, wr := 7 },
    { index := 0x1F00, sub := 0x02, typ := .u8, acc := .rws, rd := 15, wr := 7, dflt := 0x30 },
    { index := 0x1F00, sub := 0x03, typ := .u16, acc := .ro, rd := 15 },
    { index := 0x1F00, sub := 0x04, typ := .u16, acc := .ro, rd := 15, dflt := 0x400 } ]

/-- Entries of Table 22.3. -/
def entriesT22_3 : List EntryDef :=
  [ { index := 0x1000, sub := 0x08, typ := .u8, acc := .ro, rd := 15 },
    { index := 0x1000, sub := 0x09, typ := .u32, acc := .ro, rd := 15 },
    { index := 0x1000, sub := 0x0A, typ := .time64, acc := .ro, rd := 15 },
    { index := 0x1000, sub := 0x0B, typ := .u16, acc := .ro, rd := 15, dflt := 0x301 },
    { index := 0x1001, sub := 0x01, typ := .u16, acc := .ro, rd := 15 },
    { index := 0x1001, sub := 0x02, typ := .u16, acc := .rw, rd := 15, wr := 7 },
    { index := 0x1001, sub := 0x03, typ := (.octets 8), acc := .ro, rd := 15 } ]

/-- Entries of Table 22.4. -/
def entriesT22_4 : List EntryDef :=
  [ { index := 0x2E00, sub := 0x01, typ := .u16, acc := .ro, rd := 15, dflt := 0x400 },
    { index := 0x2E00, sub := 0x02, typ := .u16, acc := .ro, rd := 15, dflt := 0x4000 },
    { index := 0x2E00, sub := 0x03, typ := .u16, acc := .ro, rd := 15 },
    { index := 0x2E00, sub := 0x04, typ := .u64, acc := .ro, rd := 15 },
    { index := 0x2E00, sub := 0x05, typ := .u64, acc := .ro, rd := 15 },
    { index := 0x2E00, sub := 0x06, typ := .u64, acc := .rw, rd := 15, wr := 7 },
    { index := 0x2E00, sub := 0x07, typ := (.octets 64), acc := .ro, rd := 15 },
    { index := 0x2E00, sub := 0x08, typ := .bool, acc := .cmd, rd := 4, wr := 4 },
    { index := 0x2E00, sub := 0x09, typ := .u64, acc := .ro, rd := 15 },
    { index := 0x2E00, sub := 0x0A, typ := .u16, acc := .rw, rd := 15, wr := 7 },
    { index := 0x2E00, sub := 0x0B, typ := (.octets 16), acc := .ro, rd := 15 },
    { index := 0x2E00, sub := 0x0C, typ := .time64, acc := .ro, rd := 15 } ]

/-- Every entry that is not a counter. -/
def entryTable : List EntryDef :=
  entriesT0_2 ++ entriesT2_10 ++ entriesT2_11 ++ entriesT3_9 ++ entriesT4_8 ++ entriesT5_5 ++ entriesT5_6 ++ entriesT6_4 ++ entriesT7_13 ++ entriesT7_14 ++ entriesT8_6 ++ entriesT9_4 ++ entriesT10_2 ++ entriesT10_11 ++ entriesT11_4 ++ entriesT12_5 ++ entriesT13_5 ++ entriesT13_6 ++ entriesT13_7 ++ entriesT14_7 ++ entriesT14_8 ++ entriesT15_8 ++ entriesT16_8 ++ entriesT17_11 ++ entriesT18_12 ++ entriesT19_5 ++ entriesT19_6 ++ entriesT20_5 ++ entriesT21_7 ++ entriesT22_3 ++ entriesT22_4

/-- Statistics indices and their highest subindex (Table 22.6). -/
def counterIndices : List (Nat × Nat) :=
  [(0x5000, 0x08), (0x5020, 0x09), (0x5100, 0x0C), (0x5200, 0x09), (0x5300, 0x0B), (0x5310, 0x08), (0x5330, 0x0B), (0x5400, 0x07), (0x5500, 0x09), (0x5510, 0x0C), (0x5560, 0x04), (0x5600, 0x09), (0x5700, 0x0B), (0x5800, 0x0C), (0x5900, 0x0B), (0x5A00, 0x0D), (0x5B00, 0x08), (0x5C00, 0x08), (0x5D00, 0x03), (0x5E00, 0x02)]

/-- The counters' common row (R567). -/
def counterDef (index sub : Nat) : EntryDef :=
  { index := index, sub := sub, typ := .u64, acc := .ro, rd := 15 }

/-- An entry row covers an index among its instances. -/
def EntryDef.covers (e : EntryDef) (index : Nat) : Bool :=
  e.index ≤ index && (index - e.index) % e.stride == 0 && (index - e.index) / e.stride < e.count

/-- The highest subindex defined at `index`, `none` where no entry is defined (R556, Tables 22.2 and 22.6). -/
def highestSub (index : Nat) : Option Nat :=
  match counterIndices.find? (fun p => p.1 == index) with
  | some p => some p.2
  | none =>
    match (entryTable.filter (fun e => e.covers index)).map (fun e => e.sub + e.subs - 1) with
    | [] => none
    | subs => some (subs.foldl Nat.max 0)

/-- The entry that `index:sub` names (R556, R557); HIGHEST_SUB is subindex 0. -/
def findEntry (index sub : Nat) : Option EntryDef :=
  if sub = 0 then
    match highestSub index with
    | some _ => some { index := index, sub := 0, typ := .u8, acc := .ro, rd := 15 }
    | none => none
  else
    match counterIndices.find? (fun p => p.1 == index) with
    | some p => if sub ≤ p.2 then some (counterDef index sub) else none
    | none => entryTable.find? (fun e => e.covers index && e.sub ≤ sub && sub < e.sub + e.subs)

/-- Bytes of a value (Table 21.1). -/
def EType.size : EType → Nat
  | .bool => 1
  | .u8 => 1
  | .u16 => 2
  | .u32 => 4
  | .u64 => 8
  | .i32 => 4
  | .f32 => 4
  | .time64 => 8
  | .octets n => n

end Sys2Proof.Machine
end

