-- ==== Sys2Proof/Machine/Ops.lean ====
section
/-! DEFINITION. The named operations over the module's state that the commands' meanings share: counters and dictionary
values, free values, the Waybill's submission queue, interrupts and host memory, job faults, translation, frames and
device memory, page faults, SRAM, cores, queues and launches. -/

namespace Sys2Proof.Machine

open Sys2Proof

/-! Status codes of R20. -/

abbrev stOk : Nat := 0
abbrev stDeferred : Nat := 1
abbrev stEarlyExit : Nat := 2
abbrev stTorn : Nat := 3
abbrev stRestarted : Nat := 4
abbrev stTimeout : Nat := 5
abbrev stDenied : Nat := 6
abbrev stSaturated : Nat := 7
abbrev stBoundVoid : Nat := 8

/-! Counters and dictionary values. -/

/-- A counter raised by n, wrapping at 2^64 (R567). -/
def count (key n : Nat) (s : State) : State :=
  { s with dict := { s.dict with
      counters := alSet s.dict.counters key (((alGet s.dict.counters key).getD 0 + n) % 2 ^ 64) } }

/-- A counter's value. -/
def counter (key : Nat) (s : State) : Nat := (alGet s.dict.counters key).getD 0

/-- The default of an entry whose row does not give one number (Table 10.2, Table 21.7). -/
def entryDefault (key : Nat) (s : State) : Nat :=
  let index := key / 256
  let sub := key % 256
  if 0x2510 ≤ index ∧ index < 0x2550 ∧ sub = 9 then index - 0x2510
  else if key = Ent.queueClass + 256 * 63 then 4
  else if key = Ent.t1sNodeId then s.pins.moduleSlot.toNat
  else if key = Ent.i3cStaticAddr then 0x30 + s.pins.moduleSlot.toNat
  else match findEntry index sub with
    | some e => e.dflt
    | none => 0

/-- The numeric value of an RW or RWS entry: the value written, else its default (R541, R559). -/
def ent (key : Nat) (s : State) : Nat :=
  match alGet s.dict.values key with
  | some bs => ofLe bs
  | none => entryDefault key s

/-- An entry's value set, as n little-endian bytes. -/
def setEnt (key n v : Nat) (s : State) : State :=
  { s with dict := { s.dict with values := alSet s.dict.values key (leBytes n v) } }

/-- An entry returned to its default. -/
def clearEnt (key : Nat) (s : State) : State :=
  { s with dict := { s.dict with values := alErase s.dict.values key } }

/-! Free values. -/

/-- The state with one more free value drawn. -/
def drawFree (s : State) : State := { s with free := s.free + 1 }

/-- n bytes of SHAKE256 over a message. -/
def shake (n : Nat) (msg : List Byte) : List Byte := (List.range n).map (Config.shakeByte msg)

/-- A 256-bit SHAKE256 digest as a number, first byte least significant (R15). -/
def shake256 (msg : List Byte) : BitVec 256 := BitVec.ofNat 256 (ofLe (shake 32 msg))

/-- n bytes of the random source, and the state that has drawn them (R497). -/
def randomBytes (n : Nat) (s : State) : List Byte := (List.range n).map (Config.randomByte s.free)

/-- AES-256-GCM encryption: ciphertext and tag. -/
def gcmSeal (key nonce aad pt : List Byte) : List Byte :=
  let ct := xorBytes pt ((List.range pt.length).map (Config.gcmStreamByte key nonce))
  ct ++ (List.range 16).map (Config.gcmTagByte key nonce aad ct)

/-- AES-256-GCM decryption; none where the tag does not verify. -/
def gcmOpen (key nonce aad sealed_ : List Byte) : Option (List Byte) :=
  let ct := sealed_.take (sealed_.length - 16)
  if sealed_.length < 16 then none
  else if sealed_.drop (sealed_.length - 16) = (List.range 16).map (Config.gcmTagByte key nonce aad ct) then
    some (xorBytes ct ((List.range ct.length).map (Config.gcmStreamByte key nonce)))
  else none

/-! The Waybill's submission side (R575, R576). -/

/-- Records per TIME64 second of a code (Table 23.2); none is unlimited. -/
def codeLimit (code : Nat) : Option Nat :=
  if code = 0x1001 ∨ code = 0x8007 ∨ code = 0xA001 ∨ code = 0xD001 then some 10
  else if code = 0x5001 then some 1
  else if code = 0x4003 ∨ code = 0x5002 then some 1000
  else if code = 0x1002 ∨ code = 0x2001 ∨ code = 0x3001 ∨ code = 0x4002 ∨ code = 0x6002 ∨ code = 0x8001 ∨
      code = 0xB001 then some 100
  else none

/-- Counts of a code. -/
def wbCode (code : Nat) (s : State) : WbCode :=
  (s.waybill.codes.find? (fun c => c.code == code)).getD
    { code := code, written := 0, suppressed := 0, first := 0, last := 0, total := 0 }

/-- Counts of a code replaced, codes kept ascending. -/
def putWbCode (c : WbCode) (s : State) : State :=
  let rest := s.waybill.codes.filter (fun x => x.code != c.code)
  { s with waybill := { s.waybill with
      codes := rest.filter (fun x => x.code < c.code) ++ c :: rest.filter (fun x => c.code < x.code) } }

/-- A record of a limited code suppressed and counted (R576). -/
def wbSuppress (code time : Nat) (s : State) : State :=
  let c := wbCode code s
  count Cnt.recordsSuppressed 1
    (putWbCode
      { c with
        suppressed := c.suppressed + 1,
        first := if c.suppressed = 0 then time else Nat.min c.first time,
        last := Nat.max c.last time,
        total := c.total + 1 }
      { s with waybill := { s.waybill with suppressedTotal := s.waybill.suppressedTotal + 1 } })

/-- A record of an event at a time submitted to the writer; a limited code that finds 256 waiting is suppressed (R572, R575).
`held` marks one held for a speculation ID (Table 11.2). -/
def wbSubmitAt (time : Nat) (held : Bool) (code inst : Nat) (p : List Nat) (s : State) : State :=
  if 256 ≤ s.waybill.queue.length ∧ (codeLimit code).isSome then wbSuppress code time s
  else { s with waybill := { s.waybill with
    submitted := s.waybill.submitted + 1,
    queue := s.waybill.queue ++
      [{ time := time, code := code, inst := inst, held := held, p := p, num := s.waybill.submitted + 1 }] } }

/-- A record submitted at its event. -/
def wbSubmit (code inst : Nat) (p : List Nat) (s : State) : State := wbSubmitAt s.now false code inst p s

/-- INSTANCE "none". -/
abbrev noInst : Nat := 0xFFFF

/-- The TIME64 second of the saturation count is closed: a record where it passed SAT_RECORD_RATE (R203, Table 23.2). -/
def rollSat (s : State) : State :=
  if s.numerics.satSecond = s.now / 1000000000 then s
  else
    let rate := ent Ent.satRecordRate s
    let n := s.numerics.satThis
    let s := { s with numerics := { satSecond := s.now / 1000000000, satThis := 0 } }
    if rate ≠ 0 ∧ rate < n then wbSubmit 0x5001 noInst [n] s else s

/-- n elements saturated in a conversion, module-wide (R203, R204). -/
def countSat (n : Nat) (s : State) : State :=
  if n = 0 then s
  else
    let s := rollSat s
    count Cnt.saturatedElements n { s with numerics := { s.numerics with satThis := s.numerics.satThis + n } }

/-! Host memory and interrupts (R439 to R447). -/

/-- HOST_REACHABLE: no condition of R447 holds. -/
def hostReachable (s : State) : Bool :=
  s.hostif.bme && !s.hostif.d3hot && !s.hostif.flr && s.hostif.linkGen != 0

/-- The module writes host memory: at once, or held in order while the host is unreachable (R447); `queue` names the
queue whose record it is. -/
def hostWrite (queue : Option Nat) (addr : Nat) (bytes : List Byte) (s : State) : State :=
  if hostReachable s then
    count Cnt.dmaWriteBytes bytes.length
      { s with mem := { s.mem with host := memWrite s.mem.host addr bytes } }
  else
    { s with hostif := { s.hostif with
      heldRecords := s.hostif.heldRecords ++ [{ queue := queue, addr := addr, bytes := bytes, vector := none }] } }

/-- Bytes of host memory read by the module. -/
def hostRead (addr n : Nat) (s : State) : List Byte := memRead s.mem.host addr n

/-- An MSI-X message of vector v sent; its contents are free where its entry was reprogrammed while it was unmasked (R450). -/
def sendMsix (v : Nat) (s : State) : State :=
  let torn := s.hostif.msixTorn.contains v
  { s with hostif := { s.hostif with
    msixTorn := s.hostif.msixTorn.filter (· != v),
    msixSent :=
      { vector := v,
        addr := if torn then (Config.msixAddr v s.now).toNat else ((alGet s.hostif.msixAddr v).getD 0).toNat,
        data := if torn then Config.msixData v s.now else (alGet s.hostif.msixData v).getD 0, at_ := s.now } ::
      s.hostif.msixSent } }

/-- Vector v raised (R443): held while the host is unreachable, pending while masked, else its message is sent. -/
def raiseVector (queue : Option Nat) (v : Nat) (s : State) : State :=
  if !hostReachable s then
    { s with hostif := { s.hostif with
      heldRecords := s.hostif.heldRecords ++ [{ queue := queue, addr := 0, bytes := [], vector := some v }] } }
  else if s.hostif.msixUnmasked.contains v then sendMsix v s
  else { s with hostif := { s.hostif with
    msixPending := if s.hostif.msixPending.contains v then s.hostif.msixPending else s.hostif.msixPending ++ [v] } }

/-- Vector v raised for queue n. With IRQ_HOLDOFF_NS 0 its message goes at once; else the raises that fall within that time of the
first are one message, which goes when the time has passed (R443; log 11). -/
def raiseQueueVector (n v : Nat) (s : State) : State :=
  if ent Ent.irqHoldoffNs s = 0 then raiseVector (some n) v s
  else if s.hostif.holdoff.any (fun p => p.1 == v) then s
  else { s with hostif := { s.hostif with holdoff := s.hostif.holdoff ++ [(v, s.now, n)] } }

/-- The merged raises whose time has passed go out (R443). -/
def settleHoldoff (s : State) : State :=
  let due := s.hostif.holdoff.filter (fun p => decide (p.2.1 + ent Ent.irqHoldoffNs s ≤ s.now))
  if due.isEmpty then s
  else due.foldl (fun s p => raiseVector (some p.2.2) p.1 s)
    { s with hostif := { s.hostif with
      holdoff := s.hostif.holdoff.filter (fun p => !decide (p.2.1 + ent Ent.irqHoldoffNs s ≤ s.now)) } }

/-- A bit of EVENT_CAUSE set; a change from 0 raises EVENT_MSIX (R431). -/
def raiseEvent (bit : Nat) (s : State) : State :=
  if s.hostif.eventCause.getLsbD bit then s
  else raiseVector none (ent Ent.eventMsix s)
    { s with hostif := { s.hostif with eventCause := s.hostif.eventCause ||| (1#64 <<< bit) } }

/-! Job state and job faults (R353, R530, R598). -/

abbrev jobNone : Nat := 0
abbrev jobDeploying : Nat := 1
abbrev jobRunning : Nat := 2
abbrev jobRestarting : Nat := 3
abbrev jobUndeploying : Nat := 4
abbrev jobZeroising : Nat := 5

/-- Dispatch is stopped: a restart has begun and is not over (R530, Table 20.3 step 1). -/
def dispatchStopped (s : State) : Bool := s.job.state == jobRestarting

/-- JOB_STATE changed, with its Waybill record. -/
def setJobState (n : Nat) (s : State) : State :=
  wbSubmit 0x7001 noInst [n, s.job.state, s.job.tag.toNat]
    { s with job := { s.job with state := n } }

/-- P2 of a JOB_FAULT record (Table 23.3). -/
def faultDetail (unit inst cause tag opcode : Nat) : Nat :=
  unit * 2 ^ 56 + inst * 2 ^ 40 + cause * 2 ^ 32 + tag * 2 ^ 16 + opcode * 2 ^ 8

/-- A job fault (R530, R598). `code` is the Waybill code of the record of its cause and `cause` the number of that record's
submission; 0xE001 and 0 where the cause writes none. The job enters RESTARTING; the restart itself is the JOB_FAULT command. A
job that is being undeployed or does not exist is not restarted (Table 13.1). -/
def raiseJobFaultOf (cause code detail : Nat) (s : State) : State :=
  let s := count Cnt.jobFaults 1 (wbSubmit 0xE001 noInst [code, cause, detail] s)
  if s.job.state = jobRunning ∨ s.job.state = jobRestarting then
    let s := if s.job.state = jobRunning then setJobState jobRestarting s else s
    raiseEvent 0
      { s with recovery := { s.recovery with
          fault := some { time := s.now, code := code },
          begun := s.now :: s.recovery.begun.filter (fun t => s.now < t + 1000000000) } }
  else s

/-- A job fault whose cause has just submitted its record of a code; 0xE001 where it writes none (R598). -/
def raiseJobFault (code detail : Nat) (s : State) : State :=
  raiseJobFaultOf (if code = 0xE001 then 0 else s.waybill.submitted) code detail s

/-- A job fault whose condition writes no record of its own (R598). -/
def jobFaultPlain (unit inst cause tag opcode : Nat) (s : State) : State :=
  raiseJobFault 0xE001 (faultDetail unit inst cause tag opcode) s

/-! Cores, queues, launches, contexts. -/

def ctlOf (c : Nat) (s : State) : CoreControl := s.control.getD c CoreControl.reset
def vecOf (c : Nat) (s : State) : CoreVector := s.vector.getD c CoreVector.reset
def matOf (c : Nat) (s : State) : CoreMatrix := s.matrix.getD c CoreMatrix.reset
def queueOf (n : Nat) (s : State) : Queue := s.dispatch.queues.getD n Queue.reset

def updCtl (c : Nat) (f : CoreControl → CoreControl) (s : State) : State := { s with control := updAt s.control c f }
def updVec (c : Nat) (f : CoreVector → CoreVector) (s : State) : State := { s with vector := updAt s.vector c f }
def updMat (c : Nat) (f : CoreMatrix → CoreMatrix) (s : State) : State := { s with matrix := updAt s.matrix c f }

def updQueue (n : Nat) (f : Queue → Queue) (s : State) : State :=
  { s with dispatch := { s.dispatch with queues := updAt s.dispatch.queues n f } }

def launchOf (id : Nat) (s : State) : Option Launch := s.dispatch.launches.find? (fun l => l.id == id)

def updLaunch (id : Nat) (f : Launch → Launch) (s : State) : State :=
  { s with dispatch := { s.dispatch with launches := updFirst (fun l => l.id == id) f s.dispatch.launches } }

def contextOf (k : Nat) (s : State) : Option Ctx := s.job.contexts.find? (fun c => c.num == k)

def updContext (k : Nat) (f : Ctx → Ctx) (s : State) : State :=
  { s with job := { s.job with contexts := updFirst (fun c => c.num == k) f s.job.contexts } }

def graphOf (id : Nat) (s : State) : Option Graph := s.dispatch.graphs.find? (fun g => g.id == id)

def versionOf (id v : Nat) (s : State) : Option GraphVersion :=
  (graphOf id s).bind (fun g => g.versions.find? (fun x => x.num == v))

def updGraph (id : Nat) (f : Graph → Graph) (s : State) : State :=
  { s with dispatch := { s.dispatch with graphs := updFirst (fun g => g.id == id) f s.dispatch.graphs } }

/-- A launch's report flags (R302): saturation, void bound, torn row. -/
def markLaunch (id : Option Nat) (sat bv torn : Bool) (s : State) : State :=
  match id with
  | some id => updLaunch id (fun l =>
      { l with saturated := l.saturated || sat, boundVoid := l.boundVoid || bv, torn := l.torn || torn }) s
  | none => s

/-- The core group of a core (R22); 16 for the Bivouac's cores, which have none. -/
def cgOf (core : Nat) : Nat := core / 6

/-- A core's group is on, state Running (R29, R509); the Bivouac is always on. -/
def coreOn (core : Nat) (s : State) : Bool :=
  decide (96 ≤ core) || (s.power.groups.getD (cgOf core) GroupPower.reset).code == 0

/-- An operating point is being left: dispatch to cores pauses, and the links hold their traffic (R507). -/
def moving (s : State) : Bool := s.power.moveUntil.any (fun t => decide (s.now < t))

/-- Dispatch to a core of the compute dies pauses while an operating point is being left (R507). -/
def movePaused (core : Nat) (s : State) : Bool := decide (core < 96) && moving s

/-! Fields of a command and the conditions of waits (R293, R306). -/

/-- Word k of a command. -/
def cw (c : Cmd) (k : Nat) : Nat := dword c.words k

/-- Bits of word k of a command. -/
def cf (c : Cmd) (k hi lo : Nat) : Nat := field (cw c k) hi lo

/-- A flag of C0. -/
def cb (c : Cmd) (i : Nat) : Bool := bitOf (cw c 0) i

/-- A condition holds of a value (R306). -/
def condHolds (cond v t mask : Nat) : Bool :=
  if cond = 0 then decide (t ≤ v) else if cond = 1 then (v &&& mask) == (t &&& mask) else v != t

/-- A command's wait holds of a value; the COND of a legacy WAIT lies in L0[41:40]. -/
def waitHolds (c : Cmd) (v : Nat) : Bool :=
  condHolds (if c.legacy then cf c 0 41 40 else cf c 0 42 41) v (cw c 2) (cw c 3)

/-! SRAM (R21). -/

/-- Bytes of a core's SRAM. -/
def sramSize (core : Nat) : Nat := if core < 96 then 4194304 else 524288

def sramKey (core off : Nat) : Nat := core * 2 ^ 23 + off
def stagingKey (die off : Nat) : Nat := die * 2 ^ 26 + off

def sramRead (core off n : Nat) (s : State) : List Byte := memRead s.mem.sram (sramKey core off) n

/-- A core's wait on an object of its SRAM evaluated at a write of n bytes to it (R308). -/
def watchLocal (core off n : Nat) (s : State) : State :=
  { s with dispatch := { s.dispatch with coreWaits := s.dispatch.coreWaits.map (fun w =>
      if w.isLocal ∧ w.core = core ∧ w.met = false ∧ w.addr < off + n ∧ off < w.addr + 8 then
        let v := ofLe (sramRead core w.addr 8 s)
        { w with lastSeen := BitVec.ofNat 64 v, met := condHolds w.cond v w.threshold.toNat w.mask.toNat }
      else w) } }

/-- Bytes written into a core's SRAM, and the wait on them evaluated. -/
def sramWrite (core off : Nat) (bs : List Byte) (s : State) : State :=
  watchLocal core off bs.length { s with mem := { s.mem with sram := memWrite s.mem.sram (sramKey core off) bs } }

def stagingRead (die off n : Nat) (s : State) : List Byte := memRead s.mem.staging (stagingKey die off) n

def stagingWrite (die off : Nat) (bs : List Byte) (s : State) : State :=
  { s with mem := { s.mem with staging := memWrite s.mem.staging (stagingKey die off) bs } }

/-! Interfaces and next hops (R454). -/

/-- The MAC address of an interface: fused, MAC_BASE and on (R454, R483). -/
def ifaceMac (i : Nat) (s : State) : Nat := (s.security.macBase.toNat + i) % 2 ^ 48

/-- An interface's own address, as an integer whose first octet is the most significant; 0 = none. -/
def ifaceAddr (i : Nat) (v6 : Bool) (s : State) : Nat :=
  if v6 then ofBe (leBytes 16 (ent (Ent.ifaceIpv6 + 256 * i) s)) else ent (Ent.ifaceIpv4 + 256 * i) s

/-- An interface's default gateway, in the same form. -/
def ifaceGateway (i : Nat) (v6 : Bool) (s : State) : Nat :=
  if v6 then ofBe (leBytes 16 (ent (Ent.ifaceGateway6 + 256 * i) s)) else ent (Ent.ifaceGateway4 + 256 * i) s

/-- An interface holds an address. -/
def ifaceHolds (i : Nat) (e : Endpoint) (s : State) : Bool := ifaceAddr i e.v6 s == e.addr && e.addr != 0

/-- Two addresses agree in the prefix of an interface. -/
def onLink (i : Nat) (v6 : Bool) (addr : Nat) (s : State) : Bool :=
  let bits := if v6 then 128 else 32
  let p := Nat.min bits (ent ((if v6 then Ent.ifaceIpv6Prefix else Ent.ifaceIpv4Prefix) + 256 * i) s)
  addr / 2 ^ (bits - p) == ifaceAddr i v6 s / 2 ^ (bits - p)

/-- The next hop of an address: itself within the prefix, else the default gateway, where there is one. -/
def nextHop (i : Nat) (v6 : Bool) (addr : Nat) (s : State) : Option Nat :=
  if onLink i v6 addr s then some addr else if ifaceGateway i v6 s = 0 then none else some (ifaceGateway i v6 s)

/-- The MAC address of a neighbour that is resolved. -/
def hopMac (i : Nat) (v6 : Bool) (hop : Nat) (s : State) : Option (BitVec 48) :=
  (s.fabric.neighbours.find? (fun n => n.iface == i && n.v6 == v6 && n.addr == hop)).map (·.mac)

/-- A frame's link to a next hop. -/
def linkTo (i : Nat) (mac : BitVec 48) (s : State) : Link := { mac := mac, vlan := ent (Ent.ifaceVlan + 256 * i) s }

/-- A datagram leaves on its link. -/
def depart (l : Link) (o : Departure) (s : State) : State :=
  match o with
  | .fabric f => { s with fabric := { s.fabric with out := { f with link := l, at_ := s.now } :: s.fabric.out } }
  | .lorjo d => { s with service := { s.service with sent := { d with link := l, at_ := s.now } :: s.service.sent } }
  | .owner p b => { s with security := { s.security with ownerOut := (p, b, l) :: s.security.ownerOut } }

/-- A datagram leaves, with its next hop resolved; while the operating point moves its link holds it (R507; log 214). -/
def putOut (l : Link) (o : Departure) (s : State) : State :=
  if moving s then { s with fabric := { s.fabric with paused := s.fabric.paused ++ [(l, o)] } } else depart l o s

/-- A datagram of the barrier class (R455). -/
def barrierFirst (o : Departure) : Bool :=
  match o with
  | .fabric d => d.cls == 1
  | _ => false

/-- What the links have held leaves, the barrier class first (R455, R507). -/
def resumeLinks (s : State) : State :=
  let held := s.fabric.paused
  (held.filter (fun w => barrierFirst w.2) ++ held.filter (fun w => !barrierFirst w.2)).foldl (fun s w => depart w.1 w.2 s)
    { s with fabric := { s.fabric with paused := [] } }

/-- A Neighbor Discovery or ARP frame, recorded as the address it is about and the interface's own MAC address (log 190). -/
def neighbourFrame (i : Nat) (v6 : Bool) (about dst : Nat) (s : State) : Departure :=
  .fabric { iface := i, peer := 0xFFFF, cls := 1, dscp := ent Ent.fabDscpBarrier s, ecn := 2,
            src := { v6 := v6, addr := ifaceAddr i v6 s, port := 0 }, dst := { v6 := v6, addr := dst, port := 0 },
            link := { mac := 0, vlan := 0 }, bytes := beBytes (if v6 then 16 else 4) about ++ beBytes 6 (ifaceMac i s), at_ := s.now }

/-- Where a request for a neighbour is sent: the solicited-node multicast address, or broadcast. -/
def solicitMac (v6 : Bool) (hop : Nat) : BitVec 48 :=
  if v6 then BitVec.ofNat 48 (0x3333FF000000 + hop % 2 ^ 24) else BitVec.ofNat 48 (2 ^ 48 - 1)

/-- A datagram sent on an interface: it waits, behind one request, for a next hop that is not resolved; one without a route is
dropped (log 190). -/
def sendLink (i : Nat) (dst : Endpoint) (o : Departure) (s : State) : State :=
  match nextHop i dst.v6 dst.addr s with
  | none => s
  | some hop =>
    match hopMac i dst.v6 hop s with
    | some m => putOut (linkTo i m s) o s
    | none =>
      let asked := s.fabric.unresolved.any (fun w => w.iface == i && w.v6 == dst.v6 && w.hop == hop)
      let s := { s with fabric := { s.fabric with
        unresolved := s.fabric.unresolved ++ [{ iface := i, v6 := dst.v6, hop := hop, out := o }] } }
      if asked then s else putOut (linkTo i (solicitMac dst.v6 hop) s) (neighbourFrame i dst.v6 hop hop s) s

/-- A neighbour learned: what waited for it leaves, the barrier class first (R455). -/
def learn (i : Nat) (v6 : Bool) (addr : Nat) (mac : BitVec 48) (s : State) : State :=
  let mine := fun (w : HopWait) => w.iface == i && w.v6 == v6 && w.hop == addr
  let waiting := s.fabric.unresolved.filter mine
  let s := { s with fabric := { s.fabric with
    neighbours := s.fabric.neighbours.filter (fun n => !(n.iface == i && n.v6 == v6 && n.addr == addr)) ++
      [{ iface := i, v6 := v6, addr := addr, mac := mac }],
    unresolved := s.fabric.unresolved.filter (fun w => !mine w) } }
  (waiting.filter (fun w => barrierFirst w.out) ++ waiting.filter (fun w => !barrierFirst w.out)).foldl (fun s w => putOut (linkTo i mac s) w.out s) s

/-! Placement and translation (R376 to R378, R401 to R407). -/

/-- The stacks of a page's class (R402). -/
def classMask (page : Nat) : Nat := if page / 2 ^ 28 = 0 then 0xFFF else page / 2 ^ 28 % 2 ^ 12

/-- The transform t of a page number within its class (R402). -/
def pageMix (p : Nat) : Nat := p ^^^ (p / 2 ^ 9) ^^^ (p / 2 ^ 18)

/-- The home stack of a device virtual address (R402). -/
def homeStack (va : Nat) : Nat :=
  let m := if field va 51 40 = 0 then 0xFFF else field va 51 40
  (setBits 12 m).getD (pageMix (field va 39 12) % popcount 12 m) 0

/-- The channel of an offset within a stack (R377). -/
def hbmChannel (o : Nat) : Nat :=
  let g := o / 1024
  (g % 32) ^^^ foldXor 5 8 (g / 32)

/-- The package of an offset within the cold tier (R378). -/
def coldPackage (o : Nat) : Nat :=
  let g := o / 1024
  let p := (g % 16) ^^^ foldXor 4 10 (g / 16)
  2 * (p % 8) + p / 8

/-- The gather-pool lane that serves an MPA of a stack: 32 × stack + channel (R377). -/
def laneOf (mpa : Nat) : Nat := 32 * (mpa / 2 ^ 40) + hbmChannel (mpa % 2 ^ 40)

/-- The page lies in the module range (R403). -/
def inModuleRange (va : Nat) : Bool := field va 39 38 == 3

/-- Frames of a region that jobs may use (R376). -/
def regionFrames (r : Nat) : Nat := if r < 12 then 15559464 else 250000000

/-- What translation finds for a page. -/
structure PageView where
  /-- 0 NOT_PRESENT, 1 HBM, 2 COLD, 3 HOST -/
  kind : Nat
  rights : Nat
  /-- frame; none for an allocated page of the module range whose frame is taken at its first write (log 12) -/
  frame : Option Nat
  deriving DecidableEq, Repr

/-- The page's entry (R404). -/
def pageView (page : Nat) (s : State) : PageView :=
  match alGet s.xlate.ptes page with
  | some p => { kind := field p.toNat 31 30, rights := field p.toNat 29 28, frame := some (field p.toNat 27 0) }
  | none =>
    match s.mem.extents.find? (fun e => e.first ≤ page && page < e.first + e.count) with
    | some e => { kind := if e.cold then 2 else 1, rights := e.rights, frame := none }
    | none => { kind := 0, rights := 0, frame := some 0 }

/-- A PTE word (Table 15.1). -/
def mkPte (kind rights frame : Nat) : BitVec 32 := BitVec.ofNat 32 (kind * 2 ^ 30 + rights * 2 ^ 28 + frame)

/-- A page's entry replaced; an all-zero entry outside the module range is the unlisted default. -/
def setPte (page : Nat) (p : BitVec 32) (s : State) : State :=
  { s with xlate := { s.xlate with
    ptes := if p = 0 ∧ inModuleRange (page * 4096) = false then alErase s.xlate.ptes page
            else alSet s.xlate.ptes page p } }

/-- The region that holds a page of the given tier: its home stack, or the cold tier. -/
def regionOf (page : Nat) (cold : Bool) : Nat := if cold then 12 else homeStack (page * 4096)

/-- The values of t that a run of n pages from page p of a class takes, as runs: an aligned block of 512 or 2^18 pages takes
those of an aligned block of its size (R402). The first argument bounds the number of runs. -/
def mixRuns : Nat → Nat → Nat → List (Nat × Nat)
  | 0, _, _ => []
  | fuel + 1, p, n =>
    if n = 0 then []
    else
      let k := if p % 2 ^ 18 = 0 ∧ 2 ^ 18 ≤ n then 2 ^ 18 else if p % 512 = 0 ∧ 512 ≤ n then 512 else 1
      (pageMix p / k * k, k) :: mixRuns fuel (p + k) (n - k)

/-- Of a run of pages: its values of t (a run of any length has at most 3,068 pieces). -/
def runMix (first n : Nat) : List (Nat × Nat) := mixRuns 3072 (first % 2 ^ 28) n

/-- The place of a stack among those of a page's class, where the class names it. -/
def stackPlace (page r : Nat) : Option Nat :=
  if bitOf (classMask page) r then some ((setBits 12 (classMask page)).idxOf r) else none

/-- Numbers below x that leave k modulo w. -/
def residuesBelow (w k x : Nat) : Nat := (x + w - 1 - k) / w

/-- Pages of a run that one region holds (R402). -/
def homeShare (first n r : Nat) (cold : Bool) : Nat :=
  if cold then (if r = 12 then n else 0)
  else match stackPlace first r with
    | none => 0
    | some k =>
      let w := popcount 12 (classMask first)
      (runMix first n).foldl (fun a x => a + (residuesBelow w k (x.1 + x.2) - residuesBelow w k x.1)) 0

/-- Frames of a region not yet given out, retired or reserved (R380). -/
def regionFree (r : Nat) (s : State) : Nat :=
  let a := s.mem.alloc.getD r { next := 0, freed := [] }
  let retired := s.mem.retired.countP (fun p => p.1 == r && a.next ≤ p.2)
  let reserved := (s.mem.extents.map (fun e => homeShare e.first e.count r e.cold)).foldl (· + ·) 0
  let taken := s.xlate.ptes.countP (fun p =>
    s.mem.extents.any (fun e => e.first ≤ p.1 && p.1 < e.first + e.count) &&
    regionOf p.1 (field p.2.toNat 31 30 == 2) == r && field p.2.toNat 31 30 != 0)
  regionFrames r + a.freed.length - a.next - retired - (reserved - taken)

/-- The lowest frame at or above n that is not retired. -/
def skipRetired (r : Nat) (retired : List (Nat × Nat)) : Nat → Nat → Nat
  | 0, n => n
  | fuel + 1, n => if retired.contains (r, n) then skipRetired r retired fuel (n + 1) else n

/-- One frame taken from a region (R380), none when it has no free frame. -/
def takeFrame (r : Nat) (s : State) : Option (Nat × State) :=
  let a := s.mem.alloc.getD r { next := 0, freed := [] }
  match a.freed with
  | f :: rest =>
    some (f, { s with mem := { s.mem with alloc := updAt s.mem.alloc r (fun a => { a with freed := rest }) } })
  | [] =>
    let f := skipRetired r s.mem.retired s.mem.retired.length a.next
    if f < regionFrames r then
      some (f, { s with mem := { s.mem with alloc := updAt s.mem.alloc r (fun a => { a with next := f + 1 }) } })
    else none

/-- MPA of a frame (R404). -/
def frameMpa (r f : Nat) : Nat := r * 2 ^ 40 + f * 4096

/-- A frame given back, its contents dropped (R410; a later allocation is zero-filled). -/
def giveFrame (r f : Nat) (s : State) : State :=
  { s with mem := { s.mem with
    dram := memZero s.mem.dram (frameMpa r f) (frameMpa r f + 4096),
    alloc := updAt s.mem.alloc r (fun a => { a with freed := f :: a.freed }) } }

/-- A module-range page's frame, taken now if it has none; the page is lost where a retirement has left no frame (R422; log 12). -/
def ensureFrame (page : Nat) (s : State) : State :=
  let v := pageView page s
  match v.frame with
  | some _ => s
  | none =>
    match takeFrame (regionOf page (v.kind == 2)) s with
    | some (f, s) => setPte page (mkPte v.kind v.rights f) s
    | none => setPte page 0 s

/-- A page of the module range left NOT_PRESENT for want of a frame (R422). -/
def pageLost (page : Nat) (s : State) : Bool := alGet s.xlate.ptes page == some 0 && inModuleRange (page * 4096)

/-- The MPA of a device virtual address on an HBM or COLD page that has its frame. -/
def mpaOf (va : Nat) (s : State) : Option Nat :=
  let v := pageView (va / 4096) s
  match v.kind, v.frame with
  | 1, some f => some (frameMpa (homeStack va) f + va % 4096)
  | 2, some f => some (frameMpa 12 f + va % 4096)
  | _, _ => none

/-- The bus address of a device virtual address on a HOST page (R404). -/
def busOf (va : Nat) (s : State) : Option Nat :=
  let v := pageView (va / 4096) s
  match v.kind, v.frame with
  | 3, some f => some (f * 4096 + va % 4096)
  | _, _ => none

/-- The byte at an MPA: a free value in a stack whose configuration a TEST_PORT_RAW has changed (R398; log 46). -/
def dramByte (a : Nat) (s : State) : Byte :=
  if s.mem.scrambled.contains (a / 2 ^ 40) then Config.unsteadyByte a s.now else memGet s.mem.dram a

/-- The byte at a device virtual address. -/
def devByte (s : State) (va : Nat) : Byte :=
  match mpaOf va s with
  | some a => dramByte a s
  | none =>
    match busOf va s with
    | some a => memGet s.mem.host a
    | none => 0

/-- n bytes from a device virtual address. -/
def devRead (s : State) (va n : Nat) : List Byte := (List.range n).map (fun i => devByte s (va + i))

/-- The little-endian number of n bytes at a device virtual address. -/
def devNat (s : State) (va n : Nat) : Nat := ofLe (devRead s va n)

/-- One byte written at a device virtual address of a present page. -/
def devSetByte (va : Nat) (b : Byte) (s : State) : State :=
  let s := ensureFrame (va / 4096) s
  match mpaOf va s with
  | some a => { s with mem := { s.mem with dram := memSet s.mem.dram a b } }
  | none =>
    match busOf va s with
    | some a => count Cnt.dmaWriteBytes 1 { s with mem := { s.mem with host := memSet s.mem.host a b } }
    | none => s

/-- Bytes put at a device virtual address. -/
def devPut : Nat → List Byte → State → State
  | _, [], s => s
  | va, b :: bs, s => devPut (va + 1) bs (devSetByte va b s)

/-- A waiting command whose object a write of n bytes touches is evaluated (R308); an object in host memory is polled. -/
def watchCmd (va n : Nat) (s : State) (c : Cmd) : Cmd :=
  match c.phase with
  | .waiting t _ =>
    if c.met = false ∧ cw c 1 < va + n ∧ va < cw c 1 + 8 ∧ (busOf (cw c 1) s).isNone then
      let v := devNat s (cw c 1) 8
      { c with phase := .waiting t (BitVec.ofNat 64 v), met := waitHolds c v }
    else c
  | _ => c

/-- A core's wait on a device object evaluated likewise. -/
def watchWait (va n : Nat) (s : State) (w : CoreWait) : CoreWait :=
  if w.isLocal = false ∧ w.met = false ∧ w.addr < va + n ∧ va < w.addr + 8 ∧ (busOf w.addr s).isNone then
    let v := devNat s w.addr 8
    { w with lastSeen := BitVec.ofNat 64 v, met := condHolds w.cond v w.threshold.toNat w.mask.toNat }
  else w

/-- Every wait on an object that a write of n bytes at a device virtual address touches evaluated (R308). -/
def watchWrite (va n : Nat) (s : State) : State :=
  { s with
    legacy := { s.legacy with cmds := s.legacy.cmds.map (watchCmd va n s) },
    dispatch := { s.dispatch with
      queues := s.dispatch.queues.map (fun q => { q with cmds := q.cmds.map (watchCmd va n s) }),
      coreWaits := s.dispatch.coreWaits.map (watchWait va n s) } }

/-- Bytes written from a device virtual address, and the waits on them evaluated. -/
def devWrite (va : Nat) (bs : List Byte) (s : State) : State := watchWrite va bs.length (devPut va bs s)

/-- The right a page needs for an access (Table 15.2). -/
def rightOk (rights : Nat) : Access → Bool
  | .read => rights ≤ 2
  | .write => 1 ≤ rights && rights ≤ 2
  | .atomic => rights == 2

/-- Pages that a byte range touches. -/
def pagesOf (va n : Nat) : List Nat :=
  if n = 0 then [] else (List.range ((va + n - 1) / 4096 - va / 4096 + 1)).map (· + va / 4096)

/-- A unit reads bytes of the module range for a descriptor: a job fault where a page has lost its frame (R422). -/
def moduleRead (unit inst tag opcode va n : Nat) (s : State) : State :=
  if (pagesOf va n).any (pageLost · s) then jobFaultPlain unit inst 2 tag opcode s else s

/-- Bytes that a unit writes for the module itself into the module range: a job fault where the page has lost its frame (R422). -/
def moduleWrite (unit va : Nat) (bs : List Byte) (s : State) : State :=
  let s := devWrite va bs s
  if (pagesOf va bs.length).any (pageLost · s) then jobFaultPlain unit noInst 2 0 0 s else s

/-- What an access to a byte range of device virtual addresses meets first. -/
inductive MemCheck where
  | ok
  /-- [63:52] ≠ 0: a job fault for module work (R401) -/
  | badAddress
  /-- the page is absent or lacks the right (R414) -/
  | absent (page : Nat)
  /-- a HOST page while the host is unreachable (R447) -/
  | hostHeld (bus : Nat)
  deriving DecidableEq, Repr

/-- The first obstacle among pages. -/
def checkPages (acc : Access) (s : State) : List Nat → MemCheck
  | [] => .ok
  | p :: ps =>
    let v := pageView p s
    if v.kind = 0 ∨ rightOk v.rights acc = false then .absent p
    else if v.kind = 3 ∧ hostReachable s = false then .hostHeld (v.frame.getD 0 * 4096)
    else checkPages acc s ps

/-- The check of a byte range (R401, R405, R414, R447). -/
def memCheck (va n : Nat) (acc : Access) (s : State) : MemCheck :=
  if 2 ^ 52 ≤ va ∨ 2 ^ 52 < va + n then .badAddress else checkPages acc s (pagesOf va n)

/-! Translation look-aside state (R407; replacement: log 13). -/

/-- A page looked up in the PTE cache of its home stack. -/
def touchPteCache (page : Nat) (s : State) : State :=
  if s.xlate.pteCache.contains page then s
  else
    let h := homeStack (page * 4096)
    let mine := s.xlate.pteCache.filter (fun p => homeStack (p * 4096) == h)
    let keep := if mine.length < 32768 then s.xlate.pteCache else s.xlate.pteCache.erase (mine.getLastD 0)
    count Cnt.pteCacheMisses 1 { s with xlate := { s.xlate with pteCache := page :: keep } }

/-- A page looked up in the hub TLB. -/
def touchHub (page : Nat) (s : State) : State :=
  if (alGet s.xlate.hubTlb page).isSome then s
  else
    let s := touchPteCache page s
    let v := pageView page s
    count Cnt.hubTlbMisses 1 { s with xlate := { s.xlate with
      hubTlb := (page, mkPte v.kind v.rights (v.frame.getD 0)) :: s.xlate.hubTlb.take 65535 } }

/-- A page looked up in the TLB of Dray d. -/
def touchDray (d page : Nat) (s : State) : State :=
  if s.xlate.drayTlb.any (fun e => e.1 == d && e.2.1 == page) then s
  else
    let s := touchPteCache page s
    let v := pageView page s
    let mine := s.xlate.drayTlb.filter (fun e => e.1 == d)
    let others := s.xlate.drayTlb.filter (fun e => e.1 != d)
    count Cnt.drayTlbMisses 1 { s with xlate := { s.xlate with
      drayTlb := (d, page, mkPte v.kind v.rights (v.frame.getD 0)) :: mine.take 511 ++ others } }

/-- COLD switched on and trained (R513); it requires MAIN (R28). -/
def switchColdOn (s : State) : State :=
  if s.power.cold = 2 ∧ s.power.mainOn = true then
    { s with power := { s.power with cold := 0, coldUntil := some (s.now + 15000000), coldLast := s.now } }
  else s

/-- COLD is switched on and trained, so that what needs it need not wait (R513). -/
def coldUp (s : State) : Bool := s.power.cold != 2 && s.power.coldUntil.all (fun t => decide (t ≤ s.now))

/-- The write of a CMD entry that needs COLD while it is off waits for the switch-on, which it starts (R513). -/
def awaitCold (req : ReqId) (key : Nat) (bytes : List Byte) (s : State) : State :=
  let s := switchColdOn s
  { s with power := { s.power with coldWaits := s.power.coldWaits ++ [(req, key, bytes)] } }

/-- An access to the cold tier: it starts the exit from self-refresh (R397), or switches a tier on that is off (R29). -/
def touchCold (s : State) : State :=
  if s.power.cold = 2 then switchColdOn s
  else if s.power.cold = 1 then
    { s with power := { s.power with cold := 0, coldUntil := some (s.now + 3000), coldLast := s.now } }
  else { s with power := { s.power with coldLast := s.now } }

/-- A page accessed through the hub TLB; a cold-tier page wakes the tier (R397, R407). -/
def hubPage (page : Nat) (s : State) : State :=
  if (pageView page s).kind = 2 then touchCold (touchHub page s) else touchHub page s

/-- A byte range accessed through the hub TLB. -/
def hubAccess (va n : Nat) (s : State) : State := (pagesOf va n).foldl (fun s p => hubPage p s) s

/-- A page accessed through the TLB of Dray d: a cold-tier page wakes the tier, and an access to a HOST page goes on through the
hub TLB (R397, R407). -/
def drayPage (d page : Nat) (s : State) : State :=
  let k := (pageView page s).kind
  if k = 2 then touchCold (touchDray d page s) else if k = 3 then touchHub page (touchDray d page s) else touchDray d page s

/-- A byte range accessed through the TLB of Dray d. -/
def drayAccess (d va n : Nat) (s : State) : State := (pagesOf va n).foldl (fun s p => drayPage d p s) s

/-- Bytes of a range that lie on HOST pages are read by DMA (R452). -/
def noteDmaRead (va n : Nat) (s : State) : State :=
  let host := (List.range n).countP (fun i => (busOf (va + i) s).isSome)
  if host = 0 then s else count Cnt.dmaReadBytes host s

/-- A page's entry invalidated everywhere (R412). -/
def invalidatePage (page : Nat) (s : State) : State :=
  { s with xlate := { s.xlate with
    drayTlb := s.xlate.drayTlb.filter (fun e => e.2.1 != page),
    hubTlb := s.xlate.hubTlb.filter (fun e => e.1 != page),
    pteCache := s.xlate.pteCache.filter (· != page) } }

/-! Page faults (R414 to R420). -/

/-- A fault record (Table 15.7) for a pending entry, `count` records having been written before it. -/
def faultRecord (f : PendingFault) (count_ : Nat) (overflowed : Bool) (depth : Nat) : List Byte :=
  let phase := if (count_ / depth) % 2 = 0 then 1 else 0
  let w0 := phase * 2 ^ 63 + f.typ * 2 ^ 60 + f.access * 2 ^ 58 + (if f.spec then 2 ^ 57 else 0) +
    (if overflowed then 2 ^ 56 else 0) + homeStack (f.page * 4096) * 2 ^ 52 + f.firstAgent * 2 ^ 42 +
    f.waiters.length % 2 ^ 16
  leBytes 8 w0 ++ leBytes 8 (f.page * 4096) ++ leBytes 8 (f.pte.toNat * 2 ^ 32 + f.context * 2 ^ 24) ++
    leBytes 8 f.time

/-- FAULT_MSIX raised, merged with a raise of the last microsecond (R416). -/
def raiseFaultMsix (s : State) : State :=
  let merged := match s.xlate.lastMsix with
    | some t => decide (s.now < t + 1000)
    | none => false
  if merged then s
  else raiseVector none (ent Ent.faultMsix s) { s with xlate := { s.xlate with lastMsix := some s.now } }

/-- The fault queue has no free record (R417). -/
def fqFull (s : State) : Bool :=
  s.xlate.fqEntries == 0 || decide (s.xlate.fqEntries ≤ (s.xlate.fqTail + 2 ^ 32 - s.xlate.fqHead) % 2 ^ 32)

/-- A pending entry enqueued as a fault record, its waiters at that moment in it. -/
def enqueueFault (f : PendingFault) (overflowed : Bool) (s : State) : State :=
  let addr := s.xlate.fqAddr + 32 * (s.xlate.fqTail % s.xlate.fqEntries)
  let r := faultRecord f s.xlate.fqTail overflowed s.xlate.fqEntries
  let s := hostWrite none addr r s
  let s := { s with xlate := { s.xlate with
    fqTail := (s.xlate.fqTail + 1) % 2 ^ 32,
    faults := updFirst (fun x => x.page == f.page) (fun x => { x with queued := true, written := r }) s.xlate.faults } }
  raiseFaultMsix (count Cnt.faultRecords 1 (if f.typ = 1 then count Cnt.rightsFaults 1 s else s))

/-- A pending entry enqueued, or latched when the queue is full or the host unreachable (R417, R447). -/
def submitFault (f : PendingFault) (s : State) : State :=
  if fqFull s || !hostReachable s then
    raiseFaultMsix (raiseEvent 3 (count Cnt.latched 1 { s with xlate := { s.xlate with overflow := true } }))
  else enqueueFault f false s

/-- Latched entries enqueued in arrival order while the queue has room. -/
def drainLatched : Nat → State → State
  | 0, s => s
  | fuel + 1, s =>
    match s.xlate.faults.find? (fun f => !f.queued) with
    | none => s
    | some f => if fqFull s || !hostReachable s then s else drainLatched fuel (enqueueFault f true s)

/-- The access code of a fault record. -/
def accessCode : Access → Nat
  | .read => 0
  | .write => 1
  | .atomic => 2

/-- UNIT and INSTANCE of an agent of Table 15.6 in a JOB_FAULT record. -/
def agentUnit (agent : Nat) : Nat × Nat :=
  if agent < 384 then (3, agent) else if agent < 480 then (2, agent - 384) else if agent < 482 then (3, agent)
  else if agent < 546 then (10, noInst) else (6, noInst)

/-- An agent joins a page's pending entry or creates one, unless it has a fault outstanding (R415); `access` is the record's
code, `spec` says that the fault was held before (R420), and `work` is the TAG and OPCODE of the agent's work (R598). -/
def joinFault (agent page access context : Nat) (work : Nat × Nat) (spec : Bool) (s : State) : State :=
  if s.xlate.faults.any (fun f => f.waiters.contains agent) then s
  else match s.xlate.faults.find? (fun f => f.page == page) with
  | some _ => count Cnt.coalesced 1 { s with xlate := { s.xlate with
      faults := updFirst (fun x => x.page == page) (fun x => { x with waiters := x.waiters ++ [agent] })
        s.xlate.faults } }
  | none =>
    let v := pageView page s
    let typ := if v.kind ≠ 0 then 1 else if v.frame.getD 0 ≠ 0 then 2 else 0
    let f : PendingFault :=
      { page := page, firstAgent := agent, access := access, typ := typ, spec := spec,
        pte := mkPte v.kind v.rights (v.frame.getD 0), context := context, time := s.now, waiters := [agent], work := work,
        queued := false }
    submitFault f { s with xlate := { s.xlate with faults := s.xlate.faults ++ [f] } }

/-- The agent stalls on a page (R415): it joins the page's pending entry or creates one; speculative work is held
(R331, R420). -/
def pageFaultAt (agent page : Nat) (acc : Access) (context spec : Nat) (work : Nat × Nat) (s : State) : State :=
  if spec ≠ 0 then
    if s.xlate.heldFaults.any (fun h => h.agent == agent) then s
    else { s with xlate := { s.xlate with
      heldFaults := s.xlate.heldFaults ++
        [{ agent := agent, page := page, access := accessCode acc, spec := spec, context := context, work := work }] } }
  else joinFault agent page (accessCode acc) context work false s

/-- A host-memory access held at the hub (R447). -/
def holdHostAccess (agent bus : Nat) (work : Nat × Nat) (s : State) : State :=
  if s.hostif.heldAccesses.any (fun h => h.agent == agent) then s
  else count Cnt.hostHeldAccesses 1 { s with hostif := { s.hostif with
    heldAccesses := s.hostif.heldAccesses ++ [{ agent := agent, addr := bus, since := s.now, work := work }] } }

/-- An agent still waits for a page. -/
def agentWaits (agent : Nat) (s : State) : Bool :=
  s.xlate.faults.any (fun f => f.waiters.contains agent) || s.xlate.heldFaults.any (fun h => h.agent == agent) ||
  s.xlate.released.any (fun r => r.1 == agent) ||
  s.hostif.heldAccesses.any (fun h => h.agent == agent)

/-- A thread of the Postilion stalls on a fault or at the hub, and does nothing else until its access is replayed (R415, R447). -/
def threadStalled (agent : Nat) (s : State) : Bool :=
  s.xlate.faults.any (fun f => f.waiters.contains agent) || s.xlate.released.any (fun r => r.1 == agent) ||
  s.hostif.heldAccesses.any (fun h => h.agent == agent)

/-- An access that faults has missed its requester's TLB, unless the page's entry is there and lacks the right, and its slice has
been walked; neither takes the page (R407, R426; log 13). -/
def noteMiss (agent page : Nat) (s : State) : State :=
  if agentWaits agent s then s
  else
    let hub := decide (482 ≤ agent)
    let dray := decide (agent < 384) || agent == 480 || agent == 481
    if (hub && (alGet s.xlate.hubTlb page).isSome) || (dray && s.xlate.drayTlb.any (fun e => e.1 == agent && e.2.1 == page)) then s
    else
      let s := if hub then count Cnt.hubTlbMisses 1 s else if dray then count Cnt.drayTlbMisses 1 s else s
      if s.xlate.pteCache.contains page then s else count Cnt.pteCacheMisses 1 s

/-- What an agent's access that cannot proceed does: stall on a fault, be held at the hub, or fault the job; a lost page of the
module range is a job fault (R422). -/
def stallOn (agent context spec unit inst tag opcode : Nat) (acc : Access) (m : MemCheck) (s : State) : State :=
  match m with
  | .ok => s
  | .badAddress => jobFaultPlain unit inst 0x09 tag opcode s
  | .absent p =>
    if pageLost p s then jobFaultPlain unit inst 0x02 tag opcode s
    else pageFaultAt agent p acc context spec (tag, opcode) (noteMiss agent p s)
  | .hostHeld b => holdHostAccess agent b (tag, opcode) s

/-- Waiters of a page released, to replay their accesses (R413, R418). -/
def releasePage (page : Nat) (s : State) : State :=
  match s.xlate.faults.find? (fun f => f.page == page) with
  | none => s
  | some f =>
    { s with xlate := { s.xlate with
      faults := s.xlate.faults.filter (fun x => x.page != page),
      released := s.xlate.released ++ f.waiters.map (fun a => (a, page)) } }

/-! Hitch objects in device memory (R305, R307). -/

/-- 64-bit value at a device virtual address. -/
def hitchRead (va : Nat) (s : State) : Nat := devNat s va 8

/-- A signal applied: add (wrapping at 2^64) or store. -/
def hitchSignal (va : Nat) (store : Bool) (v : Nat) (s : State) : State :=
  devWrite va (leBytes 8 (if store then v else (hitchRead va s + v) % 2 ^ 64)) s

/-- A requester's port class (R480). -/
def classOf : ReqId → PortClass
  | .t1s _ => .F
  | .mctp _ => .F
  | .window => .H
  | .owner _ => .S
  | .biv => .B

/-- Number of a port class (Tables 13.5, 21.4). -/
def classNum : PortClass → Nat
  | .H => 0
  | .S => 1
  | .F => 2
  | .B => 3

/-- A host write to a 64-bit register (R431): the register's new value; none for a width or place that is not allowed. -/
def regWrite (old : BitVec 64) (w : HostWrite) : Option (BitVec 64) :=
  if w.bytes = 8 ∧ w.offset = 0 then some w.value
  else if w.bytes = 4 ∧ w.offset = 0 then some (BitVec.ofNat 64 (old.toNat / 2 ^ 32 * 2 ^ 32 + w.value.toNat % 2 ^ 32))
  else if w.bytes = 4 ∧ w.offset = 4 then some (BitVec.ofNat 64 (old.toNat % 2 ^ 32 + w.value.toNat % 2 ^ 32 * 2 ^ 32))
  else none

end Sys2Proof.Machine
end

