-- ==== Sys2Proof/Machine/Access.lean ====
section
/-! DEFINITION. Who may write or read a dictionary entry, and when (R481, R498, R499, R541 to R545, R551, R558 to R562,
R569): the checks of R543 in their order, selectors, and the status of command entries. -/

namespace Sys2Proof.Machine

open Sys2Proof

/-! Error codes of Table 21.3. -/

abbrev erOk : Nat := 0x00
abbrev erNoEntry : Nat := 0x01
abbrev erDenied : Nat := 0x02
abbrev erReadOnly : Nat := 0x03
abbrev erWriteOnly : Nat := 0x04
abbrev erBadLength : Nat := 0x05
abbrev erBadValue : Nat := 0x06
abbrev erWrongState : Nat := 0x07
abbrev erBusy : Nat := 0x08
abbrev erSegment : Nat := 0x09
abbrev erBadFrame : Nat := 0x0A
abbrev erMultiCmd : Nat := 0x0B
abbrev erNoResource : Nat := 0x0C
abbrev erUnavailable : Nat := 0x0D

/-! Requesters and selectors (R547, R558). -/

/-- What the server keeps for a requester. -/
def reqOf (r : ReqId) (s : State) : Requester :=
  (s.dict.requesters.find? (fun x => x.id == r)).getD
    { id := r, kept := none, snapshot := none, partials := [], selectors := [], used := 0 }

/-- A requester's record replaced. -/
def putReq (x : Requester) (s : State) : State :=
  if s.dict.requesters.any (fun y => y.id == x.id) then
    { s with dict := { s.dict with requesters := updFirst (fun y => y.id == x.id) (fun _ => x) s.dict.requesters } }
  else { s with dict := { s.dict with requesters := s.dict.requesters ++ [x] } }

/-- A requester's activity noted. -/
def touchReq (r : ReqId) (s : State) : State :=
  let s := { s with dict := { s.dict with useClock := s.dict.useClock + 1 } }
  putReq { reqOf r s with used := s.dict.useClock } s

/-- The selector entries of R558. -/
def isSelector (key : Nat) : Bool :=
  [Ent.indexSelect, Ent.tableSelect, Ent.graphSelect, Ent.agentSelect, Ent.fabPeerSelect, Ent.logSelect, Ent.wbCursor,
    Ent.rateSelect, Ent.journalSelect].contains key

/-- A requester's value of a selector; the default where it has written none. -/
def selVal (key : Nat) (r : ReqId) (s : State) : Nat := (alGet (reqOf r s).selectors key).getD 0

/-- The least used among requesters that hold selectors. -/
def oldestHolder (s : State) : Option Requester :=
  (s.dict.requesters.filter (fun x => !x.selectors.isEmpty)).foldl
    (fun best x => match best with
      | none => some x
      | some b => if x.used < b.used then some x else some b) none

/-- A selector written: a seventeenth holder makes the longest inactive one return to defaults (R558). -/
def setSelector (key v : Nat) (r : ReqId) (s : State) : State :=
  let x := reqOf r s
  let holders := s.dict.requesters.countP (fun y => !y.selectors.isEmpty && y.id != r)
  let s :=
    if x.selectors.isEmpty && 16 ≤ holders then
      match oldestHolder s with
      | some o => putReq { o with selectors := [] } s
      | none => s
    else s
  putReq { reqOf r s with selectors := alSet (reqOf r s).selectors key v } s

/-! Segmented writes (R545). -/

/-- 100 ms in nanoseconds. -/
abbrev lapseNs : Nat := 100000000

/-- A segmented write is open and has not lapsed. -/
def openWrite (index sub : Nat) (p : PartialWrite) (s : State) : Bool :=
  p.index == index && p.sub == sub && decide (s.now < p.last + lapseNs)

/-- Another requester holds a write of the entry open (R545). -/
def heldByOther (r : ReqId) (index sub : Nat) (s : State) : Bool :=
  s.dict.requesters.any (fun x => x.id != r && x.partials.any (fun p => openWrite index sub p s))

/-- A requester's partial write of an entry discarded. -/
def dropPartial (r : ReqId) (index sub : Nat) (s : State) : State :=
  let x := reqOf r s
  putReq { x with partials := x.partials.filter (fun p => !(p.index == index && p.sub == sub)) } s

/-! Command entries (R551). -/

/-- Status of a command entry. -/
def cmdOf (key : Nat) (s : State) : CmdStatus :=
  (alGet s.dict.cmds key).getD { state := 0, status := 0, reason := 0, cls := 0, runs := 0, time := 0 }

/-- An action starts: STATE RUNNING, RUNS raised. -/
def startCmd (key : Nat) (r : ReqId) (s : State) : State :=
  let c := cmdOf key s
  { s with dict := { s.dict with 
    cmds := alSet s.dict.cmds key
      { state := 1, status := 0, reason := 0, cls := classNum (classOf r), runs := (c.runs + 1) % 2 ^ 32,
        time := s.now } } }

/-- An action ends: DONE where the status is OK, otherwise REFUSED with a reason. -/
def endCmd (key status reason : Nat) (s : State) : State :=
  let c := cmdOf key s
  { s with dict := { s.dict with 
    cmds := alSet s.dict.cmds key
      { c with state := if status = stOk then 2 else 3, status := status, reason := reason, time := s.now } } }

/-- The 16 bytes a read of a command entry returns (Table 21.4). -/
def cmdBytes (key : Nat) (s : State) : List Byte :=
  let c := cmdOf key s
  leBytes 8 (c.state * 2 ^ 56 + c.status * 2 ^ 48 + c.reason * 2 ^ 40 + c.cls * 2 ^ 32 + c.runs) ++ leBytes 8 c.time

/-! Rights (R481, R482, R498, R499). -/

/-- The bit of a class in a rights column. -/
def classBit (c : PortClass) : Nat := 2 ^ classNum c

/-- PORT_ROLES grants a class a role (R482). -/
def hasRole (c : PortClass) (role : Nat) (s : State) : Bool :=
  bitOf s.security.portRoles.toNat (8 * classNum c + role)

/-- The role under which an access falls (Table 18.1). -/
def roleOf (key : Nat) (write : Bool) (bytes : List Byte) : Nat :=
  if write = false then 0
  else if key = Ent.jobDeploy then (if leAt bytes 8 1 = 1 then 3 else 2)
  else if key = Ent.jobUndeploy then 2
  else if key = Ent.maintMode ∨ key / 0x100000 = 6 then 4
  else if key = Ent.fwWrite ∨ key = Ent.fwInstall ∨ key = Ent.fwActivate ∨ key = Ent.fwConfirm ∨
      key = Ent.rollbackCommit then 5
  else if key = Ent.keyWipe then 6
  else if key = Ent.wbClear then 7
  else 1

/-- A sealed job exists (R353, R498). -/
def sealedJob (s : State) : Bool := s.job.sealed_ && s.job.state != jobNone

/-- Table 18.11: the entries that only S writes while a sealed job exists. -/
def sealedOnly (key : Nat) (s : State) : Bool :=
  let index := key / 256
  let sub := key % 256
  (index == 0x2000 && sub != 6 && sub != 7) || (0x2010 ≤ index && index ≤ 0x2020) || index == 0x2100 ||
  index == 0x2200 || index == 0x2601 || key == Ent.tileRingEntries || key == Ent.satRecordRate ||
  key == Ent.replayRecord ||
  (0x2510 ≤ index && index < 0x2550 &&
    (sub == 1 || sub == 5 || sub == 0x0A || sub == 0x0B || ent (index * 256 + 1) s != 1)) ||
  key == Ent.bar2WindowVa ||
  (index == 0x2A00 && (sub == 1 || sub == 2 || sub == 3 || sub == 4 || sub == 6 || sub == 0x16 || sub == 0x17)) ||
  (0x2A30 ≤ index && index ≤ 0x2A3F) || key == Ent.ownerBufferMb || key == Ent.ownerQueue || key == Ent.sealHostPages

/-- The owner key digest of a requester's session. -/
def sessionDigest (r : ReqId) (s : State) : Option (BitVec 256) :=
  match r with
  | .owner id => (s.security.owners.find? (fun o => o.id == id)).map (·.keyDigest)
  | _ => none

/-- A restriction of a sealed job refuses the write (R498, R499, R355). -/
def sealedRefuses (r : ReqId) (key : Nat) (s : State) : Bool :=
  sealedJob s &&
  match classOf r with
  | .S => sessionDigest r s != some s.security.ownerDigest || key == Ent.ownerKeys || key == Ent.ownerUdpPort
  | _ => sealedOnly key s || key == Ent.ownerKeys || key == Ent.ownerUdpPort || key == Ent.jobUndeploy

/-- An owner session with another key than the sealed job's: every request of it but reads is refused (R498). -/
def foreignOwner (r : ReqId) (s : State) : Bool :=
  sealedJob s && classOf r == .S && sessionDigest r s != some s.security.ownerDigest

/-- Only S writes a queue whose CLASS is OWNER, or sets CLASS to OWNER (R291). -/
def ownerQueueRefuses (c : PortClass) (key : Nat) (bytes : List Byte) (s : State) : Bool :=
  let index := key / 256
  0x2510 ≤ index && index < 0x2550 && c != .S &&
  (ent (index * 256 + 1) s == 3 || (key % 256 == 1 && ofLe bytes == 3))

/-- Entries the AON domain serves (R562); HIGHEST_SUB goes with its index. -/
def aonServed (key : Nat) : Bool :=
  let index := key / 256
  (0x1000 ≤ index && index ≤ 0x1FFF) || index == 0x2E00 ||
  [Ent.jobState, Ent.quoteNonce, Ent.quote, Ent.msRead, Ent.keyWipe, Ent.zeroisePending, Ent.tempMaxMc, Ent.tripCause,
    Ent.powerOff, Ent.coldReset, Ent.resetCause, Ent.bootStage].contains key ||
  (key % 256 == 0 && [0x2600, 0x2B00, 0x2C00, 0x2D00].contains index)

/-- What the boot ROM serves where the root-of-trust image is refused in both banks: on F ports, reads of 0x1000 to 0x1FFF and
the entries of Table 20.5, HIGHEST_SUB going with its index (R539, R556, R562). -/
def romServed (c : PortClass) (key : Nat) (write : Bool) : Bool :=
  c == .F && ((0x1000 ≤ key / 256 && key / 256 ≤ 0x1FFF && !write) || key / 256 == 0x2D00 || key / 256 == 0x6D00)

/-- The unit that serves the entry is not running (R562, R539); before step 3 of start-up nothing is served. -/
def unavailable (c : PortClass) (key : Nat) (write : Bool) (s : State) : Bool :=
  if s.recovery.romOnly then !romServed c key write
  else if s.recovery.bootStage < 3 then true
  else !aonServed key && !s.recovery.hubRunning

/-- A maintenance entry outside maintenance mode; HIGHEST_SUB is none (R556, R569). -/
def maintClosed (key : Nat) (s : State) : Bool :=
  key / 0x100000 == 6 && key % 256 != 0 && !s.recovery.maint

/-- Steps 2 to 4 of R543 for a read. -/
def readError (r : ReqId) (index sub : Nat) (s : State) : Nat :=
  let c := classOf r
  let key := entryKey index sub
  match findEntry index sub with
  | none => erNoEntry
  | some e =>
    if unavailable c key false s then erUnavailable
    else if !hasRole c 0 s then erDenied
    else if (e.rd / classBit c) % 2 = 1 then erOk
    else if e.acc = .wo ∧ (e.wr / classBit c) % 2 = 1 then erWriteOnly
    else erDenied

/-- The range of a value, where its defining chapter gives one (R543 step 6); the bytes that a short OCTETS value leaves out are 0
(R541). -/
def rangeOk (index sub : Nat) (typ : EType) (acc : EAccess) (bytes : List Byte) (s : State) : Bool :=
  let v := ofLe bytes
  let key := entryKey index sub
  if typ = .bool then
    if key = Ent.maintMode then v ≤ 1 else if acc = .cmd then v == 1 else v ≤ 1
  else if key = Ent.versions then v ≤ 3
  else if key = Ent.respDscp ∨ key = Ent.fabDscpInference ∨ key = Ent.fabDscpBarrier ∨ key = Ent.fabDscpBulk then v ≤ 63
  else if key = Ent.cacheEntries then v ≤ 65536 && v % 8 == 0
  else if key = Ent.keyLoad then leAt bytes 0 4 < 1024 && (leAt bytes 4 4 == 1 || leAt bytes 4 4 == 2)
  else if 0x2010 ≤ index ∧ index ≤ 0x201F then
    if sub = 2 then v ≤ 15 || v == 0xFF
    else if sub = 3 then v ≤ 63
    else if sub = 4 then v ≤ 3
    else if sub = 0x0C then v ≤ 1
    else true
  else if key = Ent.rowCacheGb then v ≤ 64 && v % 8 == 0
  else if key = Ent.updateLogMb then 64 ≤ v && v ≤ 4096
  else if key = Ent.updateSharePct then 1 ≤ v && v ≤ 50
  else if key = Ent.tileRingEntries then v == 256 || v == 512 || v == 1024 || v == 2048 || v == 4096
  else if key = Ent.sessionPoolGb then v ≤ 256 && v % 8 == 0
  else if key = Ent.sessionQueue ∨ key = Ent.legacyQueue then v ≤ 63
  else if key = Ent.barrierShare16ths ∨ key = Ent.bulkShare16ths then 1 ≤ v && v ≤ 8
  else if 0x2510 ≤ index ∧ index < 0x2550 then
    if sub = 1 then v ≤ 4
    else if sub = 2 then 16 ≤ v && v ≤ 65536 && 2 ^ Nat.log2 v == v
    else if sub = 3 ∨ sub = 4 then v % 4096 == 0
    else if sub = 5 then v ≤ 15 || v == 0xFF
    else if sub = 9 then v ≤ 127
    else if sub = 0x0A then v ≤ 95 || v == 0xFF
    else true
  else if key = Ent.hitchTimeoutNs then 1000 ≤ v && v ≤ 4000000000
  else if key = Ent.hostPollNs then 200 ≤ v && v ≤ 1000000
  else if index = 0x2602 then 1 ≤ v
  else if key = Ent.jobDeploy then
    leAt bytes 8 1 ≤ 1 && leAt bytes 9 7 == 0
  else if key = Ent.scrubPeriodS then 3600 ≤ v && v ≤ 604800
  else if key = Ent.rowCeThreshold then 1 ≤ v && v ≤ 1024
  else if key = Ent.fqEntries then 1024 ≤ v && v ≤ 65536 && 2 ^ Nat.log2 v == v
  else if key = Ent.fqAddr ∨ key = Ent.mapAddr then v % 4096 == 0
  else if key = Ent.faultMsix ∨ key = Ent.eventMsix then v ≤ 127
  else if key = Ent.mapDepth then 16 ≤ v && v ≤ 65536 && 2 ^ Nat.log2 v == v
  else if key = Ent.agentSelect then v < 548
  else if key = Ent.maxLinkGen then 4 ≤ v && v ≤ 7
  else if key = Ent.bar2WindowVa then v < 2 ^ 52 && v % s.hostif.bar2Size == 0
  else if key = Ent.bar2ResetGib then 1 ≤ v && v ≤ 256 && 2 ^ Nat.log2 v == v
  else if key = Ent.irqHoldoffNs then v ≤ 100000
  else if key = Ent.fabModuleNumber then v ≤ 4095 || v == 0xFFFF
  else if key = Ent.fabFabricMtu then 1500 ≤ v && v ≤ 9000
  else if key = Ent.fabTxWeights then v % 256 ≠ 0 && v / 256 % 256 ≠ 0 && v / 65536 % 256 ≠ 0 && v < 2 ^ 24
  else if 0x2A10 ≤ index ∧ index ≤ 0x2A13 ∧ sub = 1 then v ≤ 6
  else if 0x2A20 ≤ index ∧ index ≤ 0x2A2F then
    if sub = 3 then v ≤ 128 else if sub = 6 then v ≤ 32 else if sub = 8 then v ≤ 4094 else true
  else if key = Ent.measureExtend then 12 ≤ leAt bytes 0 1 && leAt bytes 0 1 ≤ 15
  else if key = Ent.ownerBufferMb then v ≤ 4096
  else if key = Ent.ownerQueue then v ≤ 63 || v == 0xFF
  else if key = Ent.powerCapW then 400 ≤ v && v ≤ 1800
  else if key = Ent.opMin ∨ key = Ent.idleDepthDefault then v ≤ 3
  else if key = Ent.throttleC then 85 ≤ v && v ≤ 105
  else if key = Ent.alarmC then ent Ent.throttleC s ≤ v && v ≤ 110
  else if key = Ent.bivBinding then v ≤ 15 || v == 0xFF
  else if key = Ent.restartLimit then 2 ≤ v && v ≤ 64
  else if key = Ent.fwWrite then 1 ≤ leAt bytes 4 4 && leAt bytes 4 4 ≤ 4096
  else if key = Ent.repairAdd then
    let j := leAt bytes 0 8
    field j 63 60 == 1 && field j 59 56 ≤ 12 && field j 26 24 ≤ 2 && (field j 59 56 < 12 || field j 55 51 ≤ 3)
  else if key = Ent.testPortRaw then leAt bytes 0 1 < 12
  else if key = Ent.t1sNodeId then v ≤ 31
  else if key = Ent.i3cStaticAddr then v ≤ 127
  else if key = Ent.indexSelect then
    v < counterIndices.length + ((entryTable.filter (fun e => e.sub == 1)).map (·.count)).foldl (· + ·) 0
  else true

/-- A state of the job in which most writes are refused (R560). -/
def jobBusy (s : State) : Bool := s.job.state != jobNone && s.job.state != jobRunning

/-- The state conditions of the defining chapters: R291, R353, R359 to R363, R425, R457, R478, R535, R537, R560, R569. -/
def chapterState (index sub : Nat) (acc : EAccess) (bytes : List Byte) (s : State) : Nat :=
  let key := entryKey index sub
  let v := ofLe bytes
  if maintClosed key s = true ∨ (key / 0x100000 = 6 ∧ s.recovery.maintEnding = true) then erWrongState
  else if key = Ent.fabFabricLeave then erOk
  else if key = Ent.jobUndeploy ∧ s.job.state = jobRestarting then erOk
  else if key = Ent.jobDeploy then
    if s.job.state ≠ jobNone ∨ s.security.zeroisePending ∨ s.security.zeroiseMirror ∨ s.recovery.maint ∨
        s.dispatch.postilionState ≠ 2 then erWrongState else erOk
  else if jobBusy s ∧ ((0x2000 ≤ index ∧ index ≤ 0x2A3F) ∨ (index = 0x2B00 ∧ 0x14 ≤ sub ∧ sub ≤ 0x17)) then
    erWrongState
  else if s.job.state = jobNone ∧
      [Ent.sessionClose, Ent.tableDefine, Ent.tableDelete, Ent.jobUndeploy, Ent.contextCreate, Ent.contextDelete,
        Ent.schedCommit].contains key then erWrongState
  else if 0x2010 ≤ index ∧ index ≤ 0x201F ∧ sub = 5 ∧ v = 1 ∧
      ent (Ent.queueClass + 256 * ent (index * 256 + 3) s) s ≠ 2 then erWrongState
  else if 0x2510 ≤ index ∧ index < 0x2550 then
    let q := queueOf (index - 0x2510) s
    if ((1 ≤ sub ∧ sub ≤ 5) ∨ sub = 9 ∨ sub = 0x0A ∨ sub = 0x0B) ∧ q.state ≠ 0 then erWrongState
    else if sub = 6 ∧ v = 1 ∧ (q.state = 3 ∨ ent (index * 256 + 1) s = 0) then erWrongState
    else erOk
  else if (key = Ent.mapAddr ∨ key = Ent.mapDepth) ∧ ent Ent.mapEnable s = 1 then erWrongState
  else if key = Ent.fqOverflowClear ∧ s.xlate.faults.any (fun f => !f.queued) then erWrongState
  else if key = Ent.fabFabricJoin then
    if s.fabric.state ≠ 0 ∨ ent Ent.fabModuleNumber s = 0xFFFF ∨ s.job.state ≠ jobRunning then erDenied else erOk
  else if ((index = 0x2A00 ∧ acc = .rw) ∨ (0x2A30 ≤ index ∧ index ≤ 0x2A3F)) ∧ s.fabric.state ≠ 0 ∧
      [Ent.fabOpTimeoutNs, Ent.fabGlobalTimeoutNs, Ent.fabPeerDeadNs, Ent.fabRtoMinNs, Ent.fabTxWeights,
        Ent.fabPeerSelect].contains key = false then erWrongState
  else if key = Ent.sealHostPages ∧ v = 1 ∧ s.security.sealPolicy.getLsbD 1 = false then erWrongState
  else if key = Ent.maintMode ∧ v = 1 ∧
      (s.job.state ≠ jobNone ∨ s.security.zeroisePending ∨ s.security.zeroiseMirror) then erWrongState
  else erOk

/-- Step 7 of R543: the conditions of the defining chapter, then an action that still runs (R551). -/
def stateError (index sub : Nat) (acc : EAccess) (bytes : List Byte) (s : State) : Nat :=
  let e := chapterState index sub acc bytes s
  let key := entryKey index sub
  if e ≠ erOk then e
  else if acc = .cmd ∧ (cmdOf key s).state = 1 ∧ key ≠ Ent.quoteNonce then erBusy
  else erOk

/-- Steps 2 to 4 of R543 for a write; `bytes` is the value where the entry arrives whole. -/
def writeRights (r : ReqId) (index sub : Nat) (bytes : List Byte) (s : State) : Nat :=
  let c := classOf r
  let key := entryKey index sub
  match findEntry index sub with
  | none => erNoEntry
  | some e =>
    if unavailable c key true s then erUnavailable
    else if !hasRole c (roleOf key true bytes) s then erDenied
    else if e.acc = .ro then (if (e.rd / classBit c) % 2 = 1 ∧ foreignOwner r s = false then erReadOnly else erDenied)
    else if (e.wr / classBit c) % 2 = 0 then erDenied
    else if sealedRefuses r key s || ownerQueueRefuses c key bytes s then erDenied
    else erOk

/-- The size of a whole value is allowed (R541). -/
def sizeOk (e : EntryDef) (n : Nat) : Bool :=
  match e.typ with
  | .octets m => decide (1 ≤ n ∧ n ≤ m)
  | t => n == t.size

/-- Steps 2 to 5 of R543 for a whole-entry write, without range and state. -/
def writeAccessError (r : ReqId) (index sub : Nat) (bytes : List Byte) (s : State) : Nat :=
  let a := writeRights r index sub bytes s
  if a ≠ erOk then a
  else match findEntry index sub with
    | none => erNoEntry
    | some e => if sizeOk e bytes.length then erOk else erBadLength

/-- The first error that applies to a whole-entry write (R543 steps 2 to 7). -/
def writeError (r : ReqId) (index sub : Nat) (bytes : List Byte) (s : State) : Nat :=
  let a := writeAccessError r index sub bytes s
  if a ≠ erOk then a
  else match findEntry index sub with
    | none => erNoEntry
    | some e =>
      if !rangeOk index sub e.typ e.acc bytes s then erBadValue
      else
        let a := stateError index sub e.acc bytes s
        if a ≠ erOk then a
        else if 1024 < e.typ.size ∧ heldByOther r index sub s = true then erBusy
        else erOk

/-- A refusal noted: those of a sealed job's limits on classes H and F are counted (R499, R506). -/
def noteRefusal (r : ReqId) (index sub : Nat) (err : Nat) (s : State) : State :=
  if err = erDenied ∧ sealedJob s = true ∧ (classOf r = .H ∨ classOf r = .F) ∧ sealedOnly (entryKey index sub) s = true then
    count Cnt.sealedDenials 1 s
  else s

/-- A write that is given as a command of its own, with its error: the activity of its requester (R558). -/
def noteWrite (r : ReqId) (index sub err : Nat) (s : State) : State :=
  touchReq r { s with dict := { s.dict with lastWrite := some (r, entryKey index sub, err) } }

/-- A write of an entry that has a command of its own: checked under R543, its outcome noted, its action run. Accepted, it takes
the place of a segmented write that its requester has open on the entry (R545). -/
def writeVia (action : ReqId → List Byte → State → State) (r : ReqId) (index sub : Nat) (bytes : List Byte)
    (s : State) : State :=
  let err := writeError r index sub bytes s
  let s := noteWrite r index sub err s
  if err = erOk then action r bytes (dropPartial r index sub s) else noteRefusal r index sub err s

/-- A write of a CMD entry: its status becomes RUNNING before its action (R551). -/
def cmdVia (action : ReqId → List Byte → State → State) (r : ReqId) (index sub : Nat) (bytes : List Byte)
    (s : State) : State :=
  writeVia (fun r b s => action r b (startCmd (entryKey index sub) r s)) r index sub bytes s

end Sys2Proof.Machine
end

