-- ==== Sys2Proof/Machine/Spec.lean ====
section
/-! DEFINITION. Speculative work's writes and held effects (11, R327 to R331): the range check, held stores and held
records, and the words of stage records. -/

namespace Sys2Proof.Machine

open Sys2Proof

/-- The compute die of a core: north holds cores 0 to 47, south 48 to 95 (R18). -/
def dieOf (core : Nat) : Nat := core / 48

/-- Word k of a stage record (Table 10.10). -/
def stageWord (r : BitVec 256) (k : Nat) : Nat := r.toNat / 2 ^ (64 * k) % 2 ^ 64

def stageNum (r : BitVec 256) : Nat := field (stageWord r 0) 63 48
def stageKind (r : BitVec 256) : Nat := field (stageWord r 0) 47 44
def stageBarrier (r : BitVec 256) : Bool := bitOf (stageWord r 0) 43
def stageNoSpec (r : BitVec 256) : Bool := bitOf (stageWord r 0) 42
def stageExit (r : BitVec 256) : Nat := field (stageWord r 0) 31 24
def stageCoreSet (r : BitVec 256) : Nat := field (stageWord r 0) 23 16
def stageBranch (r : BitVec 256) : Nat := field (stageWord r 0) 15 0
def stageEntry (r : BitVec 256) : Nat := field (stageWord r 1) 63 32
def stageArg (r : BitVec 256) : Nat := field (stageWord r 1) 31 0
def stageOutcome (r : BitVec 256) : Nat := field (stageWord r 3) 63 32

/-- Predecessors a stage record names. -/
def stageDeps (r : BitVec 256) : List Nat :=
  ((List.range 4).map (fun k => field (stageWord r 2) (16 * k + 15) (16 * k))).filter (· != 0xFFFF)

/-! The stages of a launch (R289). -/

/-- The stage record of a launch. -/
def stageRecord (l : Launch) (stage : Nat) (s : State) : Option (BitVec 256) :=
  (versionOf l.graph l.version s).bind (fun v => v.stages.find? (fun r => stageNum r == stage))

/-- The phase of a stage of a launch. -/
def stagePhase (l : Launch) (stage : Nat) : StagePhase :=
  match l.stages.find? (fun x => x.num == stage) with
  | some x => x.phase
  | none => .committed

/-- The outcome a branch has resolved to, compared on bits [31:0]. -/
def branchOutcome (l : Launch) (branch : Nat) : Option Nat := (alGet l.resolved branch).map (fun v => v.toNat % 2 ^ 32)

/-- A stage may be dispatched under R289. -/
def stageReady (l : Launch) (r : BitVec 256) : Bool :=
  (stageDeps r).all (fun d => stagePhase l d == .committed || stagePhase l d == .skipped) &&
  (stageBranch r == 0xFFFF || branchOutcome l (stageBranch r) == some (stageOutcome r))

/-! Writes of speculative work. -/

/-- Every 128-byte row that a write touches lies in a range of its ID (R327, R328). -/
def rangesCover (spec : Nat) (staging : Bool) (place off len : Nat) (s : State) : Bool :=
  let mine := s.runahead.ranges.filter (fun r => r.spec == spec && r.staging == staging && r.place == place)
  len == 0 || (List.range ((off + len - 1) / 128 - off / 128 + 1)).all (fun i =>
    let row := (off / 128 + i) * 128
    mine.any (fun r => decide (r.offset ≤ row) && decide (row + 128 ≤ r.offset + r.length)))

/-- A write outside its provisional ranges: suppressed, recorded, a job fault (R328). `inst` is the core, or 0x200 plus
the Dray agent. -/
def specWriteFault (inst off spec unit tag opcode : Nat) (s : State) : State :=
  raiseJobFault 0x6003 (faultDetail unit (if 0x200 ≤ inst then inst - 0x200 else inst) 6 tag opcode)
    (wbSubmit 0x6003 inst [off, spec] s)

/-- A write into core SRAM by work with a speculation ID, 0 for none (R328). -/
def coreStore (core spec off : Nat) (bytes : List Byte) (inst unit tag opcode : Nat) (s : State) : State :=
  if spec = 0 ∨ rangesCover spec false core off bytes.length s = true then sramWrite core off bytes s
  else specWriteFault inst off spec unit tag opcode s

/-- A write into staging SRAM by such work. -/
def stagingStore (die spec off : Nat) (bytes : List Byte) (inst unit tag opcode : Nat) (s : State) : State :=
  if spec = 0 ∨ rangesCover spec true die off bytes.length s = true then stagingWrite die off bytes s
  else specWriteFault inst off spec unit tag opcode s

/-- A store to HBM4E, cold tier or host memory by such work: held until its ID commits (Table 11.2). -/
def devStore (spec va : Nat) (bytes : List Byte) (s : State) : State :=
  if spec = 0 then devWrite va bytes (hubAccess va bytes.length s)
  else { s with runahead := { s.runahead with
    heldStores := s.runahead.heldStores ++ [{ spec := spec, addr := va, bytes := bytes }] } }

/-- The arithmetic clock at an operating point, in tenths of a GHz (R27, Table 19.1). -/
def arithRate (point : Nat) : Nat := if point = 0 then 40 else if point = 1 then 32 else if point = 2 then 24 else 16

/-- Tenths of arithmetic-clock cycles from the start to an instant (R27; log 27). -/
def arithTenths (t : Nat) (s : State) : Nat :=
  match s.power.clockMoves.find? (fun m => decide (m.1 ≤ t)) with
  | some m => m.2.1 + m.2.2 * (t - m.1)
  | none => 40 * t

/-- The network and hub clock that goes with a rate of the arithmetic clock, both in tenths of a GHz (Table 19.1). -/
def networkRate (arith : Nat) : Nat := if 32 ≤ arith then 20 else if arith = 24 then 16 else 12

/-- Tenths of network-clock cycles from the start to an instant, over the clock moves, newest first (R27; log 27). -/
def networkTenths : List (Nat × Nat × Nat) → Nat → Nat
  | [], t => 20 * t
  | m :: ms, t => if m.1 ≤ t then networkTenths ms m.1 + networkRate m.2.2 * (t - m.1) else networkTenths ms t

/-- Network-clock cycles from an instant to now. -/
def networkSince (t : Nat) (s : State) : Nat :=
  networkTenths s.power.clockMoves s.now / 10 - networkTenths s.power.clockMoves t / 10

/-- Cycles of a core's clock up to an instant: the arithmetic clock, 50 MHz on the Bivouac (R27, R139, R140; log 27). -/
def cyclesAt (core t : Nat) (s : State) : Nat := if core < 96 then arithTenths t s / 10 else t / 20

/-- Cycles of a core's clock from an instant to now. -/
def cyclesSince (core t : Nat) (s : State) : Nat := cyclesAt core s.now s - cyclesAt core t s

/-! SRAM addresses of Table 3.11. -/

/-- A place in SRAM: staging or core, the die or core, and the byte offset. -/
structure SramPlace where
  staging : Bool
  place : Nat
  off : Nat
  deriving DecidableEq, Repr

/-- Bytes of the SRAM a place lies in. -/
def placeSize (p : SramPlace) : Nat := if p.staging then 67108864 else sramSize p.place

/-- A field read as an SRAM address of an issuing core; none breaks Table 3.11 (R81). -/
def sramPlace (core a : Nat) : Option SramPlace :=
  let sp := field a 63 62
  let off := field a 25 0
  if field a 61 26 ≠ 0 then none
  else if sp = 0 then (if off < sramSize core then some { staging := false, place := core, off := off } else none)
  else if 96 ≤ core ∨ sp = 3 then none
  else some { staging := true, place := if sp = 1 then dieOf core else 1 - dieOf core, off := off }

/-- n bytes from a place lie in its SRAM. -/
def placeHolds (p : SramPlace) (n : Nat) : Bool := decide (p.off + n ≤ placeSize p)

/-- A write at a place by work of a speculation ID (R328). -/
def placeStore (p : SramPlace) (spec : Nat) (bytes : List Byte) (inst unit tag opcode : Nat) (s : State) : State :=
  if p.staging then stagingStore p.place spec p.off bytes inst unit tag opcode s
  else coreStore p.place spec p.off bytes inst unit tag opcode s

/-- The address under which a held store to a place is kept: above every device virtual address. -/
def heldAddr (p : SramPlace) : Nat := if p.staging then 2 ^ 61 + stagingKey p.place p.off else 2 ^ 60 + sramKey p.place p.off

/-- A progress or status store of R90: made at once, or held until its ID commits, within the ID's ranges (R91). -/
def placeSignal (p : SramPlace) (spec : Nat) (bytes : List Byte) (inst unit tag opcode : Nat) (s : State) : State :=
  if spec = 0 then placeStore p 0 bytes inst unit tag opcode s
  else if rangesCover spec p.staging p.place p.off bytes.length s = false then specWriteFault inst p.off spec unit tag opcode s
  else { s with runahead := { s.runahead with
    heldStores := s.runahead.heldStores ++ [{ spec := spec, addr := heldAddr p, bytes := bytes }] } }

/-- A held store made at commit. -/
def applyHeldStore (h : HeldStore) (s : State) : State :=
  if 2 ^ 61 ≤ h.addr then { s with mem := { s.mem with staging := memWrite s.mem.staging (h.addr - 2 ^ 61) h.bytes } }
  else if 2 ^ 60 ≤ h.addr then
    let k := h.addr - 2 ^ 60
    watchLocal (k / 2 ^ 23) (k % 2 ^ 23) h.bytes.length { s with mem := { s.mem with sram := memWrite s.mem.sram k h.bytes } }
  else devWrite h.addr h.bytes (hubAccess h.addr h.bytes.length s)

/-- What such work reports to its launch's record (R302): held until its ID commits. -/
def specMark (spec : Nat) (launch : Option Nat) (sat bv torn : Bool) (s : State) : State :=
  if spec = 0 then markLaunch launch sat bv torn s
  else match launch with
    | none => s
    | some l => { s with runahead := { s.runahead with heldMarks := s.runahead.heldMarks ++ [(spec, l, sat, bv, torn)] } }

/-- Work of an ID that has ended, counted if the ID is squashed: lookup entries served and core cycles (R337). -/
def noteSpecWork (spec rows cycles : Nat) (s : State) : State :=
  let add := fun (i : SpecId) => { i with rows := i.rows + rows, cycles := i.cycles + cycles }
  { s with runahead := { s.runahead with ids := updFirst (fun i => i.id == spec) add s.runahead.ids } }

/-- A Waybill record of such work, of an event at a time: submitted, or held with that time until its ID commits (R572). -/
def specRecord (time spec code inst : Nat) (p : List Nat) (s : State) : State :=
  if spec = 0 then wbSubmitAt time false code inst p s
  else { s with runahead := { s.runahead with
    heldRecords := s.runahead.heldRecords ++ [(spec, time, code, inst :: p)] } }

/-- A descriptor with its SPEC_ID replaced, bits [31:16] of a word (R324). -/
def setSpecId (d : Desc) (word spec : Nat) : Desc :=
  d &&& ~~~(BitVec.ofNat 512 (0xFFFF * 2 ^ (64 * word + 16))) ||| BitVec.ofNat 512 (spec % 2 ^ 16 * 2 ^ (64 * word + 16))

/-! Descriptors passed to an engine and not yet taken (R214, R261). -/

/-- An origin without the moment of its issue. -/
def bareOrigin (o : Origin) : Origin := { o with issue := none }

/-- An entry of a core's issued descriptors is this descriptor of this origin. -/
def isIssue (d : Desc) (org : Origin) (p : Desc × Origin) : Bool := p.1 == d && bareOrigin p.2 == bareOrigin org

/-- An origin stamped with the moment of issue and the epoch current then (R94, R119). -/
def stampOrigin (org : Origin) (s : State) : Origin := { org with issue := some (s.now, s.updates.epoch) }

/-- A descriptor passed to its engine. -/
def pushIssued (core : Nat) (d : Desc) (org : Origin) (s : State) : State :=
  updCtl core (fun k => { k with issued := k.issued ++ [(d, stampOrigin org s)] }) s

/-- A descriptor leaves a core's issued descriptors when its engine takes it. -/
def takeIssued (core : Nat) (d : Desc) (org : Origin) (s : State) : State :=
  updCtl core (fun k => { k with issued := k.issued.eraseP (isIssue d org) }) s

/-- A descriptor that cannot proceed stays among a core's issued descriptors, to be taken again (R415, R421). -/
def holdIssued (core : Nat) (d : Desc) (org : Origin) (s : State) : State :=
  if (ctlOf core s).issued.any (isIssue d org) then s else pushIssued core d org s

/-- A descriptor that its engine had taken waits again, before all others of its core (R111). -/
def returnIssued (core : Nat) (d : Desc) (org : Origin) (s : State) : State :=
  updCtl core (fun k => { k with issued := (d, org) :: k.issued }) s

/-- The origin of a descriptor with the moment of its issue: now, where nothing has passed it before. -/
def issuedOrigin (core : Nat) (d : Desc) (org : Origin) (s : State) : Origin :=
  match (ctlOf core s).issued.find? (isIssue d org) with
  | some p => p.2
  | none => stampOrigin org s

/-- The queue through which descriptors of an opcode leave in issue order: the Drays', the splitter's, or the engine's own
(R152, R261). -/
def engineQueue (op : Nat) : Nat := if op = 0x11 then 0x10 else if 0x21 ≤ op ∧ op ≤ 0x25 then 0x21 else op

/-- No descriptor issued earlier on the core waits for the same engine (R261). -/
def inTurn (core : Nat) (d : Desc) (org : Origin) (s : State) : Bool :=
  match (ctlOf core s).issued.find? (fun p => engineQueue (df p.1 0 63 56) == engineQueue (df d 0 63 56)) with
  | none => true
  | some p => isIssue d org p

/-- The Dray agent of a core that reads lists (Table 15.6; log 22). -/
def drayAgent (core : Nat) : Nat := if core < 96 then 4 * core else 384 + core

/-- First and last + 1 byte of the core SRAM that a descriptor of an origin may touch on a core: its context's partition,
or all of it (R148, R357, R359). -/
def sramPart (core : Nat) (org : Origin) (s : State) : Nat × Nat :=
  if 96 ≤ core then (0, sramSize core)
  else match contextOf org.context s with
    | none => (0, sramSize core)
    | some c => if bitOf c.cgMask.toNat (cgOf core) then (c.sramBase, c.sramBase + c.sramBytes) else (0, 0)

/-- The same for the staging SRAM of a die: a context has a partition in the dies that its CG_MASK touches (R357). -/
def stagingPart (die : Nat) (org : Origin) (s : State) : Nat × Nat :=
  match contextOf org.context s with
  | none => (0, 67108864)
  | some c =>
    if field c.cgMask.toNat (8 * die + 7) (8 * die) = 0 then (0, 0) else (c.stagingBase, c.stagingBase + c.stagingBytes)

/-- The same for accumulator entries. -/
def accPart (core : Nat) (org : Origin) (s : State) : Nat × Nat :=
  if 96 ≤ core then (0, 512)
  else match contextOf org.context s with
    | none => (0, 512)
    | some c => if bitOf c.cgMask.toNat (cgOf core) then (c.accBase, c.accBase + c.accEntries) else (0, 0)

/-- n bytes from an offset lie within a partition. -/
def inPart (p : Nat × Nat) (off n : Nat) : Bool := decide (p.1 ≤ off) && decide (off + n ≤ p.2)

/-- A field is an SRAM address of an issuing core from which n bytes lie in what work of the origin may reach (R81, R359). -/
def sramFits (core a n : Nat) (org : Origin) (s : State) : Bool :=
  match sramPlace core a with
  | some p => inPart (if p.staging then stagingPart p.place org s else sramPart core org s) p.off n
  | none => false

/-- Writes into a core's SRAM by work of a speculation ID: all of them, or the first one outside its provisional ranges
is suppressed and faults the job (R328). -/
def coreStoreAll (core spec : Nat) (ws : List (Nat × List Byte)) (inst unit tag opcode : Nat) (s : State) : State :=
  match ws.find? (fun w => spec != 0 && !rangesCover spec false core w.1 w.2.length s) with
  | some w => specWriteFault inst w.1 spec unit tag opcode s
  | none => ws.foldl (fun s w => sramWrite core w.1 w.2 s) s

/-- A speculation ID is live and not squashed. -/
def specLive (spec : Nat) (s : State) : Bool := s.runahead.ids.any (fun i => i.id == spec && !i.squashed)

/-! Errors of core SRAM (R163). -/

/-- A row queued for soft repair at the next cold reset, and recorded, unless it is queued already. -/
def queueRepair (core : Nat) (r : Nat × Nat) (s : State) : State :=
  if (matOf core s).repairPending.contains r then s
  else wbSubmit 0x4002 core [r.1, r.2, 0] (updMat core (fun m => { m with repairPending := m.repairPending ++ [r] }) s)

/-- What the reads of a tile's operands, of a vector load or of a task's load may meet in core SRAM, a free value (log 48): a
corrected error is counted against its row, which is queued for soft repair at CE_REPAIR_THRESHOLD; an uncorrectable one is a job fault. -/
def sramErrors (core : Nat) (s : State) : State :=
  let e := Config.sramError s.free
  let r := Config.sramErrorRow s.free
  let s := drawFree s
  if e = 1 then
    let n := (((matOf core s).rowErrors.find? (fun x => x.1 == r)).map (·.2)).getD 0 + 1
    let s := count Cnt.sramCorrected 1 (updMat core (fun m => { m with
      rowErrors := (r, n) :: m.rowErrors.filter (fun x => x.1 != r) }) s)
    if ent Ent.ceRepairThreshold s ≤ n then queueRepair core r s else s
  else if e = 2 then jobFaultPlain 5 core 5 0 0 s
  else s

end Sys2Proof.Machine
end

