-- ==== Sys2Proof/Machine/Power.lean ====
section
/-! DEFINITION. Power, clocks and thermal behaviour (19): operating points, the cap, core-group states, the switched
domains, sensors and the trip. -/

namespace Sys2Proof.Machine

open Sys2Proof

/-! Operating points and the cap (R507, R514 to R516). -/

/-- The operating point replaced, with the arithmetic clock that goes with it (R27, Table 19.1). -/
def setOpPoint (p : Nat) (s : State) : State :=
  { s with power := { s.power with
      opPoint := p, moveUntil := some (s.now + 2000),
      clockMoves := (s.now, arithTenths s.now s, arithRate p) :: s.power.clockMoves } }

/-- The module moves one operating point; no move begins during another (R507). -/
def moveOpPoint (faster : Bool) (s : State) : State :=
  let p := s.power.opPoint
  if moving s then s
  else if faster then
    if ent Ent.opMin s < p then count Cnt.opChanges 1 (setOpPoint (p - 1) s) else s
  else if p < 3 then count Cnt.opChanges 1 (setOpPoint (p + 1) s)
  else s

/-- A point faster than OP_MIN is left (R508). -/
def holdOpMin (s : State) : State := if s.power.opPoint < ent Ent.opMin s then moveOpPoint false s else s

/-- OP_POINT_MOVE. -/
def execOpPointMove (faster : Bool) (s : State) : Host.Outcome State Fault Refusal := .next (moveOpPoint faster s)

/-- The cap in force, a new one once its 100 µs have passed (R514). -/
def settleCap (s : State) : State :=
  match s.power.capNext with
  | some (w, t) => if t ≤ s.now then { s with power := { s.power with cap := w, capNext := none } } else s
  | none => s

/-- Array issue limited or released by one sixteenth (R515 step 2). -/
def throttleStep (watts : Nat) (s : State) : State :=
  let t := if s.power.cap * 97 < watts * 100 then Nat.min 16 (s.power.throttle + 1) else s.power.throttle - 1
  count Cnt.capThrottleNs (1000 * t / 16)
    { s with power := { s.power with
      throttle := t,
      throttleSince := if 4 < t then (match s.power.throttleSince with
        | some x => some x
        | none => some s.now) else none } }

/-- The operating point follows a limit that lasts, or a demand that stays low (R515 step 3). -/
def capPoint (demand : Nat) (s : State) : State :=
  let low := decide (demand * 100 < s.power.cap * 85)
  let s := { s with power := { s.power with
    lowSince := if low then (match s.power.lowSince with
      | some x => some x
      | none => some s.now) else none } }
  if s.power.throttleSince.any (fun t => decide (t + 100000 ≤ s.now)) then
    { moveOpPoint false s with power := { (moveOpPoint false s).power with throttleSince := some s.now } }
  else if s.power.hotSensors.isEmpty && s.power.lowSince.any (fun t => decide (t + 1000000 ≤ s.now)) then
    { moveOpPoint true s with power := { (moveOpPoint true s).power with lowSince := some s.now } }
  else s

/-- Input energy of one microsecond at a power (R525). -/
def addEnergy (watts : Nat) (s : State) : State :=
  let e := s.power.energyUj + watts
  count Cnt.energyMj (e / 1000) { s with power := { s.power with energyUj := e % 1000 } }

/-- INPUT_POWER_W: the mean of the last 50 µs window that has ended, which is the last projection made in it (R514; log 66). -/
def meanPower (s : State) : Nat := if s.power.window < s.now / 50000 then s.power.projection else s.power.inputPower

/-- CAP_PROJECTION: the projection of the window's mean and the present demand, in watts. What the cap withholds is not
drawn, so the input power measured never exceeds the cap in force (R33; log 66). -/
def execCapProjection (watts demand : Nat) (s : State) : Host.Outcome State Fault Refusal :=
  let s := settleCap s
  let drawn := Nat.min watts s.power.cap
  .next (capPoint demand (throttleStep watts
    (addEnergy drawn { s with power := { s.power with
      inputPower := meanPower s, projection := drawn % 2 ^ 16, window := s.now / 50000 } })))

/-- What a write of POWER_CAP_W does (R514). -/
def powerCapAction (_ : ReqId) (bytes : List Byte) (s : State) : State :=
  setEnt Ent.powerCapW 2 (ofLe bytes)
    { s with power := { s.power with capNext := some (ofLe bytes, s.now + 100000) } }

/-- POWER_CAP_WRITE. -/
def execPowerCapWrite (req : ReqId) (value : Nat) (s : State) : Host.Outcome State Fault Refusal :=
  .next (writeVia powerCapAction req 0x2C00 0x01 (leBytes 2 value) s)

/-- A group's running demand at an operating point, in watts (Table 19.2 at point 0, scaled by Table 19.1; log 14). -/
def groupDemand (point : Nat) : Nat :=
  if point = 0 then 65 else if point = 1 then 46 else if point = 2 then 30 else 17

/-- The demand reserved for the groups that are waking (R516; log 211). -/
def reservedWatts (s : State) : Nat := s.power.groups.countP (fun g => g.code == 5) * groupDemand s.power.opPoint

/-- WAKE_RESERVATION: a slower point first where the group's demand, beside what is drawn and reserved already, does not fit under
the cap (R516). -/
def reserveWake (s : State) : State :=
  if s.power.cap < s.power.projection + reservedWatts s + groupDemand s.power.opPoint then moveOpPoint false s else s

/-- How long a wake that has just been reserved is delayed by a move of the operating point: not at all where the demand fits, and
otherwise by what is left of the move (R516). -/
def wakeDelay (before after : State) : Nat :=
  if before.power.cap < before.power.projection + reservedWatts before + groupDemand before.power.opPoint then
    (after.power.moveUntil.getD 0) - after.now
  else 0

/-! Core groups (R509 to R511). -/

/-- Time to enter a state (Table 19.2). -/
def entryNs (code : Nat) : Nat := if code = 1 then 10 else if code = 2 then 100 else 1000

/-- Time to wake from a state; `mib` is the code and resident segments per core, rounded up to MiB (Table 19.2). -/
def wakeNs (code mib : Nat) : Nat :=
  if code = 0 then 0
  else if code = 1 then 25
  else if code = 2 then 2000
  else if code = 3 then 9000
  else 60000 + 12000 * (mib - 2)

/-- MiB of core-resident segments and code a core of a group holds when woken, from the current versions of the graphs of the
contexts that have the group (R283, R509). -/
def residentMib (cg : Nat) (s : State) : Nat :=
  let here := fun (g : Graph) => (contextOf g.context s).any (fun c => bitOf c.cgMask.toNat cg)
  let bytes := ((s.dispatch.graphs.filter here).map (fun g =>
    ((g.versions.filter (fun v => v.num == g.current)).map (fun v =>
      v.code.length + ((v.weights.filter (fun w => !w.staging)).map (·.bytes)).foldl (· + ·) 0)).foldl (· + ·) 0)).foldl
    (· + ·) 0
  (bytes + 1048575) / 1048576

/-- Time until a group is on if a wake is requested now: what remains of a wake under way, and for a group that is entering a
state the wake from the state it left, or the rest of the entry and the wake behind it (R510). -/
def wakeLeft (cg : Nat) (s : State) : Nat :=
  let g := s.power.groups.getD cg GroupPower.reset
  let mib := residentMib cg s
  if g.code = 5 then g.until_ - s.now
  else if g.code = 6 then
    if 3 ≤ g.other ∧ s.now + 200 < g.until_ then wakeNs g.left mib else (g.until_ - s.now) + wakeNs g.other mib
  else wakeNs g.code mib

/-- A core's SRAM, accumulators and registers lost (Table 19.2 state 4). -/
def loseCore (c : Nat) (s : State) : State :=
  let s := { s with mem := { s.mem with sram := memZero s.mem.sram (sramKey c 0) (sramKey c 0 + 2 ^ 23) } }
  updMat c (fun m => { m with acc := [], active := List.replicate 4 [], shadow := List.replicate 4 [], shadowTag := none })
    (updVec c (fun v => { v with vqueue := [] }) (updCtl c (fun k => { k with icacheTag := none, ccState := 0 }) s))

/-- The cores of a group (R18). -/
def groupCores (cg : Nat) : List Nat := (List.range 6).map (· + 6 * cg)

/-- STAGE[n] switched on (R512): staging SRAM that was off is to have its resident segments reloaded. -/
def stageUp (n : Nat) (s : State) : State :=
  { s with power := { s.power with
      stageReload := if s.power.stage.getD n 0 = 2 then s.power.stageReload.set n true else s.power.stageReload,
      stage := s.power.stage.set n 0 } }

/-- The STAGE domain of a group switched on, beside a wake of the group or before the group is on (R28, R512). -/
def stageOn (cg : Nat) (s : State) : State := stageUp (cg / 8) s

/-- One group's entry completed once its time has passed; the wake that follows it is reserved (R510, R516). -/
def settleGroup (cg : Nat) (s : State) : State :=
  let g := s.power.groups.getD cg GroupPower.reset
  if g.code = 6 ∧ g.until_ ≤ s.now then
    let s := if g.other = 4 then (groupCores cg).foldl (fun s c => loseCore c s) s else s
    let t := if g.wakeAfter then reserveWake s else s
    let g' : GroupPower :=
      if g.wakeAfter then
        { g with code := 5, left := 0, until_ := g.until_ + wakeDelay s t + wakeNs g.other (residentMib cg s), wakeAfter := false }
      else { g with code := g.other }
    let s := if g.wakeAfter then stageOn cg t else s
    { s with power := { s.power with groups := s.power.groups.set cg g' } }
  else s

/-- Every group's due entry completed. -/
def settleGroups (s : State) : State := (List.range 16).foldl (fun s cg => settleGroup cg s) s

/-- The groups of a die. -/
def dieGroups (n : Nat) (s : State) : List GroupPower := (s.power.groups.drop (8 * n)).take 8

/-- The depth in force: 0 clock-gated to 3 fully off (R370, R511). -/
def depthInForce (s : State) : Nat :=
  if ent Ent.schedEnable s = 0 then ent Ent.idleDepthDefault s
  else
    let slot := s.now % 128000 / 1000
    field ((alGet s.job.activeTable slot).getD 0).toNat 111 109

/-- STAGE_DOMAIN_STEP_DOWN (R512, Table 19.3). -/
def stageStepDown (n : Nat) (s : State) : State :=
  let gs := dieGroups n s
  let st :=
    if gs.all (fun g => g.code == 4) && depthInForce s == 3 then 2
    else if gs.all (fun g => g.code == 3 || g.code == 4) then Nat.max 1 (s.power.stage.getD n 0)
    else s.power.stage.getD n 0
  let s := if st = 2 ∧ s.power.stage.getD n 0 ≠ 2 then
      { s with mem := { s.mem with
        staging := memZero s.mem.staging (stagingKey n 0) (stagingKey n 0 + 2 ^ 26) } }
    else s
  { s with power := { s.power with stage := s.power.stage.set n st } }

/-- A group steps down to a depth (R370, R511). -/
def stepDownGroup (cg depth : Nat) (s : State) : State :=
  let s := settleGroups s
  let g := s.power.groups.getD cg GroupPower.reset
  if g.code < depth + 1 then
    let g' : GroupPower :=
      { g with code := 6, other := depth + 1, left := g.code, until_ := s.now + entryNs (depth + 1), wakeAfter := false }
    count Cnt.stepDowns 1 { s with power := { s.power with groups := s.power.groups.set cg g' } }
  else s

/-- A group begins to wake from a state: its demand is reserved, which may delay it by a move of the operating point, and its STAGE
domain comes on beside it (R28, R512, R516). -/
def beginWake (cg code : Nat) (s : State) : State :=
  let t := stageOn cg (reserveWake s)
  { t with power := { t.power with groups := updAt t.power.groups cg (fun g =>
      { g with
        code := 5, other := code, left := 0, until_ := s.now + wakeDelay s t + wakeNs code (residentMib cg s),
        idleSince := none }) } }

/-- A group may be woken: the module has it, it is neither on nor waking, and MAIN, which it requires, is on (R28). -/
def mayWake (cg : Nat) (s : State) : Bool :=
  let g := s.power.groups.getD cg GroupPower.reset
  decide (cg < 16) && s.power.mainOn && g.code != 0 && g.code != 5

/-- A wake of a group requested (R510, R516). -/
def wakeGroup (cg : Nat) (s : State) : State :=
  let s := settleGroups s
  let g := s.power.groups.getD cg GroupPower.reset
  if mayWake cg s = false then s
  else if g.code = 6 then
    if 3 ≤ g.other ∧ s.now + 200 < g.until_ then beginWake cg g.left s
    else { s with power := { s.power with groups := s.power.groups.set cg { g with wakeAfter := true } } }
  else beginWake cg g.code s

/-- A wake for admission or dispatched work (R510); one that already follows an entry is not started again (R525). -/
def wakeOnDemand (cg : Nat) (s : State) : State :=
  let s := settleGroups s
  if mayWake cg s = false ∨ (s.power.groups.getD cg GroupPower.reset).wakeAfter = true then s
  else count Cnt.wakesOnDemand 1 (wakeGroup cg s)

/-- The group of a core to which work is directed is woken where it is not on; the work is held until it is (R29). -/
def wakeCore (core : Nat) (s : State) : State := if coreOn core s then s else wakeOnDemand (cgOf core) s

/-- CG_WAKE. -/
def execCgWake (cg : Nat) (s : State) : Host.Outcome State Fault Refusal :=
  if cg < 16 then .next (wakeOnDemand cg s) else .fault .noSuchUnit

/-! NET and COLD (R29, R512, R513). -/

/-- An event of R513 wants NET on: the service, the fabric, or that no job runs any more. -/
def netWanted (s : State) : Bool :=
  ent Ent.svcEnable s == 1 || s.fabric.state != 0 || s.job.state == jobNone || s.job.state == jobZeroising

/-- NET switched on; the links come up by INTERFACE_UP (R513). What wants it on ends the time for which it could be off (R512). -/
def switchNetOn (s : State) : State :=
  { s with power := { s.power with netOn := s.power.netOn || s.power.mainOn, netIdleSince := none } }

/-- NET_SWITCH_ON. -/
def execNetSwitchOn (s : State) : Host.Outcome State Fault Refusal :=
  .next (if netWanted s then switchNetOn s else s)

/-- The conditions of R29 for switching NET off. -/
def netMayGoOff (s : State) : Bool :=
  s.job.state == jobRunning && ent Ent.svcEnable s == 0 && s.fabric.state == 0 && s.security.owners.isEmpty

/-- NET_SWITCH_OFF: the conditions have held for 1 s (R512); the links on E[0..3] go down. -/
def execNetSwitchOff (s : State) : Host.Outcome State Fault Refusal :=
  .next (if s.power.netOn && netMayGoOff s && s.power.netIdleSince.any (fun t => decide (t + 1000000000 ≤ s.now)) then
    { s with
      power := { s.power with netOn := false, netIdleSince := none },
      fabric := { s.fabric with ifUp := [] } }
  else s)

/-- An allocation of the running job lies in the cold tier (R29). -/
def coldInUse (s : State) : Bool :=
  s.mem.extents.any (·.cold) || s.xlate.ptes.any (fun p => field p.2.toNat 31 30 == 2) ||
  s.job.contexts.any (fun c => c.coldQuota != 0)

/-- COLD_SWITCH_ON: a job or a zeroisation needs the cold tier. -/
def execColdSwitchOn (s : State) : Host.Outcome State Fault Refusal :=
  .next (if s.power.mainOn && (s.job.state == jobDeploying || s.job.state == jobZeroising || coldInUse s) then switchColdOn s
    else s)

/-- COLD_SELF_REFRESH: no access for COLD_IDLE_NS, once COLD is switched on and trained (R512). -/
def execColdSelfRefresh (s : State) : Host.Outcome State Fault Refusal :=
  .next (if s.power.cold = 0 ∧ coldUp s = true ∧ s.power.coldLast + ent Ent.coldIdleNs s ≤ s.now then
    { s with power := { s.power with cold := 1, coldUntil := none } } else s)

/-- SELF_REFRESH_EXIT. -/
def execSelfRefreshExit (s : State) : Host.Outcome State Fault Refusal :=
  .next (if s.power.cold = 1 then touchCold s else s)

/-- COLD switched off from self-refresh once nothing of the job needs it (R29, R512; log 47 for the moment). -/
def coldSwitchOff (s : State) : State :=
  if s.power.cold = 1 ∧ coldInUse s = false ∧ s.job.state ≠ jobDeploying ∧ s.job.state ≠ jobZeroising then
    { s with power := { s.power with cold := 2, coldUntil := none } }
  else s

/-- What the power manager does at each tick: due entries complete, a new cap and OP_MIN take effect, STAGE domains follow their
groups, and the time for which NET could be off runs (R508, R512, R514, R520). -/
def powerTick (s : State) : State :=
  let s := holdOpMin (stageStepDown 0 (stageStepDown 1 (settleGroups (settleCap (coldSwitchOff s)))))
  { s with power := { s.power with
    netIdleSince := if netMayGoOff s then (match s.power.netIdleSince with
      | some t => some t
      | none => some s.now) else none } }

/-! Temperature (R517). -/

/-- A sensor's threshold in m°C: base-die sensors stand 10 °C lower (R517). -/
def sensorLimit (i c : Nat) : Int := (if i < 19 then (c : Int) else (c : Int) - 10) * 1000

/-- Sensors at or above (`true`) or strictly above a threshold. -/
def sensorsOver (c : Nat) (temps : List Int) : List Nat :=
  (List.range temps.length).filter (fun i => decide (sensorLimit i c < temps.getD i 0))

/-- Alarm asserted above ALARM_C and released below ALARM_C − 3 °C (R517). -/
def alarmStep (s : State) : State :=
  let a := ent Ent.alarmC s
  match sensorsOver a s.power.temps with
  | i :: _ =>
    if s.power.alarm then s
    else raiseEvent 4 (count Cnt.thermalAlarms 1
      (wbSubmit 0xD001 i [unsigned 64 (s.power.temps.getD i 0)] { s with power := { s.power with alarm := true } }))
  | [] =>
    if s.power.alarm && (List.range s.power.temps.length).all
        (fun i => decide (s.power.temps.getD i 0 < sensorLimit i a - 3000)) then
      { s with power := { s.power with alarm := false } }
    else s

/-- Throttling while a sensor that exceeded THROTTLE_C has not fallen below THROTTLE_C − 3 °C: one point slower every millisecond
(R517). -/
def throttleHot (s : State) : State :=
  let t := ent Ent.throttleC s
  let hot := (List.range s.power.temps.length).filter (fun i =>
    decide (sensorLimit i t < s.power.temps.getD i 0) ||
    (s.power.hotSensors.contains i && decide (sensorLimit i t - 3000 ≤ s.power.temps.getD i 0)))
  let s := { s with power := { s.power with hotSensors := hot } }
  if hot = [] then { s with power := { s.power with hotSince := none } }
  else
    let s := count Cnt.thermalThrottleNs 10000 s
    if moving s = false ∧ s.power.hotSince.all (fun h => decide (h + 1000000 ≤ s.now)) then
      let s := moveOpPoint false s
      { s with power := { s.power with hotSince := some s.now } }
    else s

/-- The input voltage at J2 as it is measured: it lies in the operating range of R585, and no command gives it (log 205). -/
def readInputMv (s : State) : State :=
  drawFree { s with power := { s.power with inputMv := 36000 + Config.freeRank s.free 0 % 24001 } }

/-- SENSOR_SAMPLE: the 31 sensors read, in m°C, and the input voltage with them (log 205). -/
def execSensorSample (temps : List Int) (s : State) : Host.Outcome State Fault Refusal :=
  if temps.length = 31 then
    .next (alarmStep (throttleHot (readInputMv { s with power := { s.power with temps := temps } })))
  else .fault .noSuchUnit

/-! Domains switched off, and the trip (R518). -/

/-- Everything outside AON and the nonvolatile store loses its state: every domain but AON is off (R518, R526, R527,
Table 20.1). The job ends. Statistics counters and dictionary values are AON's and stay. A row that waits for its remap is
still remapped, as its entry in the nonvolatile store is not undone (R391); patrol scrub begins a new pass (R387). What stays of an
array's failures is the model's choice (log 201). -/
def loseDomains (s : State) : State :=
  let z := State.reset
  { s with
    service := { z.service with sent := s.service.sent },
    lookup := z.lookup, updates := z.updates,
    matrix := s.matrix.map (fun m =>
      { CoreMatrix.reset with failed := m.failed, sparesUsed := m.sparesUsed, repairPending := m.repairPending }),
    vector := z.vector, control := z.control, sequences := z.sequences, streaming := z.streaming,
    dispatch := z.dispatch, runahead := z.runahead, legacy := z.legacy,
    job := { z.job with state := s.job.state },
    mem := { z.mem with
      host := s.mem.host, remaps := s.mem.remaps, journal := s.mem.journal, retired := s.mem.retired, retiredFor := s.mem.retiredFor,
      unretire := s.mem.unretire, lastUe := s.mem.lastUe, idleKey := s.mem.idleKey,
      remapDue := s.mem.remapDue ++ s.mem.failing.map (fun m => { mpa := m.1, ue := true, source := m.2, record := 0 }),
      scrubHbmStart := s.now, scrubColdStart := s.now },
    xlate := z.xlate,
    hostif := { z.hostif with
      msixSent := s.hostif.msixSent, aer := s.hostif.aer, completions := s.hostif.completions,
      unreachableSince := some s.now },
    fabric := { z.fabric with out := s.fabric.out, gens := s.fabric.gens },
    power := { s.power with
      groups := z.power.groups, stage := [2, 2], stageReload := [false, false], mainOn := false, netOn := false, netIdleSince := none, cold := 2,
      coldUntil := none, coldWaits := [], throttle := 0, throttleSince := none, lowSince := none, opPoint := 0, moveUntil := none,
      clockMoves := (setOpPoint 0 s).power.clockMoves,
      bivState := 0, bivVersion := 0, bivStamp := 0, bivTimes := [] },
    security := { s.security with committing := none },
    recovery := { s.recovery with fault := none, begun := [], hubRunning := false, postilionWedged := false } }

/-- A trip (R518): clocks outside AON stop, THERM_TRIP_OUT_N is asserted except for POWER_OFF, every domain but AON goes
off and the job ends without drain. The cause first latched stays (R591). -/
def trip (cause : Nat) (s : State) : State :=
  if s.power.tripped || !s.recovery.powerGood then s
  else
    let hottest := s.power.temps.foldl (fun a b => if a < b then b else a) (s.power.temps.getD 0 0)
    let s := wbSubmit 0xD002 noInst [cause, unsigned 64 hottest] s
    let s := if s.job.state = jobNone then s else setJobState jobNone s
    let s := loseDomains s
    { s with power := { s.power with tripped := true, tripCause := cause, tripOut := cause != 3 } }

/-- THERMAL_TRIP: a sensor stands at TRIP_C, 115 °C, base-die sensors 10 °C lower (R517, R518). -/
def execThermalTrip (s : State) : Host.Outcome State Fault Refusal :=
  .next (if (List.range 31).any (fun i => decide (sensorLimit i 115 ≤ s.power.temps.getD i 0)) then trip 1 s else s)

/-- What a write of 1 to POWER_OFF does (R518). -/
def powerOffAction (_ : ReqId) (_ : List Byte) (s : State) : State := trip 3 (endCmd Ent.powerOff stOk 0 s)

/-- POWER_OFF. -/
def execPowerOff (req : ReqId) (value : Nat) (s : State) : Host.Outcome State Fault Refusal :=
  .next (cmdVia powerOffAction req 0x2C00 0x10 (leBytes 1 value) s)

/-- THERM_TRIP_IN_N asserted for a number of nanoseconds (R591): at least 100 trips, under 50 is ignored, and between
them the spec leaves the outcome open, so a free value decides (log 15). -/
def execThermTripInN (ns : Nat) (s : State) : Host.Outcome State Fault Refusal :=
  if 100 ≤ ns then .next (trip 2 s)
  else if ns < 50 then .next s
  else .next (if Config.pulseTrips s.free then trip 2 (drawFree s) else drawFree s)

/-- REF_CLOCK_LOSS: AON goes on with its own oscillator; every fast PLL loses lock, a job fault (R519). -/
def execRefClockLoss (s : State) : Host.Outcome State Fault Refusal :=
  .next (if s.power.refClockOk then
    raiseJobFault 0xD003 (faultDetail 0 noInst 0 0 0)
      (wbSubmit 0xD003 noInst [0]
        { s with power := { s.power with refClockOk := false }, pins := { s.pins with refPresent := false } })
  else s)

/-- REF_CLOCK_RESTORED (R519). -/
def execRefClockRestored (s : State) : Host.Outcome State Fault Refusal :=
  .next (if s.power.refClockOk then s
  else wbSubmit 0xD003 noInst [1]
    { s with power := { s.power with refClockOk := true, refSince := s.now }, pins := { s.pins with refPresent := true } })

end Sys2Proof.Machine
end

