-- ==== Sys2Proof/Machine/Sched.lean ====
section
/-! DEFINITION. The cyclic schedule (13, R361 to R373): commit, slot boundaries, overruns and debts, reclaim, predictive
wake and idle step-down. -/

namespace Sys2Proof.Machine

open Sys2Proof

/-- The slot in force (R361). -/
def currentSlot (s : State) : Nat := s.now % 128000 / 1000

/-- A slot entry: E0 in bits 63 to 0, E1 in bits 127 to 64 (Table 13.3). -/
def slotEntry (t : List (Nat × BitVec 128)) (slot : Nat) : Nat := ((alGet t slot).getD 0).toNat

/-- Queue and groups of a slot entry's reservations that are valid. -/
def reservations (e : Nat) : List (Nat × Nat) :=
  (if bitOf e 63 then [(field e 61 56, field e 47 32)] else []) ++
  (if bitOf e 62 then [(field e 55 50, field e 31 16)] else [])

/-- The groups of a queue's context. -/
def queueGroups (q : Nat) (s : State) : Nat :=
  match contextOf (ent (Ent.queueContext + 256 * q) s) s with
  | some c => c.cgMask.toNat
  | none => 0

/-- A queue is enabled and not DRAINING. -/
def queueLive (q : Nat) (s : State) : Bool := (queueOf q s).state == 1 || (queueOf q s).state == 2 || (queueOf q s).state == 4

/-- The legacy interface is enabled on a queue, and so served in that queue's slots (R338). -/
def legacyServes (q : Nat) (s : State) : Bool := s.legacy.state == 1 && ent Ent.legacyQueue s == q

/-- The queue whose reservation in a slot entry is effective on a group (R362). -/
def effectiveIn (e cg : Nat) (s : State) : Option Nat :=
  if ent Ent.schedEnable s = 0 then none
  else ((reservations e).find? (fun r =>
    bitOf r.2 cg && (queueLive r.1 s || legacyServes r.1 s) && bitOf (queueGroups r.1 s) cg)).map (·.1)

/-- The queue whose reservation of a slot of the active table is effective on a group. -/
def effectiveOn (slot cg : Nat) (s : State) : Option Nat := effectiveIn (slotEntry s.job.activeTable slot) cg s

/-- The queue whose reservation has been in force on a group in the slot before this one, which the table had that a commit may
have replaced at the start of this cycle. -/
def endedOn (cg : Nat) (s : State) : Option Nat :=
  if s.job.replaced.1 = s.now / 1000 ∧ currentSlot s = 0 then effectiveIn s.job.replaced.2.toNat cg s
  else effectiveOn ((currentSlot s + 127) % 128) cg s

/-- A slot's awake set (R362). -/
def awakeIn (slot cg : Nat) (s : State) : Bool :=
  bitOf (slotEntry s.job.activeTable slot) (64 + 48 + cg) || (effectiveOn slot cg s).isSome

/-- The prediction of a branch on a queue, with the table as a use leaves it (R323). -/
def predictionOf (queue graph branch : Nat) (s : State) : Option (BitVec 32) :=
  (s.runahead.predictions.find? (fun p => p.queue == queue && p.graph == graph && p.branch == branch)).map (·.outcome)

/-- The predicted outcome of a launch's branch that live IDs hold. -/
def openPrediction (launch branch : Nat) (s : State) : Option (BitVec 32) :=
  ((s.runahead.ids.filter (fun i => !i.squashed)).flatMap (·.set)).findSome? (fun m =>
    if m.1 = launch ∧ m.2.1 = branch then some m.2.2 else none)

/-- A stage and every stage it depends on. -/
def stageClosure (v : GraphVersion) (stage : Nat) : List Nat :=
  let rec_ := fun (n : Nat) => v.stages.find? (fun r => stageNum r == n)
  (List.range v.stages.length).foldl (fun ns _ =>
    (ns ++ (ns.filterMap rec_).flatMap stageDeps).eraseDups) [stage]

/-- The branches not yet resolved on which a stage depends. -/
def openBranches (l : Launch) (v : GraphVersion) (stage : Nat) : List Nat :=
  (((v.stages.filter (fun r => (stageClosure v stage).contains (stageNum r))).map stageBranch).filter (fun b =>
    b != 0xFFFF && (alGet l.resolved b).isNone)).eraseDups

/-- The window of R325 has room for a stage of a launch: with it, every launch that has stages ahead is the holder of the
queue's oldest open prediction or one of the two begun next after it. -/
def windowRoom (l : Launch) (s : State) : Bool :=
  let mine := s.dispatch.launches.filter (fun x => x.queue == l.queue)
  let ahead := (mine.flatMap (·.stages)).countP (fun x => x.spec != 0)
  let holders := mine.filter (fun x => s.runahead.ids.any (fun i => !i.squashed && i.set.any (fun m => m.1 == x.id)))
  let oldest := (holders.map (·.order)).foldl Nat.min l.order
  decide (ahead < 4) && (mine.filter (fun x => x.id == l.id || x.stages.any (fun y => y.spec != 0))).all (fun x =>
    decide (x.order ≤ oldest + 2))

/-- What R321 asks of a stage and its launch for a dispatch ahead of an open branch, apart from the window, an ID and room for
ranges: a stage without a branch of its own stands on its predecessors' predictions (log 35). -/
def aheadStage (l : Launch) (r : BitVec 256) (v : GraphVersion) (s : State) : Bool :=
  let own := stageBranch r
  let cores := setBits 96 (v.coreSets.getD (stageCoreSet r) 0).toNat
  !(openBranches l v (stageNum r)).isEmpty && ent Ent.runAheadEnable s != 0 && bitOf (ent Ent.specQueueMask s) l.queue && !l.legacy &&
  !l.biv && (stageKind r == 0 || stageKind r == 2) && !stageBarrier r && !stageNoSpec r &&
  v.regions.any (fun e => field e.toNat 63 48 == stageNum r) &&
  (own == 0xFFFF || (match branchOutcome l own with
    | some o => o == stageOutcome r
    | none => (openPrediction l.id own s).or (predictionOf l.queue l.graph own s) == some (BitVec.ofNat 32 (stageOutcome r)))) &&
  (stageDeps r).all (fun d => stagePhase l d == .committed || stagePhase l d == .skipped ||
    l.stages.any (fun x => x.num == d && x.ahead)) &&
  cores.all (fun c => decide ((s.power.groups.getD (cgOf c) GroupPower.reset).code ≤ 1))

/-- A launch's stage is eligible: under R289, or ahead of an open branch with room in the window (R321, R325). -/
def stageEligible (l : Launch) (r : BitVec 256) (s : State) : Bool :=
  stageReady l r || (versionOf l.graph l.version s).any (fun v => aheadStage l r v s && windowRoom l s)

/-- A stage's core set names a core of a group. -/
def stageOnGroup (l : Launch) (r : BitVec 256) (cg : Nat) (s : State) : Bool :=
  (versionOf l.graph l.version s).any (fun v => (v.coreSets.getD (stageCoreSet r) 0).toNat / 2 ^ (6 * cg) % 64 != 0)

/-- The bodies of the sections of a type in a request's payload (R40). -/
def sectionBodies (typ : Nat) : Nat → List Byte → List (List Byte)
  | 0, _ => []
  | n + 1, bs =>
    if bs.length < 8 then []
    else
      let len := leAt bs 4 4
      let rest := sectionBodies typ n (bs.drop (8 + alignUp len 8))
      if leAt bs 0 2 = typ then slice bs 8 len :: rest else rest

/-- The admitted request of a launch. -/
def requestOf (l : Launch) (s : State) : Option Admitted := l.request.bind (fun r => s.service.admitted.find? (fun a => a.seq == r))

/-- A launch's request has a HISTORY_APPEND section that its append stage writes: one whose events joined a pending join has
none (R54, R253). -/
def appends (l : Launch) (s : State) : Bool :=
  (requestOf l s).any (fun a => !a.joined && !(sectionBodies 4 a.payload.length a.payload).isEmpty)

/-- Stages that R54 carries on: the append stage and every stage it depends on, where the launch's request appends. -/
def keptStages (l : Launch) (s : State) : List Nat :=
  match if appends l s then versionOf l.graph l.version s else none with
  | none => []
  | some v =>
    let rec_ := fun (n : Nat) => v.stages.find? (fun r => stageNum r == n)
    let step := fun (ns : List Nat) =>
      ns ++ ((ns.filterMap rec_).flatMap stageDeps).filter (fun d => !ns.contains d)
    (List.range v.stages.length).foldl (fun ns _ => (step ns).eraseDups)
      ((v.stages.filter (fun r => stageKind r == 1)).map stageNum)

/-- A stage that is still to run, or that runs; of an exited launch those that R54 keeps are. -/
def stageLeft (l : Launch) (x : StageState) (s : State) : Bool :=
  match x.phase with
  | .waiting => !l.exited || (keptStages l s).contains x.num
  | .running _ => true
  | .ended => true
  | _ => false

/-- A launch has work on a group: a stage that is still to run or runs on its cores (R370). -/
def launchOnGroup (cg : Nat) (s : State) : Bool :=
  s.dispatch.launches.any (fun l => l.stages.any (fun x =>
    stageLeft l x s && (stageRecord l x.num s).any (fun r => stageOnGroup l r cg s)))

/-- A command is next and its wait is met (R364). -/
def readyCmd (c : Cmd) : Bool :=
  match c.phase with
  | .fetched => !cb c 43 || c.met
  | .waiting _ _ => c.met
  | _ => false

/-- A queue has a stage eligible under R289 or Run-ahead on a group (R364). -/
def readyStage (q cg : Nat) (s : State) : Bool :=
  s.dispatch.launches.any (fun l => l.queue == q && l.stages.any (fun x => x.phase == .waiting && stageLeft l x s &&
    (stageRecord l x.num s).any (fun r => stageEligible l r s && stageOnGroup l r cg s)))

/-- A core holds descriptors of a queue that were stopped at a tile boundary (R153). -/
def stoppedTiles (c q : Nat) (s : State) : Bool :=
  (matOf c s).chains.any (fun ch => ch.descs.any (fun d => d.org.queue == q && !d.done && d.preempted))

/-- A queue has ready work for a group: a task that waits for one of its cores, a command whose wait is met, an eligible stage, or a descriptor that goes on from its tile boundary (R364, R153). -/
def readyWork (q cg : Nat) (s : State) : Bool :=
  s.dispatch.tasks.any (fun t => t.task.queue == q && cgOf t.core == cg) ||
  (groupCores cg).any (fun c => stoppedTiles c q s) ||
  (bitOf (queueGroups q s) cg && (((queueOf q s).cmds.find? (fun c => c.phase != .dispatched && c.phase != .finished)).any readyCmd ||
    readyStage q cg s || (legacyServes q s && s.legacy.cmds.any readyCmd)))

/-- A core holds work of a queue (Table 13.4). -/
def coreHasWork (c q : Nat) (s : State) : Bool :=
  (ctlOf c s).task.any (fun t => t.queue == q) ||
  s.fabric.descs.any (fun f => f.holdsCore && f.core == c && f.org.queue == q) ||
  (matOf c s).chains.any (fun ch => ch.descs.any (fun d => d.org.queue == q && !d.done && !d.preempted)) ||
  (vecOf c s).vqueue.any (fun d => match d with
    | .tensor _ org => org.queue == q
    | .instr _ => false)

/-- A core holds any work. -/
def coreBusy (c : Nat) (s : State) : Bool :=
  (ctlOf c s).task.isSome || s.fabric.descs.any (fun f => f.holdsCore && f.core == c) || !(matOf c s).chains.isEmpty || !(vecOf c s).vqueue.isEmpty

/-- A core has a descriptor with its Drays, the home stacks or the write path. -/
def coreDescriptors (c : Nat) (s : State) : Bool :=
  !(ctlOf c s).issued.isEmpty ||
  s.streaming.transfers.any (fun t => !t.done && (t.core == c || t.members.any (fun m => m.core == c && m.attached))) ||
  s.lookup.jobs.any (fun j => j.core == c) || s.updates.jobs.any (fun j => j.core == c)

/-- A group is idle (R370): no task, no descriptor, no held work and no queue with ready work for it. -/
def groupIdle (cg : Nat) (s : State) : Bool :=
  (groupCores cg).all (fun c => !coreBusy c s && !coreDescriptors c s && s.dispatch.tasks.all (fun t => t.core != c)) &&
  (List.range 64).all (fun q => !readyWork q cg s)

/-- The oldest command of a queue that is not yet dispatched. -/
def nextCmdOf (n : Nat) (s : State) : Option Cmd :=
  (queueOf n s).cmds.find? (fun c => match c.phase with
    | .fetched => true
    | .waiting _ _ => true
    | _ => false)

/-- DIRECT_CORE of a queue; 0xFF is served by the Postilion. -/
def directCore (n : Nat) (s : State) : Nat := ent (Ent.queueDirectCore + 256 * n) s

/-- Descriptors of some opcodes issued by a core and not yet taken. -/
def issuedOf (core : Nat) (os : List Nat) (s : State) : Nat :=
  (ctlOf core s).issued.countP (fun p => os.contains (df p.1 0 63 56))

/-- The queue of an engine has room for k more descriptors of an opcode: 32 in the Dray queue, the tile ring, 16 in the vector
queue (R152, R205, R261). -/
def engineRoom (core op k : Nat) (s : State) : Bool :=
  if op = 0x10 ∨ op = 0x11 then
    decide (issuedOf core [0x10, 0x11] s + s.streaming.transfers.countP (fun t => t.core == core && !t.running) + k ≤ 32)
  else if op = 0x30 then
    decide (issuedOf core [0x30] s + ((matOf core s).chains.map (fun c => c.descs.length)).foldl (· + ·) 0 + k ≤ s.job.tileRing)
  else op != 0x40 || decide (issuedOf core [0x40] s + (vecOf core s).vqueue.length + k ≤ 16)

/-- What is left of a debt: it is paid by the time that has passed since its payment began (R367). -/
def debtLeft (now : Nat) (d : Debt) : Nat :=
  match d.payFrom with
  | some t => t + d.amount - now
  | none => d.amount

/-- A queue's debt on a group. -/
def debtOf (q cg : Nat) (s : State) : Nat :=
  ((s.job.debts.filter (fun d => d.queue == q && d.cg == cg)).map (debtLeft s.now)).foldl (· + ·) 0

/-- A queue has an effective reservation on a group in the active table. -/
def reserves (q cg : Nat) (s : State) : Bool := (List.range 128).any (fun slot => effectiveOn slot cg s == some q)

/-- OVERRUN_DEBT: an overrun becomes debt, limited to DEBT_MAX_NS (R367). A debt that is being paid goes on being paid. -/
def addDebt (q cg ns : Nat) (s : State) : State :=
  let old := debtOf q cg s
  let new := Nat.min 128000 (old + ns)
  let s := count Cnt.slotOverruns 1 (count Cnt.overrunNs ns (count Cnt.debtDiscardedNs (old + ns - new) s))
  let paying := s.job.debts.any (fun d => d.queue == q && d.cg == cg && d.payFrom.isSome)
  { s with job := { s.job with
    debts := s.job.debts.filter (fun d => !(d.queue == q && d.cg == cg)) ++
      [{ queue := q, cg := cg, amount := new, payFrom := if reserves q cg s && !paying then none else some s.now }] } }

/-- Outgoing work that has ended is dropped; the last core of a group makes the overrun (R366, R367). A core that returns to
its reserving queue keeps its note until that queue's work starts (RECLAIM_NS). -/
def settleOutgoing (s : State) : State :=
  s.job.outgoing.foldl (fun s o =>
    if o.reclaim ∨ coreHasWork o.core o.queue s then s
    else
      let s := { s with job := { s.job with outgoing := s.job.outgoing.filter (fun x => x != o) } }
      if s.job.outgoing.any (fun x => !x.reclaim && x.queue == o.queue && cgOf x.core == cgOf o.core && x.since == o.since) then s
      else if o.since < s.now then addDebt o.queue (cgOf o.core) (s.now - o.since) s else s) s

/-- Debts paid by elapsed time (R367). -/
def payDebts (s : State) : State :=
  { s with job := { s.job with debts := s.job.debts.filter (fun d => debtLeft s.now d != 0) } }

/-- The start of the slot in force. -/
def slotStart (s : State) : Nat := s.now - s.now % 1000

/-- The start of a queue's next effective reservation begins the payment of its debt there (R367). -/
def startPayments (s : State) : State :=
  { s with job := { s.job with debts := s.job.debts.map (fun d =>
    match d.payFrom with
    | some _ => d
    | none => if effectiveOn (currentSlot s) d.cg s == some d.queue then { d with payFrom := some (slotStart s) } else d) } }

/-- A debt whose queue has no effective reservation left is paid from now on (R367). -/
def noteDebts (s : State) : State :=
  { s with job := { s.job with debts := s.job.debts.map (fun d =>
    if d.payFrom.isNone && !reserves d.queue d.cg s then { d with payFrom := some s.now } else d) } }

/-- Core-ns dispatched for a queue (R364). -/
def chargeQueue (q ns : Nat) (s : State) : State :=
  { s with job := { s.job with deficit := alSet s.job.deficit q ((alGet s.job.deficit q).getD 0 + ns) } }

/-- Of the queues that satisfy a condition, the one with the least core-ns dispatched per weight (R364 step 2; log 167). -/
def leastLoad (p : Nat → Bool) (s : State) : Option Nat :=
  ((List.range 64).filter p).foldl
    (fun best q => match best with
      | none => some q
      | some b =>
        let load := fun x => ((alGet s.job.deficit x).getD 0) * 65280 / ent (Ent.queueWeight + x) s
        if load q < load b then some q else some b) none

/-- The choice of R364 among the queues that satisfy a condition: the reserving queue, otherwise a share. -/
def chooseAmong (cg : Nat) (p : Nat → Bool) (s : State) : Option Nat :=
  match effectiveOn (currentSlot s) cg s with
  | some q => if p q then some q else leastLoad p s
  | none => leastLoad p s

/-- The queue whose work a core of a group takes (R364). -/
def chooseQueue (cg : Nat) (s : State) : Option Nat :=
  chooseAmong cg (fun q => readyWork q cg s && debtOf q cg s == 0) s

/-- Work of a queue that a core has left still runs there: it takes no other queue's work, and no more of that queue's while it
is not its own again (R365). -/
def stillOutgoing (core q : Nat) (s : State) : Bool :=
  s.job.outgoing.any (fun o => o.core == core && (o.queue != q || alGet s.job.coreQueue core != some q) &&
    coreHasWork core o.queue s)

/-- A core takes work of a queue: it has it, or nothing of the queue it had is left there (R365). -/
def coreOpen (core q : Nat) (s : State) : Bool :=
  !stillOutgoing core q s && (alGet s.job.coreQueue core).all (fun o => o == q || !coreHasWork core o s)

/-- A command gives a core a descriptor or a task: a native DESCRIPTOR or TASK, a legacy DMA, DESC or KERNEL, that no other
command holds back and whose engine queue has room (R295, R342). -/
def cmdFor (core : Nat) (c : Cmd) (q : Nat) (s : State) : Bool :=
  let here := fun (k : Nat) => k == core || (k == 0xFF && bitOf (queueGroups q s) (cgOf core))
  let op := cf c 0 63 56
  let before := if c.legacy then s.legacy.cmds else (queueOf q s).cmds
  readyCmd c && !(cb c 53 && before.any (fun x => decide (x.id < c.id))) &&
  (if c.legacy then
    (op == 1 && here (cf c 3 31 24) && engineRoom core 0x10 (if cf c 3 23 0 ≤ 1048576 || cf c 3 23 0 % 1048576 = 0 then 1 else 2) s) ||
    (op == 2 && here (cf c 2 7 0) && engineRoom core (df (BitVec.ofNat 512 (devNat s (cw c 1) 64)) 0 63 56) 1 s) ||
    (op == 3 && cf c 3 7 0 == core)
  else
    (op == 2 && here (if directCore q s = 0xFF then cf c 6 63 56 else directCore q s) && engineRoom core (df (c.ext.getD 0 0) 0 63 56) 1 s) ||
    (op == 7 && cf c 6 63 56 == core))

/-- A queue has a stage eligible under R289 or Run-ahead whose core set names a core (R364). -/
def stageFor (core q : Nat) (s : State) : Bool :=
  s.dispatch.launches.any (fun l => l.queue == q && !l.biv && l.stages.any (fun x => x.phase == .waiting && stageLeft l x s &&
    (stageRecord l x.num s).any (fun r => stageEligible l r s &&
      (versionOf l.graph l.version s).any (fun v => bitOf (v.coreSets.getD (stageCoreSet r) 0).toNat core))))

/-- A queue has ready work for a core: a task, a command that gives it one or a descriptor, or a stage (R364 step 2). -/
def readyFor (core q : Nat) (s : State) : Bool :=
  s.dispatch.tasks.any (fun t => t.core == core && t.task.queue == q) || (nextCmdOf q s).any (fun c => cmdFor core c q s) ||
  (legacyServes q s && s.legacy.cmds.any (fun c => cmdFor core c q s)) || stageFor core q s

/-- The schedule lets a core take work of a queue: the queue owes nothing there, the core takes its work, no other queue with a
reservation in force has ready work for the group, and the queue has the reservation or the least share of those with ready work
for the core (R364). -/
def shareAllows (core q : Nat) (s : State) : Bool :=
  let cg := cgOf core
  let free := fun (x : Nat) => debtOf x cg s == 0
  free q && coreOpen core q s &&
  (match effectiveOn (currentSlot s) cg s with
   | some r => r == q || !(readyWork r cg s && free r)
   | none => true) &&
  (effectiveOn (currentSlot s) cg s == some q || leastLoad (fun x => free x && (x == q || readyFor core x s)) s == some q)

/-- The queue whose waiting task a core takes (R364, R365). -/
def chooseTask (core : Nat) (s : State) : Option Nat :=
  leastLoad (fun q => s.dispatch.tasks.any (fun t => t.core == core && t.task.queue == q) && shareAllows core q s) s

/-- A descriptor of a queue may go to a core: the queue owes nothing there, the core takes its work, no other queue with a
reservation in force has ready work for the group, and the queue has the reservation, the core already, or the least share of
those with work for the core (R364). -/
def scheduleAllows (core q : Nat) (s : State) : Bool :=
  let cg := cgOf core
  let free := fun (x : Nat) => debtOf x cg s == 0
  decide (96 ≤ core) || (free q && coreOpen core q s &&
    (match effectiveOn (currentSlot s) cg s with
     | some r => r == q || !(readyWork r cg s && free r)
     | none => true) &&
    (effectiveOn (currentSlot s) cg s == some q || coreHasWork core q s ||
      leastLoad (fun x => free x && (x == q || readyFor core x s)) s == some q))

/-- A core leaves a queue for another, or for none; work it still has of that queue is outgoing since an instant (R365). A
return is noted whether or not work is left. -/
def changeCore (c : Nat) (reclaim : Bool) (since : Nat) (next : Option Nat) (s : State) : State :=
  let old := alGet s.job.coreQueue c
  if old = next then s
  else
    let s := { s with job := { s.job with coreQueue := match next with
      | some q => alSet s.job.coreQueue c q
      | none => alErase s.job.coreQueue c } }
    match old with
    | some q =>
      if reclaim || coreHasWork c q s then
        { s with job := { s.job with
          outgoing := s.job.outgoing ++ [{ core := c, queue := q, since := since, reclaim := reclaim }] } }
      else s
    | none => s

/-- A group is up: on or clock-gated, or about to be so (R369; Table 13.9). -/
def groupUp (g : GroupPower) (now : Nat) : Bool :=
  decide (g.code ≤ 1) || (g.code == 5 && decide (g.until_ ≤ now)) || (g.code == 6 && decide (g.other ≤ 1))

/-- Groups of the slot's awake set that are not up are late (R369). -/
def noteLate (s : State) : State :=
  (List.range 16).foldl (fun s g =>
    if awakeIn (currentSlot s) g s && !groupUp (s.power.groups.getD g GroupPower.reset) s.now then count Cnt.lateWakes 1 s
    else s) s

/-- What a slot boundary does to a core: it goes to the queue of a reservation in force with ready work, and it leaves a queue
whose reservation has ended, unless that queue's share keeps it; otherwise it stays (R364, R365; log 167). -/
def boundaryCore (c : Nat) (s : State) : State :=
  let cg := cgOf c
  match alGet s.job.coreQueue c with
  | none => s
  | some old =>
    let next := chooseQueue cg s
    if next = some old then s
    else if effectiveOn (currentSlot s) cg s ≠ none ∧ effectiveOn (currentSlot s) cg s = next then
      changeCore c false (slotStart s) next s
    else if endedOn cg s = some old ∧ effectiveOn (currentSlot s) cg s ≠ some old then
      changeCore c false (slotStart s) next s
    else s

/-- SLOT_BOUNDARY, once for each slot. -/
def execSlotBoundary (s : State) : Host.Outcome State Fault Refusal :=
  if ent Ent.schedEnable s = 0 ∨ s.now / 1000 = s.job.boundaryAt then .next s
  else
    let s := { s with job := { s.job with boundaryAt := s.now / 1000 } }
    let s := noteLate (startPayments (payDebts (settleOutgoing s)))
    .next ((List.range 96).foldl (fun s c => boundaryCore c s) s)

/-- Since when the queue of a reservation in force has ready work on each group, as it stands before time passes (R374; log 204). -/
def noteReady (s : State) : State :=
  let due := (List.range 16).filterMap (fun cg =>
    match effectiveOn (currentSlot s) cg s with
    | some q => if readyWork q cg s then some (cg, q) else none
    | none => none)
  { s with job := { s.job with readyFrom := due.map (fun p =>
    (p.1, p.2, ((s.job.readyFrom.find? (fun x => x.1 == p.1 && x.2.1 == p.2)).map (·.2.2)).getD s.now)) } }

/-- Since when a queue has had ready work for a core of a group: noted as time passed, or the dispatch of its oldest task that
waits there; now where it has only just come (R374). -/
def readySince (core q : Nat) (s : State) : Nat :=
  let noted := (s.job.readyFrom.find? (fun x => x.1 == cgOf core && x.2.1 == q)).map (·.2.2)
  let task := (s.dispatch.tasks.find? (fun t => t.core == core && t.task.queue == q)).map (·.task.startedAt)
  Nat.min (noted.getD s.now) (task.getD s.now)

/-- RECLAIM: a lent core returns to the reserving queue that has ready work (R364). -/
def execReclaim (core : Nat) (s : State) : Host.Outcome State Fault Refusal :=
  if core < 96 then
    .next (match effectiveOn (currentSlot s) (cgOf core) s, alGet s.job.coreQueue core with
      | some q, some old =>
        if q != old && readyWork q (cgOf core) s && debtOf q (cgOf core) s == 0 then
          count Cnt.reclaims 1 (changeCore core true (readySince core q s) (some q) s)
        else s
      | _, _ => s)
  else .fault .noSuchUnit

/-- The queue whose task or descriptor a core takes has it; the return that this ends is timed (RECLAIM_NS). -/
def takeCore (core q : Nat) (s : State) : State :=
  let back := s.job.outgoing.filter (fun o => o.core == core && o.reclaim)
  let s := back.foldl (fun s o => count Cnt.reclaimNs (s.now - o.since) s) s
  { s with job := { s.job with
    coreQueue := alSet s.job.coreQueue core q,
    outgoing := s.job.outgoing.filter (fun o => !(o.core == core && o.reclaim)) } }

/-- A pending slot passes the commit's check (R363). -/
def slotOk (e : Nat) : Bool :=
  field e 47 32 &&& field e 31 16 == 0 && field e 49 48 == 0 && field e 15 0 == 0 && field e (64 + 44) 64 == 0 &&
  decide (field e (64 + 47) (64 + 45) ≤ 3)

/-- What a write of 1 to SCHED_COMMIT does (R363, R551). -/
def schedCommitAction (_ : ReqId) (_ : List Byte) (s : State) : State :=
  if s.job.pendingTable.all (fun p => slotOk p.2.toNat) then
    endCmd Ent.schedCommit stOk 0 { s with job := { s.job with schedPending := true, committedTable := s.job.pendingTable, committedIn := s.now / 128000 } }
  else endCmd Ent.schedCommit stDenied erBadValue s

/-- SCHED_COMMIT. -/
def execSchedCommit (req : ReqId) (value : Nat) (s : State) : Host.Outcome State Fault Refusal :=
  .next (cmdVia schedCommitAction req 0x2603 0x02 (leBytes 1 value) s)

/-- SCHEDULE_CYCLE_START: the table that a pending commit of an earlier cycle has checked becomes the active one at slot 0
(R363; log 166). -/
def execScheduleCycleStart (s : State) : Host.Outcome State Fault Refusal :=
  .next (if s.job.schedPending && currentSlot s == 0 && decide (s.job.committedIn < s.now / 128000) then
    count Cnt.schedCommits 1 { s with job := { s.job with
      activeTable := s.job.committedTable, schedPending := false, committedTable := [],
      replaced := (s.now / 1000, BitVec.ofNat 128 (slotEntry s.job.activeTable 127)) } }
  else s)

/-- Time from now to the start of the slot n slots ahead. -/
def slotStartIn (n : Nat) (s : State) : Nat := n * 1000 - s.now % 1000

/-- The first slot ahead, 1 to 128 away, that satisfies a condition. -/
def nextSlot (p : Nat → Bool) (s : State) : Option Nat :=
  (List.range 128).find? (fun n => p ((currentSlot s + n + 1) % 128))

/-- A group woken as far as a depth that a coming slot allows (R369). -/
def wakeToDepth (cg depth : Nat) (s : State) : State :=
  let s := wakeGroup cg s
  { s with power := { s.power with groups := updAt s.power.groups cg (fun g => { g with left := depth + 1 }) } }

/-- The next slot ahead that allows only a shallower depth than a group's has come within its lead: the group wakes to that
depth (R369). -/
def wakeForDepth (cg lead code : Nat) (s : State) : State :=
  match nextSlot (fun sl => decide (field (slotEntry s.job.activeTable sl) 111 109 + 1 < code)) s with
  | some n =>
    if slotStartIn (n + 1) s ≤ lead then
      count Cnt.predictiveWakes 1
        (wakeToDepth cg (field (slotEntry s.job.activeTable ((currentSlot s + n + 1) % 128)) 111 109) s)
    else s
  | none => s

/-- PREDICTIVE_WAKE of a group (R369): for a slot that names it, or to a shallower depth a slot allows. One that is still entering
a state wakes after its entry. -/
def execPredictiveWake (cg : Nat) (s : State) : Host.Outcome State Fault Refusal :=
  if 16 ≤ cg then .fault .noSuchUnit
  else
    let s := settleGroups s
    let g := s.power.groups.getD cg GroupPower.reset
    let entry := if g.code = 6 then g.until_ - s.now else 0
    let lead := entry + wakeNs (if g.code = 6 then g.other else g.code) (residentMib cg s) + ent Ent.wakeMarginNs s
    if ent Ent.schedEnable s = 0 ∨ mayWake cg s = false ∨ (g.code = 6 ∧ g.wakeAfter = true) then .next s
    else
      if (nextSlot (fun sl => awakeIn sl cg s) s).any (fun n => decide (slotStartIn (n + 1) s ≤ lead)) then
        .next (count Cnt.predictiveWakes 1 (wakeGroup cg s))
      else .next (if g.code = 6 then s else wakeForDepth cg lead g.code s)

/-- The depth a group may take, if any (R370, R511). -/
def allowedDepth (cg : Nat) (s : State) : Option Nat :=
  let chain := (groupCores cg).any (fun c => !(matOf c s).chains.isEmpty)
  let fits := fun (d : Nat) => ent Ent.schedEnable s == 0 ||
    (match nextSlot (fun sl => awakeIn sl cg s) s with
     | some n => decide (wakeNs (d + 1) (residentMib cg s) + ent Ent.wakeMarginNs s ≤ slotStartIn (n + 1) s)
     | none => true)
  let maxD := depthInForce s
  let d3 := if maxD = 3 ∧ launchOnGroup cg s then 2 else maxD
  [3, 2, 1, 0].find? (fun d => decide (d ≤ (if chain then 0 else d3)) && fits d)

/-- Since when each group is idle, as it stands before time passes (R370; log 64). -/
def noteIdle (s : State) : State :=
  { s with power := { s.power with groups := s.power.groups.zipIdx.map (fun p =>
    { p.1 with idleSince := if groupIdle p.2 s then some (p.1.idleSince.getD s.now) else none }) } }

/-- A group takes the depth it may have, if any. -/
def stepDownTo (cg : Nat) (s : State) : State :=
  match allowedDepth cg s with
  | some d => stageStepDown (cg / 8) (stepDownGroup cg d s)
  | none => s

/-- IDLE_STEP_DOWN: a group outside the slot's awake set and idle for IDLE_HOLD_NS steps down (R370, R511, R512). -/
def execIdleStepDown (cg : Nat) (s : State) : Host.Outcome State Fault Refusal :=
  if 16 ≤ cg then .fault .noSuchUnit
  else
    let s := settleGroups s
    let g := s.power.groups.getD cg GroupPower.reset
    if groupIdle cg s = false ∨ (ent Ent.schedEnable s = 1 ∧ awakeIn (currentSlot s) cg s = true) then .next s
    else match g.idleSince with
      | none => .next s
      | some t =>
        if t + ent Ent.idleHoldNs s ≤ s.now ∧ !(groupCores cg).any (fun c => !(matOf c s).chains.isEmpty) then
          .next (stepDownTo cg s)
        else .next s

end Sys2Proof.Machine
end

