-- ==== Sys2Proof/Machine/Measure.lean ====
section
/-! DEFINITION. The root of trust's shared operations (18): measurement slots and their log, the identity key's signature,
certificate chains and quotes. -/

namespace Sys2Proof.Machine

open Sys2Proof

/-- The bytes of an ASCII string. -/
def ascii (t : String) : List Byte := t.toList.map (fun c => BitVec.ofNat 8 c.toNat)

/-- A 256-bit value as 32 bytes, first byte least significant (R15). -/
def digestBytes (d : BitVec 256) : List Byte := leBytes 32 d.toNat

/-- MS[i] extended with a 32-byte digest (R485). -/
def extendSlot (i : Nat) (d : BitVec 256) (s : State) : State :=
  { s with security := { s.security with
    ms := updAt s.security.ms i (fun m => shake256 (digestBytes m ++ digestBytes d)) } }

/-- One of MS[6..15] extended, with its log entry; a full log sets LOG_OVERFLOW (R486). The event type is the row of
Table 18.3, counted from 0 (log 17). -/
def measure (i event : Nat) (d : BitVec 256) (s : State) : State :=
  let s := extendSlot i d s
  if s.security.log.length < 4096 then
    { s with security := { s.security with
      log := s.security.log ++ [{ slot := i, event := event, time := s.now, digest := d }] } }
  else { s with security := { s.security with logOverflow := true } }

/-- An event of bytes measured by its digest. -/
def measureBytes (i event : Nat) (bs : List Byte) (s : State) : State := measure i event (shake256 bs) s

/-- MS[6..15] set to 0 (R485). -/
def clearJobSlots (s : State) : State :=
  { s with security := { s.security with
    ms := s.security.ms.take 6 ++ List.replicate 10 0 } }

/-- A log entry's 64 bytes (R486). -/
def logBytes (e : LogEntry) : List Byte :=
  leBytes 1 e.slot ++ leBytes 1 e.event ++ List.replicate 6 0 ++ leBytes 8 e.time ++ List.replicate 16 0 ++
  digestBytes e.digest

/-! Identity (R490, R491). -/

/-- The seed ξ of the identity key (R490). -/
def identityXi (s : State) : List Byte :=
  shake 32 (ascii "ST960-DEVID" ++ leBytes 32 s.security.identitySeed.toNat)

/-- The identity key's signature, 3,309 bytes, under a context string. -/
def identitySign (ctx : List Byte) (msg : List Byte) (s : State) : List Byte :=
  (List.range 3309).map (Config.dsaSignByte (identityXi s) ctx msg)

/-- The public key of the identity key (R490). -/
def identityPub (s : State) : List Byte := (List.range 1952).map (Config.dsaPublicByte (identityXi s))

/-- The published root public key. -/
def rootKey : List Byte := (List.range 1952).map Config.rootKeyByte

/-- The first word of a certificate of a kind: MAGIC, FORMAT, KIND (Table 18.5). -/
def certWord (kind : Nat) : Nat := 0x44435254 * 2 ^ 32 + 0x0001 * 2 ^ 16 + kind * 2 ^ 8

/-- DEVID_CHAIN, kept in the nonvolatile store: the identity certificate, whose subject is SERIAL_NUMBER and whose key is the
identity key's, and the product CA's, issued by the root. What Table 18.5 leaves to the issuers (the CA's number and key, the
intervals, the signatures) is open (R491). -/
def chainBytes (s : State) : List Byte :=
  let issued := (List.range 10650).map Config.chainByte
  let ca := leBytes 8 (certWord 2) ++ slice issued 5333 24 ++ shake 32 rootKey ++ slice issued 5389 5261
  leBytes 8 (certWord 3) ++ leBytes 8 s.security.serial.toNat ++ slice issued 16 16 ++ shake 32 (slice ca 64 1952) ++
    identityPub s ++ slice issued 2016 3309 ++ ca

/-- The leaf public key of a chain. -/
def leafKey (chain : List Byte) : List Byte := slice chain 64 1952

/-- A certificate of a kind, issued by a key (R491). -/
def certOk (cert issuer : List Byte) (kind : Nat) : Bool :=
  leAt cert 0 8 == certWord kind &&
  slice cert 32 32 == shake 32 issuer &&
  Config.dsaVerify issuer (ascii "ST960-CERT") (slice cert 0 2016) (slice cert 2016 3309)

/-- A chain of a device certificate and a product CA certificate verifies up to the published root. The module holds no
calendar time, so the validity interval is not checked (log 18). -/
def chainOk (chain : List Byte) : Bool :=
  let device := slice chain 0 5325
  let ca := slice chain 5325 5325
  chain.length == 10650 && certOk device (slice ca 64 1952) 3 && certOk ca rootKey 2

/-! Quotes (R492, R493). -/

/-- The running root-of-trust image's version. -/
def rotVersion (s : State) : Nat :=
  match s.recovery.runImages.getD 0 none with
  | some i => i.version.toNat
  | none => 0

/-- The hub management core or the Postilion is wedged, so AON alone serves. -/
def fromAon (s : State) : Bool := !s.recovery.hubRunning || s.recovery.postilionWedged

/-- The quote header (Table 18.6). -/
def quoteHeader (s : State) : List Byte :=
  let b := fun (c : Bool) (n : Nat) => if c then 2 ^ n else 0
  leBytes 8 (0x44515554 * 2 ^ 32 + 2 ^ 16 + s.job.state * 2 ^ 8 + b (sealedJob s) 7 + b s.security.logOverflow 6 +
    b s.security.debugLock 5 + b (fromAon s) 4) ++
  leBytes 8 s.security.serial.toNat ++ leBytes 8 s.now ++
  leBytes 8 (s.recovery.boots % 2 ^ 32 * 2 ^ 32 + s.security.log.length) ++ leBytes 8 s.job.tag.toNat ++
  leBytes 8 (rotVersion s * 2 ^ 32) ++
  leBytes 8 (s.security.sealPolicy.toNat * 2 ^ 48 + s.security.portRoles.toNat * 2 ^ 16) ++
  leBytes 8 (ofLe (s.security.rollback.map (fun n => BitVec.ofNat 8 n)))

/-- A quote over the slots as they stand (R492). -/
def makeQuote (nonce : List Byte) (s : State) : List Byte :=
  let body := quoteHeader s ++ padTo 32 nonce ++ digestBytes s.security.ownerDigest ++
    (s.security.ms.map digestBytes).foldr (· ++ ·) []
  body ++ identitySign (ascii "ST960-QUOTE") body s

/-- A quote verifies under a leaf key, answers a nonce, and shows a sealed job bound to an owner digest (R500). -/
def quoteOk (quote key nonce : List Byte) (owner : BitVec 256) : Bool :=
  quote.length == 3949 &&
  Config.dsaVerify key (ascii "ST960-QUOTE") (slice quote 0 640) (slice quote 640 3309) &&
  leAt quote 4 4 == 0x44515554 && bitOf (leAt quote 0 8) 7 && slice quote 64 32 == nonce &&
  slice quote 96 32 == digestBytes owner

/-- What a write of QUOTE_NONCE does: the root of trust serves the quote over the slots as they stand (R493). -/
def quoteNonceAction (_ : ReqId) (bytes : List Byte) (s : State) : State :=
  endCmd Ent.quoteNonce stOk 0 (count Cnt.quotes 1
    { s with security := { s.security with quote := makeQuote bytes s } })

/-- QUOTE_NONCE. -/
def execQuoteNonce (req : ReqId) (value : List Byte) (s : State) : Host.Outcome State Fault Refusal :=
  .next (cmdVia quoteNonceAction req 0x2B00 0x0A value s)

/-- What a write of MEASURE_EXTEND does (R485, R486). -/
def measureExtendAction (_ : ReqId) (bytes : List Byte) (s : State) : State :=
  endCmd Ent.measureExtend stOk 0
    (measure (leAt bytes 0 1) 12 (BitVec.ofNat 256 (leAt bytes 1 32)) s)

/-- MEASURE_EXTEND. -/
def execMeasureExtend (req : ReqId) (value : List Byte) (s : State) : Host.Outcome State Fault Refusal :=
  .next (cmdVia measureExtendAction req 0x2B00 0x0F value s)

/-- The image type whose counter a commit raises next: the first that stands below the SVN of its running image (R489). -/
def lowCounter (s : State) : Option Nat :=
  (List.range s.security.rollback.length).find? (fun t =>
    (s.recovery.runImages.getD t none).any (fun i => decide (s.security.rollback.getD t 0 < i.svn)))

/-- The commit goes on with its next fuse, 20 µs later, or ends. -/
def commitOn (at_ : Nat) (s : State) : State :=
  if (lowCounter s).isSome then { s with security := { s.security with committing := some (at_ + 20000) } }
  else endCmd Ent.rollbackCommit stOk 0 { s with security := { s.security with committing := none } }

/-- One fuse of a commit in progress, once it is due. -/
def blowFuse (s : State) : State :=
  match s.security.committing, lowCounter s with
  | some t, some k =>
    if s.now < t then s
    else commitOn t { s with security := { s.security with rollback := updAt s.security.rollback k (· + 1) } }
  | some t, none => commitOn t s
  | none, _ => s

/-- What a write of ROLLBACK_COMMIT does: a commit begins that raises each counter to the SVN of the running image of its type, one
fuse at a time (R489). -/
def rollbackCommitAction (_ : ReqId) (_ : List Byte) (s : State) : State := commitOn s.now s

/-- ROLLBACK_COMMIT. -/
def execRollbackCommit (req : ReqId) (value : Nat) (s : State) : Host.Outcome State Fault Refusal :=
  .next (cmdVia rollbackCommitAction req 0x2B00 0x06 (leBytes 1 value) s)

end Sys2Proof.Machine
end

