-- ==== Sys2Proof/Machine/FabricOps.lean ====
section
/-! DEFINITION. The Mboes transport (17): peers, sessions, paths, packets, posting an operation and sending what waits. -/

namespace Sys2Proof.Machine

open Sys2Proof

/-! Peers and sessions (R456, R457). -/

/-- The module's own number; 0xFFFF is none. -/
def myModule (s : State) : Nat := ent Ent.fabModuleNumber s

/-- A peer's record, where it is valid (Table 17.2). -/
def peerRec (m : Nat) (s : State) : Option (BitVec 512) := alGet s.fabric.peers m

/-- A session before anything has passed on it. -/
def FabSession.fresh (peer : Nat) : FabSession :=
  { peer := peer, state := 0, gen := 0, initiator := false, txKeys := [], rxKeys := [], rxOld := [], txEpoch := 0,
    rxEpoch := 0, rxOldUntil := 0, epochSince := 0, epochPsn := 0, psn := 0, ackPsn := 0, received := [], tsEcho := 0,
    srtt := 0, rttvar := 0, hasRtt := false, cwnd := 0, alpha := 0, acked := 0, eceAcked := 0, cwndAt := 0, sent := [],
    ops := [], waiting := [], nextSeq := 1, settled := 1, settledSet := [], rxOps := [], kept := [], inbox := [],
    ce := false, owed := 0, owedSince := 0, ackNow := false, lastRx := 0, lastTx := 0, nextPath := 0, paths := [],
    handshake := none, failedAt := 0, tried := false }

/-- The session record of a peer. -/
def sessOf (peer : Nat) (s : State) : FabSession :=
  (s.fabric.sessions.find? (fun x => x.peer == peer)).getD (FabSession.fresh peer)

/-- A session record replaced. -/
def putSess (x : FabSession) (s : State) : State :=
  { s with fabric := { s.fabric with
    sessions :=
      if s.fabric.sessions.any (fun y => y.peer == x.peer) then
        updFirst (fun y => y.peer == x.peer) (fun _ => x) s.fabric.sessions
      else s.fabric.sessions ++ [x] } }

/-- A session changed. -/
def updSess (peer : Nat) (f : FabSession → FabSession) (s : State) : State := putSess (f (sessOf peer s)) s

/-- The session of a peer is up. -/
def sessUp (peer : Nat) (s : State) : Bool := (sessOf peer s).state == 2

/-- A peer is a member, as R97 and R130 require. -/
def isMember (peer : Nat) (s : State) : Bool := (peerRec peer s).isSome && sessUp peer s

/-! Paths (R465). -/

/-- Interfaces that may carry a pair's packets. -/
def peerIfaces (peer : Nat) (s : State) : List Nat :=
  match peerRec peer s with
  | none => []
  | some r =>
    let mask := df r 0 49 46
    s.fabric.ifUp.filter (fun i => mask == 0 || bitOf mask (i / 4))

/-- A path's source port: in 0xC000 to 0xFFFF, distinct per path; which one is left open (log 5). -/
def pathPort (draw path : Nat) : Nat := 0xC000 + 4 * (Config.freeRank draw path % 0x1000) + path

/-- The four paths spread over the interfaces that are up. -/
def makePaths (peer : Nat) (s : State) : List FabPath :=
  let ifs := peerIfaces peer s
  if ifs.isEmpty then []
  else (List.range 4).map (fun k =>
    { iface := ifs.getD (k % ifs.length) 0, port := pathPort s.free k, timeouts := 0 })

/-- The next path in turn whose interface is up: its number. -/
def nextPathOf (x : FabSession) (s : State) : Option Nat :=
  ((List.range 4).map (fun k => (x.nextPath + k) % 4)).find? (fun k =>
    match x.paths[k]? with
    | some p => s.fabric.ifUp.contains p.iface
    | none => false)

/-! Packets (R460, R461). -/

/-- An operation record: O0, O1 and the body padded to 8 bytes. -/
def opRecord (opcode subop seq : Nat) (o1 : BitVec 64) (body : List Byte) : List Byte :=
  leBytes 8 (opcode % 2 ^ 8 * 2 ^ 56 + subop % 2 ^ 8 * 2 ^ 48 + body.length % 2 ^ 16 * 2 ^ 32 + seq % 2 ^ 32) ++
  leBytes 8 o1.toNat ++ padTo (alignUp body.length 8) body

/-- The 40-byte header (Table 17.4). -/
def packetHeader (typ cls : Nat) (x : FabSession) (path frag epoch psn len ops gen : Nat) (s : State) : List Byte :=
  let sack := (x.received.filter (fun p => x.ackPsn < p && p < x.ackPsn + 33)).foldl
    (fun acc p => acc + 2 ^ (p - x.ackPsn - 1)) 0
  beBytes 8 (0x4D42 * 2 ^ 48 + 2 ^ 44 + typ * 2 ^ 40 + cls * 2 ^ 38 + (if x.ce then 2 ^ 36 else 0) +
    myModule s % 2 ^ 12 * 2 ^ 24 + x.peer * 2 ^ 12 + path * 2 ^ 8 + frag) ++
  beBytes 8 (epoch % 2 ^ 32 * 2 ^ 32 + psn % 2 ^ 32) ++
  beBytes 8 (x.ackPsn % 2 ^ 32 * 2 ^ 32 + sack) ++
  beBytes 8 (len * 2 ^ 48 + ops * 2 ^ 40 + gen * 2 ^ 32) ++
  beBytes 8 (s.now % 2 ^ 32 * 2 ^ 32 + x.tsEcho)

/-- The key and salt of one direction of the 72 bytes (R459). -/
def dirKey (keys : List Byte) (fromInitiator : Bool) : List Byte × List Byte :=
  if fromInitiator then (slice keys 0 32, slice keys 64 4) else (slice keys 32 32, slice keys 68 4)

/-- The nonce: salt, KEY_EPOCH and PSN (R460). -/
def fabNonce (salt : List Byte) (epoch psn : Nat) : List Byte :=
  salt ++ beBytes 4 (epoch % 2 ^ 32) ++ beBytes 4 (psn % 2 ^ 32)

/-- DSCP of a class (R455). -/
def fabDscp (cls : Nat) (s : State) : Nat :=
  if cls = 1 then ent Ent.fabDscpBarrier s else if cls = 2 then ent Ent.fabDscpBulk s else ent Ent.fabDscpInference s

/-- A peer's address and UDP port (Table 17.2). -/
def peerEndpoint (peer : Nat) (s : State) : Endpoint :=
  let r := (peerRec peer s).getD 0
  let a := ofBe (leBytes 8 (dword r 1) ++ leBytes 8 (dword r 2))
  { v6 := !db r 0 50, addr := if db r 0 50 then a % 2 ^ 32 else a, port := df r 0 31 16 }

/-- A datagram leaves on an interface for a peer's address and UDP port, marked ECT(0) (R455, R460). -/
def emit (iface peer cls srcPort : Nat) (bytes : List Byte) (s : State) : State :=
  let dst := peerEndpoint peer s
  sendLink iface dst (.fabric
    { iface := iface, peer := peer, cls := cls, dscp := fabDscp cls s, ecn := 2,
      src := { v6 := dst.v6, addr := ifaceAddr iface dst.v6 s, port := srcPort }, dst := dst,
      link := { mac := 0, vlan := 0 }, bytes := bytes, at_ := s.now }) s

/-- A DATA, ACK or CLOSE packet sent on the next path in turn; it carries the acknowledgements of R463. Nothing is sent
while no path's interface is up. -/
def sendPacket (peer typ cls : Nat) (records : List (List Byte)) (ops resps : List Nat) (s : State) : State :=
  let x := sessOf peer s
  match nextPathOf x s with
  | none => s
  | some k =>
    let s := if typ = 5 then s else count Cnt.packetsSent 1 s
    let p := x.paths.getD k { iface := 0, port := 0, timeouts := 0 }
    let body := records.foldr (· ++ ·) []
    let hdr := packetHeader typ cls x k 0 x.txEpoch x.psn body.length records.length x.gen s
    let ks := dirKey x.txKeys x.initiator
    let bytes := hdr ++ gcmSeal ks.1 (fabNonce ks.2 x.txEpoch x.psn) hdr body
    let x' := { x with
      psn := x.psn + 1, nextPath := (k + 1) % 4, lastTx := s.now, ce := false, owed := 0, ackNow := false,
      sent := if records.isEmpty then x.sent
        else x.sent ++ [{ psn := x.psn, path := k, ops := ops, responses := resps, bytes := bytes.length, at_ := s.now, cls := cls }],
      kept := updFirst (fun r => r.psn.isNone && resps.contains r.seq) (fun r => { r with psn := some x.psn }) x.kept,
      ops := x.ops.map (fun o => if ops.contains o.seq then
        { o with queued := false, firstSent := match o.firstSent with
          | some t => some t
          | none => some s.now } else o) }
    emit p.iface peer (if typ = 1 then cls else 1) p.port bytes (putSess x' s)

/-- Unacknowledged bytes that CWND limits (R464). -/
def inflightBytes (x : FabSession) : Nat :=
  ((x.sent.filter (fun p => p.cls != 1)).map (·.bytes)).foldl (· + ·) 0

/-- CWND lets a packet of some bytes go. -/
def cwndAllows (x : FabSession) (cls n : Nat) : Bool := cls == 1 || decide (inflightBytes x + n ≤ x.cwnd)

/-- Requests that wait get sequence numbers while fewer than 4,096 are in flight (R464, R469). -/
def takeSeqs : Nat → FabSession → FabSession
  | 0, x => x
  | fuel + 1, x =>
    match x.waiting with
    | [] => x
    | o :: rest =>
      if 4096 ≤ x.ops.length then x
      else takeSeqs fuel { x with
        waiting := rest, ops := x.ops ++ [{ o with seq := x.nextSeq, queued := true }], nextSeq := x.nextSeq + 1 }

/-- The record of a request. -/
def reqRecord (o : FabOp) : List Byte := opRecord o.opcode o.subop o.seq o.o1 o.body

/-- The response that is sent next: the barrier class goes first (R455). -/
def nextResponse (x : FabSession) : Option KeptResponse :=
  (x.kept.find? (fun r => r.psn.isNone && r.cls == 1)).or (x.kept.find? (fun r => r.psn.isNone))

/-- The request that is sent next. -/
def nextRequest (x : FabSession) : Option FabOp :=
  (x.ops.find? (fun o => o.queued && o.cls == 1)).or (x.ops.find? (·.queued))

/-- Packets of the barrier class, then responses, then requests, sent in order while CWND and the paths allow; the window does
not hold the barrier class, and a move of the operating point holds all (R455, R464, R507). `barrier` sends the barrier class
alone. -/
def pumpLoop (barrier : Bool) : Nat → Nat → State → State
  | 0, _, s => s
  | fuel + 1, peer, s =>
    let x := sessOf peer s
    if x.state ≠ 2 ∨ (nextPathOf x s).isNone ∨ moving s = true then s
    else
      let resp := nextResponse x
      let req := nextRequest x
      let reqFirst := req.any (fun o => o.cls == 1) && !resp.any (fun r => r.cls == 1)
      match (if reqFirst then none else resp), req with
      | some r, _ =>
        if barrier && r.cls != 1 then s
        else if cwndAllows x r.cls (56 + r.record.length) then pumpLoop barrier fuel peer (sendPacket peer 1 r.cls [r.record] [] [r.seq] s)
        else s
      | none, some o =>
        if barrier && o.cls != 1 then s
        else if cwndAllows x o.cls (56 + (reqRecord o).length) then
          pumpLoop barrier fuel peer (sendPacket peer 1 o.cls [reqRecord o] [o.seq] [] s)
        else s
      | none, none => s

/-- A session sends what waits on it, or the barrier class of it. -/
def pumpOf (barrier : Bool) (peer : Nat) (s : State) : State :=
  if sessUp peer s then
    let s := updSess peer (fun x => takeSeqs x.waiting.length x) s
    let x := sessOf peer s
    pumpLoop barrier (x.kept.length + x.ops.length) peer s
  else s

/-- A session sends what waits on it. -/
def pump (peer : Nat) (s : State) : State := pumpOf false peer s

/-- Every session sends what waits on it, the barrier class of all of them first (R455). -/
def pumpAll (s : State) : State :=
  let s := s.fabric.sessions.foldl (fun s x => pumpOf true x.peer s) s
  s.fabric.sessions.foldl (fun s x => pump x.peer s) s

/-- A request given to the fabric engine (R466, R469); it waits for the session where that is not up. -/
def fabPost (peer opcode subop : Nat) (o1 : BitVec 64) (body : List Byte) (cls : Nat) (unit : FabUnit) (s : State) : State :=
  pump peer (updSess peer (fun x =>
    { x with waiting := x.waiting ++
      [{ seq := 0, opcode := opcode, subop := subop, o1 := o1, body := body, cls := cls, unit := unit, issuedAt := s.now,
         firstSent := none, queued := true }] }) s)

/-- A response given to the session, kept until its packet is acknowledged (R462). -/
def fabRespond (peer seq opcode subop : Nat) (o1 : BitVec 64) (body : List Byte) (cls : Nat) (s : State) : State :=
  pump peer (updSess peer (fun x =>
    { x with kept := x.kept.filter (fun r => r.seq != seq) ++
      [{ seq := seq, record := opRecord opcode subop seq o1 body, cls := cls, psn := none }] }) s)

/-- One of several responses to a request: a LOOKUP_DATA record of a bag (R470). -/
def fabRespondMore (peer seq opcode subop : Nat) (o1 : BitVec 64) (body : List Byte) (cls : Nat) (s : State) : State :=
  pump peer (updSess peer (fun x =>
    { x with kept := x.kept ++ [{ seq := seq, record := opRecord opcode subop seq o1 body, cls := cls, psn := none }] }) s)

/-- SETTLED moved up over the requests already settled behind it. -/
def advanceSettled : Nat → FabSession → FabSession
  | 0, x => x
  | fuel + 1, x =>
    if x.settledSet.contains x.settled then
      advanceSettled fuel { x with settled := x.settled + 1, settledSet := x.settledSet.filter (· != x.settled) }
    else x

/-- A request of a peer is settled (R462, R469). -/
def settleSeq (peer seq : Nat) (s : State) : State :=
  updSess peer (fun x =>
    let x := { x with
      rxOps := x.rxOps.filter (fun o => o.seq != seq),
      settledSet := if seq < x.settled || x.settledSet.contains seq then x.settledSet else seq :: x.settledSet }
    advanceSettled x.settledSet.length x) s

/-- The operation codes of writes whose order R469 keeps. -/
def isFabWrite (opcode : Nat) : Bool :=
  opcode == 2 || opcode == 3 || opcode == 4 || opcode == 6 || opcode == 7 || opcode == 8

/-! Fabric descriptors (R471, R472). -/

/-- The old values and the status record lie in the context's partition of core SRAM (R359). -/
def fabPlacesOk (core : Nat) (d : Desc) (org : Origin) (s : State) : Bool :=
  inPart (sramPart core org s) (df d 7 63 32) 32 &&
  (df d 0 63 56 != 0x60 || inPart (sramPart core org s) (df d 6 63 32) (8 * (df d 0 52 51 + 1)))

/-- The descriptor's decode check (R471, Table 17.7). -/
def fabDescOk (d : Desc) : Bool :=
  df d 0 46 16 == 0 && df d 6 15 0 == 0 && df d 7 31 0 == 0 && df d 7 63 32 % 32 == 0 &&
  (if df d 0 63 56 == 0x60 then
    df d 0 55 53 ≤ 4 && df d 0 50 47 == 0 && !(df d 0 55 53 == 2 && df d 0 52 51 != 0) && dword d 1 % 8 == 0 &&
    decide (dword d 1 % 4096 + 8 * (df d 0 52 51 + 1) ≤ 4096)
  else if df d 0 63 56 == 0x61 then
    df d 0 55 53 ≤ 2 && df d 0 52 51 == 0 &&
    (df d 0 55 53 != 1 || (1 ≤ df d 3 31 0 && df d 3 31 0 ≤ 4096))
  else false)

/-- The status record of a fabric descriptor: W1 to W3, then W0 (R471). -/
def fabStatus (f : FabDesc) (status reason w2 : Nat) (s : State) : State :=
  let a := df f.desc 7 63 32
  let s := sramWrite f.core (a + 8)
    (leBytes 8 (reason * 2 ^ 56) ++ leBytes 8 w2 ++ leBytes 8 ((s.now - f.issuedAt) % 2 ^ 32 * 2 ^ 32)) s
  sramWrite f.core a (leBytes 8 (2 ^ 63 + status * 2 ^ 48 + df f.desc 0 15 0 * 2 ^ 32)) s

/-- A fabric descriptor completes. -/
def endFabDesc (id status reason w2 : Nat) (s : State) : State :=
  match s.fabric.descs.find? (fun f => f.id == id) with
  | none => s
  | some f =>
    fabStatus f status reason w2
      { s with fabric := { s.fabric with descs := s.fabric.descs.filter (fun g => g.id != id) } }

/-- The new value of a word under an ATOMIC's SUBOP (Table 17.5). -/
def fabAtomicNew (subop old a b : Nat) : Nat :=
  if subop = 0 then (old + a) % 2 ^ 64
  else if subop = 1 then a
  else if subop = 2 then (if old = b then a else old)
  else if subop = 3 then Nat.max old a
  else Nat.min old a

/-- A free service slot (R467 step 3). -/
def freeSlot (s : State) : Option Nat := (List.range 64).find? (fun k => s.fabric.slots.all (fun x => x.1 != k))

/-- An operation finds a service slot that is not faulted (R467 step 3). -/
def slotOpen (peer seq : Nat) (s : State) : Bool :=
  s.fabric.slots.any (fun x => x.2.1 == peer && x.2.2.1 == seq) || (freeSlot s).isSome

/-- A service slot stalls on a page for an operation; with all 64 faulted it waits. An address with [63:52] ≠ 0 and a lost page of
the module range stall nothing: they are job faults (R401, R422). `context` is that of the work, 0xFF for an operation served for
another module (Table 15.7). -/
def slotStall (peer seq context tag opcode : Nat) (acc : Access) (m : MemCheck) (s : State) : State :=
  if s.fabric.slots.any (fun x => x.2.1 == peer && x.2.2.1 == seq) then s
  else
    let waits := match m with
      | .absent p => if pageLost p s then none else some p
      | .hostHeld b => some (b / 4096)
      | _ => none
    match waits, freeSlot s with
    | none, _ => stallOn 482 context 0 10 noInst tag opcode acc m s
    | some p, some k =>
      stallOn (482 + k) context 0 10 noInst tag opcode acc m
        { s with fabric := { s.fabric with slots := s.fabric.slots ++ [(k, peer, seq, p)] } }
    | some _, none => s

/-- The stall of an operation served for another module. -/
def serveStall (peer seq : Nat) (acc : Access) (m : MemCheck) (s : State) : State := slotStall peer seq 0xFF 0 0 acc m s

/-- The slot that an operation held is free again. -/
def slotFree (peer seq : Nat) (s : State) : State :=
  { s with fabric := { s.fabric with slots := s.fabric.slots.filter (fun x => !(x.2.1 == peer && x.2.2.1 == seq)) } }

/-- A number that stands for a fabric descriptor among the service slots' operations: it lies above every OP_SEQ. -/
def descSlotKey (id : Nat) : Nat := 2 ^ 32 + id

/-- The stall of a fabric descriptor on the module's own memory. -/
def descStall (f : FabDesc) (acc : Access) (m : MemCheck) (s : State) : State :=
  slotStall (myModule s) (descSlotKey f.id) f.org.context (df f.desc 0 15 0) (df f.desc 0 63 56) acc m s

/-- A fabric atomic on the module's own memory (R466), through the hub TLB (R407). -/
def localAtomic (f : FabDesc) (s : State) : State :=
  let va := dword f.desc 1 % 2 ^ 52
  let n := df f.desc 0 52 51 + 1
  match memCheck va (8 * n) .atomic s with
  | .ok =>
    let s := hubAccess va (8 * n) (slotFree (myModule s) (descSlotKey f.id) s)
    let s := (List.range n).foldl (fun s k =>
      let old := devNat s (va + 8 * k) 8
      let new := fabAtomicNew (df f.desc 0 55 53) old (dword f.desc (2 + k)) (dword f.desc 3)
      sramWrite f.core (df f.desc 6 63 32 + 8 * k) (leBytes 8 old) (devWrite (va + 8 * k) (leBytes 8 new) s)) s
    endFabDesc f.id stOk 0 0 s
  | m => descStall f .atomic m s

/-- An issued ATOMIC goes to its target (R466, R467). -/
def startAtomic (f : FabDesc) (s : State) : State :=
  let m := dword f.desc 1 / 2 ^ 52
  let va := dword f.desc 1 % 2 ^ 52
  let n := df f.desc 0 52 51 + 1
  let sub := df f.desc 0 55 53
  if m = myModule s then localAtomic f s
  else if (peerRec m s).isNone then endFabDesc f.id stDenied 1 0 s
  else (List.range n).foldl (fun s k =>
    fabPost m 3 (sub + (if k + 1 < n then 128 else 0)) (BitVec.ofNat 64 (va + 8 * k))
      (leBytes 8 (dword f.desc (2 + k)) ++ (if sub = 2 then leBytes 8 (dword f.desc 3) else [])) 0 (.atomic f.id) s) s

/-! Global groups (R472). -/

/-- GGROUP_MEMBERS of a group, as a number with bit m for module m. -/
def groupMembers (g : Nat) (s : State) : Nat := ent (Ent.ggGgroupMembers + 256 * g) s

/-- Members in ascending module number. -/
def memberList (g : Nat) (s : State) : List Nat := setBits 4096 (groupMembers g s)

/-- The rank of a module in a group. -/
def rankOf (g m : Nat) (s : State) : Nat := ((memberList g s).filter (fun x => decide (x < m))).length

/-- The rank to which a rank passes its arrivals: itself rounded down to a multiple of 32^k for the least k that changes
it; rank 0 is the root. -/
def parentRank (r : Nat) : Nat :=
  if r % 32 ≠ 0 then r - r % 32 else if r % 1024 ≠ 0 then r - r % 1024 else r - r % 32768

/-- Modules whose arrivals a module collects. -/
def childModules (g m : Nat) (s : State) : List Nat :=
  let ms := memberList g s
  let r := rankOf g m s
  (List.range ms.length).filterMap (fun c => if c ≠ r ∧ parentRank c = r then ms[c]? else none)

/-- SUBOP by which an arrival or a release reports operations that differ (log 19). -/
abbrev globalMismatch : Nat := 0xFF

/-- A GLOBAL record sent to a module, in barrier class. -/
def sendGlobal (dst g gseq subop : Nat) (data : List Byte) (s : State) : State :=
  fabPost dst 9 subop (BitVec.ofNat 64 (g * 2 ^ 60 + gseq)) data 1 .global s

/-- A fabric write issued before an instant is unanswered (R472, SNAPSHOT). -/
def writesPending (before : Nat) (s : State) : Bool :=
  s.fabric.sessions.any (fun x => (x.ops ++ x.waiting).any (fun o => isFabWrite o.opcode && decide (o.issuedAt ≤ before)))

/-- The bytes a BROADCAST delivers are written at the member's destination, through the hub TLB (R407). -/
def globalLand (f : FabDesc) (data : List Byte) (s : State) : State :=
  devWrite (dword f.desc 2) data (hubAccess (dword f.desc 2) data.length s)

/-- A member's global operation completes: a SNAPSHOT is recorded (R472). -/
def completeGlobal (f : FabDesc) (status reason bytes : Nat) (s : State) : State :=
  let sub := df f.desc 0 55 53
  let s := count Cnt.globalOps 1 s
  if status = stOk ∧ sub = 2 then
    let number := s.fabric.lastSnapshot.1 + 1
    let s := { s with fabric := { s.fabric with lastSnapshot := (number, s.updates.epoch, s.now) } }
    endFabDesc f.id stOk 0 number (wbSubmit 0xB002 (df f.desc 0 50 47) [number, s.updates.epoch, s.now] s)
  else endFabDesc f.id status reason (if sub = 1 then bytes else 0) s

/-- The member's own descriptor of a group and GSEQ. -/
def globalDesc (g gseq : Nat) (s : State) : Option FabDesc :=
  s.fabric.descs.find? (fun f => !f.held && df f.desc 0 63 56 == 0x61 && df f.desc 0 50 47 == g && f.gseq == gseq)

/-- A release passes down and completes the member's operation. -/
def releaseGlobal (g gseq subop : Nat) (data : List Byte) (s : State) : State :=
  let s := (childModules g (myModule s) s).foldl (fun s m => sendGlobal m g gseq subop data s) s
  let s := { s with fabric := { s.fabric with groups := updAt s.fabric.groups g (fun x =>
    { x with arrivals := x.arrivals.filter (fun a => a.2.1 != gseq) }) } }
  match globalDesc g gseq s with
  | none => s
  | some f =>
    if subop = globalMismatch then completeGlobal f stDenied 5 0 s
    else completeGlobal f stOk 0 data.length (if subop = 1 then globalLand f data s else s)

/-- A group's arrivals for a GSEQ are complete here: they pass up, or the root releases. A SNAPSHOT enters only after the
earlier fabric writes have been answered. -/
def tryGlobal (g gseq : Nat) (s : State) : State :=
  match globalDesc g gseq s with
  | none => s
  | some f =>
    let me := myModule s
    let grp := s.fabric.groups.getD g GGroup.reset
    let sub := df f.desc 0 55 53
    let mine := grp.arrivals.filter (fun a => a.2.1 == gseq)
    if grp.sentUp.contains gseq then s
    else if (childModules g me s).all (fun m => mine.any (fun a => a.1 == m)) = false then s
    else if sub = 2 ∧ writesPending f.issuedAt s = true then s
    else
      let bad := mine.any (fun a => a.2.2 != sub)
      let out := if bad then globalMismatch else sub
      let r := rankOf g me s
      let data := if sub = 1 ∧ r = 0 ∧ bad = false then devRead s (dword f.desc 1) (df f.desc 3 31 0) else []
      let blocked := sub = 1 ∧ r = 0 ∧ bad = false ∧
        (memCheck (dword f.desc 1) (df f.desc 3 31 0) .read s ≠ .ok ∨
         memCheck (dword f.desc 2) (df f.desc 3 31 0) .write s ≠ .ok)
      if blocked then
        let m := memCheck (dword f.desc 1) (df f.desc 3 31 0) .read s
        if m = .ok then descStall f .write (memCheck (dword f.desc 2) (df f.desc 3 31 0) .write s) s
        else descStall f .read m s
      else
        let s := slotFree me (descSlotKey f.id) s
        let s := if sub = 1 ∧ r = 0 ∧ bad = false then
            noteDmaRead (dword f.desc 1) (df f.desc 3 31 0) (hubAccess (dword f.desc 1) (df f.desc 3 31 0) s)
          else s
        let s := { s with fabric := { s.fabric with
          groups := updAt s.fabric.groups g (fun x => { x with sentUp := gseq :: x.sentUp }) } }
        if r = 0 then releaseGlobal g gseq out data s
        else sendGlobal ((memberList g s).getD (parentRank r) 0) g gseq out [] s

/-- A global operation issued (R472): it takes the group's next GSEQ; a blocked group rejects it. -/
def startGlobal (f : FabDesc) (s : State) : State :=
  let g := df f.desc 0 50 47
  let grp := s.fabric.groups.getD g GGroup.reset
  if !grp.enabled then jobFaultPlain 10 f.core 1 (df f.desc 0 15 0) 0x61 s
  else if grp.blocked then endFabDesc f.id stDenied 0 0 s
  else
    let s := { s with fabric := { s.fabric with
      descs := updFirst (fun x => x.id == f.id) (fun x => { x with gseq := grp.gseq }) s.fabric.descs,
      groups := updAt s.fabric.groups g (fun x => { x with gseq := x.gseq + 1 }) } }
    tryGlobal g grp.gseq s

/-- Descriptors on the module's own memory that found all 64 service slots faulted try again (R467). -/
def serveSlots (s : State) : State :=
  let waits := fun (f : FabDesc) => !f.held && !s.fabric.slots.any (fun x => x.2.2.1 == descSlotKey f.id)
  (s.fabric.descs.filter waits).foldl (fun s f =>
    if df f.desc 0 63 56 = 0x60 then (if dword f.desc 1 / 2 ^ 52 = myModule s then localAtomic f s else s)
    else tryGlobal (df f.desc 0 50 47) f.gseq s) s

/-- A stalled fabric descriptor goes on: what it has issued stays issued, with its time and GSEQ (R418, R471, R472). -/
def resumeFabDesc (id : Nat) (s : State) : State :=
  match s.fabric.descs.find? (fun f => f.id == id) with
  | none => s
  | some f => if df f.desc 0 63 56 = 0x60 then startAtomic f s else tryGlobal (df f.desc 0 50 47) f.gseq s

/-- A fabric descriptor whose speculation ID has committed, or that had none, is issued. -/
def startFabDesc (id : Nat) (s : State) : State :=
  match s.fabric.descs.find? (fun f => f.id == id) with
  | none => s
  | some f =>
    let s := { s with fabric := { s.fabric with
      descs := updFirst (fun x => x.id == id)
        (fun x => { x with held := false, issuedAt := s.now, holdsCore := df f.desc 0 63 56 == 0x60 }) s.fabric.descs } }
    let f := { f with held := false, issuedAt := s.now }
    if df f.desc 0 63 56 = 0x60 then startAtomic f s else startGlobal f s

/-- A fabric descriptor reaches the fabric engine: checked, held while speculative, else issued (R471). -/
def takeFabDesc (core : Nat) (d : Desc) (org : Origin) (s : State) : State :=
  if fabDescOk d = false ∨ fabPlacesOk core d org s = false then jobFaultPlain 10 core 1 (df d 0 15 0) (df d 0 63 56) s
  else if df d 0 63 56 = 0x61 ∧ (s.fabric.groups.getD (df d 0 50 47) GGroup.reset).enabled = false then
    jobFaultPlain 10 core 1 (df d 0 15 0) 0x61 s
  else
    let id := s.fabric.nextId
    let s := { s with fabric := { s.fabric with
      nextId := id + 1,
      descs := s.fabric.descs ++
        [{ id := id, core := core, desc := d, org := org, issuedAt := s.now, holdsCore := false,
           held := df d 6 31 16 != 0, remaining := df d 0 52 51 + 1, gseq := 0 }] } }
    if df d 6 31 16 ≠ 0 then s else startFabDesc id s

end Sys2Proof.Machine
end

