-- ==== Sys2Proof/Machine/Graphs.lean ====
section
/-! DEFINITION. Graph images and versions (10, R310 to R315, R599; 11, R322; 13, R357 and R359; 18, R500): the checks of an
image, its sections, placement, and the freeing of versions. -/

namespace Sys2Proof.Machine

open Sys2Proof

/-! Allocations of the module range (R403; the address chosen is the lowest that is free: log 20). -/

/-- First page of the module range, VA[39:38] = 0b11, of placement mask m. -/
def moduleBasePage (m : Nat) : Nat := m * 2 ^ 28 + 0xC000000

/-- The first page behind every allocation of a placement mask. -/
def modulePage (m : Nat) (s : State) : Nat :=
  (s.mem.extents.filter (fun e => e.first / 2 ^ 28 == m)).foldl (fun a e => Nat.max a (e.first + e.count)) (moduleBasePage m)

/-- Every region has free frames for its share of a run of pages. -/
def runFits (first n : Nat) (cold : Bool) (s : State) : Bool :=
  (List.range 13).all (fun r => decide (homeShare first n r cold ≤ regionFree r s))

/-- The leaves of a stack's slice that hold the entries of a run of pages, as spans of leaf numbers; those of one class follow
those of the class below (R406). -/
def leafSpans (first n r : Nat) : List (Nat × Nat) :=
  match stackPlace first r with
  | none => []
  | some k =>
    let w := popcount 12 (classMask first)
    (runMix first n).filterMap (fun x =>
      let a := residuesBelow w k x.1
      let b := residuesBelow w k (x.1 + x.2)
      if a < b then some (first / 2 ^ 28 * 2 ^ 18 + a / 1024, first / 2 ^ 28 * 2 ^ 18 + (b - 1) / 1024 + 1) else none)

/-- A span joined to spans that neither overlap nor meet. -/
def addSpan : Nat × Nat → List (Nat × Nat) → List (Nat × Nat)
  | x, [] => [x]
  | x, y :: ys => if y.2 < x.1 ∨ x.2 < y.1 then y :: addSpan x ys else addSpan (Nat.min x.1 y.1, Nat.max x.2 y.2) ys

/-- Numbers that spans cover. -/
def spanTotal (xs : List (Nat × Nat)) : Nat := (xs.map (fun x => x.2 - x.1)).foldl (· + ·) 0

/-- The leaves in use in a stack's slice: those of every allocation of the module range and of every entry outside it. -/
def leavesUsed (r : Nat) (s : State) : List (Nat × Nat) :=
  ((s.xlate.ptes.filter (fun p => p.2 != 0 && !inModuleRange (p.1 * 4096))).flatMap (fun p => leafSpans p.1 1 r) ++
    s.mem.extents.flatMap (fun e => leafSpans e.first e.count r)).foldl (fun a x => addSpan x a) []

/-- Leaves free in a stack's slice (R406). -/
def leavesFree (r : Nat) (s : State) : Nat := 43008 - spanTotal (leavesUsed r s)

/-- The leaves that entries of a run of pages need are free in every slice. -/
def leavesFit (first n : Nat) (s : State) : Bool :=
  (List.range 12).all (fun r =>
    decide (spanTotal ((leafSpans first n r).foldl (fun a x => addSpan x a) (leavesUsed r s)) ≤ 43008))

/-- n pages of the module range allocated under a placement mask: the first page. -/
def allocIn (m n : Nat) (cold : Bool) (context : Option Nat) (tag : Nat) (s : State) : Option (Nat × State) :=
  let first := modulePage m s
  if first + n ≤ (m + 1) * 2 ^ 28 ∧ runFits first n cold s = true ∧ leavesFit first n s = true then
    some (first, { s with mem := { s.mem with
      extents := s.mem.extents ++
        [{ first := first, count := n, cold := cold, rights := 2, context := context, tag := tag }] } })
  else none

/-- n pages of the module range allocated under mask 0, every stack. -/
def allocModule (n : Nat) (cold : Bool) (context : Option Nat) (tag : Nat) (s : State) : Option (Nat × State) :=
  allocIn 0 n cold context tag s

/-- A page's frame, if it has one, given back and its entry dropped. -/
def dropPage (page : Nat) (s : State) : State :=
  let s := match alGet s.xlate.ptes page with
    | some p =>
      if field p.toNat 31 30 = 1 ∨ field p.toNat 31 30 = 2 then
        giveFrame (regionOf page (field p.toNat 31 30 == 2)) (field p.toNat 27 0) s
      else s
    | none => s
  invalidatePage page { s with xlate := { s.xlate with ptes := alErase s.xlate.ptes page } }

/-- The allocations that satisfy a condition freed (R357, R291). -/
def freeExtents (p : Extent → Bool) (s : State) : State :=
  let pages := (s.xlate.ptes.map (·.1)).filter (fun q =>
    s.mem.extents.any (fun e => p e && decide (e.first ≤ q) && decide (q < e.first + e.count)))
  let s := pages.foldl (fun s q => dropPage q s) s
  { s with mem := { s.mem with extents := s.mem.extents.filter (fun e => !p e) } }

/-! Reading an image (R310, R312). -/

/-- The sections of an image: type and bytes. -/
def imageSections (img : List Byte) : List (Nat × List Byte) :=
  (List.range (leAt img 12 2)).map (fun i =>
    (leAt img (64 + 16 * i) 4, slice img (leAt img (64 + 16 * i + 8) 8) (leAt img (64 + 16 * i + 4) 4)))

/-- The section of a type. -/
def sectionOf (img : List Byte) (t : Nat) : Option (List Byte) := ((imageSections img).find? (fun x => x.1 == t)).map (·.2)

/-- Entries of n bytes of a section. -/
def entriesOf (n : Nat) (bs : List Byte) : List (List Byte) :=
  (List.range (bs.length / n)).map (fun i => slice bs (n * i) n)

/-- Core masks of a CORE_SETS or GROUPS section. -/
def masksOf (bs : List Byte) : List (BitVec 96) := (entriesOf 16 bs).map (fun e => BitVec.ofNat 96 (leAt e 0 12))

/-- Weight segments: records of four U32 words (offset, bytes, residency 1 = staging, target), each followed by its data
(log 21). -/
def segmentsOf : Nat → List Byte → List WeightSegment
  | 0, _ => []
  | fuel + 1, bs =>
    if bs.length < 16 then []
    else
      let n := leAt bs 4 4
      { offset := leAt bs 0 4, bytes := n, staging := leAt bs 8 4 == 1, target := leAt bs 12 4, data := slice bs 16 n } ::
        segmentsOf fuel (bs.drop (16 + n))

/-- Header and directory check (R310, R312): magic, format, PATCH bit, counts, and sections within the image. -/
def headerOk (img : List Byte) (patch : Bool) : Bool :=
  leAt img 4 4 == 0x47524146 && leAt img 2 2 == 3 && bitOf (leAt img 0 2) 0 == patch &&
  (patch || leAt img 14 2 == 0) && 1 ≤ leAt img 12 2 && leAt img 12 2 ≤ 64 &&
  leAt img 16 8 == img.length &&
  (List.range (leAt img 12 2)).all (fun i =>
    decide (leAt img (64 + 16 * i + 8) 8 + leAt img (64 + 16 * i + 4) 4 ≤ img.length) &&
    1 ≤ leAt img (64 + 16 * i) 4 && leAt img (64 + 16 * i) 4 ≤ 9) &&
  (match sectionOf img 1 with
   | some b => decide (b.length = 32 * leAt img 10 2) && 1 ≤ leAt img 10 2 && leAt img 10 2 ≤ 4096
   | none => patch && leAt img 10 2 == 0)

/-- DIGEST verifies: SHAKE256 over the image with G4 to G7 taken as 0. -/
def digestOk (img : List Byte) : Bool :=
  shake 32 (slice img 0 32 ++ List.replicate 32 0 ++ img.drop 64) == slice img 32 32

/-- The cores of a CG_MASK. -/
def maskCores (cg : Nat) : List Nat := (List.range 96).filter (fun c => bitOf cg (c / 6))

/-- Every core of every mask lies in the context (R359). -/
def masksOk (masks : List (BitVec 96)) (c : Ctx) : Bool :=
  masks.all (fun m => (setBits 96 m.toNat).all (fun core => bitOf c.cgMask.toNat (core / 6)))

/-- SPEC_REGIONS entries are well-formed, lie in the context's partitions, and those of one stage overlap on no core and on
no die (R322). -/
def regionsOk (regs : List (BitVec 128)) (stages : List Nat) (sets : List (BitVec 96)) (c : Ctx) : Bool :=
  let coresOf := fun (r : BitVec 128) => setBits 96 (sets.getD (field r.toNat 47 40) 0).toNat
  let apart := fun (r q : BitVec 128) =>
    if field r.toNat 39 38 = 1 then (coresOf r).all (fun x => !(coresOf q).contains x)
    else (coresOf r).all (fun x => (coresOf q).all (fun y => dieOf x != dieOf y))
  let f := fun (r : BitVec 128) => (field r.toNat 63 48, field r.toNat 39 38, field r.toNat 31 0, field r.toNat 127 96)
  regs.all (fun r =>
    let (st, sp, off, len) := f r
    stages.contains st && decide (field r.toNat 47 40 < sets.length) && off % 128 == 0 && len % 128 == 0 && len != 0 &&
    (if sp == 1 then decide (c.sramBase ≤ off) && decide (off + len ≤ c.sramBase + c.sramBytes)
     else sp == 2 && decide (c.stagingBase ≤ off) && decide (off + len ≤ c.stagingBase + c.stagingBytes))) &&
  regs.zipIdx.all (fun (r, i) => regs.zipIdx.all (fun (q, j) =>
    let (st, sp, off, len) := f r
    let (st', sp', off', len') := f q
    i == j || st != st' || sp != sp' || apart r q || decide (off + len ≤ off') || decide (off' + len' ≤ off)))

/-- A section of a new version: the image's own, else the base version's, else an empty one (R314). -/
def pickSection {α : Type} (img : List Byte) (base : Option GraphVersion) (t : Nat) (parse : List Byte → α)
    (old : GraphVersion → α) (empty : α) : α :=
  match sectionOf img t, base with
  | some b, _ => parse b
  | none, some v => old v
  | none, none => empty

/-- A version made of a base (for a patch) and an image's sections; a section of the image replaces the base's whole
(R314). -/
def buildVersion (num : Nat) (base : Option GraphVersion) (img : List Byte) : GraphVersion :=
  { num := num, running := 0,
    stages := pickSection img base 1 (fun b => (entriesOf 32 b).map (fun e => BitVec.ofNat 256 (ofLe e))) (·.stages) [],
    code := pickSection img base 2 id (·.code) [],
    weights := pickSection img base 3 (fun b => segmentsOf b.length b) (·.weights) [],
    featureMap := pickSection img base 4 id (·.featureMap) [],
    coreSets := pickSection img base 5 masksOf (·.coreSets) [],
    groups := pickSection img base 6 masksOf (·.groups) [],
    exits := pickSection img base 7 (fun b => (entriesOf 2 b).map ofLe) (·.exits) [],
    sequence := pickSection img base 8 (fun b => some (leAt b 0 8, leAt b 8 2, leAt b 10 2, leAt b 12 1, leAt b 13 1)) (·.sequence) none,
    regions := pickSection img base 9 (fun b => (entriesOf 16 b).map (fun e => BitVec.ofNat 128 (ofLe e))) (·.regions) [],
    imageBytes := img.length, loaded := true,
    codeNum := match sectionOf img 2, base with
      | none, some v => v.codeNum
      | _, _ => num }

/-- A context's partitions hold a version's code and resident segments (R313). -/
def partitionsHold (graph : Nat) (v : GraphVersion) (c : Ctx) : Bool :=
  let inCore := fun (off len : Nat) => len == 0 || decide (c.sramBase ≤ off) && decide (off + len ≤ c.sramBase + c.sramBytes)
  inCore (Config.codeOffset graph v.codeNum) v.code.length &&
  v.weights.all (fun w =>
    if w.staging then decide (c.stagingBase ≤ w.target) && decide (w.target + w.bytes ≤ c.stagingBase + c.stagingBytes)
    else inCore w.target w.bytes)

/-- A version's code and core-resident segments written into a core. -/
def loadCore (graph core : Nat) (v : GraphVersion) (s : State) : State :=
  let s := sramWrite core (Config.codeOffset graph v.codeNum) v.code s
  (v.weights.filter (fun w => !w.staging)).foldl (fun s w => sramWrite core w.target w.data s) s

/-- A version's staging-resident segments written into a die's staging SRAM. -/
def loadDie (die : Nat) (v : GraphVersion) (s : State) : State :=
  (v.weights.filter (fun w => w.staging)).foldl (fun s w => stagingWrite die w.target w.data s) s

/-- The dies a CG_MASK touches. -/
def maskDies (cg : Nat) : List Nat := (List.range 2).filter (fun n => (List.range 8).any (fun g => bitOf cg (8 * n + g)))

/-- The Caravan streams of a version's code and resident segments and the bytes they write: code and core-resident segments in n
cores, staging-resident ones in m dies (R283, R287, R313). -/
def countResident (v : GraphVersion) (n m : Nat) (s : State) : State :=
  let goes := fun (w : WeightSegment) => if w.staging then m else n
  let bytes := (v.weights.map (fun w => goes w * w.data.length)).foldl (· + ·) (n * v.code.length)
  let streams := v.weights.countP (fun w => goes w * w.data.length != 0) + (if n * v.code.length = 0 then 0 else 1)
  if streams = 0 then s else count Cnt.caravanStreams streams (count Cnt.bytesMoved bytes s)

/-- Resident code and segments of a version put in place in its context's cores that hold state, and staging SRAM
(R283, R313). -/
def loadResident (graph : Nat) (v : GraphVersion) (c : Ctx) (s : State) : State :=
  let cores := (maskCores c.cgMask.toNat).filter (fun core =>
    (s.power.groups.getD (cgOf core) GroupPower.reset).code != 4)
  let s := cores.foldl (fun s core => loadCore graph core v s) s
  countResident v cores.length (maskDies c.cgMask.toNat).length
    ((maskDies c.cgMask.toNat).foldl (fun s n => loadDie n v s) s)

/-- What of a new version its base does not share: code of its own, and segments whose bytes or place have changed (R283,
R314). -/
def changedPart (base : Option GraphVersion) (v : GraphVersion) : GraphVersion :=
  match base with
  | none => v
  | some b => { v with
      code := if v.codeNum = b.codeNum then [] else v.code,
      weights := v.weights.filter (fun w => !b.weights.any (fun x => x.staging == w.staging && x.target == w.target && x.data == w.data)) }

/-- A graph's current version. -/
def currentOf (g : Graph) : Option GraphVersion := g.versions.find? (fun v => v.num == g.current)

/-- Code and resident segments of the current versions of a core's contexts loaded into it. -/
def reloadCore (core : Nat) (s : State) : State :=
  s.dispatch.graphs.foldl (fun s g =>
    match contextOf g.context s, currentOf g with
    | some c, some v => if bitOf c.cgMask.toNat (cgOf core) then countResident v 1 0 (loadCore g.id core v s) else s
    | _, _ => s) s

/-- Staging-resident segments of the current versions loaded into a die whose staging SRAM was lost. -/
def reloadDie (die : Nat) (s : State) : State :=
  if s.power.stageReload.getD die false then
    let s := { s with power := { s.power with stageReload := s.power.stageReload.set die false } }
    s.dispatch.graphs.foldl (fun s g =>
      match contextOf g.context s, currentOf g with
      | some c, some v => if (maskDies c.cgMask.toNat).contains die then countResident v 0 1 (loadDie die v s) else s
      | _, _ => s) s
  else s

/-- Frames of HBM4E an image takes of its context's quota. -/
def imageCharge (n : Nat) : Nat := alignUp n 4096

/-- The tag of a version's allocation. -/
def versionTag (graph version : Nat) : Nat := 2 ^ 30 + graph * 2 ^ 16 + version

/-- The result of checking an image for a context: a reason of Table 10.7, or the new version. -/
inductive ImageCheck where
  | refused (reason : Nat) (record : Bool) (signature : Bool)
  | ok (v : GraphVersion)
  deriving DecidableEq, Repr

/-- The checks of GRAPH_LOAD and GRAPH_PATCH in their order (R312, R322, R359, R500, R313). -/
def checkImage (graph : Nat) (patch : Bool) (base : Option GraphVersion) (num : Nat) (img sig : List Byte) (c : Ctx)
    (s : State) : ImageCheck :=
  if headerOk img patch = false then .refused 7 false false
  else if digestOk img = false then .refused 7 true false
  else if sealedJob s = true ∧
      Config.dsaVerify s.security.ownerKey (ascii "ST960-GRAPH") (slice img 32 32) sig = false then .refused 7 true true
  else
    let v := buildVersion num base img
    if masksOk v.coreSets c = false ∨ masksOk v.groups c = false ∨
        regionsOk v.regions (v.stages.map stageNum) v.coreSets c = false then .refused 7 false false
    else if partitionsHold graph v c = false ∨ c.hbmQuota < c.hbmUsed + imageCharge img.length ∨
        (allocModule (imageCharge img.length / 4096) false none 0 s).isNone = true then .refused 6 false false
    else .ok v

end Sys2Proof.Machine
end

