-- ==== Sys2Proof/Machine/HostIf.lean ====
section
/-! DEFINITION. The PCIe host interface (16): the BAR2 window, EVENT_CAUSE, MSI-X and errors of requests. -/

namespace Sys2Proof.Machine

open Sys2Proof

/-- CLASS of a queue (Table 10.2): 0 OFF, 1 HOST, 2 REQUEST, 3 OWNER, 4 INTERNAL. -/
def queueClassOf (n : Nat) (s : State) : Nat := ent (Ent.queueClass + 256 * n) s

/-! The BAR2 window (R432 to R435). -/

/-- BAR2 is closed (R434). -/
def bar2Closed (s : State) : Bool :=
  sealedJob s || s.job.state == jobZeroising || s.security.zeroisePending || s.security.zeroiseMirror

/-- The device virtual address of an offset of BAR2 (R432). -/
def bar2Va (offset : Nat) (s : State) : Nat := ent Ent.bar2WindowVa s + offset

/-- Every page of a BAR2 access is present, gives the right and is not of KIND HOST (R432). -/
def bar2Mapped (va n : Nat) (acc : Access) (s : State) : Bool :=
  decide (va + n ≤ 2 ^ 52) &&
  (pagesOf va n).all (fun p =>
    let v := pageView p s
    v.kind != 0 && v.kind != 3 && rightOk v.rights acc)

/-- A completion sent for a BAR2 read or AtomicOp. -/
def bar2Complete (offset : Nat) (data : Option (List Byte)) (s : State) : State :=
  { s with hostif := { s.hostif with completions := (offset, data) :: s.hostif.completions } }

/-- All ones. -/
def allOnesBytes (n : Nat) : List Byte := List.replicate n 0xFF

/-- A BAR2 write noted while reads may still miss what the module wrote: the host reads its own write (R441). -/
def noteBar2Write (va n : Nat) (s : State) : State :=
  if s.hostif.unseen.isEmpty then s
  else { s with hostif := { s.hostif with hostWrites := (s.now, va, va + n) :: s.hostif.hostWrites } }

/-- BAR2_WRITE. -/
def execBar2Write (offset : Nat) (bytes : List Byte) (s : State) : Host.Outcome State Fault Refusal :=
  if s.hostif.bar2Size < offset + bytes.length then .fault .noSuchUnit
  else if bar2Closed s then .next (count Cnt.bar2Closed 1 s)
  else
    let va := bar2Va offset s
    if bar2Mapped va bytes.length .write s then
      .next (noteBar2Write va bytes.length (devWrite va bytes (hubAccess va bytes.length s)))
    else .next (count Cnt.bar2Unmapped 1 s)

/-- What an AtomicOp stores, from the old value of `width` bytes. -/
def atomicNew (op : AtomicOp) (width old operand compare : Nat) : Nat :=
  let m := 2 ^ (8 * width)
  match op with
  | .fetchAdd => (old + operand) % m
  | .swap => operand % m
  | .cas => if old = compare % m then operand % m else old

/-- BAR2_ATOMIC (R433). Widths other than 4 and 8 bytes, among them the 128-bit CAS, are answered with Unsupported
Request, and so is an AtomicOp that is not naturally aligned (log 16). -/
def execBar2Atomic (offset : Nat) (op : AtomicOp) (width : Nat) (operand compare : BitVec 64) (s : State) :
    Host.Outcome State Fault Refusal :=
  if s.hostif.bar2Size < offset + width then .fault .noSuchUnit
  else
    let bad := (width ≠ 4 ∧ width ≠ 8) ∨ offset % width ≠ 0
    if bar2Closed s then
      .next (count Cnt.bar2Closed 1 (bar2Complete offset (if bad then none else some (allOnesBytes width)) s))
    else if bad then .next (bar2Complete offset none s)
    else
      let va := bar2Va offset s
      if bar2Mapped va width .atomic s then
        let s := hubAccess va width s
        let old := devNat s va width
        let s := noteBar2Write va width (devWrite va (leBytes width (atomicNew op width old operand.toNat compare.toNat)) s)
        .next (bar2Complete offset (some (leBytes width old)) s)
      else .next (count Cnt.bar2Unmapped 1 (bar2Complete offset (some (allOnesBytes width)) s))

/-- Configuration requests are answered with Request Retry Status until start-up has completed step 7 (R528). -/
def configRetried (s : State) : Bool := decide (s.recovery.bootStage < 7)

/-- A configuration request answered with Request Retry Status: it has no effect. -/
def retryConfig (s : State) : State :=
  { s with hostif := { s.hostif with retryAnswers := s.hostif.retryAnswers + 1 } }

/-- BAR2_RESIZE: a size of the Resizable BAR capability, in GiB (R429, R435). -/
def execBar2Resize (gib : Nat) (s : State) : Host.Outcome State Fault Refusal :=
  if 1 ≤ gib ∧ gib ≤ 256 ∧ 2 ^ Nat.log2 gib = gib then
    if configRetried s then .next (retryConfig s) else .next { s with hostif := { s.hostif with bar2Size := gib * 2 ^ 30 } }
  else .fault .noSuchUnit

/-! EVENT_CAUSE and MSI-X (R431, R443). -/

/-- EVENT_CAUSE_CLEAR. -/
def execEventCauseClear (w : HostWrite) (s : State) : Host.Outcome State Fault Refusal :=
  match regWrite 0 w with
  | none => .next (count Cnt.barBadAccess 1 s)
  | some m => .next { s with hostif := { s.hostif with eventCause := s.hostif.eventCause &&& ~~~m } }

/-- Vector v's mask bit written; a pending message is sent at unmask (R443). -/
def setMask (v : Nat) (masked : Bool) (s : State) : State :=
  let others := s.hostif.msixUnmasked.filter (· != v)
  let s := { s with hostif := { s.hostif with msixUnmasked := if masked then others else insertSorted v others } }
  if !masked && s.hostif.msixPending.contains v then
    raiseVector none v { s with hostif := { s.hostif with msixPending := s.hostif.msixPending.filter (· != v) } }
  else s

/-- MSIX_TABLE_WRITE: `offset` is that of the 8-byte register from 0x2000. -/
def execMsixTableWrite (offset : Nat) (w : HostWrite) (s : State) : Host.Outcome State Fault Refusal :=
  if 2048 ≤ offset ∨ offset % 8 ≠ 0 then .fault .noSuchUnit
  else
    let v := offset / 16
    let masked := !s.hostif.msixUnmasked.contains v
    let torn := if masked ∨ s.hostif.msixTorn.contains v = true then s.hostif.msixTorn else v :: s.hostif.msixTorn
    if offset % 16 = 0 then
      match regWrite ((alGet s.hostif.msixAddr v).getD 0) w with
      | none => .next (count Cnt.barBadAccess 1 s)
      | some x => .next { s with hostif := { s.hostif with msixAddr := alSet s.hostif.msixAddr v x, msixTorn := torn } }
    else
      let old := ((alGet s.hostif.msixData v).getD 0).toNat + (if masked then 2 ^ 32 else 0)
      match regWrite (BitVec.ofNat 64 old) w with
      | none => .next (count Cnt.barBadAccess 1 s)
      | some x =>
        .next (setMask v (bitOf x.toNat 32)
          { s with hostif := { s.hostif with
            msixData := alSet s.hostif.msixData v (BitVec.ofNat 32 x.toNat),
            msixTorn := if BitVec.ofNat 32 x.toNat = (alGet s.hostif.msixData v).getD 0 then s.hostif.msixTorn else torn } })

/-! Errors of requests and of received writes (R445, R446). -/

/-- DMA_REQUEST_ERROR: agent as in Table 15.6, 0xFFFF for the map ring and other units that are no agent. -/
def execDmaRequestError (busAddr agent error : Nat) (s : State) : Host.Outcome State Fault Refusal :=
  if agent < 548 ∨ agent = noInst then
    .next (raiseJobFault 0xA002 (faultDetail 9 agent 7 0 0) (wbSubmit 0xA002 agent [busAddr, error] s))
  else .fault .noSuchUnit

/-- POISONED_WRITE: a poisoned write to BAR2, or a correctable error of the link. -/
def execPoisonedWrite (correctable : Bool) (s : State) : Host.Outcome State Fault Refusal :=
  .next (count (if correctable then Cnt.correctableErrors else Cnt.poisonedReceived) 1
    { s with hostif := { s.hostif with aer := (correctable, s.now) :: s.hostif.aer } })

end Sys2Proof.Machine
end

