-- ==== Sys2Proof/Machine/OwnerOps.lean ====
section
/-! DEFINITION. Records of the owner channel (18, R495, R496): their header, their nonces, and what the module sends to an
owner. -/

namespace Sys2Proof.Machine

open Sys2Proof

/-- The 32-byte header of an owner record (Table 18.8). -/
def ownerHeader (typ kind len sid seq frag : Nat) : List Byte :=
  leBytes 8 (0x4F43 * 2 ^ 48 + 1 * 2 ^ 44 + typ * 2 ^ 40 + kind * 2 ^ 32 + len) ++ leBytes 8 sid ++ leBytes 8 seq ++
  leBytes 8 frag

/-- The nonce of a record: the direction bit, then SEQ in 95 bits (R495). -/
def ownerNonce (fromModule : Bool) (seq : Nat) : List Byte := beBytes 12 ((if fromModule then 2 ^ 95 else 0) + seq % 2 ^ 95)

/-- A record goes out: into RELAY_OUT's queue, or by UDP from the end at which the session's last record came in. -/
def ownerEmit (peer : Option UdpPath) (record : List Byte) (s : State) : State :=
  match peer with
  | none => { s with security := { s.security with relayOut := s.security.relayOut ++ [record] } }
  | some p => sendLink p.iface p.peer (.owner p record) s

/-- An owner session. -/
def ownerOf (sid : Nat) (s : State) : Option OwnerSession := s.security.owners.find? (fun o => o.id == sid)

/-- An owner session changed. -/
def updOwner (sid : Nat) (f : OwnerSession → OwnerSession) (s : State) : State :=
  { s with security := { s.security with owners := updFirst (fun o => o.id == sid) f s.security.owners } }

/-- A DATA record of a kind sent to an owner. -/
def ownerSend (sid kind : Nat) (payload : List Byte) (s : State) : State :=
  match ownerOf sid s with
  | none => s
  | some o =>
    let h := ownerHeader 3 kind payload.length sid o.nextOut 0
    ownerEmit o.peer (h ++ gcmSeal o.keyOut (ownerNonce true o.nextOut) h payload)
      (updOwner sid (fun o => { o with nextOut := o.nextOut + 1 }) s)

/-- The completion record of a slot that a COMMAND record placed goes to the session that placed it, in a COMPLETION record
of its own (R495). -/
def ownerCompletion (queue count_ : Nat) (record : List Byte) (s : State) : State :=
  match s.security.ownerPlaced.find? (fun p => p.1 == queue && p.2.1 == count_) with
  | none => s
  | some p =>
    ownerSend p.2.2 4 record { s with security := { s.security with
      ownerPlaced := s.security.ownerPlaced.filter (fun x => x != p) } }

end Sys2Proof.Machine
end

