-- ==== Sys2Proof/Machine/Queues.lean ====
section
/-! DEFINITION. Queues, commands and Hitch (10): fetching and the phase rule, decoding, waits, dispatch, the commands'
meanings, completion records, launches and stages, graph versions. -/

namespace Sys2Proof.Machine

open Sys2Proof

/-! Rings (R291, R292). -/

/-- Slots of a queue's ring. -/
def depthOf (n : Nat) (s : State) : Nat := ent (Ent.queueDepth + 256 * n) s

/-- Device virtual address of slot 0: RING_ADDR, or the module's allocation for REQUEST and INTERNAL queues. -/
def ringAddr (n : Nat) (s : State) : Nat :=
  if queueClassOf n s = 2 ∨ queueClassOf n s = 4 then (queueOf n s).ringAlloc else ent (Ent.queueRingAddr + 256 * n) s

/-- Device virtual address of the completion ring. -/
def complAddr (n : Nat) (s : State) : Nat :=
  if queueClassOf n s = 2 ∨ queueClassOf n s = 4 then (queueOf n s).complAlloc else ent (Ent.queueComplAddr + 256 * n) s

/-- The expected phase of a count (R292). -/
def phaseOf (count_ depth : Nat) : Nat := if (count_ / depth) % 2 = 0 then 1 else 0

/-- The port class of a queue's commands (Table 10.1). -/
def queuePort (n : Nat) (s : State) : PortClass :=
  let c := queueClassOf n s
  if c = 1 then .H else if c = 3 then .S else .B

/-- The resident context of a queue; 0xFF is none. -/
def queueContext (n : Nat) (s : State) : Nat := ent (Ent.queueContext + 256 * n) s

def cmdOpcode (c : Cmd) : Nat := cf c 0 63 56
def cmdTag (c : Cmd) : Nat := cf c 0 15 0

/-- The extension slots' bytes of a command. -/
def extBytes (c : Cmd) : List Byte := (c.ext.map (fun e => leBytes 64 e.toNat)).foldr (· ++ ·) []

/-- A command of a queue, by id. -/
def cmdOfQueue (n id : Nat) (s : State) : Option Cmd := (queueOf n s).cmds.find? (fun c => c.id == id)

/-- A command of a queue, or of the legacy interface, changed; ids are unique among both. -/
def updCmd (n id : Nat) (f : Cmd → Cmd) (s : State) : State :=
  let s := updQueue n (fun q => { q with
    cmds := updFirst (fun c => c.id == id) f q.cmds, held := updFirst (fun c => c.id == id) f q.held }) s
  { s with legacy := { s.legacy with cmds := updFirst (fun c => c.id == id) f s.legacy.cmds } }

/-- A command has completed its work: its completion under R301 follows. One refused with BAD_COMMAND is counted (R320). -/
def finishCmd (n id status reason : Nat) (result : BitVec 64) (s : State) : State :=
  let s := updCmd n id (fun c => { c with phase := .finished, status := status, reason := reason, result := result }) s
  if status = stDenied ∧ reason = 1 then count Cnt.badCommands 1 s else s

/-! Fetching (R298). -/

/-- A slot read from a ring of device virtual address space. -/
def readSlot (ring depth count_ : Nat) (s : State) : BitVec 512 :=
  BitVec.ofNat 512 (devNat s (ring + 64 * (count_ % depth)) 64)

/-- What a look at the slot at HEAD gives. -/
inductive SlotLook where
  | nothing
  | stalled (m : MemCheck)
  | stale
  /-- its extension slots do not all lie below TAIL -/
  | short
  | fresh (w : BitVec 512) (ext : List (BitVec 512))
  deriving DecidableEq, Repr

/-- The slot at a count, with TAIL as it stands. -/
def lookSlot (ring depth head tail : Nat) (s : State) : SlotLook :=
  if head = tail then .nothing
  else match memCheck (ring + 64 * (head % depth)) 64 .read s with
    | .ok =>
      let w := readSlot ring depth head s
      if field (dword w 0) 55 55 ≠ phaseOf head depth then .stale
      else
        let e := field (dword w 0) 50 48
        if (tail + 2 ^ 32 - head) % 2 ^ 32 < 1 + e then .short
        else
          match ((List.range e).map (fun i =>
              memCheck (ring + 64 * ((head + 1 + i) % 2 ^ 32 % depth)) 64 .read s)).find? (fun m => m != .ok) with
          | some m => .stalled m
          | none => .fresh w ((List.range e).map (fun i => readSlot ring depth ((head + 1 + i) % 2 ^ 32) s))
    | m => .stalled m

/-- A read of a 64-byte slot through the hub TLB (R407, R452). -/
def slotRead (va : Nat) (s : State) : State := noteDmaRead va 64 (hubAccess va 64 s)

/-- A read of the slot at a queue's HEAD. -/
def headRead (n : Nat) (s : State) : State := slotRead (ringAddr n s + 64 * ((queueOf n s).head % depthOf n s)) s

/-- The admitted request whose launch a slot of a REQUEST queue is: the front end writes its number into TAG (log 36). -/
def requestOfSlot (n : Nat) (w : BitVec 512) (s : State) : Option Nat :=
  if queueClassOf n s = 2 then
    (s.service.admitted.find? (fun a => a.queue == n && a.launch.isNone && a.seq % 65536 == field (dword w 0) 15 0)).map (·.seq)
  else none

/-- A direct queue whose persistent task runs: the task reads its slots (R316). -/
def directServed (n : Nat) (s : State) : Bool :=
  (queueOf n s).state == 4 && directCore n s != 0xFF &&
  (ctlOf (directCore n s) s).task.any (fun t => t.persistent && t.queue == n)

/-- Thread 0 is stalled, and serves no queue (R415); a direct queue is its task's own. -/
def fetchStalled (n : Nat) (s : State) : Bool := directCore n s == 0xFF && threadStalled 546 s

/-- Slots fetched from HEAD up to TAIL while they are fresh; the queue fetches nothing while 64 completions are held
(R298, R304). -/
def fetchLoop : Nat → Nat → State → State
  | 0, _, s => s
  | fuel + 1, n, s =>
    let q := queueOf n s
    if dispatchStopped s = true ∨ fetchStalled n s = true ∨ (q.state ≠ 1 ∧ q.state ≠ 2 ∧ directServed n s = false) then s
    else if 64 ≤ q.held.length then s
    else match lookSlot (ringAddr n s) (depthOf n s) q.head q.tail s with
      | .nothing => s
      | .stalled m => stallOn 546 (queueContext n s) 0 6 n 0 0 .read m s
      | .stale =>
        count Cnt.phaseStaleReads 1 (headRead n (updQueue n (fun q => { q with staleReads := some 0, staleAt := s.now }) s))
      | .short => headRead n s
      | .fresh w ext =>
        let s := (List.range (ext.length + 1)).foldl (fun s i =>
          slotRead (ringAddr n s + 64 * ((q.head + i) % 2 ^ 32 % depthOf n s)) s) s
        let c : Cmd :=
          { id := s.dispatch.nextCmd, queue := n, count := q.head, words := w, ext := ext, cls := queuePort n s,
            legacy := false, fetchedAt := s.now, phase := .fetched, status := 0, reason := 0, result := 0,
            saturated := false, boundVoid := false, torn := false, request := requestOfSlot n w s, watching := [] }
        let s := { s with dispatch := { s.dispatch with nextCmd := s.dispatch.nextCmd + 1 } }
        fetchLoop fuel n (updQueue n (fun q =>
          { q with cmds := q.cmds ++ [c], head := (q.head + 1 + ext.length) % 2 ^ 32, staleReads := none }) s)

/-- Thread 0 fetches what is fresh of a queue. -/
def fetchQueue (n : Nat) (s : State) : State :=
  match (queueOf n s).staleReads with
  | some _ => s
  | none => fetchLoop (((queueOf n s).tail + 2 ^ 32 - (queueOf n s).head) % 2 ^ 32) n s

/-- A re-read of a queue's stale slot, 200 ns after the last; after the 64th it gives up until the next TAIL write (R298). -/
def retryQueue (n : Nat) (s : State) : State :=
  let q := queueOf n s
  match q.staleReads with
  | none => s
  | some k =>
    if 64 ≤ k ∨ s.now < q.staleAt + 200 ∨ fetchStalled n s = true then s
    else match lookSlot (ringAddr n s) (depthOf n s) q.head q.tail s with
      | .stale =>
        let s := count Cnt.phaseStaleReads 1
          (headRead n (updQueue n (fun q => { q with staleReads := some (k + 1), staleAt := s.now }) s))
        if k = 63 then count Cnt.doorbellGiveups 1 s else s
      | .stalled m => stallOn 546 (queueContext n s) 0 6 n 0 0 .read m s
      | _ => fetchQueue n (updQueue n (fun q => { q with staleReads := none }) s)

/-- The persistent task of a core reads the slots that its direct queues already hold (R316). -/
def fetchDirect (core : Nat) (s : State) : State :=
  (List.range 64).foldl (fun s n => if directCore n s = core then fetchQueue n s else s) s

/-- The shadow word of a direct queue updated and QWORK raised on its core (R316, R234). -/
def directShadow (n tail : Nat) (disabled : Bool) (s : State) : State :=
  let c := directCore n s
  let w := tail % 2 ^ 32 + (if disabled then 2 ^ 63 else 0)
  updCtl c (fun k => { k with mip := k.mip ||| (1#64 <<< 16) })
    (sramWrite c (ent (Ent.queueDirectShadow + 256 * n) s) (leBytes 8 w) s)

/-- A queue is bound to the legacy interface, so that its own TAIL writes are discarded (R338). -/
def legacyBound (n : Nat) (s : State) : Bool := s.legacy.state != 0 && ent Ent.legacyQueue s == n

/-- TAIL_DOORBELL (R297, R298, R316). -/
def execTailDoorbell (queue : Nat) (w : HostWrite) (s : State) : Host.Outcome State Fault Refusal :=
  if 64 ≤ queue then .fault .noSuchUnit
  else if s.hostif.flr then .next s
  else match regWrite ((alGet s.hostif.tailReg queue).getD 0) w with
    | none => .next (count Cnt.barBadAccess 1 s)
    | some v =>
      if (queueOf queue s).state = 0 ∨ queueClassOf queue s ≠ 1 ∨ legacyBound queue s = true then .next s
      else
        let t := v.toNat % 2 ^ 32
        let s := updQueue queue (fun q => { q with tail := t, staleReads := none })
          { s with hostif := { s.hostif with tailReg := alSet s.hostif.tailReg queue v } }
        if directCore queue s ≠ 0xFF then .next (fetchQueue queue (directShadow queue t ((queueOf queue s).state == 3) s))
        else .next (fetchQueue queue s)

/-- A command placed in a ring by the module itself, with its PHASE, and fetched at once (R299). -/
def produceCmd (n : Nat) (w : BitVec 512) (ext : List (BitVec 512)) (s : State) : State :=
  let q := queueOf n s
  let d := depthOf n s
  let w := (w &&& ~~~(1#512 <<< 55)) ||| (BitVec.ofNat 512 (phaseOf q.tail d) <<< 55)
  let s := ((w :: ext).zipIdx).foldl (fun s p =>
    let va := ringAddr n s + 64 * ((q.tail + p.2) % 2 ^ 32 % d)
    moduleWrite 6 va (leBytes 64 p.1.toNat) (hubAccess va 64 s)) s
  fetchQueue n (updQueue n (fun q => { q with tail := (q.tail + 1 + ext.length) % 2 ^ 32, staleReads := none }) s)

/-! Decode (R294, R296, R499). -/

/-- The command breaks R296. -/
def badCommand (n : Nat) (c : Cmd) (s : State) : Bool :=
  let op := cmdOpcode c
  let e := cf c 0 50 48
  let o0 := cw c 6
  let o1 := cw c 7
  let mode := field o0 31 30
  let args := field o0 15 0
  let bytes := field o1 7 0
  let direct := directCore n s != 0xFF
  cf c 0 47 44 != 3 || decide (7 < op) || cf c 0 37 16 != 0 || cf c 0 42 41 == 3 ||
  cw c 1 % 8 != 0 || decide (2 ^ 52 ≤ cw c 1) || cw c 4 % 8 != 0 ||
  (if op = 0 then e != 0 || o0 != 0 || o1 != 0
   else if op = 1 then
     decide (4 < e) || field o0 29 16 != 0 || mode == 3 || (mode == 0 && (e != 0 || args != 0)) ||
     (mode == 1 && (args == 0 || e != (args + 63) / 64)) ||
     (mode == 2 && (e != 1 || args != 0 || leAt (extBytes c) 8 4 == 0 || decide (131072 < leAt (extBytes c) 8 4))) ||
     decide (1023 < field o0 63 48)
   else if op = 2 then
     e != 1 || field o0 55 0 != 0 || o1 != 0 || (decide (95 < field o0 63 56) && field o0 63 56 != 0xFF) ||
     (direct && field o0 63 56 != 0xFF && field o0 63 56 != directCore n s)
   else if op = 3 then
     field o1 63 8 != 0 || bytes == 0 || decide (192 < bytes) || e != (bytes + 63) / 64 || decide (4096 < o0 % 4096 + bytes)
   else if op = 4 ∨ op = 5 then e != 0 || field o1 47 32 != 0 || decide (1023 < field o1 63 48)
   else if op = 6 then e != 0 || o0 != 0 || field o1 47 0 != 0 || decide (1023 < field o1 63 48)
   else e != 0 || field o0 55 32 != 0 || field o1 63 32 != 0 || decide (95 < field o0 63 56)) ||
  (op != 0 && op != 3 && queueContext n s == 0xFF && !direct)

/-- The device virtual address lies on a page of KIND HOST. -/
def onHostPage (va : Nat) (s : State) : Bool := (pageView (va / 4096) s).kind == 3

/-- Every page of a range of bytes is of KIND HOST. -/
def allOnHost (va n : Nat) (s : State) : Bool := (pagesOf va n).all (fun p => onHostPage (p * 4096) s)

/-- The class or the sealed job forbids the opcode (R294, R499). -/
def notPermitted (n : Nat) (c : Cmd) (s : State) : Bool :=
  let op := cmdOpcode c
  let cls := queueClassOf n s
  (op == 2 && cls == 2) || ((op == 3 || op == 4 || op == 5 || op == 6 || op == 7) && cls != 1 && cls != 3) ||
  (sealedJob s && cls == 1 &&
    !((op == 0 || op == 1 || op == 4 || op == 5) && (!cb c 43 || allOnHost (cw c 1) 8 s) &&
      (!cb c 40 || (!cb c 38 && allOnHost (cw c 4) 8 s)) &&
      (op != 1 || field (cw c 6) 31 30 != 2 || allOnHost (leAt (extBytes c) 0 8) (leAt (extBytes c) 8 4) s)))

/-! Waits (R306, R308, R309). -/

/-- A queue shows WAITING while its next command's wait is not met (R300). -/
def showWaiting (n : Nat) (s : State) : State :=
  let waits := match (nextCmdOf n s).map (·.phase) with
    | some (.waiting _ _) => true
    | _ => false
  updQueue n (fun q => { q with state := if q.state = 1 ∧ waits = true then 2 else if q.state = 2 ∧ waits = false then 1 else q.state }) s

/-! Launches and stages (R289, R295, R315). -/

/-- The launch word (R295). -/
def launchWord (l : Launch) : BitVec 64 :=
  BitVec.ofNat 64 (l.graph * 2 ^ 48 + l.version * 2 ^ 32 + l.number % 2 ^ 32)

/-- A stage is to be skipped (R289). -/
def mustSkip (l : Launch) (r : BitVec 256) : Bool :=
  (stageBranch r != 0xFFFF && match branchOutcome l (stageBranch r) with
    | some o => o != stageOutcome r
    | none => false) ||
  (!(stageDeps r).isEmpty && (stageDeps r).all (fun d => stagePhase l d == .skipped))

/-- Waiting stages that must be skipped become skipped, until none is left. -/
def settleSkips : Nat → Nat → State → State
  | 0, _, s => s
  | fuel + 1, id, s =>
    match launchOf id s with
    | none => s
    | some l =>
      match l.stages.find? (fun x => x.phase == .waiting && (stageRecord l x.num s).any (mustSkip l)) with
      | none => s
      | some x => settleSkips fuel id (updLaunch id (fun l =>
          { l with stages := updFirst (fun y => y.num == x.num) (fun y => { y with phase := .skipped }) l.stages }) s)

/-- Every stage of a launch that must be skipped is. -/
def skipStages (id : Nat) (s : State) : State :=
  settleSkips ((launchOf id s).map (fun l => l.stages.length) |>.getD 0) id s

/-- A launch may still dispatch a stage: an exited one only those that R54 keeps. -/
def mayDispatch (l : Launch) (stage : Nat) (s : State) : Bool :=
  !dispatchStopped s && (!l.exited || (keptStages l s).contains stage)

/-- Cores of a stage's core set; a launch of the Bivouac graph maps the first to the Bivouac's core 0 and a second to its
core 1 (R521). -/
def stageCores (l : Launch) (r : BitVec 256) (s : State) : List Nat :=
  match versionOf l.graph l.version s with
  | some v =>
    let cores := setBits 96 (v.coreSets.getD (stageCoreSet r) 0).toNat
    if l.biv then (List.range (Nat.min 2 cores.length)).map (· + 96) else cores
  | none => []

/-- A stage's phase set. -/
def setStage (id stage : Nat) (p : StagePhase) (spec : Nat) (s : State) : State :=
  updLaunch id (fun l => { l with
    stages := updFirst (fun y => y.num == stage) (fun y =>
      { y with phase := p, spec := spec, ahead := decide (spec ≠ 0), dispatchedAt := s.now, committedAt := if p = .committed then s.now else y.committedAt })
      l.stages }) s

/-- The staging-SRAM offset of a launch's argument block, which the spec leaves open, within its context's partition (R295, R359;
log 203). -/
def argPlace (launch context len : Nat) (s : State) : Nat :=
  match contextOf context s with
  | some c => c.stagingBase + Config.argOffset launch % Nat.max 1 (c.stagingBytes + 1 - len)
  | none => Config.argOffset launch % 2 ^ 26

/-- Bytes of its context's staging partition from a launch's argument block on. -/
def argRoom (l : Launch) (s : State) : Nat :=
  match contextOf l.context s with
  | some c => c.stagingBase + c.stagingBytes - l.argAt
  | none => 2 ^ 26

/-- The tasks of a stage given to its cores, under a speculation ID (R295, R232): the argument block lies in staging SRAM of
the die of the stage's first core, and groups that are not on are asked to wake, unless the stage runs ahead (Table 11.2). -/
def dispatchTasks (l : Launch) (r : BitVec 256) (spec : Nat) (s : State) : State :=
  let cores := stageCores l r s
  let s :=
    if l.biv then cores.foldl (fun s c => sramWrite c l.argAt l.args s) s
    else stagingWrite (dieOf (cores.headD 0)) l.argAt (l.args.take (argRoom l s)) s
  let s := cores.foldl (fun s c =>
    let t : TaskRec :=
      { id := s.dispatch.nextTask, launch := some l.id, stage := stageNum r, cmd := none, queue := l.queue,
        context := l.context, graph := l.graph, version := l.version, spec := spec, startedAt := s.now,
        persistent := false, kept := false }
    let p : PendingTask :=
      { core := c, entry := stageEntry r, arg := BitVec.ofNat 64 (l.argAt + stageArg r), launchWord := launchWord l, task := t }
    let s := { s with dispatch := { s.dispatch with
      nextTask := s.dispatch.nextTask + 1, tasks := s.dispatch.tasks ++ [p] } }
    if spec = 0 ∧ coreOn c s = false then wakeOnDemand (cgOf c) s else s) s
  setStage l.id (stageNum r) (if cores.isEmpty then (if spec = 0 then .committed else .ended) else .running cores) spec s

/-- STAGE_DISPATCH (R289, R288, R364): a history append becomes running and is carried out by APPEND_STAGE; a
barrier-class stage is dispatched by STAGE_BARRIER. -/
def execStageDispatch (launch stage : Nat) (s : State) : Host.Outcome State Fault Refusal :=
  let s := skipStages launch s
  match launchOf launch s with
  | none => .next s
  | some l =>
    match stageRecord l stage s with
    | none => .next s
    | some r =>
      if stagePhase l stage = .waiting ∧ stageReady l r = true ∧ mayDispatch l stage s = true ∧ stageBarrier r = false then
        if stageKind r = 1 then .next (setStage launch stage (.running []) 0 s)
        else .next (settleOutgoing (dispatchTasks l r 0 s))
      else .next s

/-- A task of a launch has ended on a core: its stage ends with its last core, and commits unless it is speculative; an
append stage commits when APPENDED is stored (APPEND_STAGE). -/
def stageTaskEnded (id stage core : Nat) (s : State) : State :=
  match launchOf id s with
  | none => s
  | some l =>
    match l.stages.find? (fun x => x.num == stage) with
    | some x =>
      match x.phase with
      | .running cs =>
        let rest := cs.filter (· != core)
        let append := (stageRecord l stage s).any (fun r => stageKind r == 1)
        let p : StagePhase := if rest.isEmpty then (if x.spec = 0 ∧ append = false then .committed else .ended) else .running rest
        skipStages id (updLaunch id (fun l => { l with
          stages := updFirst (fun y => y.num == stage) (fun y =>
            { y with phase := p, committedAt := if p = .committed then s.now else y.committedAt }) l.stages }) s)
      | _ => s
    | none => s

/-- A launch has come to its end (R289). -/
def launchDone (l : Launch) : Bool :=
  l.stages.all (fun x => x.phase == .committed || x.phase == .skipped || x.phase == .stopped)

/-- A launch created (R295, R315): its number, its bound version and epoch, its stages waiting. -/
def beginLaunch (n graph version epoch : Nat) (cmd : Option Nat) (request : Option Nat) (session : Nat)
    (args : List Byte) (legacy : Bool) (s : State) : State :=
  match graphOf graph s, versionOf graph version s with
  | some g, some v =>
    let id := s.dispatch.nextLaunch
    let l : Launch :=
      { id := id, graph := graph, version := version, epoch := if epoch = 0 then s.updates.epoch else epoch,
        context := g.context, queue := n, number := (g.launches + 1) % 2 ^ 32, cmd := cmd, request := request,
        session := session,
        stages := v.stages.map (fun r => { num := stageNum r, phase := .waiting, spec := 0, dispatchedAt := 0 }),
        resolved := [], args := args, argAt := argPlace id g.context args.length s, startedAt := s.now, saturated := false,
        boundVoid := false, torn := false, exited := false, legacy := legacy, order := (queueOf n s).begun }
    let s := updGraph graph (fun g => { g with
      launches := (g.launches + 1) % 2 ^ 32,
      versions := updFirst (fun x => x.num == version) (fun x => { x with running := x.running + 1 }) g.versions }) s
    let s := updQueue n (fun q => { q with begun := q.begun + 1 }) s
    { s with dispatch := { s.dispatch with launches := s.dispatch.launches ++ [l], nextLaunch := id + 1 } }
  | _, _ => s

/-- Changes an admitted request. -/
def updAdmitted (seq : Nat) (f : Admitted → Admitted) (s : State) : State :=
  { s with service := { s.service with admitted := updFirst (fun a => a.seq == seq) f s.service.admitted } }

/-- A response header that answers a request's. -/
def respHdr (h : LorjoHdr) (typ status reason topK : Nat) : LorjoHdr :=
  { ver := h.ver, typ := typ, secure := h.secure, requestId := h.requestId, modelId := h.modelId, topK := topK,
    candCount := h.candCount, keyId := if h.secure then h.keyId else 0, status := status, reason := reason }

/-- A response becomes ready on a request's port; where its request is no longer held as admitted, the request buffer is freed once
it is sent (R51). -/
def readyResp (a : Admitted) (h : LorjoHdr) (payload : List Byte) (request : Option Nat) (s : State) : State :=
  let r : ReadyResp :=
    { port := a.port, src := a.src, dst := a.dst, hdr := h, payload := payload, arrived := a.arrived, deadline := a.deadline,
      maxSeg := a.maxSeg, binding := a.binding, key := a.key, request := request, readyAt := s.now,
      buffer := if request.isNone then a.buffer else none }
  { s with service := { s.service with ready := s.service.ready ++ [r] } }

/-- An admitted request whose launch command is refused is answered with a header-only DENIED and NO_CONTEXT, where it has no
answer yet: R51 does not say what becomes of it (DESIGN CHOICE, log 151). -/
def answerRefused (c : Cmd) (s : State) : State :=
  match c.request.bind (fun q => s.service.admitted.find? (fun a => a.seq == q)) with
  | none => s
  | some a =>
    if s.service.ready.any (fun r => r.request == some a.seq) then s
    else readyResp a (respHdr a.hdr 2 stDenied 1 0) [] (some a.seq) s

/-- The launch just begun for an admitted request is bound to the request's epoch and session (R50, R242); where its exit
timer has fired already, only the stages that R54 keeps are left to run. -/
def bindRequest (id seq : Nat) (s : State) : State :=
  match s.service.admitted.find? (fun a => a.seq == seq) with
  | none => s
  | some a =>
    let kept : List Nat := match launchOf id s with
      | some l => keptStages l s
      | none => []
    updLaunch id (fun l => { l with
      epoch := a.epoch, session := a.hdr.sessionId, exited := a.exitChosen.isSome,
      stages := if a.exitChosen.isSome then l.stages.map (fun x => if kept.contains x.num then x else { x with phase := .stopped })
        else l.stages })
      (updAdmitted seq (fun a => { a with launch := some id, launchedAt := s.now }) s)

/-- Why a launch, patch or unload of a graph by a context is refused (R599): a reason of Table 10.7, 0 for none. -/
def graphRefusal (graph context : Nat) (s : State) : Nat :=
  match graphOf graph s with
  | none => 3
  | some g => if g.context ≠ context then 2 else if g.unloading then 3 else 0

/-! Graph versions (R313 to R315). -/

/-- A graph's predictions are cleared (R323). -/
def clearPredictions (graph : Nat) (s : State) : State :=
  { s with runahead := { s.runahead with predictions := s.runahead.predictions.filter (fun p => p.graph != graph) } }

/-- A version's charge returned to its context. -/
def uncharge (context n : Nat) (s : State) : State := updContext context (fun c => { c with hbmUsed := c.hbmUsed - n }) s

/-- A version freed; the last version of an unloading graph ends the graph and completes its GRAPH_UNLOAD (R315). -/
def freeVersion (graph version : Nat) (s : State) : State :=
  match graphOf graph s, versionOf graph version s with
  | some g, some v =>
    if v.running = 0 ∧ (g.current ≠ version ∨ g.unloading) ∧ s.service.admitted.all (fun a =>
        !(a.graph == graph && a.version == version && a.launch.isNone)) = true then
      let s := uncharge g.context (imageCharge v.imageBytes) (freeExtents (fun e => e.tag == versionTag graph version) s)
      let s := updGraph graph (fun g => { g with versions := g.versions.filter (fun x => x.num != version) }) s
      match graphOf graph s with
      | some g =>
        if g.unloading ∧ g.versions.isEmpty then
          let s := clearPredictions graph
            { s with dispatch := { s.dispatch with graphs := s.dispatch.graphs.filter (fun x => x.id != graph) } }
          match g.unloadCmd with
          | some (n, id) => finishCmd n id stOk 0 0 s
          | none => s
        else s
      | none => s
    else s
  | _, _ => s

/-- The integrity tags of a version's code section and resident segments (R531). -/
def versionTags (v : GraphVersion) : List (BitVec 256) := shake256 v.code :: v.weights.map (fun w => shake256 w.data)

/-- The version a load or patch has made becomes current, is measured and charged, and its command completes. -/
def installVersion (n id graph : Nat) (v : GraphVersion) (digest : List Byte) (c : Ctx) (s : State) : State :=
  let s := match allocModule (imageCharge v.imageBytes / 4096) false (some c.num) (versionTag graph v.num) s with
    | some (_, s) => s
    | none => s
  let s := loadResident graph (changedPart ((graphOf graph s).bind currentOf) v) c s
  let s := updContext c.num (fun c => { c with hbmUsed := c.hbmUsed + imageCharge v.imageBytes }) s
  let s := updGraph graph (fun g => { g with
    versions := g.versions ++ [{ v with tags := versionTags v }], current := v.num, created := v.num, loadCmd := none }) s
  let s := measureBytes 7 7 (digest ++ leBytes 2 graph) (clearPredictions graph s)
  count Cnt.versionsCreated 1 (finishCmd n id stOk 0 (BitVec.ofNat 64 (v.num * 2 ^ 32)) s)

/-- A load or patch refused with a reason; a digest or signature that fails is recorded (R312, R500). -/
def refuseImage (n id graph reason : Nat) (record signature : Bool) (s : State) : State :=
  let s := if record then wbSubmit 0x6002 graph [reason] s else s
  finishCmd n id stDenied reason 0 (if signature then count Cnt.signatureFailures 1 s else s)

/-- GRAPH_LOAD or GRAPH_PATCH carried out for a command whose image can be read (R312 to R314). -/
def runImage (n : Nat) (c : Cmd) (patch : Bool) (s : State) : State :=
  let graph := field (cw c 7) 63 48
  let bytes := field (cw c 7) 31 0
  let img := devRead s (cw c 6) bytes
  let sig := if sealedJob s then devRead s (cw c 6 + bytes) 3309 else []
  match contextOf (queueContext n s) s with
  | none => finishCmd n c.id stDenied 1 0 s
  | some x =>
    if patch then
      match graphOf graph s with
      | none => finishCmd n c.id stDenied 3 0 s
      | some g =>
        if leAt img 14 2 ≠ g.current ∧ headerOk img true = true then finishCmd n c.id stDenied 4 0 s
        else match checkImage graph true (versionOf graph g.current s) (g.created + 1) img sig x s with
          | .refused r rec_ sg => refuseImage n c.id graph r rec_ sg s
          | .ok v =>
            if 4 ≤ g.versions.length then
              { s with dispatch := { s.dispatch with
                patchWaits := s.dispatch.patchWaits ++ [{ queue := n, cmd := c.id, graph := graph, since := s.now }] } }
            else installVersion n c.id graph v (slice img 32 32) x s
    else
      match checkImage graph false none 1 img sig x s with
      | .refused r rec_ sg => refuseImage n c.id graph r rec_ sg s
      | .ok v =>
        let g : Graph :=
          { id := graph, context := x.num, current := 0, versions := [], created := 0, launches := 0, unloading := false,
            unloadCmd := none, loadCmd := some (n, c.id), stamp := c.id }
        installVersion n c.id graph v (slice img 32 32) x
          { s with dispatch := { s.dispatch with graphs := s.dispatch.graphs ++ [g] } }

/-- Patches of a graph that wait for a version slot try again, oldest first (R314). -/
def retryPatch (graph : Nat) (s : State) : State :=
  match s.dispatch.patchWaits.find? (fun p => p.graph == graph) with
  | none => s
  | some p =>
    let s' := { s with dispatch := { s.dispatch with patchWaits := s.dispatch.patchWaits.erase p } }
    match graphOf graph s, cmdOfQueue p.queue p.cmd s with
    | some g, some c => if g.versions.length < 4 then runImage p.queue c true s' else s
    | _, _ => s'

/-- VERSION_FREE. -/
def execVersionFree (graph version : Nat) (s : State) : Host.Outcome State Fault Refusal :=
  .next (retryPatch graph (freeVersion graph version s))

/-- PATCH_SLOT_TIMEOUT: a patch that found no version slot for HITCH_TIMEOUT_NS completes with TIMEOUT (R314). -/
def execPatchSlotTimeout (queue cmd : Nat) (s : State) : Host.Outcome State Fault Refusal :=
  .next (match s.dispatch.patchWaits.find? (fun p => p.queue == queue && p.cmd == cmd) with
    | some p =>
      if p.since + ent Ent.hitchTimeoutNs s ≤ s.now ∧ dispatchStopped s = false then
        finishCmd queue cmd stTimeout 0 0 { s with dispatch := { s.dispatch with patchWaits := s.dispatch.patchWaits.erase p } }
      else s
    | none => s)

/-! The commands' own work (Table 10.4). -/

/-- A fault of thread 0 while it carries out a command. -/
def cmdStall (n : Nat) (c : Cmd) (acc : Access) (m : MemCheck) (s : State) : State :=
  stallOn 546 (queueContext n s) 0 6 n (cmdTag c) (cmdOpcode c) acc m s

/-- A command marked dispatched. -/
def markDispatched (n id : Nat) (s : State) : State := updCmd n id (fun c => { c with phase := .dispatched }) s

/-- NOP: nothing. -/
def runNop (n : Nat) (c : Cmd) (s : State) : State := finishCmd n c.id stOk 0 0 s

/-- The request of a launch command has been answered already, its exit timer having fired first (R52). -/
def requestGone (c : Cmd) (s : State) : Bool :=
  match c.request with
  | none => true
  | some seq => s.service.admitted.all (fun a => a.seq != seq) || s.service.ready.any (fun r => r.request == some seq)

/-- LAUNCH (R295, R315, R599). -/
def runLaunch (n : Nat) (c : Cmd) (s : State) : State :=
  let graph := cf c 6 63 48
  let ver := cf c 6 47 32
  let mode := cf c 6 31 30
  let no := graphRefusal graph (queueContext n s) s
  if queueClassOf n s = 2 ∧ requestGone c s = true then finishCmd n c.id stEarlyExit 0 0 s
  else if no ≠ 0 then answerRefused c (finishCmd n c.id stDenied no 0 s)
  else match graphOf graph s with
    | none => s
    | some g =>
      let v := if ver = 0 then g.current else ver
      if (versionOf graph v s).isNone then answerRefused c (finishCmd n c.id stDenied 4 0 s)
      else
        let src := leAt (extBytes c) 0 8
        let len := leAt (extBytes c) 8 4
        let chk := if mode = 2 then memCheck src len .read s else .ok
        if chk ≠ .ok then cmdStall n c .read chk s
        else
          let args := if mode = 1 then (extBytes c).take (cf c 6 15 0) else if mode = 2 then devRead s src len else []
          let s := if mode = 2 then noteDmaRead src len (hubAccess src len s) else s
          let id := s.dispatch.nextLaunch
          let s := beginLaunch n graph v (cw c 7) (some c.id) c.request 0 args false (markDispatched n c.id s)
          match c.request with
          | some seq => bindRequest id seq s
          | none => s

/-- The cores of a queue's context. -/
def contextCores (n : Nat) (s : State) : List Nat :=
  match contextOf (queueContext n s) s with
  | some x => maskCores x.cgMask.toNat
  | none => []

/-- The cores that a descriptor of a queue may go to: the one it names, or, for 0xFF, those of the context that have not
failed. -/
def descCores (n core : Nat) (s : State) : List Nat :=
  if core = 0xFF then (contextCores n s).filter (fun c => !(matOf c s).failed) else [core]

/-- Those of them to which the schedule lets k descriptors of an opcode go, and whose queue has room for them (R261, R364). -/
def openCores (n core op k : Nat) (s : State) : List Nat :=
  (descCores n core s).filter (fun c => scheduleAllows c n s && engineRoom c op k s)

/-- The core that takes descriptors of a queue: one of the open ones, which the spec leaves open (log 5); the queue has it from
then on (R365). Its group is woken where it sleeps (R371). -/
def takeDescCore (n core op k : Nat) (s : State) : Nat × State :=
  let cores := openCores n core op k s
  let c := cores.getD (Config.freeRank s.free 0 % Nat.max 1 cores.length) (if core = 0xFF then 0 else core)
  let s := if core = 0xFF then drawFree s else s
  (c, takeCore c n (wakeCore c s))

/-- The core that a DESCRIPTOR names, a direct queue's own, or 0xFF (R316). -/
def descCore (n : Nat) (c : Cmd) (s : State) : Nat := if directCore n s = 0xFF then cf c 6 63 56 else directCore n s

/-- A DESCRIPTOR that is held back: none of the cores it may go to is open to it, or an operating point is being left
(R261, R364, R367, R507). -/
def scheduleHolds (n : Nat) (c : Cmd) (s : State) : Bool :=
  cmdOpcode c == 2 && !(descCores n (descCore n c s) s).isEmpty &&
  (moving s || openCores n (descCore n c s) (df (c.ext.getD 0 0) 0 63 56) 1 s == [])

/-- Engine opcodes that a DESCRIPTOR and a legacy DESC may carry (R295, R342). -/
def hostDescOp (op : Nat) : Bool := [0x10, 0x11, 0x21, 0x22, 0x23, 0x24, 0x25, 0x30, 0x40, 0x50].contains op

/-- DESCRIPTOR: the engine descriptor is given to the core, or to one of the context's cores that is left open
(log 5); it is issued there with SPEC_ID 0. Opcodes that R295 does not list end in BAD_COMMAND. -/
def runDescriptor (n : Nat) (c : Cmd) (s : State) : State :=
  let d := c.ext.getD 0 0
  let op := df d 0 63 56
  if !hostDescOp op then finishCmd n c.id stDenied 1 0 s
  else
    let p := takeDescCore n (descCore n c s) op 1 s
    let s := p.2
    let org : Origin :=
      { cls := c.cls, context := queueContext n s, queue := n, launch := none, stage := 0, cmd := some c.id, postilion := true }
    pushIssued p.1 (setSpecId d 6 0) org (markDispatched n c.id s)

/-- INLINE_WRITE (R438). -/
def runInlineWrite (n : Nat) (c : Cmd) (s : State) : State :=
  let va := cw c 6
  let len := cf c 7 7 0
  match memCheck va len .write s with
  | .ok => finishCmd n c.id stOk 0 0 (devWrite va ((extBytes c).take len) (hubAccess va len s))
  | m => cmdStall n c .write m s

/-- Bytes of the image a command names, with the signature that follows it in a sealed job (R500). -/
def imageSpan (c : Cmd) (s : State) : Nat := cf c 7 31 0 + (if sealedJob s then 3309 else 0)

/-- The image that a command names read through the hub (R407, R452). -/
def readImage (c : Cmd) (s : State) : State := noteDmaRead (cw c 6) (imageSpan c s) (hubAccess (cw c 6) (imageSpan c s) s)

/-- GRAPH_LOAD. -/
def runGraphLoad (n : Nat) (c : Cmd) (s : State) : State :=
  let graph := cf c 7 63 48
  if (graphOf graph s).isSome then finishCmd n c.id stDenied 5 0 s
  else match memCheck (cw c 6) (imageSpan c s) .read s with
    | .ok => runImage n c false (markDispatched n c.id (readImage c s))
    | m => cmdStall n c .read m s

/-- GRAPH_PATCH. -/
def runGraphPatch (n : Nat) (c : Cmd) (s : State) : State :=
  let graph := cf c 7 63 48
  let no := graphRefusal graph (queueContext n s) s
  if no ≠ 0 then finishCmd n c.id stDenied no 0 s
  else match memCheck (cw c 6) (imageSpan c s) .read s with
    | .ok => runImage n c true (markDispatched n c.id (readImage c s))
    | m => cmdStall n c .read m s

/-- GRAPH_UNLOAD: unlaunchable at once; waiting loads and patches of the graph complete with NO_GRAPH (R315). -/
def runGraphUnload (n : Nat) (c : Cmd) (s : State) : State :=
  let graph := cf c 7 63 48
  let no := graphRefusal graph (queueContext n s) s
  if no ≠ 0 then finishCmd n c.id stDenied no 0 s
  else
    let s := markDispatched n c.id s
    let waits := s.dispatch.patchWaits.filter (fun p => p.graph == graph)
    let s := { s with dispatch := { s.dispatch with patchWaits := s.dispatch.patchWaits.filter (fun p => p.graph != graph) } }
    let s := waits.foldl (fun s p => finishCmd p.queue p.cmd stDenied 3 0 s) s
    let s := updGraph graph (fun g => { g with unloading := true, unloadCmd := some (n, c.id) }) s
    let vs : List Nat := match graphOf graph s with
      | some g => g.versions.map (fun x => x.num)
      | none => []
    vs.foldl (fun s v => freeVersion graph v s) s

/-- One task of a command placed on one core; its a1 holds no defined value (log 5). -/
def placeTask (n : Nat) (c : Cmd) (core entry arg : Nat) (s : State) : State :=
  let t : TaskRec :=
    { id := s.dispatch.nextTask, launch := none, stage := 0, cmd := some c.id, queue := n, context := queueContext n s,
      graph := 0xFFFF, version := 0, spec := 0, startedAt := s.now, persistent := false, kept := false }
  let p : PendingTask :=
    { core := core, entry := entry, arg := BitVec.ofNat 64 arg, launchWord := Config.freeWord s.free, task := t }
  let s := drawFree (markDispatched n c.id s)
  let s := { s with dispatch := { s.dispatch with
    nextTask := s.dispatch.nextTask + 1, tasks := s.dispatch.tasks ++ [p] } }
  wakeCore core s

/-- TASK. -/
def runTask (n : Nat) (c : Cmd) (s : State) : State := placeTask n c (cf c 6 63 56) (cf c 6 31 0) (cf c 7 31 0) s

/-- A command carried out by its opcode. -/
def runCmd (n : Nat) (c : Cmd) (s : State) : State :=
  let op := cmdOpcode c
  if op = 0 then runNop n c s
  else if op = 1 then runLaunch n c s
  else if op = 2 then runDescriptor n c s
  else if op = 3 then runInlineWrite n c s
  else if op = 4 then runGraphLoad n c s
  else if op = 5 then runGraphPatch n c s
  else if op = 6 then runGraphUnload n c s
  else runTask n c s

/-- A Hitch object read through the hub (R407, R452). -/
def readObject (va : Nat) (s : State) : State := noteDmaRead va 8 (hubAccess va 8 s)

/-- A command as its wait, not met, leaves it with the value last seen: the wait begins with its first evaluation (R309). -/
def waitingCmd (v : BitVec 64) (s : State) (c : Cmd) : Cmd :=
  { c with
    phase := .waiting (match c.phase with
      | .waiting t _ => t
      | _ => s.now) v,
    polled := onHostPage (cw c 1) s }

/-- A queue's command that is not met; its wait is counted when it begins. -/
def holdCmd (n : Nat) (c : Cmd) (v : BitVec 64) (s : State) : State :=
  let s := match c.phase with
    | .waiting _ _ => s
    | _ => count Cnt.hitchWaits 1 s
  updCmd n c.id (waitingCmd v s) s

/-- The next command of a queue as it is taken up: refused, waiting, held behind ORDERED, or carried out (R296, R300). -/
def dispatchNext (n : Nat) (s : State) : State :=
  match nextCmdOf n s with
  | none => s
  | some c =>
    if badCommand n c s then answerRefused c (finishCmd n c.id stDenied 1 0 s)
    else if directCore n s ≠ 0xFF ∧ [0, 2, 3].contains (cmdOpcode c) = false then finishCmd n c.id stDenied 2 0 s
    else if notPermitted n c s then finishCmd n c.id stDenied 2 0
      (if sealedJob s && queueClassOf n s == 1 then count Cnt.sealedDenials 1 s else s)
    else if cb c 53 && (queueOf n s).cmds.any (fun x => decide (x.id < c.id)) then s
    else if scheduleHolds n c s then s
    else if cb c 43 = false then showWaiting n (runCmd n c s)
    else
      match memCheck (cw c 1) 8 .read s with
      | .ok =>
        let s := readObject (cw c 1) s
        let v := hitchRead (cw c 1) s
        if waitHolds c v then showWaiting n (runCmd n c s) else showWaiting n (holdCmd n c (BitVec.ofNat 64 v) s)
      | m => cmdStall n c .read m (showWaiting n (holdCmd n c 0 s))

/-- A row of the table that takes up the next command of a queue, when its opcode is the row's; a command of an undefined
opcode, refused under R296, is taken up by NOP's row. -/
def takeUp (op n : Nat) (s : State) : Host.Outcome State Fault Refusal :=
  if 64 ≤ n then .fault .noSuchUnit
  else if dispatchStopped s || fetchStalled n s then .next s
  else match nextCmdOf n s with
    | some c => if (cmdOpcode c = op ∨ (op = 0 ∧ 7 < cmdOpcode c)) ∧ c.phase = .fetched then .next (dispatchNext n s) else .next s
    | none => .next s

def execNop (queue : Nat) (s : State) : Host.Outcome State Fault Refusal := takeUp 0 queue s
def execLaunch (queue : Nat) (s : State) : Host.Outcome State Fault Refusal := takeUp 1 queue s
def execDescriptor (queue : Nat) (s : State) : Host.Outcome State Fault Refusal := takeUp 2 queue s
def execInlineWrite (queue : Nat) (s : State) : Host.Outcome State Fault Refusal := takeUp 3 queue s
def execGraphLoad (queue : Nat) (s : State) : Host.Outcome State Fault Refusal := takeUp 4 queue s
def execGraphPatch (queue : Nat) (s : State) : Host.Outcome State Fault Refusal := takeUp 5 queue s
def execGraphUnload (queue : Nat) (s : State) : Host.Outcome State Fault Refusal := takeUp 6 queue s
def execTask (queue : Nat) (s : State) : Host.Outcome State Fault Refusal := takeUp 7 queue s

/-- The value that a waiting command sees without a new access: one that a write or a poll has shown (R308). -/
def shownValue (c : Cmd) (s : State) : Option Nat :=
  match c.phase with
  | .waiting _ v => if c.met ∨ (c.polled ∧ onHostPage (cw c 1) s) then some v.toNat else none
  | _ => none

/-- COMMAND_WAIT_MET: the wait of a queue's next command holds, or a write has met it, so it is dispatched; an object in host
memory is seen as last polled (R308). A page that is absent faults again (R414). -/
def execCommandWaitMet (queue : Nat) (s : State) : Host.Outcome State Fault Refusal :=
  if 64 ≤ queue then .fault .noSuchUnit
  else if dispatchStopped s || fetchStalled queue s then .next s
  else match nextCmdOf queue s with
    | none => .next s
    | some c =>
      let begin := fun (s : State) =>
        showWaiting queue (runCmd queue c (updCmd queue c.id (fun c => { c with phase := .fetched }) s))
      match c.phase with
      | .waiting _ _ =>
        if scheduleHolds queue c s then .next s
        else if c.met then .next (begin s)
        else match shownValue c s, memCheck (cw c 1) 8 .read s with
          | some v, _ => if waitHolds c v then .next (begin s) else .next s
          | none, .ok =>
            let s := readObject (cw c 1) s
            let v := hitchRead (cw c 1) s
            if waitHolds c v then .next (begin s) else .next (holdCmd queue c (BitVec.ofNat 64 v) s)
          | none, m => .next (cmdStall queue c .read m s)
      | _ => .next s

/-- The object of a wait that a poll reads: one in host memory, or one that lay there and whose page has gone. -/
def pollsObject (va : Nat) (polled : Bool) (s : State) : Bool := onHostPage va s || (polled && (pageView (va / 4096) s).kind == 0)

/-- Objects that a poll reads, each with its context and whether it is a core's (R308). -/
def polledObjects (s : State) : List (Nat × Nat × Nat × Nat) :=
  let ofCmd := fun (c : Cmd) => match c.phase with
    | .waiting _ _ => if !c.met && pollsObject (cw c 1) c.polled s then some (cw c 1, queueContext c.queue s, 6, c.queue) else none
    | _ => none
  (s.dispatch.queues.flatMap (fun q => q.cmds.filterMap ofCmd)) ++ s.legacy.cmds.filterMap ofCmd ++
  s.dispatch.coreWaits.filterMap (fun w =>
    if !w.isLocal && !w.met && pollsObject w.addr w.polled s then some (w.addr, ((ctlOf w.core s).task.map (·.context)).getD 0xFF, 5, w.core)
    else none)

/-- A waiting command as a poll leaves it. -/
def pollCmd (s : State) (c : Cmd) : Cmd :=
  match c.phase with
  | .waiting t _ =>
    if c.met ∨ onHostPage (cw c 1) s = false then c
    else
      let v := hitchRead (cw c 1) s
      { c with phase := .waiting t (BitVec.ofNat 64 v), met := waitHolds c v, polled := true }
  | _ => c

/-- A core's wait as a poll leaves it. -/
def pollWait (s : State) (w : CoreWait) : CoreWait :=
  if w.isLocal ∨ w.met ∨ onHostPage w.addr s = false then w
  else
    let v := hitchRead w.addr s
    { w with lastSeen := BitVec.ofNat 64 v, met := condHolds w.cond v w.threshold.toNat w.mask.toNat, polled := true }

/-- HOST_POLL: every object in host memory that is waited on is read (R308, R442); one whose page has become absent is a fault of
thread 2 (R414). -/
def execHostPoll (s : State) : Host.Outcome State Fault Refusal :=
  if s.now < s.dispatch.lastPoll + ent Ent.hostPollNs s ∨ hostReachable s = false ∨ threadStalled 547 s = true then .next s
  else
    let l := polledObjects s
    let s := (l.filter (fun o => onHostPage o.1 s)).foldl (fun s o => readObject o.1 s) s
    let s := { s with
      legacy := { s.legacy with cmds := s.legacy.cmds.map (pollCmd s) },
      dispatch := { s.dispatch with
        lastPoll := s.now,
        queues := s.dispatch.queues.map (fun q => { q with cmds := q.cmds.map (pollCmd s) }),
        coreWaits := s.dispatch.coreWaits.map (pollWait s) } }
    .next ((l.filter (fun o => !onHostPage o.1 s)).foldl (fun s o =>
      if threadStalled 547 s then s else stallOn 547 o.2.1 0 o.2.2.1 o.2.2.2 0 0 .read (memCheck o.1 8 .read s) s) s)

/-- HITCH_TIMEOUT of a queue's waiting command, or of a core's HWAIT, that no write has met (R309, R344). -/
def execHitchTimeout (queue core : Option Nat) (s : State) : Host.Outcome State Fault Refusal :=
  let limit := ent Ent.hitchTimeoutNs s
  if dispatchStopped s then .next s
  else match queue, core with
  | some n, _ =>
    .next (match nextCmdOf n s with
      | some c =>
        match c.phase with
        | .waiting t v =>
          if t + limit ≤ s.now ∧ c.met = false then
            raiseJobFault 0x6001 (faultDetail 6 n 4 (cmdTag c) (cmdOpcode c))
              (wbSubmit 0x6001 n [cw c 1, v.toNat, cw c 2] (count Cnt.hitchTimeouts 1 s))
          else s
        | _ => s
      | none => s)
  | none, some k =>
    .next (match s.dispatch.coreWaits.find? (fun w => w.core == k) with
      | some w =>
        if w.since + limit ≤ s.now ∧ w.met = false then
          raiseJobFault 0x6001 (faultDetail 5 k 4 0 0)
            (wbSubmit 0x6001 (0x100 + k) [w.addr, w.lastSeen.toNat, w.threshold.toNat] (count Cnt.hitchTimeouts 1 s))
        else s
      | none => s)
  | none, none =>
    .next (match s.legacy.cmds.find? (fun c => match c.phase with
        | .waiting _ _ => true
        | _ => false) with
      | some c =>
        match c.phase with
        | .waiting t v =>
          if t + limit ≤ s.now ∧ c.met = false then
            let n := ent Ent.legacyQueue s
            raiseJobFault 0x6001 (faultDetail 6 n 4 (cf c 0 15 0) (cmdOpcode c))
              (wbSubmit 0x6001 n [cw c 1, v.toNat, cw c 2] (count Cnt.hitchTimeouts 1 s))
          else s
        | _ => s
      | none => s)

/-! Completion (R301 to R304, R307). -/

/-- Bytes written on path P1 or into device memory, for a queue's record. -/
def recordWrite (n : Nat) (drop : Bool) (va : Nat) (bytes : List Byte) (s : State) : State :=
  match busOf va s with
  | some b => if drop then count Cnt.recordsDropped 1 s else hostWrite (some n) b bytes (hubAccess va bytes.length s)
  | none => moduleWrite 6 va bytes (hubAccess va bytes.length s)

/-- A signal applied at a device virtual address (R307). An add to host memory is a FetchAdd, or, where the host has not enabled
AtomicOp requests, a read followed by a write (R442). -/
def applySignal (drop : Bool) (va : Nat) (store : Bool) (v : Nat) (s : State) : State :=
  match busOf va s with
  | some _ =>
    if drop then count Cnt.recordsDropped 1 s
    else
      let s := hubAccess va 8 s
      hitchSignal va store v (if store || s.hostif.atomicEnable then s else count Cnt.dmaReadBytes 8 s)
  | none => hitchSignal va store v (hubAccess va 8 s)

/-- The completion record of a command, its W1 to W3 and W0 (Table 10.6): `depth` records and `slots` slots in its rings. -/
def completionRecord (n : Nat) (c : Cmd) (written depth slots : Nat) (s : State) : List Byte :=
  let b := fun (f : Bool) (i : Nat) => if f then 2 ^ i else 0
  leBytes 8 (phaseOf written depth * 2 ^ 63 + c.status * 2 ^ 48 + cmdTag c * 2 ^ 32 + c.count % slots * 2 ^ 16 + n) ++
  leBytes 8 (c.reason * 2 ^ 56) ++ leBytes 8 c.result.toNat ++
  leBytes 8 ((s.now - c.fetchedAt) % 2 ^ 32 * 2 ^ 32 + b c.saturated 31 + b c.boundVoid 30 + b c.torn 29)

/-- A completion record is to be written. -/
def needsRecord (c : Cmd) : Bool := !(cb c 51 && c.status == stOk)

/-- The signal of a command is to be applied: not for one refused with BAD_COMMAND or cut off (R296, R596). -/
def needsSignal (c : Cmd) : Bool := cb c 40 && c.reason != 1 && c.status != stRestarted

/-- The module itself takes a queue's completion records away at once: those of its own queues, and those it carries to an
owner (log 36). -/
def moduleRings (n : Nat) (s : State) : Bool := queueClassOf n s == 2 || queueClassOf n s == 3 || queueClassOf n s == 4

/-- The object of a command's signal lies in another module. -/
def farSignal (c : Cmd) (s : State) : Bool := needsSignal c && cb c 38 && cw c 4 / 2 ^ 52 != myModule s

/-- It lies in this module: its device virtual address. -/
def nearSignal (c : Cmd) (s : State) : Option Nat :=
  if needsSignal c && !farSignal c s then some (if cb c 38 then cw c 4 % 2 ^ 52 else cw c 4) else none

/-- The device virtual addresses between which a command and its work may have written device memory: any, for launches and tasks;
the destination of an inline write, of a legacy DMA or of a transfer descriptor; none, for the others. -/
def writesOf (c : Cmd) : Option (Nat × Nat) :=
  let op := cmdOpcode c
  if c.legacy then
    if op = 3 ∨ op = 4 then some (0, 2 ^ 52) else if op = 1 then some (cw c 2, cw c 2 + cf c 3 23 0) else none
  else if op = 1 ∨ op = 7 then some (0, 2 ^ 52)
  else if op = 3 then some (cw c 6, cw c 6 + cf c 7 7 0)
  else if op = 2 then
    let d := c.ext.headD 0
    if (df d 0 63 56 = 0x10 ∨ df d 0 63 56 = 0x11) ∧ df d 0 52 50 = 0 then some (dword d 2, 2 ^ 52) else none
  else none

/-- A command without VIS_ALL completes: for 150 ns reads on other paths may not see yet what it wrote (R301, R440; log 189). -/
def noteFlag (c : Cmd) (s : State) : State :=
  match writesOf c with
  | none => s
  | some r =>
    if cb c 54 then s
    else { s with hostif := { s.hostif with
      unseen := (s.now, r) :: s.hostif.unseen.filter (fun u => decide (s.now < u.1 + 150)),
      hostWrites := s.hostif.hostWrites.filter (fun u => decide (s.now < u.1 + 150)) } }

/-- Steps 2 to 4 of R301 for a command whose fabric signal, if any, is acknowledged. -/
def postCompletion (n : Nat) (c : Cmd) (s : State) : State :=
  let s := match nearSignal c s with
    | some va => applySignal c.drop va (cb c 39) (cw c 5) (noteFlag c s)
    | none => noteFlag c s
  let q := queueOf n s
  let s := if needsRecord c then
      let record := completionRecord n c q.written (depthOf n s) (depthOf n s) s
      ownerCompletion n c.count record <| updQueue n (fun q =>
        { q with written := (q.written + 1) % 2 ^ 32, cqHead := if moduleRings n s then (q.written + 1) % 2 ^ 32 else q.cqHead })
        (recordWrite n c.drop (complAddr n s + 32 * (q.written % depthOf n s)) record s)
    else s
  if cb c 52 then (if c.drop then count Cnt.recordsDropped 1 s else raiseQueueVector n (ent (Ent.queueMsixVector + 256 * n) s) s)
  else s

/-- The completion ring has room (R304). -/
def ringRoom (n : Nat) (s : State) : Bool :=
  decide (((queueOf n s).written + 2 ^ 32 - (queueOf n s).cqHead) % 2 ^ 32 < depthOf n s)

/-- A completion is held by its ring or by the host: its record has no room, or what it sends to host memory finds the host
unreachable (R304, R447). One whose host-bound outputs are dropped needs neither (R449). -/
def completionHeld (n : Nat) (c : Cmd) (s : State) : Bool :=
  !c.drop && ((needsRecord c && !ringRoom n s) || (!hostReachable s &&
    (cb c 52 || (needsRecord c && onHostPage (complAddr n s) s) || (nearSignal c s).any (fun va => onHostPage va s))))

/-- What thread 2's writes for a completion meet first, and the kind of access: its signal, an atomic (R405), then its record. -/
def completionCheck (n : Nat) (c : Cmd) (s : State) : MemCheck × Access :=
  let host := fun (m : MemCheck) => match m with
    | .hostHeld _ => MemCheck.ok
    | m => m
  let a := match nearSignal c s with
    | some va => host (memCheck va 8 .atomic s)
    | none => .ok
  let b := if needsRecord c && !c.drop then
      host (memCheck (complAddr n s + 32 * ((queueOf n s).written % depthOf n s)) 32 .write s)
    else .ok
  if a = .ok then (b, .write) else (a, .atomic)

/-- A command whose fabric signal names a module that is no peer: the signal is refused, and the command with it. -/
def refuseSignal (c : Cmd) (s : State) : Cmd :=
  if farSignal c s ∧ c.signal = 0 ∧ (peerRec (cw c 4 / 2 ^ 52) s).isNone then
    { c with signal := 2, status := if c.status = stOk then stDenied else c.status }
  else c

/-- A completion whose turn it is: its fabric signal is sent first and acknowledged, then its signal, record and interrupt
follow, unless a page holds them (R301, R307). The state, and whether the completion is done. -/
def tryPost (n : Nat) (c : Cmd) (s : State) : State × Bool :=
  if farSignal c s ∧ c.signal = 0 then
    (fabPost (cw c 4 / 2 ^ 52) 4 (if cb c 39 then 1 else 0) (BitVec.ofNat 64 (cw c 4 % 2 ^ 52)) (leBytes 8 (cw c 5)) 0
      (.signal n c.id) (updCmd n c.id (fun c => { c with signal := 1 }) s), false)
  else if farSignal c s ∧ c.signal = 1 then (s, false)
  else if threadStalled 547 s then (s, false)
  else
    let m := completionCheck n c s
    if m.1 = .ok then (postCompletion n c s, true)
    else (stallOn 547 (queueContext n s) 0 6 n (cmdTag c) (cmdOpcode c) m.2 m.1 s, false)

/-- A command completes; behind completions that are held, at a full ring, or while the host it needs is unreachable, it is held,
and its signal with it (R301, R304, R447). -/
def completeCmd (n : Nat) (c : Cmd) (s : State) : State :=
  let c := refuseSignal c s
  let gone := fun s =>
    let s := if cb c 54 && c.status != stRestarted then count Cnt.visAllWaits 1 s else s
    count Cnt.commands 1 (updQueue n (fun q => { q with cmds := q.cmds.filter (fun x => x.id != c.id) }) s)
  if !(queueOf n s).held.isEmpty || completionHeld n c s then
    count Cnt.heldCompletions 1 (updQueue n (fun q => { q with held := q.held ++ [c] }) (gone s))
  else
    let r := tryPost n c s
    if r.2 then gone r.1 else r.1

/-- Held completions written while the ring has room, each once its signal is acknowledged and its pages are there
(R304). -/
def releaseHeld : Nat → Nat → State → State
  | 0, _, s => s
  | fuel + 1, n, s =>
    match (queueOf n s).held with
    | [] => s
    | c :: rest =>
      if completionHeld n c s then s
      else
        let r := tryPost n c s
        if r.2 then releaseHeld fuel n (updQueue n (fun q => { q with held := rest }) r.1) else r.1

/-- A queue with its held completions written as far as they can be, which may let it fetch again (R304). -/
def serveHeld (n : Nat) (s : State) : State := fetchQueue n (releaseHeld ((queueOf n s).held.length) n s)

/-- COMMAND_COMPLETION of a native queue's command, or of the first completion that is held; the legacy interface completes
its own (see `Legacy`). -/
def completeNative (queue cmd : Nat) (s : State) : State :=
  match cmdOfQueue queue cmd s with
  | some c => if c.phase = .finished ∧ dispatchStopped s = false then completeCmd queue c s else s
  | none =>
    if ((queueOf queue s).held.head?).any (fun c => c.id == cmd) then serveHeld queue s else s

/-- CQ_HEAD_DOORBELL. -/
def execCqHeadDoorbell (queue : Nat) (w : HostWrite) (s : State) : Host.Outcome State Fault Refusal :=
  if 64 ≤ queue then .fault .noSuchUnit
  else if s.hostif.flr then .next s
  else match regWrite ((alGet s.hostif.cqHeadReg queue).getD 0) w with
    | none => .next (count Cnt.barBadAccess 1 s)
    | some v =>
      if queueClassOf queue s ≠ 1 then .next s
      else
        let s := updQueue queue (fun q => { q with cqHead := v.toNat % 2 ^ 32 })
          { s with hostif := { s.hostif with cqHeadReg := alSet s.hostif.cqHeadReg queue v } }
        .next (serveHeld queue s)

/-- The rank of a completion status in Table 10.6's order: RESTARTED, DENIED, TIMEOUT, DEFERRED, EARLY_EXIT, OK. -/
def statusRank (st : Nat) : Nat :=
  if st = stRestarted then 0 else if st = stDenied then 1 else if st = stTimeout then 2 else if st = stDeferred then 3
  else if st = stEarlyExit then 4 else 5

/-- Bytes that a carrier of a legacy DMA has delivered: TAG 0 is the first TRANSFER, TAG 1 that of the remainder (R343). -/
def dmaBytes (c : Cmd) (w0 : Nat) : Nat :=
  let b := cf c 3 23 0
  if field w0 47 32 = 0 then field w0 31 0 * (if b ≤ 1048576 then b else 1048576)
  else field w0 31 0 * (b % 1048576)

/-- A carrier of a legacy DMA is done: the command is when the last one is (R343). -/
def dmaDone (c : Cmd) (w0 : Nat) : Cmd :=
  let st := field w0 55 48
  let rest := c.watching.filter (fun x => x.2 != field w0 47 32)
  { c with
    watching := rest, phase := if rest.isEmpty then .finished else c.phase,
    status := if statusRank st < statusRank c.status then st else c.status,
    result := c.result + BitVec.ofNat 64 (dmaBytes c w0) }

/-- Core-ns of a command's descriptor charged to its queue, from its issue to its end (R364; log 167). -/
def chargeDesc (org : Origin) (s : State) : State :=
  match org.issue with
  | some i => chargeQueue org.queue (s.now - i.1) s
  | none => s

/-- A DESCRIPTOR command's engine has written W0 of its status record: the command's outcome (R302). -/
def descriptorDone (org : Origin) (w0 : Nat) (s : State) : State :=
  match org.cmd with
  | none => s
  | some id =>
    let st := field w0 55 48
    updCmd org.queue id (fun c => if c.legacy ∧ cmdOpcode c = 1 then dmaDone c w0 else { c with
      phase := .finished,
      status := if st = stRestarted ∨ st = stDenied ∨ st = stTimeout ∨ st = stDeferred then st else stOk,
      result := BitVec.ofNat 64 w0, torn := st == stTorn, saturated := st == stSaturated,
      boundVoid := st == stBoundVoid }) (chargeDesc org s)

/-- A descriptor that writes no status record, a matrix descriptor with ACC_OUT = 0, has streamed its last tile: the command that
carried it is finished, and W0, which RESULT would hold, does not exist (R302; log 52). -/
def descriptorSilent (org : Origin) (s : State) : State :=
  match org.cmd with
  | none => s
  | some id =>
    drawFree (updCmd org.queue id (fun c => { c with
      phase := .finished, status := stOk, result := Config.freeWord s.free, torn := false, saturated := false,
      boundVoid := false }) (chargeDesc org s))

/-! Enabling and draining (R291, R316). -/

/-- Rings of a REQUEST or INTERNAL queue allocated; none where there is no room. -/
def allocRings (n : Nat) (s : State) : Option State :=
  if queueClassOf n s = 2 ∨ queueClassOf n s = 4 then
    let slots := (64 * depthOf n s + 4095) / 4096
    let recs := (32 * depthOf n s + 4095) / 4096
    match allocModule (slots + recs) false none (0x100 + n) s with
    | some (first, s) => some (updQueue n (fun q =>
        { q with ringAlloc := first * 4096, complAlloc := (first + slots) * 4096, ringBytes := (slots + recs) * 4096 }) s)
    | none => none
  else some s

/-- Device virtual address of the first allocation of a kind. -/
def extentAt (tag : Nat) (s : State) : Nat := ((s.mem.extents.find? (fun e => e.tag == tag)).map (·.first)).getD 0 * 4096

/-- Device virtual address of request buffer b, 128 KiB each (R51). -/
def bufferAt (b : Nat) (s : State) : Nat := extentAt 1 s + b * 131072

/-- The launch command of an admitted request (R51): a payload of at most 256 bytes inline, a larger one by reference to its
buffer. -/
def placeRequest (a : Admitted) (s : State) : State :=
  let n := a.payload.length
  let inl := a.buffer.isNone
  let ext : List (BitVec 512) :=
    if inl then (List.range ((n + 63) / 64)).map (fun i => BitVec.ofNat 512 (leAt a.payload (64 * i) 64))
    else [BitVec.ofNat 512 (n * 2 ^ 64 + bufferAt (a.buffer.getD 0) s)]
  let mode := if n = 0 then 0 else if inl then 1 else 2
  let w := 2 ^ 56 + ext.length * 2 ^ 48 + 3 * 2 ^ 44 + a.seq % 65536 +
    (a.graph * 2 ^ 48 + a.version * 2 ^ 32 + mode * 2 ^ 30 + (if mode = 1 then n else 0)) * 2 ^ 384 +
    a.epoch % 2 ^ 64 * 2 ^ 448
  produceCmd a.queue (BitVec.ofNat 512 w) ext s

/-- The launch commands of admitted requests that wait for their queue to be enabled. -/
def placeWaiting (n : Nat) (s : State) : State :=
  (s.service.admitted.filter (fun a => a.queue == n && a.launch.isNone && !a.bivouac && queueClassOf n s == 2)).foldl
    (fun s a => placeRequest a s) s

/-- The firmware's persistent task handed to the core of an enabled direct queue (R316, R529). -/
def startPersistent (n : Nat) (s : State) : State :=
  if (queueOf n s).state ≠ 4 then s
  else
    let t : TaskRec :=
      { id := s.dispatch.nextTask, launch := none, stage := 0, cmd := none, queue := n, context := queueContext n s,
        graph := 0xFFFF, version := 0, spec := 0, startedAt := s.now, persistent := true, kept := false }
    let p : PendingTask :=
      { core := directCore n s, entry := Config.persistentEntry, arg := Config.freeWord s.free,
        launchWord := Config.freeWord (s.free + 1), task := t }
    { s with
      free := s.free + 2,
      dispatch := { s.dispatch with nextTask := s.dispatch.nextTask + 1, tasks := s.dispatch.tasks ++ [p] } }

/-- Persistent tasks run: the core groups are on and the Postilion is not running (R529). -/
def persistentTime (s : State) : Bool := decide (8 ≤ s.recovery.bootStage) && s.dispatch.postilionState != 2

/-- A queue enabled: counts start at 0 (R292); a direct queue's persistent task starts where the
Postilion does not run (R529). -/
def enableQueue (n : Nat) (s : State) : State :=
  match allocRings n s with
  | none => s
  | some s =>
    let s := placeWaiting n <| updQueue n (fun q => { q with
      state := if directCore n s = 0xFF then 1 else 4, tail := 0, head := 0, cqHead := 0, written := 0, held := [],
      staleReads := none }) (setEnt (Ent.queueEnable + 256 * n) 1 1 s)
    if persistentTime s then startPersistent n s else s

/-- What a write of a queue's ENABLE does. -/
def queueEnableAction (n : Nat) (_ : ReqId) (bytes : List Byte) (s : State) : State :=
  if ofLe bytes = 1 then (if (queueOf n s).state = 0 then enableQueue n s else s)
  else if (queueOf n s).state = 0 ∨ (queueOf n s).state = 3 then setEnt (Ent.queueEnable + 256 * n) 1 0 s
  else
    let direct := (queueOf n s).state = 4
    let s := updQueue n (fun q => { q with state := 3, staleReads := none }) (setEnt (Ent.queueEnable + 256 * n) 1 0 s)
    if direct then directShadow n (queueOf n s).tail true s else s

/-- The rings of an enabled queue could not be allocated (R291). -/
def ringsRefused (queue value : Nat) (s : State) : Bool :=
  value == 1 && (queueOf queue s).state == 0 && (allocRings queue s).isNone

/-- QUEUE_ENABLE. -/
def execQueueEnable (req : ReqId) (queue value : Nat) (s : State) : Host.Outcome State Fault Refusal :=
  if 64 ≤ queue then .fault .noSuchUnit
  else if writeError req (0x2510 + queue) 6 (leBytes 1 value) s = erOk ∧ ringsRefused queue value s = true then
    .next (noteWrite req (0x2510 + queue) 6 erNoResource s)
  else .next (writeVia (queueEnableAction queue) req (0x2510 + queue) 6 (leBytes 1 value) s)

/-- A DRAINING queue has carried out everything it had fetched. -/
def queueDrained (n : Nat) (s : State) : Bool :=
  let q := queueOf n s
  q.state == 3 && q.cmds.isEmpty && q.held.isEmpty &&
  (directCore n s == 0xFF || !(ctlOf (directCore n s) s).task.any (fun t => t.persistent && t.queue == n))

/-- A drained queue becomes OFF and its rings are freed. -/
def queueOff (n : Nat) (s : State) : State :=
  freeExtents (fun e => e.tag == 0x100 + n) (updQueue n (fun q =>
    { q with state := 0, ringAlloc := 0, complAlloc := 0, ringBytes := 0 }) s)

end Sys2Proof.Machine
end

