-- ==== Sys2Proof/Machine/CoreRun.lean ====
section
/-! DEFINITION. How a control core executes an instruction (07, R232 to R239): registers, its partition of core SRAM,
completion, stalls and synchronous exceptions. -/

namespace Sys2Proof.Machine

open Sys2Proof

/-- An integer register; x0 reads 0. -/
def xr (core n : Nat) (s : State) : BitVec 64 := if n = 0 then 0 else (ctlOf core s).x.getD n 0

/-- An integer register written; x0 discards. -/
def setX (core n : Nat) (v : BitVec 64) (s : State) : State :=
  if n = 0 then s else updCtl core (fun k => { k with x := k.x.set n v }) s

/-- Where the work of the task running on a core comes from. -/
def taskOrg (core : Nat) (s : State) : Origin :=
  match (ctlOf core s).task with
  | none => {}
  | some t =>
    { cls := queuePort t.queue s, context := t.context, queue := t.queue, launch := t.launch, stage := t.stage, cmd := none,
      postilion := false }

/-- The task's partition of core SRAM (R233). -/
def taskPart (core : Nat) (s : State) : Nat × Nat := sramPart core (taskOrg core s) s

/-- Instruction fields of the R-type layout (R210). -/
def iOp (w : BitVec 32) : Nat := field w.toNat 6 0
def iRd (w : BitVec 32) : Nat := field w.toNat 11 7
def iF3 (w : BitVec 32) : Nat := field w.toNat 14 12
def iRs1 (w : BitVec 32) : Nat := field w.toNat 19 15
def iRs2 (w : BitVec 32) : Nat := field w.toNat 24 20
def iF7 (w : BitVec 32) : Nat := field w.toNat 31 25
/-- Bit 25, vm. -/
def iVm (w : BitVec 32) : Bool := bitOf w.toNat 25

/-- What an instruction does: it completes and the pc moves, it stalls, it waits in EFENCE, SMRD or HWAIT (Table 7.14), or it
raises a synchronous exception. -/
inductive CoreRes where
  | done (s : State) (pc : BitVec 64)
  | stall (s : State)
  | wait (s : State)
  | exc (cause : Nat)

/-- mcause of the synchronous exceptions (the RISC-V privileged specification, R216). -/
abbrev excFetchMisaligned : Nat := 0
abbrev excFetchAccess : Nat := 1
abbrev excIllegal : Nat := 2
abbrev excBreak : Nat := 3
abbrev excLoadMisaligned : Nat := 4
abbrev excLoadAccess : Nat := 5
abbrev excStoreMisaligned : Nat := 6
abbrev excStoreAccess : Nat := 7
abbrev excEcall : Nat := 11

/-- The pc after a 32-bit instruction. -/
def pc4 (core : Nat) (s : State) : BitVec 64 := (ctlOf core s).pc + 4

/-- A 32-bit instruction has completed. -/
def done4 (core : Nat) (s : State) : CoreRes := .done s (pc4 core s)

/-- SYNC_EXCEPTION: a job fault, with mcause and mepc recorded (R235). -/
def syncException (core cause : Nat) (s : State) : State :=
  let pc := (ctlOf core s).pc
  let s := updCtl core (fun k => { k with mcause := BitVec.ofNat 64 cause, mepc := pc }) s
  let access := cause == excFetchAccess || cause == excLoadAccess || cause == excStoreAccess
  raiseJobFault 0x4001 (faultDetail 5 core (if access then 2 else 3) 0 0) (wbSubmit 0x4001 core [cause, pc.toNat] s)

/-- A retired instruction counted in minstret unless inhibited (R216). -/
def retire (core : Nat) (pc : BitVec 64) (s : State) : State :=
  updCtl core (fun k => { k with
    pc := pc, ccState := if k.ccState = 4 ∨ k.task = none then k.ccState else 2,
    minstret := if k.mcountinhibit.getLsbD 2 then k.minstret else k.minstret + 1 }) s

/-- What a result leaves. -/
def applyRes (core : Nat) (s : State) : CoreRes → State
  | .done s' pc => retire core pc s'
  | .stall s' => updCtl core (fun k => { k with ccState := 2 }) s'
  | .wait s' => updCtl core (fun k => { k with ccState := 3 }) s'
  | .exc c => syncException core c s

/-- An interrupt is pending and enabled by mie (R234). mip bit 7 follows time and TIMECMP. -/
def mipNow (core : Nat) (s : State) : BitVec 64 :=
  let k := ctlOf core s
  (k.mip &&& (1#64 <<< 16)) ||| (if k.timecmp.toNat ≤ s.now then 0x80#64 else 0#64)

def wfiWakes (core : Nat) (s : State) : Bool := (mipNow core s &&& (ctlOf core s).mie) != 0

/-- One instruction of a core: it runs while the core has a task and its group is on, and leaves WFI only for an enabled
interrupt. Its bytes must lie in the partition (R233). -/
def runInstr (core len : Nat) (f : State → CoreRes) (s : State) : State :=
  let k := ctlOf core s
  if k.task = none ∨ coreOn core s = false ∨ (k.ccState = 4 ∧ wfiWakes core s = false) then s
  else
    let s := updCtl core (fun k => { k with ccState := if k.ccState = 4 then 2 else k.ccState }) s
    if k.pc.toNat % 2 = 1 then syncException core excFetchMisaligned s
    else if inPart (taskPart core s) k.pc.toNat len = false then syncException core excFetchAccess s
    else applyRes core s (f s)

/-- The x registers that a 32-bit instruction reads or writes, as far as it has such fields (Tables 7.3 and 7.6). -/
def xFields (w : BitVec 32) : List Nat :=
  let f3 := iF3 w
  let op := iF7 w / 2
  match iOp w with
  | 0x37 | 0x17 | 0x6F => [iRd w]
  | 0x63 | 0x23 => [iRs1 w, iRs2 w]
  | 0x0B =>
    (if f3 ≤ 1 ∨ (f3 = 7 ∧ op ≠ 0) then [iRs1 w] else []) ++
    (if f3 = 1 ∨ f3 = 3 ∨ f3 = 4 ∨ (f3 = 6 ∧ op = 4) ∨ (f3 = 7 ∧ op = 1) then [iRs2 w] else []) ++
    (if f3 = 0 ∨ (f3 = 7 ∧ op = 2) then [iRd w] else [])
  | 0x2B => if f3 = 2 then [iRd w] else [iRd w, iRs1 w, iRs2 w]
  | _ => [iRd w, iRs1 w, iRs2 w]

/-- A queued VTOPK STORE: its x register takes a count when it executes (R221). -/
def storesCount : VqEntry → Option Nat
  | .tensor _ _ => none
  | .instr i => if iF3 i.word = 7 ∧ iF7 i.word / 2 = 2 then some (iRd i.word) else none

/-- An instruction names a register that a queued VTOPK STORE has yet to write (log 165). -/
def awaitsCount (core : Nat) (w : BitVec 32) (s : State) : Bool :=
  (vecOf core s).vqueue.any (fun e => (storesCount e).any (fun r => r != 0 && (xFields w).contains r))

/-- An instruction that waits for the count of a VTOPK STORE before it. -/
def inOrder (core : Nat) (w : BitVec 32) (f : State → CoreRes) (s : State) : CoreRes :=
  if awaitsCount core w s then .stall s else f s

/-- A queued entry stores to core SRAM. -/
def entryStores : VqEntry → Bool
  | .tensor _ _ => false
  | .instr i => (iF3 i.word == 1 && bitOf i.word.toNat 31) || (iF3 i.word == 7 && iF7 i.word / 2 == 2)

/-- A queued entry loads from core SRAM. -/
def entryLoads : VqEntry → Bool
  | .tensor _ _ => false
  | .instr i => iF3 i.word == 1 && !bitOf i.word.toNat 31

/-- A vector store of the program is still queued: what reads core SRAM comes after it (R239). -/
def storesAhead (core : Nat) (s : State) : Bool := (vecOf core s).vqueue.any entryStores

/-- A vector load or store of the program is still queued: what writes core SRAM, and EISSUE, come after it (R239). -/
def memoryAhead (core : Nat) (s : State) : Bool := (vecOf core s).vqueue.any (fun e => entryStores e || entryLoads e)

/-- A command that names a custom instruction: another instruction's word is not that command, and changes nothing. -/
def runCustom (core : Nat) (word : BitVec 32) (is : Bool) (f : State → CoreRes) (s : State) :
    Host.Outcome State Fault Refusal :=
  if 98 ≤ core then .fault .noSuchUnit
  else if is then .next (runInstr core 4 (inOrder core word f) s)
  else .next s

/-- Stores of the running task: all of them, under the obligation of R149 where it is speculative (R237). -/
def taskStore (core : Nat) (ws : List (Nat × List Byte)) (s : State) : State :=
  coreStoreAll core (ctlOf core s).specid ws core 5 0 0 s

end Sys2Proof.Machine
end

