-- ==== Sys2Proof/Machine/Numerics.lean ====
section
/-! DEFINITION. Number formats, conversions and binary32 arithmetic (06, R169 to R180): exact values are formed first and
rounded once at the end. -/

namespace Sys2Proof.Machine

open Sys2Proof

/-! Formats (Tables 6.1 and 7.2). -/

/-- A floating-point format: exponent bits, fraction bits, bias; `kind` 0 has infinities and NaNs, 1 has NaN only (E4M3),
2 has neither (E2M1). -/
structure FFmt where
  eb : Nat
  fb : Nat
  bias : Nat
  kind : Nat
  deriving DecidableEq, Repr

abbrev fmtE4M3 : FFmt := { eb := 4, fb := 3, bias := 7, kind := 1 }
abbrev fmtE5M2 : FFmt := { eb := 5, fb := 2, bias := 15, kind := 0 }
abbrev fmtF16 : FFmt := { eb := 5, fb := 10, bias := 15, kind := 0 }
abbrev fmtBF16 : FFmt := { eb := 8, fb := 7, bias := 127, kind := 0 }
abbrev fmtE2M1 : FFmt := { eb := 2, fb := 1, bias := 1, kind := 2 }
abbrev fmtF32 : FFmt := { eb := 8, fb := 23, bias := 127, kind := 0 }
abbrev fmtAw48 : FFmt := { eb := 9, fb := 38, bias := 227, kind := 0 }

/-- The floating-point format of a vector format code; none for the integer codes. -/
def floatFmt (c : Nat) : Option FFmt :=
  if c = 2 then some fmtE4M3 else if c = 3 then some fmtE5M2 else if c = 4 then some fmtF16
  else if c = 5 then some fmtBF16 else if c = 6 then some fmtE2M1 else if c = 7 then some fmtF32 else none

/-- Bits of an element of a format code. -/
def fmtBits (c : Nat) : Nat := if c = 0 ∨ c = 6 then 4 else if c = 1 ∨ c = 2 ∨ c = 3 then 8 else if c = 4 ∨ c = 5 then 16 else 32

/-- The value of a code of a floating-point format. -/
def decF (k : FFmt) (x : Nat) : FVal :=
  let s := bitOf x (k.eb + k.fb)
  let e := x / 2 ^ k.fb % 2 ^ k.eb
  let m := x % 2 ^ k.fb
  if k.kind = 0 ∧ e = 2 ^ k.eb - 1 then (if m = 0 then .inf s else .nan)
  else if k.kind = 1 ∧ e = 2 ^ k.eb - 1 ∧ m = 2 ^ k.fb - 1 then .nan
  else if e = 0 then .fin s m (1 - (k.bias : Int) - k.fb)
  else .fin s (2 ^ k.fb + m) ((e : Int) - k.bias - k.fb)

/-- An integer as a value. -/
def ofInt (x : Int) : FVal := .fin (decide (x < 0)) x.natAbs 0

/-- The value of an element of a vector format code. -/
def decElem (c x : Nat) : FVal :=
  match floatFmt c with
  | some k => decF k x
  | none =>
    if c = 0 then ofInt (signed 4 x) else if c = 1 then ofInt (signed 8 x) else if c = 8 then ofInt (signed 32 x)
    else ofInt (x % 2 ^ 32 : Nat)

/-- The value of an E8M0 code. -/
def decE8M0 (x : Nat) : FVal := if x = 255 then .nan else .fin false 1 ((x : Int) - 127)

/-- The value of a scale: SCALE_FMT 0 BF16, 1 F16, 2 E8M0. -/
def decScale (c x : Nat) : FVal := if c = 0 then decF fmtBF16 x else if c = 1 then decF fmtF16 x else decE8M0 x

/-- Bytes of a scale. -/
def scaleBytes (c : Nat) : Nat := if c = 2 then 1 else 2

/-! Rounding (R174). -/

/-- n / d to the nearest integer, ties to even. -/
def rne (n d : Nat) : Nat :=
  let q := n / d
  let r := n % d
  if d < 2 * r ∨ (2 * r = d ∧ q % 2 = 1) then q + 1 else q

/-- m × 2^e as a rounded integer magnitude. -/
def intMag (m : Nat) (e : Int) : Nat := if 0 ≤ e then m * 2 ^ e.toNat else rne m (2 ^ (-e).toNat)

/-- The magnitude code of m × 2^e in a format with an unbounded exponent, rounded to nearest, ties to even. -/
def magCode (k : FFmt) (m : Nat) (e : Int) : Nat :=
  if m = 0 then 0
  else
    let qmin : Int := 1 - (k.bias : Int) - k.fb
    let q : Int := max (e + (Nat.log2 m : Int) - k.fb) qmin
    (q - qmin).toNat * 2 ^ k.fb + intMag m (e - q)

/-- The code of the largest finite value. -/
def maxCode (k : FFmt) : Nat :=
  if k.kind = 0 then (2 ^ k.eb - 1) * 2 ^ k.fb - 1 else if k.kind = 1 then 2 ^ (k.eb + k.fb) - 2 else 2 ^ (k.eb + k.fb) - 1

/-- The canonical NaN (R171). -/
def nanCode (k : FFmt) : Nat :=
  if k.kind = 0 then (2 ^ k.eb - 1) * 2 ^ k.fb + 2 ^ (k.fb - 1) else if k.kind = 1 then 2 ^ (k.eb + k.fb) - 1 else 0

/-- The sign bit in place. -/
def signBit (k : FFmt) (neg : Bool) : Nat := if neg then 2 ^ (k.eb + k.fb) else 0

/-- A value rounded into a format under IEEE 754: overflow gives an infinity. -/
def encIeee (k : FFmt) : FVal → Nat
  | .nan => nanCode k
  | .inf s => signBit k s + (2 ^ k.eb - 1) * 2 ^ k.fb
  | .fin s m e => signBit k s + Nat.min (magCode k m e) (maxCode k + 1)

/-- |a × 2^ea| exceeds |b × 2^eb|. -/
def magGt (a : Nat) (ea : Int) (b : Nat) (eb : Int) : Bool :=
  let e := min ea eb
  decide (b * 2 ^ (eb - e).toNat < a * 2 ^ (ea - e).toNat)

/-- The exponents of a value m × 2^e lie so high that it exceeds a format's largest finite value. -/
def aboveMax (k : FFmt) (m : Nat) (e : Int) : Bool :=
  match decF k (maxCode k) with
  | .fin _ mm me => magGt m e mm me
  | _ => false

/-- What a conversion gives: the code, and whether the element counts as saturated, as a NaN converted to zero, and as one that
0x5400:02 counts (R177, R204; log 102). -/
structure Conv where
  code : Nat
  sat : Bool := false
  nan0 : Bool := false
  narrow : Bool := false
  deriving DecidableEq, Repr

/-- A conversion to an integer of n bits that saturates at a range (R174, R175, R177). -/
def convInt (bits : Nat) (lo hi : Int) : FVal → Conv
  | .nan => { code := 0, sat := true, nan0 := true, narrow := decide (bits ≤ 8) }
  | .inf s => { code := unsigned bits (if s then lo else hi), sat := true }
  | .fin s m e =>
    let r : Int := if s then -(intMag m e : Int) else intMag m e
    let big := if s then magGt m e lo.natAbs 0 else magGt m e hi.natAbs 0
    { code := unsigned bits (max lo (min hi r)), sat := big }

/-- A conversion to a narrow floating-point format: saturating (R175, R177). -/
def convFloat (k : FFmt) : FVal → Conv
  | .nan => if k.kind = 2 then { code := 0, sat := true, nan0 := true, narrow := true } else { code := nanCode k }
  | .inf s => { code := signBit k s + maxCode k, sat := true }
  | .fin s m e =>
    if aboveMax k m e then { code := signBit k s + maxCode k, sat := true } else { code := signBit k s + magCode k m e }

/-- A conversion into a vector format code; F32 does not saturate (R175). -/
def convTo (c : Nat) (v : FVal) : Conv :=
  if c = 7 then { code := encIeee fmtF32 v }
  else match floatFmt c with
    | some k => convFloat k v
    | none =>
      if c = 0 then convInt 4 (-8) 7 v else if c = 1 then convInt 8 (-128) 127 v
      else if c = 8 then convInt 32 (-2147483648) 2147483647 v else convInt 32 0 4294967295 v

/-! Exact arithmetic on values. -/

def fneg : FVal → FVal
  | .nan => .nan
  | .inf s => .inf (!s)
  | .fin s m e => .fin (!s) m e

def fabs : FVal → FVal
  | .nan => .nan
  | .inf _ => .inf false
  | .fin _ m e => .fin false m e

/-- The exact product. -/
def fmul : FVal → FVal → FVal
  | .nan, _ => .nan
  | _, .nan => .nan
  | .inf s, .inf t => .inf (s != t)
  | .inf s, .fin t m _ => if m = 0 then .nan else .inf (s != t)
  | .fin s m _, .inf t => if m = 0 then .nan else .inf (s != t)
  | .fin s m e, .fin t n f => .fin (s != t) (m * n) (e + f)

/-- The exact sum; a sum of opposite values is +0 under round to nearest. -/
def fadd : FVal → FVal → FVal
  | .nan, _ => .nan
  | _, .nan => .nan
  | .inf s, .inf t => if s = t then .inf s else .nan
  | .inf s, .fin _ _ _ => .inf s
  | .fin _ _ _, .inf t => .inf t
  | .fin s m e, .fin t n f =>
    let g := min e f
    let a : Int := if s then -((m * 2 ^ (e - g).toNat : Nat) : Int) else (m * 2 ^ (e - g).toNat : Nat)
    let b : Int := if t then -((n * 2 ^ (f - g).toNat : Nat) : Int) else (n * 2 ^ (f - g).toNat : Nat)
    let r := a + b
    .fin (if r = 0 then s && t else decide (r < 0)) r.natAbs g

/-- A quotient carried far enough, with a sticky bit, to be rounded once to any format of 24 significant bits or fewer. -/
def fdiv : FVal → FVal → FVal
  | .nan, _ => .nan
  | _, .nan => .nan
  | .inf _, .inf _ => .nan
  | .inf s, .fin t _ _ => .inf (s != t)
  | .fin s _ e, .inf t => .fin (s != t) 0 e
  | .fin s m e, .fin t n f =>
    if n = 0 then (if m = 0 then .nan else .inf (s != t))
    else
      let k := 64 + Nat.log2 n
      let q := m * 2 ^ k / n
      .fin (s != t) (2 * q + (if m * 2 ^ k % n = 0 then 0 else 1)) (e - f - k - 1)

/-- The integer square root, by bits. -/
def isqrt : Nat → Nat → Nat
  | 0, _ => 0
  | fuel + 1, n =>
    let r := 2 * isqrt fuel (n / 4)
    if (r + 1) * (r + 1) ≤ n then r + 1 else r

/-- A square root carried far enough, with a sticky bit. -/
def fsqrt : FVal → FVal
  | .nan => .nan
  | .inf s => if s then .nan else .inf false
  | .fin s m e =>
    if m = 0 then .fin s 0 e
    else if s then .nan
    else
      let m' := if e % 2 = 0 then m * 2 ^ 64 else m * 2 ^ 65
      let e' := if e % 2 = 0 then e - 64 else e - 65
      let r := isqrt 64 m'
      .fin false (2 * r + (if r * r = m' then 0 else 1)) (e' / 2 - 1)

/-- A value multiplied by a power of two. -/
def fscale (k : Int) : FVal → FVal
  | .fin s m e => .fin s m (e + k)
  | v => v

/-- Rank of a value that is not a NaN: infinities below and above, then the exact order. -/
def flt : FVal → FVal → Bool
  | .nan, _ => false
  | _, .nan => false
  | .inf s, .inf t => s && !t
  | .inf s, _ => s
  | _, .inf t => !t
  | .fin s m e, .fin t n f =>
    let g := min e f
    let a : Int := if s then -((m * 2 ^ (e - g).toNat : Nat) : Int) else (m * 2 ^ (e - g).toNat : Nat)
    let b : Int := if t then -((n * 2 ^ (f - g).toNat : Nat) : Int) else (n * 2 ^ (f - g).toNat : Nat)
    decide (a < b)

def isNan : FVal → Bool
  | .nan => true
  | _ => false

/-- Equality of values; −0 equals +0, a NaN equals nothing. -/
def feq (a b : FVal) : Bool := !isNan a && !isNan b && !flt a b && !flt b a

def isNeg : FVal → Bool
  | .nan => false
  | .inf s => s
  | .fin s _ _ => s

/-- The larger value: NaN if either is; +0 above −0 (Table 7.4). -/
def fmax (a b : FVal) : FVal :=
  if isNan a || isNan b then .nan else if flt a b then b else if flt b a then a else if isNeg a then b else a

/-- The smaller value, with the same rules. -/
def fmin (a b : FVal) : FVal :=
  if isNan a || isNan b then .nan else if flt a b then a else if flt b a then b else if isNeg a then a else b

/-! Binary32 (R172). -/

/-- A binary32 code's value. -/
def val32 (x : BitVec 32) : FVal := decF fmtF32 x.toNat

/-- A value rounded to binary32. -/
def enc32 (v : FVal) : BitVec 32 := BitVec.ofNat 32 (encIeee fmtF32 v)

def add32 (a b : BitVec 32) : BitVec 32 := enc32 (fadd (val32 a) (val32 b))
def sub32 (a b : BitVec 32) : BitVec 32 := enc32 (fadd (val32 a) (fneg (val32 b)))
def mul32 (a b : BitVec 32) : BitVec 32 := enc32 (fmul (val32 a) (val32 b))
def div32 (a b : BitVec 32) : BitVec 32 := enc32 (fdiv (val32 a) (val32 b))
def fma32 (a b c : BitVec 32) : BitVec 32 := enc32 (fadd (fmul (val32 a) (val32 b)) (val32 c))
def max32 (a b : BitVec 32) : BitVec 32 := enc32 (fmax (val32 a) (val32 b))
def min32 (a b : BitVec 32) : BitVec 32 := enc32 (fmin (val32 a) (val32 b))
def sqrt32 (a : BitVec 32) : BitVec 32 := enc32 (fsqrt (val32 a))

/-- A binary32 code is a positive finite number. -/
def posFinite32 (x : BitVec 32) : Bool :=
  match val32 x with
  | .fin s m _ => !s && m != 0
  | _ => false

abbrev negInf32 : BitVec 32 := 0xFF800000#32
abbrev posInf32 : BitVec 32 := 0x7F800000#32

/-! Aw48 (R180). -/

/-- The value of an accumulator entry. -/
def valAw (x : BitVec 48) : FVal := decF fmtAw48 x.toNat

/-- A value rounded to Aw48, and whether it overflows; an overflowing value is left at ± the largest finite one (R191). -/
def roundAw (v : FVal) : BitVec 48 × Bool :=
  match v with
  | .fin s m e =>
    let c := magCode fmtAw48 m e
    (BitVec.ofNat 48 (signBit fmtAw48 s + Nat.min c (maxCode fmtAw48)), decide (maxCode fmtAw48 < c))
  | _ => (BitVec.ofNat 48 (encIeee fmtAw48 v), false)

/-- Aw48 to F32: finite values beyond the range saturate and count (R176). -/
def awTo32 (x : BitVec 48) : BitVec 32 × Bool :=
  match valAw x with
  | .fin s m e =>
    let c := convFloat fmtF32 (.fin s m e)
    (BitVec.ofNat 32 c.code, c.sat)
  | v => (enc32 v, false)

/-! Packed elements. -/

/-- Element i of a packed byte list in a format code (Table 3.2: the lower-numbered 4-bit element in bits [3:0]). -/
def packedAt (bs : List Byte) (c i : Nat) : Nat :=
  if fmtBits c = 4 then (bs.getD (i / 2) 0).toNat / (if i % 2 = 0 then 1 else 16) % 16
  else leAt bs (i * (fmtBits c / 8)) (fmtBits c / 8)

/-- Codes of a 4-bit format packed two to a byte. -/
def packNibbles : List Nat → List Byte
  | [] => []
  | [a] => [BitVec.ofNat 8 (a % 16)]
  | a :: b :: t => BitVec.ofNat 8 (a % 16 + 16 * (b % 16)) :: packNibbles t

/-- Codes of a format packed into bytes. -/
def packCodes (c : Nat) (l : List Nat) : List Byte :=
  if fmtBits c = 4 then packNibbles l else (l.map (leBytes (fmtBits c / 8))).foldr (· ++ ·) []

/-- The vector format code of an OUT_FMT code 0 to 4 (Table 3.5). -/
def outFmt (o : Nat) : Nat := if o = 0 then 7 else if o = 1 then 5 else if o = 2 then 4 else if o = 3 then 2 else 1

/-- A drained or pooled F32 value converted to OUT_FMT; F32 is left as it is (R176, Table 3.5). -/
def convOut (o : Nat) (x : BitVec 32) : Conv := if o = 0 then { code := x.toNat } else convTo (outFmt o) (val32 x)

/-- Saturations and NaNs of converted elements counted module-wide (R197, R204). -/
def countConv (l : List Conv) (s : State) : State :=
  let sat := l.countP (·.sat)
  let nan := l.countP (·.narrow)
  let s := countSat sat s
  if nan = 0 then s else count Cnt.nanToZero nan s

end Sys2Proof.Machine
end

