-- ==== Sys2Proof/Machine/Elementary.lean ====
section
/-! DEFINITION. The elementary functions of the vector engine (07, R213 and R222): each function to many more bits than binary32
has, and which binary32 values lie within 2 ulp of it. -/

namespace Sys2Proof.Machine

open Sys2Proof

/-! Numbers in units of 2^-192. -/

/-- One, in units of 2^-192. -/
def fxOne : Nat := 2 ^ 192

/-- The natural logarithm of 2, in units of 2^-192. -/
def fxLn2 : Nat := 0xb17217f7d1cf79abc9e3b39803f2f6af40f343267298b62d

/-- The magnitude of a value in units of 2^-k, rounded down. -/
def fxMag (k : Nat) : FVal → Nat
  | .fin _ m e => if -(k : Int) ≤ e then m * 2 ^ (e + k).toNat else m / 2 ^ (-(e + k)).toNat
  | _ => 0

/-- e^t for 0 ≤ t < 1, by its power series. -/
def fxExp (t : Nat) : Nat := (List.range 48).foldr (fun n acc => fxOne + t * acc / (fxOne * (n + 1))) fxOne

/-- ln((1 + z) / (1 - z)) for 0 ≤ z ≤ 1/3, by its power series. -/
def fxLog (z : Nat) : Nat :=
  2 * (z * (List.range 64).foldr (fun n acc => fxOne / (2 * n + 1) + z * z / fxOne * acc / fxOne) 0 / fxOne)

/-! The functions. -/

/-- 2^y for y in units of 2^-192; below 2^-300 the result is a magnitude that rounds to 0. -/
def exp2Of (y : Int) : FVal :=
  let y := max y (-(300 * fxOne : Nat))
  .fin false (fxExp ((y % fxOne).toNat * fxLn2 / fxOne)) (y / fxOne - 192)

/-- A value in units of 2^-192, large ones cut to 2^12. -/
def fxInt (v : FVal) : Int :=
  match v with
  | .fin s m e =>
    let a := if 12 ≤ e + (Nat.log2 m : Nat) then 4096 * fxOne else fxMag 192 (.fin s m e)
    if s then -(a : Int) else a
  | _ => 0

/-- e^x. -/
def expOf (x : FVal) : FVal := exp2Of (fxInt x * fxOne / fxLn2)

/-- log2 of a positive value. -/
def log2Of : FVal → FVal
  | .fin _ m e =>
    let n := Nat.log2 m
    let r : Int := (e + n) * fxOne + (fxLog ((m - 2 ^ n) * fxOne / (m + 2 ^ n)) * fxOne / fxLn2 : Nat)
    .fin (decide (r < 0)) r.natAbs (-192)
  | v => v

/-- tanh x; below 2^-40 it is x to more bits than are asked for. -/
def tanhOf : FVal → FVal
  | .fin s m e =>
    if m = 0 ∨ e + (Nat.log2 m : Nat) < -40 then .fin s m e
    else
      let u := fxMag 192 (exp2Of (-(2 * (fxInt (.fin false m e))) * fxOne / fxLn2))
      .fin s ((fxOne - u) * fxOne / (fxOne + u)) (-192)
  | v => v

/-- 1 / (1 + e^-x). -/
def sigmoidOf : FVal → FVal
  | .fin s m e =>
    let g := exp2Of (-(fxInt (.fin false m e)) * fxOne / fxLn2)
    let u := fxMag 192 g
    if s then
      (match g with
       | .fin _ a k => .fin false (a * fxOne / (fxOne + u)) k
       | v => v)
    else .fin false (fxOne * fxOne / (fxOne + u)) (-192)
  | v => v

/-- The function of a VUN code of Table 7.5 at a finite argument of its domain. -/
def elementary (op : Nat) (x : FVal) : FVal :=
  if op = 8 then exp2Of (fxInt x)
  else if op = 9 then expOf x
  else if op = 0xA then log2Of x
  else if op = 0xB then fdiv (ofInt 1) x
  else if op = 0xC then fdiv (ofInt 1) (fsqrt x)
  else if op = 0xE then tanhOf x
  else sigmoidOf x

/-- ⌊log2 of a finite nonzero magnitude⌋. -/
def floorLog2 : FVal → Int
  | .fin _ m e => e + (Nat.log2 m : Nat)
  | _ => 0

/-- A value lies within 2 ulp of binary32 of another, given to many more bits. -/
def within2Ulp (w ref : FVal) : Bool :=
  match w, ref with
  | .fin s m e, .fin t n f =>
    let k : Int := if n = 0 then -126 else max (floorLog2 (.fin t n f)) (-126)
    decide (fxMag 400 (fadd (.fin s m e) (fneg (.fin t n f))) ≤ 2 ^ (k + 378).toNat + 2 ^ (k + 338).toNat)
  | _, _ => false

/-- The implementation's result of a function: any value within 2 ulp (R222; log 103). -/
def nearResult (op : Nat) (x : BitVec 32) (ref : FVal) : BitVec 32 :=
  if within2Ulp (val32 (Config.transcendental op x)) ref then Config.transcendental op x else enc32 ref

end Sys2Proof.Machine
end

