-- ==== Sys2Proof/Machine/Vector.lean ====
section
/-! DEFINITION. The vector engine's instructions (07, R205 to R223): lengths, loads and stores, element operations,
conversions, reductions and the top-k unit. -/

namespace Sys2Proof.Machine

open Sys2Proof

/-! Registers and elements (R205, R208, R217). -/

/-- Bits of a vector register: a quarter on the Bivouac (R208). -/
def vBits (core : Nat) : Nat := if core < 96 then 4096 else 1024

/-- VLMAX of a format. -/
def vlMax (core c : Nat) : Nat := vBits core / fmtBits c

/-- A vector register. -/
def vr (core n : Nat) (s : State) : BitVec 4096 := (vecOf core s).v.getD n 0

def setV (core n : Nat) (v : BitVec 4096) (s : State) : State := updVec core (fun k => { k with v := k.v.set n v }) s

/-- Element e of a register in w-bit elements. -/
def vElem (w e : Nat) (v : BitVec 4096) : Nat := v.toNat / 2 ^ (w * e) % 2 ^ w

/-- A register with element e replaced. -/
def vPut (w e x : Nat) (v : BitVec 4096) : BitVec 4096 :=
  (v &&& ~~~(BitVec.ofNat 4096 (2 ^ w - 1) <<< (w * e))) ||| (BitVec.ofNat 4096 (x % 2 ^ w) <<< (w * e))

/-- Elements replaced: (number, value). -/
def vPuts (w : Nat) (l : List (Nat × Nat)) (v : BitVec 4096) : BitVec 4096 := l.foldl (fun v p => vPut w p.1 p.2 v) v

/-- The elements an instruction processes: 0 to VL − 1, under v0 where vm = 1 (R217). -/
def active (core : Nat) (vm : Bool) (s : State) : List Nat :=
  (List.range (vecOf core s).vl).filter (fun e => !vm || (vr core 0 s).getLsbD e)

/-- A vector instruction counted. -/
def vDone (core : Nat) (s : State) : CoreRes := done4 core (count Cnt.vectorInstructions 1 s)

/-- Cycles that a vector load or store waits below the array path while tiles have yet to stream, a free value (R207; log 165). -/
def vecSramWait (core : Nat) (s : State) : State :=
  if (matOf core s).chains.any (fun c => c.descs.any (fun e => !e.done)) then
    count Cnt.vecSramWaitCycles (Config.freeWord s.free).toNat (drawFree s)
  else s

/-- A vector instruction passed to the engine: it executes at once, or in its place behind the vector tensor descriptors of
the queue, which takes it unless it is full (R205, R226). Its integer operands, VL and VFMT go with it (log 165). -/
def viaQueue (core : Nat) (w : BitVec 32) (f : State → CoreRes) (s : State) : CoreRes :=
  let k := vecOf core s
  if k.vqueue.isEmpty then f s
  else match f s with
    | .exc 2 => .exc 2
    | _ =>
      if 16 ≤ k.vqueue.length then .stall s
      else done4 core (updVec core (fun k => { k with vqueue := k.vqueue ++ [.instr
        { word := w, pc := (ctlOf core s).pc, a := xr core (iRs1 w) s, b := xr core (iRs2 w) s, vl := k.vl, vfmt := k.vfmt }] }) s)

/-- Format codes that are defined (Table 7.2). -/
def fmtOk (c : Nat) : Bool := decide (c ≤ 9)

/-! VSETL, VLD, VST. -/

/-- VSETL (Table 7.3). -/
def opVsetl (core : Nat) (w : BitVec 32) (s : State) : CoreRes :=
  let c := iF7 w % 16
  if iF7 w / 16 ≠ 0 ∨ iRs2 w ≠ 0 ∨ fmtOk c = false then .exc excIllegal
  else
    let vl := if iRs1 w = 0 then vlMax core c else Nat.min (xr core (iRs1 w) s).toNat (vlMax core c)
    vDone core (setX core (iRd w) (BitVec.ofNat 64 vl) (updVec core (fun k => { k with vl := vl, vfmt := c }) s))

def execVsetl (core : Nat) (word : BitVec 32) (s : State) : Host.Outcome State Fault Refusal :=
  runCustom core word (iOp word == 0x0B && iF3 word == 0) (opVsetl core word) s

/-- The byte address of element e of a load or store, as an exact number; 4-bit elements of a unit-stride access share a
byte (R211; strided 4-bit elements: log 26). -/
def vAddr (core : Nat) (w : BitVec 32) (e : Nat) (s : State) : Nat :=
  let base := (xr core (iRs1 w) s).toNat
  let bits := fmtBits (vecOf core s).vfmt
  if bitOf w.toNat 30 then (base + e * (xr core (iRs2 w) s).toNat) % 2 ^ 64 else base + e * bits / 8

/-- Which 4-bit half of its byte an element is. -/
def vHalf (core : Nat) (w : BitVec 32) (e : Nat) (s : State) : Nat :=
  if fmtBits (vecOf core s).vfmt = 4 ∧ bitOf w.toNat 30 = false then e % 2 else 0

/-- Bytes of an element, at least one. -/
def vBytes (core : Nat) (s : State) : Nat := Nat.max 1 (fmtBits (vecOf core s).vfmt / 8)

/-- A load or store encoding's zero fields (Table 7.3). -/
def vMemOk (w : BitVec 32) : Bool := field w.toNat 29 26 == 0 && (bitOf w.toNat 30 || iRs2 w == 0)

/-- VLD (R217). -/
def opVld (core : Nat) (w : BitVec 32) (s : State) : CoreRes :=
  let es := active core (iVm w) s
  let n := vBytes core s
  let bits := fmtBits (vecOf core s).vfmt
  if vMemOk w = false then .exc excIllegal
  else if es.all (fun e => inPart (taskPart core s) (vAddr core w e s) n) = false then .exc excLoadAccess
  else
    let l := es.map (fun e => (e, ofLe (sramRead core (vAddr core w e s) n s) / 16 ^ vHalf core w e s))
    vDone core (vecSramWait core (sramErrors core (setV core (iRd w) (vPuts bits l (vr core (iRd w) s)) s)))

def execVld (core : Nat) (word : BitVec 32) (s : State) : Host.Outcome State Fault Refusal :=
  runCustom core word (iOp word == 0x0B && iF3 word == 1 && !bitOf word.toNat 31) (viaQueue core word (opVld core word)) s

/-- The writes of a store, in element order; 4-bit elements are merged into the bytes they share. -/
def vstWrites (core : Nat) (w : BitVec 32) (s : State) : List (Nat × List Byte) :=
  let bits := fmtBits (vecOf core s).vfmt
  let l := (active core (iVm w) s).map (fun e => (vAddr core w e s, vHalf core w e s, vElem bits e (vr core (iRd w) s)))
  if bits = 4 then
    (l.foldl (fun (m : SMem × List (Nat × List Byte)) p =>
      let old := if m.2.any (fun q => q.1 == p.1) then (memGet m.1 p.1).toNat else ofLe (sramRead core p.1 1 s)
      let b := BitVec.ofNat 8 (if p.2.1 = 0 then old / 16 * 16 + p.2.2 else old % 16 + 16 * p.2.2)
      (memSet m.1 p.1 b, m.2 ++ [(p.1, [b])])) ([], [])).2
  else l.map (fun p => (p.1, leBytes (bits / 8) p.2.2))

/-- VST (R217). -/
def opVst (core : Nat) (w : BitVec 32) (s : State) : CoreRes :=
  if vMemOk w = false then .exc excIllegal
  else if (active core (iVm w) s).all (fun e => inPart (taskPart core s) (vAddr core w e s) (vBytes core s)) = false then
    .exc excStoreAccess
  else vDone core (vecSramWait core (taskStore core (vstWrites core w s) s))

def execVst (core : Nat) (word : BitVec 32) (s : State) : Host.Outcome State Fault Refusal :=
  runCustom core word (iOp word == 0x0B && iF3 word == 1 && bitOf word.toNat 31) (viaQueue core word (opVst core word)) s

/-! Element operations (Tables 7.4 and 7.5). -/

/-- Canonical NaN code of a format; 0 where it has none. -/
def fmtNan (c : Nat) : Nat := match floatFmt c with
  | some k => nanCode k
  | none => 0

/-- An element is a NaN. -/
def elemNan (c x : Nat) : Bool := isNan (decElem c x)

/-- The larger or smaller of two elements, by code (Table 7.4). -/
def elemMax (c a b : Nat) : Nat :=
  let x := decElem c a
  let y := decElem c b
  if isNan x || isNan y then fmtNan c else if flt x y then b else if flt y x then a else if isNeg x then b else a

def elemMin (c a b : Nat) : Nat :=
  let x := decElem c a
  let y := decElem c b
  if isNan x || isNan y then fmtNan c else if flt x y then a else if flt y x then b else if isNeg x then a else b

/-- The sign bit of a signed format flipped or cleared in a code that is no NaN; integers negated modulo their width. -/
def elemNeg (c x : Nat) : Nat :=
  match floatFmt c with
  | some k => if isNan (decF k x) then nanCode k else x ^^^ 2 ^ (fmtBits c - 1)
  | none => unsigned (fmtBits c) (-(signed (fmtBits c) x))

def elemAbs (c x : Nat) : Nat :=
  match floatFmt c with
  | some k => if isNan (decF k x) then nanCode k else x % 2 ^ (fmtBits c - 1)
  | none => if signed (fmtBits c) x < 0 then elemNeg c x else x

/-- A VOP operation is defined for a format (Table 7.4); `vx` for VOP.VX. -/
def vopOk (op c : Nat) (vx : Bool) : Bool :=
  if op ≤ 2 then decide (7 ≤ c) else if op = 3 ∨ op = 6 then c == 7
  else if op = 4 ∨ op = 5 ∨ op = 8 ∨ op = 9 ∨ op = 0xA ∨ op = 0x10 ∨ op = 0x11 ∨ op = 0x12 ∨ op = 0x14 then true
  else if op = 0xB ∨ op = 0xC ∨ op = 0xD then decide (8 ≤ c)
  else if op = 0x18 then vx && decide (8 ≤ c) else op == 0x19 && vx

/-- a op b on element codes of a format: `old` is vd[e], `m` bit e of v0, `e` the element (Table 7.4). -/
def vopElem (op c a b old e : Nat) (m : Bool) : Nat :=
  let w := fmtBits c
  let f := fun (g : BitVec 32 → BitVec 32 → BitVec 32) => (g (BitVec.ofNat 32 a) (BitVec.ofNat 32 b)).toNat
  if op = 0 then (if c = 7 then f add32 else (a + b) % 2 ^ 32)
  else if op = 1 then (if c = 7 then f sub32 else (a + 2 ^ 32 - b) % 2 ^ 32)
  else if op = 2 then (if c = 7 then f mul32 else a * b % 2 ^ 32)
  else if op = 3 then (fma32 (BitVec.ofNat 32 a) (BitVec.ofNat 32 b) (BitVec.ofNat 32 old)).toNat
  else if op = 4 then elemMax c a b
  else if op = 5 then elemMin c a b
  else if op = 6 then f div32
  else if op = 8 then a &&& b
  else if op = 9 then a ||| b
  else if op = 0xA then a ^^^ b
  else if op = 0xB then a * 2 ^ (b % 32) % 2 ^ 32
  else if op = 0xC then a / 2 ^ (b % 32)
  else if op = 0xD then unsigned 32 (signed 32 a / (2 ^ (b % 32) : Nat))
  else if op = 0x10 then (if feq (decElem c a) (decElem c b) then 1 else 0)
  else if op = 0x11 then (if flt (decElem c a) (decElem c b) then 1 else 0)
  else if op = 0x12 then (if flt (decElem c a) (decElem c b) || feq (decElem c a) (decElem c b) then 1 else 0)
  else if op = 0x14 then (if m then b else a)
  else if op = 0x18 then (b + e) % 2 ^ 32
  else b % 2 ^ w

/-- A comparison: its results are bits (Table 7.4). -/
def isCompare (op : Nat) : Bool := op == 0x10 || op == 0x11 || op == 0x12

/-- A comparison's register: processed bits set, bits at and beyond VL cleared (R212; log 202 for CMPLT and CMPLE). -/
def putBits (l : List (Nat × Nat)) (vl : Nat) (v : BitVec 4096) : BitVec 4096 :=
  vPuts 1 l (v &&& BitVec.ofNat 4096 (2 ^ vl - 1))

/-- VOP with operand B given per element. -/
def vop (core : Nat) (w : BitVec 32) (vx : Bool) (b : Nat → Nat) (s : State) : CoreRes :=
  let k := vecOf core s
  let op := iF7 w / 2
  let c := k.vfmt
  if vopOk op c vx = false ∨ ((op = 0x18 ∨ op = 0x19) ∧ iRs1 w ≠ 0) then .exc excIllegal
  else
    let bits := fmtBits c
    let old := vr core (iRd w) s
    let l := (active core (iVm w) s).map (fun e =>
      (e, vopElem op c (vElem bits e (vr core (iRs1 w) s)) (b e) (vElem bits e old) e ((vr core 0 s).getLsbD e)))
    let new := if isCompare op then putBits l k.vl old else vPuts bits l old
    vDone core (setV core (iRd w) new s)

/-- VOP.VV (R212). -/
def opVopVv (core : Nat) (w : BitVec 32) (s : State) : CoreRes :=
  vop core w false (fun e => vElem (fmtBits (vecOf core s).vfmt) e (vr core (iRs2 w) s)) s

def execVopVv (core : Nat) (word : BitVec 32) (s : State) : Host.Outcome State Fault Refusal :=
  runCustom core word (iOp word == 0x0B && iF3 word == 2) (viaQueue core word (opVopVv core word)) s

/-- VOP.VX (R212). -/
def opVopVx (core : Nat) (w : BitVec 32) (s : State) : CoreRes :=
  vop core w true (fun _ => (xr core (iRs2 w) s).toNat % 2 ^ fmtBits (vecOf core s).vfmt) s

def execVopVx (core : Nat) (word : BitVec 32) (s : State) : Host.Outcome State Fault Refusal :=
  runCustom core word (iOp word == 0x0B && iF3 word == 3) (viaQueue core word (opVopVx core word)) s

/-- A VUN operation is defined for a format (Table 7.5). -/
def vunOk (op c : Nat) : Bool :=
  if op = 0 then true else if op ≤ 3 then c != 9 else decide (8 ≤ op) && decide (op ≤ 0xF) && c == 7

/-- An exact integer within the range of binary32 exponents, as EXP2 needs it (R222). -/
def asInt : FVal → Option Int
  | .fin s m e =>
    let i := if 0 ≤ e then m * 2 ^ e.toNat else m / 2 ^ (-e).toNat
    if e < 0 ∧ m % 2 ^ (-e).toNat ≠ 0 then none else some (if s then -(i : Int) else i)
  | _ => none

/-- The value that a function tends to at an infinity (log 163). -/
def atInfinity (op : Nat) (neg : Bool) : BitVec 32 :=
  if op = 8 ∨ op = 9 then (if neg then 0 else posInf32)
  else if op = 0xA then (if neg then 0x7FC00000#32 else posInf32)
  else if op = 0xB then (if neg then 0x80000000#32 else 0)
  else if op = 0xC then (if neg then 0x7FC00000#32 else 0)
  else if op = 0xE then (if neg then 0xBF800000#32 else 0x3F800000#32)
  else if neg then 0 else 0x3F800000#32

/-- The transcendental functions: the special values of R222, EXP2 of integers, and otherwise a result of the implementation
within 2 ulp. EXP overflows from 0x42B17218 on, the least F32 whose exponential exceeds the range. LOG2 and RSQRT of a negative
argument give the canonical NaN (R171; log 163). -/
def transcend (op : Nat) (x : BitVec 32) : BitVec 32 :=
  let v := val32 x
  let free := nearResult op x (elementary op v)
  match v with
  | .nan => 0x7FC00000#32
  | .inf s => atInfinity op s
  | .fin s m e =>
    if m = 0 then
      (if op = 0xA then negInf32 else if op = 0xB ∨ op = 0xC then (if s then negInf32 else posInf32)
       else if op = 8 then 0x3F800000#32 else free)
    else if s ∧ (op = 0xA ∨ op = 0xC) then 0x7FC00000#32
    else if (op = 8 ∧ flt v (ofInt 128) = false) ∨ (op = 9 ∧ flt v (val32 0x42B17218#32) = false) then posInf32
    else if op = 8 then
      match asInt (.fin s m e) with
      | some i => if -150 < i then enc32 (.fin false 1 i) else free
      | none => free
    else free

/-- One VUN operation (Table 7.5). -/
def vunElem (op c x : Nat) : Nat :=
  if op = 0 then x
  else if op = 1 then elemAbs c x
  else if op = 2 then elemNeg c x
  else if op = 3 then elemMax c x 0
  else if op = 0xD then (sqrt32 (BitVec.ofNat 32 x)).toNat
  else (transcend op (BitVec.ofNat 32 x)).toNat

/-- VUN (R213). -/
def opVun (core : Nat) (w : BitVec 32) (s : State) : CoreRes :=
  let c := (vecOf core s).vfmt
  let op := iF7 w / 2
  if iRs2 w ≠ 0 ∨ vunOk op c = false then .exc excIllegal
  else
    let bits := fmtBits c
    let l := (active core (iVm w) s).map (fun e => (e, vunElem op c (vElem bits e (vr core (iRs1 w) s))))
    vDone core (setV core (iRd w) (vPuts bits l (vr core (iRd w) s)) s)

def execVun (core : Nat) (word : BitVec 32) (s : State) : Host.Outcome State Fault Refusal :=
  runCustom core word (iOp word == 0x0B && iF3 word == 5) (viaQueue core word (opVun core word)) s

/-! Conversions (R218, R219). -/

/-- One element converted, divided first where there is a divisor (R218); the element is rounded to F32 before (log 206). -/
def convElem (src dst : Nat) (divisor : Option (BitVec 32)) (x : Nat) : Conv :=
  match divisor with
  | none => convTo dst (decElem src x)
  | some d => convTo dst (val32 (div32 (enc32 (decElem src x)) d))

/-- emax of an MX element format (R219). -/
def mxEmax (c : Nat) : Int := if c = 2 then 8 else if c = 3 then 15 else if c = 6 then 2 else 0

/-- The largest magnitude of values. -/
def maxMag (vs : List FVal) : FVal := vs.foldl (fun a v => if flt a (fabs v) then fabs v else a) (.fin false 0 0)

/-- One MX block quantised: the scale code and the elements (R219); a NaN that becomes 0 in INT8 or FP4_E2M1 is counted as such
(R177, R178), and a zero keeps its sign in a floating-point format (R170). -/
def mxBlock (dst : Nat) (vs : List FVal) : Nat × List Conv :=
  let big := vs.any (fun v => match v with
    | .fin _ _ _ => false
    | _ => true)
  if big then (0xFF, vs.map (fun v => match v with
    | .nan => { convTo dst .nan with code := 0, sat := true }
    | _ => { code := 0, sat := true }))
  else
    let m := maxMag vs
    match m with
    | .fin _ 0 _ => (0, vs.map (fun v => convTo dst v))
    | _ =>
      let x := max (-127) (min 127 (floorLog2 m - mxEmax dst))
      ((127 + x).toNat, vs.map (fun v => convTo dst (fscale (-(if dst = 1 then x - 6 else x)) v)))

/-- The elements of a source register group (R218): element e of format `src` from vs1 on. -/
def groupElem (core src vs1 e : Nat) (s : State) : Nat :=
  let per := vlMax core src
  vElem (fmtBits src) (e % per) (vr core (vs1 + e / per) s)

/-- VSAT and the module-wide counts raised by a task's conversions (R197, R218). -/
def countTask (core : Nat) (l : List Conv) (s : State) : State :=
  updCtl core (fun k => { k with
    vsatSat := (k.vsatSat + l.countP (·.sat)) % 2 ^ 32, vsatNan := (k.vsatNan + l.countP (·.nan0)) % 2 ^ 32 })
    (countConv l s)

/-- A VCVT encoding is legal in the present VFMT and VL (R210, R218, R219). -/
def vcvtOk (core : Nat) (w : BitVec 32) (s : State) : Bool :=
  let k := vecOf core s
  let src := iF7 w % 16
  let wide := fmtBits src / fmtBits k.vfmt
  iF7 w / 32 == 0 && fmtOk src && (decide (wide ≤ 1) || (iRs1 w % wide == 0 && decide (iRs1 w + wide ≤ 32))) &&
  (!bitOf (iF7 w) 4 || ([1, 2, 3, 6].contains k.vfmt && k.vl % 32 == 0 && decide (iRd w + 1 < 32)))

/-- Lists of 32. -/
def blocks32 (l : List FVal) : List (List FVal) := (List.range (l.length / 32)).map (fun b => (l.drop (32 * b)).take 32)

/-- VCVT (R218, R219). -/
def opVcvt (core : Nat) (w : BitVec 32) (s : State) : CoreRes :=
  let k := vecOf core s
  let src := iF7 w % 16
  if vcvtOk core w s = false then .exc excIllegal
  else
    let divisor := if iRs2 w = 0 then none else some (BitVec.ofNat 32 (xr core (iRs2 w) s).toNat)
    let xs := (List.range k.vl).map (fun e => groupElem core src (iRs1 w) e s)
    let bits := fmtBits k.vfmt
    if bitOf (iF7 w) 4 then
      let vs := xs.map (fun x => match divisor with
        | none => decElem src x
        | some d => val32 (div32 (enc32 (decElem src x)) d))
      let bs := (blocks32 vs).map (mxBlock k.vfmt)
      let cs := bs.flatMap (·.2)
      let s1 := setV core (iRd w) (vPuts bits ((cs.map (·.code)).zipIdx.map (fun p => (p.2, p.1))) (vr core (iRd w) s)) s
      let s2 := setV core (iRd w + 1)
        (vPuts 8 ((bs.map (·.1)).zipIdx.map (fun p => (p.2, p.1))) (vr core (iRd w + 1) s1)) s1
      vDone core (countTask core cs s2)
    else
      let cs := xs.map (convElem src k.vfmt divisor)
      let l := (cs.map (·.code)).zipIdx.map (fun p => (p.2, p.1))
      vDone core (countTask core cs (setV core (iRd w) (vPuts bits l (vr core (iRd w) s)) s))

def execVcvt (core : Nat) (word : BitVec 32) (s : State) : Host.Outcome State Fault Refusal :=
  runCustom core word (iOp word == 0x0B && iF3 word == 4) (viaQueue core word (opVcvt core word)) s

/-! Reductions (R223, Table 7.9). -/

/-- One level of a pairwise tree. -/
def pairUp (f : BitVec 32 → BitVec 32 → BitVec 32) : List (BitVec 32) → List (BitVec 32)
  | a :: b :: t => f a b :: pairUp f t
  | l => l

/-- A pairwise tree of the given height. -/
def treeSum (f : BitVec 32 → BitVec 32 → BitVec 32) : Nat → List (BitVec 32) → BitVec 32
  | 0, l => l.headD 0
  | n + 1, l => treeSum f n (pairUp f l)

/-- Elements in the order of the sum's tree, which Config.sumRank fixes for each VL. -/
def sumOrder (vl : Nat) (l : List (Nat × BitVec 32)) : List (BitVec 32) :=
  let ins := fun (x : Nat × BitVec 32) (ys : List (Nat × BitVec 32)) =>
    ys.filter (fun y => Config.sumRank vl y.1 ≤ Config.sumRank vl x.1) ++ x ::
      ys.filter (fun y => Config.sumRank vl x.1 < Config.sumRank vl y.1)
  (l.foldl (fun ys x => ins x ys) []).map (·.2)

/-- The first element that no other beats, with its index: `better a b` says a beats b; a NaN beats all. -/
def bestOf (better : FVal → FVal → Bool) (l : List (Nat × FVal)) : Option (Nat × FVal) :=
  l.foldl (fun b x => match b with
    | none => some x
    | some y => if isNan y.2 then some y else if isNan x.2 || better x.2 y.2 then some x else some y) none

/-- A slot value: index or count above, value below. -/
def slotVal (hi : Nat) (lo : BitVec 32) : BitVec 64 := BitVec.ofNat 64 (hi % 2 ^ 32 * 2 ^ 32 + lo.toNat)

/-- The value of a best element in F32, or the value for none. -/
def reportBest (b : Option (Nat × FVal)) (empty : BitVec 32) : BitVec 64 :=
  match b with
  | some p => slotVal p.1 (enc32 p.2)
  | none => slotVal 0xFFFFFFFF empty

/-- A reduction of elements of a format (Table 7.9, codes 0x00 to 0x05); `x` is the operand. -/
def reduce (op c vl x : Nat) (l : List (Nat × Nat)) : BitVec 64 :=
  let vs := l.map (fun p => (p.1, decElem c p.2))
  if op = 0 then
    if c = 8 ∨ c = 9 then slotVal 0 (BitVec.ofNat 32 ((l.map (·.2)).foldl (· + ·) 0))
    else slotVal 0 (treeSum add32 33 (sumOrder vl (l.map (fun p => (p.1, enc32 (decElem c p.2))))))
  else if op = 1 then reportBest (bestOf (fun a b => flt b a || (feq a b && isNeg b && !isNeg a)) vs) negInf32
  else if op = 2 then reportBest (bestOf (fun a b => flt a b || (feq a b && isNeg a && !isNeg b)) vs) posInf32
  else if op = 3 then reportBest (bestOf (fun a b => flt b a) (vs.map (fun p => (p.1, fabs p.2)))) 0
  else if op = 4 then slotVal 0 (BitVec.ofNat 32 (vs.countP (fun p => flt (decElem c x) p.2)))
  else slotVal 0 (BitVec.ofNat 32 (vs.countP (fun p => isNan p.2)))

/-- TOPK_THRESH (Table 7.9). -/
def topkThresh (t : TopK) : BitVec 64 :=
  slotVal t.entries.length (if t.entries.length < t.k ∨ t.k = 0 then negInf32 else ((t.entries.getD (t.k - 1) (negInf32, 0)).1))

/-- A summary slot written. -/
def setSlot (core n : Nat) (v : BitVec 64) (s : State) : State := updVec core (fun k => { k with slots := k.slots.set n v }) s

/-- VRED (R223). -/
def opVred (core : Nat) (w : BitVec 32) (s : State) : CoreRes :=
  let k := vecOf core s
  let op := iF7 w / 2
  if 8 ≤ iRd w ∨ !(decide (op ≤ 5) || op == 8) ∨ (op ≠ 4 ∧ iRs2 w ≠ 0) ∨ (op = 8 ∧ iRs1 w ≠ 0) then .exc excIllegal
  else if op = 8 then vDone core (setSlot core (iRd w) (topkThresh k.topk) s)
  else
    let bits := fmtBits k.vfmt
    let l := (active core (iVm w) s).map (fun e => (e, vElem bits e (vr core (iRs1 w) s)))
    let x := (xr core (iRs2 w) s).toNat % 2 ^ bits
    vDone core (setSlot core (iRd w) (reduce op k.vfmt k.vl x l) s)

def execVred (core : Nat) (word : BitVec 32) (s : State) : Host.Outcome State Fault Refusal :=
  runCustom core word (iOp word == 0x0B && iF3 word == 6) (viaQueue core word (opVred core word)) s

/-! The top-k unit (R220, R221). -/

/-- An entry ranks above another. -/
def ranksAbove (a b : BitVec 32 × BitVec 32) : Bool :=
  flt (val32 b.1) (val32 a.1) || (feq (val32 a.1) (val32 b.1) && decide (a.2 < b.2))

/-- Entries with one inserted in rank order. -/
def insertEntry (a : BitVec 32 × BitVec 32) : List (BitVec 32 × BitVec 32) → List (BitVec 32 × BitVec 32)
  | [] => [a]
  | b :: t => if ranksAbove a b then a :: b :: t else b :: insertEntry a t

/-- A pair may enter the unit. -/
def mayEnter (t : TopK) (a : BitVec 32 × BitVec 32) : Bool :=
  !isNan (val32 a.1) && !flt (val32 a.1) (val32 t.floor) &&
  (decide (t.entries.length < t.k) || (match t.entries[t.k - 1]? with
    | some b => ranksAbove a b
    | none => false))

/-- Pairs offered to the unit, with the number that entered. -/
def offerAll (l : List (BitVec 32 × BitVec 32)) (t : TopK) : TopK × Nat :=
  l.foldl (fun (r : TopK × Nat) a =>
    if mayEnter r.1 a then ({ r.1 with entries := (insertEntry a r.1.entries).take r.1.k }, r.2 + 1) else r) (t, 0)

/-- The unit with the offers made and counted. -/
def offer (core : Nat) (l : List (BitVec 32 × BitVec 32)) (s : State) : State :=
  let r := offerAll l (vecOf core s).topk
  let s := updVec core (fun k => { k with topk := r.1 }) s
  if r.2 = 0 then s else count Cnt.topkEntered r.2 s

/-- VTOPK's operation code and a mask bit where none is allowed (Table 7.3). -/
def topkIs (w : BitVec 32) (op : Nat) : Bool := iOp w == 0x0B && iF3 w == 7 && iF7 w / 2 == op

/-- VTOPK SET (R220; k outside 1 to 512 is illegal, log 28). -/
def opTopkSet (core : Nat) (w : BitVec 32) (s : State) : CoreRes :=
  let k := (xr core (iRs1 w) s).toNat
  if iVm w ∨ k = 0 ∨ 512 < k then .exc excIllegal
  else
    let floor := if iRs2 w = 0 then negInf32 else BitVec.ofNat 32 (xr core (iRs2 w) s).toNat
    let t : TopK := { isSet := true, k := k, floor := floor, entries := [] }
    vDone core (updVec core (fun x => { x with topk := t }) s)

def execVtopkSet (core : Nat) (word : BitVec 32) (s : State) : Host.Outcome State Fault Refusal :=
  runCustom core word (topkIs word 1) (viaQueue core word (opTopkSet core word)) s

/-- A register as 128 32-bit elements: beyond a register of the Bivouac the elements hold free values (R208; log 182). -/
def wideVr (core n k : Nat) (s : State) : BitVec 4096 :=
  let v := vr core n s
  if core < 96 then v else (v &&& BitVec.ofNat 4096 (2 ^ 1024 - 1)) ||| (Config.freeVec (s.free + k) <<< 1024)

/-- VTOPK INSERT (R220). -/
def opTopkInsert (core : Nat) (w : BitVec 32) (s : State) : CoreRes :=
  let k := vecOf core s
  if 128 < k.vl ∨ k.topk.isSet = false ∧ k.vqueue = [] then .exc excIllegal
  else
    let l := (active core (iVm w) s).map (fun e =>
      (BitVec.ofNat 32 (vElem 32 e (wideVr core (iRs1 w) 0 s)), BitVec.ofNat 32 (vElem 32 e (wideVr core (iRs2 w) 1 s))))
    vDone core (offer core l (if core < 96 then s else drawFree (drawFree s)))

def execVtopkInsert (core : Nat) (word : BitVec 32) (s : State) : Host.Outcome State Fault Refusal :=
  runCustom core word (topkIs word 0) (viaQueue core word (opTopkInsert core word)) s

/-- The bytes of held entries: position, then score (R221). -/
def topkBytes (l : List (BitVec 32 × BitVec 32)) : List Byte :=
  l.flatMap (fun p => leBytes 4 p.2.toNat ++ leBytes 4 p.1.toNat)

/-- VTOPK STORE (R221). -/
def opTopkStore (core : Nat) (w : BitVec 32) (s : State) : CoreRes :=
  let es := (vecOf core s).topk.entries
  let a := (xr core (iRs1 w) s).toNat
  if iVm w ∨ iRs2 w ≠ 0 then .exc excIllegal
  else if es ≠ [] ∧ inPart (taskPart core s) a (8 * es.length) = false then .exc excStoreAccess
  else vDone core (setX core (iRd w) (BitVec.ofNat 64 es.length) (taskStore core [(a, topkBytes es)] s))

def execVtopkStore (core : Nat) (word : BitVec 32) (s : State) : Host.Outcome State Fault Refusal :=
  runCustom core word (topkIs word 2) (viaQueue core word (opTopkStore core word)) s

/-- VTOPK FLOOR (R220). -/
def opTopkFloor (core : Nat) (w : BitVec 32) (s : State) : CoreRes :=
  let f := BitVec.ofNat 32 (xr core (iRs1 w) s).toNat
  if iVm w ∨ iRs2 w ≠ 0 then .exc excIllegal
  else vDone core (updVec core (fun x => { x with
    topk := if flt (val32 x.topk.floor) (val32 f) then { x.topk with floor := f } else x.topk }) s)

def execVtopkFloor (core : Nat) (word : BitVec 32) (s : State) : Host.Outcome State Fault Refusal :=
  runCustom core word (topkIs word 3) (viaQueue core word (opTopkFloor core word)) s

/-- The effect of any word of custom-0 (R210, R211): an undefined encoding is illegal. -/
def vecOp (core : Nat) (w : BitVec 32) (s : State) : CoreRes :=
  match iF3 w with
  | 0 => opVsetl core w s
  | 1 => if bitOf w.toNat 31 then opVst core w s else opVld core w s
  | 2 => opVopVv core w s
  | 3 => opVopVx core w s
  | 4 => opVcvt core w s
  | 5 => opVun core w s
  | 6 => opVred core w s
  | _ =>
    match iF7 w / 2 with
    | 0 => opTopkInsert core w s
    | 1 => opTopkSet core w s
    | 2 => opTopkStore core w s
    | 3 => opTopkFloor core w s
    | _ => .exc excIllegal

/-- Any word of custom-0. VSETL sets what goes with later instructions, so it is not queued. -/
def opCustom0 (core : Nat) (w : BitVec 32) (s : State) : CoreRes :=
  if iF3 w = 0 then vecOp core w s else viaQueue core w (vecOp core w) s

/-- A queued instruction executed with what was passed with it; the count of a VTOPK STORE goes to its register. -/
def runQueued (core : Nat) (i : VqInstr) (s : State) : State :=
  let k := ctlOf core s
  let v := vecOf core s
  let u := setX core (iRs2 i.word) i.b (setX core (iRs1 i.word) i.a
    (updCtl core (fun k => { k with pc := i.pc }) (updVec core (fun x => { x with vqueue := [], vl := i.vl, vfmt := i.vfmt }) s)))
  let count := fun (t : State) => match storesCount (.instr i) with
    | some rd => if rd = 0 then k.x else k.x.set rd (xr core rd t)
    | none => k.x
  let (r, regs) := match vecOp core i.word u with
    | .done t _ => (t, count t)
    | .stall t => (t, k.x)
    | .wait t => (t, k.x)
    | .exc c => (syncException core c u, k.x)
  updCtl core (fun x => { x with x := regs, pc := k.pc })
    (updVec core (fun x => { x with vqueue := v.vqueue, vl := v.vl, vfmt := v.vfmt }) r)

/-- The instructions at the head of the vector queue execute, up to the next descriptor. -/
def drainVq : Nat → Nat → State → State
  | 0, _, s => s
  | fuel + 1, core, s =>
    match (vecOf core s).vqueue with
    | .instr i :: t => drainVq fuel core (runQueued core i (updVec core (fun k => { k with vqueue := t }) s))
    | _ => s

/-- The vector queue moved on as far as it can. -/
def serveVq (core : Nat) (s : State) : State := drainVq 16 core s

end Sys2Proof.Machine
end

