-- ==== Sys2Proof/Machine/Control.lean ====
section
/-! DEFINITION. Engine control and scalar F32 instructions (07, R214, R215, R223 to R225, R237): custom-1. -/

namespace Sys2Proof.Machine

open Sys2Proof

/-! EISSUE (R214, R237). -/

/-- Opcodes of the engines' descriptors. -/
def engineOpcode (o : Nat) : Bool :=
  [0x10, 0x11, 0x21, 0x22, 0x23, 0x24, 0x25, 0x30, 0x40, 0x50, 0x60, 0x61].contains o

/-- The queue of a descriptor's engine is full. -/
def engineFull (core op : Nat) (s : State) : Bool := !engineRoom core op 1 s

/-- A descriptor passed to its engine: the vector queue keeps vector descriptors in program order (R226). -/
def passDesc (core : Nat) (d : Desc) (org : Origin) (s : State) : State :=
  if df d 0 63 56 = 0x40 then updVec core (fun k => { k with vqueue := k.vqueue ++ [.tensor d org] }) s
  else pushIssued core d org s

/-- EISSUE: an opcode of no engine fails its decode check. It waits for the vector loads and stores before it (R239). -/
def opEissue (core : Nat) (w : BitVec 32) (s : State) : CoreRes :=
  let a := (xr core (iRs1 w) s).toNat
  if iF7 w ≠ 0 ∨ iRd w ≠ 0 ∨ iRs2 w ≠ 0 then .exc excIllegal
  else if inPart (taskPart core s) a 64 = false then .exc excLoadAccess
  else if memoryAhead core s then .stall s
  else
    let d := setSpecId (BitVec.ofNat 512 (ofLe (sramRead core a 64 s))) 6 (ctlOf core s).specid
    let op := df d 0 63 56
    if engineOpcode op = false then done4 core (jobFaultPlain 5 core 1 0 op s)
    else if engineFull core op s then .stall s
    else done4 core (passDesc core d (taskOrg core s) s)

def execEissue (core : Nat) (word : BitVec 32) (s : State) : Host.Outcome State Fault Refusal :=
  runCustom core word (iOp word == 0x2B && iF3 word == 0) (opEissue core word) s

/-! EFENCE. -/

/-- All earlier matrix work of a core has completed: every descriptor streamed and every draining chain drained. -/
def matrixQuiet (core : Nat) (s : State) : Bool :=
  issuedOf core [0x30] s == 0 &&
  (matOf core s).chains.all (fun c => c.descs.all (fun e => e.done && !db e.desc 0 38))

/-- All earlier Dray, lookup, write, summary and fabric work of a core has completed. -/
def draysQuiet (core : Nat) (s : State) : Bool :=
  issuedOf core [0x10, 0x11, 0x21, 0x22, 0x23, 0x24, 0x25, 0x50, 0x60, 0x61] s == 0 &&
  s.streaming.transfers.all (fun t => t.core != core || t.done) && s.lookup.jobs.all (fun j => j.core != core) &&
  s.updates.jobs.all (fun j => j.core != core) && s.sequences.summaries.all (fun j => j.core != core) &&
  s.fabric.descs.all (fun j => j.core != core)

/-- An entry of the vector queue that is work of the top-k unit. -/
def isTopk : VqEntry → Bool
  | .tensor d _ => df d 0 55 52 == 4
  | .instr i => iF3 i.word == 7

/-- EFENCE (Table 7.6): the vector class is all of the vector queue, and the top-k class its work of the top-k unit. -/
def opEfence (core : Nat) (w : BitVec 32) (s : State) : CoreRes :=
  let f := iF7 w
  if f / 16 ≠ 0 ∨ iRd w ≠ 0 ∨ iRs1 w ≠ 0 ∨ iRs2 w ≠ 0 then .exc excIllegal
  else if (bitOf f 0 && !(vecOf core s).vqueue.isEmpty) || (bitOf f 3 && (vecOf core s).vqueue.any isTopk) ||
      (bitOf f 1 && !matrixQuiet core s) || (bitOf f 2 && !draysQuiet core s) then .wait s
  else done4 core s

def execEfence (core : Nat) (word : BitVec 32) (s : State) : Host.Outcome State Fault Refusal :=
  runCustom core word (iOp word == 0x2B && iF3 word == 1) (opEfence core word) s

/-! SMRD. -/

/-- An entry of the vector queue that is a VRED to a summary slot. -/
def reducesTo (slot : Nat) : VqEntry → Bool
  | .tensor _ _ => false
  | .instr i => iF3 i.word == 6 && iRd i.word == slot

/-- SMRD: it waits for the VREDs to its slot that are still queued (R223). -/
def opSmrd (core : Nat) (w : BitVec 32) (s : State) : CoreRes :=
  if iF7 w ≠ 0 ∨ iRs2 w ≠ 0 ∨ 8 ≤ iRs1 w then .exc excIllegal
  else if (vecOf core s).vqueue.any (reducesTo (iRs1 w)) then .wait s
  else done4 core (setX core (iRd w) ((vecOf core s).slots.getD (iRs1 w) 0) s)

def execSmrd (core : Nat) (word : BitVec 32) (s : State) : Host.Outcome State Fault Refusal :=
  runCustom core word (iOp word == 0x2B && iF3 word == 2) (opSmrd core word) s

/-! HWAIT (R214, R306, R308, R309). -/

/-- A core's entry of the watch table. -/
def coreWait (core : Nat) (s : State) : Option CoreWait := s.dispatch.coreWaits.find? (fun x => x.core == core)

def dropWait (core : Nat) (s : State) : State :=
  { s with dispatch := { s.dispatch with coreWaits := s.dispatch.coreWaits.filter (fun x => x.core != core) } }

/-- A core's wait ended, met or not, and its stalled cycles counted (Table 7.14). -/
def endWait (core : Nat) (s : State) : State :=
  match coreWait core s with
  | none => s
  | some x => dropWait core (if x.since = s.now then s else count Cnt.hitchWaitCycles (cyclesSince core x.since s) s)

/-- An entry of the watch table written. -/
def putWait (x : CoreWait) (s : State) : State :=
  let s := dropWait x.core s
  { s with dispatch := { s.dispatch with coreWaits := s.dispatch.coreWaits ++ [x] } }

/-- The value an evaluation of a core's wait sees: an object in host memory is seen at its start and at the polls. -/
def waitValue (core addr : Nat) (isLocal : Bool) (s : State) : BitVec 64 :=
  if isLocal then
    match coreWait core s with
    | some x => if x.met then x.lastSeen else BitVec.ofNat 64 (ofLe (sramRead core addr 8 s))
    | none => BitVec.ofNat 64 (ofLe (sramRead core addr 8 s))
  else match coreWait core s with
    | some x => if x.met ∨ (onHostPage addr s ∧ x.polled = true) then x.lastSeen else BitVec.ofNat 64 (hitchRead addr s)
    | none => BitVec.ofNat 64 (hitchRead addr s)

/-- A wait that is not met, with the value last seen: it is counted and begins its timeout with its first evaluation (R309). -/
def holdWait (core : Nat) (w : BitVec 32) (addr : Nat) (isLocal : Bool) (v : BitVec 64) (s : State) : State :=
  let since := ((coreWait core s).map (·.since)).getD s.now
  putWait { core := core, addr := addr, isLocal := isLocal, cond := iF7 w % 4, threshold := xr core (iRs2 w) s,
            mask := (ctlOf core s).hmask, since := since, lastSeen := v,
            polled := !isLocal && onHostPage addr s }
    (if (coreWait core s).isSome then s else count Cnt.hitchWaits 1 s)

/-- An evaluation of a wait whose object can be read. -/
def evalWait (core : Nat) (w : BitVec 32) (addr : Nat) (isLocal : Bool) (s : State) : CoreRes :=
  let v := waitValue core addr isLocal s
  if condHolds (iF7 w % 4) v.toNat (xr core (iRs2 w) s).toNat (ctlOf core s).hmask.toNat then
    done4 core (setX core (iRd w) v (endWait core s))
  else .wait (holdWait core w addr isLocal v s)

/-- HWAIT, on any alignment (log 207). -/
def opHwait (core : Nat) (w : BitVec 32) (s : State) : CoreRes :=
  let addr := (xr core (iRs1 w) s).toNat
  let isLocal := bitOf (iF7 w) 6
  if field (iF7 w) 5 2 ≠ 0 ∨ iF7 w % 4 = 3 then .exc excIllegal
  else if isLocal then
    if inPart (taskPart core s) addr 8 then evalWait core w addr true s else .exc excLoadAccess
  else
    let m := memCheck addr 8 .read s
    if m = .ok then evalWait core w addr false (noteDmaRead addr 8 (hubAccess addr 8 s))
    else if m = .badAddress then .exc excLoadAccess
    else
      let v := ((coreWait core s).map (·.lastSeen)).getD 0
      .wait (stallOn (drayAgent core) (taskOrg core s).context (ctlOf core s).specid 5 core 0 0 .read m (holdWait core w addr false v s))

def execHwait (core : Nat) (word : BitVec 32) (s : State) : Host.Outcome State Fault Refusal :=
  runCustom core word (iOp word == 0x2B && iF3 word == 3) (opHwait core word) s

/-! HSIG and RESOLVE, and the effects held for a speculation ID (R214, R224, R237, R307). -/

/-- What an attempt to deliver an effect gives: the state, and whether it was delivered. -/
def deliver (core : Nat) (org : Origin) (e : HeldEffect) (s : State) : State × Bool :=
  match e with
  | .resolve branch outcome =>
    (match org.launch with
      | some l => { s with runahead := { s.runahead with resolves := s.runahead.resolves ++ [(l, branch, outcome)] } }
      | none => s, true)
  | .hsig addr isLocal store v =>
    if isLocal then
      let old := ofLe (sramRead core addr 8 s)
      (sramWrite core addr (leBytes 8 (if store then v.toNat else (old + v.toNat) % 2 ^ 64)) s, true)
    else
      let m := memCheck addr 8 .atomic s
      if m = .ok then (applySignal false addr store v.toNat s, true)
      else (stallOn (drayAgent core) org.context 0 5 core 0 0 .atomic m s, m == .badAddress)

/-- The committed held effects of a core delivered in order, as far as their pages allow. -/
def deliverHeld : Nat → Nat → State → State
  | 0, _, s => s
  | fuel + 1, core, s =>
    match (ctlOf core s).held.find? (fun h => h.1 == 0) with
    | none => s
    | some h =>
      let r := deliver core h.2.1 h.2.2 s
      if r.2 then deliverHeld fuel core (updCtl core (fun k => { k with held := k.held.erase h }) r.1) else r.1

/-- A core's committed held effects delivered. -/
def flushEffects (core : Nat) (s : State) : State := deliverHeld (ctlOf core s).held.length core s

/-- A held effect of the task, or one delivered after the committed ones before it. -/
def emitEffect (core : Nat) (e : HeldEffect) (s : State) : CoreRes :=
  let org := taskOrg core s
  let spec := (ctlOf core s).specid
  if spec ≠ 0 then done4 core (updCtl core (fun k => { k with held := k.held ++ [(spec, org, e)] }) s)
  else
    let s := flushEffects core s
    if (ctlOf core s).held.any (fun h => h.1 == 0) then .stall s
    else
      let r := deliver core org e s
      if r.2 then done4 core r.1 else .stall r.1

/-- HSIG, after every earlier store of the task (R239), on any alignment (log 207). -/
def opHsig (core : Nat) (w : BitVec 32) (s : State) : CoreRes :=
  let addr := (xr core (iRs1 w) s).toNat
  let isLocal := bitOf (iF7 w) 6
  if field (iF7 w) 5 1 ≠ 0 ∨ iRd w ≠ 0 then .exc excIllegal
  else if isLocal ∧ inPart (taskPart core s) addr 8 = false then .exc excStoreAccess
  else if isLocal = false ∧ 2 ^ 52 < addr + 8 then .exc excStoreAccess
  else if storesAhead core s then .stall s
  else emitEffect core (.hsig addr isLocal (bitOf (iF7 w) 0) (xr core (iRs2 w) s)) s

def execHsig (core : Nat) (word : BitVec 32) (s : State) : Host.Outcome State Fault Refusal :=
  runCustom core word (iOp word == 0x2B && iF3 word == 4) (opHsig core word) s

/-- RESOLVE. -/
def opResolve (core : Nat) (w : BitVec 32) (s : State) : CoreRes :=
  if iF7 w ≠ 0 ∨ iRd w ≠ 0 then .exc excIllegal
  else emitEffect core (.resolve ((xr core (iRs1 w) s).toNat % 65536) (xr core (iRs2 w) s)) s

def execResolve (core : Nat) (word : BitVec 32) (s : State) : Host.Outcome State Fault Refusal :=
  runCustom core word (iOp word == 0x2B && iF3 word == 6) (opResolve core word) s

/-! SFOP (R215). -/

/-- FCVT.L.S: nearest, ties to even, saturating; NaN gives 0 (Table 7.7). -/
def f32ToI64 (x : BitVec 32) : BitVec 64 :=
  BitVec.ofNat 64 (convInt 64 (-(2 ^ 63 : Nat)) ((2 ^ 63 : Nat) - 1) (val32 x)).code

/-- The value of an SFOP operation; none where it is not defined. -/
def sfopValue (op : Nat) (a b : BitVec 64) : Option (BitVec 64) :=
  let x := BitVec.ofNat 32 a.toNat
  let y := BitVec.ofNat 32 b.toNat
  let f := fun (r : BitVec 32) => some (r.setWidth 64)
  match op with
  | 0 => f (add32 x y)
  | 1 => f (sub32 x y)
  | 2 => f (mul32 x y)
  | 3 => f (div32 x y)
  | 4 => f (min32 x y)
  | 5 => f (max32 x y)
  | 6 => some (if flt (val32 x) (val32 y) then 1 else 0)
  | 7 => some (if feq (val32 x) (val32 y) then 1 else 0)
  | 8 => f (enc32 (ofInt a.toInt))
  | 9 => some (f32ToI64 x)
  | 10 => f (sqrt32 x)
  | _ => none

/-- SFOP. -/
def opSfop (core : Nat) (w : BitVec 32) (s : State) : CoreRes :=
  if 8 ≤ iF7 w ∧ iRs2 w ≠ 0 then .exc excIllegal
  else match sfopValue (iF7 w) (xr core (iRs1 w) s) (xr core (iRs2 w) s) with
    | some v => done4 core (setX core (iRd w) v s)
    | none => .exc excIllegal

def execSfop (core : Nat) (word : BitVec 32) (s : State) : Host.Outcome State Fault Refusal :=
  runCustom core word (iOp word == 0x2B && iF3 word == 5) (opSfop core word) s

/-! TASKEND (R225, R232, R234, R236). -/

/-- The trap registers of a core keep nothing of a task that is squashed, or that ended while it was speculative and may be squashed
yet: each holds a free value within its bits (R330; log 185). -/
def scrubControl (core : Nat) (s : State) : State :=
  let f := s.free
  let cyc := BitVec.ofNat 64 (cyclesAt core s.now s)
  let inhibit := Config.freeWord (f + 2) &&& 5#64
  updCtl core (fun k => { k with
    mstatus := 0x1800#64 ||| (Config.freeWord f &&& 0x88#64), mtvec := Config.freeWord (f + 1) &&& ~~~3#64,
    mcountinhibit := inhibit,
    mcycle := if k.mcountinhibit.getLsbD 0 = inhibit.getLsbD 0 then k.mcycle
      else if inhibit.getLsbD 0 then k.mcycle + cyc else k.mcycle - cyc,
    mscratch := Config.freeWord (f + 3),
    mepc := Config.freeWord (f + 4) &&& ~~~1#64, mcause := Config.freeWord (f + 5), mtval := Config.freeWord (f + 6) })
    { s with free := f + 7 }

/-- A task leaves its core; a pending interrupt is discarded (R234). -/
def freeCore (core : Nat) (s : State) : State :=
  updCtl core (fun k => { k with task := none, ccState := 1, mip := 0, reservation := none, specid := 0 }) (endWait core s)

/-- Core-ns of a task charged to its queue (R364). -/
def chargeTask (t : TaskRec) (s : State) : State := chargeQueue t.queue (s.now - t.startedAt) s

/-- A task ended by TASKEND with a status code; one that ran past its slot counts 1 (R236; log 209). Of a speculative one no trap register keeps anything, as it may be squashed yet
(R330; log 185). -/
def endTask (core : Nat) (t : TaskRec) (code : BitVec 64) (s : State) : State :=
  let k := ctlOf core s
  let s := count Cnt.tasksEnded 1 (updCtl core (fun k => { k with tasksRun := (k.tasksRun + 1) % 2 ^ 64 }) (chargeTask t s))
  let s := if s.job.outgoing.any (fun o => o.core == core && o.queue == t.queue && !o.reclaim) then count Cnt.taskOverruns 1 s else s
  let s := if k.vsatSat = 0 ∧ k.vsatNan = 0 then s else specMark t.spec t.launch true false false s
  let s := freeCore core (noteSpecWork t.spec 0 (cyclesSince core t.startedAt s) s)
  let s := if t.spec = 0 then s else scrubControl core s
  let s := match t.launch with
    | some l => stageTaskEnded l t.stage core s
    | none => s
  let s := match t.cmd with
    | some id => if t.persistent then s else finishCmd t.queue id stOk 0 code s
    | none => s
  settleOutgoing s

/-- An entry of the vector queue that is an instruction of the task. -/
def isInstr : VqEntry → Bool
  | .tensor _ _ => false
  | .instr _ => true

/-- TASKEND: after the task's vector instructions (log 165). -/
def opTaskend (core : Nat) (w : BitVec 32) (s : State) : CoreRes :=
  if iF7 w ≠ 0 ∨ iRd w ≠ 0 ∨ iRs2 w ≠ 0 then .exc excIllegal
  else match (ctlOf core s).task with
    | none => .exc excIllegal
    | some t =>
      if (vecOf core s).vqueue.any isInstr then .stall s else
      let s := flushEffects core s
      .done (endTask core t (xr core (iRs1 w) s) s) (pc4 core s)

def execTaskend (core : Nat) (word : BitVec 32) (s : State) : Host.Outcome State Fault Refusal :=
  runCustom core word (iOp word == 0x2B && iF3 word == 7) (opTaskend core word) s

/-- Any word of custom-1. -/
def opCustom1 (core : Nat) (w : BitVec 32) (s : State) : CoreRes :=
  match iF3 w with
  | 0 => opEissue core w s
  | 1 => opEfence core w s
  | 2 => opSmrd core w s
  | 3 => opHwait core w s
  | 4 => opHsig core w s
  | 5 => opSfop core w s
  | 6 => opResolve core w s
  | _ => opTaskend core w s

end Sys2Proof.Machine
end

