-- ==== Sys2Proof/Machine/Transfers.lean ====
section
/-! DEFINITION. Transfer descriptors (Table 9.1), weight rings and Caravan members: what the matrix and the streaming
commands share (R262 to R270, R279, R281). -/

namespace Sys2Proof.Machine

open Sys2Proof

def xOpcode (d : Desc) : Nat := df d 0 63 56
def xSrcSpace (d : Desc) : Nat := df d 0 55 53
def xDstSpace (d : Desc) : Nat := df d 0 52 50
def xClass (d : Desc) : Nat := df d 0 49 48
def xStrided (d : Desc) : Bool := db d 0 47
def xRelease (d : Desc) : Nat := df d 0 46 45
def xSlots (d : Desc) : Nat := df d 0 39 32
def xGroup (d : Desc) : Nat := df d 0 31 27
def xSrc (d : Desc) : Nat := dword d 1
def xDst (d : Desc) : Nat := dword d 2
def xE0 (d : Desc) : Nat := df d 3 63 40
def xE1 (d : Desc) : Nat := df d 3 39 20
def xE2 (d : Desc) : Nat := df d 3 19 0
def xTiles (d : Desc) : Nat := df d 4 63 32
def xS1 (d : Desc) : Nat := df d 4 31 0
def xS2 (d : Desc) : Nat := df d 5 63 32
def xS3 (d : Desc) : Nat := df d 5 31 0
def xProgress (d : Desc) : Nat := df d 6 63 32
def xSpec (d : Desc) : Nat := df d 6 31 16
def xTag (d : Desc) : Nat := df d 6 15 0
def xReleaseAddr (d : Desc) : Nat := df d 7 63 32
def xStatus (d : Desc) : Nat := df d 7 31 0

/-- A stream of many members. -/
def xCaravan (d : Desc) : Bool := xOpcode d == 0x11

/-- Bytes of a tile, and its packed size P (R263). -/
def tileBytes (d : Desc) : Nat := xE2 d * xE1 d * xE0 d
def tilePacked (d : Desc) : Nat := alignUp (tileBytes d) 64

def transferOf (id : Nat) (s : State) : Option Transfer := s.streaming.transfers.find? (fun t => t.id == id)

def updTransfer (id : Nat) (f : Transfer → Transfer) (s : State) : State :=
  { s with streaming := { s.streaming with transfers := updFirst (fun t => t.id == id) f s.streaming.transfers } }

def updMember (id core : Nat) (f : Member → Member) (s : State) : State :=
  updTransfer id (fun t => { t with members := updFirst (fun m => m.core == core) f t.members }) s

/-- The release count of a transfer at a core (R266, R277). -/
def releaseCount (core : Nat) (d : Desc) (s : State) : Nat := ofLe (sramRead core (xReleaseAddr d) 8 s)

/-- The progress count of a transfer at a core. -/
def progressCount (core : Nat) (d : Desc) (s : State) : Nat := ofLe (sramRead core (xProgress d) 8 s)

/-! Weight rings (R268 to R270). -/

/-- A transfer's ring is a weight ring of a core: it runs with RELEASE = 2 there. -/
def ringAt (core : Nat) (t : Transfer) : Bool :=
  t.running && xRelease t.desc == 2 &&
  (if xCaravan t.desc then t.members.any (fun m => m.core == core) else t.core == core)

/-- A member's ring waits for one of its core's four to end (R268). -/
def ringWaitsAt (core : Nat) (t : Transfer) : Bool := t.members.any (fun m => m.core == core && m.ringWaits)

/-- Active weight rings of a core: those of transfers that have not completed, and do not wait for a ring. -/
def activeRings (core : Nat) (s : State) : Nat :=
  s.streaming.transfers.countP (fun t => ringAt core t && !t.done && !ringWaitsAt core t)

/-- The weight ring that holds an address of a core. -/
def ringOf (core addr : Nat) (s : State) : Option Transfer :=
  s.streaming.transfers.find? (fun t =>
    ringAt core t && decide (xDst t.desc ≤ addr) && decide (addr < xDst t.desc + xSlots t.desc * tilePacked t.desc))

/-- An address reduced within a ring modulo its span. -/
def ringAddr9 (t : Transfer) (addr : Nat) : Nat :=
  xDst t.desc + (addr - xDst t.desc) % (xSlots t.desc * tilePacked t.desc)

/-- Tiles the sequencer of a core has loaded from a ring. -/
def ringLoadsOf (core : Nat) (t : Transfer) : Nat :=
  if xCaravan t.desc then ((t.members.find? (fun m => m.core == core)).map (·.ringLoads)).getD 0 else t.ringLoads

/-- The number of loads of a ring at a core replaced. -/
def setRingLoads (id core n : Nat) (s : State) : State :=
  match transferOf id s with
  | none => s
  | some t =>
    if xCaravan t.desc then updMember id core (fun m => { m with ringLoads := n }) s
    else updTransfer id (fun t => { t with ringLoads := n }) s

/-- An open chain of any core reads a ring. -/
def ringRead (id : Nat) (s : State) : Bool :=
  s.matrix.any (fun m => m.chains.any (fun c => c.rings.any (fun r => r.1 == id)))

/-- The tiles that a transfer will have delivered: all, or those before the tile at which it failed (R468). -/
def tilesDue (t : Transfer) : Nat := t.failed.getD (xTiles t.desc)

/-- Completed rings whose tiles are loaded and that no chain reads are forgotten (log 24). -/
def purgeRings (s : State) : State :=
  { s with streaming := { s.streaming with transfers := s.streaming.transfers.filter (fun t =>
    !(t.done && !ringRead t.id s &&
      (if xCaravan t.desc then t.members.all (fun m => decide (xTiles t.desc ≤ m.ringLoads))
       else decide (tilesDue t ≤ t.ringLoads)))) } }

/-! Detached members (R279, R281). -/

/-- The CARAVAN_DETACH record of a stream's detachments in a second (R281; log 212). -/
def flushDetach (id : Nat) (s : State) : State :=
  match transferOf id s with
  | none => s
  | some t =>
    if t.detCount = 0 then s
    else specRecord t.detAt t.spec 0x4003 t.detLow [xTag t.desc, t.detCount]
      (updTransfer id (fun t => { t with detCount := 0 }) s)

/-- A member detached from its stream. -/
def detachMember (id core : Nat) (s : State) : State :=
  match transferOf id s with
  | none => s
  | some t =>
    let sec := s.now / 1000000000
    let s := if t.detSecond = sec then s else flushDetach id s
    count Cnt.caravanDetaches 1 (updMember id core (fun m => { m with attached := false })
      (updTransfer id (fun t =>
        { t with
          detached := t.detached + 1, detSecond := sec, detAt := s.now,
          detLow := if t.detCount = 0 then core else Nat.min t.detLow core,
          detCount := t.detCount + 1 }) s))

/-- A number of no Dray, for a rewound transfer that waits for one. -/
abbrev noDray : Nat := 4

/-- RING_REWIND: a ring set back to stream tile f at a core (R270). A transfer that had completed runs again on the next free
Dray. -/
def rewindRing (id core f : Nat) (s : State) : State :=
  match transferOf id s with
  | none => s
  | some t =>
    let s := coreStoreAll core t.spec [(xReleaseAddr t.desc, leBytes 8 f), (xProgress t.desc, leBytes 8 f)] core 1 (xTag t.desc)
      (xOpcode t.desc) s
    let s := count Cnt.ringRewinds 1 (setRingLoads id core f (updTransfer id (fun t =>
      { t with rewinds := t.rewinds + 1, done := false, dray := if t.done && !xCaravan t.desc then noDray else t.dray }) s))
    if xCaravan t.desc then
      let s := if t.members.any (fun m => m.core == core && m.attached) then detachMember id core s else s
      updMember id core (fun m => { m with delivered := f }) s
    else updTransfer id (fun t => { t with delivered := f, requested := f, inFlight := [], faultTile := none }) s

end Sys2Proof.Machine
end

