-- ==== Sys2Proof/Machine/Matrix.lean ====
section
/-! DEFINITION. The matrix arrays (05, 06): the decode check and the tile queue, streaming with weight loads and group
dequantisation, overflow replay, and the drain. -/

namespace Sys2Proof.Machine

open Sys2Proof

/-! The matrix descriptor (Table 5.3). -/

def mMask (d : Desc) : Nat := df d 0 55 52
def mActFmt (d : Desc) : Nat := df d 0 51 48
def mWFmt (d : Desc) : Nat := df d 0 47 44
def mGroup (d : Desc) : Nat := df d 0 43 42
def mScaleFmt (d : Desc) : Nat := df d 0 41 40
def mAccIn (d : Desc) : Bool := db d 0 39
def mAccOut (d : Desc) : Bool := db d 0 38
def mDep (d : Desc) : Bool := db d 0 37
def mFuse (d : Desc) : Nat := df d 0 36 35
def mFuseFmt (d : Desc) : Nat := df d 0 34 33
def mOutFmt (d : Desc) : Nat := df d 0 32 30
def mAccBase (d : Desc) : Nat := df d 0 29 21
def mVectors (d : Desc) : Nat := df d 0 7 0 + 1
def mActAddr (d : Desc) : Nat := df d 1 63 32
def mActStride (d : Desc) : Nat := df d 1 31 0
def mWAddr (d : Desc) : Nat := df d 2 63 32
def mOscale (d : Desc) : Nat := df d 2 31 0
def mActScale (d : Desc) : Nat := df d 3 63 32
def mWScale (d : Desc) : Nat := df d 3 31 0
def mOutAddr (d : Desc) : Nat := df d 4 63 32
def mOutStride (d : Desc) : Nat := df d 4 31 0
def mFuseAddr (d : Desc) : Nat := df d 5 63 32
def mFuseStride (d : Desc) : Nat := df d 5 31 0
def mOutScale (d : Desc) : BitVec 32 := BitVec.ofNat 32 (df d 6 63 32)
def mSpec (d : Desc) : Nat := df d 6 31 16
def mTag (d : Desc) : Nat := df d 6 15 0
def mStatus (d : Desc) : Nat := df d 7 63 32
def mKTiles (d : Desc) : Nat := df d 7 31 0

/-- Both operands have four bits of the same kind (Table 5.1, first two rows). -/
def fourBitPair (a w : Nat) : Bool := (a == 0 && w == 0) || (a == 6 && w == 6)

/-- The operand pairs of Table 5.1. -/
def pairOk (a w : Nat) : Bool :=
  (decide (a ≤ 1) && decide (w ≤ 1)) || ([2, 3, 6].contains a && [2, 3, 6].contains w) || (a == 5 && w == 5)

/-- Elements per tile K (Table 5.1). -/
def kPerTile (d : Desc) : Nat := if fourBitPair (mActFmt d) (mWFmt d) then 128 else 64

/-- Cycles per vector c (Table 5.1). -/
def cyclesPerVector (d : Desc) : Nat := if mActFmt d = 5 then 2 else 1

/-- Bytes of a weight block B (R141). -/
def blockBytes (d : Desc) : Nat := kPerTile d * 32 * fmtBits (mWFmt d) / 8

/-- Group size g; a tile's K without groups (R183, R185). -/
def groupSize (d : Desc) : Nat := if mGroup d = 0 then kPerTile d else 16 * 2 ^ mGroup d

/-- Bytes of an output and of a fused operand element (Table 3.5, Table 5.3). -/
def outBytes (d : Desc) : Nat := fmtBits (outFmt (mOutFmt d)) / 8
def fuseBytes (d : Desc) : Nat := if mFuseFmt d = 0 then 4 else 2

/-- Groups per vector in the activation scale tensor (R186). -/
def actGroups (d : Desc) : Nat := mActStride d * 8 / (fmtBits (mActFmt d) * groupSize d)

/-- The highest array a mask names, plus one. -/
def maskTop (m : Nat) : Nat := ((setBits 4 m).getLastD 0) + 1

/-- The lowest array a mask names. -/
def maskLow (m : Nat) : Nat := (setBits 4 m).headD 0

/-- Arrays of a core that are fused on (R5, R140, R161). -/
def arraysOn (core : Nat) (s : State) : Nat :=
  if core < 96 then field s.identity.arrayMap.toNat (4 * core + 3) (4 * core) else 1

/-! The decode check (R148, R151). -/

/-- The checks of R148 on the fields alone. -/
def matFieldsOk (d : Desc) : Bool :=
  df d 0 63 56 == 0x30 && pairOk (mActFmt d) (mWFmt d) && !(mGroup d != 0 && mScaleFmt d == 3) &&
  !(mAccOut d && (mFuse d == 3 || mFuseFmt d == 3 || decide (5 ≤ mOutFmt d) || !posFinite32 (mOutScale d))) &&
  decide (mAccBase d + mVectors d ≤ 512) && mKTiles d != 0 && decide (mKTiles d ≤ 1048576) &&
  !(mAccOut d && mStatus d % 32 != 0)

/-- The ranges a descriptor reads and writes, from the first byte touched: offset and length. Slots of arrays not named are not
touched (R148, R147, R186, R187, R193). -/
def matRanges (d : Desc) : List (Nat × Nat) :=
  let low := maskLow (mMask d)
  let top := maskTop (mMask d) - low
  let m1 := mVectors d - 1
  let groups := mKTiles d * kPerTile d / groupSize d
  let z := scaleBytes (mScaleFmt d)
  [(mActAddr d, m1 * mActStride d + mKTiles d * kPerTile d * fmtBits (mActFmt d) / 8)] ++
  (if mGroup d = 0 then []
   else [(mActScale d, (m1 * actGroups d + groups) * z), (mWScale d + low * 32 * z, ((groups - 1) * 4 + top) * 32 * z)]) ++
  (if mAccOut d then
     [(mOutAddr d + 32 * low * outBytes d, m1 * mOutStride d + 32 * top * outBytes d), (mStatus d, 32)] ++
     (if mFuse d = 0 then [] else [(mFuseAddr d + 32 * low * fuseBytes d, m1 * mFuseStride d + 32 * top * fuseBytes d)]) ++
     (if mOscale d = 0 then [] else [(mOscale d + low, m1 * (mOutStride d / (32 * outBytes d)) + top)])
   else [])

/-- The range of the weight blocks; inside a weight ring it is the ring, which R264 has checked (R141, R268). -/
def weightRangeOk (core : Nat) (d : Desc) (part : Nat × Nat) (s : State) : Bool :=
  (ringOf core (mWAddr d) s).isSome ||
  inPart part (mWAddr d + maskLow (mMask d) * blockBytes d)
    ((4 * (mKTiles d - 1) + maskTop (mMask d) - maskLow (mMask d)) * blockBytes d)

/-- Two chains share entries on a named array (R151). -/
def chainsOverlap (c : Chain) (d : Desc) : Bool :=
  (c.mask &&& mMask d) != 0 && decide (c.accBase < mAccBase d + mVectors d) && decide (mAccBase d < c.accBase + c.m)

/-- A chain that a descriptor with ACC_IN = 1 continues: open, not yet closed by ACC_OUT, and matching (R151). A chain whose
speculation ID has committed carries 0. -/
def chainMatches (c : Chain) (d : Desc) : Bool :=
  c.accBase == mAccBase d && c.m == mVectors d && c.mask == mMask d && c.actFmt == mActFmt d && c.wFmt == mWFmt d &&
  c.group == mGroup d && c.scaleFmt == mScaleFmt d && decide (c.descs.length < 256) &&
  mSpec d == c.spec && !(c.descs.any (fun e => mAccOut e.desc))

/-- The chain rules of R151. -/
def chainRulesOk (core : Nat) (d : Desc) (s : State) : Bool :=
  let cs := (matOf core s).chains
  if mAccIn d then cs.any (fun c => chainMatches c d)
  else decide (cs.length < 16) && cs.all (fun c => !chainsOverlap c d)

/-- A matrix descriptor passes its decode check on a core (R148). -/
def matDecodeOk (core : Nat) (d : Desc) (org : Origin) (s : State) : Bool :=
  let part := sramPart core org s
  matFieldsOk d && mMask d != 0 && (mMask d &&& arraysOn core s) == mMask d && !(matOf core s).failed &&
  inPart (accPart core org s) (mAccBase d) (mVectors d) && (matRanges d).all (fun r => inPart part r.1 r.2) &&
  weightRangeOk core d part s && chainRulesOk core d s

/-! Accumulator files and the tile queue. -/

/-- Key of an accumulator entry: array, entry, column. -/
def accKey (a entry col : Nat) : Nat := (a * 512 + entry) * 32 + col

/-- An accumulator entry. -/
def accGet (m : CoreMatrix) (key : Nat) : BitVec 48 := (alGet m.acc key).getD 0

/-- Entries with one set; a zero entry is not listed. -/
def accSet (l : List (Nat × BitVec 48)) (key : Nat) (v : BitVec 48) : List (Nat × BitVec 48) :=
  if v = 0 then alErase l key else alSet l key v

/-- Keys of the entries of a chain. -/
def chainKey (accBase m mask key : Nat) : Bool :=
  bitOf mask (key / 16384) && decide (accBase ≤ key / 32 % 512) && decide (key / 32 % 512 < accBase + m)

/-- The entries of a chain cleared. -/
def clearEntries (core accBase m mask : Nat) (s : State) : State :=
  updMat core (fun x => { x with acc := x.acc.filter (fun p => !chainKey accBase m mask p.1) }) s

/-- Descriptors held by open chains (R152). -/
def ringUsed (x : CoreMatrix) : Nat := (x.chains.map (·.descs.length)).foldl (· + ·) 0

/-- The number of the next descriptor decoded. -/
def nextNum (x : CoreMatrix) : Nat := (x.chains.flatMap (fun c => c.descs.map (·.num + 1))).foldl Nat.max 0

/-- A descriptor joins its chain or opens one. -/
def addToChain (core : Nat) (d : Desc) (org : Origin) (s : State) : State :=
  let x := matOf core s
  let e : TileEntry := { num := nextNum x, desc := d, org := org, tile := 0, done := false, preempted := false, loaded := [] }
  if mAccIn d then
    updMat core (fun x => { x with
      chains := updFirst (fun c => chainMatches c d) (fun c => { c with descs := c.descs ++ [e] }) x.chains }) s
  else
    let c : Chain :=
      { accBase := mAccBase d, m := mVectors d, mask := mMask d, actFmt := mActFmt d, wFmt := mWFmt d, group := mGroup d,
        scaleFmt := mScaleFmt d, spec := mSpec d, org := org, descs := [e], products := 0, shift := 0, replays := 0,
        overflow := false, overflowFinal := false, groupReg := [], firstRead := none, lastRead := 0, waits := 0,
        rings := [] }
    updMat core (fun x => { x with chains := x.chains ++ [c] }) (clearEntries core (mAccBase d) (mVectors d) (mMask d) s)

/-- A chain reads a weight ring of its core. -/
def chainReads (core : Nat) (c : Chain) (ring : Nat) (s : State) : Bool :=
  c.descs.any (fun e => (ringOf core (mWAddr e.desc) s).any (fun u => u.id == ring))

/-- Another open chain reads the weight ring that a descriptor names (R269). -/
def ringTaken (core : Nat) (d : Desc) (s : State) : Bool :=
  match ringOf core (mWAddr d) s with
  | none => false
  | some t => (matOf core s).chains.any (fun c => !(mAccIn d && chainMatches c d) && chainReads core c t.id s)

/-- MATMUL (R148, R152, R269): a full tile queue or a taken ring leaves the descriptor waiting at decode. -/
def execMatmul (core : Nat) (desc : Desc) (org : Origin) (s : State) : Host.Outcome State Fault Refusal :=
  if 98 ≤ core then .fault .noSuchUnit
  else if inTurn core desc org s = false then .next (holdIssued core desc org s)
  else if matDecodeOk core desc org s = false then
    .next (jobFaultPlain 1 core
      (if (matOf core s).failed || (mMask desc &&& arraysOn core s) != mMask desc then 8 else 1)
      (mTag desc) (df desc 0 63 56) (takeIssued core desc org s))
  else if s.job.tileRing ≤ ringUsed (matOf core s) ∨ ringTaken core desc s = true then .next (holdIssued core desc org s)
  else .next (addToChain core desc (issuedOrigin core desc org s) (takeIssued core desc org s))

/-! Streaming (R143, R183 to R188). -/

/-- A pass of the chain stopped for a replay (R190). -/
def needsReplay (c : Chain) : Bool := c.overflow && decide (c.shift < 32)

/-- An entry may stream: not done, and where a switch has stopped its queue's descriptors, that queue is served again: the core
has it, or runs no task and would take its work (R153, R364). -/
def mayStream (core : Nat) (s : State) (e : TileEntry) : Bool :=
  !e.done && (!e.preempted || alGet s.job.coreQueue core == some e.org.queue ||
    ((ctlOf core s).task.isNone && chooseQueue (cgOf core) s == some e.org.queue))

/-- The next entry of the tile queue, in decode order (R144). -/
def nextEntry (core : Nat) (s : State) : Option TileEntry :=
  ((matOf core s).chains.flatMap (fun c => c.descs.filter (mayStream core s))).foldl
    (fun best e => match best with
      | none => some e
      | some b => if e.num < b.num then some e else some b) none

/-- The chain of an entry. -/
def chainOfEntry (x : CoreMatrix) (e : TileEntry) : Option Chain :=
  x.chains.find? (fun c => c.descs.any (fun y => y.num == e.num))

/-- An entry and its chain changed. -/
def updEntry (core num : Nat) (f : Chain → Chain) (g : TileEntry → TileEntry) (s : State) : State :=
  updMat core (fun x => { x with
    chains := updFirst (fun c => c.descs.any (fun y => y.num == num))
      (fun c => f { c with descs := updFirst (fun y => y.num == num) g c.descs }) x.chains }) s

/-- Byte offset of block (t, a), reduced within a weight ring (R141, R268). -/
def blockAddr (core : Nat) (d : Desc) (t a : Nat) (s : State) : Nat :=
  let addr := mWAddr d + (4 * t + a) * blockBytes d
  match ringOf core (mWAddr d) s with
  | some r => ringAddr9 r addr
  | none => addr

/-- The groups that begin in a tile: the first and how many. -/
def tileGroups (d : Desc) (t : Nat) : Nat × Nat :=
  let g := groupSize d
  let first := t * kPerTile d
  let k := (first + g - 1) / g
  (k, (first + kPerTile d + g - 1) / g - k)

/-- The weight scales of array a's columns for the groups that begin in a tile (R187, R188). -/
def readScales (core : Nat) (d : Desc) (t a : Nat) (s : State) : List Byte :=
  if mGroup d = 0 then []
  else
    let z := scaleBytes (mScaleFmt d)
    let ks := tileGroups d t
    (List.range ks.2).flatMap (fun i => sramRead core (mWScale d + (((ks.1 + i) * 4 + a) * 32) * z) (32 * z) s)

/-- The blocks of a tile, one per array, each with its tile's weight scales after it; none for an array not named (R188). -/
def readBlocks (core : Nat) (d : Desc) (t : Nat) (s : State) : List (List Byte) :=
  (List.range 4).map (fun a =>
    if bitOf (mMask d) a then sramRead core (blockAddr core d t a s) (blockBytes d) s ++ readScales core d t a s else [])

/-- WEIGHT_LOAD: a tile's blocks, and the state after the load; none while its weight ring has not progressed so far
(R142, R268). -/
def loadTile (core : Nat) (e : TileEntry) (s : State) : Option (List (List Byte) × State) :=
  let bs := readBlocks core e.desc e.tile s
  if e.loaded ≠ [] then some (e.loaded, s)
  else match ringOf core (mWAddr e.desc) s with
  | none => some (bs, s)
  | some t =>
    let n := ringLoadsOf core t
    if progressCount core t.desc s ≤ n then none
    else
      let s := setRingLoads t.id core (n + 1) s
      let s := coreStore core (mSpec e.desc) (xReleaseAddr t.desc) (leBytes 8 ((releaseCount core t.desc s + 1) % 2 ^ 64)) core 1
        (mTag e.desc) 0x30 s
      some (bs, updEntry core e.num (fun c =>
        if c.rings.any (fun r => r.1 == t.id) then c else { c with rings := c.rings ++ [(t.id, n)] }) id s)

/-- One addition within a group: exact, or rounded to Aw48 in BF16 pairs (R183). -/
def groupAdd (bf : Bool) (sum product : FVal) : FVal :=
  if bf then valAw (roundAw (fadd sum product)).1 else fadd sum product

/-- A column's partial sum over some elements added to the group register. -/
def segmentSum (bf : Bool) : FVal → List FVal → List FVal → FVal
  | g, x :: xs, w :: ws => segmentSum bf (groupAdd bf g (fmul x w)) xs ws
  | g, _, _ => g

/-- The scale of group k for vector m and column j, the i-th group that begins in its tile: the activation scale read with the
vector times the weight scale loaded with the block, exact (R184, R186 to R188). -/
def groupScale (core : Nat) (d : Desc) (k i m j : Nat) (block : List Byte) (s : State) : FVal :=
  if mGroup d = 0 then ofInt 1
  else
    let z := scaleBytes (mScaleFmt d)
    fmul (decScale (mScaleFmt d) (ofLe (sramRead core (mActScale d + (m * actGroups d + k) * z) z s)))
      (decScale (mScaleFmt d) (leAt block (blockBytes d + (i * 32 + j) * z) z))

/-- Accumulation of one output element over a tile: entry, group register with its scale, and overflow. -/
structure ElemAcc where
  entry : BitVec 48
  grp : FVal
  scale : FVal := .fin false 1 0
  overflow : Bool
  deriving DecidableEq, Repr

/-- A completed group sum dequantised and added (R184, R185). -/
def addGroup (shift : Nat) (x : ElemAcc) : ElemAcc :=
  let v := roundAw (fscale (-(shift : Int)) (fmul x.grp x.scale))
  let r := roundAw (fadd (valAw x.entry) (valAw v.1))
  { x with entry := r.1, grp := .fin false 0 0, overflow := x.overflow || v.2 || r.2 }

/-- The segments of a tile accumulated into one output element. A group takes its scales with its first tile and holds them in
the group register (R188). -/
def tileElem (core : Nat) (d : Desc) (tile shift m j : Nat) (block : List Byte) (s : State) (acts ws : List FVal) (x : ElemAcc) :
    ElemAcc :=
  let k := kPerTile d
  let g := groupSize d
  let n := Nat.min g k
  let first := tile * k
  (List.range (k / n)).foldl (fun x i =>
    let b := first + i * n
    let x := if b % g = 0 then
        { x with scale := groupScale core d (b / g) (b / g - (tileGroups d tile).1) m j block s } else x
    let y := { x with grp := segmentSum (mActFmt d == 5) x.grp ((acts.drop (i * n)).take n) ((ws.drop (i * n)).take n) }
    if (b + n) % g = 0 then addGroup shift y else y) x

/-- The elements of vector m that a tile uses (Table 5.3, T1). -/
def tileActs (core : Nat) (d : Desc) (tile m : Nat) (s : State) : List FVal :=
  let k := kPerTile d
  let bs := sramRead core (mActAddr d + m * mActStride d + tile * k * fmtBits (mActFmt d) / 8) (k * fmtBits (mActFmt d) / 8) s
  (List.range k).map (fun i => decElem (mActFmt d) (packedAt bs (mActFmt d) i))

/-- The weights of column j of a block (R141). -/
def columnWeights (d : Desc) (block : List Byte) (j : Nat) : List FVal :=
  let bs := slice block (j * (blockBytes d / 32)) (blockBytes d / 32)
  (List.range (kPerTile d)).map (fun i => decElem (mWFmt d) (packedAt bs (mWFmt d) i))

/-- What a tile leaves of a chain's entries, group registers and overflow mark. -/
structure TileAcc where
  acc : List (Nat × BitVec 48)
  grp : List (Nat × (FVal × FVal))
  overflow : Bool

/-- A tile's vectors streamed through the named arrays: every output element accumulated. -/
def tileAccumulate (core : Nat) (c : Chain) (e : TileEntry) (blocks : List (List Byte)) (s : State) : TileAcc :=
  let d := e.desc
  let first := e.tile * kPerTile d
  let acts := (List.range c.m).map (fun m => tileActs core d e.tile m s)
  (setBits 4 c.mask).foldl (fun z a =>
    (List.range 32).foldl (fun z j =>
      let ws := columnWeights d (blocks.getD a []) j
      (List.range c.m).foldl (fun z m =>
        let key := accKey a (c.accBase + m) j
        let g := (alGet z.grp key).getD (.fin false 0 0, .fin false 1 0)
        let r := tileElem core d e.tile c.shift m j (blocks.getD a []) s (acts.getD m []) ws
          { entry := (alGet z.acc key).getD 0, grp := g.1, scale := g.2, overflow := z.overflow }
        { acc := accSet z.acc key r.entry,
          grp := if (first + kPerTile d) % groupSize d = 0 then alErase z.grp key else alSet z.grp key (r.grp, r.scale),
          overflow := r.overflow }) z) z)
    { acc := (matOf core s).acc, grp := c.groupReg, overflow := c.overflow }

/-- The shadows taken from the entry they were loaded for: blocks from a weight ring, whose slot is released, stay with
it (log 25). -/
def stashShadow (core : Nat) (s : State) : State :=
  let x := matOf core s
  match x.shadowTag with
  | none => s
  | some t =>
    let s := updEntry core t.1 id (fun y =>
      if (ringOf core (mWAddr y.desc) s).isSome then { y with loaded := x.shadow } else y) s
    updMat core (fun x => { x with shadowTag := none }) s

/-- A descriptor decoded before another has vectors left to read, or its chain's drain left to write (R145). -/
def earlierDrain (x : CoreMatrix) (num : Nat) : Bool :=
  x.chains.any (fun c => c.descs.any (fun y => (!y.done || mAccOut y.desc) && decide (y.num < num)))

/-- The next tile's blocks loaded into the shadows while a tile streams from cycle `start` (R142). -/
def prefetchTile (core start : Nat) (s : State) : State :=
  match nextEntry core s with
  | none => updMat core (fun x => { x with shadowTag := none }) s
  | some e =>
    if ((chainOfEntry (matOf core s) e).map needsReplay).getD true then updMat core (fun x => { x with shadowTag := none }) s
    else match loadTile core e s with
      | none => updMat core (fun x => { x with shadowTag := none }) s
      | some (bs, s) =>
        updMat core (fun x => { x with shadow := bs, shadowTag := some (e.num, e.tile), loadDone := start + 32 }) s

/-- A tile of an entry streamed with its blocks: cycles, counters, sums, and the next tile's load (R142 to R145, R154). -/
def streamTile (core : Nat) (c : Chain) (e : TileEntry) (blocks : List (List Byte)) (shadowed : Bool) (s : State) : State :=
  let x := matOf core s
  let d := e.desc
  let base := if mDep d ∧ e.tile = 0 then Nat.max x.clock x.writtenAt else x.clock
  let start := if shadowed then Nat.max base x.loadDone else base + 32
  let wait := if shadowed then start - base else 0
  let cycles := c.m * cyclesPerVector d
  let last := start + (c.m - 1) * cyclesPerVector d
  let r := tileAccumulate core c e blocks s
  let newOver := r.overflow && !c.overflow
  let ends := decide (mKTiles d ≤ e.tile + 1)
  let s := count Cnt.streamCycles (cycles * popcount 4 c.mask) s
  let s := if base = x.clock then s else count Cnt.depWaitCycles (base - x.clock) s
  let s := if wait = 0 then s else count Cnt.weightWaitCycles wait s
  let s := updMat core (fun x => { x with active := blocks, acc := r.acc, clock := start + cycles }) s
  let s := updEntry core e.num
    (fun c => { c with
      products := c.products + kPerTile d, overflow := r.overflow,
      overflowFinal := c.overflowFinal || (newOver && decide (32 ≤ c.shift)),
      groupReg := if ends then [] else r.grp, firstRead := some (c.firstRead.getD start), lastRead := last,
      waits := c.waits + wait })
    (fun y => { y with tile := y.tile + 1, done := ends, preempted := false, loaded := [] }) s
  prefetchTile core start (if ends && !mAccOut d then descriptorSilent e.org s else s)

/-- TILE_STREAM: the next tile of the tile queue streams. Nothing streams while a chain awaits its replay, an earlier
drain that DEP waits for is not written, a weight ring has not progressed, or the core is not on. -/
def execTileStream (core : Nat) (s : State) : Host.Outcome State Fault Refusal :=
  if 98 ≤ core then .fault .noSuchUnit
  else
    let x := matOf core s
    match nextEntry core s with
    | none => .next s
    | some e =>
      match chainOfEntry x e with
      | none => .next s
      | some c =>
        if coreOn core s = false ∨ x.failed = true ∨ x.chains.any needsReplay = true ∨
            (mDep e.desc ∧ e.tile = 0 ∧ earlierDrain x e.num = true) then .next s
        else if x.shadowTag = some (e.num, e.tile) then .next (sramErrors core (streamTile core c e x.shadow true s))
        else match loadTile core e s with
          | none =>
            .next (updMat core (fun x => { x with ringWaitSince := some (x.ringWaitSince.getD s.now) }) s)
          | some (bs, s) =>
            let waited := match x.ringWaitSince with
              | some t => cyclesSince core t s
              | none => 0
            let s := if waited = 0 then s else count Cnt.ringWaitCycles waited s
            let s := updMat core (fun x => { x with ringWaitSince := none }) s
            .next (match chainOfEntry (matOf core s) e with
              | some c => sramErrors core (streamTile core c e bs false s)
              | none => s)

/-! Drain (R157 to R159, R196). -/

/-- A chain whose last descriptor drains and whose pass has run to its end. -/
def drainable (c : Chain) : Bool :=
  c.descs.any (fun e => mAccOut e.desc) && c.descs.all (·.done) && !needsReplay c

/-- One drained element: the F32 value before division, the converted code, and its saturations. -/
structure Drained where
  value : BitVec 32
  out : Conv
  sat1 : Bool
  deriving DecidableEq, Repr

/-- The drain steps of one element (R157 steps 1, 2, 4, 5). -/
def drainElem (core : Nat) (d : Desc) (m col : Nat) (entry : BitVec 48) (s : State) : Drained :=
  let v := awTo32 entry
  let f := fun (_ : Unit) =>
    let x := ofLe (sramRead core (mFuseAddr d + m * mFuseStride d + col * fuseBytes d) (fuseBytes d) s)
    if mFuseFmt d = 0 then BitVec.ofNat 32 x else enc32 (decF (if mFuseFmt d = 1 then fmtBF16 else fmtF16) x)
  let y := if mFuse d = 1 then add32 v.1 (f ()) else if mFuse d = 2 then mul32 v.1 (f ()) else v.1
  { value := y, out := convOut (mOutFmt d) (div32 y (mOutScale d)), sat1 := v.2 }

/-- ABSMAX over drained values: the largest magnitude, a NaN if any is one (R196). -/
def absMax (l : List Drained) : BitVec 32 := l.foldl (fun a x => max32 a (enc32 (fabs (val32 x.value)))) 0

/-- The drained elements of array a and vector m. -/
def drainRow (core : Nat) (c : Chain) (d : Desc) (a m : Nat) (s : State) : List Drained :=
  (List.range 32).map (fun j => drainElem core d m (32 * a + j) (accGet (matOf core s) (accKey a (c.accBase + m) j)) s)

/-- Named arrays and vectors of a chain. -/
def chainRows (c : Chain) : List (Nat × Nat) := (setBits 4 c.mask).flatMap (fun a => (List.range c.m).map (fun m => (a, m)))

/-- The status record of a chain (Table 5.4). -/
def matStatus (c : Chain) (d : Desc) (sat5 : Nat) (saturated : Bool) (amax : BitVec 32) : List Byte :=
  let bv := decide (16777216 < c.products)
  let st := if saturated then stSaturated else if bv then stBoundVoid else stOk
  leBytes 8 (2 ^ 63 + st * 2 ^ 48 + c.mask * 2 ^ 44 + (if c.overflowFinal then 3 else c.replays) * 2 ^ 42 +
    (if c.overflowFinal then 2 ^ 41 else 0) + (if bv then 2 ^ 40 else 0) + (if saturated then 2 ^ 39 else 0) +
    mTag d * 2 ^ 16 + c.descs.length) ++
  leBytes 8 c.products ++ leBytes 8 (Nat.min sat5 0xFFFFFFFF * 2 ^ 32 + amax.toNat) ++
  leBytes 8 ((c.lastRead + 112 - c.firstRead.getD 0) % 2 ^ 32 * 2 ^ 32 + c.waits % 2 ^ 32)

/-- A chain's entries released and the chain forgotten. -/
def releaseChain (core : Nat) (c : Chain) (s : State) : State :=
  purgeRings (updMat core (fun x => { x with chains := x.chains.erase c }) s)

/-- CHAIN_DRAIN of the chain at an ACC_BASE: outputs, scales, status record and counters (R157 to R159, R193). -/
def drainChain (core : Nat) (c : Chain) (d : Desc) (s : State) : State :=
  let rows := (chainRows c).map (fun p => (p.1, p.2, drainRow core c d p.1 p.2 s))
  let all := rows.flatMap (fun r => r.2.2)
  let sz := outBytes d
  let outs := rows.map (fun r =>
    (mOutAddr d + r.2.1 * mOutStride d + 32 * r.1 * sz, packCodes (outFmt (mOutFmt d)) (r.2.2.map (·.out.code))))
  let scales := if mOscale d = 0 then [] else rows.map (fun r =>
    (mOscale d + r.2.1 * (mOutStride d / (32 * sz)) + r.1, [BitVec.ofNat 8 (127 + c.shift)]))
  let sat5 := all.countP (fun x => x.out.sat)
  let satAny := all.countP (fun x => x.out.sat || x.sat1)
  let saturated := c.overflowFinal || satAny != 0
  let bv := decide (16777216 < c.products)
  let isInf := fun (x : Drained) => mOutFmt d == 0 && (match val32 (BitVec.ofNat 32 x.out.code) with | .inf _ => true | _ => false)
  let isNaN := fun (x : Drained) => (floatFmt (outFmt (mOutFmt d))).any (fun k => isNan (decF k x.out.code))
  let status := matStatus c d sat5 saturated (absMax all)
  let ws := outs ++ scales ++ [(mStatus d + 8, status.drop 8), (mStatus d, status.take 8)]
  if ws.any (fun w => c.spec != 0 && !rangesCover c.spec false core w.1 w.2.length s) then
    coreStoreAll core c.spec ws core 1 (mTag d) 0x30 s
  else
    let s := coreStoreAll core c.spec ws core 1 (mTag d) 0x30 s
    let s := updMat core (fun x => { x with writtenAt := Nat.max x.writtenAt (c.lastRead + cyclesPerVector d + 112) }) s
    let s := count Cnt.chainsDrained 1 s
    let s := if satAny = 0 then s else count Cnt.satElements3 satAny (countSat satAny s)
    let nan0 := all.countP (fun x => x.out.narrow)
    let s := if nan0 = 0 then s else count Cnt.nanToZero nan0 s
    let s := if c.overflowFinal then count Cnt.finalOverflows 1 s else s
    let s := if bv then count Cnt.boundVoidChains 1 (count Cnt.boundVoidResults 1 s) else s
    let s := if all.countP isInf = 0 then s else count Cnt.infResults (all.countP isInf) s
    let s := if all.countP isNaN = 0 then s else count Cnt.nanResults (all.countP isNaN) s
    let s := specMark c.spec c.org.launch saturated bv false s
    let s := descriptorDone (c.descs.getLast?.map (·.org) |>.getD c.org) (ofLe (status.take 8)) s
    releaseChain core c s

/-- CHAIN_DRAIN. -/
def execChainDrain (core accBase : Nat) (s : State) : Host.Outcome State Fault Refusal :=
  if 98 ≤ core then .fault .noSuchUnit
  else
    match (matOf core s).chains.find? (fun c => c.accBase == accBase && drainable c) with
    | none => .next s
    | some c =>
      match c.descs.find? (fun e => mAccOut e.desc) with
      | none => .next s
      | some e =>
        if coreOn core s = false then .next s
        else if c.group ≠ 0 ∧ c.products % (16 * 2 ^ c.group) ≠ 0 then
          .next (jobFaultPlain 1 core 1 (mTag e.desc) 0x30 (releaseChain core c s))
        else .next (drainChain core c e.desc s)

/-! Replay and pre-emption (R153, R155, R190 to R195). -/

/-- The pass of a chain begun again with the next shift. -/
def replayChain (core : Nat) (c : Chain) (s : State) : State :=
  let c' : Chain :=
    { c with
      shift := c.shift + 16, replays := c.replays + 1, overflow := false, products := 0, groupReg := [],
      firstRead := none, waits := 0, descs := c.descs.map (fun e => { e with tile := 0, done := false, loaded := [] }) }
  let tag := (c.descs.getLast?.map (fun e => mTag e.desc)).getD 0
  let s := clearEntries core c.accBase c.m c.mask s
  let s := updMat core (fun x => { x with chains := updFirst (fun y => y == c) (fun _ => c') x.chains }) s
  let s := c.rings.foldl (fun s r => rewindRing r.1 core r.2 s) s
  let s := count Cnt.chainReplays 1 (count (if c.shift = 0 then Cnt.firstReplays else Cnt.secondReplays) 1 s)
  if ent Ent.replayRecord s = 0 then s else specRecord s.now c.spec 0x5002 core [tag, c.shift + 16] s

/-- CHAIN_REPLAY: an overflow of a pass with shift 0 or 16. -/
def execChainReplay (core accBase : Nat) (s : State) : Host.Outcome State Fault Refusal :=
  if 98 ≤ core then .fault .noSuchUnit
  else
    match (matOf core s).chains.find? (fun c => c.accBase == accBase && needsReplay c) with
    | none => .next s
    | some c =>
      if (matOf core s).shadowTag.any (fun t => c.descs.any (fun e => e.num == t.1)) then
        .next (replayChain core c (updMat core (fun x => { x with shadowTag := none }) s))
      else
        .next (replayChain core c (stashShadow core s))

/-- A core has been switched away from a queue: to another, or to none by the end of its reservation (R365). -/
def leftQueue (core q : Nat) (s : State) : Bool :=
  match alGet s.job.coreQueue core with
  | some x => q != x
  | none => s.job.outgoing.any (fun o => o.core == core && o.queue == q)

/-- TILE_PREEMPT: the core has been switched to another queue, and the descriptors of the queue it leaves stop at their
tile boundary until that queue is served again; a replay of their chain does not change that (R153, R195). -/
def execTilePreempt (core : Nat) (s : State) : Host.Outcome State Fault Refusal :=
  if 98 ≤ core then .fault .noSuchUnit
  else
    let s' :=
      if (matOf core s).shadowTag.any (fun t =>
          (matOf core s).chains.any (fun c => c.descs.any (fun e => e.num == t.1 && leftQueue core e.org.queue s))) then
        stashShadow core s
      else s
    .next (updMat core (fun x => { x with
      chains := x.chains.map (fun c => { c with
        descs := c.descs.map (fun e => if leftQueue core e.org.queue s then { e with preempted := true } else e) }) }) s')

/-- Chains that end without a drain: entries released, descriptors dropped, tiles not streamed counted (R156). -/
def dropChains (core : Nat) (p : Chain → Bool) (s : State) : State :=
  let gone := (matOf core s).chains.filter p
  let tiles := ((gone.flatMap (·.descs)).map (fun e => if e.done then 0 else mKTiles e.desc - e.tile)).foldl (· + ·) 0
  let s := gone.foldl (fun s c => clearEntries core c.accBase c.m c.mask s) s
  let s := updMat core (fun x => { x with
    chains := x.chains.filter (fun c => !p c),
    shadowTag := x.shadowTag.filter (fun t => !gone.any (fun c => c.descs.any (fun e => e.num == t.1))) }) s
  purgeRings (if tiles = 0 then s else count Cnt.squashedTiles tiles s)

end Sys2Proof.Machine
end

