-- ==== Sys2Proof/Machine/Sequences.lean ====
section
/-! DEFINITION. User-history sequences (08): the summary descriptor and its segments, the merge, append stages, and the
session step with its leaves, joins and folds. -/

namespace Sys2Proof.Machine

open Sys2Proof

/-! The summary descriptor (Table 8.3). -/

def hBlocked (d : Desc) : Bool := db d 0 55
def hKeyFmt (d : Desc) : Nat := df d 0 54 51
def hOutFmt (d : Desc) : Nat := df d 0 50 48
def hHeads (d : Desc) : Nat := df d 0 47 40 + 1
def hCores (d : Desc) : Nat := df d 0 39 32
def hDk (d : Desc) : Nat := df d 0 31 16
def hDv (d : Desc) : Nat := df d 0 15 0
def hWindow (d : Desc) : Nat := dword d 1
def hSession (d : Desc) : Nat := dword d 2
def hQuery (d : Desc) : Nat := df d 3 63 32
def hQscale (d : Desc) : Nat := df d 3 31 0
def hScoreScale (d : Desc) : BitVec 32 := BitVec.ofNat 32 (df d 4 63 32)
def hOutScale (d : Desc) : BitVec 32 := BitVec.ofNat 32 (df d 4 31 0)
def hOut (d : Desc) : Nat := df d 5 63 32
def hInline (d : Desc) : Nat := df d 5 31 0
def hInlineEvents (d : Desc) : Nat := df d 6 63 32
def hSpec (d : Desc) : Nat := df d 6 31 16
def hTag (d : Desc) : Nat := df d 6 15 0
def hStatus (d : Desc) : Nat := dword d 7

/-! The store (R243, Table 8.2). -/

/-- Offsets of a block's planes: key scales, values and block state, for a DK and DV. -/
def scalePlane (dk : Nat) : Nat := 1024 + 64 * dk
def valuePlane (dk : Nat) : Nat := 1024 + 66 * dk
def statePlane (dk dv : Nat) : Nat := 1024 + 66 * dk + 128 * dv

/-- Stride of a block. -/
def blockStride (dk dv heads : Nat) : Nat := alignUp (statePlane dk dv + heads * (8 + 4 * dv)) 1024

/-- Blocks of a store for a WINDOW. -/
def storeBlocks (window : Nat) : Nat := (window + 63) / 64 + 4

/-- Bytes of a session's store. -/
def storeBytes (x : Session) : Nat := x.blocks * blockStride x.dk x.dv x.heads

/-- The resident session of an ID and context. -/
def sessionOf (context id : Nat) (s : State) : Option Session :=
  s.sequences.sessions.find? (fun x => x.id == id && x.context == context)

def updSession (context id : Nat) (f : Session → Session) (s : State) : State :=
  { s with sequences := { s.sequences with
      sessions := updFirst (fun x => x.id == id && x.context == context) f s.sequences.sessions } }

/-- Device virtual address of an offset in a block of a session, by session block number. -/
def blockVa (x : Session) (block off : Nat) : Nat :=
  x.base + block % x.blocks * blockStride x.dk x.dv x.heads + off

/-- The SEQUENCE declaration of a context: that of the launch's version, else of the context's first graph that has one
(WINDOW, DK, DV, heads, key format). -/
def declared (context : Nat) (launch : Option Nat) (s : State) : Option (Nat × Nat × Nat × Nat × Nat) :=
  match launch.bind (fun l => launchOf l s) with
  | some l => (versionOf l.graph l.version s).bind (·.sequence)
  | none => ((s.dispatch.graphs.filter (fun (g : Graph) => g.context == context)).filterMap (fun (g : Graph) =>
      (versionOf g.id g.current s).bind (·.sequence))).head?

/-! The window and its blocks (R242, R248). -/

/-- A block's part of the window: an inline block or a session block, and its slots lo to hi − 1. -/
structure Piece where
  inline_ : Bool
  block : Nat
  lo : Nat
  hi : Nat
  deriving DecidableEq, Repr

/-- The blocks that events lo to hi − 1 touch. -/
def piecesOf (inline_ : Bool) (lo hi : Nat) : List Piece :=
  if hi ≤ lo then []
  else (List.range ((hi - 1) / 64 - lo / 64 + 1)).map (fun i =>
    let b := lo / 64 + i
    { inline_ := inline_, block := b, lo := if i = 0 then lo % 64 else 0, hi := if b = (hi - 1) / 64 then (hi - 1) % 64 + 1 else 64 })

/-- The pieces of a summary's window, oldest first. -/
def summaryPieces (j : SummaryJob) : List Piece :=
  piecesOf false (j.appended - j.events) j.appended ++
  piecesOf true (hInlineEvents j.desc - j.inline) (hInlineEvents j.desc)

/-- Bytes of a piece's block, from an offset. -/
def pieceRead (core : Nat) (d : Desc) (x : Option Session) (p : Piece) (off n : Nat) (s : State) : List Byte :=
  if p.inline_ then stagingRead (dieOf core) (hInline d + p.block * blockStride (hDk d) (hDv d) (hHeads d) + off) n s
  else match x with
    | some x => devRead s (blockVa x p.block off) n
    | none => []

/-! Score and value passes (R248). Their chains overflow, replay, drain and count as any chain does (R155, R176, R190 to
R192, R204). -/

/-- The groups of one output element of a chain: activations, weights and scale. -/
abbrev CellGroups := List (List FVal × List FVal × FVal)

/-- One output element of a pass of a chain, its products scaled by 2^−shift. -/
def chainPass (bf : Bool) (shift : Nat) (groups : CellGroups) : ElemAcc :=
  groups.foldl (fun x g => addGroup shift { x with grp := segmentSum bf (.fin false 0 0) g.1 g.2.1, scale := g.2.2 })
    { entry := 0, grp := .fin false 0 0, overflow := false }

/-- The last pass of a chain over all its output elements, and its shift: an overflow in any of them replays the chain. -/
def runChain (bf : Bool) (cells : List CellGroups) : List ElemAcc × Nat :=
  let a := cells.map (chainPass bf 0)
  if a.any (·.overflow) then
    let b := cells.map (chainPass bf 16)
    if b.any (·.overflow) then (cells.map (chainPass bf 32), 32) else (b, 16)
  else (a, 0)

/-- An entry drained to F32 with the scaling of its replays undone, and whether it saturated (R176; log 33). -/
def drainCell (shift : Nat) (x : ElemAcc) : BitVec 32 × Bool :=
  match fscale shift (valAw x.entry) with
  | .fin a m e =>
    let c := convFloat fmtF32 (.fin a m e)
    (BitVec.ofNat 32 c.code, c.sat)
  | v => (enc32 v, false)

/-- What the chains of a pass add to the counters. -/
structure PassTally where
  chains : Nat
  first : Nat
  second : Nat
  final : Nat
  sat : Nat
  inf : Nat
  nan : Nat
  cycles : Nat
  deriving DecidableEq, Repr

/-- The tally of no chain. -/
def noPass : PassTally := { chains := 0, first := 0, second := 0, final := 0, sat := 0, inf := 0, nan := 0, cycles := 0 }

/-- Two tallies together. -/
def addTally (a b : PassTally) : PassTally :=
  { chains := a.chains + b.chains, first := a.first + b.first, second := a.second + b.second, final := a.final + b.final,
    sat := a.sat + b.sat, inf := a.inf + b.inf, nan := a.nan + b.nan, cycles := a.cycles + b.cycles }

/-- A chain drained with an F32 divisor for its outputs, and its tally; a pass streams for `cycles`. -/
def drainCells (bf : Bool) (scale : BitVec 32) (cycles : Nat) (cells : List CellGroups) : List (BitVec 32) × PassTally :=
  let r := runChain bf cells
  let vs := r.1.map (drainCell r.2)
  let outs := vs.map (fun v => div32 v.1 scale)
  let b := fun (c : Bool) => if c then 1 else 0
  (outs,
    { chains := 1, first := b (decide (16 ≤ r.2)), second := b (decide (32 ≤ r.2)),
      final := b (decide (r.2 = 32) && r.1.any (·.overflow)), sat := vs.countP (·.2),
      inf := outs.countP (fun v => match val32 v with
        | .inf _ => true
        | _ => false),
      nan := outs.countP (fun v => isNan (val32 v)), cycles := cycles * (r.2 / 16 + 1) })

/-- The counters of the array chains advanced by a tally. -/
def countPass (t : PassTally) (s : State) : State :=
  let add := fun (c n : Nat) (s : State) => if n = 0 then s else count c n s
  add Cnt.chainsDrained t.chains <| add Cnt.streamCycles t.cycles <| add Cnt.firstReplays t.first <|
    add Cnt.secondReplays t.second <| add Cnt.chainReplays (t.first + t.second) <| add Cnt.finalOverflows t.final <|
    add Cnt.infResults t.inf <| add Cnt.nanResults t.nan <| add Cnt.satElements3 t.sat (countSat t.sat s)

/-- Weight and scale bytes of a descriptor's query: in a core's SRAM. -/
def queryBytes (core : Nat) (d : Desc) (s : State) : List Byte × List Byte :=
  (sramRead core (hQuery d) ((4 * (hDk d / 64 - 1) + (hHeads d + 31) / 32) * 2048) s,
    sramRead core (hQscale d) (2 * hHeads d) s)

/-- The query weights of a head's tile k (R141). -/
def queryTile (d : Desc) (q : List Byte × List Byte) (h k : Nat) : List FVal :=
  (slice q.1 ((4 * k + h / 32) * 2048 + h % 32 * 64) 64).map (fun b => decElem (hKeyFmt d) b.toNat)

/-- The groups of a head's score of an event: a key's 64 elements under its scale times the query's. -/
def scoreGroups (d : Desc) (q : List Byte × List Byte) (h : Nat) (key scales : List Byte) : CellGroups :=
  (List.range (hDk d / 64)).map (fun k =>
    ((slice key (64 * k) 64).map (fun b => decElem (hKeyFmt d) b.toNat), queryTile d q h k,
      fmul (decF fmtBF16 (leAt scales (2 * k) 2)) (decF fmtBF16 (leAt q.2 (2 * h) 2))))

/-- The slots of a segment's pieces in the window, by piece number. -/
def segmentSlots (ps : List Piece) : List (Nat × Nat) :=
  ps.zipIdx.flatMap (fun p => (List.range (p.1.hi - p.1.lo)).map (fun i => (p.2, p.1.lo + i)))

/-- Lists of at most n elements, in order. -/
def chunksOf {α : Type} (n : Nat) : Nat → List α → List (List α)
  | 0, _ => []
  | _, [] => []
  | fuel + 1, l => l.take n :: chunksOf n fuel (l.drop n)

/-- The arrays that a summary's head columns take. -/
def headArrays (d : Desc) : Nat := (hHeads d + 31) / 32

/-- The score pass of a segment: one chain per 256 events over all heads. The scores, event by event and head by head. -/
def scorePass (core : Nat) (d : Desc) (q : List Byte × List Byte) (x : Option Session) (ps : List Piece) (s : State) :
    List (BitVec 32) × PassTally :=
  let dk := hDk d
  let slots := segmentSlots ps
  (chunksOf 256 slots.length slots).foldl (fun acc chunk =>
    let cells := chunk.flatMap (fun y =>
      match ps[y.1]? with
      | none => []
      | some p =>
        let key := pieceRead core d x p (1024 + y.2 * dk) dk s
        let scales := pieceRead core d x p (scalePlane dk + y.2 * dk / 32) (dk / 32) s
        (List.range (hHeads d)).map (fun h => scoreGroups d q h key scales))
    let r := drainCells false (hScoreScale d) (chunk.length * (dk / 64) * headArrays d) cells
    (acc.1 ++ r.1, addTally acc.2 r.2)) ([], noPass)

/-- The value pass of a segment: one BF16 chain, each dimension a vector and each block a tile, whose weights are the
probabilities of its slots by head. The values, dimension by dimension and head by head. -/
def valuePass (core : Nat) (d : Desc) (x : Option Session) (ps : List Piece) (prob : Nat → Nat → Nat → FVal) (s : State) :
    List (BitVec 32) × PassTally :=
  drainCells true 0x3F800000 (hDv d * ps.length * 2 * headArrays d) ((List.range (hDv d)).flatMap (fun v =>
    let acts := ps.map (fun p => (List.range 64).map (fun slot =>
      decF fmtBF16 (ofLe (pieceRead core d x p (valuePlane (hDk d) + 128 * v + 2 * slot) 2 s))))
    (List.range (hHeads d)).map (fun h => acts.zipIdx.map (fun a =>
      (a.1, (List.range 64).map (fun slot => prob h a.2 slot), ofInt 1)))))

/-- A probability 2^(score − m), rounded to BF16. -/
def bfProb (m score : BitVec 32) : BitVec 16 :=
  BitVec.ofNat 16 (encIeee fmtBF16 (val32 (transcend 8 (enc32 (fadd (val32 score) (fneg (val32 m)))))))

/-- A segment's states (m, l, o), head by head, and what its chains did (R248 steps 2 to 4). -/
def segmentState (core : Nat) (d : Desc) (q : List Byte × List Byte) (x : Option Session) (ps : List Piece) (s : State) :
    List (BitVec 32 × BitVec 32 × List (BitVec 32)) × PassTally :=
  let heads := hHeads d
  let slots := segmentSlots ps
  let scored := scorePass core d q x ps s
  let scores := (List.range heads).map (fun h => slots.zipIdx.map (fun y => (y.1, scored.1.getD (y.2 * heads + h) 0)))
  let ml := scores.map (fun l =>
    let m := l.foldl (fun a y => max32 a y.2) negInf32
    let ps := l.map (fun y => (y.1, bfProb m y.2))
    let flat := ps.map (fun y => enc32 (decF fmtBF16 y.2.toNat))
    (m, treeSum add32 flat.length (sumOrder flat.length (flat.zipIdx.map (fun y => (y.2, y.1)))), ps))
  let prob := fun (h p slot : Nat) => match ml[h]? with
    | none => FVal.fin false 0 0
    | some r => ((r.2.2.find? (fun y => y.1 == (p, slot))).map (fun y => decF fmtBF16 y.2.toNat)).getD (.fin false 0 0)
  let values := valuePass core d x ps prob s
  (ml.zipIdx.map (fun r => (r.1.1, r.1.2.1, (List.range (hDv d)).map (fun v => values.1.getD (v * heads + r.2) 0))),
    addTally scored.2 values.2)

/-- The block state stored with a session block. -/
def storedState (x : Session) (block : Nat) (s : State) : List (BitVec 32 × BitVec 32 × List (BitVec 32)) :=
  (List.range x.heads).map (fun h =>
    let bs := devRead s (blockVa x block (statePlane x.dk x.dv + h * (8 + 4 * x.dv))) (8 + 4 * x.dv)
    let w := fun i => BitVec.ofNat 32 (leAt bs (4 * i) 4)
    (w 0, w 1, (List.range x.dv).map (fun v => w (2 + v))))

/-- The bytes of a block state. -/
def stateBytes (l : List (BitVec 32 × BitVec 32 × List (BitVec 32))) : List Byte :=
  l.flatMap (fun h => (h.1 :: h.2.1 :: h.2.2).flatMap (fun w => leBytes 4 w.toNat))

/-! Decode (R247, R248, R251). -/

/-- The cores that a context may give a summary. -/
def summaryCores (context : Nat) (s : State) : List Nat :=
  match contextOf context s with
  | some c => maskCores c.cgMask.toNat
  | none => []

/-- The checks of R247. -/
def summaryOk (core : Nat) (d : Desc) (org : Origin) (s : State) : Bool :=
  let part := sramPart core org s
  let tiles := hDk d / 64
  df d 0 63 56 == 0x50 && (hKeyFmt d == 1 || hKeyFmt d == 2) && decide (hOutFmt d ≤ 4) && decide (hHeads d ≤ 128) &&
  decide (hCores d ≤ 96) && decide (64 ≤ hDk d) && decide (hDk d ≤ 1024) && decide (hDk d % 64 = 0) &&
  decide (16 ≤ hDv d) && decide (hDv d ≤ 256) && decide (hDv d % 16 = 0) && decide (1 ≤ hWindow d) &&
  decide (hWindow d ≤ 16777216) && (declared org.context org.launch s).any (fun x => x.1 == hWindow d) &&
  (if hOutFmt d = 4 then posFinite32 (hOutScale d) else hOutScale d == 0) && posFinite32 (hScoreScale d) &&
  inPart part (hQuery d) ((4 * (tiles - 1) + (hHeads d + 31) / 32) * 2048) && inPart part (hQscale d) (2 * hHeads d) &&
  inPart part (hOut d) (hHeads d * hDv d * (fmtBits (outFmt (hOutFmt d)) / 8)) &&
  decide (hStatus d % 32 = 0) && inPart part (hStatus d) 32 &&
  (hInline d == 0 || inPart (stagingPart (dieOf core) org s) (hInline d)
    ((hInlineEvents d + 63) / 64 * blockStride (hDk d) (hDv d) (hHeads d))) &&
  decide (hCores d ≤ (summaryCores org.context s).length)

/-- The segment that recomputed block i of B belongs to, among n (R248). -/
def segmentOf (n B i : Nat) : Nat :=
  let q := B / n
  let r := B % n
  if i < r * (q + 1) then i / (q + 1) else r + (i - r * (q + 1)) / Nat.max 1 q

/-- The segments of a window in window order: runs of recomputed blocks of one segment number, and each fresh block by
itself with its stored state (R251). `i` counts the recomputed blocks. -/
def cutSegments (core n B : Nat) (cores : List Nat) (states : Nat → List (BitVec 32 × BitVec 32 × List (BitVec 32))) :
    Nat → Nat → Option Nat → List (Piece × Bool) → List Segment
  | _, _, _, [] => []
  | k, i, run, (p, fresh) :: t =>
    if fresh then
      { core := core, first := k, last := k + 1, result := some (states p.block), fromState := true } ::
        cutSegments core n B cores states (k + 1) i none t
    else
      let g := segmentOf n B i
      let rest := cutSegments core n B cores states (k + 1) (i + 1) (some g) t
      if run = some g then rest
      else
        let len := (t.zipIdx.takeWhile (fun y => !y.1.2 && segmentOf n B (i + 1 + y.2) == g)).length
        { core := cores.getD g core, first := k, last := k + 1 + len, result := none, fromState := false } :: rest

/-- The graph version of a context's work, as GRAPH_ID × 2^16 + version: the launch's, else that of the context's first
graph with a SEQUENCE section. -/
def sequenceVersion (context : Nat) (launch : Option Nat) (s : State) : Option Nat :=
  match launch.bind (fun l => launchOf l s) with
  | some l => some (l.graph * 65536 + l.version)
  | none => ((s.dispatch.graphs.filter (fun (g : Graph) =>
      g.context == context && ((versionOf g.id g.current s).bind (·.sequence)).isSome)).map
        (fun (g : Graph) => g.id * 65536 + g.current)).head?

/-- The query of a summary for the folds of its context: that of a BLOCKED summary of a graph's current version (R251). -/
def foldQueryOf (core : Nat) (d : Desc) (context : Nat) (version : Option Nat) (s : State) : Option FoldQuery :=
  match version with
  | none => none
  | some v =>
    if hBlocked d && (graphOf (v / 65536) s).any (fun g => g.current == v % 65536) then
      let q := queryBytes core d s
      some { context := context, graph := v / 65536, version := v % 65536, core := core, desc := d, weights := q.1, scales := q.2 }
    else none

/-- A query in force for its context, in place of an earlier one. -/
def putQuery (q : FoldQuery) (s : State) : State :=
  { s with sequences := { s.sequences with queries := q :: s.sequences.queries.filter (fun y => y.context != q.context) } }

/-- A completed summary's query noted; a speculative one's waits for its commit (R251, R252). -/
def noteQuery (spec : Nat) (q : Option FoldQuery) (s : State) : State :=
  match q with
  | none => s
  | some q =>
    if spec = 0 then putQuery q s
    else { s with sequences := { s.sequences with heldQueries := s.sequences.heldQueries ++ [(spec, q)] } }

/-- The session whose events a summary takes: its own or its launch's; none for a request that has just begun a join (R242,
R253). -/
def summaryId (d : Desc) (org : Origin) (s : State) : Nat :=
  match org.launch.bind (fun l => launchOf l s) with
  | none => hSession d
  | some l =>
    if (hSession d == 0 || hSession d == l.session) && (requestOf l s).any (·.joined) then 0
    else if hSession d = 0 then l.session else hSession d

/-- A checked summary starts: APPENDED is read once and the window divided (R244, R248, R251). The number of segment
cores is a free choice where CORES is 0 (log 5). -/
def startSummary (core : Nat) (d : Desc) (org : Origin) (s : State) : State :=
  let id := summaryId d org s
  let x := if id = 0 then none else sessionOf org.context id s
  let appended := (x.map (·.appended)).getD 0
  let inline_ := Nat.min (if hInline d = 0 then 0 else hInlineEvents d) (hWindow d)
  let events := Nat.min (hWindow d - inline_) appended
  let cores := summaryCores org.context s
  let n := if hCores d = 0 then (Config.freeWord s.free).toNat % Nat.max 1 cores.length + 1 else hCores d
  let version := sequenceVersion org.context org.launch s
  let j : SummaryJob :=
    { id := s.sequences.nextId, core := core, desc := d, org := org, session := id, spec := hSpec d, appended := appended,
      events := events, inline := inline_, segments := [], blocksRecomputed := 0, decodedAt := s.now,
      query := foldQueryOf core d org.context version s }
  let pieces := (summaryPieces j).map (fun p =>
    (p, hBlocked d && !p.inline_ && p.lo == 0 && p.hi == 64 &&
      x.any (fun x => x.folded.any (fun f => f.1 == p.block && some f.2 == version))))
  let fresh := fun (b : Nat) => match x with
    | some x => storedState x b s
    | none => []
  let B := pieces.countP (fun p => !p.2)
  let j := { j with segments := cutSegments core n B cores fresh 0 0 none pieces, blocksRecomputed := B }
  let s := if hCores d = 0 then drawFree s else s
  let s := match x with
    | some x => (pieces.filter (fun (p : Piece × Bool) => p.2)).foldl (fun s (p : Piece × Bool) =>
        moduleRead 3 (drayAgent core) (hTag d) 0x50 (blockVa x p.1.block (statePlane x.dk x.dv)) (x.heads * (8 + 4 * x.dv)) s) s
    | none => s
  { s with sequences := { s.sequences with
      summaries := s.sequences.summaries ++ [j], nextId := s.sequences.nextId + 1 } }

/-- SEQ_SUMMARY. -/
def execSeqSummary (core : Nat) (desc : Desc) (org : Origin) (s : State) : Host.Outcome State Fault Refusal :=
  if 98 ≤ core then .fault .noSuchUnit
  else
    let gone := takeIssued core desc org s
    if inTurn core desc org s = false then .next (holdIssued core desc org s)
    else if (matOf core s).failed then .next (jobFaultPlain 0 core 8 (hTag desc) 0x50 gone)
    else if summaryOk core desc org s = false then .next (jobFaultPlain 0 core 1 (hTag desc) (df desc 0 63 56) gone)
    else .next (startSummary core desc org gone)

/-- A summary in flight. -/
def summaryOf (id : Nat) (s : State) : Option SummaryJob := s.sequences.summaries.find? (fun j => j.id == id)

def updSummary (id : Nat) (f : SummaryJob → SummaryJob) (s : State) : State :=
  { s with sequences := { s.sequences with summaries := updFirst (fun j => j.id == id) f s.sequences.summaries } }

/-- The session of a summary. -/
def summarySession (j : SummaryJob) (s : State) : Option Session :=
  if j.session = 0 then none else sessionOf j.org.context j.session s

/-- A segment core's first Dray fetches the key, key-scale and value planes of its session blocks (R248 step 1); a lost page is a
job fault (R422). -/
def fetchPlanes (core tag : Nat) (x : Option Session) (ps : List Piece) (s : State) : State :=
  match x with
  | none => s
  | some x => (ps.filter (fun p => !p.inline_)).foldl (fun s p =>
      moduleRead 3 (drayAgent core) tag 0x50 (blockVa x p.block 1024) (statePlane x.dk x.dv - 1024) <|
      drayAccess (drayAgent core) (blockVa x p.block 1024) (statePlane x.dk x.dv - 1024) s) s

/-- SEGMENT_PASS: a segment core that is on fetches its blocks, forms its states and sends them to the issuing core (R248);
the Hitch object it signals has no address (log 33). A core that failed takes no tiles, a job fault (R164), nor does one whose
arrays are all disabled (R5, R6; log 171): the head columns run on the enabled arrays of the core, in as many passes as they take. -/
def execSegmentPass (summary segment : Nat) (s : State) : Host.Outcome State Fault Refusal :=
  match summaryOf summary s with
  | none => .next s
  | some j =>
    match j.segments[segment]? with
    | none => .next s
    | some g =>
      if g.result.isSome then .next s
      else if coreOn g.core s = false then .next (wakeCore g.core s)
      else if (matOf g.core s).failed ∨ arraysOn g.core s = 0 then .next (jobFaultPlain 0 g.core 8 (hTag j.desc) 0x50 s)
      else
        let ps := ((summaryPieces j).drop g.first).take (g.last - g.first)
        let x := summarySession j s
        let r := segmentState g.core j.desc (queryBytes g.core j.desc s) x ps s
        .next (updSummary summary (fun j => { j with
          segments := updAt j.segments segment (fun g => { g with result := some r.1 }) })
            (countPass r.2 (fetchPlanes g.core (hTag j.desc) x ps s)))

/-! The merge (R249, R250). -/

/-- The merge of one head's states in window order: (M, L, O). -/
def mergeHead (dv : Nat) (l : List (BitVec 32 × BitVec 32 × List (BitVec 32))) : BitVec 32 × BitVec 32 × List (BitVec 32) :=
  l.foldl (fun acc g =>
    let mn := max32 acc.1 g.1
    let sub := fun (x : BitVec 32) => enc32 (fadd (val32 x) (fneg (val32 mn)))
    let a := transcend 8 (sub acc.1)
    let b := transcend 8 (sub g.1)
    (mn, add32 (mul32 acc.2.1 a) (mul32 g.2.1 b),
      (List.range dv).map (fun d => add32 (mul32 (acc.2.2.getD d 0) a) (mul32 (g.2.2.getD d 0) b))))
    (negInf32, 0, List.replicate dv 0)

/-- The F32 outputs before OUT_SCALE, head-major; zeros for a window with no events (R242). -/
def summaryValues (j : SummaryJob) : List (BitVec 32) :=
  let d := j.desc
  (List.range (hHeads d)).flatMap (fun h =>
    if j.events + j.inline = 0 then List.replicate (hDv d) 0
    else
      let r := mergeHead (hDv d) (j.segments.filterMap (fun g => (g.result.getD [])[h]?))
      r.2.2.map (fun o => div32 o r.2.1))

/-- The status record (Table 8.4). -/
def summaryStatus (j : SummaryJob) (sat : Nat) (amax : BitVec 32) (now : Nat) : List Byte :=
  leBytes 8 (2 ^ 63 + (if sat = 0 then stOk else stSaturated) * 2 ^ 48 + hTag j.desc * 2 ^ 32 + j.events + j.inline) ++
  leBytes 8 (j.segments.countP (·.fromState) * 2 ^ 32 + j.blocksRecomputed) ++
  leBytes 8 (sat % 2 ^ 32 * 2 ^ 32 + amax.toNat) ++
  leBytes 8 ((now - j.decodedAt) % 2 ^ 32 * 2 ^ 32 + j.appended % 2 ^ 32)

/-- SUMMARY_MERGE: with every segment's states there, the output and then the status record are written (R249, R250). -/
def execSummaryMerge (summary : Nat) (s : State) : Host.Outcome State Fault Refusal :=
  match summaryOf summary s with
  | none => .next s
  | some j =>
    if j.segments.any (fun g => g.result.isNone) then .next s
    else if coreOn j.core s = false then .next (wakeCore j.core s)
    else
      let d := j.desc
      let vs := summaryValues j
      let outs := vs.map (fun v => convOut (hOutFmt d) (if hOutFmt d = 4 then div32 v (hOutScale d) else v))
      let sat := outs.countP (·.sat)
      let amax := vs.foldl (fun a x => max32 a (enc32 (fabs (val32 x)))) 0
      let st := summaryStatus j sat amax s.now
      let ws := [(hOut d, packCodes (outFmt (hOutFmt d)) (outs.map (·.code))), (hStatus d + 8, st.drop 8), (hStatus d, st.take 8)]
      let s := { s with sequences := { s.sequences with summaries := s.sequences.summaries.filter (fun x => x.id != summary) } }
      if ws.any (fun w => j.spec != 0 && !rangesCover j.spec false j.core w.1 w.2.length s) then
        .next (coreStoreAll j.core j.spec ws j.core 0 (hTag d) 0x50 s)
      else
        let s := coreStoreAll j.core j.spec ws j.core 0 (hTag d) 0x50 s
        let s := noteQuery j.spec j.query (count Cnt.summaries 1 (countConv outs s))
        .next (descriptorDone j.org (ofLe (st.take 8)) (specMark j.spec j.org.launch (sat != 0) false false s))

/-- Summaries ended without an output: a squash or an exit timer (R252). -/
def dropSummaries (p : SummaryJob → Bool) (s : State) : State :=
  { s with sequences := { s.sequences with summaries := s.sequences.summaries.filter (fun j => !p j) } }

/-! Append stages (R244, R245, R54). -/

/-- Events of a request's HISTORY_APPEND sections. -/
def appendEvents (payload : List Byte) : List (BitVec 128) :=
  (entriesOf 16 ((sectionBodies 4 payload.length payload).foldr (· ++ ·) [])).map (fun e => BitVec.ofNat 128 (ofLe e))

/-- A request's append has not yet been stored. -/
def appendPending (a : Admitted) (s : State) : Bool :=
  !a.joined && !(appendEvents a.payload).isEmpty &&
  match versionOf a.graph a.version s with
  | none => false
  | some v =>
    v.stages.any (fun r => stageKind r == 1 &&
      match a.launch.bind (fun l => launchOf l s) with
      | none => a.launch.isNone
      | some l => stagePhase l (stageNum r) != .committed && stagePhase l (stageNum r) != .skipped)

/-- An earlier-admitted request of the session still has an append to store (R244). -/
def earlierAppend (a : Admitted) (s : State) : Bool :=
  s.service.admitted.any (fun b => decide (b.seq < a.seq) && b.hdr.sessionId == a.hdr.sessionId &&
    b.context == a.context && appendPending b s)

/-- An event number would overwrite a slot in the window of a summary in flight (R245). -/
def overwrites (x : Session) (n : Nat) (s : State) : Bool :=
  decide (64 * x.blocks ≤ n) &&
  s.sequences.summaries.any (fun j => j.session == x.id && j.org.context == x.context &&
    decide (j.appended - j.events ≤ n - 64 * x.blocks) && decide (n - 64 * x.blocks < j.appended))

/-- An append in progress changed. -/
def updAppend (launch : Nat) (f : AppendJob → AppendJob) (s : State) : State :=
  { s with sequences := { s.sequences with appends := updFirst (fun a => a.launch == launch) f s.sequences.appends } }

/-- Events written into the event plane from event number n on. -/
def writeEvents (x : Session) : Nat → List (BitVec 128) → State → State
  | _, [], s => s
  | n, e :: t, s => writeEvents x (n + 1) t (moduleWrite 6 (blockVa x (n / 64) (n % 64 * 16)) (leBytes 16 e.toNat) s)

/-- Chunks of 64 events written while none would overwrite a window in flight; a chunk that would waits and is counted. -/
def writeChunks : Nat → Nat → State → State
  | 0, _, s => s
  | k + 1, launch, s =>
    match s.sequences.appends.find? (fun a => a.launch == launch) with
    | none => s
    | some a =>
      match sessionOf a.context a.session s with
      | none => s
      | some x =>
        let chunk := (a.events.drop a.written).take 64
        let n := x.appended + a.written
        if chunk.isEmpty then s
        else if (List.range chunk.length).any (fun i => overwrites x (n + i) s) then
          if a.waiting then s else count Cnt.appendWaits 1 (updAppend launch (fun a => { a with waiting := true }) s)
        else
          let s := writeEvents x n chunk s
          writeChunks k launch (updAppend launch (fun a => { a with written := a.written + chunk.length, waiting := false }) s)

/-- The encoder's tasks of an append stage dispatched once its events are written; a stage without cores has none. -/
def startEncoder (launch : Nat) (s : State) : State :=
  match s.sequences.appends.find? (fun a => a.launch == launch), launchOf launch s with
  | some a, some l =>
    if a.encoding ∨ a.written < a.events.length then s
    else match stageRecord l a.stage s with
      | none => s
      | some r =>
        let s := updAppend launch (fun a => { a with encoding := true }) (dispatchTasks l r 0 s)
        if (stageCores l r s).isEmpty then setStage launch a.stage .ended 0 s else s
  | _, _ => s

/-- Device virtual address of a session's APPENDED, a Hitch object of the session pool (R244, R305; log 164). -/
def appendedVa (context session : Nat) (s : State) : Nat :=
  s.sequences.poolBase + Config.appendedPlace context session % (s.sequences.poolBytes / 8) * 8

/-- A session's APPENDED set: the count and, in a single store, its Hitch object (R244). -/
def setAppended (context session n : Nat) (s : State) : State :=
  moduleWrite 6 (appendedVa context session s) (leBytes 8 n) (updSession context session (fun x => { x with appended := n }) s)

/-- APPENDED + n stored and the stage committed (R244 step 3). -/
def storeAppended (launch : Nat) (a : AppendJob) (s : State) : State :=
  let s := match sessionOf a.context a.session s with
    | some x => setAppended a.context a.session (x.appended + a.events.length) s
    | none => s
  let s := if a.events.isEmpty then s else count Cnt.eventsAppended a.events.length s
  let s := { s with sequences := { s.sequences with appends := s.sequences.appends.filter (fun y => y.launch != launch) } }
  skipStages launch (setStage launch a.stage .committed 0 s)

/-- The append of a launch as far as it can go. -/
def advanceAppend (launch : Nat) (s : State) : State :=
  let s := startEncoder launch (writeChunks 262144 launch s)
  match s.sequences.appends.find? (fun a => a.launch == launch), launchOf launch s with
  | some a, some l => if stagePhase l a.stage = .ended then storeAppended launch a s else s
  | _, _ => s

/-- APPEND_STAGE: the stage, once running, writes its events, runs its tasks as the encoder, and stores APPENDED; it
waits for the appends of earlier-admitted requests. A session that is not resident has nothing to write (R253). -/
def execAppendStage (launch stage : Nat) (s : State) : Host.Outcome State Fault Refusal :=
  match launchOf launch s with
  | none => .next s
  | some l =>
    if s.sequences.appends.any (fun a => a.launch == launch) then .next (advanceAppend launch s)
    else if stagePhase l stage ≠ .running [] ∨ (stageRecord l stage s).all (fun r => stageKind r != 1) then .next s
    else
      let req := requestOf l s
      let events := match req with
        | some a => if a.joined ∨ (sessionOf l.context l.session s).isNone then [] else appendEvents a.payload
        | none => []
      if req.any (fun a => earlierAppend a s) then .next s
      else
        let a : AppendJob :=
          { launch := launch, stage := stage, context := l.context, session := l.session, events := events, written := 0,
            waiting := false, encoding := false }
        .next (advanceAppend launch { s with sequences := { s.sequences with appends := s.sequences.appends ++ [a] } })

/-- APPEND_CHUNK_WAIT: a waiting append goes on when no window in flight is in its way (R245). -/
def execAppendChunkWait (launch : Nat) (s : State) : Host.Outcome State Fault Refusal :=
  if s.sequences.appends.any (fun a => a.launch == launch && a.waiting) then .next (advanceAppend launch s) else .next s

/-! The step (R252 to R255). -/

/-- A session that a launch in flight is bound to, or a request whose launch is still to come (R255). -/
def sessionBusy (x : Session) (s : State) : Bool :=
  s.dispatch.launches.any (fun l => l.session == x.id && l.context == x.context) ||
  s.service.admitted.any (fun a => a.hdr.sessionId == x.id && a.context == x.context && a.launch.isNone &&
    !s.service.ready.any (fun r => r.request == some a.seq))

/-- A session that leaves at this step (R255). -/
def sessionLeaves (x : Session) (s : State) : Bool :=
  (x.closeMark || decide (x.lastRequest + ent Ent.sessionIdleNs s ≤ s.now)) && !sessionBusy x s

/-- Free bytes of the pool. -/
def poolLeft (s : State) : Nat := s.sequences.poolBytes - (s.sequences.sessions.map storeBytes).foldl (· + ·) 0

/-- The lowest place for n bytes in the pool: its base or the end of a store, with no store in the way. -/
def poolPlace (n : Nat) (s : State) : Option Nat :=
  let p := s.sequences
  let ends := sortNats (p.poolBase :: p.sessions.map (fun x => x.base + storeBytes x))
  ends.find? (fun a => decide (a + n ≤ p.poolBase + p.poolBytes) &&
    p.sessions.all (fun x => decide (a + n ≤ x.base) || decide (x.base + storeBytes x ≤ a)))

/-- Free values for the keys, scales and values of a joined session's slots, which the step's text leaves unstated
(log 33). -/
def freePlanes (x : Session) (events : Nat) (s : State) : State :=
  (List.range ((events + 63) / 64)).foldl (fun s b =>
    let n := statePlane x.dk x.dv - 1024
    moduleWrite 6 (blockVa x b 1024) ((List.range n).map (fun i => (Config.freeWord (s.free + i)).setWidth 8))
      { s with free := s.free + n }) s

/-- One pending join served: false where the pool has too little room. -/
def serveJoin (p : PendingJoin) (s : State) : Option State :=
  match (versionOf p.graph ((graphOf p.graph s).map (·.current) |>.getD 0) s).bind (·.sequence) with
  | none => some s
  | some q =>
    let blocks := storeBlocks q.1
    match poolPlace (blocks * blockStride q.2.1 q.2.2.1 q.2.2.2.1) s with
    | none => none
    | some base =>
      let x : Session :=
        { id := p.session, context := p.context, base := base, blocks := blocks, dk := q.2.1, dv := q.2.2.1,
          heads := q.2.2.2.1, appended := p.events.length, lastRequest := p.lastRequest, closeMark := false, folded := [] }
      let s := { s with sequences := { s.sequences with sessions := s.sequences.sessions ++ [x] } }
      let s := setAppended p.context p.session p.events.length (freePlanes x p.events.length (writeEvents x 0 p.events s))
      some (count Cnt.joins 1 (if p.events.isEmpty then s else count Cnt.eventsAppended p.events.length s))

/-- A deferred join completes on the session queue with STATUS = DEFERRED (R254). A join holds no slot, so the record's SLOT
is a free value (log 34). -/
def deferJoin (s : State) : State :=
  let n := ent Ent.sessionQueue s
  let c : Cmd :=
    { id := s.dispatch.nextCmd, queue := n, count := (Config.freeWord s.free).toNat, words := 0, ext := [], cls := queuePort n s,
      legacy := false, fetchedAt := s.now, phase := .finished, status := stDeferred, reason := 0, result := 0,
      saturated := false, boundVoid := false, torn := false, request := none, watching := [] }
  completeCmd n c (drawFree { s with dispatch := { s.dispatch with nextCmd := s.dispatch.nextCmd + 1 } })

/-- The pending joins served in arrival order, at most n; from the first that must wait on, all are deferred. -/
def serveJoins : Nat → List PendingJoin → State → State
  | _, [], s => s
  | n, p :: t, s =>
    match (if n = 0 then none else serveJoin p s) with
    | some s => serveJoins (n - 1) t s
    | none =>
      let kept := (p :: t).map (fun p => { p with deferred := true })
      kept.foldl (fun s _ => deferJoin s)
        (count Cnt.joinsDeferred kept.length { s with sequences := { s.sequences with joins := s.sequences.joins ++ kept } })

/-- The oldest full block that a session's ring still holds (R246, R251): the newest block of the ring is partial, unless APPENDED is
a multiple of 64. -/
def oldestBlock (x : Session) : Nat := x.appended / 64 + (if x.appended % 64 = 0 then 0 else 1) - x.blocks

/-- The full blocks of the sessions that stay, not yet folded under their context's current version, oldest first in each. -/
def foldable (leaving : List Session) (s : State) : List (Session × Nat) :=
  (s.sequences.sessions.filter (fun x => !leaving.any (fun y => y.id == x.id && y.context == x.context))).flatMap (fun x =>
    match s.sequences.queries.find? (fun q => q.context == x.context) with
    | none => []
    | some q =>
      if sequenceVersion x.context none s ≠ some (q.graph * 65536 + q.version) then []
      else
        let full := x.appended / 64
        let first := oldestBlock x
        ((List.range (full - first)).map (· + first)).filterMap (fun b =>
          if x.folded.contains (b, q.graph * 65536 + q.version) then none else some (x, b)))

/-- One block folded into its state with the query and SCORE_SCALE in force for its context (R251; log 33). -/
def foldBlock (x : Session) (b : Nat) (s : State) : State :=
  match s.sequences.queries.find? (fun q => q.context == x.context) with
  | none => s
  | some q =>
    let r := segmentState q.core q.desc (q.weights, q.scales) (some x) [{ inline_ := false, block := b, lo := 0, hi := 64 }] s
    let s := moduleRead 6 noInst 0 0 (blockVa x b 1024) (statePlane x.dk x.dv - 1024) s
    let s := moduleWrite 6 (blockVa x b (statePlane x.dk x.dv)) (stateBytes r.1) (countPass r.2 s)
    count Cnt.blocksFolded 1 (updSession x.context x.id (fun x => { x with
      folded := (b, q.graph * 65536 + q.version) ::
        x.folded.filter (fun f => f.1 != b && decide (oldestBlock x ≤ f.1)) }) s)

/-- The blocks folded in a step: as many of those waiting as the budget holds, a number that the spec leaves open
(log 5); none with a budget of 0. -/
def foldSome (leaving : List Session) (s : State) : State :=
  let l := foldable leaving s
  if l.isEmpty ∨ ent Ent.stepBudgetNs s = 0 then s
  else
    let n := (Config.freeWord s.free).toNat % (l.length + 1)
    (l.take n).foldl (fun s p => foldBlock p.1 p.2 s) (drawFree s)

/-- SESSION_STEP, due every STEP_NS while the session queue is enabled: leaves, joins and folds; the stores of leaving
sessions are freed at its end (R252 to R255; log 34). -/
def execSessionStep (s : State) : Host.Outcome State Fault Refusal :=
  let q := queueOf (ent Ent.sessionQueue s) s
  if s.job.state ≠ jobRunning ∨ s.now < s.sequences.lastStep + ent Ent.stepNs s ∨ q.state = 0 ∨ q.state = 3 then .next s
  else
    let leaving := s.sequences.sessions.filter (fun x => sessionLeaves x s)
    let free := poolLeft s
    let joins := s.sequences.joins.filter (fun p => s.now < p.lastRequest + ent Ent.sessionIdleNs s)
    let s := count Cnt.steps 1 { s with sequences := { s.sequences with lastStep := s.now, poolFree := free, joins := [] } }
    let s := if leaving.isEmpty then s else count Cnt.leaves leaving.length s
    let s := foldSome leaving (serveJoins (ent Ent.stepJoinsMax s) joins s)
    .next { s with sequences := { s.sequences with
      sessions := s.sequences.sessions.filter (fun x => !leaving.any (fun y => y.id == x.id && y.context == x.context)) } }

/-- What a write of SESSION_CLOSE does. -/
def sessionCloseAction (_ : ReqId) (bytes : List Byte) (s : State) : State :=
  endCmd Ent.sessionClose stOk 0 { s with sequences := { s.sequences with
    sessions := s.sequences.sessions.map (fun x => if x.id = leAt bytes 0 8 then { x with closeMark := true } else x) } }

/-- SESSION_CLOSE. -/
def execSessionClose (req : ReqId) (session : BitVec 64) (s : State) : Host.Outcome State Fault Refusal :=
  .next (cmdVia sessionCloseAction req 0x2020 6 (leBytes 8 session.toNat) s)

end Sys2Proof.Machine
end

