-- ==== Sys2Proof/Machine/Memory.lean ====
section
/-! DEFINITION. HBM4E stacks and the cold tier (14, R383 to R395; 15, R422): patrol scrub, corrected and uncorrectable errors,
remapping, retirement, hard repair and its journal. Memory errors reach the model as what patrol scrub and the lanes meet (log 42);
the mapping below the channel or package is opaque (log 43). -/

namespace Sys2Proof.Machine

open Sys2Proof

/-! Rows. -/

/-- The channel, or cold-tier package, of an offset within a region (R377, R378). -/
def memUnit (r off : Nat) : Nat := if r < 12 then hbmChannel off else coldPackage off

/-- Bank and row of an MPA (R379). -/
def rowOf (mpa : Nat) : Nat × Nat :=
  Config.dramRow (mpa / 2 ^ 40) (memUnit (mpa / 2 ^ 40) (mpa % 2 ^ 40)) (mpa % 2 ^ 40 / 1024)

/-- The two granules of the 2 KiB row of an MPA, lower first. -/
def rowGranules (mpa : Nat) : List Nat :=
  let r := mpa / 2 ^ 40
  let g := mpa % 2 ^ 40 / 1024
  sortNats [g, Config.rowMate r (memUnit r (mpa % 2 ^ 40)) g]

/-- CHANNEL of a record or journal entry (Table 14.2). -/
def channelField (mpa : Nat) : Nat :=
  let o := mpa % 2 ^ 40
  if mpa / 2 ^ 40 < 12 then hbmChannel o else Config.coldChannel (o / 1024) % 4

/-- Remap entry of a row. -/
def remapOf (mpa : Nat) (s : State) : Option Remap :=
  let r := mpa / 2 ^ 40
  let u := memUnit r (mpa % 2 ^ 40)
  let (b, w) := rowOf mpa
  s.mem.remaps.find? (fun x => x.region == r && x.unit == u && x.bank == b && x.row == w)

/-- Times a row has been remapped (R390). -/
def remapsOf (mpa : Nat) (s : State) : Nat := ((remapOf mpa s).map (·.remaps)).getD 0

/-- Spares of a channel or package not in use (R388). -/
def sparesFree (r u : Nat) (s : State) : Nat :=
  (if r < 12 then 64 else 128) -
    ((s.mem.remaps.filter (fun x => x.region == r && x.unit == u)).map (·.remaps)).foldl (· + ·) 0

/-- Corrected errors of a row in its present location (R384). -/
def rowErrorCount (mpa : Nat) (s : State) : Nat :=
  let r := mpa / 2 ^ 40
  let u := memUnit r (mpa % 2 ^ 40)
  let (b, w) := rowOf mpa
  ((s.mem.rowErrors.find? (fun x => x.region == r && x.unit == u && x.bank == b && x.row == w)).map (·.count)).getD 0

/-- A row's entry leaves the row error table, with the location it counted. -/
def dropRowErrors (mpa : Nat) (s : State) : State :=
  let r := mpa / 2 ^ 40
  let u := memUnit r (mpa % 2 ^ 40)
  let (b, w) := rowOf mpa
  { s with mem := { s.mem with
    rowErrors := s.mem.rowErrors.filter (fun x => !(x.region == r && x.unit == u && x.bank == b && x.row == w)) } }

/-- A row's count raised; a full table of its channel or package loses its least recently raised row (R384). -/
def raiseRow (mpa : Nat) (s : State) : State :=
  let r := mpa / 2 ^ 40
  let u := memUnit r (mpa % 2 ^ 40)
  let (b, w) := rowOf mpa
  let n := rowErrorCount mpa s
  let s := dropRowErrors mpa s
  let mine := (s.mem.rowErrors.filter (fun x => x.region == r && x.unit == u)).take 255
  let others := s.mem.rowErrors.filter (fun x => !(x.region == r && x.unit == u))
  let e : RowError := { region := r, unit := u, bank := b, row := w, count := n + 1 }
  { s with mem := { s.mem with rowErrors := e :: mine ++ others } }

/-- The page that maps a frame of a region. -/
def pageOfFrame (r f : Nat) (s : State) : Option Nat :=
  (s.xlate.ptes.find? (fun p =>
    field p.2.toNat 27 0 == f &&
    (if r < 12 then field p.2.toNat 31 30 == 1 && homeStack (p.1 * 4096) == r else field p.2.toNat 31 30 == 2))).map (·.1)

/-- The job's page that holds an MPA (Table 14.2 W3). -/
def pageOfMpa (mpa : Nat) (s : State) : Option Nat := pageOfFrame (mpa / 2 ^ 40) (mpa % 2 ^ 40 / 4096) s

/-- The four words of a memory error record (Table 14.2), its channel, bank and row those of the row of `row` (R386). -/
def memRecord (kind source row mpa remaps symbols ce : Nat) (page : Option Nat) (s : State) : List Nat :=
  let (b, w) := rowOf row
  [kind * 2 ^ 60 + source * 2 ^ 56 + channelField row * 2 ^ 51 + mpa % 2 ^ 44,
   b % 64 * 2 ^ 58 + w % 2 ^ 18 * 2 ^ 40 + remaps * 2 ^ 38 + symbols * 2 ^ 32 + ce % 2 ^ 32,
   s.now, (page.getD 0) * 4096]

/-- A memory error record written to the Waybill, code 0x8000 + KIND. -/
def memEvent (kind source row mpa remaps symbols ce : Nat) (page : Option Nat) (s : State) : State :=
  wbSubmit (0x8000 + kind) (mpa / 2 ^ 40) (memRecord kind source row mpa remaps symbols ce page s) s

/-- The MPA of a row's first granule. -/
def rowMpa (mpa : Nat) : Nat := mpa / 2 ^ 40 * 2 ^ 40 + (rowGranules mpa).headD 0 * 1024

/-- The granules of a row written as zeros; the entries of a page-table slice that lie there become NOT_PRESENT (R385; log 44). -/
def zeroRow (mpa : Nat) (s : State) : State :=
  let r := mpa / 2 ^ 40
  (rowGranules mpa).foldl (fun s g =>
    let a := r * 2 ^ 40 + g * 1024
    let s := { s with mem := { s.mem with dram := memZero s.mem.dram a (a + 1024) } }
    if r < 12 ∧ 63731564544 ≤ g * 1024 ∧ Config.inSlice r g = true then
      ((Config.slicePages r g).filter (fun p => homeStack (p * 4096) == r)).foldl (fun s p =>
        invalidatePage p (setPte p 0 s)) s
    else s) s

/-! The hard-repair journal (R392). -/

/-- A row entered in the journal, unless it stands there already; a full journal is counted and recorded. -/
def journalRow (mpa : Nat) (s : State) : State :=
  let r := mpa / 2 ^ 40
  let u := memUnit r (mpa % 2 ^ 40)
  let (b, w) := rowOf mpa
  let same := fun (x : JournalEntry) => x.region == r && x.unit == u && x.bank == b && x.row == w
  if s.mem.journal.any same then s
  else if 1024 ≤ s.mem.journal.length then
    count Cnt.journalFull 1 (wbSubmit 0x8007 noInst [r, w] s)
  else
    let e : JournalEntry :=
      { state := 1, region := r, unit := u, channel := channelField mpa, bank := b, row := w, attempts := 0, time := s.now,
        mpa := rowMpa mpa }
    { s with mem := { s.mem with journal := s.mem.journal ++ [e] } }

/-! Remapping (R388 to R390). -/

/-- A row may be remapped once more. -/
def canRemap (mpa : Nat) (s : State) : Bool :=
  decide (remapsOf mpa s < 2) && decide (0 < sparesFree (mpa / 2 ^ 40) (memUnit (mpa / 2 ^ 40) (mpa % 2 ^ 40)) s)

/-- A row switched to a spare, its contents copied (R389); the second remap enters the journal (R392). -/
def remapRow (mpa source counter_ : Nat) (s : State) : State :=
  let r := mpa / 2 ^ 40
  let u := memUnit r (mpa % 2 ^ 40)
  let (b, w) := rowOf mpa
  let n := remapsOf mpa s
  let s := memEvent 3 source mpa (rowMpa mpa) n 0 (rowErrorCount mpa s) (pageOfMpa (rowMpa mpa) s) s
  let e : Remap := { region := r, unit := u, bank := b, row := w, remaps := n + 1 }
  let s := dropRowErrors mpa (count counter_ 1 { s with mem := { s.mem with
    remaps := s.mem.remaps.filter (fun x => !(x.region == r && x.unit == u && x.bank == b && x.row == w)) ++ [e] } })
  if n = 1 then journalRow mpa s else s

/-- A graph version that keeps code or segments on a page no longer holds what its integrity tags were computed from (R531). -/
def damageVersion (page : Nat) (s : State) : State :=
  match s.mem.extents.find? (fun e => e.first ≤ page && page < e.first + e.count && 2 ^ 30 ≤ e.tag) with
  | none => s
  | some e =>
    { s with dispatch := { s.dispatch with
      graphs := s.dispatch.graphs.map (fun g => { g with
        versions := g.versions.map (fun v => if versionTag g.id v.num = e.tag then { v with damaged := true } else v) }) } }

/-- What else stands on a page of the module range whose frame is lost (R422): result-cache lines and sessions, rows held
in the update logs, and a graph version's code and segments. -/
def losePage (page : Nat) (s : State) : State :=
  let va := page * 4096
  match s.mem.extents.find? (fun e => e.first ≤ page && page < e.first + e.count) with
  | none => s
  | some e =>
    if e.tag = 2 then
      let base := e.first * 4096
      { s with service := { s.service with
        cache := s.service.cache.filter (fun c =>
          decide (base + (c.set + 1) * 66560 ≤ va) || decide (va + 4096 ≤ base + c.set * 66560)) } }
    else if e.tag = 3 then
      { s with sequences := { s.sequences with
        sessions := s.sequences.sessions.map (fun x =>
          if decide (x.base < va + 4096) && decide (va < x.base + storeBytes x) then { x with closeMark := true }
          else x) } }
    else if e.tag = 5 then
      { s with updates := { s.updates with
        committed := s.updates.committed.map (fun r =>
          if !r.copied && Config.logOnPage page r.table r.row then { r with data := r.data.map (fun _ => 0) } else r) } }
    else damageVersion page s

/-- A frame retired (R390, R422), or kept retired where it would have returned at the next deploy: unmapped; a page of the module range takes a new zeroed frame of the same region. -/
def retireFrame (r f : Nat) (s : State) : State :=
  if s.mem.retired.contains (r, f) then
    { s with mem := { s.mem with unretire := s.mem.unretire.filter (fun x => x != (r, f)) } }
  else
    let page := pageOfFrame r f s
    let s := count Cnt.framesRetired 1 { s with mem := { s.mem with
      retired := s.mem.retired ++ [(r, f)],
      dram := memZero s.mem.dram (frameMpa r f) (frameMpa r f + 4096),
      alloc := updAt s.mem.alloc r (fun a => { a with freed := a.freed.filter (· != f) }) } }
    match page with
    | none => s
    | some p =>
      let v := pageView p s
      if inModuleRange (p * 4096) then
        let s := losePage p (invalidatePage p s)
        match takeFrame r s with
        | some (f', s) => setPte p (mkPte v.kind v.rights f') s
        | none => setPte p 0 s
      else
        let s := match alGet s.xlate.charged p with
          | some k => updContext k (fun c =>
              if r < 12 then { c with hbmUsed := c.hbmUsed - 4096 } else { c with coldUsed := c.coldUsed - 4096 }) s
          | none => s
        invalidatePage p (setPte p 0 { s with xlate := { s.xlate with charged := alErase s.xlate.charged p } })

/-- A row keeps a frame retired until the row's repair is verified (R390, R393). -/
def keepFor (mpa f : Nat) (s : State) : State :=
  let r := mpa / 2 ^ 40
  let (b, w) := rowOf mpa
  let k : RowFrame := { region := r, unit := memUnit r (mpa % 2 ^ 40), bank := b, row := w, frame := f }
  if s.mem.retiredFor.contains k then s else { s with mem := { s.mem with retiredFor := s.mem.retiredFor ++ [k] } }

/-- Every frame that has a granule in a row retired, then the row entered in the journal, then one record for each frame
retired (R390). -/
def retireRow (mpa source : Nat) (s : State) : State :=
  let r := mpa / 2 ^ 40
  let frames := ((rowGranules mpa).map (· / 4)).eraseDups.filter (· < regionFrames r)
  let records := (frames.filter (fun f => !s.mem.retired.contains (r, f))).map (fun f => pageOfFrame r f s)
  let s := journalRow mpa (frames.foldl (fun s f => keepFor mpa f (retireFrame r f s)) s)
  records.foldl (fun s page =>
    memEvent 4 source mpa (rowMpa mpa) (remapsOf mpa s) 0 (rowErrorCount mpa s) page s) s

/-- The same row. -/
def sameRow (a b : Nat) : Bool :=
  a / 2 ^ 40 == b / 2 ^ 40 && memUnit (a / 2 ^ 40) (a % 2 ^ 40) == memUnit (b / 2 ^ 40) (b % 2 ^ 40) && rowOf a == rowOf b

/-- A row that waits for a remap waits no more. -/
def dropAsk (mpa : Nat) (s : State) : State :=
  { s with mem := { s.mem with remapDue := s.mem.remapDue.filter (fun x => !sameRow x.mpa mpa) } }

/-- A failure of a row is dealt with in the memory step of a restart (Table 20.3 step 4), or at once outside a job: a remap, or
retirement where none may be made (R388, R390). -/
def settleRow (mpa source : Nat) (s : State) : State :=
  let s := dropAsk mpa s
  let pages := ((rowGranules mpa).map (· / 4)).eraseDups.filterMap (fun f => pageOfFrame (mpa / 2 ^ 40) f s)
  let s := pages.foldl (fun s p => damageVersion p s) s
  zeroRow mpa (if canRemap mpa s then remapRow mpa source Cnt.remapsAtReset s else retireRow mpa source s)

/-- The memory steps of a job restart. -/
def settleRows (s : State) : State :=
  let rows := s.mem.failing
  rows.foldl (fun s m => settleRow m.1 m.2 s) { s with mem := { s.mem with failing := [] } }

/-- A failure that the job pays for: a job fault that names its cause's record, settled in its restart; with no job to restart, it
is settled at once. -/
def failRow (mpa source record code : Nat) (s : State) : State :=
  let s := raiseJobFaultOf record code (faultDetail 8 (mpa / 2 ^ 40) 5 0 0) s
  if s.job.state = jobRunning ∨ s.job.state = jobRestarting then
    { s with mem := { s.mem with
      failing := if s.mem.failing.any (fun m => sameRow m.1 mpa) then s.mem.failing else s.mem.failing ++ [(mpa, source)] } }
  else settleRow mpa source s

/-- A row asks to be remapped on the fly, after those of its channel or package that asked before it (R389). -/
def askRemap (source mpa : Nat) (ue : Bool) (s : State) : State :=
  let n := s.waybill.submitted
  { s with mem := { s.mem with
    remapDue := if s.mem.remapDue.any (fun d => sameRow d.mpa mpa) then
        s.mem.remapDue.map (fun d =>
          if sameRow d.mpa mpa && ue && !d.ue then { d with ue := true, record := n } else d)
      else s.mem.remapDue ++ [{ mpa := mpa, ue := ue, source := source, record := n }] } }

/-! Errors (R383 to R385). -/

/-- A corrected error of a codeword, met by a demand access (source 0), by scrub (1) or by a remap copy (2) (R384). -/
def correctedError (source mpa symbols : Nat) (s : State) : State :=
  let s := count (if mpa / 2 ^ 40 < 12 then Cnt.hbmCorrected else Cnt.coldCorrected) 1 s
  let s := raiseRow mpa s
  let n := rowErrorCount mpa s
  let s := memEvent 1 source mpa mpa (remapsOf mpa s) symbols n (pageOfMpa mpa s) s
  if ent Ent.rowCeThreshold s ≤ n ∧ s.mem.failing.any (fun m => sameRow m.1 mpa) = false then askRemap source mpa false s else s

/-- An uncorrectable error of a codeword (R385): a job fault in the job's frames and in the page-table slice, else a remap. -/
def uncorrectableError (source mpa : Nat) (s : State) : State :=
  let r := mpa / 2 ^ 40
  let s := count (if r < 12 then Cnt.hbmUncorrectable else Cnt.coldUncorrectable) 1 s
  let page := pageOfMpa mpa s
  let w := memRecord 2 source mpa mpa (remapsOf mpa s) 0x3F (rowErrorCount mpa s) page s
  let s := wbSubmit 0x8002 r w { s with mem := { s.mem with
    lastUe := BitVec.ofNat 256 (ofLe (w.flatMap (fun x => leBytes 8 x))) } }
  let slice_ := decide (r < 12) && decide (63731564544 ≤ mpa % 2 ^ 40) && Config.inSlice r (mpa % 2 ^ 40 / 1024)
  if page.isSome ∨ slice_ = true then failRow mpa source s.waybill.submitted 0x8002 s else askRemap source mpa true s

/-- A codeword read with a number of symbols in error (R383): whether it is served, and the state after. An error in four or
more symbols may go undetected: its burst then holds no stated value, and a graph version that keeps code or segments there no longer
holds what its tags were computed from (R531). -/
def codewordRead (source mpa symbols : Nat) (s : State) : Bool × State :=
  if symbols = 0 then (true, s)
  else if symbols = 1 then (true, correctedError source mpa 1 s)
  else if symbols ≤ 3 then (false, uncorrectableError source mpa s)
  else
    let missed := Config.errorMissed s.free
    let s := drawFree s
    if missed then
      let s := match pageOfMpa mpa s with
        | none => s
        | some page => damageVersion page s
      (true, drawFree { s with mem := { s.mem with
        dram := memWrite s.mem.dram mpa (leBytes 32 (Config.freeVec s.free).toNat) } })
    else (false, uncorrectableError source mpa s)

/-! Patrol scrub (R387). -/

/-- The codewords of a read that are in error, read one after the other: whether all are served, and the state after. `at_`
gives the MPA of a codeword of the read. -/
def codewordsRead (source : Nat) (at_ : Nat → Option Nat) (errors : List (Nat × Nat)) (s : State) : Bool × State :=
  errors.foldl (fun a e => match at_ e.1 with
    | none => a
    | some mpa =>
      let r := codewordRead source mpa e.2 a.2
      (a.1 && r.1, r.2)) (true, s)

/-- Those of a read of device virtual addresses; `va` gives the address of a codeword of the read. A page of the module range that
nothing has written takes its frame, as the error lies in that frame (log 12). -/
def codewordsAt (source : Nat) (va : Nat → Option Nat) (errors : List (Nat × Nat)) (s : State) : Bool × State :=
  errors.foldl (fun a e => match va e.1 with
    | none => a
    | some v =>
      let s := ensureFrame (v / 4096) a.2
      match mpaOf v s with
      | none => (a.1, s)
      | some mpa =>
        let r := codewordRead source mpa e.2 s
        (a.1 && r.1, r.2)) (true, s)

/-- Codewords of a tier. -/
def tierWords (cold : Bool) : Nat := if cold then 32000000000 else 24000000000

/-- The MPA of a codeword of a tier. -/
def wordMpa (cold : Bool) (k : Nat) : Nat :=
  if cold then 12 * 2 ^ 40 + k * 32 else k / 2000000000 * 2 ^ 40 + k % 2000000000 * 32

/-- A tier can be read: MAIN on and trained; COLD on, not in self-refresh. -/
def tierOn (cold : Bool) (s : State) : Bool :=
  if cold then s.power.cold == 0 && s.power.coldUntil.all (fun t => decide (t ≤ s.now)) && decide (10 ≤ s.recovery.bootStage)
  else s.power.mainOn && decide (6 ≤ s.recovery.bootStage)

/-- A pass of a tier counted late once, when its period has ended. -/
def noteScrubLate (cold : Bool) (s : State) : State :=
  let period := ent Ent.scrubPeriodS s * 1000000000
  if cold then
    if s.mem.scrubColdLate = false ∧ s.mem.scrubColdStart + period < s.now then
      count Cnt.scrubLate 1 { s with mem := { s.mem with scrubColdLate := true } }
    else s
  else if s.mem.scrubHbmLate = false ∧ s.mem.scrubHbmStart + period < s.now then
    count Cnt.scrubLate 1 { s with mem := { s.mem with scrubHbmLate := true } }
  else s

/-- The position of a tier's scrub moved on; a completed pass begins the next. -/
def scrubAdvance (cold : Bool) (s : State) : State :=
  if cold then
    let k := s.mem.scrubCold + 1
    if k = tierWords true then
      count Cnt.scrubPasses 1
        { s with mem := { s.mem with scrubCold := 0, scrubColdStart := s.now, scrubColdLate := false } }
    else { s with mem := { s.mem with scrubCold := k } }
  else
    let k := s.mem.scrubHbm + 1
    if k = tierWords false then
      count Cnt.scrubPasses 1 { s with mem := { s.mem with scrubHbm := 0, scrubHbmStart := s.now, scrubHbmLate := false } }
    else { s with mem := { s.mem with scrubHbm := k } }

/-- PATROL_SCRUB: the next codeword of a tier is read, with a number of symbols in error. -/
def execPatrolScrub (cold : Bool) (symbols : Nat) (s : State) : Host.Outcome State Fault Refusal :=
  if tierOn cold s = false ∨ 36 < symbols then .next s
  else
    let mpa := wordMpa cold (if cold then s.mem.scrubCold else s.mem.scrubHbm)
    .next (scrubAdvance cold (codewordRead 1 mpa symbols (noteScrubLate cold s)).2)

/-- The MPA of a codeword of a row: 32 of its first granule, then 32 of its second. -/
def rowWord (mpa k : Nat) : Option Nat :=
  ((rowGranules mpa)[k / 32]?).map (fun g => mpa / 2 ^ 40 * 2 ^ 40 + g * 1024 + 32 * (k % 32))

/-- A row that waits is remapped on the fly, or its failure becomes a job fault (R389, R390). An uncorrectable codeword met in
the copy is dealt with as R385 states: in the job's frames the failure is a job fault, and the row is left to the settling of that
fault, or has been settled with it; elsewhere the remap goes on. -/
def remapOnline (d : RowAsk) (errors : List (Nat × Nat)) (s : State) : State :=
  let read := codewordsRead 2 (rowWord d.mpa) errors s
  let d := (read.2.mem.remapDue.find? (fun x => sameRow x.mpa d.mpa)).getD d
  let u := dropAsk d.mpa read.2
  let ue := d.ue || !read.1
  if u.mem.failing.any (fun m => sameRow m.1 d.mpa) ∨ u.mem.remaps ≠ s.mem.remaps ∨ u.mem.retired ≠ s.mem.retired then u
  else
  let s := u
  if canRemap d.mpa s then
    let s := remapRow d.mpa d.source Cnt.remapsOnline s
    if ue then zeroRow d.mpa s else s
  else failRow d.mpa d.source d.record (if ue then 0x8002 else 0x8001) s

/-- ROW_REMAP of the row of an MPA: the first waiting of its channel or package (R389). -/
def execRowRemap (copy : RowCopy) (s : State) : Host.Outcome State Fault Refusal :=
  let r := copy.mpa / 2 ^ 40
  let u := memUnit r (copy.mpa % 2 ^ 40)
  match s.mem.remapDue.find? (fun d => d.mpa / 2 ^ 40 == r && memUnit r (d.mpa % 2 ^ 40) == u) with
  | none => .next s
  | some d =>
    .next (if sameRow d.mpa copy.mpa then remapOnline d copy.errors s else s)

/-- Rows asked to be remapped are remapped before the memory steps of a restart or a cold reset (R391). -/
def finishRemaps (s : State) : State := s.mem.remapDue.foldl (fun s d => remapOnline d [] s) s

/-! Hard repair (R393 to R395). -/

/-- A record of a row's hard repair (Tables 14.2 and 14.3). -/
def repairEvent (kind : Nat) (e : JournalEntry) (s : State) : State :=
  let same := fun (x : Remap) => x.region == e.region && x.unit == e.unit && x.bank == e.bank && x.row == e.row
  let n := ((s.mem.remaps.find? same).map (·.remaps)).getD 0
  let ce := ((s.mem.rowErrors.find? (fun x => x.region == e.region && x.unit == e.unit && x.bank == e.bank && x.row == e.row)).map
    (·.count)).getD 0
  wbSubmit (0x8000 + kind) e.region
    [kind * 2 ^ 60 + e.channel * 2 ^ 51 + e.mpa % 2 ^ 44,
     e.bank % 64 * 2 ^ 58 + e.row % 2 ^ 18 * 2 ^ 40 + n * 2 ^ 38 + ce % 2 ^ 32, s.now, 0] s

/-- A row's repair verified: its remap entry and spares are freed, and with the location its count of errors; its retired frames
return at the next deploy, but for those that another row keeps retired. -/
def repairDone (i : Nat) (e : JournalEntry) (s : State) : State :=
  let mine := fun (x : RowFrame) => x.region == e.region && x.unit == e.unit && x.bank == e.bank && x.row == e.row
  let rest := s.mem.retiredFor.filter (fun x => !mine x)
  let free := ((s.mem.retiredFor.filter mine).map (·.frame)).filter (fun f =>
    rest.all (fun x => !(x.region == e.region && x.frame == f)))
  let s := count Cnt.hardRepairs 1 (repairEvent 5 e s)
  { s with mem := { s.mem with
    journal := updAt s.mem.journal i (fun x => { x with state := 3, time := s.now }),
    remaps := s.mem.remaps.filter (fun x =>
      !(x.region == e.region && x.unit == e.unit && x.bank == e.bank && x.row == e.row)),
    rowErrors := s.mem.rowErrors.filter (fun x =>
      !(x.region == e.region && x.unit == e.unit && x.bank == e.bank && x.row == e.row)),
    retiredFor := rest,
    unretire := s.mem.unretire ++ free.map (fun f => (e.region, f)),
    repairDone := s.mem.repairDone + 1 } }

/-- A row's repair given up: it stays remapped or retired. -/
def repairFailed (i : Nat) (e : JournalEntry) (s : State) : State :=
  repairEvent 6 e { s with mem := { s.mem with
    journal := updAt s.mem.journal i (fun x => { x with state := 4, time := s.now }) } }

/-- A row fused, at most `fuel` times, and verified each time, as its attempt of that number; none is fused again after a second
attempt, nor once the bank has no repair resource left (R393 steps 1 to 5). -/
def fuseRow (i : Nat) (e : JournalEntry) : Nat → Nat → State → State
  | 0, _, s => repairFailed i e s
  | fuel + 1, attempt, s =>
    let s := { s with mem := { s.mem with
      journal := updAt s.mem.journal i (fun x => { x with state := 2, attempts := attempt, time := s.now }) } }
    let works := Config.fuseWorks s.free
    let more := Config.repairResource s.free
    let s := drawFree s
    if works then repairDone i e s else if more then fuseRow i e fuel (attempt + 1) s else repairFailed i e s

/-- One journal entry repaired; one found in FUSING is first verified without fusing, and then fused once more, as it has been fused
once already and no row is fused more than twice (R394). -/
def repairEntry (i : Nat) (s : State) : State :=
  match s.mem.journal[i]? with
  | none => s
  | some e =>
    if e.state = 1 then fuseRow i e (2 - e.attempts) (e.attempts + 1) s
    else if e.state = 2 then
      let works := Config.fuseWorks s.free
      let s := drawFree s
      if works then repairDone i e s
      else if e.attempts < 2 then fuseRow i e 1 (Nat.max 1 e.attempts) s else repairFailed i e s
    else s

/-- What a write of 1 to REPAIR_RUN does. -/
def repairRunAction (_ : ReqId) (_ : List Byte) (s : State) : State :=
  let s := { s with mem := { s.mem with repairDone := 0 } }
  endCmd Ent.repairRun stOk 0 ((List.range s.mem.journal.length).foldl (fun s i => repairEntry i s) s)

/-- REPAIR_RUN. -/
def execRepairRun (req : ReqId) (value : Nat) (s : State) : Host.Outcome State Fault Refusal :=
  .next (cmdVia repairRunAction req 0x6700 0x01 (leBytes 1 value) s)

/-- What a write of REPAIR_ADD does: the row it names is entered, unless it stands in the journal (R392; log 45). -/
def repairAddAction (_ : ReqId) (bytes : List Byte) (s : State) : State :=
  let j := leAt (padTo 16 bytes) 0 8
  let r := field j 59 56
  let ch := field j 55 51
  let b := field j 50 45
  let w := field j 44 27
  let u := if r < 12 then ch else Config.repairPackage ch b w % 16
  let s := endCmd Ent.repairAdd stOk 0 s
  if s.mem.journal.any (fun x => x.region == r && x.channel == ch && x.bank == b && x.row == w) then s
  else if 1024 ≤ s.mem.journal.length then count Cnt.journalFull 1 (wbSubmit 0x8007 noInst [r, w] s)
  else
    let e : JournalEntry :=
      { state := 1, region := r, unit := u, channel := ch, bank := b, row := w, attempts := field j 26 24, time := s.now,
        mpa := Config.rowFirst r u b w }
    { s with mem := { s.mem with journal := s.mem.journal ++ [e] } }

/-- REPAIR_ADD. -/
def execRepairAdd (req : ReqId) (entry : BitVec 128) (s : State) : Host.Outcome State Fault Refusal :=
  .next (cmdVia repairAddAction req 0x6700 0x03 (leBytes 16 entry.toNat) s)

/-- What a write of TEST_PORT_RAW does: IEEE 1500 instructions reach the stack's test port; where they change the stack's
configuration other than by repair, its contents are unpredictable until the next cold reset (R395, R398; log 46). -/
def testPortRawAction (_ : ReqId) (bytes : List Byte) (s : State) : State :=
  let stack := leAt bytes 0 1
  endCmd Ent.testPortRaw stOk 0 (if Config.rawConfigures bytes && !s.mem.scrambled.contains stack then
    { s with mem := { s.mem with scrambled := s.mem.scrambled ++ [stack] } } else s)

/-- TEST_PORT_RAW. -/
def execTestPortRaw (req : ReqId) (value : BitVec 512) (s : State) : Host.Outcome State Fault Refusal :=
  .next (cmdVia testPortRawAction req 0x6700 0x04 (leBytes 64 value.toNat) s)

/-- One journal entry's 16 bytes (Table 14.4). -/
def journalBytes (e : JournalEntry) : List Byte :=
  leBytes 8 (e.state * 2 ^ 60 + e.region * 2 ^ 56 + e.channel * 2 ^ 51 + e.bank % 64 * 2 ^ 45 + e.row % 2 ^ 18 * 2 ^ 27 +
    e.attempts * 2 ^ 24) ++ leBytes 8 e.time

end Sys2Proof.Machine
end

