-- ==== Sys2Proof/Machine/Tables.lean ====
section
/-! DEFINITION. Embedding tables (03, R70 to R77; 04, R115 to R123): descriptors, rows and their lanes, the content a lane
serves, the row cache, the redirect indexes, TABLE_DEFINE and the write of TABLE_DELETE. -/

namespace Sys2Proof.Machine

open Sys2Proof

/-! Table descriptors (Table 3.1). -/

def tFmt (t : Desc) : Nat := df t 0 51 48
def tScaleMode (t : Desc) : Nat := df t 0 47 46
def tScaleFmt (t : Desc) : Nat := df t 0 45 44
def tOffset (t : Desc) : Bool := db t 0 43
def tCold (t : Desc) : Bool := db t 0 42
def tCached (t : Desc) : Bool := db t 0 41
def tRemote (t : Desc) : Bool := db t 0 40
def tExport (t : Desc) : Bool := db t 0 39
def tIndexMode (t : Desc) : Nat := df t 0 38 36
def tSlotLog (t : Desc) : Nat := df t 0 35 32
def tDim (t : Desc) : Nat := df t 0 31 16
def tMask (t : Desc) : Nat := df t 0 11 0
def tRows (t : Desc) : Nat := dword t 1
def tRowBase (t : Desc) : Nat := dword t 2
def tScaleBase (t : Desc) : Nat := dword t 3
def tSeed (t : Desc) : Nat := dword t 4
def tOwner (t : Desc) : Nat := df t 5 63 52
def tOwnerTable (t : Desc) : Nat := df t 5 51 40

/-- Bytes of the element area (R72). -/
def tElemBytes (t : Desc) : Nat := (tDim t * fmtBits (tFmt t) + 7) / 8

/-- Number of scales of a row (R73). -/
def tScales (t : Desc) : Nat := if tScaleMode t = 0 then 0 else if tScaleMode t = 1 then 1 else tDim t / 32

/-- k: the scale bytes of one row, without offset or padding (R89). -/
def tScaleBytes (t : Desc) : Nat := tScales t * scaleBytes (tScaleFmt t)

/-- Content of a scale record: scales and offset. -/
def tRecBytes (t : Desc) : Nat := tScaleBytes t + (if tOffset t then 2 else 0)

/-- The smallest power of two, at least 2, that holds n bytes. -/
def pow2At (n : Nat) : Nat := if n ≤ 2 then 2 else 2 ^ (Nat.log2 (n - 1) + 1)

/-- Size of a scale record; 0 where the table has none (R73). -/
def tRecSize (t : Desc) : Nat := if tRecBytes t = 0 then 0 else pow2At (tRecBytes t)

/-- A slot of 1 KiB or more holds a version word (R72). -/
def tVersioned (t : Desc) : Bool := decide (10 ≤ tSlotLog t)

/-- Offset of the element area within the slot. -/
def tElemAt (t : Desc) : Nat := if tVersioned t then 8 else 0

/-- Size of a data record (R108). -/
def tDataBytes (t : Desc) : Nat := tElemBytes t + tRecBytes t

/-- Shape and formats agree (R78, R97). -/
def sameShape (a b : Desc) : Bool :=
  tDim a == tDim b && tFmt a == tFmt b && tScaleMode a == tScaleMode b && tScaleFmt a == tScaleFmt b && tOffset a == tOffset b

/-- The table of a TABLE_ID. -/
def tableOf (id : Nat) (s : State) : Option Desc := (alGet s.lookup.tables id).map (·.desc)

/-- hash_row of R75. -/
def hashRow (v seed rows : Nat) : Nat :=
  let x := (v ^^^ seed) % 2 ^ 64 * 0xD1B54A32D192ED03 % 2 ^ 64
  let x := x ^^^ (x / 2 ^ 31)
  let x := x * 0x8CB92BA72F3D8DD7 % 2 ^ 64
  let x := x ^^^ (x / 2 ^ 29)
  x * rows / 2 ^ 64

/-- The row an index value selects; none is out of range (R75). -/
def resolveRow (t : Desc) (v : Nat) : Option Nat :=
  if tIndexMode t = 0 then (if v < tRows t then some v else none)
  else if tIndexMode t = 1 then some (v % tRows t)
  else some (hashRow v (tSeed t) (tRows t))

/-! Rows in memory (R72, R76, R77). -/

/-- Device virtual address of a row's slot. -/
def slotVa (t : Desc) (row : Nat) : Nat := tRowBase t + row * 2 ^ tSlotLog t

/-- Device virtual address of a row's scale record. The row's lane reads it with the slot, wherever its page lies (R73;
log 155). -/
def recVa (t : Desc) (row : Nat) : Nat := tScaleBase t + row * tRecSize t

/-- The home lane of a row: by its slot's first granule, or by the hash for COLD rows (R76, R77). -/
def rowLane (id row : Nat) (t : Desc) (s : State) : Nat :=
  if tCold t then Config.rowHash id row % 384
  else match mpaOf (slotVa t row) s with
    | some a => laneOf a
    | none => 32 * homeStack (slotVa t row)

/-- A row's bytes as a lane reads them: version word, element area, scales and offset. -/
structure RowData where
  version : Nat
  elems : List Byte
  scales : List Byte
  deriving DecidableEq, Repr

/-- A row read from its slot and scale record. -/
def slotRow (t : Desc) (row : Nat) (s : State) : RowData :=
  { version := if tVersioned t then devNat s (slotVa t row) 8 else 0,
    elems := devRead s (slotVa t row + tElemAt t) (tElemBytes t),
    scales := devRead s (recVa t row) (tRecBytes t) }

/-- A row as a data record of the update log gives it. -/
def logRow (t : Desc) (data : List Byte) : RowData :=
  { version := 0, elems := slice data 0 (tElemBytes t), scales := slice data (tElemBytes t) (tRecBytes t) }

/-- A row's content as a data record. -/
def asRecord (r : RowData) : List Byte := r.elems ++ r.scales

/-- The redirect-index entry of a committed row. -/
def committedOf (id row : Nat) (s : State) : Option CommittedRow :=
  s.updates.committed.find? (fun c => c.table == id && c.row == row)

/-- The content served to a reader bound to an epoch (R120, R121, Table 4.4). -/
def servedRow (id row epoch : Nat) (t : Desc) (s : State) : RowData :=
  match committedOf id row s with
  | none => slotRow t row s
  | some c =>
    if epoch < c.epoch then
      match c.preImage with
      | some p => logRow t p
      | none => slotRow t row s
    else if c.copied then slotRow t row s
    else logRow t c.data

/-- A reader bound to an epoch is served a row from its slot. -/
def slotServed (id row epoch : Nat) (s : State) : Bool :=
  match committedOf id row s with
  | none => true
  | some c => if epoch < c.epoch then c.preImage.isNone else c.copied

/-- Lookup descriptors of no launch issued in an epoch and not yet taken, and lookups of other modules that arrived in it and
are not yet served (R94, R97). -/
def issuedReaders (epoch : Nat) (s : State) : Nat :=
  ((s.control.map (fun k => k.issued.countP (fun p =>
    df p.1 0 63 56 == 0x21 && p.2.launch.isNone && p.2.issue.any (fun i => i.2 == epoch)))).foldl (· + ·) 0) +
  ((s.fabric.sessions.map (fun x => x.rxOps.countP (fun o =>
    o.opcode == 5 && o.epoch == epoch && !s.lookup.jobs.any (fun j => j.serves == some (x.peer, o.seq))))).foldl (· + ·) 0)

/-- Launches and lookup descriptors bound to an epoch (R118, R123). -/
def readersOf (epoch : Nat) (s : State) : Nat :=
  s.dispatch.launches.countP (fun l => l.epoch == epoch) +
  s.service.admitted.countP (fun a => a.epoch == epoch && a.launch.isNone) + s.lookup.jobs.countP (fun j => j.epoch == epoch) +
  issuedReaders epoch s

/-- A row's slot and scale record translated in the base die of its home stack, without a requester TLB (R407). -/
def touchRow (t : Desc) (row : Nat) (s : State) : State :=
  (pagesOf (slotVa t row) (2 ^ tSlotLog t) ++ pagesOf (recVa t row) (tRecBytes t)).foldl (fun s p => touchPteCache p s) s

/-- A row's content stored whole in its slot and scale record; the version word takes the value given (R112, R113). -/
def storeRow (t : Desc) (row version : Nat) (data : List Byte) (s : State) : State :=
  let s := touchRow t row s
  let s := if tVersioned t then moduleWrite 7 (slotVa t row) (leBytes 8 version) s else s
  let s := moduleWrite 7 (slotVa t row + tElemAt t) (slice data 0 (tElemBytes t)) s
  moduleWrite 7 (recVa t row) (slice data (tElemBytes t) (tRecBytes t)) s

/-- The background copy of a committed row carried to its end: its pre-image is kept while readers of the epoch before may
need it (R120, R123); the version word ends even, one above the odd word that chunks already stored left (R113). -/
def finishCopy (c : CommittedRow) (t : Desc) (s : State) : State :=
  let s := if tCold t then touchCold s else s
  let old := slotRow t c.row s
  let keep := readersOf (c.epoch - 1) s != 0 && (c.chunks == 0 || c.preImage.isSome)
  let v := if c.chunks ≠ 0 then old.version + 1 else if old.version % 2 = 0 then old.version + 2 else old.version + 3
  let c' : CommittedRow :=
    { c with copied := true, chunks := 0, preImage := if keep then (match c.preImage with
      | some p => some p
      | none => some (asRecord old)) else none }
  let s := storeRow t c.row (v % 2 ^ 64) c.data s
  { s with updates := { s.updates with
    cutRows := s.updates.cutRows.filter (fun r => r != (c.table, c.row)),
    committed := (s.updates.committed.filter (fun x => !(x.table == c.table && x.row == c.row))) ++
      (if keep then [c'] else []) } }

/-- A row's pending copy, if any, is carried out before its slot is written. -/
def settleCopy (id row : Nat) (t : Desc) (s : State) : State :=
  match committedOf id row s with
  | some c => if c.copied then s else finishCopy c t s
  | none => s

/-! The redirect indexes and update logs (R115, R116). -/

/-- Bytes of a log entry of a table. -/
def logEntryBytes (t : Desc) : Nat := alignUp (2 ^ tSlotLog t + tRecSize t) 32

/-- Index entries in use in a stack. -/
def indexUsed (stack : Nat) (s : State) : Nat :=
  s.updates.staged.countP (fun r => r.lane / 32 == stack) + s.updates.committed.countP (fun r => r.lane / 32 == stack)

/-- Bytes of a stack's update log in use. -/
def logUsed (stack : Nat) (s : State) : Nat :=
  let of_ := fun (id : Nat) => match tableOf id s with
    | some t => logEntryBytes t
    | none => 0
  (((s.updates.staged.filter (fun r => r.lane / 32 == stack)).map (fun r => of_ r.table)).foldl (· + ·) 0) +
  (((s.updates.committed.filter (fun r => r.lane / 32 == stack)).map (fun r => of_ r.table)).foldl (· + ·) 0)

/-- A stack has room for one more row of a table. -/
def stageRoom (stack : Nat) (t : Desc) (s : State) : Bool :=
  decide (indexUsed stack s < 262144) && decide (logUsed stack s + logEntryBytes t ≤ s.updates.logMb * 1000000)

/-! The row cache (R77). -/

/-- Row-cache sets of a channel. -/
def cacheSets (channel : Nat) (s : State) : Nat :=
  let n := s.lookup.rowCacheGb * 1000000000 / 17408
  n / 384 + (if channel < n % 384 then 1 else 0)

/-- The set of a COLD row. -/
def cacheSet (id row : Nat) (s : State) : Nat := Config.rowHash id row / 384 % Nat.max 1 (cacheSets (Config.rowHash id row % 384) s)

/-- Ways a row takes. -/
def cacheWays (t : Desc) : Nat := (2 ^ tSlotLog t + tRecSize t + 1023) / 1024

/-- The line that holds a row. -/
def cacheLine (id row : Nat) (s : State) : Option CacheLine := s.lookup.rowCache.find? (fun l => l.table == id && l.row == row)

/-- Lines of a set that overlap a run of ways. -/
def overlapping (channel set way n : Nat) (s : State) : List CacheLine :=
  s.lookup.rowCache.filter (fun l => l.channel == channel && l.set == set && decide (l.way < way + n) && decide (way < l.way + l.ways))

/-- The start of the least recently used run of n ways of a set. -/
def lruRun (channel set n : Nat) (s : State) : Nat :=
  let use := fun (w : Nat) => ((overlapping channel set w n s).map (·.lastUse)).foldl Nat.max 0
  (List.range (17 - n)).foldl (fun best w => if use w < use best then w else best) 0

/-- A row's line filled (ROW_CACHE_FILL). -/
def cacheFill (id row : Nat) (t : Desc) (s : State) : State :=
  let ch := Config.rowHash id row % 384
  let set := cacheSet id row s
  let n := cacheWays t
  if cacheSets ch s = 0 ∨ 16 < n then s
  else
    let w := lruRun ch set n s
    let out := overlapping ch set w n s
    { s with lookup := { s.lookup with
      useClock := s.lookup.useClock + 1,
      rowCache := (s.lookup.rowCache.filter (fun l => !out.contains l)) ++
        [{ channel := ch, set := set, way := w, ways := n, table := id, row := row, lastUse := s.lookup.useClock + 1 }] } }

/-- A COLD row's access: hit, miss with fill unless speculative, or a direct cold-tier read; answers whether it missed. -/
def coldAccess (id row spec : Nat) (t : Desc) (s : State) : Bool × State :=
  if tCold t = false then (false, s)
  else if tCached t = false ∨ s.lookup.rowCacheGb = 0 then (false, touchCold s)
  else match cacheLine id row s with
    | some l =>
      (false, count Cnt.rowCacheHits 1 { s with lookup := { s.lookup with
        useClock := s.lookup.useClock + 1,
        rowCache := updFirst (fun x => x == l) (fun x => { x with lastUse := s.lookup.useClock + 1 }) s.lookup.rowCache } })
    | none =>
      let s := count Cnt.rowCacheMisses 1 (touchCold s)
      (true, if spec = 0 then cacheFill id row t s else s)

/-! TABLE_DEFINE and TABLE_DELETE (R74, R102, R133). -/

/-- Pages a table's slots and scale records take. -/
def tSlotPages (t : Desc) : Nat := (tRows t * 2 ^ tSlotLog t + 4095) / 4096
def tRecPages (t : Desc) : Nat := (tRows t * tRecSize t + 4095) / 4096

/-- A field of a descriptor breaks R74 with BAD_VALUE. -/
def tableBad (t : Desc) : Bool :=
  decide (5 < tFmt t) || tScaleMode t == 3 || tScaleFmt t == 3 || decide (2 < tIndexMode t) || df t 0 15 12 != 0 ||
  df t 5 39 0 != 0 || dword t 7 != 0 || decide (tSlotLog t < 5) || decide (13 < tSlotLog t) || tDim t == 0 ||
  decide (4096 < tDim t) || tRows t == 0 || decide (2 ^ 40 < tRows t) ||
  decide (2 ^ tSlotLog t < tElemBytes t + tElemAt t) || (tScaleMode t == 2 && tDim t % 32 != 0) ||
  (tOffset t && decide (1 < tFmt t)) || (tMask t == 0 && !tCold t && !tRemote t) || (tCached t && !tCold t)

/-- Storage of a table allocated: ROW_BASE, SCALE_BASE and bytes. -/
def allocTable (id : Nat) (t : Desc) (s : State) : Option ((Nat × Nat × Nat) × State) :=
  if tRemote t then some ((0, 0, 0), s)
  else
    let n := tSlotPages t + tRecPages t
    match allocIn (if tCold t then 0 else tMask t) n (tCold t) none (0x1000 + id) s with
    | some (first, s) =>
      some ((first * 4096, if tRecSize t = 0 then 0 else (first + tSlotPages t) * 4096,
        tRows t * (2 ^ tSlotLog t + tRecSize t)), s)
    | none => none

/-- A descriptor with its M fields filled. -/
def fillTable (t : Desc) (rowBase scaleBase bytes : Nat) : Desc :=
  let keep := BitVec.ofNat 512 (2 ^ 128 - 1) ||| (BitVec.ofNat 512 (2 ^ 128 - 1) <<< 256) ||| (BitVec.ofNat 512 (2 ^ 64 - 1) <<< 448)
  (t &&& keep) ||| (BitVec.ofNat 512 rowBase <<< 128) ||| (BitVec.ofNat 512 scaleBase <<< 192) ||| (BitVec.ofNat 512 bytes <<< 384)

/-- What a write of TABLE_DEFINE does. Where several refusals of R74 apply, the one tested first here gives the REASON (log
154). A table in the cold tier waits for the tier's switch-on (R513). -/
def tableDefineAction (req : ReqId) (bytes : List Byte) (s : State) : State :=
  let t : Desc := BitVec.ofNat 512 (ofLe bytes)
  let id := df t 0 63 52
  if (tableOf id s).isSome then endCmd Ent.tableDefine stDenied erWrongState s
  else if tableBad t then endCmd Ent.tableDefine stDenied erBadValue s
  else if tCached t ∧ s.lookup.rowCacheGb = 0 then endCmd Ent.tableDefine stDenied erWrongState s
  else match allocTable id t s with
    | none => endCmd Ent.tableDefine stDenied erNoResource s
    | some ((rb, sb, n), v) =>
      if tCold t ∧ tRemote t = false ∧ coldUp s = false then awaitCold req Ent.tableDefine bytes s
      else
      let x : Table := { desc := fillTable t rb sb n, deleting := false, context := classNum (classOf req) }
      endCmd Ent.tableDefine stOk 0
        (measureBytes 8 8 bytes { v with lookup := { v.lookup with tables := alSet v.lookup.tables id x } })

/-- TABLE_DEFINE. -/
def execTableDefine (req : ReqId) (desc : Desc) (s : State) : Host.Outcome State Fault Refusal :=
  .next (cmdVia tableDefineAction req 0x2100 0x03 (leBytes 64 desc.toNat) s)

/-- What a write of TABLE_DELETE does: the deletion waits for the descriptors in flight. -/
def tableDeleteAction (_ : ReqId) (bytes : List Byte) (s : State) : State :=
  let id := ofLe bytes
  match alGet s.lookup.tables id with
  | none => endCmd Ent.tableDelete stDenied erBadValue s
  | some x => { s with lookup := { s.lookup with tables := alSet s.lookup.tables id { x with deleting := true } } }

/-- TABLE_DELETE. -/
def execTableDelete (req : ReqId) (tableId : Nat) (s : State) : Host.Outcome State Fault Refusal :=
  .next (cmdVia tableDeleteAction req 0x2100 0x04 (leBytes 2 tableId) s)

end Sys2Proof.Machine
end

