-- ==== Sys2Proof/Machine/Lookup.lean ====
section
/-! DEFINITION. Lookups (03, R78 to R98): the splitter, the gather-pool lanes, the stack reducers and the bag combiner. -/

namespace Sys2Proof.Machine

open Sys2Proof

/-! The lookup descriptor (Table 3.3). -/

def lMode (d : Desc) : Nat := df d 0 55 53
def lOutFmt (d : Desc) : Nat := df d 0 52 50
def lIdxFmt (d : Desc) : Nat := df d 0 49 48
def lWeighted (d : Desc) : Bool := db d 0 47
def lConcat (d : Desc) : Nat := df d 0 39 32
def lTable (d : Desc) : Nat := df d 0 31 20
def lBags (d : Desc) : Nat := df d 0 15 0
def lTag (d : Desc) : Nat := df d 3 47 32
def lOutScale (d : Desc) : BitVec 32 := BitVec.ofNat 32 (df d 3 31 0)
def lStride (d : Desc) : Nat := df d 6 63 32
def lSpec (d : Desc) : Nat := df d 6 31 16
def lProgress (d : Desc) : Nat := df d 6 15 8

/-- Lookups in flight. -/
def lookupOf (id : Nat) (s : State) : Option LookupJob := s.lookup.jobs.find? (fun j => j.id == id)

def updLookup (id : Nat) (f : LookupJob → LookupJob) (s : State) : State :=
  { s with lookup := { s.lookup with jobs := updFirst (fun j => j.id == id) f s.lookup.jobs } }

/-- Bytes of one bag's output (Table 3.5). -/
def bagBytes (d t : Desc) : Nat :=
  let n := if lMode d = 4 then lConcat d else 1
  if lOutFmt d = 5 then n * tElemBytes t else n * tDim t * (fmtBits (outFmt (lOutFmt d)) / 8)


/-- The checks of R83 that need no list. -/
def lookupFieldsOk (d : Desc) : Bool :=
  df d 0 63 56 == 0x21 && decide (lMode d ≤ 4) && decide (lOutFmt d ≤ 5) && decide (lIdxFmt d ≤ 2) && lBags d != 0 &&
  !(lMode d == 2 && !lWeighted d) && !(lMode d == 4 && lConcat d == 0) && !(lOutFmt d == 5 && lMode d != 4) &&
  !(lOutFmt d == 4 && !posFinite32 (lOutScale d))

/-- The checks of R83 on outputs, with the table that sets the shape; they lie in the context's partitions (R359). -/
def lookupPlacesOk (core : Nat) (d t : Desc) (org : Origin) (s : State) : Bool :=
  !(lOutFmt d == 5 && tOffset t) && sramFits core (dword d 5) ((lBags d - 1) * lStride d + bagBytes d t) org s &&
  sramFits core (dword d 7) 32 org s &&
  (lOutFmt d != 5 || sramFits core (dword d 4) (lBags d * lConcat d * tScaleBytes t) org s)

/-- Offsets of the bags: BAGS + 1 numbers (R79). -/
def bagOffsets (d : Desc) (s : State) : List Nat :=
  if dword d 2 = 0 then (List.range (lBags d + 1)).map (fun b => b * df d 3 63 48)
  else (List.range (lBags d + 1)).map (fun b => devNat s (dword d 2 + 4 * b) 4)

/-- Bytes of an index value. -/
def idxBytes (d : Desc) : Nat := if lIdxFmt d = 0 then 4 else 8

/-- Runs of entries that the bags read: first entry and how many. CONCAT reads no entry past its CONCAT_N (R82; log 156);
decreasing offsets give an empty bag (R101; log 150). -/
def bagRuns (d : Desc) (s : State) : List (Nat × Nat) :=
  let o := bagOffsets d s
  (List.range (lBags d)).map (fun b =>
    let n := o.getD (b + 1) 0 - o.getD b 0
    (o.getD b 0, if lMode d = 4 then Nat.min n (lConcat d) else n))

/-- The first obstacle among checks. -/
def firstObstacle (cs : List MemCheck) : MemCheck := (cs.find? (fun c => c ≠ .ok)).getD .ok

/-- What the reads of a descriptor's lists meet first. -/
def lookupLists (d : Desc) (s : State) : MemCheck :=
  let a := if dword d 2 = 0 then .ok else memCheck (dword d 2) (4 * (lBags d + 1)) .read s
  if a ≠ .ok then a
  else
    let rs := (bagRuns d s).filter (fun r => r.2 != 0)
    let b := firstObstacle (rs.map (fun r => memCheck (dword d 1 + r.1 * idxBytes d) (r.2 * idxBytes d) .read s))
    if b ≠ .ok then b
    else if lMode d = 2 then firstObstacle (rs.map (fun r => memCheck (dword d 4 + 2 * r.1) (2 * r.2) .read s)) else .ok

/-- The table and value of entry i (R78). -/
def indexEntry (d : Desc) (i : Nat) (s : State) : Nat × Nat :=
  let v := devNat s (dword d 1 + i * idxBytes d) (idxBytes d)
  if lIdxFmt d = 2 then (v / 2 ^ 52, v % 2 ^ 52) else (lTable d, v)

/-- The entries that a list gives the bags: entry number, bag, place. A list of more than 2^24 entries is processed like any
other (R79; log 156). -/
def listedEntries (d : Desc) (s : State) : List (Nat × Nat × Nat) :=
  (bagRuns d s).zipIdx.flatMap (fun r => (List.range r.1.2).map (fun p => (r.1.1 + p, r.2, p)))

/-- The table that sets shape and formats: the first entry's, else the descriptor's (R78). -/
def shapeTable (d : Desc) (s : State) : Nat :=
  match lIdxFmt d, listedEntries d s with
  | 2, e :: _ => (indexEntry d e.1 s).1
  | _, _ => lTable d

/-- Tables that a descriptor names: its own, or those of its tagged entries (R78). -/
def namedTables (d : Desc) (s : State) : List Nat :=
  if lIdxFmt d = 2 then ((listedEntries d s).map (fun e => (indexEntry d e.1 s).1)).eraseDups else [lTable d]

/-- Every table that the entries name is defined (R83). -/
def tablesDefined (d : Desc) (s : State) : Bool :=
  (tableOf (shapeTable d s) s).isSome && (namedTables d s).all (fun id => (tableOf id s).isSome)

/-- A remote entry joins the open group of its table, or opens one: at most 512 entries and 64 bags (R470). -/
def addRemote (e : LookupEntry) (owner : Nat) (gs : List RemoteGroup) : List RemoteGroup :=
  let fits := fun (g : RemoteGroup) =>
    g.entries.any (fun x => x.table == e.table) && decide (g.entries.length < 512) &&
    (g.entries.any (fun x => x.bag == e.bag) || decide ((g.entries.map (·.bag)).eraseDups.length < 64))
  if gs.any fits then updFirst fits (fun g => { g with entries := g.entries ++ [e] }) gs
  else gs ++ [{ owner := owner, entries := [e], sentAt := none, settled := false }]

/-- The splitter resolves one entry (R75, R78, R84, R96): local, remote, or out of range. -/
def splitEntry (d shape : Desc) (j : LookupJob) (e : Nat × Nat × Nat) (s : State) : LookupJob × State :=
  let tv := indexEntry d e.1 s
  let w := if lMode d = 2 then BitVec.ofNat 16 (devNat s (dword d 4 + 2 * e.1) 2) else 0
  match tableOf tv.1 s with
  | none => (j, s)
  | some t =>
    if !sameShape t shape then ({ j with oor := j.oor + 1 }, count Cnt.oorEntries 1 s)
    else if tRemote t then
      let x : LookupEntry := { pos := e.1, bag := e.2.1, place := e.2.2, table := tv.1, row := tv.2, weight := w, lane := 0 }
      ({ j with remote := addRemote x (tOwner t) j.remote }, s)
    else match resolveRow t tv.2 with
      | none => ({ j with oor := j.oor + 1 }, count Cnt.oorEntries 1 s)
      | some r =>
        let s := ensureFrame (slotVa t r / 4096) s
        ({ j with toServe := j.toServe ++
            [{ pos := e.1, bag := e.2.1, place := e.2.2, table := tv.1, row := r, weight := w, lane := rowLane tv.1 r t s }] }, s)

/-- O1 and the entries of a LOOKUP request (Table 17.6). -/
def lookupRequest (j : LookupJob) (g : RemoteGroup) (s : State) : BitVec 64 × List Byte :=
  match tableOf ((g.entries.map (·.table)).headD 0) s with
  | none => (0, [])
  | some t =>
    let w := lMode j.desc == 2
    (BitVec.ofNat 64 (tOwnerTable t * 2 ^ 52 + lMode j.desc * 2 ^ 49 + (if w then 2 ^ 48 else 0) + lConcat j.desc * 2 ^ 40 +
      tFmt t * 2 ^ 36 + tScaleMode t * 2 ^ 34 + tScaleFmt t * 2 ^ 32 + (if tOffset t then 2 ^ 31 else 0) + (tDim t - 1)),
     (g.entries.map (fun e => leBytes 8 e.row ++ leBytes 8 (e.bag * 2 ^ 32 + (if w then e.weight.toNat * 2 ^ 16 else 0) +
       (if lMode j.desc = 4 then e.place * 2 ^ 8 else 0)))).foldr (· ++ ·) [])

/-- A remote group that failed with a status is recorded in the Waybill (R98, Table 23.2). -/
def recordRemote (j : LookupJob) (k st : Nat) (s : State) : State :=
  match j.remote[k]? with
  | some g => wbSubmit 0x2001 g.owner [(g.entries.map (·.table)).headD 0, st] s
  | none => s

/-- One remote group of a lookup sent; a module outside the membership denies at once (R96, R466). -/
def sendGroup (id : Nat) (k : Nat) (s : State) : State :=
  match lookupOf id s with
  | none => s
  | some j =>
    match j.remote[k]? with
    | none => s
    | some g =>
      if (peerRec g.owner s).isNone then
        count Cnt.remoteDenied 1 (recordRemote j k stDenied (updLookup id (fun j =>
          { j with denied := true, remote := updAt j.remote k (fun g => { g with settled := true, sentAt := some s.now }) }) s))
      else
        let r := lookupRequest j g s
        fabPost g.owner 5 0 r.1 r.2 0 (.lookup id k)
          (count Cnt.remoteSent 1 (updLookup id (fun j =>
            { j with remote := updAt j.remote k (fun g => { g with sentAt := some s.now }) }) s))

/-- Every remote group of a lookup that waits is sent. -/
def sendGroups (id : Nat) (s : State) : State :=
  match lookupOf id s with
  | none => s
  | some j => (List.range j.remote.length).foldl (fun s k =>
      match (j.remote[k]?).map (·.sentAt) with
      | some none => sendGroup id k s
      | _ => s) s

/-- The splitter sends a checked descriptor's entries to their lanes (R83, R94, R96). -/
def startLookup (core : Nat) (d : Desc) (org : Origin) (shape : Desc) (s : State) : State :=
  let epoch := match org.launch.bind (fun l => launchOf l s) with
    | some l => l.epoch
    | none => (org.issue.map (·.2)).getD s.updates.epoch
  let id := s.lookup.nextId
  let j : LookupJob :=
    { id := id, core := core, desc := d, org := org, epoch := epoch, issuedAt := (org.issue.map (·.1)).getD s.now, spec := lSpec d,
      dim := tDim shape,
      shapeTable := shapeTable d s, toServe := [], parked := [], lanePartials := [], stackPartials := [], placed := [],
      remote := [], written := [], released := 0, torn := 0, sat := 0, oor := 0, misses := 0, rowsRead := 0, retries := 0,
      timedOut := false, denied := false, serves := none, tables := namedTables d s }
  let es := listedEntries d s
  let read := fun (va n : Nat) (s : State) => noteDmaRead va n (drayAccess (drayAgent core) va n s)
  let s := if dword d 2 = 0 then s else read (dword d 2) (4 * (lBags d + 1)) s
  let s := (bagRuns d s).foldl (fun s r =>
    let s := read (dword d 1 + r.1 * idxBytes d) (r.2 * idxBytes d) s
    if lMode d = 2 then read (dword d 4 + 2 * r.1) (2 * r.2) s else s) s
  let r := es.foldl (fun (a : LookupJob × State) e => splitEntry d shape a.1 e a.2) (j, s)
  let s := { r.2 with lookup := { r.2.lookup with jobs := r.2.lookup.jobs ++ [r.1], nextId := id + 1 } }
  if lSpec d = 0 then sendGroups id s else s

/-- LOOKUP. Its lists are read by a Dray that no fault stalls (R415). -/
def execLookup (core : Nat) (desc : Desc) (org : Origin) (s : State) : Host.Outcome State Fault Refusal :=
  if 98 ≤ core then .fault .noSuchUnit
  else
    let gone := takeIssued core desc org s
    let bad := fun (cause : Nat) => jobFaultPlain 2 core cause (lTag desc) (df desc 0 63 56) gone
    if inTurn core desc org s = false then .next (holdIssued core desc org s)
    else if (matOf core s).failed then .next (bad 8)
    else if lookupFieldsOk desc = false then .next (bad 1)
    else match lookupLists desc s with
      | .ok =>
        if agentWaits (drayAgent core) s then .next (holdIssued core desc org s)
        else if tablesDefined desc s = false then .next (bad 1)
        else match tableOf (shapeTable desc s) s with
          | none => .next (bad 1)
          | some t =>
            if lookupPlacesOk core desc t org s then .next (startLookup core desc (issuedOrigin core desc org s) t gone)
            else .next (bad 1)
      | m => .next (stallOn (drayAgent core) org.context (lSpec desc) 2 core (lTag desc) 0x21 .read m (holdIssued core desc org s))

/-! A lane (R85, R86). -/

/-- A row dequantised: x = q × s + o (R86). -/
def dequant (t : Desc) (r : RowData) : List (BitVec 32) :=
  let z := scaleBytes (tScaleFmt t)
  let o := if tOffset t then decF fmtF16 (leAt r.scales (tScaleBytes t) 2) else .fin false 0 0
  (List.range (tDim t)).map (fun i =>
    let q := decElem (tFmt t) (packedAt r.elems (tFmt t) i)
    let sc := if tScaleMode t = 0 then .fin false 1 0
      else decScale (tScaleFmt t) (leAt r.scales ((if tScaleMode t = 1 then 0 else i / 32) * z) z)
    enc32 (fadd (fmul q sc) o))

/-- Two vectors combined element by element. -/
def zipVec (f : BitVec 32 → BitVec 32 → BitVec 32) (a b : List (BitVec 32)) : List (BitVec 32) := List.zipWith f a b

/-- What one row adds to a partial of its bag (R86). -/
def poolRow (mode : Nat) (w : BitVec 16) (p : Option (List (BitVec 32))) (x : List (BitVec 32)) : List (BitVec 32) :=
  let zero := x.map (fun _ => (0 : BitVec 32))
  if mode = 3 then (match p with
    | some p => zipVec max32 p x
    | none => x)
  else if mode = 2 then zipVec (fun a b => enc32 (fadd (fmul (decF fmtF16 w.toNat) (val32 b)) (val32 a))) (p.getD zero) x
  else zipVec add32 (p.getD zero) x

/-- A partial of a bag joined by one row. -/
def addPartial (mode source bag : Nat) (w : BitVec 16) (x : List (BitVec 32)) (ps : List Partial) : List Partial :=
  if ps.any (fun p => p.source == source && p.bag == bag) then
    updFirst (fun p => p.source == source && p.bag == bag)
      (fun p => { p with n := p.n + 1, vec := poolRow mode w (some p.vec) x }) ps
  else ps ++ [{ source := source, bag := bag, n := 1, vec := poolRow mode w none x }]

/-- A write to a row of a slot with a version word is on its way, so that it may fall between the two reads of the word. -/
def rowWriteNear (table row : Nat) (s : State) : Bool :=
  s.updates.jobs.any (fun j => df j.desc 0 55 51 == 0 && j.rows.any (fun r => r.table == table && r.row == row)) ||
  s.updates.committed.any (fun c => c.table == table && c.row == row && !c.copied)

/-- A read of a row by its lane is not stable: its version word is odd, or a write fell between the two reads of the word,
which the moment of the read leaves open (R85; log 157). -/
def readUnstable (e : LookupEntry) (epoch : Nat) (t : Desc) (r : RowData) (s : State) : Bool :=
  r.version % 2 == 1 || (tVersioned t && slotServed e.table e.row epoch s && rowWriteNear e.table e.row s &&
    Config.freeRank s.free 0 % 2 == 1)

/-- One re-read of a row more: the entry stays with its lane. -/
def retryEntry (j : LookupJob) (e : LookupEntry) (s : State) : State :=
  let again := fun (es : List LookupEntry) => updFirst (fun x => x == e) (fun x => { x with tries := x.tries + 1 }) es
  count Cnt.versionRetries 1 (updLookup j.id (fun j => { j with
    toServe := again j.toServe, parked := again j.parked, retries := j.retries + 1 }) s)

/-- The lane's accesses for an entry: the entry's page, and for a COLD row the row cache or the cold tier. -/
def readEntry (j : LookupJob) (e : LookupEntry) (t : Desc) (s : State) : Bool × State :=
  let s := touchRow t e.row s
  if e.tries = 0 then coldAccess e.table e.row j.spec t s else (false, s)

/-- One entry served by its lane with the row it has read: dequantised and pooled, or placed (R85, R86). -/
def poolEntry (j : LookupJob) (e : LookupEntry) (t : Desc) (r : RowData) (torn miss : Bool) (s : State) : State :=
  let x := dequant t r
  let s := count Cnt.rowsRead 1 s
  let s := if torn then count Cnt.tornRows 1 (specMark j.spec j.org.launch false false true s) else s
  updLookup j.id (fun j => { j with
    toServe := j.toServe.erase e, parked := j.parked.erase e,
    torn := j.torn + (if torn then 1 else 0), misses := j.misses + (if miss then 1 else 0), rowsRead := j.rowsRead + 1,
    placed := if lMode j.desc = 4 then j.placed ++ [{ bag := e.bag, place := e.place, vec := x, elems := r.elems, scales := r.scales }]
      else j.placed,
    lanePartials := if lMode j.desc = 4 then j.lanePartials else addPartial (lMode j.desc) e.lane e.bag e.weight x j.lanePartials }) s

/-- One read of an entry's row by its lane: a read that is not stable is made again, up to four times, and the last is then
served torn (R85). -/
def serveEntry (j : LookupJob) (e : LookupEntry) (t : Desc) (s : State) : State :=
  let m := readEntry j e t s
  let r := servedRow e.table e.row j.epoch t m.2
  let bad := readUnstable e j.epoch t r m.2
  let s := if rowWriteNear e.table e.row m.2 then drawFree m.2 else m.2
  if bad ∧ e.tries < 4 then retryEntry j e (updLookup j.id (fun j => { j with misses := j.misses + (if m.1 then 1 else 0) }) s)
  else poolEntry j e t r bad m.1 s

/-- What a lane's reads of a row meet: its slot, and its scale record. -/
def rowCheck (t : Desc) (row : Nat) (s : State) : MemCheck :=
  let a := memCheck (slotVa t row) (2 ^ tSlotLog t) .read s
  if a ≠ .ok ∨ tRecBytes t = 0 then a else memCheck (recVa t row) (tRecBytes t) .read s

/-- The address of a codeword of a lane's read of a row: its slot, then its scale record (R73); of a cached row, the tags of its set
and then its line, or on a miss its slot and record in the cold tier (R77; log 155). -/
def laneWord (e : LookupEntry) (t : Desc) (s : State) (k : Nat) : Nat :=
  let n := Nat.max 1 (2 ^ tSlotLog t / 32)
  let rowAt := fun (k : Nat) => if k < n then slotVa t e.row + 32 * k else recVa t e.row + 32 * (k - n)
  let bytes := s.lookup.rowCacheGb * 1000000000
  if tCold t && tCached t && bytes != 0 then
    if k < 32 ∨ (cacheLine e.table e.row s).isSome = true then
      extentAt 4 s + Config.cacheWord (Config.rowHash e.table e.row % 384) (cacheSet e.table e.row s) k % bytes / 32 * 32
    else rowAt (k - 32)
  else rowAt k

/-- LANE_SERVE: the next entry of the sub-list, its row read with codewords in error; the rest of the sub-list parks behind an
absent page. A corrected error is served and reported; an uncorrectable one of the slot, the scale record or a cache tag is a job fault,
and the entry is not served (R95). -/
def execLaneServe (lookup : Nat) (lane : LaneRead) (s : State) : Host.Outcome State Fault Refusal :=
  .next (match lookupOf lookup s with
    | none => s
    | some j =>
      match (j.parked ++ j.toServe).find? (fun e => e.lane == lane.lane) with
      | none => s
      | some e =>
        match tableOf e.table s with
        | none => s
        | some t =>
          match rowCheck t e.row s with
          | .ok =>
            let c := codewordsAt 0 (fun k => some (laneWord e t s k)) lane.errors s
            if c.1 then serveEntry j e t c.2 else c.2
          | m =>
            stallOn (384 + j.core) j.org.context j.spec 2 j.core (lTag j.desc) 0x21 .read m
              (updLookup lookup (fun j => { j with
                parked := j.parked ++ j.toServe.filter (fun e => e.lane == lane.lane),
                toServe := j.toServe.filter (fun e => e.lane != lane.lane) }) s))

/-! The stack reducer (R86). -/

/-- Insertion by a rank. -/
def insertRank (f : Nat → Nat) (x : Nat × Partial) : List (Nat × Partial) → List (Nat × Partial)
  | [] => [x]
  | y :: t => if f x.1 ≤ f y.1 then x :: y :: t else y :: insertRank f x t

/-- Partials in an order the spec does not fix (R86; log 5). -/
def shuffle (draw : Nat) (ps : List Partial) : List Partial :=
  ((ps.zipIdx.map (fun p => (p.2, p.1))).foldr (insertRank (Config.freeRank draw)) []).map (·.2)

/-- Partials of one bag combined: none of them, or their sum or maximum with the count (R86). -/
def combine (mode source bag draw : Nat) (ps : List Partial) : Option Partial :=
  match shuffle draw ps with
  | [] => none
  | p :: t => some (t.foldl (fun a q =>
      { a with n := a.n + q.n, vec := zipVec (if mode = 3 then max32 else add32) a.vec q.vec })
      { p with source := source, bag := bag })

/-- STACK_REDUCE: a stack whose lanes have served every entry returns one partial for each bag. -/
def execStackReduce (lookup stack : Nat) (s : State) : Host.Outcome State Fault Refusal :=
  .next (match lookupOf lookup s with
    | none => s
    | some j =>
      let mine := j.lanePartials.filter (fun p => p.source / 32 == stack)
      if (j.toServe ++ j.parked).any (fun e => e.lane / 32 == stack) || mine.isEmpty then s
      else
        let bags := (mine.map (·.bag)).eraseDups
        drawFree (updLookup lookup (fun j => { j with
          lanePartials := j.lanePartials.filter (fun p => p.source / 32 != stack),
          stackPartials := j.stackPartials ++ bags.filterMap (fun b =>
            combine (lMode j.desc) stack b s.free (mine.filter (fun p => p.bag == b))) }) s))

/-! The bag combiner (R87 to R90). -/

/-- Every partial of a bag has arrived. -/
def bagReady (j : LookupJob) (bag : Nat) : Bool :=
  decide (bag < lBags j.desc) && !j.written.contains bag &&
  (j.toServe ++ j.parked).all (fun e => e.bag != bag) && j.lanePartials.all (fun p => p.bag != bag) &&
  j.remote.all (fun g => g.settled || g.entries.all (fun e => e.bag != bag))

/-- The F32 result of a bag (R82, R87). -/
def bagResult (j : LookupJob) (bag draw : Nat) : List (BitVec 32) :=
  let zeros := List.replicate j.dim (0 : BitVec 32)
  if lMode j.desc = 4 then
    (List.range (lConcat j.desc)).flatMap (fun p =>
      match j.placed.find? (fun x => x.bag == bag && x.place == p) with
      | some x => x.vec
      | none => zeros)
  else match combine (lMode j.desc) 0 bag draw (j.stackPartials.filter (fun p => p.bag == bag && p.n != 0)) with
    | none => zeros
    | some p => if lMode j.desc = 1 then p.vec.map (fun x => div32 x (enc32 (ofInt p.n))) else p.vec

/-- Status of a lookup (Table 3.6). -/
def lookupStatus (j : LookupJob) : Nat :=
  if j.denied then stDenied else if j.timedOut then stTimeout else if j.torn ≠ 0 then stTorn else if j.sat ≠ 0 then stSaturated else stOk

/-- W0 of the status record. -/
def lookupW0 (j : LookupJob) : Nat := 2 ^ 63 + lookupStatus j * 2 ^ 48 + lTag j.desc * 2 ^ 32 + j.released

/-- A store of R90 at an offset of the status record. -/
def lookupSignal (j : LookupJob) (off : Nat) (bytes : List Byte) (s : State) : State :=
  match sramPlace j.core (dword j.desc 7) with
  | some p => placeSignal { p with off := p.off + off } j.spec bytes j.core 2 (lTag j.desc) 0x21 s
  | none => s

/-- A lookup whose bags are all released: W1 to W3, then W0 (R90). -/
def endLookup (id : Nat) (s : State) : State :=
  match lookupOf id s with
  | none => s
  | some j =>
    let cap := fun (n : Nat) => Nat.min n 0xFFFF
    let s := lookupSignal j 8 (leBytes 8 (cap j.torn * 2 ^ 48 + cap j.sat * 2 ^ 32 + cap j.oor * 2 ^ 16 + cap j.misses)) s
    let s := lookupSignal j 16 (leBytes 8 (j.rowsRead % 2 ^ 32 * 2 ^ 32 + j.retries % 2 ^ 32)) s
    let s := lookupSignal j 24 (leBytes 8 ((s.now - j.issuedAt) % 2 ^ 32 * 2 ^ 32 + j.released)) s
    let s := lookupSignal j 0 (leBytes 8 (lookupW0 j)) s
    let s := count Cnt.lookupDescriptors 1 { s with lookup := { s.lookup with jobs := s.lookup.jobs.filter (fun x => x.id != id) } }
    descriptorDone j.org (lookupW0 j) (noteSpecWork j.spec j.rowsRead 0 s)

/-- Bags released in order, with progress after every m-th and the last (R90). -/
def releaseBags : Nat → Nat → State → State
  | 0, _, s => s
  | fuel + 1, id, s =>
    match lookupOf id s with
    | none => s
    | some j =>
      if j.released < lBags j.desc ∧ j.written.contains j.released = true then
        let n := j.released + 1
        let s := updLookup id (fun j => { j with released := n }) s
        let s := if lProgress j.desc ≠ 0 ∧ (n % lProgress j.desc = 0 ∨ n = lBags j.desc) then lookupSignal j 24 (leBytes 4 n) s else s
        if n = lBags j.desc then endLookup id s else releaseBags fuel id s
      else s

/-- A bag's output written: a converted result, or in RAW the elements and scales unchanged (R87 to R89). -/
def writeBag (j : LookupJob) (bag draw : Nat) (t : Desc) (s : State) : State :=
  let o := lOutFmt j.desc
  let put := fun (a off : Nat) (bs : List Byte) (s : State) =>
    match sramPlace j.core a with
    | some p => placeStore { p with off := p.off + off } j.spec bs j.core 2 (lTag j.desc) 0x21 s
    | none => s
  if o = 5 then
    let at_ := fun (p : Nat) => j.placed.find? (fun x => x.bag == bag && x.place == p)
    let k := tScaleBytes t
    let el := (List.range (lConcat j.desc)).flatMap (fun p => padTo (tElemBytes t) (((at_ p).map (·.elems)).getD []))
    let sc := (List.range (lConcat j.desc)).flatMap (fun p => padTo k (slice (((at_ p).map (·.scales)).getD []) 0 k))
    put (dword j.desc 4) (bag * lConcat j.desc * k) sc (put (dword j.desc 5) (bag * lStride j.desc) el s)
  else
    let xs := bagResult j bag draw
    let cs := xs.map (fun x => convOut o (if o = 4 then div32 x (lOutScale j.desc) else x))
    let sat := cs.countP (·.sat)
    let s := countConv cs (put (dword j.desc 5) (bag * lStride j.desc) (packCodes (outFmt o) (cs.map (·.code))) s)
    if sat = 0 then s
    else count Cnt.satElements sat (specMark j.spec j.org.launch true false false (updLookup j.id (fun j => { j with sat := j.sat + sat }) s))

/-- The bags that a request of another module names. -/
def servedBags (j : LookupJob) : List Nat := ((j.remote.flatMap (fun g => g.entries)).map (·.bag)).eraseDups

/-- A bag of a lookup served for another module answered: its partial, or for CONCAT its placed rows with their positions;
the counts travel with the last bag (R97, R470; log 23). -/
def answerBag (j : LookupJob) (peer seq bag draw : Nat) (s : State) : State :=
  let last := (servedBags j).all (fun b => b == bag || j.written.contains b)
  let o1 := if last then BitVec.ofNat 64 (Nat.min j.torn 0xFFFF * 2 ^ 48 + Nat.min j.oor 0xFFFF * 2 ^ 32) else 0
  let rows := j.placed.filter (fun x => x.bag == bag)
  let p := combine (lMode j.desc) 0 bag draw (j.stackPartials.filter (fun p => p.bag == bag && p.n != 0))
  let n := if lMode j.desc = 4 then rows.length else (p.map (·.n)).getD 0
  let body := if lMode j.desc = 4 then rows.flatMap (fun x => leBytes 4 x.place ++ x.elems ++ x.scales)
    else ((p.map (·.vec)).getD (List.replicate j.dim 0)).flatMap (fun x => leBytes 4 x.toNat)
  let s := fabRespondMore peer seq 0x85 0 o1 (leBytes 4 bag ++ leBytes 4 n ++ body) 0 s
  if last then
    settleSeq peer seq (count Cnt.lookupDescriptors 1
      { s with lookup := { s.lookup with jobs := s.lookup.jobs.filter (fun x => x.id != j.id) } })
  else updLookup j.id (fun j => { j with written := bag :: j.written }) s

/-- BAG_COMBINE. A result for a core whose group is not on is held, and wakes it (R29). -/
def execBagCombine (lookup bag : Nat) (s : State) : Host.Outcome State Fault Refusal :=
  .next (match lookupOf lookup s with
    | none => s
    | some j =>
      if bagReady j bag = false then s
      else match j.serves with
        | some (peer, seq) => if (servedBags j).contains bag = false then s else answerBag j peer seq bag s.free (drawFree s)
        | none =>
          if coreOn j.core s = false then wakeCore j.core s
          else match tableOf j.shapeTable s with
          | none => s
          | some t =>
            releaseBags (lBags j.desc) lookup
              (updLookup lookup (fun j => { j with written := bag :: j.written }) (writeBag j bag s.free t (drawFree s))))

/-! Remote groups (R98). -/

/-- A remote group settled without an answer that counts: the bags it has answered stand, and the others get zeros (R98;
log 158). -/
def settleGroup98 (id k : Nat) (timeout : Bool) (s : State) : State :=
  match lookupOf id s with
  | none => s
  | some j =>
    count (if timeout then Cnt.remoteTimeouts else Cnt.remoteDenied) 1
      (recordRemote j k (if timeout then stTimeout else stDenied) (updLookup id (fun j => { j with
        remote := updAt j.remote k (fun g => { g with settled := true }),
        timedOut := j.timedOut || timeout, denied := j.denied || !timeout }) s))

/-- REMOTE_TIMEOUT. -/
def execRemoteTimeout (lookup owner : Nat) (s : State) : Host.Outcome State Fault Refusal :=
  .next (match lookupOf lookup s with
    | none => s
    | some j =>
      (List.range j.remote.length).foldl (fun s k =>
        match j.remote[k]? with
        | some g =>
          if g.owner == owner && !g.settled && g.sentAt.any (fun t => decide (t + ent Ent.remoteTimeoutNs s ≤ s.now)) then
            settleGroup98 lookup k true s
          else s
        | none => s) s)

/-- A LOOKUP_DATA body of one bag arrives for a group (R97, R470). The group is settled with its last bag. -/
def lookupAnswer (id k : Nat) (o1 : Nat) (body : List Byte) (s : State) : State :=
  match lookupOf id s with
  | none => s
  | some j =>
    match j.remote[k]?, tableOf j.shapeTable s with
    | some g, some t =>
      if g.settled then s
      else
        let bag := leAt body 0 4
        let n := leAt body 4 4
        let rowLen := 4 + tDataBytes t
        let vec := (List.range j.dim).map (fun i => BitVec.ofNat 32 (leAt body (8 + 4 * i) 4))
        let rows := (List.range n).map (fun i =>
          let b := slice body (8 + i * rowLen) rowLen
          let r := logRow t (b.drop 4)
          ({ bag := bag, place := leAt b 0 4, vec := dequant t r, elems := r.elems, scales := r.scales } : Placed))
        let rest := g.entries.filter (fun e => e.bag != bag)
        updLookup id (fun j => { j with
          remote := updAt j.remote k (fun g => { g with entries := rest, settled := rest.isEmpty }),
          torn := j.torn + field o1 63 48, oor := j.oor + field o1 47 32, rowsRead := j.rowsRead + n,
          placed := if lMode j.desc = 4 then j.placed ++ rows else j.placed,
          stackPartials := if lMode j.desc = 4 then j.stackPartials
            else j.stackPartials ++ [{ source := 0x1000 + k, bag := bag, n := n, vec := vec }] }) s
    | _, _ => s

end Sys2Proof.Machine
end

