-- ==== Sys2Proof/Machine/Streaming.lean ====
section
/-! DEFINITION. Drays and Caravan (09, R261 to R284): the descriptor check, the Dray queue, tiles requested and delivered,
multicast streams with detachment and catch-up, stage boundaries and resident segments. -/

namespace Sys2Proof.Machine

open Sys2Proof

/-! The descriptor check (R264). -/

/-- The mask of the multicast group that a descriptor names, among the cores of its context; none if not defined (R276). -/
def groupCoresOf (d : Desc) (org : Origin) (s : State) : Option (List Nat) :=
  let ctx := contextOf org.context s
  let versions : List GraphVersion := match org.launch.bind (fun l => launchOf l s) with
    | some l => (versionOf l.graph l.version s).toList
    | none => (s.dispatch.graphs.filter (fun (g : Graph) => g.context == org.context)).flatMap (fun (g : Graph) =>
        g.versions.filter (fun (v : GraphVersion) => v.num == g.current))
  match versions.find? (fun (v : GraphVersion) => decide (xGroup d < v.groups.length)) with
  | none => none
  | some v =>
    some ((setBits 96 (v.groups.getD (xGroup d) 0).toNat).filter (fun c => match ctx with
      | some k => bitOf k.cgMask.toNat (cgOf c)
      | none => false))

/-- The extent of a side: offset past its last byte, from its base (R263). -/
def sideBytes (d : Desc) (strided : Bool) : Nat :=
  if strided then
    (xTiles d - 1) * xS3 d + (xE2 d - 1) * xS2 d + (xE1 d - 1) * xS1 d + xE0 d
  else if xSlots d ≠ 0 then xSlots d * tilePacked d
  else (xTiles d - 1) * tilePacked d + tileBytes d

/-- A side in core or staging SRAM lies in the context's partition. -/
def sideOk (core space addr n : Nat) (org : Origin) (s : State) : Bool :=
  if space = 1 then inPart (sramPart core org s) addr n
  else if space = 2 ∨ space = 3 then
    inPart (stagingPart (if space = 3 then 1 - dieOf core else dieOf core) org s) addr n
  else true

/-- The checks of R264 on the fields alone. -/
def transferFieldsOk (core : Nat) (d : Desc) : Bool :=
  (xOpcode d == 0x10 || xOpcode d == 0x11) && decide (xSrcSpace d ≤ 4) && decide (xDstSpace d ≤ 4) && xClass d != 3 &&
  xRelease d != 3 && xTiles d != 0 && decide (tilePacked d ≤ 1048576) && (xSlots d == 0 || decide (5 ≤ xSlots d)) &&
  decide (xSlots d ≤ 64) && !(xSlots d != 0 && xRelease d == 0) &&
  !(xRelease d == 2 && (xDstSpace d != 1 || xStrided d || xSlots d == 0 || !([4096, 8192, 16384].contains (tilePacked d)))) &&
  !(xCaravan d && (xDstSpace d != 1 || !([0, 2, 3].contains (xSrcSpace d)) || xRelease d == 0)) &&
  !(decide (96 ≤ core) && ([2, 3].contains (xSrcSpace d) || [2, 3].contains (xDstSpace d))) &&
  df d 0 44 40 == 0 && df d 0 26 0 == 0 && xProgress d % 8 == 0 && xReleaseAddr d % 8 == 0 && xStatus d % 32 == 0

/-- The checks of R264. -/
def transferOk (core : Nat) (d : Desc) (org : Origin) (s : State) : Bool :=
  let part := sramPart core org s
  transferFieldsOk core d && sideOk core (xSrcSpace d) (xSrc d) (sideBytes d (!xStrided d)) org s &&
  sideOk core (xDstSpace d) (xDst d) (sideBytes d (xStrided d)) org s && inPart part (xProgress d) 8 &&
  (xRelease d == 0 || inPart part (xReleaseAddr d) 8) && inPart part (xStatus d) 32 &&
  (!xCaravan d || (groupCoresOf d org s).isSome)

/-! The Dray queue (R261, R268, R272, R276). -/

/-- The agent number of the Dray that runs a transfer (Table 15.6). -/
def drayNum (core dray : Nat) : Nat := if core < 96 then 4 * core + dray else 384 + core

/-- Drays of a core: the Bivouac's cores have one each (Table 15.6). -/
def drayCount (core : Nat) : Nat := if core < 96 then 4 else 1

/-- A free Dray of a core: none that a transfer runs on, whose catch-up fetch waits for a page, or that a fault of another access
of its own stalls (R415). -/
def freeDray (core : Nat) (s : State) : Option Nat :=
  (List.range (drayCount core)).find? (fun k => !agentWaits (drayNum core k) s &&
    s.streaming.transfers.all (fun t => !(t.core == core && t.running && !t.done && t.dray == k) &&
      !t.members.any (fun m => m.core == core && m.faulted == some k)))

/-- A rewound transfer of a core waits for a Dray. -/
def waitsDray (core : Nat) (t : Transfer) : Bool := t.core == core && t.running && !t.done && t.dray == noDray && !xCaravan t.desc

/-- Free Drays given to the rewound transfers of a core, in issue order (R270). -/
def giveDrays : Nat → Nat → State → State
  | 0, _, s => s
  | fuel + 1, core, s =>
    match s.streaming.transfers.find? (waitsDray core), freeDray core s with
    | some t, some k => giveDrays fuel core (updTransfer t.id (fun t => { t with dray := k }) s)
    | _, _ => s

/-- The die whose staging SRAM a descriptor reads. -/
def srcDie (core : Nat) (d : Desc) : Nat := if xSrcSpace d = 3 then 1 - dieOf core else dieOf core

/-- Streams that a die's staging SRAM feeds (R276). -/
def stagingStreams (die : Nat) (s : State) : Nat :=
  s.streaming.transfers.countP (fun t =>
    t.running && !t.done && xCaravan t.desc && [2, 3].contains (xSrcSpace t.desc) && srcDie t.core t.desc == die)

/-- A prologue transfer waits for its stage's prologue to be issued (R275). -/
def prologueOpen (t : Transfer) (s : State) : Bool :=
  match t.org.postilion, t.org.launch with
  | true, some l => s.streaming.prologues.contains (l, t.org.stage)
  | _, _ => true

/-- The first queued transfer of a core. -/
def queueHead (core : Nat) (s : State) : Option Transfer :=
  s.streaming.transfers.find? (fun t => t.core == core && !t.running)

/-- Whether the head of a Dray queue may leave it, apart from the ring limit. -/
def mayStart (t : Transfer) (s : State) : Bool :=
  !t.held && coreOn t.core s && prologueOpen t s &&
  !(xCaravan t.desc && [2, 3].contains (xSrcSpace t.desc) && decide (8 ≤ stagingStreams (srcDie t.core t.desc) s))

/-- A transfer leaves the queue to a Dray; a stream gathers its members, detaching at tile 0 those whose group is not on, which it wakes (R29), or
that hold four weight rings (R268, R279). A wait for a ring counts cycles of the Dray's clock, the arithmetic one (Table 1.3;
log 27). -/
def startTransfer (t : Transfer) (dray : Nat) (s : State) : State :=
  let waited := match t.waitSince with
    | some w => if t.ringWait then cyclesSince t.core w s else 0
    | none => 0
  let s := if waited = 0 then s else count Cnt.ringWaitCycles waited s
  if xCaravan t.desc then
    let cores := (groupCoresOf t.desc t.org s).getD []
    let ringsHeld := fun (c : Nat) => xRelease t.desc == 2 && decide (4 ≤ activeRings c s)
    let lag := cores.filter (fun c => !coreOn c s || ringsHeld c)
    let s := updTransfer t.id (fun t => { t with
      running := true, startedAt := s.now, dray := dray, ringWait := false, waitSince := none, memberCount := cores.length,
      members := cores.map (fun c =>
        { core := c, delivered := 0, attached := true, ringLoads := 0, faulted := none, ringWaits := ringsHeld c }) }) s
    lag.foldl (fun s c => wakeCore c (detachMember t.id c s)) s
  else
    updTransfer t.id (fun t => { t with
      running := true, startedAt := s.now, dray := dray, ringWait := false, waitSince := none, memberCount := 1 }) s

/-- Descriptors leave a core's Dray queue in issue order while Drays are free; a RELEASE = 2 transfer stays at its head
while the core holds four weight rings. -/
def startQueue : Nat → Nat → State → State
  | 0, _, s => s
  | fuel + 1, core, s =>
    match queueHead core s with
    | none => s
    | some t =>
      if mayStart t s = false then s
      else if xRelease t.desc = 2 ∧ xCaravan t.desc = false ∧ 4 ≤ activeRings core s then
        updTransfer t.id (fun t => { t with ringWait := true, waitSince := some (t.waitSince.getD s.now) }) s
      else match freeDray core s with
        | none => s
        | some k => startQueue fuel core (startTransfer t k s)

/-- The Drays of a core served: rewound transfers before the Dray queue. -/
def serveDrays (core : Nat) (s : State) : State :=
  let s := giveDrays 4 core s
  if s.streaming.transfers.any (waitsDray core) then s else startQueue 36 core s

/-- A transfer or stream as it stands in the Dray queue; speculative ones that write HBM4E, the other die's staging or the fabric
are held there (R272). A TRANSFER has one member (Table 9.3). -/
def queuedTransfer (core : Nat) (d : Desc) (org : Origin) (s : State) : Transfer :=
  { id := s.streaming.nextId, core := core, desc := d, org := org, spec := xSpec d, issuedAt := (org.issue.map (·.1)).getD s.now,
    running := false, startedAt := 0, requested := 0, delivered := 0, inFlight := [], faultTile := none, faultResumes := 0,
    rewinds := 0, members := [], memberCount := if xCaravan d then 0 else 1, detached := 0, catchup := 0,
    held := xSpec d != 0 && [0, 3, 4].contains (xDstSpace d),
    ringLoads := 0, ringWait := false, detSecond := 0, detCount := 0, detLow := 0, detAt := 0, dray := 0, waitSince := none,
    buf := [], storing := [], done := false, stopping := false, failed := none, recorded := false, status := stOk }

/-- A descriptor taken into the Dray queue. -/
def enqueueTransfer (core : Nat) (d : Desc) (org : Origin) (s : State) : State :=
  serveDrays core { s with streaming := { s.streaming with
    transfers := s.streaming.transfers ++ [queuedTransfer core d org s], nextId := s.streaming.nextId + 1 } }

/-- A transfer descriptor of an opcode: checked and taken (R264); one that nothing has issued finds room in the Dray queue, or is not
taken (R261). One of a failed core, or of a stream to one, is a job fault
(R164). -/
def takeTransfer (core opcode : Nat) (d : Desc) (org : Origin) (s : State) : State :=
  if (ctlOf core s).issued.any (isIssue d org) = false ∧ engineRoom core opcode 1 s = false then s
  else if inTurn core d org s = false then holdIssued core d org s
  else
  let org := issuedOrigin core d org s
  let s := takeIssued core d org s
  if (matOf core s).failed || (xCaravan d && ((groupCoresOf d org s).getD []).any (fun c => (matOf c s).failed)) then
    jobFaultPlain 3 (drayNum core 0) 8 (xTag d) (xOpcode d) s
  else if xOpcode d ≠ opcode ∨ transferOk core d org s = false then
    jobFaultPlain 3 (drayNum core 0) 1 (xTag d) (xOpcode d) s
  else enqueueTransfer core d org s

/-- TRANSFER. -/
def execTransfer (core : Nat) (desc : Desc) (org : Origin) (s : State) : Host.Outcome State Fault Refusal :=
  if 98 ≤ core then .fault .noSuchUnit else .next (takeTransfer core 0x10 desc org s)

/-- CARAVAN. -/
def execCaravan (core : Nat) (desc : Desc) (org : Origin) (s : State) : Host.Outcome State Fault Refusal :=
  if 98 ≤ core then .fault .noSuchUnit else .next (takeTransfer core 0x11 desc org s)

/-- WEIGHT_RING_START: a waiting transfer starts once one of the core's four rings has ended (R268). -/
def execWeightRingStart (core : Nat) (s : State) : Host.Outcome State Fault Refusal :=
  if 98 ≤ core then .fault .noSuchUnit
  else match queueHead core s with
    | some t => if t.ringWait then .next (serveDrays core s) else .next s
    | none => .next s

/-! Tile addresses (R263). -/

/-- The contiguous runs of a tile on a side: address, offset within the tile, bytes. -/
def tileRuns (d : Desc) (base tile : Nat) (strided : Bool) : List (Nat × Nat × Nat) :=
  if strided then
    (List.range (xE2 d)).flatMap (fun i2 => (List.range (xE1 d)).map (fun i1 =>
      (base + tile * xS3 d + i2 * xS2 d + i1 * xS1 d, (i2 * xE1 d + i1) * xE0 d, xE0 d)))
  else [(base + (if xSlots d = 0 then tile else tile % xSlots d) * tilePacked d, 0, tileBytes d)]

def srcRuns (d : Desc) (tile : Nat) : List (Nat × Nat × Nat) := tileRuns d (xSrc d) tile (!xStrided d)
def dstRuns (d : Desc) (tile : Nat) : List (Nat × Nat × Nat) := tileRuns d (xDst d) tile (xStrided d)

/-- Bytes of the largest LOAD or STORE (R466). -/
def fabChunk (s : State) : Nat := if ent Ent.fabFabricMtu s < 4400 then 1024 else 4096

/-- A run cut into fabric operations, none crossing a 4 KiB page: address, offset in the tile, bytes. -/
def cutRun (chunk : Nat) : Nat → Nat × Nat × Nat → List (Nat × Nat × Nat)
  | 0, _ => []
  | fuel + 1, (a, o, n) =>
    if n = 0 then []
    else
      let k := Nat.min n (Nat.min chunk (4096 - a % 4096))
      (a, o, k) :: cutRun chunk fuel (a + k, o + k, n - k)

/-- The fabric pieces of runs. -/
def fabPieces (runs : List (Nat × Nat × Nat)) (s : State) : List (Nat × Nat × Nat) :=
  runs.flatMap (fun r => cutRun (fabChunk s) (r.2.2 + 1) r)

/-- Operations of a tile that the fabric has not yet answered. -/
def tilePending (id tile : Nat) (s : State) : Bool :=
  s.fabric.sessions.any (fun x => (x.ops ++ x.waiting).any (fun o => o.unit == .tile id tile))

/-- The first obstacle among device virtual runs of a tile. -/
def checkRuns (acc : Access) (s : State) : List (Nat × Nat × Nat) → MemCheck
  | [] => .ok
  | r :: rs =>
    let m := memCheck r.1 r.2.2 acc s
    if m = .ok then checkRuns acc s rs else m

/-- The runs of a side that lie in this module's memory: device virtual ones, and fabric addresses that name it (R466). -/
def ownRuns (space : Nat) (runs : List (Nat × Nat × Nat)) (s : State) : List (Nat × Nat × Nat) :=
  if space = 0 then runs
  else if space = 4 then (runs.filter (fun r => r.1 / 2 ^ 52 == myModule s)).map (fun r => (r.1 % 2 ^ 52, r.2))
  else []

/-- What a tile's accesses meet first, with the kind of access: its device virtual side, and a fabric address that names
this module (R466). -/
def tileCheck (d : Desc) (tile : Nat) (s : State) : MemCheck × Access :=
  let m := checkRuns .read s (ownRuns (xSrcSpace d) (srcRuns d tile) s)
  if m = .ok then (checkRuns .write s (ownRuns (xDstSpace d) (dstRuns d tile) s), .write) else (m, .read)

/-- A tile's fault stalls its transfer (R271, R421). -/
def stallTile (t : Transfer) (tile : Nat) (m : MemCheck) (acc : Access) (s : State) : State :=
  stallOn (drayNum t.core t.dray) t.org.context t.spec 3 (drayNum t.core t.dray) (xTag t.desc) (xOpcode t.desc) acc m
    (updTransfer t.id (fun t => { t with faultTile := some (Nat.min tile (t.faultTile.getD tile)) }) s)

/-- The lookups of a tile's runs in this module's memory in the TLB of Dray k, and the bytes read from host memory (R407, R452). -/
def touchBy (k : Nat) (d : Desc) (tile : Nat) (s : State) : State :=
  let s := (ownRuns (xSrcSpace d) (srcRuns d tile) s).foldl (fun s r => noteDmaRead r.1 r.2.2 (drayAccess k r.1 r.2.2 s)) s
  (ownRuns (xDstSpace d) (dstRuns d tile) s).foldl (fun s r => drayAccess k r.1 r.2.2 s) s

/-- Those of the transfer's own Dray. -/
def touchTile (t : Transfer) (tile : Nat) (s : State) : State := touchBy (drayNum t.core t.dray) t.desc tile s

/-- A fabric operation of a tile has failed: the transfer stops there with a status, DENIED before TIMEOUT (R284, R468). -/
def failTile (id tile st : Nat) (s : State) : State :=
  updTransfer id (fun t =>
    { t with failed := some (Nat.min tile (t.failed.getD tile)), status := if t.status = stOk ∨ st = stDenied then st else t.status }) s

/-- LOADs of a tile's fabric source posted; a module outside the membership denies (R466). -/
def postLoads (t : Transfer) (tile : Nat) (s : State) : State :=
  (fabPieces (srcRuns t.desc tile) s).foldl (fun s p =>
    let m := p.1 / 2 ^ 52
    if m = myModule s then s
    else if (peerRec m s).isNone then failTile t.id tile stDenied s
    else fabPost m 1 0 (BitVec.ofNat 64 (p.1 % 2 ^ 52)) (leBytes 4 p.2.2) (xClass t.desc)
      (.tile t.id tile) s) s

/-- The pacing of R266 lets a transfer request its next tile; a stream, once an attached member has room: those that have none are
detached at that moment, so that it runs ahead of the slowest attached one by at most four tiles (R277, R279; log 24). -/
def paceOpen (t : Transfer) (s : State) : Bool :=
  let n := t.requested
  if xCaravan t.desc then t.members.any (fun m => m.attached && decide (n ≤ releaseCount m.core t.desc s + 4))
  else if xRelease t.desc = 0 then decide (t.inFlight.length < 4)
  else decide (n ≤ releaseCount t.core t.desc s + 4)

/-- The tile that a transfer may request now: pacing of R266, and a prologue's first four tiles (R275). -/
def mayRequest (t : Transfer) (s : State) : Bool :=
  let n := t.requested
  paceOpen t s && (!t.org.postilion || decide (n < 4) || (match t.org.launch.bind (fun l => launchOf l s) with
    | some l => stagePhase l t.org.stage != .waiting
    | none => true))

/-! Delivery (R265, R266, R271, R284). -/

/-- Bytes read at a tile's source run. -/
def readRun (t : Transfer) (tile : Nat) (r : Nat × Nat × Nat) (s : State) : List Byte :=
  let d := t.desc
  if xSrcSpace d = 0 then devRead s r.1 r.2.2
  else if xSrcSpace d = 1 then sramRead t.core r.1 r.2.2 s
  else if xSrcSpace d = 4 then
    if r.1 / 2 ^ 52 = myModule s then devRead s (r.1 % 2 ^ 52) r.2.2
    else (List.range r.2.2).map (fun i =>
      match t.buf.find? (fun b => b.1 == tile && decide (b.2.1 ≤ r.2.1 + i) && decide (r.2.1 + i < b.2.1 + b.2.2.length)) with
      | some b => b.2.2.getD (r.2.1 + i - b.2.1) 0
      | none => 0)
  else stagingRead (srcDie t.core d) r.1 r.2.2 s

/-- The bytes of a tile, in tile order. -/
def tileData (t : Transfer) (tile : Nat) (s : State) : List Byte :=
  (srcRuns t.desc tile).flatMap (fun r => readRun t tile r s)

/-- A tile's bytes written at its destination, in core `core` where that is core SRAM. -/
def writeTile (t : Transfer) (core tile : Nat) (data : List Byte) (s : State) : State :=
  let d := t.desc
  let runs := dstRuns d tile
  let inst := 0x200 + drayNum t.core t.dray
  let part := fun (r : Nat × Nat × Nat) => (data.drop r.2.1).take r.2.2
  if xDstSpace d = 0 then runs.foldl (fun s r => devWrite r.1 (part r) s) s
  else if xDstSpace d = 1 then coreStoreAll core t.spec (runs.map (fun r => (r.1, part r))) inst 3 (xTag d) (xOpcode d) s
  else if xDstSpace d = 4 then
    (runs.filter (fun r => r.1 / 2 ^ 52 == myModule s)).foldl (fun s r => devWrite (r.1 % 2 ^ 52) (part r) s) s
  else
    let die := if xDstSpace d = 3 then 1 - dieOf t.core else dieOf t.core
    runs.foldl (fun s r => stagingStore die t.spec r.1 (part r) inst 3 (xTag d) (xOpcode d) s) s

/-- Tiles delivered: those of a stream that every member holds. -/
def tilesHeld (t : Transfer) : Nat :=
  if xCaravan t.desc then (t.members.map (·.delivered)).foldl Nat.min (xTiles t.desc) else t.delivered

/-- The status record (Table 9.3); DONE says that every tile was delivered to every member. -/
def transferStatus (t : Transfer) (status : Nat) (s : State) : List Byte :=
  leBytes 8 ((if xTiles t.desc ≤ tilesHeld t then 2 ^ 63 else 0) + status * 2 ^ 48 + xTag t.desc * 2 ^ 32 + tilesHeld t % 2 ^ 32) ++
  leBytes 8 (t.faultResumes % 2 ^ 32 * 2 ^ 32 + t.detached % 2 ^ 16 * 2 ^ 16 + t.rewinds % 2 ^ 16) ++
  leBytes 8 (t.memberCount % 2 ^ 32 * 2 ^ 32 + t.catchup % 2 ^ 32) ++
  leBytes 8 ((s.now - t.issuedAt) % 2 ^ 32 * 2 ^ 32)

/-- A transfer has a progress count and a status record in core SRAM: the carriers of a legacy DMA have none (R343). -/
def hasRecords (t : Transfer) : Bool := decide (xStatus t.desc < 4194304)

/-- A transfer's status record written, and the record of a stream's last detachments; a transfer that completes again after a
rewind has ended its descriptor before. -/
def writeTransferStatus (t : Transfer) (status : Nat) (s : State) : State :=
  let st := transferStatus t status s
  let inst := 0x200 + drayNum t.core t.dray
  let s := flushDetach t.id s
  let s := if hasRecords t then
      coreStoreAll t.core t.spec [(xStatus t.desc + 8, st.drop 8), (xStatus t.desc, st.take 8)] inst 3 (xTag t.desc)
        (xOpcode t.desc) s
    else s
  if t.recorded then s else descriptorDone t.org (ofLe (st.take 8)) s

/-- A transfer has delivered every tile to every member, or those before the tile at which it failed (R284, R468). -/
def completeTransfer (id : Nat) (s : State) : State :=
  match transferOf id s with
  | none => s
  | some t =>
    let s := writeTransferStatus t t.status s
    let s := if t.recorded then s
      else count Cnt.transfers 1 (if xCaravan t.desc then count Cnt.caravanStreams 1 s else s)
    let s :=
      if xRelease t.desc = 2 then purgeRings (updTransfer id (fun t => { t with done := true, recorded := true }) s)
      else { s with streaming := { s.streaming with transfers := s.streaming.transfers.filter (fun x => x.id != id) } }
    serveDrays t.core s

/-- A stream is complete: every member holds every tile. -/
def streamDone (t : Transfer) : Bool := t.members.all (fun m => decide (xTiles t.desc ≤ m.delivered))

/-- A transfer that a squash or an exit timer has stopped is gone once its tiles in flight are, or can no longer come (R272). -/
def settleStopped (id : Nat) (s : State) : State :=
  match transferOf id s with
  | none => s
  | some t =>
    if t.stopping && t.inFlight.all (fun k => decide (tilesDue t ≤ k)) then
      let s := flushDetach id s
      serveDrays t.core { s with streaming := { s.streaming with transfers := s.streaming.transfers.filter (fun x => x.id != id) } }
    else s

/-- A transfer that failed at the tile it has come to completes (R468); one that was stopped leaves nothing but counters (R272). -/
def settleFailed (id : Nat) (s : State) : State :=
  match transferOf id s with
  | none => s
  | some t =>
    if t.stopping then settleStopped id s
    else if t.done = false ∧ t.failed = some t.delivered then completeTransfer id s else s

/-- A tile stored and counted for a core, with its progress count (R265). -/
def landTile (t : Transfer) (core tile : Nat) (data : List Byte) (s : State) : State :=
  let inst := 0x200 + drayNum t.core t.dray
  let s := writeTile t core tile data s
  let s := if hasRecords t then
      coreStoreAll core t.spec [(xProgress t.desc, leBytes 8 (tile + 1))] inst 3 (xTag t.desc) (xOpcode t.desc) s
    else s
  count Cnt.tilesDelivered 1 (count Cnt.bytesMoved (tileBytes t.desc) s)

/-- STOREs of a tile's fabric destination posted. -/
def postStores (t : Transfer) (tile : Nat) (data : List Byte) (s : State) : State :=
  (fabPieces (dstRuns t.desc tile) s).foldl (fun s p =>
    let m := p.1 / 2 ^ 52
    if m = myModule s then s
    else if (peerRec m s).isNone then failTile t.id tile stDenied s
    else fabPost m 2 0 (BitVec.ofNat 64 (p.1 % 2 ^ 52)) ((data.drop p.2.1).take p.2.2) (xClass t.desc)
      (.tile t.id tile) s) s

/-- The Dray of a transfer stalls on a fault of another access of its own, a list's (R415). -/
def drayStalled (t : Transfer) (s : State) : Bool := t.faultTile.isNone && agentWaits (drayNum t.core t.dray) s

/-- A tile in flight of a transfer delivered: in order, or, behind a fault, written and not counted (R265, R271). A tile of a
stopping transfer that faults is dropped with it (R272). -/
def deliverTile (t : Transfer) (tile : Nat) (s : State) : State :=
  let c := tileCheck t.desc tile s
  let data := tileData t tile s
  let drop := fun (t : Transfer) =>
    { t with inFlight := t.inFlight.erase tile, buf := t.buf.filter (fun b => b.1 != tile), storing := t.storing.erase tile }
  if c.1 ≠ .ok ∧ t.stopping = true then settleStopped t.id (updTransfer t.id (fun t => { t with inFlight := [] }) s)
  else if c.1 ≠ .ok then stallTile t tile c.1 c.2 (updTransfer t.id drop s)
  else if xDstSpace t.desc = 4 ∧ t.storing.contains tile = false then
    settleFailed t.id (postStores t tile data (updTransfer t.id (fun t => { t with storing := t.storing ++ [tile] }) s))
  else if t.faultTile.isSome ∧ tile ≠ t.delivered then
    count Cnt.bytesMoved (tileBytes t.desc) (writeTile t t.core tile data (updTransfer t.id drop s))
  else
    let s := landTile t t.core tile data (updTransfer t.id (fun t => { drop t with delivered := tile + 1 }) s)
    if t.stopping then settleStopped t.id s
    else if tilesDue t ≤ tile + 1 then completeTransfer t.id s else s

/-- TILE_DELIVERY. Fabric requests of speculative transfers wait at the fabric engine (Table 11.2). Tiles before a fault are
delivered in order, and tiles behind it are written only (R271); nothing from a failed tile on is delivered (R468). -/
def execTileDelivery (transfer tile : Nat) (s : State) : Host.Outcome State Fault Refusal :=
  match transferOf transfer s with
  | none => .next s
  | some t =>
    if xCaravan t.desc = true ∨ t.inFlight.contains tile = false ∨ tilePending transfer tile s = true ∨
        (xSrcSpace t.desc = 4 ∧ t.spec ≠ 0) ∨ tilesDue t ≤ tile ∨ drayStalled t s = true then .next s
    else if tile = t.delivered ∨ t.faultTile.any (fun f => decide (f < tile)) then .next (deliverTile t tile s)
    else .next s

/-! Requests (R266, R271, R275). -/

/-- A wait under R266 ended and counted, in cycles of the network clock. -/
def endPaceWait (t : Transfer) (s : State) : State :=
  match t.waitSince with
  | none => s
  | some w =>
    let s := updTransfer t.id (fun t => { t with waitSince := none }) s
    if w = s.now then s else count Cnt.releaseWaitCycles (networkSince w s) s

/-- Attached members that have used up their slack for a tile are detached, where another has room for it (R279). -/
def detachLate (t : Transfer) (tile : Nat) (s : State) : State :=
  let slack := fun (m : Member) => decide (tile ≤ releaseCount m.core t.desc s + 4)
  if t.members.any (fun m => m.attached && slack m) then
    (t.members.filter (fun m => m.attached && !slack m)).foldl (fun s m => detachMember t.id m.core s) s
  else s

/-- The staging SRAM that a descriptor's tiles read or write is on, with its resident segments in place: a die whose groups all
sleep has them reloaded before a launch of the other die uses them (R283; log 186). -/
def stagingReady (core : Nat) (d : Desc) (s : State) : State :=
  let dies := (if xSrcSpace d = 2 ∨ xSrcSpace d = 3 then [srcDie core d] else []) ++
    (if xDstSpace d = 2 then [dieOf core] else if xDstSpace d = 3 then [1 - dieOf core] else [])
  dies.foldl (fun s n => if s.power.stage.getD n 0 = 0 ∧ s.power.stageReload.getD n false = false then s else reloadDie n (stageUp n s)) s

/-- The next tile requested. -/
def requestTile (t : Transfer) (s : State) : State :=
  let n := t.requested
  let c := tileCheck t.desc n s
  let s := endPaceWait t (if xCaravan t.desc then detachLate t n s else s)
  if c.1 ≠ .ok then stallTile t n c.1 c.2 s
  else
    let s := updTransfer t.id (fun t => { t with requested := n + 1, inFlight := t.inFlight ++ [n] }) s
    let s := touchTile t n (stagingReady t.core t.desc s)
    if xSrcSpace t.desc = 4 ∧ t.spec = 0 then settleFailed t.id (postLoads t n s) else s

/-- The address of the codeword of a number in runs of (address, bytes), each run read in whole codewords. -/
def runWord : List (Nat × Nat) → Nat → Option Nat
  | [], _ => none
  | r :: rs, k =>
    let first := r.1 / 32
    let n := (r.1 + r.2 + 31) / 32 - first
    if k < n then some (32 * (first + k)) else runWord rs (k - n)

/-- The next tile requested, with codewords of device memory in error: corrected errors are served and reported, an uncorrectable
one is a job fault and the tile is not served (R383 to R385). -/
def readTile (t : Transfer) (errors : List (Nat × Nat)) (s : State) : State :=
  let runs := (srcRuns t.desc t.requested).map (fun r => (r.1, r.2.2))
  let read := codewordsAt 0 (fun k => if xSrcSpace t.desc = 0 then runWord runs k else none) errors s
  if read.1 then requestTile t read.2 else read.2

/-- A transfer still in its core's Dray queue, or waiting for a Dray, leaves it if it may. -/
def leaveDrayQueue (transfer : Nat) (s : State) : State :=
  match transferOf transfer s with
  | some t => if t.running && !waitsDray t.core t then s else serveDrays t.core s
  | none => s

/-- TILE_REQUEST, of a transfer that may leave its core's Dray queue first. A stream whose members hold every tile, having none,
completes (R276). -/
def execTileRequest (tile : TileRead) (s : State) : Host.Outcome State Fault Refusal :=
  let transfer := tile.transfer
  let s := leaveDrayQueue transfer s
  match transferOf transfer s with
  | none => .next s
  | some t =>
    if t.running = false ∨ t.done = true ∨ t.stopping = true ∨ waitsDray t.core t = true ∨ drayStalled t s = true then .next s
    else if xCaravan t.desc = true ∧ streamDone t = true then .next (completeTransfer transfer s)
    else if t.faultTile.isSome ∨ tilesDue t ≤ t.requested then .next s
    else if coreOn t.core s = false then .next (wakeCore t.core s)
    else if mayRequest t s then .next (readTile t tile.errors s)
    else if paceOpen t s then .next (endPaceWait t s)
    else .next (updTransfer transfer (fun t => { t with waitSince := some (t.waitSince.getD s.now) }) s)

/-! Streams (R276 to R281). -/

/-- CARAVAN_TILE_SEND: the oldest tile read goes to the attached members with slack, and the others are detached; where no
member can take it, the stream waits (R279). -/
def sendTile (t : Transfer) (tile : Nat) (s : State) : State :=
  let data := tileData t tile s
  let here := t.members.filter (·.attached)
  let take := here.filter (fun m => decide (tile ≤ releaseCount m.core t.desc s + 4))
  if take.isEmpty ∧ here.isEmpty = false then
    if t.stopping then settleStopped t.id (updTransfer t.id (fun t => { t with inFlight := [] }) s) else s
  else
    let s := detachLate t tile (updTransfer t.id (fun t => { t with inFlight := t.inFlight.erase tile, delivered := tile + 1 }) s)
    let s := take.foldl (fun s m =>
      landTile t m.core tile data (updMember t.id m.core (fun m => { m with delivered := tile + 1 }) s)) s
    match transferOf t.id s with
    | some u => if u.stopping then settleStopped t.id s else if streamDone u then completeTransfer t.id s else s
    | none => s

/-- A tile in flight behind a fault is completed, in the members that have room for it, and not counted as delivered; it is sent
again later (R271). -/
def settleBehind (t : Transfer) (tile : Nat) (s : State) : State :=
  let s := updTransfer t.id (fun t => { t with inFlight := t.inFlight.erase tile }) s
  if (tileCheck t.desc tile s).1 ≠ .ok then s
  else
    let data := tileData t tile s
    (t.members.filter (fun m => m.attached && decide (tile ≤ releaseCount m.core t.desc s + 4))).foldl (fun s m =>
      count Cnt.bytesMoved (tileBytes t.desc) (writeTile t m.core tile data s)) s

/-- CARAVAN_TILE_SEND: tiles before a fault go out, and those behind it are completed (R271). -/
def execCaravanTileSend (transfer : Nat) (s : State) : Host.Outcome State Fault Refusal :=
  match transferOf transfer s with
  | none => .next s
  | some t =>
    match t.inFlight with
    | [] => .next s
    | tile :: _ =>
      if xCaravan t.desc = false ∨ drayStalled t s = true then .next s
      else if t.faultTile.any (fun f => decide (f ≤ tile)) then .next (settleBehind t tile s)
      else
        let c := tileCheck t.desc tile s
        if c.1 ≠ .ok ∧ t.stopping = true then .next (settleStopped transfer (updTransfer transfer (fun t => { t with inFlight := [] }) s))
        else if c.1 ≠ .ok then
          .next (stallTile t tile c.1 c.2 (updTransfer transfer (fun t => { t with inFlight := t.inFlight.erase tile }) s))
        else .next (sendTile t tile s)

/-- A detached member's next tile fetched on a Dray of its core (R280). -/
def fetchCatchup (t : Transfer) (m : Member) (k : Nat) (s : State) : State :=
  let tile := m.delivered
  let s := stagingReady t.core t.desc s
  let c := tileCheck t.desc tile s
  if c.1 ≠ .ok then
    stallOn (drayNum m.core k) t.org.context t.spec 3 (drayNum m.core k) (xTag t.desc) (xOpcode t.desc) c.2 c.1
      (updMember t.id m.core (fun m => { m with faulted := some k }) s)
  else
    let data := tileData t tile s
    let s := touchBy (drayNum m.core k) t.desc tile s
    let s := if m.faulted.isSome then
        count Cnt.faultResumes 1 (updTransfer t.id (fun t => { t with faultResumes := t.faultResumes + 1 }) s)
      else s
    let s := updMember t.id m.core (fun m => { m with delivered := tile + 1, faulted := none })
      (updTransfer t.id (fun t => { t with catchup := t.catchup + 1 }) s)
    let s := count Cnt.catchupTiles 1 (landTile t m.core tile data s)
    match transferOf t.id s with
    | some u => if streamDone u then completeTransfer t.id s else s
    | none => s

/-- CATCHUP_FETCH: a free Dray of a detached member's core fetches its first undelivered tile by unicast, within its own
run-ahead and, where its ring waits, once the core holds fewer than four weight rings; after a fault the same Dray goes on (R268, R271, R280). -/
def execCatchupFetch (transfer core : Nat) (s : State) : Host.Outcome State Fault Refusal :=
  match transferOf transfer s with
  | none => .next s
  | some t =>
    match t.members.find? (fun m => m.core == core && !m.attached) with
    | none => .next s
    | some m =>
      if t.stopping = true ∨ xTiles t.desc ≤ m.delivered then .next s
      else if coreOn core s = false then .next (wakeCore core s)
      else if releaseCount core t.desc s + 4 < m.delivered ∨ (m.ringWaits = true ∧ 4 ≤ activeRings core s) then .next s
      else match m.faulted.or (freeDray core s) with
        | none => .next s
        | some k =>
          if m.faulted.isSome ∧ agentWaits (drayNum core k) s = true then .next s
          else .next (fetchCatchup t m k (updMember t.id core (fun m => { m with ringWaits := false }) s))

/-- TRANSFER_FAULT_RESUME: after service the transfer resumes at the faulting tile and writes it and the later tiles again
(R271). -/
def execTransferFaultResume (transfer : Nat) (s : State) : Host.Outcome State Fault Refusal :=
  match transferOf transfer s with
  | none => .next s
  | some t =>
    match t.faultTile with
    | none => .next s
    | some f =>
      if agentWaits (drayNum t.core t.dray) s ∨ t.inFlight.any (fun x => decide (f < x) && decide (x < tilesDue t)) then .next s
      else .next (count Cnt.faultResumes 1 (updTransfer transfer (fun t =>
        { t with requested := f, inFlight := t.inFlight.filter (fun x => decide (x < f)), faultTile := none,
                 faultResumes := t.faultResumes + 1 }) s))

/-- A transfer that stops after its tiles in flight; nothing of it is left to wait for where it has none, or where their fabric
requests are still held (Table 11.2). -/
def stopsLater (t : Transfer) : Bool :=
  t.running && !t.done && t.faultTile.isNone && t.failed.isNone && !t.inFlight.isEmpty && !(xSrcSpace t.desc == 4 && t.spec != 0)

/-- Transfers that end without a status record, by a squash or an exit timer: each stops after its tiles in flight (R272). The last
detachments of a stream that is gone are recorded (R281). -/
def dropTransfers (p : Transfer → Bool) (s : State) : State :=
  let s := (s.streaming.transfers.filter (fun t => p t && !stopsLater t)).foldl (fun s t => flushDetach t.id s) s
  { s with streaming := { s.streaming with transfers :=
    (s.streaming.transfers.filter (fun t => !p t || stopsLater t)).map (fun t => if p t then { t with stopping := true } else t) } }

/-! Stage boundaries (R274, R275) and resident segments (R283). -/

/-- Every chain of a launch outside a stage has drained, and every transfer of it has delivered its last tile. -/
def launchDrained (launch stage : Nat) (s : State) : Bool :=
  let mine := fun (o : Origin) => o.launch == some launch && o.stage != stage
  s.matrix.all (fun m => m.chains.all (fun c => !mine c.org)) &&
  s.streaming.transfers.all (fun t => !mine t.org || t.done) &&
  s.control.all (fun k => k.issued.all (fun p => !mine p.2))

/-- STAGE_BARRIER: a barrier-class stage dispatched after the stages before it have drained (R274). -/
def execStageBarrier (launch stage : Nat) (s : State) : Host.Outcome State Fault Refusal :=
  let s := skipStages launch s
  match launchOf launch s with
  | none => .next s
  | some l =>
    match stageRecord l stage s with
    | none => .next s
    | some r =>
      if stagePhase l stage = .waiting ∧ stageReady l r = true ∧ mayDispatch l stage s = true ∧ stageBarrier r = true ∧
          launchDrained launch stage s = true then
        let s := count Cnt.barrierStages 1 s
        if stageKind r = 1 then .next (setStage launch stage (.running []) 0 s)
        else .next (settleOutgoing (dispatchTasks l r 0 s))
      else .next s

/-- A transfer has requested its last tile: those before the one it failed at, or, of a stream without attached members, their
catch-up fetches (R275, R280). -/
def lastRequested (t : Transfer) : Bool := t.done || decide (tilesDue t ≤ t.requested) || (xCaravan t.desc && streamDone t)

/-- STAGE_PROLOGUE of an inference-class stage: every transfer of the stage before it, those issued and not yet taken among
them, has requested its last tile (R275). -/
def execStagePrologue (launch stage : Nat) (s : State) : Host.Outcome State Fault Refusal :=
  match launchOf launch s with
  | none => .next s
  | some l =>
    match stageRecord l stage s with
    | none => .next s
    | some r =>
      let before := s.streaming.transfers.filter (fun t => t.org.launch == some launch && t.org.stage + 1 == stage)
      if stageBarrier r = true ∨ stage = 0 ∨ stagePhase l (stage - 1) = .waiting ∨
          s.streaming.prologues.contains (launch, stage) = true ∨
          before.all lastRequested = false ∨
          s.control.any (fun k => k.issued.any (fun p => (xOpcode p.1 == 0x10 || xOpcode p.1 == 0x11) &&
            p.2.launch == some launch && p.2.stage + 1 == stage)) = true then .next s
      else
        let s := { s with streaming := { s.streaming with prologues := s.streaming.prologues ++ [(launch, stage)] } }
        .next ((List.range 98).foldl (fun s c => serveDrays c s) s)

/-- RESIDENT_SEGMENT_LOAD: the resident segments and code of a context's graph versions put in place (R283). -/
def execResidentSegmentLoad (context : Nat) (s : State) : Host.Outcome State Fault Refusal :=
  match contextOf context s with
  | none => .next s
  | some c =>
    if c.segmentsLoaded ∨ s.job.state ≠ jobRunning then .next s
    else
      let s := (s.dispatch.graphs.filter (fun (g : Graph) => g.context == context)).foldl (fun s g =>
        g.versions.foldl (fun s v => loadResident g.id v c s) s) s
      .next (updContext context (fun c => { c with segmentsLoaded := true }) s)

end Sys2Proof.Machine
end

