-- ==== Sys2Proof/Machine/Updates.lean ====
section
/-! DEFINITION. Table updates (04): write descriptors, immediate writes, staging, batches and their commit, the background
copy, rows of tables owned by other modules, and the deletion of a table. -/

namespace Sys2Proof.Machine

open Sys2Proof

/-! The write descriptor (Table 4.1) and reasons (Table 4.6). -/

def wOpcode (d : Desc) : Nat := df d 0 63 56
def wBatch (d : Desc) : Nat := df d 0 55 51
def wIdxFmt (d : Desc) : Nat := df d 0 50 49
def wTable (d : Desc) : Nat := df d 0 31 20
def wCount (d : Desc) : Nat := df d 0 15 0
def wTag (d : Desc) : Nat := df d 3 47 32
def wStride (d : Desc) : Nat := df d 3 31 0
def wSpec (d : Desc) : Nat := df d 6 31 16

abbrev wrNotOpen : Nat := 1
abbrev wrAlreadyOpen : Nat := 2
abbrev wrCountMismatch : Nat := 3
abbrev wrHostWritesOff : Nat := 4
abbrev wrRemoteImmediate : Nat := 5
abbrev wrOwnerRefused : Nat := 6
abbrev wrNoSpace : Nat := 7
abbrev wrReadersRemain : Nat := 8
abbrev wrOwnerTimeout : Nat := 9
abbrev wrCutOff : Nat := 10

def writeOf (id : Nat) (s : State) : Option WriteJob := s.updates.jobs.find? (fun j => j.id == id)

def updWrite (id : Nat) (f : WriteJob → WriteJob) (s : State) : State :=
  { s with updates := { s.updates with jobs := updFirst (fun j => j.id == id) f s.updates.jobs } }

def batchOf (n : Nat) (s : State) : Option Batch := s.updates.batches.find? (fun b => b.num == n)

def updBatch (n : Nat) (f : Batch → Batch) (s : State) : State :=
  { s with updates := { s.updates with batches := updFirst (fun b => b.num == n) f s.updates.batches } }

/-- The decode check of R109; the status record lies in the context's partition (R359). -/
def writeOk (core : Nat) (d : Desc) (org : Origin) (s : State) : Bool :=
  let op := wOpcode d
  0x22 ≤ op && op ≤ 0x25 && wBatch d ≤ 16 && (op == 0x22 || wBatch d != 0) && decide (wIdxFmt d ≤ 1) &&
  dword d 7 % 32 == 0 && sramFits core (dword d 7) 32 org s &&
  (op != 0x22 || (wCount d != 0 && match tableOf (wTable d) s with
    | some t => decide (tDataBytes t ≤ wStride d) && wStride d % 8 == 0
    | none => false))

/-! Completion (R125). -/

/-- Rank of a status among the first applicable of RESTARTED, DENIED, TIMEOUT, DEFERRED, OK. -/
def writeRank (st : Nat) : Nat := if st = stRestarted then 4 else if st = stDenied then 3 else if st = stTimeout then 2 else if st = stDeferred then 1 else 0

/-- A job's outcome joined by another status and its reason. -/
def joinStatus (st reason : Nat) (j : WriteJob) : WriteJob :=
  if writeRank j.status < writeRank st then { j with status := st, reason := reason } else j

/-- W0 of the status record (Table 4.5). -/
def writeW0 (j : WriteJob) : Nat :=
  let rows := if wOpcode j.desc = 0x22 then j.applied else if wOpcode j.desc = 0x24 then (j.published.map (·.2.1)).getD 0 else 0
  2 ^ 63 + j.status * 2 ^ 48 + wTag j.desc * 2 ^ 32 + rows

/-- A write descriptor completes: W1 to W3, then W0, and it leaves the splitter. -/
def endWrite (id : Nat) (s : State) : State :=
  match writeOf id s with
  | none => s
  | some j =>
    let epoch := if wOpcode j.desc = 0x22 ∧ wBatch j.desc = 0 then s.updates.epoch
      else if wOpcode j.desc = 0x24 then (j.published.map (·.1)).getD 0 else 0
    let w := fun (off v : Nat) (s : State) =>
      match sramPlace j.core (dword j.desc 7) with
      | some p => placeSignal { p with off := p.off + off } 0 (leBytes 8 v) j.core 2 (wTag j.desc) (wOpcode j.desc) s
      | none => s
    let s := w 0 (writeW0 j) (w 24 ((s.now - j.issuedAt) % 2 ^ 32 * 2 ^ 32) (w 16 epoch
      (w 8 (j.reason * 2 ^ 56 + Nat.min j.oor 0xFFFF * 2 ^ 32 + j.deferred % 2 ^ 32) s)))
    descriptorDone j.org (writeW0 j) { s with updates := { s.updates with jobs := s.updates.jobs.filter (fun x => x.id != id) } }

/-- A write descriptor completes with a status and reason. -/
def endWriteWith (id st reason : Nat) (s : State) : State := endWrite id (updWrite id (joinStatus st reason) s)

/-- A ROW_WRITE whose rows are all dealt with completes. -/
def settleWrite (id : Nat) (s : State) : State :=
  match writeOf id s with
  | some j => if j.rows.isEmpty && j.remotePending.isEmpty then endWrite id s else s
  | none => s

/-! Rows on their way (R108, R110). -/

/-- A batch accepts rows and control from a port class (R117). -/
def batchTakes (n : Nat) (cls : PortClass) (s : State) : Bool :=
  match batchOf n s with
  | some b => b.accepting && (cls == .B || cls == b.cls)
  | none => false

/-- The number of a batch's opening; 0 where it is not open. -/
def openingOf (n : Nat) (s : State) : Nat := ((batchOf n s).map (·.opening)).getD 0

/-- The batch that took a descriptor still accepts its rows and control (R117). -/
def batchStill (j : WriteJob) (s : State) : Bool :=
  batchTakes (wBatch j.desc) j.cls s && openingOf (wBatch j.desc) s == j.opening

/-- A descriptor taken by the batch that is open under its number. -/
def joinBatch (j : WriteJob) (s : State) : State :=
  updWrite j.id (fun x => { x with opening := openingOf (wBatch j.desc) s }) s

/-- Bytes of an index value of a write. -/
def wIdxBytes (d : Desc) : Nat := if wIdxFmt d = 0 then 4 else 8

/-- What the reads of the index list and data records meet first. -/
def writeLists (d t : Desc) (s : State) : MemCheck :=
  let a := memCheck (dword d 1) (wCount d * wIdxBytes d) .read s
  if a ≠ .ok then a else memCheck (dword d 2) ((wCount d - 1) * wStride d + tDataBytes t) .read s

/-- One row of a ROW_WRITE sent to its home lane, or counted as out of range. -/
def sendRow (d t : Desc) (i : Nat) (j : WriteJob) (s : State) : WriteJob × State :=
  let v := devNat s (dword d 1 + i * wIdxBytes d) (wIdxBytes d)
  match resolveRow t v with
  | none => ({ j with oor := j.oor + 1 }, count Cnt.writeOorRows 1 s)
  | some r =>
    let s := ensureFrame (slotVa t r / 4096) s
    ({ j with rows := j.rows ++
        [{ pos := i, table := wTable d, row := r, lane := rowLane (wTable d) r t s,
           data := devRead s (dword d 2 + i * wStride d) (tDataBytes t), chunks := 0, word := 0, deferredAt := none }] }, s)

/-- The rows of a REMOTE table sent to their owner, one ROW_STAGE each, of the bulk class (R129, R273). A value out of range by the descriptor of the
table here is counted and not sent (R110; log 159). An owner that is not in the membership table is refused as its owner's refusal (log 200). -/
def sendRemoteRows (id : Nat) (d t : Desc) (s : State) : State :=
  if (peerRec (tOwner t) s).isNone then endWriteWith id stDenied wrOwnerRefused s
  else
    let value := fun (i : Nat) => devNat s (dword d 1 + i * wIdxBytes d) (wIdxBytes d)
    let is_ := (List.range (wCount d)).filter (fun i => (resolveRow t (value i)).isSome)
    let n := is_.length
    let s := updWrite id (fun j => { j with
      oor := j.oor + (wCount d - n), remotePending := if n = 0 then [] else [(tOwner t, n)] }) s
    let s := if n = wCount d then s else count Cnt.writeOorRows (wCount d - n) s
    settleWrite id (is_.foldl (fun s i =>
      fabPost (tOwner t) 6 (wBatch d) (BitVec.ofNat 64 (tOwnerTable t * 2 ^ 52))
        (leBytes 8 (value i) ++ devRead s (dword d 2 + i * wStride d) (tDataBytes t)) 2 (.rowStage id (tOwner t)) s)
      (if n = 0 then s else count Cnt.remoteRowsSent n s))

/-- A ROW_WRITE carried out as far as its lanes (R110, R117, R129). -/
def startRowWrite (j : WriteJob) (t : Desc) (s : State) : State :=
  let d := j.desc
  if tRemote t ∧ wBatch d = 0 then endWriteWith j.id stDenied wrRemoteImmediate s
  else if wBatch d ≠ 0 ∧ batchTakes (wBatch d) j.cls s = false then endWriteWith j.id stDenied wrNotOpen s
  else
    let j := { j with opening := openingOf (wBatch d) s }
    let s := updWrite j.id (fun _ => j) s
    let read := fun (va n : Nat) (s : State) => noteDmaRead va n (drayAccess (drayAgent j.core) va n s)
    let s := read (dword d 2) ((wCount d - 1) * wStride d + tDataBytes t) (read (dword d 1) (wCount d * wIdxBytes d) s)
    if tRemote t then sendRemoteRows j.id d t s
    else
      let r := (List.range (wCount d)).foldl (fun (a : WriteJob × State) i => sendRow d t i a.1 a.2) (j, s)
      settleWrite j.id (updWrite j.id (fun _ => r.1) r.2)

/-- A batch opened (R117). -/
def startOpen (j : WriteJob) (s : State) : State :=
  if (batchOf (wBatch j.desc) s).isSome then endWriteWith j.id stDenied wrAlreadyOpen s
  else endWriteWith j.id stOk 0 { s with updates := { s.updates with
    batches := s.updates.batches ++
      [{ num := wBatch j.desc, cls := j.cls, accepting := true, owners := [], opening := j.id + 1 }] } }

/-- A commit begins to wait (R118). -/
def startCommit (j : WriteJob) (s : State) : State :=
  if batchTakes (wBatch j.desc) j.cls s then
    updWrite j.id (fun j => { j with waiting := true, waitFrom := s.now, opening := openingOf (wBatch j.desc) s }) s
  else endWriteWith j.id stDenied wrNotOpen s

/-- The staged rows of a batch dropped. -/
def dropStaged (batch : Nat) (s : State) : State :=
  { s with updates := { s.updates with staged := s.updates.staged.filter (fun r => r.batch != batch) } }

/-- Owners that hold rows of a batch, or to whom rows of it are on their way. -/
def batchOwners (n : Nat) (s : State) : List Nat :=
  ((((batchOf n s).map (·.owners)).getD []).map (·.1) ++
    (s.updates.jobs.filter (fun x => wBatch x.desc == n && x.opening == openingOf n s)).flatMap
      (fun x => x.remotePending.map (·.1))).eraseDups

/-- A batch aborted: a commit of it that waits ends, its rows are dropped here and at their owners, for whose answers it
does not wait, and it closes (R118, R124, R131; log 199). -/
def startAbort (j : WriteJob) (s : State) : State :=
  let n := wBatch j.desc
  if batchTakes n j.cls s = false then endWriteWith j.id stDenied wrNotOpen s
  else
    let owners := batchOwners n s
    let waits := (s.updates.jobs.filter (fun x => x.waiting && wBatch x.desc == n)).map (·.id)
    let s := waits.foldl (fun s id => endWriteWith id stDenied wrNotOpen s) s
    let s := owners.foldl (fun s o => fabPost o 8 n 0 [] 0 (.batchAbort j.id o) s) s
    let s := dropStaged n s
    endWriteWith j.id stOk 0 (count Cnt.aborts 1 { s with updates := { s.updates with batches := s.updates.batches.filter (fun b => b.num != n) } })

/-- A write descriptor leaves the splitter's hold and is carried out (R126, R127). A list that cannot be read makes the
descriptor wait, first among those its core has issued, with its place in the order kept (R111). -/
def startWrite (id : Nat) (s : State) : State :=
  match writeOf id s with
  | none => s
  | some j =>
    let j := { j with held := 0, stalled := false }
    let s := updWrite id (fun _ => j) s
    if j.cls = .H ∧ ent Ent.hostWrites s = 0 then endWriteWith id stDenied wrHostWritesOff s
    else if wOpcode j.desc = 0x23 then startOpen j s
    else if wOpcode j.desc = 0x24 then startCommit j s
    else if wOpcode j.desc = 0x25 then startAbort j s
    else match tableOf (wTable j.desc) s with
      | none => jobFaultPlain 2 j.core 1 (wTag j.desc) 0x22
          { s with updates := { s.updates with jobs := s.updates.jobs.filter (fun x => x.id != id) } }
      | some t =>
        match writeLists j.desc t s with
        | .ok =>
          if agentWaits (drayAgent j.core) s then
            returnIssued j.core (setSpecId j.desc 6 0) j.org
              (updWrite id (fun _ => { j with desc := setSpecId j.desc 6 0, stalled := true }) s)
          else startRowWrite j t s
        | m =>
          let d := setSpecId j.desc 6 0
          stallOn (drayAgent j.core) j.org.context 0 2 j.core (wTag d) 0x22 .read m
            (returnIssued j.core d j.org (updWrite id (fun _ => { j with desc := d, stalled := true }) s))

/-- A descriptor of a command was issued from the same queue before another's command issued its own. -/
def queuedBefore (a b : Origin) : Bool :=
  a.cmd.isSome && b.cmd.isSome && a.queue == b.queue &&
  (decide ((a.issue.map (·.1)).getD 0 < (b.issue.map (·.1)).getD 0) ||
   ((a.issue.map (·.1)).getD 0 == (b.issue.map (·.1)).getD 0 && decide (a.cmd.getD 0 < b.cmd.getD 0)))

/-- A write descriptor was issued before one of a core, an issue number and an origin, by the same Drays or from the same queue. -/
def sentBefore (x : WriteJob) (core id : Nat) (org : Origin) : Bool :=
  (x.core == core && decide (x.id < id)) || (x.id != id && queuedBefore x.org org)

/-- A write descriptor issued before one of a core, an issue number and an origin, by the same Drays or from the same queue, has
rows of a kind on their way; one that is held for its speculation ID, waits for a page or has not been taken yet may send
any (R111). -/
def writesAhead (core id : Nat) (org : Origin) (moving : RowJob → Bool) (s : State) : Bool :=
  s.updates.jobs.any (fun x => sentBefore x core id org && (x.stalled || x.held != 0 || x.rows.any moving)) ||
  s.control.any (fun k => k.issued.any (fun p => engineQueue (df p.1 0 63 56) == 0x21 && df p.1 0 63 56 != 0x21 &&
    queuedBefore p.2 org))

/-- The port class of a write descriptor: B for those of the job's graphs (R117). -/
def writeClass (org : Origin) : PortClass := if org.launch.isSome then .B else org.cls

/-- A write descriptor that the splitter took before and whose lists it could not read. -/
def stalledWrite (core : Nat) (d : Desc) (org : Origin) (s : State) : Option WriteJob :=
  s.updates.jobs.find? (fun j => j.stalled && j.core == core && j.desc == d && bareOrigin j.org == bareOrigin org)

/-- A write descriptor taken by the splitter of its core. -/
def pushWrite (core : Nat) (d : Desc) (org : Origin) (s : State) : State :=
  let j : WriteJob :=
    { id := s.updates.nextId, core := core, desc := d, org := org, cls := writeClass org,
      issuedAt := (org.issue.map (·.1)).getD s.now, rows := [], applied := 0, oor := 0,
      deferred := 0, remotePending := [], waiting := false, published := none, owners := [], status := 0, reason := 0,
      held := wSpec d }
  { s with updates := { s.updates with jobs := s.updates.jobs ++ [j], nextId := s.updates.nextId + 1 } }

/-- A write descriptor reaches the splitter of its core in its turn; an abort waits there for the rows that its issuer sent before
it (R109, R111, R127, R261). -/
def takeWrite (op core : Nat) (d : Desc) (org : Origin) (s : State) : Host.Outcome State Fault Refusal :=
  if 98 ≤ core then .fault .noSuchUnit
  else if inTurn core d org s = false then .next (holdIssued core d org s)
  else
    let org := issuedOrigin core d org s
    let held := s
    let s := takeIssued core d org s
    if wOpcode d = 0x25 ∧ writesAhead core s.updates.nextId org (fun r => r.deferredAt.isNone) s = true then
      .next (holdIssued core d org held)
    else if (matOf core s).failed then .next (jobFaultPlain 2 core 8 (wTag d) (wOpcode d) s)
    else if wOpcode d ≠ op ∨ writeOk core d org s = false then .next (jobFaultPlain 2 core 1 (wTag d) (wOpcode d) s)
    else match stalledWrite core d org s with
    | some j => .next (startWrite j.id s)
    | none =>
      let id := s.updates.nextId
      let s := pushWrite core d org s
      .next (if wSpec d = 0 then startWrite id s else s)

/-- ROW_WRITE. -/
def execRowWrite (core : Nat) (desc : Desc) (org : Origin) (s : State) : Host.Outcome State Fault Refusal := takeWrite 0x22 core desc org s

/-- BATCH_OPEN. -/
def execBatchOpen (core : Nat) (desc : Desc) (org : Origin) (s : State) : Host.Outcome State Fault Refusal := takeWrite 0x23 core desc org s

/-- BATCH_COMMIT. -/
def execBatchCommit (core : Nat) (desc : Desc) (org : Origin) (s : State) : Host.Outcome State Fault Refusal := takeWrite 0x24 core desc org s

/-- BATCH_ABORT. -/
def execBatchAbort (core : Nat) (desc : Desc) (org : Origin) (s : State) : Host.Outcome State Fault Refusal := takeWrite 0x25 core desc org s

/-! Immediate writes (R112 to R114). -/

/-- Chunks of 512 bytes that a row's version word and element area take. -/
def rowChunks (t : Desc) : Nat := Nat.max 1 ((tElemAt t + tElemBytes t + 511) / 512)

/-- Chunk i of a row of 1 KiB or more stored: the odd word with the first, scale record and even word with the last. -/
def storeChunk (t : Desc) (row i word : Nat) (data : List Byte) (s : State) : State :=
  let lo := if i = 0 then 8 else 512 * i
  let hi := Nat.min (512 * (i + 1)) (8 + tElemBytes t)
  let s := moduleWrite 7 (slotVa t row + lo) (slice data (lo - 8) (hi - lo)) (touchRow t row s)
  let s := if i = 0 then moduleWrite 7 (slotVa t row) (leBytes 8 word) s else s
  if i + 1 = rowChunks t then
    moduleWrite 7 (slotVa t row) (leBytes 8 ((word + 1) % 2 ^ 64))
      (moduleWrite 7 (recVa t row) (slice data (tElemBytes t) (tRecBytes t)) s)
  else s

/-- The odd version word that a write stores first (R113). -/
def nextWord (v : Nat) : Nat := (if v % 2 = 0 then v + 1 else v + 2) % 2 ^ 64

/-- A commit issued before a write descriptor by the same issuer waits: it takes effect at every lane, and before it (R111, R118). -/
def commitAhead (j : WriteJob) (s : State) : Bool := s.updates.jobs.any (fun x => sentBefore x j.core j.id j.org && x.waiting)

/-- An earlier write descriptor of the same issuer has rows on their way to a lane, or deferred there, or is a commit that waits
(R111). -/
def earlierAtLane (j : WriteJob) (lane : Nat) (s : State) : Bool :=
  writesAhead j.core j.id j.org (fun r => r.lane == lane) s || commitAhead j s

/-- Such a descriptor has rows at a lane that are not deferred, or is a commit that waits. -/
def earlierMoving (j : WriteJob) (lane : Nat) (s : State) : Bool :=
  writesAhead j.core j.id j.org (fun r => r.lane == lane && r.deferredAt.isNone) s || commitAhead j s

/-- A write of several chunks is under way at a lane, other than a given descriptor's: its chunks follow one another (R113). -/
def writeUnderway (lane : Nat) (but : Option Nat) (s : State) : Bool :=
  s.updates.jobs.any (fun x => but != some x.id && x.rows.any (fun r => r.lane == lane && r.chunks != 0))

/-- A background copy of several chunks is under way at a lane. -/
def copyUnderway (lane : Nat) (s : State) : Bool :=
  s.updates.committed.any (fun c => c.lane == lane && !c.copied && c.chunks != 0)

/-- The next row of a write descriptor at a lane. -/
def rowAt (j : WriteJob) (lane : Nat) : Option RowJob := j.rows.find? (fun r => r.lane == lane)

/-- A row dealt with. -/
def rowDone (id : Nat) (r : RowJob) (f : WriteJob → WriteJob) (s : State) : State :=
  settleWrite id (updWrite id (fun j => f { j with rows := j.rows.filter (fun x => x.pos != r.pos) }) s)

/-- IMMEDIATE_WRITE_CHUNK: a write begins when no other write or copy of several chunks is under way at its lane; a copy of the
row that is due is carried out before it, and none that falls due later touches it (R113, R114). -/
def execImmediateWriteChunk (write lane : Nat) (s : State) : Host.Outcome State Fault Refusal :=
  .next (match writeOf write s with
    | none => s
    | some j =>
      match rowAt j lane, tableOf (wTable j.desc) s with
      | some r, some t =>
        if wBatch j.desc ≠ 0 ∨ earlierAtLane j lane s = true ∨ writeUnderway lane (some write) s = true ∨
            (r.chunks = 0 ∧ copyUnderway lane s = true) then s
        else
          let s := (if tCold t then touchCold s else s)
          let s := if r.chunks = 0 then settleCopy r.table r.row t s else s
          let last := fun (s : State) => rowDone write r (fun j => { j with applied := j.applied + 1 })
            (count Cnt.immediateRows 1 { s with updates := { s.updates with cutRows := s.updates.cutRows.filter (fun c => c != (r.table, r.row)) } })
          if tVersioned t then
            let word := if r.chunks = 0 then nextWord (slotRow t r.row s).version else r.word
            let s := storeChunk t r.row r.chunks word r.data s
            if r.chunks + 1 = rowChunks t then last s
            else updWrite write (fun j => { j with
              rows := updFirst (fun x => x.pos == r.pos) (fun x => { x with chunks := r.chunks + 1, word := word }) j.rows }) s
          else last (storeRow t r.row 0 r.data s)
      | _, _ => s)

/-! Staging (R115, R116). -/

/-- A row of a batch staged, in place of an earlier one of the same batch, where its stack has room. -/
def stageRow (batch table row lane : Nat) (t : Desc) (data : List Byte) (s : State) : Option State :=
  let same := fun (r : StagedRow) => r.batch == batch && r.table == table && r.row == row
  if s.updates.staged.any same then
    some { s with updates := { s.updates with staged := updFirst same (fun r => { r with data := data }) s.updates.staged } }
  else if stageRoom (lane / 32) t s then
    some (count Cnt.stagedRows 1 { s with updates := { s.updates with
      staged := s.updates.staged ++ [{ batch := batch, table := table, row := row, lane := lane, data := data }] } })
  else none

/-- A row deferred: since now, or since it was deferred first. -/
def deferRow (id : Nat) (r : RowJob) (s : State) : State :=
  updWrite id (fun j => { j with
    rows := updFirst (fun x => x.pos == r.pos) (fun x => { x with deferredAt := some (x.deferredAt.getD s.now) }) j.rows }) s

/-- A row of the same issuer that goes before this one at its lane is deferred there: an earlier entry of the descriptor, or one
of an earlier descriptor (R110, R111). -/
def deferredBefore (j : WriteJob) (r : RowJob) (s : State) : Bool :=
  (j.rows.takeWhile (fun x => x.pos != r.pos)).any (fun x => x.lane == r.lane) || earlierAtLane j r.lane s

/-- A batched row at its lane: refused because its batch accepts no more, deferred with those before it or for want of room,
or staged (R116, R117). -/
def stageAt (j : WriteJob) (r : RowJob) (s : State) : State :=
  match tableOf (wTable j.desc) s with
  | none => s
  | some t =>
    if batchStill j s = false then rowDone j.id r (joinStatus stDenied wrNotOpen) s
    else if deferredBefore j r s then deferRow j.id r s
    else match stageRow (wBatch j.desc) r.table r.row r.lane t r.data s with
      | some s => rowDone j.id r (fun j => { j with applied := j.applied + 1 }) s
      | none => deferRow j.id r s

/-- ROW_STAGE: the next row at a lane that is not deferred. -/
def execRowStage (write lane : Nat) (s : State) : Host.Outcome State Fault Refusal :=
  .next (match writeOf write s with
    | none => s
    | some j =>
      match j.rows.find? (fun r => r.lane == lane && r.deferredAt.isNone) with
      | some r => if wBatch j.desc = 0 ∨ earlierMoving j lane s = true then s else stageAt j r s
      | none => s)

/-- DEFERRED_ROW_RETRY: the first deferred row of the descriptor at a lane. -/
def execDeferredRowRetry (write lane : Nat) (s : State) : Host.Outcome State Fault Refusal :=
  .next (match writeOf write s with
    | none => s
    | some j =>
      match j.rows.find? (fun r => r.lane == lane && r.deferredAt.isSome) with
      | some r => stageAt j r s
      | none => s)

/-- DEFER_LIMIT_EXPIRY: rows deferred for longer than the limit are reported as deferred, or, once their batch has stopped
accepting rows, as refused (R116, R117). -/
def execDeferLimitExpiry (write : Nat) (s : State) : Host.Outcome State Fault Refusal :=
  .next (match writeOf write s with
    | none => s
    | some j =>
      let late := fun (r : RowJob) => r.deferredAt.any (fun t => decide (t + ent Ent.deferLimitNs s ≤ s.now))
      let n := j.rows.countP late
      if n = 0 then s
      else if batchStill j s = false then settleWrite write (updWrite write (fun j =>
        joinStatus stDenied wrNotOpen { j with rows := j.rows.filter (fun r => !late r) }) s)
      else settleWrite write (count Cnt.deferredRows n (updWrite write (fun j =>
        joinStatus stDeferred wrNoSpace { j with rows := j.rows.filter (fun r => !late r), deferred := j.deferred + n }) s)))

/-! Commit (R118, R119, R131). -/

/-- Pre-images of an epoch freed (R123). -/
def freePreimages (epoch : Nat) (s : State) : State :=
  { s with updates := { s.updates with
    committed := (s.updates.committed.filter (fun c => !(c.epoch == epoch + 1 && c.copied))).map (fun c =>
      if c.epoch == epoch + 1 then { c with preImage := none } else c) } }

/-- A staged row becomes content of the new epoch. -/
def publishRow (r : StagedRow) (s : State) : State :=
  match tableOf r.table s with
  | none => s
  | some t =>
    let s := settleCopy r.table r.row t s
    { s with updates := { s.updates with
      committed := (s.updates.committed.filter (fun c => !(c.table == r.table && c.row == r.row))) ++
        [{ epoch := s.updates.epoch + 1, table := r.table, row := r.row, lane := r.lane, data := r.data, copied := false,
           chunks := 0, preImage := none }] } }

/-- A batch published as a new epoch across the module barrier (Table 4.3). -/
def publishBatch (batch : Nat) (s : State) : State :=
  let rows := s.updates.staged.filter (fun r => r.batch == batch)
  let s := freePreimages (s.updates.epoch - 1) s
  let s := rows.foldl (fun s r => publishRow r s) (dropStaged batch s)
  wbSubmit 0x3001 noInst [s.updates.epoch + 1, rows.length]
    (count Cnt.commits 1 { s with updates := { s.updates with epoch := s.updates.epoch + 1 } })

/-- Rows staged here in a batch. -/
def stagedCount (batch : Nat) (s : State) : Nat := s.updates.staged.countP (fun r => r.batch == batch)

/-- A descriptor was issued before another: at an earlier instant, or at the same one from the same queue and before it there. -/
def issuedFirst (a b : Origin) : Bool :=
  decide ((a.issue.map (·.1)).getD 0 < (b.issue.map (·.1)).getD 0) || queuedBefore a b

/-- Another commit is performed before this one: commits are performed one at a time, in order of issue, and those of one instant
in the order in which the splitters took them (R118). One that no splitter has taken yet counts, unless it is speculative. -/
def commitBefore (id : Nat) (s : State) : Bool :=
  match writeOf id s with
  | none => false
  | some j =>
    s.updates.jobs.any (fun x => x.id != id && wOpcode x.desc == 0x24 &&
      (x.published.isSome || (x.waiting && (issuedFirst x.org j.org || (!issuedFirst j.org x.org && decide (x.id < id)))))) ||
    s.control.any (fun k => k.issued.any (fun p => df p.1 0 63 56 == 0x24 && wSpec p.1 == 0 && issuedFirst p.2 j.org))

/-- A batch closed. -/
def closeBatch (n : Nat) (s : State) : State :=
  { s with updates := { s.updates with batches := s.updates.batches.filter (fun b => b.num != n) } }

/-- A published commit whose owners have all answered completes. -/
def settleCommit (id : Nat) (s : State) : State :=
  match writeOf id s with
  | some j => if j.published.isSome && j.owners.isEmpty then endWrite id (closeBatch (wBatch j.desc) s) else s
  | none => s

/-- BATCH_COMMIT_PROPER: it follows the rows that its issuer sent before it to their lanes (R111); a commit whose batch another
commit has closed since finds it not open (R117, R118). -/
def execBatchCommitProper (write : Nat) (s : State) : Host.Outcome State Fault Refusal :=
  .next (match writeOf write s with
    | none => s
    | some j =>
      if j.waiting = false ∨ commitBefore write s = true ∨ readersOf (s.updates.epoch - 1) s ≠ 0 ∨
          writesAhead j.core j.id j.org (fun r => r.deferredAt.isNone) s = true then s
      else if batchStill j s = false then endWriteWith write stDenied wrNotOpen s
      else
        let n := wBatch j.desc
        let owners := ((batchOf n s).map (·.owners)).getD []
        let rows := stagedCount n s + (owners.map (·.2)).foldl (· + ·) 0
        if rows ≠ dword j.desc 1 % 2 ^ 32 then endWriteWith write stDenied wrCountMismatch s
        else
          let s := publishBatch n (updBatch n (fun b => { b with accepting := false }) s)
          let s := updWrite write (fun j => { j with
            waiting := false, published := some (s.updates.epoch, rows, s.now), owners := owners.map (·.1) }) s
          let s := owners.foldl (fun s o => fabPost o.1 7 n 0 (leBytes 4 o.2) 0 (.batchCommit write o.1) s) s
          settleCommit write s)

/-- COMMIT_WAIT_TIMEOUT: readers remain when the limit has passed (R118; log 177). -/
def execCommitWaitTimeout (write : Nat) (s : State) : Host.Outcome State Fault Refusal :=
  .next (match writeOf write s with
    | some j =>
      if j.waiting && decide (j.waitFrom + ent Ent.commitWaitNs s < s.now) && readersOf (s.updates.epoch - 1) s != 0 then endWriteWith write stTimeout wrReadersRemain s else s
    | none => s)

/-- An owner has answered a commit, or has not confirmed it in time (R131). -/
def ownerCommitted (id owner st reason : Nat) (s : State) : State :=
  settleCommit id (updWrite id (fun j => joinStatus st reason { j with owners := j.owners.filter (· != owner) }) s)

/-- REMOTE_COMMIT_TIMEOUT. -/
def execRemoteCommitTimeout (write owner : Nat) (s : State) : Host.Outcome State Fault Refusal :=
  .next (match writeOf write s with
    | some j =>
      match j.published with
      | some (_, _, t) =>
        if j.owners.contains owner && decide (t + ent Ent.remoteCommitNs s ≤ s.now) then
          ownerCommitted write owner stTimeout wrOwnerTimeout s
        else s
      | none => s
    | none => s)

/-- An owner has answered one remote row, of an index value (R129, R130). A row that its owner has staged counts once in the
batch, however often it is replaced (R110); one whose batch accepts no more rows, or is no longer open, is refused, also where it was still deferred (R117). -/
def remoteRowDone (id owner st index : Nat) (s : State) : State :=
  match writeOf id s with
  | none => s
  | some j =>
    let key := (owner, wTable j.desc, ((tableOf (wTable j.desc) s).bind (fun t => resolveRow t index)).getD index)
    let still := batchStill j s
    let s := if st = stOk ∧ still = true then updBatch (wBatch j.desc) (fun b =>
        if b.remoteRows.contains key then b
        else { b with
          remoteRows := key :: b.remoteRows,
          owners := if b.owners.any (fun o => o.1 == owner) then b.owners.map (fun o => if o.1 == owner then (o.1, o.2 + 1) else o)
            else b.owners ++ [(owner, 1)] }) s else s
    let s := if st = stDeferred ∧ still = true then count Cnt.deferredRows 1 s else s
    settleWrite id (updWrite id (fun j =>
      let j := { j with
        applied := j.applied + (if st = stOk ∧ still = true then 1 else 0),
        deferred := j.deferred + (if st = stDeferred ∧ still = true then 1 else 0),
        remotePending := (j.remotePending.map (fun p => if p.1 == owner then (p.1, p.2 - 1) else p)).filter (fun p => p.2 != 0) }
      if (st = stOk ∨ st = stDeferred) ∧ still = false then joinStatus stDenied wrNotOpen j
      else if st = stOk then j
      else joinStatus st (if st = stDeferred then wrNoSpace else if st = stTimeout then 0 else wrOwnerRefused) j) s)

/-! Background copy and pre-images (R120, R123). -/

/-- The committed row of a lane whose copy goes on: the one under way, else the next. -/
def nextCopy (lane : Nat) (s : State) : Option CommittedRow :=
  (s.updates.committed.find? (fun c => c.lane == lane && !c.copied && c.chunks != 0)).or
    (s.updates.committed.find? (fun c => c.lane == lane && !c.copied))

/-- BACKGROUND_COPY: the next committed row of a lane, whole for a slot of at most 512 bytes, else its next chunk; it waits while
an immediate write of several chunks is under way at the lane (R113, R120). -/
def execBackgroundCopy (lane : Nat) (s : State) : Host.Outcome State Fault Refusal :=
  .next (match nextCopy lane s with
    | none => s
    | some c =>
      if writeUnderway lane none s then s
      else match tableOf c.table s with
      | none => s
      | some t =>
        if tVersioned t = false ∨ rowChunks t ≤ c.chunks + 1 then finishCopy c t s
        else
          let s := if tCold t then touchCold s else s
          let old := slotRow t c.row s
          let word := if c.chunks = 0 then nextWord old.version else old.version
          let keep := readersOf (c.epoch - 1) s != 0
          let s := storeChunk t c.row c.chunks word c.data s
          { s with updates := { s.updates with
            committed := updFirst (fun x => x == c) (fun x => { x with
              chunks := c.chunks + 1,
              preImage := match x.preImage with
                | some p => some p
                | none => if keep then some (asRecord old) else none }) s.updates.committed } })

/-- PREIMAGE_FREE: an earlier epoch's readers are gone. -/
def execPreimageFree (epoch : Nat) (s : State) : Host.Outcome State Fault Refusal :=
  .next (if epoch < s.updates.epoch ∧ readersOf epoch s = 0 then freePreimages epoch s else s)

/-! Serving other modules' rows (R129 to R131). -/

/-- The remote batch held for a peer's batch, opened on its first rows. -/
def remoteBatchFor (peer batch : Nat) (s : State) : Option (Nat × State) :=
  match s.updates.remoteBatches.find? (fun b => b.peer == peer && b.batch == batch) with
  | some b => some (b.num, s)
  | none =>
    match (List.range 15).find? (fun n => s.updates.remoteBatches.all (fun b => b.num != n + 1)) with
    | some n => some (n + 1, { s with updates := { s.updates with
        remoteBatches := s.updates.remoteBatches ++ [{ num := n + 1, peer := peer, batch := batch }] } })
    | none => none

/-- What a remote row's serve gives. -/
inductive RemoteStage where
  /-- STATUS with a status code and a reason of Table 17.8 -/
  | refuse (status reason : Nat)
  | staged (s : State)
  /-- no room: it waits under R116 -/
  | wait
  deriving Repr

/-- The rows of every remote batch counted again. -/
def recountRemote (s : State) : State :=
  { s with updates := { s.updates with
    remoteBatches := s.updates.remoteBatches.map (fun b => { b with rows := stagedCount (16 + b.num) s }) } }

/-- A row that another module sends: refused under R130, or staged in a remote batch. Whether the formats agree is not in the
request but for the length of the record (log 159). -/
def stageRemoteRow (peer batch tableId : Nat) (body : List Byte) (s : State) : RemoteStage :=
  match tableOf tableId s with
  | none => .refuse stDenied 3
  | some t =>
    if ent Ent.importWrites s = 0 ∨ tExport t = false ∨ isMember peer s = false then .refuse stDenied 3
    else if body.length ≠ 8 + tDataBytes t ∨ Config.formatsAgree peer tableId = false then .refuse stDenied 4
    else match remoteBatchFor peer batch s with
      | none => .refuse stDenied 0
      | some (n, s) =>
        match resolveRow t (leAt body 0 8) with
        | none => .staged (count Cnt.writeOorRows 1 s)
        | some r =>
          let s := ensureFrame (slotVa t r / 4096) s
          match stageRow (16 + n) tableId r (rowLane tableId r t s) t (body.drop 8) s with
          | some s => .staged (recountRemote (count Cnt.remoteRowsImported 1 s))
          | none => .wait

/-- Remote batches of a peer aborted (R131, R475). -/
def abortRemote (p : RemoteBatch → Bool) (s : State) : State :=
  (s.updates.remoteBatches.filter p).foldl (fun s b =>
    count Cnt.aborts 1 (dropStaged (16 + b.num) { s with updates := { s.updates with
      remoteBatches := s.updates.remoteBatches.filter (fun x => x.num != b.num) } })) s

/-! TABLE_DELETE (R102, R133). -/

/-- A descriptor issued on a core and not yet taken names a table. -/
def issuedNames (id : Nat) (p : Desc × Origin) (s : State) : Bool :=
  (df p.1 0 63 56 == 0x21 && (if lIdxFmt p.1 = 2 then lookupLists p.1 s != .ok || (namedTables p.1 s).contains id || ((namedTables p.1 s).isEmpty && lTable p.1 == id)
    else lTable p.1 == id)) ||
  (df p.1 0 63 56 == 0x22 && wTable p.1 == id)

/-- A lookup or write descriptor in flight names a table: one of a core's issued descriptors, a lookup or a row write. A tagged
list that cannot be read yet may name any (log 160). -/
def tableInUse (id : Nat) (s : State) : Bool :=
  s.control.any (fun k => k.issued.any (fun p => issuedNames id p s)) ||
  s.lookup.jobs.any (fun j => j.shapeTable == id || j.tables.contains id) ||
  s.updates.jobs.any (fun j => wOpcode j.desc == 0x22 && wTable j.desc == id)

/-- A table, its staged rows, its pre-images and its storage dropped (R102, R133). -/
def dropTable (id : Nat) (s : State) : State :=
  recountRemote <| freeExtents (fun e => e.tag == 0x1000 + id) { s with
    lookup := { s.lookup with
      tables := alErase s.lookup.tables id, rowCache := s.lookup.rowCache.filter (fun l => l.table != id) },
    updates := { s.updates with
      staged := s.updates.staged.filter (fun r => r.table != id),
      committed := s.updates.committed.filter (fun r => r.table != id),
      cutRows := s.updates.cutRows.filter (fun r => r.1 != id) } }

/-- TABLE_DELETE_COMPLETE. -/
def execTableDeleteComplete (tableId : Nat) (s : State) : Host.Outcome State Fault Refusal :=
  .next (match alGet s.lookup.tables tableId with
    | some x => if x.deleting && !tableInUse tableId s then endCmd Ent.tableDelete stOk 0 (dropTable tableId s) else s
    | none => s)

end Sys2Proof.Machine
end

