-- ==== Sys2Proof/Machine/FabricRx.lean ====
section
/-! DEFINITION. The Mboes transport and its membership (17, R453 to R465, R475): handshakes, packets received, acknowledgement,
loss, congestion, paths, the end of a session, and interfaces. -/

namespace Sys2Proof.Machine

open Sys2Proof

/-! What an operation's outcome does at the unit that issued it (R468). -/

/-- A tile of a transfer fails: the transfer stops there, and completes once the tiles before it are delivered (R468). -/
def tileFailed (id tile st : Nat) (s : State) : State := settleFailed id (failTile id tile st s)

/-- A LOAD's bytes join the pieces of its tile that they answer. -/
def tileLoaded (id tile va : Nat) (data : List Byte) (s : State) : State :=
  match transferOf id s with
  | none => s
  | some t =>
    match (fabPieces (srcRuns t.desc tile) s).find? (fun p => p.1 % 2 ^ 52 == va && p.2.2 == data.length &&
        !t.buf.any (fun b => b.1 == tile && b.2.1 == p.2.1)) with
    | some p => updTransfer id (fun t => { t with buf := t.buf ++ [(tile, p.2.1, data)] }) s
    | none => s

/-- Words of a fabric atomic that stand before the answered one: its number in the descriptor. -/
def atomicWord (f : FabDesc) (va : Nat) : Nat := (va - dword f.desc 1 % 2 ^ 52) / 8

/-- One word of a fabric atomic answered (R471). -/
def atomicAnswer (id va old : Nat) (s : State) : State :=
  match s.fabric.descs.find? (fun f => f.id == id) with
  | none => s
  | some f =>
    let s := sramWrite f.core (df f.desc 6 63 32 + 8 * atomicWord f va) (leBytes 8 old) s
    if f.remaining ≤ 1 then endFabDesc id stOk 0 0 s
    else { s with fabric := { s.fabric with
      descs := updFirst (fun x => x.id == id) (fun x => { x with remaining := x.remaining - 1 }) s.fabric.descs } }

/-- The status of a command's fabric signal: the signal is dealt with, and a failure is the command's status. -/
def signalDone (queue cmd st : Nat) (s : State) : State :=
  updCmd queue cmd (fun c => { c with signal := 2, status := if c.status = stOk then st else c.status }) s

/-- An operation completes with a status other than OK and a reason of Table 17.8. -/
def opFailed (o : FabOp) (st reason : Nat) (s : State) : State :=
  match o.unit with
  | .tile id tile => tileFailed id tile st s
  | .signal q c => signalDone q c st s
  | .atomic id => endFabDesc id st reason 0 s
  | .lookup id k =>
    if (lookupOf id s).any (fun j => (j.remote[k]?).any (fun g => !g.settled)) then settleGroup98 id k (st == stTimeout) s else s
  | .rowStage w owner => remoteRowDone w owner st (leAt o.body 0 8) s
  | .batchCommit w owner => ownerCommitted w owner st (if st = stTimeout then wrOwnerTimeout else wrOwnerRefused) s
  | .batchAbort _ _ => s
  | .global => s

/-- A write answered by APPLIED or COMMITTED. -/
def opApplied (o : FabOp) (s : State) : State :=
  match o.unit with
  | .signal q c => signalDone q c stOk s
  | .rowStage w owner => remoteRowDone w owner stOk (leAt o.body 0 8) s
  | .batchCommit w owner => ownerCommitted w owner stOk 0 s
  | _ => s

/-- Global operations whose turn may have come with the answer of an earlier write (R472). -/
def retryGlobals (s : State) : State :=
  (s.fabric.descs.filter (fun f => !f.held && df f.desc 0 63 56 == 0x61)).foldl (fun s f => tryGlobal (df f.desc 0 50 47) f.gseq s) s

/-! The end of a session (R475). -/

/-- A lookup that the module serves for a peer's request is dropped with the response it owes. -/
def dropServed (peer : Nat) (s : State) : State :=
  { s with
    lookup := { s.lookup with jobs := s.lookup.jobs.filter (fun j => !(j.serves.any (fun x => x.1 == peer))) },
    fabric := { s.fabric with slots := s.fabric.slots.filter (fun x => x.2.1 != peer) } }

/-- A session ends: its operations complete with TIMEOUT and SESSION_ENDED, what it owes is dropped, and the peer's remote
batches are aborted. `cause` is 0 for a CLOSE, 1 for silence, 2 for a new session of the peer. -/
def endSession (peer cause : Nat) (s : State) : State :=
  let x := sessOf peer s
  let pend := x.ops ++ x.waiting
  let n := pend.countP (fun o => o.unit != .global)
  let fresh := { FabSession.fresh peer with
    state := 3, gen := x.gen, failedAt := s.now, tried := true, handshake := x.handshake, lastTx := s.now }
  let s := count Cnt.sessionsEnded 1 (count Cnt.opsTimedOut n
    (wbSubmit 0xB001 peer [Config.sessionEndCause cause] (putSess fresh s)))
  let s := abortRemote (fun b => b.peer == peer) (dropServed peer s)
  pend.foldl (fun s o => opFailed o stTimeout 6 s) s

/-! Membership (R457). -/

/-- Handshakes in progress. -/
def handshakes (s : State) : Nat := s.fabric.sessions.countP (fun x => x.handshake.isSome)

/-- JOINING becomes MEMBER when every peer's session is up or has failed once. -/
def checkMember (s : State) : State :=
  if s.fabric.state = 1 ∧ s.fabric.peers.all (fun p => sessUp p.1 s || (sessOf p.1 s).tried) = true then
    { s with fabric := { s.fabric with state := 2 } }
  else s

/-- The bytes of a message in fragments of at most 1,200. -/
def fragsOf (msg : List Byte) : List (List Byte) :=
  (List.range ((msg.length + 1199) / 1200)).map (fun i => (msg.drop (1200 * i)).take 1200)

/-- A handshake message sent in fragments (R458). -/
def sendFragments (peer typ gen : Nat) (msg : List Byte) (s : State) : State :=
  match peerIfaces peer s with
  | [] => s
  | i :: _ =>
    let fs := fragsOf msg
    let s := fs.zipIdx.foldl (fun s (f, k) =>
      let x := { FabSession.fresh peer with peer := peer }
      let hdr := packetHeader typ 1 x 0 (k * 16 + (fs.length - 1)) 0 0 f.length 0 gen s
      emit i peer 1 (pathPort s.free 0) (hdr ++ f) s) s
    drawFree s

/-- The part of a handshake message that its signature covers, after the given beginning: chain, and a quote in a sealed job. -/
def withChain (before start : List Byte) (s : State) : List Byte :=
  let m := start ++ chainBytes s
  if sealedJob s then m ++ makeQuote (shake 32 (before ++ m)) s else m

/-- Whether a message's tail (chain, quote, signature) verifies for a peer: `before` is the transcript before the message. -/
def tailOk (peer : Nat) (before msg : List Byte) (start : Nat) (s : State) : Bool :=
  let chain := slice msg start 10650
  let q := if sealedJob s then 3949 else 0
  let body := msg.take (start + 10650 + q)
  let key := leafKey chain
  decide (msg.length = start + 10650 + q + 3309) && chainOk chain &&
  (match peerRec peer s with
   | some r => decide (ofLe (shake 32 key) = r.toNat / 2 ^ 256)
   | none => false) &&
  Config.dsaVerify key (ascii "Mboes v1") (before ++ body) (msg.drop (start + 10650 + q)) &&
  (!sealedJob s || (s.security.sealPolicy.getLsbD 2 &&
    quoteOk (slice msg (start + 10650) 3949) key (shake 32 (before ++ msg.take (start + 10650))) s.security.ownerDigest))

/-- A handshake begun by this module: HELLO leaves (R458). -/
def startHandshake (peer : Nat) (s : State) : State :=
  let gen := ((alGet s.fabric.gens peer).getD 0 + 1) % 256
  let rnd := randomBytes 32 s
  let s := drawFree s
  let seed := randomBytes 64 s
  let s := drawFree s
  let start := leBytes 8 (ent Ent.fabFabricId s) ++ leBytes 1 gen ++ rnd ++ (List.range 1184).map (Config.kemKeyByte seed)
  let body := withChain [] start s
  let s := if sealedJob s then count Cnt.quotes 1 s else s
  let msg := body ++ identitySign (ascii "Mboes v1") body s
  let s := updSess peer (fun x => { x with
    state := if x.state = 2 then 2 else 1,
    handshake := some { initiator := true, gen := gen, startedAt := s.now, transcript := msg, frags := [], secret := seed } }) s
  sendFragments peer 3 gen msg s

/-- Interfaces of a port mode (Table 17.1). -/
def modeInterfaces (mode : Nat) : Nat :=
  if mode = 2 then 4 else if mode = 1 ∨ mode = 4 ∨ mode = 6 then 2 else 1

/-- The ports that may carry packets of the table's peers. -/
def portsInUse (s : State) : List Nat :=
  (List.range 4).filter (fun n => s.fabric.peers.any (fun p => df p.2 0 49 46 == 0 || bitOf (df p.2 0 49 46) n))

/-- Every interface of the ports in use is up, in the mode that its port has taken or takes at its next link start (R453), or JOINING began 150 ms ago (R457; log 191). -/
def linksReady (s : State) : Bool :=
  (portsInUse s).all (fun n =>
    let mode := if s.fabric.ifUp.any (fun i => i / 4 == n) then s.fabric.mode.getD n 0 else ent (Ent.portMode + 256 * n) s
    (List.range (modeInterfaces mode)).all (fun k => s.fabric.ifUp.contains (4 * n + k))) || decide (s.fabric.joinAt + 150000000 ≤ s.now)

/-- Handshakes with peers not yet tried, in ascending module order, at most 64 in progress; they begin once the links of the ports
in use are up, or 150 ms after JOINING began (R457). -/
def startHandshakes (s : State) : State :=
  if (s.fabric.state = 1 ∨ s.fabric.state = 2) ∧ linksReady s = true then
    s.fabric.peers.foldl (fun s p =>
      let x := sessOf p.1 s
      if x.state = 0 ∧ x.handshake.isNone ∧ x.tried = false ∧ handshakes s < 64 then startHandshake p.1 s
      else s) s
  else s

/-- A handshake has failed; the session will be retried (R457). -/
def failHandshake (peer : Nat) (s : State) : State :=
  startHandshakes (checkMember (updSess peer (fun x => { x with
    handshake := none, state := if x.state = 2 then 2 else 3, tried := true, failedAt := s.now }) s))

/-- The 72 bytes of session keys (R459). -/
def sessionKeys (gen : Nat) (secret transcript : List Byte) (s : State) : List Byte :=
  shake 72 (ascii "Mboes v1 session" ++ leBytes 8 (ent Ent.fabFabricId s) ++ leBytes 1 gen ++ secret ++ shake 32 transcript)

/-- CWND's bounds (R464). -/
def boundCwnd (n : Nat) (s : State) : Nat := Nat.max 9216 (Nat.min n (1024 * ent Ent.fabCwndMaxKib s))

/-- A session comes up: an earlier one of the pair ends, and what waited is sent. -/
def sessionUp (peer gen : Nat) (initiator : Bool) (keys : List Byte) (s : State) : State :=
  let s := if sessUp peer s then endSession peer 2 s else s
  let old := sessOf peer s
  let x : FabSession := { FabSession.fresh peer with
    state := 2, gen := gen, initiator := initiator, txKeys := keys, rxKeys := keys, epochSince := s.now,
    cwnd := boundCwnd (1024 * ent Ent.fabCwndInitKib s) s, cwndAt := s.now, lastRx := s.now, lastTx := s.now,
    waiting := old.waiting, tried := true, paths := makePaths peer s }
  let s := drawFree (putSess x s)
  let s := { s with fabric := { s.fabric with gens := alSet s.fabric.gens peer gen } }
  startHandshakes (checkMember (count Cnt.sessionsUp 1 s))

/-- What a write of PEER_SET does (R456). -/
def peerSetAction (_ : ReqId) (bytes : List Byte) (s : State) : State :=
  let r := BitVec.ofNat 512 (ofLe bytes)
  let m := df r 0 63 52
  if s.fabric.state ≠ 0 then endCmd Ent.fabPeerSet stDenied 7 s
  else if db r 0 51 = false then
    endCmd Ent.fabPeerSet stOk 0 { s with fabric := { s.fabric with peers := alErase s.fabric.peers m } }
  else if (alGet s.fabric.peers m).isNone ∧ 4095 ≤ s.fabric.peers.length then endCmd Ent.fabPeerSet stDenied erNoResource s
  else endCmd Ent.fabPeerSet stOk 0 { s with fabric := { s.fabric with peers := alSet s.fabric.peers m r } }

/-- PEER_SET. -/
def execPeerSet (req : ReqId) (value : List Byte) (s : State) : Host.Outcome State Fault Refusal :=
  .next (cmdVia peerSetAction req 0x2A00 0x06 value s)

/-- The fabric is joined: JOINING, with NET on (R457). -/
def joinFabric (s : State) : State :=
  let s := if s.power.netOn then s else switchNetOn s
  startHandshakes (checkMember { s with fabric := { s.fabric with state := 1, joinAt := s.now } })

/-- What FABRIC_JOIN is measured by: MODULE_NUMBER, FABRIC_ID and each peer record, in ascending module order (Table 18.3). -/
def joinBytes (s : State) : List Byte :=
  leBytes 2 (myModule s) ++ leBytes 8 (ent Ent.fabFabricId s) ++ s.fabric.peers.flatMap (fun p => leBytes 64 p.2.toNat)

/-- What a write of 1 to FABRIC_JOIN does: MS[10] is extended (R485). -/
def fabricJoinAction (_ : ReqId) (_ : List Byte) (s : State) : State :=
  joinFabric (measureBytes 10 10 (joinBytes s) (endCmd Ent.fabFabricJoin stOk 0 s))

/-- FABRIC_JOIN. -/
def execFabricJoin (req : ReqId) (value : Nat) (s : State) : Host.Outcome State Fault Refusal :=
  .next (cmdVia fabricJoinAction req 0x2A00 0x03 (leBytes 1 value) s)

/-- Peers whose operations have all ended get CLOSE, and the last one's end returns the state to OUT (R457). -/
def tryLeave (s : State) : State :=
  if s.fabric.state ≠ 3 then s
  else
    let done := s.fabric.sessions.filter (fun x => x.ops.isEmpty && x.waiting.isEmpty)
    let s := done.foldl (fun s x =>
      let s := if x.state = 2 then sendPacket x.peer 5 1 [] [] [] s else s
      abortRemote (fun b => b.peer == x.peer) <| dropServed x.peer { s with fabric := { s.fabric with sessions := s.fabric.sessions.filter (fun y => y.peer != x.peer) } }) s
    if s.fabric.sessions.isEmpty then
      let s := { s with fabric := { s.fabric with state := 0 } }
      if (cmdOf Ent.fabFabricLeave s).state = 1 then endCmd Ent.fabFabricLeave stOk 0 s else s
    else s

/-- FABRIC_LEAVE's effect, also of an undeploy (R355). -/
def leaveFabric (s : State) : State :=
  if s.fabric.state = 0 then s
  else
    tryLeave { s with fabric := { s.fabric with
      state := 3, sessions := s.fabric.sessions.map (fun x => { x with handshake := none }) } }

/-- What a write of 1 to FABRIC_LEAVE does. -/
def fabricLeaveAction (_ : ReqId) (_ : List Byte) (s : State) : State :=
  if s.fabric.state = 0 then endCmd Ent.fabFabricLeave stOk 0 s else leaveFabric s

/-- FABRIC_LEAVE. -/
def execFabricLeave (req : ReqId) (value : Nat) (s : State) : Host.Outcome State Fault Refusal :=
  .next (cmdVia fabricLeaveAction req 0x2A00 0x04 (leBytes 1 value) s)

/-! Packets received (R460). -/

/-- A packet's header. -/
structure Pkt where
  typ : Nat
  cls : Nat
  ackReq : Bool
  ece : Bool
  src : Nat
  dst : Nat
  frag : Nat
  epoch : Nat
  psn : Nat
  ackPsn : Nat
  sack : Nat
  length : Nat
  gen : Nat
  ts : Nat
  tsEcho : Nat

/-- The header of a datagram; none where MAGIC or VER is another's. -/
def pktOf (d : List Byte) : Option Pkt :=
  let f0 := beAt d 0 8
  let f1 := beAt d 8 8
  let f2 := beAt d 16 8
  let f3 := beAt d 24 8
  let f4 := beAt d 32 8
  if d.length < 40 ∨ field f0 63 48 ≠ 0x4D42 ∨ field f0 47 44 ≠ 1 then none
  else some
    { typ := field f0 43 40, cls := field f0 39 38, ackReq := bitOf f0 37, ece := bitOf f0 36, src := field f0 35 24,
      dst := field f0 23 12, frag := field f0 7 0, epoch := field f1 63 32, psn := field f1 31 0, ackPsn := field f2 63 32,
      sack := field f2 31 0, length := field f3 63 48, gen := field f3 39 32, ts := field f4 63 32, tsEcho := field f4 31 0 }

/-- The keys after a rekey (R459). -/
def nextKeys (keys : List Byte) : List Byte := shake 72 (ascii "Mboes v1 rekey" ++ keys)

/-- The receive keys for a packet's epoch: the present one, the next, or the previous within its millisecond. -/
def rxKeysFor (x : FabSession) (epoch now : Nat) : Option (List Byte) :=
  if epoch = x.rxEpoch then some x.rxKeys
  else if epoch = x.rxEpoch + 1 then some (nextKeys x.rxKeys)
  else if epoch + 1 = x.rxEpoch ∧ now < x.rxOldUntil then some x.rxOld
  else none

/-- A datagram's records under keys, where the tag verifies. -/
def openPkt (keys : List Byte) (fromInitiator : Bool) (p : Pkt) (d : List Byte) : Option (List Byte) :=
  let k := dirKey keys fromInitiator
  match gcmOpen k.1 (fabNonce k.2 p.epoch p.psn) (d.take 40) (d.drop 40) with
  | some pt => if pt.length = p.length then some pt else none
  | none => none

/-- A number extended from its low 32 bits, near a base. -/
def extend32 (base low : Nat) : Nat :=
  let d := (low + 2 ^ 32 - base % 2 ^ 32) % 2 ^ 32
  if d < 2 ^ 31 then base + d else base + d - 2 ^ 32

/-- An authentic packet of an open session: the header and its records. -/
def authentic (typ : Nat) (d : List Byte) (s : State) : Option (Pkt × List Byte) :=
  match pktOf d with
  | none => none
  | some p =>
    let x := sessOf p.src s
    if p.typ ≠ typ ∨ p.dst ≠ myModule s ∨ (peerRec p.src s).isNone ∨ x.state ≠ 2 ∨ p.gen ≠ x.gen then none
    else match rxKeysFor x p.epoch s.now with
      | none => none
      | some keys => (openPkt keys (!x.initiator) p d).map (fun pt => (p, pt))

/-- The records of a packet's body; none where they do not fill it. -/
def recordsOf : Nat → List Byte → Option (List (List Byte))
  | 0, bs => if bs.isEmpty then some [] else none
  | fuel + 1, bs =>
    if bs.isEmpty then some []
    else
      let n := 16 + alignUp (leAt bs 4 2) 8
      if bs.length < 16 ∨ bs.length < n then none else (recordsOf fuel (bs.drop n)).map (bs.take n :: ·)

/-- The receive epoch after a packet of the next one (R459). -/
def noteEpoch (p : Pkt) (now : Nat) (x : FabSession) : FabSession :=
  if p.epoch = x.rxEpoch + 1 then
    { x with rxOld := x.rxKeys, rxKeys := nextKeys x.rxKeys, rxEpoch := p.epoch, rxOldUntil := now + 1000000 }
  else x

/-- A round-trip sample taken as RFC 6298 gives (R463). -/
def sampleRtt (r : Nat) (x : FabSession) : FabSession :=
  if x.hasRtt then
    { x with rttvar := (3 * x.rttvar + (if x.srtt < r then r - x.srtt else x.srtt - r)) / 4, srtt := (7 * x.srtt + r) / 8 }
  else { x with srtt := r, rttvar := r / 2, hasRtt := true }

/-- A sent packet is lost: its operations and responses are sent again (R463). -/
def losePacket (p : FabSent) (x : FabSession) : FabSession :=
  { x with
    sent := x.sent.filter (fun q => q.psn != p.psn),
    ops := x.ops.map (fun o => if p.ops.contains o.seq then { o with queued := true } else o),
    kept := x.kept.map (fun r => if r.psn == some p.psn then { r with psn := none } else r) }

/-- Operations that a lost packet has carried and that are still pending. -/
def lostOps (p : FabSent) (x : FabSession) : Nat := x.ops.countP (fun o => p.ops.contains o.seq) + x.kept.countP (fun r => r.psn == some p.psn)

/-- The acknowledgement fields of a packet taken (R463). -/
def takeAck (peer : Nat) (p : Pkt) (s : State) : State :=
  let x := sessOf peer s
  let base := (x.sent.map (·.psn)).headD x.psn
  let ack := extend32 base p.ackPsn
  let acked := fun (n : Nat) => decide (n < ack) || (decide (ack < n) && decide (n ≤ ack + 32) && bitOf p.sack (n - ack - 1))
  let done := x.sent.filter (fun q => acked q.psn)
  let ops := done.flatMap (·.ops)
  let x := { x with
    sent := x.sent.filter (fun q => !acked q.psn),
    kept := x.kept.filter (fun r => !(r.psn.any (fun n => decide (n < ack)))),
    ops := x.ops.filter (fun o => !(o.unit == .global && ops.contains o.seq)),
    acked := x.acked + done.length, eceAcked := x.eceAcked + (if p.ece then done.length else 0), eceSeen := x.eceSeen || p.ece,
    paths := x.paths.zipIdx.map (fun (q, k) => if done.any (fun d => d.path == k) then { q with timeouts := 0 } else q) }
  let x := if done.isEmpty ∨ p.tsEcho = 0 then x else sampleRtt ((s.now + 2 ^ 32 - p.tsEcho) % 2 ^ 32) x
  let lost := x.sent.filter (fun q => decide (3 ≤ (List.range 32).countP (fun i => bitOf p.sack i && decide (q.psn < ack + 1 + i))))
  let s := count Cnt.retransmits ((lost.map (fun q => lostOps q x)).foldl (· + ·) 0) s
  putSess (lost.foldl (fun x q => losePacket q x) x) s

/-- The receive window moved up over packets received. -/
def advanceAck : Nat → FabSession → FabSession
  | 0, x => x
  | fuel + 1, x =>
    if x.received.contains x.ackPsn then
      advanceAck fuel { x with ackPsn := x.ackPsn + 1, received := x.received.filter (· != x.ackPsn) }
    else x

/-- A packet accepted: its number, time, epoch and congestion mark noted; `owes` where it is to be acknowledged. -/
def notePacket (p : Pkt) (psn now : Nat) (ce owes : Bool) (x : FabSession) : FabSession :=
  let x := noteEpoch p now x
  let gap := decide (x.ackPsn < psn)
  let x := { x with received := if psn < x.ackPsn || x.received.contains psn then x.received else psn :: x.received }
  let x := advanceAck x.received.length x
  { x with
    tsEcho := p.ts, lastRx := now, ce := x.ce || ce,
    owed := if owes then x.owed + 1 else x.owed, owedSince := if owes && x.owed == 0 then now else x.owedSince,
    ackNow := x.ackNow || (owes && (p.ackReq || gap)) }

/-- Fields of an operation record. -/
def recOpcode (r : List Byte) : Nat := leAt r 7 1
def recSubop (r : List Byte) : Nat := leAt r 6 1
def recSeq (r : List Byte) : Nat := leAt r 0 4
def recO1 (r : List Byte) : BitVec 64 := BitVec.ofNat 64 (leAt r 8 8)
def recBody (r : List Byte) : List Byte := slice r 16 (leAt r 4 2)

/-- A request of a peer is settled already. -/
def isSettled (x : FabSession) (seq : Nat) : Bool := decide (seq < x.settled) || x.settledSet.contains seq

/-- The record is a request with a sequence number: every code below 0x80. -/
def isRequest (r : List Byte) : Bool := decide (recOpcode r < 0x80)

/-- A packet's requests lie within the window of R462: 1,024 operations or 2 MiB beyond the lowest unsettled one. -/
def inWindow (x : FabSession) (rs : List (List Byte)) : Bool :=
  rs.all (fun r => !isRequest r || decide (recSeq r < x.settled + 1024)) &&
  decide (((x.rxOps.map (fun o => 16 + o.body.length)).foldl (· + ·) 0) +
    (((rs.filter (fun r => isRequest r && !isSettled x (recSeq r))).map (·.length)).foldl (· + ·) 0) ≤ 2097152)

/-- One record taken into a session (R461, R462); the time for which a row may be deferred runs from its arrival (R116). -/
def takeRecord (cls epoch now : Nat) (x : FabSession) (r : List Byte) : FabSession :=
  let seq := recSeq r
  if isRequest r = false then { x with inbox := x.inbox ++ [r] }
  else if recOpcode r = 9 then
    if isSettled x seq then x
    else
      let x := { x with inbox := x.inbox ++ [r], settledSet := seq :: x.settledSet }
      advanceSettled x.settledSet.length x
  else if x.rxOps.any (fun o => o.seq == seq) then x
  else if isSettled x seq && recOpcode r != 1 && recOpcode r != 5 then
    { x with kept := x.kept.map (fun k => if k.seq = seq then { k with psn := none } else k) }
  else { x with rxOps := x.rxOps ++
    [{ seq := seq, opcode := recOpcode r, subop := recSubop r, o1 := recO1 r, body := recBody r, cls := cls,
       since := if recOpcode r = 6 then some now else none, epoch := epoch }] }

/-- A packet dropped and counted. -/
def dropPacket (s : State) : State := count Cnt.packetsDropped 1 s

/-- FABRIC_DATA_RX. -/
def execFabricDataRx (iface : Nat) (ce : Bool) (datagram : List Byte) (s : State) : Host.Outcome State Fault Refusal :=
  if 16 ≤ iface then .fault .noSuchUnit
  else if s.fabric.ifUp.contains iface = false then .next s
  else match authentic 1 datagram s with
    | none => .next (dropPacket s)
    | some (p, pt) =>
      match recordsOf (pt.length + 1) pt with
      | none => .next (dropPacket s)
      | some rs =>
        let x := sessOf p.src s
        let psn := extend32 x.ackPsn p.psn
        if psn < x.ackPsn ∨ x.received.contains psn = true then
          .next (updSess p.src (fun x => { x with ackNow := true, lastRx := s.now })
            (pump p.src (takeAck p.src p (count Cnt.packetsReceived 1 s))))
        else if inWindow x rs = false then .next (dropPacket s)
        else
          let s := updSess p.src (fun x => rs.foldl (takeRecord p.cls s.updates.epoch s.now) (notePacket p psn s.now ce true x)) s
          .next (pump p.src (takeAck p.src p (count Cnt.packetsReceived 1 s)))

/-- FABRIC_ACK_RX: with ACK_REQ, or where it opens a gap in the PSNs, it is acknowledged at once (R463). -/
def execFabricAckRx (iface : Nat) (ce : Bool) (datagram : List Byte) (s : State) : Host.Outcome State Fault Refusal :=
  if 16 ≤ iface then .fault .noSuchUnit
  else if s.fabric.ifUp.contains iface = false then .next s
  else match authentic 2 datagram s with
    | none => .next (dropPacket s)
    | some (p, _) =>
      let psn := extend32 (sessOf p.src s).ackPsn p.psn
      let s := updSess p.src (fun x =>
        let opens := decide (x.received.foldl Nat.max (x.ackPsn - 1) + 1 < psn)
        let x := notePacket p psn s.now ce false x
        { x with ackNow := x.ackNow || p.ackReq || opens }) s
      .next (pump p.src (takeAck p.src p (count Cnt.packetsReceived 1 s)))

/-- ACK_TIMER: an acknowledgement is due (R463). -/
def execAckTimer (peer : Nat) (s : State) : Host.Outcome State Fault Refusal :=
  let x := sessOf peer s
  .next (if moving s = false ∧ x.state = 2 ∧ (x.ackNow = true ∨ 4 ≤ x.owed ∨ (0 < x.owed ∧ x.owedSince + 2000 ≤ s.now)) then
    sendPacket peer 2 1 [] [] [] s
  else s)

/-- The retransmission timeout (R463). -/
def rtoOf (x : FabSession) (s : State) : Nat := Nat.max (ent Ent.fabRtoMinNs s) (x.srtt + 4 * x.rttvar)

/-- RETRANSMIT_TIMEOUT of a packet. -/
def execRetransmitTimeout (peer psn : Nat) (s : State) : Host.Outcome State Fault Refusal :=
  let x := sessOf peer s
  match x.sent.find? (fun p => p.psn == psn && decide (p.at_ + rtoOf x s ≤ s.now)) with
  | none => .next s
  | some p =>
    let s := count Cnt.rtoEvents 1 (count Cnt.retransmits (lostOps p x) s)
    let x := losePacket p x
    .next (pump peer (putSess { x with
      cwnd := boundCwnd (x.cwnd / 2) s, paths := updAt x.paths p.path (fun q => { q with timeouts := q.timeouts + 1 }) } s))

/-- CWND_UPDATE: once per SRTT (R464). -/
def execCwndUpdate (peer : Nat) (s : State) : Host.Outcome State Fault Refusal :=
  let x := sessOf peer s
  if x.state ≠ 2 ∨ x.hasRtt = false ∨ s.now < x.cwndAt + x.srtt then .next s
  else
    let f := if x.acked = 0 then 0 else 65536 * x.eceAcked / x.acked
    let a := (15 * x.alpha + f) / 16
    let c := if x.eceSeen then x.cwnd - x.cwnd * a / 131072 else x.cwnd + ent Ent.fabFabricMtu s
    let s := if x.eceSeen then count Cnt.eceReductions 1 s else s
    .next (pump peer (putSess { x with
      alpha := a, cwnd := boundCwnd c s, acked := 0, eceAcked := 0, eceSeen := false, cwndAt := s.now } s))

/-- REKEY of a sender (R459). -/
def execRekey (peer : Nat) (s : State) : Host.Outcome State Fault Refusal :=
  let x := sessOf peer s
  .next (if x.state = 2 ∧ (2 ^ 31 ≤ x.psn - x.epochPsn ∨ x.epochSince + 1000000000 * ent Ent.fabRekeyS s ≤ s.now) then
    putSess { x with txKeys := nextKeys x.txKeys, txEpoch := x.txEpoch + 1, epochSince := s.now, epochPsn := x.psn } s
  else s)

/-- The interface for a path that moves: the one that the fewest of the session's paths use. -/
def leastUsed (x : FabSession) (ifs : List Nat) : Nat :=
  let uses := fun (i : Nat) => x.paths.countP (fun p => p.iface == i)
  ifs.foldl (fun best i => if uses i < uses best then i else best) (ifs.headD 0)

/-- PATH_MOVE (R465): `down` reports that the path's interface has gone down; else a path that met two timeouts in a row
takes a new source port. -/
def execPathMove (peer path : Nat) (down : Bool) (s : State) : Host.Outcome State Fault Refusal :=
  if 4 ≤ path then .fault .noSuchUnit
  else
    match (sessOf peer s).paths[path]? with
    | none => .next s
    | some q =>
      if down then
        let s := { s with fabric := { s.fabric with ifUp := s.fabric.ifUp.filter (· != q.iface) } }
        match peerIfaces peer s with
        | [] => .next s
        | ifs =>
          let s := updSess peer (fun x => { x with
            paths := updAt x.paths path (fun q => { q with iface := leastUsed x ifs, timeouts := 0 }) }) s
          .next (pump peer (count Cnt.pathMoves 1 s))
      else if 2 ≤ q.timeouts then
        let s := updSess peer (fun x => { x with
          paths := updAt x.paths path (fun q => { q with port := pathPort s.free path, timeouts := 0 }) }) s
        .next (drawFree (count Cnt.pathMoves 1 s))
      else .next s

/-! Handshake messages received (R458). -/

/-- A handshake packet of a peer: TYPE, DST and a peer of the table, while the fabric is joined. -/
def handshakePkt (typ : Nat) (d : List Byte) (s : State) : Option Pkt :=
  match pktOf d with
  | none => none
  | some p =>
    if p.typ = typ ∧ p.dst = myModule s ∧ (peerRec p.src s).isSome ∧ (s.fabric.state = 1 ∨ s.fabric.state = 2) then some p else none

/-- Fragments with one more; the message where they are complete. -/
def joinFrags (frags : List (Nat × List Byte)) (p : Pkt) (d : List Byte) : List (Nat × List Byte) × Option (List Byte) :=
  let fs := alSet frags (p.frag / 16) (d.drop 40)
  let n := p.frag % 16 + 1
  (fs, if (List.range n).all (fun k => (alGet fs k).isSome) then some ((List.range n).flatMap (fun k => (alGet fs k).getD [])) else none)

/-- A complete HELLO answered with ACCEPT, or refused. -/
def answerHello (peer gen : Nat) (msg : List Byte) (s : State) : State :=
  if leAt msg 0 8 ≠ ent Ent.fabFabricId s ∨ leAt msg 8 1 ≠ gen ∨ tailOk peer [] msg 1225 s = false then failHandshake peer s
  else
    let rnd := randomBytes 32 s
    let s := drawFree s
    let seed := randomBytes 32 s
    let s := drawFree s
    let ek := slice msg 41 1184
    let start := rnd ++ (List.range 1088).map (Config.kemCipherByte ek seed)
    let body := withChain msg start s
    let s := if sealedJob s then count Cnt.quotes 1 s else s
    let reply := body ++ identitySign (ascii "Mboes v1") (msg ++ body) s
    let s := updSess peer (fun x => { x with handshake := x.handshake.map (fun h => { h with
      transcript := msg ++ reply, secret := (List.range 32).map (Config.kemEncapsByte ek seed) }) }) s
    sendFragments peer 4 gen reply s

/-- HELLO: a fragment arrives. The initiator is the lower-numbered module: it drops a HELLO of the other, and sends its own where
it has sent none; of two crossing HELLOs the higher-numbered module drops its own. While 64 handshakes are in progress a new one
is not begun (R457, R458; log 82). -/
def execHello (iface : Nat) (datagram : List Byte) (s : State) : Host.Outcome State Fault Refusal :=
  if 16 ≤ iface then .fault .noSuchUnit
  else if s.fabric.ifUp.contains iface = false then .next s
  else match handshakePkt 3 datagram s with
    | none => .next (dropPacket s)
    | some p =>
      let x := sessOf p.src s
      let mine := x.handshake.any (fun h => h.initiator)
      if decide (myModule s < p.src) && (mine || (x.handshake.isNone && decide (handshakes s < 64))) then
        .next (if mine then s else startHandshake p.src s)
      else if x.handshake.isNone ∧ 64 ≤ handshakes s then .next s
      else
        let h : Handshake := match x.handshake with
          | some h =>
            if h.initiator = false ∧ h.gen = p.gen then h
            else { initiator := false, gen := p.gen, startedAt := s.now, transcript := [], frags := [], secret := [] }
          | none => { initiator := false, gen := p.gen, startedAt := s.now, transcript := [], frags := [], secret := [] }
        if h.secret ≠ [] then .next s
        else
          let r := joinFrags h.frags p datagram
          let s := updSess p.src (fun x => { x with
            state := if x.state = 2 then 2 else 1, handshake := some { h with frags := r.1 } }) s
          match r.2 with
          | some msg => .next (answerHello p.src p.gen msg s)
          | none => .next s

/-- A complete ACCEPT: keys are derived, FINISH leaves and the session is up. -/
def takeAccept (peer : Nat) (h : Handshake) (msg : List Byte) (s : State) : State :=
  if tailOk peer h.transcript msg 1120 s = false then failHandshake peer s
  else
    let secret := (List.range 32).map (Config.kemDecapsByte h.secret (slice msg 32 1088))
    let keys := sessionKeys h.gen secret (h.transcript ++ msg) s
    pump peer (sendPacket peer 2 1 [] [] [] (sessionUp peer h.gen true keys s))

/-- ACCEPT: a fragment arrives. -/
def execAccept (iface : Nat) (datagram : List Byte) (s : State) : Host.Outcome State Fault Refusal :=
  if 16 ≤ iface then .fault .noSuchUnit
  else if s.fabric.ifUp.contains iface = false then .next s
  else match handshakePkt 4 datagram s with
    | none => .next (dropPacket s)
    | some p =>
      match (sessOf p.src s).handshake with
      | none => .next (dropPacket s)
      | some h =>
        if h.initiator = false ∨ h.gen ≠ p.gen then .next (dropPacket s)
        else
          let r := joinFrags h.frags p datagram
          let s := updSess p.src (fun x => { x with handshake := some { h with frags := r.1 } }) s
          match r.2 with
          | some msg => .next (takeAccept p.src h msg s)
          | none => .next s

/-- FINISH: an ACK packet under the new keys, KEY_EPOCH 0 and PSN 0, brings the responder's session up. -/
def execFinish (iface : Nat) (datagram : List Byte) (s : State) : Host.Outcome State Fault Refusal :=
  if 16 ≤ iface then .fault .noSuchUnit
  else if s.fabric.ifUp.contains iface = false then .next s
  else match handshakePkt 2 datagram s with
    | none => .next (dropPacket s)
    | some p =>
      match (sessOf p.src s).handshake with
      | none => .next (dropPacket s)
      | some h =>
        let keys := sessionKeys h.gen h.secret h.transcript s
        if h.initiator = true ∨ h.secret = [] ∨ h.gen ≠ p.gen ∨ p.epoch ≠ 0 ∨ p.psn ≠ 0 ∨ openPkt keys true p datagram = none then
          .next (dropPacket s)
        else
          let s := count Cnt.packetsReceived 1 (sessionUp p.src h.gen false keys s)
          .next (pump p.src (updSess p.src (notePacket p 0 s.now false false) s))

/-- HANDSHAKE_TIMEOUT: a handshake not complete within 10 ms has failed. -/
def execHandshakeTimeout (peer : Nat) (s : State) : Host.Outcome State Fault Refusal :=
  match (sessOf peer s).handshake with
  | none => .next s
  | some h => if h.startedAt + 10000000 ≤ s.now then .next (failHandshake peer s) else .next s

/-- SESSION_RETRY: a failed session is retried every PEER_DEAD_NS (R457). -/
def execSessionRetry (peer : Nat) (s : State) : Host.Outcome State Fault Refusal :=
  let x := sessOf peer s
  .next (if (s.fabric.state = 1 ∨ s.fabric.state = 2) ∧ (peerRec peer s).isSome ∧ x.state = 3 ∧ x.handshake.isNone ∧
      x.failedAt + ent Ent.fabPeerDeadNs s ≤ s.now ∧ handshakes s < 64 then startHandshake peer s
  else s)

/-! The end of sessions. -/

/-- CLOSE_RX. -/
def execCloseRx (iface : Nat) (datagram : List Byte) (s : State) : Host.Outcome State Fault Refusal :=
  if 16 ≤ iface then .fault .noSuchUnit
  else if s.fabric.ifUp.contains iface = false then .next s
  else match authentic 5 datagram s with
    | none => .next (dropPacket s)
    | some (p, _) => .next (tryLeave (retryGlobals (endSession p.src 0 s)))

/-- PEER_DEAD: nothing has come from the peer for PEER_DEAD_NS. -/
def execPeerDead (peer : Nat) (s : State) : Host.Outcome State Fault Refusal :=
  let x := sessOf peer s
  .next (if x.state = 2 ∧ x.lastRx + ent Ent.fabPeerDeadNs s ≤ s.now then tryLeave (retryGlobals (endSession peer 1 s)) else s)

/-- KEEPALIVE_ACK_TIMER: an idle session's acknowledgement every PEER_DEAD_NS / 4. -/
def execKeepaliveAckTimer (peer : Nat) (s : State) : Host.Outcome State Fault Refusal :=
  let x := sessOf peer s
  .next (if moving s = false ∧ x.state = 2 ∧ x.ops.isEmpty = true ∧ x.lastTx + ent Ent.fabPeerDeadNs s / 4 ≤ s.now then sendPacket peer 2 1 [] [] [] s
  else s)

/-- How long an operation waits for its response: lookups follow R98, remote rows and commits R129 to R131 (R468; log 161). -/
def opLimit (o : FabOp) (s : State) : Nat :=
  match o.unit with
  | .lookup _ _ => ent Ent.remoteTimeoutNs s
  | .rowStage _ _ => ent Ent.fabOpTimeoutNs s + ent Ent.deferLimitNs s
  | .batchCommit _ _ => ent Ent.remoteCommitNs s
  | _ => ent Ent.fabOpTimeoutNs s

/-- OP_TIMEOUT of an operation, or of the oldest that waits with 0: it runs from the first sending, and before that while the session
is not up (R466, R468). One that a packet still
carries keeps its place in the pair's order, with nothing waiting for its answer. -/
def execOpTimeout (peer seq : Nat) (s : State) : Host.Outcome State Fault Refusal :=
  let x := sessOf peer s
  let due := fun (o : FabOp) => match o.firstSent with
    | some t => decide (t + opLimit o s ≤ s.now)
    | none => x.state != 2 && decide (o.issuedAt + opLimit o s ≤ s.now)
  if seq = 0 then
    match x.waiting.find? due with
    | none => .next s
    | some o =>
      let s := putSess { x with waiting := x.waiting.erase o } s
      let s := if o.unit = .global then s else count Cnt.opsTimedOut 1 s
      .next (tryLeave (retryGlobals (opFailed o stTimeout 0 s)))
  else match x.ops.find? (fun o => o.seq == seq && o.unit != .global && due o) with
    | none => .next s
    | some o =>
      let carried := o.queued || x.sent.any (fun p => p.ops.contains seq)
      let x := { x with ops := if carried then x.ops.map (fun q => if q.seq = seq then { q with unit := .global } else q)
        else x.ops.filter (fun q => q.seq != seq) }
      .next (tryLeave (retryGlobals (pump peer (opFailed o stTimeout 0 (count Cnt.opsTimedOut 1 (putSess x s))))))

/-! Interfaces (R453, R454). -/

/-- INTERFACE_UP: the port's mode is taken at its link start; paths and responses may use the interface (R465). -/
def execInterfaceUp (iface : Nat) (s : State) : Host.Outcome State Fault Refusal :=
  if 16 ≤ iface then .fault .noSuchUnit
  else
    let n := iface / 4
    let fresh := (List.range 4).all (fun k => !s.fabric.ifUp.contains (4 * n + k))
    let mode := if fresh then ent (Ent.portMode + 256 * n) s else s.fabric.mode.getD n 0
    if s.power.netOn = false ∨ s.fabric.ifUp.contains iface = true ∨ modeInterfaces mode ≤ iface % 4 then .next s
    else
      let s := { s with fabric := { s.fabric with
        ifUp := insertSorted iface s.fabric.ifUp, mode := updAt s.fabric.mode n (fun _ => mode) } }
      let s := s.fabric.sessions.foldl (fun s x =>
        if x.state = 2 ∧ (nextPathOf x s).isNone then drawFree (putSess { x with paths := makePaths x.peer s } s) else s) s
      .next (startHandshakes (pumpAll s))

/-- NEIGHBOR_DISCOVERY_FRAME: a solicitation or ARP request for an address of the interface is answered; the frame's own
address, or the advertised one, is learned, and what waited for it leaves (R454). -/
def execNeighborDiscoveryFrame (iface : Nat) (v6 request : Bool) (target sender : Nat) (mac : BitVec 48) (s : State) :
    Host.Outcome State Fault Refusal :=
  if 16 ≤ iface then .fault .noSuchUnit
  else if s.fabric.ifUp.contains iface = false then .next s
  else if request then
    if target = 0 ∨ ifaceAddr iface v6 s ≠ target then .next s
    else
      let s := if sender = 0 then s else learn iface v6 sender mac s
      .next (putOut (linkTo iface mac s) (neighbourFrame iface v6 target sender s) s)
  else .next (learn iface v6 target mac s)

end Sys2Proof.Machine
end

