-- ==== Sys2Proof/Machine/RunAhead.lean ====
section
/-! DEFINITION. Run-ahead and speculation (11): stages dispatched ahead, resolution, commit and squash, and the release of
provisional ranges. -/

namespace Sys2Proof.Machine

open Sys2Proof

/-! Stopping work (R238, R156, R272, R252). -/

/-- A task stopped at an instruction boundary: its vector queue is discarded, its summary slots and top-k unit are emptied,
its held effects are dropped, and its core is free (R238). A squash counts it as squashed work. -/
def stopTask (core : Nat) (squash : Bool) (s : State) : State :=
  match (ctlOf core s).task with
  | none => s
  | some t =>
    let s := updCtl core (fun k => { k with
      held := k.held.filter (fun h => h.1 == 0 || h.2.1.launch != t.launch || h.2.1.stage != t.stage) }) s
    let s := if squash then scrubControl core s else s
    let s := chargeTask t s
    let s := if squash then count Cnt.squashedCoreCycles (cyclesSince core t.startedAt s) (count Cnt.squashedTasks 1 s) else s
    let s := updVec core (fun k => { k with
      vqueue := [], slots := List.replicate 8 0, topk := { isSet := false, k := 0, floor := 0, entries := [] } }) s
    settleOutgoing (freeCore core s)

/-- Tasks that satisfy a condition stopped, and those not yet started dropped. -/
def stopTasks (p : TaskRec → Bool) (squash : Bool) (s : State) : State :=
  let s := { s with dispatch := { s.dispatch with tasks := s.dispatch.tasks.filter (fun t => !p t.task) } }
  (List.range 98).foldl (fun s c => if (ctlOf c s).task.any p then stopTask c squash s else s) s

/-- The same by a squash or an exit timer, which alone TASKS_STOPPED counts (R231, R238). -/
def stopWork (p : TaskRec → Bool) (squash : Bool) (s : State) : State :=
  let n := (List.range 98).countP (fun c => (ctlOf c s).task.any p)
  let s := stopTasks p squash s
  if n = 0 then s else count Cnt.tasksStopped n s

/-- Engine work of an origin and speculation ID ended without outputs: chains at their tile boundary, transfers after the
tile in flight, summaries, and descriptors not yet taken, whose tiles count as squashed (R156). -/
def stopEngines (p : Origin → Nat → Bool) (s : State) : State :=
  let s := (List.range 98).foldl (fun s c =>
    let s := dropChains c (fun x => p x.org x.spec) s
    let s := serveVq c (updVec c (fun k => { k with vqueue := k.vqueue.filter (fun d => match d with
      | .tensor d org => !p org (df d 6 31 16)
      | .instr _ => true) }) s)
    let tiles := (((ctlOf c s).issued.filter (fun d => df d.1 0 63 56 == 0x30 && p d.2 (df d.1 6 31 16))).map
      (fun d => mKTiles d.1)).foldl (· + ·) 0
    let s := if tiles = 0 then s else count Cnt.squashedTiles tiles s
    updCtl c (fun k => { k with issued := k.issued.filter (fun d => !p d.2 (df d.1 6 31 16)) }) s) s
  let s := dropTransfers (fun t => p t.org t.spec) s
  let s := (List.range 98).foldl (fun s c => serveDrays c s) s
  purgeRings (dropSummaries (fun j => p j.org j.spec) s)

/-! Squash (R326, R330, R331). -/

/-- Held effects of an ID that a squash drops (Table 11.2). -/
def heldEffects (id : Nat) (s : State) : Nat :=
  s.runahead.heldStores.countP (fun h => h.spec == id) + s.runahead.heldRecords.countP (fun h => h.1 == id) +
  ((s.control.map (fun k => k.held.countP (fun h => h.1 == id))).foldl (· + ·) 0) +
  s.streaming.transfers.countP (fun t => t.held && t.spec == id) + s.updates.jobs.countP (fun j => j.held == id) +
  ((s.lookup.jobs.filter (fun j => j.spec == id)).map (fun j => j.remote.countP (fun g => g.sentAt.isNone))).foldl (· + ·) 0 +
  ((s.streaming.transfers.filter (fun t => t.spec == id && t.running && !t.held && xSrcSpace t.desc == 4)).map
    (fun t => t.inFlight.length)).foldl (· + ·) 0 + s.xlate.heldFaults.countP (fun h => h.spec == id) +
  s.fabric.descs.countP (fun f => f.held && df f.desc 6 31 16 == id)

/-- An ID squashed: its work stops and its held effects and faults are dropped; its ranges stay until RANGE_INVALIDATE.
Its stages may run again, after an exit timer those that R54 carries on. -/
def squashId (id : Nat) (s : State) : State :=
  let n := heldEffects id s
  let ended := s.runahead.ids.find? (fun i => i.id == id)
  let rows := ((s.lookup.jobs.filter (fun j => j.spec == id)).map (·.rowsRead)).foldl (· + ·) ((ended.map (·.rows)).getD 0)
  let cycles := (ended.map (·.cycles)).getD 0
  let faults := s.xlate.heldFaults.countP (fun h => h.spec == id)
  let s := stopWork (fun t => t.spec == id) true s
  let s := stopEngines (fun _ spec => spec == id) s
  let s := { s with
    lookup := { s.lookup with jobs := s.lookup.jobs.filter (fun j => j.spec != id) },
    updates := { s.updates with jobs := s.updates.jobs.filter (fun j => j.held != id) },
    fabric := { s.fabric with descs := s.fabric.descs.filter (fun f => !(f.held && df f.desc 6 31 16 == id)) },
    control := s.control.map (fun k => { k with held := k.held.filter (fun h => h.1 != id) }),
    runahead := { s.runahead with
      ids := s.runahead.ids.map (fun i => if i.id = id then { i with squashed := true } else i),
      heldStores := s.runahead.heldStores.filter (fun h => h.spec != id),
      heldRecords := s.runahead.heldRecords.filter (fun h => h.1 != id),
      heldMarks := s.runahead.heldMarks.filter (fun h => h.1 != id) },
    sequences := { s.sequences with heldQueries := s.sequences.heldQueries.filter (fun h => h.1 != id) },
    xlate := { s.xlate with heldFaults := s.xlate.heldFaults.filter (fun h => h.spec != id) },
    dispatch := { s.dispatch with launches := s.dispatch.launches.map (fun l => { l with
      stages := l.stages.map (fun x => if x.spec = id then { x with phase := if l.exited && !(keptStages l s).contains x.num then .stopped else .waiting, spec := 0, ahead := false } else x) }) } }
  let s := if n = 0 then s else count Cnt.heldEffectsDropped n s
  let s := if rows = 0 then s else count Cnt.squashedEntries rows s
  let s := if cycles = 0 then s else count Cnt.squashedCoreCycles cycles s
  let s := if faults = 0 then s else count Cnt.heldFaultsDropped faults s
  count Cnt.specSquashes 1 s

/-! Commit (R326, R329, R330, R331, R420). -/

/-- A descriptor of the ID goes on as non-speculative work. -/
def clearSpec (id : Nat) (d : Desc) : Desc := if df d 6 31 16 = id then setSpecId d 6 0 else d

/-- The marks of an ID removed from everything that holds its work. -/
def unmark (id : Nat) (s : State) : State :=
  let org := fun (p : Desc × Origin) => (clearSpec id p.1, p.2)
  let task := fun (t : TaskRec) => if t.spec = id then { t with spec := 0 } else t
  { s with
    control := s.control.map (fun k => { k with
      specid := if k.specid = id then 0 else k.specid, task := k.task.map task, issued := k.issued.map org,
      held := k.held.map (fun h => (if h.1 = id then 0 else h.1, h.2)) }),
    vector := s.vector.map (fun k => { k with vqueue := k.vqueue.map (fun d => match d with
      | .tensor d o => .tensor (clearSpec id d) o
      | .instr i => .instr i) }),
    matrix := s.matrix.map (fun m => { m with chains := m.chains.map (fun c =>
      if c.spec = id then { c with spec := 0, descs := c.descs.map (fun e => { e with desc := clearSpec id e.desc }) } else c) }),
    lookup := { s.lookup with jobs := s.lookup.jobs.map (fun j =>
      if j.spec = id then { j with spec := 0, desc := clearSpec id j.desc } else j) },
    sequences := { s.sequences with
      summaries := s.sequences.summaries.map (fun j =>
        if j.spec = id then { j with spec := 0, desc := clearSpec id j.desc } else j),
      heldQueries := s.sequences.heldQueries.filter (fun h => h.1 != id) },
    streaming := { s.streaming with transfers := s.streaming.transfers.map (fun t =>
      if t.spec = id then { t with spec := 0, held := false, desc := clearSpec id t.desc } else t) },
    dispatch := { s.dispatch with
      tasks := s.dispatch.tasks.map (fun p => { p with task := task p.task }),
      launches := s.dispatch.launches.map (fun l => { l with
        stages := l.stages.map (fun x => if x.spec = id then
          { x with
            spec := 0, phase := if x.phase = .ended then .committed else x.phase,
            committedAt := if x.phase = .ended then s.now else x.committedAt } else x) }) },
    runahead := { s.runahead with
      ids := s.runahead.ids.filter (fun i => i.id != id), ranges := s.runahead.ranges.filter (fun r => r.spec != id),
      heldStores := s.runahead.heldStores.filter (fun h => h.spec != id),
      heldRecords := s.runahead.heldRecords.filter (fun h => h.1 != id),
      heldMarks := s.runahead.heldMarks.filter (fun h => h.1 != id) },
    xlate := { s.xlate with heldFaults := s.xlate.heldFaults.filter (fun h => h.spec != id) } }

/-- The kind of access of a record's code. -/
def accessOf (code : Nat) : Access := if code = 0 then .read else if code = 1 then .write else .atomic

/-- A held fault at commit translates afresh: it proceeds, joins a pending entry or creates one (R420). -/
def commitFault (h : HeldFault) (s : State) : State :=
  match memCheck (h.page * 4096) 1 (accessOf h.access) s with
  | .absent p =>
    if pageLost p s then jobFaultPlain (agentUnit h.agent).1 (agentUnit h.agent).2 0x02 h.work.1 h.work.2 s
    else joinFault h.agent p h.access h.context h.work true s
  | .hostHeld b => holdHostAccess h.agent b h.work s
  | _ => s

/-- What is sent at commit: transfers' fabric loads, lookups' remote groups, writes and fabric descriptors. -/
def sendCommitted (transfers lookups writes descs : List Nat) (s : State) : State :=
  let s := transfers.foldl (fun s t => match transferOf t s with
    | some u => if u.running ∧ xSrcSpace u.desc = 4 then settleFailed t (u.inFlight.foldl (fun s n => postLoads u n s) s) else s
    | none => s) s
  let s := lookups.foldl (fun s j => sendGroups j s) s
  let s := writes.foldl (fun s j => startWrite j s) s
  descs.foldl (fun s f => startFabDesc f s) s

/-- An ID committed: its ranges become ordinary content, its work goes on as non-speculative, and its held effects and
faults are released. Tasks that wait for a group request its wake now. -/
def commitId (id : Nat) (s : State) : State :=
  let stores := s.runahead.heldStores.filter (fun h => h.spec == id)
  let records := s.runahead.heldRecords.filter (fun h => h.1 == id)
  let marks := s.runahead.heldMarks.filter (fun h => h.1 == id)
  let queries := s.sequences.heldQueries.filter (fun h => h.1 == id)
  let faults := s.xlate.heldFaults.filter (fun h => h.spec == id)
  let ts := (s.streaming.transfers.filter (fun t => t.spec == id)).map (·.id)
  let ls := (s.lookup.jobs.filter (fun j => j.spec == id)).map (·.id)
  let ws := (s.updates.jobs.filter (fun j => j.held == id)).map (·.id)
  let fs := (s.fabric.descs.filter (fun f => f.held && df f.desc 6 31 16 == id)).map (·.id)
  let launches := (s.dispatch.launches.filter (fun l => l.stages.any (fun x => x.spec == id))).map (·.id)
  let s := unmark id s
  let s := { s with fabric := { s.fabric with descs := s.fabric.descs.map (fun f =>
    if fs.contains f.id then { f with desc := clearSpec id f.desc } else f) } }
  let s := stores.foldl (fun s h => applyHeldStore h s) s
  let s := records.foldl (fun s h => wbSubmitAt h.2.1 true h.2.2.1 (h.2.2.2.headD noInst) h.2.2.2.tail s) s
  let s := queries.foldl (fun s q => putQuery { q.2 with desc := clearSpec id q.2.desc } s) s
  let s := marks.foldl (fun s m => markLaunch (some m.2.1) m.2.2.1 m.2.2.2.1 m.2.2.2.2 s) s
  let s := sendCommitted ts ls ws fs s
  let s := (List.range 98).foldl (fun s c => serveDrays c (flushEffects c s)) s
  let s := faults.foldl (fun s h => commitFault h s) s
  let s := s.dispatch.tasks.foldl (fun s p => wakeCore p.core s) s
  count Cnt.specCommits 1 (launches.foldl (fun s l => skipStages l s) s)

/-! Resolution (R224, R323, R326). -/

/-- An entry used or written: most recently used first, at most 4,096. -/
def notePrediction (p : Prediction) (s : State) : State :=
  { s with runahead := { s.runahead with predictions :=
      (p :: s.runahead.predictions.filter (fun x => !(x.queue == p.queue && x.graph == p.graph && x.branch == p.branch))).take 4096 } }

/-- One ID meets the resolution of a branch. -/
def resolveId (launch branch : Nat) (out : BitVec 32) (i : SpecId) (s : State) : State :=
  match i.set.find? (fun m => m.1 == launch && m.2.1 == branch) with
  | none => s
  | some m =>
    if m.2.2 ≠ out then squashId i.id s
    else
      let rest := i.set.filter (fun m => !(m.1 == launch && m.2.1 == branch))
      if rest.isEmpty then commitId i.id s
      else { s with runahead := { s.runahead with
        ids := updFirst (fun x => x.id == i.id) (fun x => { x with set := rest }) s.runahead.ids } }

/-- BRANCH_RESOLVE: the oldest RESOLVE of a branch in a launch that has reached the Postilion; the first outcome counts. -/
def execBranchResolve (launch branch : Nat) (outcome : BitVec 64) (s : State) : Host.Outcome State Fault Refusal :=
  if s.runahead.resolves.find? (fun r => r.1 == launch && r.2.1 == branch) ≠ some (launch, branch, outcome) then .next s
  else
    let s := { s with runahead := { s.runahead with resolves := s.runahead.resolves.erase (launch, branch, outcome) } }
    match launchOf launch s with
    | none => .next s
    | some l =>
      if (alGet l.resolved branch).isSome then .next s
      else
        let out := outcome.setWidth 32
        let pred := (openPrediction launch branch s).or (predictionOf l.queue l.graph branch s)
        let s := match pred with
          | some p => count Cnt.predictions 1 (if p = out then s else count Cnt.mispredictions 1 s)
          | none => s
        let s := notePrediction { queue := l.queue, graph := l.graph, branch := branch, outcome := out } s
        let s := updLaunch launch (fun l => { l with resolved := l.resolved ++ [(branch, outcome)] }) s
        let s := (s.runahead.ids.filter (fun i => !i.squashed)).foldl (fun s i => resolveId launch branch out i s) s
        .next (skipStages launch s)

/-! Dispatch ahead (R321, R324, R325, R327). -/

/-- The predictions a stage stands on; none where one is missing. A branch already predicted for this launch keeps its
prediction (R324). -/
def stageSet (l : Launch) (branches : List Nat) (s : State) : Option (List (Nat × Nat × BitVec 32)) :=
  branches.mapM (fun b =>
    ((openPrediction l.id b s).or (predictionOf l.queue l.graph b s)).map (fun p => (l.id, b, p)))

/-- The provisional ranges of a stage under an ID (R322, R327). -/
def stageRanges (v : GraphVersion) (stage id : Nat) : List ProvRange :=
  (v.regions.filter (fun e => field e.toNat 63 48 == stage)).flatMap (fun e =>
    let n := e.toNat
    let cores := setBits 96 (v.coreSets.getD (field n 47 40) 0).toNat
    let off := field n 31 0
    let len := field n 127 96
    if field n 39 38 = 1 then cores.map (fun c => { spec := id, staging := false, place := c, offset := off, length := len })
    else (cores.map dieOf).eraseDups.map (fun k => { spec := id, staging := true, place := k, offset := off, length := len }))

/-- Ranges fit the free entries of their tables and overlap none of another ID (R327). -/
def rangesFit (rs : List ProvRange) (s : State) : Bool :=
  rs.all (fun r =>
    let here := fun (x : ProvRange) => x.staging == r.staging && x.place == r.place
    decide (rs.countP here + s.runahead.ranges.countP here ≤ (if r.staging then 32 else 8)) &&
    (s.runahead.ranges.filter here).all (fun x =>
      x.spec == r.spec || decide (x.offset + x.length ≤ r.offset) || decide (r.offset + r.length ≤ x.offset)))

/-- The ID that a new set of predictions takes: one with an equal set, else the next free number of the counter; none at
64 live IDs (R324). -/
def idFor (set : List (Nat × Nat × BitVec 32)) (s : State) : Option Nat :=
  match s.runahead.ids.find? (fun i => !i.squashed && i.set.all (fun m => set.contains m) && set.all (fun m => i.set.contains m)) with
  | some i => some i.id
  | none =>
    if 64 ≤ s.runahead.ids.length then none
    else ((List.range 66).map (fun k => (s.runahead.nextId + k) % 65536)).find? (fun n =>
      n != 0 && s.runahead.ids.all (fun i => i.id != n))

/-- A stage dispatched ahead under an ID with its ranges. -/
def dispatchAhead (l : Launch) (r : BitVec 256) (id : Nat) (set : List (Nat × Nat × BitVec 32)) (rs : List ProvRange)
    (kept : Bool) (s : State) : State :=
  let s := set.foldl (fun s m => match predictionOf l.queue l.graph m.2.1 s with
    | some p => notePrediction { queue := l.queue, graph := l.graph, branch := m.2.1, outcome := p } s
    | none => s) s
  let s :=
    if s.runahead.ids.any (fun i => i.id == id) then
      { s with runahead := { s.runahead with
          ids := updFirst (fun i => i.id == id) (fun i => { i with kept := i.kept || kept }) s.runahead.ids } }
    else { s with runahead := { s.runahead with
      ids := s.runahead.ids ++ [{ id := id, set := set, queue := l.queue, squashed := false, kept := kept }],
      nextId := (id + 1) % 65536 } }
  let s := { s with runahead := { s.runahead with ranges := s.runahead.ranges ++ rs } }
  count Cnt.specStages 1 (settleOutgoing (dispatchTasks l r id s))

/-- SPEC_DISPATCH: a stage that depends on an open branch is dispatched ahead under R321; one that the window or the range
tables hold back waits and is counted. A stage without a branch of its own stands on its predecessors' predictions (log 35). -/
def execSpecDispatch (launch stage : Nat) (s : State) : Host.Outcome State Fault Refusal :=
  let s := skipStages launch s
  match launchOf launch s with
  | none => .next s
  | some l =>
    match stageRecord l stage s, versionOf l.graph l.version s with
    | some r, some v =>
      let branches := openBranches l v stage
      if stagePhase l stage ≠ .waiting ∨ mayDispatch l stage s = false ∨ aheadStage l r v s = false then .next s
      else match stageSet l branches s with
        | none => .next s
        | some set =>
          if windowRoom l s = false then .next (count Cnt.windowWaits 1 s)
          else match idFor set s with
            | none => .next s
            | some id =>
              let rs := stageRanges v stage id
              if rangesFit rs s then .next (dispatchAhead l r id set rs ((keptStages l s).contains stage) s)
              else .next (count Cnt.regionWaits 1 s)
    | _, _ => .next s

/-! Release of ranges and of the table (R329, R323). -/

/-- The rows of a range return zeros until written again. -/
def clearRange (r : ProvRange) (s : State) : State :=
  if r.staging then
    let k := stagingKey r.place r.offset
    { s with mem := { s.mem with staging := memZero s.mem.staging k (k + r.length) } }
  else
    let k := sramKey r.place r.offset
    { s with mem := { s.mem with sram := memZero s.mem.sram k (k + r.length) } }

/-- RANGE_INVALIDATE: the ranges of a squashed ID, whose agents have stopped, leave the tables and their rows are
invalidated; the ID is free again. -/
def execRangeInvalidate (spec : Nat) (s : State) : Host.Outcome State Fault Refusal :=
  if s.runahead.ids.any (fun i => i.id == spec && i.squashed) ∧ s.streaming.transfers.any (fun t => t.spec == spec) = false then
    let s := (s.runahead.ranges.filter (fun r => r.spec == spec)).foldl (fun s r => clearRange r s) s
    .next { s with runahead := { s.runahead with
      ids := s.runahead.ids.filter (fun i => i.id != spec), ranges := s.runahead.ranges.filter (fun r => r.spec != spec) } }
  else .next s

/-- What a write of 1 to PREDICT_RESET does. -/
def predictResetAction (_ : ReqId) (bytes : List Byte) (s : State) : State :=
  endCmd Ent.predictReset stOk 0
    (if leAt bytes 0 1 = 0 then s else { s with runahead := { s.runahead with predictions := [] } })

/-- PREDICT_RESET. -/
def execPredictReset (req : ReqId) (value : Nat) (s : State) : Host.Outcome State Fault Refusal :=
  .next (cmdVia predictResetAction req 0x2550 9 (leBytes 1 value) s)

/-! What an exit timer and a job restart stop (R52, R54, R333). -/

/-- The work of a launch stopped by an exit timer: tasks and engine work of stages that R54 does not keep, whatever their ID,
and its live IDs that cover no kept stage. -/
def stopLaunch (launch : Nat) (s : State) : State :=
  match launchOf launch s with
  | none => s
  | some l =>
    let kept := keptStages l s
    let s := updLaunch launch (fun l => { l with exited := true }) s
    let mine := fun (i : SpecId) => !i.squashed && !i.kept && l.stages.any (fun x => x.spec == i.id)
    let s := (s.runahead.ids.filter mine).foldl (fun s i => squashId i.id s) s
    let s := stopWork (fun t => t.launch == some launch && !kept.contains t.stage) false s
    let s := stopEngines (fun o _ => o.launch == some launch && !kept.contains o.stage) s
    updLaunch launch (fun l => { l with stages := l.stages.map (fun x =>
      if kept.contains x.num || x.phase == .committed || x.phase == .skipped then x else { x with phase := .stopped }) }) s

end Sys2Proof.Machine
end

