-- ==== Sys2Proof/Machine/Service.lean ====
section
/-! DEFINITION. Serving requests without the host (02, R34 to R64; 19, R522): the Lorjo header, checks, reassembly, binding,
the result cache, admission, early exit, responses and their pacing; and the completion of launches (R289). -/

namespace Sys2Proof.Machine

open Sys2Proof

/-! The header (R35, R43). -/

/-- Word k of a Lorjo header. -/
def hw (bs : List Byte) (k : Nat) : Nat := beAt bs (8 * k) 8

/-- The header of a datagram (Table 2.1). -/
def parseLorjo (bs : List Byte) : LorjoHdr :=
  let w0 := hw bs 0
  let w2 := hw bs 2
  let w5 := hw bs 5
  { ver := field w0 47 44, typ := field w0 43 40, secure := bitOf w0 39, cacheable := bitOf w0 38, exitOk := bitOf w0 37,
    candsU64 := bitOf w0 36, rsvd := field w0 35 32 + field w0 21 14 + field w5 34 32, segNo := field w0 31 27,
    segLast := field w0 26 22, segLen := field w0 13 0, requestId := hw bs 1, modelId := field w2 63 32,
    topK := field w2 31 16, candCount := field w2 15 0, budgetNs := field (hw bs 3) 63 32, keyId := field (hw bs 3) 31 0,
    sessionId := if field w0 47 44 = 1 then 0 else hw bs 4 }

/-- The 48 bytes of a header, with a CRC field. -/
def lorjoBytes (h : LorjoHdr) (crc : Nat) : List Byte :=
  let b := fun (c : Bool) (i : Nat) => if c then 2 ^ i else 0
  beBytes 8 (0x4C4A * 2 ^ 48 + h.ver * 2 ^ 44 + h.typ * 2 ^ 40 + b h.secure 39 + b h.cacheable 38 + b h.exitOk 37 +
    b h.candsU64 36 + h.segNo * 2 ^ 27 + h.segLast * 2 ^ 22 + h.segLen) ++
  beBytes 8 h.requestId ++ beBytes 8 (h.modelId * 2 ^ 32 + h.topK * 2 ^ 16 + h.candCount) ++
  beBytes 8 (h.budgetNs * 2 ^ 32 + h.keyId) ++ beBytes 8 h.sessionId ++
  beBytes 8 (h.status * 2 ^ 56 + h.reason * 2 ^ 48 + h.exitPoint * 2 ^ 40 + b h.torn 39 + b h.saturated 38 +
    b h.boundVoid 37 + b h.late 36 + b h.cached 35 + crc)

/-- CRC verifies over the header with its CRC taken as 0 and every byte that follows. -/
def lorjoCrcOk (bs : List Byte) : Bool :=
  (crc32c (slice bs 0 44 ++ List.replicate 4 0 ++ bs.drop 48)).toNat == beAt bs 44 4

/-- The nonce of a secure message: direction, SEG_NO, KEY_ID[25:0], REQUEST_ID (R43). -/
def lorjoNonce (dir : Nat) (h : LorjoHdr) : List Byte :=
  beBytes 12 (dir * 2 ^ 95 + h.segNo * 2 ^ 90 + h.keyId % 2 ^ 26 * 2 ^ 64 + h.requestId)

/-- A message as it is sent: encrypted under a key, and with its CRC. The additional data is the header with CRC 0, as the
CRC covers the tag (log 38). -/
def sealLorjo (h : LorjoHdr) (key : Option (BitVec 256)) (payload : List Byte) : List Byte :=
  let h := { h with segLen := payload.length }
  let hdr := lorjoBytes h 0
  let body := match key with
    | some k => gcmSeal (digestBytes k) (lorjoNonce 1 h) hdr payload
    | none => payload
  lorjoBytes h (crc32c (hdr ++ body)).toNat ++ body

/-! Addresses and ports (R34, R454, R55). -/

/-- A port has an interface that is up. -/
def portUp (n : Nat) (s : State) : Bool := s.fabric.ifUp.any (fun i => i / 4 == n)

/-- A datagram that has reached a port is addressed to the Lorjo service. -/
def forService (port : Nat) (dst : Endpoint) (s : State) : Bool :=
  portUp port s && dst.port == ent Ent.udpPort s && (List.range 16).any (fun i => ifaceHolds i dst s)

/-- The one's complement sum of the 16-bit words of some bytes, first byte high, a last odd byte padded with 0. -/
def onesSum : List Byte → Nat → Nat
  | a :: b :: t, n => onesSum t (let m := n + a.toNat * 256 + b.toNat; if m < 65536 then m else m - 65535)
  | [a], n => let m := n + a.toNat * 256; if m < 65536 then m else m - 65535
  | [], n => n

/-- An endpoint's address as it stands in the UDP pseudo-header. -/
def addrBytes (e : Endpoint) : List Byte := beBytes (if e.v6 then 16 else 4) e.addr

/-- A datagram's UDP checksum verifies over pseudo-header, UDP header and data; a zero checksum is accepted over IPv4
(R34; PRESUMED from the UDP standard, log 152). -/
def udpSumOk (src dst : Endpoint) (bs : List Byte) (sum : BitVec 16) : Bool :=
  (sum == 0 && !src.v6) ||
  (sum != 0 &&
    onesSum (addrBytes src ++ addrBytes dst ++ beBytes 4 (bs.length + 8) ++ beBytes 4 17 ++ beBytes 2 src.port ++
      beBytes 2 dst.port ++ beBytes 2 (bs.length + 8) ++ beBytes 2 sum.toNat ++ bs) 0 == 65535)

/-- A port keeps a datagram: its frame and checksums are sound and it is not a fragment (R34, R39). -/
def frameSound (src dst : Endpoint) (bs : List Byte) (f : FrameCheck) : Bool :=
  f.fcsOk && f.ipOk && !f.fragment && udpSumOk src dst bs f.udpSum

/-- A frame that a port discards, and counts if it is up. -/
def discardFrame (port : Nat) (s : State) : State :=
  if portUp port s then { s with service := { s.service with portDiscards := updAt s.service.portDiscards port (· + 1) } }
  else s

/-! What the front end drops (R45). -/

/-- A binding has admitted requests that are not answered. -/
def bindingBusy (b : Nat) (s : State) : Bool := s.service.admitted.any (fun a => a.binding == b)

def bindingRun (b : Nat) (s : State) : BindingRun :=
  s.service.bindings.getD b
    { draining := false, serviceTimes := [], exitTimes := [], intervalSum := 0, intervalCount := 0, completions := 0,
      lastCompletion := none }

def updBinding (b : Nat) (f : BindingRun → BindingRun) (s : State) : State :=
  { s with service := { s.service with bindings := updAt s.service.bindings b f } }

/-- The service is on, or off with bindings still draining (R64). -/
def svcAnswers (s : State) : Bool := ent Ent.svcEnable s == 1 || s.service.bindings.any (·.draining)

/-- A secure REQUEST_ID is a replay under its slot (R44). -/
def isReplay (k : KeySlot) (id : Nat) : Bool :=
  k.accepted.contains id || (match k.highest with
    | some h => decide (id + 4096 ≤ h)
    | none => false)

/-- A REQUEST_ID accepted under a key slot. -/
def noteAccepted (h : LorjoHdr) (s : State) : State :=
  if h.secure = false then s
  else match alGet s.service.keySlots h.keyId with
    | none => s
    | some k =>
      let k := { k with
        highest := some (Nat.max h.requestId (k.highest.getD 0)), accepted := (h.requestId :: k.accepted).take 4096 }
      { s with service := { s.service with keySlots := alSet s.service.keySlots h.keyId k } }

/-- What the front end takes of a datagram; nonzero values of fields that a request holds 0 are ignored (DESIGN CHOICE, log
116): the header, the cleartext of its payload, and the key; none is dropped. -/
def acceptLorjo (bs : List Byte) (s : State) : Option (LorjoHdr × List Byte × Option (BitVec 256)) :=
  let h := parseLorjo bs
  if bs.length < 48 ∨ beAt bs 0 2 ≠ 0x4C4A ∨ lorjoCrcOk bs = false ∨ (h.ver ≠ 1 ∧ h.ver ≠ 2) ∨
      bitOf (ent Ent.versions s) (h.ver - 1) = false ∨ (h.typ ≠ 1 ∧ h.typ ≠ 3 ∧ h.typ ≠ 5) ∨ h.rsvd ≠ 0 ∨
      (h.secure = true ∧ h.ver = 1) ∨ svcAnswers s = false then none
  else if h.secure = false then some (h, bs.drop 48, none)
  else match alGet s.service.keySlots h.keyId with
    | none => none
    | some k =>
      if isReplay k h.requestId then none
      else (gcmOpen (digestBytes k.key) (lorjoNonce 0 h) (slice bs 0 44 ++ List.replicate 4 0) (bs.drop 48)).map
        (fun p => (h, p, some k.key))

/-! Responses (R46, R55 to R57). -/

/-- A request refused with a header-only RESPONSE (R46); while the job restarts every refusal of a request is RESTARTED with
RESTARTING, which comes first among the statuses that apply (R46, R63). -/
def refuse (a : Admitted) (status reason : Nat) (s : State) : State :=
  let cut := a.hdr.typ == 1 && s.job.state == jobRestarting
  count Cnt.refused 1
    (readyResp a (respHdr a.hdr 2 (if cut then stRestarted else status) (if cut then 9 else reason) 0) [] none s)

/-- The datagrams of a response: one segment in version 1; in version 2 none larger than the request's largest and 1,440
bytes (R57). -/
def respSegments (r : ReadyResp) : List (List Byte) :=
  let room := Nat.max r.maxSeg 1440 - 48 - (if r.key.isSome then 16 else 0)
  let n := if r.hdr.ver = 1 then 1 else Nat.max 1 ((r.payload.length + room - 1) / room)
  (List.range n).map (fun i =>
    sealLorjo { r.hdr with segNo := i, segLast := n - 1 } r.key
      (if n = 1 then r.payload else (r.payload.drop (room * i)).take room))

/-- The interface of a port by which a datagram leaves: one that is up and holds its source address, else the first that is up. -/
def ifaceFor (port : Nat) (src : Endpoint) (s : State) : Nat :=
  let up := s.fabric.ifUp.filter (fun i => i / 4 == port)
  ((up.find? (fun i => ifaceHolds i src s)).or up.head?).getD (4 * port)

/-- Datagrams sent from a port. -/
def sendFrom (port : Nat) (src dst : Endpoint) (ds : List (List Byte)) (s : State) : State :=
  ds.foldl (fun s b => sendLink (ifaceFor port src s) dst (.lorjo
    { link := { mac := 0, vlan := 0 }, port := port, src := src, dst := dst, dscp := ent Ent.respDscp s, bytes := b, at_ := s.now })
    s) s

/-! Sections (R40 to R42). -/

/-- The sections of a payload: TYPE, PARAM, body; none where one overruns it. -/
def sectionsOf : Nat → List Byte → Option (List (Nat × Nat × List Byte))
  | 0, bs => if bs.isEmpty then some [] else none
  | n + 1, bs =>
    if bs.isEmpty then some []
    else
      let len := leAt bs 4 4
      if bs.length < 8 + alignUp len 8 then none
      else (sectionsOf n (bs.drop (8 + alignUp len 8))).map (fun t => (leAt bs 0 2, leAt bs 2 2, slice bs 8 len) :: t)

/-- Candidate IDs of a payload. -/
def candidatesOf (h : LorjoHdr) (payload : List Byte) : List Nat :=
  (entriesOf (if h.candsU64 then 8 else 4) ((sectionBodies 1 payload.length payload).foldr (· ++ ·) [])).map ofLe

/-- The feature map of the graph version a request binds to. -/
def featureMapOf (a : Admitted) (s : State) : List Byte := ((versionOf a.graph a.version s).map (·.featureMap)).getD []

/-- A request's structure breaks R41. Several CANDIDATES sections are taken together: their lengths are summed against
CAND_COUNT, their bodies concatenated (DESIGN CHOICE, log 116). -/
def malformed (a : Admitted) (s : State) : Bool :=
  let h := a.hdr
  match sectionsOf (a.payload.length + 1) a.payload with
  | none => true
  | some secs =>
    let sparse := (secs.filter (fun x => x.1 == 2)).map (·.2.1)
    secs.any (fun x => x.1 == 0 || decide (5 < x.1)) ||
    (Config.requiredSections (featureMapOf a s)).any (fun r => secs.all (fun x => !(x.1 == r.1 && x.2.1 == r.2))) ||
    sparse.eraseDups.length != sparse.length ||
    ((secs.filter (fun x => x.1 == 1)).map (·.2.2.length)).foldl (· + ·) 0 != h.candCount * (if h.candsU64 then 8 else 4) ||
    decide (Config.maxCandidates (featureMapOf a s) < h.candCount) || h.topK == 0 || decide (512 < h.topK) ||
    (h.sessionId == 0 && secs.any (fun x => x.1 == 4))

/-- A payload has a section of a type. -/
def hasSection (typ : Nat) (payload : List Byte) : Bool := !(sectionBodies typ payload.length payload).isEmpty

/-- The order of F32 codes as scores, -0 equal to +0. -/
def scoreKey (b : BitVec 32) : Int := if b.toNat < 2 ^ 31 then (b.toNat : Int) else -((b.toNat - 2 ^ 31 : Nat) : Int)

/-- An entry placed behind every entry of at least its score. -/
def insertScore (x : Nat × BitVec 32) : List (Nat × BitVec 32) → List (Nat × BitVec 32)
  | [] => [x]
  | y :: t => if scoreKey y.2 < scoreKey x.2 then x :: y :: t else y :: insertScore x t

/-- The RESULTS section of an exit point (R42, R52): request order with score 0.0 at exit point 0, else the scores, highest
first. -/
def resultsOf (a : Admitted) (exit_ : Nat) : List Byte :=
  let ids := candidatesOf a.hdr a.payload
  let ranked : List (Nat × BitVec 32) :=
    if exit_ = 0 then (List.range ids.length).map (fun p => (p, 0))
    else (List.range ids.length).foldl (fun l p => insertScore (p, Config.score a.seq exit_ p) l) []
  let top := ranked.take a.hdr.topK
  leBytes 2 0x0101 ++ leBytes 2 0 ++ leBytes 4 (16 * top.length) ++
  top.flatMap (fun x => leBytes 16 (x.1 * 2 ^ 96 + x.2.toNat * 2 ^ 64 + ids.getD x.1 0))

/-- Entries of a RESULTS section. -/
def resultCount (section_ : List Byte) : Nat := leAt section_ 4 4 / 16

/-! Binding (R48). -/

/-- A binding's entry. -/
def bEnt (base b : Nat) (s : State) : Nat := ent (base + 256 * b) s

/-- The graph a binding's requests launch: the lowest-numbered launchable graph of its context (log 39). -/
def serviceGraph (context : Nat) (s : State) : Option Graph :=
  let gs := s.dispatch.graphs.filter (fun g => g.context == context && !g.unloading && (versionOf g.id g.current s).isSome)
  gs.find? (fun g => gs.all (fun x => decide (g.id ≤ x.id)))

/-- The binding a request binds to and why it is refused at this check: a reason of Table 2.6, 0 for none. A binding matches
on its model and a resident context (R48); bound to a context without a launchable graph, the request is refused
NO_CONTEXT (R531, log 39). -/
def bindTo (h : LorjoHdr) (s : State) : Nat × Nat :=
  let hits := (List.range 16).filter (fun b =>
    bEnt Ent.bindingModelId b s == h.modelId && (contextOf (bEnt Ent.bindingContext b s) s).isSome)
  let on := ent Ent.svcEnable s == 1
  let live := hits.filter (fun b => bEnt Ent.bindingEnable b s == 1 && !(bindingRun b s).draining && on)
  let drain := hits.filter (fun b => (bindingRun b s).draining || (bEnt Ent.bindingEnable b s == 1 && !on))
  match live ++ drain with
  | [] => (0, 1)
  | b :: _ =>
    if live.isEmpty = false ∧ (serviceGraph (bEnt Ent.bindingContext b s) s).isNone = true then (b, 1)
    else if bitOf (bEnt Ent.bindingVersions b s) (h.ver - 1) = false then (b, 2)
    else if h.secure = false ∧ ent Ent.requireSecure s = 1 then (b, 3)
    else if live.isEmpty then (b, 8) else (b, 0)

/-! The result cache (R61, R62). -/

/-- A request may use the cache. -/
def cacheable (a : Admitted) (s : State) : Bool :=
  s.service.cacheOn && decide (8 ≤ s.service.cacheEntries) && a.hdr.cacheable && a.hdr.sessionId == 0 && !hasSection 4 a.payload

/-- The cache key: 128 bits of SHAKE256 over the items of R62, each little-endian (log 40). -/
def cacheKeyOf (a : Admitted) : BitVec 128 :=
  BitVec.ofNat 128 (ofLe (shake 16 (leBytes 4 a.hdr.modelId ++ leBytes 1 a.binding ++ leBytes 2 a.version ++ leBytes 8 a.epoch ++
    leBytes 2 a.hdr.topK ++ leBytes 2 a.hdr.candCount ++ leBytes 1 (if a.hdr.candsU64 then 1 else 0) ++ a.payload)))

/-- The cached entry of a key, if it is not too old. -/
def cacheLook (key : BitVec 128) (s : State) : Option CacheEntry :=
  s.service.cache.find? (fun e => e.key == key && decide (s.now ≤ e.storedAt + ent Ent.cacheTtlNs s))

/-- An entry moved or put to the front; the least recently used of a full set leaves. -/
def cachePut (e : CacheEntry) (s : State) : State :=
  let rest := s.service.cache.filter (fun x => x.key != e.key)
  let mine := rest.filter (fun x => x.set == e.set)
  let rest := match if mine.length < 8 then none else mine.getLast? with
    | some old => rest.erase old
    | none => rest
  { s with service := { s.service with cache := { e with lastUse := s.now } :: rest } }

/-! Admission (R49 to R51, R253, R522). -/

/-- Admitted requests of a binding whose result is not yet ready. -/
def aheadOf (b : Nat) (s : State) : Nat :=
  s.service.admitted.countP (fun a => a.binding == b && s.service.ready.all (fun r => r.request != some a.seq))

/-- A measurement counts only after 64 completions (R48), and reads 0 before (log 198). -/
def measuredService (b : Nat) (s : State) : Nat :=
  let r := bindingRun b s
  if r.completions < 64 then 0 else median r.serviceTimes
def measuredExit (b : Nat) (s : State) : Nat :=
  let r := bindingRun b s
  if r.completions < 64 then 0 else median r.exitTimes
def measuredInterval (b : Nat) (s : State) : Nat :=
  let r := bindingRun b s
  if r.completions < 64 ∨ r.intervalCount = 0 then 0 else r.intervalSum / r.intervalCount

/-- A configured value, or the module's own measurement where it is 0. -/
def orMeasured (v m : Nat) : Nat := if v = 0 then m else v

/-- The wake time of the deepest state among a context's groups (R49, Table 1.6); of a group already waking, what remains
(R510). -/
def contextWake (context : Nat) (s : State) : Nat :=
  match contextOf context s with
  | none => 0
  | some c =>
    ((setBits 16 c.cgMask.toNat).map (fun g => wakeLeft g (settleGroups s))).foldl Nat.max 0

/-- avail and the two estimates of R49: to the last stage and to EXIT_MIN. -/
def admitEstimate (a : Admitted) (s : State) : Int × Nat × Nat :=
  let b := a.binding
  let ahead := aheadOf b s * orMeasured (bEnt Ent.bindingIntervalNs b s) (measuredInterval b s)
  let wake := contextWake a.context s
  (((a.deadline - a.arrived : Nat) : Int) - (ent Ent.admitMarginNs s : Nat),
    ahead + orMeasured (bEnt Ent.bindingEstServiceNs b s) (measuredService b s) + wake,
    ahead + orMeasured (bEnt Ent.bindingExitEstNs b s) (measuredExit b s) + wake)

/-- The Bivouac's estimate (R522). -/
def bivEstimate (s : State) : Nat :=
  if ent Ent.bivEstNs s ≠ 0 then ent Ent.bivEstNs s
  else if s.power.bivTimes.length < 16 then 50000 else median s.power.bivTimes

/-- The Bivouac graph: the graph BIV_GRAPH of the context of BIV_BINDING's binding. -/
def bivGraphOf (s : State) : Option (Graph × GraphVersion) :=
  match graphOf (ent Ent.bivGraph s) s with
  | none => none
  | some g =>
    if ent Ent.bivBinding s < 16 ∧ bEnt Ent.bindingContext (ent Ent.bivBinding s) s = g.context then
      (currentOf g).map (fun v => (g, v))
    else none

/-- The Bivouac holds the current version of its graph (R521, R522). -/
def bivHolds (s : State) : Bool :=
  s.power.bivState == 2 && (bivGraphOf s).any (fun p => p.2.num == s.power.bivVersion && p.1.stamp == s.power.bivStamp)

/-- The Bivouac serves a request that R49 refuses with BUDGET_SHORT. -/
def bivServes (a : Admitted) (avail : Int) (s : State) : Bool :=
  ent Ent.bivEnable s == 1 && ent Ent.bivBinding s == a.binding && a.hdr.exitOk &&
  decide ((bivEstimate s : Int) ≤ avail) && bivHolds s &&
  decide (s.service.admitted.countP (·.bivouac) < 16)

/-- Events added to a session's pending join, or a new join queued (R253). -/
def holdEvents (a : Admitted) (s : State) : State :=
  let hold := ent Ent.joinHoldEvents s
  let mine := fun (p : PendingJoin) => p.session == a.hdr.sessionId && p.context == a.context
  let old := ((s.sequences.joins.find? mine).map (·.events)).getD []
  let all := old ++ appendEvents a.payload
  let lost := all.length - hold
  let s := if lost = 0 then s else count Cnt.heldDropped lost s
  let events := all.drop lost
  { s with sequences := { s.sequences with
    joins := if s.sequences.joins.any mine then
        updFirst mine (fun p => { p with events := events, lastRequest := s.now }) s.sequences.joins
      else s.sequences.joins ++
        [{ session := a.hdr.sessionId, context := a.context, graph := a.graph, events := events, lastRequest := s.now,
           deferred := false }] } }

/-- A request's session has had a request (R254, R255). -/
def noteSession (a : Admitted) (s : State) : State :=
  { s with sequences := { s.sequences with
    sessions := s.sequences.sessions.map (fun x =>
      if x.id = a.hdr.sessionId ∧ x.context = a.context then { x with lastRequest := s.now } else x),
    joins := s.sequences.joins.map (fun p =>
      if p.session = a.hdr.sessionId ∧ p.context = a.context then { p with lastRequest := s.now } else p) } }

/-- A launch of the Bivouac graph begun at admission. -/
def launchBivouac (a : Admitted) (s : State) : State :=
  let id := s.dispatch.nextLaunch
  let s := beginLaunch a.queue a.graph a.version a.epoch none (some a.seq) a.hdr.sessionId a.payload false s
  bindRequest id a.seq (updLaunch id (fun l =>
    { l with biv := true, argAt := Config.argOffset id % Nat.max 1 (0x80001 - a.payload.length) }) s)

/-- A request admitted: its events held for a join, the wake of its groups started, its launch command built; one that the Bivouac
serves is bound to the Bivouac graph (R522). -/
def admitRequest (a : Admitted) (exitAt : Option Nat) (biv : Bool) (s : State) : State :=
  let joins := a.hdr.sessionId != 0 && hasSection 4 a.payload && (sessionOf a.context a.hdr.sessionId s).isNone &&
    ((versionOf a.graph a.version s).bind (·.sequence)).isSome
  let buffer : Option Nat := if a.payload.length ≤ 256 then none
    else (List.range 1024).find? (fun b => !s.service.buffersUsed.contains b)
  let a := { a with exitAt := exitAt, bivouac := biv, joined := joins, buffer := buffer }
  let a := match if biv then bivGraphOf s else none with
    | some (g, v) => { a with graph := g.id, version := v.num }
    | none => a
  let s := if a.hdr.sessionId = 0 then s else noteSession a s
  let s := if joins then holdEvents a s else s
  let s := count Cnt.admitted 1 { s with service := { s.service with
    admitted := s.service.admitted ++ [a], nextSeq := s.service.nextSeq + 1,
    buffersUsed := match buffer with
      | some b => s.service.buffersUsed ++ [b]
      | none => s.service.buffersUsed } }
  let s := match buffer with
    | some b => moduleWrite 6 (bufferAt b s) a.payload s
    | none => s
  let groups : List Nat := match contextOf a.context s with
    | some c => setBits 16 c.cgMask.toNat
    | none => []
  let s := groups.foldl (fun s g => wakeOnDemand g s) s
  if biv then launchBivouac a s
  else if (queueOf a.queue s).state = 1 ∨ (queueOf a.queue s).state = 2 then placeRequest a s else s

/-- The deadline check (R49): admitted, taken by the Bivouac, or refused. -/
def deadlineCheck (a : Admitted) (s : State) : State :=
  let e := admitEstimate a s
  let arm := a.hdr.exitOk && bEnt Ent.bindingAdmitPolicy a.binding s == 1
  let timer := a.deadline - bEnt Ent.bindingExitReserveNs a.binding s
  if (e.2.1 : Int) ≤ e.1 then admitRequest a (if arm then some timer else none) false s
  else if arm ∧ (e.2.2 : Int) ≤ e.1 then admitRequest a (some timer) false s
  else if bivServes a e.1 s then admitRequest a none true s
  else refuse a stTimeout 6 s

/-- Checks 3 to 7 of R47 for a complete request. -/
def serveRequest (a : Admitted) (s : State) : State :=
  if s.job.state = jobRestarting then refuse a stRestarted 9 s
  else
    let p := bindTo a.hdr s
    if p.2 ≠ 0 then refuse a stDenied p.2 s
    else
      let context := bEnt Ent.bindingContext p.1 s
      match serviceGraph context s with
      | none => refuse a stDenied 1 s
      | some g =>
        let budget := if a.hdr.budgetNs = 0 then bEnt Ent.bindingDefaultBudgetNs p.1 s else a.hdr.budgetNs
        let a := { a with
          binding := p.1, context := context, queue := bEnt Ent.bindingQueue p.1 s, graph := g.id, version := g.current,
          epoch := s.updates.epoch, deadline := a.arrived + budget, exitMin := bEnt Ent.bindingExitMin p.1 s }
        if malformed a s then refuse a stDenied 4 s
        else
          let key := if cacheable a s then some (cacheKeyOf a) else none
          let a := { a with cacheKey := key }
          match key.bind (fun k => cacheLook k s) with
          | some e =>
            readyResp a { respHdr a.hdr 2 stOk 0 (resultCount e.results) with cached := true, exitPoint := e.exitPoint }
              e.results none (cachePut e s)
          | none =>
            if bEnt Ent.bindingQueueLimit p.1 s ≤ s.service.admitted.countP (fun x => x.binding == p.1) ∨
                (256 < a.payload.length ∧ 1024 ≤ s.service.buffersUsed.length) then refuse a stTimeout 5 s
            else deadlineCheck a s

/-! Segments (R38, R39, R46). -/

/-- A request as it stands before its binding. -/
def draftRequest (port : Nat) (src dst : Endpoint) (h : LorjoHdr) (payload : List Byte) (maxSeg : Nat)
    (key : Option (BitVec 256)) (s : State) : Admitted :=
  { seq := s.service.nextSeq, hdr := h, src := src, dst := dst, port := port, binding := 0, context := 0, queue := 0,
    arrived := s.now, deadline := s.now + (if h.budgetNs = 0 then 200000 else h.budgetNs), exitAt := none,
    exitChosen := none, key := key, graph := 0, version := 0, epoch := 0, payload := payload, buffer := none,
    cacheKey := none, maxSeg := maxSeg, exitMin := 0, joined := false, launch := none, launchedAt := 0, bivouac := false }

/-- A segment's request: that of its REQUEST_ID from its source address and port (R38; log 197). -/
def sameRequest (src : Endpoint) (id : Nat) (r : Reassembly) : Bool := r.src == src && r.hdr.requestId == id

def putReassembly (r : Reassembly) (s : State) : State :=
  { s with service := { s.service with
    reassembly := s.service.reassembly.filter (fun x => !sameRequest r.src r.hdr.requestId x) ++ [r] } }

/-- Two segments' headers agree where R38 wants them identical. -/
def sameHeader (x y : LorjoHdr) : Bool :=
  x.ver == y.ver && x.typ == y.typ && x.secure == y.secure && x.cacheable == y.cacheable && x.exitOk == y.exitOk &&
  x.candsU64 == y.candsU64 && x.modelId == y.modelId && x.topK == y.topK && x.candCount == y.candCount &&
  x.budgetNs == y.budgetNs && x.keyId == y.keyId && x.sessionId == y.sessionId && x.segLast == y.segLast

/-- Every segment of a request has arrived. -/
def wholeRequest (r : Reassembly) : Bool := r.segs.length == r.hdr.segLast + 1

/-- A REQUEST segment that passed R45. One whose SEG_LEN is not the length of its payload, or whose SEG_NO exceeds SEG_LAST,
makes its request MALFORMED (DESIGN CHOICE, log 116). -/
def takeSegment (port : Nat) (src dst : Endpoint) (h : LorjoHdr) (payload : List Byte) (len : Nat)
    (key : Option (BitVec 256)) (s : State) : State :=
  let old : Option Reassembly := s.service.reassembly.find? (sameRequest src h.requestId)
  let dup := old.any (fun r => r.segs.any (fun g => g.1 == h.segNo) && sameHeader r.hdr h)
  if old.any (·.malformed) ∨ dup = true then s
  else
    let fresh : Reassembly :=
      { src := src, dst := dst, port := port, key := key, hdr := h, startedAt := s.now, segs := [], maxSeg := 0,
        malformed := false }
    let r := match old with
      | some r => if wholeRequest r then fresh else { r with dst := dst, port := port, key := key }
      | none => fresh
    let segs : List (Nat × List Byte) := r.segs ++ [(h.segNo, payload)]
    let total : Nat := (segs.map (fun g => g.2.length)).foldl (· + ·) 0
    let maxSeg := Nat.max r.maxSeg len
    let bad := decide (8944 < len) || payload.length != h.segLen || decide (h.segLast < h.segNo) || !sameHeader r.hdr h ||
      (h.ver == 1 && h.segLast != 0) || decide (131072 < total)
    if bad then
      let s := refuse (draftRequest port src dst h [] maxSeg key s) stDenied 4 s
      if h.segLast = 0 ∧ old.isNone then s else putReassembly { r with malformed := true } s
    else
      let r := { r with segs := segs, maxSeg := maxSeg }
      let s := if h.segLast = 0 then s else putReassembly r s
      if wholeRequest r then
        let all := ((List.range (h.segLast + 1)).filterMap (fun i => alGet segs i)).foldr (· ++ ·) []
        serveRequest (draftRequest port src dst h all maxSeg key s) (noteAccepted h s)
      else s

/-- LORJO_SEGMENT_RX: a datagram that is no KEEPALIVE and no PROBE. LORJO_RX and LORJO_DROPPED count each datagram, so each
segment, as one message (DESIGN CHOICE, log 153). -/
def execLorjoSegmentRx (port : Nat) (src dst : Endpoint) (datagram : Received) (s : State) : Host.Outcome State Fault Refusal :=
  if 4 ≤ port then .fault .noSuchUnit
  else if frameSound src dst datagram.bytes datagram.frame = false then .next (discardFrame port s)
  else
    let typ := (parseLorjo datagram.bytes).typ
    if forService port dst s = false ∨ typ = 3 ∨ typ = 5 then .next s
    else
      let s := count Cnt.lorjoRx 1 s
      .next (match acceptLorjo datagram.bytes s with
        | none => count Cnt.lorjoDropped 1 s
        | some (h, payload, key) => takeSegment port src dst h payload datagram.bytes.length key s)

/-- REASSEMBLY_TIMEOUT: REASSEMBLY_NS after the first segment; a request found MALFORMED or complete before is forgotten. -/
def execReassemblyTimeout (src : Endpoint) (requestId : BitVec 64) (s : State) : Host.Outcome State Fault Refusal :=
  .next (match s.service.reassembly.find? (sameRequest src requestId.toNat) with
    | none => s
    | some r =>
      if s.now < r.startedAt + ent Ent.reassemblyNs s then s
      else
        let s := { s with service := { s.service with reassembly := s.service.reassembly.erase r } }
        if r.malformed ∨ wholeRequest r = true then s
        else
          refuse (draftRequest r.port r.src r.dst r.hdr [] r.maxSeg r.key s) stTimeout 7 s)

/-! KEEPALIVE and PROBE (R58, R60). -/

/-- The p-th thousandth of a list of times by nearest rank (log 41). -/
def percentile (p : Nat) (ts : List Nat) : Nat := (sortNats ts).getD ((ts.length * p + 999) / 1000 - 1) 0

/-- Groups that are clock-gated or running. -/
def cgOnMask (s : State) : Nat :=
  ((List.range 16).filter (fun g => decide ((s.power.groups.getD g GroupPower.reset).code ≤ 1))).foldl (fun a g => a + 2 ^ g) 0

/-- Responses sent in the last full second. -/
def lastRate (s : State) : Nat :=
  let sec := s.now / 1000000000
  if s.service.rateSecond = sec then s.service.responsesLast
  else if s.service.rateSecond + 1 = sec then s.service.responsesThis else 0

/-- STATE of a PROBE_REPLY. DRAINING while SVC_ENABLE is 0 or the job is being undeployed, before SLEEPING (DESIGN CHOICE, log
41). -/
def probeState (s : State) : Nat :=
  if s.job.state = jobRestarting then 2
  else if ent Ent.svcEnable s = 0 ∨ s.job.state = jobUndeploying then 3
  else if cgOnMask s = 0 then 1 else 0

/-- PROBE_DATA (Table 2.9), with its section header. -/
def probeData (s : State) : List Byte :=
  leBytes 2 0x0102 ++ leBytes 2 0 ++ leBytes 4 32 ++
  leBytes 32 (s.now % 2 ^ 64 * 2 ^ 192 + percentile 990 s.service.serviceTimes % 2 ^ 32 * 2 ^ 160 +
    percentile 999 s.service.serviceTimes % 2 ^ 32 * 2 ^ 128 + lastRate s % 2 ^ 32 * 2 ^ 96 +
    s.service.admitted.length % 2 ^ 16 * 2 ^ 80 + cgOnMask s * 2 ^ 64 + probeState s)

/-- A KEEPALIVE or PROBE that reached the service. -/
def answerLiveness (typ port : Nat) (src dst : Endpoint) (datagram : Received) (s : State) :
    Host.Outcome State Fault Refusal :=
  if 4 ≤ port then .fault .noSuchUnit
  else if frameSound src dst datagram.bytes datagram.frame = false then .next (discardFrame port s)
  else if forService port dst s = false ∨ (parseLorjo datagram.bytes).typ ≠ typ then .next s
  else
    let s := count Cnt.lorjoRx 1 s
    .next (match acceptLorjo datagram.bytes s with
      | none => count Cnt.lorjoDropped 1 s
      | some (h, _, key) =>
        let s := noteAccepted h s
        if typ = 5 ∧ h.secure = false ∧ ent Ent.requireSecure s = 1 then
          refuse (draftRequest port src dst h [] datagram.bytes.length key s) stDenied 3 s
        else if typ = 5 then sendFrom port dst src [sealLorjo (respHdr h 6 stOk 0 0) key (probeData s)] s
        else sendFrom port dst src [sealLorjo (respHdr h 4 stOk 0 0) key []] s)

/-- KEEPALIVE. -/
def execKeepalive (port : Nat) (src dst : Endpoint) (datagram : Received) (s : State) : Host.Outcome State Fault Refusal :=
  answerLiveness 3 port src dst datagram s

/-- PROBE. -/
def execProbe (port : Nat) (src dst : Endpoint) (datagram : Received) (s : State) : Host.Outcome State Fault Refusal :=
  answerLiveness 5 port src dst datagram s

/-! The end of a launch (R289, R52 to R54, Table 2.11). -/

/-- The highest exit point among stages, 0 where there is none. -/
def exitOf (l : Launch) (p : StageState → Bool) (s : State) : Nat :=
  (l.stages.filterMap (fun x => if p x then (stageRecord l x.num s).map stageExit else none)).foldl
    (fun a e => if e = 0xFF then a else Nat.max a e) 0

/-- The highest exit point committed, and the graph's last. -/
def committedExit (l : Launch) (s : State) : Nat := exitOf l (fun x => x.phase == .committed) s
def topExit (l : Launch) (s : State) : Nat := exitOf l (fun _ => true) s

/-- A task of a launch has not ended. -/
def launchTasks (id : Nat) (s : State) : Bool :=
  s.control.any (fun k => k.task.any (fun t => t.launch == some id)) || s.dispatch.tasks.any (fun p => p.task.launch == some id)

/-- An admitted request's answer becomes ready: the result of its exit point. -/
def answerRequest (a : Admitted) (status exit_ : Nat) (torn sat bv : Bool) (s : State) : State :=
  let body := resultsOf a exit_
  readyResp a { respHdr a.hdr 2 status 0 (resultCount body) with
    exitPoint := exit_, torn := torn, saturated := sat, boundVoid := bv } body (some a.seq) s

/-- A binding's measurements after a completion: its launch times and the interval while its queue is not empty. -/
def measureBinding (a : Admitted) (service exit_ : Option Nat) (s : State) : State :=
  let more := decide (1 < aheadOf a.binding s)
  let put := fun (t : Option Nat) (l : List Nat) => match t with
    | some t => (t :: l).take 1024
    | none => l
  updBinding a.binding (fun r => { r with
    serviceTimes := put service r.serviceTimes, exitTimes := put exit_ r.exitTimes, completions := r.completions + 1,
    intervalSum := match r.lastCompletion with
      | some t => r.intervalSum + (s.now - t)
      | none => r.intervalSum,
    intervalCount := if r.lastCompletion.isSome then r.intervalCount + 1 else r.intervalCount,
    lastCompletion := if more then some s.now else none }) s

/-- The launch of a request has ended: the answer, and what it measures, the times at which its last stage and the stage of
EXIT_MIN committed. -/
def endRequest (l : Launch) (a : Admitted) (exit_ : Nat) (ok : Bool) (s : State) : State :=
  let reached := fun (e : Nat) => (l.stages.find? (fun x => x.phase == .committed &&
    (stageRecord l x.num s).any (fun r => stageExit r == e))).map (fun x => x.committedAt - l.startedAt)
  if a.bivouac then answerRequest a stEarlyExit 0xFE l.torn l.saturated l.boundVoid s
  else
    answerRequest a (if ok then stOk else stEarlyExit) exit_ l.torn l.saturated l.boundVoid
      (measureBinding a (reached (topExit l s)) (reached a.exitMin) s)

/-- A launch ends: its command completes and its request is answered. -/
def endLaunch (l : Launch) (s : State) : State :=
  let req := requestOf l s
  let top := topExit l s
  let exit_ := ((req.bind (·.exitChosen)).getD (committedExit l s))
  let ok := !l.exited || exit_ == top
  let s := { s with dispatch := { s.dispatch with launches := s.dispatch.launches.filter (fun x => x.id != l.id) } }
  let s := updGraph l.graph (fun g => { g with
    versions := updFirst (fun x => x.num == l.version) (fun x => { x with running := x.running - 1 }) g.versions }) s
  let s := match l.cmd with
    | some id => updCmd l.queue id (fun c => { c with
        phase := .finished, status := if ok then stOk else stEarlyExit, result := launchWord l, saturated := l.saturated,
        boundVoid := l.boundVoid, torn := l.torn }) s
    | none => s
  let s := count Cnt.launches 1 s
  match req with
  | some a => endRequest l a exit_ ok s
  | none => s

/-- LAUNCH_COMPLETE. -/
def execLaunchComplete (launch : Nat) (s : State) : Host.Outcome State Fault Refusal :=
  let s := skipStages launch s
  match launchOf launch s with
  | some l => if launchDone l ∧ launchTasks launch s = false then .next (endLaunch l s) else .next s
  | none => .next s

/-- A request whose launch has not begun when its exit timer fires: exit point 0 is its result, unless its events are still
to be appended (R52, R54). -/
def exitBeforeLaunch (a : Admitted) (s : State) : State :=
  let s := updAdmitted a.seq (fun a => { a with exitChosen := some 0 }) s
  if a.joined = false ∧ hasSection 4 a.payload = true ∧ (sessionOf a.context a.hdr.sessionId s).isSome then s
  else
    let s := match (queueOf a.queue s).cmds.find? (fun c => c.request == some a.seq && c.phase == .fetched) with
      | some c => finishCmd a.queue c.id stEarlyExit 0 0 s
      | none => s
    answerRequest a stEarlyExit 0 false false false s

/-- EXIT_TIMER of an admitted request. -/
def execExitTimer (request : Nat) (s : State) : Host.Outcome State Fault Refusal :=
  .next (match s.service.admitted.find? (fun a => a.seq == request) with
    | none => s
    | some a =>
      match a.exitAt with
      | none => s
      | some t =>
        if s.now < t ∨ a.exitChosen.isSome ∨ s.service.ready.any (fun r => r.request == some request) then s
        else match a.launch.bind (fun l => launchOf l s) with
          | none => exitBeforeLaunch a s
          | some l =>
            if launchDone l then s
            else stopLaunch l.id (updAdmitted request (fun a => { a with exitChosen := some (committedExit l s) }) s))

/-! Transmission (R55, R56, R64). -/

/-- A request buffer free again. -/
def freeBuffer (b : Option Nat) (s : State) : State :=
  match b with
  | some b => { s with service := { s.service with buffersUsed := s.service.buffersUsed.filter (· != b) } }
  | none => s

/-- A request is answered: its buffer is free, and so is a draining binding that has no other. -/
def releaseRequest (seq : Nat) (s : State) : State :=
  match s.service.admitted.find? (fun a => a.seq == seq) with
  | none => s
  | some a =>
    let s := freeBuffer a.buffer
      { s with service := { s.service with admitted := s.service.admitted.filter (fun x => x.seq != seq) } }
    if bindingBusy a.binding s then s else updBinding a.binding (fun r => { r with draining := false }) s

/-- A response counted and its service time noted. -/
def noteResponse (r : ReadyResp) (late : Bool) (s : State) : State :=
  let sec := s.now / 1000000000
  let c := fun (b : Bool) (k : Nat) (s : State) => if b then count k 1 s else s
  let s := c (r.hdr.status == stEarlyExit) Cnt.earlyExits (c r.hdr.cached Cnt.cacheHits
    (c (r.hdr.status == stRestarted) Cnt.restartedAnswers (c late Cnt.lateResponses s)))
  let last := lastRate s
  { s with service := { s.service with
    serviceTimes := ((s.now - r.arrived) :: s.service.serviceTimes).take 65536, rateSecond := sec,
    responsesThis := if s.service.rateSecond = sec then s.service.responsesThis + 1 else 1, responsesLast := last } }

/-- The result of a response stored in the cache where R61 lets it. -/
def storeResult (r : ReadyResp) (a : Admitted) (late : Bool) (s : State) : State :=
  match a.cacheKey with
  | none => s
  | some k =>
    if r.hdr.status ≠ stOk ∨ r.hdr.torn = true ∨ r.hdr.saturated = true ∨ r.hdr.boundVoid = true ∨ late = true then s
    else cachePut { set := k.toNat % (s.service.cacheEntries / 8), key := k, results := r.payload, exitPoint := r.hdr.exitPoint,
                    storedAt := s.now, lastUse := s.now } s

/-- A response leaves a port. -/
def sendResp (port : Nat) (r : ReadyResp) (s : State) : State :=
  let late := decide (r.deadline < s.now)
  let ds := respSegments { r with hdr := { r.hdr with late := late } }
  let rate := ent Ent.respRateMbps s
  let bits := 8 * (ds.map List.length).foldl (· + ·) 0
  let s := sendFrom port r.dst r.src ds s
  let s := if rate = 0 then s else { s with service := { s.service with
    portFreeAt := s.service.portFreeAt.set port (s.now + bits * 1000 / rate) } }
  let s := freeBuffer r.buffer (noteResponse r late s)
  match r.request.bind (fun q => s.service.admitted.find? (fun a => a.seq == q)) with
  | none => s
  | some a =>
    let s := storeResult r a late s
    let s := if a.bivouac then
        let s := count Cnt.bivServed 1 (if late then count Cnt.bivLate 1 s else s)
        { s with power := { s.power with bivTimes := ((s.now - a.arrived) :: s.power.bivTimes).take 64 } }
      else s
    releaseRequest a.seq s

/-- The response of a port that leaves next: the earliest deadline, the first to be ready among equals. -/
def nextResp (port : Nat) (s : State) : Option ReadyResp :=
  let mine := s.service.ready.filter (fun r => r.port == port)
  mine.find? (fun r => mine.all (fun x => decide (r.deadline ≤ x.deadline)))

/-- RESPONSE_TRANSMIT: where the port is down, its next response moves to the lowest-numbered port that is up and carries
its address, or is dropped. -/
def execResponseTransmit (port : Nat) (s : State) : Host.Outcome State Fault Refusal :=
  if 4 ≤ port then .fault .noSuchUnit
  else match nextResp port s with
    | none => .next s
    | some r =>
      let out := fun (s : State) => { s with service := { s.service with ready := s.service.ready.erase r } }
      if moving s then .next s
      else if portUp port s then
        if s.now < s.service.portFreeAt.getD port 0 then .next s else .next (sendResp port r (out s))
      else match (List.range 4).find? (fun n => portUp n s &&
          (List.range 4).any (fun k => s.fabric.ifUp.contains (4 * n + k) && ifaceHolds (4 * n + k) r.dst s)) with
        | some n =>
          let s := out s
          .next { s with service := { s.service with ready := s.service.ready ++ [{ r with port := n }] } }
        | none =>
          let s := freeBuffer r.buffer (count Cnt.lorjoDropped 1 (out s))
          .next (match r.request with
            | some q => releaseRequest q s
            | none => s)

/-! Control (R44, R64, R506). -/

/-- A binding drains: at once free where it has no admitted request. -/
def drainBinding (b : Nat) (s : State) : State :=
  if bindingBusy b s then updBinding b (fun r => { r with draining := true }) s else s

/-- What a write of a binding's ENABLE does. -/
def bindingEnableAction (b : Nat) (_ : ReqId) (bytes : List Byte) (s : State) : State :=
  let v := ofLe bytes
  let old := bEnt Ent.bindingEnable b s
  let s := setEnt (Ent.bindingEnable + 256 * b) 1 v s
  let s := if old = v then s else wbSubmit 0x1001 b [v] s
  if v = 0 ∧ old = 1 then drainBinding b s else s

/-- BINDING_ENABLE. -/
def execBindingEnable (req : ReqId) (binding value : Nat) (s : State) : Host.Outcome State Fault Refusal :=
  if 16 ≤ binding then .fault .noSuchUnit
  else .next (writeVia (bindingEnableAction binding) req (0x2010 + binding) 5 (leBytes 1 value) s)

/-- What a write of SVC_ENABLE does. -/
def svcEnableAction (_ : ReqId) (bytes : List Byte) (s : State) : State :=
  let v := ofLe bytes
  let old := ent Ent.svcEnable s
  let s := setEnt Ent.svcEnable 1 v s
  let s := if old = v then s else wbSubmit 0x1001 noInst [v] s
  if v = 1 then switchNetOn s
  else (List.range 16).foldl (fun s b => drainBinding b s) s

/-- SVC_ENABLE. -/
def execSvcEnable (req : ReqId) (value : Nat) (s : State) : Host.Outcome State Fault Refusal :=
  .next (writeVia svcEnableAction req 0x2000 1 (leBytes 1 value) s)

/-- What a write of KEY_LOAD does: a slot installed afresh or revoked, and MS[9] extended with KEY_ID, action and the key's
digest. -/
def keyLoadAction (_ : ReqId) (bytes : List Byte) (s : State) : State :=
  let id := leAt bytes 0 4
  let key := slice bytes 8 32
  let s := wbSubmit 0x1002 id [leAt bytes 4 4] (measureBytes 9 9 (slice bytes 0 8 ++ digestBytes (shake256 key)) s)
  { s with service := { s.service with
    keySlots := if leAt bytes 4 4 = 1 then
        alSet s.service.keySlots id { key := BitVec.ofNat 256 (ofLe key), highest := none, accepted := [] }
      else alErase s.service.keySlots id } }

/-- KEY_LOAD. -/
def execKeyLoad (req : ReqId) (value : List Byte) (s : State) : Host.Outcome State Fault Refusal :=
  .next (writeVia keyLoadAction req 0x2000 0x0B value s)

end Sys2Proof.Machine
end

