-- ==== Sys2Proof/Machine/Legacy.lean ====
section
/-! DEFINITION. The ST320-compatible queue interface (12, R338 to R350): BAR4, format v2, its opcodes and completions; and
COMMAND_COMPLETION of native and legacy commands. -/

namespace Sys2Proof.Machine

open Sys2Proof

def updLegacy (f : Legacy → Legacy) (s : State) : State := { s with legacy := f s.legacy }

/-- LEGACY_QUEUE: the native queue that carries the interface (R338). -/
def legacyQ (s : State) : Nat := ent Ent.legacyQueue s

/-- Changes a legacy command in flight. -/
def updLeg (id : Nat) (f : Cmd → Cmd) (s : State) : State :=
  updLegacy (fun l => { l with cmds := updFirst (fun c => c.id == id) f l.cmds }) s

/-! Format v2 (R341, R342, R345). -/

/-- COND of a slot, and CORE of the opcodes that name one. -/
def legCond (c : Cmd) : Nat := cf c 0 41 40
def legCore (c : Cmd) : Nat :=
  if cmdOpcode c = 1 then cf c 3 31 24 else if cmdOpcode c = 2 then cf c 2 7 0 else cf c 3 7 0

/-- Cores of the context bound to the interface (R338). -/
def legCores (s : State) : List Nat :=
  match contextOf (queueContext (legacyQ s) s) s with
  | some x => maskCores x.cgMask.toNat
  | none => []

/-- A CORE that R345 refuses. -/
def badCore (core : Nat) (anyOk : Bool) (s : State) : Bool :=
  if core = 0xFF then !anyOk else !(legCores s).contains core || (matOf core s).failed

/-- A slot that breaks R345 as it is decoded. -/
def badLegacy (c : Cmd) (s : State) : Bool :=
  let op := cmdOpcode c
  cf c 0 51 48 != 2 || decide (6 < op) || cf c 0 47 42 != 0 || cf c 0 39 16 != 0 || cw c 4 != 0 || cw c 5 != 0 ||
  cw c 6 != 0 || cw c 7 != 0 ||
  (if op = 0 then legCond c != 0 || cw c 1 != 0 || cw c 2 != 0 || cw c 3 != 0
   else if op = 1 then legCond c != 0 || cf c 3 63 32 != 0 || cf c 3 23 0 == 0 || badCore (legCore c) true s
   else if op = 2 then legCond c != 0 || cw c 1 % 64 != 0 || cf c 2 63 8 != 0 || cw c 3 != 0 || badCore (legCore c) true s
   else if op = 3 then legCond c != 0 || cf c 1 63 32 != 0 || cf c 2 63 32 != 0 || cf c 3 63 8 != 0 || badCore (legCore c) false s
   else if op = 4 then legCond c != 0 || cf c 1 31 0 != 0 || decide (1023 < cf c 1 63 48) || cf c 3 63 32 != 0 ||
     decide (131072 < cf c 3 31 0)
   else if op = 5 then legCond c == 3 || cw c 1 % 8 != 0 || decide (2 ^ 52 ≤ cw c 1)
   else decide (1 < legCond c) || cw c 1 % 8 != 0 || cw c 3 != 0)

/-- A sealed job forbids the command, as of HOST queues (R338, R499). -/
def legForbidden (c : Cmd) (s : State) : Bool :=
  let op := cmdOpcode c
  sealedJob s && !(op == 0 || (op == 4 && (cf c 3 31 0 == 0 || allOnHost (cw c 2) (cf c 3 31 0) s)) ||
    ((op == 5 || op == 6) && allOnHost (cw c 1) 8 s))

/-- A legacy command has completed its work. -/
def finishLeg (id status reason : Nat) (s : State) : State :=
  updLeg id (fun c => { c with phase := .finished, status := status, reason := reason }) s

/-! Fetching (R340, R344, R346). -/

/-- Legacy commands in flight: their records have not been written. -/
def legInFlight (s : State) : Nat := s.legacy.cmds.length + s.legacy.held.length

/-- The number that LQ_STATUS shows: without those that a function-level reset left to run (R350). -/
def legShown (s : State) : Nat := (s.legacy.cmds ++ s.legacy.held).countP (fun c => !c.drop)

/-- A WAIT that is not met blocks fetching (R344). -/
def legBlocked (s : State) : Bool := s.legacy.cmds.any (fun c => cmdOpcode c == 5 && c.phase != .finished)

/-- The slot at SQ_HEAD; format v2 has no extension slots. -/
def lookLegacy (s : State) : SlotLook :=
  let l := s.legacy
  if l.sqHead = l.sqTail then .nothing
  else
    let a := l.sqBase.toNat + 64 * (l.sqHead % l.sqDepth.toNat)
    match memCheck a 64 .read s with
    | .ok =>
      let w := readSlot l.sqBase.toNat l.sqDepth.toNat l.sqHead s
      if field (dword w 0) 55 55 ≠ phaseOf l.sqHead l.sqDepth.toNat then .stale else .fresh w []
    | m => .stalled m

/-- A read of the slot at SQ_HEAD. -/
def legRead (s : State) : State := slotRead (s.legacy.sqBase.toNat + 64 * (s.legacy.sqHead % s.legacy.sqDepth.toNat)) s

/-- A slot fetched: refused at once where R345 or the sealed job's limits refuse it. -/
def takeLegacy (w : BitVec 512) (s : State) : State :=
  let l := s.legacy
  let s := legRead s
  let id := s.dispatch.nextCmd
  let c : Cmd :=
    { id := id, queue := legacyQ s, count := l.sqHead, words := w, ext := [], cls := .H, legacy := true, fetchedAt := s.now,
      phase := .fetched, status := 0, reason := 0, result := 0, saturated := false, boundVoid := false, torn := false,
      request := none, watching := [] }
  let c := if badLegacy c s then { c with phase := .finished, status := stDenied, reason := 1 }
    else if legForbidden c s then { c with phase := .finished, status := stDenied, reason := 2 } else c
  let s := if c.reason = 2 then count Cnt.sealedDenials 1 s else s
  updLegacy (fun l => { l with cmds := l.cmds ++ [c], sqHead := (l.sqHead + 1) % 2 ^ 32, staleReads := none })
    { s with dispatch := { s.dispatch with nextCmd := id + 1 } }

/-- Slots fetched up to SQ_TAIL while fewer than 512 commands are in flight, no WAIT is open, fewer than 64 completions are
held, and they are fresh. -/
def legLoop : Nat → State → State
  | 0, s => s
  | fuel + 1, s =>
    if dispatchStopped s = true ∨ threadStalled 546 s = true ∨ s.legacy.state ≠ 1 ∨ legBlocked s = true ∨ 64 ≤ s.legacy.held.length ∨
        s.legacy.sqHead = s.legacy.sqTail then s
    else if 512 ≤ legInFlight s then count Cnt.inflightStalls 1 s
    else match lookLegacy s with
      | .stalled m => stallOn 546 (queueContext (legacyQ s) s) 0 6 (legacyQ s) 0 0 .read m s
      | .stale => count Cnt.phaseStaleReads 1 (legRead (updLegacy (fun l => { l with staleReads := some 0, staleAt := s.now }) s))
      | .fresh w _ => legLoop fuel (takeLegacy w s)
      | _ => s

/-- The interface fetches what is fresh. -/
def legacyFetch (s : State) : State :=
  match s.legacy.staleReads with
  | some _ => s
  | none => legLoop ((s.legacy.sqTail + 2 ^ 32 - s.legacy.sqHead) % 2 ^ 32) s

/-- A re-read of the stale slot at SQ_HEAD, 200 ns after the last; after the 64th it gives up until the next SQ_TAIL write
(R298, R340). -/
def retryLegacy (s : State) : State :=
  match s.legacy.staleReads with
  | none => s
  | some k =>
    if 64 ≤ k ∨ s.now < s.legacy.staleAt + 200 ∨ 512 ≤ legInFlight s ∨ threadStalled 546 s = true then s
    else match lookLegacy s with
    | .stale =>
      let s := count Cnt.phaseStaleReads 1 (legRead (updLegacy (fun l => { l with staleReads := some (k + 1), staleAt := s.now }) s))
      if k = 63 then count Cnt.doorbellGiveups 1 s else s
    | .stalled m => stallOn 546 (queueContext (legacyQ s) s) 0 6 (legacyQ s) 0 0 .read m s
    | _ => legacyFetch (updLegacy (fun l => { l with staleReads := none }) s)

/-! BAR4 (R338 to R340). -/

/-- A drained interface becomes OFF. -/
def legacyOff (s : State) : State :=
  if s.legacy.state = 2 ∧ legInFlight s = 0 then updLegacy (fun l => { l with state := 0 }) s else s

/-- The queue that LEGACY_QUEUE names qualifies (R338). -/
def legacyQualifies (s : State) : Bool :=
  let n := legacyQ s
  queueClassOf n s == 1 && queueContext n s != 0xFF && ent (Ent.queueEnable + 256 * n) s == 0

/-- A write of ENABLE in LQ_CTRL. -/
def legacyEnable (on : Bool) (s : State) : State :=
  if on then
    if s.legacy.state ≠ 0 then s
    else if legacyQualifies s then updLegacy (fun l =>
      { l with state := 1, ctrl := 1, sqTail := 0, cqHead := 0, sqHead := 0, written := 0, held := [], staleReads := none }) s
    else count Cnt.enableRefused 1 s
  else if s.legacy.state = 1 then legacyOff (updLegacy (fun l => { l with state := 2, ctrl := 0, staleReads := none }) s)
  else s

/-- SQ_TAIL written: the slots up to it are fetched. -/
def writeSqTail (w : HostWrite) (s : State) : State :=
  match regWrite (BitVec.ofNat 64 s.legacy.sqTail) w with
  | none => count Cnt.barBadAccess 1 s
  | some v =>
    if s.legacy.state = 0 then s
    else legacyFetch (updLegacy (fun l => { l with sqTail := v.toNat % 2 ^ 32, staleReads := none }) s)

/-- SQ_TAIL. -/
def execSqTail (w : HostWrite) (s : State) : Host.Outcome State Fault Refusal :=
  .next (if s.hostif.flr then s else writeSqTail w s)

/-! Carrying out (R342 to R344). -/

/-- FENCE holds a command back until every earlier one has completed (R341, R344); one whose record a full ring holds has. -/
def legFenced (c : Cmd) (s : State) : Bool :=
  cb c 53 && s.legacy.cmds.any (fun x => decide (x.id < c.id))

/-- The carriers of a DMA of b bytes are one or two (R343). -/
def dmaCount (b : Nat) : Nat := if b ≤ 1048576 ∨ b % 1048576 = 0 then 1 else 2

/-- The opcode of the descriptor that a DESC names, as it stands in memory. -/
def legDescOp (c : Cmd) (s : State) : Nat := df (BitVec.ofNat 512 (devNat s (cw c 1) 64)) 0 63 56

/-- A DMA or DESC that is held back, as scheduleHolds says of a native DESCRIPTOR: it holds back no other command (R346). -/
def legHolds (c : Cmd) (s : State) : Bool :=
  let closed := fun (op k : Nat) => moving s || openCores (legacyQ s) (legCore c) op k s == []
  (cmdOpcode c == 1 && closed 0x10 (dmaCount (cf c 3 23 0))) ||
  (cmdOpcode c == 2 && memCheck (cw c 1) 64 .read s == .ok && hostDescOp (legDescOp c s) && closed (legDescOp c s) 1)

/-- The oldest command of an opcode that is fetched and that neither FENCE nor its cores hold back, unless dispatch is stopped or
thread 0 is stalled. -/
def nextLegacy (op : Nat) (s : State) : Option Cmd :=
  if dispatchStopped s || threadStalled 546 s then none else
  s.legacy.cmds.find? (fun c => cmdOpcode c == op && c.phase == .fetched && !legFenced c s && !legHolds c s)

/-- A row that takes up the next legacy command of an opcode. -/
def takeLeg (op : Nat) (run : Cmd → State → State) (s : State) : Host.Outcome State Fault Refusal :=
  .next (match nextLegacy op s with
    | some c => run c s
    | none => s)

/-- The origin of what a legacy command carries. -/
def legOrigin (c : Cmd) (s : State) : Origin :=
  { cls := .H, context := queueContext (legacyQ s) s, queue := c.queue, launch := none, stage := 0, cmd := some c.id,
    postilion := true }

/-- A TRANSFER of n contiguous tiles that carries part of a legacy DMA; its progress and status words name no byte of any
core SRAM (R343). -/
def dmaDesc (src dst bytes tiles tag : Nat) : Desc :=
  let w := fun (k v : Nat) => v * 2 ^ (64 * k)
  BitVec.ofNat 512 (w 0 (0x10 * 2 ^ 56) + w 1 src + w 2 dst + w 3 (bytes * 2 ^ 40 + 2 ^ 20 + 1) +
    w 4 (tiles * 2 ^ 32) + w 5 bytes + w 6 (0xFFFFFFF8 * 2 ^ 32 + tag) + w 7 0xFFFFFFE0)

/-- The carriers of a DMA of b bytes (R343). -/
def dmaDescs (c : Cmd) : List Desc :=
  let b := cf c 3 23 0
  let n := b / 1048576
  let r := b % 1048576
  if b ≤ 1048576 then [dmaDesc (cw c 1) (cw c 2) b 1 0]
  else dmaDesc (cw c 1) (cw c 2) 1048576 n 0 ::
    (if r = 0 then [] else [dmaDesc ((cw c 1 + n * 1048576) % 2 ^ 64) ((cw c 2 + n * 1048576) % 2 ^ 64) r 1 1])

/-- A DMA's carriers placed in the Dray queue of its core, in order; they are issued at its dispatch, as a native DESCRIPTOR's
TRANSFER is (R342, R343). -/
def runLegacyDma (c : Cmd) (s : State) : State :=
  let ds := dmaDescs c
  let p := takeDescCore (legacyQ s) (legCore c) 0x10 ds.length s
  let s := updLeg c.id (fun c => { c with phase := .dispatched, watching := ds.zipIdx.map (fun d => (p.1, d.2)) }) p.2
  let org := stampOrigin (legOrigin c s) s
  ds.foldl (fun s d => enqueueTransfer p.1 d org s) s

/-- A DESC: its descriptor is read now, at dispatch, and issued on its core (R342). -/
def runLegacyDesc (c : Cmd) (s : State) : State :=
  match memCheck (cw c 1) 64 .read s with
  | .ok =>
    let d : Desc := BitVec.ofNat 512 (devNat s (cw c 1) 64)
    let op := df d 0 63 56
    let s := noteDmaRead (cw c 1) 64 (hubAccess (cw c 1) 64 s)
    if !hostDescOp op || df d 6 31 16 != 0 then
      finishLeg c.id stDenied 1 s
    else
      let p := takeDescCore (legacyQ s) (legCore c) op 1 s
      let s := updLeg c.id (fun c => { c with phase := .dispatched }) p.2
      pushIssued p.1 d (legOrigin c s) s
  | m => cmdStall (legacyQ s) c .read m s

/-- A KERNEL: one task on the core it names. -/
def runLegacyKernel (c : Cmd) (s : State) : State :=
  placeTask (legacyQ s) c (legCore c) (cf c 1 31 0) (cf c 2 31 0) s

/-- A LAUNCH with its arguments by reference; it never runs ahead (R349). -/
def runLegacyLaunch (c : Cmd) (s : State) : State :=
  let n := legacyQ s
  let graph := cf c 1 63 48
  let no := graphRefusal graph (queueContext n s) s
  if no ≠ 0 then finishLeg c.id stDenied no s
  else match graphOf graph s with
    | none => s
    | some g =>
      let v := if cf c 1 47 32 = 0 then g.current else cf c 1 47 32
      let len := cf c 3 31 0
      if (versionOf graph v s).isNone then finishLeg c.id stDenied 4 s
      else
        let chk := if len = 0 then .ok else memCheck (cw c 2) len .read s
        if chk ≠ .ok then cmdStall n c .read chk s
        else
          let args := if len = 0 then [] else devRead s (cw c 2) len
          let s := if len = 0 then s else noteDmaRead (cw c 2) len (hubAccess (cw c 2) len s)
          beginLaunch n graph v 0 (some c.id) none 0 args true (updLeg c.id (fun c => { c with phase := .dispatched }) s)

/-- LEGACY_NOP. -/
def execLegacyNop (s : State) : Host.Outcome State Fault Refusal := takeLeg 0 (fun c s => finishLeg c.id stOk 0 s) s
/-- LEGACY_DMA. -/
def execLegacyDma (s : State) : Host.Outcome State Fault Refusal := takeLeg 1 runLegacyDma s
/-- LEGACY_DESC. -/
def execLegacyDesc (s : State) : Host.Outcome State Fault Refusal := takeLeg 2 runLegacyDesc s
/-- LEGACY_KERNEL. -/
def execLegacyKernel (s : State) : Host.Outcome State Fault Refusal := takeLeg 3 runLegacyKernel s
/-- LEGACY_LAUNCH. -/
def execLegacyLaunch (s : State) : Host.Outcome State Fault Refusal := takeLeg 4 runLegacyLaunch s
/-- LEGACY_SIGNAL: the signal itself is applied at completion (R301). -/
def execLegacySignal (s : State) : Host.Outcome State Fault Refusal := takeLeg 6 (fun c s => finishLeg c.id stOk 0 s) s

/-- A WAIT that is not met; it is counted and begins its timeout with its first evaluation (R309). -/
def holdLeg (c : Cmd) (v : BitVec 64) (s : State) : State :=
  let s := match c.phase with
    | .waiting _ _ => s
    | _ => count Cnt.hitchWaits 1 s
  updLeg c.id (waitingCmd v s) s

/-- A WAIT evaluated: met, it ends and fetching goes on. An object in host memory is seen as last polled (R308). -/
def runLegacyWait (c : Cmd) (s : State) : State :=
  let met := fun (v : Nat) => condHolds (legCond c) v (cw c 2) (cw c 3)
  let stop := fun (s : State) => legacyFetch (finishLeg c.id stOk 0 s)
  if c.met then stop s
  else match shownValue c s, memCheck (cw c 1) 8 .read s with
    | some v, _ => if met v then stop s else s
    | none, .ok =>
      let s := readObject (cw c 1) s
      let v := hitchRead (cw c 1) s
      if met v then stop s else holdLeg c (BitVec.ofNat 64 v) s
    | none, m => cmdStall (legacyQ s) c .read m (holdLeg c 0 s)

/-- LEGACY_WAIT: the open WAIT, evaluated first when FENCE lets it and again while it waits. -/
def execLegacyWait (s : State) : Host.Outcome State Fault Refusal :=
  .next (if threadStalled 546 s then s
    else match s.legacy.cmds.find? (fun c => cmdOpcode c == 5 && c.phase != .finished && !legFenced c s) with
    | some c => runLegacyWait c s
    | none => s)

/-! Completion (R301, R304, R346 to R348). -/

/-- The completion ring has room. -/
def legRoom (s : State) : Bool :=
  decide ((s.legacy.written + 2 ^ 32 - s.legacy.cqHead) % 2 ^ 32 < s.legacy.cqDepth.toNat)

/-- The command signals at completion: a SIGNAL that was carried out. -/
def legSignals (c : Cmd) : Bool := cmdOpcode c == 6 && c.status == stOk && c.reason == 0

/-- A legacy completion record goes out or is dropped. -/
def legRecord (c : Cmd) (s : State) : State :=
  let l := s.legacy
  let depth := l.cqDepth.toNat
  if c.drop then count Cnt.recordsDropped 1 s
  else updLegacy (fun l => { l with written := (l.written + 1) % 2 ^ 32 })
    (recordWrite (legacyQ s) false (l.cqBase.toNat + 32 * (l.written % depth))
      (completionRecord (legacyQ s) c l.written depth l.sqDepth.toNat s) s)

/-- Steps 2 to 4 of R301: the signal, the record, the interrupt. -/
def legPost (c : Cmd) (s : State) : State :=
  let s := if legSignals c then applySignal c.drop (cw c 1) (legCond c == 1) (cw c 2) (noteFlag c s) else noteFlag c s
  let s := legRecord c s
  if cb c 52 then
    (if c.drop then count Cnt.recordsDropped 1 s else raiseQueueVector (legacyQ s) (s.legacy.msix.toNat % 128) s)
  else s

/-- A completion is held by the ring or by the host, as a native one is (R304, R447). -/
def legHeld (c : Cmd) (s : State) : Bool :=
  !c.drop && (!legRoom s || (!hostReachable s &&
    (cb c 52 || onHostPage s.legacy.cqBase.toNat s || (legSignals c && onHostPage (cw c 1) s))))

/-- What thread 2's writes for a legacy completion meet first, and the kind of access (R405). -/
def legCheck (c : Cmd) (s : State) : MemCheck × Access :=
  let host := fun (m : MemCheck) => match m with
    | .hostHeld _ => MemCheck.ok
    | m => m
  let a := if legSignals c then host (memCheck (cw c 1) 8 .atomic s) else .ok
  let b := if c.drop then .ok
    else host (memCheck (s.legacy.cqBase.toNat + 32 * (s.legacy.written % s.legacy.cqDepth.toNat)) 32 .write s)
  if a = .ok then (b, .write) else (a, .atomic)

/-- Thread 2 at a page that holds up a legacy completion. -/
def legStall (c : Cmd) (m : MemCheck × Access) (s : State) : State :=
  stallOn 547 (queueContext (legacyQ s) s) 0 6 (legacyQ s) (cmdTag c) (cmdOpcode c) m.2 m.1 s

/-- A legacy command completes; a full ring, or a host that is unreachable, holds the completion. -/
def completeLegacy (c : Cmd) (s : State) : State :=
  let gone := updLegacy (fun l => { l with cmds := l.cmds.filter (fun x => x.id != c.id) })
  let counted := fun (s : State) =>
    let s := if cb c 54 && c.status != stRestarted then count Cnt.visAllWaits 1 s else s
    count Cnt.legacyCommands 1 (if c.reason = 1 then count Cnt.legacyBadCommands 1 s else s)
  if !s.legacy.held.isEmpty || legHeld c s then
    counted (count Cnt.heldCompletions 1 (updLegacy (fun l => { l with held := l.held ++ [c] }) (gone s)))
  else if threadStalled 547 s then s
  else
    let m := legCheck c s
    if m.1 = .ok then legacyFetch (legacyOff (counted (legPost c (gone s)))) else legStall c m s

/-- Held legacy completions written while the ring has room. -/
def releaseLegHeld : Nat → State → State
  | 0, s => s
  | fuel + 1, s =>
    match s.legacy.held with
    | [] => s
    | c :: rest =>
      if legHeld c s || threadStalled 547 s then s
      else
        let m := legCheck c s
        if m.1 = .ok then releaseLegHeld fuel (legPost c (updLegacy (fun l => { l with held := rest }) s)) else legStall c m s

/-- The interface with its held completions written as far as they can be: it may then be OFF, or fetch again (R340). -/
def serveLegHeld (s : State) : State := legacyFetch (legacyOff (releaseLegHeld s.legacy.held.length s))

/-- Thread 0 fetches again what every queue and the legacy interface have. -/
def resumeFetch (s : State) : State := legacyFetch ((List.range 64).foldl (fun s n => fetchQueue n s) s)


/-- Thread 2 writes again what the queues and the legacy interface hold. -/
def resumeHeld (s : State) : State :=
  serveLegHeld ((List.range 64).foldl (fun s n => if (queueOf n s).held.isEmpty then s else serveHeld n s) s)

/-- CQ_HEAD written: completion records are free again. -/
def writeLegCqHead (w : HostWrite) (s : State) : State :=
  match regWrite (BitVec.ofNat 64 s.legacy.cqHead) w with
  | none => count Cnt.barBadAccess 1 s
  | some v =>
    if s.legacy.state = 0 then s
    else
      let s := updLegacy (fun l => { l with cqHead := v.toNat % 2 ^ 32 }) s
      serveLegHeld s

/-- LEGACY_CQ_HEAD. -/
def execLegacyCqHead (w : HostWrite) (s : State) : Host.Outcome State Fault Refusal :=
  .next (if s.hostif.flr then s else writeLegCqHead w s)

/-- A write of a BAR4 register: the ring registers ignore it unless the interface is OFF, read-only ones always (R339). -/
def writeBar4 (offset : Nat) (w : HostWrite) (s : State) : State :=
  let put := fun (old : BitVec 64) (set : BitVec 64 → State → State) =>
    match regWrite old w with
    | none => count Cnt.barBadAccess 1 s
    | some v => set v s
  let off := fun (f : BitVec 64 → Legacy → Legacy) (v : BitVec 64) (s : State) =>
    if s.legacy.state = 0 then updLegacy (f v) s else s
  let l := s.legacy
  if offset = 0x008 then put l.ctrl (fun v s => legacyEnable (v.toNat % 2 == 1) s)
  else if offset = 0x018 then put l.sqBase (off (fun v l => { l with sqBase := v }))
  else if offset = 0x020 then put l.sqDepth (off (fun v l => { l with sqDepth := v }))
  else if offset = 0x028 then put l.cqBase (off (fun v l => { l with cqBase := v }))
  else if offset = 0x030 then put l.cqDepth (off (fun v l => { l with cqDepth := v }))
  else if offset = 0x038 then put l.msix (off (fun v l => if v.toNat < 128 then { l with msix := v } else l))
  else if offset = 0x040 then writeSqTail w s
  else if offset = 0x048 then writeLegCqHead w s
  else put 0 (fun _ s => s)

/-- LQ_CTRL_WRITE: the write of LQ_CTRL, or of another BAR4 register, by its offset. -/
def execLqCtrlWrite (offset : Nat) (w : HostWrite) (s : State) : Host.Outcome State Fault Refusal :=
  .next (if s.hostif.flr then s else writeBar4 offset w s)

/-- COMMAND_COMPLETION of a finished command of Q[queue], or of the legacy interface, number 64 (R301), or of the first
completion that is held there (R304). -/
def execCommandCompletion (queue cmd : Nat) (s : State) : Host.Outcome State Fault Refusal :=
  if queue = 64 then
    .next (match s.legacy.cmds.find? (fun c => c.id == cmd && c.phase == .finished && !dispatchStopped s) with
      | some c => completeLegacy c s
      | none =>
        if (s.legacy.held.head?).any (fun c => c.id == cmd) then serveLegHeld s else s)
  else if 64 < queue then .fault .noSuchUnit
  else .next (completeNative queue cmd s)

end Sys2Proof.Machine
end

