-- ==== Sys2Proof/Machine/Translation.lean ====
section
/-! DEFINITION. The map ring and its records, the fault queue, and the service of page faults (15, R406, R409 to R423). -/

namespace Sys2Proof.Machine

open Sys2Proof

/-! The map ring (R409). -/

/-- Bus address of a slot of the map ring. -/
def mapSlot (count_ : Nat) (s : State) : Nat := ent Ent.mapAddr s + 32 * (count_ % ent Ent.mapDepth s)

/-- The map ring is on. -/
def mapOn (s : State) : Bool := ent Ent.mapEnable s == 1

/-- The record at the fetch count. -/
def mapWord (s : State) : BitVec 256 := BitVec.ofNat 256 (ofLe (hostRead (mapSlot s.xlate.mapFetched s) 32 s))

/-- Word k of a map record. -/
def mw (w : BitVec 256) (k : Nat) : Nat := w.toNat / 2 ^ (64 * k) % 2 ^ 64

/-- Map records fetched while their phase is fresh. -/
def mapFetch : Nat → State → State
  | 0, s => s
  | fuel + 1, s =>
    if s.xlate.mapFetched = s.xlate.mapTail ∨ mapOn s = false ∨ hostReachable s = false then s
    else
      let w := mapWord s
      if field (mw w 0) 55 55 ≠ phaseOf s.xlate.mapFetched (ent Ent.mapDepth s) then
        count Cnt.phaseStaleReads 1 (count Cnt.dmaReadBytes 32
          { s with xlate := { s.xlate with mapStale := some 0, mapStaleAt := s.now } })
      else
        let r : MapRecord :=
          { count := s.xlate.mapFetched, words := w, at_ := some (mapSlot s.xlate.mapFetched s), cls := .H }
        mapFetch fuel (count Cnt.dmaReadBytes 32 { s with xlate := { s.xlate with
          mapRecords := s.xlate.mapRecords ++ [r], mapFetched := (s.xlate.mapFetched + 1) % 2 ^ 32, mapStale := none } })

/-- The map ring fetched up to MAP_TAIL. -/
def fetchMap (s : State) : State := mapFetch ((s.xlate.mapTail + 2 ^ 32 - s.xlate.mapFetched) % 2 ^ 32) s

/-- MAP_TAIL. A write while the ring is off is discarded (R298). -/
def execMapTail (w : HostWrite) (s : State) : Host.Outcome State Fault Refusal :=
  if s.hostif.flr then .next s
  else match regWrite s.hostif.mapTailReg w with
    | none => .next (count Cnt.barBadAccess 1 s)
    | some v =>
      if mapOn s then
        .next (fetchMap { s with
          hostif := { s.hostif with mapTailReg := v },
          xlate := { s.xlate with mapTail := v.toNat % 2 ^ 32, mapStale := none } })
      else .next s

/-- A re-read of the map ring's stale slot, 200 ns after the last; after the 64th it gives up until the next MAP_TAIL write
(R298, R409). -/
def retryMap (s : State) : State :=
  match s.xlate.mapStale with
  | none => s
  | some k =>
    if mapOn s = false then { s with xlate := { s.xlate with mapStale := none } }
    else if hostReachable s = false ∨ 64 ≤ k ∨ s.now < s.xlate.mapStaleAt + 200 then s
    else if field (mw (mapWord s) 0) 55 55 ≠ phaseOf s.xlate.mapFetched (ent Ent.mapDepth s) then
      let s := count Cnt.phaseStaleReads 1 <| count Cnt.dmaReadBytes 32
        { s with xlate := { s.xlate with mapStale := some (k + 1), mapStaleAt := s.now } }
      if k = 63 then count Cnt.doorbellGiveups 1 s else s
    else fetchMap { s with xlate := { s.xlate with mapStale := none } }

/-- PHASE_RETRY (R298, R340, R409): ring 0 to 63 is a queue's, 64 the legacy interface's, 65 the map ring. -/
def execPhaseRetry (queue : Nat) (s : State) : Host.Outcome State Fault Refusal :=
  if queue < 64 then .next (retryQueue queue s)
  else if queue = 64 then .next (retryLegacy s)
  else if queue = 65 then .next (retryMap s)
  else .fault .noSuchUnit

/-! Map records (R409 to R413, R423). -/

/-- A map record's fields. -/
structure MapOp where
  op : Nat
  rights : Nat
  tier : Nat
  context : Nat
  pages : Nat
  /-- first page number -/
  first : Nat
  bus : Nat

/-- The fields of a record. -/
def mapOp (w : BitVec 256) : MapOp :=
  { op := field (mw w 0) 63 56, rights := field (mw w 0) 51 50, tier := field (mw w 0) 49 48,
    context := field (mw w 0) 47 40, pages := field (mw w 0) 31 0, first := mw w 1 / 4096, bus := mw w 2 }

/-- The pages of a record, ascending. -/
def mapPages (m : MapOp) : List Nat := (List.range m.pages).map (· + m.first)

/-- The record names a host page. -/
def usesBus (op : Nat) : Bool := op == 3 || op == 4 || op == 6

/-- BAD_COMMAND (R411). -/
def mapBad (w : BitVec 256) (s : State) : Bool :=
  let m := mapOp w
  !(1 ≤ m.op && m.op ≤ 7) || field (mw w 0) 54 52 != 0 || field (mw w 0) 39 32 != 0 || field (mw w 3) 62 56 != 0 ||
  field (mw w 3) 39 16 != 0 || m.rights == 3 || mw w 1 % 4096 != 0 || m.bus % 4096 != 0 ||
  m.pages == 0 || decide (1048576 < m.pages) || ((m.op == 6 || m.op == 7) && m.pages != 1) ||
  decide (2 ^ 52 ≤ mw w 1) || decide (2 ^ 28 < m.first % 2 ^ 28 + m.pages) ||
  (usesBus m.op && decide (2 ^ 40 < m.bus + m.pages * 4096)) || (!usesBus m.op && m.bus != 0) ||
  (m.op == 1 && decide (2 ≤ m.tier)) || (m.op != 1 && m.tier != 0) ||
  (if m.op == 1 || m.op == 6 then (contextOf m.context s).isNone else m.context != 0) ||
  ((m.op == 2 || m.op == 7) && m.rights != 0)

/-- A sealed job refuses the record (R499). -/
def mapSealed (cls : PortClass) (op : Nat) (s : State) : Bool :=
  sealedJob s && cls == .H &&
  !(op == 7 || ((op == 3 || op == 4) && ent Ent.sealHostPages s == 1 && s.security.sealPolicy.toNat / 2 % 2 == 1))

/-- A page of the record lies in the module range. -/
def mapInModule (m : MapOp) : Bool := decide (0xC000000 < m.first % 2 ^ 28 + m.pages)

/-- A page breaks the Requires column of Table 15.5. -/
def pageBreaks (op page : Nat) (s : State) : Bool :=
  let v := pageView page s
  !(if op = 1 then v.kind == 0
    else if op = 2 then v.kind == 1 || v.kind == 2
    else if op = 3 ∨ op = 4 then v.kind == 0 || v.kind == 3
    else if op = 5 then v.kind != 0
    else if op = 6 then v.kind == 3 || (v.kind == 0 && v.frame.getD 0 != 0)
    else s.xlate.faults.any (fun f => f.page == page))

/-- NO_SPACE (R411): frames, quota or leaves do not suffice. -/
def mapNoSpace (m : MapOp) (s : State) : Bool :=
  let leaves := !leavesFit m.first m.pages s
  match m.op, contextOf m.context s with
  | 1, some c =>
    leaves || !runFits m.first m.pages (m.tier == 1) s ||
    (if m.tier = 1 then decide (c.coldQuota < c.coldUsed + 4096 * m.pages)
     else decide (c.hbmQuota < c.hbmUsed + 4096 * m.pages))
  | 6, some c => !runFits m.first 1 false s || decide (c.hbmQuota < c.hbmUsed + 4096)
  | 3, _ => leaves
  | 4, _ => (m.bus != 0 || m.rights != 0) && leaves
  | _, _ => false

/-- Quota charged to a context for a page, or returned. -/
def chargePage (cold : Bool) (k page : Nat) (s : State) : State :=
  updContext k (fun c => if cold then { c with coldUsed := c.coldUsed + 4096 } else { c with hbmUsed := c.hbmUsed + 4096 })
    { s with xlate := { s.xlate with charged := alSet s.xlate.charged page k } }

/-- The charge of a page returned to its context. -/
def refundPage (page : Nat) (s : State) : State :=
  let cold := (pageView page s).kind == 2
  match alGet s.xlate.charged page with
  | none => s
  | some k =>
    updContext k (fun c => if cold then { c with coldUsed := c.coldUsed - 4096 } else { c with hbmUsed := c.hbmUsed - 4096 })
      { s with xlate := { s.xlate with charged := alErase s.xlate.charged page } }

/-- ALLOC of one page. -/
def allocPage (m : MapOp) (page : Nat) (s : State) : State :=
  let cold := m.tier == 1
  match takeFrame (regionOf page cold) s with
  | some (f, s) => chargePage cold m.context page (setPte page (mkPte (if cold then 2 else 1) m.rights f) s)
  | none => s

/-- FREE of one page. -/
def freePage (page : Nat) (s : State) : State := dropPage page (refundPage page s)

/-- Number of a page within its record. -/
def pageIndex (m : MapOp) (page : Nat) : Nat := page - m.first

/-- MAP_HOST of one page. -/
def mapHostPage (m : MapOp) (page : Nat) (s : State) : State :=
  setPte page (mkPte 3 m.rights (m.bus / 4096 + pageIndex m page)) s

/-- SET_ABSENT of one page: HOST_FRAME from HOST_BUS, 0 for plain absent. -/
def absentPage (m : MapOp) (page : Nat) (s : State) : State :=
  setPte page (mkPte 0 m.rights (if m.bus = 0 then 0 else m.bus / 4096 + pageIndex m page)) s

/-- PROTECT of one page. A page of the module range is never reached. -/
def protectPage (m : MapOp) (page : Nat) (s : State) : State :=
  let v := pageView page s
  setPte page (mkPte v.kind m.rights (v.frame.getD 0)) s

/-- MIGRATE of one page (R423 steps 1 to 3). -/
def migratePage (m : MapOp) (page : Nat) (s : State) : State :=
  let v := pageView page s
  let bus := if m.bus = 0 then v.frame.getD 0 * 4096 else m.bus
  let r := homeStack (page * 4096)
  match takeFrame r s with
  | none => s
  | some (f, s) =>
    let data := hostRead bus 4096 s
    let s := { s with mem := { s.mem with dram := memWrite s.mem.dram (frameMpa r f) data } }
    count Cnt.migrations 1 (count Cnt.dmaReadBytes 4096
      (chargePage false m.context page (setPte page (mkPte 1 m.rights f) s)))

/-- The record removes or narrows a present entry of a page (R412). -/
def narrows (m : MapOp) (page : Nat) (s : State) : Bool :=
  let v := pageView page s
  m.op == 2 || (m.op == 5 && decide (m.rights < v.rights)) || ((m.op == 4 || m.op == 6) && v.kind == 3)

/-- A page of the record changed. -/
def mapPage (m : MapOp) (page : Nat) (s : State) : State :=
  let inv := narrows m page s
  let s := match m.op with
    | 1 => allocPage m page s
    | 2 => freePage page s
    | 3 => mapHostPage m page s
    | 4 => absentPage m page s
    | 5 => protectPage m page s
    | 6 => migratePage m page s
    | _ => s
  if inv then invalidatePage page s else s

/-- The front map record completes: M3 is written in place, MAP_HEAD moves on (R409). -/
def mapComplete (r : MapRecord) (status reason : Nat) (s : State) : State :=
  let s := count Cnt.mapRecords 1 { s with xlate := { s.xlate with mapRecords := s.xlate.mapRecords.drop 1 } }
  match r.at_ with
  | none => s
  | some a =>
    hostWrite none (a + 24) (leBytes 8 (2 ^ 63 + status * 2 ^ 48 + reason * 2 ^ 40 + mw r.words 3 % 2 ^ 16))
      { s with xlate := { s.xlate with mapHead := (r.count + 1) % 2 ^ 32 } }

/-- DENY: the pending fault ends as a job fault with its record in the Waybill, as it was written; an entry still latched has
none, and is recorded as it would be enqueued now (R410, R417; log 187). -/
def denyFault (page : Nat) (s : State) : State :=
  match s.xlate.faults.find? (fun f => f.page == page) with
  | none => s
  | some f =>
    let w := if f.queued then f.written
      else faultRecord f s.xlate.fqTail true (if s.xlate.fqEntries = 0 then 1 else s.xlate.fqEntries)
    let (unit, inst) := agentUnit f.firstAgent
    raiseJobFault 0x9001 (faultDetail unit inst 2 f.work.1 f.work.2)
      (wbSubmit 0x9001 noInst [page * 4096, leAt w 0 8, leAt w 16 8, leAt w 24 8]
        { s with xlate := { s.xlate with faults := s.xlate.faults.filter (fun x => x.page != page) } })

/-- The front map record carried out: every check before any change (R411), then its pages in ascending order (R412), its
completion, and the release of waiters (R413). -/
def runMap (r : MapRecord) (s : State) : State :=
  let m := mapOp r.words
  if mapBad r.words s then mapComplete r stDenied 1 s
  else if mapSealed r.cls m.op s then mapComplete r stDenied 2 (count Cnt.sealedDenials 1 s)
  else if mapInModule m then mapComplete r stDenied 2 s
  else if (mapPages m).any (fun p => pageBreaks m.op p s) then mapComplete r stDenied 5 s
  else if mapNoSpace m s then mapComplete r stDenied 6 s
  else if m.op = 7 then denyFault m.first (mapComplete r stOk 0 s)
  else
    let inv := (mapPages m).any (fun p => narrows m p s)
    let s := (mapPages m).foldl (fun s p => mapPage m p s) s
    let s := if inv then count Cnt.invalidations 1 s else s
    let s := mapComplete r stOk 0 s
    (mapPages m).foldl (fun s p => if (pageView p s).kind ≠ 0 then releasePage p s else s) s

/-- A row of the table that carries out the oldest map record, when its OP is the row's; a record of an undefined OP is taken
by the first. A migration reads host memory, and waits while the host is unreachable (R447); an
allocation in the cold tier waits for COLD's switch-on (R513). -/
def takeMap (op : Nat) (s : State) : Host.Outcome State Fault Refusal :=
  match s.xlate.mapRecords with
  | [] => .next s
  | r :: _ =>
    let o := (mapOp r.words).op
    let row := if 1 ≤ o ∧ o ≤ 7 then o else 1
    if row ≠ op ∨ (o = 6 ∧ hostReachable s = false) then .next s
    else if o = 1 ∧ (mapOp r.words).tier = 1 ∧ mapBad r.words s = false ∧ coldUp s = false then .next (switchColdOn s)
    else .next (runMap r s)

/-- ALLOC. -/
def execAlloc (s : State) : Host.Outcome State Fault Refusal := takeMap 1 s

/-- FREE. -/
def execFree (s : State) : Host.Outcome State Fault Refusal := takeMap 2 s

/-- MAP_HOST. -/
def execMapHost (s : State) : Host.Outcome State Fault Refusal := takeMap 3 s

/-- SET_ABSENT. -/
def execSetAbsent (s : State) : Host.Outcome State Fault Refusal := takeMap 4 s

/-- PROTECT. -/
def execProtect (s : State) : Host.Outcome State Fault Refusal := takeMap 5 s

/-- MIGRATE. -/
def execMigrate (s : State) : Host.Outcome State Fault Refusal := takeMap 6 s

/-- DENY. -/
def execDeny (s : State) : Host.Outcome State Fault Refusal := takeMap 7 s

/-! Faults (R414 to R420). -/

/-- The core of a faulting agent, if it belongs to one. -/
def agentCore (agent : Nat) : Option Nat :=
  if agent < 384 then some (agent / 4) else if agent < 480 then some (agent - 384)
  else if agent < 482 then some (agent - 384) else none

/-- Context and speculation ID of an agent's work: those of its core's task. -/
def agentWork (agent : Nat) (s : State) : Nat × Nat :=
  match agentCore agent with
  | none => (0xFF, 0)
  | some c =>
    match (ctlOf c s).task with
    | some t => (t.context, t.spec)
    | none => (0xFF, 0)

/-- PAGE_FAULT: an agent's access to an address. -/
def execPageFault (agent : Nat) (va : BitVec 64) (access : Access) (s : State) : Host.Outcome State Fault Refusal :=
  if 548 ≤ agent then .fault .noSuchUnit
  else
    let (context, spec) := agentWork agent s
    let (unit, inst) := agentUnit agent
    .next (stallOn agent context spec unit inst 0 0 access (memCheck va.toNat 1 access s) s)

/-- FQ_HEAD (R416, R417). -/
def execFqHead (w : HostWrite) (s : State) : Host.Outcome State Fault Refusal :=
  if s.hostif.flr then .next s
  else match regWrite s.hostif.fqHeadReg w with
    | none => .next (count Cnt.barBadAccess 1 s)
    | some v =>
      let s := { s with
        hostif := { s.hostif with fqHeadReg := v }, xlate := { s.xlate with fqHead := v.toNat % 2 ^ 32 } }
      .next (drainLatched s.xlate.faults.length s)

/-- What a write of 1 to FQ_OVERFLOW_CLEAR does. -/
def fqOverflowClearAction (_ : ReqId) (_ : List Byte) (s : State) : State :=
  let s := endCmd Ent.fqOverflowClear stOk 0 s
  if s.xlate.faults.all (fun f => f.queued) then { s with xlate := { s.xlate with overflow := false } } else s

/-- FQ_OVERFLOW_CLEAR. -/
def execFqOverflowClear (req : ReqId) (value : Nat) (s : State) : Host.Outcome State Fault Refusal :=
  .next (cmdVia fqOverflowClearAction req 0x2800 0x06 (leBytes 1 value) s)

/-- The work of an agent whose replay is its own: a core's held effects, a service slot's fabric descriptor, thread 0's fetching
and thread 2's held completions. A transfer and a lane replay with the next command of theirs. -/
def replayAgent (agent : Nat) (s : State) : State :=
  match agentCore agent with
  | some c => if agent < 384 ∨ 480 ≤ agent then flushEffects c s else s
  | none =>
    if 482 ≤ agent ∧ agent < 546 then
      match s.fabric.slots.find? (fun x => x.1 == agent - 482) with
      | none => s
      | some (_, peer, seq, _) =>
        let s := slotFree peer seq s
        serveSlots (if 2 ^ 32 ≤ seq then resumeFabDesc (seq - 2 ^ 32) s else s)
    else if agent = 546 then resumeFetch s
    else if agent = 547 then resumeHeld s
    else s

/-- FAULT_REPLAY of a released agent (R418): the access translates afresh. -/
def execFaultReplay (agent : Nat) (s : State) : Host.Outcome State Fault Refusal :=
  if 548 ≤ agent then .fault .noSuchUnit
  else
    match s.xlate.released.find? (fun r => r.1 == agent) with
    | none => .next s
    | some r =>
      .next (replayAgent agent (count Cnt.replays 1
        { s with xlate := { s.xlate with released := s.xlate.released.erase r } }))

/-- FAULT_TIMEOUT of a page's pending fault, or of an access held at the hub whose bus page it is, once the host
has been unreachable for that long (R419, R447). -/
def execFaultTimeout (page : Nat) (s : State) : Host.Outcome State Fault Refusal :=
  let limit := ent Ent.faultTimeoutNs s
  match s.xlate.faults.find? (fun f => f.page == page && decide (f.time + limit ≤ s.now)) with
  | some f =>
    let (unit, inst) := agentUnit f.firstAgent
    .next (jobFaultPlain unit inst 4 f.work.1 f.work.2
      { s with xlate := { s.xlate with faults := s.xlate.faults.filter (fun x => x.page != page) } })
  | none =>
    match s.hostif.heldAccesses.find? (fun h => h.addr / 4096 == page &&
        s.hostif.unreachableSince.any (fun t => decide (t + limit ≤ s.now))) with
    | some h =>
      let (unit, inst) := agentUnit h.agent
      .next (jobFaultPlain unit inst 4 h.work.1 h.work.2
        { s with hostif := { s.hostif with heldAccesses := s.hostif.heldAccesses.erase h } })
    | none => .next s

end Sys2Proof.Machine
end

