-- ==== Sys2Proof/Machine/Waybill.lean ====
section
/-! DEFINITION. The Waybill event recorder (23): the writer, rate windows, reading with the cursor and clearing. -/

namespace Sys2Proof.Machine

open Sys2Proof

/-- OLDEST_SEQ (R573, R574). -/
def oldestSeq (s : State) : Nat :=
  Nat.max s.waybill.oldestFloor (Nat.max 1024 (s.waybill.nextSeq - 16384))

/-- KEPT_USED (R573). -/
def keptUsed (s : State) : Nat := s.waybill.kept.length

/-- The SEQ of the record of a submission, while it is held. -/
def seqOfNum (num : Nat) (s : State) : Option Nat :=
  if num = 0 then none
  else ((s.waybill.circ ++ s.waybill.kept).find? (fun r => r.num == num)).map (·.seq)

/-- A record's parameters as written: P1 of a JOB_FAULT record is the SEQ of its cause record; one whose cause has no record, or
whose record was suppressed or cleared before, names itself (R598; log 193). -/
def resolveParams (code : Nat) (p : List Nat) (s : State) : List Nat :=
  if code = 0xE001 then
    match seqOfNum (p.getD 1 0) s with
    | some q => p.set 1 q
    | none => (p.set 0 0xE001).set 1 s.waybill.nextSeq
  else p

/-- A record stored at NEXT_SEQ (R571 to R574): kept below 1,024, circulating from there, and one more of its code in the second
(R565). -/
def storeRecord (num time code inst flags : Nat) (p : List Nat) (s : State) : State :=
  let n := s.waybill.nextSeq
  let r : WbRecord :=
    { seq := n, time := time, code := code, inst := inst, flags := flags, p := resolveParams code p s,
      gen := s.waybill.clearGen, boot := s.recovery.boots % 2 ^ 16, num := num }
  let c := wbCode code s
  let s := putWbCode { c with written := c.written + 1 } s
  count Cnt.recordsWritten 1 { s with waybill := { s.waybill with
    kept := if n < 1024 then s.waybill.kept ++ [r] else s.waybill.kept,
    circ := if n < 1024 then s.waybill.circ else (r :: s.waybill.circ).take 16384,
    nextSeq := n + 1,
    mirror := if (n + 1) % 256 = 0 then n + 1 else s.waybill.mirror } }

/-- The writer's acceptance of one submitted record under its code's limit (R575, R576). -/
def acceptRecord (r : WbSubmit) (s : State) : State :=
  let c := wbCode r.code s
  if (codeLimit r.code).any (fun l => decide (l ≤ c.written)) then wbSuppress r.code r.time s
  else storeRecord r.num r.time r.code r.inst (if r.held then 4 else 0) r.p s

/-- WAYBILL_RECORD_WRITE: the writer accepts the oldest submitted record (R575); none before NEXT_SEQ is restored after a return of
input power (R574). -/
def execWaybillRecordWrite (s : State) : Host.Outcome State Fault Refusal :=
  match s.waybill.queue with
  | [] => .next s
  | r :: rest =>
    .next (if s.waybill.restoreDue then s else acceptRecord r { s with waybill := { s.waybill with queue := rest } })

/-- SUPPRESSED records of a window, one per code, the 64th standing for every later code (R577). -/
def writeSuppressed (time : Nat) : Nat → List WbCode → State → State
  | _, [], s => s
  | 0, _, s => s
  | 1, [c], s => storeRecord 0 time 0xF002 noInst 0 [c.code, c.suppressed, c.first, c.last] s
  | 1, c :: cs, s =>
    let all := c :: cs
    storeRecord 0 time 0xF002 noInst 0
      [0xFFFF, (all.map (·.suppressed)).foldl (· + ·) 0, (all.map (·.first)).foldl Nat.min c.first,
        (all.map (·.last)).foldl Nat.max 0] s
  | n + 2, c :: cs, s =>
    writeSuppressed time (n + 1) cs (storeRecord 0 time 0xF002 noInst 0 [c.code, c.suppressed, c.first, c.last] s)

/-- The window's counts closed at the end of TIME64 second `s.waybill.second` (R576, R577). -/
def closeWindow (s : State) : State :=
  let end_ := (s.waybill.second + 1) * 1000000000
  writeSuppressed end_ 64 (s.waybill.codes.filter (fun c => c.suppressed != 0))
    { s with waybill := { s.waybill with
      second := s.now / 1000000000,
      codes := s.waybill.codes.map (fun c => { c with written := 0, suppressed := 0, first := 0, last := 0 }) } }

/-- RATE_WINDOW_END: nothing happens before the second has ended, nor before NEXT_SEQ is restored. -/
def execRateWindowEnd (s : State) : Host.Outcome State Fault Refusal :=
  if s.waybill.second < s.now / 1000000000 ∧ s.waybill.restoreDue = false then .next (closeWindow (rollSat s)) else .next s

/-- The 64 bytes of a record (Table 23.1). -/
def wbBytes (r : WbRecord) : List Byte :=
  let body := leBytes 8 r.seq ++ leBytes 8 r.time ++
    leBytes 8 (r.code * 2 ^ 48 + r.inst * 2 ^ 32 + r.flags + (if r.seq < 1024 ∧ bitOf r.flags 1 = false then 1 else 0)) ++
    leBytes 8 (r.p.getD 0 0) ++ leBytes 8 (r.p.getD 1 0) ++ leBytes 8 (r.p.getD 2 0) ++ leBytes 8 (r.p.getD 3 0) ++
    leBytes 4 (r.gen % 2 ^ 16 * 2 ^ 16 + r.boot)
  body ++ leBytes 4 (crc32c body ^^^ r.damage).toNat

/-- A synthetic record, produced by a read (R578). -/
def synthetic (seq code : Nat) (p : List Nat) (s : State) : WbRecord :=
  { seq := seq, time := s.now, code := code, inst := noInst, flags := 2, p := p, gen := s.waybill.clearGen,
    boot := s.recovery.boots % 2 ^ 16 }

/-- What a read of WB_READ at cursor c returns, and the cursor after it (R579). -/
def wbReadAt (c : Nat) (s : State) : WbRecord × Nat :=
  let oldest := oldestSeq s
  let next := s.waybill.nextSeq
  if next ≤ c then (synthetic c 0xFFF1 [next] s, c)
  else if c < keptUsed s then
    ((s.waybill.kept.getD c (synthetic c 0xFFF1 [next] s)), c + 1)
  else if oldest ≤ c then
    match s.waybill.circ.find? (fun r => r.seq == c) with
    | some r => (r, c + 1)
    | none => (synthetic c 0xFFF0 [c + 1, 1] s, c + 1)
  else (synthetic c 0xFFF0 [oldest, oldest - c] s, oldest)

/-- The clear of R581, in one instant; `who` is Table 23.4's identity. -/
def clearWaybill (who : Nat) (s : State) : State :=
  let p := [s.waybill.nextSeq, s.waybill.suppressedTotal, who, s.waybill.clearGen]
  let s := { s with
    waybill := { s.waybill with
      kept := [], circ := [], nextSeq := 0, oldestFloor := 1024, suppressedTotal := 0,
      codes := s.waybill.codes.map (fun c => { c with total := 0, suppressed := 0, first := 0, last := 0 }),
      clearGen := (s.waybill.clearGen + 1) % 2 ^ 16, lastClear := s.now, copying := some s.now },
    dict := { s.dict with
      requesters := s.dict.requesters.map (fun r => { r with selectors := alErase r.selectors Ent.wbCursor }) } }
  storeRecord 0 s.now 0xF001 noInst 0 p s

end Sys2Proof.Machine
end

