-- ==== Sys2Proof/Machine/EntryRead.lean ====
section
/-! DEFINITION. What a read of a dictionary entry returns: the values of the RO entries, taken from the state they report
(R541, R556 to R569). -/

namespace Sys2Proof.Machine

open Sys2Proof

/-- ZEROISE_PROGRESS: while the tiers are written, the cold tier's gigabytes at its typical rate of 2.35 TB/s (R502; log 195). -/
def zeroiseDone (s : State) : Nat :=
  if s.job.state = jobZeroising then Nat.min 1024 ((s.now - s.security.zeroiseAt) * 235 / 100000000)
  else s.security.zeroiseProgress

/-- A flag as a number. -/
def flagNat (b : Bool) : Nat := if b then 1 else 0

/-- The index directory: every index that holds entries, ascending (R564). -/
def indexList : List Nat :=
  sortNats ((counterIndices.map (·.1)) ++
    ((entryTable.filter (fun e => e.sub == 1)).map (fun e => (List.range e.count).map (fun k => e.index + k * e.stride))).foldr
      (· ++ ·) [])

/-- INDEX_READ at a position (Table 22.3). -/
def dirEntry (pos : Nat) : List Byte :=
  let i := indexList.getD pos 0
  let aon := (0x1000 ≤ i && i ≤ 0x1FFF) || i == 0x2E00
  leBytes 2 i ++ leBytes 1 ((highestSub i).getD 0) ++ leBytes 1 (flagNat aon + 2 * flagNat (i / 0x1000 == 6)) ++
  leBytes 4 0

/-- Entries that report the state of a job: they read their defaults while JOB_STATE is NONE (R561). -/
def jobBound (index sub : Nat) : Bool :=
  (0x2010 ≤ index && index ≤ 0x201F) || (index == 0x2020 && (sub == 2 || sub == 7)) ||
  (index == 0x2100 && (sub == 1 || sub == 8)) ||
  (index == 0x2200 && (sub == 1 || sub == 2 || sub == 0x0B || sub == 0x0C)) ||
  (index == 0x2500 && (sub == 8 || sub == 9)) || (index == 0x2550 && sub == 5) || (index == 0x2560 && sub == 3) ||
  (index == 0x2600 && (sub == 4 || sub == 5 || sub == 6 || sub == 7)) || (index == 0x2603 && sub == 9) ||
  (0x2610 ≤ index && index ≤ 0x261F) || index == 0x2621 || (index == 0x2800 && (sub == 4 || sub == 5)) ||
  (index == 0x2C10 && (sub == 5 || sub == 6 || sub == 7))

/-- Table 0.2 and Table 22.3. -/
def readIdentity (r : ReqId) (index sub : Nat) (s : State) : Option (List Byte) :=
  if index = 0x1000 then
    match sub with
    | 1 => some (padTo 16 s.identity.orderingNumber)
    | 2 => some (leBytes 2 (popcount 384 s.identity.arrayMap.toNat))
    | 3 => some (leBytes 48 s.identity.arrayMap.toNat)
    | 4 => some (leBytes 1 s.identity.northStepping.toNat)
    | 5 => some (leBytes 1 s.identity.southStepping.toNat)
    | 6 => some (leBytes 1 s.identity.hubStepping.toNat)
    | 7 => some (leBytes 4 s.identity.fwVersion.toNat)
    | 8 => some (leBytes 1 s.pins.moduleSlot.toNat)
    | 9 => some (leBytes 4 s.recovery.boots)
    | 0x0A => some (leBytes 8 s.now)
    | _ => none
  else if index = 0x1001 then
    match sub with
    | 1 => some (leBytes 2 indexList.length)
    | 3 => some (dirEntry (selVal Ent.indexSelect r s))
    | _ => none
  else if index = 0x1F00 ∧ sub = 3 then some (leBytes 2 s.security.dictEthertype.toNat)
  else none

/-- MAX_CANDIDATES of a binding, from its graph (log 37). -/
def maxCandidates (b : Nat) (s : State) : Nat :=
  match serviceGraph (bEnt Ent.bindingContext b s) s with
  | none => 0
  | some g => match versionOf g.id g.current s with
    | some v => Config.maxCandidates v.featureMap
    | none => 0

/-- Tables 2.11, 3.9, 4.8 and 8.6. -/
def readServing (r : ReqId) (index sub : Nat) (s : State) : Option (List Byte) :=
  if 0x2010 ≤ index ∧ index ≤ 0x201F then
    let b := index - 0x2010
    match sub with
    | 0x0E => some (leBytes 2 (maxCandidates b s))
    | 0x0F => some (leBytes 4 (measuredService b s))
    | 0x10 => some (leBytes 4 (measuredExit b s))
    | 0x11 => some (leBytes 4 (measuredInterval b s))
    | _ => none
  else if index = 0x2020 then
    match sub with
    | 2 => some (leBytes 4 s.sequences.sessions.length)
    | 7 => some (leBytes 8 s.sequences.poolFree)
    | _ => none
  else if index = 0x2100 then
    match sub with
    | 1 => some (leBytes 2 s.lookup.tables.length)
    | 8 => some (leBytes 64 ((tableOf (selVal Ent.tableSelect r s) s).getD 0).toNat)
    | _ => none
  else if index = 0x2200 then
    match sub with
    | 1 => some (leBytes 8 s.updates.epoch)
    | 2 => some (leBytes 4 ((s.updates.batches.map (fun b => 2 ^ b.num)).foldl (· ||| ·) 0))
    | 0x0B => some (((List.range 12).map (fun k => leBytes 4 (indexUsed k s))).foldr (· ++ ·) [])
    | 0x0C => some (leBytes 4 (readersOf (s.updates.epoch - 1) s))
    | _ => none
  else none

/-- Tables 5.6 and 7.14: the per-core entries (R566); CC_STATE of a core whose group is not on reads 0 (log 208). -/
def readCore (index sub : Nat) (s : State) : Option (List Byte) :=
  let c := (index - 0x3000) / 0x20
  if index / 0x1000 ≠ 3 then none
  else if index % 0x20 = 1 then
    match sub with
    | 1 => some (leBytes 1 (if c < 96 then s.identity.arrayMap.toNat / 2 ^ (4 * c) % 16 else 1))
    | 2 => some (leBytes 1 (flagNat (matOf c s).failed))
    | 3 => some (leBytes 2 (((matOf c s).sparesUsed.map (·.2)).foldl (· + ·) 0))
    | 4 => some (leBytes 2 (matOf c s).repairPending.length)
    | _ => none
  else
    match sub with
    | 1 => some (leBytes 1 (if coreOn c s then Nat.max 1 (ctlOf c s).ccState else 0))
    | 2 => some (leBytes 8 (ctlOf c s).tasksRun)
    | _ => none

/-- GRAPH_READ (Table 10.11). -/
def graphBytes (id : Nat) (s : State) : List Byte :=
  match graphOf id s with
  | none => List.replicate 32 0
  | some g =>
    let num := fun (k : Nat) => ((g.versions.drop k).head?.map (·.num)).getD 0
    let run := fun (k : Nat) => ((g.versions.drop k).head?.map (·.running)).getD 0
    padTo 32 (leBytes 2 g.current ++ leBytes 2 g.versions.length ++
      ((List.range 4).map (fun k => leBytes 2 (num k))).foldr (· ++ ·) [] ++
      ((List.range 4).map (fun k => leBytes 4 (run k))).foldr (· ++ ·) [])

/-- Tables 10.2, 10.11, 11.4 and 12.5. -/
def readQueues (r : ReqId) (index sub : Nat) (s : State) : Option (List Byte) :=
  if 0x2510 ≤ index ∧ index < 0x2550 then
    let n := index - 0x2510
    match sub with
    | 3 => if (queueOf n s).state = 0 then none else some (leBytes 8 (ringAddr n s))
    | 4 => if (queueOf n s).state = 0 then none else some (leBytes 8 (complAddr n s))
    | 7 => some (leBytes 4 (queueOf n s).head)
    | 8 => some (leBytes 1 (queueOf n s).state)
    | _ => none
  else if index = 0x2500 then
    match sub with
    | 7 => some (leBytes 1 s.dispatch.postilionState)
    | 8 => some (graphBytes (selVal Ent.graphSelect r s) s)
    | 9 => some (leBytes 2 s.dispatch.graphs.length)
    | _ => none
  else if index = 0x2550 ∧ sub = 5 then some (leBytes 1 s.runahead.ids.length)
  else if index = 0x2560 ∧ sub = 3 then some (leBytes 1 s.legacy.state)
  else none

/-- The bits of a slot entry that are not RSVD (Table 13.3): RSVD fields read as 0 (R16). -/
def slotFields : Nat := 2 ^ 128 - 2 ^ 109 + (2 ^ 64 - 2 ^ 50) + (2 ^ 48 - 2 ^ 16)

/-- The bits of a peer record that are not RSVD (Table 17.2): RSVD fields read as 0 (R16). -/
def peerFields : Nat :=
  2 ^ 512 - 2 ^ 256 + (2 ^ 192 - 2 ^ 64) + (2 ^ 64 - 2 ^ 46) + (2 ^ 32 - 2 ^ 16)

/-- Tables 13.5 to 13.7. -/
def readJob (index sub : Nat) (s : State) : Option (List Byte) :=
  if index = 0x2600 then
    match sub with
    | 1 => some (leBytes 1 s.job.state)
    | 4 => some (leBytes 8 s.job.tag.toNat)
    | 5 => some (leBytes 8 s.job.deployedAt)
    | 6 => some (leBytes 1 s.job.deployer)
    | 7 => some (leBytes 4 s.job.restarts)
    | _ => none
  else if index = 0x2603 then
    match sub with
    | 8 => some (leBytes 1 (currentSlot s))
    | 9 => some (leBytes 1 (flagNat s.job.schedPending))
    | _ => none
  else if index = 0x2620 then some (leBytes 16 (slotEntry s.job.pendingTable (sub - 1) &&& slotFields))
  else if index = 0x2621 then some (leBytes 16 (slotEntry s.job.activeTable (sub - 1) &&& slotFields))
  else if 0x2610 ≤ index ∧ index ≤ 0x261F then
    (contextOf (index - 0x2610) s).map (fun c =>
      match sub with
      | 1 => leBytes 1 1
      | 2 => leBytes 2 c.cgMask.toNat
      | 3 => leBytes 4 c.sramBase
      | 4 => leBytes 4 c.sramBytes
      | 5 => leBytes 4 c.stagingBase
      | 6 => leBytes 4 c.stagingBytes
      | 7 => leBytes 2 c.accBase
      | 8 => leBytes 2 c.accEntries
      | 9 => leBytes 8 c.hbmQuota
      | 0x0A => leBytes 8 c.hbmUsed
      | _ => leBytes 8 c.coldQuota)
  else none

/-- The lowest free-spare count among a stack's channels. -/
def stackSpares (r : Nat) (s : State) : Nat :=
  ((List.range 32).map (fun u => sparesFree r u s)).foldl Nat.min (sparesFree r 0 s)

/-- Present pin rates in Mb/s at an operating point: HBM4E, cold tier (Table 19.1). -/
def pinRates (point : Nat) : Nat × Nat :=
  if point ≤ 1 then (12800, 14400) else if point = 2 then (9600, 9600) else (6400, 9600)

/-- Journal entries PENDING or FUSING (R392). -/
def journalWaiting (s : State) : Nat := s.mem.journal.countP (fun e => e.state == 1 || e.state == 2)

/-- Tables 14.7 and 14.8. -/
def readMemory (r : ReqId) (index sub : Nat) (s : State) : Option (List Byte) :=
  if index = 0x2700 then
    match sub with
    | 6 => some (((List.range 12).map (fun k => leBytes 4 (stackSpares k s))).foldr (· ++ ·) [])
    | 7 => some (((List.range 16).map (fun p => leBytes 4 (sparesFree 12 p s))).foldr (· ++ ·) [])
    | 8 => some (leBytes 4 (s.mem.retired.countP (fun f => !s.mem.unretire.contains f)))
    | 9 => some (leBytes 32 s.mem.lastUe.toNat)
    | 0x0A => some (leBytes 2 (journalWaiting s))
    | 0x0B => some (leBytes 2 (pinRates s.power.opPoint).1)
    | 0x0C => some (leBytes 2 (pinRates s.power.opPoint).2)
    | _ => none
  else if index = 0x6700 then
    match sub with
    | 2 => some (leBytes 4 (s.mem.repairDone * 2 ^ 16 + journalWaiting s))
    | 6 => some (((s.mem.journal.drop (selVal Ent.journalSelect r s)).head?.map journalBytes).getD (List.replicate 16 0))
    | _ => none
  else none

/-- AGENT_FAULT (Table 15.8): the fault an agent waits on. -/
def agentFault (a : Nat) (s : State) : List Byte :=
  let b := fun (st page : Nat) => leBytes 1 st ++ List.replicate 7 0 ++ leBytes 8 (page * 4096)
  match s.xlate.faults.find? (fun f => f.waiters.contains a) with
  | some f => b (if f.queued then 1 else 2) f.page
  | none => match s.xlate.heldFaults.find? (fun f => f.agent == a) with
    | some f => b 3 f.page
    | none => List.replicate 16 0

/-- Tables 15.8 and 16.8. -/
def readHost (r : ReqId) (index sub : Nat) (s : State) : Option (List Byte) :=
  if index = 0x2800 then
    match sub with
    | 4 => some (leBytes 4 s.xlate.fqTail)
    | 5 => some (leBytes 8 (flagNat s.xlate.overflow * 2 ^ 63 + s.xlate.faults.countP (fun f => !f.queued)))
    | 0x0C => some (leBytes 4 s.xlate.mapHead)
    | 0x10 => some (((List.range 12).map (fun k => leBytes 4 (leavesFree k s))).foldr (· ++ ·) [])
    | 0x13 => some (agentFault (selVal Ent.agentSelect r s) s)
    | _ => none
  else if index = 0x2900 then
    match sub with
    | 3 => some (leBytes 1 s.hostif.linkGen)
    | 4 => some (leBytes 1 s.hostif.linkWidth)
    | 0x0B => some (leBytes 8 s.hostif.bar2Size)
    | 0x0C => some (leBytes 1 (flagNat (hostReachable s)))
    | _ => none
  else none

/-- PEER_STATE (Table 17.11). -/
def peerState (p : Nat) (s : State) : List Byte :=
  match s.fabric.sessions.find? (fun x => x.peer == p) with
  | none => List.replicate 16 0
  | some x =>
    leBytes 1 x.state ++ leBytes 1 x.gen ++ leBytes 2 0 ++ leBytes 4 x.srtt ++ leBytes 4 x.cwnd ++ leBytes 4 x.ops.length

/-- Table 17.11. -/
def readFabric (r : ReqId) (index sub : Nat) (s : State) : Option (List Byte) :=
  if index = 0x2A00 then
    match sub with
    | 5 => some (leBytes 1 s.fabric.state)
    | 8 => some (leBytes 64 (((alGet s.fabric.peers (selVal Ent.fabPeerSelect r s)).getD 0).toNat &&& peerFields))
    | 9 => some (peerState (selVal Ent.fabPeerSelect r s) s)
    | 0x19 => some (leBytes 2 s.fabric.peers.length)
    | 0x1A => some (leBytes 8 s.fabric.lastSnapshot.1 ++ leBytes 8 s.fabric.lastSnapshot.2.1 ++
        leBytes 8 s.fabric.lastSnapshot.2.2)
    | _ => none
  else if 0x2A10 ≤ index ∧ index ≤ 0x2A13 ∧ sub = 2 then
    some (leBytes 1 ((s.fabric.ifUp.filter (fun i => i / 4 == index - 0x2A10)).foldl (fun a i => a + 2 ^ (i % 4)) 0))
  else if 0x2A20 ≤ index ∧ index ≤ 0x2A2F ∧ sub = 1 then some (beBytes 6 (ifaceMac (index - 0x2A20) s))
  else none

/-- Table 18.12. RELAY_OUT is read through its queue (R546). -/
def readSecurity (r : ReqId) (index sub : Nat) (s : State) : Option (List Byte) :=
  if index ≠ 0x2B00 then none
  else
    let x := s.security
    match sub with
    | 1 => some (leBytes 8 x.serial.toNat)
    | 2 => some (leBytes 1 (flagNat x.debugLock))
    | 3 => some (leBytes 4 x.portRoles.toNat)
    | 4 => some (leBytes 2 x.sealPolicy.toNat)
    | 5 => some (padTo 5 (x.rollback.map (BitVec.ofNat 8)))
    | 7 => some (padTo 64 ((x.fwKeyDigest.map digestBytes).foldr (· ++ ·) []))
    | 8 => some (leBytes 1 x.fwKeyRevoked.toNat)
    | 9 => some (chainBytes s)
    | 0x0B => some (padTo 3949 x.quote)
    | 0x0C => some (padTo 512 ((x.ms.map digestBytes).foldr (· ++ ·) []))
    | 0x0E => some (((x.log.drop (selVal Ent.logSelect r s)).head?.map logBytes).getD (List.replicate 64 0))
    | 0x13 => some (digestBytes x.ownerDigest)
    | 0x15 => some (leBytes 8 x.ownerVa)
    | 0x19 => some (leBytes 1 (flagNat x.zeroisePending))
    | 0x1A => some (leBytes 4 (zeroiseDone s))
    | 0x1B => some (leBytes 1 x.owners.length)
    | 0x1C => some (leBytes 1 (flagNat (sealedJob s)))
    | _ => none

/-- Tables 19.5 and 19.6. -/
def readPower (index sub : Nat) (s : State) : Option (List Byte) :=
  let p := s.power
  if index = 0x2C00 then
    match sub with
    | 2 => some (leBytes 2 (meanPower s))
    | 3 => some (leBytes 4 p.inputMv)
    | 4 => some (leBytes 1 p.opPoint)
    | 7 => some (padTo 16 (p.groups.map (fun g => BitVec.ofNat 8 g.code)))
    | 8 => some (leBytes 2 (p.stage.getD 0 0 + 4 * p.stage.getD 1 0 + 16 * flagNat p.netOn + 32 * p.cold))
    | 0x0A => some (leBytes 4 (unsigned 32 (p.temps.foldl max (p.temps.headD 0))))
    | 0x0B => some (padTo 124 ((p.temps.map (fun t => leBytes 4 (unsigned 32 t))).foldr (· ++ ·) []))
    | 0x0F => some (leBytes 1 p.tripCause)
    | 0x11 => some (leBytes 1 (flagNat p.refClockOk))
    | _ => none
  else if index = 0x2C10 then
    match sub with
    | 5 => some (leBytes 4 (if p.bivTimes.isEmpty then 0 else median p.bivTimes))
    | 6 => some (leBytes 1 p.bivState)
    | 7 => some (leBytes 2 p.bivVersion)
    | _ => none
  else none

/-- FW_BANKS (Table 20.5). -/
def bankBytes (s : State) : List Byte :=
  let x := s.recovery
  let vers := fun (b : Nat) => (((List.range 5).map (fun t =>
    leBytes 4 (match (x.banks.getD b []).getD t none with
      | some i => i.version.toNat
      | none => 0))).foldr (· ++ ·) [])
  leBytes 1 x.active ++ leBytes 1 x.next ++ leBytes 1 (flagNat x.trial) ++ leBytes 1 0 ++ vers 0 ++ vers 1

/-- RATE_READ (Table 22.4). -/
def rateBytes (code : Nat) (s : State) : List Byte :=
  let c := wbCode code s
  leBytes 4 ((codeLimit code).getD 0xFFFFFFFF) ++ leBytes 4 c.written ++ leBytes 8 c.total

/-- Tables 20.5 and 22.4. WB_READ is read through its cursor (R579). -/
def readRecords (r : ReqId) (index sub : Nat) (s : State) : Option (List Byte) :=
  if index = 0x2D00 then
    match sub with
    | 2 => some (leBytes 1 s.recovery.cause)
    | 3 => some (leBytes 1 s.recovery.bootStage)
    | 0x0A => some (bankBytes s)
    | 0x0C => some (leBytes 8 s.recovery.lastRestart.1 ++ leBytes 4 s.recovery.lastRestart.2.1 ++
        leBytes 2 s.recovery.lastRestart.2.2 ++ leBytes 2 0)
    | _ => none
  else if index = 0x2E00 then
    match sub with
    | 3 => some (leBytes 2 (keptUsed s))
    | 4 => some (leBytes 8 s.waybill.nextSeq)
    | 5 => some (leBytes 8 (oldestSeq s))
    | 7 => some (wbBytes (wbReadAt (selVal Ent.wbCursor r s) s).1)
    | 9 => some (leBytes 8 s.waybill.suppressedTotal)
    | 0x0B => some (rateBytes (selVal Ent.rateSelect r s) s)
    | 0x0C => some (leBytes 8 s.waybill.lastClear)
    | _ => none
  else none

/-- The first answer of a list of readers. -/
def firstSome : List (Option (List Byte)) → Option (List Byte)
  | [] => none
  | some b :: _ => some b
  | none :: t => firstSome t

/-- A value that the state reports, for an entry that has one. -/
def liveValue (r : ReqId) (index sub : Nat) (s : State) : Option (List Byte) :=
  firstSome [readIdentity r index sub s, readServing r index sub s, readCore index sub s, readQueues r index sub s,
    readJob index sub s, readMemory r index sub s, readHost r index sub s, readFabric r index sub s,
    readSecurity r index sub s, readPower index sub s, readRecords r index sub s]

/-- The default of an entry as bytes; two lists repeat one number (Tables 14.7 and 15.8). -/
def defaultBytes (key : Nat) (typ : EType) (s : State) : List Byte :=
  if key = Ent.sparesFreeHbm ∨ key = Ent.sparesFreeCold ∨ key = Ent.leavesFree then
    ((List.range (typ.size / 4)).map (fun _ => leBytes 4 (entryDefault key s))).foldr (· ++ ·) []
  else leBytes typ.size (entryDefault key s)

/-- The bytes a whole read of an entry returns (R541): the requester's own selectors (R558), counters (R567), the status of
command entries (Table 21.4), what the state reports, and otherwise the value written or the default. -/
def entryBytes (r : ReqId) (index sub : Nat) (s : State) : List Byte :=
  let key := entryKey index sub
  match findEntry index sub with
  | none => []
  | some e =>
    if sub = 0 then leBytes 1 ((highestSub index).getD 0)
    else if e.acc = .cmd then cmdBytes key s
    else if isSelector key then leBytes e.typ.size (selVal key r s)
    else if 0x5000 ≤ index ∧ index ≤ 0x5FFF then leBytes 8 (counter key s)
    else if s.job.state = jobNone ∧ e.acc = .ro ∧ jobBound index sub = true then defaultBytes key e.typ s
    else match liveValue r index sub s with
      | some b => b
      | none => match alGet s.dict.values key with
        | some b => padTo e.typ.size b
        | none => defaultBytes key e.typ s

end Sys2Proof.Machine
end

