-- ==== Sys2Proof/Machine/Fabric.lean ====
section
/-! DEFINITION. Operations on the Mboes fabric (17, R461, R467 to R472; 03, R97; 04, R130 and R131): what a target serves, what a
requester does with a response, fabric descriptors and global operations. -/

namespace Sys2Proof.Machine

open Sys2Proof

/-! Serving a request (R467, R469). -/

/-- Every request of lower OP_SEQ is settled, or is a read that the module holds (R469). -/
def orderOk (x : FabSession) (seq : Nat) : Bool :=
  (List.range (seq - x.settled)).all (fun i =>
    let n := x.settled + i
    x.settledSet.contains n || x.rxOps.any (fun o => o.seq == n && (o.opcode == 1 || o.opcode == 5)))

/-- The request that a serve row names, when its turn has come and it has the row's operation code. -/
def rxOpOf (peer seq opcode : Nat) (s : State) : Option RxOp :=
  let x := sessOf peer s
  if x.state ≠ 2 then none
  else match x.rxOps.find? (fun o => o.seq == seq && o.opcode == opcode) with
    | some o => if orderOk x seq then some o else none
    | none => none

/-- The request that a serve row carries out in a service slot; it waits while all 64 are faulted (R467 step 3). -/
def servedOp (peer seq opcode : Nat) (s : State) : Option RxOp := if slotOpen peer seq s then rxOpOf peer seq opcode s else none

/-- A request answered and settled. -/
def answer (peer : Nat) (o : RxOp) (opcode : Nat) (body : List Byte) (s : State) : State :=
  let s := slotFree peer o.seq (settleSeq peer o.seq s)
  fabRespond peer o.seq opcode 0 0 body o.cls (count Cnt.opsServed 1 s)

/-- A request answered by STATUS (Table 17.5). -/
def answerStatus (peer : Nat) (o : RxOp) (st reason : Nat) (s : State) : State :=
  let s := slotFree peer o.seq (settleSeq peer o.seq s)
  let s := if st = stDenied then count Cnt.opsDenied 1 s else s
  fabRespond peer o.seq 0x8F o.opcode (BitVec.ofNat 64 (st * 2 ^ 56 + reason * 2 ^ 48)) [] o.cls (count Cnt.opsServed 1 s)

/-- Every byte of an access lies in the module's window and outside the module range (R467 step 1). -/
def windowOk (va n : Nat) (s : State) : Bool :=
  decide (1 ≤ n) && decide (ent Ent.fabWindowBase s ≤ va) &&
  decide (va + n ≤ ent Ent.fabWindowBase s + ent Ent.fabWindowBytes s) &&
  (pagesOf va n).all (fun p => !inModuleRange (p * 4096))

/-- FABRIC_LOAD_SERVE. -/
def execFabricLoadServe (peer seq : Nat) (s : State) : Host.Outcome State Fault Refusal :=
  match servedOp peer seq 1 s with
  | none => .next s
  | some o =>
    let va := o.o1.toNat
    let n := leAt o.body 0 4
    .next (if windowOk va n s = false ∨ 4096 < n then answerStatus peer o stDenied 2 s
    else match memCheck va n .read s with
      | .ok => answer peer o 0x81 (devRead s va n) (noteDmaRead va n (hubAccess va n s))
      | m => serveStall peer seq .read m s)

/-- FABRIC_STORE_SERVE. -/
def execFabricStoreServe (peer seq : Nat) (s : State) : Host.Outcome State Fault Refusal :=
  match servedOp peer seq 2 s with
  | none => .next s
  | some o =>
    let va := o.o1.toNat
    let n := o.body.length
    .next (if windowOk va n s = false ∨ 4096 < n then answerStatus peer o stDenied 2 s
    else match memCheck va n .write s with
      | .ok => answer peer o 0x82 [] (devWrite va o.body (hubAccess va n s))
      | m => serveStall peer seq .write m s)

/-- The records that one atomic unit takes from an OP_SEQ on, while LINK is set, at most four (R467 step 4); none while one of
them has not arrived. -/
def linkedOps : Nat → FabSession → Nat → Option (List RxOp)
  | 0, _, _ => some []
  | fuel + 1, x, seq =>
    match x.rxOps.find? (fun o => o.seq == seq && o.opcode == 3) with
    | none => none
    | some o => if bitOf o.subop 7 then (linkedOps fuel x (seq + 1)).map (o :: ·) else some [o]

/-- The unit is one that R467 allows: its words in one page and aligned, CAS alone. -/
def unitOk (os : List RxOp) : Bool :=
  let va := ((os.map (fun (o : RxOp) => o.o1)).headD 0).toNat
  decide (os.length ≤ 4) && (os.getLast?).all (fun (o : RxOp) => !bitOf o.subop 7) &&
  os.all (fun (o : RxOp) => o.o1.toNat % 8 == 0 && o.o1.toNat / 4096 == va / 4096 && decide (o.subop % 8 ≤ 4) &&
    (o.subop % 8 != 2 || os.length == 1))

/-- One word of an ATOMIC performed and answered with its old value. -/
def serveWord (peer : Nat) (o : RxOp) (s : State) : State :=
  let va := o.o1.toNat
  let old := devNat s va 8
  let s := devWrite va (leBytes 8 (fabAtomicNew (o.subop % 8) old (leAt o.body 0 8) (leAt o.body 8 8))) s
  answer peer o 0x83 (leBytes 8 old) s

/-- FABRIC_ATOMIC_SERVE: a unit of linked records is applied together. -/
def execFabricAtomicServe (peer seq : Nat) (s : State) : Host.Outcome State Fault Refusal :=
  match servedOp peer seq 3 s with
  | none => .next s
  | some o =>
    match linkedOps 4 (sessOf peer s) seq with
    | none => .next s
    | some os =>
      let deny := fun (reason : Nat) (s : State) => os.foldl (fun s o => answerStatus peer o stDenied reason s) s
      if unitOk os = false then .next (deny 0 s)
      else if os.all (fun o => windowOk o.o1.toNat 8 s) = false then .next (deny 2 s)
      else match memCheck (o.o1.toNat / 4096 * 4096) 4096 .atomic s with
        | .ok => .next (os.foldl (fun s o => serveWord peer o s) (hubAccess o.o1.toNat 8 s))
        | m => .next (serveStall peer seq .atomic m s)

/-- FABRIC_SIGNAL_SERVE: the atomic of R307. -/
def execFabricSignalServe (peer seq : Nat) (s : State) : Host.Outcome State Fault Refusal :=
  match servedOp peer seq 4 s with
  | none => .next s
  | some o =>
    let va := o.o1.toNat
    .next (if windowOk va 8 s = false then answerStatus peer o stDenied 2 s
    else match memCheck va 8 .atomic s with
      | .ok => answer peer o 0x82 [] (hitchSignal va (o.subop == 1) (leAt o.body 0 8) (hubAccess va 8 s))
      | m => serveStall peer seq .atomic m s)

/-! Remote lookups (R97, R470). -/

/-- The owner refuses a lookup: a reason of Table 17.8, 0 for none. -/
def lookupDenied (peer : Nat) (o1 : Nat) (s : State) : Nat :=
  match tableOf (field o1 63 52) s with
  | none => 3
  | some t =>
    if ent Ent.exportEnable s = 0 ∨ tExport t = false then 3
    else if isMember peer s = false then 1
    else if tDim t ≠ field o1 15 0 + 1 ∨ tFmt t ≠ field o1 39 36 ∨ tScaleMode t ≠ field o1 35 34 ∨
        tScaleFmt t ≠ field o1 33 32 ∨ tOffset t ≠ bitOf o1 31 then 4
    else 0

/-- The descriptor that stands for a lookup served for another module: MODE, WEIGHTED and CONCAT_N as asked, every bag number
allowed. -/
def servedDesc (o1 : Nat) : Desc :=
  BitVec.ofNat 512 (0x21 * 2 ^ 56 + field o1 51 49 * 2 ^ 53 + 2 * 2 ^ 48 + field o1 48 48 * 2 ^ 47 + field o1 47 40 * 2 ^ 32 +
    field o1 63 52 * 2 ^ 20 + 65535)

/-- One entry of a request resolved at the owner (R75). -/
def serveRemoteEntry (id : Nat) (t : Desc) (e : List Byte) (k : Nat) (a : LookupJob × State) : LookupJob × State :=
  let v := leAt e 0 8
  let w := leAt e 8 8
  match resolveRow t v with
  | none => ({ a.1 with oor := a.1.oor + 1 }, count Cnt.oorEntries 1 a.2)
  | some r =>
    let s := ensureFrame (slotVa t r / 4096) a.2
    let x : LookupEntry :=
      { pos := k, bag := field w 63 32, place := field w 15 8, table := id, row := r, weight := BitVec.ofNat 16 (field w 31 16),
        lane := rowLane id r t s }
    ({ a.1 with toServe := a.1.toServe ++ [x] }, s)

/-- FABRIC_LOOKUP_SERVE: the lookup is issued to the module's own home stacks, without a launch, on the epoch current when it
arrived; its bags are answered as they complete (R97). -/
def execFabricLookupServe (peer seq : Nat) (s : State) : Host.Outcome State Fault Refusal :=
  match servedOp peer seq 5 s with
  | none => .next s
  | some o =>
    if s.lookup.jobs.any (fun j => j.serves == some (peer, seq)) then .next s
    else
      let o1 := o.o1.toNat
      let reason := lookupDenied peer o1 s
      match tableOf (field o1 63 52) s with
      | none => .next (count Cnt.remoteDenied 1 (answerStatus peer o stDenied 3 s))
      | some t =>
        if reason ≠ 0 then .next (count Cnt.remoteDenied 1 (answerStatus peer o stDenied reason s))
        else
          let es := entriesOf 16 o.body
          let bags := (es.map (fun e => leAt e 12 4)).eraseDups
          let mark : RemoteGroup :=
            { owner := peer, sentAt := none, settled := true,
              entries := bags.map (fun b =>
                { pos := 0, bag := b, place := 0, table := field o1 63 52, row := 0, weight := 0, lane := 0 }) }
          let org : Origin :=
            { context := 0, queue := 0, cls := .B, launch := none, stage := 0, cmd := none,
              postilion := false }
          let j : LookupJob :=
            { id := s.lookup.nextId, core := 98 + (freeSlot s).getD 0, desc := servedDesc o1, org := org, epoch := o.epoch,
              issuedAt := s.now, spec := 0, dim := tDim t, shapeTable := field o1 63 52, toServe := [], parked := [],
              lanePartials := [], stackPartials := [], placed := [], remote := [mark], written := [], released := 0, torn := 0,
              sat := 0, oor := 0, misses := 0, rowsRead := 0, retries := 0, timedOut := false, denied := false,
              serves := some (peer, seq) }
          let r := es.zipIdx.foldl (fun a e => serveRemoteEntry (field o1 63 52) t e.1 e.2 a) (j, s)
          let s := count Cnt.remoteServed 1 (count Cnt.opsServed 1 r.2)
          .next { s with lookup := { s.lookup with jobs := s.lookup.jobs ++ [r.1], nextId := s.lookup.nextId + 1 } }

/-! Remote rows (R129 to R131). -/

/-- A request that waits notes since when; a row does so from its arrival (R116). -/
def noteWait (peer seq : Nat) (s : State) : State :=
  updSess peer (fun x => { x with rxOps := x.rxOps.map (fun o =>
    if o.seq = seq then { o with since := some (o.since.getD s.now) } else o) }) s

/-- A request has waited for longer than a limit. -/
def waitedFor (o : RxOp) (limit : Nat) (s : State) : Bool := o.since.any (fun t => decide (t + limit ≤ s.now))

/-- FABRIC_ROW_STAGE. -/
def execFabricRowStage (peer seq : Nat) (s : State) : Host.Outcome State Fault Refusal :=
  match rxOpOf peer seq 6 s with
  | none => .next s
  | some o =>
    .next (match stageRemoteRow peer o.subop (field o.o1.toNat 63 52) o.body s with
      | .refuse st reason => answerStatus peer o st reason s
      | .staged s => answer peer o 0x82 [] s
      | .wait =>
        if waitedFor o (ent Ent.deferLimitNs s) s then answerStatus peer o stDeferred 0 s else noteWait peer seq s)

/-- FABRIC_BATCH_COMMIT: the owner commits a remote batch as an epoch of its own under R118 and R119. -/
def execFabricBatchCommit (peer seq : Nat) (s : State) : Host.Outcome State Fault Refusal :=
  match rxOpOf peer seq 7 s with
  | none => .next s
  | some o =>
    .next (match s.updates.remoteBatches.find? (fun b => b.peer == peer && b.batch == o.subop) with
      | none => answerStatus peer o stDenied 0 s
      | some b =>
        if b.rows ≠ leAt o.body 0 4 then answerStatus peer o stDenied 0 s
        else if readersOf (s.updates.epoch - 1) s ≠ 0 then
          if waitedFor o (ent Ent.commitWaitNs s) s then answerStatus peer o stTimeout 0 s else noteWait peer seq s
        else
          let s := publishBatch (16 + b.num) s
          let s := { s with updates := { s.updates with
            remoteBatches := s.updates.remoteBatches.filter (fun x => x.num != b.num) } }
          answer peer o 0x87 (leBytes 8 s.updates.epoch) s)

/-- FABRIC_BATCH_ABORT. -/
def execFabricBatchAbort (peer seq : Nat) (s : State) : Host.Outcome State Fault Refusal :=
  match rxOpOf peer seq 8 s with
  | none => .next s
  | some o => .next (answer peer o 0x82 [] (abortRemote (fun b => b.peer == peer && b.batch == o.subop) s))

/-! Responses (R468). -/

/-- A write that APPLIED answers. -/
def appliedBy (o : FabOp) (n : Nat) : Bool :=
  decide (o.seq ≤ n) && (o.opcode == 2 || o.opcode == 4 || o.opcode == 6 || o.opcode == 8)

/-- The operation leaves the session's pending ones. -/
def dropOp (peer seq : Nat) (s : State) : State := updSess peer (fun x => { x with ops := x.ops.filter (fun o => o.seq != seq) }) s

/-- A response or STATUS record acted on. -/
def takeResponse (peer : Nat) (r : List Byte) (s : State) : State :=
  let x := sessOf peer s
  let seq := recSeq r
  let o1 := (recO1 r).toNat
  if recOpcode r = 0x82 then
    let done := x.ops.filter (fun o => appliedBy o seq)
    done.foldl (fun s o => opApplied o s) (putSess { x with ops := x.ops.filter (fun o => !appliedBy o seq) } s)
  else match x.ops.find? (fun o => o.seq == seq) with
    | none => s
    | some o =>
      if recOpcode r = 0x8F then
        let st := field o1 63 56
        let s := if st = stDenied then count Cnt.opsDenied 1 s else s
        opFailed o st (field o1 55 48) (dropOp peer seq s)
      else if recOpcode r = 0x81 then
        (match o.unit with
         | .tile id tile => tileLoaded id tile o.o1.toNat (recBody r) (dropOp peer seq s)
         | _ => dropOp peer seq s)
      else if recOpcode r = 0x83 then
        (match o.unit with
         | .atomic id => atomicAnswer id o.o1.toNat (leAt (recBody r) 0 8) (dropOp peer seq s)
         | _ => dropOp peer seq s)
      else if recOpcode r = 0x85 then
        (match o.unit with
         | .lookup id k =>
           let s := lookupAnswer id k o1 (recBody r) s
           if (lookupOf id s).any (fun j => (j.remote[k]?).any (fun g => !g.settled)) then s else dropOp peer seq s
         | _ => dropOp peer seq s)
      else if recOpcode r = 0x87 then opApplied o (dropOp peer seq s)
      else s

/-- FABRIC_RESPONSE_RX of a record that a DATA packet has brought. -/
def execFabricResponseRx (peer : Nat) (record : List Byte) (s : State) : Host.Outcome State Fault Refusal :=
  let x := sessOf peer s
  if x.inbox.contains record = false ∨ recOpcode record < 0x80 then .next s
  else
    let s := takeResponse peer record (putSess { x with inbox := x.inbox.erase record } s)
    .next (tryLeave (retryGlobals (pump peer s)))

/-! Descriptors (R471, R472). -/

/-- A fabric descriptor row: the descriptor is the row's own, or a job fault of its decode check. -/
def takeFab (opcode subop : Nat) (core : Nat) (d : Desc) (org : Origin) (s : State) : Host.Outcome State Fault Refusal :=
  if 98 ≤ core then .fault .noSuchUnit
  else
    if inTurn core d org s = false then .next (holdIssued core d org s)
    else
    let s := takeIssued core d org s
    if (matOf core s).failed then .next (jobFaultPlain 10 core 8 (df d 0 15 0) (df d 0 63 56) s)
    else if df d 0 63 56 ≠ opcode ∨ (opcode = 0x61 ∧ df d 0 55 53 ≠ subop) then
      .next (jobFaultPlain 10 core 1 (df d 0 15 0) (df d 0 63 56) s)
    else .next (takeFabDesc core d org s)

/-- FABRIC_ATOMIC. -/
def execFabricAtomic (core : Nat) (desc : Desc) (org : Origin) (s : State) : Host.Outcome State Fault Refusal :=
  takeFab 0x60 0 core desc org s

/-- FABRIC_BARRIER. -/
def execFabricBarrier (core : Nat) (desc : Desc) (org : Origin) (s : State) : Host.Outcome State Fault Refusal :=
  takeFab 0x61 0 core desc org s

/-- FABRIC_BROADCAST. -/
def execFabricBroadcast (core : Nat) (desc : Desc) (org : Origin) (s : State) : Host.Outcome State Fault Refusal :=
  takeFab 0x61 1 core desc org s

/-- FABRIC_SNAPSHOT. -/
def execFabricSnapshot (core : Nat) (desc : Desc) (org : Origin) (s : State) : Host.Outcome State Fault Refusal :=
  takeFab 0x61 2 core desc org s

/-- FABRIC_ATOMIC_CORE_RELEASE: 4 µs after issue the core no longer waits (R471). -/
def execFabricAtomicCoreRelease (id : Nat) (s : State) : Host.Outcome State Fault Refusal :=
  .next { s with fabric := { s.fabric with
    descs := s.fabric.descs.map (fun f =>
      if f.id = id ∧ f.holdsCore = true ∧ f.issuedAt + 4000 ≤ s.now then { f with holdsCore := false } else f) } }

/-! Global operations (R472). -/

/-- A release for this member: a BROADCAST lands only where its destination may be written. -/
def takeRelease (peer g gseq subop : Nat) (record : List Byte) (s : State) : State :=
  let gone := updSess peer (fun x => { x with inbox := x.inbox.erase record }) s
  let data := recBody record
  match globalDesc g gseq s with
  | some f =>
    if subop = 1 then
      match memCheck (dword f.desc 2) data.length .write s with
      | .ok => releaseGlobal g gseq subop data (slotFree (myModule s) (descSlotKey f.id) gone)
      | m => descStall f .write m s
    else releaseGlobal g gseq subop data gone
  | none => releaseGlobal g gseq subop data gone

/-- GLOBAL_OPERATION_RX: an arrival from a child, or a release from the module's aggregator. While the group is not on here,
the record waits. -/
def execGlobalOperationRx (peer : Nat) (record : List Byte) (s : State) : Host.Outcome State Fault Refusal :=
  let x := sessOf peer s
  let o1 := (recO1 record).toNat
  let g := field o1 63 60
  let gseq := field o1 31 0
  let grp := s.fabric.groups.getD g GGroup.reset
  if x.inbox.contains record = false ∨ recOpcode record ≠ 9 ∨ grp.enabled = false then .next s
  else if (childModules g (myModule s) s).contains peer then
    let s := putSess { x with inbox := x.inbox.erase record } s
    .next (tryGlobal g gseq { s with fabric := { s.fabric with
      groups := updAt s.fabric.groups g (fun y => { y with arrivals := y.arrivals ++ [(peer, gseq, recSubop record)] }) } })
  else if rankOf g (myModule s) s ≠ 0 ∧
      (memberList g s).getD (parentRank (rankOf g (myModule s) s)) 0 = peer then
    .next (takeRelease peer g gseq (recSubop record) record s)
  else .next (putSess { x with inbox := x.inbox.erase record } s)

/-- GLOBAL_TIMEOUT of a group: an operation not complete in time completes with TIMEOUT, and the group rejects further ones. -/
def execGlobalTimeout (group : Nat) (s : State) : Host.Outcome State Fault Refusal :=
  if 16 ≤ group then .fault .noSuchUnit
  else
    let late := s.fabric.descs.filter (fun f =>
      !f.held && df f.desc 0 63 56 == 0x61 && df f.desc 0 50 47 == group &&
      decide (f.issuedAt + ent Ent.fabGlobalTimeoutNs s ≤ s.now))
    if late.isEmpty then .next s
    else
      let s := { s with fabric := { s.fabric with
        groups := updAt s.fabric.groups group (fun y => { y with blocked := true }) } }
      .next (late.foldl (fun s f => completeGlobal f stTimeout 0 0 (slotFree (myModule s) (descSlotKey f.id) s)) s)

/-- What a write of a group's GGROUP_ENABLE does: a group that becomes enabled starts at GSEQ 1, one that is enabled already stays
as it is, blocked or not (R472). -/
def ggroupEnableAction (g : Nat) (_ : ReqId) (bytes : List Byte) (s : State) : State :=
  setEnt (Ent.ggGgroupEnable + 256 * g) 1 (ofLe bytes) { s with fabric := { s.fabric with
    groups := updAt s.fabric.groups g (fun x =>
      if x.enabled && ofLe bytes == 1 then x else { GGroup.reset with enabled := ofLe bytes == 1 }) } }

/-- GGROUP_ENABLE. -/
def execGgroupEnable (req : ReqId) (group value : Nat) (s : State) : Host.Outcome State Fault Refusal :=
  if 16 ≤ group then .fault .noSuchUnit
  else .next (writeVia (ggroupEnableAction group) req (0x2A30 + group) 2 (leBytes 1 value) s)

end Sys2Proof.Machine
end

