-- ==== Sys2Proof/Machine/Jobs.lean ====
section
/-! DEFINITION. Jobs and resident contexts (13, R353 to R360): deploy, undeploy and the end of a job, the creation and
deletion of contexts, and the cutting off of what a job has in flight. -/

namespace Sys2Proof.Machine

open Sys2Proof

/-! Work cut off (R63, R350, R355, R596). -/

/-- A command as it is cut off: RESTARTED with CUT_OFF. Its RESULT is what it had, the launch word of a launch that has begun,
or, of a descriptor that wrote no status record, a free value (R302; log 52). -/
def cutCmd (c : Cmd) (s : State) : Cmd :=
  let result : BitVec 64 :=
    if c.phase = .finished then c.result
    else match s.dispatch.launches.find? (fun l => l.cmd == some c.id) with
      | some l => launchWord l
      | none => if cmdOpcode c = 2 ∧ c.phase = .dispatched then Config.freeWord s.free else if c.legacy then c.result else 0
  { c with phase := .finished, status := stRestarted, reason := 8, result := result, signal := 2 }

/-- A command of a native queue cut off: its record is written where it can be, behind those that are held, and its
interrupt raised (R596). -/
def cutNative (n : Nat) (c : Cmd) (s : State) : State :=
  let c := cutCmd c s
  let s := count Cnt.commands 1 (updQueue n (fun q => { q with cmds := q.cmds.filter (fun x => x.id != c.id) }) (drawFree s))
  if !(queueOf n s).held.isEmpty || completionHeld n c s then
    count Cnt.heldCompletions 1 (updQueue n (fun q => { q with held := q.held ++ [c] }) s)
  else if (completionCheck n c s).1 = .ok then postCompletion n c s
  else if cb c 52 then raiseQueueVector n (ent (Ent.queueMsixVector + 256 * n) s) s else s

/-- A command of the legacy interface cut off (R350). -/
def cutLegacy (c : Cmd) (s : State) : State :=
  let c := cutCmd c s
  let s := count Cnt.legacyCommands 1 (updLegacy (fun l => { l with cmds := l.cmds.filter (fun x => x.id != c.id) }) (drawFree s))
  if !s.legacy.held.isEmpty || legHeld c s then
    count Cnt.heldCompletions 1 (updLegacy (fun l => { l with held := l.held ++ [c] }) s)
  else if (legCheck c s).1 = .ok then legPost c s
  else if cb c 52 then raiseQueueVector (legacyQ s) (s.legacy.msix.toNat % 128) s else s

/-- A write or transfer descriptor that its core has issued and no engine has taken, ended by a restart: its status record is
written where it passes its decode check (R132, R282). -/
def cutIssued (core : Nat) (p : Desc × Origin) (s : State) : State :=
  let op := df p.1 0 63 56
  let s := takeIssued core p.1 p.2 s
  if 0x22 ≤ op ∧ op ≤ 0x25 then
    if wSpec p.1 ≠ 0 ∨ writeOk core p.1 p.2 s = false ∨ (stalledWrite core p.1 p.2 s).isSome = true then s
    else endWriteWith s.updates.nextId stRestarted wrCutOff (pushWrite core p.1 p.2 s)
  else if op = 0x10 ∨ op = 0x11 then
    if xSpec p.1 ≠ 0 ∨ transferOk core p.1 p.2 s = false then s
    else writeTransferStatus (queuedTransfer core p.1 p.2 s) stRestarted s
  else s

/-- The status records of descriptors that are cut off, written with RESTARTED: transfers and streams, writes, and fabric
descriptors (R282, R132, R302). -/
def cutRecords (s : State) : State :=
  let s := (List.range 98).foldl (fun s c => (ctlOf c s).issued.foldl (fun s p => cutIssued c p s) s) s
  let s := (s.streaming.transfers.filter (fun t => !t.done && !t.stopping)).foldl (fun s t => writeTransferStatus t stRestarted s) s
  let s := s.updates.jobs.foldl (fun s j => endWriteWith j.id stRestarted wrCutOff s) s
  s.fabric.descs.foldl (fun s f => endFabDesc f.id stRestarted 0 0 s) s

/-- Held completions of a queue whose fabric signal was sent and not yet acknowledged: they are cut off where they stand (R596). -/
def cutSignalled (n : Nat) (s : State) : State :=
  if (queueOf n s).held.any (fun c => c.signal == 1) then
    updQueue n (fun q => { q with held := q.held.map (fun c => if c.signal = 1 then cutCmd c s else c) }) s
  else s

/-- Every command fetched and not yet completed cut off, dispatched or not, in count order. -/
def cutCommands (s : State) : State :=
  let s := (List.range 64).foldl (fun s n => cutSignalled n s) s
  let s := (List.range 64).foldl (fun s n => (queueOf n s).cmds.foldl (fun s c => cutNative n c s) s) s
  legacyOff (s.legacy.cmds.foldl (fun s c => cutLegacy c s) s)

/-- Every request admitted and not yet answered is answered with RESTARTED and CUT_OFF, in place of a response that is ready
and not yet sent (R63); its request buffer is freed when that answer has been sent (R51). -/
def cutRequests (s : State) : State :=
  s.service.admitted.foldl (fun s a =>
    let s := { s with service := { s.service with ready := s.service.ready.filter (fun r => r.request != some a.seq) } }
    let s := readyResp a (respHdr a.hdr 2 stRestarted 0x0A 0) [] none s
    releaseRequest a.seq (updAdmitted a.seq (fun a => { a with buffer := none }) s)) s

/-! The end of a job (R355, R381, R485, R503, R513). -/

/-- Entries that undeploy returns to their defaults: bindings, queues, queue weights and BAR2_WINDOW_VA. -/
def jobEntry (key : Nat) : Bool :=
  let index := key / 256
  (decide (0x2010 ≤ index) && decide (index ≤ 0x201F)) || (decide (0x2510 ≤ index) && decide (index < 0x2550)) ||
  index == 0x2602 || key == Ent.bar2WindowVa

/-- A command entry that was acting for the job ends with it, RESTARTED (R551). -/
def endJobCmds (s : State) : State :=
  [Ent.sessionClose, Ent.tableDefine, Ent.tableDelete, Ent.contextCreate, Ent.contextDelete, Ent.schedCommit, Ent.fabFabricLeave].foldl
    (fun s k => if (cmdOf k s).state = 1 then endCmd k stRestarted 0 s else s) s

/-- Every binding that is enabled is so no longer, with its record (Table 23.2). -/
def bindingsOff (s : State) : State :=
  (List.range 16).foldl (fun s b =>
    if bEnt Ent.bindingEnable b s = 0 then s
    else wbSubmit 0x1001 b [0] (setEnt (Ent.bindingEnable + 256 * b) 1 0 s)) s

/-- A core without work: its matrix side keeps what its repairs have settled. -/
def idleMatrix (m : CoreMatrix) : CoreMatrix :=
  { CoreMatrix.reset with
    failed := m.failed, sparesUsed := m.sparesUsed, repairPending := m.repairPending, rowErrors := m.rowErrors }

/-- A control core without work. -/
def idleControl (k : CoreControl) : CoreControl := { CoreControl.reset with tasksRun := k.tasksRun }

/-- Everything of the job freed: graphs, tables, contexts, allocations, page tables, keys, and the entries of R355 step 4 at
their defaults. Its memory keys are gone, so what its memory held can no longer be read (R381). -/
def clearJob (s : State) : State :=
  let z := State.reset
  let s := clearJobSlots (endJobCmds (settleRows (bindingsOff s)))
  { s with
    service := { s.service with
      reassembly := [], bindings := z.service.bindings, keySlots := [], admitted := [], buffersUsed := [], cache := [],
      cacheOn := false, cacheEntries := 0, ready := s.service.ready.map (fun r => { r with request := none, buffer := none }) },
    lookup := z.lookup, updates := z.updates,
    matrix := s.matrix.map idleMatrix, vector := z.vector, control := s.control.map idleControl,
    sequences := z.sequences, streaming := z.streaming,
    dispatch := { z.dispatch with
      postilionState := s.dispatch.postilionState, nextCmd := s.dispatch.nextCmd, nextLaunch := s.dispatch.nextLaunch,
      nextTask := s.dispatch.nextTask },
    runahead := { z.runahead with nextId := s.runahead.nextId },
    legacy := { s.legacy with state := 0, ctrl := 0, cmds := [], held := [], staleReads := none },
    job := { s.job with
      contexts := [], pendingTable := [], activeTable := [], schedPending := false, committedTable := [], debts := [], coreQueue := [],
      outgoing := [], deficit := [], readyFrom := [], undeployHeld := false },
    mem := { s.mem with dram := [], alloc := z.mem.alloc, extents := [], jobKeys := none },
    xlate := { s.xlate with
      overflow := false,
      ptes := [], charged := [], drayTlb := [], hubTlb := [], pteCache := [], faults := [], heldFaults := [], released := [] },
    hostif := { s.hostif with heldAccesses := [] },
    fabric := { s.fabric with
      state := 0, sessions := [], descs := [], slots := [], groups := z.fabric.groups },
    power := { s.power with bivState := 0, bivVersion := 0, bivStamp := 0, bivTimes := [], stageReload := [false, false], coldWaits := [] },
    recovery := { s.recovery with fault := none, begun := [] },
    security := { s.security with ownerBytes := 0, ownerVa := 0, ownerPlaced := [] },
    dict := { s.dict with values := s.dict.values.filter (fun p => !jobEntry p.1) } }

/-- No job is left: NET is on (R513), and OWNER_DIGEST, SEALED and the job's entries read their defaults. -/
def enterNone (s : State) : State :=
  let s := setJobState jobNone s
  switchNetOn { s with
    job := { s.job with tag := 0, sealed_ := false, deployedAt := 0, deployer := 0xFF, restarts := 0, restartTimes := [] },
    security := { s.security with ownerDigest := 0, ownerKey := [] } }

/-- A sealed job's memory is to be overwritten: new boot keys are loaded and core SRAM, staging SRAM, accumulators, redirect indexes,
TLBs and PTE caches are zeros, both within 10 µs, before the tiers are written (R502 steps 1 and 2); COLD is switched on for it
(R513). -/
def enterZeroising (s : State) : State :=
  let s := setJobState jobZeroising s
  switchColdOn { s with
    mem := { s.mem with sram := [], staging := [], jobKeys := none, idleKey := s.mem.idleKey + 1 },
    matrix := s.matrix.map (fun m => { m with acc := [] }),
    updates := State.reset.updates,
    xlate := { s.xlate with drayTlb := [], hubTlb := [], pteCache := [] },
    security := { s.security with zeroiseProgress := 0, zeroiseAt := s.now } }

/-- The job's last steps: everything freed, then ZEROISING for a sealed job, otherwise NONE. -/
def finishJob (s : State) : State :=
  let s := clearJob s
  switchNetOn (if s.job.sealed_ then enterZeroising s else enterNone s)

/-- An undeploy that a client has asked for is done. -/
def finishUndeploy (s : State) : State :=
  let s := finishJob s
  if (cmdOf Ent.jobUndeploy s).state = 1 then endCmd Ent.jobUndeploy stOk 0 s else s

/-! Undeploy (R355). -/

/-- Nothing of the job is left to wait for. -/
def jobDrained (s : State) : Bool :=
  s.service.admitted.isEmpty && s.dispatch.queues.all (fun q => q.cmds.isEmpty && q.held.isEmpty) && legInFlight s == 0 &&
  s.fabric.state == 0

/-- An undeploy whose drain is complete ends. -/
def settleUndeploy (s : State) : State :=
  if s.job.state = jobUndeploying ∧ jobDrained s = true then finishUndeploy s else s

/-- Step 1 of R355: the service off, membership ending, every enabled queue DRAINING. -/
def beginUndeploy (s : State) : State :=
  let s := setJobState jobUndeploying { s with job := { s.job with undeployAt := s.now, undeployHeld := false } }
  let s := leaveFabric (svcEnableAction .biv [0] s)
  let s := (List.range 64).foldl (fun s n =>
    if (queueOf n s).state = 0 ∨ (queueOf n s).state = 3 then s else queueEnableAction n .biv [0] s) s
  settleUndeploy (legacyEnable false s)

/-- What a write of 1 to JOB_UNDEPLOY does: held until RUNNING while a restart runs (Table 13.1). -/
def jobUndeployAction (_ : ReqId) (_ : List Byte) (s : State) : State :=
  if s.job.state = jobRestarting then { s with job := { s.job with undeployHeld := true } } else beginUndeploy s

/-- JOB_UNDEPLOY. -/
def execJobUndeploy (req : ReqId) (value : Nat) (s : State) : Host.Outcome State Fault Refusal :=
  .next (cmdVia jobUndeployAction req 0x2600 3 (leBytes 1 value) s)

/-- UNDEPLOY_DRAIN_TIMEOUT: work still running is cut off (R355 step 2). -/
def execUndeployDrainTimeout (s : State) : Host.Outcome State Fault Refusal :=
  .next (if s.job.state = jobUndeploying ∧ s.job.undeployAt + ent Ent.undeployDrainNs s ≤ s.now then
    finishUndeploy (cutRequests (cutCommands (cutRecords s)))
  else s)

/-- QUEUE_DRAIN_DONE; the last queue of a job that is being undeployed may end the drain. -/
def execQueueDrainDone (queue : Nat) (s : State) : Host.Outcome State Fault Refusal :=
  if 64 ≤ queue then .fault .noSuchUnit
  else .next (if queueDrained queue s then settleUndeploy (queueOff queue s) else s)

/-! Deploy (R353, R354, R498). -/

/-- Bytes as pages. -/
def pagesFor (n : Nat) : Nat := (n + 4095) / 4096

/-- The job-wide structures in HBM4E, with the tags of their allocations and their pages (R354 step 2). -/
def jobStructures (s : State) : List (Nat × Nat) :=
  [(1, 32768),
    (2, pagesFor (if ent Ent.cacheEnable s = 1 then ent Ent.cacheEntries s * 8320 else 0)),
    (3, pagesFor (ent Ent.sessionPoolGb s * 1000000000)),
    (4, pagesFor (ent Ent.rowCacheGb s * 1000000000)),
    (5, 12 * pagesFor (ent Ent.updateLogMb s * 1000000)),
    (6, pagesFor (ent Ent.ownerBufferMb s * 1000000))]

/-- The job-wide structures allocated; none where one finds no room. -/
def allocStructures (s : State) : Option State :=
  (jobStructures s).foldl (fun (o : Option State) x => o.bind (fun s =>
    if x.2 = 0 then some s else (allocModule x.2 false none x.1 s).map (·.2))) (some s)

/-- The state before step 2: what an earlier job or maintenance has left is off, frames of verified repairs are free again
(R393), and the measurement slots and the log are clear (R485, R486). -/
def freshJob (s : State) : State :=
  let z := State.reset
  let s := clearJobSlots s
  { s with
    service := { s.service with
      bindings := z.service.bindings, admitted := [], buffersUsed := [], cache := [] },
    lookup := z.lookup, updates := z.updates, sequences := z.sequences, streaming := z.streaming,
    matrix := s.matrix.map idleMatrix, control := s.control.map (fun k => { idleControl k with tasksRun := 0 }),
    dispatch := { z.dispatch with
      postilionState := s.dispatch.postilionState, nextCmd := s.dispatch.nextCmd, nextLaunch := s.dispatch.nextLaunch,
      nextTask := s.dispatch.nextTask },
    runahead := { s.runahead with predictions := [], ids := [], ranges := [], heldStores := [], heldRecords := [], heldMarks := [], resolves := [] },
    job := { s.job with pendingTable := [], activeTable := [], schedPending := false, committedTable := [] },
    mem := { s.mem with
      dram := [], alloc := z.mem.alloc, extents := [], jobKeys := some (s.free, s.free + 1),
      retired := s.mem.retired.filter (fun f => !s.mem.unretire.contains f), unretire := [] },
    xlate := { s.xlate with
      ptes := [], charged := [], drayTlb := [], hubTlb := [], pteCache := [], faults := [], heldFaults := [], released := [],
      fqTail := 0, fqHead := 0, overflow := false },
    hostif := { s.hostif with fqHeadReg := 0 },
    security := { s.security with log := [], logOverflow := false },
    dict := { s.dict with values := s.dict.values.filter (fun p =>
      !(decide (0x2510 ≤ p.1 / 256) && decide (p.1 / 256 < 0x2550) && p.1 % 256 == 6)) },
    free := s.free + 2 }

/-- The entries that take effect at a deploy, as they are in force from it (R559). -/
def takeEntries (s : State) : State :=
  { s with
    service := { s.service with cacheOn := ent Ent.cacheEnable s == 1, cacheEntries := ent Ent.cacheEntries s },
    lookup := { s.lookup with rowCacheGb := ent Ent.rowCacheGb s },
    updates := { s.updates with logMb := ent Ent.updateLogMb s },
    sequences := { s.sequences with
      poolBytes := ent Ent.sessionPoolGb s * 1000000000, poolFree := 0,
      poolBase := extentAt 3 s },
    job := { s.job with tileRing := ent Ent.tileRingEntries s },
    xlate := { s.xlate with fqEntries := ent Ent.fqEntries s, fqAddr := ent Ent.fqAddr s },
    security := { s.security with
      ownerBytes := ent Ent.ownerBufferMb s * 1000000, ownerVa := extentAt 6 s } }

/-- Counters, with what ENERGY_MJ has not yet counted, set to 0, except those that count from manufacture (R354 step 3, R506). -/
def clearCounters (s : State) : State :=
  { s with
    power := { s.power with energyUj := 0 },
    dict := { s.dict with counters := s.dict.counters.filter (fun p => p.1 / 256 == 0x5B00) } }

/-- A deploy carried out, its structures allocated: RUNNING with Q[63] enabled (R354). -/
def completeDeploy (req : ReqId) (bytes : List Byte) (s : State) : State :=
  let s := clearCounters (takeEntries s)
  let s := measureBytes 6 6 (padTo 16 bytes ++ leBytes 1 (classNum (classOf req)) ++ digestBytes s.security.ownerDigest) s
  let s := enableQueue 63 (clearEnt (Ent.queueClass + 256 * 63) s)
  let s := { s with job := { s.job with
    tag := BitVec.ofNat 64 (leAt bytes 0 8), deployedAt := s.now, deployer := classNum (classOf req), restarts := 0,
    restartTimes := [] } }
  setJobState jobRunning s

/-- A sealed job bound to its owner, the zeroise-pending flag set in both copies before deploy continues (R498, R535). -/
def sealJob (req : ReqId) (s : State) : State :=
  match req with
  | .owner id =>
    match s.security.owners.find? (fun o => o.id == id) with
    | some o =>
      { s with
        job := { s.job with sealed_ := true },
        security := { s.security with
          ownerDigest := o.keyDigest, ownerKey := o.key, zeroisePending := true, zeroiseMirror := true } }
    | none => s
  | _ => s

/-- What a write of JOB_DEPLOY does. -/
def jobDeployAction (req : ReqId) (bytes : List Byte) (s : State) : State :=
  let sealing := leAt bytes 8 1 = 1
  if sealing ∧ ((sessionDigest req s).isNone ∨ s.security.sealPolicy.getLsbD 0 = false) then
    endCmd Ent.jobDeploy stDenied erWrongState s
  else
    match allocStructures (freshJob s) with
    | none => endCmd Ent.jobDeploy stDenied erNoResource s
    | some x =>
      let x := switchColdOn (setJobState jobDeploying (if sealing then sealJob req x else x))
      endCmd Ent.jobDeploy stOk 0 (completeDeploy req bytes x)

/-- JOB_DEPLOY. -/
def execJobDeploy (req : ReqId) (value : BitVec 128) (s : State) : Host.Outcome State Fault Refusal :=
  .next (cmdVia jobDeployAction req 0x2600 2 (leBytes 16 value.toNat) s)

/-! Resident contexts (R356 to R360). -/

/-- Word k of a context descriptor (Table 13.2). -/
def kw (d : BitVec 256) (k : Nat) : Nat := d.toNat / 2 ^ (64 * k) % 2 ^ 64

/-- CG_MASK of a descriptor. -/
def kMask (d : BitVec 256) : Nat := field (kw d 0) 55 40

/-- CONTEXT of a descriptor. -/
def kNum (d : BitVec 256) : Nat := field (kw d 0) 63 56

/-- SRAM_BYTES of a descriptor. -/
def kSram (d : BitVec 256) : Nat := field (kw d 0) 31 0

/-- STAGING_BYTES of a descriptor. -/
def kStaging (d : BitVec 256) : Nat := field (kw d 1) 63 32

/-- Accumulator entries of a descriptor. -/
def kAcc (d : BitVec 256) : Nat := 32 * field (kw d 0) 39 32

/-- A field of a descriptor breaks Table 13.2. -/
def ctxBad (d : BitVec 256) : Bool :=
  decide (15 < kNum d) || kMask d == 0 || kAcc d == 0 || decide (512 < kAcc d) || kSram d == 0 || kSram d % 65536 != 0 ||
  kStaging d % 65536 != 0 || field (kw d 1) 31 0 != 0 || kw d 2 % 4096 != 0 || kw d 3 % 4096 != 0

/-- Two ranges do not meet. -/
def apart (a n b m : Nat) : Bool := decide (a + n ≤ b) || decide (b + m ≤ a) || n == 0 || m == 0

/-- The lowest base, a multiple of a step below a size, at which n units lie free of some taken ranges. -/
def lowestFree (n size step : Nat) (taken : List (Nat × Nat)) : Option Nat :=
  ((List.range (size / step)).map (· * step)).find? (fun b =>
    decide (b + n ≤ size) && taken.all (fun t => apart b n t.1 t.2))

/-- Contexts that share a core group with a mask. -/
def sharing (mask : Nat) (s : State) : List Ctx := s.job.contexts.filter (fun c => c.cgMask.toNat &&& mask != 0)

/-- Contexts that touch a die with a mask. -/
def sharingDie (mask : Nat) (s : State) : List Ctx :=
  s.job.contexts.filter (fun c => (maskDies c.cgMask.toNat).any (fun n => (maskDies mask).contains n))

/-- Free capacity of HBM4E, or of the cold tier (R357). -/
def freeCapacity (cold : Bool) (s : State) : Nat :=
  let rs := if cold then [12] else List.range 12
  let frames := (rs.map regionFrames).foldl (· + ·) 0
  let retired := s.mem.retired.countP (fun f => rs.contains f.1 && decide (f.2 < regionFrames f.1))
  let job := ((s.mem.extents.filter (fun e => e.cold == cold && e.context.isNone)).map (·.count)).foldl (· + ·) 0
  let quotas := (s.job.contexts.map (fun c => if cold then c.coldQuota else c.hbmQuota)).foldl (· + ·) 0
  4096 * (frames - retired - job) - quotas

/-- The placement of a context's partitions; none where one cannot be placed or a quota exceeds free capacity. -/
def placeContext (d : BitVec 256) (s : State) : Option Ctx :=
  let mask := kMask d
  match lowestFree (kSram d) 4194304 65536 ((sharing mask s).map (fun c => (c.sramBase, c.sramBytes))),
      lowestFree (kStaging d) 67108864 65536 ((sharingDie mask s).map (fun c => (c.stagingBase, c.stagingBytes))),
      lowestFree (kAcc d) 512 32 ((sharing mask s).map (fun c => (c.accBase, c.accEntries))) with
  | some sram, some staging, some acc =>
    if kw d 2 ≤ freeCapacity false s ∧ kw d 3 ≤ freeCapacity true s then
      some { num := kNum d, cgMask := BitVec.ofNat 16 mask, sramBase := sram, sramBytes := kSram d, stagingBase := staging,
             stagingBytes := kStaging d, accBase := acc, accEntries := kAcc d, hbmQuota := kw d 2, hbmUsed := 0,
             coldQuota := kw d 3, coldUsed := 0, segmentsLoaded := false }
    else none
  | _, _, _ => none

/-- What a write of CONTEXT_CREATE does; a cold quota is the job's first need of the cold tier, for whose switch-on it waits
(R513). -/
def contextCreateAction (req : ReqId) (bytes : List Byte) (s : State) : State :=
  let d : BitVec 256 := BitVec.ofNat 256 (ofLe bytes)
  if ctxBad d then endCmd Ent.contextCreate stDenied erBadValue s
  else if (contextOf (kNum d) s).isSome then endCmd Ent.contextCreate stDenied erWrongState s
  else match placeContext d s with
    | none => endCmd Ent.contextCreate stDenied erNoResource s
    | some c =>
      if c.coldQuota ≠ 0 ∧ coldUp s = false then awaitCold req Ent.contextCreate bytes s
      else
      let s := { s with job := { s.job with contexts := s.job.contexts ++ [c] } }
      endCmd Ent.contextCreate stOk 0 (measureBytes 8 8 (padTo 32 bytes) s)

/-- CONTEXT_CREATE. -/
def execContextCreate (req : ReqId) (desc : BitVec 256) (s : State) : Host.Outcome State Fault Refusal :=
  .next (cmdVia contextCreateAction req 0x2601 1 (leBytes 32 desc.toNat) s)

/-- A queue, a binding or a loaded graph names a context (R360). -/
def contextInUse (k : Nat) (s : State) : Bool :=
  (List.range 64).any (fun n => queueContext n s == k) || (List.range 16).any (fun b => bEnt Ent.bindingContext b s == k) ||
  s.dispatch.graphs.any (fun g => g.context == k)

/-- What a write of CONTEXT_DELETE does. -/
def contextDeleteAction (_ : ReqId) (bytes : List Byte) (s : State) : State :=
  let k := ofLe bytes
  if (contextOf k s).isNone then endCmd Ent.contextDelete stDenied erBadValue s
  else if contextInUse k s then endCmd Ent.contextDelete stDenied erWrongState s
  else
    let s := freeExtents (fun e => e.context == some k) s
    endCmd Ent.contextDelete stOk 0 { s with
      job := { s.job with contexts := s.job.contexts.filter (fun c => c.num != k) },
      xlate := { s.xlate with charged := s.xlate.charged.filter (fun p => p.2 != k) } }

/-- CONTEXT_DELETE. -/
def execContextDelete (req : ReqId) (context : Nat) (s : State) : Host.Outcome State Fault Refusal :=
  .next (cmdVia contextDeleteAction req 0x2601 2 (leBytes 1 context) s)

end Sys2Proof.Machine
end

