-- ==== Sys2Proof/Machine/Recovery.lean ====
section
/-! DEFINITION. Job faults and the job restart (20, R530 to R532, R596), the wake of a core group with its resident code
(R283, R509), the load of the Bivouac graph (R521), the wedged Postilion (R534), the end of a zeroisation (R502) and the key
wipe (R503). -/

namespace Sys2Proof.Machine

open Sys2Proof

/-! Resident code on a core group that wakes (R283, R509, R512). -/

/-- The CMD entries that waited for COLD carried out, once it is switched on and trained (R513). -/
def settleColdWaits (s : State) : State :=
  if coldUp s = false then s
  else
    s.power.coldWaits.foldl (fun s w =>
      if w.2.1 = Ent.contextCreate then contextCreateAction w.1 w.2.2 s else tableDefineAction w.1 w.2.2 s)
      { s with power := { s.power with coldWaits := [] } }

/-- POWER_MANAGER_TICK (R520). -/
def execPowerManagerTick (s : State) : Host.Outcome State Fault Refusal := .next (settleColdWaits (powerTick s))

/-- CG_WAKE_COMPLETE: the group is on, and from the fully off state its cores hold their resident code and segments again;
the Dray queues of its cores are served. -/
def execCgWakeComplete (cg : Nat) (s : State) : Host.Outcome State Fault Refusal :=
  if 16 ≤ cg then .fault .noSuchUnit
  else
    let g := s.power.groups.getD cg GroupPower.reset
    .next (if g.code = 5 ∧ g.until_ ≤ s.now then
      let s := { s with power := { s.power with
        groups := s.power.groups.set cg { g with code := g.left, other := g.left, wakeAfter := false } } }
      let s := if g.other = 4 then (groupCores cg).foldl (fun s c => reloadCore c s) s else s
      (groupCores cg).foldl (fun s c => serveDrays c s) (reloadDie (cg / 8) s)
    else s)

/-! The Bivouac graph (R521). -/

/-- A version that the Bivouac cannot hold: a core set of more than two cores, or code, a segment, an argument or a
SPEC_REGIONS entry at or beyond 0x80000. -/
def bivRefuses (graph : Nat) (v : GraphVersion) : Bool :=
  let past := fun (off n : Nat) => decide (0x80000 ≤ off ∨ 0x80000 < off + n)
  v.stages.any (fun r => decide (2 < popcount 96 (v.coreSets.getD (stageCoreSet r) 0).toNat) || decide (0x80000 ≤ stageArg r)) ||
  past (Config.codeOffset graph v.codeNum) v.code.length ||
  v.weights.any (fun w => past w.target w.bytes) ||
  v.regions.any (fun r => past (field r.toNat 31 0) (field r.toNat 127 96))

/-- The Bivouac graph's current version copied into the Bivouac's SRAM, or FAILED; the Bivouac is off where none is named. -/
def loadBivouac (s : State) : State :=
  match bivGraphOf s with
  | none => { s with power := { s.power with bivState := 0, bivVersion := 0, bivStamp := 0 } }
  | some (g, v) =>
    if bivRefuses g.id v then { s with power := { s.power with bivState := 3 } }
    else
      let s := loadCore g.id 97 v (loadCore g.id 96 v s)
      { s with power := { s.power with bivState := 2, bivVersion := v.num, bivStamp := g.stamp } }

/-- A load is due: BIV_GRAPH was written, or another version has become current, also of a graph loaded again under its GRAPH_ID. -/
def bivLoadDue (s : State) : Bool :=
  s.power.bivState == 1 || (match bivGraphOf s with
    | some (g, v) => v.num != s.power.bivVersion || g.stamp != s.power.bivStamp
    | none => s.power.bivState != 0)

/-- BIV_GRAPH_LOAD. -/
def execBivGraphLoad (s : State) : Host.Outcome State Fault Refusal :=
  .next (if bivLoadDue s then loadBivouac s else s)

/-! The job restart (Table 20.3). -/

/-- Every live speculation ID squashed (R333). -/
def squashAll (s : State) : State :=
  let s := (s.runahead.ids.filter (fun i => !i.squashed)).foldl (fun s i => squashId i.id s) s
  { s with runahead := { s.runahead with
    predictions := [], ids := [], ranges := [], heldStores := [], heldRecords := [], heldMarks := [], resolves := [] } }

/-- Rows of immediate writes cut off with their version word odd (R132). -/
def cutWriteRows (s : State) : List (Nat × Nat) :=
  ((s.updates.jobs.map (fun j => (j.rows.filter (fun r => r.chunks != 0)).map (fun r => (r.table, r.row)))).foldr (· ++ ·) []).filter
    (fun r => !s.updates.cutRows.contains r)

/-- Table updates at a restart (R132): batches aborted, pre-images freed, write descriptors ended. -/
def cutUpdates (s : State) : State :=
  let cut := cutWriteRows s
  let s := if cut.isEmpty then s else count Cnt.cutWrites cut.length s
  let s := s.updates.batches.foldl (fun s b => count Cnt.aborts 1 (dropStaged b.num s)) (abortRemote (fun _ => true) s)
  { s with updates := { s.updates with
    batches := [], cutRows := s.updates.cutRows ++ cut,
    committed := (s.updates.committed.filter (fun c => !c.copied)).map (fun c => { c with preImage := none }) } }

/-- Everything in flight ended: tasks, engines, lookups, launches, faults and host accesses (steps 1 to 3). Commands and
requests are answered before. -/
def cutWork (s : State) : State :=
  let s := (List.range 98).foldl (fun s c => if (ctlOf c s).task.isSome then freeCore c s else s) s
  let z := State.reset
  { s with
    lookup := { s.lookup with jobs := [] }, updates := { s.updates with jobs := [] },
    matrix := s.matrix.map idleMatrix, vector := z.vector, control := s.control.map idleControl,
    service := { s.service with cache := [] },
    sequences := { s.sequences with
      joins := [], summaries := [], appends := [], heldQueries := [],
      sessions := s.sequences.sessions.map (fun x => { x with folded := [] }) },
    streaming := { s.streaming with transfers := [], prologues := [] },
    dispatch := { s.dispatch with launches := [], patchWaits := [], tasks := [], coreWaits := [] },
    job := { s.job with debts := [], coreQueue := [], outgoing := [], deficit := [] },
    mem := { s.mem with sram := [], staging := [] },
    xlate := { s.xlate with
      drayTlb := [], hubTlb := [], pteCache := [], faults := [], heldFaults := [], released := [] },
    hostif := { s.hostif with heldAccesses := [] },
    recovery := { s.recovery with postilionWedged := false } }

/-- Actions of command entries cut off (R551); a table whose deletion was waiting stays. -/
def cutActions (s : State) : State :=
  let s := endJobCmds s
  { s with
    lookup := { s.lookup with tables := s.lookup.tables.map (fun t => (t.1, { t.2 with deleting := false })) },
    job := { s.job with schedPending := false, committedTable := [] } }

/-- Fabric sessions dropped without CLOSE (R476); a membership that was ending has ended. -/
def cutFabric (s : State) : State :=
  { s with fabric := { s.fabric with
    sessions := [], descs := [], slots := [], state := if s.fabric.state = 3 then 0 else s.fabric.state } }

/-- The integrity tags of a version, computed again, are those of its loading. What an undetected error or a lost page has left in its
place fails them (R531; log 196). -/
def tagsHold (v : GraphVersion) : Bool := !v.damaged && v.tags == versionTags v

/-- Integrity tags of one version at step 5 (R531). -/
def tagOk (graph : Nat) (v : GraphVersion) (s : State) : State :=
  if !tagsHold v then count Cnt.tagFailures 1 (wbSubmit 0xE004 graph [v.num] s) else s

/-- Versions after step 5: only a current version whose tags hold stays; a graph left without one is no longer loaded. -/
def checkTags (s : State) : State :=
  s.dispatch.graphs.foldl (fun s g =>
    let s := match currentOf g with
      | some v => tagOk g.id v s
      | none => s
    let keep := fun (v : GraphVersion) => v.num == g.current && tagsHold v && !g.unloading
    let s := (g.versions.filter (fun v => !keep v)).foldl (fun s v =>
      uncharge g.context (imageCharge v.imageBytes) (freeExtents (fun e => e.tag == versionTag g.id v.num) s)) s
    let kept := (g.versions.filter keep).map (fun v => { v with running := 0 })
    if kept.isEmpty then
      { s with dispatch := { s.dispatch with graphs := s.dispatch.graphs.filter (fun x => x.id != g.id) } }
    else updGraph g.id (fun x => { x with versions := kept, loadCmd := none }) s) s

/-- Resident code and segments reloaded, and the Bivouac graph (R283, R523). -/
def reloadAll (s : State) : State :=
  let s := s.dispatch.graphs.foldl (fun s g =>
    match contextOf g.context s, currentOf g with
    | some c, some v => loadResident g.id v c s
    | _, _ => s) s
  let s := { s with job := { s.job with contexts := s.job.contexts.map (fun c => { c with segmentsLoaded := true }) } }
  if s.power.bivState = 0 then s else loadBivouac s

/-- Queues and the legacy interface fetch again (step 6). -/
def resumeQueues (s : State) : State :=
  let s := { s with dispatch := { s.dispatch with
    queues := s.dispatch.queues.map (fun q => if q.state = 2 then { q with state := 1 } else q) } }
  legacyFetch ((List.range 64).foldl (fun s n => if (queueOf n s).state = 1 then fetchQueue n s else s) s)

/-- Step 6: RUNNING, the records and counters of the restart, the fabric rejoined, and an undeploy that was held (R532). -/
def endRestart (f : FaultInfo) (s : State) : State :=
  let ns := s.now - f.time
  let s := wbSubmit 0xE002 noInst [ns] s
  let s := { s with
    job := { s.job with restarts := (s.job.restarts + 1) % 2 ^ 32, restartTimes := s.now :: s.job.restartTimes },
    recovery := { s.recovery with fault := none, lastRestart := (f.time, ns, f.code) },
    dict := { s.dict with
      counters := alSet s.dict.counters Cnt.restartNsMax (Nat.max ns (counter Cnt.restartNsMax s)) } }
  let s := raiseEvent 1 (resumeQueues (setJobState jobRunning s))
  let s := if s.fabric.state = 0 then s else joinFabric s
  if s.job.undeployHeld then beginUndeploy s else s

/-- Steps 1 to 5 of a restart; a job fault raised by them is left in FAULT (R390, R532). -/
def restartSteps (s : State) : State :=
  let s := cutCommands (cutRequests (cutRecords (cutUpdates (squashAll s))))
  let s := settleRows (finishRemaps (cutActions (cutFabric (cutWork { s with recovery := { s.recovery with fault := none } }))))
  reloadAll (checkTags s)

/-- The reference has been present for 1 ms, as the restart needs (R519). -/
def referenceReady (s : State) : Bool :=
  s.power.refClockOk && (s.power.refSince == 0 || decide (s.power.refSince + 1000000 ≤ s.now))

/-- A job ended at once, without drain: cut off where records can be written, then freed (R503, R532). -/
def endJobNow (s : State) : State := finishUndeploy (svcEnableAction .biv [0] (cutRequests (cutCommands (cutRecords s))))

/-- A restart for a job fault: one raised by its own steps starts it again from step 1, `again`; RESTART_LIMIT restarts begun within
one second end the job. -/
def restartFor (again : FaultInfo → State → State) (f : FaultInfo) (s : State) : State :=
  if ent Ent.restartLimit s ≤ s.recovery.begun.length then
    endJobNow (wbSubmit 0xE005 noInst [s.recovery.begun.length] s)
  else match (restartSteps s).recovery.fault with
    | none => endRestart f (restartSteps s)
    | some g => again g (restartSteps s)

/-- The restart of a job fault, with as many restarts for the faults of its own steps. -/
def restartJob : Nat → FaultInfo → State → State
  | 0, _, s => s
  | n + 1, f, s => restartFor (restartJob n) f s

/-- JOB_FAULT: the restart of the job fault raised last. No more than RESTART_LIMIT restarts begin, which is at most 64. -/
def execJobFault (s : State) : Host.Outcome State Fault Refusal :=
  .next (match s.recovery.fault with
    | none => s
    | some f => if s.job.state ≠ jobRestarting ∨ referenceReady s = false then s else restartJob 64 f s)

/-- POSTILION_WEDGE: the hub management core finds the Postilion wedged, a job fault (R534). -/
def execPostilionWedge (s : State) : Host.Outcome State Fault Refusal :=
  .next (if s.dispatch.postilionState = 2 ∧ s.recovery.hubRunning then
    jobFaultPlain 6 noInst 0 0 0 { s with recovery := { s.recovery with postilionWedged := true } }
  else s)

/-! Zeroisation and key wipe (R502, R503). -/

/-- ZEROISATION: keys, SRAM and both tiers are gone, the flag is clear in both copies, and NONE is entered with COLD off. -/
def execZeroisation (s : State) : Host.Outcome State Fault Refusal :=
  .next (if s.job.state ≠ jobZeroising then s
  else
    let z := State.reset
    let s := switchColdOn s
    let s := { s with
      mem := { s.mem with dram := [], sram := [], staging := [], jobKeys := none },
      matrix := s.matrix.map (fun m => { m with acc := [] }),
      updates := z.updates,
      xlate := { s.xlate with ptes := [], drayTlb := [], hubTlb := [], pteCache := [] },
      security := { s.security with zeroiseProgress := 1024, zeroisePending := false, zeroiseMirror := false } }
    let s := count Cnt.zeroisations 1 (wbSubmit 0xC003 noInst [s.now - s.security.zeroiseAt] (raiseEvent 5 s))
    let s := { s with power := { s.power with cold := 2, coldUntil := none } }
    enterNone (clearJobSlots s))

/-- A job that exists is ended by a key wipe without the drain of R355; so is an undeploy under way, whose JOB_UNDEPLOY is then done (R551; log 213). -/
def wipeJob (s : State) : State :=
  if s.job.state = jobNone ∨ s.job.state = jobZeroising then s else finishUndeploy s

/-- What a write of 1 to KEY_WIPE does. -/
def keyWipeAction (req : ReqId) (_ : List Byte) (s : State) : State :=
  let s := count Cnt.keyWipes 1 (wbSubmit 0xC002 noInst [classNum (classOf req)] s)
  let s := { s with
    service := { s.service with keySlots := [], ready := s.service.ready.filter (fun r => r.key.isNone) },
    security := { s.security with owners := [], ownerHandshakes := [] },
    fabric := { s.fabric with state := 0, sessions := [] },
    mem := { s.mem with dram := [], jobKeys := none, idleKey := s.mem.idleKey + 1 } }
  endCmd Ent.keyWipe stOk 0 (wipeJob (svcEnableAction .biv [0] s))

/-- KEY_WIPE. -/
def execKeyWipe (req : ReqId) (value : Nat) (s : State) : Host.Outcome State Fault Refusal :=
  .next (cmdVia keyWipeAction req 0x2B00 0x18 (leBytes 1 value) s)

end Sys2Proof.Machine
end

