-- ==== Sys2Proof/Machine/Reset.lean ====
section
/-! DEFINITION. Cold reset, start-up, the loss and return of input power, firmware banks and maintenance mode (20, R526 to
R529, R534 to R539; 05 R163, R164; 18 R485 to R487; 23 R574; 24 R587, R591). -/

namespace Sys2Proof.Machine

open Sys2Proof

/-! Cold reset (R526, R527). -/

/-- A sensor stands above ALARM_C, so that a tripped module is not yet reset (R518). -/
def tooHot (s : State) : Bool := !(sensorsOver (ent Ent.alarmC s) s.power.temps).isEmpty

/-- An entry's value outlives a cold reset: RWS entries, kept in the nonvolatile store (R559). -/
def keptEntry (key : Nat) : Bool :=
  match findEntry (key / 256) (key % 256) with
  | some e => e.acc == .rws
  | none => false

/-- What every restart of AON's processors returns to its reset value (Table 20.1). -/
def loseAon (s : State) : State :=
  let z := State.reset
  let s := loseDomains s
  { s with
    job := z.job,
    numerics := z.numerics,
    mem := { s.mem with lastUe := 0, idleKey := s.mem.idleKey + 1 },
    security := { s.security with
      identityKey := false, ms := z.security.ms, log := [], logOverflow := false, quote := [], owners := [],
      ownerHandshakes := [], ownerBytes := 0, ownerVa := 0, relayOut := [], ownerPlaced := [], ownerDigest := 0, ownerKey := [],
      zeroiseProgress := 0, zeroiseAt := 0 },
    power := { s.power with
      tripped := false, tripCause := 0, tripOut := false, hotSince := none, hotSensors := [], energyUj := 0,
      cap := ent Ent.powerCapW s, capNext := none },
    recovery := { s.recovery with
      bootStage := 0, bootAt := s.now, lastRestart := (0, 0, 0), maint := false, maintEnding := false, staging := [],
      running := s.recovery.next, runImages := s.recovery.banks.getD s.recovery.next [], heldReset := none, romOnly := false, boots := s.recovery.boots + 1 },
    dict := { z.dict with
      values := s.dict.values.filter (fun p => keptEntry p.1),
      counters := s.dict.counters.filter (fun p => p.1 / 256 == 0x5B00),
      responses := s.dict.responses },
    waybill := { s.waybill with mirror := s.waybill.nextSeq } }

/-- A cold reset with its RESET_CAUSE: recorded, the job ended, every domain but AON off, start-up at its first step. One
asked for while a trip is latched and a sensor stands above ALARM_C is held (R518); none is taken during the power-loss
sequence (R587). -/
def coldReset (cause : Nat) (s : State) : State :=
  if s.recovery.powerGood = false then s
  else if s.power.tripped ∧ tooHot s = true then
    { s with recovery := { s.recovery with heldReset := some cause } }
  else
    let s := bindingsOff (wbSubmit 0xE003 noInst [cause] s)
    let s := if ent Ent.svcEnable s = 0 then s else wbSubmit 0x1001 noInst [0] s
    let s := if s.job.state = jobNone then s else setJobState jobNone s
    let s := loseAon s
    { s with recovery := { s.recovery with cause := cause } }

/-- What a write of 1 to COLD_RESET does. -/
def coldResetAction (_ : ReqId) (_ : List Byte) (s : State) : State := coldReset 2 (endCmd Ent.coldReset stOk 0 s)

/-- COLD_RESET. -/
def execColdReset (req : ReqId) (value : Nat) (s : State) : Host.Outcome State Fault Refusal :=
  .next (cmdVia coldResetAction req 0x2D00 0x01 (leBytes 1 value) s)

/-- MOD_RESET_N asserted for a number of nanoseconds (R591). -/
def execModResetN (ns : Nat) (s : State) : Host.Outcome State Fault Refusal :=
  .next (if 1000 ≤ ns then coldReset 1 s else s)

/-- WATCHDOG_EXPIRY: no heartbeat of the hub management core for 10 ms (R534). -/
def execWatchdogExpiry (s : State) : Host.Outcome State Fault Refusal :=
  .next (if s.recovery.hubRunning then coldReset 3 s else s)

/-! Loss and return of input power (R574, R587). -/

/-- INPUT_POWER_LOSS: every domain but AON off, the nonvolatile writes already begun completed, then AON off too. The kept
Waybill records, the nonvolatile mirrors and the RWS entries remain. -/
def execInputPowerLoss (s : State) : Host.Outcome State Fault Refusal :=
  .next (if s.recovery.powerGood = false then s
  else
    let mirror := s.waybill.mirror
    let s := loseAon s
    { s with
      power := { s.power with temps := State.reset.power.temps, alarm := false, inputPower := 0, inputMv := 0 },
      recovery := { s.recovery with powerGood := false, cause := 0 },
      security := { s.security with zeroisePending := s.security.zeroiseMirror },
      waybill := { s.waybill with
        circ := [], queue := [], mirror := mirror, second := 0, copying := none, restoreDue := true,
        codes := s.waybill.codes.map (fun c => { c with written := 0, suppressed := 0, first := 0, last := 0 }) } })

/-- The real-time clock: its 32.768 kHz are divided from the same reference as TIME64, and it is reset only when input power is
applied, as TIME64 is, so its count is a view of TIME64 (Table 20.1; log 142). -/
def rtcTicks (s : State) : Nat := s.now * 32768 / 1000000000

/-- Input power is back in its operating range: start-up begins as power applied, TIME64 and with it the RTC from 0. -/
def powerReturn (s : State) : State :=
  { s with
    now := 0
    power := { s.power with clockMoves := [], refSince := 0, window := 0, projection := 0, capNext := none, hotSince := none, coldLast := 0 }
    hostif := { s.hostif with unreachableSince := some 0 }
    mem := { s.mem with scrubHbmStart := 0, scrubColdStart := 0 }
    recovery := { s.recovery with powerGood := true, cause := 0, bootStage := 0, bootAt := 0 } }

/-- What the loss of power has done to a kept record's CRC: it holds, or it fails by a free value that is not 0 (R574, R580). -/
def cutKept (draw : Nat) (r : WbRecord) : WbRecord :=
  if Config.keptDamaged draw r.seq then
    let x := r.damage ^^^ Config.keptDamage draw r.seq
    { r with damage := if x = 0 then 1 else x }
  else r

/-- The Waybill after input power has returned: kept records whose CRC fails, NEXT_SEQ restored and mirrored, POWER_RETURN at that
SEQ, then a KEPT_DAMAGED record for each that fails (R574; log 194). -/
def restoreWaybill (s : State) : State :=
  let kept := s.waybill.kept.map (cutKept s.free)
  let k := keptUsed s
  let next := if k < 1024 then k else s.waybill.mirror + 256
  let s := { drawFree s with waybill := { s.waybill with
    kept := kept, nextSeq := next, mirror := next, oldestFloor := if k < 1024 then 1024 else next, restoreDue := false } }
  let s := storeRecord 0 s.now 0xF003 noInst 0 [next, k] s
  (kept.filter (fun r => r.damage != 0)).foldl (fun s r => wbSubmit 0xF004 noInst [r.seq] s) s

/-! Boot images (R485, R487, R539). -/

/-- Image of a type in a bank. -/
def bankImage (bank t : Nat) (s : State) : Option FwImage := (s.recovery.banks.getD bank []).getD t none

/-- The first check of R487 that an image fails, as a number of `Config.fwCheck`; none where it is accepted. -/
def imageFault (bank t : Nat) (s : State) : Option Nat :=
  match bankImage bank t s with
  | none => some 0
  | some i =>
    if 1 < i.keySlot ∨ s.security.fwKeyRevoked.getLsbD i.keySlot = true then some 2
    else if i.intact = false then some 3
    else if i.svn < s.security.rollback.getD t 0 then some 4
    else if i.version.toNat / 2 ^ 24 ≠ 3 then some 5
    else none

/-- The image type that a step of start-up verifies (Table 20.2). -/
def stepImage (step : Nat) : Option Nat :=
  if step = 2 then some 0 else if step = 4 then some 1 else if step = 5 then some 2 else if step = 6 then some 4
  else if step = 9 then some 3 else none

/-- An image refused in both banks, the boot ROM having come here by a fallback, where R539 lets start-up end without it: the
root of trust and the Postilion. -/
def refusedInBoth (t : Nat) (s : State) : Bool :=
  (t == 0 || t == 3) && s.recovery.cause == 4 && (imageFault s.recovery.running t s).isSome &&
  (imageFault (1 - s.recovery.running) t s).isSome

/-- The refused image for which the boot ROM falls back at the next step of start-up. -/
def fallbackImage (s : State) : Option Nat :=
  match stepImage (s.recovery.bootStage + 1) with
  | some t => if (imageFault s.recovery.running t s).isSome ∧ refusedInBoth t s = false then some t else none
  | none => none

/-- A refused image recorded and counted (R506, R539). -/
def noteRefused (t : Nat) (check : Nat) (version : Nat) (s : State) : State :=
  count Cnt.signatureFailures 1 (wbSubmit 0xC001 t [version, Config.fwCheck check] s)

/-- The refusal of a stored image. -/
def noteBankRefused (t : Nat) (s : State) : State :=
  noteRefused t ((imageFault s.recovery.running t s).getD 0)
    (((bankImage s.recovery.running t s).map (fun i => i.version.toNat)).getD 0) s

/-- A start-up is under way. -/
def starting (s : State) : Bool :=
  s.recovery.powerGood && !s.power.tripped && !s.recovery.romOnly && decide (s.recovery.bootStage < 11)

/-- Start-up has taken too long (R539). -/
def startLate (s : State) : Bool :=
  (decide (s.recovery.bootStage < 9) && decide (s.recovery.bootAt + 2000000000 < s.now)) ||
  (decide (s.recovery.bootStage < 11) && decide (s.recovery.bootAt + 4000000000 < s.now))

/-- FIRMWARE_FALLBACK: the boot ROM makes a cold reset into the other bank. -/
def execFirmwareFallback (s : State) : Host.Outcome State Fault Refusal :=
  .next (if starting s = false ∨ ((fallbackImage s).isNone = true ∧ startLate s = false) then s
  else
    let s := match fallbackImage s with
      | some t => noteBankRefused t s
      | none => s
    let other := 1 - s.recovery.running
    coldReset 4 { s with recovery := { s.recovery with next := other, trial := other != s.recovery.active } })

/-! The steps of start-up (Table 20.2). -/

/-- The digest of a type's running image extends a slot. -/
def measureImage (slot t : Nat) (s : State) : State :=
  match bankImage s.recovery.running t s with
  | some i => extendSlot slot i.digest s
  | none => s

/-- Five 64-bit thermometer counters (Table 18.2). -/
def thermometers (s : State) : Nat :=
  ((List.range 5).map (fun t => (2 ^ s.security.rollback.getD t 0 - 1) % 2 ^ 64 * 2 ^ (64 * t))).foldl (· + ·) 0

/-- Fuse bits [1807:256] (Table 18.2), as a number whose bit 0 is fuse bit 256. -/
def fuseBits (s : State) : Nat :=
  let sec := s.security
  let id := s.identity
  sec.serial.toNat + ofLe id.orderingNumber * 2 ^ (320 - 256) + id.arrayMap.toNat * 2 ^ (448 - 256) +
  id.northStepping.toNat * 2 ^ (832 - 256) + id.southStepping.toNat * 2 ^ (840 - 256) +
  id.hubStepping.toNat * 2 ^ (848 - 256) + sec.portRoles.toNat * 2 ^ (856 - 256) +
  sec.sealPolicy.toNat * 2 ^ (888 - 256) + sec.dictEthertype.toNat * 2 ^ (904 - 256) +
  sec.macBase.toNat * 2 ^ (920 - 256) + (if sec.debugLock then 2 ^ (968 - 256) else 0) +
  sec.fwKeyRevoked.toNat * 2 ^ (969 - 256) +
  (sec.fwKeyDigest.getD 0 0).toNat * 2 ^ (976 - 256) + (sec.fwKeyDigest.getD 1 0).toNat * 2 ^ (1232 - 256) +
  thermometers s * 2 ^ (1488 - 256)

/-- A queued row at a cold reset: repaired where its bank has a spare row left and SOFT_REPAIR allows it. With no spare left, a
row that this reset's self-test found faulty fails its core, whatever SOFT_REPAIR is (R163, R164). -/
def softRepair (core : Nat) (faulty : List (Nat × Nat)) (r : Nat × Nat) (s : State) : State :=
  let used := (alGet (matOf core s).sparesUsed r.1).getD 0
  if used < 4 then
    (if ent Ent.softRepair s = 0 then s
     else count Cnt.softRepairs 1 (wbSubmit 0x4002 core [r.1, r.2, 1] (updMat core (fun m => { m with
       sparesUsed := alSet m.sparesUsed r.1 (used + 1), repairPending := m.repairPending.filter (fun x => x != r),
       rowErrors := m.rowErrors.filter (fun x => x.1 != r) }) s)))
  else if faulty.contains r then updMat core (fun m => { m with failed := true }) s
  else s

/-- The self-test of one core: rows found faulty are queued for soft repair. -/
def selfTest (draw core : Nat) (s : State) : State := (Config.selfTest draw core).foldl (fun s r => queueRepair core r s) s

/-- Soft repairs of a core at a cold reset, with the draw of its self-test. -/
def softRepairs (draw core : Nat) (s : State) : State :=
  (matOf core s).repairPending.foldl (fun s r => softRepair core (Config.selfTest draw core) r s) s

/-- Self-tests of cores, and the state that has drawn them. -/
def selfTests (cores : List Nat) (s : State) : State := drawFree (cores.foldl (fun s c => selfTest s.free c s) s)

/-- Persistent tasks on the cores of enabled direct queues (R529). -/
def startPersistents (s : State) : State := (List.range 64).foldl (fun s n => startPersistent n s) s

/-- Persistent tasks end where the Postilion serves the queues. -/
def stopPersistents (s : State) : State := stopTasks (·.persistent) false s

/-- Step 1: SLOT_ID sampled; after a return of input power, the Waybill restored, and with power applied as the cause, its record;
THERM_TRIP_IN_N low trips. -/
def boot1 (s : State) : State :=
  let s := { s with pins := { s.pins with moduleSlot := s.pins.slotId } }
  let s := if s.waybill.restoreDue then restoreWaybill s else s
  let s := if s.recovery.cause = 0 then wbSubmit 0xE003 noInst [0] s else s
  if s.pins.thermTripInN then s else trip 2 s

/-- Step 2: the root of trust verified and measured; refused in both banks, the boot ROM serves alone. -/
def boot2 (s : State) : State :=
  if refusedInBoth 0 s then noteBankRefused 0 { s with recovery := { s.recovery with romOnly := true } }
  else
    let v := ((bankImage s.recovery.running 0 s).map (·.version)).getD 0
    measureImage 0 0 { s with identity := { s.identity with fwVersion := v } }

/-- Step 8: STAGE and core groups on, self-test and soft repairs, persistent tasks. -/
def boot8 (s : State) : State :=
  let on : GroupPower := { GroupPower.reset with code := 0, other := 0, left := 0 }
  let s := { s with
    power := { s.power with stage := [0, 0], groups := List.replicate 16 on },
    dispatch := { s.dispatch with postilionState := 1 } }
  let draw := s.free
  let s := selfTests (List.range 98) s
  startPersistents ((List.range 98).foldl (fun s c => softRepairs draw c s) s)

/-- Step 9: the Postilion, running, or untrusted where its image is refused in both banks. -/
def boot9 (s : State) : State :=
  if refusedInBoth 3 s then noteBankRefused 3 s
  else stopPersistents (measureImage 3 3 { s with dispatch := { s.dispatch with postilionState := 2 } })

/-- Step 10: the cold tier tested; with POST_MEMORY = 1 every codeword of both tiers, rows found faulty remapped. -/
def boot10 (s : State) : State :=
  if ent Ent.postMemory s = 1 then
    (Config.postFaulty s.free).foldl (fun s m => settleRow m 3 s) (drawFree s)
  else s

/-- Step 11: the fuse map measured, NET on, groups down to IDLE_DEPTH_DEFAULT, and a pending zeroisation entered. -/
def boot11 (s : State) : State :=
  let s := extendSlot 5 (shake256 (leBytes 194 (fuseBits s))) s
  let s := switchNetOn s
  let depth := ent Ent.idleDepthDefault s
  let s := (List.range 16).foldl (fun s g => stepDownGroup g depth s) s
  if s.security.zeroisePending || s.security.zeroiseMirror then
    enterZeroising { s with security := { s.security with zeroisePending := true, zeroiseMirror := true } }
  else s

/-- What a step of start-up does. -/
def bootEffect (step : Nat) (s : State) : State :=
  if step = 1 then boot1 s
  else if step = 2 then boot2 s
  else if step = 3 then { s with security := { s.security with
    identityKey := true,
    nvsKey := some (shake256 (ascii "ST960-NVS" ++ leBytes 32 s.security.identitySeed.toNat)) } }
  else if step = 4 then measureImage 1 1 s
  else if step = 5 then
    measureImage 2 2 { s with power := { s.power with mainOn := true }, recovery := { s.recovery with hubRunning := true } }
  else if step = 6 then (List.range 12).foldl (fun s _ => measureImage 4 4 s) s
  else if step = 7 then { s with hostif := { s.hostif with bar2Size := ent Ent.bar2ResetGib s * 2 ^ 30 } }
  else if step = 8 then boot8 s
  else if step = 9 then boot9 s
  else if step = 10 then boot10 s
  else boot11 s

/-- A step completed, unless it left the start-up (a trip, the boot ROM alone). -/
def bootStep (step : Nat) (s : State) : State :=
  let s := bootEffect step s
  if starting s then { s with recovery := { s.recovery with bootStage := step } } else s

/-- START_UP: the next step of Table 20.2. A held cold reset begins once the module is cool; power that returned starts it
anew; a refused image holds it for FIRMWARE_FALLBACK. -/
def execStartUp (s : State) : Host.Outcome State Fault Refusal :=
  .next (if s.recovery.powerGood = false then powerReturn s
  else match s.recovery.heldReset with
    | some c => if tooHot s then s else coldReset c s
    | none =>
      if starting s = false ∨ s.pins.modResetN = false ∨ s.pins.refPresent = false ∨ (fallbackImage s).isSome = true then s
      else bootStep (s.recovery.bootStage + 1) s)

/-! Maintenance mode (R537). -/

/-- Maintenance mode ends: the Postilion runs again where its image is trusted. -/
def endMaintenance (s : State) : State :=
  let s := { s with recovery := { s.recovery with maint := false, maintEnding := false } }
  if (imageFault s.recovery.running 3 s).isSome then { s with dispatch := { s.dispatch with postilionState := 1 } }
  else stopPersistents { s with dispatch := { s.dispatch with postilionState := 2 } }

/-- What a write of MAINT_MODE does. -/
def maintModeAction (_ : ReqId) (bytes : List Byte) (s : State) : State :=
  endCmd Ent.maintMode stOk 0 (if ofLe bytes = 1 then
    (if s.recovery.maint then s
    else startPersistents { s with
      recovery := { s.recovery with maint := true, maintEnding := false },
      dispatch := { s.dispatch with postilionState := 0 } })
  else if s.recovery.maint then endMaintenance s else s)

/-- MAINT_MODE. -/
def execMaintMode (req : ReqId) (value : Nat) (s : State) : Host.Outcome State Fault Refusal :=
  .next (cmdVia maintModeAction req 0x2D00 0x05 (leBytes 1 value) s)

/-- One group switched fully off and on again, its cores self-tested, and the persistent tasks of its cores started anew.
While MAIN is off, which every group requires, it stays off (R28; log 172). -/
def resetGroup (cg : Nat) (s : State) : State :=
  if s.power.mainOn = false then s else
  let cores := groupCores cg
  let s := stageOn cg (cores.foldl (fun s c => updCtl c idleControl (loseCore c (stopTask c false s))) s)
  let s := { s with power := { s.power with
    groups := s.power.groups.set cg { GroupPower.reset with code := 0, other := 0, left := 0 } } }
  let s := selfTests cores s
  (List.range 64).foldl (fun s n => if cores.contains (directCore n s) then startPersistent n s else s) s

/-- What a write of CG_RESET does. -/
def cgResetAction (_ : ReqId) (bytes : List Byte) (s : State) : State :=
  endCmd Ent.cgReset stOk 0 ((setBits 16 (ofLe bytes)).foldl (fun s g => resetGroup g s) s)

/-- CG_RESET. -/
def execCgReset (req : ReqId) (mask : Nat) (s : State) : Host.Outcome State Fault Refusal :=
  .next (cmdVia cgResetAction req 0x6D00 0x01 (leBytes 2 mask) s)

/-! Firmware update (R487, R488, R538). -/

/-- What a write of FW_WRITE does: LENGTH bytes of data are staged, 0 where the value gives none (R541). -/
def fwWriteAction (_ : ReqId) (bytes : List Byte) (s : State) : State :=
  endCmd Ent.fwWrite stOk 0 { s with recovery := { s.recovery with
    staging := memWrite s.recovery.staging (leAt bytes 0 4) (slice bytes 8 (leAt bytes 4 4)) } }

/-- FW_WRITE. -/
def execFwWrite (req : ReqId) (value : List Byte) (s : State) : Host.Outcome State Fault Refusal :=
  .next (cmdVia fwWriteAction req 0x2D00 0x06 value s)

/-- A staged image: header and body, its signature and its key. -/
structure StagedImage where
  typ : Nat
  image : FwImage
  signed : List Byte
  signature : List Byte
  key : List Byte
  /-- DIGEST of the header is that of the body -/
  digestOk : Bool
  deriving DecidableEq, Repr

/-- The staged bytes as an image (Table 18.4, R488); none where header and length are not valid. -/
def stagedImage (n : Nat) (s : State) : Option StagedImage :=
  let at_ := fun (o k : Nat) => memRead s.recovery.staging o k
  let i0 := ofLe (at_ 0 8)
  let i1 := ofLe (at_ 8 8)
  let len := ofLe (at_ 16 8)
  if n ≠ 64 + len + 3309 + 1952 ∨ field i0 63 32 ≠ 0x53544657 ∨ 4 < field i0 31 24 ∨ 64 < field i0 23 16 ∨
      1 < field i0 15 8 ∨ field i0 7 0 ≠ 0 ∨ field i1 31 0 ≠ 0 ∨ ofLe (at_ 24 8) ≠ 0 then none
  else
    let signed := at_ 0 (64 + len)
    some
      { typ := field i0 31 24,
        image :=
          { version := BitVec.ofNat 32 (field i1 63 32), svn := field i0 23 16, keySlot := field i0 15 8,
            digest := shake256 signed, intact := true },
        signed := signed, signature := at_ (64 + len) 3309, key := at_ (64 + len + 3309) 1952,
        digestOk := shake 32 (at_ 64 len) == at_ 32 32 }

/-- The first check of R487 that a staged image fails, as for stored ones. -/
def stagedFault (i : StagedImage) (s : State) : Option Nat :=
  if shake256 i.key ≠ s.security.fwKeyDigest.getD i.image.keySlot 0 ∨
      s.security.fwKeyRevoked.getLsbD i.image.keySlot = true then some 2
  else if i.digestOk = false ∨ Config.dsaVerify i.key (ascii "ST960-FW") i.signed i.signature = false then some 3
  else if i.image.svn < s.security.rollback.getD i.typ 0 then some 4
  else if i.image.version.toNat / 2 ^ 24 ≠ 3 then some 5
  else none

/-- The inactive bank with an image written, types not yet written there copied from the active bank. -/
def installImage (i : StagedImage) (s : State) : State :=
  let bank := 1 - s.recovery.active
  let images := (List.range 5).map (fun t =>
    if t = i.typ then some i.image
    else if s.recovery.written.contains t then bankImage bank t s
    else bankImage s.recovery.active t s)
  { s with recovery := { s.recovery with
    banks := s.recovery.banks.set bank images,
    written := if s.recovery.written.contains i.typ then s.recovery.written else i.typ :: s.recovery.written } }

/-- What a write of FW_INSTALL does. -/
def fwInstallAction (_ : ReqId) (bytes : List Byte) (s : State) : State :=
  match stagedImage (ofLe bytes) s with
  | none => endCmd Ent.fwInstall stDenied erBadValue
      (noteRefused (ofLe (memRead s.recovery.staging 3 1)) 1 (ofLe (memRead s.recovery.staging 12 4)) s)
  | some i =>
    match stagedFault i s with
    | some c => endCmd Ent.fwInstall stDenied erBadValue (noteRefused i.typ c i.image.version.toNat s)
    | none => endCmd Ent.fwInstall stOk 0 (installImage i s)

/-- FW_INSTALL. -/
def execFwInstall (req : ReqId) (value : Nat) (s : State) : Host.Outcome State Fault Refusal :=
  .next (cmdVia fwInstallAction req 0x2D00 0x07 (leBytes 4 value) s)

/-- What a write of 1 to FW_ACTIVATE does: the inactive bank is selected for the next cold reset, on trial. -/
def fwActivateAction (_ : ReqId) (_ : List Byte) (s : State) : State :=
  endCmd Ent.fwActivate stOk 0 { s with recovery := { s.recovery with
    next := 1 - s.recovery.active, trial := true, written := [] } }

/-- FW_ACTIVATE. -/
def execFwActivate (req : ReqId) (value : Nat) (s : State) : Host.Outcome State Fault Refusal :=
  .next (cmdVia fwActivateAction req 0x2D00 0x08 (leBytes 1 value) s)

/-- What a write of 1 to FW_CONFIRM does: the trial bank, from which the module runs, becomes the active one. -/
def fwConfirmAction (_ : ReqId) (_ : List Byte) (s : State) : State :=
  if s.recovery.trial ∧ s.recovery.running = s.recovery.next ∧ s.recovery.running ≠ s.recovery.active then
    endCmd Ent.fwConfirm stOk 0 { s with recovery := { s.recovery with active := s.recovery.running, trial := false } }
  else endCmd Ent.fwConfirm stDenied erWrongState s

/-- FW_CONFIRM. -/
def execFwConfirm (req : ReqId) (value : Nat) (s : State) : Host.Outcome State Fault Refusal :=
  .next (cmdVia fwConfirmAction req 0x2D00 0x09 (leBytes 1 value) s)

end Sys2Proof.Machine
end

