-- ==== Sys2Proof/Machine/Dictionary.lean ====
section
/-! DEFINITION. The dictionary server (21, R541 to R551, R554; 22, R558, R565; 23, R579, R581): messages, their checks in
order, segmented and multi-item access, kept responses, and the action of each entry's write. -/

namespace Sys2Proof.Machine

open Sys2Proof

/-! Messages (R542). -/

/-- A dictionary request: its header fields and its body. -/
structure DictMsg where
  op : Nat
  response : Bool
  final : Bool
  rsvd : Nat
  count_ : Nat
  seq : Nat
  length : Nat
  index : Nat
  sub : Nat
  offset : Nat
  body : List Byte
  deriving DecidableEq, Repr

/-- A message of at least 24 bytes read by Table 21.2; bytes beyond 24 + LENGTH are ignored. -/
def parseDict (m : List Byte) : DictMsg :=
  let d0 := leAt m 0 8
  let d1 := leAt m 8 8
  let d2 := leAt m 16 8
  { op := field d0 63 56, response := bitOf d0 55, final := bitOf d0 54,
    rsvd := field d0 53 48 + field d1 39 32 + field d2 15 0,
    count_ := field d0 39 32, seq := field d0 31 16, length := field d0 15 0, index := field d1 63 48,
    sub := field d1 47 40, offset := field d1 31 0,
    body := if field d0 63 56 = 1 then [] else (m.drop 24).take (field d0 15 0) }

/-- An item of a multi-item body: index, subindex and value. -/
abbrev DictItem : Type := Nat × Nat × List Byte

/-- The items of a MULTI_WRITE body, none where it does not hold exactly them (R549). -/
def writeItems : Nat → List Byte → Option (List DictItem)
  | 0, bs => if bs.isEmpty then some [] else none
  | n + 1, bs =>
    let len := leAt bs 4 4
    let whole := 8 + alignUp len 8
    if bs.length < whole ∨ leAt bs 3 1 ≠ 0 then none
    else (writeItems n (bs.drop whole)).map (fun t => (leAt bs 0 2, leAt bs 2 1, (bs.drop 8).take len) :: t)

/-- The items of a MULTI_READ body, none where it does not hold exactly them (R550). -/
def readItems : Nat → List Byte → Option (List (Nat × Nat))
  | 0, bs => if bs.isEmpty then some [] else none
  | n + 1, bs =>
    if bs.length < 8 ∨ leAt bs 3 5 ≠ 0 then none
    else (readItems n (bs.drop 8)).map (fun t => (leAt bs 0 2, leAt bs 2 1) :: t)

/-- Step 1 of R543: an undefined OP, a nonzero RSVD, a message marked as a response, LENGTH or COUNT out of range, a body
shorter than LENGTH, or a multi-item body that is not COUNT items. -/
def badFrame (m : DictMsg) : Bool :=
  let multi := m.op == 3 || m.op == 4
  m.op == 0 || 4 < m.op || m.response || m.rsvd != 0 || 1024 < m.length || (m.op == 1 && m.length == 0) ||
  (multi && (m.count_ == 0 || 32 < m.count_)) || (!multi && m.count_ != 0) ||
  (m.op != 1 && m.body.length < m.length) || (m.op == 3 && (writeItems m.count_ m.body).isNone) ||
  (m.op == 4 && (readItems m.count_ m.body).isNone)

/-- A response's bytes: header and body; COUNT is that of a multi-item request (R542). -/
def responseBytes (m : DictMsg) (err entryBytes_ item : Nat) (body : List Byte) : List Byte :=
  leBytes 8 (m.op * 2 ^ 56 + 2 ^ 55 + err * 2 ^ 40 + (if m.op = 3 ∨ m.op = 4 then m.count_ else 0) * 2 ^ 32 + m.seq * 2 ^ 16 + body.length) ++
  leBytes 8 (m.index * 2 ^ 48 + m.sub * 2 ^ 40 + m.offset) ++ leBytes 8 (entryBytes_ * 2 ^ 32 + item * 2 ^ 16) ++ body

/-- A list in pieces of at most 64. -/
def pieces64 : Nat → List Byte → List (List Byte)
  | 0, _ => []
  | n + 1, bs => bs.take 64 :: pieces64 n (bs.drop 64)

/-- What the transport of a requester carries for a response: an Ethernet payload under DICT_ETHERTYPE, its requester's address
ahead; on I3C and SMBus an MCTP message of type 0x7E with vendor ID 0x1F8D, in units of 64 bytes (R552, R553). -/
def carried (r : ReqId) (bytes : List Byte) (s : State) : List (List Byte) :=
  match r with
  | .t1s mac => [beBytes 6 mac.toNat ++ beBytes 6 (s.security.macBase + 16).toNat ++ beBytes 2 s.security.dictEthertype.toNat ++ bytes]
  | .mctp _ => pieces64 ((bytes.length + 66) / 64) (beBytes 1 0x7E ++ beBytes 2 0x1F8D ++ bytes)
  | _ => []

/-- A response leaves by its requester's transport: the window's registers, an owner's DICT record, or the management port. -/
def sendResponse (r : ReqId) (bytes : List Byte) (s : State) : State :=
  let s := { s with dict := { s.dict with responses := { dest := r, bytes := bytes, units := carried r bytes s } :: s.dict.responses } }
  match r with
  | .window => { s with dict := { s.dict with dwResponse := bytes } }
  | .owner sid => ownerSend sid 1 bytes s
  | _ => s

/-- A response kept for 100 ms and sent (R547). -/
def respond (r : ReqId) (m : DictMsg) (err entryBytes_ item : Nat) (body : List Byte) (s : State) : State :=
  let bytes := responseBytes m err entryBytes_ item body
  let k : Kept := { seq := m.seq, index := m.index, sub := m.sub, offset := m.offset, bytes := bytes, at_ := s.now }
  sendResponse r bytes (putReq { reqOf r s with kept := some k } s)

/-- The kept response that a request repeats (R547). -/
def keptFor (r : ReqId) (m : DictMsg) (s : State) : Option (List Byte) :=
  match (reqOf r s).kept with
  | some k =>
    if k.seq = m.seq ∧ k.index = m.index ∧ k.sub = m.sub ∧ k.offset = m.offset ∧ s.now < k.at_ + lapseNs then some k.bytes
    else none
  | none => none

/-- The size of an entry, 0 where none is defined. -/
def entrySize (index sub : Nat) : Nat := ((findEntry index sub).map (·.typ.size)).getD 0

/-- The bytes a read of an entry returns: those of its status for a CMD entry (R551). -/
def readSize (index sub : Nat) : Nat :=
  ((findEntry index sub).map (fun e => if e.acc = .cmd then 16 else e.typ.size)).getD 0

/-! Reading (R544, R546, R550). -/

/-- WB_CLEAR is RUNNING, so that WB_READ is refused (R565). -/
def wbBusy (key : Nat) (s : State) : Bool := key == Ent.wbRead && (cmdOf Ent.wbClear s).state == 1

/-- Step 7 of R543 for a read: a maintenance entry outside maintenance mode, WB_READ while WB_CLEAR is RUNNING. -/
def readState (key : Nat) (s : State) : Nat :=
  if maintClosed key s then erWrongState else if wbBusy key s then erBusy else erOk

/-- The refusal of a read at OFFSET 0: steps 2 to 4 and 7 of R543. -/
def readRefusal (r : ReqId) (index sub : Nat) (s : State) : Nat :=
  let a := readError r index sub s
  if a ≠ erOk then a else readState (entryKey index sub) s

/-- A requester's WB_READ: the record at its cursor, which advances (R565, R579). -/
def takeWbRecord (r : ReqId) (s : State) : List Byte × State :=
  let c := selVal Ent.wbCursor r s
  let (rec, next) := wbReadAt c s
  (wbBytes rec, if next = c then s else setSelector Ent.wbCursor next r s)

/-- The next owner record taken from the module's queue (R546); no bytes if none waits. -/
def takeRelay (s : State) : List Byte × State :=
  match s.security.relayOut with
  | [] => ([], s)
  | x :: t => (x, { s with security := { s.security with relayOut := t } })

/-- The value a whole read takes, with what the read does: WB_READ advances the cursor, RELAY_OUT removes a record. -/
def takeValue (r : ReqId) (index sub : Nat) (s : State) : List Byte × State :=
  if entryKey index sub = Ent.wbRead then takeWbRecord r s
  else if entryKey index sub = Ent.relayOut then takeRelay s
  else (entryBytes r index sub s, s)

/-- The snapshot of an entry that a requester holds (R546). -/
def liveSnapshot (r : ReqId) (index sub : Nat) (s : State) : Option Snapshot :=
  match (reqOf r s).snapshot with
  | some x => if x.index = index ∧ x.sub = sub ∧ s.now < x.lastRead + lapseNs then some x else none
  | none => none

/-- The bytes of a snapshot that a read returns. -/
def readBody (m : DictMsg) (bytes : List Byte) : List Byte := (bytes.drop m.offset).take (Nat.min m.length 1024)

/-- A READ at OFFSET > 0: bytes of the requester's snapshot (R546). -/
def readOn (r : ReqId) (m : DictMsg) (s : State) : State :=
  let size := readSize m.index m.sub
  if readError r m.index m.sub s ≠ erOk then respond r m (readError r m.index m.sub s) size 0 [] s
  else if size ≤ m.offset then respond r m erBadLength size 0 [] s
  else match liveSnapshot r m.index m.sub s with
    | none => respond r m erSegment size 0 [] s
    | some x =>
      if x.bytes.length ≤ m.offset then respond r m erBadLength x.bytes.length 0 [] s
      else if readState (entryKey m.index m.sub) s ≠ erOk then
        respond r m (readState (entryKey m.index m.sub) s) x.bytes.length 0 [] s
      else respond r m erOk x.bytes.length 0 (readBody m x.bytes)
        (putReq { reqOf r s with snapshot := some { x with lastRead := s.now } } s)

/-- A READ performed (R543, R546). -/
def readMessage (r : ReqId) (m : DictMsg) (s : State) : State :=
  if m.offset ≠ 0 then readOn r m s
  else
    let err := readRefusal r m.index m.sub s
    if err ≠ erOk then respond r m err (readSize m.index m.sub) 0 [] s
    else
      let (bytes, s) := takeValue r m.index m.sub s
      let x : Snapshot := { index := m.index, sub := m.sub, bytes := bytes, lastRead := s.now }
      respond r m erOk bytes.length 0 (readBody m bytes) (putReq { reqOf r s with snapshot := some x } s)

/-- An entry that a multi-item OP may not name (R549). -/
def multiBars (index sub : Nat) : Bool :=
  match findEntry index sub with
  | some e => e.acc == .cmd || 1024 < e.typ.size
  | none => false

/-- The refusal of a MULTI_READ item. -/
def readItemError (r : ReqId) (i : Nat × Nat) (s : State) : Nat :=
  let a := readError r i.1 i.2 s
  if a ≠ erOk then a else if multiBars i.1 i.2 then erMultiCmd
  else readState (entryKey i.1 i.2) s

/-- The first failing item of a list: its position and error. -/
def firstError {α : Type} (check : α → Nat) : Nat → List α → Option (Nat × Nat)
  | _, [] => none
  | n, x :: t => if check x = erOk then firstError check (n + 1) t else some (n, check x)

/-- The values of a MULTI_READ, in item order: header and padded value of each. -/
def gatherItems (r : ReqId) : List (Nat × Nat) → State → List Byte × State
  | [], s => ([], s)
  | i :: t, s =>
    let (v, s) := takeValue r i.1 i.2 s
    let (rest, s) := gatherItems r t s
    (leBytes 2 i.1 ++ leBytes 1 i.2 ++ leBytes 1 0 ++ leBytes 4 v.length ++ padTo (alignUp v.length 8) v ++ rest, s)

/-- Bytes of a MULTI_READ response. -/
def gatherSize (items : List (Nat × Nat)) : Nat :=
  (items.map (fun i => 8 + alignUp (entrySize i.1 i.2) 8)).foldl (· + ·) 0

/-- A MULTI_READ performed at one instant (R550). -/
def multiReadMessage (r : ReqId) (m : DictMsg) (s : State) : State :=
  let items := (readItems m.count_ m.body).getD []
  match firstError (fun i => readItemError r i s) 0 items with
  | some (n, err) => respond r m err 0 n [] s
  | none =>
    if 1024 < gatherSize items then respond r m erBadLength 0 0 [] s
    else
      let (body, s) := gatherItems r items s
      respond r m erOk 0 0 body s

/-! The effect of each entry's write. -/

/-- What a handler does with a relayed owner record, of which the dictionary server knows nothing. -/
abbrev RelayHandler : Type := List Byte → State → State

/-- A write that only changes the value an entry holds. -/
def storeEntry (key size : Nat) (_ : ReqId) (bytes : List Byte) (s : State) : State :=
  { s with dict := { s.dict with values := alSet s.dict.values key (padTo size bytes) } }

/-- A selector written (R558). -/
def selectAction (key : Nat) (r : ReqId) (bytes : List Byte) (s : State) : State := setSelector key (ofLe bytes) r s

/-- A slot of the pending schedule written (R361, R363). -/
def pendingSlotAction (slot : Nat) (_ : ReqId) (bytes : List Byte) (s : State) : State :=
  { s with job := { s.job with pendingTable := alSet s.job.pendingTable slot (BitVec.ofNat 128 (ofLe bytes)) } }

/-- MAP_ENABLE written: turned on, the ring's counts restart at 0 (Table 15.8). -/
def mapEnableAction (_ : ReqId) (bytes : List Byte) (s : State) : State :=
  let v := ofLe bytes
  let s := if v = 1 ∧ ent Ent.mapEnable s = 0 then
      { s with xlate := { s.xlate with mapTail := 0, mapHead := 0, mapFetched := 0, mapStale := none } }
    else s
  setEnt Ent.mapEnable 1 v s

/-- BIV_GRAPH written: the named graph's loading begins (R521). -/
def bivGraphAction (_ : ReqId) (bytes : List Byte) (s : State) : State :=
  let s := setEnt Ent.bivGraph 2 (ofLe bytes) s
  { s with power := { s.power with bivState := if ofLe bytes = 0xFFFF ∨ s.job.state = jobNone then 0 else 1 } }

/-- The identity of a requester in CLEARED's P2 (Table 23.4). -/
def whoId : ReqId → Nat
  | .t1s mac => 2 ^ 56 + mac.toNat
  | .mctp eid => 2 * 2 ^ 56 + eid.toNat
  | .window => 3 * 2 ^ 56
  | .owner sid => 4 * 2 ^ 56 + sid % 2 ^ 48
  | .biv => 0

/-- What a write of 1 to WB_CLEAR does: the clear, its status RUNNING until the nonvolatile copy is done (R581). -/
def wbClearAction (r : ReqId) (_ : List Byte) (s : State) : State := clearWaybill (whoId r) s

/-- The record that a value of RELAY_IN holds: the value's bytes, 0 where it gives none (R541), as far as the record's own LENGTH,
with a DATA record's tag (Table 18.8). -/
def relayedRecord (bytes : List Byte) : List Byte :=
  let w0 := leAt bytes 0 8
  (padTo 8944 bytes).take (32 + field w0 31 0 + (if field w0 43 40 = 3 then 16 else 0))

/-- What a write of RELAY_IN does: the record is handled as one that the host relays (R495). -/
def relayInAction (relay : RelayHandler) (_ : ReqId) (bytes : List Byte) (s : State) : State :=
  endCmd Ent.relayIn stOk 0 (relay (relayedRecord bytes) s)

/-- The actions of the entries that have more than a value, by key. -/
def actionTable (relay : RelayHandler) : List (Nat × (ReqId → List Byte → State → State)) :=
  [(Ent.svcEnable, svcEnableAction), (Ent.keyLoad, keyLoadAction), (Ent.sessionClose, sessionCloseAction),
   (Ent.tableDefine, tableDefineAction), (Ent.tableDelete, tableDeleteAction), (Ent.predictReset, predictResetAction),
   (Ent.jobDeploy, jobDeployAction), (Ent.jobUndeploy, jobUndeployAction), (Ent.contextCreate, contextCreateAction),
   (Ent.contextDelete, contextDeleteAction), (Ent.schedCommit, schedCommitAction), (Ent.repairRun, repairRunAction),
   (Ent.repairAdd, repairAddAction), (Ent.testPortRaw, testPortRawAction), (Ent.fqOverflowClear, fqOverflowClearAction),
   (Ent.mapEnable, mapEnableAction)] ++
  [(Ent.fabPeerSet, peerSetAction), (Ent.fabFabricJoin, fabricJoinAction), (Ent.fabFabricLeave, fabricLeaveAction),
   (Ent.rollbackCommit, rollbackCommitAction), (Ent.quoteNonce, quoteNonceAction), (Ent.measureExtend, measureExtendAction),
   (Ent.relayIn, relayInAction relay), (Ent.keyWipe, keyWipeAction), (Ent.powerCapW, powerCapAction),
   (Ent.powerOff, powerOffAction), (Ent.bivGraph, bivGraphAction), (Ent.coldReset, coldResetAction),
   (Ent.maintMode, maintModeAction), (Ent.fwWrite, fwWriteAction), (Ent.fwInstall, fwInstallAction),
   (Ent.fwActivate, fwActivateAction), (Ent.fwConfirm, fwConfirmAction), (Ent.cgReset, cgResetAction),
   (Ent.wbClear, wbClearAction)]

/-- What an accepted write of an entry does. -/
def entryAction (relay : RelayHandler) (index sub : Nat) : ReqId → List Byte → State → State :=
  let key := entryKey index sub
  if isSelector key then selectAction key
  else if 0x2010 ≤ index ∧ index ≤ 0x201F ∧ sub = 5 then bindingEnableAction (index - 0x2010)
  else if 0x2510 ≤ index ∧ index < 0x2550 ∧ sub = 6 then queueEnableAction (index - 0x2510)
  else if 0x2A30 ≤ index ∧ index ≤ 0x2A3F ∧ sub = 2 then ggroupEnableAction (index - 0x2A30)
  else if index = 0x2620 then pendingSlotAction (sub - 1)
  else match (actionTable relay).find? (fun p => p.1 == key) with
    | some p => p.2
    | none => storeEntry key (entrySize index sub)

/-- An accepted write performed; that of a CMD entry starts its action (R551). -/
def performWrite (relay : RelayHandler) (r : ReqId) (index sub : Nat) (bytes : List Byte) (s : State) : State :=
  match findEntry index sub with
  | none => s
  | some e =>
    entryAction relay index sub r bytes (if e.acc = .cmd then startCmd (entryKey index sub) r s else s)

/-- Steps 6 and 7 of R543 for a whole value. -/
def valueError (index sub : Nat) (bytes : List Byte) (s : State) : Nat :=
  match findEntry index sub with
  | none => erNoEntry
  | some e =>
    if !rangeOk index sub e.typ e.acc bytes s then erBadValue
    else
      let a := stateError index sub e.acc bytes s
      if a ≠ erOk then a
      else if 0x2510 ≤ index ∧ index < 0x2550 ∧ sub = 6 ∧ ringsRefused (index - 0x2510) (ofLe bytes) s = true then
        erNoResource
      else erOk

/-! Writing (R544, R545, R549). -/

/-- A write refused: answered, and counted where a sealed job's limits refuse it. -/
def refuseWrite (r : ReqId) (m : DictMsg) (err : Nat) (s : State) : State :=
  respond r m err (entrySize m.index m.sub) 0 [] (noteRefusal r m.index m.sub err s)

/-- A write accepted: answered, then performed. -/
def acceptWrite (relay : RelayHandler) (r : ReqId) (m : DictMsg) (bytes : List Byte) (s : State) : State :=
  performWrite relay r m.index m.sub bytes (respond r m erOk (entrySize m.index m.sub) 0 [] s)

/-- A requester's own open write of an entry. -/
def ownWrite (r : ReqId) (index sub : Nat) (s : State) : Option PartialWrite :=
  (reqOf r s).partials.find? (fun p => openWrite index sub p s)

/-- A segment joins the bytes before it; FINAL completes the write. -/
def takeSegmentOf (relay : RelayHandler) (r : ReqId) (m : DictMsg) (before : List Byte) (s : State) : State :=
  let bytes := before ++ m.body
  if m.final then
    if bytes.isEmpty then refuseWrite r m erBadLength s
    else
      let err := valueError m.index m.sub bytes s
      if err ≠ erOk then refuseWrite r m err s
      else acceptWrite relay r m bytes (dropPartial r m.index m.sub s)
  else
    let p : PartialWrite := { index := m.index, sub := m.sub, bytes := bytes, last := s.now }
    let s := dropPartial r m.index m.sub s
    let x := reqOf r s
    respond r m erOk (entrySize m.index m.sub) 0 [] (putReq { x with partials := x.partials ++ [p] } s)

/-- The first error of a segment at OFFSET 0, in the order of R543: a whole value's size and range, then another's open write. -/
def openingError (r : ReqId) (m : DictMsg) (s : State) : Nat :=
  if m.final && m.body.isEmpty then erBadLength
  else if m.final && (findEntry m.index m.sub).any (fun e => !rangeOk m.index m.sub e.typ e.acc m.body s) then erBadValue
  else if heldByOther r m.index m.sub s then erBusy
  else erOk

/-- A WRITE of an entry of more than 1,024 bytes (R544, R545). -/
def segmentMessage (relay : RelayHandler) (r : ReqId) (m : DictMsg) (s : State) : State :=
  if entrySize m.index m.sub < m.offset + m.body.length then refuseWrite r m erBadLength s
  else if m.offset = 0 then
    if openingError r m s ≠ erOk then refuseWrite r m (openingError r m s) s
    else takeSegmentOf relay r m [] s
  else match ownWrite r m.index m.sub s with
    | some p =>
      if p.bytes.length = m.offset then takeSegmentOf relay r m p.bytes s
      else refuseWrite r m erSegment (dropPartial r m.index m.sub s)
    | none => refuseWrite r m erSegment (dropPartial r m.index m.sub s)

/-- A WRITE performed (R543 to R545). -/
def writeMessage (relay : RelayHandler) (r : ReqId) (m : DictMsg) (s : State) : State :=
  let err := writeRights r m.index m.sub m.body s
  if err ≠ erOk then refuseWrite r m err s
  else if 1024 < entrySize m.index m.sub then segmentMessage relay r m s
  else match findEntry m.index m.sub with
    | none => refuseWrite r m erNoEntry s
    | some e =>
      if m.offset ≠ 0 ∨ m.final = false ∨ sizeOk e m.body.length = false then refuseWrite r m erBadLength s
      else
        let err := valueError m.index m.sub m.body s
        if err ≠ erOk then refuseWrite r m err s else acceptWrite relay r m m.body s

/-- The refusal of a MULTI_WRITE item. -/
def writeItemError (r : ReqId) (i : DictItem) (s : State) : Nat :=
  let err := writeRights r i.1 i.2.1 i.2.2 s
  if err ≠ erOk then err
  else match findEntry i.1 i.2.1 with
    | none => erNoEntry
    | some e =>
      if multiBars i.1 i.2.1 then erMultiCmd
      else if sizeOk e i.2.2.length = false then erBadLength
      else valueError i.1 i.2.1 i.2.2 s

/-- The items that act, in their order: of two that name one entry, the later (R549). -/
def lastItems : List DictItem → List DictItem
  | [] => []
  | i :: t => if t.any (fun j => j.1 == i.1 && j.2.1 == i.2.1) then lastItems t else i :: lastItems t

/-- Items applied in order. -/
def applyItems (relay : RelayHandler) (r : ReqId) (items : List DictItem) (s : State) : State :=
  items.foldl (fun s i => performWrite relay r i.1 i.2.1 i.2.2 s) s

/-- The first item that enables a queue for whose rings the items before it leave no room (R291). -/
def ringlessItem (relay : RelayHandler) (r : ReqId) : List DictItem → State → Option DictItem
  | [], _ => none
  | i :: t, s =>
    if 0x2510 ≤ i.1 ∧ i.1 < 0x2550 ∧ i.2.1 = 6 ∧ ringsRefused (i.1 - 0x2510) (ofLe i.2.2) s = true then some i
    else ringlessItem relay r t (performWrite relay r i.1 i.2.1 i.2.2 s)

/-- A MULTI_WRITE performed: every item is checked before any is applied, and all are applied in order (R549). -/
def multiWriteMessage (relay : RelayHandler) (r : ReqId) (m : DictMsg) (s : State) : State :=
  let items := (writeItems m.count_ m.body).getD []
  match firstError (fun i => writeItemError r i s) 0 items with
  | some (n, err) =>
    let i := items.getD n (0, 0, [])
    respond r m err 0 n [] (noteRefusal r i.1 i.2.1 err s)
  | none => match ringlessItem relay r (lastItems items) s with
    | some i => respond r m erNoResource 0 (items.length - 1 - items.reverse.idxOf i) [] s
    | none => applyItems relay r (lastItems items) (respond r m erOk 0 0 [] s)

/-! The server (R547, R548, R562). -/

/-- Requests are answered: while input power is in its range, with UNAVAILABLE where the unit that serves the entry does not run
(R552, R562). -/
def dictServed (s : State) : Bool := s.recovery.powerGood

/-- The requester of a message exists: an owner session must be open. -/
def reqExists (r : ReqId) (s : State) : Bool :=
  match r with
  | .owner sid => (ownerOf sid s).isSome
  | _ => true

/-- One message performed. -/
def performMessage (relay : RelayHandler) (r : ReqId) (m : DictMsg) (s : State) : State :=
  if badFrame m then respond r m erBadFrame 0 0 [] s
  else if m.op = 1 then readMessage r m s
  else if m.op = 2 then writeMessage relay r m s
  else if m.op = 3 then multiWriteMessage relay r m s
  else multiReadMessage r m s

/-- One message of a requester served: one shorter than a header is dropped, one that repeats the kept response is answered
with it and not performed again (R542, R547). -/
def serveMessage (relay : RelayHandler) (r : ReqId) (message : List Byte) (s : State) : State :=
  if dictServed s = false ∨ reqExists r s = false ∨ message.length < 24 then s
  else
    let m := parseDict message
    match keptFor r m s with
    | some bytes => sendResponse r bytes (touchReq r s)
    | none => performMessage relay r m (touchReq r s)

/-- The OP of a message. -/
def messageOp (message : List Byte) : Nat := leAt message 7 1

/-- A row of the table serves messages of its own OP, and those whose OP no row has. -/
def servedBy (op : Nat) (message : List Byte) : Bool :=
  messageOp message == op || messageOp message == 0 || 4 < messageOp message

/-- The management MAC address (R553). -/
def mgmtMac (s : State) : BitVec 48 := s.security.macBase + 16

/-- The broadcast address. -/
def broadcastMac : BitVec 48 := BitVec.allOnes 48

/-- A frame is one that the module answers: on 10BASE-T1S under DICT_ETHERTYPE, sent to its management address or a broadcast READ
of an entry in 0x1000 to 0x1FFF; on I3C and SMBus an MCTP message of the dictionary's type and vendor to the module's target
address; other transports carry no destination (R552, R553). -/
def answersFrame (req : ReqId) (frame : DictFrame) (s : State) : Bool :=
  match req with
  | .t1s _ =>
    frame.ethertype.all (fun t => t == s.security.dictEthertype) &&
    frame.dest.all (fun a =>
      a == mgmtMac s ||
      (a == broadcastMac && messageOp frame.bytes == 1 && decide (0x1000 ≤ (parseDict frame.bytes).index) &&
        decide ((parseDict frame.bytes).index ≤ 0x1FFF)))
  | .mctp _ =>
    frame.mctp.all (fun t => t == (0x7E, 0x1F8D)) && frame.target.all (fun a => a.toNat == ent Ent.i3cStaticAddr s)
  | _ => true

/-- A message given under a row of the table. -/
def serveRow (op : Nat) (relay : RelayHandler) (req : ReqId) (frame : DictFrame) (s : State) : State :=
  if servedBy op frame.bytes && answersFrame req frame s then serveMessage relay req frame.bytes s else s

/-! What lapses after 100 ms (R545 to R547). -/

/-- SEGMENT_LAPSE: a requester's writes left open for 100 ms are discarded. -/
def execSegmentLapse (req : ReqId) (s : State) : Host.Outcome State Fault Refusal :=
  let x := reqOf req s
  if x.partials.any (fun p => decide (p.last + lapseNs ≤ s.now)) then
    .next (putReq { x with partials := x.partials.filter (fun p => decide (s.now < p.last + lapseNs)) } s)
  else .next s

/-- SNAPSHOT_LAPSE. -/
def execSnapshotLapse (req : ReqId) (s : State) : Host.Outcome State Fault Refusal :=
  let x := reqOf req s
  match x.snapshot with
  | some p => if p.lastRead + lapseNs ≤ s.now then .next (putReq { x with snapshot := none } s) else .next s
  | none => .next s

/-- KEPT_RESPONSE_LAPSE. -/
def execKeptResponseLapse (req : ReqId) (s : State) : Host.Outcome State Fault Refusal :=
  let x := reqOf req s
  match x.kept with
  | some k => if k.at_ + lapseNs ≤ s.now then .next (putReq { x with kept := none } s) else .next s
  | none => .next s

/-! The Waybill's entries (R565, R579, R581). -/

/-- The request of a whole read of an entry that is given as a command of its own. -/
def wholeRead (index sub length : Nat) : DictMsg :=
  { op := 1, response := false, final := false, rsvd := 0, count_ := 0, seq := 0, length := length, index := index, sub := sub,
    offset := 0, body := [] }

/-- WB_READ: a read of the record at the requester's cursor (R565, R579). -/
def execWbRead (req : ReqId) (s : State) : Host.Outcome State Fault Refusal :=
  if dictServed s = false ∨ reqExists req s = false then .next s
  else .next (readMessage req (wholeRead 0x2E00 7 64) (touchReq req s))

/-- WB_CLEAR. -/
def execWbClear (req : ReqId) (value : Nat) (s : State) : Host.Outcome State Fault Refusal :=
  .next (cmdVia wbClearAction req 0x2E00 8 (leBytes 1 value) s)

/-- WB_CLEAR_COPY_DONE: the nonvolatile copy of a clear is complete. -/
def execWbClearCopyDone (s : State) : Host.Outcome State Fault Refusal :=
  match s.waybill.copying with
  | none => .next s
  | some _ => .next (endCmd Ent.wbClear stOk 0 { s with waybill := { s.waybill with copying := none } })

/-- RELAY_OUT: a read at offset 0, of a length, of the next owner record (R546). -/
def execRelayOut (req : ReqId) (length : Nat) (s : State) : Host.Outcome State Fault Refusal :=
  if dictServed s = false ∨ reqExists req s = false ∨ length = 0 ∨ 1024 < length then .next s
  else .next (readMessage req (wholeRead 0x2B00 0x12 length) (touchReq req s))

end Sys2Proof.Machine
end

