-- ==== Sys2Proof/Machine/HostRead.lean ====
section
/-! DEFINITION. What the host reads: BAR2_READ, and views of BAR0 and BAR4 (16, R431 and Table 16.4; 12, R339 and Table 12.1;
21, Table 21.6). The opcode table has no row for a read of a register: those are views of State, and a read that R431 does not
allow changes BAR_BAD_ACCESS alone. -/

namespace Sys2Proof.Machine

open Sys2Proof

/-- What a read of a byte through BAR2 returns is open: a command without VIS_ALL that may have written it completed less than 150
ns ago, and the host has not written it since (R440, R441, R450; log 189). -/
def bar2Stale (va : Nat) (s : State) : Bool :=
  s.hostif.unseen.any (fun u => decide (s.now < u.1 + 150) && decide (u.2.1 ≤ va) && decide (va < u.2.2) &&
    !s.hostif.hostWrites.any (fun h => decide (u.1 ≤ h.1) && decide (h.2.1 ≤ va) && decide (va < h.2.2)))

/-- The bytes that a read through BAR2 returns. -/
def bar2Bytes (va n : Nat) (s : State) : List Byte :=
  if s.hostif.unseen.isEmpty then devRead s va n
  else (devRead s va n).zipIdx.map (fun b => if bar2Stale (va + b.2) s then Config.unsteadyByte (2 ^ 64 + va + b.2) s.now else b.1)

/-- A read through BAR2 with codewords of device memory in error: corrected ones are served, a read with one whose check fails
is answered with an error completion (R382 to R385; log 162). -/
def readWindow (read : WindowRead) (va bytes : Nat) (s : State) : State :=
  let c := codewordsAt 0 (fun k => some (va / 32 * 32 + 32 * k)) read.errors s
  bar2Complete read.offset (if c.1 then some (bar2Bytes va bytes c.2) else none) c.2

/-- BAR2_READ (R432, R434). -/
def execBar2Read (read : WindowRead) (bytes : Nat) (s : State) : Host.Outcome State Fault Refusal :=
  if s.hostif.bar2Size < read.offset + bytes then .fault .noSuchUnit
  else if bar2Closed s then .next (count Cnt.bar2Closed 1 (bar2Complete read.offset (some (allOnesBytes bytes)) s))
  else
    let va := bar2Va read.offset s
    if bar2Mapped va bytes .read s then .next (readWindow read va bytes (hubAccess va bytes s))
    else .next (count Cnt.bar2Unmapped 1 (bar2Complete read.offset (some (allOnesBytes bytes)) s))

/-- HIF_STATUS (Table 16.4). -/
def hifStatus (s : State) : Nat :=
  s.job.state % 16 + (if sealedJob s then 2 ^ 4 else 0) + (if bar2Closed s then 0 else 2 ^ 5) +
  (if s.xlate.overflow then 2 ^ 6 else 0) + s.dispatch.postilionState % 4 * 2 ^ 8 + s.hostif.linkGen % 16 * 2 ^ 12 +
  s.hostif.linkWidth % 32 * 2 ^ 16

/-- Eight bytes of a vector table entry: the message address, or data and vector control (R443). -/
def msixWord (offset : Nat) (s : State) : Nat :=
  let v := offset / 16
  if offset % 16 < 8 then ((alGet s.hostif.msixAddr v).getD 0).toNat
  else ((alGet s.hostif.msixData v).getD 0).toNat + (if s.hostif.msixUnmasked.contains v then 0 else 2 ^ 32)

/-- The 64 pending bits from vector `first` on. -/
def pendingBits (first : Nat) (s : State) : Nat :=
  (List.range 64).foldl (fun a i => if s.hostif.msixPending.contains (first + i) then a + 2 ^ i else a) 0

/-- The 64-bit register of BAR0 at an offset that is a multiple of 8; 0 where none is listed (R431), and for write-only
ones. -/
def bar0Word (offset : Nat) (s : State) : Nat :=
  if offset = 0x0000 then 0x09600003
  else if offset = 0x0008 then hifStatus s
  else if offset = 0x0010 then s.hostif.eventCause.toNat
  else if offset = 0x0018 then s.now % 2 ^ 64
  else if 0x1000 ≤ offset ∧ offset < 0x1400 then
    ((alGet (if offset % 16 = 0 then s.hostif.tailReg else s.hostif.cqHeadReg) ((offset - 0x1000) / 16)).getD 0).toNat % 2 ^ 32
  else if offset = 0x1400 then s.hostif.fqHeadReg.toNat % 2 ^ 32
  else if offset = 0x1408 then s.hostif.mapTailReg.toNat % 2 ^ 32
  else if 0x2000 ≤ offset ∧ offset < 0x2800 then msixWord (offset - 0x2000) s
  else if offset = 0x3000 then pendingBits 0 s
  else if offset = 0x3008 then pendingBits 64 s
  else if 0x8000 ≤ offset ∧ offset < 0x8800 then leAt s.dict.dwRequest (offset - 0x8000) 8
  else if 0x8800 ≤ offset ∧ offset < 0x9000 then leAt s.dict.dwResponse (offset - 0x8800) 8
  else if offset = 0x9008 then s.dict.dwDone.toNat
  else 0

/-- The 64-bit register of BAR4 at an offset that is a multiple of 8 (Table 12.1). -/
def bar4Word (offset : Nat) (s : State) : Nat :=
  match offset with
  | 0x000 => 0x00020960
  | 0x008 => s.legacy.ctrl.toNat
  | 0x010 => s.legacy.state % 4 + legShown s % 2 ^ 16 * 2 ^ 16
  | 0x018 => s.legacy.sqBase.toNat
  | 0x020 => s.legacy.sqDepth.toNat
  | 0x028 => s.legacy.cqBase.toNat
  | 0x030 => s.legacy.cqDepth.toNat
  | 0x038 => s.legacy.msix.toNat
  | 0x050 => s.legacy.sqHead % 2 ^ 32
  | _ => 0

/-- A read of BAR0 or BAR4 (R431): its value and the state after it. -/
def barRead (bar4 : Bool) (offset bytes : Nat) (s : State) : Nat × State :=
  if (bytes = 4 ∨ bytes = 8) ∧ offset % bytes = 0 then
    let w := if bar4 then bar4Word (offset / 8 * 8) s else bar0Word (offset / 8 * 8) s
    (w / 2 ^ (8 * (offset % 8)) % 2 ^ (8 * bytes), s)
  else (0, count Cnt.barBadAccess 1 s)

end Sys2Proof.Machine
end

