-- ==== Sys2Proof/Machine/HostReset.lean ====
section
/-! DEFINITION. What happens while the host cannot be reached, function-level reset, and the link (16, R427, R428, R447 to
R449). -/

namespace Sys2Proof.Machine

open Sys2Proof

/-! Reachability (R447). -/

/-- What was held in order, written and raised. -/
def flushHeld (held : List HeldRecord) (s : State) : State :=
  held.foldl (fun s h => match h.vector, h.addend with
    | some v, _ => raiseVector h.queue v s
    | none, some n =>
      count Cnt.dmaReadBytes 8 <| hostWrite h.queue h.addr (leBytes 8 ((ofLe (memRead s.mem.host h.addr 8) + n) % 2 ^ 64)) s
    | none, none => hostWrite h.queue h.addr h.bytes s) s

/-- The reachability of the host noted after a change: when it ends, held records and completions go out in order, held accesses
go on and latched faults are enqueued. -/
def noteReach (s : State) : State :=
  if hostReachable s then
    match s.hostif.unreachableSince with
    | none => s
    | some _ =>
      let held := s.hostif.heldRecords
      let accesses := s.hostif.heldAccesses
      let s := { s with hostif := { s.hostif with unreachableSince := none, heldRecords := [], heldAccesses := [] } }
      let s := fetchMap (resumeFetch (resumeHeld (flushHeld held s)))
      let s := (accesses.filter (fun h => h.agent < 546)).foldl (fun s h => replayAgent h.agent s) s
      drainLatched s.xlate.faults.length s
  else
    match s.hostif.unreachableSince with
    | some _ => s
    | none => { s with hostif := { s.hostif with unreachableSince := some s.now } }

/-- HOST_UNREACHABLE: the host changes one of the conditions through configuration space, which answers from step 7 of start-up
on (R528). -/
def execHostUnreachable (ev : HostEvent) (s : State) : Host.Outcome State Fault Refusal :=
  .next (if configRetried s then retryConfig s else noteReach (match ev with
    | .busMaster on => { s with hostif := { s.hostif with bme := on } }
    | .d3hot on => { s with hostif := { s.hostif with d3hot := on } }
    | .atomicRequests on => { s with hostif := { s.hostif with atomicEnable := on } }))

/-! Function-level reset (R449). -/

/-- A command dispatched already: it runs to completion, its host-bound outputs dropped. -/
def keepDispatched (cmds : List Cmd) : List Cmd :=
  (cmds.filter (fun c => c.phase == .dispatched || c.phase == .finished)).map (fun c => { c with drop := true })

/-- The signal of a held completion sent to its object in another module. -/
def sendFarSignal (n : Nat) (c : Cmd) (s : State) : State :=
  if farSignal c s ∧ c.signal = 0 ∧ (peerRec (cw c 4 / 2 ^ 52) s).isSome then
    fabPost (cw c 4 / 2 ^ 52) 4 (if cb c 39 then 1 else 0) (BitVec.ofNat 64 (cw c 4 % 2 ^ 52)) (leBytes 8 (cw c 5)) 0
      (.signal n c.id) s
  else s

/-- The signal of a held completion applied to its object in device memory. -/
def applyNearSignal (n : Nat) (c : Cmd) (s : State) : State :=
  match nearSignal c s with
  | some va => if completionCheck n { c with drop := true } s = (.ok, .write) then applySignal true va (cb c 39) (cw c 5) s else s
  | none => s

/-- A completion that a full ring or the host held gives its signal all the same; what it would send to host memory is dropped and
counted (R449). -/
def dropCompletion (n : Nat) (c : Cmd) (s : State) : State :=
  let s := applyNearSignal n c (sendFarSignal n c s)
  let s := if needsRecord c then count Cnt.recordsDropped 1 s else s
  if cb c 52 then count Cnt.recordsDropped 1 s else s

/-- A HOST queue disabled at once: a direct queue's task finds bit 63 of the shadow set (R316). -/
def dropQueue (n : Nat) (s : State) : State :=
  if queueClassOf n s = 1 then
    let s := (queueOf n s).held.foldl (fun s c => dropCompletion n c s) s
    let direct := (queueOf n s).state = 4
    let tail := (queueOf n s).tail
    let s := setEnt (Ent.queueEnable + 256 * n) 1 0
      (updQueue n (fun q =>
        let kept := keepDispatched q.cmds
        { q with
          state := if q.state = 0 then 0 else if kept.isEmpty then 0 else 3,
          cmds := kept, staleReads := none, tail := 0, cqHead := 0, written := 0, held := [] }) s)
    if direct then directShadow n tail true s else s
  else s

/-- What is held under R447 for HOST queues, interrupts among it, is dropped and counted. -/
def dropHeld (s : State) : State :=
  let mine := s.hostif.heldRecords.filter (fun h => h.queue.any (fun n => queueClassOf n s == 1))
  count Cnt.recordsDropped mine.length
    { s with hostif := { s.hostif with
      heldRecords := s.hostif.heldRecords.filter (fun h => !h.queue.any (fun n => queueClassOf n s == 1)) } }

/-- A legacy completion that was held, likewise. -/
def dropLegacy (c : Cmd) (s : State) : State :=
  let s := if legSignals c ∧ legCheck { c with drop := true } s = (.ok, .write) then applySignal true (cw c 1) (legCond c == 1) (cw c 2) s else s
  count Cnt.recordsDropped (if cb c 52 then 2 else 1) s

/-- BAR4 at its reset values, the interface OFF (R350); dispatched commands run to completion. -/
def resetLegacy (s : State) : State :=
  let s := s.legacy.held.foldl (fun s c => dropLegacy c s) s
  { s with legacy := { State.reset.legacy with cmds := keepDispatched s.legacy.cmds } }

/-- The effects of a function-level reset. -/
def flrEffects (s : State) : State :=
  let s := resetLegacy (dropHeld s)
  let s := (List.range 64).foldl (fun s n => dropQueue n s) s
  let s := setEnt Ent.mapEnable 1 0 s
  noteReach { s with
    xlate := { s.xlate with fqHead := 0, mapTail := 0, mapRecords := s.xlate.mapRecords.filter (fun r => r.at_.isNone), mapStale := none },
    hostif := { s.hostif with
      eventCause := 0, tailReg := [], cqHeadReg := [], fqHeadReg := 0, mapTailReg := 0, msixAddr := [], msixData := [],
      msixUnmasked := [], msixPending := [], holdoff := [], bme := false, d3hot := false, atomicEnable := false,
      bar2Size := ent Ent.bar2ResetGib s * 2 ^ 30 } }

/-- FUNCTION_LEVEL_RESET: `start` begins it; otherwise the running one ends. -/
def execFunctionLevelReset (start : Bool) (s : State) : Host.Outcome State Fault Refusal :=
  .next (if start then
    count Cnt.flrs 1 (flrEffects { s with hostif := { s.hostif with flr := true } })
  else noteReach { s with hostif := { s.hostif with flr := false } })

/-! The link (R427, R428, R448). -/

/-- The link lost: a Waybill record, the count, and the host unreachable. -/
def loseLink (s : State) : State :=
  if s.hostif.linkGen = 0 then s
  else noteReach (count Cnt.linkDowns 1 (wbSubmit 0xA001 noInst [0, 0, 0]
    { s with hostif := { s.hostif with linkGen := 0, linkWidth := 0, wasUp := true } }))

/-- LINK_DOWN. -/
def execLinkDown (s : State) : Host.Outcome State Fault Refusal := .next (loseLink s)

/-- PERST_N: an assertion, its release, or a hot reset; an assertion takes the link down until it trains again. -/
def execPerstN (ev : LinkReset) (s : State) : Host.Outcome State Fault Refusal :=
  .next (match ev with
    | .perstAsserted =>
      if s.pins.perstN then
        count Cnt.flrs 1 (flrEffects (loseLink { s with pins := { s.pins with perstN := false } }))
      else s
    | .perstReleased => { s with pins := { s.pins with perstN := true } }
    | .hotReset => count Cnt.flrs 1 (flrEffects s))

/-- LINK_TRAINING with a partner's highest generation, the generation at which its lanes train, and their number: from step 7 of
start-up and with PERST_N released, the link reaches at most the lower of MAX_LINK_GEN and the partner's highest rate, and the
widest width (R427). Below either it is degraded (R428). A link that returns from down has the effects of a function-level
reset. -/
def execLinkTraining (partner : LinkPartner) (lanes : Nat) (s : State) : Host.Outcome State Fault Refusal :=
  if s.recovery.bootStage < 7 ∨ s.pins.perstN = false ∨ partner.highest < 4 ∨ partner.trained < 4 ∨ lanes = 0 then .next s
  else
    let best := Nat.min (Nat.min 7 partner.highest) (ent Ent.maxLinkGen s)
    let gen := Nat.min best partner.trained
    let width := 2 ^ Nat.log2 (Nat.min lanes 16)
    let was := s.hostif.wasUp && s.hostif.linkGen == 0
    let s := if was then flrEffects s else s
    let s := noteReach { s with hostif := { s.hostif with linkGen := gen, linkWidth := width, wasUp := false } }
    .next (if width < 16 ∨ gen < best then raiseEvent 2 (wbSubmit 0xA001 noInst [2, gen, width] s)
      else wbSubmit 0xA001 noInst [1, gen, width] s)

end Sys2Proof.Machine
end

