-- ==== Sys2Proof/Machine/Owner.lean ====
section
/-! DEFINITION. The owner channel (18, R494 to R496), the relay through the dictionary, and the rows whose handling meets it:
dictionary messages and the window of BAR0 (21, R542, R554). -/

namespace Sys2Proof.Machine

open Sys2Proof

/-! Records (R495). -/

/-- An owner record: its header and what follows it. -/
structure OwnerRec where
  typ : Nat
  kind : Nat
  sid : Nat
  seq : Nat
  frag : Nat
  header : List Byte
  payload : List Byte
  deriving DecidableEq, Repr

/-- A record read by Table 18.8; none where its magic, version or lengths are wrong. The payload of a DATA record carries
its tag. -/
def parseOwner (bs : List Byte) : Option OwnerRec :=
  let w0 := leAt bs 0 8
  let typ := field w0 43 40
  if bs.length < 32 ∨ 8944 < bs.length ∨ field w0 63 44 ≠ 0x4F431 ∨
      bs.length ≠ 32 + field w0 31 0 + (if typ = 3 then 16 else 0) then none
  else some { typ := typ, kind := field w0 39 32, sid := leAt bs 8 8, seq := leAt bs 16 8, frag := leAt bs 24 1,
              header := bs.take 32, payload := bs.drop 32 }

/-- A record that cannot be used is dropped and counted (R496). -/
def dropOwner (s : State) : State := count Cnt.ownerRecordsDropped 1 s

/-- Records reach the module: relayed by the host, or on an interface that is up, to OWNER_UDP_PORT at an interface address
(R495). -/
def ownerReaches (via : Option UdpPath) (s : State) : Bool :=
  s.recovery.hubRunning &&
  match via with
  | none => true
  | some p => s.power.netOn && s.fabric.ifUp.contains p.iface && p.here.port == ent Ent.ownerUdpPort s &&
    (List.range 16).any (fun i => ifaceHolds i p.here s)

/-! Opening a session (R494). -/

/-- Bytes of a fragment, at most (log 49). -/
abbrev ownerFragBytes : Nat := 1200

/-- A message in fragments from the n-th on; `last` is the number of fragments less 1. -/
def ownerFragments (sid last : Nat) : Nat → Nat → List Byte → List (List Byte)
  | 0, _, _ => []
  | fuel + 1, n, bs =>
    if bs.isEmpty then []
    else
      (ownerHeader 2 0 (Nat.min ownerFragBytes bs.length) sid 0 (n % 16 * 16 + last % 16) ++ bs.take ownerFragBytes) ::
        ownerFragments sid last fuel (n + 1) (bs.drop ownerFragBytes)

/-- OPEN_ACK sent in fragments. -/
def sendOpenAck (via : Option UdpPath) (sid : Nat) (ack : List Byte) (s : State) : State :=
  let n := (ack.length + ownerFragBytes - 1) / ownerFragBytes
  (ownerFragments sid (n - 1) n 0 ack).foldl (fun s r => ownerEmit via r s) s

/-- An owner key digest stands in one of the four slots of OWNER_KEYS; a slot of zeros is empty (Table 18.12). -/
def ownerKnown (d : List Byte) (s : State) : Bool :=
  let keys := ((alGet s.dict.values Ent.ownerKeys).getD [])
  (List.range 4).any (fun k => slice keys (32 * k) 32 == d && slice keys (32 * k) 32 != List.replicate 32 0)

/-- OPEN is accepted: its form, its key among OWNER_KEYS, fewer than four sessions, and its signature (R494). -/
def openOk (msg : List Byte) (s : State) : Bool :=
  let key := slice msg 1216 1952
  msg.length == 6477 && ownerKnown (shake 32 key) s && decide (s.security.owners.length < 4) &&
  Config.dsaVerify key (ascii "ST960-OWNER") (slice msg 0 3168) (slice msg 3168 3309)

/-- The session that a whole OPEN message establishes, or its refusal (Table 18.7). -/
def answerOpen (via : Option UdpPath) (msg : List Byte) (s : State) : State :=
  if openOk msg s = false then count Cnt.ownerAuthFailures 1 s
  else
    let key := slice msg 1216 1952
    let digest := shake256 key
    let sid := (Config.freeWord s.free).toNat
    let kem := randomBytes 32 (drawFree s)
    let ek := slice msg 32 1184
    let secret := (List.range 32).map (Config.kemEncapsByte ek kem)
    let ack := leBytes 8 sid ++ randomBytes 32 s ++ (List.range 1088).map (Config.kemCipherByte ek kem) ++ chainBytes s
    let ack := ack ++ makeQuote (shake 32 (msg ++ ack)) s
    let ack := ack ++ identitySign (ascii "ST960-OWNER") (msg ++ ack) s
    let keys := shake 64 (ascii "ST960 owner v1" ++ leBytes 8 sid ++ secret ++ shake 32 (msg ++ ack))
    let o : OwnerSession :=
      { id := sid, keyDigest := digest, key := key, keyIn := keys.take 32, keyOut := keys.drop 32, nextIn := 0, nextOut := 0,
        held := [], peer := via }
    let s := { s with free := s.free + 2, security := { s.security with owners := s.security.owners ++ [o] } }
    sendOpenAck via sid ack (measure 11 11 digest (count Cnt.quotes 1 (count Cnt.ownerSessionsOpened 1 s)))

/-- The whole message that a set of fragments holds, once none is missing. -/
def wholeOpen (frags : List (Nat × List Byte)) (last : Nat) : Option (List Byte) :=
  if (List.range (last + 1)).all (fun k => (alGet frags k).isSome) then
    some (((List.range (last + 1)).map (fun k => (alGet frags k).getD [])).foldr (· ++ ·) [])
  else none

/-- A fragment of an OPEN message joins its exchange. -/
def takeOpen (via : Option UdpPath) (r : OwnerRec) (s : State) : State :=
  let n := r.frag / 16
  let last := r.frag % 16
  if last < n then s
  else
    let h := (s.security.ownerHandshakes.find? (fun h => h.peer == via)).getD { peer := via, startedAt := s.now, frags := [] }
    let frags := alSet h.frags n r.payload
    let others := s.security.ownerHandshakes.filter (fun x => x.peer != via)
    match wholeOpen frags last with
    | some msg => answerOpen via msg { s with security := { s.security with ownerHandshakes := others } }
    | none =>
      { s with security := { s.security with ownerHandshakes := others ++ [{ h with frags := frags }] } }

/-! What each kind of DATA record does (Table 18.9). -/

/-- A session may act on the job: while a sealed job exists only sessions with its owner's key may (R498). -/
def ownerMayAct (sid : Nat) (s : State) : Bool :=
  !sealedJob s || sessionDigest (.owner sid) s == some s.security.ownerDigest

/-- STAGE: bytes written into the owner buffer; a record that does not fit is dropped (log 50). -/
def stageBytes (sid : Nat) (payload : List Byte) (s : State) : State :=
  let off := leAt payload 0 8
  let bytes := payload.drop 8
  if ownerMayAct sid s = false ∨ payload.length < 8 ∨ s.security.ownerBytes < off + bytes.length then dropOwner s
  else moduleWrite 11 (s.security.ownerVa + off) bytes s

/-- Slots with the PHASE of the ring's pass written into each command slot; `ext` extension slots still follow the last
command. Each with its count, and whether it is a command. -/
def phaseSlots (depth : Nat) : Nat → Nat → List (List Byte) → List (Nat × Bool × Nat)
  | _, _, [] => []
  | tail, 0, b :: t =>
    let w := leAt b 0 64
    let e := field w 50 48
    (tail % 2 ^ 32, true, w - (if bitOf w 55 then 2 ^ 55 else 0) + 2 ^ 55 * phaseOf (tail % 2 ^ 32) depth) ::
      phaseSlots depth (tail + 1) e t
  | tail, ext + 1, b :: t => (tail % 2 ^ 32, false, leAt b 0 64) :: phaseSlots depth (tail + 1) ext t

/-- Slots placed in an OWNER ring at its tail, and fetched. -/
def placeSlots (sid n : Nat) (slots : List (Nat × Bool × Nat)) (s : State) : State :=
  let d := depthOf n s
  let s := slots.foldl (fun s x => moduleWrite 11 (ringAddr n s + 64 * (x.1 % d)) (leBytes 64 x.2.2) s) s
  let s := { s with security := { s.security with
    ownerPlaced := s.security.ownerPlaced ++ (slots.filter (fun x => x.2.1)).map (fun x => (n, x.1, sid)) } }
  let tail := ((queueOf n s).tail + slots.length) % 2 ^ 32
  let s := updQueue n (fun q => { q with tail := tail, staleReads := none }) s
  fetchQueue n (if (queueOf n s).state = 4 then directShadow n tail false s else s)

/-- COMMAND: one to 64 slots placed in the ring of OWNER_QUEUE. R504 leaves the outcome open where that queue is not of
CLASS OWNER; it is dropped, as it is where the queue is not running (log 51). -/
def commandSlots (sid : Nat) (payload : List Byte) (s : State) : State :=
  let n := ent Ent.ownerQueue s
  let slots := entriesOf 64 payload
  if ownerMayAct sid s = false ∨ 64 ≤ n ∨ payload.length % 64 ≠ 0 ∨ slots.isEmpty ∨ 64 < slots.length then dropOwner s
  else if queueClassOf n s ≠ 3 ∨ queueLive n s = false then dropOwner s
  else placeSlots sid n (phaseSlots (depthOf n s) (queueOf n s).tail 0 slots) s

/-- MAP: map records executed as port class S, after those already fetched. -/
def ownerMapRecords (sid : Nat) (payload : List Byte) (s : State) : State :=
  let recs := entriesOf 32 payload
  if ownerMayAct sid s = false ∨ payload.length % 32 ≠ 0 ∨ recs.isEmpty then dropOwner s
  else { s with xlate := { s.xlate with
    mapRecords := s.xlate.mapRecords ++
      recs.map (fun b => { count := 0, words := BitVec.ofNat 256 (ofLe b), at_ := none, cls := .S }) } }

/-- The effect of one applied record. -/
def applyKind (sid kind : Nat) (payload : List Byte) (s : State) : State :=
  if kind = 1 then serveMessage (fun _ s => s) (.owner sid) payload s
  else if kind = 2 then stageBytes sid payload s
  else if kind = 3 then commandSlots sid payload s
  else if kind = 5 then ownerMapRecords sid payload s
  else dropOwner s

/-- A record applied in its order (R496). -/
def applyRecord (sid kind : Nat) (payload : List Byte) (s : State) : State :=
  applyKind sid kind payload (updOwner sid (fun o => { o with nextIn := o.nextIn + 1 }) s)

/-- Held records whose turn has come. -/
def applyHeld : Nat → Nat → State → State
  | 0, _, s => s
  | fuel + 1, sid, s =>
    match ownerOf sid s with
    | none => s
    | some o => match o.held.find? (fun h => h.seq == o.nextIn) with
      | none => s
      | some h =>
        applyHeld fuel sid (applyRecord sid h.kind h.payload
          (updOwner sid (fun o => { o with held := o.held.filter (fun x => x.seq != h.seq) }) s))

/-- An authentic record taken in order, held behind a gap, or dropped (R496). -/
def orderRecord (via : Option UdpPath) (o : OwnerSession) (r : OwnerRec) (payload : List Byte) (s : State) : State :=
  if r.seq < o.nextIn ∨ o.held.any (fun h => h.seq == r.seq) = true then dropOwner s
  else
    let s := updOwner r.sid (fun o => { o with peer := via }) s
    if r.seq = o.nextIn then applyHeld o.held.length r.sid (applyRecord r.sid r.kind payload s)
    else
      let h : HeldOwnerRecord := { seq := r.seq, kind := r.kind, payload := payload, since := s.now }
      updOwner r.sid (fun o => { o with held := o.held ++ [h] }) s

/-- A DATA record: applied only if its tag verifies and its SEQ exceeds the highest applied (R496). -/
def takeData (via : Option UdpPath) (r : OwnerRec) (s : State) : State :=
  match ownerOf r.sid s with
  | none => dropOwner s
  | some o =>
    match gcmOpen o.keyIn (ownerNonce false r.seq) r.header r.payload with
    | none => dropOwner s
    | some payload => orderRecord via o r payload s

/-- CLOSE: the session ends and its keys are destroyed (R494, Table 18.10). -/
def takeClose (r : OwnerRec) (s : State) : State :=
  if (ownerOf r.sid s).isNone then dropOwner s
  else { s with security := { s.security with
    owners := s.security.owners.filter (fun o => o.id != r.sid),
    ownerPlaced := s.security.ownerPlaced.filter (fun p => p.2.2 != r.sid) } }

/-- A record by its TYPE. -/
def takeRecordOf (via : Option UdpPath) (r : OwnerRec) (s : State) : State :=
  if r.typ = 1 then takeOpen via r s
  else if r.typ = 3 then takeData via r s
  else if r.typ = 4 then takeClose r s
  else dropOwner s

/-- A record that arrives. -/
def ownerArrives (via : Option UdpPath) (record : List Byte) (s : State) : State :=
  match parseOwner record with
  | none => dropOwner s
  | some r => takeRecordOf via r s

/-- A record given under a row: of the row's TYPE, and of its KIND for DATA. -/
def ownerRow (typ : Nat) (kind : Option Nat) (via : Option UdpPath) (record : List Byte) (s : State) : State :=
  match parseOwner record with
  | none => dropOwner s
  | some r =>
    if r.typ ≠ typ ∨ kind.any (fun k => k != r.kind) = true then s
    else takeRecordOf via r s

/-! The rows. -/

/-- OWNER_OPEN. -/
def execOwnerOpen (via : Option UdpPath) (record : List Byte) (s : State) : Host.Outcome State Fault Refusal :=
  .next (if ownerReaches via s then ownerRow 1 none via record s else s)

/-- OWNER_HANDSHAKE_TIMEOUT: an exchange not complete within 100 ms fails. -/
def execOwnerHandshakeTimeout (via : Option UdpPath) (s : State) : Host.Outcome State Fault Refusal :=
  match s.security.ownerHandshakes.find? (fun h => h.peer == via) with
  | none => .next s
  | some h =>
    if h.startedAt + lapseNs ≤ s.now then
      .next (count Cnt.ownerAuthFailures 1 { s with security := { s.security with
        ownerHandshakes := s.security.ownerHandshakes.filter (fun x => x.peer != via) } })
    else .next s

/-- OWNER_DICT. -/
def execOwnerDict (via : Option UdpPath) (record : List Byte) (s : State) : Host.Outcome State Fault Refusal :=
  .next (if ownerReaches via s then ownerRow 3 (some 1) via record s else s)

/-- OWNER_STAGE. -/
def execOwnerStage (via : Option UdpPath) (record : List Byte) (s : State) : Host.Outcome State Fault Refusal :=
  .next (if ownerReaches via s then ownerRow 3 (some 2) via record s else s)

/-- OWNER_COMMAND. -/
def execOwnerCommand (via : Option UdpPath) (record : List Byte) (s : State) : Host.Outcome State Fault Refusal :=
  .next (if ownerReaches via s then ownerRow 3 (some 3) via record s else s)

/-- OWNER_MAP. -/
def execOwnerMap (via : Option UdpPath) (record : List Byte) (s : State) : Host.Outcome State Fault Refusal :=
  .next (if ownerReaches via s then ownerRow 3 (some 5) via record s else s)

/-- OWNER_CLOSE. -/
def execOwnerClose (via : Option UdpPath) (record : List Byte) (s : State) : Host.Outcome State Fault Refusal :=
  .next (if ownerReaches via s then ownerRow 4 none via record s else s)

/-- OWNER_GAP_TIMEOUT: records held behind a gap for 10 ms are dropped, and ACK reports the highest SEQ applied; where none
has been, that number is a free value. -/
def execOwnerGapTimeout (session : Nat) (s : State) : Host.Outcome State Fault Refusal :=
  match ownerOf session s with
  | none => .next s
  | some o =>
    if o.held.any (fun h => decide (h.since + 10000000 ≤ s.now)) then
      let s := count Cnt.ownerRecordsDropped o.held.length (updOwner session (fun o => { o with held := [] }) s)
      if o.nextIn = 0 then .next (drawFree (ownerSend session 6 (leBytes 8 (Config.freeWord s.free).toNat) s))
      else .next (ownerSend session 6 (leBytes 8 (o.nextIn - 1)) s)
    else .next s

/-- A record relayed by the host. -/
def relayRecord : RelayHandler := ownerArrives none

/-- RELAY_IN. -/
def execRelayIn (req : ReqId) (value : List Byte) (s : State) : Host.Outcome State Fault Refusal :=
  .next (cmdVia (relayInAction relayRecord) req 0x2B00 0x11 value s)

/-- DICT_READ. -/
def execDictRead (req : ReqId) (message : DictFrame) (s : State) : Host.Outcome State Fault Refusal :=
  .next (serveRow 1 relayRecord req message s)

/-- DICT_WRITE. -/
def execDictWrite (req : ReqId) (message : DictFrame) (s : State) : Host.Outcome State Fault Refusal :=
  .next (serveRow 2 relayRecord req message s)

/-- MULTI_WRITE. -/
def execMultiWrite (req : ReqId) (message : DictFrame) (s : State) : Host.Outcome State Fault Refusal :=
  .next (serveRow 3 relayRecord req message s)

/-- MULTI_READ. -/
def execMultiRead (req : ReqId) (message : DictFrame) (s : State) : Host.Outcome State Fault Refusal :=
  .next (serveRow 4 relayRecord req message s)

/-- DW_GO: the message in DW_REQUEST is served and DW_DONE then holds the value written; discarded while BUSY (R554).
A cold reset that the message asks for leaves the registers at their reset values (Table 21.6). -/
def execDwGo (request : List Byte) (w : HostWrite) (s : State) : Host.Outcome State Fault Refusal :=
  if s.hostif.flr then .next s
  else match regWrite 0 w with
    | none => .next (count Cnt.barBadAccess 1 s)
    | some v =>
      if s.dict.dwDone.getLsbD 16 ∨ dictServed s = false then .next s
      else
        let s := { s with dict := { s.dict with dwRequest := padTo 2048 request } }
        let t := serveMessage relayRecord .window (padTo 2048 request) s
        if t.recovery.boots ≠ s.recovery.boots then .next t
        else .next { t with dict := { t.dict with dwDone := BitVec.ofNat 32 (v.toNat % 2 ^ 16) } }

end Sys2Proof.Machine
end

