-- ==== Sys2Proof/Machine/Riscv.lean ====
section
/-! DEFINITION. The control core's base instruction set (07, R216, R233 to R235): RV64IMAC, Zicsr and the machine-mode
privileged instructions, as the RISC-V specifications give them (log 6), and the custom instructions among them. -/

namespace Sys2Proof.Machine

open Sys2Proof

/-! Immediates (RISC-V unprivileged specification). -/

def sext (n x : Nat) : BitVec 64 := BitVec.ofInt 64 (signed n x)

def immI (w : Nat) : BitVec 64 := sext 12 (field w 31 20)
def immS (w : Nat) : BitVec 64 := sext 12 (field w 31 25 * 32 + field w 11 7)
def immB (w : Nat) : BitVec 64 :=
  sext 13 (field w 31 31 * 4096 + field w 7 7 * 2048 + field w 30 25 * 32 + field w 11 8 * 2)
def immU (w : Nat) : BitVec 64 := sext 32 (field w 31 12 * 4096)
def immJ (w : Nat) : BitVec 64 :=
  sext 21 (field w 31 31 * 1048576 + field w 19 12 * 4096 + field w 20 20 * 2048 + field w 30 21 * 2)

/-- The low 32 bits, sign-extended. -/
def w32 (x : BitVec 64) : BitVec 64 := sext 32 x.toNat

/-! CSRs (R216; Table 7.8). -/

/-- A CSR's value; none where the core has no such CSR. -/
def csrRead (core a : Nat) (s : State) : Option (BitVec 64) :=
  let k := ctlOf core s
  let cyc := if k.mcountinhibit.getLsbD 0 then k.mcycle else k.mcycle + BitVec.ofNat 64 (cyclesAt core s.now s)
  if a = 0x300 then some k.mstatus
  else if a = 0x301 then some 0x8000000000801105#64
  else if a = 0x304 then some k.mie
  else if a = 0x305 then some k.mtvec
  else if a = 0x320 then some k.mcountinhibit
  else if 0x323 ≤ a ∧ a ≤ 0x33F then some 0
  else if a = 0x340 then some k.mscratch
  else if a = 0x341 then some k.mepc
  else if a = 0x342 then some k.mcause
  else if a = 0x343 then some k.mtval
  else if a = 0x344 then some (mipNow core s)
  else if a = 0xB00 ∨ a = 0xC00 then some cyc
  else if a = 0xB02 ∨ a = 0xC02 then some k.minstret
  else if 0xB03 ≤ a ∧ a ≤ 0xB1F then some 0
  else if a = 0xC01 then some (BitVec.ofNat 64 s.now)
  else if a = 0xF11 ∨ a = 0xF12 ∨ a = 0xF13 ∨ a = 0xF15 then some 0
  else if a = 0xF14 then some (BitVec.ofNat 64 core)
  else if a = 0xFC0 then some (BitVec.ofNat 64 (vecOf core s).vl)
  else if a = 0xFC1 then some (BitVec.ofNat 64 (vecOf core s).vfmt)
  else if a = 0xFC2 then some (BitVec.ofNat 64 k.specid)
  else if a = 0xFC3 then some (BitVec.ofNat 64 (k.vsatNan * 2 ^ 32 + k.vsatSat))
  else if a = 0x7C0 then some k.hmask
  else if a = 0x7C1 then some k.timecmp
  else none

/-- A CSR written, within the bits it holds; none for a read-only CSR. -/
def csrWrite (core a : Nat) (v : BitVec 64) (s : State) : Option State :=
  let cyc := BitVec.ofNat 64 (cyclesAt core s.now s)
  let upd := fun (f : CoreControl → CoreControl) => some (updCtl core f s)
  if 0xC00 ≤ a then none
  else if a = 0x300 then upd (fun k => { k with mstatus := 0x1800#64 ||| (v &&& 0x88#64) })
  else if a = 0x304 then upd (fun k => { k with mie := v &&& 0x10080#64 })
  else if a = 0x305 then upd (fun k => { k with mtvec := v &&& ~~~3#64 })
  else if a = 0x320 then upd (fun k => { k with
    mcountinhibit := v &&& 5#64,
    mcycle := if k.mcountinhibit.getLsbD 0 = v.getLsbD 0 then k.mcycle else if v.getLsbD 0 then k.mcycle + cyc
      else k.mcycle - cyc })
  else if a = 0x340 then upd (fun k => { k with mscratch := v })
  else if a = 0x341 then upd (fun k => { k with mepc := v &&& ~~~1#64 })
  else if a = 0x342 then upd (fun k => { k with mcause := v })
  else if a = 0x343 then upd (fun k => { k with mtval := v })
  else if a = 0xB00 then upd (fun k => { k with mcycle := if k.mcountinhibit.getLsbD 0 then v else v - cyc })
  else if a = 0xB02 then upd (fun k => { k with minstret := if k.mcountinhibit.getLsbD 2 then v else v - 1 })
  else if a = 0x7C0 then upd (fun k => { k with hmask := v })
  else if a = 0x7C1 then upd (fun k => { k with timecmp := v })
  else some s

/-- A CSR instruction. -/
def opCsr (core : Nat) (w : Nat) (pc : BitVec 64) (s : State) : CoreRes :=
  let a := field w 31 20
  let f3 := field w 14 12
  let rs := field w 19 15
  let src := if f3 < 4 then xr core rs s else BitVec.ofNat 64 rs
  match csrRead core a s with
  | none => .exc excIllegal
  | some old =>
    let new := if f3 % 4 = 1 then src else if f3 % 4 = 2 then old ||| src else old &&& ~~~src
    if f3 % 4 ≠ 1 ∧ rs = 0 then .done (setX core (field w 11 7) old s) pc
    else match csrWrite core a new s with
      | none => .exc excIllegal
      | some s' => .done (setX core (field w 11 7) old s') pc

/-! Loads, stores and atomics (R233). -/

/-- Bytes of an access by funct3. -/
def accBytes (f3 : Nat) : Nat := 2 ^ (f3 % 4)

/-- A load, after the vector stores before it (R239); misaligned ones are performed (R233). -/
def opLoad (core w : Nat) (pc : BitVec 64) (s : State) : CoreRes :=
  let f3 := field w 14 12
  let a := (xr core (field w 19 15) s + immI w).toNat
  let n := accBytes f3
  if f3 = 7 then .exc excIllegal
  else if inPart (taskPart core s) a n = false then .exc excLoadAccess
  else if storesAhead core s then .stall s
  else
    let v := ofLe (sramRead core a n s)
    .done (sramErrors core (setX core (field w 11 7) (if f3 < 4 then sext (8 * n) v else BitVec.ofNat 64 v) s)) pc

/-- A store, after the vector loads and stores before it (R239). -/
def opStore (core w : Nat) (pc : BitVec 64) (s : State) : CoreRes :=
  let f3 := field w 14 12
  let a := (xr core (field w 19 15) s + immS w).toNat
  let n := accBytes f3
  if 4 ≤ f3 then .exc excIllegal
  else if inPart (taskPart core s) a n = false then .exc excStoreAccess
  else if memoryAhead core s then .stall s
  else .done (taskStore core [(a, leBytes n (xr core (field w 24 20) s).toNat)] s) pc

/-- The new value of an atomic operation on n-bit values. -/
def amoValue (f5 n : Nat) (old b : Nat) : Option Nat :=
  match f5 with
  | 0x00 => some ((old + b) % 2 ^ n)
  | 0x01 => some b
  | 0x04 => some (old ^^^ b)
  | 0x08 => some (old ||| b)
  | 0x0C => some (old &&& b)
  | 0x10 => some (if signed n b < signed n old then b else old)
  | 0x14 => some (if signed n old < signed n b then b else old)
  | 0x18 => some (Nat.min old b)
  | 0x1C => some (Nat.max old b)
  | _ => none

/-- LR, SC and AMO (the A extension); they must be aligned. -/
def opAmo (core w : Nat) (pc : BitVec 64) (s : State) : CoreRes :=
  let f3 := field w 14 12
  let f5 := field w 31 27
  let rd := field w 11 7
  let a := (xr core (field w 19 15) s).toNat
  let n := accBytes f3
  let b := (xr core (field w 24 20) s).toNat % 2 ^ (8 * n)
  let load := f5 == 2
  if (f3 ≠ 2 ∧ f3 ≠ 3) ∨ (f5 = 2 ∧ field w 24 20 ≠ 0) then .exc excIllegal
  else if f5 ≠ 2 ∧ f5 ≠ 3 ∧ amoValue f5 (8 * n) 0 0 = none then .exc excIllegal
  else if a % n ≠ 0 then .exc (if load then excLoadMisaligned else excStoreMisaligned)
  else if inPart (taskPart core s) a n = false then .exc (if load then excLoadAccess else excStoreAccess)
  else if memoryAhead core s then .stall s
  else
    let old := ofLe (sramRead core a n s)
    if f5 = 2 then
      .done (setX core rd (sext (8 * n) old) (updCtl core (fun k => { k with reservation := some (a, n) }) s)) pc
    else if f5 = 3 then
      let ok := (ctlOf core s).reservation == some (a, n)
      let s := updCtl core (fun k => { k with reservation := none }) s
      if ok then .done (setX core rd 0 (taskStore core [(a, leBytes n b)] s)) pc else .done (setX core rd 1 s) pc
    else
      let new := (amoValue f5 (8 * n) old b).getD old
      .done (setX core rd (sext (8 * n) old) (taskStore core [(a, leBytes n new)] s)) pc

/-! Arithmetic. -/

/-- An OP operation of the base set. -/
def aluOp (f3 : Nat) (alt : Bool) (a b : BitVec 64) (wide : Nat) : BitVec 64 :=
  let sh := b.toNat % wide
  match f3 with
  | 0 => if alt then a - b else a + b
  | 1 => a <<< sh
  | 2 => if a.slt b then 1 else 0
  | 3 => if a.ult b then 1 else 0
  | 4 => a ^^^ b
  | 5 => if alt then a.sshiftRight sh else a >>> sh
  | 6 => a ||| b
  | _ => a &&& b

/-- The same on 32-bit values, the result sign-extended. -/
def aluW (f3 : Nat) (alt : Bool) (a b : BitVec 64) : BitVec 64 :=
  let x := BitVec.ofNat 32 a.toNat
  let sh := b.toNat % 32
  let r : BitVec 32 :=
    if f3 = 0 then (if alt then x - BitVec.ofNat 32 b.toNat else x + BitVec.ofNat 32 b.toNat)
    else if f3 = 1 then x <<< sh
    else if alt then x.sshiftRight sh else x >>> sh
  r.signExtend 64

/-- A signed quotient and remainder of n-bit values, truncating; division by zero and overflow as the M extension says. -/
def divS (n : Nat) (a b : Int) : Int × Int :=
  if b = 0 then (-1, a)
  else if a = -(2 ^ (n - 1) : Nat) ∧ b = -1 then (a, 0)
  else (a.tdiv b, a.tmod b)

/-- The M extension on n-bit values. -/
def mulDiv (f3 n : Nat) (a b : Nat) : Int :=
  let sa := signed n a
  let sb := signed n b
  match f3 with
  | 0 => sa * sb
  | 1 => sa * sb / (2 ^ n : Nat)
  | 2 => sa * (b : Int) / (2 ^ n : Nat)
  | 3 => (a * b / 2 ^ n : Nat)
  | 4 => (divS n sa sb).1
  | 5 => if b = 0 then -1 else (a / b : Nat)
  | 6 => (divS n sa sb).2
  | _ => if b = 0 then (a : Int) else (a % b : Nat)

/-- OP and OP-32. -/
def opReg (core w : Nat) (narrow : Bool) (pc : BitVec 64) (s : State) : CoreRes :=
  let f3 := field w 14 12
  let f7 := field w 31 25
  let a := xr core (field w 19 15) s
  let b := xr core (field w 24 20) s
  let rd := field w 11 7
  if f7 = 1 then
    if narrow then
      (if f3 = 0 ∨ 4 ≤ f3 then .done (setX core rd (sext 32 (unsigned 32 (mulDiv f3 32 (a.toNat % 2 ^ 32) (b.toNat % 2 ^ 32)))) s) pc
       else .exc excIllegal)
    else .done (setX core rd (BitVec.ofInt 64 (mulDiv f3 64 a.toNat b.toNat)) s) pc
  else if f7 = 0 ∨ (f7 = 32 ∧ (f3 = 0 ∨ f3 = 5)) then
    if narrow then
      (if f3 = 0 ∨ f3 = 1 ∨ f3 = 5 then .done (setX core rd (aluW f3 (f7 == 32) a b) s) pc else .exc excIllegal)
    else .done (setX core rd (aluOp f3 (f7 == 32) a b 64) s) pc
  else .exc excIllegal

/-- OP-IMM and OP-IMM-32. -/
def opImm (core w : Nat) (narrow : Bool) (pc : BitVec 64) (s : State) : CoreRes :=
  let f3 := field w 14 12
  let a := xr core (field w 19 15) s
  let rd := field w 11 7
  let top := if narrow then field w 31 25 else field w 31 26 * 2
  let shift := f3 == 1 || f3 == 5
  let alt := shift && top == 32
  let sh := BitVec.ofNat 64 (field w 25 20)
  if shift ∧ (top ≠ 0 ∧ (top ≠ 32 ∨ f3 = 1)) then .exc excIllegal
  else if narrow then
    (if f3 = 0 ∨ shift = true then .done (setX core rd (aluW f3 alt a (if shift then sh else immI w)) s) pc else .exc excIllegal)
  else .done (setX core rd (aluOp f3 alt a (if shift then sh else immI w) 64) s) pc

/-- A branch is taken. -/
def branchTaken (f3 : Nat) (a b : BitVec 64) : Bool :=
  match f3 with
  | 0 => a == b
  | 1 => a != b
  | 4 => a.slt b
  | 5 => !a.slt b
  | 6 => a.ult b
  | _ => !a.ult b

/-! Privileged instructions and traps (R234, R235). -/

/-- mstatus as a trap leaves it. -/
def trapStatus (m : BitVec 64) : BitVec 64 := 0x1800#64 ||| (if m.getLsbD 3 then 0x80#64 else 0)

/-- The trap of an interrupt to mtvec in direct mode; a wait that it interrupts runs again after MRET (R234). -/
def takeInterrupt (core cause : Nat) (s : State) : State :=
  let s := endWait core s
  updCtl core (fun k => { k with
    mepc := k.pc, mcause := BitVec.ofNat 64 (2 ^ 63 + cause), mtval := 0, mstatus := trapStatus k.mstatus, pc := k.mtvec, ccState := 2 })

    s

/-- SYSTEM: ECALL, EBREAK, MRET, WFI and the CSR instructions. -/
def opSystem (core w : Nat) (pc : BitVec 64) (s : State) : CoreRes :=
  if field w 14 12 = 4 then .exc excIllegal
  else if field w 14 12 ≠ 0 then opCsr core w pc s
  else if w = 0x00000073 then .exc excEcall
  else if w = 0x00100073 then .exc excBreak
  else if w = 0x30200073 then
    let k := ctlOf core s
    .done (updCtl core (fun k => { k with
      mstatus := 0x1880#64 ||| (if k.mstatus.getLsbD 7 then 8#64 else 0) }) s) k.mepc
  else if w = 0x10500073 then
    .done (if wfiWakes core s then s else updCtl core (fun k => { k with ccState := 4 }) s) pc
  else .exc excIllegal

/-- What a 32-bit instruction does; `len` is the bytes it took, 2 for an expanded compressed one. -/
def execWord (core len : Nat) (word : BitVec 32) (s : State) : CoreRes :=
  let w := word.toNat
  let here := (ctlOf core s).pc
  let pc := here + BitVec.ofNat 64 len
  let rd := field w 11 7
  let rs1 := xr core (field w 19 15) s
  match field w 6 0 with
  | 0x37 => .done (setX core rd (immU w) s) pc
  | 0x17 => .done (setX core rd (here + immU w) s) pc
  | 0x6F => .done (setX core rd pc s) (here + immJ w)
  | 0x67 => if field w 14 12 = 0 then .done (setX core rd pc s) ((rs1 + immI w) &&& ~~~1#64) else .exc excIllegal
  | 0x63 =>
    if field w 14 12 = 2 ∨ field w 14 12 = 3 then .exc excIllegal
    else .done s (if branchTaken (field w 14 12) rs1 (xr core (field w 24 20) s) then here + immB w else pc)
  | 0x03 => opLoad core w pc s
  | 0x23 => opStore core w pc s
  | 0x13 => opImm core w false pc s
  | 0x1B => opImm core w true pc s
  | 0x33 => opReg core w false pc s
  | 0x3B => opReg core w true pc s
  | 0x0F => if field w 14 12 ≤ 1 then .done s pc else .exc excIllegal
  | 0x2F => opAmo core w pc s
  | 0x73 => opSystem core w pc s
  | 0x0B => opCustom0 core word s
  | 0x2B => opCustom1 core word s
  | _ => .exc excIllegal

/-- One 32-bit instruction in its place in the program. -/
def exec32 (core len : Nat) (word : BitVec 32) (s : State) : CoreRes := inOrder core word (execWord core len word) s

/-! Compressed instructions (the C extension), each as the 32-bit instruction it stands for. -/

def encI (op f3 rd rs1 imm : Nat) : Nat := imm % 4096 * 2 ^ 20 + rs1 * 2 ^ 15 + f3 * 2 ^ 12 + rd * 2 ^ 7 + op
def encR (op f3 f7 rd rs1 rs2 : Nat) : Nat := f7 * 2 ^ 25 + rs2 * 2 ^ 20 + rs1 * 2 ^ 15 + f3 * 2 ^ 12 + rd * 2 ^ 7 + op
def encS (f3 rs1 rs2 imm : Nat) : Nat :=
  field imm 11 5 * 2 ^ 25 + rs2 * 2 ^ 20 + rs1 * 2 ^ 15 + f3 * 2 ^ 12 + field imm 4 0 * 2 ^ 7 + 0x23
def encB (f3 rs1 rs2 imm : Nat) : Nat :=
  field imm 12 12 * 2 ^ 31 + field imm 10 5 * 2 ^ 25 + rs2 * 2 ^ 20 + rs1 * 2 ^ 15 + f3 * 2 ^ 12 +
    field imm 4 1 * 2 ^ 8 + field imm 11 11 * 2 ^ 7 + 0x63
def encJ (rd imm : Nat) : Nat :=
  field imm 20 20 * 2 ^ 31 + field imm 10 1 * 2 ^ 21 + field imm 11 11 * 2 ^ 20 + field imm 19 12 * 2 ^ 12 + rd * 2 ^ 7 + 0x6F

/-- n bits sign-extended, as an m-bit number. -/
def sx (n m x : Nat) : Nat := unsigned m (signed n x)

/-- Quadrant 0. -/
def expand0 (c : Nat) : Option Nat :=
  let rd := 8 + field c 4 2
  let rs := 8 + field c 9 7
  let uw := field c 12 10 * 8 + field c 6 6 * 4 + field c 5 5 * 64
  let ud := field c 12 10 * 8 + field c 6 5 * 64
  match field c 15 13 with
  | 0 =>
    let imm := field c 12 11 * 16 + field c 10 7 * 64 + field c 6 6 * 4 + field c 5 5 * 8
    if imm = 0 then none else some (encI 0x13 0 rd 2 imm)
  | 2 => some (encI 0x03 2 rd rs uw)
  | 3 => some (encI 0x03 3 rd rs ud)
  | 6 => some (encS 2 rs rd uw)
  | 7 => some (encS 3 rs rd ud)
  | _ => none

/-- Quadrant 1. -/
def expand1 (c : Nat) : Option Nat :=
  let rd := field c 11 7
  let rp := 8 + field c 9 7
  let r2 := 8 + field c 4 2
  let i6 := field c 12 12 * 32 + field c 6 2
  let imm := sx 6 12 i6
  let j := field c 12 12 * 2048 + field c 11 11 * 16 + field c 10 9 * 256 + field c 8 8 * 1024 + field c 7 7 * 64 +
    field c 6 6 * 128 + field c 5 3 * 2 + field c 2 2 * 32
  let b := field c 12 12 * 256 + field c 11 10 * 8 + field c 6 5 * 64 + field c 4 3 * 2 + field c 2 2 * 32
  match field c 15 13 with
  | 0 => some (encI 0x13 0 rd rd imm)
  | 1 => if rd = 0 then none else some (encI 0x1B 0 rd rd imm)
  | 2 => some (encI 0x13 0 rd 0 imm)
  | 3 =>
    if rd = 2 then
      let k := field c 12 12 * 512 + field c 6 6 * 16 + field c 5 5 * 64 + field c 4 3 * 128 + field c 2 2 * 32
      if k = 0 then none else some (encI 0x13 0 2 2 (sx 10 12 k))
    else if i6 = 0 then none
    else some (sx 6 20 i6 * 4096 + rd * 128 + 0x37)
  | 4 =>
    match field c 11 10 with
    | 0 => some (encI 0x13 5 rp rp i6)
    | 1 => some (encI 0x13 5 rp rp (1024 + i6))
    | 2 => some (encI 0x13 7 rp rp imm)
    | _ =>
      match field c 12 12, field c 6 5 with
      | 0, 0 => some (encR 0x33 0 32 rp rp r2)
      | 0, 1 => some (encR 0x33 4 0 rp rp r2)
      | 0, 2 => some (encR 0x33 6 0 rp rp r2)
      | 0, _ => some (encR 0x33 7 0 rp rp r2)
      | _, 0 => some (encR 0x3B 0 32 rp rp r2)
      | _, 1 => some (encR 0x3B 0 0 rp rp r2)
      | _, _ => none
  | 5 => some (encJ 0 (sx 12 21 j))
  | 6 => some (encB 0 rp 0 (sx 9 13 b))
  | _ => some (encB 1 rp 0 (sx 9 13 b))

/-- Quadrant 2. -/
def expand2 (c : Nat) : Option Nat :=
  let rd := field c 11 7
  let rs2 := field c 6 2
  match field c 15 13 with
  | 0 => some (encI 0x13 1 rd rd (field c 12 12 * 32 + rs2))
  | 2 =>
    if rd = 0 then none
    else some (encI 0x03 2 rd 2 (field c 12 12 * 32 + field c 6 4 * 4 + field c 3 2 * 64))
  | 3 =>
    if rd = 0 then none
    else some (encI 0x03 3 rd 2 (field c 12 12 * 32 + field c 6 5 * 8 + field c 4 2 * 64))
  | 4 =>
    if field c 12 12 = 0 then
      (if rs2 ≠ 0 then some (encR 0x33 0 0 rd 0 rs2) else if rd = 0 then none else some (encI 0x67 0 0 rd 0))
    else if rs2 ≠ 0 then some (encR 0x33 0 0 rd rd rs2)
    else if rd = 0 then some 0x00100073 else some (encI 0x67 0 1 rd 0)
  | 6 => some (encS 2 2 rs2 (field c 12 9 * 4 + field c 8 7 * 64))
  | 7 => some (encS 3 2 rs2 (field c 12 10 * 8 + field c 9 7 * 64))
  | _ => none

/-- The 32-bit instruction of a compressed one; none is illegal. -/
def expand16 (c : Nat) : Option Nat :=
  match c % 4 with
  | 0 => expand0 c
  | 1 => expand1 c
  | _ => expand2 c

/-- BASE_INSTRUCTION: the instruction word fetched at pc, of which a compressed instruction is the low half. -/
def execBaseInstruction (core : Nat) (word : BitVec 32) (s : State) : Host.Outcome State Fault Refusal :=
  if 98 ≤ core then .fault .noSuchUnit
  else if word.toNat % 4 = 3 then .next (runInstr core 4 (exec32 core 4 word) s)
  else .next (runInstr core 2 (fun s => match expand16 (word.toNat % 65536) with
    | some w => exec32 core 2 (BitVec.ofNat 32 w) s
    | none => .exc excIllegal) s)

/-! Interrupts (R234). -/

/-- An interrupt bit is pending, enabled in mie and by mstatus.MIE, on a core with a task. -/
def interruptReady (core bit : Nat) (s : State) : Bool :=
  let k := ctlOf core s
  k.task.isSome && coreOn core s && (mipNow core s).getLsbD bit && k.mie.getLsbD bit && k.mstatus.getLsbD 3

/-- TIMER_INTERRUPT. -/
def execTimerInterrupt (core : Nat) (s : State) : Host.Outcome State Fault Refusal :=
  if 98 ≤ core then .fault .noSuchUnit
  else if interruptReady core 7 s then .next (takeInterrupt core 7 s) else .next s

/-- QWORK_INTERRUPT; taking it clears its pending bit (log 30). -/
def execQworkInterrupt (core : Nat) (s : State) : Host.Outcome State Fault Refusal :=
  if 98 ≤ core then .fault .noSuchUnit
  else if interruptReady core 16 s then
    .next (takeInterrupt core 16 (updCtl core (fun k => { k with mip := k.mip &&& ~~~(1#64 <<< 16) }) s))
  else .next s

/-! Starting tasks and their limit (R232, R236, R164). -/

/-- The pending task that a core takes next: the oldest of the queue that R364 chooses, once no work of a queue it has left
runs there (R365). The Bivouac's cores are not scheduled, and take their tasks in order. -/
def nextTaskOf (core : Nat) (s : State) : Option PendingTask :=
  let mine := s.dispatch.tasks.filter (fun t => t.core == core)
  if 96 ≤ core then mine.head?
  else match chooseTask core s with
    | some q => mine.find? (fun t => t.task.queue == q)
    | none => none

/-- A core's registers at a task's start; integer and vector registers otherwise hold free values (R232; log 5). TASK_LIMIT_NS runs from
here (R236; log 209). -/
def startTask (core : Nat) (p : PendingTask) (s : State) : State :=
  let f := s.free
  let s := { s with
    free := f + 64,
    dispatch := { s.dispatch with tasks := s.dispatch.tasks.filter (fun t => t.task.id != p.task.id) } }
  let s := updVec core (fun k => { k with
    v := (List.range 32).map (fun i => Config.freeVec (f + 32 + i)), vl := 0, vfmt := 7, slots := List.replicate 8 0,
    topk := { isSet := false, k := 0, floor := 0, entries := [] } }) s
  updCtl core (fun k => { k with
    x := (List.range 32).map (fun i => if i = 0 then 0 else if i = 10 then p.arg else if i = 11 then p.launchWord
      else Config.freeWord (f + i)),
    pc := BitVec.ofNat 64 p.entry, mie := 0, specid := p.task.spec, vsatSat := 0, vsatNan := 0,
    hmask := BitVec.allOnes 64, timecmp := BitVec.allOnes 64, reservation := none, task := some { p.task with startedAt := s.now }, ccState := 2,
    icacheTag := some (p.task.graph, p.task.version) }) s

/-- TASK_START. A task directed to a failed core is a job fault (R164); a persistent task reads what its queues already hold (R316). -/
def execTaskStart (core : Nat) (s : State) : Host.Outcome State Fault Refusal :=
  if 98 ≤ core then .fault .noSuchUnit
  else if (ctlOf core s).task.isSome ∨ coreOn core s = false ∨ dispatchStopped s = true ∨ movePaused core s = true then .next s
  else match nextTaskOf core s with
    | none => .next s
    | some p =>
      if (matOf core s).failed then
        .next (jobFaultPlain 5 core 8 0 0 { s with dispatch := { s.dispatch with
          tasks := s.dispatch.tasks.filter (fun t => t.task.id != p.task.id) } })
      else
        let s := startTask core p (takeCore core p.task.queue s)
        .next (if p.task.persistent then fetchDirect core s else s)

/-- TASK_LIMIT_EXPIRY. -/
def execTaskLimitExpiry (core : Nat) (s : State) : Host.Outcome State Fault Refusal :=
  if 98 ≤ core then .fault .noSuchUnit
  else match (ctlOf core s).task with
    | none => .next s
    | some t =>
      if !t.persistent && !dispatchStopped s && decide (t.startedAt + ent Ent.taskLimitNs s ≤ s.now) then .next (jobFaultPlain 5 core 4 0 0 s)
      else .next s

end Sys2Proof.Machine
end

