-- ==== Sys2Proof/Machine/Tensor.lean ====
section
/-! DEFINITION. Vector tensor descriptors (07, R226 to R228). -/

namespace Sys2Proof.Machine

open Sys2Proof

def tKind (d : Desc) : Nat := df d 0 55 52
def tOp (d : Desc) : Nat := df d 0 51 46
def tSrc (d : Desc) : Nat := df d 0 45 42
def tDst (d : Desc) : Nat := df d 0 41 38
def tBScalar (d : Desc) : Bool := db d 0 37
def tMx (d : Desc) : Bool := db d 0 36
def tCount (d : Desc) : Nat := df d 0 31 0
def tSrcA (d : Desc) : Nat := df d 1 63 32
def tSrcB (d : Desc) : Nat := df d 1 31 0
def tDstAddr (d : Desc) : Nat := df d 2 63 32
def tScalar (d : Desc) : Nat := df d 2 31 0
def tVtag (d : Desc) : Nat := df d 3 47 32
def tPosBase (d : Desc) : Nat := df d 4 63 32
def tMxScale (d : Desc) : Nat := df d 4 31 0
def tVspec (d : Desc) : Nat := df d 6 31 16
def tVstatus (d : Desc) : Nat := df d 7 63 32

/-- Bytes of n packed elements of a format. -/
def packedBytes (c n : Nat) : Nat := (n * fmtBits c + 7) / 8

/-- The operation is defined for its formats (R227; equal formats of binary and unary kinds, F32 scores: log 31). -/
def tensorOpOk (d : Desc) : Bool :=
  fmtOk (tSrc d) && fmtOk (tDst d) &&
  (match tKind d with
   | 0 => tSrc d == tDst d && vopOk (tOp d) (tSrc d) (tBScalar d)
   | 1 => tSrc d == tDst d && vunOk (tOp d) (tSrc d)
   | 2 => tOp d == 0 && (!tMx d || [1, 2, 3, 6].contains (tDst d))
   | 3 => tSrc d == tDst d && decide (tOp d ≤ 5)
   | 4 => tOp d == 0 && tSrc d == 7 && tScalar d != 0 && decide (tScalar d ≤ 512)
   | _ => false)

/-- Ranges that a descriptor reads and writes. -/
def tensorRanges (d : Desc) : List (Nat × Nat) :=
  let n := tCount d
  [(tSrcA d, packedBytes (tSrc d) n), (tVstatus d, 32)] ++
  (if tKind d = 0 ∧ tBScalar d = false then [(tSrcB d, packedBytes (tSrc d) n)] else []) ++
  (if tKind d ≤ 2 then [(tDstAddr d, packedBytes (tDst d) n)] else []) ++
  (if tKind d = 4 then [(tDstAddr d, 8 * Nat.min (tScalar d) n)] else []) ++
  (if tKind d = 2 ∧ tMx d = true then [(tMxScale d, n / 32)] else [])

/-- The checks of R227. -/
def tensorOk (core : Nat) (d : Desc) (org : Origin) (s : State) : Bool :=
  df d 0 63 56 == 0x40 && tensorOpOk d && tCount d != 0 && !(tKind d == 2 && tMx d && tCount d % 32 != 0) &&
  tVstatus d % 32 == 0 && (tensorRanges d).all (fun r => inPart (sramPart core org s) r.1 r.2)

/-- Element codes of an operand. -/
def tensorElems (core addr c n : Nat) (s : State) : List Nat :=
  let bs := sramRead core addr (packedBytes c n) s
  (List.range n).map (packedAt bs c)

/-- What a descriptor computes: writes, conversions counted, RESULT, and the top-k unit. -/
structure TensorRes where
  writes : List (Nat × List Byte)
  convs : List Conv := []
  result : BitVec 64 := 0
  topk : Option (TopK × Nat) := none

/-- The compare results of a strip, as the store of its mask register leaves them (R212, R226). -/
def maskStrip (c : Nat) (bits : List Nat) : List Nat :=
  let v := vPuts 1 (bits.zipIdx.map (fun p => (p.2, p.1))) 0
  (List.range bits.length).map (fun e => vElem (fmtBits c) e v)

/-- Lists cut into strips of n. -/
def strips (n : Nat) (l : List Nat) : List (List Nat) := (List.range ((l.length + n - 1) / n)).map (fun i => (l.drop (n * i)).take n)

/-- A binary descriptor's result: strips of VLMAX elements; FMA adds to the destination's present content, ID counts through
the tensor (log 31). -/
def tensorBinary (core : Nat) (d : Desc) (s : State) : TensorRes :=
  let c := tSrc d
  let n := tCount d
  let as := tensorElems core (tSrcA d) c n s
  let bs := if tBScalar d then List.replicate n (tScalar d % 2 ^ fmtBits c) else tensorElems core (tSrcB d) c n s
  let olds := if tOp d = 3 then tensorElems core (tDstAddr d) c n s else []
  let rs := (List.range n).map (fun e =>
    vopElem (tOp d) c (as.getD e 0) (bs.getD e 0) (olds.getD e 0) e ((vr core 0 s).getLsbD (e % vlMax core c)))
  let out := if isCompare (tOp d) then (strips (vlMax core c) rs).flatMap (maskStrip c) else rs
  { writes := [(tDstAddr d, packCodes c out)] }

/-- A unary descriptor's result. -/
def tensorUnary (core : Nat) (d : Desc) (s : State) : TensorRes :=
  { writes := [(tDstAddr d, packCodes (tSrc d) ((tensorElems core (tSrcA d) (tSrc d) (tCount d) s).map (vunElem (tOp d) (tSrc d))))] }

/-- A convert descriptor's result (R218, R219). -/
def tensorConvert (core : Nat) (d : Desc) (s : State) : TensorRes :=
  let xs := tensorElems core (tSrcA d) (tSrc d) (tCount d) s
  let divisor := if tScalar d = 0 then none else some (BitVec.ofNat 32 (tScalar d))
  if tMx d then
    let vs := xs.map (fun x => match divisor with
      | none => decElem (tSrc d) x
      | some v => val32 (div32 (enc32 (decElem (tSrc d) x)) v))
    let bs := (blocks32 vs).map (mxBlock (tDst d))
    let cs := bs.flatMap (·.2)
    { writes := [(tDstAddr d, packCodes (tDst d) (cs.map (·.code))), (tMxScale d, bs.map (fun b => BitVec.ofNat 8 b.1))],
      convs := cs }
  else
    let cs := xs.map (convElem (tSrc d) (tDst d) divisor)
    { writes := [(tDstAddr d, packCodes (tDst d) (cs.map (·.code)))], convs := cs }

/-- A floating-point sum as the loop of strips forms it: each strip's sum by its own tree, added in order (R226; log 31). -/
def stripSums (core c : Nat) (xs : List Nat) : BitVec 64 :=
  let sums := (strips (vlMax core c) xs).map (fun l =>
    (reduce 0 c l.length 0 (l.zipIdx.map (fun p => (p.2, p.1)))).setWidth 32)
  match sums with
  | [] => slotVal 0 0
  | a :: t => slotVal 0 (t.foldl add32 a)

/-- A reduce descriptor's result. -/
def tensorReduce (core : Nat) (d : Desc) (s : State) : TensorRes :=
  let xs := tensorElems core (tSrcA d) (tSrc d) (tCount d) s
  { writes := [],
    result := if tOp d = 0 ∧ tSrc d ≠ 8 ∧ tSrc d ≠ 9 then stripSums core (tSrc d) xs else reduce (tOp d) (tSrc d) (tCount d) (tScalar d % 2 ^ fmtBits (tSrc d)) (xs.zipIdx.map (fun p => (p.2, p.1))) }

/-- A top-k descriptor's result: it empties the unit first (R226), which counts as a SET (log 210). -/
def tensorTopk (core : Nat) (d : Desc) (s : State) : TensorRes :=
  let xs := tensorElems core (tSrcA d) 7 (tCount d) s
  let t : TopK := { isSet := true, k := tScalar d, floor := negInf32, entries := [] }
  let r := offerAll (xs.zipIdx.map (fun p => (BitVec.ofNat 32 p.1, BitVec.ofNat 32 (tPosBase d + p.2)))) t
  let th := (topkThresh r.1).toNat % 2 ^ 32
  { writes := [(tDstAddr d, topkBytes r.1.entries)],
    result := BitVec.ofNat 64 (th * 2 ^ 32 + r.1.entries.length), topk := some r }

/-- The result of a descriptor by its kind. -/
def tensorResult (core : Nat) (d : Desc) (s : State) : TensorRes :=
  match tKind d with
  | 0 => tensorBinary core d s
  | 1 => tensorUnary core d s
  | 2 => tensorConvert core d s
  | 3 => tensorReduce core d s
  | _ => tensorTopk core d s

/-- The status record (Table 7.12); CYCLES is a free value (log 31). -/
def tensorStatus (d : Desc) (r : TensorRes) (cycles : Nat) : List Byte :=
  let sat := r.convs.countP (·.sat)
  leBytes 8 (2 ^ 63 + (if sat = 0 then stOk else stSaturated) * 2 ^ 48 + tVtag d * 2 ^ 32 + tCount d) ++
  leBytes 8 (Nat.min sat 0xFFFFFFFF * 2 ^ 32 + r.convs.countP (·.nan0)) ++ leBytes 8 r.result.toNat ++
  leBytes 8 (cycles % 2 ^ 32 * 2 ^ 32)

/-- A checked descriptor executed. -/
def runTensor (core : Nat) (d : Desc) (org : Origin) (s : State) : State :=
  let r := tensorResult core d s
  let st := tensorStatus d r (Config.freeWord s.free).toNat
  let sat := r.convs.countP (·.sat)
  let ws := r.writes ++ [(tVstatus d + 8, st.drop 8), (tVstatus d, st.take 8)]
  let s := drawFree s
  let s := vecSramWait core (coreStoreAll core (tVspec d) ws core 4 (tVtag d) 0x40 s)
  if ws.any (fun w => tVspec d != 0 && !rangesCover (tVspec d) false core w.1 w.2.length s) then s
  else
    let s := match r.topk with
      | some t =>
        let s := updVec core (fun k => { k with topk := t.1 }) s
        if t.2 = 0 then s else count Cnt.topkEntered t.2 s
      | none => s
    let s := count Cnt.vtensorDescriptors 1 (countConv r.convs s)
    let s := specMark (tVspec d) org.launch (sat != 0) false false s
    descriptorDone org (ofLe (st.take 8)) s

/-- A vector descriptor leaves the vector queue, or the descriptors the Postilion has passed. -/
def takeTensor (core : Nat) (d : Desc) (org : Origin) (s : State) : State :=
  takeIssued core d org (updVec core (fun k => { k with vqueue := k.vqueue.erase (.tensor d org) }) s)

/-- VTENSOR: a descriptor in the vector queue executes in its place in the order, and then the instructions behind it
(R205, R226). -/
def execVtensor (core : Nat) (desc : Desc) (org : Origin) (s : State) : Host.Outcome State Fault Refusal :=
  if 98 ≤ core then .fault .noSuchUnit
  else
    let q := (vecOf core s).vqueue
    if coreOn core s = false ∨ (q.contains (.tensor desc org) ∧ q.head? ≠ some (.tensor desc org)) then .next s
    else if q.contains (.tensor desc org) = false ∧ inTurn core desc org s = false then .next (holdIssued core desc org s)
    else
      let s := takeTensor core desc org s
      if (matOf core s).failed then .next (serveVq core (jobFaultPlain 4 core 8 (tVtag desc) 0x40 s))
      else if tensorOk core desc org s = false then
        .next (serveVq core (jobFaultPlain 4 core 1 (tVtag desc) (df desc 0 63 56) s))
      else .next (serveVq core (runTensor core desc org s))

end Sys2Proof.Machine
end

