-- ==== Sys2Proof/Machine/Dispatch.lean ====
section
/-! DEFINITION. The command's effect on everything but the queue: one arm per constructor of Instr, each a direct call of
its meaning. -/

namespace Sys2Proof.Machine

open Sys2Proof

def exec (i : Instr) (s : State) : Host.Outcome State Fault Refusal :=
  match i with
  | .lorjoSegmentRx port src dst datagram => Sys2Proof.Machine.execLorjoSegmentRx port src dst datagram s
  | .reassemblyTimeout src requestId => Sys2Proof.Machine.execReassemblyTimeout src requestId s
  | .keepalive port src dst datagram => Sys2Proof.Machine.execKeepalive port src dst datagram s
  | .probe port src dst datagram => Sys2Proof.Machine.execProbe port src dst datagram s
  | .exitTimer request => Sys2Proof.Machine.execExitTimer request s
  | .responseTransmit port => Sys2Proof.Machine.execResponseTransmit port s
  | .bindingEnable req binding value => Sys2Proof.Machine.execBindingEnable req binding value s
  | .svcEnable req value => Sys2Proof.Machine.execSvcEnable req value s
  | .keyLoad req value => Sys2Proof.Machine.execKeyLoad req value s
  | .lookup core desc org => Sys2Proof.Machine.execLookup core desc org s
  | .laneServe lookup lane => Sys2Proof.Machine.execLaneServe lookup lane s
  | .stackReduce lookup stack => Sys2Proof.Machine.execStackReduce lookup stack s
  | .bagCombine lookup bag => Sys2Proof.Machine.execBagCombine lookup bag s
  | .remoteTimeout lookup owner => Sys2Proof.Machine.execRemoteTimeout lookup owner s
  | .tableDefine req desc => Sys2Proof.Machine.execTableDefine req desc s
  | .tableDelete req tableId => Sys2Proof.Machine.execTableDelete req tableId s
  | .tableDeleteComplete tableId => Sys2Proof.Machine.execTableDeleteComplete tableId s
  | .rowWrite core desc org => Sys2Proof.Machine.execRowWrite core desc org s
  | .immediateWriteChunk write lane => Sys2Proof.Machine.execImmediateWriteChunk write lane s
  | .rowStage write lane => Sys2Proof.Machine.execRowStage write lane s
  | .deferredRowRetry write lane => Sys2Proof.Machine.execDeferredRowRetry write lane s
  | .deferLimitExpiry write => Sys2Proof.Machine.execDeferLimitExpiry write s
  | .batchOpen core desc org => Sys2Proof.Machine.execBatchOpen core desc org s
  | .batchCommit core desc org => Sys2Proof.Machine.execBatchCommit core desc org s
  | .batchCommitProper write => Sys2Proof.Machine.execBatchCommitProper write s
  | .commitWaitTimeout write => Sys2Proof.Machine.execCommitWaitTimeout write s
  | .batchAbort core desc org => Sys2Proof.Machine.execBatchAbort core desc org s
  | .backgroundCopy lane => Sys2Proof.Machine.execBackgroundCopy lane s
  | .preimageFree epoch => Sys2Proof.Machine.execPreimageFree epoch s
  | .remoteCommitTimeout write owner => Sys2Proof.Machine.execRemoteCommitTimeout write owner s
  | .matmul core desc org => Sys2Proof.Machine.execMatmul core desc org s
  | .tileStream core => Sys2Proof.Machine.execTileStream core s
  | .chainDrain core accBase => Sys2Proof.Machine.execChainDrain core accBase s
  | .chainReplay core accBase => Sys2Proof.Machine.execChainReplay core accBase s
  | .tilePreempt core => Sys2Proof.Machine.execTilePreempt core s
  | .vsetl core word => Sys2Proof.Machine.execVsetl core word s
  | .vld core word => Sys2Proof.Machine.execVld core word s
  | .vst core word => Sys2Proof.Machine.execVst core word s
  | .vopVv core word => Sys2Proof.Machine.execVopVv core word s
  | .vopVx core word => Sys2Proof.Machine.execVopVx core word s
  | .vcvt core word => Sys2Proof.Machine.execVcvt core word s
  | .vun core word => Sys2Proof.Machine.execVun core word s
  | .vred core word => Sys2Proof.Machine.execVred core word s
  | .vtopkSet core word => Sys2Proof.Machine.execVtopkSet core word s
  | .vtopkInsert core word => Sys2Proof.Machine.execVtopkInsert core word s
  | .vtopkStore core word => Sys2Proof.Machine.execVtopkStore core word s
  | .vtopkFloor core word => Sys2Proof.Machine.execVtopkFloor core word s
  | .eissue core word => Sys2Proof.Machine.execEissue core word s
  | .efence core word => Sys2Proof.Machine.execEfence core word s
  | .smrd core word => Sys2Proof.Machine.execSmrd core word s
  | .hwait core word => Sys2Proof.Machine.execHwait core word s
  | .hsig core word => Sys2Proof.Machine.execHsig core word s
  | .sfop core word => Sys2Proof.Machine.execSfop core word s
  | .resolve core word => Sys2Proof.Machine.execResolve core word s
  | .taskend core word => Sys2Proof.Machine.execTaskend core word s
  | .baseInstruction core word => Sys2Proof.Machine.execBaseInstruction core word s
  | .timerInterrupt core => Sys2Proof.Machine.execTimerInterrupt core s
  | .qworkInterrupt core => Sys2Proof.Machine.execQworkInterrupt core s
  | .taskStart core => Sys2Proof.Machine.execTaskStart core s
  | .taskLimitExpiry core => Sys2Proof.Machine.execTaskLimitExpiry core s
  | .vtensor core desc org => Sys2Proof.Machine.execVtensor core desc org s
  | .seqSummary core desc org => Sys2Proof.Machine.execSeqSummary core desc org s
  | .segmentPass summary segment => Sys2Proof.Machine.execSegmentPass summary segment s
  | .summaryMerge summary => Sys2Proof.Machine.execSummaryMerge summary s
  | .appendStage launch stage => Sys2Proof.Machine.execAppendStage launch stage s
  | .appendChunkWait launch => Sys2Proof.Machine.execAppendChunkWait launch s
  | .sessionStep => Sys2Proof.Machine.execSessionStep s
  | .sessionClose req session => Sys2Proof.Machine.execSessionClose req session s
  | .transfer core desc org => Sys2Proof.Machine.execTransfer core desc org s
  | .caravan core desc org => Sys2Proof.Machine.execCaravan core desc org s
  | .tileRequest transfer => Sys2Proof.Machine.execTileRequest transfer s
  | .tileDelivery transfer tile => Sys2Proof.Machine.execTileDelivery transfer tile s
  | .weightRingStart core => Sys2Proof.Machine.execWeightRingStart core s
  | .caravanTileSend transfer => Sys2Proof.Machine.execCaravanTileSend transfer s
  | .catchupFetch transfer core => Sys2Proof.Machine.execCatchupFetch transfer core s
  | .transferFaultResume transfer => Sys2Proof.Machine.execTransferFaultResume transfer s
  | .stageBarrier launch stage => Sys2Proof.Machine.execStageBarrier launch stage s
  | .stagePrologue launch stage => Sys2Proof.Machine.execStagePrologue launch stage s
  | .residentSegmentLoad context => Sys2Proof.Machine.execResidentSegmentLoad context s
  | .tailDoorbell queue w => Sys2Proof.Machine.execTailDoorbell queue w s
  | .phaseRetry queue => Sys2Proof.Machine.execPhaseRetry queue s
  | .cqHeadDoorbell queue w => Sys2Proof.Machine.execCqHeadDoorbell queue w s
  | .nop queue => Sys2Proof.Machine.execNop queue s
  | .launch queue => Sys2Proof.Machine.execLaunch queue s
  | .descriptor queue => Sys2Proof.Machine.execDescriptor queue s
  | .inlineWrite queue => Sys2Proof.Machine.execInlineWrite queue s
  | .graphLoad queue => Sys2Proof.Machine.execGraphLoad queue s
  | .graphPatch queue => Sys2Proof.Machine.execGraphPatch queue s
  | .graphUnload queue => Sys2Proof.Machine.execGraphUnload queue s
  | .task queue => Sys2Proof.Machine.execTask queue s
  | .commandWaitMet queue => Sys2Proof.Machine.execCommandWaitMet queue s
  | .hostPoll => Sys2Proof.Machine.execHostPoll s
  | .hitchTimeout queue core => Sys2Proof.Machine.execHitchTimeout queue core s
  | .commandCompletion queue cmd => Sys2Proof.Machine.execCommandCompletion queue cmd s
  | .stageDispatch launch stage => Sys2Proof.Machine.execStageDispatch launch stage s
  | .launchComplete launch => Sys2Proof.Machine.execLaunchComplete launch s
  | .queueEnable req queue value => Sys2Proof.Machine.execQueueEnable req queue value s
  | .queueDrainDone queue => Sys2Proof.Machine.execQueueDrainDone queue s
  | .patchSlotTimeout queue cmd => Sys2Proof.Machine.execPatchSlotTimeout queue cmd s
  | .versionFree graph version => Sys2Proof.Machine.execVersionFree graph version s
  | .specDispatch launch stage => Sys2Proof.Machine.execSpecDispatch launch stage s
  | .branchResolve launch branch outcome => Sys2Proof.Machine.execBranchResolve launch branch outcome s
  | .rangeInvalidate spec => Sys2Proof.Machine.execRangeInvalidate spec s
  | .predictReset req value => Sys2Proof.Machine.execPredictReset req value s
  | .lqCtrlWrite offset w => Sys2Proof.Machine.execLqCtrlWrite offset w s
  | .sqTail w => Sys2Proof.Machine.execSqTail w s
  | .legacyCqHead w => Sys2Proof.Machine.execLegacyCqHead w s
  | .legacyNop => Sys2Proof.Machine.execLegacyNop s
  | .legacyDma => Sys2Proof.Machine.execLegacyDma s
  | .legacyDesc => Sys2Proof.Machine.execLegacyDesc s
  | .legacyKernel => Sys2Proof.Machine.execLegacyKernel s
  | .legacyLaunch => Sys2Proof.Machine.execLegacyLaunch s
  | .legacyWait => Sys2Proof.Machine.execLegacyWait s
  | .legacySignal => Sys2Proof.Machine.execLegacySignal s
  | .jobDeploy req value => Sys2Proof.Machine.execJobDeploy req value s
  | .jobUndeploy req value => Sys2Proof.Machine.execJobUndeploy req value s
  | .undeployDrainTimeout => Sys2Proof.Machine.execUndeployDrainTimeout s
  | .contextCreate req desc => Sys2Proof.Machine.execContextCreate req desc s
  | .contextDelete req context => Sys2Proof.Machine.execContextDelete req context s
  | .schedCommit req value => Sys2Proof.Machine.execSchedCommit req value s
  | .scheduleCycleStart => Sys2Proof.Machine.execScheduleCycleStart s
  | .slotBoundary => Sys2Proof.Machine.execSlotBoundary s
  | .reclaim core => Sys2Proof.Machine.execReclaim core s
  | .predictiveWake cg => Sys2Proof.Machine.execPredictiveWake cg s
  | .idleStepDown cg => Sys2Proof.Machine.execIdleStepDown cg s
  | .patrolScrub cold symbols => Sys2Proof.Machine.execPatrolScrub cold symbols s
  | .rowRemap copy => Sys2Proof.Machine.execRowRemap copy s
  | .repairRun req value => Sys2Proof.Machine.execRepairRun req value s
  | .repairAdd req entry => Sys2Proof.Machine.execRepairAdd req entry s
  | .testPortRaw req value => Sys2Proof.Machine.execTestPortRaw req value s
  | .mapTail w => Sys2Proof.Machine.execMapTail w s
  | .alloc => Sys2Proof.Machine.execAlloc s
  | .free => Sys2Proof.Machine.execFree s
  | .mapHost => Sys2Proof.Machine.execMapHost s
  | .setAbsent => Sys2Proof.Machine.execSetAbsent s
  | .protect => Sys2Proof.Machine.execProtect s
  | .migrate => Sys2Proof.Machine.execMigrate s
  | .deny => Sys2Proof.Machine.execDeny s
  | .pageFault agent va access => Sys2Proof.Machine.execPageFault agent va access s
  | .fqHead w => Sys2Proof.Machine.execFqHead w s
  | .fqOverflowClear req value => Sys2Proof.Machine.execFqOverflowClear req value s
  | .faultReplay agent => Sys2Proof.Machine.execFaultReplay agent s
  | .faultTimeout page => Sys2Proof.Machine.execFaultTimeout page s
  | .bar2Read read bytes => Sys2Proof.Machine.execBar2Read read bytes s
  | .bar2Write offset bytes => Sys2Proof.Machine.execBar2Write offset bytes s
  | .bar2Atomic offset op width operand compare => Sys2Proof.Machine.execBar2Atomic offset op width operand compare s
  | .eventCauseClear w => Sys2Proof.Machine.execEventCauseClear w s
  | .functionLevelReset start => Sys2Proof.Machine.execFunctionLevelReset start s
  | .perstN ev => Sys2Proof.Machine.execPerstN ev s
  | .linkDown => Sys2Proof.Machine.execLinkDown s
  | .linkTraining partner lanes => Sys2Proof.Machine.execLinkTraining partner lanes s
  | .hostUnreachable ev => Sys2Proof.Machine.execHostUnreachable ev s
  | .dmaRequestError busAddr agent error => Sys2Proof.Machine.execDmaRequestError busAddr agent error s
  | .poisonedWrite correctable => Sys2Proof.Machine.execPoisonedWrite correctable s
  | .dwGo request w => Sys2Proof.Machine.execDwGo request w s
  | .peerSet req value => Sys2Proof.Machine.execPeerSet req value s
  | .fabricJoin req value => Sys2Proof.Machine.execFabricJoin req value s
  | .fabricLeave req value => Sys2Proof.Machine.execFabricLeave req value s
  | .hello iface datagram => Sys2Proof.Machine.execHello iface datagram s
  | .accept iface datagram => Sys2Proof.Machine.execAccept iface datagram s
  | .finish iface datagram => Sys2Proof.Machine.execFinish iface datagram s
  | .handshakeTimeout peer => Sys2Proof.Machine.execHandshakeTimeout peer s
  | .fabricDataRx iface ce datagram => Sys2Proof.Machine.execFabricDataRx iface ce datagram s
  | .fabricAckRx iface ce datagram => Sys2Proof.Machine.execFabricAckRx iface ce datagram s
  | .ackTimer peer => Sys2Proof.Machine.execAckTimer peer s
  | .retransmitTimeout peer psn => Sys2Proof.Machine.execRetransmitTimeout peer psn s
  | .cwndUpdate peer => Sys2Proof.Machine.execCwndUpdate peer s
  | .rekey peer => Sys2Proof.Machine.execRekey peer s
  | .pathMove peer path down => Sys2Proof.Machine.execPathMove peer path down s
  | .fabricLoadServe peer seq => Sys2Proof.Machine.execFabricLoadServe peer seq s
  | .fabricStoreServe peer seq => Sys2Proof.Machine.execFabricStoreServe peer seq s
  | .fabricAtomicServe peer seq => Sys2Proof.Machine.execFabricAtomicServe peer seq s
  | .fabricSignalServe peer seq => Sys2Proof.Machine.execFabricSignalServe peer seq s
  | .fabricLookupServe peer seq => Sys2Proof.Machine.execFabricLookupServe peer seq s
  | .fabricRowStage peer seq => Sys2Proof.Machine.execFabricRowStage peer seq s
  | .fabricBatchCommit peer seq => Sys2Proof.Machine.execFabricBatchCommit peer seq s
  | .fabricBatchAbort peer seq => Sys2Proof.Machine.execFabricBatchAbort peer seq s
  | .fabricResponseRx peer record => Sys2Proof.Machine.execFabricResponseRx peer record s
  | .opTimeout peer seq => Sys2Proof.Machine.execOpTimeout peer seq s
  | .closeRx iface datagram => Sys2Proof.Machine.execCloseRx iface datagram s
  | .peerDead peer => Sys2Proof.Machine.execPeerDead peer s
  | .keepaliveAckTimer peer => Sys2Proof.Machine.execKeepaliveAckTimer peer s
  | .fabricAtomic core desc org => Sys2Proof.Machine.execFabricAtomic core desc org s
  | .fabricBarrier core desc org => Sys2Proof.Machine.execFabricBarrier core desc org s
  | .fabricBroadcast core desc org => Sys2Proof.Machine.execFabricBroadcast core desc org s
  | .fabricSnapshot core desc org => Sys2Proof.Machine.execFabricSnapshot core desc org s
  | .globalTimeout group => Sys2Proof.Machine.execGlobalTimeout group s
  | .ggroupEnable req group value => Sys2Proof.Machine.execGgroupEnable req group value s
  | .ownerOpen via record => Sys2Proof.Machine.execOwnerOpen via record s
  | .ownerHandshakeTimeout via => Sys2Proof.Machine.execOwnerHandshakeTimeout via s
  | .ownerDict via record => Sys2Proof.Machine.execOwnerDict via record s
  | .ownerStage via record => Sys2Proof.Machine.execOwnerStage via record s
  | .ownerCommand via record => Sys2Proof.Machine.execOwnerCommand via record s
  | .ownerMap via record => Sys2Proof.Machine.execOwnerMap via record s
  | .ownerClose via record => Sys2Proof.Machine.execOwnerClose via record s
  | .ownerGapTimeout session => Sys2Proof.Machine.execOwnerGapTimeout session s
  | .relayIn req value => Sys2Proof.Machine.execRelayIn req value s
  | .relayOut req length => Sys2Proof.Machine.execRelayOut req length s
  | .quoteNonce req value => Sys2Proof.Machine.execQuoteNonce req value s
  | .measureExtend req value => Sys2Proof.Machine.execMeasureExtend req value s
  | .rollbackCommit req value => Sys2Proof.Machine.execRollbackCommit req value s
  | .keyWipe req value => Sys2Proof.Machine.execKeyWipe req value s
  | .zeroisation => Sys2Proof.Machine.execZeroisation s
  | .opPointMove faster => Sys2Proof.Machine.execOpPointMove faster s
  | .capProjection watts demand => Sys2Proof.Machine.execCapProjection watts demand s
  | .powerCapWrite req value => Sys2Proof.Machine.execPowerCapWrite req value s
  | .sensorSample temps => Sys2Proof.Machine.execSensorSample temps s
  | .thermalTrip => Sys2Proof.Machine.execThermalTrip s
  | .powerOff req value => Sys2Proof.Machine.execPowerOff req value s
  | .thermTripInN ns => Sys2Proof.Machine.execThermTripInN ns s
  | .refClockLoss => Sys2Proof.Machine.execRefClockLoss s
  | .cgWake cg => Sys2Proof.Machine.execCgWake cg s
  | .cgWakeComplete cg => Sys2Proof.Machine.execCgWakeComplete cg s
  | .netSwitchOn => Sys2Proof.Machine.execNetSwitchOn s
  | .netSwitchOff => Sys2Proof.Machine.execNetSwitchOff s
  | .coldSwitchOn => Sys2Proof.Machine.execColdSwitchOn s
  | .coldSelfRefresh => Sys2Proof.Machine.execColdSelfRefresh s
  | .selfRefreshExit => Sys2Proof.Machine.execSelfRefreshExit s
  | .powerManagerTick => Sys2Proof.Machine.execPowerManagerTick s
  | .bivGraphLoad => Sys2Proof.Machine.execBivGraphLoad s
  | .coldReset req value => Sys2Proof.Machine.execColdReset req value s
  | .modResetN ns => Sys2Proof.Machine.execModResetN ns s
  | .startUp => Sys2Proof.Machine.execStartUp s
  | .firmwareFallback => Sys2Proof.Machine.execFirmwareFallback s
  | .jobFault => Sys2Proof.Machine.execJobFault s
  | .watchdogExpiry => Sys2Proof.Machine.execWatchdogExpiry s
  | .postilionWedge => Sys2Proof.Machine.execPostilionWedge s
  | .maintMode req value => Sys2Proof.Machine.execMaintMode req value s
  | .cgReset req mask => Sys2Proof.Machine.execCgReset req mask s
  | .fwWrite req value => Sys2Proof.Machine.execFwWrite req value s
  | .fwInstall req value => Sys2Proof.Machine.execFwInstall req value s
  | .fwActivate req value => Sys2Proof.Machine.execFwActivate req value s
  | .fwConfirm req value => Sys2Proof.Machine.execFwConfirm req value s
  | .dictRead req message => Sys2Proof.Machine.execDictRead req message s
  | .dictWrite req message => Sys2Proof.Machine.execDictWrite req message s
  | .multiWrite req message => Sys2Proof.Machine.execMultiWrite req message s
  | .multiRead req message => Sys2Proof.Machine.execMultiRead req message s
  | .segmentLapse req => Sys2Proof.Machine.execSegmentLapse req s
  | .snapshotLapse req => Sys2Proof.Machine.execSnapshotLapse req s
  | .waybillRecordWrite => Sys2Proof.Machine.execWaybillRecordWrite s
  | .rateWindowEnd => Sys2Proof.Machine.execRateWindowEnd s
  | .wbRead req => Sys2Proof.Machine.execWbRead req s
  | .wbClear req value => Sys2Proof.Machine.execWbClear req value s
  | .wbClearCopyDone => Sys2Proof.Machine.execWbClearCopyDone s
  | .inputPowerLoss => Sys2Proof.Machine.execInputPowerLoss s
  | .refClockRestored => Sys2Proof.Machine.execRefClockRestored s
  | .interfaceUp iface => Sys2Proof.Machine.execInterfaceUp iface s
  | .globalOperationRx peer record => Sys2Proof.Machine.execGlobalOperationRx peer record s
  | .fabricAtomicCoreRelease id => Sys2Proof.Machine.execFabricAtomicCoreRelease id s
  | .sessionRetry peer => Sys2Proof.Machine.execSessionRetry peer s
  | .keptResponseLapse req => Sys2Proof.Machine.execKeptResponseLapse req s
  | .msixTableWrite offset w => Sys2Proof.Machine.execMsixTableWrite offset w s
  | .bar2Resize gib => Sys2Proof.Machine.execBar2Resize gib s
  | .neighborDiscoveryFrame iface v6 request target sender mac => Sys2Proof.Machine.execNeighborDiscoveryFrame iface v6 request target sender mac s

end Sys2Proof.Machine
end

