-- ==== Sys2Proof/Machine/Tick.lean ====
section
/-! DEFINITION. What passes when no command waits: one tick of the 50 MHz always-on clock, which advances TIME64 by 20
(R519), and the end of an undeploy whose work has drained, for which the table has no row (log 1). -/

namespace Sys2Proof.Machine

open Sys2Proof

/-- A scrub pass whose period has ended is counted late, also while it pauses (R387). -/
def noteScrubs (s : State) : State :=
  if s.power.mainOn = false then s
  else
    let s := noteScrubLate false s
    if s.power.cold = 2 then s else noteScrubLate true s

/-- JOINING proceeds 150 ms after it began with the links that are up (R457). -/
def joinLate (s : State) : State :=
  if s.fabric.state = 1 ∧ s.fabric.joinAt + 150000000 ≤ s.now then startHandshakes s else s

/-- One tick of the always-on clock. Work that has ended by now ends its overrun, groups that are idle and
queues that have ready work in their reservation are noted, before time passes (R366, R370, R374); then a fuse of a commit that is due is blown (R489), and
the links send again what a move of the operating point has held (R507). -/
def idleTick (s : State) : State :=
  let moved := moving s && !moving { s with now := s.now + 20 }
  let s := noteReady (noteIdle (noteDebts (settleOutgoing s)))
  let s := joinLate (blowFuse (noteScrubs (settleHoldoff (settleUndeploy { s with now := s.now + 20 }))))
  if moved then pumpAll (resumeLinks s) else s

end Sys2Proof.Machine
end

