-- ==== Sys2Proof/Safety.lean ====
section
/-! DEFINITION. What the statements call a safe state and a clean effect: a dictionary write that passes
every check, the status a command entry is left with, the canonical form of the memories, the promise a
sealed job carries. -/

namespace Sys2Proof

open Sys2Proof.Machine

/-- A write of a whole dictionary entry by a requester meets no error of R543. -/
def Accepted (req : ReqId) (index sub : Nat) (bytes : List Byte) (s : State) : Prop :=
  writeError req index sub bytes s = erOk

/-- The command entry `key`, written by `req` in state `s`, has run and ended DONE in `t` (R551, Table 21.4). -/
def EndedOk (key : Nat) (req : ReqId) (s t : State) : Prop :=
  cmdOf key t = { state := 2, status := 0, reason := 0, cls := classNum (classOf req),
                  runs := ((cmdOf key s).runs + 1) % 2 ^ 32, time := s.now }

/-- The command entry `key`, written by `req` in state `s`, is RUNNING in `t` (R551, Table 21.4). -/
def Runs (key : Nat) (req : ReqId) (s t : State) : Prop :=
  cmdOf key t = { state := 1, status := 0, reason := 0, cls := classNum (classOf req),
                  runs := ((cmdOf key s).runs + 1) % 2 ^ 32, time := s.now }

/-- The state in which the action of an accepted command entry begins: the write is noted and the entry RUNNING. -/
def actionStart (req : ReqId) (index sub : Nat) (s : State) : State :=
  startCmd (entryKey index sub) req (dropPartial req index sub (noteWrite req index sub erOk s))

/-- The state in which an accepted write of an entry that is no command entry takes effect: the write is noted. -/
def writeStart (req : ReqId) (index sub : Nat) (s : State) : State :=
  dropPartial req index sub (noteWrite req index sub erOk s)

/-- A write descriptor as it enters the splitter, with the moment of its issue: class B where a graph's launch issued it
(R117), held there under its speculation ID (R127). -/
def newWrite (core : Nat) (desc : Desc) (org : Origin) (s : State) : WriteJob :=
  { id := s.updates.nextId, core := core, desc := desc, org := org, cls := if org.launch.isSome then .B else org.cls,
    issuedAt := (org.issue.map (·.1)).getD s.now, rows := [], applied := 0, oor := 0, deferred := 0, remotePending := [],
    waiting := false, published := none, owners := [], status := 0, reason := 0, held := wSpec desc }

/-- A core that takes its next 32-bit instruction: it has a task, its group is on, it is not waiting in WFI, and pc is even
with the instruction's four bytes within the task's partition (R210, R233). -/
def MayRun (core : Nat) (s : State) : Prop :=
  core < 98 ∧ (ctlOf core s).task ≠ none ∧ coreOn core s = true ∧ (ctlOf core s).ccState ≠ 4 ∧
  (ctlOf core s).pc.toNat % 2 = 0 ∧ inPart (taskPart core s) (ctlOf core s).pc.toNat 4 = true

/-- A core that takes the 32-bit word, with no VTOPK STORE queued whose count it names (log 165). -/
def MayRunWord (core : Nat) (word : BitVec 32) (s : State) : Prop :=
  MayRun core s ∧ word.toNat % 4 = 3 ∧ awaitsCount core word s = false

/-- A core that takes its next 32-bit instruction, with nothing in its vector queue, which a vector instruction would wait for
(R226). -/
def MayRunVector (core : Nat) (s : State) : Prop := MayRun core s ∧ (vecOf core s).vqueue = []

/-- A core that has completed a 32-bit instruction whose effect left `u`: pc is four further, and it is counted in
minstret (R216). -/
def retired (core : Nat) (u : State) : State := retire core (pc4 core u) u

/-- A core that has completed a 32-bit vector instruction whose effect left `u`. -/
def retiredVector (core : Nat) (u : State) : State := retired core (count Cnt.vectorInstructions 1 u)

/-- Every sparse memory of the machine is in its one canonical form (log 3). -/
def MemoriesCanonical (s : State) : Prop :=
  memWf s.mem.dram = true ∧ memWf s.mem.sram = true ∧ memWf s.mem.staging = true ∧ memWf s.mem.host = true ∧
  memWf s.recovery.staging = true

/-- While the job is sealed, the zeroisation it owes stands pending in the always-on domain and in its
nonvolatile mirror (R498, R535). -/
def ZeroiseOwed (s : State) : Prop :=
  s.job.sealed_ = true → s.security.zeroisePending = true ∧ s.security.zeroiseMirror = true

/-- No anti-rollback counter of the five image types is lower in `t` than in `s` (R489). -/
def NoRollback (s t : State) : Prop :=
  ∀ i, i < 5 → s.security.rollback.getD i 0 ≤ t.security.rollback.getD i 0

end Sys2Proof
end

