-- ==== Sys2Proof/WellFormed.lean ====
section
/-! DEFINITION. Which commands are well formed: every operand lies in the range that the unit, entry or message it stands for
has. -/

namespace Sys2Proof

/-- A register write of 1 to 8 bytes inside its 8-byte register (R431). -/
def HostWrite.wf (w : HostWrite) : Bool := decide (1 ≤ w.bytes) && decide (w.offset + w.bytes ≤ 8)

/-- An endpoint of IPv6 or IPv4 (R36). -/
def Endpoint.wf (e : Endpoint) : Bool := decide (e.addr < 2 ^ (if e.v6 then 128 else 32)) && decide (e.port < 65536)

/-- What issued a descriptor: one of 64 queues, a context or none (0xFF), a stage of a launch (R288). -/
def Origin.wf (o : Origin) : Bool := decide (o.queue < 64) && decide (o.context < 256) && decide (o.stage < 65536)

/-- The interface and endpoints that an owner record came by, or the relay (R495). -/
def viaOk (via : Option UdpPath) : Bool := via.all (fun v => decide (v.iface < 16) && v.peer.wf && v.here.wf)

/-- At most the 36 symbols of a codeword are in error (R383). -/
def errorOk (e : Nat × Nat) : Bool := decide (e.2 ≤ 36)

/-- A command is well formed. -/
def Instr.wf (i : Instr) : Bool :=
  match i with
  | .lorjoSegmentRx port src dst datagram => decide (port < 4) && src.wf && dst.wf && decide (datagram.bytes.length ≤ 65536)
  | .reassemblyTimeout src _ => src.wf
  | .keepalive port src dst datagram => decide (port < 4) && src.wf && dst.wf && decide (datagram.bytes.length ≤ 65536)
  | .probe port src dst datagram => decide (port < 4) && src.wf && dst.wf && decide (datagram.bytes.length ≤ 65536)
  | .exitTimer _ => true
  | .responseTransmit port => decide (port < 4)
  | .bindingEnable _ binding value => decide (binding < 16) && decide (value < 256 ^ 1)
  | .svcEnable _ value => decide (value < 256 ^ 1)
  | .keyLoad _ value => decide (value.length ≤ 65536)
  | .lookup core _ org => decide (core < 98) && org.wf
  | .laneServe _ lane => decide (lane.lane < 384) && lane.errors.all errorOk
  | .stackReduce _ stack => decide (stack < 12)
  | .bagCombine _ bag => decide (bag < 65536)
  | .remoteTimeout _ owner => decide (owner < 4096)
  | .tableDefine _ _ => true
  | .tableDelete _ tableId => decide (tableId < 256 ^ 2)
  | .tableDeleteComplete tableId => decide (tableId < 65536)
  | .rowWrite core _ org => decide (core < 98) && org.wf
  | .immediateWriteChunk _ lane => decide (lane < 384)
  | .rowStage _ lane => decide (lane < 384)
  | .deferredRowRetry _ lane => decide (lane < 384)
  | .deferLimitExpiry _ => true
  | .batchOpen core _ org => decide (core < 98) && org.wf
  | .batchCommit core _ org => decide (core < 98) && org.wf
  | .batchCommitProper _ => true
  | .commitWaitTimeout _ => true
  | .batchAbort core _ org => decide (core < 98) && org.wf
  | .backgroundCopy lane => decide (lane < 384)
  | .preimageFree _ => true
  | .remoteCommitTimeout _ owner => decide (owner < 4096)
  | .matmul core _ org => decide (core < 98) && org.wf
  | .tileStream core => decide (core < 98)
  | .chainDrain core accBase => decide (core < 98) && decide (accBase < 512)
  | .chainReplay core accBase => decide (core < 98) && decide (accBase < 512)
  | .tilePreempt core => decide (core < 98)
  | .vsetl core _ => decide (core < 98)
  | .vld core _ => decide (core < 98)
  | .vst core _ => decide (core < 98)
  | .vopVv core _ => decide (core < 98)
  | .vopVx core _ => decide (core < 98)
  | .vcvt core _ => decide (core < 98)
  | .vun core _ => decide (core < 98)
  | .vred core _ => decide (core < 98)
  | .vtopkSet core _ => decide (core < 98)
  | .vtopkInsert core _ => decide (core < 98)
  | .vtopkStore core _ => decide (core < 98)
  | .vtopkFloor core _ => decide (core < 98)
  | .eissue core _ => decide (core < 98)
  | .efence core _ => decide (core < 98)
  | .smrd core _ => decide (core < 98)
  | .hwait core _ => decide (core < 98)
  | .hsig core _ => decide (core < 98)
  | .sfop core _ => decide (core < 98)
  | .resolve core _ => decide (core < 98)
  | .taskend core _ => decide (core < 98)
  | .baseInstruction core _ => decide (core < 98)
  | .timerInterrupt core => decide (core < 98)
  | .qworkInterrupt core => decide (core < 98)
  | .taskStart core => decide (core < 98)
  | .taskLimitExpiry core => decide (core < 98)
  | .vtensor core _ org => decide (core < 98) && org.wf
  | .seqSummary core _ org => decide (core < 98) && org.wf
  | .segmentPass _ _ => true
  | .summaryMerge _ => true
  | .appendStage _ stage => decide (stage < 65536)
  | .appendChunkWait _ => true
  | .sessionStep => true
  | .sessionClose _ _ => true
  | .transfer core _ org => decide (core < 98) && org.wf
  | .caravan core _ org => decide (core < 98) && org.wf
  | .tileRequest tile => tile.errors.all errorOk
  | .tileDelivery _ _ => true
  | .weightRingStart core => decide (core < 98)
  | .caravanTileSend _ => true
  | .catchupFetch _ core => decide (core < 96)
  | .transferFaultResume _ => true
  | .stageBarrier _ stage => decide (stage < 65536)
  | .stagePrologue _ stage => decide (stage < 65536)
  | .residentSegmentLoad context => decide (context < 16)
  | .tailDoorbell queue w => decide (queue < 64) && w.wf
  | .phaseRetry queue => decide (queue ≤ 65)
  | .cqHeadDoorbell queue w => decide (queue < 64) && w.wf
  | .nop queue => decide (queue < 64)
  | .launch queue => decide (queue < 64)
  | .descriptor queue => decide (queue < 64)
  | .inlineWrite queue => decide (queue < 64)
  | .graphLoad queue => decide (queue < 64)
  | .graphPatch queue => decide (queue < 64)
  | .graphUnload queue => decide (queue < 64)
  | .task queue => decide (queue < 64)
  | .commandWaitMet queue => decide (queue < 64)
  | .hostPoll => true
  | .hitchTimeout queue core => (queue.all (fun q => decide (q < 64))) && (core.all (fun c => decide (c < 98)))
  | .commandCompletion queue _ => decide (queue ≤ 64)
  | .stageDispatch _ stage => decide (stage < 65536)
  | .launchComplete _ => true
  | .queueEnable _ queue value => decide (queue < 64) && decide (value < 256 ^ 1)
  | .queueDrainDone queue => decide (queue < 64)
  | .patchSlotTimeout queue _ => decide (queue < 64)
  | .versionFree graph _ => decide (graph < 65536)
  | .specDispatch _ stage => decide (stage < 65536)
  | .branchResolve _ _ _ => true
  | .rangeInvalidate _ => true
  | .predictReset _ value => decide (value < 256 ^ 1)
  | .lqCtrlWrite offset w => decide (offset < 65536) && w.wf
  | .sqTail w => w.wf
  | .legacyCqHead w => w.wf
  | .legacyNop => true
  | .legacyDma => true
  | .legacyDesc => true
  | .legacyKernel => true
  | .legacyLaunch => true
  | .legacyWait => true
  | .legacySignal => true
  | .jobDeploy _ _ => true
  | .jobUndeploy _ value => decide (value < 256 ^ 1)
  | .undeployDrainTimeout => true
  | .contextCreate _ _ => true
  | .contextDelete _ context => decide (context < 256 ^ 1)
  | .schedCommit _ value => decide (value < 256 ^ 1)
  | .scheduleCycleStart => true
  | .slotBoundary => true
  | .reclaim core => decide (core < 96)
  | .predictiveWake cg => decide (cg < 16)
  | .idleStepDown cg => decide (cg < 16)
  | .patrolScrub _ _ => true
  | .rowRemap copy => copy.errors.all errorOk
  | .repairRun _ value => decide (value < 256 ^ 1)
  | .repairAdd _ _ => true
  | .testPortRaw _ _ => true
  | .mapTail w => w.wf
  | .alloc => true
  | .free => true
  | .mapHost => true
  | .setAbsent => true
  | .protect => true
  | .migrate => true
  | .deny => true
  | .pageFault agent _ _ => decide (agent < 548)
  | .fqHead w => w.wf
  | .fqOverflowClear _ value => decide (value < 256 ^ 1)
  | .faultReplay agent => decide (agent < 548)
  | .faultTimeout _ => true
  | .bar2Read read bytes => decide (read.offset < 2 ^ 38) && read.errors.all errorOk && decide (1 ≤ bytes) && decide (bytes ≤ 4096)
  | .bar2Write offset bytes => decide (offset < 2 ^ 38) && decide (bytes.length ≤ 4096)
  | .bar2Atomic offset _ width _ _ => decide (offset < 2 ^ 38) && (width == 4 || width == 8 || width == 16)
  | .eventCauseClear w => w.wf
  | .functionLevelReset _ => true
  | .perstN _ => true
  | .linkDown => true
  | .linkTraining partner lanes => decide (partner.highest < 256) && decide (partner.trained < 256) && decide (lanes < 256)
  | .hostUnreachable _ => true
  | .dmaRequestError busAddr agent error => decide (busAddr < 2 ^ 64) && (decide (agent < 548) || agent == 0xFFFF) && decide (error < 2 ^ 64)
  | .poisonedWrite _ => true
  | .dwGo request w => decide (request.length ≤ 2048) && w.wf
  | .peerSet _ value => decide (value.length ≤ 65536)
  | .fabricJoin _ value => decide (value < 256 ^ 1)
  | .fabricLeave _ value => decide (value < 256 ^ 1)
  | .hello iface datagram => decide (iface < 16) && decide (datagram.length ≤ 65536)
  | .accept iface datagram => decide (iface < 16) && decide (datagram.length ≤ 65536)
  | .finish iface datagram => decide (iface < 16) && decide (datagram.length ≤ 65536)
  | .handshakeTimeout peer => decide (peer < 4096)
  | .fabricDataRx iface _ datagram => decide (iface < 16) && decide (datagram.length ≤ 65536)
  | .fabricAckRx iface _ datagram => decide (iface < 16) && decide (datagram.length ≤ 65536)
  | .ackTimer peer => decide (peer < 4096)
  | .retransmitTimeout peer _ => decide (peer < 4096)
  | .cwndUpdate peer => decide (peer < 4096)
  | .rekey peer => decide (peer < 4096)
  | .pathMove peer path _ => decide (peer < 4096) && decide (path < 4)
  | .fabricLoadServe peer _ => decide (peer < 4096)
  | .fabricStoreServe peer _ => decide (peer < 4096)
  | .fabricAtomicServe peer _ => decide (peer < 4096)
  | .fabricSignalServe peer _ => decide (peer < 4096)
  | .fabricLookupServe peer _ => decide (peer < 4096)
  | .fabricRowStage peer _ => decide (peer < 4096)
  | .fabricBatchCommit peer _ => decide (peer < 4096)
  | .fabricBatchAbort peer _ => decide (peer < 4096)
  | .fabricResponseRx peer record => decide (peer < 4096) && decide (record.length ≤ 65536)
  | .opTimeout peer _ => decide (peer < 4096)
  | .closeRx iface datagram => decide (iface < 16) && decide (datagram.length ≤ 65536)
  | .peerDead peer => decide (peer < 4096)
  | .keepaliveAckTimer peer => decide (peer < 4096)
  | .fabricAtomic core _ org => decide (core < 98) && org.wf
  | .fabricBarrier core _ org => decide (core < 98) && org.wf
  | .fabricBroadcast core _ org => decide (core < 98) && org.wf
  | .fabricSnapshot core _ org => decide (core < 98) && org.wf
  | .globalTimeout group => decide (group < 16)
  | .ggroupEnable _ group value => decide (group < 16) && decide (value < 256 ^ 1)
  | .ownerOpen via record => viaOk via && decide (record.length ≤ 65536)
  | .ownerHandshakeTimeout via => viaOk via
  | .ownerDict via record => viaOk via && decide (record.length ≤ 65536)
  | .ownerStage via record => viaOk via && decide (record.length ≤ 65536)
  | .ownerCommand via record => viaOk via && decide (record.length ≤ 65536)
  | .ownerMap via record => viaOk via && decide (record.length ≤ 65536)
  | .ownerClose via record => viaOk via && decide (record.length ≤ 65536)
  | .ownerGapTimeout _ => true
  | .relayIn _ value => decide (value.length ≤ 65536)
  | .relayOut _ length => decide (length ≤ 1024)
  | .quoteNonce _ value => decide (value.length ≤ 65536)
  | .measureExtend _ value => decide (value.length ≤ 65536)
  | .rollbackCommit _ value => decide (value < 256 ^ 1)
  | .keyWipe _ value => decide (value < 256 ^ 1)
  | .zeroisation => true
  | .opPointMove _ => true
  | .capProjection watts demand => decide (watts < 65536) && decide (demand < 65536)
  | .powerCapWrite _ value => decide (value < 256 ^ 2)
  | .sensorSample temps => decide (temps.length = 31)
  | .thermalTrip => true
  | .powerOff _ value => decide (value < 256 ^ 1)
  | .thermTripInN _ => true
  | .refClockLoss => true
  | .cgWake cg => decide (cg < 16)
  | .cgWakeComplete cg => decide (cg < 16)
  | .netSwitchOn => true
  | .netSwitchOff => true
  | .coldSwitchOn => true
  | .coldSelfRefresh => true
  | .selfRefreshExit => true
  | .powerManagerTick => true
  | .bivGraphLoad => true
  | .coldReset _ value => decide (value < 256 ^ 1)
  | .modResetN _ => true
  | .startUp => true
  | .firmwareFallback => true
  | .jobFault => true
  | .watchdogExpiry => true
  | .postilionWedge => true
  | .maintMode _ value => decide (value < 256 ^ 1)
  | .cgReset _ mask => decide (mask < 256 ^ 2)
  | .fwWrite _ value => decide (value.length ≤ 65536)
  | .fwInstall _ value => decide (value < 256 ^ 4)
  | .fwActivate _ value => decide (value < 256 ^ 1)
  | .fwConfirm _ value => decide (value < 256 ^ 1)
  | .dictRead _ message => decide (message.bytes.length ≤ 2048)
  | .dictWrite _ message => decide (message.bytes.length ≤ 2048)
  | .multiWrite _ message => decide (message.bytes.length ≤ 2048)
  | .multiRead _ message => decide (message.bytes.length ≤ 2048)
  | .segmentLapse _ => true
  | .snapshotLapse _ => true
  | .waybillRecordWrite => true
  | .rateWindowEnd => true
  | .wbRead _ => true
  | .wbClear _ value => decide (value < 256 ^ 1)
  | .wbClearCopyDone => true
  | .inputPowerLoss => true
  | .refClockRestored => true
  | .interfaceUp iface => decide (iface < 16)
  | .globalOperationRx peer record => decide (peer < 4096) && decide (record.length ≤ 65536)
  | .fabricAtomicCoreRelease _ => true
  | .sessionRetry peer => decide (peer < 4096)
  | .keptResponseLapse _ => true
  | .msixTableWrite offset w => decide (offset < 2048) && offset % 8 == 0 && w.wf
  | .bar2Resize gib => decide (1 ≤ gib) && decide (gib ≤ 256) && (2 ^ Nat.log2 gib == gib)
  | .neighborDiscoveryFrame iface v6 _ target sender _ => decide (iface < 16) && decide (target < 2 ^ (if v6 then 128 else 32)) && decide (sender < 2 ^ (if v6 then 128 else 32))

end Sys2Proof
end

