-- ==== Sys2Proof/Certificates/Slice0/Obligations.lean ====
section
/-! DEFINITION. The statements for the provers: what the commands of each family do where their conditions hold, what a step
is, what every step keeps, what reset leaves, and the rules of the spec that say a value. -/

open Sys2Proof Sys2Proof.Machine

/-- One step takes the command at the front of the queue and is `exec` of it on the state with the queue's rest. -/
def Obligations.StepRunsTheFrontCommand : Prop :=
  ∀ c rest s, s.pending = c :: rest → step s = exec c { s with pending := rest }

/-- With no command waiting, a step lets one tick of 20 ns of the always-on clock pass (the model's choice: log 1). -/
def Obligations.AnIdleStepIsOneTick : Prop :=
  ∀ s, s.pending = [] → ∃ t, step s = .next t ∧ t.pending = [] ∧ t.now = s.now + 20

/-- No command reads from or adds to the queue of waiting commands (the model's own queue). -/
def Obligations.NoCommandTouchesTheQueue : Prop :=
  ∀ c s t, exec c s = .next t → t.pending = s.pending

/-- No step, whatever command it runs and from whatever state, lowers an anti-rollback counter (R489). -/
def Obligations.AntiRollbackCountersNeverFall : Prop :=
  ∀ s t, step s = .next t → NoRollback s t

/-- The zeroisation a sealed job owes stays pending in both copies over every step (R498, R535). -/
def Obligations.ASealedJobKeepsItsZeroisation : Prop :=
  ∀ s t, ZeroiseOwed s → step s = .next t → ZeroiseOwed t

/-- Every sparse memory of the machine keeps its one canonical form over every step (the model's form: log 3). -/
def Obligations.EveryStepKeepsTheMemoriesCanonical : Prop :=
  ∀ s t, MemoriesCanonical s → step s = .next t → MemoriesCanonical t

/-- A well-formed command completes: no BAR2 access beyond the window is asked for. -/
def Obligations.WellFormedCommandsComplete : Prop :=
  ∀ c s, c.wf = true →
    (match c with
      | .bar2Read read bytes => read.offset + bytes ≤ s.hostif.bar2Size
      | .bar2Write offset bytes => offset + bytes.length ≤ s.hostif.bar2Size
      | .bar2Atomic offset _ width _ _ => offset + width ≤ s.hostif.bar2Size
      | _ => True) →
    ∃ t, exec c s = .next t

/-- A write that any check of R543 refuses has no effect beyond the answer: no action runs, no entry changes its value
and no command entry its status; the refusal is noted, and counted where a sealed job's limits refuse it. This for
every command that writes an entry of its own, under its index and subindex. -/
def Obligations.RefusedWritesHaveNoEffect : Prop :=
  ∀ (i : Instr) (req : ReqId) (index sub : Nat) (bytes b : List Byte) (v : Nat) (w64 : BitVec 64) (w128 : BitVec 128)
    (w256 : BitVec 256) (w512 : BitVec 512) (s : State),
    ((i = .keyLoad req b ∧ index = 0x2000 ∧ sub = 0x0B ∧ bytes = b) ∨
      (i = .svcEnable req v ∧ index = 0x2000 ∧ sub = 1 ∧ bytes = leBytes 1 v) ∨
      (i = .sessionClose req w64 ∧ index = 0x2020 ∧ sub = 6 ∧ bytes = leBytes 8 w64.toNat) ∨
      (i = .tableDefine req w512 ∧ index = 0x2100 ∧ sub = 0x03 ∧ bytes = leBytes 64 w512.toNat) ∨
      (i = .tableDelete req v ∧ index = 0x2100 ∧ sub = 0x04 ∧ bytes = leBytes 2 v) ∨
      (i = .predictReset req v ∧ index = 0x2550 ∧ sub = 9 ∧ bytes = leBytes 1 v) ∨
      (i = .jobDeploy req w128 ∧ index = 0x2600 ∧ sub = 2 ∧ bytes = leBytes 16 w128.toNat) ∨
      (i = .jobUndeploy req v ∧ index = 0x2600 ∧ sub = 3 ∧ bytes = leBytes 1 v) ∨
      (i = .contextCreate req w256 ∧ index = 0x2601 ∧ sub = 1 ∧ bytes = leBytes 32 w256.toNat) ∨
      (i = .contextDelete req v ∧ index = 0x2601 ∧ sub = 2 ∧ bytes = leBytes 1 v) ∨
      (i = .schedCommit req v ∧ index = 0x2603 ∧ sub = 0x02 ∧ bytes = leBytes 1 v) ∨
      (i = .repairRun req v ∧ index = 0x6700 ∧ sub = 0x01 ∧ bytes = leBytes 1 v) ∨
      (i = .repairAdd req w128 ∧ index = 0x6700 ∧ sub = 0x03 ∧ bytes = leBytes 16 w128.toNat) ∨
      (i = .testPortRaw req w512 ∧ index = 0x6700 ∧ sub = 0x04 ∧ bytes = leBytes 64 w512.toNat) ∨
      (i = .fqOverflowClear req v ∧ index = 0x2800 ∧ sub = 0x06 ∧ bytes = leBytes 1 v) ∨
      (i = .peerSet req b ∧ index = 0x2A00 ∧ sub = 0x06 ∧ bytes = b) ∨
      (i = .fabricJoin req v ∧ index = 0x2A00 ∧ sub = 0x03 ∧ bytes = leBytes 1 v) ∨
      (i = .fabricLeave req v ∧ index = 0x2A00 ∧ sub = 0x04 ∧ bytes = leBytes 1 v) ∨
      (i = .rollbackCommit req v ∧ index = 0x2B00 ∧ sub = 0x06 ∧ bytes = leBytes 1 v) ∨
      (i = .quoteNonce req b ∧ index = 0x2B00 ∧ sub = 0x0A ∧ bytes = b) ∨
      (i = .measureExtend req b ∧ index = 0x2B00 ∧ sub = 0x0F ∧ bytes = b) ∨
      (i = .relayIn req b ∧ index = 0x2B00 ∧ sub = 0x11 ∧ bytes = b) ∨
      (i = .keyWipe req v ∧ index = 0x2B00 ∧ sub = 0x18 ∧ bytes = leBytes 1 v) ∨
      (i = .powerCapWrite req v ∧ index = 0x2C00 ∧ sub = 0x01 ∧ bytes = leBytes 2 v) ∨
      (i = .powerOff req v ∧ index = 0x2C00 ∧ sub = 0x10 ∧ bytes = leBytes 1 v) ∨
      (i = .coldReset req v ∧ index = 0x2D00 ∧ sub = 0x01 ∧ bytes = leBytes 1 v) ∨
      (i = .maintMode req v ∧ index = 0x2D00 ∧ sub = 0x05 ∧ bytes = leBytes 1 v) ∨
      (i = .fwWrite req b ∧ index = 0x2D00 ∧ sub = 0x06 ∧ bytes = b) ∨
      (i = .fwInstall req v ∧ index = 0x2D00 ∧ sub = 0x07 ∧ bytes = leBytes 4 v) ∨
      (i = .fwActivate req v ∧ index = 0x2D00 ∧ sub = 0x08 ∧ bytes = leBytes 1 v) ∨
      (i = .fwConfirm req v ∧ index = 0x2D00 ∧ sub = 0x09 ∧ bytes = leBytes 1 v) ∨
      (i = .cgReset req v ∧ index = 0x6D00 ∧ sub = 0x01 ∧ bytes = leBytes 2 v) ∨
      (i = .wbClear req v ∧ index = 0x2E00 ∧ sub = 8 ∧ bytes = leBytes 1 v)) →
    writeError req index sub bytes s ≠ erOk →
    ∃ t, exec i s = .next t ∧ t.dict.values = s.dict.values ∧ t.dict.cmds = s.dict.cmds ∧
      t.dict.lastWrite = some (req, entryKey index sub, writeError req index sub bytes s) ∧ t = { s with dict := t.dict }

/-- A BAR2 write to mapped pages of device memory that have their frames keeps the memory's canonical form and changes no
byte but those that its addresses name; within one page, in a memory in that form and in a stack whose configuration no
TEST_PORT_RAW has changed (R398), each byte reads back as written.
Nothing else of the machine changes but the TLBs, the counters and the cold tier's state (R432, R404, R376). -/
def Obligations.Bar2WritesTouchOnlyTheirBytes : Prop :=
  ∀ offset bytes s va, offset + bytes.length ≤ s.hostif.bar2Size → bar2Closed s = false →
    va = ent Ent.bar2WindowVa s + offset → bar2Mapped va bytes.length .write s = true →
    (∀ p, p ∈ pagesOf va bytes.length → (pageView p s).frame ≠ none) →
    ∃ t, exec (.bar2Write offset bytes) s = .next t ∧
      (memWf s.mem.dram = true → memWf t.mem.dram = true) ∧
      (∀ a, (∀ i, i < bytes.length → mpaOf (va + i) s ≠ some a) → memGet t.mem.dram a = memGet s.mem.dram a) ∧
      (memWf s.mem.dram = true → va % 4096 + bytes.length ≤ 4096 →
        (∀ i a, i < bytes.length → mpaOf (va + i) s = some a → s.mem.scrambled.contains (a / 2 ^ 40) = false) →
        devRead t va bytes.length = bytes) ∧
      t.mem.host = s.mem.host ∧ t.mem.sram = s.mem.sram ∧ t.xlate.ptes = s.xlate.ptes ∧ t.job = s.job ∧
      t.hostif = { s.hostif with hostWrites := t.hostif.hostWrites } ∧ (s.hostif.unseen = [] → t.hostif = s.hostif) ∧
      t.dispatch = s.dispatch ∧ t.service = s.service ∧ t.security = s.security

/-- A dictionary request laid out by Table 21.2 is read back field by field, at every value its fields admit (R542). -/
def Obligations.DictionaryHeadersAreReadBack : Prop :=
  ∀ op final count seq index sub offset body,
    op < 256 → count < 256 → seq < 65536 → index < 65536 → sub < 256 → offset < 2 ^ 32 → body.length < 65536 → op ≠ 1 →
    parseDict (leBytes 8 (op * 2 ^ 56 + (if final = true then 2 ^ 54 else 0) + count * 2 ^ 32 + seq * 2 ^ 16 + body.length) ++
      leBytes 8 (index * 2 ^ 48 + sub * 2 ^ 40 + offset) ++ leBytes 8 0 ++ body) =
    { op := op, response := false, final := final, rsvd := 0, count_ := count, seq := seq, length := body.length,
      index := index, sub := sub, offset := offset, body := body }

/-- After reset no job exists, no command waits, nothing is owed, no link is up and the registers of BAR0 for which Table
16.4 gives reset value 0 read 0; HIF_ID reads its constant; the reset memories are in their canonical form. -/
def Obligations.ResetLeavesTheStatedValues : Prop :=
  State.reset.job.state = jobNone ∧ State.reset.pending = [] ∧ ZeroiseOwed State.reset ∧ MemoriesCanonical State.reset ∧
  State.reset.hostif.linkGen = 0 ∧ hostReachable State.reset = false ∧ State.reset.hostif.eventCause = 0 ∧
  bar0Word 0x0000 State.reset = 0x0000000009600003 ∧ bar0Word 0x0010 State.reset = 0 ∧
  (∀ n, n < 64 → bar0Word (0x1000 + 16 * n) State.reset = 0 ∧ bar0Word (0x1008 + 16 * n) State.reset = 0) ∧
  bar0Word 0x1400 State.reset = 0

/-- R306: when a wait's condition is met by a value. -/
def Obligations.WaitConditionsAreThose : Prop :=
  ∀ v t k : Nat, (condHolds 0 v t k = true ↔ v ≥ t) ∧ (condHolds 1 v t k = true ↔ v &&& k = t &&& k) ∧
    (condHolds 2 v t k = true ↔ v ≠ t)

/-- R75: the row that an index value selects, by the table's INDEX_MODE; every hashed row lies within the table. -/
def Obligations.IndexValuesSelectRows : Prop :=
  (∀ t v, tIndexMode t = 0 → (v < tRows t → resolveRow t v = some v) ∧ (tRows t ≤ v → resolveRow t v = none)) ∧
  (∀ t v, tIndexMode t = 1 → resolveRow t v = some (v % tRows t)) ∧
  (∀ t v x1 x2 x3 x4, tIndexMode t = 2 → v < 2 ^ 64 → 0 < tRows t →
    x1 = (v ^^^ tSeed t) * 0xD1B54A32D192ED03 % 2 ^ 64 → x2 = x1 ^^^ (x1 >>> 31) →
    x3 = x2 * 0x8CB92BA72F3D8DD7 % 2 ^ 64 → x4 = x3 ^^^ (x3 >>> 29) →
    resolveRow t v = some (x4 * tRows t / 2 ^ 64) ∧ x4 * tRows t / 2 ^ 64 < tRows t)

/-- R361: the slot in force covers the present time, modulo the cycle of 128 slots of 1,000 ns, and only that slot does. -/
def Obligations.SlotsFollowTheTime : Prop :=
  ∀ s slot, slot < 128 → (currentSlot s = slot ↔ 1000 * slot ≤ s.now % 128000 ∧ s.now % 128000 < 1000 * slot + 1000)

/-- R434: when BAR2 is closed, and what each access to it does then. -/
def Obligations.ClosedBar2HasNoEffect : Prop :=
  (∀ s, bar2Closed s = true ↔ ((s.job.sealed_ = true ∧ s.job.state ≠ jobNone) ∨ s.job.state = jobZeroising ∨
    s.security.zeroisePending = true ∨ s.security.zeroiseMirror = true)) ∧
  (∀ read bytes s, bar2Closed s = true → read.offset + bytes ≤ s.hostif.bar2Size →
    ∃ t, exec (.bar2Read read bytes) s = .next t ∧ t.mem = s.mem ∧
      t.hostif = { s.hostif with completions := (read.offset, some (List.replicate bytes 0xFF)) :: s.hostif.completions } ∧
      counter Cnt.bar2Closed t = (counter Cnt.bar2Closed s + 1) % 2 ^ 64) ∧
  (∀ offset bytes s, bar2Closed s = true → offset + bytes.length ≤ s.hostif.bar2Size →
    ∃ t, exec (.bar2Write offset bytes) s = .next t ∧ t.mem = s.mem ∧ t.hostif = s.hostif ∧
      counter Cnt.bar2Closed t = (counter Cnt.bar2Closed s + 1) % 2 ^ 64) ∧
  (∀ offset op width operand compare s, bar2Closed s = true → offset + width ≤ s.hostif.bar2Size →
    ∃ t, exec (.bar2Atomic offset op width operand compare) s = .next t ∧ t.mem = s.mem ∧
      t.hostif.bar2Size = s.hostif.bar2Size ∧
      counter Cnt.bar2Closed t = (counter Cnt.bar2Closed s + 1) % 2 ^ 64) ∧
  (∀ s, s.job.state < 16 → s.dispatch.postilionState < 4 → (hifStatus s / 2 ^ 5 % 2 = 0 ↔ bar2Closed s = true))

/-- KEY_LOAD installs a Lorjo key slot afresh (action 1) or revokes it (action 2) and changes nothing else of the front
end (R44); SVC_ENABLE and a binding's ENABLE take the byte written, and SVC_ENABLE at 1 switches NET on where MAIN is
on (R513). -/
def Obligations.ServiceEntriesTakeTheirValues : Prop :=
  (∀ req value s, Accepted req 0x2000 0x0B value s → leAt value 4 4 = 1 →
    ∃ t, exec (.keyLoad req value) s = .next t ∧
      alGet t.service.keySlots (leAt value 0 4) =
        some { key := BitVec.ofNat 256 (ofLe (slice value 8 32)), highest := none, accepted := [] } ∧
      (∀ id, id ≠ leAt value 0 4 → alGet t.service.keySlots id = alGet s.service.keySlots id) ∧
      t = { s with service := { s.service with keySlots := t.service.keySlots }, security := t.security,
                   waybill := t.waybill, dict := t.dict }) ∧
  (∀ req value s, Accepted req 0x2000 0x0B value s → leAt value 4 4 = 2 →
    ∃ t, exec (.keyLoad req value) s = .next t ∧ alGet t.service.keySlots (leAt value 0 4) = none ∧
      t = { s with service := { s.service with keySlots := t.service.keySlots }, security := t.security,
                   waybill := t.waybill, dict := t.dict }) ∧
  (∀ req value s, Accepted req 0x2000 1 (leBytes 1 value) s →
    ∃ t, exec (.svcEnable req value) s = .next t ∧ ent Ent.svcEnable t = value % 256 ∧
      (value % 256 = 1 → s.power.mainOn = true → t.power.netOn = true) ∧
      t.service.keySlots = s.service.keySlots ∧ t.service.admitted = s.service.admitted ∧ t.mem = s.mem) ∧
  (∀ req binding value s, binding < 16 → Accepted req (0x2010 + binding) 5 (leBytes 1 value) s →
    ∃ t, exec (.bindingEnable req binding value) s = .next t ∧
      ent (Ent.bindingEnable + 256 * binding) t = value % 256 ∧
      t = { s with service := { s.service with bindings := t.service.bindings }, waybill := t.waybill, dict := t.dict })

/-- A KEEPALIVE or PROBE that reaches the service and passes R45 is answered at once, from the address it came to, on the
port it came in on, with an ACK header (KEEPALIVE) or the probe data (PROBE), its frame going to the resolved next hop of the
sender and waiting for it where it is not resolved (R454) or while the operating point moves (R507); no request is admitted and no response
queued. The first segment of a segmented request opens its reassembly; a request that is whole in one segment is served at
once as it stands; a frame that is damaged or a fragment is discarded and counted at its port (R34, R39); a reassembly
that outlives REASSEMBLY_NS ends in a TIMEOUT response with reason 7, or RESTARTED with reason 9 while the job restarts,
at the port of its last segment and under the key it came with (R38, R46, R55, R63). A due exit timer of a request that has no launch fixes exit point 0, and one whose launch runs fixes the last exit
point committed and stops the launch (R52, R54). A port that is up and free sends its earliest response; one that is
down hands it to a port that holds its address (R55, R56); while the operating point moves, none sends (R507). -/
def Obligations.RequestsAreReassembledAndAnswered : Prop :=
  (∀ port src dst datagram frame s h p key i hop m, port < 4 → frameSound src dst datagram frame = true →
    forService port dst s = true → moving s = false → (parseLorjo datagram).typ = 3 →
    acceptLorjo datagram (count Cnt.lorjoRx 1 s) = some (h, p, key) →
    i = ifaceFor port dst s → nextHop i src.v6 src.addr s = some hop → hopMac i src.v6 hop s = some m →
    ∃ t, exec (.keepalive port src dst ⟨datagram, frame⟩) s = .next t ∧
      t.service.sent =
        { link := linkTo i m s, port := port, src := dst, dst := src, dscp := ent Ent.respDscp s,
          bytes := sealLorjo (respHdr h 4 0 0 0) key [], at_ := s.now } :: s.service.sent ∧
      t.service.ready = s.service.ready ∧ t.service.admitted = s.service.admitted ∧
      counter Cnt.lorjoRx t = (counter Cnt.lorjoRx s + 1) % 2 ^ 64) ∧
  (∀ port src dst datagram frame s h p key i hop m, port < 4 → frameSound src dst datagram frame = true →
    forService port dst s = true → moving s = false → (parseLorjo datagram).typ = 5 →
    acceptLorjo datagram (count Cnt.lorjoRx 1 s) = some (h, p, key) →
    i = ifaceFor port dst s → nextHop i src.v6 src.addr s = some hop → hopMac i src.v6 hop s = some m →
    (h.secure = true ∨ ent Ent.requireSecure s ≠ 1) →
    ∃ t, exec (.probe port src dst ⟨datagram, frame⟩) s = .next t ∧
      t.service.sent =
        { link := linkTo i m s, port := port, src := dst, dst := src, dscp := ent Ent.respDscp s,
          bytes := sealLorjo (respHdr h 6 0 0 0) key (probeData (noteAccepted h (count Cnt.lorjoRx 1 s))), at_ := s.now }
        :: s.service.sent ∧
      t.service.ready = s.service.ready ∧ t.service.admitted = s.service.admitted) ∧
  (∀ port src dst datagram frame s h p key, port < 4 → frameSound src dst datagram frame = true →
    forService port dst s = true → (parseLorjo datagram).typ = 1 →
    acceptLorjo datagram (count Cnt.lorjoRx 1 s) = some (h, p, key) →
    s.service.reassembly = [] → datagram.length ≤ 8944 → p.length = h.segLen → p.length ≤ 131072 →
    h.segNo ≤ h.segLast → 0 < h.segLast → h.ver ≠ 1 →
    ∃ t, exec (.lorjoSegmentRx port src dst ⟨datagram, frame⟩) s = .next t ∧
      t = count Cnt.lorjoRx 1 { s with service := { s.service with
        reassembly := [{ src := src, dst := dst, port := port, key := key, hdr := h, startedAt := s.now, segs := [(h.segNo, p)],
                         maxSeg := datagram.length, malformed := false }] } }) ∧
  (∀ port src dst datagram frame s h p key, port < 4 → frameSound src dst datagram frame = true →
    forService port dst s = true → (parseLorjo datagram).typ = 1 →
    acceptLorjo datagram (count Cnt.lorjoRx 1 s) = some (h, p, key) →
    s.service.reassembly = [] → datagram.length ≤ 8944 → p.length = h.segLen → p.length ≤ 131072 →
    h.segNo = 0 → h.segLast = 0 →
    exec (.lorjoSegmentRx port src dst ⟨datagram, frame⟩) s =
      .next (serveRequest (draftRequest port src dst h p datagram.length key (count Cnt.lorjoRx 1 s))
        (noteAccepted h (count Cnt.lorjoRx 1 s)))) ∧
  (∀ port src dst datagram frame s, port < 4 → frameSound src dst datagram frame = false → portUp port s = true →
    exec (.lorjoSegmentRx port src dst ⟨datagram, frame⟩) s = .next { s with service := { s.service with
      portDiscards := updAt s.service.portDiscards port (· + 1) } }) ∧
  (∀ src requestId s r cut, s.service.reassembly.find? (sameRequest src requestId.toNat) = some r →
    r.startedAt + ent Ent.reassemblyNs s ≤ s.now → r.malformed = false → wholeRequest r = false →
    (cut = true ↔ r.hdr.typ = 1 ∧ s.job.state = jobRestarting) →
    ∃ t, exec (.reassemblyTimeout src requestId) s = .next t ∧ t.service.reassembly = s.service.reassembly.erase r ∧
      (∃ a, t.service.ready = s.service.ready ++ [a] ∧ a.hdr.status = (if cut = true then 4 else 5) ∧
        a.hdr.reason = (if cut = true then 9 else 7) ∧ a.payload = [] ∧ a.key = r.key ∧ a.port = r.port ∧
        a.src = r.src ∧ a.dst = r.dst) ∧
      counter Cnt.refused t = (counter Cnt.refused s + 1) % 2 ^ 64) ∧
  (∀ request s a e, s.service.admitted.find? (fun a => a.seq == request) = some a → a.exitAt = some e → e ≤ s.now →
    a.exitChosen = none → s.service.ready.any (fun r => r.request == some request) = false → a.launch = none →
    exec (.exitTimer request) s = .next (exitBeforeLaunch a s)) ∧
  (∀ request s a e k l, s.service.admitted.find? (fun a => a.seq == request) = some a → a.exitAt = some e → e ≤ s.now →
    a.exitChosen = none → s.service.ready.any (fun r => r.request == some request) = false → a.launch = some k → launchOf k s = some l → launchDone l = false →
    exec (.exitTimer request) s =
      .next (stopLaunch l.id (updAdmitted request (fun a => { a with exitChosen := some (committedExit l s) }) s))) ∧
  (∀ port s r, port < 4 → nextResp port s = some r → moving s = false → portUp port s = true → s.service.portFreeAt.getD port 0 ≤ s.now →
    exec (.responseTransmit port) s =
      .next (sendResp port r { s with service := { s.service with ready := s.service.ready.erase r } })) ∧
  (∀ port s r, port < 4 → nextResp port s = some r → moving s = true → exec (.responseTransmit port) s = .next s) ∧
  (∀ port s r n, port < 4 → nextResp port s = some r → moving s = false → portUp port s = false →
    (List.range 4).find? (fun n => portUp n s &&
      (List.range 4).any (fun k => s.fabric.ifUp.contains (4 * n + k) && ifaceHolds (4 * n + k) r.dst s)) = some n →
    ∃ t, exec (.responseTransmit port) s = .next t ∧
      t = { s with service := { s.service with ready := s.service.ready.erase r ++ [{ r with port := n }] } }) ∧
  (∀ typ port src dst datagram frame s h p key, port < 4 → frameSound src dst datagram frame = true →
    forService port dst s = true → (parseLorjo datagram).typ = typ →
    acceptLorjo datagram (count Cnt.lorjoRx 1 s) = some (h, p, key) →
    (typ = 3 → exec (.keepalive port src dst ⟨datagram, frame⟩) s =
      .next (sendFrom port dst src [sealLorjo (respHdr h 4 0 0 0) key []] (noteAccepted h (count Cnt.lorjoRx 1 s)))) ∧
    (typ = 5 → (h.secure = true ∨ ent Ent.requireSecure s ≠ 1) → exec (.probe port src dst ⟨datagram, frame⟩) s =
      .next (sendFrom port dst src [sealLorjo (respHdr h 6 0 0 0) key
        (probeData (noteAccepted h (count Cnt.lorjoRx 1 s)))] (noteAccepted h (count Cnt.lorjoRx 1 s)))))

/-- An accepted TABLE_DEFINE of a free TABLE_ID whose descriptor is sound and whose storage is found enters the table
with its M fields filled and ends DONE; one in the cold tier waits, RUNNING, where COLD is off or still trains, which it has
switched on (R29, R513); an accepted TABLE_DELETE of a defined table marks it and stays RUNNING until,
with no descriptor in flight naming the table, its storage is dropped and the entry ends DONE (R71 to R74, R102). -/
def Obligations.TablesAreDefinedAndDeleted : Prop :=
  (∀ req desc s rb sb n s', Accepted req 0x2100 0x03 (leBytes 64 desc.toNat) s →
    tableOf (df desc 0 63 52) s = none → tableBad desc = false → (tCached desc = true → s.lookup.rowCacheGb ≠ 0) →
    allocTable (df desc 0 63 52) desc (actionStart req 0x2100 0x03 s) = some ((rb, sb, n), s') →
    (tCold desc = true → tRemote desc = false → coldUp s = true) →
    ∃ t, exec (.tableDefine req desc) s = .next t ∧
      t = endCmd Ent.tableDefine 0 0 (measureBytes 8 8 (leBytes 64 desc.toNat) { s' with lookup := { s'.lookup with
        tables := alSet s'.lookup.tables (df desc 0 63 52)
          { desc := fillTable desc rb sb n, deleting := false, context := classNum (classOf req) } } }) ∧
      tableOf (df desc 0 63 52) t = some (fillTable desc rb sb n)) ∧
  (∀ req desc s p, Accepted req 0x2100 0x03 (leBytes 64 desc.toNat) s →
    tableOf (df desc 0 63 52) s = none → tableBad desc = false → (tCached desc = true → s.lookup.rowCacheGb ≠ 0) →
    allocTable (df desc 0 63 52) desc (actionStart req 0x2100 0x03 s) = some p →
    tCold desc = true → tRemote desc = false → coldUp s = false →
    ∃ t, exec (.tableDefine req desc) s = .next t ∧ Runs Ent.tableDefine req s t ∧ t.lookup = s.lookup ∧
      t.power = { (switchColdOn s).power with
        coldWaits := s.power.coldWaits ++ [(req, Ent.tableDefine, leBytes 64 desc.toNat)] }) ∧
  (∀ req tableId s x, tableId < 65536 → Accepted req 0x2100 0x04 (leBytes 2 tableId) s →
    alGet s.lookup.tables tableId = some x →
    ∃ t, exec (.tableDelete req tableId) s = .next t ∧ Runs Ent.tableDelete req s t ∧
      t = { s with dict := t.dict, lookup := { s.lookup with
        tables := alSet s.lookup.tables tableId { x with deleting := true } } }) ∧
  (∀ tableId s x, alGet s.lookup.tables tableId = some x → x.deleting = true → tableInUse tableId s = false →
    ∃ t, exec (.tableDeleteComplete tableId) s = .next t ∧ t = endCmd Ent.tableDelete 0 0 (dropTable tableId s) ∧
      alGet t.lookup.tables tableId = none)

/-- A LOOKUP descriptor whose turn it is on its core and that passes its decode check, with its lists readable, leaves the
issued descriptors and starts; a later one stays issued (R261); a lane serves the first entry of its sub-list whose row
is readable, one symbol in error in any codeword of its slot, scale record or cache tags being corrected and counted on the
way, and two or three a job fault in place of the row (R95, R383); a stack whose lanes have all served returns one
partial for each bag; a bag all of whose partials have arrived is written where its core's group is on, and the bags that are next in order are
released; the groups of an owner silent for REMOTE_TIMEOUT_NS are settled as timed out (R83 to R91, R98). -/
def Obligations.LookupsRunToTheirBags : Prop :=
  (∀ core desc org s t0, core < 98 → inTurn core desc org s = true → (matOf core s).failed = false →
    lookupFieldsOk desc = true → lookupLists desc s = .ok → agentWaits (drayAgent core) s = false → tablesDefined desc s = true →
    tableOf (shapeTable desc s) s = some t0 → lookupPlacesOk core desc t0 org s = true →
    exec (.lookup core desc org) s =
      .next (startLookup core desc (issuedOrigin core desc org s) t0 (takeIssued core desc org s))) ∧
  (∀ core desc org s, core < 98 → inTurn core desc org s = false →
    exec (.lookup core desc org) s = .next (holdIssued core desc org s)) ∧
  (∀ lookup lane s j e t0, lookupOf lookup s = some j →
    (j.parked ++ j.toServe).find? (fun e => e.lane == lane) = some e → tableOf e.table s = some t0 →
    rowCheck t0 e.row s = .ok →
    exec (.laneServe lookup { lane := lane }) s = .next (serveEntry j e t0 s)) ∧
  (∀ lookup lane s j e t0 k v m, lookupOf lookup s = some j →
    (j.parked ++ j.toServe).find? (fun e => e.lane == lane) = some e → tableOf e.table s = some t0 →
    rowCheck t0 e.row s = .ok → v = ensureFrame (laneWord e t0 s k / 4096) s → mpaOf (laneWord e t0 s k) v = some m →
    exec (.laneServe lookup ⟨lane, [(k, 1)]⟩) s = .next (serveEntry j e t0 (correctedError 0 m 1 v))) ∧
  (∀ lookup lane symbols s j e t0 k v m, lookupOf lookup s = some j →
    (j.parked ++ j.toServe).find? (fun e => e.lane == lane) = some e → tableOf e.table s = some t0 →
    rowCheck t0 e.row s = .ok → v = ensureFrame (laneWord e t0 s k / 4096) s → mpaOf (laneWord e t0 s k) v = some m →
    2 ≤ symbols → symbols ≤ 3 →
    exec (.laneServe lookup ⟨lane, [(k, symbols)]⟩) s = .next (uncorrectableError 0 m v)) ∧
  (∀ lookup stack s j, lookupOf lookup s = some j → (j.toServe ++ j.parked).all (fun e => e.lane / 32 != stack) = true →
    (j.lanePartials.filter (fun p => p.source / 32 == stack)) ≠ [] →
    ∃ t, exec (.stackReduce lookup stack) s = .next t ∧ t.free = s.free + 1 ∧
      t = { s with free := s.free + 1, lookup := { s.lookup with
        jobs := updFirst (fun x => x.id == lookup) (fun x => { x with
          lanePartials := x.lanePartials.filter (fun p => p.source / 32 != stack),
          stackPartials := x.stackPartials ++ ((j.lanePartials.filter (fun p => p.source / 32 == stack)).map (·.bag)).eraseDups.filterMap
            (fun b => combine (lMode x.desc) stack b s.free
              ((j.lanePartials.filter (fun p => p.source / 32 == stack)).filter (fun p => p.bag == b))) }) s.lookup.jobs } }) ∧
  (∀ lookup bag s j t0, lookupOf lookup s = some j → bagReady j bag = true → j.serves = none →
    coreOn j.core s = true → tableOf j.shapeTable s = some t0 →
    exec (.bagCombine lookup bag) s = .next (releaseBags (lBags j.desc) lookup
      (updLookup lookup (fun j => { j with written := bag :: j.written }) (writeBag j bag s.free t0 (drawFree s))))) ∧
  (∀ lookup owner s j g u, lookupOf lookup s = some j → j.remote = [g] → g.owner = owner → g.settled = false →
    g.sentAt = some u → u + ent Ent.remoteTimeoutNs s ≤ s.now →
    ∃ t, exec (.remoteTimeout lookup owner) s = .next t ∧ t = settleGroup98 lookup 0 true s ∧
      counter Cnt.remoteTimeouts t = (counter Cnt.remoteTimeouts s + 1) % 2 ^ 64) ∧
  (∀ lookup owner s j late, lookupOf lookup s = some j →
    late = (List.range j.remote.length).filter (fun k => (j.remote[k]?).any (fun g => g.owner == owner && !g.settled &&
      g.sentAt.any (fun u => decide (u + ent Ent.remoteTimeoutNs s ≤ s.now)))) →
    exec (.remoteTimeout lookup owner) s = .next (late.foldl (fun s k => settleGroup98 lookup k true s) s))

/-- A write descriptor whose turn it is on its core and that passes the decode check of R109 leaves the issued descriptors,
takes the next number in the splitter and, not being speculative, starts there (R109, R127); one that had waited for
its lists goes on under the number it had (R111). At its home lane a row goes its way in order: a batched row that no
earlier descriptor of its issuer is before is staged or deferred, a deferred one is tried again, rows deferred for
DEFER_LIMIT_NS end the write DEFERRED, or DENIED where their batch accepts no more, an immediate row of an unversioned
table is stored whole, and one of a versioned table chunk by chunk, with no other write or copy of several chunks
between at its lane (R111 to R117). -/
def Obligations.WriteDescriptorsReachTheirRows : Prop :=
  (∀ core desc org s org0 u op i, core < 98 → inTurn core desc org s = true → (matOf core s).failed = false →
    wOpcode desc = op → org0 = issuedOrigin core desc org s → u = takeIssued core desc org s →
    writeOk core desc org0 u = true → stalledWrite core desc org0 u = none →
    (op = 0x25 → writesAhead core u.updates.nextId org0 (fun r => r.deferredAt.isNone) u = false) →
    ((op = 0x22 ∧ i = .rowWrite core desc org) ∨ (op = 0x23 ∧ i = .batchOpen core desc org) ∨
     (op = 0x24 ∧ i = .batchCommit core desc org) ∨ (op = 0x25 ∧ i = .batchAbort core desc org)) →
    ∃ v, v = { u with updates := { s.updates with
        nextId := s.updates.nextId + 1, jobs := s.updates.jobs ++ [newWrite core desc org0 s] } } ∧
      exec i s = .next (if wSpec desc = 0 then startWrite s.updates.nextId v else v)) ∧
  (∀ core desc org s org0 u j, core < 98 → inTurn core desc org s = true → (matOf core s).failed = false →
    wOpcode desc = 0x22 → org0 = issuedOrigin core desc org s → u = takeIssued core desc org s →
    writeOk core desc org0 u = true → stalledWrite core desc org0 u = some j →
    exec (.rowWrite core desc org) s = .next (startWrite j.id u)) ∧
  (∀ write lane s j r t0, writeOf write s = some j → rowAt j lane = some r → tableOf (wTable j.desc) s = some t0 →
    wBatch j.desc = 0 → earlierAtLane j lane s = false → writeUnderway lane (some write) s = false →
    (r.chunks = 0 → copyUnderway lane s = false) → tVersioned t0 = false →
    ∃ w u, w = (if tCold t0 = true then touchCold s else s) ∧
      u = storeRow t0 r.row 0 r.data (if r.chunks = 0 then settleCopy r.table r.row t0 w else w) ∧
      exec (.immediateWriteChunk write lane) s =
        .next (rowDone write r (fun j => { j with applied := j.applied + 1 }) (count Cnt.immediateRows 1 { u with
          updates := { u.updates with cutRows := u.updates.cutRows.filter (fun c => c != (r.table, r.row)) } }))) ∧
  (∀ write lane s j r t0, writeOf write s = some j → rowAt j lane = some r → tableOf (wTable j.desc) s = some t0 →
    wBatch j.desc = 0 → earlierAtLane j lane s = false → writeUnderway lane (some write) s = false →
    r.chunks ≠ 0 → tVersioned t0 = true → r.chunks + 1 ≠ rowChunks t0 →
    ∃ w, w = (if tCold t0 = true then touchCold s else s) ∧
      exec (.immediateWriteChunk write lane) s =
        .next (updWrite write (fun j => { j with
          rows := updFirst (fun x => x.pos == r.pos) (fun x => { x with chunks := r.chunks + 1, word := r.word }) j.rows })
          (storeChunk t0 r.row r.chunks r.word r.data w))) ∧
  (∀ write lane s j r, writeOf write s = some j → j.rows.find? (fun r => r.lane == lane && r.deferredAt.isNone) = some r →
    wBatch j.desc ≠ 0 → earlierMoving j lane s = false →
    exec (.rowStage write lane) s = .next (stageAt j r s)) ∧
  (∀ write lane s j r, writeOf write s = some j → j.rows.find? (fun r => r.lane == lane && r.deferredAt.isSome) = some r →
    exec (.deferredRowRetry write lane) s = .next (stageAt j r s)) ∧
  (∀ write s j n, writeOf write s = some j →
    n = j.rows.countP (fun r => r.deferredAt.any (fun u => decide (u + ent Ent.deferLimitNs s ≤ s.now))) → n ≠ 0 →
    batchStill j s = true →
    exec (.deferLimitExpiry write) s =
      .next (settleWrite write (count Cnt.deferredRows n (updWrite write (fun x => joinStatus 1 wrNoSpace { x with
        rows := x.rows.filter (fun r => !r.deferredAt.any (fun u => decide (u + ent Ent.deferLimitNs s ≤ s.now))),
        deferred := x.deferred + n }) s)))) ∧
  (∀ write s j, writeOf write s = some j → batchStill j s = false →
    j.rows.any (fun r => r.deferredAt.any (fun u => decide (u + ent Ent.deferLimitNs s ≤ s.now))) = true →
    exec (.deferLimitExpiry write) s =
      .next (settleWrite write (updWrite write (fun x => joinStatus 6 wrNotOpen { x with
        rows := x.rows.filter (fun r => !r.deferredAt.any (fun u => decide (u + ent Ent.deferLimitNs s ≤ s.now))) }) s)))

/-- A BATCH_COMMIT goes on once it is first in order, no reader of the epoch before the current one is left and no row that its
issuer sent before it is still moving (R111): where the
batch that took it is open and the declared count is that of the rows staged here and confirmed by owners, the batch
is published and every owner is asked to commit, with another count it ends DENIED with COUNT_MISMATCH, and with no
batch open under its number DENIED with NOT_OPEN (R117, R118). A publication moves the epoch on by one; one with no row
staged here moves no byte. A commit that readers still hold up beyond COMMIT_WAIT_NS ends TIMEOUT, as does the wait for an
owner beyond REMOTE_COMMIT_NS (R118, R131). The background copy stores the lane's next committed row, a row of several
chunks chunk by chunk with the former content kept while it has readers (R120, R123); with an epoch's readers gone the
rows that replaced its content keep no former content, and no other row changes (R123). -/
def Obligations.CommitsPublishOrTimeOut : Prop :=
  (∀ write s j b n rows, writeOf write s = some j → j.waiting = true → commitBefore write s = false →
    readersOf (s.updates.epoch - 1) s = 0 → n = wBatch j.desc → writesAhead j.core j.id j.org (fun r => r.deferredAt.isNone) s = false →
    batchOf n s = some b → b.accepting = true →
    b.opening = j.opening → (j.cls = .B ∨ j.cls = b.cls) →
    rows = stagedCount n s + (b.owners.map (·.2)).foldl (· + ·) 0 → rows = dword j.desc 1 % 2 ^ 32 →
    ∃ u v, u = publishBatch n (updBatch n (fun b => { b with accepting := false }) s) ∧
      v = updWrite write (fun x => { x with
        waiting := false, published := some (u.updates.epoch, rows, u.now), owners := b.owners.map (·.1) }) u ∧
      exec (.batchCommitProper write) s = .next (settleCommit write
        (b.owners.foldl (fun s o => fabPost o.1 7 n 0 (leBytes 4 o.2) 0 (.batchCommit write o.1) s) v))) ∧
  (∀ write s j b n, writeOf write s = some j → j.waiting = true → commitBefore write s = false →
    readersOf (s.updates.epoch - 1) s = 0 → n = wBatch j.desc → writesAhead j.core j.id j.org (fun r => r.deferredAt.isNone) s = false →
    batchOf n s = some b → b.accepting = true →
    b.opening = j.opening → (j.cls = .B ∨ j.cls = b.cls) →
    stagedCount n s + (b.owners.map (·.2)).foldl (· + ·) 0 ≠ dword j.desc 1 % 2 ^ 32 →
    exec (.batchCommitProper write) s = .next (endWriteWith write 6 wrCountMismatch s)) ∧
  (∀ write s j, writeOf write s = some j → j.waiting = true → commitBefore write s = false →
    readersOf (s.updates.epoch - 1) s = 0 → writesAhead j.core j.id j.org (fun r => r.deferredAt.isNone) s = false →
    batchOf (wBatch j.desc) s = none →
    exec (.batchCommitProper write) s = .next (endWriteWith write 6 wrNotOpen s)) ∧
  (∀ batch s, (∀ r ∈ s.updates.staged, r.batch ≠ batch) →
    (publishBatch batch s).updates.epoch = s.updates.epoch + 1 ∧ (publishBatch batch s).mem = s.mem ∧
      (publishBatch batch s).lookup = s.lookup) ∧
  (∀ write s j, writeOf write s = some j → j.waiting = true → j.waitFrom + ent Ent.commitWaitNs s < s.now →
    exec (.commitWaitTimeout write) s =
      .next (if readersOf (s.updates.epoch - 1) s = 0 then s else endWriteWith write 5 wrReadersRemain s)) ∧
  (∀ write owner s j e n u, writeOf write s = some j → j.published = some (e, n, u) → j.owners.contains owner = true →
    u + ent Ent.remoteCommitNs s ≤ s.now →
    exec (.remoteCommitTimeout write owner) s = .next (ownerCommitted write owner 5 wrOwnerTimeout s)) ∧
  (∀ lane s c t0, nextCopy lane s = some c → writeUnderway lane none s = false → tableOf c.table s = some t0 →
    (tVersioned t0 = false ∨ rowChunks t0 ≤ c.chunks + 1) →
    exec (.backgroundCopy lane) s = .next (finishCopy c t0 s)) ∧
  (∀ lane s c t0 word w u, nextCopy lane s = some c → writeUnderway lane none s = false → tableOf c.table s = some t0 →
    tVersioned t0 = true → c.chunks + 1 < rowChunks t0 →
    word = (if c.chunks = 0 then nextWord (slotRow t0 c.row s).version else (slotRow t0 c.row s).version) →
    w = (if tCold t0 = true then touchCold s else s) → u = storeChunk t0 c.row c.chunks word c.data w →
    exec (.backgroundCopy lane) s = .next { u with updates := { u.updates with
      committed := updFirst (fun x => x == c) (fun x => { x with
        chunks := c.chunks + 1,
        preImage := x.preImage.orElse (fun _ =>
          if readersOf (c.epoch - 1) s = 0 then none else some (asRecord (slotRow t0 c.row s))) }) u.updates.committed } }) ∧
  (∀ epoch s, epoch < s.updates.epoch → readersOf epoch s = 0 →
    ∃ t, exec (.preimageFree epoch) s = .next t ∧ (∀ c ∈ t.updates.committed, c.epoch = epoch + 1 → c.preImage = none) ∧
      (∀ c ∈ s.updates.committed, c.epoch ≠ epoch + 1 → c ∈ t.updates.committed) ∧
      (∀ c ∈ s.updates.committed, c.epoch = epoch + 1 → c.copied = false →
        ({ c with preImage := none } : CommittedRow) ∈ t.updates.committed) ∧
      t = { s with updates := { s.updates with committed := t.updates.committed } })

/-- VSETL sets VFMT to its format and VL to the lesser of rs1 and VLMAX (VLMAX where rs1 is x0), and writes VL to rd;
VRED writes its fold, or THRESH the top-k threshold, to a summary slot (R216, R223). x0 as rd discards the value.
VTOPK: SET empties the unit and sets k and the floor; INSERT offers the active elements with their positions, those beyond a
register of the Bivouac being free values (log 182); STORE
stores the entries at rs1 and writes their number to rd; FLOOR raises the floor and never lowers it (R220, R221). -/
def Obligations.VectorSettingsReductionsAndTopK : Prop :=
  (∀ core word s, MayRunVector core s → iOp word = 0x0B → iF3 word = 0 → iF7 word / 16 = 0 → iRs2 word = 0 →
    fmtOk (iF7 word % 16) = true →
    ∃ vl, vl = (if iRs1 word = 0 then vlMax core (iF7 word % 16)
        else Nat.min (xr core (iRs1 word) s).toNat (vlMax core (iF7 word % 16))) ∧
      exec (.vsetl core word) s = .next (retiredVector core (setX core (iRd word) (BitVec.ofNat 64 vl)
        (updVec core (fun k => { k with vl := vl, vfmt := iF7 word % 16 }) s)))) ∧
  (∀ core word s, MayRunVector core s → iOp word = 0x0B → iF3 word = 6 → iRd word < 8 → iF7 word / 2 ≤ 5 →
    (iF7 word / 2 = 4 ∨ iRs2 word = 0) →
    exec (.vred core word) s = .next (retiredVector core (setSlot core (iRd word)
      (reduce (iF7 word / 2) (vecOf core s).vfmt (vecOf core s).vl
        ((xr core (iRs2 word) s).toNat % 2 ^ fmtBits (vecOf core s).vfmt)
        ((active core (iVm word) s).map (fun e => (e, vElem (fmtBits (vecOf core s).vfmt) e (vr core (iRs1 word) s))))) s))) ∧
  (∀ core word s, MayRunVector core s → iOp word = 0x0B → iF3 word = 6 → iRd word < 8 → iF7 word / 2 = 8 →
    iRs1 word = 0 → iRs2 word = 0 →
    exec (.vred core word) s =
      .next (retiredVector core (setSlot core (iRd word) (topkThresh (vecOf core s).topk) s))) ∧
  (∀ core word s, MayRunVector core s → topkIs word 1 = true → iVm word = false → (xr core (iRs1 word) s).toNat ≠ 0 →
    (xr core (iRs1 word) s).toNat ≤ 512 →
    exec (.vtopkSet core word) s = .next (retiredVector core (updVec core (fun x => { x with
      topk := { isSet := true, k := (xr core (iRs1 word) s).toNat,
                floor := if iRs2 word = 0 then negInf32 else BitVec.ofNat 32 (xr core (iRs2 word) s).toNat,
                entries := [] } }) s))) ∧
  (∀ core word s, MayRunVector core s → topkIs word 0 = true → (vecOf core s).vl ≤ 128 → (vecOf core s).topk.isSet = true →
    exec (.vtopkInsert core word) s = .next (retiredVector core (offer core
      ((active core (iVm word) s).map (fun e => (BitVec.ofNat 32 (vElem 32 e (wideVr core (iRs1 word) 0 s)),
        BitVec.ofNat 32 (vElem 32 e (wideVr core (iRs2 word) 1 s)))))
      (if core < 96 then s else drawFree (drawFree s))))) ∧
  (∀ core word s, MayRunVector core s → topkIs word 2 = true → iVm word = false → iRs2 word = 0 →
    inPart (taskPart core s) (xr core (iRs1 word) s).toNat (8 * (vecOf core s).topk.entries.length) = true →
    exec (.vtopkStore core word) s = .next (retiredVector core (setX core (iRd word)
      (BitVec.ofNat 64 (vecOf core s).topk.entries.length)
      (taskStore core [((xr core (iRs1 word) s).toNat, topkBytes (vecOf core s).topk.entries)] s)))) ∧
  (∀ core word s, MayRunVector core s → topkIs word 3 = true → iVm word = false → iRs2 word = 0 →
    exec (.vtopkFloor core word) s = .next (retiredVector core (updVec core (fun x => { x with
      topk := if flt (val32 x.topk.floor) (val32 (BitVec.ofNat 32 (xr core (iRs1 word) s).toNat)) then
        { x.topk with floor := BitVec.ofNat 32 (xr core (iRs1 word) s).toNat } else x.topk }) s))) ∧
  (∀ core n k s e, core < 96 ∨ e < 32 → vElem 32 e (wideVr core n k s) = vElem 32 e (vr core n s))

/-- VLD reads each active element from the task's partition into vd; VST stores each active element there; an element
that vm masks keeps its old value (R217). What the accesses meet in the SRAM, errors and waits that the spec leaves open
(logs 48 and 165), changes no vector register and no byte of memory. -/
def Obligations.VectorLoadsAndStores : Prop :=
  (∀ core word s, MayRunVector core s → iOp word = 0x0B → iF3 word = 1 → bitOf word.toNat 31 = false →
    vMemOk word = true →
    (active core (iVm word) s).all (fun e => inPart (taskPart core s) (vAddr core word e s) (vBytes core s)) = true →
    exec (.vld core word) s = .next (retiredVector core (vecSramWait core (sramErrors core (setV core (iRd word)
      (vPuts (fmtBits (vecOf core s).vfmt)
        ((active core (iVm word) s).map (fun e =>
          (e, ofLe (sramRead core (vAddr core word e s) (vBytes core s) s) / 16 ^ vHalf core word e s)))
        (vr core (iRd word) s)) s))))) ∧
  (∀ core word s, MayRunVector core s → iOp word = 0x0B → iF3 word = 1 → bitOf word.toNat 31 = true →
    vMemOk word = true →
    (active core (iVm word) s).all (fun e => inPart (taskPart core s) (vAddr core word e s) (vBytes core s)) = true →
    exec (.vst core word) s = .next (retiredVector core (vecSramWait core (taskStore core (vstWrites core word s) s)))) ∧
  (∀ core s, (vecSramWait core s).vector = s.vector ∧ (vecSramWait core s).mem = s.mem ∧
    (sramErrors core s).vector = s.vector ∧ (sramErrors core s).mem = s.mem)

/-- VOP.VV and VOP.VX combine the active elements of vs1 with those of vs2 or with the integer register rs2, VUN maps
those of vs1, and VCVT converts VL elements into the format of VFMT, with rs2 as the divisor where it is not x0, or
into MX blocks with their scales in vd + 1; a comparison of VOP writes mask bits (R212, R213, R218, R219). Behind a
vector tensor descriptor an instruction joins the vector queue with its operands, and the core goes on (R205,
R226). -/
def Obligations.VectorArithmeticWritesItsRegister : Prop :=
  (∀ core word s vx i op c b l, MayRunVector core s → iOp word = 0x0B →
    ((iF3 word = 2 ∧ vx = false ∧ i = .vopVv core word ∧ b = fun e => vElem (fmtBits c) e (vr core (iRs2 word) s)) ∨
     (iF3 word = 3 ∧ vx = true ∧ i = .vopVx core word ∧ b = fun _ => (xr core (iRs2 word) s).toNat % 2 ^ fmtBits c)) →
    op = iF7 word / 2 → c = (vecOf core s).vfmt → vopOk op c vx = true →
    (op = 0x18 ∨ op = 0x19 → iRs1 word = 0) →
    l = (active core (iVm word) s).map (fun e => (e, vopElem op c (vElem (fmtBits c) e (vr core (iRs1 word) s)) (b e)
      (vElem (fmtBits c) e (vr core (iRd word) s)) e ((vr core 0 s).getLsbD e))) →
    exec i s = .next (retiredVector core (setV core (iRd word)
      (if isCompare op = true then putBits l (vecOf core s).vl (vr core (iRd word) s)
       else vPuts (fmtBits c) l (vr core (iRd word) s)) s))) ∧
  (∀ core word s, MayRunVector core s → iOp word = 0x0B → iF3 word = 5 → iRs2 word = 0 →
    vunOk (iF7 word / 2) (vecOf core s).vfmt = true →
    exec (.vun core word) s = .next (retiredVector core (setV core (iRd word)
      (vPuts (fmtBits (vecOf core s).vfmt) ((active core (iVm word) s).map (fun e =>
        (e, vunElem (iF7 word / 2) (vecOf core s).vfmt (vElem (fmtBits (vecOf core s).vfmt) e (vr core (iRs1 word) s)))))
        (vr core (iRd word) s)) s))) ∧
  (∀ core word s divisor cs, MayRunVector core s → iOp word = 0x0B → iF3 word = 4 → vcvtOk core word s = true →
    bitOf (iF7 word) 4 = false →
    divisor = (if iRs2 word = 0 then none else some (BitVec.ofNat 32 (xr core (iRs2 word) s).toNat)) →
    cs = ((List.range (vecOf core s).vl).map (fun e => groupElem core (iF7 word % 16) (iRs1 word) e s)).map
      (convElem (iF7 word % 16) (vecOf core s).vfmt divisor) →
    exec (.vcvt core word) s = .next (retiredVector core (countTask core cs (setV core (iRd word)
      (vPuts (fmtBits (vecOf core s).vfmt) ((cs.map (·.code)).zipIdx.map (fun p => (p.2, p.1))) (vr core (iRd word) s)) s)))) ∧
  (∀ core word s vs bs, MayRunVector core s → iOp word = 0x0B → iF3 word = 4 → vcvtOk core word s = true →
    bitOf (iF7 word) 4 = true → iRs2 word = 0 →
    vs = ((List.range (vecOf core s).vl).map (fun e => groupElem core (iF7 word % 16) (iRs1 word) e s)).map
      (decElem (iF7 word % 16)) →
    bs = (blocks32 vs).map (mxBlock (vecOf core s).vfmt) →
    ∃ u, u = setV core (iRd word) (vPuts (fmtBits (vecOf core s).vfmt)
        (((bs.flatMap (·.2)).map (·.code)).zipIdx.map (fun p => (p.2, p.1))) (vr core (iRd word) s)) s ∧
      exec (.vcvt core word) s = .next (retiredVector core (countTask core (bs.flatMap (·.2)) (setV core (iRd word + 1)
        (vPuts 8 ((bs.map (·.1)).zipIdx.map (fun p => (p.2, p.1))) (vr core (iRd word + 1) u)) u)))) ∧
  (∀ core word s q, MayRun core s → awaitsCount core word s = false → (vecOf core s).vqueue = q → q ≠ [] → q.length < 16 → iOp word = 0x0B →
    iF3 word = 5 → iRs2 word = 0 → vunOk (iF7 word / 2) (vecOf core s).vfmt = true →
    exec (.vun core word) s = .next (retired core (updVec core (fun k => { k with vqueue := k.vqueue ++ [.instr
      { word := word, pc := (ctlOf core s).pc, a := xr core (iRs1 word) s, b := xr core (iRs2 word) s,
        vl := (vecOf core s).vl, vfmt := (vecOf core s).vfmt }] }) s)))

/-- SMRD reads a summary slot that no queued VRED writes into rd; SFOP writes its scalar result to rd; an EFENCE whose named
classes are quiet only advances; RESOLVE and HSIG of a task that is not speculative, with none held before them, are delivered at once, and
those of a speculative task are held behind the earlier ones, HSIG after every vector store before it (R214, R222, R223, R237,
R239). Each of the custom-1 instructions waits, its core stalled, for the count of a VTOPK STORE that it names (log 165). -/
def Obligations.ControlInstructionsTakeEffect : Prop :=
  (∀ core word s, MayRun core s → awaitsCount core word s = false → iOp word = 0x2B → iF3 word = 2 → iF7 word = 0 → iRs2 word = 0 → iRs1 word < 8 →
    (vecOf core s).vqueue.any (reducesTo (iRs1 word)) = false →
    exec (.smrd core word) s =
      .next (retired core (setX core (iRd word) ((vecOf core s).slots.getD (iRs1 word) 0) s))) ∧
  (∀ core word s v, MayRun core s → awaitsCount core word s = false → iOp word = 0x2B → iF3 word = 5 → (iF7 word < 8 ∨ iRs2 word = 0) →
    sfopValue (iF7 word) (xr core (iRs1 word) s) (xr core (iRs2 word) s) = some v →
    exec (.sfop core word) s = .next (retired core (setX core (iRd word) v s))) ∧
  (∀ core word s, MayRun core s → awaitsCount core word s = false → iOp word = 0x2B → iF3 word = 1 → iF7 word / 16 = 0 → iRd word = 0 →
    iRs1 word = 0 → iRs2 word = 0 → (bitOf (iF7 word) 0 = true → (vecOf core s).vqueue = []) →
    (bitOf (iF7 word) 3 = true → (vecOf core s).vqueue.any isTopk = false) →
    (bitOf (iF7 word) 1 = true → matrixQuiet core s = true) → (bitOf (iF7 word) 2 = true → draysQuiet core s = true) →
    exec (.efence core word) s = .next (retired core s)) ∧
  (∀ core word s, MayRun core s → awaitsCount core word s = false → iOp word = 0x2B → iF3 word = 6 → iF7 word = 0 → iRd word = 0 →
    (ctlOf core s).specid ≠ 0 →
    exec (.resolve core word) s = .next (retired core (updCtl core (fun k => { k with
      held := k.held ++ [((ctlOf core s).specid, taskOrg core s,
        .resolve ((xr core (iRs1 word) s).toNat % 65536) (xr core (iRs2 word) s))] }) s))) ∧
  (∀ core word s, MayRun core s → awaitsCount core word s = false → iOp word = 0x2B → iF3 word = 4 → field (iF7 word) 5 1 = 0 → iRd word = 0 →
    bitOf (iF7 word) 6 = false → (xr core (iRs1 word) s).toNat + 8 ≤ 2 ^ 52 → storesAhead core s = false →
    (ctlOf core s).specid ≠ 0 →
    exec (.hsig core word) s = .next (retired core (updCtl core (fun k => { k with
      held := k.held ++ [((ctlOf core s).specid, taskOrg core s,
        .hsig (xr core (iRs1 word) s).toNat false (bitOf (iF7 word) 0) (xr core (iRs2 word) s))] }) s))) ∧
  (∀ core word s l, MayRun core s → awaitsCount core word s = false → iOp word = 0x2B → iF3 word = 6 → iF7 word = 0 → iRd word = 0 →
    (ctlOf core s).specid = 0 → (ctlOf core s).held = [] → (taskOrg core s).launch = some l →
    exec (.resolve core word) s = .next (retired core { s with runahead := { s.runahead with
      resolves := s.runahead.resolves ++ [(l, (xr core (iRs1 word) s).toNat % 65536, xr core (iRs2 word) s)] } })) ∧
  (∀ core word s va, MayRun core s → awaitsCount core word s = false → iOp word = 0x2B → iF3 word = 4 → field (iF7 word) 5 1 = 0 → iRd word = 0 →
    bitOf (iF7 word) 6 = false → va = (xr core (iRs1 word) s).toNat → va + 8 ≤ 2 ^ 52 → (ctlOf core s).specid = 0 →
    (ctlOf core s).held = [] → storesAhead core s = false → memCheck va 8 .atomic s = .ok →
    exec (.hsig core word) s =
      .next (retired core (applySignal false va (bitOf (iF7 word) 0) (xr core (iRs2 word) s).toNat s))) ∧
  (∀ core word s i, MayRun core s → awaitsCount core word s = true → iOp word = 0x2B →
    ((i = .eissue core word ∧ iF3 word = 0) ∨ (i = .efence core word ∧ iF3 word = 1) ∨ (i = .smrd core word ∧ iF3 word = 2) ∨
     (i = .hwait core word ∧ iF3 word = 3) ∨ (i = .hsig core word ∧ iF3 word = 4) ∨ (i = .sfop core word ∧ iF3 word = 5) ∨
     (i = .resolve core word ∧ iF3 word = 6) ∨ (i = .taskend core word ∧ iF3 word = 7)) →
    exec i s = .next (updCtl core (fun k => { k with ccState := 2 }) s))

/-- EISSUE reads 64 bytes at rs1 from the task's partition, puts the task's speculation ID into them and passes them to
their engine once every vector load and store before it has been carried out; HWAIT whose condition holds on a local object writes its value to rd and goes on; TASKEND delivers the
held effects and ends the task with rs1 as its code (R214, R215, R232). -/
def Obligations.IssueWaitAndTaskEnd : Prop :=
  (∀ core word s d, MayRun core s → awaitsCount core word s = false → iOp word = 0x2B → iF3 word = 0 → iF7 word = 0 → iRd word = 0 → iRs2 word = 0 →
    inPart (taskPart core s) (xr core (iRs1 word) s).toNat 64 = true → memoryAhead core s = false →
    d = setSpecId (BitVec.ofNat 512 (ofLe (sramRead core (xr core (iRs1 word) s).toNat 64 s))) 6 (ctlOf core s).specid →
    engineOpcode (df d 0 63 56) = true → engineFull core (df d 0 63 56) s = false →
    exec (.eissue core word) s = .next (retired core (passDesc core d (taskOrg core s) s))) ∧
  (∀ core word s, MayRun core s → awaitsCount core word s = false → iOp word = 0x2B → iF3 word = 3 → field (iF7 word) 5 2 = 0 → iF7 word % 4 ≠ 3 →
    bitOf (iF7 word) 6 = true → inPart (taskPart core s) (xr core (iRs1 word) s).toNat 8 = true →
    condHolds (iF7 word % 4) (waitValue core (xr core (iRs1 word) s).toNat true s).toNat (xr core (iRs2 word) s).toNat
      (ctlOf core s).hmask.toNat = true →
    exec (.hwait core word) s = .next (retired core
      (setX core (iRd word) (waitValue core (xr core (iRs1 word) s).toNat true s) (endWait core s)))) ∧
  (∀ core word s k, MayRun core s → awaitsCount core word s = false → iOp word = 0x2B → iF3 word = 7 → iF7 word = 0 → iRd word = 0 → iRs2 word = 0 →
    (ctlOf core s).task = some k → (vecOf core s).vqueue.any isInstr = false →
    exec (.taskend core word) s = .next (retire core (pc4 core (flushEffects core s))
      (endTask core k (xr core (iRs1 word) (flushEffects core s)) (flushEffects core s))))

/-- BASE_INSTRUCTION runs the 32-bit word at pc, or the 32-bit form of the compressed instruction in its low half, and
completes: LUI, AUIPC, JAL, JALR, the branches, the integer operations of RV64IM, the loads, the stores, FENCE, the CSR
instructions, MRET, WFI and the atomic operations each leave what RV64IMAC and Zicsr say (log 6), x0 discarding what is written
to it, and the instruction is counted in minstret; a load waits for the vector stores before it, a store and an atomic for the
vector loads and stores before it, and an instruction for the count of a VTOPK STORE that it names (R210, R216, R233, R239;
log 165). Here are the CSRs of Table 7.8 read. A compressed code that stands for no instruction, ECALL and EBREAK take the
synchronous exception of R235. -/
def Obligations.BaseInstructionsRun : Prop :=
  (∀ core word s, MayRun core s → word.toNat % 4 = 3 →
    exec (.baseInstruction core word) s = .next (applyRes core s (exec32 core 4 word s))) ∧
  (∀ core word s, MayRunWord core word s → field word.toNat 6 0 = 0x37 →
    exec (.baseInstruction core word) s =
      .next (retire core ((ctlOf core s).pc + 4) (setX core (field word.toNat 11 7) (immU word.toNat) s))) ∧
  (∀ core word s, MayRunWord core word s → field word.toNat 6 0 = 0x6F →
    exec (.baseInstruction core word) s =
      .next (retire core ((ctlOf core s).pc + immJ word.toNat)
        (setX core (field word.toNat 11 7) ((ctlOf core s).pc + 4) s))) ∧
  (∀ core word s w, MayRun core s → word.toNat % 4 ≠ 3 → expand16 (word.toNat % 65536) = some w →
    exec (.baseInstruction core word) s = .next (applyRes core s (exec32 core 2 (BitVec.ofNat 32 w) s))) ∧
  (∀ core word s, MayRunWord core word s → field word.toNat 6 0 = 0x17 →
    exec (.baseInstruction core word) s = .next (retire core ((ctlOf core s).pc + 4)
      (setX core (field word.toNat 11 7) ((ctlOf core s).pc + immU word.toNat) s))) ∧
  (∀ core word s, MayRunWord core word s → field word.toNat 6 0 = 0x67 → field word.toNat 14 12 = 0 →
    exec (.baseInstruction core word) s = .next (retire core
      ((xr core (field word.toNat 19 15) s + immI word.toNat) &&& ~~~1#64)
      (setX core (field word.toNat 11 7) ((ctlOf core s).pc + 4) s))) ∧
  (∀ core word s f3 a b, MayRunWord core word s → field word.toNat 6 0 = 0x63 → f3 = field word.toNat 14 12 → f3 ≠ 2 → f3 ≠ 3 →
    a = xr core (field word.toNat 19 15) s → b = xr core (field word.toNat 24 20) s →
    exec (.baseInstruction core word) s = .next (retire core
      (if (f3 = 0 ∧ a = b) ∨ (f3 = 1 ∧ a ≠ b) ∨ (f3 = 4 ∧ a.toInt < b.toInt) ∨ (f3 = 5 ∧ b.toInt ≤ a.toInt) ∨
          (f3 = 6 ∧ a.toNat < b.toNat) ∨ (f3 = 7 ∧ b.toNat ≤ a.toNat)
        then (ctlOf core s).pc + immB word.toNat else (ctlOf core s).pc + 4) s)) ∧
  (∀ core word s f3 sh, MayRunWord core word s → field word.toNat 6 0 = 0x13 → f3 = field word.toNat 14 12 →
    sh = decide (f3 = 1 ∨ f3 = 5) →
    (sh = true → field word.toNat 31 26 = 0 ∨ (f3 = 5 ∧ field word.toNat 31 26 = 16)) →
    exec (.baseInstruction core word) s = .next (retire core ((ctlOf core s).pc + 4) (setX core (field word.toNat 11 7)
      (if sh = true then aluOp f3 (field word.toNat 31 26 == 16) (xr core (field word.toNat 19 15) s)
          (BitVec.ofNat 64 (field word.toNat 25 20)) 64
        else aluOp f3 false (xr core (field word.toNat 19 15) s) (immI word.toNat) 64) s))) ∧
  (∀ core word s f3 f7, MayRunWord core word s → field word.toNat 6 0 = 0x33 → f3 = field word.toNat 14 12 →
    f7 = field word.toNat 31 25 → (f7 = 0 ∨ f7 = 1 ∨ (f7 = 32 ∧ (f3 = 0 ∨ f3 = 5))) →
    exec (.baseInstruction core word) s = .next (retire core ((ctlOf core s).pc + 4) (setX core (field word.toNat 11 7)
      (if f7 = 1 then BitVec.ofInt 64 (mulDiv f3 64 (xr core (field word.toNat 19 15) s).toNat
          (xr core (field word.toNat 24 20) s).toNat)
        else aluOp f3 (f7 == 32) (xr core (field word.toNat 19 15) s) (xr core (field word.toNat 24 20) s) 64) s))) ∧
  (∀ core word s f3 f7 a b, MayRunWord core word s → field word.toNat 6 0 = 0x3B → f3 = field word.toNat 14 12 →
    f7 = field word.toNat 31 25 → a = xr core (field word.toNat 19 15) s → b = xr core (field word.toNat 24 20) s →
    ((f7 = 0 ∧ (f3 = 0 ∨ f3 = 1 ∨ f3 = 5)) ∨ (f7 = 1 ∧ (f3 = 0 ∨ 4 ≤ f3)) ∨ (f7 = 32 ∧ (f3 = 0 ∨ f3 = 5))) →
    exec (.baseInstruction core word) s = .next (retire core ((ctlOf core s).pc + 4) (setX core (field word.toNat 11 7)
      (if f7 = 1 then sext 32 (unsigned 32 (mulDiv f3 32 (a.toNat % 2 ^ 32) (b.toNat % 2 ^ 32)))
        else aluW f3 (f7 == 32) a b) s))) ∧
  (∀ core word s f3, MayRunWord core word s → field word.toNat 6 0 = 0x1B → f3 = field word.toNat 14 12 →
    (f3 = 0 ∨ (f3 = 1 ∧ field word.toNat 31 25 = 0) ∨ (f3 = 5 ∧ (field word.toNat 31 25 = 0 ∨ field word.toNat 31 25 = 32))) →
    exec (.baseInstruction core word) s = .next (retire core ((ctlOf core s).pc + 4) (setX core (field word.toNat 11 7)
      (if f3 = 0 then aluW 0 false (xr core (field word.toNat 19 15) s) (immI word.toNat)
        else aluW f3 (field word.toNat 31 25 == 32) (xr core (field word.toNat 19 15) s)
          (BitVec.ofNat 64 (field word.toNat 25 20))) s))) ∧
  (∀ core word s f3 a n v, MayRunWord core word s → field word.toNat 6 0 = 0x03 → f3 = field word.toNat 14 12 → f3 ≠ 7 →
    a = (xr core (field word.toNat 19 15) s + immI word.toNat).toNat → n = 2 ^ (f3 % 4) →
    inPart (taskPart core s) a n = true → storesAhead core s = false → v = ofLe (sramRead core a n s) →
    exec (.baseInstruction core word) s = .next (retire core ((ctlOf core s).pc + 4) (sramErrors core
      (setX core (field word.toNat 11 7) (if f3 < 4 then sext (8 * n) v else BitVec.ofNat 64 v) s)))) ∧
  (∀ core word s f3 a, MayRunWord core word s → field word.toNat 6 0 = 0x23 → f3 = field word.toNat 14 12 → f3 < 4 →
    a = (xr core (field word.toNat 19 15) s + immS word.toNat).toNat →
    inPart (taskPart core s) a (2 ^ f3) = true → memoryAhead core s = false →
    exec (.baseInstruction core word) s = .next (retire core ((ctlOf core s).pc + 4)
      (taskStore core [(a, leBytes (2 ^ f3) (xr core (field word.toNat 24 20) s).toNat)] s))) ∧
  (∀ core word s, MayRunWord core word s → field word.toNat 6 0 = 0x0F → field word.toNat 14 12 ≤ 1 →
    exec (.baseInstruction core word) s = .next (retire core ((ctlOf core s).pc + 4) s)) ∧
  (∀ core word s a old, MayRunWord core word s → field word.toNat 6 0 = 0x73 →
    field word.toNat 14 12 = 2 ∨ field word.toNat 14 12 = 3 ∨ field word.toNat 14 12 = 6 ∨ field word.toNat 14 12 = 7 →
    field word.toNat 19 15 = 0 → a = field word.toNat 31 20 → csrRead core a s = some old →
    exec (.baseInstruction core word) s = .next (retire core ((ctlOf core s).pc + 4)
      (setX core (field word.toNat 11 7) old s))) ∧
  (∀ core word s a old src u, MayRunWord core word s → field word.toNat 6 0 = 0x73 →
    ((field word.toNat 14 12 = 1 ∧ src = xr core (field word.toNat 19 15) s) ∨
     (field word.toNat 14 12 = 5 ∧ src = BitVec.ofNat 64 (field word.toNat 19 15))) →
    a = field word.toNat 31 20 → csrRead core a s = some old → csrWrite core a src s = some u →
    exec (.baseInstruction core word) s = .next (retire core ((ctlOf core s).pc + 4)
      (setX core (field word.toNat 11 7) old u))) ∧
  (∀ core s, csrRead core 0xF14 s = some (BitVec.ofNat 64 core) ∧ csrRead core 0xC01 s = some (BitVec.ofNat 64 s.now) ∧
    csrRead core 0xFC0 s = some (BitVec.ofNat 64 (vecOf core s).vl) ∧
    csrRead core 0xFC1 s = some (BitVec.ofNat 64 (vecOf core s).vfmt) ∧
    csrRead core 0xFC2 s = some (BitVec.ofNat 64 (ctlOf core s).specid) ∧
    csrRead core 0xFC3 s = some (BitVec.ofNat 64 ((ctlOf core s).vsatNan * 2 ^ 32 + (ctlOf core s).vsatSat)) ∧
    csrRead core 0x7C0 s = some (ctlOf core s).hmask ∧ csrRead core 0x7C1 s = some (ctlOf core s).timecmp ∧
    (∀ v, csrWrite core 0x7C0 v s = some (updCtl core (fun k => { k with hmask := v }) s) ∧
      csrWrite core 0x7C1 v s = some (updCtl core (fun k => { k with timecmp := v }) s) ∧
      csrWrite core 0xFC0 v s = none ∧ csrWrite core 0xFC3 v s = none)) ∧
  (∀ core word s, MayRunWord core word s → word = 0x30200073#32 →
    exec (.baseInstruction core word) s = .next (retire core (ctlOf core s).mepc (updCtl core (fun k => { k with
      mstatus := 0x1880#64 ||| (if k.mstatus.getLsbD 7 then 8#64 else 0) }) s))) ∧
  (∀ core word s, MayRunWord core word s → word = 0x10500073#32 →
    exec (.baseInstruction core word) s = .next (retire core ((ctlOf core s).pc + 4)
      (if wfiWakes core s = true then s else updCtl core (fun k => { k with ccState := 4 }) s))) ∧
  (∀ core word s f3 n a old new rd, MayRunWord core word s → field word.toNat 6 0 = 0x2F → f3 = field word.toNat 14 12 →
    (f3 = 2 ∨ f3 = 3) → n = 2 ^ f3 → a = (xr core (field word.toNat 19 15) s).toNat → a % n = 0 →
    inPart (taskPart core s) a n = true → memoryAhead core s = false → old = ofLe (sramRead core a n s) →
    rd = field word.toNat 11 7 →
    (field word.toNat 31 27 = 2 → field word.toNat 24 20 = 0 →
      exec (.baseInstruction core word) s = .next (retire core ((ctlOf core s).pc + 4)
        (setX core rd (sext (8 * n) old) (updCtl core (fun k => { k with reservation := some (a, n) }) s)))) ∧
    (field word.toNat 31 27 = 3 → (ctlOf core s).reservation ≠ some (a, n) →
      exec (.baseInstruction core word) s = .next (retire core ((ctlOf core s).pc + 4)
        (setX core rd 1 (updCtl core (fun k => { k with reservation := none }) s)))) ∧
    (field word.toNat 31 27 = 3 → (ctlOf core s).reservation = some (a, n) →
      exec (.baseInstruction core word) s = .next (retire core ((ctlOf core s).pc + 4) (setX core rd 0
        (taskStore core [(a, leBytes n ((xr core (field word.toNat 24 20) s).toNat % 2 ^ (8 * n)))]
          (updCtl core (fun k => { k with reservation := none }) s))))) ∧
    (field word.toNat 31 27 ≠ 2 → field word.toNat 31 27 ≠ 3 →
      amoValue (field word.toNat 31 27) (8 * n) old ((xr core (field word.toNat 24 20) s).toNat % 2 ^ (8 * n)) = some new →
      exec (.baseInstruction core word) s = .next (retire core ((ctlOf core s).pc + 4)
        (setX core rd (sext (8 * n) old) (taskStore core [(a, leBytes n new)] s))))) ∧
  (∀ core word s, MayRun core s → ((word.toNat % 4 ≠ 3 ∧ expand16 (word.toNat % 65536) = none) →
      exec (.baseInstruction core word) s = .next (syncException core 2 s)) ∧
    (awaitsCount core word s = false → word = 0x00000073#32 →
      exec (.baseInstruction core word) s = .next (syncException core 11 s)) ∧
    (awaitsCount core word s = false → word = 0x00100073#32 →
      exec (.baseInstruction core word) s = .next (syncException core 3 s))) ∧
  (∀ core word s w, MayRun core s → word.toNat % 4 ≠ 3 → expand16 (word.toNat % 65536) = some w →
    awaitsCount core (BitVec.ofNat 32 w) s = false → field (w % 2 ^ 32) 6 0 = 0x33 → field (w % 2 ^ 32) 14 12 = 0 →
    field (w % 2 ^ 32) 31 25 = 0 →
    exec (.baseInstruction core word) s = .next (retire core ((ctlOf core s).pc + 2) (setX core (field (w % 2 ^ 32) 11 7)
      (xr core (field (w % 2 ^ 32) 19 15) s + xr core (field (w % 2 ^ 32) 24 20) s) s))) ∧
  (∀ core word s, MayRun core s → word.toNat % 4 = 3 → awaitsCount core word s = true →
    exec (.baseInstruction core word) s = .next (updCtl core (fun k => { k with ccState := 2 }) s)) ∧
  (∀ a b : BitVec 64, aluOp 0 false a b 64 = a + b ∧ aluOp 0 true a b 64 = a - b ∧ aluOp 4 false a b 64 = a ^^^ b ∧
    aluOp 6 false a b 64 = a ||| b ∧ aluOp 7 false a b 64 = a &&& b ∧ aluOp 1 false a b 64 = a <<< (b.toNat % 64) ∧
    aluOp 5 false a b 64 = a >>> (b.toNat % 64) ∧ aluOp 5 true a b 64 = a.sshiftRight (b.toNat % 64) ∧
    aluOp 2 false a b 64 = (if a.toInt < b.toInt then 1 else 0) ∧
    aluOp 3 false a b 64 = (if a.toNat < b.toNat then 1 else 0))

/-- An enabled pending interrupt of a core with a task traps to mtvec in direct mode: mepc holds the pc, mcause the cause
with bit 63 set, mtval 0, mstatus is stacked, a wait it interrupts is over, and only that core's control registers change (R234). The task that the
schedule gives a core starts on it when the core has none, is on, is not paused and has not failed: the core is its
queue's, it leaves the waiting tasks, the vector state and the control registers are those of a task's start, a0 and a1 hold its arguments and pc its entry; every other integer
and vector register holds a free value. A task over TASK_LIMIT_NS is a job fault of cause 4 (R232, R236). -/
def Obligations.InterruptsTrapAndTasksStart : Prop :=
  (∀ core s, core < 98 → interruptReady core 7 s = true →
    exec (.timerInterrupt core) s = .next (updCtl core (fun k => { k with
      mepc := k.pc, mcause := BitVec.ofNat 64 (2 ^ 63 + 7), mtval := 0, mstatus := trapStatus k.mstatus, pc := k.mtvec,
      ccState := 2 }) (endWait core s))) ∧
  (∀ core s, core < 98 → interruptReady core 16 s = true →
    ∃ u, u = updCtl core (fun k => { k with mip := k.mip &&& ~~~(1#64 <<< 16) }) s ∧
      exec (.qworkInterrupt core) s = .next (updCtl core (fun k => { k with
        mepc := k.pc, mcause := BitVec.ofNat 64 (2 ^ 63 + 16), mtval := 0, mstatus := trapStatus k.mstatus, pc := k.mtvec,
        ccState := 2 }) (endWait core u))) ∧
  (∀ core s p u, core < 98 → (ctlOf core s).task = none → coreOn core s = true → dispatchStopped s = false →
    movePaused core s = false → nextTaskOf core s = some p → (matOf core s).failed = false →
    u = takeCore core p.task.queue s →
    ∃ t, exec (.taskStart core) s = .next (if p.task.persistent = true then fetchDirect core t else t) ∧
      t = updCtl core (fun k => { k with
        x := (List.range 32).map (fun i => if i = 0 then 0 else if i = 10 then p.arg else if i = 11 then p.launchWord
          else Config.freeWord (s.free + i)),
        pc := BitVec.ofNat 64 p.entry, mie := 0, specid := p.task.spec, vsatSat := 0, vsatNan := 0,
        hmask := BitVec.allOnes 64, timecmp := BitVec.allOnes 64, reservation := none, task := some { p.task with startedAt := s.now }, ccState := 2,
        icacheTag := some (p.task.graph, p.task.version) })
        (updVec core (fun k => { k with
          v := (List.range 32).map (fun i => Config.freeVec (s.free + 32 + i)), vl := 0, vfmt := 7,
          slots := List.replicate 8 0, topk := { isSet := false, k := 0, floor := 0, entries := [] } })
          { u with free := s.free + 64, dispatch := { u.dispatch with
            tasks := s.dispatch.tasks.filter (fun x => x.task.id != p.task.id) } })) ∧
  (∀ core queue s t, t = takeCore core queue s → alGet t.job.coreQueue core = some queue ∧
    t.job.outgoing = s.job.outgoing.filter (fun o => !(o.core == core && o.reclaim)) ∧ t.control = s.control ∧
    t.dispatch = s.dispatch ∧ t.mem = s.mem) ∧
  (∀ core s k, core < 98 → (ctlOf core s).task = some k → k.persistent = false → dispatchStopped s = false →
    k.startedAt + ent Ent.taskLimitNs s ≤ s.now →
    exec (.taskLimitExpiry core) s = .next (jobFaultPlain 5 core 4 0 0 s))

/-- A vector tensor descriptor at the head of the vector queue, or one that the Postilion has passed, in its turn, leaves
its queue and, when its checks pass, runs, and the instructions behind it follow (R205, R226, R227); one behind
others in the vector queue stays there. -/
def Obligations.VectorTensorDescriptorsRun : Prop :=
  (∀ core desc org s, core < 98 → coreOn core s = true →
    ((vecOf core s).vqueue.head? = some (.tensor desc org) ∨
      ((vecOf core s).vqueue.contains (.tensor desc org) = false ∧ inTurn core desc org s = true)) →
    (matOf core (takeTensor core desc org s)).failed = false → tensorOk core desc org (takeTensor core desc org s) = true →
    exec (.vtensor core desc org) s = .next (serveVq core (runTensor core desc org (takeTensor core desc org s)))) ∧
  (∀ core desc org s, core < 98 → (vecOf core s).vqueue.contains (.tensor desc org) = true →
    (vecOf core s).vqueue.head? ≠ some (.tensor desc org) → exec (.vtensor core desc org) s = .next s) ∧
  (∀ core s, (∀ d org t, (vecOf core s).vqueue = .tensor d org :: t → serveVq core s = s) ∧
    ((vecOf core s).vqueue = [] → serveVq core s = s))

/-- A MATMUL descriptor that passes its decode check, with room in the tile ring and its weight ring not taken, leaves
the issued descriptors and joins or opens its chain; one that finds no room stays issued (R148, R152). A tile whose
blocks stand in the shadows streams with them, and one whose blocks are loaded now streams with those; the chain it
belongs to is found again after the load (R142 to R144, R154). -/
def Obligations.TilesJoinAndStream : Prop :=
  (∀ core desc org s, core < 98 → inTurn core desc org s = true → matDecodeOk core desc org s = true →
    ringUsed (matOf core s) < s.job.tileRing → ringTaken core desc s = false →
    exec (.matmul core desc org) s =
      .next (addToChain core desc (issuedOrigin core desc org s) (takeIssued core desc org s))) ∧
  (∀ core desc org s, core < 98 → inTurn core desc org s = true → matDecodeOk core desc org s = true →
    (s.job.tileRing ≤ ringUsed (matOf core s) ∨ ringTaken core desc s = true) →
    exec (.matmul core desc org) s = .next (holdIssued core desc org s)) ∧
  (∀ core s e c, core < 98 → nextEntry core s = some e → chainOfEntry (matOf core s) e = some c → coreOn core s = true →
    (matOf core s).failed = false → (matOf core s).chains.any needsReplay = false →
    (mDep e.desc = true → e.tile = 0 → earlierDrain (matOf core s) e.num = false) →
    (matOf core s).shadowTag = some (e.num, e.tile) →
    exec (.tileStream core) s = .next (sramErrors core (streamTile core c e (matOf core s).shadow true s))) ∧
  (∀ core s e c bs u v c', core < 98 → nextEntry core s = some e → chainOfEntry (matOf core s) e = some c →
    coreOn core s = true → (matOf core s).failed = false → (matOf core s).chains.any needsReplay = false →
    (mDep e.desc = true → e.tile = 0 → earlierDrain (matOf core s) e.num = false) →
    (matOf core s).shadowTag ≠ some (e.num, e.tile) → (matOf core s).ringWaitSince = none →
    loadTile core e s = some (bs, u) → v = updMat core (fun x => { x with ringWaitSince := none }) u →
    chainOfEntry (matOf core v) e = some c' →
    exec (.tileStream core) s = .next (sramErrors core (streamTile core c' e bs false v)))

/-- A chain whose descriptors have all streamed drains, unless its products are no multiple of its group; an overflowed
pass with shift 0 or 16 is begun again with the next shift, its own blocks in the shadows dropped; after a switch to a
queue the descriptors of every other queue are marked as stopped, after one to no queue those of the queues that the
core has left, and they stay so over a replay (R153, R157, R190, R193, R195, R365). -/
def Obligations.ChainsDrainReplayAndYield : Prop :=
  (∀ core accBase s c e, core < 98 → (matOf core s).chains.find? (fun c => c.accBase == accBase && drainable c) = some c →
    c.descs.find? (fun e => mAccOut e.desc) = some e → coreOn core s = true →
    (c.group = 0 ∨ c.products % (16 * 2 ^ c.group) = 0) →
    exec (.chainDrain core accBase) s = .next (drainChain core c e.desc s)) ∧
  (∀ core accBase s c own, core < 98 →
    (matOf core s).chains.find? (fun c => c.accBase == accBase && needsReplay c) = some c →
    own = (matOf core s).shadowTag.any (fun t => c.descs.any (fun e => e.num == t.1)) →
    exec (.chainReplay core accBase) s = .next (replayChain core c
      (if own = true then updMat core (fun x => { x with shadowTag := none }) s else stashShadow core s))) ∧
  (∀ core s q left, core < 98 → alGet s.job.coreQueue core = some q →
    left = (matOf core s).shadowTag.any (fun t =>
      (matOf core s).chains.any (fun c => c.descs.any (fun e => e.num == t.1 && e.org.queue != q))) →
    exec (.tilePreempt core) s = .next (updMat core (fun x => { x with
      chains := x.chains.map (fun c => { c with
        descs := c.descs.map (fun e => if e.org.queue != q then { e with preempted := true } else e) }) })
      (if left = true then stashShadow core s else s))) ∧
  (∀ core s gone left, core < 98 → alGet s.job.coreQueue core = none →
    gone = (fun (q : Nat) => s.job.outgoing.any (fun o => o.core == core && o.queue == q)) →
    left = (matOf core s).shadowTag.any (fun t =>
      (matOf core s).chains.any (fun c => c.descs.any (fun e => e.num == t.1 && gone e.org.queue))) →
    exec (.tilePreempt core) s = .next (updMat core (fun x => { x with
      chains := x.chains.map (fun c => { c with
        descs := c.descs.map (fun e => if gone e.org.queue = true then { e with preempted := true } else e) }) })
      (if left = true then stashShadow core s else s)))

/-- A sequence summary that passes its checks starts; a segment whose core is on and has not failed fetches its blocks and
forms its states, and its result is kept with what its chains counted; with every segment done and the output stores
allowed, the output and status record are written, the summary's query is noted for later folds and the summary is over
(R247 to R251). A running append stage with no earlier append of its session takes up the events it has to write, none
where its request joins or has no resident session; one that has begun goes on; a due session step serves the joins
that are not idle, folds the sessions that stay and drops those that leave; SESSION_CLOSE marks the session (R244, R245,
R252 to R255). -/
def Obligations.SummariesAndSessionsAdvance : Prop :=
  (∀ core desc org s, core < 98 → inTurn core desc org s = true → (matOf core s).failed = false →
    summaryOk core desc org s = true →
    exec (.seqSummary core desc org) s = .next (startSummary core desc org (takeIssued core desc org s))) ∧
  (∀ summary segment s j g ps r, summaryOf summary s = some j → j.segments[segment]? = some g → g.result = none →
    coreOn g.core s = true → (matOf g.core s).failed = false → arraysOn g.core s ≠ 0 →
    ps = ((summaryPieces j).drop g.first).take (g.last - g.first) →
    r = segmentState g.core j.desc (queryBytes g.core j.desc s) (summarySession j s) ps s →
    exec (.segmentPass summary segment) s = .next (updSummary summary (fun x => { x with
      segments := updAt x.segments segment (fun g' => { g' with result := some r.1 }) })
      (countPass r.2 (fetchPlanes g.core (hTag j.desc) (summarySession j s) ps s)))) ∧
  (∀ summary s j, summaryOf summary s = some j → j.segments.all (fun g => g.result.isSome) = true →
    coreOn j.core s = true → j.spec = 0 →
    ∃ outs st u, outs = (summaryValues j).map (fun v => convOut (hOutFmt j.desc)
        (if hOutFmt j.desc = 4 then div32 v (hOutScale j.desc) else v)) ∧
      st = summaryStatus j (outs.countP (·.sat)) ((summaryValues j).foldl (fun a x => max32 a (enc32 (fabs (val32 x)))) 0) s.now ∧
      u = coreStoreAll j.core 0 [(hOut j.desc, packCodes (outFmt (hOutFmt j.desc)) (outs.map (·.code))),
        (hStatus j.desc + 8, st.drop 8), (hStatus j.desc, st.take 8)] j.core 0 (hTag j.desc) 0x50
        { s with sequences := { s.sequences with summaries := s.sequences.summaries.filter (fun x => x.id != summary) } } ∧
      exec (.summaryMerge summary) s = .next (descriptorDone j.org (ofLe (st.take 8))
        (specMark 0 j.org.launch (outs.countP (·.sat) != 0) false false
          (noteQuery 0 j.query (count Cnt.summaries 1 (countConv outs u)))))) ∧
  (∀ launch stage s l r, launchOf launch s = some l → s.sequences.appends.any (fun a => a.launch == launch) = false →
    stagePhase l stage = .running [] → stageRecord l stage s = some r → stageKind r = 1 → requestOf l s = none →
    exec (.appendStage launch stage) s = .next (advanceAppend launch { s with sequences := { s.sequences with
      appends := s.sequences.appends ++ [{ launch := launch, stage := stage, context := l.context, session := l.session,
                                           events := [], written := 0, waiting := false, encoding := false }] } })) ∧
  (∀ launch stage s l r a, launchOf launch s = some l → s.sequences.appends.any (fun a => a.launch == launch) = false →
    stagePhase l stage = .running [] → stageRecord l stage s = some r → stageKind r = 1 → requestOf l s = some a →
    earlierAppend a s = false →
    exec (.appendStage launch stage) s = .next (advanceAppend launch { s with sequences := { s.sequences with
      appends := s.sequences.appends ++ [{ launch := launch, stage := stage, context := l.context, session := l.session,
                                           events := if a.joined = true ∨ (sessionOf l.context l.session s).isNone = true
                                             then [] else appendEvents a.payload,
                                           written := 0, waiting := false, encoding := false }] } })) ∧
  (∀ launch stage s l, launchOf launch s = some l → s.sequences.appends.any (fun a => a.launch == launch) = true →
    exec (.appendStage launch stage) s = .next (advanceAppend launch s)) ∧
  (∀ launch s, s.sequences.appends.any (fun a => a.launch == launch && a.waiting) = true →
    exec (.appendChunkWait launch) s = .next (advanceAppend launch s)) ∧
  (∀ s, s.job.state = 2 → s.sequences.lastStep + ent Ent.stepNs s ≤ s.now →
    (queueOf (ent Ent.sessionQueue s) s).state ≠ 0 → (queueOf (ent Ent.sessionQueue s) s).state ≠ 3 →
    ∃ leaving joins u v w, leaving = s.sequences.sessions.filter (fun x => sessionLeaves x s) ∧
      joins = s.sequences.joins.filter (fun p => decide (s.now < p.lastRequest + ent Ent.sessionIdleNs s)) ∧
      u = count Cnt.steps 1 { s with sequences := { s.sequences with
        lastStep := s.now, poolFree := poolLeft s, joins := [] } } ∧
      v = (if leaving = [] then u else count Cnt.leaves leaving.length u) ∧
      w = foldSome leaving (serveJoins (ent Ent.stepJoinsMax s) joins v) ∧
      exec .sessionStep s = .next { w with sequences := { w.sequences with
        sessions := w.sequences.sessions.filter (fun x => !leaving.any (fun y => y.id == x.id && y.context == x.context)) } }) ∧
  (∀ req session s, Accepted req 0x2020 6 (leBytes 8 session.toNat) s →
    ∃ t, exec (.sessionClose req session) s = .next t ∧ EndedOk Ent.sessionClose req s t ∧
      t = { s with dict := t.dict, sequences := { s.sequences with
        sessions := s.sequences.sessions.map (fun x => if x.id = session.toNat then { x with closeMark := true } else x) } })

/-- A TRANSFER or CARAVAN descriptor whose turn it is and that passes its checks leaves the issued descriptors and joins
its core's Dray queue, and one that nothing has issued only while that queue has room; a waiting weight ring starts with its core's
queue; a transfer, having left the Dray queue if it may, requests its next tile where it may,
any codeword of which in device memory may be corrected, or fail and so not be served, one that the release count holds up notes
since when it waits, and one that only its stage's prologue holds up no longer counts as waiting for a release; a stream whose members all hold every tile, or that has none, completes (R261,
R264, R266, R268, R275, R276, R383 to R385). -/
def Obligations.TransfersAreQueuedAndRequest : Prop :=
  (∀ core desc org s op i org' u, core < 98 → inTurn core desc org s = true → (matOf core s).failed = false →
    ((ctlOf core s).issued.any (isIssue desc org) = true ∨ engineRoom core op 1 s = true) → xOpcode desc = op → org' = issuedOrigin core desc org s → u = takeIssued core desc org s →
    transferOk core desc org' u = true →
    ((op = 0x10 ∧ i = .transfer core desc org) ∨
     (op = 0x11 ∧ i = .caravan core desc org ∧
      ((groupCoresOf desc org' u).getD []).any (fun c => (matOf c u).failed) = false)) →
    exec i s = .next (enqueueTransfer core desc org' u)) ∧
  (∀ core s t, core < 98 → queueHead core s = some t → t.ringWait = true →
    exec (.weightRingStart core) s = .next (serveDrays core s)) ∧
  (∀ tile s u t, u = leaveDrayQueue tile.transfer s → transferOf tile.transfer u = some t → t.running = true → t.done = false →
    t.stopping = false → waitsDray t.core t = false → drayStalled t u = false →
    (xCaravan t.desc = true → streamDone t = false) → t.faultTile = none →
    t.requested < tilesDue t → coreOn t.core u = true →
    exec (.tileRequest tile) s = .next (
      if mayRequest t u = true then readTile t tile.errors u
      else if paceOpen t u = true then endPaceWait t u
      else updTransfer tile.transfer (fun x => { x with waitSince := some (x.waitSince.getD u.now) }) u)) ∧
  (∀ tile s u t, u = leaveDrayQueue tile.transfer s → transferOf tile.transfer u = some t → t.running = true → t.done = false →
    t.stopping = false → waitsDray t.core t = false → drayStalled t u = false → xCaravan t.desc = true → streamDone t = true →
    exec (.tileRequest tile) s = .next (completeTransfer tile.transfer u)) ∧
  (∀ t errors s, (xSrcSpace t.desc ≠ 0 ∨ errors = []) → readTile t errors s = requestTile t s) ∧
  (∀ t k symbols s a v m, xSrcSpace t.desc = 0 →
    runWord ((srcRuns t.desc t.requested).map (fun r => (r.1, r.2.2))) k = some a → v = ensureFrame (a / 4096) s →
    mpaOf a v = some m →
    readTile t [(k, 1)] s = requestTile t (correctedError 0 m 1 v) ∧
    (2 ≤ symbols → symbols ≤ 3 → readTile t [(k, symbols)] s = uncorrectableError 0 m v)) ∧
  (∀ core desc org s, core < 98 → (ctlOf core s).issued.any (isIssue desc org) = false →
    (engineRoom core 0x10 1 s = false → exec (.transfer core desc org) s = .next s) ∧
    (engineRoom core 0x11 1 s = false → exec (.caravan core desc org) s = .next s)) ∧
  (∀ transfer s t, transferOf transfer s = some t →
    leaveDrayQueue transfer s = if t.running = true ∧ waitsDray t.core t = false then s else serveDrays t.core s)

/-- A tile in flight is delivered in its turn, or behind a fault, unless another fault stalls its Dray (R415); a Caravan stream sends its tile to the attached members; a
free Dray of a detached member's core fetches its next tile, and the stream is complete when every member holds every
tile; a transfer whose fault was served resumes at the faulting tile, with the later ones to
be written again (R265, R271, R279, R280). -/
def Obligations.TilesAreDelivered : Prop :=
  (∀ transfer tile s t, transferOf transfer s = some t → xCaravan t.desc = false → t.inFlight.contains tile = true →
    tilePending transfer tile s = false → (xSrcSpace t.desc ≠ 4 ∨ t.spec = 0) → tile < tilesDue t → drayStalled t s = false →
    (tile = t.delivered ∨ t.faultTile.any (fun f => decide (f < tile)) = true) →
    exec (.tileDelivery transfer tile) s = .next (deliverTile t tile s)) ∧
  (∀ transfer s t tile rest, transferOf transfer s = some t → t.inFlight = tile :: rest → xCaravan t.desc = true →
    drayStalled t s = false →
    t.faultTile.any (fun f => decide (f ≤ tile)) = false → (tileCheck t.desc tile s).1 = .ok →
    exec (.caravanTileSend transfer) s = .next (sendTile t tile s)) ∧
  (∀ transfer core s t m k, transferOf transfer s = some t →
    t.members.find? (fun m => m.core == core && !m.attached) = some m → t.stopping = false →
    m.delivered < xTiles t.desc → coreOn core s = true → m.delivered ≤ releaseCount core t.desc s + 4 →
    (m.ringWaits = true → activeRings core s < 4) →
    ((m.faulted = none ∧ freeDray core s = some k) ∨
      (m.faulted = some k ∧ agentWaits (drayNum core k) s = false)) →
    exec (.catchupFetch transfer core) s =
      .next (fetchCatchup t m k (updMember t.id core (fun m => { m with ringWaits := false }) s))) ∧
  (∀ s t m k w, w = stagingReady t.core t.desc s → (tileCheck t.desc m.delivered w).1 = .ok → m.faulted = none →
    ∃ u, u = count Cnt.catchupTiles 1 (landTile t m.core m.delivered (tileData t m.delivered w)
        (updMember t.id m.core (fun x => { x with delivered := m.delivered + 1, faulted := none })
          (updTransfer t.id (fun x => { x with catchup := x.catchup + 1 })
            (touchBy (drayNum m.core k) t.desc m.delivered w)))) ∧
      fetchCatchup t m k s = match transferOf t.id u with
        | some v => if streamDone v then completeTransfer t.id u else u
        | none => u) ∧
  (∀ transfer s t f, transferOf transfer s = some t → t.faultTile = some f → agentWaits (drayNum t.core t.dray) s = false →
    t.inFlight.any (fun x => decide (f < x) && decide (x < tilesDue t)) = false →
    exec (.transferFaultResume transfer) s = .next (count Cnt.faultResumes 1 (updTransfer transfer (fun x =>
      { x with requested := f, inFlight := x.inFlight.filter (fun y => decide (y < f)), faultTile := none,
               faultResumes := x.faultResumes + 1 }) s)))

/-- A stage that is ready is dispatched: a barrier-class stage after its launch has drained, with the barrier counted,
any other by STAGE_DISPATCH; a history append becomes running. The prologue of a stage is issued once, every transfer
of the stage before it, taken or still to be taken, having made its last request; the resident
segments of a context are put in place once (R274, R275, R283, R289). -/
def Obligations.StagesAreDispatched : Prop :=
  (∀ launch stage s l r, launchOf launch (skipStages launch s) = some l → stageRecord l stage (skipStages launch s) = some r →
    stagePhase l stage = .waiting → stageReady l r = true → mayDispatch l stage (skipStages launch s) = true →
    stageBarrier r = false → stageKind r ≠ 1 →
    exec (.stageDispatch launch stage) s = .next (settleOutgoing (dispatchTasks l r 0 (skipStages launch s)))) ∧
  (∀ launch stage s l r, launchOf launch (skipStages launch s) = some l → stageRecord l stage (skipStages launch s) = some r →
    stagePhase l stage = .waiting → stageReady l r = true → mayDispatch l stage (skipStages launch s) = true →
    stageBarrier r = false → stageKind r = 1 →
    exec (.stageDispatch launch stage) s = .next (setStage launch stage (.running []) 0 (skipStages launch s))) ∧
  (∀ launch stage s l r, launchOf launch (skipStages launch s) = some l → stageRecord l stage (skipStages launch s) = some r →
    stagePhase l stage = .waiting → stageReady l r = true → mayDispatch l stage (skipStages launch s) = true →
    stageBarrier r = true → launchDrained launch stage (skipStages launch s) = true → stageKind r ≠ 1 →
    exec (.stageBarrier launch stage) s =
      .next (settleOutgoing (dispatchTasks l r 0 (count Cnt.barrierStages 1 (skipStages launch s))))) ∧
  (∀ launch stage s l r, launchOf launch s = some l → stageRecord l stage s = some r → stageBarrier r = false →
    stage ≠ 0 → stagePhase l (stage - 1) ≠ .waiting → s.streaming.prologues.contains (launch, stage) = false →
    (s.streaming.transfers.filter (fun t => t.org.launch == some launch && t.org.stage + 1 == stage)).all lastRequested = true →
    s.control.any (fun k => k.issued.any (fun p => (xOpcode p.1 == 0x10 || xOpcode p.1 == 0x11) &&
      p.2.launch == some launch && p.2.stage + 1 == stage)) = false →
    exec (.stagePrologue launch stage) s = .next ((List.range 98).foldl (fun s c => serveDrays c s)
      { s with streaming := { s.streaming with prologues := s.streaming.prologues ++ [(launch, stage)] } })) ∧
  (∀ context s c, contextOf context s = some c → c.segmentsLoaded = false → s.job.state = 2 →
    exec (.residentSegmentLoad context) s = .next (updContext context (fun c => { c with segmentsLoaded := true })
      ((s.dispatch.graphs.filter (fun (g : Graph) => g.context == context)).foldl (fun s g =>
        g.versions.foldl (fun s v => loadResident g.id v c s) s) s)))

/-- A doorbell write of 64 bits to a request queue sets its TAIL or CQ_HEAD to the low 32 bits and the register to the
value, and fetching goes on, a direct queue's shadow having taken the tail first (R316); TAIL of a queue that is OFF is
discarded. A doorbell of a width or place that is not
allowed is only counted. The re-read of a stale slot follows the ring it names (R297, R298, R431). ENABLE at 1
enables a queue that is OFF, whose rings can be placed; at 0 it makes an enabled one DRAINING, with nothing more
fetched and a direct queue's task told by its shadow (R292, R298, R316). -/
def Obligations.DoorbellsAndEnablesMoveTheQueues : Prop :=
  (∀ queue w s, queue < 64 → s.hostif.flr = false → w.bytes = 8 → w.offset = 0 → (queueOf queue s).state ≠ 0 →
    queueClassOf queue s = 1 → legacyBound queue s = false →
    ∃ u, u = updQueue queue (fun q => { q with tail := w.value.toNat % 2 ^ 32, staleReads := none })
        { s with hostif := { s.hostif with tailReg := alSet s.hostif.tailReg queue w.value } } ∧
      exec (.tailDoorbell queue w) s = .next (fetchQueue queue (if directCore queue s = 0xFF then u
        else directShadow queue (w.value.toNat % 2 ^ 32) ((queueOf queue u).state == 3) u))) ∧
  (∀ queue w s, queue < 64 → s.hostif.flr = false → w.bytes = 8 → w.offset = 0 → (queueOf queue s).state = 0 →
    exec (.tailDoorbell queue w) s = .next s) ∧
  (∀ queue w s, queue < 64 → s.hostif.flr = false → w.bytes = 8 → w.offset = 0 → queueClassOf queue s = 1 →
    ∃ u, u = updQueue queue (fun q => { q with cqHead := w.value.toNat % 2 ^ 32 })
        { s with hostif := { s.hostif with cqHeadReg := alSet s.hostif.cqHeadReg queue w.value } } ∧
      exec (.cqHeadDoorbell queue w) s = .next (fetchQueue queue (releaseHeld ((queueOf queue u).held.length) queue u))) ∧
  (∀ queue w s, queue < 64 → s.hostif.flr = false → w.bytes ≠ 8 → w.bytes ≠ 4 →
    exec (.tailDoorbell queue w) s = .next (count Cnt.barBadAccess 1 s) ∧
    exec (.cqHeadDoorbell queue w) s = .next (count Cnt.barBadAccess 1 s)) ∧
  (∀ s, (∀ queue, queue < 64 → exec (.phaseRetry queue) s = .next (retryQueue queue s)) ∧
    exec (.phaseRetry 64) s = .next (retryLegacy s) ∧ exec (.phaseRetry 65) s = .next (retryMap s)) ∧
  (∀ req queue value s, queue < 64 → Accepted req (0x2510 + queue) 6 (leBytes 1 value) s → value % 256 = 1 →
    ringsRefused queue value s = false → (queueOf queue s).state = 0 →
    exec (.queueEnable req queue value) s = .next (enableQueue queue (writeStart req (0x2510 + queue) 6 s))) ∧
  (∀ req queue value s, queue < 64 → Accepted req (0x2510 + queue) 6 (leBytes 1 value) s → value % 256 = 0 →
    ringsRefused queue value s = false → (queueOf queue s).state ≠ 0 → (queueOf queue s).state ≠ 3 →
    ∃ u, u = updQueue queue (fun q => { q with state := 3, staleReads := none })
        (setEnt (Ent.queueEnable + 256 * queue) 1 0 (writeStart req (0x2510 + queue) 6 s)) ∧
      exec (.queueEnable req queue value) s = .next (if (queueOf queue s).state = 4 then
        directShadow queue (queueOf queue u).tail true u else u)) ∧
  (∀ queue s, (directShadow queue 0 true s).dispatch.queues = s.dispatch.queues ∧
    (directShadow queue 0 true s).hostif = s.hostif)

/-- The next fetched command of a queue, sound and permitted, behind no earlier one it is ORDERED after and with no wait,
is carried out by its opcode's row (R296, R300). A waiting command whose condition holds is carried out, and one
whose condition does not keeps waiting with the value seen; an object in host memory is seen as a poll has last read it; a poll
reads the host objects waited on and notes its time; a wait of HITCH_TIMEOUT_NS, of a queue or of a core's HWAIT, that no write has met is a job fault 0x6001 with its
record and count (R300, R308, R309). A finished
command completes unless dispatch is stopped, and completions held for want of ring room are tried again (R304); a launch whose stages and tasks are over ends; a drained queue becomes
OFF; a patch out of patience ends TIMEOUT; a version that nothing holds is freed and a waiting patch of its graph
tries again (R301, R302, R314, R315). -/
def Obligations.QueueCommandsAreCarriedOutAndEnd : Prop :=
  (∀ queue s c i r, queue < 64 → dispatchStopped s = false → fetchStalled queue s = false → nextCmdOf queue s = some c → c.phase = .fetched →
    badCommand queue c s = false → directCore queue s = 0xFF → notPermitted queue c s = false → cb c 53 = false →
    scheduleHolds queue c s = false → cb c 43 = false →
    ((cmdOpcode c = 0 ∧ i = .nop queue ∧ r = runNop queue c s) ∨
     (cmdOpcode c = 1 ∧ i = .launch queue ∧ r = runLaunch queue c s) ∨
     (cmdOpcode c = 2 ∧ i = .descriptor queue ∧ r = runDescriptor queue c s) ∨
     (cmdOpcode c = 3 ∧ i = .inlineWrite queue ∧ r = runInlineWrite queue c s) ∨
     (cmdOpcode c = 4 ∧ i = .graphLoad queue ∧ r = runGraphLoad queue c s) ∨
     (cmdOpcode c = 5 ∧ i = .graphPatch queue ∧ r = runGraphPatch queue c s) ∨
     (cmdOpcode c = 6 ∧ i = .graphUnload queue ∧ r = runGraphUnload queue c s) ∨
     (cmdOpcode c = 7 ∧ i = .task queue ∧ r = runTask queue c s)) →
    exec i s = .next (showWaiting queue r)) ∧
  (∀ queue s c u seen, queue < 64 → dispatchStopped s = false → fetchStalled queue s = false → nextCmdOf queue s = some c →
    c.phase = .waiting u seen → scheduleHolds queue c s = false →
    (c.met = true ∨ ∃ v, shownValue c s = some v ∧ waitHolds c v = true) →
    exec (.commandWaitMet queue) s =
      .next (showWaiting queue (runCmd queue c (updCmd queue c.id (fun c => { c with phase := .fetched }) s)))) ∧
  (∀ queue s c, queue < 64 → dispatchStopped s = false → nextCmdOf queue s = some c → c.phase = .fetched →
    badCommand queue c s = false → directCore queue s = 0xFF → notPermitted queue c s = false → cb c 53 = false →
    scheduleHolds queue c s = true → cmdOpcode c = 2 ∧ exec (.descriptor queue) s = .next s) ∧
  (∀ core q s g, core < 96 → g = cgOf core → (scheduleAllows core q s = true ↔ debtOf q g s = 0 ∧ coreOpen core q s = true ∧
    (∀ r, effectiveOn (currentSlot s) g s = some r → r = q ∨ readyWork r g s = false ∨ debtOf r g s ≠ 0) ∧
    (effectiveOn (currentSlot s) g s = some q ∨ coreHasWork core q s = true ∨
      leastLoad (fun x => debtOf x g s == 0 && (x == q || readyFor core x s)) s = some q))) ∧
  (∀ s u, s.dispatch.lastPoll + ent Ent.hostPollNs s ≤ s.now → hostReachable s = true → threadStalled 547 s = false →
    (polledObjects s).all (fun o => onHostPage o.1 s) = true →
    u = (polledObjects s).foldl (fun s o => readObject o.1 s) s →
    exec .hostPoll s = .next { u with
      legacy := { u.legacy with cmds := u.legacy.cmds.map (pollCmd u) },
      dispatch := { u.dispatch with
        lastPoll := s.now, queues := u.dispatch.queues.map (fun q => { q with cmds := q.cmds.map (pollCmd u) }),
        coreWaits := u.dispatch.coreWaits.map (pollWait u) } }) ∧
  (∀ queue core s c u seen, dispatchStopped s = false → nextCmdOf queue s = some c → c.phase = .waiting u seen →
    u + ent Ent.hitchTimeoutNs s ≤ s.now → c.met = false →
    exec (.hitchTimeout (some queue) core) s =
      .next (raiseJobFault 0x6001 (faultDetail 6 queue 4 (cmdTag c) (cmdOpcode c))
        (wbSubmit 0x6001 queue [cw c 1, seen.toNat, cw c 2] (count Cnt.hitchTimeouts 1 s)))) ∧
  (∀ core s x, dispatchStopped s = false → s.dispatch.coreWaits.find? (fun w => w.core == core) = some x →
    x.since + ent Ent.hitchTimeoutNs s ≤ s.now → x.met = false →
    exec (.hitchTimeout none (some core)) s =
      .next (raiseJobFault 0x6001 (faultDetail 5 core 4 0 0)
        (wbSubmit 0x6001 (0x100 + core) [x.addr, x.lastSeen.toNat, x.threshold.toNat] (count Cnt.hitchTimeouts 1 s)))) ∧
  (∀ queue cmd s c, queue < 64 → cmdOfQueue queue cmd s = some c → c.phase = .finished → dispatchStopped s = false →
    exec (.commandCompletion queue cmd) s = .next (completeCmd queue c s)) ∧
  (∀ queue cmd s c rest, queue < 64 → cmdOfQueue queue cmd s = none → (queueOf queue s).held = c :: rest → c.id = cmd →
    exec (.commandCompletion queue cmd) s =
      .next (fetchQueue queue (releaseHeld ((queueOf queue s).held.length) queue s))) ∧
  (∀ launch s l, launchOf launch (skipStages launch s) = some l → launchDone l = true →
    launchTasks launch (skipStages launch s) = false →
    exec (.launchComplete launch) s = .next (endLaunch l (skipStages launch s))) ∧
  (∀ queue s, queue < 64 → queueDrained queue s = true →
    exec (.queueDrainDone queue) s = .next (settleUndeploy (queueOff queue s))) ∧
  (∀ queue cmd s p, s.dispatch.patchWaits.find? (fun p => p.queue == queue && p.cmd == cmd) = some p →
    p.since + ent Ent.hitchTimeoutNs s ≤ s.now → dispatchStopped s = false →
    exec (.patchSlotTimeout queue cmd) s = .next (finishCmd queue cmd 5 0 0
      { s with dispatch := { s.dispatch with patchWaits := s.dispatch.patchWaits.erase p } })) ∧
  (∀ graph version s, exec (.versionFree graph version) s = .next (retryPatch graph (freeVersion graph version s))) ∧
  (∀ queue s c u seen v w, queue < 64 → dispatchStopped s = false → fetchStalled queue s = false → nextCmdOf queue s = some c →
    c.phase = .waiting u seen → scheduleHolds queue c s = false → c.met = false → shownValue c s = none →
    memCheck (cw c 1) 8 .read s = .ok → v = readObject (cw c 1) s → w = hitchRead (cw c 1) v →
    exec (.commandWaitMet queue) s = .next (if waitHolds c w = true then
        showWaiting queue (runCmd queue c (updCmd queue c.id (fun c => { c with phase := .fetched }) v))
      else holdCmd queue c (BitVec.ofNat 64 w) v))

/-- The oldest RESOLVE of a branch that the launch had not resolved yet is learnt, counted and settles the IDs and stages
that stood on it, and a later one does not overtake it; a
squashed ID whose agents and transfers have stopped leaves the tables; PREDICT_RESET empties the prediction table; a stage that
depends on an open branch, and that R321 lets run ahead, is dispatched under its ID, once its branch is resolved or
predicted its way and its predecessors have run or run ahead (R321 to R330). -/
def Obligations.SpeculationResolvesAndRetires : Prop :=
  (∀ launch branch outcome s l u out, s.runahead.resolves.find? (fun r => r.1 == launch && r.2.1 == branch) =
      some (launch, branch, outcome) →
    u = { s with runahead := { s.runahead with resolves := s.runahead.resolves.erase (launch, branch, outcome) } } →
    launchOf launch u = some l → alGet l.resolved branch = none → out = outcome.setWidth 32 →
    ∃ pred v w, pred = (openPrediction launch branch u).or (predictionOf l.queue l.graph branch u) ∧
      v = (if pred = none then u
        else count Cnt.predictions 1 (if pred = some out then u else count Cnt.mispredictions 1 u)) ∧
      w = updLaunch launch (fun x => { x with resolved := x.resolved ++ [(branch, outcome)] })
        (notePrediction { queue := l.queue, graph := l.graph, branch := branch, outcome := out } v) ∧
      exec (.branchResolve launch branch outcome) s = .next (skipStages launch
        ((w.runahead.ids.filter (fun i => !i.squashed)).foldl (fun s i => resolveId launch branch out i s) w))) ∧
  (∀ launch branch outcome s, (∃ first, s.runahead.resolves.find? (fun r => r.1 == launch && r.2.1 == branch) =
      some (launch, branch, first) ∧ first ≠ outcome) →
    exec (.branchResolve launch branch outcome) s = .next s) ∧
  (∀ spec s, s.runahead.ids.any (fun i => i.id == spec && i.squashed) = true →
    s.streaming.transfers.any (fun t => t.spec == spec) = false →
    ∃ t, exec (.rangeInvalidate spec) s = .next t ∧ t.runahead.ids.any (fun i => i.id == spec) = false ∧
      t.runahead.ranges.any (fun r => r.spec == spec) = false) ∧
  (∀ req value s, value % 256 ≠ 0 → Accepted req 0x2550 9 (leBytes 1 value) s →
    ∃ t, exec (.predictReset req value) s = .next t ∧ EndedOk Ent.predictReset req s t ∧
      t = { s with dict := t.dict, runahead := { s.runahead with predictions := [] } }) ∧
  (∀ launch stage s u l r v set id, u = skipStages launch s → launchOf launch u = some l → stageRecord l stage u = some r →
    versionOf l.graph l.version u = some v → stagePhase l stage = .waiting → mayDispatch l stage u = true →
    aheadStage l r v u = true →
    stageSet l (openBranches l v stage) u = some set → windowRoom l u = true → idFor set u = some id →
    rangesFit (stageRanges v stage id) u = true →
    exec (.specDispatch launch stage) s =
      .next (dispatchAhead l r id set (stageRanges v stage id) ((keptStages l u).contains stage) u))

/-- Outside a function-level reset, a write of a BAR4 register of 64 bits acts by its offset: LQ_CTRL enables or disables
the interface; SQ_BASE is taken while the interface is OFF; SQ_TAIL and CQ_HEAD move their rings while it is not
(R339, R340). The oldest fetched legacy command of an opcode that FENCE does not hold back is carried out by that
opcode's row; NOP and SIGNAL end OK at once; a WAIT whose condition holds ends OK and fetching goes on; a finished
legacy command, number 64, completes (R301, R342, R344). -/
def Obligations.TheLegacyInterfaceIsServed : Prop :=
  (∀ w s, s.hostif.flr = false → w.bytes = 8 → w.offset = 0 →
    exec (.lqCtrlWrite 0x008 w) s = .next (legacyEnable (w.value.toNat % 2 == 1) s)) ∧
  (∀ w s, s.hostif.flr = false → w.bytes = 8 → w.offset = 0 → s.legacy.state = 0 →
    exec (.lqCtrlWrite 0x018 w) s = .next { s with legacy := { s.legacy with sqBase := w.value } }) ∧
  (∀ w s, s.hostif.flr = false → w.bytes = 8 → w.offset = 0 → s.legacy.state ≠ 0 →
    exec (.lqCtrlWrite 0x018 w) s = .next s) ∧
  (∀ w s, s.hostif.flr = false → w.bytes = 8 → w.offset = 0 → s.legacy.state ≠ 0 →
    exec (.sqTail w) s = .next (legacyFetch { s with legacy := { s.legacy with
      sqTail := w.value.toNat % 2 ^ 32, staleReads := none } })) ∧
  (∀ w s, s.hostif.flr = false → w.bytes = 8 → w.offset = 0 → s.legacy.state ≠ 0 →
    ∃ u, u = { s with legacy := { s.legacy with cqHead := w.value.toNat % 2 ^ 32 } } ∧
      exec (.legacyCqHead w) s = .next (legacyFetch (legacyOff (releaseLegHeld s.legacy.held.length u)))) ∧
  (∀ s c i r, ((nextLegacy 0 s = some c ∧ i = .legacyNop ∧ r = finishLeg c.id 0 0 s) ∨
      (nextLegacy 1 s = some c ∧ i = .legacyDma ∧ r = runLegacyDma c s) ∨
      (nextLegacy 2 s = some c ∧ i = .legacyDesc ∧ r = runLegacyDesc c s) ∨
      (nextLegacy 3 s = some c ∧ i = .legacyKernel ∧ r = runLegacyKernel c s) ∨
      (nextLegacy 4 s = some c ∧ i = .legacyLaunch ∧ r = runLegacyLaunch c s) ∨
      (nextLegacy 6 s = some c ∧ i = .legacySignal ∧ r = finishLeg c.id 0 0 s)) →
    exec i s = .next r) ∧
  (∀ s c, s.legacy.cmds.find? (fun c => cmdOpcode c == 5 && c.phase != .finished && !legFenced c s) = some c →
    threadStalled 546 s = false →
    (c.met = true ∨ ∃ v, shownValue c s = some v ∧ condHolds (legCond c) v (cw c 2) (cw c 3) = true) →
    exec .legacyWait s = .next (legacyFetch (finishLeg c.id 0 0 s))) ∧
  (∀ cmd s c, s.legacy.cmds.find? (fun c => c.id == cmd && c.phase == .finished && !dispatchStopped s) = some c →
    exec (.commandCompletion 64 cmd) s = .next (completeLegacy c s)) ∧
  (∀ s c u v, s.legacy.cmds.find? (fun c => cmdOpcode c == 5 && c.phase != .finished && !legFenced c s) = some c →
    threadStalled 546 s = false → c.met = false → shownValue c s = none → memCheck (cw c 1) 8 .read s = .ok →
    u = readObject (cw c 1) s → v = hitchRead (cw c 1) u →
    exec .legacyWait s = .next (if condHolds (legCond c) v (cw c 2) (cw c 3) = true then legacyFetch (finishLeg c.id 0 0 u)
      else holdLeg c (BitVec.ofNat 64 v) u))

/-- JOB_DEPLOY of an open job, whose structures find room, ends DONE with those structures allocated and the job RUNNING under
its tag, its time and deployer noted and no restart counted; JOB_UNDEPLOY begins the undeploy, or is held while a restart runs; after
UNDEPLOY_DRAIN_NS the work left is cut off and the job is gone: NONE, or ZEROISING where it was sealed (R354, R355,
R502). CONTEXT_CREATE of a sound descriptor of a free number, whose partitions find room and whose quotas are within
free capacity, adds the context, waiting first for COLD, which it switches on, where it has a cold quota (R513); CONTEXT_DELETE of a context that nothing names removes it with its allocations and
charges (R356 to R360). -/
def Obligations.JobsAndContextsComeAndGo : Prop :=
  (∀ req value s x, Accepted req 0x2600 2 (leBytes 16 value.toNat) s → leAt (leBytes 16 value.toNat) 8 1 ≠ 1 →
    allocStructures (freshJob (actionStart req 0x2600 2 s)) = some x →
    ∃ t, exec (.jobDeploy req value) s = .next t ∧ EndedOk Ent.jobDeploy req s t ∧ t.job.state = jobRunning ∧
      t.job.tag = value.setWidth 64 ∧ t.job.deployedAt = s.now ∧ t.job.deployer = classNum (classOf req) ∧
      t.job.restarts = 0 ∧ (∀ e, e ∈ x.mem.extents → e ∈ t.mem.extents)) ∧
  (∀ req value s, Accepted req 0x2600 3 (leBytes 1 value) s → s.job.state = jobRestarting →
    ∃ u, u = actionStart req 0x2600 3 s ∧
      exec (.jobUndeploy req value) s = .next { u with job := { u.job with undeployHeld := true } } ∧
      Runs Ent.jobUndeploy req s { u with job := { u.job with undeployHeld := true } }) ∧
  (∀ req value s, Accepted req 0x2600 3 (leBytes 1 value) s → s.job.state ≠ jobRestarting →
    exec (.jobUndeploy req value) s = .next (beginUndeploy (actionStart req 0x2600 3 s))) ∧
  (∀ s, s.job.state = jobUndeploying → s.job.undeployAt + ent Ent.undeployDrainNs s ≤ s.now →
    ∃ t, exec .undeployDrainTimeout s = .next t ∧ t.job.contexts = [] ∧ t.mem.dram = [] ∧ t.mem.jobKeys = none ∧
      t.service.admitted = [] ∧ t.dispatch.graphs = [] ∧ t.xlate.ptes = [] ∧
      t.job.state = if (cutRequests (cutCommands (cutRecords s))).job.sealed_ then jobZeroising else jobNone) ∧
  (∀ req desc s c, Accepted req 0x2601 1 (leBytes 32 desc.toNat) s → ctxBad desc = false → contextOf (kNum desc) s = none →
    placeContext desc s = some c → (c.coldQuota ≠ 0 → coldUp s = true) →
    ∃ t, exec (.contextCreate req desc) s = .next t ∧ EndedOk Ent.contextCreate req s t ∧
      t.job.contexts = s.job.contexts ++ [c] ∧ t.mem = s.mem ∧ t.dispatch = s.dispatch ∧ t.service = s.service ∧
      c.num = kNum desc ∧ c.hbmQuota = kw desc 2 ∧ c.coldQuota = kw desc 3 ∧ c.hbmUsed = 0 ∧ c.coldUsed = 0) ∧
  (∀ req desc s c, Accepted req 0x2601 1 (leBytes 32 desc.toNat) s → ctxBad desc = false → contextOf (kNum desc) s = none →
    placeContext desc s = some c → c.coldQuota ≠ 0 → coldUp s = false →
    ∃ t, exec (.contextCreate req desc) s = .next t ∧ Runs Ent.contextCreate req s t ∧ t.job = s.job ∧ t.mem = s.mem ∧
      t.power = { (switchColdOn s).power with
        coldWaits := s.power.coldWaits ++ [(req, Ent.contextCreate, leBytes 32 desc.toNat)] }) ∧
  (∀ req context s, context < 256 → Accepted req 0x2601 2 (leBytes 1 context) s → (contextOf context s).isSome = true →
    contextInUse context s = false →
    ∃ t, exec (.contextDelete req context) s = .next t ∧ EndedOk Ent.contextDelete req s t ∧
      t.job.contexts = s.job.contexts.filter (fun c => c.num != context) ∧
      (∀ e, e ∈ t.mem.extents → e.context ≠ some context) ∧ (∀ p, p ∈ t.xlate.charged → p.2 ≠ context) ∧
      t.dispatch = s.dispatch ∧ t.service = s.service)

/-- SCHED_COMMIT of a sound pending table makes that content of it pending for the next cycle, whose start, and not slot 0 of the
present one, makes it the active table (R363); at a slot boundary, carried out once, a core that has a queue goes to the queue with an effective
reservation and ready work (R364, R365); a lent core is reclaimed for it (R364). Under the schedule a group that a slot
ahead needs begins to wake as late as its wake time and WAKE_MARGIN_NS allow, one that is still entering a state after its
entry, and one that a slot ahead allows only a
shallower depth wakes to that depth (R369); a group is noted idle from when it became so, and steps down to the allowed
depth, if there is one, once it has been idle for IDLE_HOLD_NS (R370). -/
def Obligations.ScheduleIsFollowedAndGroupsSleep : Prop :=
  (∀ req value s, Accepted req 0x2603 0x02 (leBytes 1 value) s → s.job.pendingTable.all (fun p => slotOk p.2.toNat) = true →
    ∃ t, exec (.schedCommit req value) s = .next t ∧ EndedOk Ent.schedCommit req s t ∧
      t = { s with dict := t.dict, job := { s.job with
        schedPending := true, committedTable := s.job.pendingTable, committedIn := s.now / 128000 } }) ∧
  (∀ s, s.job.schedPending = true → s.now % 128000 < 1000 → s.job.committedIn < s.now / 128000 →
    exec .scheduleCycleStart s = .next (count Cnt.schedCommits 1 { s with job := { s.job with
      activeTable := s.job.committedTable, schedPending := false, committedTable := [],
      replaced := (s.now / 1000, BitVec.ofNat 128 (slotEntry s.job.activeTable 127)) } })) ∧
  (∀ s, ent Ent.schedEnable s ≠ 0 → s.now / 1000 ≠ s.job.boundaryAt → s.job.outgoing = [] → s.job.debts = [] →
    ∃ t, exec .slotBoundary s = .next t ∧ t.job.boundaryAt = s.now / 1000 ∧
      ∀ core q old, core < 96 → alGet s.job.coreQueue core = some old →
        effectiveOn (currentSlot s) (cgOf core) s = some q → readyWork q (cgOf core) s = true →
        alGet t.job.coreQueue core = some q) ∧
  (∀ s, ent Ent.schedEnable s = 0 ∨ s.now / 1000 = s.job.boundaryAt → exec .slotBoundary s = .next s) ∧
  (∀ core q old s, core < 96 → effectiveOn (currentSlot s) (cgOf core) s = some q →
    alGet s.job.coreQueue core = some old → q ≠ old → readyWork q (cgOf core) s = true → debtOf q (cgOf core) s = 0 →
    ∃ t, exec (.reclaim core) s = .next t ∧ alGet t.job.coreQueue core = some q ∧
      counter Cnt.reclaims t = (counter Cnt.reclaims s + 1) % 2 ^ 64 ∧
      t.job.outgoing =
        s.job.outgoing ++ [{ core := core, queue := old, since := readySince core q s, reclaim := true }]) ∧
  (∀ cg s u g n, cg < 16 → u = settleGroups s → g = u.power.groups.getD cg GroupPower.reset → ent Ent.schedEnable u ≠ 0 →
    s.power.mainOn = true → g.code ≠ 0 → g.code < 5 → nextSlot (fun sl => awakeIn sl cg u) u = some n →
    (n + 1) * 1000 - s.now % 1000 ≤ wakeNs g.code (residentMib cg u) + ent Ent.wakeMarginNs u →
    exec (.predictiveWake cg) s = .next (count Cnt.predictiveWakes 1 (wakeGroup cg u))) ∧
  (∀ cg s u g n, cg < 16 → u = settleGroups s → g = u.power.groups.getD cg GroupPower.reset → ent Ent.schedEnable u ≠ 0 →
    g.code ≠ 0 → g.code < 5 → nextSlot (fun sl => awakeIn sl cg u) u = some n →
    wakeNs g.code (residentMib cg u) + ent Ent.wakeMarginNs u < (n + 1) * 1000 - s.now % 1000 →
    nextSlot (fun sl => decide (field (slotEntry u.job.activeTable sl) 111 109 + 1 < g.code)) u = none →
    exec (.predictiveWake cg) s = .next u) ∧
  (∀ cg s u g n m depth, cg < 16 → u = settleGroups s → g = u.power.groups.getD cg GroupPower.reset →
    ent Ent.schedEnable u ≠ 0 → s.power.mainOn = true → g.code ≠ 0 → g.code < 5 →
    nextSlot (fun sl => awakeIn sl cg u) u = some n →
    wakeNs g.code (residentMib cg u) + ent Ent.wakeMarginNs u < (n + 1) * 1000 - s.now % 1000 →
    nextSlot (fun sl => decide (field (slotEntry u.job.activeTable sl) 111 109 + 1 < g.code)) u = some m →
    (m + 1) * 1000 - s.now % 1000 ≤ wakeNs g.code (residentMib cg u) + ent Ent.wakeMarginNs u →
    depth = field (slotEntry u.job.activeTable ((currentSlot u + m + 1) % 128)) 111 109 →
    exec (.predictiveWake cg) s = .next (count Cnt.predictiveWakes 1 (wakeToDepth cg depth u))) ∧
  (∀ cg s u g, cg < 16 → u = settleGroups s → g = u.power.groups.getD cg GroupPower.reset → groupIdle cg u = true →
    ent Ent.schedEnable u ≠ 1 → g.idleSince = none → exec (.idleStepDown cg) s = .next u) ∧
  (∀ (s : State) (cg : Nat) (g : GroupPower), s.power.groups[cg]? = some g →
    (noteIdle s).power.groups[cg]? =
      some { g with idleSince := if groupIdle cg s = true then some (g.idleSince.getD s.now) else none }) ∧
  (∀ cg s u g since, cg < 16 → u = settleGroups s → g = u.power.groups.getD cg GroupPower.reset → groupIdle cg u = true →
    ent Ent.schedEnable u ≠ 1 → g.idleSince = some since → since + ent Ent.idleHoldNs u ≤ s.now →
    (∀ core, core ∈ groupCores cg → (matOf core u).chains = []) →
    (∀ d, allowedDepth cg u = some d →
      exec (.idleStepDown cg) s = .next (stageStepDown (cg / 8) (stepDownGroup cg d u))) ∧
    (allowedDepth cg u = none → exec (.idleStepDown cg) s = .next u)) ∧
  (∀ cg s u g n, cg < 16 → u = settleGroups s → g = u.power.groups.getD cg GroupPower.reset → ent Ent.schedEnable u ≠ 0 →
    u.power.mainOn = true → g.code = 6 → g.wakeAfter = false → nextSlot (fun sl => awakeIn sl cg u) u = some n →
    (n + 1) * 1000 - u.now % 1000 ≤ (g.until_ - u.now) + wakeNs g.other (residentMib cg u) + ent Ent.wakeMarginNs u →
    exec (.predictiveWake cg) s = .next (count Cnt.predictiveWakes 1 (wakeGroup cg u))) ∧
  (∀ s, s.job.schedPending = true → s.now / 128000 ≤ s.job.committedIn → exec .scheduleCycleStart s = .next s)

/-- A codeword that the patrol scrub reads without error leaves memory as it is and moves the scrub on; one with one
symbol in error is counted as corrected and its row's count raised (R384, R387); a row that is due is remapped on the
fly, an uncorrectable codeword of it reading as zero afterwards (R385, R389), or its failure is a job fault where it
cannot be (R390), and one whose failure a restart is to settle waits no more, a copy that meets errors being that of the model's own operation (log 169). REPAIR_RUN ends DONE with every journal entry
repaired or given up, and an entry that was so already as it was (R393, R394); REPAIR_ADD adds a PENDING entry for a
new row, counts one a full journal cannot take, and changes nothing else; TEST_PORT_RAW changes its own status, and where its
instructions change a stack's configuration that stack's contents read as free values (R392, R395, R398; log 46). -/
def Obligations.MemoryErrorsAndRepairsFollowTheRules : Prop :=
  (∀ s, tierOn false s = true → s.mem.scrubHbm + 1 < tierWords false →
    ∃ t, exec (.patrolScrub false 0) s = .next t ∧ t.mem.scrubHbm = s.mem.scrubHbm + 1 ∧ t.mem.dram = s.mem.dram ∧
      t.mem.rowErrors = s.mem.rowErrors ∧ t.mem.remaps = s.mem.remaps) ∧
  (∀ s mpa, tierOn false s = true → s.mem.scrubHbm + 1 < tierWords false → mpa = wordMpa false s.mem.scrubHbm →
    ∃ t, exec (.patrolScrub false 1) s = .next t ∧ t.mem.scrubHbm = s.mem.scrubHbm + 1 ∧ t.mem.dram = s.mem.dram ∧
      counter Cnt.hbmCorrected t = (counter Cnt.hbmCorrected s + 1) % 2 ^ 64 ∧
      rowErrorCount mpa t = rowErrorCount mpa s + 1) ∧
  (∀ cold symbols s, tierOn cold s = false → exec (.patrolScrub cold symbols) s = .next s) ∧
  (∀ (mpa : Nat) (d : RowAsk) (s u : State), s.mem.remapDue.find? (fun d => d.mpa / 2 ^ 40 == mpa / 2 ^ 40 &&
      memUnit (mpa / 2 ^ 40) (d.mpa % 2 ^ 40) == memUnit (mpa / 2 ^ 40) (mpa % 2 ^ 40)) = some d →
    sameRow d.mpa mpa = true → s.mem.failing.any (fun m => sameRow m.1 d.mpa) = false →
    u = { s with mem := { s.mem with remapDue := s.mem.remapDue.filter (fun x => !sameRow x.mpa d.mpa) } } →
    canRemap d.mpa u = true →
    exec (.rowRemap { mpa := mpa }) s = .next (if d.ue = true then zeroRow d.mpa (remapRow d.mpa d.source Cnt.remapsOnline u)
      else remapRow d.mpa d.source Cnt.remapsOnline u)) ∧
  (∀ (mpa : Nat) (d : RowAsk) (s u : State), s.mem.remapDue.find? (fun d => d.mpa / 2 ^ 40 == mpa / 2 ^ 40 &&
      memUnit (mpa / 2 ^ 40) (d.mpa % 2 ^ 40) == memUnit (mpa / 2 ^ 40) (mpa % 2 ^ 40)) = some d →
    sameRow d.mpa mpa = true → s.mem.failing.any (fun m => sameRow m.1 d.mpa) = false →
    u = { s with mem := { s.mem with remapDue := s.mem.remapDue.filter (fun x => !sameRow x.mpa d.mpa) } } →
    canRemap d.mpa u = false →
    exec (.rowRemap { mpa := mpa }) s = .next (failRow d.mpa d.source d.record (if d.ue = true then 0x8002 else 0x8001) u)) ∧
  (∀ (mpa : Nat) (errors : List (Nat × Nat)) (d : RowAsk) (s : State), s.mem.remapDue.find? (fun d => d.mpa / 2 ^ 40 == mpa / 2 ^ 40 &&
      memUnit (mpa / 2 ^ 40) (d.mpa % 2 ^ 40) == memUnit (mpa / 2 ^ 40) (mpa % 2 ^ 40)) = some d →
    sameRow d.mpa mpa = true →
    exec (.rowRemap { mpa := mpa, errors := errors }) s = .next (remapOnline d errors s)) ∧
  (∀ (mpa : Nat) (d : RowAsk) (s : State), s.mem.remapDue.find? (fun d => d.mpa / 2 ^ 40 == mpa / 2 ^ 40 &&
      memUnit (mpa / 2 ^ 40) (d.mpa % 2 ^ 40) == memUnit (mpa / 2 ^ 40) (mpa % 2 ^ 40)) = some d →
    sameRow d.mpa mpa = true → s.mem.failing.any (fun m => sameRow m.1 d.mpa) = true →
    exec (.rowRemap { mpa := mpa }) s = .next { s with mem := { s.mem with
      remapDue := s.mem.remapDue.filter (fun x => !sameRow x.mpa d.mpa) } }) ∧
  (∀ req value s, Accepted req 0x6700 0x01 (leBytes 1 value) s →
    ∃ t, exec (.repairRun req value) s = .next t ∧ EndedOk Ent.repairRun req s t ∧
      t.mem.journal.length = s.mem.journal.length ∧ t.mem.dram = s.mem.dram ∧ t.dispatch = s.dispatch ∧
      ((∀ e : JournalEntry, e ∈ s.mem.journal → 1 ≤ e.state ∧ e.state ≤ 4) → ∀ e : JournalEntry, e ∈ t.mem.journal → e.state = 3 ∨ e.state = 4) ∧
      (∀ (i : Nat) (e : JournalEntry), s.mem.journal[i]? = some e → e.state = 3 ∨ e.state = 4 → t.mem.journal[i]? = some e)) ∧
  (∀ req entry j s unit, Accepted req 0x6700 0x03 (leBytes 16 entry.toNat) s → j = entry.toNat % 2 ^ 64 →
    unit = (if field j 59 56 < 12 then field j 55 51
      else Config.repairPackage (field j 55 51) (field j 50 45) (field j 44 27) % 16) →
    s.mem.journal.any (fun x => x.region == field j 59 56 && x.channel == field j 55 51 && x.bank == field j 50 45 &&
      x.row == field j 44 27) = false → s.mem.journal.length < 1024 →
    ∃ t, exec (.repairAdd req entry) s = .next t ∧ EndedOk Ent.repairAdd req s t ∧
      t = { s with dict := t.dict, mem := { s.mem with journal := s.mem.journal ++ [{
        state := 1, region := field j 59 56, unit := unit, channel := field j 55 51, bank := field j 50 45,
        row := field j 44 27, attempts := field j 26 24, time := s.now,
        mpa := Config.rowFirst (field j 59 56) unit (field j 50 45) (field j 44 27) }] } }) ∧
  (∀ req value s bytes stack, bytes = leBytes 64 value.toNat → stack = leAt bytes 0 1 → Accepted req 0x6700 0x04 bytes s →
    ∃ t l, l = (if Config.rawConfigures bytes = true ∧ s.mem.scrambled.contains stack = false then
        s.mem.scrambled ++ [stack] else s.mem.scrambled) ∧
      exec (.testPortRaw req value) s = .next t ∧ EndedOk Ent.testPortRaw req s t ∧
      t = { s with dict := t.dict, mem := { s.mem with scrambled := l } })

/-- The oldest map record is carried out by the row of its OP (a migration while the host is reachable); a record that
any check refuses changes no entry and no quota; one page mapped to the host or reprotected then has the kind, rights
and frame that the record gives (R409 to R412). -/
def Obligations.MapRecordsAreCarriedOut : Prop :=
  (∀ i s r rest o, s.xlate.mapRecords = r :: rest → o = (mapOp r.words).op → (o = 6 → hostReachable s = true) →
    ((o = 1 ∧ i = .alloc) ∨ (o = 2 ∧ i = .free) ∨ (o = 3 ∧ i = .mapHost) ∨ (o = 4 ∧ i = .setAbsent) ∨
     (o = 5 ∧ i = .protect) ∨ (o = 6 ∧ i = .migrate) ∨ (o = 7 ∧ i = .deny)) →
    exec i s = .next (runMap r s)) ∧
  (∀ r s m, m = mapOp r.words →
    (mapBad r.words s || mapSealed r.cls m.op s || mapInModule m || (mapPages m).any (fun p => pageBreaks m.op p s) ||
      mapNoSpace m s) = true →
    (runMap r s).xlate.ptes = s.xlate.ptes ∧ (runMap r s).job.contexts = s.job.contexts) ∧
  (∀ r s m, m = mapOp r.words → m.op = 3 ∨ m.op = 5 → m.pages = 1 →
    (mapBad r.words s || mapSealed r.cls m.op s || mapInModule m || (mapPages m).any (fun p => pageBreaks m.op p s) ||
      mapNoSpace m s) = false →
    (pageView m.first (runMap r s)).kind = (if m.op = 3 then 3 else (pageView m.first s).kind) ∧
    (pageView m.first (runMap r s)).rights = m.rights ∧
    (m.op = 3 → (pageView m.first (runMap r s)).frame = some (m.bus / 4096)))

/-- A 64-bit write of MAP_TAIL moves the tail of an enabled ring and fetches, and is discarded while the ring is off; one
of FQ_HEAD moves the fault queue's head and enqueues what was latched; FQ_OVERFLOW_CLEAR clears the overflow where no
fault is left unqueued (R298, R409, R416, R417). An access that translates stalls nothing; one whose page is absent
or short of the right joins or creates the page's pending fault; an address beyond the space is a job fault of cause
9 (R401, R414, R415). A released agent replays its access (R418); a fault pending for FAULT_TIMEOUT_NS is a job fault
of cause 4, with the TAG and OPCODE of its first agent's work (R598), and no longer pending (R419). -/
def Obligations.PageFaultsAndTheirRegisters : Prop :=
  (∀ w s, s.hostif.flr = false → w.bytes = 8 → w.offset = 0 → mapOn s = true →
    exec (.mapTail w) s = .next (fetchMap { s with hostif := { s.hostif with mapTailReg := w.value }, xlate := { s.xlate with mapTail := w.value.toNat % 2 ^ 32, mapStale := none } })) ∧
  (∀ w s, s.hostif.flr = false → w.bytes = 8 → w.offset = 0 → mapOn s = false → exec (.mapTail w) s = .next s) ∧
  (∀ w s, s.hostif.flr = false → w.bytes = 8 → w.offset = 0 →
    exec (.fqHead w) s = .next (drainLatched s.xlate.faults.length { s with hostif := { s.hostif with fqHeadReg := w.value }, xlate := { s.xlate with fqHead := w.value.toNat % 2 ^ 32 } })) ∧
  (∀ req value s, Accepted req 0x2800 0x06 (leBytes 1 value) s →
    ∃ t, exec (.fqOverflowClear req value) s = .next t ∧ EndedOk Ent.fqOverflowClear req s t ∧
      t.xlate.overflow = (s.xlate.overflow && !s.xlate.faults.all (fun f => f.queued)) ∧
      t = { s with dict := t.dict, xlate := { s.xlate with overflow := t.xlate.overflow } }) ∧
  (∀ agent va access s, agent < 548 → memCheck va.toNat 1 access s = .ok →
    exec (.pageFault agent va access) s = .next s) ∧
  (∀ agent va access s p, agent < 548 → memCheck va.toNat 1 access s = .absent p →
    inModuleRange (p * 4096) = false ∨ alGet s.xlate.ptes p ≠ some 0 →
    exec (.pageFault agent va access) s =
      .next (pageFaultAt agent p access (agentWork agent s).1 (agentWork agent s).2 (0, 0) (noteMiss agent p s))) ∧
  (∀ agent va access s, agent < 548 → 2 ^ 52 ≤ va.toNat →
    exec (.pageFault agent va access) s =
      .next (jobFaultPlain (agentUnit agent).1 (agentUnit agent).2 9 0 0 s)) ∧
  (∀ agent s r, agent < 548 → s.xlate.released.find? (fun r => r.1 == agent) = some r →
    exec (.faultReplay agent) s = .next (replayAgent agent (count Cnt.replays 1
      { s with xlate := { s.xlate with released := s.xlate.released.erase r } }))) ∧
  (∀ page s f, s.xlate.faults.find? (fun f => f.page == page && decide (f.time + ent Ent.faultTimeoutNs s ≤ s.now)) = some f →
    ∃ t, exec (.faultTimeout page) s = .next t ∧
      t = jobFaultPlain (agentUnit f.firstAgent).1 (agentUnit f.firstAgent).2 4 f.work.1 f.work.2
        { s with xlate := { s.xlate with faults := s.xlate.faults.filter (fun x => x.page != page) } } ∧
      t.xlate.faults.any (fun f => f.page == page) = false)

/-- A BAR2 access within the window: closed, it reads as all ones or is discarded, and is counted; to pages that are not
mapped for it, the same; otherwise it reads, writes or atomically updates the memory at BAR2_WINDOW_VA plus its
offset, an atomic one answering the old value; within 150 ns of the completion of a command without VIS_ALL, a byte that it may have written and the host has not
written since reads as a free value, and every other byte as it stands (R440, R441; log 189); a read with a codeword that has one symbol in error is served and
reported, and one whose check fails is answered with an error completion (R384, R385; log 162). An AtomicOp of another width or off its alignment is answered
Unsupported Request (log 16). BAR2_RESIZE sets the window's size, and before start-up has completed step 7 is answered with Request Retry Status (R429,
R432 to R435, R528). -/
def Obligations.Bar2ReachesMappedPages : Prop :=
  (∀ read bytes s, read.offset + bytes ≤ s.hostif.bar2Size → bar2Closed s = true →
    exec (.bar2Read read bytes) s = .next (count Cnt.bar2Closed 1 { s with hostif := { s.hostif with completions := (read.offset, some (List.replicate bytes 0xFF)) :: s.hostif.completions } })) ∧
  (∀ offset bytes s va, offset + bytes ≤ s.hostif.bar2Size → bar2Closed s = false → va = ent Ent.bar2WindowVa s + offset →
    bar2Mapped va bytes .read s = true → s.hostif.unseen = [] →
    ∃ t, exec (.bar2Read { offset := offset } bytes) s = .next t ∧
      t.hostif.completions = (offset, some (devRead s va bytes)) :: s.hostif.completions ∧ t.mem.dram = s.mem.dram) ∧
  (∀ offset bytes s u va k m, offset + bytes ≤ s.hostif.bar2Size → bar2Closed s = false →
    va = ent Ent.bar2WindowVa s + offset → bar2Mapped va bytes .read s = true →
    u = ensureFrame ((va / 32 * 32 + 32 * k) / 4096) (hubAccess va bytes s) →
    mpaOf (va / 32 * 32 + 32 * k) u = some m →
    exec (.bar2Read { offset := offset, errors := [(k, 1)] } bytes) s =
      .next (bar2Complete offset (some (bar2Bytes va bytes (correctedError 0 m 1 u))) (correctedError 0 m 1 u)) ∧
    (∀ symbols, 2 ≤ symbols → symbols ≤ 3 → exec (.bar2Read { offset := offset, errors := [(k, symbols)] } bytes) s =
      .next (bar2Complete offset none (uncorrectableError 0 m u)))) ∧
  (∀ read bytes s, read.offset + bytes ≤ s.hostif.bar2Size → bar2Closed s = false →
    bar2Mapped (ent Ent.bar2WindowVa s + read.offset) bytes .read s = false →
    ∃ t, exec (.bar2Read read bytes) s = .next t ∧
      t.hostif.completions = (read.offset, some (List.replicate bytes 0xFF)) :: s.hostif.completions ∧
      counter Cnt.bar2Unmapped t = (counter Cnt.bar2Unmapped s + 1) % 2 ^ 64) ∧
  (∀ offset bytes s, offset + bytes.length ≤ s.hostif.bar2Size → bar2Closed s = true →
    exec (.bar2Write offset bytes) s = .next (count Cnt.bar2Closed 1 s)) ∧
  (∀ offset bytes s va, offset + bytes.length ≤ s.hostif.bar2Size → bar2Closed s = false →
    va = ent Ent.bar2WindowVa s + offset → bar2Mapped va bytes.length .write s = true →
    exec (.bar2Write offset bytes) s =
      .next (noteBar2Write va bytes.length (devWrite va bytes (hubAccess va bytes.length s)))) ∧
  (∀ offset op width operand compare s va old, offset + width ≤ s.hostif.bar2Size → width = 4 ∨ width = 8 →
    offset % width = 0 → bar2Closed s = false → va = ent Ent.bar2WindowVa s + offset → bar2Mapped va width .atomic s = true →
    old = devNat s va width →
    ∃ t, exec (.bar2Atomic offset op width operand compare) s = .next t ∧
      t.hostif.completions = (offset, some (leBytes width old)) :: s.hostif.completions ∧
      t.mem = (devWrite va (leBytes width (match op with
        | .fetchAdd => (old + operand.toNat) % 2 ^ (8 * width)
        | .swap => operand.toNat % 2 ^ (8 * width)
        | .cas => if old = compare.toNat % 2 ^ (8 * width) then operand.toNat % 2 ^ (8 * width) else old))
        (hubAccess va width s)).mem) ∧
  (∀ offset op width operand compare s, offset + width ≤ s.hostif.bar2Size → bar2Closed s = false →
    (width ≠ 4 ∧ width ≠ 8) ∨ offset % width ≠ 0 →
    exec (.bar2Atomic offset op width operand compare) s =
      .next { s with hostif := { s.hostif with completions := (offset, none) :: s.hostif.completions } }) ∧
  (∀ n s, n ≤ 8 → 7 ≤ s.recovery.bootStage →
    exec (.bar2Resize (2 ^ n)) s = .next { s with hostif := { s.hostif with bar2Size := 2 ^ n * 2 ^ 30 } }) ∧
  (∀ n s, n ≤ 8 → s.recovery.bootStage < 7 →
    exec (.bar2Resize (2 ^ n)) s =
      .next { s with hostif := { s.hostif with retryAnswers := s.hostif.retryAnswers + 1 } }) ∧
  (∀ offset bytes s va, offset + bytes ≤ s.hostif.bar2Size → bar2Closed s = false → va = ent Ent.bar2WindowVa s + offset →
    bar2Mapped va bytes .read s = true →
    exec (.bar2Read { offset := offset } bytes) s =
      .next (bar2Complete offset (some (bar2Bytes va bytes (hubAccess va bytes s))) (hubAccess va bytes s))) ∧
  (∀ va n s, (∀ i, i < n → bar2Stale (va + i) s = false) → bar2Bytes va n s = devRead s va n) ∧
  (∀ va n s i b, (devRead s va n)[i]? = some b → bar2Stale (va + i) s = true →
    (bar2Bytes va n s)[i]? = some (Config.unsteadyByte (2 ^ 64 + va + i) s.now))

/-- EVENT_CAUSE_CLEAR clears the bits written as 1 (R431). A write of a vector's address register or of its data and mask
register takes its value; unmasking a pending vector sends its message, of free contents where its entry was reprogrammed
while it was unmasked (R443, R450). A change of reachability notes when it
began (R447); before start-up has completed step 7 it is answered with Request Retry Status (R528). An error of a DMA request is a job fault 0xA002; a poisoned write
is counted (R445, R446). A function-level reset, a hot reset and an assertion of PERST_N count one and have its
effects: the host registers read their reset values, the map ring is empty and host queues are disabled, the job
staying as it is (R449). A lost link makes the host unreachable; a trained link has the lower generation and the
widest width, and one narrower than 16 lanes is an event (R427, R428, R448). -/
def Obligations.HostEventsAndLinkChanges : Prop :=
  (∀ w s, w.bytes = 8 → w.offset = 0 →
    exec (.eventCauseClear w) s = .next { s with hostif := { s.hostif with eventCause := s.hostif.eventCause &&& ~~~w.value } }) ∧
  (∀ v w s, v < 128 → w.bytes = 8 → w.offset = 0 →
    exec (.msixTableWrite (16 * v) w) s = .next { s with hostif := { s.hostif with
      msixAddr := alSet s.hostif.msixAddr v w.value,
      msixTorn := if s.hostif.msixUnmasked.contains v = false ∨ s.hostif.msixTorn.contains v = true then s.hostif.msixTorn
        else v :: s.hostif.msixTorn } }) ∧
  (∀ v w s, v < 128 → w.bytes = 8 → w.offset = 0 → w.value.getLsbD 32 = false → s.hostif.msixPending.contains v = true →
    s.hostif.msixUnmasked.contains v = false →
    s.hostif.bme = true → s.hostif.d3hot = false → s.hostif.flr = false → s.hostif.linkGen ≠ 0 →
    ∃ t, exec (.msixTableWrite (16 * v + 8) w) s = .next t ∧ t.hostif.msixPending.contains v = false ∧
      t.hostif.msixUnmasked.contains v = true ∧
      t.hostif.msixSent = {
        vector := v,
        addr := if s.hostif.msixTorn.contains v = true then (Config.msixAddr v s.now).toNat
          else ((alGet s.hostif.msixAddr v).getD 0).toNat,
        data := if s.hostif.msixTorn.contains v = true then Config.msixData v s.now else w.value.setWidth 32,
        at_ := s.now } :: s.hostif.msixSent) ∧
  (∀ s, 7 ≤ s.recovery.bootStage → s.hostif.bme = true → hostReachable s = true → s.hostif.unreachableSince = none →
    ∃ t, exec (.hostUnreachable (.busMaster false)) s = .next t ∧ hostReachable t = false ∧
      t = { s with hostif := { s.hostif with bme := false, unreachableSince := some s.now } }) ∧
  (∀ event s, s.recovery.bootStage < 7 → exec (.hostUnreachable event) s =
    .next { s with hostif := { s.hostif with retryAnswers := s.hostif.retryAnswers + 1 } }) ∧
  (∀ busAddr agent error s, agent < 548 →
    exec (.dmaRequestError busAddr agent error) s = .next (raiseJobFault 0xA002 (faultDetail 9 agent 7 0 0)
      (wbSubmit 0xA002 agent [busAddr, error] s))) ∧
  (∀ s, ∃ t, exec (.poisonedWrite false) s = .next t ∧
      counter Cnt.poisonedReceived t = (counter Cnt.poisonedReceived s + 1) % 2 ^ 64 ∧ t.mem = s.mem ∧ t.job = s.job) ∧
  (∀ s, ∃ t, exec (.functionLevelReset true) s = .next t ∧ t.hostif.flr = true ∧ t.hostif.msixAddr = [] ∧
      t.hostif.msixUnmasked = [] ∧ t.hostif.bme = false ∧ t.xlate.mapRecords = s.xlate.mapRecords.filter (fun r => r.at_.isNone) ∧ ent Ent.mapEnable t = 0 ∧
      t.legacy.state = 0 ∧ hostReachable t = false ∧ t.job = s.job ∧
      ((∀ q, q ∈ s.dispatch.queues → q.held = []) → s.legacy.held = [] → t.mem.dram = s.mem.dram) ∧
      counter Cnt.flrs t = (counter Cnt.flrs s + 1) % 2 ^ 64) ∧
  (∀ s, ∃ t, exec (.functionLevelReset false) s = .next t ∧ t.hostif.flr = false) ∧
  (∀ s, exec (.perstN .hotReset) s = .next (count Cnt.flrs 1 (flrEffects s)) ∧
    exec (.perstN .perstReleased) s = .next { s with pins := { s.pins with perstN := true } } ∧
    (s.pins.perstN = true → exec (.perstN .perstAsserted) s = .next (count Cnt.flrs 1 (flrEffects (loseLink { s with pins := { s.pins with perstN := false } }))))) ∧
  (∀ s, s.hostif.linkGen ≠ 0 → ∃ t, exec .linkDown s = .next t ∧ t.hostif.linkGen = 0 ∧ t.hostif.linkWidth = 0 ∧
      hostReachable t = false ∧ counter Cnt.linkDowns t = (counter Cnt.linkDowns s + 1) % 2 ^ 64) ∧
  (∀ (partner : LinkPartner) lanes s best, 7 ≤ s.recovery.bootStage → s.pins.perstN = true → 4 ≤ partner.highest →
    4 ≤ partner.trained → 1 ≤ lanes → best = Nat.min (Nat.min 7 partner.highest) (ent Ent.maxLinkGen s) →
    ∃ t, exec (.linkTraining partner lanes) s = .next t ∧ t.hostif.linkGen = Nat.min best partner.trained ∧
      t.hostif.linkWidth = 2 ^ Nat.log2 (Nat.min lanes 16) ∧
      ((t.hostif.linkWidth < 16 ∨ t.hostif.linkGen < best) → t.hostif.eventCause.getLsbD 2 = true))

/-- A served message that repeats no kept response is answered and performed: one with a bad frame with BAD_FRAME; a
whole READ with the entry's bytes; a whole WRITE, every check passed, with OK before its entry's action; MULTI_WRITE
item by item in order after every item has passed, of two that name one entry the later, and not at all where one fails or
enables a queue whose rings find no room; MULTI_READ with all its values
(R542 to R550). A 10BASE-T1S frame is served where it goes to the module's management address, or is a broadcast READ of
an entry in 0x1000 to 0x1FFF, and has no effect otherwise; so has one of another ethertype, and an MCTP message of another
type, vendor or static target address (R552, R553). -/
def Obligations.DictionaryMessagesAreAnswered : Prop :=
  (∀ req msg s u m i, u = touchReq req s → m = parseDict msg.bytes → dictServed s = true → reqExists req s = true →
    24 ≤ msg.bytes.length → answersFrame req msg s = true → keptFor req m s = none → m.op = messageOp msg.bytes → badFrame m = true →
    ((m.op = 1 ∧ i = .dictRead req msg) ∨ (m.op = 2 ∧ i = .dictWrite req msg) ∨ (m.op = 3 ∧ i = .multiWrite req msg) ∨
     (m.op = 4 ∧ i = .multiRead req msg)) →
    exec i s = .next (respond req m erBadFrame 0 0 [] u)) ∧
  (∀ req msg s u m, u = touchReq req s → m = parseDict msg.bytes → dictServed s = true → reqExists req s = true →
    24 ≤ msg.bytes.length → answersFrame req msg s = true → keptFor req m s = none → messageOp msg.bytes = 1 → m.op = 1 → badFrame m = false → m.offset = 0 →
    readRefusal req m.index m.sub u = erOk → entryKey m.index m.sub ≠ Ent.wbRead → entryKey m.index m.sub ≠ Ent.relayOut →
    ∃ t b, exec (.dictRead req msg) s = .next t ∧ b = entryBytes req m.index m.sub u ∧
      t.dict.responses =
        { dest := req, bytes := responseBytes m erOk b.length 0 (b.take (Nat.min m.length 1024)),
          units := carried req (responseBytes m erOk b.length 0 (b.take (Nat.min m.length 1024))) s } :: s.dict.responses ∧
      t.dict.values = s.dict.values ∧ t.mem = s.mem ∧ t.job = s.job) ∧
  (∀ req msg s u m e, u = touchReq req s → m = parseDict msg.bytes → dictServed s = true → reqExists req s = true →
    24 ≤ msg.bytes.length → answersFrame req msg s = true → keptFor req m s = none → messageOp msg.bytes = 2 → m.op = 2 → badFrame m = false →
    writeRights req m.index m.sub m.body u = erOk → entrySize m.index m.sub ≤ 1024 → findEntry m.index m.sub = some e →
    m.offset = 0 → m.final = true → sizeOk e m.body.length = true → valueError m.index m.sub m.body u = erOk →
    exec (.dictWrite req msg) s = .next (performWrite relayRecord req m.index m.sub m.body
      (respond req m erOk (entrySize m.index m.sub) 0 [] u))) ∧
  (∀ req msg s u m, u = touchReq req s → m = parseDict msg.bytes → dictServed s = true → reqExists req s = true →
    24 ≤ msg.bytes.length → answersFrame req msg s = true → keptFor req m s = none → messageOp msg.bytes = 3 → m.op = 3 → badFrame m = false →
    (∀ n err, firstError (fun i => writeItemError req i u) 0 ((writeItems m.count_ m.body).getD []) = some (n, err) →
      ∃ t, exec (.multiWrite req msg) s = .next t ∧ t.dict.values = s.dict.values ∧ t.job = s.job ∧ t.mem = s.mem) ∧
    (firstError (fun i => writeItemError req i u) 0 ((writeItems m.count_ m.body).getD []) = none →
      ringlessItem relayRecord req (lastItems ((writeItems m.count_ m.body).getD [])) u = none →
      exec (.multiWrite req msg) s = .next ((lastItems ((writeItems m.count_ m.body).getD [])).foldl
        (fun s i => performWrite relayRecord req i.1 i.2.1 i.2.2 s) (respond req m erOk 0 0 [] u))) ∧
    (∀ i, firstError (fun i => writeItemError req i u) 0 ((writeItems m.count_ m.body).getD []) = none →
      ringlessItem relayRecord req (lastItems ((writeItems m.count_ m.body).getD [])) u = some i →
      ∃ t, exec (.multiWrite req msg) s = .next t ∧ t.dict.values = s.dict.values ∧ t.job = s.job ∧ t.mem = s.mem)) ∧
  (∀ req msg s u m items, u = touchReq req s → m = parseDict msg.bytes → dictServed s = true → reqExists req s = true →
    24 ≤ msg.bytes.length → answersFrame req msg s = true → keptFor req m s = none → messageOp msg.bytes = 4 → m.op = 4 → badFrame m = false →
    items = (readItems m.count_ m.body).getD [] → firstError (fun i => readItemError req i u) 0 items = none →
    gatherSize items ≤ 1024 →
    exec (.multiRead req msg) s =
      .next (respond req m erOk 0 0 (gatherItems req items u).1 (gatherItems req items u).2)) ∧
  (∀ req msg s m bytes, m = parseDict msg.bytes → dictServed s = true → reqExists req s = true → 24 ≤ msg.bytes.length → answersFrame req msg s = true →
    keptFor req m s = some bytes → messageOp msg.bytes = 2 →
    exec (.dictWrite req msg) s = .next (sendResponse req bytes (touchReq req s))) ∧
  (∀ req msg s i, answersFrame req msg s = false →
    (i = .dictRead req msg ∨ i = .dictWrite req msg ∨ i = .multiWrite req msg ∨ i = .multiRead req msg) →
    exec i s = .next s) ∧
  (∀ mac bytes s a, (answersFrame (.t1s mac) { bytes := bytes } s = true) ∧
    (answersFrame (.t1s mac) { bytes := bytes, dest := some a } s = true ↔
      a = s.security.macBase + 16 ∨
        (a = BitVec.allOnes 48 ∧ messageOp bytes = 1 ∧ 0x1000 ≤ (parseDict bytes).index ∧ (parseDict bytes).index ≤ 0x1FFF))) ∧
  (∀ mac address bytes s typ vendor e a,
    (answersFrame (.t1s mac) { bytes := bytes, ethertype := some e } s = true ↔ e = s.security.dictEthertype) ∧
    (answersFrame (.mctp address) { bytes := bytes, mctp := some (typ, vendor), target := some a } s = true ↔
      typ = 0x7E ∧ vendor = 0x1F8D ∧ a.toNat = ent Ent.i3cStaticAddr s))

/-- A requester's open writes, its snapshot and its kept response lapse 100 ms after their last use, and nothing else of
the machine changes (R545 to R547). DW_GO serves the message in DW_REQUEST as the window's request and then shows the
value written in DW_DONE, but for a cold reset that it asked for; while BUSY it is discarded, and so is a write during a function-level reset (R449, R554). -/
def Obligations.KeptAccessesLapseAndTheWindowServes : Prop :=
  (∀ req s x p, x = reqOf req s → p ∈ x.partials → p.last + 100000000 ≤ s.now →
    exec (.segmentLapse req) s =
      .next (putReq { x with partials := x.partials.filter (fun p => decide (s.now < p.last + 100000000)) } s)) ∧
  (∀ req s x p, x = reqOf req s → x.snapshot = some p → p.lastRead + 100000000 ≤ s.now →
    exec (.snapshotLapse req) s = .next (putReq { x with snapshot := none } s)) ∧
  (∀ req s x p, x = reqOf req s → x.snapshot = some p → s.now < p.lastRead + 100000000 →
    exec (.snapshotLapse req) s = .next s) ∧
  (∀ req s x k, x = reqOf req s → x.kept = some k → k.at_ + 100000000 ≤ s.now →
    exec (.keptResponseLapse req) s = .next (putReq { x with kept := none } s)) ∧
  (∀ req s x k, x = reqOf req s → x.kept = some k → s.now < k.at_ + 100000000 →
    exec (.keptResponseLapse req) s = .next s) ∧
  (∀ request w s, s.hostif.flr = false → w.bytes = 8 → w.offset = 0 → s.dict.dwDone.getLsbD 16 = false →
    dictServed s = true →
    ∃ u, u = serveMessage relayRecord .window (padTo 2048 request) { s with dict := { s.dict with dwRequest := padTo 2048 request } } ∧
      exec (.dwGo request w) s = .next (if u.recovery.boots = s.recovery.boots then
        { u with dict := { u.dict with dwDone := BitVec.ofNat 32 (w.value.toNat % 2 ^ 16) } } else u)) ∧
  (∀ request w s, s.hostif.flr = false → w.bytes = 8 → w.offset = 0 → s.dict.dwDone.getLsbD 16 = true →
    exec (.dwGo request w) s = .next s) ∧
  (∀ request w s, s.hostif.flr = true → exec (.dwGo request w) s = .next s)

/-- The writer takes the oldest submitted record: stored at NEXT_SEQ, in the kept region below 1,024 and in the
circulating one from there, or suppressed and counted where its code's limit for the second is used up (R571 to
R576). A window that has ended is closed (R576). Neither happens after a return of input power until NEXT_SEQ is restored
(R574). WB_READ answers with the 64 bytes of the record at the requester's
cursor and moves the cursor on (R565, R579). WB_CLEAR begins a new generation that holds only its CLEARED record, in
kept place 0 (R581), and is RUNNING until the nonvolatile copy is done, when it ends DONE. -/
def Obligations.TheWaybillStoresReadsAndClears : Prop :=
  (∀ s r rest, s.waybill.queue = r :: rest → s.waybill.restoreDue = false → r.code ≠ 0xE001 → (∀ l, codeLimit r.code = some l → (wbCode r.code s).written < l) →
    ∃ t rec, exec .waybillRecordWrite s = .next t ∧
      rec = { seq := s.waybill.nextSeq, time := r.time, code := r.code, inst := r.inst, flags := if r.held then 4 else 0, p := r.p, gen := s.waybill.clearGen, boot := s.recovery.boots % 2 ^ 16, num := r.num } ∧
      t.waybill.queue = rest ∧ t.waybill.nextSeq = s.waybill.nextSeq + 1 ∧
      (s.waybill.nextSeq < 1024 → t.waybill.kept = s.waybill.kept ++ [rec] ∧ t.waybill.circ = s.waybill.circ) ∧
      (1024 ≤ s.waybill.nextSeq → t.waybill.kept = s.waybill.kept ∧ t.waybill.circ = (rec :: s.waybill.circ).take 16384) ∧
      t = { s with waybill := t.waybill, dict := { s.dict with counters := t.dict.counters } }) ∧
  (∀ s r rest l, s.waybill.queue = r :: rest → s.waybill.restoreDue = false → codeLimit r.code = some l → l ≤ (wbCode r.code s).written →
    ∃ t, exec .waybillRecordWrite s = .next t ∧ t.waybill.queue = rest ∧ t.waybill.nextSeq = s.waybill.nextSeq ∧
      t.waybill.suppressedTotal = s.waybill.suppressedTotal + 1 ∧
      counter Cnt.recordsSuppressed t = (counter Cnt.recordsSuppressed s + 1) % 2 ^ 64) ∧
  (∀ s, s.waybill.second < s.now / 1000000000 → s.waybill.restoreDue = false →
    ∃ t, exec .rateWindowEnd s = .next t ∧ t.waybill.second = s.now / 1000000000 ∧
      ∀ c, c ∈ t.waybill.codes → (c.code ≠ 0xF002 → c.written = 0) ∧ c.suppressed = 0) ∧
  (∀ s, s.waybill.restoreDue = true → exec .waybillRecordWrite s = .next s ∧ exec .rateWindowEnd s = .next s) ∧
  (∀ req s u rec next, dictServed s = true → reqExists req s = true → u = touchReq req s →
    readRefusal req 0x2E00 7 u = erOk → (rec, next) = wbReadAt (selVal Ent.wbCursor req u) u →
    ∃ t, exec (.wbRead req) s = .next t ∧ selVal Ent.wbCursor req t = next ∧
      t.dict.responses = {
        dest := req, bytes := responseBytes (wholeRead 0x2E00 7 64) erOk 64 0 (wbBytes rec),
        units := carried req (responseBytes (wholeRead 0x2E00 7 64) erOk 64 0 (wbBytes rec)) s } ::
        s.dict.responses ∧ t.waybill = s.waybill) ∧
  (∀ req value s, Accepted req 0x2E00 8 (leBytes 1 value) s →
    ∃ t, exec (.wbClear req value) s = .next t ∧ Runs Ent.wbClear req s t ∧ t.waybill.circ = [] ∧
      t.waybill.nextSeq = 1 ∧ t.waybill.suppressedTotal = 0 ∧ t.waybill.clearGen = (s.waybill.clearGen + 1) % 2 ^ 16 ∧
      t.waybill.kept = [{ seq := 0, time := s.now, code := 0xF001, inst := noInst, flags := 0, p := [s.waybill.nextSeq, s.waybill.suppressedTotal, whoId req, s.waybill.clearGen], gen := (s.waybill.clearGen + 1) % 2 ^ 16, boot := s.recovery.boots % 2 ^ 16 }] ∧
      t.waybill.copying = some s.now ∧ t.waybill.queue = s.waybill.queue) ∧
  (∀ s at_, s.waybill.copying = some at_ →
    ∃ t, exec .wbClearCopyDone s = .next t ∧ (cmdOf Ent.wbClear t).state = 2 ∧ (cmdOf Ent.wbClear t).time = s.now ∧
      t = { s with waybill := { s.waybill with copying := none }, dict := t.dict })

/-- Outside the fabric PEER_SET enters a valid record under its module number or removes the peer's record; FABRIC_JOIN
joins with NET on, MS[10] extended with the module number, the fabric and each peer record (R485); FABRIC_LEAVE of a module that
is out is done at once, else it leaves; a group's ENABLE takes the value written, and restarts its GSEQ at 1 unless it is
enabled already; an interface that comes up is in use; a solicitation for the interface's
address is answered and what a frame teaches is learned (R454, R456, R457, R472). -/
def Obligations.FabricMembershipChanges : Prop :=
  (∀ req value s r, Accepted req 0x2A00 0x06 value s → s.fabric.state = 0 → r = BitVec.ofNat 512 (ofLe value) →
    db r 0 51 = true → s.fabric.peers.length < 4095 →
    ∃ t, exec (.peerSet req value) s = .next t ∧ EndedOk Ent.fabPeerSet req s t ∧
      t = { s with dict := t.dict, fabric := { s.fabric with peers := alSet s.fabric.peers (df r 0 63 52) r } }) ∧
  (∀ req value s r, Accepted req 0x2A00 0x06 value s → s.fabric.state = 0 → r = BitVec.ofNat 512 (ofLe value) →
    db r 0 51 = false →
    ∃ t, exec (.peerSet req value) s = .next t ∧ EndedOk Ent.fabPeerSet req s t ∧ peerRec (df r 0 63 52) t = none ∧
      t = { s with dict := t.dict, fabric := { s.fabric with peers := t.fabric.peers } }) ∧
  (∀ req value s, Accepted req 0x2A00 0x03 (leBytes 1 value) s →
    ∃ t, exec (.fabricJoin req value) s = .next t ∧ EndedOk Ent.fabFabricJoin req s t ∧
      t.fabric.state = (if s.fabric.peers.all (fun p => sessUp p.1 s || (sessOf p.1 s).tried) then 2 else 1) ∧
      t.fabric.joinAt = s.now ∧ t.mem = s.mem ∧ t.job = s.job ∧ (s.power.mainOn = true → t.power.netOn = true)) ∧
  (∀ req value s, Accepted req 0x2A00 0x04 (leBytes 1 value) s → s.fabric.state = 0 →
    ∃ t, exec (.fabricLeave req value) s = .next t ∧ EndedOk Ent.fabFabricLeave req s t ∧ t = { s with dict := t.dict }) ∧
  (∀ req value s, Accepted req 0x2A00 0x04 (leBytes 1 value) s → s.fabric.state ≠ 0 →
    exec (.fabricLeave req value) s = .next (leaveFabric (actionStart req 0x2A00 0x04 s))) ∧
  (∀ req group value s, group < 16 → Accepted req (0x2A30 + group) 2 (leBytes 1 value) s →
    ∃ t, exec (.ggroupEnable req group value) s = .next t ∧ ent (Ent.ggGgroupEnable + 256 * group) t = value % 256 ∧
      t.fabric.groups = updAt s.fabric.groups group (fun x =>
        if x.enabled = true ∧ value % 256 = 1 then x else { GGroup.reset with enabled := value % 256 == 1 }) ∧
      t = { s with dict := t.dict, fabric := { s.fabric with groups := t.fabric.groups } }) ∧
  (∀ iface s m, iface < 16 → s.power.netOn = true → s.fabric.ifUp.contains iface = false →
    m = (if (List.range 4).all (fun k => !s.fabric.ifUp.contains (4 * (iface / 4) + k)) then
      ent (Ent.portMode + 256 * (iface / 4)) s else s.fabric.mode.getD (iface / 4) 0) →
    iface % 4 < modeInterfaces m → iface / 4 < s.fabric.mode.length →
    ∃ t, exec (.interfaceUp iface) s = .next t ∧ t.fabric.ifUp = insertSorted iface s.fabric.ifUp ∧
      t.fabric.mode.getD (iface / 4) 0 = m ∧ t.mem = s.mem ∧ t.job = s.job) ∧
  (∀ iface v6 target mac s, iface < 16 → s.fabric.ifUp.contains iface = true →
    exec (.neighborDiscoveryFrame iface v6 false target 0 mac) s = .next (learn iface v6 target mac s)) ∧
  (∀ iface v6 target mac s, iface < 16 → s.fabric.ifUp.contains iface = true → moving s = false → target ≠ 0 →
    ifaceAddr iface v6 s = target →
    ∃ t, exec (.neighborDiscoveryFrame iface v6 true target 0 mac) s = .next t ∧
      t.fabric.out = {
        iface := iface, peer := 0xFFFF, cls := 1, dscp := ent Ent.fabDscpBarrier s, ecn := 2,
        src := { v6 := v6, addr := target, port := 0 }, dst := { v6 := v6, addr := 0, port := 0 },
        link := linkTo iface mac s, bytes := beBytes (if v6 then 16 else 4) target ++ beBytes 6 (ifaceMac iface s),
        at_ := s.now } :: s.fabric.out) ∧
  (∀ iface v6 target sender mac s u, iface < 16 → s.fabric.ifUp.contains iface = true → target ≠ 0 →
    ifaceAddr iface v6 s = target → u = (if sender = 0 then s else learn iface v6 sender mac s) →
    exec (.neighborDiscoveryFrame iface v6 true target sender mac) s =
      .next (putOut (linkTo iface mac u) (neighbourFrame iface v6 target sender u) u)) ∧
  (∀ req value s u, Accepted req 0x2A00 0x03 (leBytes 1 value) s → u = actionStart req 0x2A00 0x03 s →
    exec (.fabricJoin req value) s =
      .next (joinFabric (measureBytes 10 10 (leBytes 2 (myModule s) ++ leBytes 8 (ent Ent.fabFabricId s) ++
        s.fabric.peers.flatMap (fun p => leBytes 64 p.2.toNat)) (endCmd Ent.fabFabricJoin 0 0 u))))

/-- A HELLO of a lower module, whole in its fragments, is answered; one of a higher module is dropped, this module sending its own
where it has sent none, and none begins while 64 handshakes are in progress; of two crossing ones the higher module drops its
own (log 82); an ACCEPT to this
module's HELLO, whole, ends the exchange at the initiator, and a FINISH under the new keys brings the responder's
session up. A handshake that takes 10 ms has failed, and a failed session is tried again every PEER_DEAD_NS (R457,
R458). A CLOSE, and silence for PEER_DEAD_NS, end the session with its operations; an operation that has run
for its limit since its first sending, or waited for it without a session, OP_TIMEOUT_NS but for lookups, remote rows and
commits (log 161), ends with TIMEOUT and is counted, one
still carried by a packet keeping its place in the order (R466, R468, R475). -/
def Obligations.FabricSessionsOpenAndEnd : Prop :=
  (∀ iface d s p x fs msg, iface < 16 → s.fabric.ifUp.contains iface = true → handshakePkt 3 d s = some p →
    x = sessOf p.src s → x.handshake = none → p.src ≤ myModule s → handshakes s < 64 → joinFrags [] p d = (fs, some msg) →
    ∃ u, u = updSess p.src (fun x => { x with state := if x.state = 2 then 2 else 1, handshake := some { initiator := false, gen := p.gen, startedAt := s.now, transcript := [], frags := fs, secret := [] } }) s ∧
      exec (.hello iface d) s = .next (answerHello p.src p.gen msg u)) ∧
  (∀ iface d s p, iface < 16 → s.fabric.ifUp.contains iface = true → handshakePkt 3 d s = some p →
    (sessOf p.src s).handshake.any (fun h => h.initiator) = true → myModule s < p.src →
    exec (.hello iface d) s = .next s) ∧
  (∀ iface d s p h fs msg, iface < 16 → s.fabric.ifUp.contains iface = true → handshakePkt 4 d s = some p →
    (sessOf p.src s).handshake = some h → h.initiator = true → h.gen = p.gen → joinFrags h.frags p d = (fs, some msg) →
    ∃ u, u = updSess p.src (fun x => { x with handshake := some { h with frags := fs } }) s ∧
      exec (.accept iface d) s = .next (takeAccept p.src h msg u)) ∧
  (∀ iface d s p h keys pt, iface < 16 → s.fabric.ifUp.contains iface = true → handshakePkt 2 d s = some p →
    (sessOf p.src s).handshake = some h → h.initiator = false → h.secret ≠ [] → h.gen = p.gen → p.epoch = 0 → p.psn = 0 →
    keys = sessionKeys h.gen h.secret h.transcript s → openPkt keys true p d = some pt →
    ∃ u, u = count Cnt.packetsReceived 1 (sessionUp p.src h.gen false keys s) ∧
      exec (.finish iface d) s = .next (pump p.src (updSess p.src (notePacket p 0 u.now false false) u))) ∧
  (∀ peer s h, (sessOf peer s).handshake = some h → h.startedAt + 10000000 ≤ s.now →
    exec (.handshakeTimeout peer) s = .next (failHandshake peer s)) ∧
  (∀ peer s h, (sessOf peer s).handshake = some h → s.now < h.startedAt + 10000000 →
    exec (.handshakeTimeout peer) s = .next s) ∧
  (∀ peer s, s.fabric.state = 2 → (peerRec peer s).isSome = true → (sessOf peer s).state = 3 →
    (sessOf peer s).handshake = none → (sessOf peer s).failedAt + ent Ent.fabPeerDeadNs s ≤ s.now → handshakes s < 64 →
    exec (.sessionRetry peer) s = .next (startHandshake peer s)) ∧
  (∀ iface d s p pt, iface < 16 → s.fabric.ifUp.contains iface = true → authentic 5 d s = some (p, pt) →
    exec (.closeRx iface d) s = .next (tryLeave (retryGlobals (endSession p.src 0 s)))) ∧
  (∀ peer s, (sessOf peer s).state = 2 → (sessOf peer s).lastRx + ent Ent.fabPeerDeadNs s ≤ s.now →
    exec (.peerDead peer) s = .next (tryLeave (retryGlobals (endSession peer 1 s)))) ∧
  (∀ peer s, (sessOf peer s).state = 2 → s.now < (sessOf peer s).lastRx + ent Ent.fabPeerDeadNs s →
    exec (.peerDead peer) s = .next s) ∧
  (∀ peer s x o, x = sessOf peer s →
    x.waiting.find? (fun o => o.firstSent.elim (x.state != 2 && decide (o.issuedAt + opLimit o s ≤ s.now))
      (fun t => decide (t + opLimit o s ≤ s.now))) = some o →
    exec (.opTimeout peer 0) s = .next (tryLeave (retryGlobals (opFailed o 5 0
      (if o.unit = .global then putSess { x with waiting := x.waiting.erase o } s
        else count Cnt.opsTimedOut 1 (putSess { x with waiting := x.waiting.erase o } s)))))) ∧
  (∀ peer seq s x o, x = sessOf peer s → seq ≠ 0 →
    x.ops.find? (fun o => o.seq == seq && o.unit != .global &&
      o.firstSent.elim (x.state != 2 && decide (o.issuedAt + opLimit o s ≤ s.now)) (fun t => decide (t + opLimit o s ≤ s.now))) = some o →
    o.queued = false → x.sent.any (fun p => p.ops.contains seq) = false →
    exec (.opTimeout peer seq) s = .next (tryLeave (retryGlobals (pump peer (opFailed o 5 0
      (count Cnt.opsTimedOut 1 (putSess { x with ops := x.ops.filter (fun q => q.seq != seq) } s))))))) ∧
  (∀ peer seq s x o, x = sessOf peer s → seq ≠ 0 →
    x.ops.find? (fun o => o.seq == seq && o.unit != .global &&
      o.firstSent.elim (x.state != 2 && decide (o.issuedAt + opLimit o s ≤ s.now)) (fun t => decide (t + opLimit o s ≤ s.now))) = some o →
    o.queued = true ∨ x.sent.any (fun p => p.ops.contains seq) = true →
    exec (.opTimeout peer seq) s = .next (tryLeave (retryGlobals (pump peer (opFailed o 5 0
      (count Cnt.opsTimedOut 1 (putSess { x with ops := x.ops.map (fun q => if q.seq = seq then { q with unit := .global } else q) } s))))))) ∧
  (∀ o s, opLimit o s = match o.unit with
    | .lookup _ _ => ent Ent.remoteTimeoutNs s
    | .rowStage _ _ => ent Ent.fabOpTimeoutNs s + ent Ent.deferLimitNs s
    | .batchCommit _ _ => ent Ent.remoteCommitNs s
    | _ => ent Ent.fabOpTimeoutNs s) ∧
  (∀ iface d s p, iface < 16 → s.fabric.ifUp.contains iface = true → handshakePkt 3 d s = some p →
    (sessOf p.src s).handshake = none →
    (myModule s < p.src → handshakes s < 64 → exec (.hello iface d) s = .next (startHandshake p.src s)) ∧
    (64 ≤ handshakes s → exec (.hello iface d) s = .next s)) ∧
  (∀ iface d s p h fs msg, iface < 16 → s.fabric.ifUp.contains iface = true → handshakePkt 3 d s = some p →
    (sessOf p.src s).handshake = some h → h.initiator = true → p.src < myModule s → joinFrags [] p d = (fs, some msg) →
    ∃ u, u = updSess p.src (fun x => { x with state := if x.state = 2 then 2 else 1, handshake := some {
        initiator := false, gen := p.gen, startedAt := s.now, transcript := [], frags := fs, secret := [] } }) s ∧
      exec (.hello iface d) s = .next (answerHello p.src p.gen msg u))

/-- An authentic DATA packet in the receive window is noted with its records, its acknowledgements taken and the session
pumped; one seen before is only acknowledged; a datagram that is no authentic packet is dropped and counted. An acknowledgement that asks for
one, or that shows a gap, makes one due at once. Due
acknowledgements are sent within 2 µs, or by 4 packets, or every PEER_DEAD_NS / 4, unless the operating point moves (R460 to
R463, R475, R507). A packet
unanswered for the retransmission timeout is lost: counted, sent again, CWND halved within its bounds and its path's
timeouts counted (R463 to R465). Once per SRTT CWND grows by one MTU, or shrinks by ALPHA / 2 where congestion was
echoed, within its bounds (R464). A sender's keys move on at 2^31 packets or REKEY_S (R459). A path moves away from
an interface that went down (R465). -/
def Obligations.FabricPacketsAndTimersAct : Prop :=
  (∀ iface ce d s p pt rs psn, iface < 16 → s.fabric.ifUp.contains iface = true → authentic 1 d s = some (p, pt) →
    recordsOf (pt.length + 1) pt = some rs → psn = extend32 (sessOf p.src s).ackPsn p.psn →
    (sessOf p.src s).ackPsn ≤ psn → (sessOf p.src s).received.contains psn = false → inWindow (sessOf p.src s) rs = true →
    ∃ u, u = updSess p.src (fun x => rs.foldl (takeRecord p.cls s.updates.epoch s.now) (notePacket p psn s.now ce true x)) s ∧
      exec (.fabricDataRx iface ce d) s = .next (pump p.src (takeAck p.src p (count Cnt.packetsReceived 1 u)))) ∧
  (∀ iface ce d s p pt rs psn, iface < 16 → s.fabric.ifUp.contains iface = true → authentic 1 d s = some (p, pt) →
    recordsOf (pt.length + 1) pt = some rs → psn = extend32 (sessOf p.src s).ackPsn p.psn → psn < (sessOf p.src s).ackPsn →
    exec (.fabricDataRx iface ce d) s = .next (updSess p.src (fun x => { x with ackNow := true, lastRx := s.now })
      (pump p.src (takeAck p.src p (count Cnt.packetsReceived 1 s))))) ∧
  (∀ iface ce d s, iface < 16 → s.fabric.ifUp.contains iface = true →
    (authentic 1 d s = none → exec (.fabricDataRx iface ce d) s = .next (count Cnt.packetsDropped 1 s)) ∧
    (authentic 2 d s = none → exec (.fabricAckRx iface ce d) s = .next (count Cnt.packetsDropped 1 s)) ∧
    (authentic 5 d s = none → exec (.closeRx iface d) s = .next (count Cnt.packetsDropped 1 s))) ∧
  (∀ iface ce d s p pt, iface < 16 → s.fabric.ifUp.contains iface = true → authentic 2 d s = some (p, pt) →
    ∃ u, u = updSess p.src (fun x => { notePacket p (extend32 (sessOf p.src s).ackPsn p.psn) s.now ce false x with
        ackNow := (notePacket p (extend32 (sessOf p.src s).ackPsn p.psn) s.now ce false x).ackNow || p.ackReq ||
          decide (x.received.foldl Nat.max (x.ackPsn - 1) + 1 < extend32 (sessOf p.src s).ackPsn p.psn) }) s ∧
      exec (.fabricAckRx iface ce d) s = .next (pump p.src (takeAck p.src p (count Cnt.packetsReceived 1 u)))) ∧
  (∀ peer s, moving s = false → (sessOf peer s).state = 2 →
    ((sessOf peer s).ackNow = true ∨ 4 ≤ (sessOf peer s).owed ∨
      (0 < (sessOf peer s).owed ∧ (sessOf peer s).owedSince + 2000 ≤ s.now)) →
    exec (.ackTimer peer) s = .next (sendPacket peer 2 1 [] [] [] s)) ∧
  (∀ peer s, moving s = false → (sessOf peer s).state = 2 → (sessOf peer s).ops = [] →
    (sessOf peer s).lastTx + ent Ent.fabPeerDeadNs s / 4 ≤ s.now →
    exec (.keepaliveAckTimer peer) s = .next (sendPacket peer 2 1 [] [] [] s)) ∧
  (∀ peer psn s x p, x = sessOf peer s →
    x.sent.find? (fun p => p.psn == psn && decide (p.at_ + rtoOf x s ≤ s.now)) = some p →
    ∃ u, u = count Cnt.rtoEvents 1 (count Cnt.retransmits (lostOps p x) s) ∧
      exec (.retransmitTimeout peer psn) s = .next (pump peer (putSess { losePacket p x with
        cwnd := Nat.max 9216 (Nat.min (x.cwnd / 2) (1024 * ent Ent.fabCwndMaxKib s)),
        paths := updAt x.paths p.path (fun q => { q with timeouts := q.timeouts + 1 }) } u))) ∧
  (∀ peer s x, x = sessOf peer s → x.state = 2 → x.hasRtt = true → x.cwndAt + x.srtt ≤ s.now → x.eceAcked = 0 →
    x.eceSeen = false →
    exec (.cwndUpdate peer) s = .next (pump peer (putSess { x with
      alpha := 15 * x.alpha / 16, acked := 0, eceAcked := 0, cwndAt := s.now,
      cwnd := Nat.max 9216 (Nat.min (x.cwnd + ent Ent.fabFabricMtu s) (1024 * ent Ent.fabCwndMaxKib s)) } s))) ∧
  (∀ peer s x, x = sessOf peer s → x.state = 2 →
    2 ^ 31 ≤ x.psn - x.epochPsn ∨ x.epochSince + 1000000000 * ent Ent.fabRekeyS s ≤ s.now →
    exec (.rekey peer) s = .next (putSess { x with
      txKeys := shake 72 (ascii "Mboes v1 rekey" ++ x.txKeys), txEpoch := x.txEpoch + 1, epochSince := s.now,
      epochPsn := x.psn } s)) ∧
  (∀ peer path s q u, path < 4 → (sessOf peer s).paths[path]? = some q →
    u = { s with fabric := { s.fabric with ifUp := s.fabric.ifUp.filter (· != q.iface) } } → peerIfaces peer u = [] →
    exec (.pathMove peer path true) s = .next u) ∧
  (∀ peer path s q u, path < 4 → (sessOf peer s).paths[path]? = some q →
    u = { s with fabric := { s.fabric with ifUp := s.fabric.ifUp.filter (· != q.iface) } } → peerIfaces peer u ≠ [] →
    ∃ v, v = updSess peer (fun x => { x with paths := updAt x.paths path (fun q => { q with iface := leastUsed x (peerIfaces peer u), timeouts := 0 }) }) u ∧
      exec (.pathMove peer path true) s = .next (pump peer (count Cnt.pathMoves 1 v)))

/-- A request whose turn has come, and for which a service slot is open, is served from the module's window alone: outside it the answer is DENIED with WINDOW;
a LOAD answers the bytes, a STORE writes them, a SIGNAL does its atomic, a single ATOMIC answers the old word; a page
that is absent stalls the service slot (R467, R469). A lookup for a table that is absent is DENIED with TABLE and
counted; one that is allowed is issued to the home stacks. A row of a remote batch is staged, refused or waits; a
batch with the rows it should have, and no reader of the oldest epoch, is published as an epoch of its own; an abort
drops the batch. A response that came is taken and leaves the inbox (R97, R130, R131, R468, R470). -/
def Obligations.FabricRequestsAreServed : Prop :=
  (∀ peer seq s o k i, servedOp peer seq k s = some o → k ≠ 3 →
    ((k = 1 ∧ i = .fabricLoadServe peer seq ∧ windowOk o.o1.toNat (leAt o.body 0 4) s = false) ∨
     (k = 2 ∧ i = .fabricStoreServe peer seq ∧ windowOk o.o1.toNat o.body.length s = false) ∨
     (k = 4 ∧ i = .fabricSignalServe peer seq ∧ windowOk o.o1.toNat 8 s = false)) →
    exec i s = .next (answerStatus peer o 6 2 s)) ∧
  (∀ peer seq s o va n, servedOp peer seq 1 s = some o → va = o.o1.toNat → n = leAt o.body 0 4 → windowOk va n s = true →
    n ≤ 4096 → memCheck va n .read s = .ok →
    exec (.fabricLoadServe peer seq) s =
      .next (answer peer o 0x81 (devRead s va n) (noteDmaRead va n (hubAccess va n s)))) ∧
  (∀ peer seq s o va, servedOp peer seq 2 s = some o → va = o.o1.toNat → windowOk va o.body.length s = true →
    o.body.length ≤ 4096 → memCheck va o.body.length .write s = .ok →
    exec (.fabricStoreServe peer seq) s =
      .next (answer peer o 0x82 [] (devWrite va o.body (hubAccess va o.body.length s)))) ∧
  (∀ peer seq s o va page, servedOp peer seq 2 s = some o → va = o.o1.toNat → windowOk va o.body.length s = true →
    o.body.length ≤ 4096 → memCheck va o.body.length .write s = .absent page →
    exec (.fabricStoreServe peer seq) s = .next (serveStall peer seq .write (.absent page) s)) ∧
  (∀ peer seq s o, servedOp peer seq 4 s = some o → windowOk o.o1.toNat 8 s = true →
    memCheck o.o1.toNat 8 .atomic s = .ok →
    exec (.fabricSignalServe peer seq) s = .next (answer peer o 0x82 []
      (hitchSignal o.o1.toNat (o.subop == 1) (leAt o.body 0 8) (hubAccess o.o1.toNat 8 s)))) ∧
  (∀ peer seq s o, servedOp peer seq 3 s = some o → linkedOps 4 (sessOf peer s) seq = some [o] → unitOk [o] = true →
    windowOk o.o1.toNat 8 s = true → memCheck (o.o1.toNat / 4096 * 4096) 4096 .atomic s = .ok →
    ∃ u old, u = hubAccess o.o1.toNat 8 s ∧ old = devNat u o.o1.toNat 8 ∧
      exec (.fabricAtomicServe peer seq) s = .next (answer peer o 0x83 (leBytes 8 old)
        (devWrite o.o1.toNat (leBytes 8 (fabAtomicNew (o.subop % 8) old (leAt o.body 0 8) (leAt o.body 8 8))) u))) ∧
  (∀ peer seq s o, servedOp peer seq 5 s = some o → s.lookup.jobs.any (fun j => j.serves == some (peer, seq)) = false →
    tableOf (field o.o1.toNat 63 52) s = none →
    exec (.fabricLookupServe peer seq) s = .next (count Cnt.remoteDenied 1 (answerStatus peer o 6 3 s))) ∧
  (∀ peer seq s o tb, servedOp peer seq 5 s = some o → s.lookup.jobs.any (fun j => j.serves == some (peer, seq)) = false →
    tableOf (field o.o1.toNat 63 52) s = some tb → lookupDenied peer o.o1.toNat s = 0 → o.body = [] →
    ∃ t, exec (.fabricLookupServe peer seq) s = .next t ∧ t.lookup.jobs.length = s.lookup.jobs.length + 1 ∧
      t.lookup.nextId = s.lookup.nextId + 1 ∧ t.lookup.jobs.any (fun j => j.serves == some (peer, seq)) = true) ∧
  (∀ peer seq s o, rxOpOf peer seq 6 s = some o →
    exec (.fabricRowStage peer seq) s = .next (match stageRemoteRow peer o.subop (field o.o1.toNat 63 52) o.body s with
      | .staged u => answer peer o 0x82 [] u
      | .refuse st reason => answerStatus peer o st reason s
      | .wait => if waitedFor o (ent Ent.deferLimitNs s) s then answerStatus peer o 1 0 s else noteWait peer seq s)) ∧
  (∀ peer seq s o, rxOpOf peer seq 6 s = some o →
    (ent Ent.importWrites s = 0 ∨ isMember peer s = false ∨ (tableOf (field o.o1.toNat 63 52) s).all (fun t => !tExport t) = true) →
    exec (.fabricRowStage peer seq) s = .next (answerStatus peer o 6 3 s)) ∧
  (∀ peer seq s o b, rxOpOf peer seq 7 s = some o →
    s.updates.remoteBatches.find? (fun b => b.peer == peer && b.batch == o.subop) = some b → b.rows = leAt o.body 0 4 →
    readersOf (s.updates.epoch - 1) s = 0 →
    ∃ u v, u = publishBatch (16 + b.num) s ∧ v = { u with updates := { u.updates with remoteBatches := u.updates.remoteBatches.filter (fun x => x.num != b.num) } } ∧
      exec (.fabricBatchCommit peer seq) s = .next (answer peer o 0x87 (leBytes 8 u.updates.epoch) v)) ∧
  (∀ peer seq s o, rxOpOf peer seq 8 s = some o →
    exec (.fabricBatchAbort peer seq) s =
      .next (answer peer o 0x82 [] (abortRemote (fun b => b.peer == peer && b.batch == o.subop) s))) ∧
  (∀ peer record s x, x = sessOf peer s → x.inbox.contains record = true → 0x80 ≤ recOpcode record →
    exec (.fabricResponseRx peer record) s =
      .next (tryLeave (retryGlobals (pump peer (takeResponse peer record (putSess { x with inbox := x.inbox.erase record } s))))))

/-- An issued descriptor of a fabric operation, on a core that works, goes to the fabric engine under its own row; 4 µs
after its issue an ATOMIC no longer holds its core; an arrival from a child of this module in the group's tree is
noted; an operation of a group not complete in GLOBAL_TIMEOUT_NS blocks the group (R471, R472). -/
def Obligations.FabricDescriptorsAndGlobalsAct : Prop :=
  (∀ core desc org s u i, core < 98 → inTurn core desc org s = true → u = takeIssued core desc org s →
    (matOf core u).failed = false →
    ((df desc 0 63 56 = 0x60 ∧ i = .fabricAtomic core desc org) ∨
     (df desc 0 63 56 = 0x61 ∧ df desc 0 55 53 = 0 ∧ i = .fabricBarrier core desc org) ∨
     (df desc 0 63 56 = 0x61 ∧ df desc 0 55 53 = 1 ∧ i = .fabricBroadcast core desc org) ∨
     (df desc 0 63 56 = 0x61 ∧ df desc 0 55 53 = 2 ∧ i = .fabricSnapshot core desc org)) →
    exec i s = .next (takeFabDesc core desc org u)) ∧
  (∀ core desc org s i, core < 98 → inTurn core desc org s = false →
    (i = .fabricAtomic core desc org ∨ i = .fabricBarrier core desc org ∨ i = .fabricBroadcast core desc org ∨
     i = .fabricSnapshot core desc org) →
    exec i s = .next (holdIssued core desc org s)) ∧
  (∀ id s, ∃ t, exec (.fabricAtomicCoreRelease id) s = .next t ∧
      t = { s with fabric := { s.fabric with descs := t.fabric.descs } } ∧
      (∀ f, f ∈ t.fabric.descs → f.id = id → f.issuedAt + 4000 ≤ s.now → f.holdsCore = false) ∧
      (∀ f, f ∈ s.fabric.descs → f.id ≠ id → f ∈ t.fabric.descs)) ∧
  (∀ peer record s x o1 g gseq, x = sessOf peer s → o1 = (recO1 record).toNat → g = field o1 63 60 → gseq = field o1 31 0 →
    x.inbox.contains record = true → recOpcode record = 9 → (s.fabric.groups.getD g GGroup.reset).enabled = true →
    (childModules g (myModule s) s).contains peer = true →
    ∃ u v, u = putSess { x with inbox := x.inbox.erase record } s ∧
      v = { u with fabric := { u.fabric with groups := updAt u.fabric.groups g (fun y => { y with arrivals := y.arrivals ++ [(peer, gseq, recSubop record)] }) } } ∧
      exec (.globalOperationRx peer record) s = .next (tryGlobal g gseq v)) ∧
  (∀ group s f, group < 16 → group < s.fabric.groups.length → f ∈ s.fabric.descs → f.held = false →
    df f.desc 0 63 56 = 0x61 → df f.desc 0 50 47 = group → f.issuedAt + ent Ent.fabGlobalTimeoutNs s ≤ s.now →
    ∃ t, exec (.globalTimeout group) s = .next t ∧ (t.fabric.groups.getD group GGroup.reset).blocked = true) ∧
  (∀ group s, group < 16 → s.fabric.descs = [] → exec (.globalTimeout group) s = .next s)

/-- Owner records that reach the module are parsed by Table 18.8 and acted on by their TYPE: a whole OPEN whose checks
pass opens one session, one that fails is counted and opens none; a DATA record whose tag verifies is applied in its
turn, held behind a gap, or, seen before, dropped and counted, and one whose tag fails is dropped and counted; CLOSE
ends the session (R494 to R496). An exchange not whole within 100 ms fails; what a gap has held for 10 ms is dropped
(R494, R496). -/
def Obligations.OwnerRecordsAreTaken : Prop :=
  (∀ via record s r msg, ownerReaches via s = true → parseOwner record = some r → r.typ = 1 → r.frag % 16 = 0 →
    r.frag / 16 = 0 → s.security.ownerHandshakes = [] → msg = r.payload →
    ∃ t, exec (.ownerOpen via record) s = .next t ∧
      (openOk msg s = false → t = count Cnt.ownerAuthFailures 1 s) ∧
      (openOk msg s = true → t.security.owners.length = s.security.owners.length + 1)) ∧
  (∀ via record s r o payload i, ownerReaches via s = true → parseOwner record = some r → r.typ = 3 →
    ((r.kind = 1 ∧ i = .ownerDict via record) ∨ (r.kind = 2 ∧ i = .ownerStage via record) ∨
     (r.kind = 3 ∧ i = .ownerCommand via record) ∨ (r.kind = 5 ∧ i = .ownerMap via record)) →
    ownerOf r.sid s = some o → gcmOpen o.keyIn (ownerNonce false r.seq) r.header r.payload = some payload →
    r.seq = o.nextIn → o.held = [] →
    exec i s = .next (applyRecord r.sid r.kind payload (updOwner r.sid (fun o => { o with peer := via }) s))) ∧
  (∀ via record s r o payload, ownerReaches via s = true → parseOwner record = some r → r.typ = 3 → r.kind = 2 →
    ownerOf r.sid s = some o → gcmOpen o.keyIn (ownerNonce false r.seq) r.header r.payload = some payload →
    o.nextIn < r.seq → o.held = [] →
    ∃ t, exec (.ownerStage via record) s = .next t ∧
      (ownerOf r.sid t).map (fun o => o.held) =
        some [{ seq := r.seq, kind := 2, payload := payload, since := s.now }] ∧ t.mem = s.mem) ∧
  (∀ via record s r o i, ownerReaches via s = true → parseOwner record = some r → r.typ = 3 →
    ((r.kind = 1 ∧ i = .ownerDict via record) ∨ (r.kind = 2 ∧ i = .ownerStage via record) ∨
     (r.kind = 3 ∧ i = .ownerCommand via record) ∨ (r.kind = 5 ∧ i = .ownerMap via record)) →
    ownerOf r.sid s = some o → gcmOpen o.keyIn (ownerNonce false r.seq) r.header r.payload = none →
    exec i s = .next (count Cnt.ownerRecordsDropped 1 s)) ∧
  (∀ via record s r, ownerReaches via s = true → parseOwner record = some r → r.typ = 4 → (ownerOf r.sid s).isSome = true →
    ∃ t, exec (.ownerClose via record) s = .next t ∧ ownerOf r.sid t = none ∧ t = { s with security := t.security }) ∧
  (∀ via s h, s.security.ownerHandshakes.find? (fun h => h.peer == via) = some h → h.startedAt + 100000000 ≤ s.now →
    exec (.ownerHandshakeTimeout via) s = .next (count Cnt.ownerAuthFailures 1 { s with security := { s.security with ownerHandshakes := s.security.ownerHandshakes.filter (fun x => x.peer != via) } })) ∧
  (∀ session s o h, ownerOf session s = some o → h ∈ o.held → h.since + 10000000 ≤ s.now → 0 < o.nextIn →
    exec (.ownerGapTimeout session) s = .next (ownerSend session 6 (leBytes 8 (o.nextIn - 1))
      (count Cnt.ownerRecordsDropped o.held.length (updOwner session (fun o => { o with held := [] }) s))))

/-- RELAY_IN hands the record to the owner channel and ends DONE; RELAY_OUT answers with the oldest waiting record and
removes it (R495, R546). QUOTE_NONCE serves the quote over the slots as they stand (R492, R493); MEASURE_EXTEND
extends the slot it names and logs it (R485, R486); ROLLBACK_COMMIT begins the raising of each counter that stands below the SVN
of the running image of its type, one fuse at a time, and ends DONE when none does (R489); KEY_WIPE leaves no key, owner session or job memory (R503); a zeroisation ends with both
memory tiers empty, the promise cleared and no job (R502). -/
def Obligations.RootOfTrustActs : Prop :=
  (∀ req value s r, Accepted req 0x2B00 0x11 value s → r = parseOwner (relayedRecord value) → r = none →
    ∃ t, exec (.relayIn req value) s = .next t ∧ EndedOk Ent.relayIn req s t ∧
      counter Cnt.ownerRecordsDropped t = (counter Cnt.ownerRecordsDropped s + 1) % 2 ^ 64 ∧
      t = { s with dict := t.dict }) ∧
  (∀ req value s r, Accepted req 0x2B00 0x11 value s → parseOwner (relayedRecord value) = some r →
    exec (.relayIn req value) s =
      .next (endCmd Ent.relayIn 0 0 (takeRecordOf none r (actionStart req 0x2B00 0x11 s)))) ∧
  (∀ req length s u x rest, dictServed s = true → reqExists req s = true → 1 ≤ length → length ≤ 1024 →
    u = touchReq req s → readRefusal req 0x2B00 0x12 u = erOk → s.security.relayOut = x :: rest → classOf req ≠ .S →
    ∃ t, exec (.relayOut req length) s = .next t ∧ t.security.relayOut = rest ∧
      t.dict.responses = {
        dest := req, bytes := responseBytes (wholeRead 0x2B00 0x12 length) erOk x.length 0 (x.take length),
        units := carried req (responseBytes (wholeRead 0x2B00 0x12 length) erOk x.length 0 (x.take length)) s } ::
        s.dict.responses) ∧
  (∀ req value s, Accepted req 0x2B00 0x0A value s →
    ∃ t, exec (.quoteNonce req value) s = .next t ∧ EndedOk Ent.quoteNonce req s t ∧ t.security.quote = makeQuote value s ∧
      counter Cnt.quotes t = (counter Cnt.quotes s + 1) % 2 ^ 64 ∧ t.security.ms = s.security.ms) ∧
  (∀ req value s slot digest, Accepted req 0x2B00 0x0F value s → slot = leAt value 0 1 →
    digest = BitVec.ofNat 256 (leAt value 1 32) → slot < s.security.ms.length → s.security.log.length < 4096 →
    ∃ t, exec (.measureExtend req value) s = .next t ∧ EndedOk Ent.measureExtend req s t ∧
      t.security.ms.getD slot 0 = shake256 (digestBytes (s.security.ms.getD slot 0) ++ digestBytes digest) ∧
      (∀ k, k ≠ slot → t.security.ms.getD k 0 = s.security.ms.getD k 0) ∧
      t.security.log = s.security.log ++ [{ slot := slot, event := 12, time := s.now, digest := digest }]) ∧
  (∀ req value s, Accepted req 0x2B00 0x06 (leBytes 1 value) s →
    ∃ t, exec (.rollbackCommit req value) s = .next t ∧ t.security.rollback = s.security.rollback ∧
      (lowCounter s = none → EndedOk Ent.rollbackCommit req s t ∧ t.security.committing = none) ∧
      (∀ k, lowCounter s = some k → Runs Ent.rollbackCommit req s t ∧ t.security.committing = some (s.now + 20000))) ∧
  (∀ req value s, Accepted req 0x2B00 0x18 (leBytes 1 value) s →
    ∃ t, exec (.keyWipe req value) s = .next t ∧ EndedOk Ent.keyWipe req s t ∧ t.service.keySlots = [] ∧
      t.security.owners = [] ∧ t.mem.dram = [] ∧ t.mem.jobKeys = none ∧ t.fabric.sessions = []) ∧
  (∀ s, s.job.state = jobZeroising →
    ∃ t, exec .zeroisation s = .next t ∧ t.job.state = jobNone ∧ t.mem.dram = [] ∧ t.mem.sram = [] ∧ t.mem.staging = [] ∧
      t.security.zeroisePending = false ∧ t.security.zeroiseMirror = false ∧ t.job.sealed_ = false ∧
      counter Cnt.zeroisations t = (counter Cnt.zeroisations s + 1) % 2 ^ 64) ∧
  (∀ s t k u, s.security.committing = some t → t ≤ s.now → lowCounter s = some k →
    u = { s with security := { s.security with rollback := updAt s.security.rollback k (· + 1) } } →
    (blowFuse s).security.rollback = updAt s.security.rollback k (· + 1) ∧
      (lowCounter u = none → (blowFuse s).security.committing = none ∧ (cmdOf Ent.rollbackCommit (blowFuse s)).state = 2) ∧
      (lowCounter u ≠ none → (blowFuse s).security.committing = some (t + 20000))) ∧
  (∀ s k, lowCounter s = some k → k < s.security.rollback.length ∧
    ∃ i, s.recovery.runImages.getD k none = some i ∧ s.security.rollback.getD k 0 < i.svn)

/-- An operating point moves one step, no faster than OP_MIN and no slower than 3, and settles in 2 µs; none moves while one does
(R507). INPUT_POWER_W is the mean of the last 50 µs window that has ended (R514; log 66). A new cap
takes effect 100 µs after its write (R514); a projection above 97 % of the cap limits issue by one sixteenth more
(R515). Sensors are read, and one above ALARM_C asserts the alarm with its event (R517); a sensor at TRIP_C,
POWER_OFF and THERM_TRIP_IN_N for 100 ns trip the module, with every domain but AON off and no job (R518, R591). -/
def Obligations.PowerAndTemperatureAreHeld : Prop :=
  (∀ s, moving s = false → ent Ent.opMin s < s.power.opPoint → exec (.opPointMove true) s = .next (count Cnt.opChanges 1
      { s with power := { s.power with opPoint := s.power.opPoint - 1, moveUntil := some (s.now + 2000), clockMoves := (s.now, arithTenths s.now s, arithRate (s.power.opPoint - 1)) :: s.power.clockMoves } })) ∧
  (∀ s faster, moving s = true → exec (.opPointMove faster) s = .next s) ∧
  (∀ s, moving s = false → s.power.opPoint < 3 → exec (.opPointMove false) s = .next (count Cnt.opChanges 1
      { s with power := { s.power with opPoint := s.power.opPoint + 1, moveUntil := some (s.now + 2000), clockMoves := (s.now, arithTenths s.now s, arithRate (s.power.opPoint + 1)) :: s.power.clockMoves } })) ∧
  (∀ s, s.power.opPoint ≤ ent Ent.opMin s → exec (.opPointMove true) s = .next s) ∧
  (∀ watts demand s, watts < 65536 → s.power.capNext = none → s.power.cap * 97 < watts * 100 → s.power.throttle < 16 →
    ∃ t, exec (.capProjection watts demand) s = .next t ∧ t.power.throttle = s.power.throttle + 1 ∧
      t.power.projection = Nat.min watts s.power.cap % 2 ^ 16 ∧
      t.power.inputPower = (if s.power.window < s.now / 50000 then s.power.projection else s.power.inputPower) ∧
      t.power.cap = s.power.cap ∧ t.mem = s.mem ∧ t.job = s.job) ∧
  (∀ req value s, value < 65536 → Accepted req 0x2C00 0x01 (leBytes 2 value) s →
    ∃ t, exec (.powerCapWrite req value) s = .next t ∧ ent Ent.powerCapW t = value ∧
      t.power.capNext = some (value, s.now + 100000) ∧ t.power.cap = s.power.cap) ∧
  (∀ temps s i, temps.length = 31 → i < 31 → sensorLimit i (ent Ent.alarmC s) < temps.getD i 0 → s.power.alarm = false →
    ∃ t, exec (.sensorSample temps) s = .next t ∧ t.power.temps = temps ∧ t.power.alarm = true ∧
      t.hostif.eventCause.getLsbD 4 = true) ∧
  (∀ s i, i < 31 → sensorLimit i 115 ≤ s.power.temps.getD i 0 → s.power.tripped = false → s.recovery.powerGood = true →
    ∃ t, exec .thermalTrip s = .next t ∧ t.power.tripped = true ∧ t.power.tripCause = 1 ∧ t.power.tripOut = true ∧
      t.job.state = jobNone ∧ t.power.mainOn = false ∧ t.power.netOn = false ∧ t.mem.dram = [] ∧ t.mem.sram = []) ∧
  (∀ req value s, Accepted req 0x2C00 0x10 (leBytes 1 value) s → s.power.tripped = false → s.recovery.powerGood = true →
    ∃ t, exec (.powerOff req value) s = .next t ∧ EndedOk Ent.powerOff req s t ∧ t.power.tripped = true ∧
      t.power.tripCause = 3 ∧ t.power.tripOut = false ∧ t.job.state = jobNone ∧ t.mem.dram = []) ∧
  (∀ ns s, 100 ≤ ns → exec (.thermTripInN ns) s = .next (trip 2 s)) ∧
  (∀ ns s, ns < 50 → exec (.thermTripInN ns) s = .next s)

/-- The loss of the reference is a job fault 0xD003 with its record, and its return is recorded (R519). A group wakes on
demand in the time of Table 19.2, behind the move of the operating point that its demand may need, and is on when that has
passed (R509, R510, R516). NET comes on where it is wanted, and
goes off once it could have been off for 1 s; COLD comes on for a job or a zeroisation, goes to self-refresh after
COLD_IDLE_NS, not before it is up, and leaves it again at an access (R29, R512, R513); a tick of the power manager notes since when NET
could be off, and carries out what waited for COLD (R513); the Bivouac loads the graph it is given, or fails where the graph cannot run there (R521). -/
def Obligations.ClocksAndDomainsFollow : Prop :=
  (∀ s, s.power.refClockOk = true → exec .refClockLoss s = .next (raiseJobFault 0xD003 (faultDetail 0 noInst 0 0 0)
      (wbSubmit 0xD003 noInst [0] { s with power := { s.power with refClockOk := false }, pins := { s.pins with refPresent := false } }))) ∧
  (∀ s, s.power.refClockOk = false → exec .refClockRestored s = .next (wbSubmit 0xD003 noInst [1]
      { s with power := { s.power with refClockOk := true, refSince := s.now }, pins := { s.pins with refPresent := true } })) ∧
  (∀ cg s g u v, cg < 16 → u = settleGroups s → cg < u.power.groups.length → g = u.power.groups.getD cg GroupPower.reset →
    s.power.mainOn = true → 1 ≤ g.code → g.code ≤ 4 → g.wakeAfter = false → v = settleGroups u →
    ∃ t, exec (.cgWake cg) s = .next t ∧ (t.power.groups.getD cg GroupPower.reset).code = 5 ∧
      (t.power.groups.getD cg GroupPower.reset).until_ = s.now + wakeDelay v (reserveWake v) + wakeNs g.code (residentMib cg v) ∧
      counter Cnt.wakesOnDemand t = (counter Cnt.wakesOnDemand u + 1) % 2 ^ 64) ∧
  (∀ cg s g, cg < 16 → cg < s.power.groups.length → g = s.power.groups.getD cg GroupPower.reset → g.code = 5 → g.left = 0 →
    g.until_ ≤ s.now → g.other ≠ 4 → s.power.stageReload.getD (cg / 8) false = false →
    ∃ u, u = { s with power := { s.power with groups := s.power.groups.set cg { g with code := 0, other := 0, wakeAfter := false } } } ∧
      exec (.cgWakeComplete cg) s = .next ((groupCores cg).foldl (fun s c => serveDrays c s) u)) ∧
  (∀ s, netWanted s = true → s.power.mainOn = true → s.power.netOn = false →
    exec .netSwitchOn s = .next { s with power := { s.power with netOn := true, netIdleSince := none } }) ∧
  (∀ s since, s.power.netOn = true → s.job.state = jobRunning → ent Ent.svcEnable s = 0 → s.fabric.state = 0 →
    s.security.owners = [] → s.power.netIdleSince = some since → since + 1000000000 ≤ s.now →
    exec .netSwitchOff s = .next { s with power := { s.power with netOn := false, netIdleSince := none }, fabric := { s.fabric with ifUp := [] } }) ∧
  (∀ s, s.power.mainOn = true → s.job.state = jobDeploying → s.power.cold = 2 →
    exec .coldSwitchOn s = .next { s with power := { s.power with cold := 0, coldUntil := some (s.now + 15000000), coldLast := s.now } }) ∧
  (∀ s, coldUp s = false → exec .coldSelfRefresh s = .next s) ∧
  (∀ s, s.power.cold = 0 → coldUp s = true → s.power.coldLast + ent Ent.coldIdleNs s ≤ s.now →
    exec .coldSelfRefresh s = .next { s with power := { s.power with cold := 1, coldUntil := none } }) ∧
  (∀ s, s.power.cold = 1 → exec .selfRefreshExit s = .next (touchCold s)) ∧
  (∀ s, s.job.state ≠ jobRunning → s.power.coldWaits = [] →
    ∃ t, exec .powerManagerTick s = .next t ∧ t.power.netIdleSince = none ∧
    t.job = s.job ∧ t.mem.dram = s.mem.dram ∧ t.security = s.security) ∧
  (∀ s req bytes u, s.power.coldWaits = [(req, Ent.contextCreate, bytes)] → u = powerTick s → coldUp u = true →
    exec .powerManagerTick s = .next (contextCreateAction req bytes { u with power := { u.power with coldWaits := [] } })) ∧
  (∀ s g v, s.power.bivState = 1 → bivGraphOf s = some (g, v) →
    ∃ t, exec .bivGraphLoad s = .next t ∧
      (bivRefuses g.id v = false → t.power.bivState = 2 ∧ t.power.bivVersion = v.num ∧ t.power.bivStamp = g.stamp) ∧
      (bivRefuses g.id v = true → t = { s with power := { s.power with bivState := 3 } }))

/-- A cold reset, by COLD_RESET, MOD_RESET_N for 1 µs or a watchdog, leaves RESET_CAUSE, no job, every domain but AON
off, start-up at its first step and the anti-rollback counters as they were, unless a trip is latched in a hot
module, when it is held (R518, R526, R527, R534, R591). START_UP completes the next step of Table 20.2; a refused
image of the running bank makes the boot ROM fall back to the other bank (R528, R539). A job fault that is raised
restarts the job where fewer than RESTART_LIMIT restarts began within a second, and ends it otherwise, a fault raised in the
restart starting another one; a wedged
Postilion is a job fault; input power that is lost leaves what the nonvolatile store keeps (R530 to R534, R574,
R587). -/
def Obligations.ResetsAndJobFaultsRestart : Prop :=
  (∀ s i c req value, s.recovery.powerGood = true → s.power.tripped = false →
    ((i = .modResetN 1000 ∧ c = 1) ∨ (s.recovery.hubRunning = true ∧ i = .watchdogExpiry ∧ c = 3) ∨
     (Accepted req 0x2D00 0x01 (leBytes 1 value) s ∧ i = .coldReset req value ∧ c = 2)) →
    ∃ t, exec i s = .next t ∧ t.recovery.cause = c ∧ t.recovery.bootStage = 0 ∧ t.recovery.bootAt = s.now ∧
      t.recovery.boots = s.recovery.boots + 1 ∧ t.job.state = jobNone ∧ t.power.mainOn = false ∧ t.power.netOn = false ∧
      t.mem.dram = [] ∧ t.mem.sram = [] ∧ t.service.keySlots = [] ∧ t.security.owners = [] ∧
      t.security.rollback = s.security.rollback ∧ t.mem.remaps = s.mem.remaps ∧ t.recovery.running = s.recovery.next) ∧
  (∀ ns s, ns < 1000 → exec (.modResetN ns) s = .next s) ∧
  (∀ s, s.recovery.powerGood = true → s.power.tripped = true → tooHot s = true →
    exec (.modResetN 1000) s = .next { s with recovery := { s.recovery with heldReset := some 1 } }) ∧
  (∀ s, s.recovery.powerGood = true → s.recovery.heldReset = none → starting s = true → s.pins.modResetN = true →
    s.pins.refPresent = true → fallbackImage s = none →
    exec .startUp s = .next (bootStep (s.recovery.bootStage + 1) s)) ∧
  (∀ s, s.recovery.powerGood = true → s.recovery.heldReset = none → starting s = true → s.pins.modResetN = true →
    s.pins.refPresent = true → s.recovery.bootStage = 2 →
    ∃ t, exec .startUp s = .next t ∧ t.recovery.bootStage = 3 ∧ t.security.identityKey = true) ∧
  (∀ s x, starting s = true → fallbackImage s = some x →
    exec .firmwareFallback s = .next (coldReset 4 { noteBankRefused x s with recovery := { (noteBankRefused x s).recovery with next := 1 - s.recovery.running, trial := (1 - s.recovery.running) != s.recovery.active } })) ∧
  (∀ s f, s.recovery.fault = some f → s.job.state = jobRestarting → s.power.refClockOk = true → s.power.refSince = 0 →
    s.recovery.begun.length < ent Ent.restartLimit s →
    ((restartSteps s).recovery.fault = none → exec .jobFault s = .next (endRestart f (restartSteps s))) ∧
    (∀ g, (restartSteps s).recovery.fault = some g → exec .jobFault s = .next (restartJob 63 g (restartSteps s)))) ∧
  (∀ n f s, ent Ent.restartLimit s ≤ s.recovery.begun.length →
    restartJob (n + 1) f s = endJobNow (wbSubmit 0xE005 noInst [s.recovery.begun.length] s)) ∧
  (∀ s f, s.recovery.fault = some f → s.job.state = jobRestarting → s.power.refClockOk = true → s.power.refSince = 0 →
    ent Ent.restartLimit s ≤ s.recovery.begun.length →
    exec .jobFault s = .next (endJobNow (wbSubmit 0xE005 noInst [s.recovery.begun.length] s))) ∧
  (∀ code detail s, s.job.state = jobRunning →
    ∃ t, t = raiseJobFault code detail s ∧ t.job.state = jobRestarting ∧
      t.recovery.fault = some { time := s.now, code := code } ∧ t.hostif.eventCause.getLsbD 0 = true ∧ t.mem.dram = s.mem.dram ∧
      counter Cnt.jobFaults t = (counter Cnt.jobFaults s + 1) % 2 ^ 64) ∧
  (∀ s, s.dispatch.postilionState = 2 → s.recovery.hubRunning = true → s.job.state = jobRunning →
    ∃ t, exec .postilionWedge s = .next t ∧ t.recovery.postilionWedged = true ∧ t.job.state = jobRestarting) ∧
  (∀ s, s.recovery.powerGood = true →
    ∃ t, exec .inputPowerLoss s = .next t ∧ t.recovery.powerGood = false ∧ t.waybill.kept = s.waybill.kept ∧
      t.waybill.circ = [] ∧ t.security.zeroisePending = s.security.zeroiseMirror ∧
      t.security.rollback = s.security.rollback ∧ t.recovery.banks = s.recovery.banks ∧ t.mem.dram = [] ∧ t.mem.sram = [])

/-- MAINT_MODE at 1 enters maintenance mode with the Postilion stopped and the persistent tasks of the direct queues begun, or
leaves a module that is in it as it is; at 0 it ends maintenance mode, and leaves a module not in it as it is. CG_RESET
resets the groups of its mask one after the other, each being on afterwards, or, while MAIN is off, leaves them off (R537). FW_WRITE
stages the LENGTH bytes of its data, those that a short value leaves out being 0 (R541); FW_INSTALL of a staged image writes it to the inactive
bank where it passes every check, and is DENIED, the inactive bank unchanged, where it fails one or no valid image is staged;
FW_ACTIVATE selects the inactive bank for a trial, and FW_CONFIRM makes the bank that runs on trial the active one, and is DENIED
where none does (R538). -/
def Obligations.FirmwareIsUpdatedOnTrial : Prop :=
  (∀ req value s, Accepted req 0x2D00 0x05 (leBytes 1 value) s → value % 256 = 1 → s.recovery.maint = false →
    ∃ t, exec (.maintMode req value) s = .next t ∧ EndedOk Ent.maintMode req s t ∧ t.recovery.maint = true ∧
      t.dispatch.postilionState = 0 ∧
      t = endCmd Ent.maintMode 0 0 (startPersistents { actionStart req 0x2D00 0x05 s with
        recovery := { s.recovery with maint := true, maintEnding := false },
        dispatch := { s.dispatch with postilionState := 0 } })) ∧
  (∀ req value s, Accepted req 0x2D00 0x05 (leBytes 1 value) s → value % 256 ≠ 1 → s.recovery.maint = false →
    ∃ t, exec (.maintMode req value) s = .next t ∧ EndedOk Ent.maintMode req s t ∧ t = { s with dict := t.dict }) ∧
  (∀ req mask s, Accepted req 0x6D00 0x01 (leBytes 2 mask) s →
    exec (.cgReset req mask) s = .next (endCmd Ent.cgReset 0 0
      ((setBits 16 (mask % 65536)).foldl (fun s g => resetGroup g s) (actionStart req 0x6D00 0x01 s)))) ∧
  (∀ req value s, Accepted req 0x2D00 0x06 value s →
    ∃ t, exec (.fwWrite req value) s = .next t ∧ EndedOk Ent.fwWrite req s t ∧
      t = { s with dict := t.dict, recovery := { s.recovery with
        staging := memWrite s.recovery.staging (leAt value 0 4) (slice value 8 (leAt value 4 4)) } } ∧
      (value.length = 8 + leAt value 4 4 →
        t.recovery.staging = memWrite s.recovery.staging (leAt value 0 4) (value.drop 8))) ∧
  (∀ req value s x, value < 2 ^ 32 → Accepted req 0x2D00 0x07 (leBytes 4 value) s → stagedImage value s = some x →
    x.typ < 5 → s.recovery.active < 2 → s.recovery.banks.length = 2 →
    ∃ t, exec (.fwInstall req value) s = .next t ∧
      (stagedFault x s = none → EndedOk Ent.fwInstall req s t ∧ bankImage (1 - s.recovery.active) x.typ t = some x.image ∧
        (∀ k, bankImage s.recovery.active k t = bankImage s.recovery.active k s)) ∧
      (stagedFault x s ≠ none → (cmdOf Ent.fwInstall t).state = 3 ∧ (cmdOf Ent.fwInstall t).status = stDenied ∧ (cmdOf Ent.fwInstall t).reason = erBadValue ∧
        t.recovery = s.recovery) ∧ t.recovery.active = s.recovery.active) ∧
  (∀ req value s, Accepted req 0x2D00 0x08 (leBytes 1 value) s →
    ∃ t, exec (.fwActivate req value) s = .next t ∧ EndedOk Ent.fwActivate req s t ∧
      t = { s with dict := t.dict, recovery := { s.recovery with next := 1 - s.recovery.active, trial := true, written := [] } }) ∧
  (∀ req value s, Accepted req 0x2D00 0x09 (leBytes 1 value) s → s.recovery.trial = true →
    s.recovery.running = s.recovery.next → s.recovery.running ≠ s.recovery.active →
    ∃ t, exec (.fwConfirm req value) s = .next t ∧ EndedOk Ent.fwConfirm req s t ∧
      t = { s with dict := t.dict, recovery := { s.recovery with active := s.recovery.running, trial := false } }) ∧
  (∀ req value s, Accepted req 0x2D00 0x05 (leBytes 1 value) s → value % 256 = 1 → s.recovery.maint = true →
    ∃ t, exec (.maintMode req value) s = .next t ∧ EndedOk Ent.maintMode req s t ∧ t = { s with dict := t.dict }) ∧
  (∀ req value s, Accepted req 0x2D00 0x05 (leBytes 1 value) s → value % 256 ≠ 1 → s.recovery.maint = true →
    ∃ t, exec (.maintMode req value) s = .next t ∧ EndedOk Ent.maintMode req s t ∧ t.recovery.maint = false ∧
      t = endCmd Ent.maintMode 0 0 (endMaintenance (actionStart req 0x2D00 0x05 s))) ∧
  (∀ cg s, (s.power.mainOn = false → resetGroup cg s = s) ∧
    (s.power.mainOn = true → cg < s.power.groups.length →
      ((resetGroup cg s).power.groups.getD cg GroupPower.reset).code = 0)) ∧
  (∀ (value : List Byte) i, i < leAt value 4 4 →
    (slice value 8 (leAt value 4 4))[i]? = some (value.getD (8 + i) 0)) ∧
  (∀ value : List Byte, (slice value 8 (leAt value 4 4)).length = leAt value 4 4) ∧
  (∀ req value s, value < 2 ^ 32 → Accepted req 0x2D00 0x07 (leBytes 4 value) s → stagedImage value s = none →
    ∃ t, exec (.fwInstall req value) s = .next t ∧ (cmdOf Ent.fwInstall t).state = 3 ∧
      (cmdOf Ent.fwInstall t).status = stDenied ∧ t.recovery = s.recovery) ∧
  (∀ req value s, Accepted req 0x2D00 0x09 (leBytes 1 value) s →
    s.recovery.trial = false ∨ s.recovery.running ≠ s.recovery.next ∨ s.recovery.running = s.recovery.active →
    ∃ t, exec (.fwConfirm req value) s = .next t ∧ (cmdOf Ent.fwConfirm t).state = 3 ∧
      (cmdOf Ent.fwConfirm t).status = stDenied ∧ t = { s with dict := t.dict })
end

