-- ==== Sys2Proof/Laws/State.lean ====
section
/-! SUPPORT. What the shared updates leave alone: one lemma for each part of the state an update does not touch. -/

namespace Sys2Proof.Machine

open Sys2Proof

@[simp] theorem count_identity (key n : Nat) (s : State) : (count key n s).identity = s.identity := rfl
@[simp] theorem count_service (key n : Nat) (s : State) : (count key n s).service = s.service := rfl
@[simp] theorem count_lookup (key n : Nat) (s : State) : (count key n s).lookup = s.lookup := rfl
@[simp] theorem count_updates (key n : Nat) (s : State) : (count key n s).updates = s.updates := rfl
@[simp] theorem count_matrix (key n : Nat) (s : State) : (count key n s).matrix = s.matrix := rfl
@[simp] theorem count_vector (key n : Nat) (s : State) : (count key n s).vector = s.vector := rfl
@[simp] theorem count_control (key n : Nat) (s : State) : (count key n s).control = s.control := rfl
@[simp] theorem count_numerics (key n : Nat) (s : State) : (count key n s).numerics = s.numerics := rfl
@[simp] theorem count_sequences (key n : Nat) (s : State) : (count key n s).sequences = s.sequences := rfl
@[simp] theorem count_streaming (key n : Nat) (s : State) : (count key n s).streaming = s.streaming := rfl
@[simp] theorem count_dispatch (key n : Nat) (s : State) : (count key n s).dispatch = s.dispatch := rfl
@[simp] theorem count_runahead (key n : Nat) (s : State) : (count key n s).runahead = s.runahead := rfl
@[simp] theorem count_legacy (key n : Nat) (s : State) : (count key n s).legacy = s.legacy := rfl
@[simp] theorem count_job (key n : Nat) (s : State) : (count key n s).job = s.job := rfl
@[simp] theorem count_mem (key n : Nat) (s : State) : (count key n s).mem = s.mem := rfl
@[simp] theorem count_xlate (key n : Nat) (s : State) : (count key n s).xlate = s.xlate := rfl
@[simp] theorem count_hostif (key n : Nat) (s : State) : (count key n s).hostif = s.hostif := rfl
@[simp] theorem count_fabric (key n : Nat) (s : State) : (count key n s).fabric = s.fabric := rfl
@[simp] theorem count_security (key n : Nat) (s : State) : (count key n s).security = s.security := rfl
@[simp] theorem count_power (key n : Nat) (s : State) : (count key n s).power = s.power := rfl
@[simp] theorem count_recovery (key n : Nat) (s : State) : (count key n s).recovery = s.recovery := rfl
@[simp] theorem count_waybill (key n : Nat) (s : State) : (count key n s).waybill = s.waybill := rfl
@[simp] theorem count_pins (key n : Nat) (s : State) : (count key n s).pins = s.pins := rfl
@[simp] theorem count_now (key n : Nat) (s : State) : (count key n s).now = s.now := rfl
@[simp] theorem count_free (key n : Nat) (s : State) : (count key n s).free = s.free := rfl
@[simp] theorem count_pending (key n : Nat) (s : State) : (count key n s).pending = s.pending := rfl

@[simp] theorem setEnt_identity (key n v : Nat) (s : State) : (setEnt key n v s).identity = s.identity := rfl
@[simp] theorem setEnt_service (key n v : Nat) (s : State) : (setEnt key n v s).service = s.service := rfl
@[simp] theorem setEnt_lookup (key n v : Nat) (s : State) : (setEnt key n v s).lookup = s.lookup := rfl
@[simp] theorem setEnt_updates (key n v : Nat) (s : State) : (setEnt key n v s).updates = s.updates := rfl
@[simp] theorem setEnt_matrix (key n v : Nat) (s : State) : (setEnt key n v s).matrix = s.matrix := rfl
@[simp] theorem setEnt_vector (key n v : Nat) (s : State) : (setEnt key n v s).vector = s.vector := rfl
@[simp] theorem setEnt_control (key n v : Nat) (s : State) : (setEnt key n v s).control = s.control := rfl
@[simp] theorem setEnt_numerics (key n v : Nat) (s : State) : (setEnt key n v s).numerics = s.numerics := rfl
@[simp] theorem setEnt_sequences (key n v : Nat) (s : State) : (setEnt key n v s).sequences = s.sequences := rfl
@[simp] theorem setEnt_streaming (key n v : Nat) (s : State) : (setEnt key n v s).streaming = s.streaming := rfl
@[simp] theorem setEnt_dispatch (key n v : Nat) (s : State) : (setEnt key n v s).dispatch = s.dispatch := rfl
@[simp] theorem setEnt_runahead (key n v : Nat) (s : State) : (setEnt key n v s).runahead = s.runahead := rfl
@[simp] theorem setEnt_legacy (key n v : Nat) (s : State) : (setEnt key n v s).legacy = s.legacy := rfl
@[simp] theorem setEnt_job (key n v : Nat) (s : State) : (setEnt key n v s).job = s.job := rfl
@[simp] theorem setEnt_mem (key n v : Nat) (s : State) : (setEnt key n v s).mem = s.mem := rfl
@[simp] theorem setEnt_xlate (key n v : Nat) (s : State) : (setEnt key n v s).xlate = s.xlate := rfl
@[simp] theorem setEnt_hostif (key n v : Nat) (s : State) : (setEnt key n v s).hostif = s.hostif := rfl
@[simp] theorem setEnt_fabric (key n v : Nat) (s : State) : (setEnt key n v s).fabric = s.fabric := rfl
@[simp] theorem setEnt_security (key n v : Nat) (s : State) : (setEnt key n v s).security = s.security := rfl
@[simp] theorem setEnt_power (key n v : Nat) (s : State) : (setEnt key n v s).power = s.power := rfl
@[simp] theorem setEnt_recovery (key n v : Nat) (s : State) : (setEnt key n v s).recovery = s.recovery := rfl
@[simp] theorem setEnt_waybill (key n v : Nat) (s : State) : (setEnt key n v s).waybill = s.waybill := rfl
@[simp] theorem setEnt_pins (key n v : Nat) (s : State) : (setEnt key n v s).pins = s.pins := rfl
@[simp] theorem setEnt_now (key n v : Nat) (s : State) : (setEnt key n v s).now = s.now := rfl
@[simp] theorem setEnt_free (key n v : Nat) (s : State) : (setEnt key n v s).free = s.free := rfl
@[simp] theorem setEnt_pending (key n v : Nat) (s : State) : (setEnt key n v s).pending = s.pending := rfl

@[simp] theorem clearEnt_identity (key : Nat) (s : State) : (clearEnt key s).identity = s.identity := rfl
@[simp] theorem clearEnt_service (key : Nat) (s : State) : (clearEnt key s).service = s.service := rfl
@[simp] theorem clearEnt_lookup (key : Nat) (s : State) : (clearEnt key s).lookup = s.lookup := rfl
@[simp] theorem clearEnt_updates (key : Nat) (s : State) : (clearEnt key s).updates = s.updates := rfl
@[simp] theorem clearEnt_matrix (key : Nat) (s : State) : (clearEnt key s).matrix = s.matrix := rfl
@[simp] theorem clearEnt_vector (key : Nat) (s : State) : (clearEnt key s).vector = s.vector := rfl
@[simp] theorem clearEnt_control (key : Nat) (s : State) : (clearEnt key s).control = s.control := rfl
@[simp] theorem clearEnt_numerics (key : Nat) (s : State) : (clearEnt key s).numerics = s.numerics := rfl
@[simp] theorem clearEnt_sequences (key : Nat) (s : State) : (clearEnt key s).sequences = s.sequences := rfl
@[simp] theorem clearEnt_streaming (key : Nat) (s : State) : (clearEnt key s).streaming = s.streaming := rfl
@[simp] theorem clearEnt_dispatch (key : Nat) (s : State) : (clearEnt key s).dispatch = s.dispatch := rfl
@[simp] theorem clearEnt_runahead (key : Nat) (s : State) : (clearEnt key s).runahead = s.runahead := rfl
@[simp] theorem clearEnt_legacy (key : Nat) (s : State) : (clearEnt key s).legacy = s.legacy := rfl
@[simp] theorem clearEnt_job (key : Nat) (s : State) : (clearEnt key s).job = s.job := rfl
@[simp] theorem clearEnt_mem (key : Nat) (s : State) : (clearEnt key s).mem = s.mem := rfl
@[simp] theorem clearEnt_xlate (key : Nat) (s : State) : (clearEnt key s).xlate = s.xlate := rfl
@[simp] theorem clearEnt_hostif (key : Nat) (s : State) : (clearEnt key s).hostif = s.hostif := rfl
@[simp] theorem clearEnt_fabric (key : Nat) (s : State) : (clearEnt key s).fabric = s.fabric := rfl
@[simp] theorem clearEnt_security (key : Nat) (s : State) : (clearEnt key s).security = s.security := rfl
@[simp] theorem clearEnt_power (key : Nat) (s : State) : (clearEnt key s).power = s.power := rfl
@[simp] theorem clearEnt_recovery (key : Nat) (s : State) : (clearEnt key s).recovery = s.recovery := rfl
@[simp] theorem clearEnt_waybill (key : Nat) (s : State) : (clearEnt key s).waybill = s.waybill := rfl
@[simp] theorem clearEnt_pins (key : Nat) (s : State) : (clearEnt key s).pins = s.pins := rfl
@[simp] theorem clearEnt_now (key : Nat) (s : State) : (clearEnt key s).now = s.now := rfl
@[simp] theorem clearEnt_free (key : Nat) (s : State) : (clearEnt key s).free = s.free := rfl
@[simp] theorem clearEnt_pending (key : Nat) (s : State) : (clearEnt key s).pending = s.pending := rfl

@[simp] theorem drawFree_identity (s : State) : (drawFree s).identity = s.identity := rfl
@[simp] theorem drawFree_service (s : State) : (drawFree s).service = s.service := rfl
@[simp] theorem drawFree_lookup (s : State) : (drawFree s).lookup = s.lookup := rfl
@[simp] theorem drawFree_updates (s : State) : (drawFree s).updates = s.updates := rfl
@[simp] theorem drawFree_matrix (s : State) : (drawFree s).matrix = s.matrix := rfl
@[simp] theorem drawFree_vector (s : State) : (drawFree s).vector = s.vector := rfl
@[simp] theorem drawFree_control (s : State) : (drawFree s).control = s.control := rfl
@[simp] theorem drawFree_numerics (s : State) : (drawFree s).numerics = s.numerics := rfl
@[simp] theorem drawFree_sequences (s : State) : (drawFree s).sequences = s.sequences := rfl
@[simp] theorem drawFree_streaming (s : State) : (drawFree s).streaming = s.streaming := rfl
@[simp] theorem drawFree_dispatch (s : State) : (drawFree s).dispatch = s.dispatch := rfl
@[simp] theorem drawFree_runahead (s : State) : (drawFree s).runahead = s.runahead := rfl
@[simp] theorem drawFree_legacy (s : State) : (drawFree s).legacy = s.legacy := rfl
@[simp] theorem drawFree_job (s : State) : (drawFree s).job = s.job := rfl
@[simp] theorem drawFree_mem (s : State) : (drawFree s).mem = s.mem := rfl
@[simp] theorem drawFree_xlate (s : State) : (drawFree s).xlate = s.xlate := rfl
@[simp] theorem drawFree_hostif (s : State) : (drawFree s).hostif = s.hostif := rfl
@[simp] theorem drawFree_fabric (s : State) : (drawFree s).fabric = s.fabric := rfl
@[simp] theorem drawFree_security (s : State) : (drawFree s).security = s.security := rfl
@[simp] theorem drawFree_power (s : State) : (drawFree s).power = s.power := rfl
@[simp] theorem drawFree_recovery (s : State) : (drawFree s).recovery = s.recovery := rfl
@[simp] theorem drawFree_dict (s : State) : (drawFree s).dict = s.dict := rfl
@[simp] theorem drawFree_waybill (s : State) : (drawFree s).waybill = s.waybill := rfl
@[simp] theorem drawFree_pins (s : State) : (drawFree s).pins = s.pins := rfl
@[simp] theorem drawFree_now (s : State) : (drawFree s).now = s.now := rfl
@[simp] theorem drawFree_pending (s : State) : (drawFree s).pending = s.pending := rfl

@[simp] theorem startCmd_identity (key : Nat) (r : ReqId) (s : State) : (startCmd key r s).identity = s.identity := rfl
@[simp] theorem startCmd_service (key : Nat) (r : ReqId) (s : State) : (startCmd key r s).service = s.service := rfl
@[simp] theorem startCmd_lookup (key : Nat) (r : ReqId) (s : State) : (startCmd key r s).lookup = s.lookup := rfl
@[simp] theorem startCmd_updates (key : Nat) (r : ReqId) (s : State) : (startCmd key r s).updates = s.updates := rfl
@[simp] theorem startCmd_matrix (key : Nat) (r : ReqId) (s : State) : (startCmd key r s).matrix = s.matrix := rfl
@[simp] theorem startCmd_vector (key : Nat) (r : ReqId) (s : State) : (startCmd key r s).vector = s.vector := rfl
@[simp] theorem startCmd_control (key : Nat) (r : ReqId) (s : State) : (startCmd key r s).control = s.control := rfl
@[simp] theorem startCmd_numerics (key : Nat) (r : ReqId) (s : State) : (startCmd key r s).numerics = s.numerics := rfl
@[simp] theorem startCmd_sequences (key : Nat) (r : ReqId) (s : State) : (startCmd key r s).sequences = s.sequences := rfl
@[simp] theorem startCmd_streaming (key : Nat) (r : ReqId) (s : State) : (startCmd key r s).streaming = s.streaming := rfl
@[simp] theorem startCmd_dispatch (key : Nat) (r : ReqId) (s : State) : (startCmd key r s).dispatch = s.dispatch := rfl
@[simp] theorem startCmd_runahead (key : Nat) (r : ReqId) (s : State) : (startCmd key r s).runahead = s.runahead := rfl
@[simp] theorem startCmd_legacy (key : Nat) (r : ReqId) (s : State) : (startCmd key r s).legacy = s.legacy := rfl
@[simp] theorem startCmd_job (key : Nat) (r : ReqId) (s : State) : (startCmd key r s).job = s.job := rfl
@[simp] theorem startCmd_mem (key : Nat) (r : ReqId) (s : State) : (startCmd key r s).mem = s.mem := rfl
@[simp] theorem startCmd_xlate (key : Nat) (r : ReqId) (s : State) : (startCmd key r s).xlate = s.xlate := rfl
@[simp] theorem startCmd_hostif (key : Nat) (r : ReqId) (s : State) : (startCmd key r s).hostif = s.hostif := rfl
@[simp] theorem startCmd_fabric (key : Nat) (r : ReqId) (s : State) : (startCmd key r s).fabric = s.fabric := rfl
@[simp] theorem startCmd_security (key : Nat) (r : ReqId) (s : State) : (startCmd key r s).security = s.security := rfl
@[simp] theorem startCmd_power (key : Nat) (r : ReqId) (s : State) : (startCmd key r s).power = s.power := rfl
@[simp] theorem startCmd_recovery (key : Nat) (r : ReqId) (s : State) : (startCmd key r s).recovery = s.recovery := rfl
@[simp] theorem startCmd_waybill (key : Nat) (r : ReqId) (s : State) : (startCmd key r s).waybill = s.waybill := rfl
@[simp] theorem startCmd_pins (key : Nat) (r : ReqId) (s : State) : (startCmd key r s).pins = s.pins := rfl
@[simp] theorem startCmd_now (key : Nat) (r : ReqId) (s : State) : (startCmd key r s).now = s.now := rfl
@[simp] theorem startCmd_free (key : Nat) (r : ReqId) (s : State) : (startCmd key r s).free = s.free := rfl
@[simp] theorem startCmd_pending (key : Nat) (r : ReqId) (s : State) : (startCmd key r s).pending = s.pending := rfl

@[simp] theorem endCmd_identity (key status reason : Nat) (s : State) : (endCmd key status reason s).identity = s.identity := rfl
@[simp] theorem endCmd_service (key status reason : Nat) (s : State) : (endCmd key status reason s).service = s.service := rfl
@[simp] theorem endCmd_lookup (key status reason : Nat) (s : State) : (endCmd key status reason s).lookup = s.lookup := rfl
@[simp] theorem endCmd_updates (key status reason : Nat) (s : State) : (endCmd key status reason s).updates = s.updates := rfl
@[simp] theorem endCmd_matrix (key status reason : Nat) (s : State) : (endCmd key status reason s).matrix = s.matrix := rfl
@[simp] theorem endCmd_vector (key status reason : Nat) (s : State) : (endCmd key status reason s).vector = s.vector := rfl
@[simp] theorem endCmd_control (key status reason : Nat) (s : State) : (endCmd key status reason s).control = s.control := rfl
@[simp] theorem endCmd_numerics (key status reason : Nat) (s : State) : (endCmd key status reason s).numerics = s.numerics := rfl
@[simp] theorem endCmd_sequences (key status reason : Nat) (s : State) : (endCmd key status reason s).sequences = s.sequences := rfl
@[simp] theorem endCmd_streaming (key status reason : Nat) (s : State) : (endCmd key status reason s).streaming = s.streaming := rfl
@[simp] theorem endCmd_dispatch (key status reason : Nat) (s : State) : (endCmd key status reason s).dispatch = s.dispatch := rfl
@[simp] theorem endCmd_runahead (key status reason : Nat) (s : State) : (endCmd key status reason s).runahead = s.runahead := rfl
@[simp] theorem endCmd_legacy (key status reason : Nat) (s : State) : (endCmd key status reason s).legacy = s.legacy := rfl
@[simp] theorem endCmd_job (key status reason : Nat) (s : State) : (endCmd key status reason s).job = s.job := rfl
@[simp] theorem endCmd_mem (key status reason : Nat) (s : State) : (endCmd key status reason s).mem = s.mem := rfl
@[simp] theorem endCmd_xlate (key status reason : Nat) (s : State) : (endCmd key status reason s).xlate = s.xlate := rfl
@[simp] theorem endCmd_hostif (key status reason : Nat) (s : State) : (endCmd key status reason s).hostif = s.hostif := rfl
@[simp] theorem endCmd_fabric (key status reason : Nat) (s : State) : (endCmd key status reason s).fabric = s.fabric := rfl
@[simp] theorem endCmd_security (key status reason : Nat) (s : State) : (endCmd key status reason s).security = s.security := rfl
@[simp] theorem endCmd_power (key status reason : Nat) (s : State) : (endCmd key status reason s).power = s.power := rfl
@[simp] theorem endCmd_recovery (key status reason : Nat) (s : State) : (endCmd key status reason s).recovery = s.recovery := rfl
@[simp] theorem endCmd_waybill (key status reason : Nat) (s : State) : (endCmd key status reason s).waybill = s.waybill := rfl
@[simp] theorem endCmd_pins (key status reason : Nat) (s : State) : (endCmd key status reason s).pins = s.pins := rfl
@[simp] theorem endCmd_now (key status reason : Nat) (s : State) : (endCmd key status reason s).now = s.now := rfl
@[simp] theorem endCmd_free (key status reason : Nat) (s : State) : (endCmd key status reason s).free = s.free := rfl
@[simp] theorem endCmd_pending (key status reason : Nat) (s : State) : (endCmd key status reason s).pending = s.pending := rfl

@[simp] theorem updCtl_identity (c : Nat) (f : CoreControl → CoreControl) (s : State) : (updCtl c f s).identity = s.identity := rfl
@[simp] theorem updCtl_service (c : Nat) (f : CoreControl → CoreControl) (s : State) : (updCtl c f s).service = s.service := rfl
@[simp] theorem updCtl_lookup (c : Nat) (f : CoreControl → CoreControl) (s : State) : (updCtl c f s).lookup = s.lookup := rfl
@[simp] theorem updCtl_updates (c : Nat) (f : CoreControl → CoreControl) (s : State) : (updCtl c f s).updates = s.updates := rfl
@[simp] theorem updCtl_matrix (c : Nat) (f : CoreControl → CoreControl) (s : State) : (updCtl c f s).matrix = s.matrix := rfl
@[simp] theorem updCtl_vector (c : Nat) (f : CoreControl → CoreControl) (s : State) : (updCtl c f s).vector = s.vector := rfl
@[simp] theorem updCtl_numerics (c : Nat) (f : CoreControl → CoreControl) (s : State) : (updCtl c f s).numerics = s.numerics := rfl
@[simp] theorem updCtl_sequences (c : Nat) (f : CoreControl → CoreControl) (s : State) : (updCtl c f s).sequences = s.sequences := rfl
@[simp] theorem updCtl_streaming (c : Nat) (f : CoreControl → CoreControl) (s : State) : (updCtl c f s).streaming = s.streaming := rfl
@[simp] theorem updCtl_dispatch (c : Nat) (f : CoreControl → CoreControl) (s : State) : (updCtl c f s).dispatch = s.dispatch := rfl
@[simp] theorem updCtl_runahead (c : Nat) (f : CoreControl → CoreControl) (s : State) : (updCtl c f s).runahead = s.runahead := rfl
@[simp] theorem updCtl_legacy (c : Nat) (f : CoreControl → CoreControl) (s : State) : (updCtl c f s).legacy = s.legacy := rfl
@[simp] theorem updCtl_job (c : Nat) (f : CoreControl → CoreControl) (s : State) : (updCtl c f s).job = s.job := rfl
@[simp] theorem updCtl_mem (c : Nat) (f : CoreControl → CoreControl) (s : State) : (updCtl c f s).mem = s.mem := rfl
@[simp] theorem updCtl_xlate (c : Nat) (f : CoreControl → CoreControl) (s : State) : (updCtl c f s).xlate = s.xlate := rfl
@[simp] theorem updCtl_hostif (c : Nat) (f : CoreControl → CoreControl) (s : State) : (updCtl c f s).hostif = s.hostif := rfl
@[simp] theorem updCtl_fabric (c : Nat) (f : CoreControl → CoreControl) (s : State) : (updCtl c f s).fabric = s.fabric := rfl
@[simp] theorem updCtl_security (c : Nat) (f : CoreControl → CoreControl) (s : State) : (updCtl c f s).security = s.security := rfl
@[simp] theorem updCtl_power (c : Nat) (f : CoreControl → CoreControl) (s : State) : (updCtl c f s).power = s.power := rfl
@[simp] theorem updCtl_recovery (c : Nat) (f : CoreControl → CoreControl) (s : State) : (updCtl c f s).recovery = s.recovery := rfl
@[simp] theorem updCtl_dict (c : Nat) (f : CoreControl → CoreControl) (s : State) : (updCtl c f s).dict = s.dict := rfl
@[simp] theorem updCtl_waybill (c : Nat) (f : CoreControl → CoreControl) (s : State) : (updCtl c f s).waybill = s.waybill := rfl
@[simp] theorem updCtl_pins (c : Nat) (f : CoreControl → CoreControl) (s : State) : (updCtl c f s).pins = s.pins := rfl
@[simp] theorem updCtl_now (c : Nat) (f : CoreControl → CoreControl) (s : State) : (updCtl c f s).now = s.now := rfl
@[simp] theorem updCtl_free (c : Nat) (f : CoreControl → CoreControl) (s : State) : (updCtl c f s).free = s.free := rfl
@[simp] theorem updCtl_pending (c : Nat) (f : CoreControl → CoreControl) (s : State) : (updCtl c f s).pending = s.pending := rfl

@[simp] theorem updVec_identity (c : Nat) (f : CoreVector → CoreVector) (s : State) : (updVec c f s).identity = s.identity := rfl
@[simp] theorem updVec_service (c : Nat) (f : CoreVector → CoreVector) (s : State) : (updVec c f s).service = s.service := rfl
@[simp] theorem updVec_lookup (c : Nat) (f : CoreVector → CoreVector) (s : State) : (updVec c f s).lookup = s.lookup := rfl
@[simp] theorem updVec_updates (c : Nat) (f : CoreVector → CoreVector) (s : State) : (updVec c f s).updates = s.updates := rfl
@[simp] theorem updVec_matrix (c : Nat) (f : CoreVector → CoreVector) (s : State) : (updVec c f s).matrix = s.matrix := rfl
@[simp] theorem updVec_control (c : Nat) (f : CoreVector → CoreVector) (s : State) : (updVec c f s).control = s.control := rfl
@[simp] theorem updVec_numerics (c : Nat) (f : CoreVector → CoreVector) (s : State) : (updVec c f s).numerics = s.numerics := rfl
@[simp] theorem updVec_sequences (c : Nat) (f : CoreVector → CoreVector) (s : State) : (updVec c f s).sequences = s.sequences := rfl
@[simp] theorem updVec_streaming (c : Nat) (f : CoreVector → CoreVector) (s : State) : (updVec c f s).streaming = s.streaming := rfl
@[simp] theorem updVec_dispatch (c : Nat) (f : CoreVector → CoreVector) (s : State) : (updVec c f s).dispatch = s.dispatch := rfl
@[simp] theorem updVec_runahead (c : Nat) (f : CoreVector → CoreVector) (s : State) : (updVec c f s).runahead = s.runahead := rfl
@[simp] theorem updVec_legacy (c : Nat) (f : CoreVector → CoreVector) (s : State) : (updVec c f s).legacy = s.legacy := rfl
@[simp] theorem updVec_job (c : Nat) (f : CoreVector → CoreVector) (s : State) : (updVec c f s).job = s.job := rfl
@[simp] theorem updVec_mem (c : Nat) (f : CoreVector → CoreVector) (s : State) : (updVec c f s).mem = s.mem := rfl
@[simp] theorem updVec_xlate (c : Nat) (f : CoreVector → CoreVector) (s : State) : (updVec c f s).xlate = s.xlate := rfl
@[simp] theorem updVec_hostif (c : Nat) (f : CoreVector → CoreVector) (s : State) : (updVec c f s).hostif = s.hostif := rfl
@[simp] theorem updVec_fabric (c : Nat) (f : CoreVector → CoreVector) (s : State) : (updVec c f s).fabric = s.fabric := rfl
@[simp] theorem updVec_security (c : Nat) (f : CoreVector → CoreVector) (s : State) : (updVec c f s).security = s.security := rfl
@[simp] theorem updVec_power (c : Nat) (f : CoreVector → CoreVector) (s : State) : (updVec c f s).power = s.power := rfl
@[simp] theorem updVec_recovery (c : Nat) (f : CoreVector → CoreVector) (s : State) : (updVec c f s).recovery = s.recovery := rfl
@[simp] theorem updVec_dict (c : Nat) (f : CoreVector → CoreVector) (s : State) : (updVec c f s).dict = s.dict := rfl
@[simp] theorem updVec_waybill (c : Nat) (f : CoreVector → CoreVector) (s : State) : (updVec c f s).waybill = s.waybill := rfl
@[simp] theorem updVec_pins (c : Nat) (f : CoreVector → CoreVector) (s : State) : (updVec c f s).pins = s.pins := rfl
@[simp] theorem updVec_now (c : Nat) (f : CoreVector → CoreVector) (s : State) : (updVec c f s).now = s.now := rfl
@[simp] theorem updVec_free (c : Nat) (f : CoreVector → CoreVector) (s : State) : (updVec c f s).free = s.free := rfl
@[simp] theorem updVec_pending (c : Nat) (f : CoreVector → CoreVector) (s : State) : (updVec c f s).pending = s.pending := rfl

@[simp] theorem updMat_identity (c : Nat) (f : CoreMatrix → CoreMatrix) (s : State) : (updMat c f s).identity = s.identity := rfl
@[simp] theorem updMat_service (c : Nat) (f : CoreMatrix → CoreMatrix) (s : State) : (updMat c f s).service = s.service := rfl
@[simp] theorem updMat_lookup (c : Nat) (f : CoreMatrix → CoreMatrix) (s : State) : (updMat c f s).lookup = s.lookup := rfl
@[simp] theorem updMat_updates (c : Nat) (f : CoreMatrix → CoreMatrix) (s : State) : (updMat c f s).updates = s.updates := rfl
@[simp] theorem updMat_vector (c : Nat) (f : CoreMatrix → CoreMatrix) (s : State) : (updMat c f s).vector = s.vector := rfl
@[simp] theorem updMat_control (c : Nat) (f : CoreMatrix → CoreMatrix) (s : State) : (updMat c f s).control = s.control := rfl
@[simp] theorem updMat_numerics (c : Nat) (f : CoreMatrix → CoreMatrix) (s : State) : (updMat c f s).numerics = s.numerics := rfl
@[simp] theorem updMat_sequences (c : Nat) (f : CoreMatrix → CoreMatrix) (s : State) : (updMat c f s).sequences = s.sequences := rfl
@[simp] theorem updMat_streaming (c : Nat) (f : CoreMatrix → CoreMatrix) (s : State) : (updMat c f s).streaming = s.streaming := rfl
@[simp] theorem updMat_dispatch (c : Nat) (f : CoreMatrix → CoreMatrix) (s : State) : (updMat c f s).dispatch = s.dispatch := rfl
@[simp] theorem updMat_runahead (c : Nat) (f : CoreMatrix → CoreMatrix) (s : State) : (updMat c f s).runahead = s.runahead := rfl
@[simp] theorem updMat_legacy (c : Nat) (f : CoreMatrix → CoreMatrix) (s : State) : (updMat c f s).legacy = s.legacy := rfl
@[simp] theorem updMat_job (c : Nat) (f : CoreMatrix → CoreMatrix) (s : State) : (updMat c f s).job = s.job := rfl
@[simp] theorem updMat_mem (c : Nat) (f : CoreMatrix → CoreMatrix) (s : State) : (updMat c f s).mem = s.mem := rfl
@[simp] theorem updMat_xlate (c : Nat) (f : CoreMatrix → CoreMatrix) (s : State) : (updMat c f s).xlate = s.xlate := rfl
@[simp] theorem updMat_hostif (c : Nat) (f : CoreMatrix → CoreMatrix) (s : State) : (updMat c f s).hostif = s.hostif := rfl
@[simp] theorem updMat_fabric (c : Nat) (f : CoreMatrix → CoreMatrix) (s : State) : (updMat c f s).fabric = s.fabric := rfl
@[simp] theorem updMat_security (c : Nat) (f : CoreMatrix → CoreMatrix) (s : State) : (updMat c f s).security = s.security := rfl
@[simp] theorem updMat_power (c : Nat) (f : CoreMatrix → CoreMatrix) (s : State) : (updMat c f s).power = s.power := rfl
@[simp] theorem updMat_recovery (c : Nat) (f : CoreMatrix → CoreMatrix) (s : State) : (updMat c f s).recovery = s.recovery := rfl
@[simp] theorem updMat_dict (c : Nat) (f : CoreMatrix → CoreMatrix) (s : State) : (updMat c f s).dict = s.dict := rfl
@[simp] theorem updMat_waybill (c : Nat) (f : CoreMatrix → CoreMatrix) (s : State) : (updMat c f s).waybill = s.waybill := rfl
@[simp] theorem updMat_pins (c : Nat) (f : CoreMatrix → CoreMatrix) (s : State) : (updMat c f s).pins = s.pins := rfl
@[simp] theorem updMat_now (c : Nat) (f : CoreMatrix → CoreMatrix) (s : State) : (updMat c f s).now = s.now := rfl
@[simp] theorem updMat_free (c : Nat) (f : CoreMatrix → CoreMatrix) (s : State) : (updMat c f s).free = s.free := rfl
@[simp] theorem updMat_pending (c : Nat) (f : CoreMatrix → CoreMatrix) (s : State) : (updMat c f s).pending = s.pending := rfl

@[simp] theorem updQueue_identity (n : Nat) (f : Queue → Queue) (s : State) : (updQueue n f s).identity = s.identity := rfl
@[simp] theorem updQueue_service (n : Nat) (f : Queue → Queue) (s : State) : (updQueue n f s).service = s.service := rfl
@[simp] theorem updQueue_lookup (n : Nat) (f : Queue → Queue) (s : State) : (updQueue n f s).lookup = s.lookup := rfl
@[simp] theorem updQueue_updates (n : Nat) (f : Queue → Queue) (s : State) : (updQueue n f s).updates = s.updates := rfl
@[simp] theorem updQueue_matrix (n : Nat) (f : Queue → Queue) (s : State) : (updQueue n f s).matrix = s.matrix := rfl
@[simp] theorem updQueue_vector (n : Nat) (f : Queue → Queue) (s : State) : (updQueue n f s).vector = s.vector := rfl
@[simp] theorem updQueue_control (n : Nat) (f : Queue → Queue) (s : State) : (updQueue n f s).control = s.control := rfl
@[simp] theorem updQueue_numerics (n : Nat) (f : Queue → Queue) (s : State) : (updQueue n f s).numerics = s.numerics := rfl
@[simp] theorem updQueue_sequences (n : Nat) (f : Queue → Queue) (s : State) : (updQueue n f s).sequences = s.sequences := rfl
@[simp] theorem updQueue_streaming (n : Nat) (f : Queue → Queue) (s : State) : (updQueue n f s).streaming = s.streaming := rfl
@[simp] theorem updQueue_runahead (n : Nat) (f : Queue → Queue) (s : State) : (updQueue n f s).runahead = s.runahead := rfl
@[simp] theorem updQueue_legacy (n : Nat) (f : Queue → Queue) (s : State) : (updQueue n f s).legacy = s.legacy := rfl
@[simp] theorem updQueue_job (n : Nat) (f : Queue → Queue) (s : State) : (updQueue n f s).job = s.job := rfl
@[simp] theorem updQueue_mem (n : Nat) (f : Queue → Queue) (s : State) : (updQueue n f s).mem = s.mem := rfl
@[simp] theorem updQueue_xlate (n : Nat) (f : Queue → Queue) (s : State) : (updQueue n f s).xlate = s.xlate := rfl
@[simp] theorem updQueue_hostif (n : Nat) (f : Queue → Queue) (s : State) : (updQueue n f s).hostif = s.hostif := rfl
@[simp] theorem updQueue_fabric (n : Nat) (f : Queue → Queue) (s : State) : (updQueue n f s).fabric = s.fabric := rfl
@[simp] theorem updQueue_security (n : Nat) (f : Queue → Queue) (s : State) : (updQueue n f s).security = s.security := rfl
@[simp] theorem updQueue_power (n : Nat) (f : Queue → Queue) (s : State) : (updQueue n f s).power = s.power := rfl
@[simp] theorem updQueue_recovery (n : Nat) (f : Queue → Queue) (s : State) : (updQueue n f s).recovery = s.recovery := rfl
@[simp] theorem updQueue_dict (n : Nat) (f : Queue → Queue) (s : State) : (updQueue n f s).dict = s.dict := rfl
@[simp] theorem updQueue_waybill (n : Nat) (f : Queue → Queue) (s : State) : (updQueue n f s).waybill = s.waybill := rfl
@[simp] theorem updQueue_pins (n : Nat) (f : Queue → Queue) (s : State) : (updQueue n f s).pins = s.pins := rfl
@[simp] theorem updQueue_now (n : Nat) (f : Queue → Queue) (s : State) : (updQueue n f s).now = s.now := rfl
@[simp] theorem updQueue_free (n : Nat) (f : Queue → Queue) (s : State) : (updQueue n f s).free = s.free := rfl
@[simp] theorem updQueue_pending (n : Nat) (f : Queue → Queue) (s : State) : (updQueue n f s).pending = s.pending := rfl

@[simp] theorem updLaunch_identity (id : Nat) (f : Launch → Launch) (s : State) : (updLaunch id f s).identity = s.identity := rfl
@[simp] theorem updLaunch_service (id : Nat) (f : Launch → Launch) (s : State) : (updLaunch id f s).service = s.service := rfl
@[simp] theorem updLaunch_lookup (id : Nat) (f : Launch → Launch) (s : State) : (updLaunch id f s).lookup = s.lookup := rfl
@[simp] theorem updLaunch_updates (id : Nat) (f : Launch → Launch) (s : State) : (updLaunch id f s).updates = s.updates := rfl
@[simp] theorem updLaunch_matrix (id : Nat) (f : Launch → Launch) (s : State) : (updLaunch id f s).matrix = s.matrix := rfl
@[simp] theorem updLaunch_vector (id : Nat) (f : Launch → Launch) (s : State) : (updLaunch id f s).vector = s.vector := rfl
@[simp] theorem updLaunch_control (id : Nat) (f : Launch → Launch) (s : State) : (updLaunch id f s).control = s.control := rfl
@[simp] theorem updLaunch_numerics (id : Nat) (f : Launch → Launch) (s : State) : (updLaunch id f s).numerics = s.numerics := rfl
@[simp] theorem updLaunch_sequences (id : Nat) (f : Launch → Launch) (s : State) : (updLaunch id f s).sequences = s.sequences := rfl
@[simp] theorem updLaunch_streaming (id : Nat) (f : Launch → Launch) (s : State) : (updLaunch id f s).streaming = s.streaming := rfl
@[simp] theorem updLaunch_runahead (id : Nat) (f : Launch → Launch) (s : State) : (updLaunch id f s).runahead = s.runahead := rfl
@[simp] theorem updLaunch_legacy (id : Nat) (f : Launch → Launch) (s : State) : (updLaunch id f s).legacy = s.legacy := rfl
@[simp] theorem updLaunch_job (id : Nat) (f : Launch → Launch) (s : State) : (updLaunch id f s).job = s.job := rfl
@[simp] theorem updLaunch_mem (id : Nat) (f : Launch → Launch) (s : State) : (updLaunch id f s).mem = s.mem := rfl
@[simp] theorem updLaunch_xlate (id : Nat) (f : Launch → Launch) (s : State) : (updLaunch id f s).xlate = s.xlate := rfl
@[simp] theorem updLaunch_hostif (id : Nat) (f : Launch → Launch) (s : State) : (updLaunch id f s).hostif = s.hostif := rfl
@[simp] theorem updLaunch_fabric (id : Nat) (f : Launch → Launch) (s : State) : (updLaunch id f s).fabric = s.fabric := rfl
@[simp] theorem updLaunch_security (id : Nat) (f : Launch → Launch) (s : State) : (updLaunch id f s).security = s.security := rfl
@[simp] theorem updLaunch_power (id : Nat) (f : Launch → Launch) (s : State) : (updLaunch id f s).power = s.power := rfl
@[simp] theorem updLaunch_recovery (id : Nat) (f : Launch → Launch) (s : State) : (updLaunch id f s).recovery = s.recovery := rfl
@[simp] theorem updLaunch_dict (id : Nat) (f : Launch → Launch) (s : State) : (updLaunch id f s).dict = s.dict := rfl
@[simp] theorem updLaunch_waybill (id : Nat) (f : Launch → Launch) (s : State) : (updLaunch id f s).waybill = s.waybill := rfl
@[simp] theorem updLaunch_pins (id : Nat) (f : Launch → Launch) (s : State) : (updLaunch id f s).pins = s.pins := rfl
@[simp] theorem updLaunch_now (id : Nat) (f : Launch → Launch) (s : State) : (updLaunch id f s).now = s.now := rfl
@[simp] theorem updLaunch_free (id : Nat) (f : Launch → Launch) (s : State) : (updLaunch id f s).free = s.free := rfl
@[simp] theorem updLaunch_pending (id : Nat) (f : Launch → Launch) (s : State) : (updLaunch id f s).pending = s.pending := rfl

@[simp] theorem updContext_identity (k : Nat) (f : Ctx → Ctx) (s : State) : (updContext k f s).identity = s.identity := rfl
@[simp] theorem updContext_service (k : Nat) (f : Ctx → Ctx) (s : State) : (updContext k f s).service = s.service := rfl
@[simp] theorem updContext_lookup (k : Nat) (f : Ctx → Ctx) (s : State) : (updContext k f s).lookup = s.lookup := rfl
@[simp] theorem updContext_updates (k : Nat) (f : Ctx → Ctx) (s : State) : (updContext k f s).updates = s.updates := rfl
@[simp] theorem updContext_matrix (k : Nat) (f : Ctx → Ctx) (s : State) : (updContext k f s).matrix = s.matrix := rfl
@[simp] theorem updContext_vector (k : Nat) (f : Ctx → Ctx) (s : State) : (updContext k f s).vector = s.vector := rfl
@[simp] theorem updContext_control (k : Nat) (f : Ctx → Ctx) (s : State) : (updContext k f s).control = s.control := rfl
@[simp] theorem updContext_numerics (k : Nat) (f : Ctx → Ctx) (s : State) : (updContext k f s).numerics = s.numerics := rfl
@[simp] theorem updContext_sequences (k : Nat) (f : Ctx → Ctx) (s : State) : (updContext k f s).sequences = s.sequences := rfl
@[simp] theorem updContext_streaming (k : Nat) (f : Ctx → Ctx) (s : State) : (updContext k f s).streaming = s.streaming := rfl
@[simp] theorem updContext_dispatch (k : Nat) (f : Ctx → Ctx) (s : State) : (updContext k f s).dispatch = s.dispatch := rfl
@[simp] theorem updContext_runahead (k : Nat) (f : Ctx → Ctx) (s : State) : (updContext k f s).runahead = s.runahead := rfl
@[simp] theorem updContext_legacy (k : Nat) (f : Ctx → Ctx) (s : State) : (updContext k f s).legacy = s.legacy := rfl
@[simp] theorem updContext_mem (k : Nat) (f : Ctx → Ctx) (s : State) : (updContext k f s).mem = s.mem := rfl
@[simp] theorem updContext_xlate (k : Nat) (f : Ctx → Ctx) (s : State) : (updContext k f s).xlate = s.xlate := rfl
@[simp] theorem updContext_hostif (k : Nat) (f : Ctx → Ctx) (s : State) : (updContext k f s).hostif = s.hostif := rfl
@[simp] theorem updContext_fabric (k : Nat) (f : Ctx → Ctx) (s : State) : (updContext k f s).fabric = s.fabric := rfl
@[simp] theorem updContext_security (k : Nat) (f : Ctx → Ctx) (s : State) : (updContext k f s).security = s.security := rfl
@[simp] theorem updContext_power (k : Nat) (f : Ctx → Ctx) (s : State) : (updContext k f s).power = s.power := rfl
@[simp] theorem updContext_recovery (k : Nat) (f : Ctx → Ctx) (s : State) : (updContext k f s).recovery = s.recovery := rfl
@[simp] theorem updContext_dict (k : Nat) (f : Ctx → Ctx) (s : State) : (updContext k f s).dict = s.dict := rfl
@[simp] theorem updContext_waybill (k : Nat) (f : Ctx → Ctx) (s : State) : (updContext k f s).waybill = s.waybill := rfl
@[simp] theorem updContext_pins (k : Nat) (f : Ctx → Ctx) (s : State) : (updContext k f s).pins = s.pins := rfl
@[simp] theorem updContext_now (k : Nat) (f : Ctx → Ctx) (s : State) : (updContext k f s).now = s.now := rfl
@[simp] theorem updContext_free (k : Nat) (f : Ctx → Ctx) (s : State) : (updContext k f s).free = s.free := rfl
@[simp] theorem updContext_pending (k : Nat) (f : Ctx → Ctx) (s : State) : (updContext k f s).pending = s.pending := rfl
@[simp] theorem updContext_sealed (k : Nat) (f : Ctx → Ctx) (s : State) :
    (updContext k f s).job.sealed_ = s.job.sealed_ := rfl

@[simp] theorem sramWrite_identity (core off : Nat) (bs : List Byte) (s : State) : (sramWrite core off bs s).identity = s.identity := rfl
@[simp] theorem sramWrite_service (core off : Nat) (bs : List Byte) (s : State) : (sramWrite core off bs s).service = s.service := rfl
@[simp] theorem sramWrite_lookup (core off : Nat) (bs : List Byte) (s : State) : (sramWrite core off bs s).lookup = s.lookup := rfl
@[simp] theorem sramWrite_updates (core off : Nat) (bs : List Byte) (s : State) : (sramWrite core off bs s).updates = s.updates := rfl
@[simp] theorem sramWrite_matrix (core off : Nat) (bs : List Byte) (s : State) : (sramWrite core off bs s).matrix = s.matrix := rfl
@[simp] theorem sramWrite_vector (core off : Nat) (bs : List Byte) (s : State) : (sramWrite core off bs s).vector = s.vector := rfl
@[simp] theorem sramWrite_control (core off : Nat) (bs : List Byte) (s : State) : (sramWrite core off bs s).control = s.control := rfl
@[simp] theorem sramWrite_numerics (core off : Nat) (bs : List Byte) (s : State) : (sramWrite core off bs s).numerics = s.numerics := rfl
@[simp] theorem sramWrite_sequences (core off : Nat) (bs : List Byte) (s : State) : (sramWrite core off bs s).sequences = s.sequences := rfl
@[simp] theorem sramWrite_streaming (core off : Nat) (bs : List Byte) (s : State) : (sramWrite core off bs s).streaming = s.streaming := rfl
@[simp] theorem sramWrite_runahead (core off : Nat) (bs : List Byte) (s : State) : (sramWrite core off bs s).runahead = s.runahead := rfl
@[simp] theorem sramWrite_legacy (core off : Nat) (bs : List Byte) (s : State) : (sramWrite core off bs s).legacy = s.legacy := rfl
@[simp] theorem sramWrite_job (core off : Nat) (bs : List Byte) (s : State) : (sramWrite core off bs s).job = s.job := rfl
@[simp] theorem sramWrite_xlate (core off : Nat) (bs : List Byte) (s : State) : (sramWrite core off bs s).xlate = s.xlate := rfl
@[simp] theorem sramWrite_hostif (core off : Nat) (bs : List Byte) (s : State) : (sramWrite core off bs s).hostif = s.hostif := rfl
@[simp] theorem sramWrite_fabric (core off : Nat) (bs : List Byte) (s : State) : (sramWrite core off bs s).fabric = s.fabric := rfl
@[simp] theorem sramWrite_security (core off : Nat) (bs : List Byte) (s : State) : (sramWrite core off bs s).security = s.security := rfl
@[simp] theorem sramWrite_power (core off : Nat) (bs : List Byte) (s : State) : (sramWrite core off bs s).power = s.power := rfl
@[simp] theorem sramWrite_recovery (core off : Nat) (bs : List Byte) (s : State) : (sramWrite core off bs s).recovery = s.recovery := rfl
@[simp] theorem sramWrite_dict (core off : Nat) (bs : List Byte) (s : State) : (sramWrite core off bs s).dict = s.dict := rfl
@[simp] theorem sramWrite_waybill (core off : Nat) (bs : List Byte) (s : State) : (sramWrite core off bs s).waybill = s.waybill := rfl
@[simp] theorem sramWrite_pins (core off : Nat) (bs : List Byte) (s : State) : (sramWrite core off bs s).pins = s.pins := rfl
@[simp] theorem sramWrite_now (core off : Nat) (bs : List Byte) (s : State) : (sramWrite core off bs s).now = s.now := rfl
@[simp] theorem sramWrite_free (core off : Nat) (bs : List Byte) (s : State) : (sramWrite core off bs s).free = s.free := rfl
@[simp] theorem sramWrite_pending (core off : Nat) (bs : List Byte) (s : State) : (sramWrite core off bs s).pending = s.pending := rfl

@[simp] theorem stagingWrite_identity (die off : Nat) (bs : List Byte) (s : State) : (stagingWrite die off bs s).identity = s.identity := rfl
@[simp] theorem stagingWrite_service (die off : Nat) (bs : List Byte) (s : State) : (stagingWrite die off bs s).service = s.service := rfl
@[simp] theorem stagingWrite_lookup (die off : Nat) (bs : List Byte) (s : State) : (stagingWrite die off bs s).lookup = s.lookup := rfl
@[simp] theorem stagingWrite_updates (die off : Nat) (bs : List Byte) (s : State) : (stagingWrite die off bs s).updates = s.updates := rfl
@[simp] theorem stagingWrite_matrix (die off : Nat) (bs : List Byte) (s : State) : (stagingWrite die off bs s).matrix = s.matrix := rfl
@[simp] theorem stagingWrite_vector (die off : Nat) (bs : List Byte) (s : State) : (stagingWrite die off bs s).vector = s.vector := rfl
@[simp] theorem stagingWrite_control (die off : Nat) (bs : List Byte) (s : State) : (stagingWrite die off bs s).control = s.control := rfl
@[simp] theorem stagingWrite_numerics (die off : Nat) (bs : List Byte) (s : State) : (stagingWrite die off bs s).numerics = s.numerics := rfl
@[simp] theorem stagingWrite_sequences (die off : Nat) (bs : List Byte) (s : State) : (stagingWrite die off bs s).sequences = s.sequences := rfl
@[simp] theorem stagingWrite_streaming (die off : Nat) (bs : List Byte) (s : State) : (stagingWrite die off bs s).streaming = s.streaming := rfl
@[simp] theorem stagingWrite_dispatch (die off : Nat) (bs : List Byte) (s : State) : (stagingWrite die off bs s).dispatch = s.dispatch := rfl
@[simp] theorem stagingWrite_runahead (die off : Nat) (bs : List Byte) (s : State) : (stagingWrite die off bs s).runahead = s.runahead := rfl
@[simp] theorem stagingWrite_legacy (die off : Nat) (bs : List Byte) (s : State) : (stagingWrite die off bs s).legacy = s.legacy := rfl
@[simp] theorem stagingWrite_job (die off : Nat) (bs : List Byte) (s : State) : (stagingWrite die off bs s).job = s.job := rfl
@[simp] theorem stagingWrite_xlate (die off : Nat) (bs : List Byte) (s : State) : (stagingWrite die off bs s).xlate = s.xlate := rfl
@[simp] theorem stagingWrite_hostif (die off : Nat) (bs : List Byte) (s : State) : (stagingWrite die off bs s).hostif = s.hostif := rfl
@[simp] theorem stagingWrite_fabric (die off : Nat) (bs : List Byte) (s : State) : (stagingWrite die off bs s).fabric = s.fabric := rfl
@[simp] theorem stagingWrite_security (die off : Nat) (bs : List Byte) (s : State) : (stagingWrite die off bs s).security = s.security := rfl
@[simp] theorem stagingWrite_power (die off : Nat) (bs : List Byte) (s : State) : (stagingWrite die off bs s).power = s.power := rfl
@[simp] theorem stagingWrite_recovery (die off : Nat) (bs : List Byte) (s : State) : (stagingWrite die off bs s).recovery = s.recovery := rfl
@[simp] theorem stagingWrite_dict (die off : Nat) (bs : List Byte) (s : State) : (stagingWrite die off bs s).dict = s.dict := rfl
@[simp] theorem stagingWrite_waybill (die off : Nat) (bs : List Byte) (s : State) : (stagingWrite die off bs s).waybill = s.waybill := rfl
@[simp] theorem stagingWrite_pins (die off : Nat) (bs : List Byte) (s : State) : (stagingWrite die off bs s).pins = s.pins := rfl
@[simp] theorem stagingWrite_now (die off : Nat) (bs : List Byte) (s : State) : (stagingWrite die off bs s).now = s.now := rfl
@[simp] theorem stagingWrite_free (die off : Nat) (bs : List Byte) (s : State) : (stagingWrite die off bs s).free = s.free := rfl
@[simp] theorem stagingWrite_pending (die off : Nat) (bs : List Byte) (s : State) : (stagingWrite die off bs s).pending = s.pending := rfl

@[simp] theorem sendMsix_identity (v : Nat) (s : State) : (sendMsix v s).identity = s.identity := rfl
@[simp] theorem sendMsix_service (v : Nat) (s : State) : (sendMsix v s).service = s.service := rfl
@[simp] theorem sendMsix_lookup (v : Nat) (s : State) : (sendMsix v s).lookup = s.lookup := rfl
@[simp] theorem sendMsix_updates (v : Nat) (s : State) : (sendMsix v s).updates = s.updates := rfl
@[simp] theorem sendMsix_matrix (v : Nat) (s : State) : (sendMsix v s).matrix = s.matrix := rfl
@[simp] theorem sendMsix_vector (v : Nat) (s : State) : (sendMsix v s).vector = s.vector := rfl
@[simp] theorem sendMsix_control (v : Nat) (s : State) : (sendMsix v s).control = s.control := rfl
@[simp] theorem sendMsix_numerics (v : Nat) (s : State) : (sendMsix v s).numerics = s.numerics := rfl
@[simp] theorem sendMsix_sequences (v : Nat) (s : State) : (sendMsix v s).sequences = s.sequences := rfl
@[simp] theorem sendMsix_streaming (v : Nat) (s : State) : (sendMsix v s).streaming = s.streaming := rfl
@[simp] theorem sendMsix_dispatch (v : Nat) (s : State) : (sendMsix v s).dispatch = s.dispatch := rfl
@[simp] theorem sendMsix_runahead (v : Nat) (s : State) : (sendMsix v s).runahead = s.runahead := rfl
@[simp] theorem sendMsix_legacy (v : Nat) (s : State) : (sendMsix v s).legacy = s.legacy := rfl
@[simp] theorem sendMsix_job (v : Nat) (s : State) : (sendMsix v s).job = s.job := rfl
@[simp] theorem sendMsix_mem (v : Nat) (s : State) : (sendMsix v s).mem = s.mem := rfl
@[simp] theorem sendMsix_xlate (v : Nat) (s : State) : (sendMsix v s).xlate = s.xlate := rfl
@[simp] theorem sendMsix_fabric (v : Nat) (s : State) : (sendMsix v s).fabric = s.fabric := rfl
@[simp] theorem sendMsix_security (v : Nat) (s : State) : (sendMsix v s).security = s.security := rfl
@[simp] theorem sendMsix_power (v : Nat) (s : State) : (sendMsix v s).power = s.power := rfl
@[simp] theorem sendMsix_recovery (v : Nat) (s : State) : (sendMsix v s).recovery = s.recovery := rfl
@[simp] theorem sendMsix_dict (v : Nat) (s : State) : (sendMsix v s).dict = s.dict := rfl
@[simp] theorem sendMsix_waybill (v : Nat) (s : State) : (sendMsix v s).waybill = s.waybill := rfl
@[simp] theorem sendMsix_pins (v : Nat) (s : State) : (sendMsix v s).pins = s.pins := rfl
@[simp] theorem sendMsix_now (v : Nat) (s : State) : (sendMsix v s).now = s.now := rfl
@[simp] theorem sendMsix_free (v : Nat) (s : State) : (sendMsix v s).free = s.free := rfl
@[simp] theorem sendMsix_pending (v : Nat) (s : State) : (sendMsix v s).pending = s.pending := rfl

end Sys2Proof.Machine
end

