-- ==== Sys2Proof/Laws/Lists.lean ====
section
/-! SUPPORT. Association lists, the dictionary's values, counters and command status, and the
selection of a core, a queue or an entry after it was changed. -/

namespace Sys2Proof.Machine

open Sys2Proof

@[simp] theorem alGet_alSet_self {α : Type} (l : List (Nat × α)) (k : Nat) (v : α) : alGet (alSet l k v) k = some v := by
  induction l with
  | nil => simp [alSet, alGet]
  | cons p t ih =>
    obtain ⟨k', v'⟩ := p
    unfold alSet
    split
    · simp [alGet]
    · split
      · simp [alGet]
      · rename_i h1 h2
        have h3 : (k' == k) = false := by simp; omega
        simpa [alGet, List.find?, h3] using ih

theorem alGet_alSet_ne {α : Type} (l : List (Nat × α)) {k j : Nat} (v : α) (h : j ≠ k) :
    alGet (alSet l k v) j = alGet l j := by
  induction l with
  | nil =>
    have h' : (k == j) = false := by simp; omega
    simp [alSet, alGet, List.find?, h']
  | cons p t ih =>
    obtain ⟨k', v'⟩ := p
    have h' : (k == j) = false := by simp; omega
    unfold alSet
    split
    · simp [alGet, List.find?, h']
    · split
      · rename_i h2
        subst h2
        simp [alGet, List.find?, h']
      · cases hb : (k' == j) with
        | true => simp [alGet, List.find?, hb]
        | false => simpa [alGet, List.find?, hb] using ih

@[simp] theorem alGet_alErase_self {α : Type} (l : List (Nat × α)) (k : Nat) : alGet (alErase l k) k = none := by
  simp [alGet, alErase]

theorem updAt_getD {α : Type} (l : List α) (i j : Nat) (f : α → α) (d : α) (h : i < l.length) :
    (updAt l i f).getD j d = if j = i then f (l.getD i d) else l.getD j d := by
  unfold updAt
  simp only [List.getD_eq_getElem?_getD, List.getElem?_modify]
  split
  · rename_i h'
    subst h'
    simp [h]
  · rename_i h'
    have h2 : ¬ j = i := fun e => h' e.symm
    simp [h2]

@[simp] theorem updAt_length {α : Type} (l : List α) (i : Nat) (f : α → α) : (updAt l i f).length = l.length := by
  simp [updAt]

/-- The control core that was changed, and every other one as it was. -/
theorem ctlOf_updCtl (c k : Nat) (f : CoreControl → CoreControl) (s : State) (h : c < s.control.length) :
    ctlOf k (updCtl c f s) = if k = c then f (ctlOf c s) else ctlOf k s := by
  simpa [ctlOf, updCtl] using updAt_getD s.control c k f CoreControl.reset h

/-- The vector engine that was changed, and every other one as it was. -/
theorem vecOf_updVec (c k : Nat) (f : CoreVector → CoreVector) (s : State) (h : c < s.vector.length) :
    vecOf k (updVec c f s) = if k = c then f (vecOf c s) else vecOf k s := by
  simpa [vecOf, updVec] using updAt_getD s.vector c k f CoreVector.reset h

/-- The matrix side that was changed, and every other one as it was. -/
theorem matOf_updMat (c k : Nat) (f : CoreMatrix → CoreMatrix) (s : State) (h : c < s.matrix.length) :
    matOf k (updMat c f s) = if k = c then f (matOf c s) else matOf k s := by
  simpa [matOf, updMat] using updAt_getD s.matrix c k f CoreMatrix.reset h

/-- The queue that was changed, and every other one as it was. -/
theorem queueOf_updQueue (n k : Nat) (f : Queue → Queue) (s : State) (h : n < s.dispatch.queues.length) :
    queueOf k (updQueue n f s) = if k = n then f (queueOf n s) else queueOf k s := by
  simpa [queueOf, updQueue] using updAt_getD s.dispatch.queues n k f Queue.reset h

/-- A counter raised holds its value plus n modulo 2^64 (R567). -/
@[simp] theorem counter_count_self (key n : Nat) (s : State) : counter key (count key n s) = (counter key s + n) % 2 ^ 64 := by
  simp [counter, count]

/-- Raising one counter leaves every other. -/
theorem counter_count_ne {key key' : Nat} (n : Nat) (s : State) (h : key' ≠ key) : counter key' (count key n s) = counter key' s := by
  simp [counter, count, alGet_alSet_ne _ _ h]

@[simp] theorem count_values (key n : Nat) (s : State) : (count key n s).dict.values = s.dict.values := rfl
@[simp] theorem count_cmds (key n : Nat) (s : State) : (count key n s).dict.cmds = s.dict.cmds := rfl
@[simp] theorem setEnt_cmds (key n v : Nat) (s : State) : (setEnt key n v s).dict.cmds = s.dict.cmds := rfl
@[simp] theorem setEnt_counters (key n v : Nat) (s : State) : (setEnt key n v s).dict.counters = s.dict.counters := rfl
@[simp] theorem startCmd_values (key : Nat) (r : ReqId) (s : State) : (startCmd key r s).dict.values = s.dict.values := rfl
@[simp] theorem endCmd_values (key st re : Nat) (s : State) : (endCmd key st re s).dict.values = s.dict.values := rfl
@[simp] theorem startCmd_counters (key : Nat) (r : ReqId) (s : State) : (startCmd key r s).dict.counters = s.dict.counters := rfl
@[simp] theorem endCmd_counters (key st re : Nat) (s : State) : (endCmd key st re s).dict.counters = s.dict.counters := rfl

/-- A number written as n little-endian bytes and read back. -/
@[simp] theorem ofLe_leBytes (n v : Nat) : ofLe (leBytes n v) = v % 2 ^ (8 * n) := by
  induction n generalizing v with
  | zero => simp [leBytes, ofLe, Nat.mod_one]
  | succ n ih =>
    have h : 2 ^ (8 * (n + 1)) = 256 * 2 ^ (8 * n) := by rw [Nat.mul_add, Nat.pow_add]; omega
    simp only [leBytes, ofLe, ih, h, Nat.mod_mul]
    simp

@[simp] theorem leBytes_length (n v : Nat) : (leBytes n v).length = n := by
  induction n generalizing v with
  | zero => rfl
  | succ n ih => simp [leBytes, ih]

/-- An entry set reads as the value set. -/
@[simp] theorem ent_setEnt_self (key n v : Nat) (s : State) : ent key (setEnt key n v s) = v % 2 ^ (8 * n) := by
  simp [ent, setEnt]

@[simp] theorem cmdOf_endCmd (key st re : Nat) (s : State) :
    cmdOf key (endCmd key st re s) =
      { cmdOf key s with state := if st = stOk then 2 else 3, status := st, reason := re, time := s.now } := by
  simp [cmdOf, endCmd]

@[simp] theorem cmdOf_startCmd (key : Nat) (r : ReqId) (s : State) :
    cmdOf key (startCmd key r s) =
      { state := 1, status := 0, reason := 0, cls := classNum (classOf r), runs := ((cmdOf key s).runs + 1) % 2 ^ 32,
        time := s.now } := by
  simp [cmdOf, startCmd]

end Sys2Proof.Machine
end

