-- ==== Sys2Proof/Laws/Commands.lean ====
section
/-! SUPPORT. What an accepted write of a dictionary entry does, once for all of them: the write is noted, a command entry
is RUNNING, and the entry's action follows (R543, R551); and the parts of the machine that a Waybill record and a
measurement leave alone. -/

namespace Sys2Proof

open Sys2Proof.Machine

/-- An accepted write of a command entry runs its action from `actionStart`. -/
theorem cmdVia_accepted {action : ReqId → List Byte → State → State} {req : ReqId} {index sub : Nat} {bytes : List Byte}
    {s : State} (h : Accepted req index sub bytes s) :
    cmdVia action req index sub bytes s = action req bytes (actionStart req index sub s) := by
  unfold Accepted at h
  simp [cmdVia, writeVia, h, actionStart]

/-- An accepted write of any other entry runs its action from `writeStart`. -/
theorem writeVia_accepted {action : ReqId → List Byte → State → State} {req : ReqId} {index sub : Nat} {bytes : List Byte}
    {s : State} (h : Accepted req index sub bytes s) :
    writeVia action req index sub bytes s = action req bytes (writeStart req index sub s) := by
  unfold Accepted at h
  simp [writeVia, h, writeStart]

/-- A write that meets an error of R543 runs no action: it is noted and its refusal recorded. -/
theorem writeVia_refused {action : ReqId → List Byte → State → State} {req : ReqId} {index sub : Nat} {bytes : List Byte}
    {s : State} (h : writeError req index sub bytes s ≠ erOk) :
    writeVia action req index sub bytes s = noteRefusal req index sub (writeError req index sub bytes s)
      (noteWrite req index sub (writeError req index sub bytes s) s) := by
  simp [writeVia, h]

/-- The requester's record replaced leaves the rest of the dictionary, and of the machine, as it was. -/
theorem putReq_frame (x : Requester) (s : State) :
    putReq x s = { s with dict := { s.dict with requesters := (putReq x s).dict.requesters } } := by
  unfold putReq; split <;> rfl

/-- A write noted changes the dictionary's record of it and of its requester only. -/
theorem noteWrite_frame (req : ReqId) (index sub err : Nat) (s : State) :
    noteWrite req index sub err s = { s with dict := { s.dict with
      lastWrite := some (req, entryKey index sub, err), useClock := s.dict.useClock + 1,
      requesters := (noteWrite req index sub err s).dict.requesters } } := by
  unfold noteWrite touchReq; rw [putReq_frame]

/-- An accepted write begins with its record and its requester's in the dictionary, and nothing else. -/
theorem writeStart_frame (req : ReqId) (index sub : Nat) (s : State) :
    writeStart req index sub s = { s with dict := { s.dict with
      lastWrite := some (req, entryKey index sub, erOk), useClock := s.dict.useClock + 1,
      requesters := (writeStart req index sub s).dict.requesters } } := by
  unfold writeStart dropPartial; rw [putReq_frame, noteWrite_frame]

@[simp] theorem writeStart_cmds (req : ReqId) (index sub : Nat) (s : State) :
    (writeStart req index sub s).dict.cmds = s.dict.cmds := by rw [writeStart_frame]
@[simp] theorem writeStart_now (req : ReqId) (index sub : Nat) (s : State) : (writeStart req index sub s).now = s.now := by
  rw [writeStart_frame]

/-- An action that ends OK leaves its entry DONE, where nothing between has touched the entry or let time pass. -/
theorem endedOk_endCmd {key index sub : Nat} {req : ReqId} {s u : State} (hk : key = entryKey index sub)
    (hc : u.dict.cmds = (actionStart req index sub s).dict.cmds) (hn : u.now = s.now) :
    EndedOk key req s (endCmd key stOk 0 u) := by
  subst hk
  have h : cmdOf (entryKey index sub) u = cmdOf (entryKey index sub) (actionStart req index sub s) := by
    unfold cmdOf; rw [hc]
  unfold EndedOk
  rw [cmdOf_endCmd, h, hn]
  change ({ cmdOf (entryKey index sub) (startCmd (entryKey index sub) req (writeStart req index sub s)) with
    state := _, status := _, reason := _, time := _ } : CmdStatus) = _
  rw [cmdOf_startCmd]
  simp [cmdOf]

/-- A Waybill record touches the Waybill and the dictionary's counters only. -/
theorem wbSubmit_frame (code inst : Nat) (p : List Nat) (s : State) :
    wbSubmit code inst p s = { s with waybill := (wbSubmit code inst p s).waybill, dict := (wbSubmit code inst p s).dict } := by
  unfold wbSubmit wbSubmitAt wbSuppress putWbCode count
  split <;> rfl

@[simp] theorem wbSubmit_cmds (code inst : Nat) (p : List Nat) (s : State) :
    (wbSubmit code inst p s).dict.cmds = s.dict.cmds := by
  unfold wbSubmit wbSubmitAt wbSuppress putWbCode count
  split <;> rfl

@[simp] theorem wbSubmit_values (code inst : Nat) (p : List Nat) (s : State) :
    (wbSubmit code inst p s).dict.values = s.dict.values := by
  unfold wbSubmit wbSubmitAt wbSuppress putWbCode count
  split <;> rfl

/-- A measurement touches the security state only. -/
theorem measure_frame (i event : Nat) (d : BitVec 256) (s : State) :
    Machine.measure i event d s = { s with security := (Machine.measure i event d s).security } := by
  unfold Machine.measure extendSlot; simp only []; split <;> rfl

/-- A measured event of bytes touches the security state only. -/
theorem measureBytes_frame (i event : Nat) (bs : List Byte) (s : State) :
    measureBytes i event bs s = { s with security := (measureBytes i event bs s).security } := measure_frame i event _ s

@[simp] theorem wbSubmit_job (code inst : Nat) (p : List Nat) (s : State) : (wbSubmit code inst p s).job = s.job := by
  rw [wbSubmit_frame]
@[simp] theorem wbSubmit_mem (code inst : Nat) (p : List Nat) (s : State) : (wbSubmit code inst p s).mem = s.mem := by
  rw [wbSubmit_frame]
@[simp] theorem wbSubmit_now (code inst : Nat) (p : List Nat) (s : State) : (wbSubmit code inst p s).now = s.now := by
  rw [wbSubmit_frame]
@[simp] theorem wbSubmit_power (code inst : Nat) (p : List Nat) (s : State) : (wbSubmit code inst p s).power = s.power := by
  rw [wbSubmit_frame]
@[simp] theorem wbSubmit_service (code inst : Nat) (p : List Nat) (s : State) : (wbSubmit code inst p s).service = s.service := by
  rw [wbSubmit_frame]
@[simp] theorem wbSubmit_dispatch (code inst : Nat) (p : List Nat) (s : State) : (wbSubmit code inst p s).dispatch = s.dispatch := by
  rw [wbSubmit_frame]
@[simp] theorem wbSubmit_recovery (code inst : Nat) (p : List Nat) (s : State) : (wbSubmit code inst p s).recovery = s.recovery := by
  rw [wbSubmit_frame]
@[simp] theorem wbSubmit_hostif (code inst : Nat) (p : List Nat) (s : State) : (wbSubmit code inst p s).hostif = s.hostif := by
  rw [wbSubmit_frame]
@[simp] theorem wbSubmit_fabric (code inst : Nat) (p : List Nat) (s : State) : (wbSubmit code inst p s).fabric = s.fabric := by
  rw [wbSubmit_frame]
@[simp] theorem wbSubmit_security (code inst : Nat) (p : List Nat) (s : State) : (wbSubmit code inst p s).security = s.security := by
  rw [wbSubmit_frame]
@[simp] theorem wbSubmit_xlate (code inst : Nat) (p : List Nat) (s : State) : (wbSubmit code inst p s).xlate = s.xlate := by
  rw [wbSubmit_frame]
@[simp] theorem wbSubmit_pending (code inst : Nat) (p : List Nat) (s : State) : (wbSubmit code inst p s).pending = s.pending := by
  rw [wbSubmit_frame]
@[simp] theorem measureBytes_pending (i e : Nat) (bs : List Byte) (s : State) : (measureBytes i e bs s).pending = s.pending := by
  rw [measureBytes_frame]
@[simp] theorem measureBytes_rollback (i e : Nat) (bs : List Byte) (s : State) :
    (measureBytes i e bs s).security.rollback = s.security.rollback := by
  unfold measureBytes Machine.measure extendSlot; simp only []; split <;> rfl
@[simp] theorem measureBytes_zeroisePending (i e : Nat) (bs : List Byte) (s : State) :
    (measureBytes i e bs s).security.zeroisePending = s.security.zeroisePending := by
  unfold measureBytes Machine.measure extendSlot; simp only []; split <;> rfl
@[simp] theorem measureBytes_zeroiseMirror (i e : Nat) (bs : List Byte) (s : State) :
    (measureBytes i e bs s).security.zeroiseMirror = s.security.zeroiseMirror := by
  unfold measureBytes Machine.measure extendSlot; simp only []; split <;> rfl
@[simp] theorem measureBytes_job (i e : Nat) (bs : List Byte) (s : State) : (measureBytes i e bs s).job = s.job := by
  rw [measureBytes_frame]
@[simp] theorem measureBytes_mem (i e : Nat) (bs : List Byte) (s : State) : (measureBytes i e bs s).mem = s.mem := by
  rw [measureBytes_frame]
@[simp] theorem measureBytes_dict (i e : Nat) (bs : List Byte) (s : State) : (measureBytes i e bs s).dict = s.dict := by
  rw [measureBytes_frame]
@[simp] theorem measureBytes_now (i e : Nat) (bs : List Byte) (s : State) : (measureBytes i e bs s).now = s.now := by
  rw [measureBytes_frame]
@[simp] theorem measureBytes_power (i e : Nat) (bs : List Byte) (s : State) : (measureBytes i e bs s).power = s.power := by
  rw [measureBytes_frame]

end Sys2Proof
end

