-- ==== Sys2Proof/Laws/Frame.lean ====
section
/-! SUPPORT. The part of the state that almost no meaning touches, and the relations the lemmas of
the meanings are stated in: `outKeeps` (the whole part is as before) and `outSafe` (the queue is as
before, no anti-rollback counter has fallen, the zeroise duty of a sealed job is kept). -/

namespace Sys2Proof.Machine

open Sys2Proof

/-- Queue, clock, anti-rollback counters (R489), sealed job, and the two copies of the pending
zeroisation (R498, R535). -/
abbrev Fixed : Type := List Instr × Nat × List Nat × Bool × Bool × Bool

/-- That part of a state. -/
def fixedPart (s : State) : Fixed :=
  (s.pending, s.now, s.security.rollback, s.job.sealed_, s.security.zeroisePending, s.security.zeroiseMirror)

@[simp] theorem fixedPart_mk (a1 a2 a3 a4 a5 a6 a7 a8 a9 a10 a11 a12 a13 a14 a15 a16 a17 a18 a19 a20 a21 a22 a23 a24 a25 a26 a27) :
    fixedPart (State.mk a1 a2 a3 a4 a5 a6 a7 a8 a9 a10 a11 a12 a13 a14 a15 a16 a17 a18 a19 a20 a21 a22 a23 a24 a25 a26 a27) =
    (a27, a25, a19.rollback, a14.sealed_, a19.zeroisePending, a19.zeroiseMirror) := (rfl)

@[simp] theorem fixedPart_eta (s : State) :
    (s.pending, s.now, s.security.rollback, s.job.sealed_, s.security.zeroisePending, s.security.zeroiseMirror) = fixedPart s := (rfl)

@[simp] theorem fixedPart_ite (c : Prop) [Decidable c] (a b : State) :
    fixedPart (if c then a else b) = if c then fixedPart a else fixedPart b := by split <;> rfl

@[simp] theorem fixedPart_foldl {α : Type} (l : List α) (f : State → α → State) (h : ∀ s a, fixedPart (f s a) = fixedPart s) (s : State) :
    fixedPart (l.foldl f s) = fixedPart s := by
  induction l generalizing s with
  | nil => rfl
  | cons x xs ih => simp [List.foldl, ih, h]

@[simp] theorem fixedPart_foldl_snd {α β : Type} (l : List α) (f : β × State → α → β × State)
    (h : ∀ p a, fixedPart (f p a).2 = fixedPart p.2) (p : β × State) : fixedPart (l.foldl f p).2 = fixedPart p.2 := by
  induction l generalizing p with
  | nil => rfl
  | cons x xs ih => simp [List.foldl, ih, h]

/-- A core's run that keeps the part. -/
def resKeeps (s : State) (r : CoreRes) : Prop :=
  match r with
  | .done t _ => fixedPart t = fixedPart s
  | .stall t => fixedPart t = fixedPart s
  | .wait t => fixedPart t = fixedPart s
  | .exc _ => True

@[simp] theorem resKeeps_done (s t : State) (pc : BitVec 64) : resKeeps s (.done t pc) = (fixedPart t = fixedPart s) := (rfl)
@[simp] theorem resKeeps_stall (s t : State) : resKeeps s (.stall t) = (fixedPart t = fixedPart s) := (rfl)
@[simp] theorem resKeeps_wait (s t : State) : resKeeps s (.wait t) = (fixedPart t = fixedPart s) := (rfl)
@[simp] theorem resKeeps_exc (s : State) (c : Nat) : resKeeps s (.exc c) := trivial
@[simp] theorem resKeeps_ite (s : State) (c : Prop) [Decidable c] (a b : CoreRes) :
    resKeeps s (if c then a else b) = if c then resKeeps s a else resKeeps s b := by split <;> rfl

/-- An outcome that keeps the part where it is a next state. -/
def outKeeps (s : State) (o : Host.Outcome State Fault Refusal) : Prop :=
  match o with
  | .next t => fixedPart t = fixedPart s
  | _ => True

@[simp] theorem outKeeps_next (s t : State) : outKeeps s (.next t) = (fixedPart t = fixedPart s) := (rfl)
@[simp] theorem outKeeps_fault (s : State) (f : Fault) : outKeeps s (.fault f) := trivial
@[simp] theorem outKeeps_refused (s : State) (r : Refusal) : outKeeps s (.refused r) := trivial
@[simp] theorem outKeeps_ite (s : State) (c : Prop) [Decidable c] (a b : Host.Outcome State Fault Refusal) :
    outKeeps s (if c then a else b) = if c then outKeeps s a else outKeeps s b := by split <;> rfl

/-- The queue is the same, the five anti-rollback counters do not fall, and a sealed job whose
zeroisation stood pending in both copies still has it so. -/
def safeRel (a b : Fixed) : Prop :=
  b.1 = a.1 ∧ (∀ i, i < 5 → a.2.2.1.getD i 0 ≤ b.2.2.1.getD i 0) ∧
  ((a.2.2.2.1 = true → a.2.2.2.2.1 = true ∧ a.2.2.2.2.2 = true) →
   (b.2.2.2.1 = true → b.2.2.2.2.1 = true ∧ b.2.2.2.2.2 = true))

/-- An outcome that is `safeRel` to the state before where it is a next state. -/
def outSafe (s : State) (o : Host.Outcome State Fault Refusal) : Prop :=
  match o with
  | .next t => safeRel (fixedPart s) (fixedPart t)
  | _ => True

@[simp] theorem safeRel_refl (a : Fixed) : safeRel a a :=
  ⟨rfl, fun _ _ => Nat.le_refl _, id⟩

theorem safeRel_trans {a b c : Fixed} (h : safeRel a b) (k : safeRel b c) :
    safeRel a c :=
  ⟨k.1.trans h.1, fun i hi => Nat.le_trans (h.2.1 i hi) (k.2.1 i hi), fun x => k.2.2 (h.2.2 x)⟩

@[simp] theorem outSafe_next (s t : State) : outSafe s (.next t) = safeRel (fixedPart s) (fixedPart t) := (rfl)
@[simp] theorem outSafe_fault (s : State) (f : Fault) : outSafe s (.fault f) := trivial
@[simp] theorem outSafe_refused (s : State) (r : Refusal) : outSafe s (.refused r) := trivial
@[simp] theorem outSafe_ite (s : State) (c : Prop) [Decidable c] (a b : Host.Outcome State Fault Refusal) :
    outSafe s (if c then a else b) = if c then outSafe s a else outSafe s b := by split <;> rfl

theorem outSafe_of_keeps {s : State} {o : Host.Outcome State Fault Refusal} (h : outKeeps s o) : outSafe s o := by
  cases o with
  | next t =>
    simp only [outKeeps_next] at h
    simp [h]
  | fault f => trivial
  | refused r => trivial

theorem safeRel_foldl {α : Type} (l : List α) (f : State → α → State)
    (h : ∀ s a, safeRel (fixedPart s) (fixedPart (f s a))) (s : State) : safeRel (fixedPart s) (fixedPart (l.foldl f s)) := by
  induction l generalizing s with
  | nil => exact safeRel_refl _
  | cons x xs ih => exact safeRel_trans (h s x) (ih _)

theorem safeRel_foldl' {α : Type} {a : Fixed} (l : List α) (f : State → α → State)
    (h : ∀ s x, safeRel a (fixedPart s) → safeRel a (fixedPart (f s x))) (s : State) (hs : safeRel a (fixedPart s)) :
    safeRel a (fixedPart (l.foldl f s)) := by
  induction l generalizing s with
  | nil => exact hs
  | cons x xs ih => exact ih _ (h _ _ hs)


end Sys2Proof.Machine
end

