-- ==== Sys2Proof/Laws/KeepOps.lean ====
section
/-! SUPPORT. The shared operations and entries keep the fixed part: one lemma per definition that changes the state. -/

namespace Sys2Proof.Machine

open Sys2Proof

@[simp] theorem count_fix (key n : Nat) (s : State) : fixedPart (count key n s) = fixedPart s := by
  unfold count
  simp

@[simp] theorem setEnt_fix (key n v : Nat) (s : State) : fixedPart (setEnt key n v s) = fixedPart s := by
  unfold setEnt
  simp

@[simp] theorem clearEnt_fix (key : Nat) (s : State) : fixedPart (clearEnt key s) = fixedPart s := by
  unfold clearEnt
  simp

@[simp] theorem drawFree_fix (s : State) : fixedPart (drawFree s) = fixedPart s := by
  unfold drawFree
  simp

@[simp] theorem putWbCode_fix (c : WbCode) (s : State) : fixedPart (putWbCode c s) = fixedPart s := by
  unfold putWbCode
  simp

@[simp] theorem wbSuppress_fix (code time : Nat) (s : State) : fixedPart (wbSuppress code time s) = fixedPart s := by
  unfold wbSuppress
  simp

@[simp] theorem wbSubmitAt_fix (time : Nat) (held : Bool) (code inst : Nat) (p : List Nat) (s : State) :
    fixedPart (wbSubmitAt time held code inst p s) = fixedPart s := by
  unfold wbSubmitAt
  simp

@[simp] theorem wbSubmit_fix (code inst : Nat) (p : List Nat) (s : State) :
    fixedPart (wbSubmit code inst p s) = fixedPart s := by
  unfold wbSubmit
  simp

@[simp] theorem rollSat_fix (s : State) : fixedPart (rollSat s) = fixedPart s := by
  unfold rollSat
  simp

@[simp] theorem countSat_fix (n : Nat) (s : State) : fixedPart (countSat n s) = fixedPart s := by
  unfold countSat
  simp

@[simp] theorem hostWrite_fix (queue : Option Nat) (addr : Nat) (bytes : List Byte) (s : State) :
    fixedPart (hostWrite queue addr bytes s) = fixedPart s := by
  unfold hostWrite
  simp

@[simp] theorem sendMsix_fix (v : Nat) (s : State) : fixedPart (sendMsix v s) = fixedPart s := by
  unfold sendMsix
  simp

@[simp] theorem raiseVector_fix (queue : Option Nat) (v : Nat) (s : State) :
    fixedPart (raiseVector queue v s) = fixedPart s := by
  unfold raiseVector
  simp

@[simp] theorem settleHoldoff_fix (s : State) :
    fixedPart (settleHoldoff s) = fixedPart s := by
  unfold settleHoldoff
  (repeat' split) <;> simp

@[simp] theorem raiseQueueVector_fix (n v : Nat) (s : State) : fixedPart (raiseQueueVector n v s) = fixedPart s := by
  unfold raiseQueueVector
  simp

@[simp] theorem raiseEvent_fix (bit : Nat) (s : State) : fixedPart (raiseEvent bit s) = fixedPart s := by
  unfold raiseEvent
  simp

@[simp] theorem setJobState_fix (n : Nat) (s : State) : fixedPart (setJobState n s) = fixedPart s := by
  unfold setJobState
  simp

@[simp] theorem raiseJobFaultOf_fix (cause code detail : Nat) (s : State) :
    fixedPart (raiseJobFaultOf cause code detail s) = fixedPart s := by
  unfold raiseJobFaultOf
  (repeat' split) <;> simp

@[simp] theorem raiseJobFault_fix (code detail : Nat) (s : State) :
    fixedPart (raiseJobFault code detail s) = fixedPart s := by
  unfold raiseJobFault
  simp

@[simp] theorem jobFaultPlain_fix (unit inst cause tag opcode : Nat) (s : State) :
    fixedPart (jobFaultPlain unit inst cause tag opcode s) = fixedPart s := by
  unfold jobFaultPlain
  simp

@[simp] theorem updCtl_fix (c : Nat) (f : CoreControl → CoreControl) (s : State) :
    fixedPart (updCtl c f s) = fixedPart s := by
  unfold updCtl
  simp

@[simp] theorem updVec_fix (c : Nat) (f : CoreVector → CoreVector) (s : State) : fixedPart (updVec c f s) = fixedPart s := by
  unfold updVec
  simp

@[simp] theorem updMat_fix (c : Nat) (f : CoreMatrix → CoreMatrix) (s : State) : fixedPart (updMat c f s) = fixedPart s := by
  unfold updMat
  simp

@[simp] theorem updQueue_fix (n : Nat) (f : Queue → Queue) (s : State) : fixedPart (updQueue n f s) = fixedPart s := by
  unfold updQueue
  simp

@[simp] theorem updLaunch_fix (id : Nat) (f : Launch → Launch) (s : State) : fixedPart (updLaunch id f s) = fixedPart s := by
  unfold updLaunch
  simp

@[simp] theorem updContext_fix (k : Nat) (f : Ctx → Ctx) (s : State) : fixedPart (updContext k f s) = fixedPart s := by
  unfold updContext
  simp

@[simp] theorem updGraph_fix (id : Nat) (f : Graph → Graph) (s : State) : fixedPart (updGraph id f s) = fixedPart s := by
  unfold updGraph
  simp

@[simp] theorem markLaunch_fix (id : Option Nat) (sat bv torn : Bool) (s : State) :
    fixedPart (markLaunch id sat bv torn s) = fixedPart s := by
  unfold markLaunch
  (repeat' split) <;> simp

@[simp] theorem watchLocal_fix (core off n : Nat) (s : State) :
    fixedPart (watchLocal core off n s) = fixedPart s := by
  unfold watchLocal
  simp

@[simp] theorem sramWrite_fix (core off : Nat) (bs : List Byte) (s : State) :
    fixedPart (sramWrite core off bs s) = fixedPart s := by
  unfold sramWrite
  simp

@[simp] theorem stagingWrite_fix (die off : Nat) (bs : List Byte) (s : State) :
    fixedPart (stagingWrite die off bs s) = fixedPart s := by
  unfold stagingWrite
  simp

@[simp] theorem depart_fix (l : Link) (o : Departure) (s : State) :
    fixedPart (depart l o s) = fixedPart s := by
  unfold depart
  split <;> simp

@[simp] theorem putOut_fix (l : Link) (o : Departure) (s : State) :
    fixedPart (putOut l o s) = fixedPart s := by
  unfold putOut
  split <;> simp

@[simp] theorem resumeLinks_fix (s : State) : fixedPart (resumeLinks s) = fixedPart s := by
  unfold resumeLinks
  simp

@[simp] theorem sendLink_fix (i : Nat) (dst : Endpoint) (o : Departure) (s : State) :
    fixedPart (sendLink i dst o s) = fixedPart s := by
  unfold sendLink
  (repeat' split) <;> simp

@[simp] theorem setPte_fix (page : Nat) (p : BitVec 32) (s : State) : fixedPart (setPte page p s) = fixedPart s := by
  unfold setPte
  simp

theorem takeFrame_fix {r : Nat} {s t : State} {f : Nat} (h : takeFrame r s = some (f, t)) : fixedPart t = fixedPart s := by
  unfold takeFrame at h
  simp only [] at h
  split at h
  · cases h; simp
  · split at h
    · cases h; simp
    · cases h

@[simp] theorem giveFrame_fix (r f : Nat) (s : State) : fixedPart (giveFrame r f s) = fixedPart s := by
  unfold giveFrame
  simp

@[simp] theorem ensureFrame_fix (page : Nat) (s : State) : fixedPart (ensureFrame page s) = fixedPart s := by
  unfold ensureFrame
  simp only []
  split
  · rfl
  · split
    · rename_i h; simp [takeFrame_fix h]
    · rfl

@[simp] theorem devSetByte_fix (va : Nat) (b : Byte) (s : State) : fixedPart (devSetByte va b s) = fixedPart s := by
  unfold devSetByte
  simp only []
  split
  · simp
  · split <;> simp

@[simp] theorem devPut_fix (va : Nat) (bs : List Byte) (s : State) : fixedPart (devPut va bs s) = fixedPart s := by
  fun_induction devPut va bs s <;> simp_all

@[simp] theorem watchWrite_fix (va n : Nat) (s : State) :
    fixedPart (watchWrite va n s) = fixedPart s := by
  unfold watchWrite
  simp

@[simp] theorem devWrite_fix (va : Nat) (bs : List Byte) (s : State) : fixedPart (devWrite va bs s) = fixedPart s := by
  induction bs generalizing va s with
  | nil => rfl
  | cons b bs ih => simp [devWrite, ih]

@[simp] theorem moduleWrite_fix (unit va : Nat) (bs : List Byte) (s : State) :
    fixedPart (moduleWrite unit va bs s) = fixedPart s := by
  unfold moduleWrite
  (repeat' split) <;> simp

@[simp] theorem touchPteCache_fix (page : Nat) (s : State) : fixedPart (touchPteCache page s) = fixedPart s := by
  unfold touchPteCache
  simp

@[simp] theorem touchHub_fix (page : Nat) (s : State) : fixedPart (touchHub page s) = fixedPart s := by
  unfold touchHub
  simp

@[simp] theorem touchDray_fix (d page : Nat) (s : State) : fixedPart (touchDray d page s) = fixedPart s := by
  unfold touchDray
  simp

@[simp] theorem switchColdOn_fix (s : State) : fixedPart (switchColdOn s) = fixedPart s := by
  unfold switchColdOn
  simp

@[simp] theorem touchCold_fix (s : State) : fixedPart (touchCold s) = fixedPart s := by
  unfold touchCold
  simp

@[simp] theorem hubPage_fix (page : Nat) (s : State) : fixedPart (hubPage page s) = fixedPart s := by
  unfold hubPage
  simp

@[simp] theorem hubAccess_fix (va n : Nat) (s : State) : fixedPart (hubAccess va n s) = fixedPart s := by
  unfold hubAccess
  simp

@[simp] theorem drayPage_fix (d page : Nat) (s : State) : fixedPart (drayPage d page s) = fixedPart s := by
  unfold drayPage
  simp

@[simp] theorem drayAccess_fix (d va n : Nat) (s : State) : fixedPart (drayAccess d va n s) = fixedPart s := by
  unfold drayAccess
  simp

@[simp] theorem noteDmaRead_fix (va n : Nat) (s : State) : fixedPart (noteDmaRead va n s) = fixedPart s := by
  unfold noteDmaRead
  simp

@[simp] theorem invalidatePage_fix (page : Nat) (s : State) : fixedPart (invalidatePage page s) = fixedPart s := by
  unfold invalidatePage
  simp

@[simp] theorem raiseFaultMsix_fix (s : State) : fixedPart (raiseFaultMsix s) = fixedPart s := by
  unfold raiseFaultMsix
  simp

@[simp] theorem enqueueFault_fix (f : PendingFault) (overflowed : Bool) (s : State) :
    fixedPart (enqueueFault f overflowed s) = fixedPart s := by
  unfold enqueueFault
  simp

@[simp] theorem submitFault_fix (f : PendingFault) (s : State) : fixedPart (submitFault f s) = fixedPart s := by
  unfold submitFault
  simp

@[simp] theorem drainLatched_fix (fuel : Nat) (s : State) : fixedPart (drainLatched fuel s) = fixedPart s := by
  induction fuel generalizing s with
  | zero => rfl
  | succ k ih =>
    unfold drainLatched
    try simp only []
    (repeat' split) <;> simp_all

@[simp] theorem joinFault_fix (agent page access context : Nat) (work : Nat × Nat) (spec : Bool) (s : State) :
    fixedPart (joinFault agent page access context work spec s) = fixedPart s := by
  unfold joinFault
  (repeat' split) <;> simp

@[simp] theorem pageFaultAt_fix (agent page : Nat) (acc : Access) (context spec : Nat) (work : Nat × Nat) (s : State) :
    fixedPart (pageFaultAt agent page acc context spec work s) = fixedPart s := by
  unfold pageFaultAt
  simp

@[simp] theorem holdHostAccess_fix (agent bus : Nat) (work : Nat × Nat) (s : State) :
    fixedPart (holdHostAccess agent bus work s) = fixedPart s := by
  unfold holdHostAccess
  simp

@[simp] theorem noteMiss_fix (agent page : Nat) (s : State) :
    fixedPart (noteMiss agent page s) = fixedPart s := by
  unfold noteMiss
  (repeat' split) <;> simp

@[simp] theorem stallOn_fix (agent context spec unit inst tag opcode : Nat) (acc : Access) (m : MemCheck) (s : State) :
    fixedPart (stallOn agent context spec unit inst tag opcode acc m s) = fixedPart s := by
  unfold stallOn
  (repeat' split) <;> simp

@[simp] theorem releasePage_fix (page : Nat) (s : State) : fixedPart (releasePage page s) = fixedPart s := by
  unfold releasePage
  (repeat' split) <;> simp

@[simp] theorem hitchSignal_fix (va : Nat) (store : Bool) (v : Nat) (s : State) :
    fixedPart (hitchSignal va store v s) = fixedPart s := by
  unfold hitchSignal
  simp

@[simp] theorem putReq_fix (x : Requester) (s : State) : fixedPart (putReq x s) = fixedPart s := by
  unfold putReq
  simp

@[simp] theorem touchReq_fix (r : ReqId) (s : State) : fixedPart (touchReq r s) = fixedPart s := by
  unfold touchReq
  simp

@[simp] theorem setSelector_fix (key v : Nat) (r : ReqId) (s : State) : fixedPart (setSelector key v r s) = fixedPart s := by
  unfold setSelector
  (repeat' split) <;> simp

@[simp] theorem startCmd_fix (key : Nat) (r : ReqId) (s : State) : fixedPart (startCmd key r s) = fixedPart s := by
  unfold startCmd
  simp

@[simp] theorem endCmd_fix (key status reason : Nat) (s : State) : fixedPart (endCmd key status reason s) = fixedPart s := by
  unfold endCmd
  simp

@[simp] theorem dropPartial_fix (r : ReqId) (index sub : Nat) (s : State) :
    fixedPart (dropPartial r index sub s) = fixedPart s := by
  unfold dropPartial
  simp

@[simp] theorem noteWrite_fix (r : ReqId) (index sub err : Nat) (s : State) :
    fixedPart (noteWrite r index sub err s) = fixedPart s := by
  unfold noteWrite
  simp

@[simp] theorem noteRefusal_fix (r : ReqId) (index sub err : Nat) (s : State) :
    fixedPart (noteRefusal r index sub err s) = fixedPart s := by
  unfold noteRefusal
  simp

@[simp] theorem writeVia_fix {action : ReqId → List Byte → State → State} (h : ∀ r b s, fixedPart (action r b s) = fixedPart s)
    (r : ReqId) (index sub : Nat) (bytes : List Byte) (s : State) :
    fixedPart (writeVia action r index sub bytes s) = fixedPart s := by
  unfold writeVia
  simp only []
  split <;> simp [h]

@[simp] theorem cmdVia_fix {action : ReqId → List Byte → State → State} (h : ∀ r b s, fixedPart (action r b s) = fixedPart s)
    (r : ReqId) (index sub : Nat) (bytes : List Byte) (s : State) :
    fixedPart (cmdVia action r index sub bytes s) = fixedPart s := by
  unfold cmdVia
  exact writeVia_fix (fun r b s => by simp [h]) r index sub bytes s

@[simp] theorem specWriteFault_fix (inst off spec unit tag opcode : Nat) (s : State) :
    fixedPart (specWriteFault inst off spec unit tag opcode s) = fixedPart s := by
  unfold specWriteFault
  simp

@[simp] theorem coreStore_fix (core spec off : Nat) (bytes : List Byte) (inst unit tag opcode : Nat) (s : State) :
    fixedPart (coreStore core spec off bytes inst unit tag opcode s) = fixedPart s := by
  unfold coreStore
  simp

@[simp] theorem stagingStore_fix (die spec off : Nat) (bytes : List Byte) (inst unit tag opcode : Nat) (s : State) :
    fixedPart (stagingStore die spec off bytes inst unit tag opcode s) = fixedPart s := by
  unfold stagingStore
  simp

@[simp] theorem devStore_fix (spec va : Nat) (bytes : List Byte) (s : State) :
    fixedPart (devStore spec va bytes s) = fixedPart s := by
  unfold devStore
  simp

@[simp] theorem placeStore_fix (p : SramPlace) (spec : Nat) (bytes : List Byte) (inst unit tag opcode : Nat) (s : State) :
    fixedPart (placeStore p spec bytes inst unit tag opcode s) = fixedPart s := by
  unfold placeStore
  simp

@[simp] theorem placeSignal_fix (p : SramPlace) (spec : Nat) (bytes : List Byte) (inst unit tag opcode : Nat) (s : State) :
    fixedPart (placeSignal p spec bytes inst unit tag opcode s) = fixedPart s := by
  unfold placeSignal
  simp

@[simp] theorem applyHeldStore_fix (h : HeldStore) (s : State) : fixedPart (applyHeldStore h s) = fixedPart s := by
  unfold applyHeldStore
  simp

@[simp] theorem specMark_fix (spec : Nat) (launch : Option Nat) (sat bv torn : Bool) (s : State) :
    fixedPart (specMark spec launch sat bv torn s) = fixedPart s := by
  unfold specMark
  (repeat' split) <;> simp

@[simp] theorem noteSpecWork_fix (spec rows cycles : Nat) (s : State) :
    fixedPart (noteSpecWork spec rows cycles s) = fixedPart s := by
  unfold noteSpecWork
  simp

@[simp] theorem specRecord_fix (time spec code inst : Nat) (p : List Nat) (s : State) :
    fixedPart (specRecord time spec code inst p s) = fixedPart s := by
  unfold specRecord
  simp

@[simp] theorem pushIssued_fix (core : Nat) (d : Desc) (org : Origin) (s : State) :
    fixedPart (pushIssued core d org s) = fixedPart s := by
  unfold pushIssued
  simp

@[simp] theorem takeIssued_fix (core : Nat) (d : Desc) (org : Origin) (s : State) :
    fixedPart (takeIssued core d org s) = fixedPart s := by
  unfold takeIssued
  simp

@[simp] theorem holdIssued_fix (core : Nat) (d : Desc) (org : Origin) (s : State) :
    fixedPart (holdIssued core d org s) = fixedPart s := by
  unfold holdIssued
  simp

@[simp] theorem returnIssued_fix (core : Nat) (d : Desc) (org : Origin) (s : State) :
    fixedPart (returnIssued core d org s) = fixedPart s := by
  unfold returnIssued
  simp

@[simp] theorem coreStoreAll_fix (core spec : Nat) (ws : List (Nat × List Byte)) (inst unit tag opcode : Nat) (s : State) :
    fixedPart (coreStoreAll core spec ws inst unit tag opcode s) = fixedPart s := by
  unfold coreStoreAll
  (repeat' split) <;> simp

@[simp] theorem queueRepair_fix (core : Nat) (r : Nat × Nat) (s : State) :
    fixedPart (queueRepair core r s) = fixedPart s := by
  unfold queueRepair
  simp

@[simp] theorem sramErrors_fix (core : Nat) (s : State) : fixedPart (sramErrors core s) = fixedPart s := by
  unfold sramErrors
  simp

@[simp] theorem setOpPoint_fix (p : Nat) (s : State) :
    fixedPart (setOpPoint p s) = fixedPart s := by
  unfold setOpPoint
  simp

@[simp] theorem moveOpPoint_fix (faster : Bool) (s : State) : fixedPart (moveOpPoint faster s) = fixedPart s := by
  unfold moveOpPoint
  simp

@[simp] theorem execOpPointMove_keeps (faster : Bool) (s : State) : outKeeps s (execOpPointMove faster s) := by
  unfold execOpPointMove
  simp

@[simp] theorem settleCap_fix (s : State) : fixedPart (settleCap s) = fixedPart s := by
  unfold settleCap
  (repeat' split) <;> simp

@[simp] theorem throttleStep_fix (watts : Nat) (s : State) : fixedPart (throttleStep watts s) = fixedPart s := by
  unfold throttleStep
  simp

@[simp] theorem capPoint_fix (demand : Nat) (s : State) : fixedPart (capPoint demand s) = fixedPart s := by
  unfold capPoint
  simp

@[simp] theorem addEnergy_fix (watts : Nat) (s : State) : fixedPart (addEnergy watts s) = fixedPart s := by
  unfold addEnergy
  simp

@[simp] theorem execCapProjection_keeps (watts demand : Nat) (s : State) :
    outKeeps s (execCapProjection watts demand s) := by
  unfold execCapProjection
  simp

@[simp] theorem powerCapAction_fix (x0 : ReqId) (bytes : List Byte) (s : State) :
    fixedPart (powerCapAction x0 bytes s) = fixedPart s := by
  unfold powerCapAction
  simp

@[simp] theorem execPowerCapWrite_keeps (req : ReqId) (value : Nat) (s : State) :
    outKeeps s (execPowerCapWrite req value s) := by
  unfold execPowerCapWrite
  simp

@[simp] theorem reserveWake_fix (s : State) : fixedPart (reserveWake s) = fixedPart s := by
  unfold reserveWake
  simp

@[simp] theorem loseCore_fix (c : Nat) (s : State) : fixedPart (loseCore c s) = fixedPart s := by
  unfold loseCore
  simp

@[simp] theorem stageUp_fix (n : Nat) (s : State) :
    fixedPart (stageUp n s) = fixedPart s := by
  unfold stageUp
  (repeat' split) <;> simp

@[simp] theorem stageOn_fix (cg : Nat) (s : State) :
    fixedPart (stageOn cg s) = fixedPart s := by
  unfold stageOn
  simp

@[simp] theorem settleGroup_fix (cg : Nat) (s : State) : fixedPart (settleGroup cg s) = fixedPart s := by
  unfold settleGroup
  simp

@[simp] theorem settleGroups_fix (s : State) : fixedPart (settleGroups s) = fixedPart s := by
  unfold settleGroups
  simp

@[simp] theorem stageStepDown_fix (n : Nat) (s : State) : fixedPart (stageStepDown n s) = fixedPart s := by
  unfold stageStepDown
  simp

@[simp] theorem stepDownGroup_fix (cg depth : Nat) (s : State) : fixedPart (stepDownGroup cg depth s) = fixedPart s := by
  unfold stepDownGroup
  simp

@[simp] theorem beginWake_fix (cg code : Nat) (s : State) :
    fixedPart (beginWake cg code s) = fixedPart s := by
  unfold beginWake
  simp

@[simp] theorem wakeGroup_fix (cg : Nat) (s : State) :
    fixedPart (wakeGroup cg s) = fixedPart s := by
  unfold wakeGroup
  simp

@[simp] theorem wakeOnDemand_fix (cg : Nat) (s : State) : fixedPart (wakeOnDemand cg s) = fixedPart s := by
  unfold wakeOnDemand
  simp

@[simp] theorem wakeCore_fix (core : Nat) (s : State) :
    fixedPart (wakeCore core s) = fixedPart s := by
  unfold wakeCore
  split <;> simp

@[simp] theorem execCgWake_keeps (cg : Nat) (s : State) : outKeeps s (execCgWake cg s) := by
  unfold execCgWake
  simp

@[simp] theorem switchNetOn_fix (s : State) : fixedPart (switchNetOn s) = fixedPart s := by
  unfold switchNetOn
  simp

@[simp] theorem execNetSwitchOn_keeps (s : State) : outKeeps s (execNetSwitchOn s) := by
  unfold execNetSwitchOn
  simp

@[simp] theorem execNetSwitchOff_keeps (s : State) : outKeeps s (execNetSwitchOff s) := by
  unfold execNetSwitchOff
  simp

@[simp] theorem execColdSwitchOn_keeps (s : State) : outKeeps s (execColdSwitchOn s) := by
  unfold execColdSwitchOn
  simp

@[simp] theorem execColdSelfRefresh_keeps (s : State) : outKeeps s (execColdSelfRefresh s) := by
  unfold execColdSelfRefresh
  simp

@[simp] theorem execSelfRefreshExit_keeps (s : State) : outKeeps s (execSelfRefreshExit s) := by
  unfold execSelfRefreshExit
  simp

@[simp] theorem coldSwitchOff_fix (s : State) : fixedPart (coldSwitchOff s) = fixedPart s := by
  unfold coldSwitchOff
  simp

@[simp] theorem holdOpMin_fix (s : State) :
    fixedPart (holdOpMin s) = fixedPart s := by
  unfold holdOpMin
  split <;> simp

@[simp] theorem powerTick_fix (s : State) :
    fixedPart (powerTick s) = fixedPart s := by
  unfold powerTick
  simp

@[simp] theorem alarmStep_fix (s : State) : fixedPart (alarmStep s) = fixedPart s := by
  unfold alarmStep
  simp only []
  (repeat' split) <;> simp

@[simp] theorem throttleHot_fix (s : State) : fixedPart (throttleHot s) = fixedPart s := by
  unfold throttleHot
  simp only []
  (repeat' split) <;> simp

@[simp] theorem readInputMv_fix (s : State) :
    fixedPart (readInputMv s) = fixedPart s := by
  unfold readInputMv
  simp

@[simp] theorem execSensorSample_keeps (temps : List Int) (s : State) : outKeeps s (execSensorSample temps s) := by
  unfold execSensorSample
  simp

@[simp] theorem execRefClockLoss_keeps (s : State) : outKeeps s (execRefClockLoss s) := by
  unfold execRefClockLoss
  simp

@[simp] theorem execRefClockRestored_keeps (s : State) : outKeeps s (execRefClockRestored s) := by
  unfold execRefClockRestored
  simp

@[simp] theorem addDebt_fix (q cg ns : Nat) (s : State) : fixedPart (addDebt q cg ns s) = fixedPart s := by
  unfold addDebt
  simp

@[simp] theorem settleOutgoing_fix (s : State) : fixedPart (settleOutgoing s) = fixedPart s := by
  unfold settleOutgoing
  simp

@[simp] theorem payDebts_fix (s : State) : fixedPart (payDebts s) = fixedPart s := by
  unfold payDebts
  simp

@[simp] theorem startPayments_fix (s : State) : fixedPart (startPayments s) = fixedPart s := by
  unfold startPayments
  simp

@[simp] theorem noteDebts_fix (s : State) :
    fixedPart (noteDebts s) = fixedPart s := by
  unfold noteDebts
  (repeat' split) <;> simp

@[simp] theorem chargeQueue_fix (q ns : Nat) (s : State) :
    fixedPart (chargeQueue q ns s) = fixedPart s := by
  unfold chargeQueue
  (repeat' split) <;> simp

@[simp] theorem changeCore_fix (c : Nat) (reclaim : Bool) (since : Nat) (next : Option Nat) (s : State) :
    fixedPart (changeCore c reclaim since next s) = fixedPart s := by
  unfold changeCore
  simp only []
  (repeat' split) <;> simp

@[simp] theorem noteLate_fix (s : State) : fixedPart (noteLate s) = fixedPart s := by
  unfold noteLate
  simp

@[simp] theorem boundaryCore_fix (c : Nat) (s : State) :
    fixedPart (boundaryCore c s) = fixedPart s := by
  unfold boundaryCore
  (repeat' split) <;> simp

@[simp] theorem execSlotBoundary_keeps (s : State) : outKeeps s (execSlotBoundary s) := by
  unfold execSlotBoundary
  simp

@[simp] theorem execReclaim_keeps (core : Nat) (s : State) : outKeeps s (execReclaim core s) := by
  unfold execReclaim
  (repeat' split) <;> simp

@[simp] theorem takeCore_fix (core q : Nat) (s : State) :
    fixedPart (takeCore core q s) = fixedPart s := by
  unfold takeCore
  (repeat' split) <;> simp

@[simp] theorem schedCommitAction_fix (x0 : ReqId) (x1 : List Byte) (s : State) :
    fixedPart (schedCommitAction x0 x1 s) = fixedPart s := by
  unfold schedCommitAction
  simp

@[simp] theorem execSchedCommit_keeps (req : ReqId) (value : Nat) (s : State) :
    outKeeps s (execSchedCommit req value s) := by
  unfold execSchedCommit
  simp

@[simp] theorem execScheduleCycleStart_keeps (s : State) : outKeeps s (execScheduleCycleStart s) := by
  unfold execScheduleCycleStart
  simp

@[simp] theorem wakeToDepth_fix (cg depth : Nat) (s : State) :
    fixedPart (wakeToDepth cg depth s) = fixedPart s := by
  unfold wakeToDepth
  (repeat' split) <;> simp

@[simp] theorem wakeForDepth_fix (cg lead code : Nat) (s : State) :
    fixedPart (wakeForDepth cg lead code s) = fixedPart s := by
  unfold wakeForDepth
  (repeat' split) <;> simp

@[simp] theorem noteIdle_fix (s : State) :
    fixedPart (noteIdle s) = fixedPart s := by
  unfold noteIdle
  (repeat' split) <;> simp

@[simp] theorem execPredictiveWake_keeps (cg : Nat) (s : State) : outKeeps s (execPredictiveWake cg s) := by
  unfold execPredictiveWake
  simp

@[simp] theorem stepDownTo_fix (cg : Nat) (s : State) : fixedPart (stepDownTo cg s) = fixedPart s := by
  unfold stepDownTo
  (repeat' split) <;> simp

@[simp] theorem execIdleStepDown_keeps (cg : Nat) (s : State) : outKeeps s (execIdleStepDown cg s) := by
  have e : fixedPart (settleGroups s) = fixedPart s := by simp
  unfold execIdleStepDown
  generalize settleGroups s = u at e ⊢
  simp only []
  (repeat' split) <;> simp [e]

@[simp] theorem extendSlot_fix (i : Nat) (d : BitVec 256) (s : State) : fixedPart (extendSlot i d s) = fixedPart s := by
  unfold extendSlot
  simp

@[simp] theorem measure_fix (i event : Nat) (d : BitVec 256) (s : State) :
    fixedPart (measure i event d s) = fixedPart s := by
  unfold measure
  simp

@[simp] theorem measureBytes_fix (i event : Nat) (bs : List Byte) (s : State) :
    fixedPart (measureBytes i event bs s) = fixedPart s := by
  unfold measureBytes
  simp

@[simp] theorem clearJobSlots_fix (s : State) : fixedPart (clearJobSlots s) = fixedPart s := by
  unfold clearJobSlots
  simp

@[simp] theorem quoteNonceAction_fix (x0 : ReqId) (bytes : List Byte) (s : State) :
    fixedPart (quoteNonceAction x0 bytes s) = fixedPart s := by
  unfold quoteNonceAction
  simp

@[simp] theorem execQuoteNonce_keeps (req : ReqId) (value : List Byte) (s : State) :
    outKeeps s (execQuoteNonce req value s) := by
  unfold execQuoteNonce
  simp

@[simp] theorem measureExtendAction_fix (x0 : ReqId) (bytes : List Byte) (s : State) :
    fixedPart (measureExtendAction x0 bytes s) = fixedPart s := by
  unfold measureExtendAction
  simp

@[simp] theorem execMeasureExtend_keeps (req : ReqId) (value : List Byte) (s : State) :
    outKeeps s (execMeasureExtend req value s) := by
  unfold execMeasureExtend
  simp

@[simp] theorem commitOn_fix (at_ : Nat) (s : State) :
    fixedPart (commitOn at_ s) = fixedPart s := by
  unfold commitOn
  (repeat' split) <;> simp

theorem allocIn_fix {m n : Nat} {cold : Bool} {context : Option Nat} {tag : Nat} {s t : State} {f : Nat}
    (h : allocIn m n cold context tag s = some (f, t)) : fixedPart t = fixedPart s := by
  unfold allocIn at h
  simp only [] at h
  split at h
  · cases h; simp
  · cases h

theorem allocModule_fix {n : Nat} {cold : Bool} {context : Option Nat} {tag : Nat} {s t : State} {f : Nat}
    (h : allocModule n cold context tag s = some (f, t)) : fixedPart t = fixedPart s := allocIn_fix h

@[simp] theorem dropPage_fix (page : Nat) (s : State) : fixedPart (dropPage page s) = fixedPart s := by
  unfold dropPage
  (repeat' split) <;> simp

@[simp] theorem freeExtents_fix (p : Extent → Bool) (s : State) : fixedPart (freeExtents p s) = fixedPart s := by
  unfold freeExtents
  simp

@[simp] theorem loadCore_fix (graph core : Nat) (v : GraphVersion) (s : State) :
    fixedPart (loadCore graph core v s) = fixedPart s := by
  unfold loadCore
  simp

@[simp] theorem loadDie_fix (die : Nat) (v : GraphVersion) (s : State) : fixedPart (loadDie die v s) = fixedPart s := by
  unfold loadDie
  simp

@[simp] theorem countResident_fix (v : GraphVersion) (n m : Nat) (s : State) :
    fixedPart (countResident v n m s) = fixedPart s := by
  unfold countResident
  simp

@[simp] theorem loadResident_fix (graph : Nat) (v : GraphVersion) (c : Ctx) (s : State) :
    fixedPart (loadResident graph v c s) = fixedPart s := by
  unfold loadResident
  simp

@[simp] theorem bar2Complete_fix (offset : Nat) (data : Option (List Byte)) (s : State) :
    fixedPart (bar2Complete offset data s) = fixedPart s := by
  unfold bar2Complete
  simp

@[simp] theorem noteBar2Write_fix (va n : Nat) (s : State) :
    fixedPart (noteBar2Write va n s) = fixedPart s := by
  unfold noteBar2Write
  simp

@[simp] theorem retryConfig_fix (s : State) :
    fixedPart (retryConfig s) = fixedPart s := by
  unfold retryConfig
  simp

@[simp] theorem execBar2Write_keeps (offset : Nat) (bytes : List Byte) (s : State) :
    outKeeps s (execBar2Write offset bytes s) := by
  unfold execBar2Write
  simp

@[simp] theorem execBar2Atomic_keeps (offset : Nat) (op : AtomicOp) (width : Nat) (operand compare : BitVec 64) (s : State) :
    outKeeps s (execBar2Atomic offset op width operand compare s) := by
  unfold execBar2Atomic
  repeat' split
  all_goals simp

@[simp] theorem execBar2Resize_keeps (gib : Nat) (s : State) : outKeeps s (execBar2Resize gib s) := by
  unfold execBar2Resize
  simp

@[simp] theorem execEventCauseClear_keeps (w : HostWrite) (s : State) : outKeeps s (execEventCauseClear w s) := by
  unfold execEventCauseClear
  (repeat' split) <;> simp

@[simp] theorem setMask_fix (v : Nat) (masked : Bool) (s : State) : fixedPart (setMask v masked s) = fixedPart s := by
  unfold setMask
  simp

@[simp] theorem execMsixTableWrite_keeps (offset : Nat) (w : HostWrite) (s : State) :
    outKeeps s (execMsixTableWrite offset w s) := by
  unfold execMsixTableWrite
  simp only []
  (repeat' split) <;> simp

@[simp] theorem execDmaRequestError_keeps (busAddr agent error : Nat) (s : State) :
    outKeeps s (execDmaRequestError busAddr agent error s) := by
  unfold execDmaRequestError
  simp

@[simp] theorem execPoisonedWrite_keeps (correctable : Bool) (s : State) : outKeeps s (execPoisonedWrite correctable s) := by
  unfold execPoisonedWrite
  simp

@[simp] theorem putSess_fix (x : FabSession) (s : State) : fixedPart (putSess x s) = fixedPart s := by
  unfold putSess
  simp

@[simp] theorem updSess_fix (peer : Nat) (f : FabSession → FabSession) (s : State) :
    fixedPart (updSess peer f s) = fixedPart s := by
  unfold updSess
  simp

@[simp] theorem emit_fix (iface peer cls srcPort : Nat) (bytes : List Byte) (s : State) :
    fixedPart (emit iface peer cls srcPort bytes s) = fixedPart s := by
  unfold emit
  simp

@[simp] theorem sendPacket_fix (peer typ cls : Nat) (records : List (List Byte)) (ops resps : List Nat) (s : State) :
    fixedPart (sendPacket peer typ cls records ops resps s) = fixedPart s := by
  unfold sendPacket
  simp only []
  (repeat' split) <;> simp

@[simp] theorem pumpLoop_fix (barrier : Bool) (fuel : Nat) (peer : Nat) (s : State) :
    fixedPart (pumpLoop barrier fuel peer s) = fixedPart s := by
  induction fuel generalizing peer s with
  | zero => rfl
  | succ k ih =>
    unfold pumpLoop
    try simp only []
    (repeat' split) <;> simp_all

@[simp] theorem pumpOf_fix (barrier : Bool) (peer : Nat) (s : State) :
    fixedPart (pumpOf barrier peer s) = fixedPart s := by
  unfold pumpOf
  split <;> simp

@[simp] theorem pump_fix (peer : Nat) (s : State) : fixedPart (pump peer s) = fixedPart s := by
  unfold pump
  simp

@[simp] theorem pumpAll_fix (s : State) :
    fixedPart (pumpAll s) = fixedPart s := by
  unfold pumpAll
  simp

@[simp] theorem fabPost_fix (peer opcode subop : Nat) (o1 : BitVec 64) (body : List Byte) (cls : Nat) (unit : FabUnit) (s : State) :
    fixedPart (fabPost peer opcode subop o1 body cls unit s) = fixedPart s := by
  unfold fabPost
  simp

@[simp] theorem fabRespond_fix (peer seq opcode subop : Nat) (o1 : BitVec 64) (body : List Byte) (cls : Nat) (s : State) :
    fixedPart (fabRespond peer seq opcode subop o1 body cls s) = fixedPart s := by
  unfold fabRespond
  simp

@[simp] theorem fabRespondMore_fix (peer seq opcode subop : Nat) (o1 : BitVec 64) (body : List Byte) (cls : Nat) (s : State) :
    fixedPart (fabRespondMore peer seq opcode subop o1 body cls s) = fixedPart s := by
  unfold fabRespondMore
  simp

@[simp] theorem settleSeq_fix (peer seq : Nat) (s : State) : fixedPart (settleSeq peer seq s) = fixedPart s := by
  unfold settleSeq
  simp

@[simp] theorem fabStatus_fix (f : FabDesc) (status reason w2 : Nat) (s : State) :
    fixedPart (fabStatus f status reason w2 s) = fixedPart s := by
  unfold fabStatus
  simp

@[simp] theorem endFabDesc_fix (id status reason w2 : Nat) (s : State) :
    fixedPart (endFabDesc id status reason w2 s) = fixedPart s := by
  unfold endFabDesc
  (repeat' split) <;> simp

@[simp] theorem slotStall_fix (peer seq context tag opcode : Nat) (acc : Access) (m : MemCheck) (s : State) :
    fixedPart (slotStall peer seq context tag opcode acc m s) = fixedPart s := by
  unfold slotStall
  generalize (match m with
      | .absent p => if pageLost p s then none else some p
      | .hostHeld b => some (b / 4096)
      | _ => none) = waits
  dsimp only
  split
  · rfl
  · split <;> simp

@[simp] theorem serveStall_fix (peer seq : Nat) (acc : Access) (m : MemCheck) (s : State) :
    fixedPart (serveStall peer seq acc m s) = fixedPart s := by
  unfold serveStall
  simp

@[simp] theorem descStall_fix (f : FabDesc) (acc : Access) (m : MemCheck) (s : State) :
    fixedPart (descStall f acc m s) = fixedPart s := by
  unfold descStall
  simp

@[simp] theorem moduleRead_fix (unit inst tag opcode va n : Nat) (s : State) :
    fixedPart (moduleRead unit inst tag opcode va n s) = fixedPart s := by
  unfold moduleRead
  split <;> simp

@[simp] theorem slotFree_fix (peer seq : Nat) (s : State) : fixedPart (slotFree peer seq s) = fixedPart s := by
  unfold slotFree
  simp

@[simp] theorem localAtomic_fix (f : FabDesc) (s : State) : fixedPart (localAtomic f s) = fixedPart s := by
  unfold localAtomic
  simp only []
  (repeat' split) <;> simp

@[simp] theorem startAtomic_fix (f : FabDesc) (s : State) : fixedPart (startAtomic f s) = fixedPart s := by
  unfold startAtomic
  simp

@[simp] theorem sendGlobal_fix (dst g gseq subop : Nat) (data : List Byte) (s : State) :
    fixedPart (sendGlobal dst g gseq subop data s) = fixedPart s := by
  unfold sendGlobal
  simp

@[simp] theorem globalLand_fix (f : FabDesc) (data : List Byte) (s : State) :
    fixedPart (globalLand f data s) = fixedPart s := by
  unfold globalLand
  simp

@[simp] theorem completeGlobal_fix (f : FabDesc) (status reason bytes : Nat) (s : State) :
    fixedPart (completeGlobal f status reason bytes s) = fixedPart s := by
  unfold completeGlobal
  simp

@[simp] theorem releaseGlobal_fix (g gseq subop : Nat) (data : List Byte) (s : State) :
    fixedPart (releaseGlobal g gseq subop data s) = fixedPart s := by
  unfold releaseGlobal
  simp only []
  (repeat' split) <;> simp

@[simp] theorem tryGlobal_fix (g gseq : Nat) (s : State) : fixedPart (tryGlobal g gseq s) = fixedPart s := by
  unfold tryGlobal
  (repeat' split) <;> simp

@[simp] theorem startGlobal_fix (f : FabDesc) (s : State) : fixedPart (startGlobal f s) = fixedPart s := by
  unfold startGlobal
  simp

@[simp] theorem resumeFabDesc_fix (id : Nat) (s : State) :
    fixedPart (resumeFabDesc id s) = fixedPart s := by
  unfold resumeFabDesc
  (repeat' split) <;> simp

@[simp] theorem startFabDesc_fix (id : Nat) (s : State) : fixedPart (startFabDesc id s) = fixedPart s := by
  unfold startFabDesc
  (repeat' split) <;> simp

@[simp] theorem takeFabDesc_fix (core : Nat) (d : Desc) (org : Origin) (s : State) :
    fixedPart (takeFabDesc core d org s) = fixedPart s := by
  unfold takeFabDesc
  simp

@[simp] theorem ownerEmit_fix (peer : Option UdpPath) (record : List Byte) (s : State) :
    fixedPart (ownerEmit peer record s) = fixedPart s := by
  unfold ownerEmit
  (repeat' split) <;> simp

@[simp] theorem updOwner_fix (sid : Nat) (f : OwnerSession → OwnerSession) (s : State) :
    fixedPart (updOwner sid f s) = fixedPart s := by
  unfold updOwner
  simp

@[simp] theorem ownerSend_fix (sid kind : Nat) (payload : List Byte) (s : State) :
    fixedPart (ownerSend sid kind payload s) = fixedPart s := by
  unfold ownerSend
  (repeat' split) <;> simp

@[simp] theorem ownerCompletion_fix (queue count_ : Nat) (record : List Byte) (s : State) :
    fixedPart (ownerCompletion queue count_ record s) = fixedPart s := by
  unfold ownerCompletion
  (repeat' split) <;> simp

end Sys2Proof.Machine
end

