-- ==== Sys2Proof/Laws/KeepQueues.lean ====
section
/-! SUPPORT. The queues and the instructions of the control cores keep the fixed part: one lemma per definition. -/

namespace Sys2Proof.Machine

open Sys2Proof

@[simp] theorem updCmd_fix (n id : Nat) (f : Cmd → Cmd) (s : State) : fixedPart (updCmd n id f s) = fixedPart s := by
  unfold updCmd
  simp

@[simp] theorem finishCmd_fix (n id status reason : Nat) (result : BitVec 64) (s : State) :
    fixedPart (finishCmd n id status reason result s) = fixedPart s := by
  unfold finishCmd
  simp

@[simp] theorem slotRead_fix (va : Nat) (s : State) :
    fixedPart (slotRead va s) = fixedPart s := by
  unfold slotRead
  simp

@[simp] theorem headRead_fix (n : Nat) (s : State) :
    fixedPart (headRead n s) = fixedPart s := by
  unfold headRead
  simp

@[simp] theorem fetchLoop_fix (fuel : Nat) (n : Nat) (s : State) : fixedPart (fetchLoop fuel n s) = fixedPart s := by
  induction fuel generalizing n s with
  | zero => rfl
  | succ k ih =>
    unfold fetchLoop
    try simp only []
    (repeat' split) <;> simp_all

@[simp] theorem fetchQueue_fix (n : Nat) (s : State) : fixedPart (fetchQueue n s) = fixedPart s := by
  unfold fetchQueue
  (repeat' split) <;> simp

@[simp] theorem retryQueue_fix (n : Nat) (s : State) : fixedPart (retryQueue n s) = fixedPart s := by
  unfold retryQueue
  simp only []
  (repeat' split) <;> simp

@[simp] theorem directShadow_fix (n tail : Nat) (disabled : Bool) (s : State) :
    fixedPart (directShadow n tail disabled s) = fixedPart s := by
  unfold directShadow
  simp

@[simp] theorem execTailDoorbell_keeps (queue : Nat) (w : HostWrite) (s : State) :
    outKeeps s (execTailDoorbell queue w s) := by
  unfold execTailDoorbell
  (repeat' split) <;> simp

@[simp] theorem produceCmd_fix (n : Nat) (w : BitVec 512) (ext : List (BitVec 512)) (s : State) :
    fixedPart (produceCmd n w ext s) = fixedPart s := by
  unfold produceCmd
  simp

@[simp] theorem showWaiting_fix (n : Nat) (s : State) : fixedPart (showWaiting n s) = fixedPart s := by
  unfold showWaiting
  simp

@[simp] theorem settleSkips_fix (fuel : Nat) (id : Nat) (s : State) : fixedPart (settleSkips fuel id s) = fixedPart s := by
  induction fuel generalizing id s with
  | zero => rfl
  | succ k ih =>
    unfold settleSkips
    try simp only []
    (repeat' split) <;> simp_all

@[simp] theorem skipStages_fix (id : Nat) (s : State) : fixedPart (skipStages id s) = fixedPart s := by
  unfold skipStages
  simp

@[simp] theorem setStage_fix (id stage : Nat) (p : StagePhase) (spec : Nat) (s : State) :
    fixedPart (setStage id stage p spec s) = fixedPart s := by
  unfold setStage
  simp

@[simp] theorem dispatchTasks_fix (l : Launch) (r : BitVec 256) (spec : Nat) (s : State) :
    fixedPart (dispatchTasks l r spec s) = fixedPart s := by
  unfold dispatchTasks
  simp

@[simp] theorem execStageDispatch_keeps (launch stage : Nat) (s : State) :
    outKeeps s (execStageDispatch launch stage s) := by
  unfold execStageDispatch
  simp only []
  (repeat' split) <;> simp

@[simp] theorem stageTaskEnded_fix (id stage core : Nat) (s : State) :
    fixedPart (stageTaskEnded id stage core s) = fixedPart s := by
  unfold stageTaskEnded
  (repeat' split) <;> simp

@[simp] theorem beginLaunch_fix (n graph version epoch : Nat) (cmd request : Option Nat) (session : Nat) (args : List Byte) (legacy : Bool) (s : State) :
    fixedPart (beginLaunch n graph version epoch cmd request session args legacy s) = fixedPart s := by
  unfold beginLaunch
  (repeat' split) <;> simp

@[simp] theorem updAdmitted_fix (seq : Nat) (f : Admitted → Admitted) (s : State) :
    fixedPart (updAdmitted seq f s) = fixedPart s := by
  unfold updAdmitted
  simp

@[simp] theorem readyResp_fix (a : Admitted) (h : LorjoHdr) (payload : List Byte) (request : Option Nat) (s : State) :
    fixedPart (readyResp a h payload request s) = fixedPart s := by
  unfold readyResp
  simp

@[simp] theorem answerRefused_fix (c : Cmd) (s : State) :
    fixedPart (answerRefused c s) = fixedPart s := by
  unfold answerRefused
  (repeat' split) <;> simp

@[simp] theorem bindRequest_fix (id seq : Nat) (s : State) : fixedPart (bindRequest id seq s) = fixedPart s := by
  unfold bindRequest
  (repeat' split) <;> simp

@[simp] theorem clearPredictions_fix (graph : Nat) (s : State) : fixedPart (clearPredictions graph s) = fixedPart s := by
  unfold clearPredictions
  simp

@[simp] theorem uncharge_fix (context n : Nat) (s : State) : fixedPart (uncharge context n s) = fixedPart s := by
  unfold uncharge
  simp

@[simp] theorem freeVersion_fix (graph version : Nat) (s : State) :
    fixedPart (freeVersion graph version s) = fixedPart s := by
  unfold freeVersion
  simp only []
  (repeat' split) <;> simp

@[simp] theorem installVersion_fix (n id graph : Nat) (v : GraphVersion) (digest : List Byte) (c : Ctx) (s : State) :
    fixedPart (installVersion n id graph v digest c s) = fixedPart s := by
  unfold installVersion
  simp only []
  split
  · rename_i h; simp [allocModule_fix h]
  · simp

@[simp] theorem refuseImage_fix (n id graph reason : Nat) (record signature : Bool) (s : State) :
    fixedPart (refuseImage n id graph reason record signature s) = fixedPart s := by
  unfold refuseImage
  simp

@[simp] theorem runImage_fix (n : Nat) (c : Cmd) (patch : Bool) (s : State) :
    fixedPart (runImage n c patch s) = fixedPart s := by
  unfold runImage
  simp only []
  (repeat' split) <;> simp

@[simp] theorem retryPatch_fix (graph : Nat) (s : State) : fixedPart (retryPatch graph s) = fixedPart s := by
  unfold retryPatch
  (repeat' split) <;> simp

@[simp] theorem execVersionFree_keeps (graph version : Nat) (s : State) : outKeeps s (execVersionFree graph version s) := by
  unfold execVersionFree
  simp

@[simp] theorem execPatchSlotTimeout_keeps (queue cmd : Nat) (s : State) :
    outKeeps s (execPatchSlotTimeout queue cmd s) := by
  unfold execPatchSlotTimeout
  (repeat' split) <;> simp

@[simp] theorem cmdStall_fix (n : Nat) (c : Cmd) (acc : Access) (m : MemCheck) (s : State) :
    fixedPart (cmdStall n c acc m s) = fixedPart s := by
  unfold cmdStall
  simp

@[simp] theorem markDispatched_fix (n id : Nat) (s : State) : fixedPart (markDispatched n id s) = fixedPart s := by
  unfold markDispatched
  simp

@[simp] theorem runNop_fix (n : Nat) (c : Cmd) (s : State) : fixedPart (runNop n c s) = fixedPart s := by
  unfold runNop
  simp

@[simp] theorem runLaunch_fix (n : Nat) (c : Cmd) (s : State) : fixedPart (runLaunch n c s) = fixedPart s := by
  unfold runLaunch
  simp only []
  (repeat' split) <;> simp

@[simp] theorem takeDescCore_fix (n core op k : Nat) (s : State) :
    fixedPart (takeDescCore n core op k s).2 = fixedPart s := by
  unfold takeDescCore
  (repeat' split) <;> simp

@[simp] theorem runDescriptor_fix (n : Nat) (c : Cmd) (s : State) : fixedPart (runDescriptor n c s) = fixedPart s := by
  unfold runDescriptor
  simp

@[simp] theorem runInlineWrite_fix (n : Nat) (c : Cmd) (s : State) : fixedPart (runInlineWrite n c s) = fixedPart s := by
  unfold runInlineWrite
  simp only []
  (repeat' split) <;> simp

@[simp] theorem readImage_fix (c : Cmd) (s : State) :
    fixedPart (readImage c s) = fixedPart s := by
  unfold readImage
  (repeat' split) <;> simp

@[simp] theorem runGraphLoad_fix (n : Nat) (c : Cmd) (s : State) : fixedPart (runGraphLoad n c s) = fixedPart s := by
  unfold runGraphLoad
  (repeat' split) <;> simp

@[simp] theorem runGraphPatch_fix (n : Nat) (c : Cmd) (s : State) : fixedPart (runGraphPatch n c s) = fixedPart s := by
  unfold runGraphPatch
  (repeat' split) <;> simp

@[simp] theorem runGraphUnload_fix (n : Nat) (c : Cmd) (s : State) : fixedPart (runGraphUnload n c s) = fixedPart s := by
  unfold runGraphUnload
  simp

@[simp] theorem scrubControl_fix (core : Nat) (s : State) :
    fixedPart (scrubControl core s) = fixedPart s := by
  unfold scrubControl
  simp

@[simp] theorem noteReady_fix (s : State) :
    fixedPart (noteReady s) = fixedPart s := by
  unfold noteReady
  simp

@[simp] theorem placeTask_fix (n : Nat) (c : Cmd) (core entry arg : Nat) (s : State) :
    fixedPart (placeTask n c core entry arg s) = fixedPart s := by
  unfold placeTask
  simp

@[simp] theorem runTask_fix (n : Nat) (c : Cmd) (s : State) : fixedPart (runTask n c s) = fixedPart s := by
  unfold runTask
  simp

@[simp] theorem runCmd_fix (n : Nat) (c : Cmd) (s : State) : fixedPart (runCmd n c s) = fixedPart s := by
  unfold runCmd
  simp

@[simp] theorem readObject_fix (va : Nat) (s : State) :
    fixedPart (readObject va s) = fixedPart s := by
  unfold readObject
  (repeat' split) <;> simp

@[simp] theorem holdCmd_fix (n : Nat) (c : Cmd) (v : BitVec 64) (s : State) :
    fixedPart (holdCmd n c v s) = fixedPart s := by
  unfold holdCmd
  (repeat' split) <;> simp

@[simp] theorem dispatchNext_fix (n : Nat) (s : State) : fixedPart (dispatchNext n s) = fixedPart s := by
  unfold dispatchNext
  (repeat' split) <;> simp

@[simp] theorem takeUp_keeps (op n : Nat) (s : State) : outKeeps s (takeUp op n s) := by
  unfold takeUp
  (repeat' split) <;> simp

@[simp] theorem execNop_keeps (queue : Nat) (s : State) : outKeeps s (execNop queue s) := by
  unfold execNop
  simp

@[simp] theorem execLaunch_keeps (queue : Nat) (s : State) : outKeeps s (execLaunch queue s) := by
  unfold execLaunch
  simp

@[simp] theorem execDescriptor_keeps (queue : Nat) (s : State) : outKeeps s (execDescriptor queue s) := by
  unfold execDescriptor
  simp

@[simp] theorem execInlineWrite_keeps (queue : Nat) (s : State) : outKeeps s (execInlineWrite queue s) := by
  unfold execInlineWrite
  simp

@[simp] theorem execGraphLoad_keeps (queue : Nat) (s : State) : outKeeps s (execGraphLoad queue s) := by
  unfold execGraphLoad
  simp

@[simp] theorem execGraphPatch_keeps (queue : Nat) (s : State) : outKeeps s (execGraphPatch queue s) := by
  unfold execGraphPatch
  simp

@[simp] theorem execGraphUnload_keeps (queue : Nat) (s : State) : outKeeps s (execGraphUnload queue s) := by
  unfold execGraphUnload
  simp

@[simp] theorem execTask_keeps (queue : Nat) (s : State) : outKeeps s (execTask queue s) := by
  unfold execTask
  simp

@[simp] theorem execCommandWaitMet_keeps (queue : Nat) (s : State) : outKeeps s (execCommandWaitMet queue s) := by
  unfold execCommandWaitMet
  (repeat' split) <;> simp

@[simp] theorem execHostPoll_keeps (s : State) : outKeeps s (execHostPoll s) := by
  unfold execHostPoll
  simp

@[simp] theorem execHitchTimeout_keeps (queue core : Option Nat) (s : State) :
    outKeeps s (execHitchTimeout queue core s) := by
  unfold execHitchTimeout
  (repeat' split) <;> simp

@[simp] theorem recordWrite_fix (n : Nat) (drop : Bool) (va : Nat) (bytes : List Byte) (s : State) :
    fixedPart (recordWrite n drop va bytes s) = fixedPart s := by
  unfold recordWrite
  (repeat' split) <;> simp

@[simp] theorem applySignal_fix (drop : Bool) (va : Nat) (store : Bool) (v : Nat) (s : State) :
    fixedPart (applySignal drop va store v s) = fixedPart s := by
  unfold applySignal
  (repeat' split) <;> simp

@[simp] theorem noteFlag_fix (c : Cmd) (s : State) :
    fixedPart (noteFlag c s) = fixedPart s := by
  unfold noteFlag
  (repeat' split) <;> simp

@[simp] theorem postCompletion_fix (n : Nat) (c : Cmd) (s : State) : fixedPart (postCompletion n c s) = fixedPart s := by
  unfold postCompletion
  (repeat' split) <;> simp

@[simp] theorem tryPost_fix (n : Nat) (c : Cmd) (s : State) :
    fixedPart (tryPost n c s).1 = fixedPart s := by
  unfold tryPost
  simp only []
  (repeat' split) <;> simp

@[simp] theorem completeCmd_fix (n : Nat) (c : Cmd) (s : State) : fixedPart (completeCmd n c s) = fixedPart s := by
  unfold completeCmd
  simp only []
  (repeat' split) <;> simp

@[simp] theorem releaseHeld_fix (fuel : Nat) (n : Nat) (s : State) : fixedPart (releaseHeld fuel n s) = fixedPart s := by
  induction fuel generalizing n s with
  | zero => rfl
  | succ k ih =>
    unfold releaseHeld
    try simp only []
    (repeat' split) <;> simp_all

@[simp] theorem serveHeld_fix (n : Nat) (s : State) :
    fixedPart (serveHeld n s) = fixedPart s := by
  unfold serveHeld
  (repeat' split) <;> simp

@[simp] theorem completeNative_fix (queue cmd : Nat) (s : State) : fixedPart (completeNative queue cmd s) = fixedPart s := by
  unfold completeNative
  (repeat' split) <;> simp

@[simp] theorem execCqHeadDoorbell_keeps (queue : Nat) (w : HostWrite) (s : State) :
    outKeeps s (execCqHeadDoorbell queue w s) := by
  unfold execCqHeadDoorbell
  (repeat' split) <;> simp

@[simp] theorem chargeDesc_fix (org : Origin) (s : State) :
    fixedPart (chargeDesc org s) = fixedPart s := by
  unfold chargeDesc
  (repeat' split) <;> simp

@[simp] theorem descriptorDone_fix (org : Origin) (w0 : Nat) (s : State) :
    fixedPart (descriptorDone org w0 s) = fixedPart s := by
  unfold descriptorDone
  (repeat' split) <;> simp

@[simp] theorem descriptorSilent_fix (org : Origin) (s : State) : fixedPart (descriptorSilent org s) = fixedPart s := by
  unfold descriptorSilent
  (repeat' split) <;> simp

theorem allocRings_fix {n : Nat} {s t : State} (h : allocRings n s = some t) : fixedPart t = fixedPart s := by
  unfold allocRings at h
  simp only [] at h
  split at h
  · split at h
    · rename_i h'; cases h; simp [allocModule_fix h']
    · cases h
  · cases h; rfl

@[simp] theorem placeRequest_fix (a : Admitted) (s : State) : fixedPart (placeRequest a s) = fixedPart s := by
  unfold placeRequest
  simp

@[simp] theorem placeWaiting_fix (n : Nat) (s : State) : fixedPart (placeWaiting n s) = fixedPart s := by
  unfold placeWaiting
  simp

@[simp] theorem startPersistent_fix (n : Nat) (s : State) : fixedPart (startPersistent n s) = fixedPart s := by
  unfold startPersistent
  simp

@[simp] theorem enableQueue_fix (n : Nat) (s : State) : fixedPart (enableQueue n s) = fixedPart s := by
  unfold enableQueue
  split
  · rfl
  · rename_i h; simp [allocRings_fix h]

@[simp] theorem queueEnableAction_fix (n : Nat) (x1 : ReqId) (bytes : List Byte) (s : State) :
    fixedPart (queueEnableAction n x1 bytes s) = fixedPart s := by
  unfold queueEnableAction
  simp

@[simp] theorem execQueueEnable_keeps (req : ReqId) (queue value : Nat) (s : State) :
    outKeeps s (execQueueEnable req queue value s) := by
  unfold execQueueEnable
  simp

@[simp] theorem queueOff_fix (n : Nat) (s : State) : fixedPart (queueOff n s) = fixedPart s := by
  unfold queueOff
  simp

@[simp] theorem setX_fix (core n : Nat) (v : BitVec 64) (s : State) : fixedPart (setX core n v s) = fixedPart s := by
  unfold setX
  simp

@[simp] theorem done4_keeps (core : Nat) (s t : State) : resKeeps s (done4 core t) = (fixedPart t = fixedPart s) := by
  simp [done4]

@[simp] theorem syncException_fix (core cause : Nat) (s : State) : fixedPart (syncException core cause s) = fixedPart s := by
  unfold syncException
  simp

@[simp] theorem retire_fix (core : Nat) (pc : BitVec 64) (s : State) : fixedPart (retire core pc s) = fixedPart s := by
  unfold retire
  simp

theorem applyRes_fix {s : State} {r : CoreRes} (core : Nat) (h : resKeeps s r) : fixedPart (applyRes core s r) = fixedPart s := by
  cases r <;> simp_all [applyRes]

theorem runInstr_fix {f : State → CoreRes} (h : ∀ s, resKeeps s (f s)) (core len : Nat) (s : State) :
    fixedPart (runInstr core len f s) = fixedPart s := by
  unfold runInstr
  simp only []
  split
  · rfl
  · split
    · simp
    · split
      · simp
      · simp [applyRes_fix core (h _)]

theorem inOrder_keeps {f : State → CoreRes} (h : ∀ s, resKeeps s (f s)) (core : Nat) (w : BitVec 32) (s : State) :
    resKeeps s (inOrder core w f s) := by
  unfold inOrder
  split
  · simp
  · exact h s

@[simp] theorem runCustom_keeps {f : State → CoreRes} (h : ∀ s, resKeeps s (f s)) (core : Nat) (word : BitVec 32) (is : Bool)
    (s : State) : outKeeps s (runCustom core word is f s) := by
  unfold runCustom
  (repeat' split) <;> simp [runInstr_fix (inOrder_keeps h core word)]

@[simp] theorem taskStore_fix (core : Nat) (ws : List (Nat × List Byte)) (s : State) :
    fixedPart (taskStore core ws s) = fixedPart s := by
  unfold taskStore
  simp

@[simp] theorem countConv_fix (l : List Conv) (s : State) : fixedPart (countConv l s) = fixedPart s := by
  unfold countConv
  simp

@[simp] theorem setV_fix (core n : Nat) (v : BitVec 4096) (s : State) : fixedPart (setV core n v s) = fixedPart s := by
  unfold setV
  simp

@[simp] theorem vDone_keeps (core : Nat) (s t : State) : resKeeps s (vDone core t) = (fixedPart t = fixedPart s) := by
  simp [vDone, done4]

@[simp] theorem vecSramWait_fix (core : Nat) (s : State) :
    fixedPart (vecSramWait core s) = fixedPart s := by
  unfold vecSramWait
  simp

@[simp] theorem viaQueue_keeps (core : Nat) (w : BitVec 32) (f : State → CoreRes) (s : State) (h : resKeeps s (f s)) :
    resKeeps s (viaQueue core w f s) := by
  unfold viaQueue
  simp only []
  (repeat' split) <;> simp_all

@[simp] theorem opVsetl_keeps (core : Nat) (w : BitVec 32) (s : State) : resKeeps s (opVsetl core w s) := by
  unfold opVsetl
  simp

@[simp] theorem execVsetl_keeps (core : Nat) (word : BitVec 32) (s : State) : outKeeps s (execVsetl core word s) := by
  unfold execVsetl
  simp

@[simp] theorem opVld_keeps (core : Nat) (w : BitVec 32) (s : State) : resKeeps s (opVld core w s) := by
  unfold opVld
  simp

@[simp] theorem execVld_keeps (core : Nat) (word : BitVec 32) (s : State) : outKeeps s (execVld core word s) := by
  unfold execVld
  simp

@[simp] theorem opVst_keeps (core : Nat) (w : BitVec 32) (s : State) : resKeeps s (opVst core w s) := by
  unfold opVst
  simp

@[simp] theorem execVst_keeps (core : Nat) (word : BitVec 32) (s : State) : outKeeps s (execVst core word s) := by
  unfold execVst
  simp

@[simp] theorem vop_keeps (core : Nat) (w : BitVec 32) (vx : Bool) (b : Nat → Nat) (s : State) :
    resKeeps s (vop core w vx b s) := by
  unfold vop
  simp

@[simp] theorem opVopVv_keeps (core : Nat) (w : BitVec 32) (s : State) : resKeeps s (opVopVv core w s) := by
  unfold opVopVv
  simp

@[simp] theorem execVopVv_keeps (core : Nat) (word : BitVec 32) (s : State) : outKeeps s (execVopVv core word s) := by
  unfold execVopVv
  simp

@[simp] theorem opVopVx_keeps (core : Nat) (w : BitVec 32) (s : State) : resKeeps s (opVopVx core w s) := by
  unfold opVopVx
  simp

@[simp] theorem execVopVx_keeps (core : Nat) (word : BitVec 32) (s : State) : outKeeps s (execVopVx core word s) := by
  unfold execVopVx
  simp

@[simp] theorem opVun_keeps (core : Nat) (w : BitVec 32) (s : State) : resKeeps s (opVun core w s) := by
  unfold opVun
  simp

@[simp] theorem execVun_keeps (core : Nat) (word : BitVec 32) (s : State) : outKeeps s (execVun core word s) := by
  unfold execVun
  simp

@[simp] theorem countTask_fix (core : Nat) (l : List Conv) (s : State) : fixedPart (countTask core l s) = fixedPart s := by
  unfold countTask
  simp

@[simp] theorem opVcvt_keeps (core : Nat) (w : BitVec 32) (s : State) : resKeeps s (opVcvt core w s) := by
  unfold opVcvt
  simp

@[simp] theorem execVcvt_keeps (core : Nat) (word : BitVec 32) (s : State) : outKeeps s (execVcvt core word s) := by
  unfold execVcvt
  simp

@[simp] theorem setSlot_fix (core n : Nat) (v : BitVec 64) (s : State) : fixedPart (setSlot core n v s) = fixedPart s := by
  unfold setSlot
  simp

@[simp] theorem opVred_keeps (core : Nat) (w : BitVec 32) (s : State) : resKeeps s (opVred core w s) := by
  unfold opVred
  simp

@[simp] theorem execVred_keeps (core : Nat) (word : BitVec 32) (s : State) : outKeeps s (execVred core word s) := by
  unfold execVred
  simp

@[simp] theorem offer_fix (core : Nat) (l : List (BitVec 32 × BitVec 32)) (s : State) :
    fixedPart (offer core l s) = fixedPart s := by
  unfold offer
  simp

@[simp] theorem opTopkSet_keeps (core : Nat) (w : BitVec 32) (s : State) : resKeeps s (opTopkSet core w s) := by
  unfold opTopkSet
  simp

@[simp] theorem execVtopkSet_keeps (core : Nat) (word : BitVec 32) (s : State) : outKeeps s (execVtopkSet core word s) := by
  unfold execVtopkSet
  simp

@[simp] theorem opTopkInsert_keeps (core : Nat) (w : BitVec 32) (s : State) : resKeeps s (opTopkInsert core w s) := by
  unfold opTopkInsert
  simp

@[simp] theorem execVtopkInsert_keeps (core : Nat) (word : BitVec 32) (s : State) :
    outKeeps s (execVtopkInsert core word s) := by
  unfold execVtopkInsert
  simp

@[simp] theorem opTopkStore_keeps (core : Nat) (w : BitVec 32) (s : State) : resKeeps s (opTopkStore core w s) := by
  unfold opTopkStore
  simp

@[simp] theorem execVtopkStore_keeps (core : Nat) (word : BitVec 32) (s : State) :
    outKeeps s (execVtopkStore core word s) := by
  unfold execVtopkStore
  simp

@[simp] theorem opTopkFloor_keeps (core : Nat) (w : BitVec 32) (s : State) : resKeeps s (opTopkFloor core w s) := by
  unfold opTopkFloor
  simp

@[simp] theorem execVtopkFloor_keeps (core : Nat) (word : BitVec 32) (s : State) :
    outKeeps s (execVtopkFloor core word s) := by
  unfold execVtopkFloor
  simp

@[simp] theorem vecOp_keeps (core : Nat) (w : BitVec 32) (s : State) : resKeeps s (vecOp core w s) := by
  unfold vecOp
  (repeat' split) <;> simp

@[simp] theorem opCustom0_keeps (core : Nat) (w : BitVec 32) (s : State) : resKeeps s (opCustom0 core w s) := by
  unfold opCustom0
  (repeat' split) <;> simp

theorem vecOp_fixed {core : Nat} {w : BitVec 32} {u : State} {r : CoreRes} (h : vecOp core w u = r) : resKeeps u r :=
  h ▸ vecOp_keeps core w u

@[simp] theorem runQueued_fix (core : Nat) (i : VqInstr) (s : State) :
    fixedPart (runQueued core i s) = fixedPart s := by
  unfold runQueued
  simp only [updCtl_fix, updVec_fix]
  split <;> rename_i h <;> have k := vecOp_fixed h <;> simp_all

@[simp] theorem drainVq_fix (fuel core : Nat) (s : State) : fixedPart (drainVq fuel core s) = fixedPart s := by
  induction fuel generalizing core s with
  | zero => rfl
  | succ k ih =>
    unfold drainVq
    (repeat' split) <;> simp_all

@[simp] theorem serveVq_fix (core : Nat) (s : State) :
    fixedPart (serveVq core s) = fixedPart s := by
  unfold serveVq
  simp

@[simp] theorem passDesc_fix (core : Nat) (d : Desc) (org : Origin) (s : State) :
    fixedPart (passDesc core d org s) = fixedPart s := by
  unfold passDesc
  simp

@[simp] theorem opEissue_keeps (core : Nat) (w : BitVec 32) (s : State) : resKeeps s (opEissue core w s) := by
  unfold opEissue
  simp

@[simp] theorem execEissue_keeps (core : Nat) (word : BitVec 32) (s : State) : outKeeps s (execEissue core word s) := by
  unfold execEissue
  simp

@[simp] theorem opEfence_keeps (core : Nat) (w : BitVec 32) (s : State) : resKeeps s (opEfence core w s) := by
  unfold opEfence
  simp

@[simp] theorem execEfence_keeps (core : Nat) (word : BitVec 32) (s : State) : outKeeps s (execEfence core word s) := by
  unfold execEfence
  simp

@[simp] theorem opSmrd_keeps (core : Nat) (w : BitVec 32) (s : State) : resKeeps s (opSmrd core w s) := by
  unfold opSmrd
  simp

@[simp] theorem execSmrd_keeps (core : Nat) (word : BitVec 32) (s : State) : outKeeps s (execSmrd core word s) := by
  unfold execSmrd
  simp

@[simp] theorem dropWait_fix (core : Nat) (s : State) : fixedPart (dropWait core s) = fixedPart s := by
  unfold dropWait
  simp

@[simp] theorem endWait_fix (core : Nat) (s : State) :
    fixedPart (endWait core s) = fixedPart s := by
  unfold endWait
  (repeat' split) <;> simp

@[simp] theorem putWait_fix (x : CoreWait) (s : State) : fixedPart (putWait x s) = fixedPart s := by
  unfold putWait
  simp

@[simp] theorem holdWait_fix (core : Nat) (w : BitVec 32) (addr : Nat) (isLocal : Bool) (v : BitVec 64) (s : State) :
    fixedPart (holdWait core w addr isLocal v s) = fixedPart s := by
  unfold holdWait
  (repeat' split) <;> simp

theorem resKeeps_of_eq {s t : State} {r : CoreRes} (h : resKeeps t r) (e : fixedPart t = fixedPart s) : resKeeps s r := by
  cases r <;> simp_all

theorem evalWait_keeps (core : Nat) (w : BitVec 32) (addr : Nat) (isLocal : Bool) (s : State) :
    resKeeps s (evalWait core w addr isLocal s) := by
  unfold evalWait
  simp

@[simp] theorem opHwait_keeps (core : Nat) (w : BitVec 32) (s : State) : resKeeps s (opHwait core w s) := by
  unfold opHwait
  extract_lets addr isLocal m
  split
  · simp
  · split
    · split
      · exact evalWait_keeps _ _ _ _ _
      · simp
    · split
      · exact resKeeps_of_eq (evalWait_keeps _ _ _ _ _) (by simp)
      · split <;> simp

@[simp] theorem execHwait_keeps (core : Nat) (word : BitVec 32) (s : State) : outKeeps s (execHwait core word s) := by
  unfold execHwait
  simp

@[simp] theorem deliver_fix (core : Nat) (org : Origin) (e : HeldEffect) (s : State) :
    fixedPart (deliver core org e s).1 = fixedPart s := by
  unfold deliver
  simp only []
  (repeat' split) <;> simp

@[simp] theorem deliverHeld_fix (fuel : Nat) (core : Nat) (s : State) : fixedPart (deliverHeld fuel core s) = fixedPart s := by
  induction fuel generalizing core s with
  | zero => rfl
  | succ k ih =>
    unfold deliverHeld
    try simp only []
    (repeat' split) <;> simp_all

@[simp] theorem flushEffects_fix (core : Nat) (s : State) : fixedPart (flushEffects core s) = fixedPart s := by
  unfold flushEffects
  simp

@[simp] theorem emitEffect_keeps (core : Nat) (e : HeldEffect) (s : State) : resKeeps s (emitEffect core e s) := by
  unfold emitEffect
  simp

@[simp] theorem opHsig_keeps (core : Nat) (w : BitVec 32) (s : State) : resKeeps s (opHsig core w s) := by
  unfold opHsig
  simp

@[simp] theorem execHsig_keeps (core : Nat) (word : BitVec 32) (s : State) : outKeeps s (execHsig core word s) := by
  unfold execHsig
  simp

@[simp] theorem opResolve_keeps (core : Nat) (w : BitVec 32) (s : State) : resKeeps s (opResolve core w s) := by
  unfold opResolve
  simp

@[simp] theorem execResolve_keeps (core : Nat) (word : BitVec 32) (s : State) : outKeeps s (execResolve core word s) := by
  unfold execResolve
  simp

@[simp] theorem opSfop_keeps (core : Nat) (w : BitVec 32) (s : State) : resKeeps s (opSfop core w s) := by
  unfold opSfop
  (repeat' split) <;> simp

@[simp] theorem execSfop_keeps (core : Nat) (word : BitVec 32) (s : State) : outKeeps s (execSfop core word s) := by
  unfold execSfop
  simp

@[simp] theorem freeCore_fix (core : Nat) (s : State) : fixedPart (freeCore core s) = fixedPart s := by
  unfold freeCore
  simp

@[simp] theorem chargeTask_fix (t : TaskRec) (s : State) : fixedPart (chargeTask t s) = fixedPart s := by
  unfold chargeTask
  simp

@[simp] theorem endTask_fix (core : Nat) (t : TaskRec) (code : BitVec 64) (s : State) :
    fixedPart (endTask core t code s) = fixedPart s := by
  unfold endTask
  (repeat' split) <;> simp

@[simp] theorem opTaskend_keeps (core : Nat) (w : BitVec 32) (s : State) : resKeeps s (opTaskend core w s) := by
  unfold opTaskend
  (repeat' split) <;> simp

@[simp] theorem execTaskend_keeps (core : Nat) (word : BitVec 32) (s : State) : outKeeps s (execTaskend core word s) := by
  unfold execTaskend
  simp

@[simp] theorem opCustom1_keeps (core : Nat) (w : BitVec 32) (s : State) : resKeeps s (opCustom1 core w s) := by
  unfold opCustom1
  (repeat' split) <;> simp

@[simp] theorem touchRow_fix (t : Desc) (row : Nat) (s : State) :
    fixedPart (touchRow t row s) = fixedPart s := by
  unfold touchRow
  (repeat' split) <;> simp

end Sys2Proof.Machine
end

