-- ==== Sys2Proof/Laws/KeepCores.lean ====
section
/-! SUPPORT. Arrays, sequences, memory, lookups and updates keep the fixed part: one lemma per definition. -/

namespace Sys2Proof.Machine

open Sys2Proof

@[simp] theorem storeRow_fix (t : Desc) (row version : Nat) (data : List Byte) (s : State) :
    fixedPart (storeRow t row version data s) = fixedPart s := by
  unfold storeRow
  simp

@[simp] theorem finishCopy_fix (c : CommittedRow) (t : Desc) (s : State) : fixedPart (finishCopy c t s) = fixedPart s := by
  unfold finishCopy
  simp

@[simp] theorem settleCopy_fix (id row : Nat) (t : Desc) (s : State) : fixedPart (settleCopy id row t s) = fixedPart s := by
  unfold settleCopy
  (repeat' split) <;> simp

@[simp] theorem cacheFill_fix (id row : Nat) (t : Desc) (s : State) : fixedPart (cacheFill id row t s) = fixedPart s := by
  unfold cacheFill
  simp

@[simp] theorem coldAccess_fix (id row spec : Nat) (t : Desc) (s : State) :
    fixedPart (coldAccess id row spec t s).2 = fixedPart s := by
  unfold coldAccess
  simp only []
  (repeat' split) <;> simp

theorem allocTable_fix {id : Nat} {d : Desc} {s t : State} {r : Nat × Nat × Nat} (h : allocTable id d s = some (r, t)) :
    fixedPart t = fixedPart s := by
  unfold allocTable at h
  simp only [] at h
  split at h
  · cases h; rfl
  · split at h
    · rename_i h'; cases h; exact allocIn_fix h'
    · cases h

@[simp] theorem awaitCold_fix (req : ReqId) (key : Nat) (bytes : List Byte) (s : State) :
    fixedPart (awaitCold req key bytes s) = fixedPart s := by
  unfold awaitCold
  simp

@[simp] theorem tableDefineAction_fix (req : ReqId) (bytes : List Byte) (s : State) :
    fixedPart (tableDefineAction req bytes s) = fixedPart s := by
  unfold tableDefineAction
  simp only []
  (repeat' split)
  all_goals first
    | (simp; done)
    | (rename_i h; simp [allocTable_fix h]; done)
    | (rename_i h _; simp [allocTable_fix h]; done)
    | (rename_i h; rw [endCmd_fix, measureBytes_fix]; split <;> simp [allocTable_fix h])
    | (rename_i h _; rw [endCmd_fix, measureBytes_fix]; exact allocTable_fix h)

@[simp] theorem execTableDefine_keeps (req : ReqId) (desc : Desc) (s : State) : outKeeps s (execTableDefine req desc s) := by
  unfold execTableDefine
  simp

@[simp] theorem tableDeleteAction_fix (x0 : ReqId) (bytes : List Byte) (s : State) :
    fixedPart (tableDeleteAction x0 bytes s) = fixedPart s := by
  unfold tableDeleteAction
  simp only []
  (repeat' split) <;> simp

@[simp] theorem execTableDelete_keeps (req : ReqId) (tableId : Nat) (s : State) :
    outKeeps s (execTableDelete req tableId s) := by
  unfold execTableDelete
  simp

@[simp] theorem updTransfer_fix (id : Nat) (f : Transfer → Transfer) (s : State) :
    fixedPart (updTransfer id f s) = fixedPart s := by
  unfold updTransfer
  simp

@[simp] theorem updMember_fix (id core : Nat) (f : Member → Member) (s : State) :
    fixedPart (updMember id core f s) = fixedPart s := by
  unfold updMember
  simp

@[simp] theorem setRingLoads_fix (id core n : Nat) (s : State) : fixedPart (setRingLoads id core n s) = fixedPart s := by
  unfold setRingLoads
  (repeat' split) <;> simp

@[simp] theorem purgeRings_fix (s : State) : fixedPart (purgeRings s) = fixedPart s := by
  unfold purgeRings
  simp

@[simp] theorem flushDetach_fix (id : Nat) (s : State) : fixedPart (flushDetach id s) = fixedPart s := by
  unfold flushDetach
  (repeat' split) <;> simp

@[simp] theorem detachMember_fix (id core : Nat) (s : State) : fixedPart (detachMember id core s) = fixedPart s := by
  unfold detachMember
  (repeat' split) <;> simp

@[simp] theorem rewindRing_fix (id core f : Nat) (s : State) : fixedPart (rewindRing id core f s) = fixedPart s := by
  unfold rewindRing
  (repeat' split) <;> simp

@[simp] theorem clearEntries_fix (core accBase m mask : Nat) (s : State) :
    fixedPart (clearEntries core accBase m mask s) = fixedPart s := by
  unfold clearEntries
  simp

@[simp] theorem addToChain_fix (core : Nat) (d : Desc) (org : Origin) (s : State) :
    fixedPart (addToChain core d org s) = fixedPart s := by
  unfold addToChain
  simp

@[simp] theorem execMatmul_keeps (core : Nat) (desc : Desc) (org : Origin) (s : State) :
    outKeeps s (execMatmul core desc org s) := by
  unfold execMatmul
  simp

@[simp] theorem updEntry_fix (core num : Nat) (f : Chain → Chain) (g : TileEntry → TileEntry) (s : State) :
    fixedPart (updEntry core num f g s) = fixedPart s := by
  unfold updEntry
  simp

theorem loadTile_fix {core : Nat} {e : TileEntry} {s t : State} {b : List (List Byte)} (h : loadTile core e s = some (b, t)) :
    fixedPart t = fixedPart s := by
  unfold loadTile at h
  simp only [] at h
  split at h
  · cases h; rfl
  · split at h
    · cases h; rfl
    · split at h
      · cases h
      · cases h; simp

@[simp] theorem stashShadow_fix (core : Nat) (s : State) : fixedPart (stashShadow core s) = fixedPart s := by
  unfold stashShadow
  simp only []
  (repeat' split) <;> simp

@[simp] theorem prefetchTile_fix (core start : Nat) (s : State) : fixedPart (prefetchTile core start s) = fixedPart s := by
  unfold prefetchTile
  split
  · simp
  · split
    · simp
    · split
      · simp
      · rename_i h; simp [loadTile_fix h]

@[simp] theorem streamTile_fix (core : Nat) (c : Chain) (e : TileEntry) (blocks : List (List Byte)) (shadowed : Bool) (s : State) :
    fixedPart (streamTile core c e blocks shadowed s) = fixedPart s := by
  unfold streamTile
  simp

@[simp] theorem execTileStream_keeps (core : Nat) (s : State) : outKeeps s (execTileStream core s) := by
  unfold execTileStream
  split
  · simp
  · extract_lets x
    clear_value x
    split
    · simp
    · split
      · simp
      · split
        · simp
        · split
          · simp
          · split
            · simp
            · rename_i h
              simp
              split <;> simp [loadTile_fix h]

@[simp] theorem releaseChain_fix (core : Nat) (c : Chain) (s : State) : fixedPart (releaseChain core c s) = fixedPart s := by
  unfold releaseChain
  simp

@[simp] theorem drainChain_fix (core : Nat) (c : Chain) (d : Desc) (s : State) :
    fixedPart (drainChain core c d s) = fixedPart s := by
  unfold drainChain
  simp

@[simp] theorem execChainDrain_keeps (core accBase : Nat) (s : State) : outKeeps s (execChainDrain core accBase s) := by
  unfold execChainDrain
  (repeat' split) <;> simp

@[simp] theorem replayChain_fix (core : Nat) (c : Chain) (s : State) : fixedPart (replayChain core c s) = fixedPart s := by
  unfold replayChain
  (repeat' split) <;> simp

@[simp] theorem execChainReplay_keeps (core accBase : Nat) (s : State) : outKeeps s (execChainReplay core accBase s) := by
  unfold execChainReplay
  (repeat' split) <;> simp

@[simp] theorem execTilePreempt_keeps (core : Nat) (s : State) : outKeeps s (execTilePreempt core s) := by
  unfold execTilePreempt
  (repeat' split) <;> simp

@[simp] theorem dropChains_fix (core : Nat) (p : Chain → Bool) (s : State) :
    fixedPart (dropChains core p s) = fixedPart s := by
  unfold dropChains
  simp

@[simp] theorem updSession_fix (context id : Nat) (f : Session → Session) (s : State) :
    fixedPart (updSession context id f s) = fixedPart s := by
  unfold updSession
  simp

@[simp] theorem countPass_fix (t : PassTally) (s : State) :
    fixedPart (countPass t s) = fixedPart s := by
  unfold countPass
  simp

@[simp] theorem putQuery_fix (q : FoldQuery) (s : State) :
    fixedPart (putQuery q s) = fixedPart s := by
  unfold putQuery
  simp

@[simp] theorem noteQuery_fix (spec : Nat) (q : Option FoldQuery) (s : State) :
    fixedPart (noteQuery spec q s) = fixedPart s := by
  unfold noteQuery
  (repeat' split) <;> simp

@[simp] theorem startSummary_fix (core : Nat) (d : Desc) (org : Origin) (s : State) :
    fixedPart (startSummary core d org s) = fixedPart s := by
  unfold startSummary
  simp
  split <;> simp
  all_goals split <;> simp

@[simp] theorem execSeqSummary_keeps (core : Nat) (desc : Desc) (org : Origin) (s : State) :
    outKeeps s (execSeqSummary core desc org s) := by
  unfold execSeqSummary
  simp

@[simp] theorem updSummary_fix (id : Nat) (f : SummaryJob → SummaryJob) (s : State) :
    fixedPart (updSummary id f s) = fixedPart s := by
  unfold updSummary
  simp

@[simp] theorem fetchPlanes_fix (core tag : Nat) (x : Option Session) (ps : List Piece) (s : State) :
    fixedPart (fetchPlanes core tag x ps s) = fixedPart s := by
  unfold fetchPlanes
  (repeat' split) <;> simp

@[simp] theorem execSegmentPass_keeps (summary segment : Nat) (s : State) :
    outKeeps s (execSegmentPass summary segment s) := by
  unfold execSegmentPass
  (repeat' split) <;> simp

@[simp] theorem execSummaryMerge_keeps (summary : Nat) (s : State) : outKeeps s (execSummaryMerge summary s) := by
  unfold execSummaryMerge
  (repeat' split) <;> simp

@[simp] theorem dropSummaries_fix (p : SummaryJob → Bool) (s : State) : fixedPart (dropSummaries p s) = fixedPart s := by
  unfold dropSummaries
  simp

@[simp] theorem updAppend_fix (launch : Nat) (f : AppendJob → AppendJob) (s : State) :
    fixedPart (updAppend launch f s) = fixedPart s := by
  unfold updAppend
  simp

@[simp] theorem writeEvents_fix (x : Session) (n : Nat) (l : List (BitVec 128)) (s : State) :
    fixedPart (writeEvents x n l s) = fixedPart s := by
  induction l generalizing n s with
  | nil => rfl
  | cons e t ih => simp [writeEvents, ih]

@[simp] theorem writeChunks_fix (fuel : Nat) (launch : Nat) (s : State) : fixedPart (writeChunks fuel launch s) = fixedPart s := by
  induction fuel generalizing launch s with
  | zero => rfl
  | succ k ih =>
    unfold writeChunks
    try simp only []
    (repeat' split) <;> simp_all

@[simp] theorem startEncoder_fix (launch : Nat) (s : State) : fixedPart (startEncoder launch s) = fixedPart s := by
  unfold startEncoder
  (repeat' split) <;> simp

@[simp] theorem setAppended_fix (context session n : Nat) (s : State) :
    fixedPart (setAppended context session n s) = fixedPart s := by
  unfold setAppended
  simp

@[simp] theorem storeAppended_fix (launch : Nat) (a : AppendJob) (s : State) :
    fixedPart (storeAppended launch a s) = fixedPart s := by
  unfold storeAppended
  simp only []
  (repeat' split) <;> simp

@[simp] theorem advanceAppend_fix (launch : Nat) (s : State) : fixedPart (advanceAppend launch s) = fixedPart s := by
  unfold advanceAppend
  simp only []
  (repeat' split) <;> simp

@[simp] theorem execAppendStage_keeps (launch stage : Nat) (s : State) : outKeeps s (execAppendStage launch stage s) := by
  unfold execAppendStage
  (repeat' split) <;> simp

@[simp] theorem execAppendChunkWait_keeps (launch : Nat) (s : State) : outKeeps s (execAppendChunkWait launch s) := by
  unfold execAppendChunkWait
  simp

@[simp] theorem freePlanes_fix (x : Session) (events : Nat) (s : State) :
    fixedPart (freePlanes x events s) = fixedPart s := by
  unfold freePlanes
  simp

theorem serveJoin_fix {p : PendingJoin} {s t : State} (h : serveJoin p s = some t) : fixedPart t = fixedPart s := by
  unfold serveJoin at h
  simp only [] at h
  split at h
  · cases h; rfl
  · split at h
    · cases h
    · cases h; simp

@[simp] theorem deferJoin_fix (s : State) :
    fixedPart (deferJoin s) = fixedPart s := by
  unfold deferJoin
  simp

@[simp] theorem serveJoins_fix (n : Nat) (l : List PendingJoin) (s : State) : fixedPart (serveJoins n l s) = fixedPart s := by
  induction l generalizing n s with
  | nil => rfl
  | cons p t ih =>
    unfold serveJoins
    split
    · rename_i h
      split at h
      · cases h
      · simp [ih, serveJoin_fix h]
    · simp

@[simp] theorem foldBlock_fix (x : Session) (b : Nat) (s : State) : fixedPart (foldBlock x b s) = fixedPart s := by
  unfold foldBlock
  (repeat' split) <;> simp

@[simp] theorem foldSome_fix (leaving : List Session) (s : State) :
    fixedPart (foldSome leaving s) = fixedPart s := by
  unfold foldSome
  simp

@[simp] theorem execSessionStep_keeps (s : State) : outKeeps s (execSessionStep s) := by
  unfold execSessionStep
  simp

@[simp] theorem sessionCloseAction_fix (x0 : ReqId) (bytes : List Byte) (s : State) :
    fixedPart (sessionCloseAction x0 bytes s) = fixedPart s := by
  unfold sessionCloseAction
  simp

@[simp] theorem execSessionClose_keeps (req : ReqId) (session : BitVec 64) (s : State) :
    outKeeps s (execSessionClose req session s) := by
  unfold execSessionClose
  simp

@[simp] theorem dropRowErrors_fix (mpa : Nat) (s : State) : fixedPart (dropRowErrors mpa s) = fixedPart s := by
  unfold dropRowErrors
  simp

@[simp] theorem raiseRow_fix (mpa : Nat) (s : State) : fixedPart (raiseRow mpa s) = fixedPart s := by
  unfold raiseRow
  simp

@[simp] theorem memEvent_fix (kind source row mpa remaps symbols ce : Nat) (page : Option Nat) (s : State) :
    fixedPart (memEvent kind source row mpa remaps symbols ce page s) = fixedPart s := by
  unfold memEvent
  simp

@[simp] theorem zeroRow_fix (mpa : Nat) (s : State) : fixedPart (zeroRow mpa s) = fixedPart s := by
  unfold zeroRow
  simp

@[simp] theorem journalRow_fix (mpa : Nat) (s : State) :
    fixedPart (journalRow mpa s) = fixedPart s := by
  unfold journalRow
  simp

@[simp] theorem remapRow_fix (mpa source counter_ : Nat) (s : State) :
    fixedPart (remapRow mpa source counter_ s) = fixedPart s := by
  unfold remapRow
  simp

@[simp] theorem damageVersion_fix (page : Nat) (s : State) : fixedPart (damageVersion page s) = fixedPart s := by
  unfold damageVersion
  (repeat' split) <;> simp

@[simp] theorem losePage_fix (page : Nat) (s : State) : fixedPart (losePage page s) = fixedPart s := by
  unfold losePage
  (repeat' split) <;> simp

@[simp] theorem keepFor_fix (mpa f : Nat) (s : State) :
    fixedPart (keepFor mpa f s) = fixedPart s := by
  unfold keepFor
  (repeat' split) <;> simp

@[simp] theorem retireFrame_fix (r f : Nat) (s : State) :
    fixedPart (retireFrame r f s) = fixedPart s := by
  unfold retireFrame
  split
  · rfl
  · simp only []
    generalize hu : count Cnt.framesRetired 1 _ = u
    have hu : fixedPart u = fixedPart s := by rw [← hu]; simp
    split
    · simp [hu]
    · split
      · split
        · rename_i h; simp [takeFrame_fix h, hu]
        · simp [hu]
      · split <;> simp [hu]

@[simp] theorem retireRow_fix (mpa source : Nat) (s : State) : fixedPart (retireRow mpa source s) = fixedPart s := by
  unfold retireRow
  simp

@[simp] theorem dropAsk_fix (mpa : Nat) (s : State) :
    fixedPart (dropAsk mpa s) = fixedPart s := by
  unfold dropAsk
  (repeat' split) <;> simp

@[simp] theorem settleRow_fix (mpa source : Nat) (s : State) : fixedPart (settleRow mpa source s) = fixedPart s := by
  unfold settleRow
  simp

@[simp] theorem settleRows_fix (s : State) : fixedPart (settleRows s) = fixedPart s := by
  unfold settleRows
  simp

@[simp] theorem failRow_fix (mpa source record code : Nat) (s : State) :
    fixedPart (failRow mpa source record code s) = fixedPart s := by
  unfold failRow
  simp

@[simp] theorem askRemap_fix (source mpa : Nat) (ue : Bool) (s : State) :
    fixedPart (askRemap source mpa ue s) = fixedPart s := by
  unfold askRemap
  simp

@[simp] theorem correctedError_fix (source mpa symbols : Nat) (s : State) :
    fixedPart (correctedError source mpa symbols s) = fixedPart s := by
  unfold correctedError
  simp

@[simp] theorem uncorrectableError_fix (source mpa : Nat) (s : State) :
    fixedPart (uncorrectableError source mpa s) = fixedPart s := by
  unfold uncorrectableError
  simp

@[simp] theorem codewordRead_fix (source mpa symbols : Nat) (s : State) :
    fixedPart (codewordRead source mpa symbols s).2 = fixedPart s := by
  unfold codewordRead
  simp only []
  (repeat' split) <;> simp

@[simp] theorem codewordsRead_fix (source : Nat) (at_ : Nat → Option Nat) (errors : List (Nat × Nat)) (s : State) :
    fixedPart (codewordsRead source at_ errors s).2 = fixedPart s := by
  unfold codewordsRead
  refine fixedPart_foldl_snd _ _ (fun p a => ?_) _
  split <;> simp

@[simp] theorem codewordsAt_fix (source : Nat) (va : Nat → Option Nat) (errors : List (Nat × Nat)) (s : State) :
    fixedPart (codewordsAt source va errors s).2 = fixedPart s := by
  unfold codewordsAt
  refine fixedPart_foldl_snd _ _ (fun p a => ?_) _
  split
  · rfl
  · dsimp only
    split <;> simp

@[simp] theorem noteScrubLate_fix (cold : Bool) (s : State) : fixedPart (noteScrubLate cold s) = fixedPart s := by
  unfold noteScrubLate
  simp

@[simp] theorem scrubAdvance_fix (cold : Bool) (s : State) : fixedPart (scrubAdvance cold s) = fixedPart s := by
  unfold scrubAdvance
  simp

@[simp] theorem execPatrolScrub_keeps (cold : Bool) (symbols : Nat) (s : State) :
    outKeeps s (execPatrolScrub cold symbols s) := by
  unfold execPatrolScrub
  simp

@[simp] theorem remapOnline_fix (d : RowAsk) (errors : CodewordErrors) (s : State) :
    fixedPart (remapOnline d errors s) = fixedPart s := by
  unfold remapOnline
  (repeat' split) <;> simp

@[simp] theorem execRowRemap_keeps (copy : RowCopy) (s : State) : outKeeps s (execRowRemap copy s) := by
  unfold execRowRemap
  simp only []
  split
  · simp
  · split <;> simp

@[simp] theorem finishRemaps_fix (s : State) :
    fixedPart (finishRemaps s) = fixedPart s := by
  unfold finishRemaps
  simp

@[simp] theorem repairEvent_fix (kind : Nat) (e : JournalEntry) (s : State) :
    fixedPart (repairEvent kind e s) = fixedPart s := by
  unfold repairEvent
  (repeat' split) <;> simp

@[simp] theorem repairDone_fix (i : Nat) (e : JournalEntry) (s : State) : fixedPart (repairDone i e s) = fixedPart s := by
  unfold repairDone
  simp

@[simp] theorem repairFailed_fix (i : Nat) (e : JournalEntry) (s : State) :
    fixedPart (repairFailed i e s) = fixedPart s := by
  unfold repairFailed
  simp

@[simp] theorem fuseRow_fix (i : Nat) (e : JournalEntry) (fuel n : Nat) (s : State) :
    fixedPart (fuseRow i e fuel n s) = fixedPart s := by
  induction fuel generalizing n s with
  | zero => simp [fuseRow]
  | succ k ih =>
    unfold fuseRow
    simp only []
    split <;> simp [ih]

@[simp] theorem repairEntry_fix (i : Nat) (s : State) : fixedPart (repairEntry i s) = fixedPart s := by
  unfold repairEntry
  (repeat' split) <;> simp

@[simp] theorem repairRunAction_fix (x0 : ReqId) (x1 : List Byte) (s : State) :
    fixedPart (repairRunAction x0 x1 s) = fixedPart s := by
  unfold repairRunAction
  simp

@[simp] theorem execRepairRun_keeps (req : ReqId) (value : Nat) (s : State) : outKeeps s (execRepairRun req value s) := by
  unfold execRepairRun
  simp

@[simp] theorem repairAddAction_fix (x0 : ReqId) (bytes : List Byte) (s : State) :
    fixedPart (repairAddAction x0 bytes s) = fixedPart s := by
  unfold repairAddAction
  simp only []
  (repeat' split) <;> simp

@[simp] theorem execRepairAdd_keeps (req : ReqId) (entry : BitVec 128) (s : State) :
    outKeeps s (execRepairAdd req entry s) := by
  unfold execRepairAdd
  simp

@[simp] theorem testPortRawAction_fix (x0 : ReqId) (x1 : List Byte) (s : State) :
    fixedPart (testPortRawAction x0 x1 s) = fixedPart s := by
  unfold testPortRawAction
  simp

@[simp] theorem execTestPortRaw_keeps (req : ReqId) (value : BitVec 512) (s : State) :
    outKeeps s (execTestPortRaw req value s) := by
  unfold execTestPortRaw
  simp

@[simp] theorem updLookup_fix (id : Nat) (f : LookupJob → LookupJob) (s : State) :
    fixedPart (updLookup id f s) = fixedPart s := by
  unfold updLookup
  simp

@[simp] theorem splitEntry_fix (d shape : Desc) (j : LookupJob) (e : Nat × Nat × Nat) (s : State) :
    fixedPart (splitEntry d shape j e s).2 = fixedPart s := by
  unfold splitEntry
  simp only []
  (repeat' split) <;> simp

@[simp] theorem recordRemote_fix (j : LookupJob) (k st : Nat) (s : State) :
    fixedPart (recordRemote j k st s) = fixedPart s := by
  unfold recordRemote
  (repeat' split) <;> simp

@[simp] theorem sendGroup_fix (id k : Nat) (s : State) : fixedPart (sendGroup id k s) = fixedPart s := by
  unfold sendGroup
  (repeat' split) <;> simp

@[simp] theorem sendGroups_fix (id : Nat) (s : State) : fixedPart (sendGroups id s) = fixedPart s := by
  unfold sendGroups
  split
  · rfl
  · refine fixedPart_foldl _ _ (fun s k => ?_) s
    split <;> simp

@[simp] theorem startLookup_fix (core : Nat) (d : Desc) (org : Origin) (shape : Desc) (s : State) :
    fixedPart (startLookup core d org shape s) = fixedPart s := by
  unfold startLookup
  simp

@[simp] theorem execLookup_keeps (core : Nat) (desc : Desc) (org : Origin) (s : State) :
    outKeeps s (execLookup core desc org s) := by
  unfold execLookup
  (repeat' split) <;> simp

@[simp] theorem retryEntry_fix (j : LookupJob) (e : LookupEntry) (s : State) :
    fixedPart (retryEntry j e s) = fixedPart s := by
  unfold retryEntry
  simp

@[simp] theorem readEntry_fix (j : LookupJob) (e : LookupEntry) (t : Desc) (s : State) :
    fixedPart (readEntry j e t s).2 = fixedPart s := by
  unfold readEntry
  (repeat' split) <;> simp

@[simp] theorem poolEntry_fix (j : LookupJob) (e : LookupEntry) (t : Desc) (r : RowData) (torn miss : Bool) (s : State) :
    fixedPart (poolEntry j e t r torn miss s) = fixedPart s := by
  unfold poolEntry
  simp

@[simp] theorem serveEntry_fix (j : LookupJob) (e : LookupEntry) (t : Desc) (s : State) :
    fixedPart (serveEntry j e t s) = fixedPart s := by
  unfold serveEntry
  simp

@[simp] theorem execLaneServe_keeps (lookup : Nat) (lane : LaneRead) (s : State) :
    outKeeps s (execLaneServe lookup lane s) := by
  unfold execLaneServe
  (repeat' split) <;> simp

@[simp] theorem execStackReduce_keeps (lookup stack : Nat) (s : State) : outKeeps s (execStackReduce lookup stack s) := by
  unfold execStackReduce
  (repeat' split) <;> simp

@[simp] theorem lookupSignal_fix (j : LookupJob) (off : Nat) (bytes : List Byte) (s : State) :
    fixedPart (lookupSignal j off bytes s) = fixedPart s := by
  unfold lookupSignal
  (repeat' split) <;> simp

@[simp] theorem endLookup_fix (id : Nat) (s : State) : fixedPart (endLookup id s) = fixedPart s := by
  unfold endLookup
  (repeat' split) <;> simp

@[simp] theorem releaseBags_fix (fuel : Nat) (id : Nat) (s : State) : fixedPart (releaseBags fuel id s) = fixedPart s := by
  induction fuel generalizing id s with
  | zero => rfl
  | succ k ih =>
    unfold releaseBags
    try simp only []
    (repeat' split) <;> simp_all

@[simp] theorem writeBag_fix (j : LookupJob) (bag draw : Nat) (t : Desc) (s : State) :
    fixedPart (writeBag j bag draw t s) = fixedPart s := by
  unfold writeBag
  simp only []
  (repeat' split) <;> simp

@[simp] theorem answerBag_fix (j : LookupJob) (peer seq bag draw : Nat) (s : State) :
    fixedPart (answerBag j peer seq bag draw s) = fixedPart s := by
  unfold answerBag
  simp

@[simp] theorem execBagCombine_keeps (lookup bag : Nat) (s : State) : outKeeps s (execBagCombine lookup bag s) := by
  unfold execBagCombine
  (repeat' split) <;> simp

@[simp] theorem settleGroup98_fix (id k : Nat) (timeout : Bool) (s : State) :
    fixedPart (settleGroup98 id k timeout s) = fixedPart s := by
  unfold settleGroup98
  (repeat' split) <;> simp

@[simp] theorem execRemoteTimeout_keeps (lookup owner : Nat) (s : State) : outKeeps s (execRemoteTimeout lookup owner s) := by
  unfold execRemoteTimeout
  split
  · simp
  · refine fixedPart_foldl _ _ (fun s k => ?_) s
    split
    · split <;> simp
    · rfl

@[simp] theorem lookupAnswer_fix (id k o1 : Nat) (body : List Byte) (s : State) :
    fixedPart (lookupAnswer id k o1 body s) = fixedPart s := by
  unfold lookupAnswer
  (repeat' split) <;> simp

@[simp] theorem updWrite_fix (id : Nat) (f : WriteJob → WriteJob) (s : State) :
    fixedPart (updWrite id f s) = fixedPart s := by
  unfold updWrite
  simp

@[simp] theorem updBatch_fix (n : Nat) (f : Batch → Batch) (s : State) : fixedPart (updBatch n f s) = fixedPart s := by
  unfold updBatch
  simp

@[simp] theorem endWrite_fix (id : Nat) (s : State) : fixedPart (endWrite id s) = fixedPart s := by
  unfold endWrite
  (repeat' split) <;> simp

@[simp] theorem endWriteWith_fix (id st reason : Nat) (s : State) :
    fixedPart (endWriteWith id st reason s) = fixedPart s := by
  unfold endWriteWith
  simp

@[simp] theorem settleWrite_fix (id : Nat) (s : State) : fixedPart (settleWrite id s) = fixedPart s := by
  unfold settleWrite
  (repeat' split) <;> simp

@[simp] theorem joinBatch_fix (j : WriteJob) (s : State) :
    fixedPart (joinBatch j s) = fixedPart s := by
  unfold joinBatch
  simp

@[simp] theorem sendRow_fix (d t : Desc) (i : Nat) (j : WriteJob) (s : State) :
    fixedPart (sendRow d t i j s).2 = fixedPart s := by
  unfold sendRow
  simp only []
  split <;> simp

@[simp] theorem sendRemoteRows_fix (id : Nat) (d t : Desc) (s : State) :
    fixedPart (sendRemoteRows id d t s) = fixedPart s := by
  unfold sendRemoteRows
  simp

@[simp] theorem startRowWrite_fix (j : WriteJob) (t : Desc) (s : State) : fixedPart (startRowWrite j t s) = fixedPart s := by
  unfold startRowWrite
  simp

@[simp] theorem startOpen_fix (j : WriteJob) (s : State) : fixedPart (startOpen j s) = fixedPart s := by
  unfold startOpen
  simp

@[simp] theorem startCommit_fix (j : WriteJob) (s : State) : fixedPart (startCommit j s) = fixedPart s := by
  unfold startCommit
  simp

@[simp] theorem dropStaged_fix (batch : Nat) (s : State) : fixedPart (dropStaged batch s) = fixedPart s := by
  unfold dropStaged
  simp

@[simp] theorem startAbort_fix (j : WriteJob) (s : State) : fixedPart (startAbort j s) = fixedPart s := by
  unfold startAbort
  simp

@[simp] theorem startWrite_fix (id : Nat) (s : State) : fixedPart (startWrite id s) = fixedPart s := by
  unfold startWrite
  simp only []
  (repeat' split) <;> simp

@[simp] theorem pushWrite_fix (core : Nat) (d : Desc) (org : Origin) (s : State) :
    fixedPart (pushWrite core d org s) = fixedPart s := by
  unfold pushWrite
  (repeat' split) <;> simp

@[simp] theorem takeWrite_keeps (op core : Nat) (d : Desc) (org : Origin) (s : State) :
    outKeeps s (takeWrite op core d org s) := by
  unfold takeWrite
  simp only []
  (repeat' split) <;> simp

@[simp] theorem execRowWrite_keeps (core : Nat) (desc : Desc) (org : Origin) (s : State) :
    outKeeps s (execRowWrite core desc org s) := by
  unfold execRowWrite
  simp

@[simp] theorem execBatchOpen_keeps (core : Nat) (desc : Desc) (org : Origin) (s : State) :
    outKeeps s (execBatchOpen core desc org s) := by
  unfold execBatchOpen
  simp

@[simp] theorem execBatchCommit_keeps (core : Nat) (desc : Desc) (org : Origin) (s : State) :
    outKeeps s (execBatchCommit core desc org s) := by
  unfold execBatchCommit
  simp

@[simp] theorem execBatchAbort_keeps (core : Nat) (desc : Desc) (org : Origin) (s : State) :
    outKeeps s (execBatchAbort core desc org s) := by
  unfold execBatchAbort
  simp

@[simp] theorem storeChunk_fix (t : Desc) (row i word : Nat) (data : List Byte) (s : State) :
    fixedPart (storeChunk t row i word data s) = fixedPart s := by
  unfold storeChunk
  simp

@[simp] theorem rowDone_fix (id : Nat) (r : RowJob) (f : WriteJob → WriteJob) (s : State) :
    fixedPart (rowDone id r f s) = fixedPart s := by
  unfold rowDone
  simp

@[simp] theorem execImmediateWriteChunk_keeps (write lane : Nat) (s : State) :
    outKeeps s (execImmediateWriteChunk write lane s) := by
  unfold execImmediateWriteChunk
  (repeat' split) <;> simp

theorem stageRow_fix {batch table row lane : Nat} {d : Desc} {data : List Byte} {s t : State}
    (h : stageRow batch table row lane d data s = some t) : fixedPart t = fixedPart s := by
  unfold stageRow at h
  simp only [] at h
  split at h
  · cases h; simp
  · split at h
    · cases h; simp
    · cases h

@[simp] theorem deferRow_fix (id : Nat) (r : RowJob) (s : State) :
    fixedPart (deferRow id r s) = fixedPart s := by
  unfold deferRow
  simp

@[simp] theorem stageAt_fix (j : WriteJob) (r : RowJob) (s : State) : fixedPart (stageAt j r s) = fixedPart s := by
  unfold stageAt
  (repeat' split)
  all_goals first
    | (simp; done)
    | (rename_i h; simp [stageRow_fix h])

@[simp] theorem execRowStage_keeps (write lane : Nat) (s : State) : outKeeps s (execRowStage write lane s) := by
  unfold execRowStage
  (repeat' split) <;> simp

@[simp] theorem execDeferredRowRetry_keeps (write lane : Nat) (s : State) :
    outKeeps s (execDeferredRowRetry write lane s) := by
  unfold execDeferredRowRetry
  (repeat' split) <;> simp

@[simp] theorem execDeferLimitExpiry_keeps (write : Nat) (s : State) : outKeeps s (execDeferLimitExpiry write s) := by
  unfold execDeferLimitExpiry
  (repeat' split) <;> simp

@[simp] theorem freePreimages_fix (epoch : Nat) (s : State) : fixedPart (freePreimages epoch s) = fixedPart s := by
  unfold freePreimages
  simp

@[simp] theorem publishRow_fix (r : StagedRow) (s : State) : fixedPart (publishRow r s) = fixedPart s := by
  unfold publishRow
  (repeat' split) <;> simp

@[simp] theorem publishBatch_fix (batch : Nat) (s : State) : fixedPart (publishBatch batch s) = fixedPart s := by
  unfold publishBatch
  simp

@[simp] theorem closeBatch_fix (n : Nat) (s : State) : fixedPart (closeBatch n s) = fixedPart s := by
  unfold closeBatch
  simp

@[simp] theorem settleCommit_fix (id : Nat) (s : State) : fixedPart (settleCommit id s) = fixedPart s := by
  unfold settleCommit
  (repeat' split) <;> simp

@[simp] theorem execBatchCommitProper_keeps (write : Nat) (s : State) : outKeeps s (execBatchCommitProper write s) := by
  unfold execBatchCommitProper
  (repeat' split) <;> simp

@[simp] theorem execCommitWaitTimeout_keeps (write : Nat) (s : State) : outKeeps s (execCommitWaitTimeout write s) := by
  unfold execCommitWaitTimeout
  (repeat' split) <;> simp

@[simp] theorem ownerCommitted_fix (id owner st reason : Nat) (s : State) :
    fixedPart (ownerCommitted id owner st reason s) = fixedPart s := by
  unfold ownerCommitted
  simp

@[simp] theorem execRemoteCommitTimeout_keeps (write owner : Nat) (s : State) :
    outKeeps s (execRemoteCommitTimeout write owner s) := by
  unfold execRemoteCommitTimeout
  (repeat' split) <;> simp

@[simp] theorem remoteRowDone_fix (id owner st index : Nat) (s : State) :
    fixedPart (remoteRowDone id owner st index s) = fixedPart s := by
  unfold remoteRowDone
  (repeat' split) <;> simp

@[simp] theorem execBackgroundCopy_keeps (lane : Nat) (s : State) : outKeeps s (execBackgroundCopy lane s) := by
  unfold execBackgroundCopy
  (repeat' split) <;> simp

@[simp] theorem execPreimageFree_keeps (epoch : Nat) (s : State) : outKeeps s (execPreimageFree epoch s) := by
  unfold execPreimageFree
  simp

theorem remoteBatchFor_fix {peer batch : Nat} {s t : State} {n : Nat} (h : remoteBatchFor peer batch s = some (n, t)) :
    fixedPart t = fixedPart s := by
  unfold remoteBatchFor at h
  split at h
  · cases h; rfl
  · split at h
    · cases h; simp
    · cases h

@[simp] theorem recountRemote_fix (s : State) :
    fixedPart (recountRemote s) = fixedPart s := by
  unfold recountRemote
  simp

theorem stageRemoteRow_fix {peer batch tableId : Nat} {body : List Byte} {s t : State}
    (h : stageRemoteRow peer batch tableId body s = .staged t) : fixedPart t = fixedPart s := by
  unfold stageRemoteRow at h
  split at h
  · cases h
  · split at h
    · cases h
    · split at h
      · cases h
      · split at h
        · cases h
        · rename_i hb
          have hb := remoteBatchFor_fix hb
          split at h
          · injection h with h; subst h; simp [hb]
          · extract_lets s1 at h
            have h1 : fixedPart s1 = fixedPart s := by simp [s1, hb]
            clear_value s1
            split at h
            · rename_i hs; injection h with h; subst h; simp [stageRow_fix hs, h1]
            · cases h

@[simp] theorem abortRemote_fix (p : RemoteBatch → Bool) (s : State) : fixedPart (abortRemote p s) = fixedPart s := by
  unfold abortRemote
  simp

@[simp] theorem dropTable_fix (id : Nat) (s : State) : fixedPart (dropTable id s) = fixedPart s := by
  unfold dropTable
  simp

@[simp] theorem execTableDeleteComplete_keeps (tableId : Nat) (s : State) :
    outKeeps s (execTableDeleteComplete tableId s) := by
  unfold execTableDeleteComplete
  (repeat' split) <;> simp

end Sys2Proof.Machine
end

