-- ==== Sys2Proof/Laws/KeepService.lean ====
section
/-! SUPPORT. Transfers, run-ahead, the service, the legacy interface and the translation keep the fixed part: one lemma per definition. -/

namespace Sys2Proof.Machine

open Sys2Proof

@[simp] theorem giveDrays_fix (fuel core : Nat) (s : State) : fixedPart (giveDrays fuel core s) = fixedPart s := by
  induction fuel generalizing core s with
  | zero => rfl
  | succ k ih =>
    unfold giveDrays
    (repeat' split) <;> simp_all

@[simp] theorem startTransfer_fix (t : Transfer) (dray : Nat) (s : State) :
    fixedPart (startTransfer t dray s) = fixedPart s := by
  unfold startTransfer
  simp

@[simp] theorem startQueue_fix (fuel : Nat) (core : Nat) (s : State) : fixedPart (startQueue fuel core s) = fixedPart s := by
  induction fuel generalizing core s with
  | zero => rfl
  | succ k ih =>
    unfold startQueue
    try simp only []
    (repeat' split) <;> simp_all

@[simp] theorem serveDrays_fix (core : Nat) (s : State) : fixedPart (serveDrays core s) = fixedPart s := by
  unfold serveDrays
  simp

@[simp] theorem enqueueTransfer_fix (core : Nat) (d : Desc) (org : Origin) (s : State) :
    fixedPart (enqueueTransfer core d org s) = fixedPart s := by
  unfold enqueueTransfer
  simp

@[simp] theorem takeTransfer_fix (core opcode : Nat) (d : Desc) (org : Origin) (s : State) :
    fixedPart (takeTransfer core opcode d org s) = fixedPart s := by
  unfold takeTransfer
  simp

@[simp] theorem execTransfer_keeps (core : Nat) (desc : Desc) (org : Origin) (s : State) :
    outKeeps s (execTransfer core desc org s) := by
  unfold execTransfer
  simp

@[simp] theorem execCaravan_keeps (core : Nat) (desc : Desc) (org : Origin) (s : State) :
    outKeeps s (execCaravan core desc org s) := by
  unfold execCaravan
  simp

@[simp] theorem execWeightRingStart_keeps (core : Nat) (s : State) : outKeeps s (execWeightRingStart core s) := by
  unfold execWeightRingStart
  (repeat' split) <;> simp

@[simp] theorem stallTile_fix (t : Transfer) (tile : Nat) (m : MemCheck) (acc : Access) (s : State) :
    fixedPart (stallTile t tile m acc s) = fixedPart s := by
  unfold stallTile
  simp

@[simp] theorem touchBy_fix (k : Nat) (d : Desc) (tile : Nat) (s : State) :
    fixedPart (touchBy k d tile s) = fixedPart s := by
  unfold touchBy
  (repeat' split) <;> simp

@[simp] theorem touchTile_fix (t : Transfer) (tile : Nat) (s : State) : fixedPart (touchTile t tile s) = fixedPart s := by
  unfold touchTile
  simp

@[simp] theorem failTile_fix (id tile st : Nat) (s : State) :
    fixedPart (failTile id tile st s) = fixedPart s := by
  unfold failTile
  simp

@[simp] theorem postLoads_fix (t : Transfer) (tile : Nat) (s : State) : fixedPart (postLoads t tile s) = fixedPart s := by
  unfold postLoads
  simp

@[simp] theorem writeTile_fix (t : Transfer) (core tile : Nat) (data : List Byte) (s : State) :
    fixedPart (writeTile t core tile data s) = fixedPart s := by
  unfold writeTile
  simp

@[simp] theorem writeTransferStatus_fix (t : Transfer) (status : Nat) (s : State) :
    fixedPart (writeTransferStatus t status s) = fixedPart s := by
  unfold writeTransferStatus
  simp

@[simp] theorem completeTransfer_fix (id : Nat) (s : State) : fixedPart (completeTransfer id s) = fixedPart s := by
  unfold completeTransfer
  (repeat' split) <;> simp

@[simp] theorem settleStopped_fix (id : Nat) (s : State) :
    fixedPart (settleStopped id s) = fixedPart s := by
  unfold settleStopped
  (repeat' split) <;> simp

@[simp] theorem settleFailed_fix (id : Nat) (s : State) :
    fixedPart (settleFailed id s) = fixedPart s := by
  unfold settleFailed
  (repeat' split) <;> simp

@[simp] theorem landTile_fix (t : Transfer) (core tile : Nat) (data : List Byte) (s : State) :
    fixedPart (landTile t core tile data s) = fixedPart s := by
  unfold landTile
  simp

@[simp] theorem postStores_fix (t : Transfer) (tile : Nat) (data : List Byte) (s : State) :
    fixedPart (postStores t tile data s) = fixedPart s := by
  unfold postStores
  simp

@[simp] theorem deliverTile_fix (t : Transfer) (tile : Nat) (s : State) :
    fixedPart (deliverTile t tile s) = fixedPart s := by
  unfold deliverTile
  simp

@[simp] theorem execTileDelivery_keeps (transfer tile : Nat) (s : State) :
    outKeeps s (execTileDelivery transfer tile s) := by
  unfold execTileDelivery
  (repeat' split) <;> simp

@[simp] theorem endPaceWait_fix (t : Transfer) (s : State) :
    fixedPart (endPaceWait t s) = fixedPart s := by
  unfold endPaceWait
  (repeat' split) <;> simp

@[simp] theorem detachLate_fix (t : Transfer) (tile : Nat) (s : State) :
    fixedPart (detachLate t tile s) = fixedPart s := by
  unfold detachLate
  (repeat' split) <;> simp

@[simp] theorem reloadDie_fix (die : Nat) (s : State) : fixedPart (reloadDie die s) = fixedPart s := by
  unfold reloadDie
  split
  · refine (fixedPart_foldl _ _ (fun s g => ?_) _).trans (by simp)
    split
    · split <;> simp
    · rfl
  · rfl

@[simp] theorem stagingReady_fix (core : Nat) (d : Desc) (s : State) :
    fixedPart (stagingReady core d s) = fixedPart s := by
  unfold stagingReady
  refine fixedPart_foldl _ _ (fun s n => ?_) _
  split <;> simp

@[simp] theorem requestTile_fix (t : Transfer) (s : State) : fixedPart (requestTile t s) = fixedPart s := by
  unfold requestTile
  simp

@[simp] theorem readTile_fix (t : Transfer) (errors : CodewordErrors) (s : State) :
    fixedPart (readTile t errors s) = fixedPart s := by
  unfold readTile
  simp

@[simp] theorem leaveDrayQueue_fix (transfer : Nat) (s : State) : fixedPart (leaveDrayQueue transfer s) = fixedPart s := by
  unfold leaveDrayQueue
  (repeat' split) <;> simp

@[simp] theorem execTileRequest_keeps (tile : TileRead) (s : State) : outKeeps s (execTileRequest tile s) := by
  have e := leaveDrayQueue_fix tile.transfer s
  unfold execTileRequest
  generalize leaveDrayQueue tile.transfer s = u at e ⊢
  simp only []
  (repeat' split) <;> simp [e]

@[simp] theorem sendTile_fix (t : Transfer) (tile : Nat) (s : State) : fixedPart (sendTile t tile s) = fixedPart s := by
  unfold sendTile
  simp only []
  (repeat' split) <;> simp

@[simp] theorem settleBehind_fix (t : Transfer) (tile : Nat) (s : State) :
    fixedPart (settleBehind t tile s) = fixedPart s := by
  unfold settleBehind
  (repeat' split) <;> simp

@[simp] theorem execCaravanTileSend_keeps (transfer : Nat) (s : State) : outKeeps s (execCaravanTileSend transfer s) := by
  unfold execCaravanTileSend
  (repeat' split) <;> simp

@[simp] theorem fetchCatchup_fix (t : Transfer) (m : Member) (k : Nat) (s : State) :
    fixedPart (fetchCatchup t m k s) = fixedPart s := by
  unfold fetchCatchup
  simp only []
  (repeat' split) <;> simp

@[simp] theorem execCatchupFetch_keeps (transfer core : Nat) (s : State) :
    outKeeps s (execCatchupFetch transfer core s) := by
  unfold execCatchupFetch
  (repeat' split) <;> simp

@[simp] theorem execTransferFaultResume_keeps (transfer : Nat) (s : State) :
    outKeeps s (execTransferFaultResume transfer s) := by
  unfold execTransferFaultResume
  (repeat' split) <;> simp

@[simp] theorem dropTransfers_fix (p : Transfer → Bool) (s : State) : fixedPart (dropTransfers p s) = fixedPart s := by
  unfold dropTransfers
  simp

@[simp] theorem execStageBarrier_keeps (launch stage : Nat) (s : State) : outKeeps s (execStageBarrier launch stage s) := by
  unfold execStageBarrier
  simp only []
  (repeat' split) <;> simp

@[simp] theorem execStagePrologue_keeps (launch stage : Nat) (s : State) :
    outKeeps s (execStagePrologue launch stage s) := by
  unfold execStagePrologue
  (repeat' split) <;> simp

@[simp] theorem execResidentSegmentLoad_keeps (context : Nat) (s : State) :
    outKeeps s (execResidentSegmentLoad context s) := by
  unfold execResidentSegmentLoad
  (repeat' split) <;> simp

@[simp] theorem stopTask_fix (core : Nat) (squash : Bool) (s : State) :
    fixedPart (stopTask core squash s) = fixedPart s := by
  unfold stopTask
  (repeat' split) <;> simp

@[simp] theorem stopTasks_fix (p : TaskRec → Bool) (squash : Bool) (s : State) :
    fixedPart (stopTasks p squash s) = fixedPart s := by
  unfold stopTasks
  simp

@[simp] theorem stopWork_fix (p : TaskRec → Bool) (squash : Bool) (s : State) :
    fixedPart (stopWork p squash s) = fixedPart s := by
  unfold stopWork
  simp

@[simp] theorem stopEngines_fix (p : Origin → Nat → Bool) (s : State) : fixedPart (stopEngines p s) = fixedPart s := by
  unfold stopEngines
  simp

@[simp] theorem squashId_fix (id : Nat) (s : State) : fixedPart (squashId id s) = fixedPart s := by
  unfold squashId
  simp

@[simp] theorem unmark_fix (id : Nat) (s : State) : fixedPart (unmark id s) = fixedPart s := by
  unfold unmark
  simp

@[simp] theorem commitFault_fix (h : HeldFault) (s : State) : fixedPart (commitFault h s) = fixedPart s := by
  unfold commitFault
  (repeat' split) <;> simp

@[simp] theorem sendCommitted_fix (transfers lookups writes descs : List Nat) (s : State) :
    fixedPart (sendCommitted transfers lookups writes descs s) = fixedPart s := by
  unfold sendCommitted
  simp only [startFabDesc_fix, startWrite_fix, sendGroups_fix, fixedPart_foldl, implies_true]
  refine fixedPart_foldl _ _ (fun s k => ?_) s
  split <;> simp

@[simp] theorem commitId_fix (id : Nat) (s : State) : fixedPart (commitId id s) = fixedPart s := by
  unfold commitId
  simp

@[simp] theorem notePrediction_fix (p : Prediction) (s : State) : fixedPart (notePrediction p s) = fixedPart s := by
  unfold notePrediction
  simp

@[simp] theorem resolveId_fix (launch branch : Nat) (out : BitVec 32) (i : SpecId) (s : State) :
    fixedPart (resolveId launch branch out i s) = fixedPart s := by
  unfold resolveId
  (repeat' split) <;> simp

@[simp] theorem execBranchResolve_keeps (launch branch : Nat) (outcome : BitVec 64) (s : State) :
    outKeeps s (execBranchResolve launch branch outcome s) := by
  unfold execBranchResolve
  simp only []
  (repeat' split) <;> simp

@[simp] theorem dispatchAhead_fix (l : Launch) (r : BitVec 256) (id : Nat) (set : List (Nat × Nat × BitVec 32))
    (rs : List ProvRange) (kept : Bool) (s : State) : fixedPart (dispatchAhead l r id set rs kept s) = fixedPart s := by
  unfold dispatchAhead
  simp
  refine fixedPart_foldl _ _ (fun s k => ?_) s
  split <;> simp

@[simp] theorem execSpecDispatch_keeps (launch stage : Nat) (s : State) : outKeeps s (execSpecDispatch launch stage s) := by
  unfold execSpecDispatch
  simp only []
  (repeat' split) <;> simp

@[simp] theorem clearRange_fix (r : ProvRange) (s : State) : fixedPart (clearRange r s) = fixedPart s := by
  unfold clearRange
  simp

@[simp] theorem execRangeInvalidate_keeps (spec : Nat) (s : State) : outKeeps s (execRangeInvalidate spec s) := by
  unfold execRangeInvalidate
  simp

@[simp] theorem predictResetAction_fix (x0 : ReqId) (bytes : List Byte) (s : State) :
    fixedPart (predictResetAction x0 bytes s) = fixedPart s := by
  unfold predictResetAction
  simp

@[simp] theorem execPredictReset_keeps (req : ReqId) (value : Nat) (s : State) :
    outKeeps s (execPredictReset req value s) := by
  unfold execPredictReset
  simp

@[simp] theorem stopLaunch_fix (launch : Nat) (s : State) : fixedPart (stopLaunch launch s) = fixedPart s := by
  unfold stopLaunch
  (repeat' split) <;> simp

@[simp] theorem discardFrame_fix (port : Nat) (s : State) :
    fixedPart (discardFrame port s) = fixedPart s := by
  unfold discardFrame
  simp

@[simp] theorem updBinding_fix (b : Nat) (f : BindingRun → BindingRun) (s : State) :
    fixedPart (updBinding b f s) = fixedPart s := by
  unfold updBinding
  simp

@[simp] theorem noteAccepted_fix (h : LorjoHdr) (s : State) : fixedPart (noteAccepted h s) = fixedPart s := by
  unfold noteAccepted
  (repeat' split) <;> simp

@[simp] theorem refuse_fix (a : Admitted) (status reason : Nat) (s : State) :
    fixedPart (refuse a status reason s) = fixedPart s := by
  unfold refuse
  simp

@[simp] theorem sendFrom_fix (port : Nat) (src dst : Endpoint) (ds : List (List Byte)) (s : State) :
    fixedPart (sendFrom port src dst ds s) = fixedPart s := by
  unfold sendFrom
  simp

@[simp] theorem cachePut_fix (e : CacheEntry) (s : State) : fixedPart (cachePut e s) = fixedPart s := by
  unfold cachePut
  simp

@[simp] theorem holdEvents_fix (a : Admitted) (s : State) : fixedPart (holdEvents a s) = fixedPart s := by
  unfold holdEvents
  simp

@[simp] theorem noteSession_fix (a : Admitted) (s : State) : fixedPart (noteSession a s) = fixedPart s := by
  unfold noteSession
  simp

@[simp] theorem launchBivouac_fix (a : Admitted) (s : State) : fixedPart (launchBivouac a s) = fixedPart s := by
  unfold launchBivouac
  simp

@[simp] theorem admitRequest_fix (a : Admitted) (exitAt : Option Nat) (biv : Bool) (s : State) :
    fixedPart (admitRequest a exitAt biv s) = fixedPart s := by
  unfold admitRequest
  generalize (if a.payload.length ≤ 256 then none
    else (List.range 1024).find? (fun b => !s.service.buffersUsed.contains b)) = buffer
  cases buffer <;> (simp only []; (repeat' split) <;> simp)

@[simp] theorem deadlineCheck_fix (a : Admitted) (s : State) : fixedPart (deadlineCheck a s) = fixedPart s := by
  unfold deadlineCheck
  simp

@[simp] theorem serveRequest_fix (a : Admitted) (s : State) : fixedPart (serveRequest a s) = fixedPart s := by
  unfold serveRequest
  simp only []
  (repeat' split) <;> simp

@[simp] theorem putReassembly_fix (r : Reassembly) (s : State) : fixedPart (putReassembly r s) = fixedPart s := by
  unfold putReassembly
  simp

@[simp] theorem takeSegment_fix (port : Nat) (src dst : Endpoint) (h : LorjoHdr) (payload : List Byte) (len : Nat) (key : Option (BitVec 256)) (s : State) :
    fixedPart (takeSegment port src dst h payload len key s) = fixedPart s := by
  unfold takeSegment
  simp

@[simp] theorem execLorjoSegmentRx_keeps (port : Nat) (src dst : Endpoint) (datagram : Received) (s : State) :
    outKeeps s (execLorjoSegmentRx port src dst datagram s) := by
  unfold execLorjoSegmentRx
  simp only []
  (repeat' split) <;> simp

@[simp] theorem execReassemblyTimeout_keeps (src : Endpoint) (requestId : BitVec 64) (s : State) :
    outKeeps s (execReassemblyTimeout src requestId s) := by
  unfold execReassemblyTimeout
  (repeat' split) <;> simp

@[simp] theorem answerLiveness_keeps (typ port : Nat) (src dst : Endpoint) (datagram : Received) (s : State) :
    outKeeps s (answerLiveness typ port src dst datagram s) := by
  unfold answerLiveness
  simp only []
  (repeat' split) <;> simp

@[simp] theorem execKeepalive_keeps (port : Nat) (src dst : Endpoint) (datagram : Received) (s : State) :
    outKeeps s (execKeepalive port src dst datagram s) := by
  unfold execKeepalive
  simp

@[simp] theorem execProbe_keeps (port : Nat) (src dst : Endpoint) (datagram : Received) (s : State) :
    outKeeps s (execProbe port src dst datagram s) := by
  unfold execProbe
  simp

@[simp] theorem answerRequest_fix (a : Admitted) (status exit_ : Nat) (torn sat bv : Bool) (s : State) :
    fixedPart (answerRequest a status exit_ torn sat bv s) = fixedPart s := by
  unfold answerRequest
  simp

@[simp] theorem measureBinding_fix (a : Admitted) (service exit_ : Option Nat) (s : State) :
    fixedPart (measureBinding a service exit_ s) = fixedPart s := by
  unfold measureBinding
  simp

@[simp] theorem endRequest_fix (l : Launch) (a : Admitted) (exit_ : Nat) (ok : Bool) (s : State) :
    fixedPart (endRequest l a exit_ ok s) = fixedPart s := by
  unfold endRequest
  simp

@[simp] theorem endLaunch_fix (l : Launch) (s : State) : fixedPart (endLaunch l s) = fixedPart s := by
  unfold endLaunch
  simp only []
  (repeat' split) <;> simp

@[simp] theorem execLaunchComplete_keeps (launch : Nat) (s : State) : outKeeps s (execLaunchComplete launch s) := by
  unfold execLaunchComplete
  simp only []
  (repeat' split) <;> simp

@[simp] theorem exitBeforeLaunch_fix (a : Admitted) (s : State) : fixedPart (exitBeforeLaunch a s) = fixedPart s := by
  unfold exitBeforeLaunch
  simp only []
  (repeat' split) <;> simp

@[simp] theorem execExitTimer_keeps (request : Nat) (s : State) : outKeeps s (execExitTimer request s) := by
  unfold execExitTimer
  (repeat' split) <;> simp

@[simp] theorem freeBuffer_fix (b : Option Nat) (s : State) :
    fixedPart (freeBuffer b s) = fixedPart s := by
  unfold freeBuffer
  split <;> simp

@[simp] theorem releaseRequest_fix (seq : Nat) (s : State) : fixedPart (releaseRequest seq s) = fixedPart s := by
  unfold releaseRequest
  (repeat' split) <;> simp

@[simp] theorem noteResponse_fix (r : ReadyResp) (late : Bool) (s : State) :
    fixedPart (noteResponse r late s) = fixedPart s := by
  unfold noteResponse
  simp

@[simp] theorem storeResult_fix (r : ReadyResp) (a : Admitted) (late : Bool) (s : State) :
    fixedPart (storeResult r a late s) = fixedPart s := by
  unfold storeResult
  (repeat' split) <;> simp

@[simp] theorem sendResp_fix (port : Nat) (r : ReadyResp) (s : State) : fixedPart (sendResp port r s) = fixedPart s := by
  unfold sendResp
  simp only []
  (repeat' split) <;> simp

@[simp] theorem execResponseTransmit_keeps (port : Nat) (s : State) : outKeeps s (execResponseTransmit port s) := by
  unfold execResponseTransmit
  (repeat' split) <;> simp

@[simp] theorem drainBinding_fix (b : Nat) (s : State) : fixedPart (drainBinding b s) = fixedPart s := by
  unfold drainBinding
  simp

@[simp] theorem bindingEnableAction_fix (b : Nat) (x1 : ReqId) (bytes : List Byte) (s : State) :
    fixedPart (bindingEnableAction b x1 bytes s) = fixedPart s := by
  unfold bindingEnableAction
  simp

@[simp] theorem execBindingEnable_keeps (req : ReqId) (binding value : Nat) (s : State) :
    outKeeps s (execBindingEnable req binding value s) := by
  unfold execBindingEnable
  simp

@[simp] theorem svcEnableAction_fix (x0 : ReqId) (bytes : List Byte) (s : State) :
    fixedPart (svcEnableAction x0 bytes s) = fixedPart s := by
  unfold svcEnableAction
  simp

@[simp] theorem execSvcEnable_keeps (req : ReqId) (value : Nat) (s : State) : outKeeps s (execSvcEnable req value s) := by
  unfold execSvcEnable
  simp

@[simp] theorem keyLoadAction_fix (x0 : ReqId) (bytes : List Byte) (s : State) :
    fixedPart (keyLoadAction x0 bytes s) = fixedPart s := by
  unfold keyLoadAction
  simp

@[simp] theorem execKeyLoad_keeps (req : ReqId) (value : List Byte) (s : State) : outKeeps s (execKeyLoad req value s) := by
  unfold execKeyLoad
  simp

@[simp] theorem updLegacy_fix (f : Legacy → Legacy) (s : State) : fixedPart (updLegacy f s) = fixedPart s := by
  unfold updLegacy
  simp

@[simp] theorem updLeg_fix (id : Nat) (f : Cmd → Cmd) (s : State) : fixedPart (updLeg id f s) = fixedPart s := by
  unfold updLeg
  simp

@[simp] theorem finishLeg_fix (id status reason : Nat) (s : State) :
    fixedPart (finishLeg id status reason s) = fixedPart s := by
  unfold finishLeg
  simp

@[simp] theorem legRead_fix (s : State) :
    fixedPart (legRead s) = fixedPart s := by
  unfold legRead
  simp

@[simp] theorem takeLegacy_fix (w : BitVec 512) (s : State) : fixedPart (takeLegacy w s) = fixedPart s := by
  unfold takeLegacy
  simp

@[simp] theorem legLoop_fix (fuel : Nat) (s : State) : fixedPart (legLoop fuel s) = fixedPart s := by
  induction fuel generalizing s with
  | zero => rfl
  | succ k ih =>
    unfold legLoop
    try simp only []
    (repeat' split) <;> simp_all

@[simp] theorem legacyFetch_fix (s : State) : fixedPart (legacyFetch s) = fixedPart s := by
  unfold legacyFetch
  (repeat' split) <;> simp

@[simp] theorem retryLegacy_fix (s : State) : fixedPart (retryLegacy s) = fixedPart s := by
  unfold retryLegacy
  (repeat' split) <;> simp

@[simp] theorem legacyOff_fix (s : State) : fixedPart (legacyOff s) = fixedPart s := by
  unfold legacyOff
  simp

@[simp] theorem legacyEnable_fix (on : Bool) (s : State) : fixedPart (legacyEnable on s) = fixedPart s := by
  unfold legacyEnable
  simp

@[simp] theorem writeSqTail_fix (w : HostWrite) (s : State) : fixedPart (writeSqTail w s) = fixedPart s := by
  unfold writeSqTail
  (repeat' split) <;> simp

@[simp] theorem execSqTail_keeps (w : HostWrite) (s : State) : outKeeps s (execSqTail w s) := by
  unfold execSqTail
  simp

@[simp] theorem takeLeg_keeps {run : Cmd → State → State} (op : Nat) (h : ∀ c s, fixedPart (run c s) = fixedPart s) (s : State) :
    outKeeps s (takeLeg op run s) := by
  unfold takeLeg
  split <;> simp [h]

@[simp] theorem runLegacyDma_fix (c : Cmd) (s : State) : fixedPart (runLegacyDma c s) = fixedPart s := by
  unfold runLegacyDma
  simp

@[simp] theorem runLegacyDesc_fix (c : Cmd) (s : State) : fixedPart (runLegacyDesc c s) = fixedPart s := by
  unfold runLegacyDesc
  (repeat' split) <;> simp

@[simp] theorem runLegacyKernel_fix (c : Cmd) (s : State) : fixedPart (runLegacyKernel c s) = fixedPart s := by
  unfold runLegacyKernel
  simp

@[simp] theorem runLegacyLaunch_fix (c : Cmd) (s : State) : fixedPart (runLegacyLaunch c s) = fixedPart s := by
  unfold runLegacyLaunch
  simp only []
  (repeat' split) <;> simp

@[simp] theorem execLegacyNop_keeps (s : State) : outKeeps s (execLegacyNop s) := by
  unfold execLegacyNop
  simp

@[simp] theorem execLegacyDma_keeps (s : State) : outKeeps s (execLegacyDma s) := by
  unfold execLegacyDma
  simp

@[simp] theorem execLegacyDesc_keeps (s : State) : outKeeps s (execLegacyDesc s) := by
  unfold execLegacyDesc
  simp

@[simp] theorem execLegacyKernel_keeps (s : State) : outKeeps s (execLegacyKernel s) := by
  unfold execLegacyKernel
  simp

@[simp] theorem execLegacyLaunch_keeps (s : State) : outKeeps s (execLegacyLaunch s) := by
  unfold execLegacyLaunch
  simp

@[simp] theorem execLegacySignal_keeps (s : State) : outKeeps s (execLegacySignal s) := by
  unfold execLegacySignal
  simp

@[simp] theorem holdLeg_fix (c : Cmd) (v : BitVec 64) (s : State) :
    fixedPart (holdLeg c v s) = fixedPart s := by
  unfold holdLeg
  (repeat' split) <;> simp

@[simp] theorem runLegacyWait_fix (c : Cmd) (s : State) : fixedPart (runLegacyWait c s) = fixedPart s := by
  unfold runLegacyWait
  (repeat' split) <;> simp

@[simp] theorem execLegacyWait_keeps (s : State) : outKeeps s (execLegacyWait s) := by
  unfold execLegacyWait
  (repeat' split) <;> simp

@[simp] theorem legRecord_fix (c : Cmd) (s : State) : fixedPart (legRecord c s) = fixedPart s := by
  unfold legRecord
  simp

@[simp] theorem legPost_fix (c : Cmd) (s : State) : fixedPart (legPost c s) = fixedPart s := by
  unfold legPost
  simp

@[simp] theorem legStall_fix (c : Cmd) (m : MemCheck × Access) (s : State) :
    fixedPart (legStall c m s) = fixedPart s := by
  unfold legStall
  (repeat' split) <;> simp

@[simp] theorem completeLegacy_fix (c : Cmd) (s : State) : fixedPart (completeLegacy c s) = fixedPart s := by
  unfold completeLegacy
  (repeat' split) <;> simp

@[simp] theorem releaseLegHeld_fix (fuel : Nat) (s : State) : fixedPart (releaseLegHeld fuel s) = fixedPart s := by
  induction fuel generalizing s with
  | zero => rfl
  | succ k ih =>
    unfold releaseLegHeld
    try simp only []
    (repeat' split) <;> simp_all

@[simp] theorem serveLegHeld_fix (s : State) :
    fixedPart (serveLegHeld s) = fixedPart s := by
  unfold serveLegHeld
  (repeat' split) <;> simp

@[simp] theorem writeLegCqHead_fix (w : HostWrite) (s : State) : fixedPart (writeLegCqHead w s) = fixedPart s := by
  unfold writeLegCqHead
  (repeat' split) <;> simp

@[simp] theorem execLegacyCqHead_keeps (w : HostWrite) (s : State) : outKeeps s (execLegacyCqHead w s) := by
  unfold execLegacyCqHead
  simp

@[simp] theorem writeBar4_fix (offset : Nat) (w : HostWrite) (s : State) :
    fixedPart (writeBar4 offset w s) = fixedPart s := by
  unfold writeBar4
  simp only []
  (repeat' split) <;> simp

@[simp] theorem execLqCtrlWrite_keeps (offset : Nat) (w : HostWrite) (s : State) :
    outKeeps s (execLqCtrlWrite offset w s) := by
  unfold execLqCtrlWrite
  simp

@[simp] theorem execCommandCompletion_keeps (queue cmd : Nat) (s : State) :
    outKeeps s (execCommandCompletion queue cmd s) := by
  unfold execCommandCompletion
  (repeat' split) <;> simp

@[simp] theorem mapFetch_fix (fuel : Nat) (s : State) : fixedPart (mapFetch fuel s) = fixedPart s := by
  induction fuel generalizing s with
  | zero => rfl
  | succ k ih =>
    unfold mapFetch
    try simp only []
    (repeat' split) <;> simp_all

@[simp] theorem fetchMap_fix (s : State) : fixedPart (fetchMap s) = fixedPart s := by
  unfold fetchMap
  simp

@[simp] theorem execMapTail_keeps (w : HostWrite) (s : State) : outKeeps s (execMapTail w s) := by
  unfold execMapTail
  (repeat' split) <;> simp

@[simp] theorem retryMap_fix (s : State) : fixedPart (retryMap s) = fixedPart s := by
  unfold retryMap
  (repeat' split) <;> simp

@[simp] theorem execPhaseRetry_keeps (queue : Nat) (s : State) : outKeeps s (execPhaseRetry queue s) := by
  unfold execPhaseRetry
  simp

@[simp] theorem chargePage_fix (cold : Bool) (k page : Nat) (s : State) :
    fixedPart (chargePage cold k page s) = fixedPart s := by
  unfold chargePage
  simp

@[simp] theorem refundPage_fix (page : Nat) (s : State) : fixedPart (refundPage page s) = fixedPart s := by
  unfold refundPage
  (repeat' split) <;> simp

@[simp] theorem allocPage_fix (m : MapOp) (page : Nat) (s : State) : fixedPart (allocPage m page s) = fixedPart s := by
  unfold allocPage
  extract_lets cold
  split
  · rename_i h; simp [takeFrame_fix h]
  · rfl

@[simp] theorem freePage_fix (page : Nat) (s : State) : fixedPart (freePage page s) = fixedPart s := by
  unfold freePage
  simp

@[simp] theorem mapHostPage_fix (m : MapOp) (page : Nat) (s : State) : fixedPart (mapHostPage m page s) = fixedPart s := by
  unfold mapHostPage
  simp

@[simp] theorem absentPage_fix (m : MapOp) (page : Nat) (s : State) : fixedPart (absentPage m page s) = fixedPart s := by
  unfold absentPage
  simp

@[simp] theorem protectPage_fix (m : MapOp) (page : Nat) (s : State) : fixedPart (protectPage m page s) = fixedPart s := by
  unfold protectPage
  simp

@[simp] theorem migratePage_fix (m : MapOp) (page : Nat) (s : State) : fixedPart (migratePage m page s) = fixedPart s := by
  unfold migratePage
  extract_lets v bus r
  split
  · rfl
  · rename_i s1 h
    have h := takeFrame_fix h
    extract_lets data src s2
    clear_value data
    have h2 : fixedPart s2 = fixedPart s := by simp [s2, src, h]
    clear_value s2
    simp [h2]

@[simp] theorem mapPage_fix (m : MapOp) (page : Nat) (s : State) : fixedPart (mapPage m page s) = fixedPart s := by
  unfold mapPage
  (repeat' split) <;> simp

@[simp] theorem mapComplete_fix (r : MapRecord) (status reason : Nat) (s : State) :
    fixedPart (mapComplete r status reason s) = fixedPart s := by
  unfold mapComplete
  (repeat' split) <;> simp

@[simp] theorem denyFault_fix (page : Nat) (s : State) : fixedPart (denyFault page s) = fixedPart s := by
  unfold denyFault
  (repeat' split) <;> simp

@[simp] theorem runMap_fix (r : MapRecord) (s : State) : fixedPart (runMap r s) = fixedPart s := by
  unfold runMap
  simp

@[simp] theorem takeMap_keeps (op : Nat) (s : State) : outKeeps s (takeMap op s) := by
  unfold takeMap
  (repeat' split) <;> simp

@[simp] theorem execAlloc_keeps (s : State) : outKeeps s (execAlloc s) := by
  unfold execAlloc
  simp

@[simp] theorem execFree_keeps (s : State) : outKeeps s (execFree s) := by
  unfold execFree
  simp

@[simp] theorem execMapHost_keeps (s : State) : outKeeps s (execMapHost s) := by
  unfold execMapHost
  simp

@[simp] theorem execSetAbsent_keeps (s : State) : outKeeps s (execSetAbsent s) := by
  unfold execSetAbsent
  simp

@[simp] theorem execProtect_keeps (s : State) : outKeeps s (execProtect s) := by
  unfold execProtect
  simp

@[simp] theorem execMigrate_keeps (s : State) : outKeeps s (execMigrate s) := by
  unfold execMigrate
  simp

@[simp] theorem execDeny_keeps (s : State) : outKeeps s (execDeny s) := by
  unfold execDeny
  simp

@[simp] theorem execPageFault_keeps (agent : Nat) (va : BitVec 64) (access : Access) (s : State) :
    outKeeps s (execPageFault agent va access s) := by
  unfold execPageFault
  simp

@[simp] theorem execFqHead_keeps (w : HostWrite) (s : State) : outKeeps s (execFqHead w s) := by
  unfold execFqHead
  (repeat' split) <;> simp

@[simp] theorem fqOverflowClearAction_fix (x0 : ReqId) (x1 : List Byte) (s : State) :
    fixedPart (fqOverflowClearAction x0 x1 s) = fixedPart s := by
  unfold fqOverflowClearAction
  simp

@[simp] theorem execFqOverflowClear_keeps (req : ReqId) (value : Nat) (s : State) :
    outKeeps s (execFqOverflowClear req value s) := by
  unfold execFqOverflowClear
  simp

@[simp] theorem resumeFetch_fix (s : State) :
    fixedPart (resumeFetch s) = fixedPart s := by
  unfold resumeFetch
  simp

@[simp] theorem resumeHeld_fix (s : State) :
    fixedPart (resumeHeld s) = fixedPart s := by
  unfold resumeHeld
  simp

@[simp] theorem serveSlots_fix (s : State) :
    fixedPart (serveSlots s) = fixedPart s := by
  unfold serveSlots
  simp

@[simp] theorem replayAgent_fix (agent : Nat) (s : State) : fixedPart (replayAgent agent s) = fixedPart s := by
  unfold replayAgent
  (repeat' split) <;> simp

@[simp] theorem execFaultReplay_keeps (agent : Nat) (s : State) : outKeeps s (execFaultReplay agent s) := by
  unfold execFaultReplay
  (repeat' split) <;> simp

@[simp] theorem execFaultTimeout_keeps (page : Nat) (s : State) : outKeeps s (execFaultTimeout page s) := by
  unfold execFaultTimeout
  simp only []
  (repeat' split) <;> simp

end Sys2Proof.Machine
end

