-- ==== Sys2Proof/Laws/KeepJobs.lean ====
section
/-! SUPPORT. The fabric, jobs, recovery, start-up and the base instructions keep the fixed part: one lemma per definition. -/

namespace Sys2Proof.Machine

open Sys2Proof

@[simp] theorem tileFailed_fix (id tile st : Nat) (s : State) :
    fixedPart (tileFailed id tile st s) = fixedPart s := by
  unfold tileFailed
  simp

@[simp] theorem tileLoaded_fix (id tile va : Nat) (data : List Byte) (s : State) :
    fixedPart (tileLoaded id tile va data s) = fixedPart s := by
  unfold tileLoaded
  (repeat' split) <;> simp

@[simp] theorem atomicAnswer_fix (id va old : Nat) (s : State) : fixedPart (atomicAnswer id va old s) = fixedPart s := by
  unfold atomicAnswer
  (repeat' split) <;> simp

@[simp] theorem signalDone_fix (queue cmd st : Nat) (s : State) : fixedPart (signalDone queue cmd st s) = fixedPart s := by
  unfold signalDone
  simp

@[simp] theorem opFailed_fix (o : FabOp) (st reason : Nat) (s : State) :
    fixedPart (opFailed o st reason s) = fixedPart s := by
  unfold opFailed
  (repeat' split) <;> simp

@[simp] theorem opApplied_fix (o : FabOp) (s : State) : fixedPart (opApplied o s) = fixedPart s := by
  unfold opApplied
  (repeat' split) <;> simp

@[simp] theorem retryGlobals_fix (s : State) : fixedPart (retryGlobals s) = fixedPart s := by
  unfold retryGlobals
  simp

@[simp] theorem dropServed_fix (peer : Nat) (s : State) : fixedPart (dropServed peer s) = fixedPart s := by
  unfold dropServed
  simp

@[simp] theorem endSession_fix (peer cause : Nat) (s : State) : fixedPart (endSession peer cause s) = fixedPart s := by
  unfold endSession
  simp

@[simp] theorem checkMember_fix (s : State) : fixedPart (checkMember s) = fixedPart s := by
  unfold checkMember
  simp

@[simp] theorem sendFragments_fix (peer typ gen : Nat) (msg : List Byte) (s : State) :
    fixedPart (sendFragments peer typ gen msg s) = fixedPart s := by
  unfold sendFragments
  (repeat' split) <;> simp

@[simp] theorem startHandshake_fix (peer : Nat) (s : State) : fixedPart (startHandshake peer s) = fixedPart s := by
  unfold startHandshake
  simp

@[simp] theorem startHandshakes_fix (s : State) : fixedPart (startHandshakes s) = fixedPart s := by
  unfold startHandshakes
  simp

@[simp] theorem failHandshake_fix (peer : Nat) (s : State) : fixedPart (failHandshake peer s) = fixedPart s := by
  unfold failHandshake
  simp

@[simp] theorem sessionUp_fix (peer gen : Nat) (initiator : Bool) (keys : List Byte) (s : State) :
    fixedPart (sessionUp peer gen initiator keys s) = fixedPart s := by
  unfold sessionUp
  simp

@[simp] theorem peerSetAction_fix (x0 : ReqId) (bytes : List Byte) (s : State) :
    fixedPart (peerSetAction x0 bytes s) = fixedPart s := by
  unfold peerSetAction
  simp

@[simp] theorem execPeerSet_keeps (req : ReqId) (value : List Byte) (s : State) : outKeeps s (execPeerSet req value s) := by
  unfold execPeerSet
  simp

@[simp] theorem joinFabric_fix (s : State) : fixedPart (joinFabric s) = fixedPart s := by
  unfold joinFabric
  simp

@[simp] theorem fabricJoinAction_fix (x0 : ReqId) (x1 : List Byte) (s : State) :
    fixedPart (fabricJoinAction x0 x1 s) = fixedPart s := by
  unfold fabricJoinAction
  simp

@[simp] theorem execFabricJoin_keeps (req : ReqId) (value : Nat) (s : State) : outKeeps s (execFabricJoin req value s) := by
  unfold execFabricJoin
  simp

@[simp] theorem tryLeave_fix (s : State) : fixedPart (tryLeave s) = fixedPart s := by
  unfold tryLeave
  simp

@[simp] theorem leaveFabric_fix (s : State) : fixedPart (leaveFabric s) = fixedPart s := by
  unfold leaveFabric
  simp

@[simp] theorem fabricLeaveAction_fix (x0 : ReqId) (x1 : List Byte) (s : State) :
    fixedPart (fabricLeaveAction x0 x1 s) = fixedPart s := by
  unfold fabricLeaveAction
  simp

@[simp] theorem execFabricLeave_keeps (req : ReqId) (value : Nat) (s : State) :
    outKeeps s (execFabricLeave req value s) := by
  unfold execFabricLeave
  simp

@[simp] theorem takeAck_fix (peer : Nat) (p : Pkt) (s : State) : fixedPart (takeAck peer p s) = fixedPart s := by
  unfold takeAck
  simp

@[simp] theorem dropPacket_fix (s : State) : fixedPart (dropPacket s) = fixedPart s := by
  unfold dropPacket
  simp

@[simp] theorem execFabricDataRx_keeps (iface : Nat) (ce : Bool) (datagram : List Byte) (s : State) :
    outKeeps s (execFabricDataRx iface ce datagram s) := by
  unfold execFabricDataRx
  (repeat' split) <;> simp

@[simp] theorem execFabricAckRx_keeps (iface : Nat) (ce : Bool) (datagram : List Byte) (s : State) :
    outKeeps s (execFabricAckRx iface ce datagram s) := by
  unfold execFabricAckRx
  (repeat' split) <;> simp

@[simp] theorem execAckTimer_keeps (peer : Nat) (s : State) : outKeeps s (execAckTimer peer s) := by
  unfold execAckTimer
  simp

@[simp] theorem execRetransmitTimeout_keeps (peer psn : Nat) (s : State) :
    outKeeps s (execRetransmitTimeout peer psn s) := by
  unfold execRetransmitTimeout
  simp only []
  (repeat' split) <;> simp

@[simp] theorem execCwndUpdate_keeps (peer : Nat) (s : State) : outKeeps s (execCwndUpdate peer s) := by
  unfold execCwndUpdate
  simp

@[simp] theorem execRekey_keeps (peer : Nat) (s : State) : outKeeps s (execRekey peer s) := by
  unfold execRekey
  simp

@[simp] theorem execPathMove_keeps (peer path : Nat) (down : Bool) (s : State) :
    outKeeps s (execPathMove peer path down s) := by
  unfold execPathMove
  simp only []
  (repeat' split) <;> simp

@[simp] theorem answerHello_fix (peer gen : Nat) (msg : List Byte) (s : State) :
    fixedPart (answerHello peer gen msg s) = fixedPart s := by
  unfold answerHello
  simp

@[simp] theorem execHello_keeps (iface : Nat) (datagram : List Byte) (s : State) :
    outKeeps s (execHello iface datagram s) := by
  unfold execHello
  simp only []
  (repeat' split) <;> simp

@[simp] theorem takeAccept_fix (peer : Nat) (h : Handshake) (msg : List Byte) (s : State) :
    fixedPart (takeAccept peer h msg s) = fixedPart s := by
  unfold takeAccept
  simp

@[simp] theorem execAccept_keeps (iface : Nat) (datagram : List Byte) (s : State) :
    outKeeps s (execAccept iface datagram s) := by
  unfold execAccept
  simp only []
  (repeat' split) <;> simp

@[simp] theorem execFinish_keeps (iface : Nat) (datagram : List Byte) (s : State) :
    outKeeps s (execFinish iface datagram s) := by
  unfold execFinish
  (repeat' split) <;> simp

@[simp] theorem execHandshakeTimeout_keeps (peer : Nat) (s : State) : outKeeps s (execHandshakeTimeout peer s) := by
  unfold execHandshakeTimeout
  repeat' split
  all_goals simp

@[simp] theorem execSessionRetry_keeps (peer : Nat) (s : State) : outKeeps s (execSessionRetry peer s) := by
  unfold execSessionRetry
  simp

@[simp] theorem execCloseRx_keeps (iface : Nat) (datagram : List Byte) (s : State) :
    outKeeps s (execCloseRx iface datagram s) := by
  unfold execCloseRx
  (repeat' split) <;> simp

@[simp] theorem execPeerDead_keeps (peer : Nat) (s : State) : outKeeps s (execPeerDead peer s) := by
  unfold execPeerDead
  simp

@[simp] theorem execKeepaliveAckTimer_keeps (peer : Nat) (s : State) : outKeeps s (execKeepaliveAckTimer peer s) := by
  unfold execKeepaliveAckTimer
  simp

@[simp] theorem execOpTimeout_keeps (peer seq : Nat) (s : State) : outKeeps s (execOpTimeout peer seq s) := by
  unfold execOpTimeout
  simp only []
  (repeat' split) <;> simp

@[simp] theorem execInterfaceUp_keeps (iface : Nat) (s : State) : outKeeps s (execInterfaceUp iface s) := by
  unfold execInterfaceUp
  simp

@[simp] theorem learn_fix (iface : Nat) (v6 : Bool) (addr : Nat) (mac : BitVec 48) (s : State) :
    fixedPart (learn iface v6 addr mac s) = fixedPart s := by
  unfold learn
  simp

@[simp] theorem execNeighborDiscoveryFrame_keeps (iface : Nat) (v6 request : Bool) (target sender : Nat) (mac : BitVec 48) (s : State) :
    outKeeps s (execNeighborDiscoveryFrame iface v6 request target sender mac s) := by
  unfold execNeighborDiscoveryFrame
  simp

@[simp] theorem cutNative_fix (n : Nat) (c : Cmd) (s : State) : fixedPart (cutNative n c s) = fixedPart s := by
  unfold cutNative
  simp only []
  (repeat' split) <;> simp

@[simp] theorem cutLegacy_fix (c : Cmd) (s : State) : fixedPart (cutLegacy c s) = fixedPart s := by
  unfold cutLegacy
  simp only []
  (repeat' split) <;> simp

@[simp] theorem cutIssued_fix (core : Nat) (p : Desc × Origin) (s : State) :
    fixedPart (cutIssued core p s) = fixedPart s := by
  unfold cutIssued
  simp

@[simp] theorem cutRecords_fix (s : State) :
    fixedPart (cutRecords s) = fixedPart s := by
  unfold cutRecords
  simp

@[simp] theorem cutSignalled_fix (n : Nat) (s : State) :
    fixedPart (cutSignalled n s) = fixedPart s := by
  unfold cutSignalled
  split <;> simp

@[simp] theorem cutCommands_fix (s : State) : fixedPart (cutCommands s) = fixedPart s := by
  unfold cutCommands
  simp

@[simp] theorem cutRequests_fix (s : State) : fixedPart (cutRequests s) = fixedPart s := by
  unfold cutRequests
  simp

@[simp] theorem endJobCmds_fix (s : State) : fixedPart (endJobCmds s) = fixedPart s := by
  unfold endJobCmds
  simp

@[simp] theorem bindingsOff_fix (s : State) :
    fixedPart (bindingsOff s) = fixedPart s := by
  unfold bindingsOff
  exact fixedPart_foldl _ _ (fun s b => by split <;> simp) _

@[simp] theorem clearJob_fix (s : State) : fixedPart (clearJob s) = fixedPart s := by
  unfold clearJob
  simp

@[simp] theorem enterZeroising_fix (s : State) : fixedPart (enterZeroising s) = fixedPart s := by
  unfold enterZeroising
  simp

@[simp] theorem freshJob_fix (s : State) : fixedPart (freshJob s) = fixedPart s := by
  unfold freshJob
  simp

@[simp] theorem takeEntries_fix (s : State) : fixedPart (takeEntries s) = fixedPart s := by
  unfold takeEntries
  simp

@[simp] theorem clearCounters_fix (s : State) : fixedPart (clearCounters s) = fixedPart s := by
  unfold clearCounters
  simp

@[simp] theorem completeDeploy_fix (req : ReqId) (bytes : List Byte) (s : State) :
    fixedPart (completeDeploy req bytes s) = fixedPart s := by
  unfold completeDeploy
  simp

@[simp] theorem contextCreateAction_fix (x0 : ReqId) (bytes : List Byte) (s : State) :
    fixedPart (contextCreateAction x0 bytes s) = fixedPart s := by
  unfold contextCreateAction
  simp only []
  (repeat' split) <;> simp

@[simp] theorem execContextCreate_keeps (req : ReqId) (desc : BitVec 256) (s : State) :
    outKeeps s (execContextCreate req desc s) := by
  unfold execContextCreate
  simp

@[simp] theorem contextDeleteAction_fix (x0 : ReqId) (bytes : List Byte) (s : State) :
    fixedPart (contextDeleteAction x0 bytes s) = fixedPart s := by
  unfold contextDeleteAction
  simp

@[simp] theorem execContextDelete_keeps (req : ReqId) (context : Nat) (s : State) :
    outKeeps s (execContextDelete req context s) := by
  unfold execContextDelete
  simp

@[simp] theorem noteScrubs_fix (s : State) :
    fixedPart (noteScrubs s) = fixedPart s := by
  unfold noteScrubs
  (repeat' split) <;> simp

@[simp] theorem joinLate_fix (s : State) :
    fixedPart (joinLate s) = fixedPart s := by
  unfold joinLate
  (repeat' split) <;> simp

@[simp] theorem storeRecord_fix (num time code inst flags : Nat) (p : List Nat) (s : State) :
    fixedPart (storeRecord num time code inst flags p s) = fixedPart s := by
  unfold storeRecord
  simp

@[simp] theorem acceptRecord_fix (r : WbSubmit) (s : State) : fixedPart (acceptRecord r s) = fixedPart s := by
  unfold acceptRecord
  simp

@[simp] theorem execWaybillRecordWrite_keeps (s : State) : outKeeps s (execWaybillRecordWrite s) := by
  unfold execWaybillRecordWrite
  (repeat' split) <;> simp

@[simp] theorem writeSuppressed_fix (time n : Nat) (l : List WbCode) (s : State) :
    fixedPart (writeSuppressed time n l s) = fixedPart s := by
  fun_induction writeSuppressed time n l s <;> simp_all

@[simp] theorem closeWindow_fix (s : State) : fixedPart (closeWindow s) = fixedPart s := by
  unfold closeWindow
  simp

@[simp] theorem execRateWindowEnd_keeps (s : State) : outKeeps s (execRateWindowEnd s) := by
  unfold execRateWindowEnd
  simp

@[simp] theorem clearWaybill_fix (who : Nat) (s : State) : fixedPart (clearWaybill who s) = fixedPart s := by
  unfold clearWaybill
  simp

@[simp] theorem answer_fix (peer : Nat) (o : RxOp) (opcode : Nat) (body : List Byte) (s : State) :
    fixedPart (answer peer o opcode body s) = fixedPart s := by
  unfold answer
  simp

@[simp] theorem answerStatus_fix (peer : Nat) (o : RxOp) (st reason : Nat) (s : State) :
    fixedPart (answerStatus peer o st reason s) = fixedPart s := by
  unfold answerStatus
  simp

@[simp] theorem execFabricLoadServe_keeps (peer seq : Nat) (s : State) : outKeeps s (execFabricLoadServe peer seq s) := by
  unfold execFabricLoadServe
  simp only []
  (repeat' split) <;> simp

@[simp] theorem execFabricStoreServe_keeps (peer seq : Nat) (s : State) : outKeeps s (execFabricStoreServe peer seq s) := by
  unfold execFabricStoreServe
  simp only []
  (repeat' split) <;> simp

@[simp] theorem serveWord_fix (peer : Nat) (o : RxOp) (s : State) : fixedPart (serveWord peer o s) = fixedPart s := by
  unfold serveWord
  simp

@[simp] theorem execFabricAtomicServe_keeps (peer seq : Nat) (s : State) :
    outKeeps s (execFabricAtomicServe peer seq s) := by
  unfold execFabricAtomicServe
  (repeat' split) <;> simp

@[simp] theorem execFabricSignalServe_keeps (peer seq : Nat) (s : State) :
    outKeeps s (execFabricSignalServe peer seq s) := by
  unfold execFabricSignalServe
  simp only []
  (repeat' split) <;> simp

@[simp] theorem serveRemoteEntry_fix (id : Nat) (t : Desc) (e : List Byte) (k : Nat) (a : LookupJob × State) :
    fixedPart (serveRemoteEntry id t e k a).2 = fixedPart a.2 := by
  unfold serveRemoteEntry
  simp only []
  split <;> simp

@[simp] theorem execFabricLookupServe_keeps (peer seq : Nat) (s : State) :
    outKeeps s (execFabricLookupServe peer seq s) := by
  unfold execFabricLookupServe
  simp only []
  (repeat' split) <;> simp

@[simp] theorem noteWait_fix (peer seq : Nat) (s : State) : fixedPart (noteWait peer seq s) = fixedPart s := by
  unfold noteWait
  simp

@[simp] theorem execFabricRowStage_keeps (peer seq : Nat) (s : State) : outKeeps s (execFabricRowStage peer seq s) := by
  unfold execFabricRowStage
  split
  · simp
  · split
    · simp
    · rename_i h; simp [stageRemoteRow_fix h]
    · simp

@[simp] theorem execFabricBatchCommit_keeps (peer seq : Nat) (s : State) :
    outKeeps s (execFabricBatchCommit peer seq s) := by
  unfold execFabricBatchCommit
  (repeat' split) <;> simp

@[simp] theorem execFabricBatchAbort_keeps (peer seq : Nat) (s : State) : outKeeps s (execFabricBatchAbort peer seq s) := by
  unfold execFabricBatchAbort
  (repeat' split) <;> simp

@[simp] theorem dropOp_fix (peer seq : Nat) (s : State) : fixedPart (dropOp peer seq s) = fixedPart s := by
  unfold dropOp
  simp

@[simp] theorem takeResponse_fix (peer : Nat) (r : List Byte) (s : State) :
    fixedPart (takeResponse peer r s) = fixedPart s := by
  unfold takeResponse
  simp only []
  (repeat' split) <;> simp

@[simp] theorem execFabricResponseRx_keeps (peer : Nat) (record : List Byte) (s : State) :
    outKeeps s (execFabricResponseRx peer record s) := by
  unfold execFabricResponseRx
  simp

@[simp] theorem takeFab_keeps (opcode subop core : Nat) (d : Desc) (org : Origin) (s : State) :
    outKeeps s (takeFab opcode subop core d org s) := by
  unfold takeFab
  simp

@[simp] theorem execFabricAtomic_keeps (core : Nat) (desc : Desc) (org : Origin) (s : State) :
    outKeeps s (execFabricAtomic core desc org s) := by
  unfold execFabricAtomic
  simp

@[simp] theorem execFabricBarrier_keeps (core : Nat) (desc : Desc) (org : Origin) (s : State) :
    outKeeps s (execFabricBarrier core desc org s) := by
  unfold execFabricBarrier
  simp

@[simp] theorem execFabricBroadcast_keeps (core : Nat) (desc : Desc) (org : Origin) (s : State) :
    outKeeps s (execFabricBroadcast core desc org s) := by
  unfold execFabricBroadcast
  simp

@[simp] theorem execFabricSnapshot_keeps (core : Nat) (desc : Desc) (org : Origin) (s : State) :
    outKeeps s (execFabricSnapshot core desc org s) := by
  unfold execFabricSnapshot
  simp

@[simp] theorem execFabricAtomicCoreRelease_keeps (id : Nat) (s : State) :
    outKeeps s (execFabricAtomicCoreRelease id s) := by
  unfold execFabricAtomicCoreRelease
  simp

@[simp] theorem takeRelease_fix (peer g gseq subop : Nat) (record : List Byte) (s : State) :
    fixedPart (takeRelease peer g gseq subop record s) = fixedPart s := by
  unfold takeRelease
  simp only []
  (repeat' split) <;> simp

@[simp] theorem execGlobalOperationRx_keeps (peer : Nat) (record : List Byte) (s : State) :
    outKeeps s (execGlobalOperationRx peer record s) := by
  unfold execGlobalOperationRx
  simp

@[simp] theorem execGlobalTimeout_keeps (group : Nat) (s : State) : outKeeps s (execGlobalTimeout group s) := by
  unfold execGlobalTimeout
  simp

@[simp] theorem ggroupEnableAction_fix (g : Nat) (x1 : ReqId) (bytes : List Byte) (s : State) :
    fixedPart (ggroupEnableAction g x1 bytes s) = fixedPart s := by
  unfold ggroupEnableAction
  simp

@[simp] theorem execGgroupEnable_keeps (req : ReqId) (group value : Nat) (s : State) :
    outKeeps s (execGgroupEnable req group value s) := by
  unfold execGgroupEnable
  simp

@[simp] theorem reloadCore_fix (core : Nat) (s : State) : fixedPart (reloadCore core s) = fixedPart s := by
  unfold reloadCore
  refine fixedPart_foldl _ _ (fun s g => ?_) s
  split
  · split <;> simp
  · rfl

@[simp] theorem execCgWakeComplete_keeps (cg : Nat) (s : State) : outKeeps s (execCgWakeComplete cg s) := by
  unfold execCgWakeComplete
  simp

@[simp] theorem loadBivouac_fix (s : State) : fixedPart (loadBivouac s) = fixedPart s := by
  unfold loadBivouac
  (repeat' split) <;> simp

@[simp] theorem execBivGraphLoad_keeps (s : State) : outKeeps s (execBivGraphLoad s) := by
  unfold execBivGraphLoad
  simp

@[simp] theorem squashAll_fix (s : State) : fixedPart (squashAll s) = fixedPart s := by
  unfold squashAll
  simp

@[simp] theorem cutUpdates_fix (s : State) : fixedPart (cutUpdates s) = fixedPart s := by
  unfold cutUpdates
  simp

@[simp] theorem cutWork_fix (s : State) : fixedPart (cutWork s) = fixedPart s := by
  unfold cutWork
  simp

@[simp] theorem cutActions_fix (s : State) : fixedPart (cutActions s) = fixedPart s := by
  unfold cutActions
  simp

@[simp] theorem cutFabric_fix (s : State) : fixedPart (cutFabric s) = fixedPart s := by
  unfold cutFabric
  simp

@[simp] theorem tagOk_fix (graph : Nat) (v : GraphVersion) (s : State) : fixedPart (tagOk graph v s) = fixedPart s := by
  unfold tagOk
  simp

@[simp] theorem checkTags_fix (s : State) : fixedPart (checkTags s) = fixedPart s := by
  unfold checkTags
  refine fixedPart_foldl _ _ (fun s g => ?_) s
  extract_lets t keep u kept
  have ht : fixedPart t = fixedPart s := by
    simp only [t]
    split <;> simp
  have hu : fixedPart u = fixedPart s := by simp [u, ht]
  split <;> simp [hu]

@[simp] theorem reloadAll_fix (s : State) : fixedPart (reloadAll s) = fixedPart s := by
  have h : ∀ f : State → Graph → State, (∀ s g, fixedPart (f s g) = fixedPart s) →
      fixedPart (s.dispatch.graphs.foldl f s) = fixedPart s := fun f hf => fixedPart_foldl _ f hf s
  unfold reloadAll
  extract_lets t src u
  have ht : fixedPart t = fixedPart s := by
    refine h _ (fun s g => ?_)
    split <;> simp
  have hu : fixedPart u = fixedPart s := by simp [u, src, ht]
  split <;> simp [hu]

@[simp] theorem resumeQueues_fix (s : State) : fixedPart (resumeQueues s) = fixedPart s := by
  unfold resumeQueues
  simp

@[simp] theorem execPostilionWedge_keeps (s : State) : outKeeps s (execPostilionWedge s) := by
  unfold execPostilionWedge
  simp

@[simp] theorem restoreWaybill_fix (s : State) : fixedPart (restoreWaybill s) = fixedPart s := by
  unfold restoreWaybill
  simp

@[simp] theorem noteRefused_fix (t check version : Nat) (s : State) :
    fixedPart (noteRefused t check version s) = fixedPart s := by
  unfold noteRefused
  simp

@[simp] theorem noteBankRefused_fix (t : Nat) (s : State) : fixedPart (noteBankRefused t s) = fixedPart s := by
  unfold noteBankRefused
  simp

@[simp] theorem measureImage_fix (slot t : Nat) (s : State) : fixedPart (measureImage slot t s) = fixedPart s := by
  unfold measureImage
  (repeat' split) <;> simp

@[simp] theorem softRepair_fix (core : Nat) (faulty : List (Nat × Nat)) (r : Nat × Nat) (s : State) :
    fixedPart (softRepair core faulty r s) = fixedPart s := by
  unfold softRepair
  simp

@[simp] theorem selfTest_fix (draw core : Nat) (s : State) : fixedPart (selfTest draw core s) = fixedPart s := by
  unfold selfTest
  simp

@[simp] theorem softRepairs_fix (draw core : Nat) (s : State) :
    fixedPart (softRepairs draw core s) = fixedPart s := by
  unfold softRepairs
  simp

@[simp] theorem selfTests_fix (cores : List Nat) (s : State) : fixedPart (selfTests cores s) = fixedPart s := by
  unfold selfTests
  simp

@[simp] theorem startPersistents_fix (s : State) : fixedPart (startPersistents s) = fixedPart s := by
  unfold startPersistents
  simp

@[simp] theorem stopPersistents_fix (s : State) : fixedPart (stopPersistents s) = fixedPart s := by
  unfold stopPersistents
  simp

@[simp] theorem boot2_fix (s : State) : fixedPart (boot2 s) = fixedPart s := by
  unfold boot2
  simp

@[simp] theorem boot8_fix (s : State) : fixedPart (boot8 s) = fixedPart s := by
  unfold boot8
  simp

@[simp] theorem boot9_fix (s : State) : fixedPart (boot9 s) = fixedPart s := by
  unfold boot9
  simp

@[simp] theorem boot10_fix (s : State) : fixedPart (boot10 s) = fixedPart s := by
  unfold boot10
  simp

@[simp] theorem endMaintenance_fix (s : State) : fixedPart (endMaintenance s) = fixedPart s := by
  unfold endMaintenance
  simp

@[simp] theorem maintModeAction_fix (x0 : ReqId) (bytes : List Byte) (s : State) :
    fixedPart (maintModeAction x0 bytes s) = fixedPart s := by
  unfold maintModeAction
  simp

@[simp] theorem execMaintMode_keeps (req : ReqId) (value : Nat) (s : State) : outKeeps s (execMaintMode req value s) := by
  unfold execMaintMode
  simp

@[simp] theorem resetGroup_fix (cg : Nat) (s : State) : fixedPart (resetGroup cg s) = fixedPart s := by
  unfold resetGroup
  simp

@[simp] theorem cgResetAction_fix (x0 : ReqId) (bytes : List Byte) (s : State) :
    fixedPart (cgResetAction x0 bytes s) = fixedPart s := by
  unfold cgResetAction
  simp

@[simp] theorem execCgReset_keeps (req : ReqId) (mask : Nat) (s : State) : outKeeps s (execCgReset req mask s) := by
  unfold execCgReset
  simp

@[simp] theorem fwWriteAction_fix (x0 : ReqId) (bytes : List Byte) (s : State) :
    fixedPart (fwWriteAction x0 bytes s) = fixedPart s := by
  unfold fwWriteAction
  simp

@[simp] theorem execFwWrite_keeps (req : ReqId) (value : List Byte) (s : State) : outKeeps s (execFwWrite req value s) := by
  unfold execFwWrite
  simp

@[simp] theorem installImage_fix (i : StagedImage) (s : State) : fixedPart (installImage i s) = fixedPart s := by
  unfold installImage
  simp

@[simp] theorem fwInstallAction_fix (x0 : ReqId) (bytes : List Byte) (s : State) :
    fixedPart (fwInstallAction x0 bytes s) = fixedPart s := by
  unfold fwInstallAction
  (repeat' split) <;> simp

@[simp] theorem execFwInstall_keeps (req : ReqId) (value : Nat) (s : State) : outKeeps s (execFwInstall req value s) := by
  unfold execFwInstall
  simp

@[simp] theorem fwActivateAction_fix (x0 : ReqId) (x1 : List Byte) (s : State) :
    fixedPart (fwActivateAction x0 x1 s) = fixedPart s := by
  unfold fwActivateAction
  simp

@[simp] theorem execFwActivate_keeps (req : ReqId) (value : Nat) (s : State) : outKeeps s (execFwActivate req value s) := by
  unfold execFwActivate
  simp

@[simp] theorem fwConfirmAction_fix (x0 : ReqId) (x1 : List Byte) (s : State) :
    fixedPart (fwConfirmAction x0 x1 s) = fixedPart s := by
  unfold fwConfirmAction
  simp

@[simp] theorem execFwConfirm_keeps (req : ReqId) (value : Nat) (s : State) : outKeeps s (execFwConfirm req value s) := by
  unfold execFwConfirm
  simp

@[simp] theorem sendResponse_fix (r : ReqId) (bytes : List Byte) (s : State) :
    fixedPart (sendResponse r bytes s) = fixedPart s := by
  unfold sendResponse
  (repeat' split) <;> simp

@[simp] theorem respond_fix (r : ReqId) (m : DictMsg) (err entryBytes_ item : Nat) (body : List Byte) (s : State) :
    fixedPart (respond r m err entryBytes_ item body s) = fixedPart s := by
  unfold respond
  simp

@[simp] theorem takeWbRecord_fix (r : ReqId) (s : State) : fixedPart (takeWbRecord r s).2 = fixedPart s := by
  unfold takeWbRecord
  simp only []
  split <;> simp

@[simp] theorem takeRelay_fix (s : State) : fixedPart (takeRelay s).2 = fixedPart s := by
  unfold takeRelay; split <;> simp

@[simp] theorem takeValue_fix (r : ReqId) (index sub : Nat) (s : State) : fixedPart (takeValue r index sub s).2 = fixedPart s := by
  unfold takeValue; (repeat' split) <;> simp

@[simp] theorem readOn_fix (r : ReqId) (m : DictMsg) (s : State) :
    fixedPart (readOn r m s) = fixedPart s := by
  unfold readOn
  (repeat' split) <;> simp

@[simp] theorem readMessage_fix (r : ReqId) (m : DictMsg) (s : State) : fixedPart (readMessage r m s) = fixedPart s := by
  unfold readMessage
  simp only []
  (repeat' split) <;> simp

@[simp] theorem gatherItems_fix (r : ReqId) (l : List (Nat × Nat)) (s : State) :
    fixedPart (gatherItems r l s).2 = fixedPart s := by
  induction l generalizing s with
  | nil => rfl
  | cons i t ih => simp [gatherItems, ih]

@[simp] theorem multiReadMessage_fix (r : ReqId) (m : DictMsg) (s : State) :
    fixedPart (multiReadMessage r m s) = fixedPart s := by
  unfold multiReadMessage
  simp only []
  (repeat' split) <;> simp

@[simp] theorem storeEntry_fix (key size : Nat) (x2 : ReqId) (bytes : List Byte) (s : State) :
    fixedPart (storeEntry key size x2 bytes s) = fixedPart s := by
  unfold storeEntry
  simp

@[simp] theorem selectAction_fix (key : Nat) (r : ReqId) (bytes : List Byte) (s : State) :
    fixedPart (selectAction key r bytes s) = fixedPart s := by
  unfold selectAction
  simp

@[simp] theorem pendingSlotAction_fix (slot : Nat) (x1 : ReqId) (bytes : List Byte) (s : State) :
    fixedPart (pendingSlotAction slot x1 bytes s) = fixedPart s := by
  unfold pendingSlotAction
  simp

@[simp] theorem mapEnableAction_fix (x0 : ReqId) (bytes : List Byte) (s : State) :
    fixedPart (mapEnableAction x0 bytes s) = fixedPart s := by
  unfold mapEnableAction
  simp

@[simp] theorem bivGraphAction_fix (x0 : ReqId) (bytes : List Byte) (s : State) :
    fixedPart (bivGraphAction x0 bytes s) = fixedPart s := by
  unfold bivGraphAction
  simp

@[simp] theorem wbClearAction_fix (r : ReqId) (x1 : List Byte) (s : State) :
    fixedPart (wbClearAction r x1 s) = fixedPart s := by
  unfold wbClearAction
  simp

@[simp] theorem refuseWrite_fix (r : ReqId) (m : DictMsg) (err : Nat) (s : State) :
    fixedPart (refuseWrite r m err s) = fixedPart s := by
  unfold refuseWrite
  simp

@[simp] theorem execSegmentLapse_keeps (req : ReqId) (s : State) : outKeeps s (execSegmentLapse req s) := by
  unfold execSegmentLapse
  simp

@[simp] theorem execSnapshotLapse_keeps (req : ReqId) (s : State) : outKeeps s (execSnapshotLapse req s) := by
  unfold execSnapshotLapse
  simp only []
  (repeat' split) <;> simp

@[simp] theorem execKeptResponseLapse_keeps (req : ReqId) (s : State) : outKeeps s (execKeptResponseLapse req s) := by
  unfold execKeptResponseLapse
  simp only []
  (repeat' split) <;> simp

@[simp] theorem execWbRead_keeps (req : ReqId) (s : State) : outKeeps s (execWbRead req s) := by
  unfold execWbRead
  simp

@[simp] theorem execWbClear_keeps (req : ReqId) (value : Nat) (s : State) : outKeeps s (execWbClear req value s) := by
  unfold execWbClear
  simp

@[simp] theorem execWbClearCopyDone_keeps (s : State) : outKeeps s (execWbClearCopyDone s) := by
  unfold execWbClearCopyDone
  (repeat' split) <;> simp

@[simp] theorem execRelayOut_keeps (req : ReqId) (length : Nat) (s : State) : outKeeps s (execRelayOut req length s) := by
  unfold execRelayOut
  simp

@[simp] theorem readWindow_fix (read : WindowRead) (va bytes : Nat) (s : State) :
    fixedPart (readWindow read va bytes s) = fixedPart s := by
  unfold readWindow
  simp

@[simp] theorem execBar2Read_keeps (read : WindowRead) (bytes : Nat) (s : State) : outKeeps s (execBar2Read read bytes s) := by
  unfold execBar2Read
  (repeat' split) <;> simp

@[simp] theorem dropOwner_fix (s : State) : fixedPart (dropOwner s) = fixedPart s := by
  unfold dropOwner
  simp

@[simp] theorem sendOpenAck_fix (via : Option UdpPath) (sid : Nat) (ack : List Byte) (s : State) :
    fixedPart (sendOpenAck via sid ack s) = fixedPart s := by
  unfold sendOpenAck
  simp

@[simp] theorem answerOpen_fix (via : Option UdpPath) (msg : List Byte) (s : State) :
    fixedPart (answerOpen via msg s) = fixedPart s := by
  unfold answerOpen
  simp

@[simp] theorem takeOpen_fix (via : Option UdpPath) (r : OwnerRec) (s : State) :
    fixedPart (takeOpen via r s) = fixedPart s := by
  unfold takeOpen
  simp only []
  (repeat' split) <;> simp

@[simp] theorem stageBytes_fix (sid : Nat) (payload : List Byte) (s : State) :
    fixedPart (stageBytes sid payload s) = fixedPart s := by
  unfold stageBytes
  simp

@[simp] theorem placeSlots_fix (sid n : Nat) (slots : List (Nat × Bool × Nat)) (s : State) :
    fixedPart (placeSlots sid n slots s) = fixedPart s := by
  unfold placeSlots
  simp

@[simp] theorem commandSlots_fix (sid : Nat) (payload : List Byte) (s : State) :
    fixedPart (commandSlots sid payload s) = fixedPart s := by
  unfold commandSlots
  simp

@[simp] theorem ownerMapRecords_fix (sid : Nat) (payload : List Byte) (s : State) :
    fixedPart (ownerMapRecords sid payload s) = fixedPart s := by
  unfold ownerMapRecords
  simp

@[simp] theorem takeClose_fix (r : OwnerRec) (s : State) : fixedPart (takeClose r s) = fixedPart s := by
  unfold takeClose
  simp

@[simp] theorem execOwnerHandshakeTimeout_keeps (via : Option UdpPath) (s : State) :
    outKeeps s (execOwnerHandshakeTimeout via s) := by
  unfold execOwnerHandshakeTimeout
  (repeat' split) <;> simp

@[simp] theorem execOwnerGapTimeout_keeps (session : Nat) (s : State) : outKeeps s (execOwnerGapTimeout session s) := by
  unfold execOwnerGapTimeout
  (repeat' split) <;> simp

theorem of_ite_some {c : Prop} [Decidable c] {x y : Option State} {t : State} (h : (if c then x else y) = some t) :
    x = some t ∨ y = some t := by
  by_cases hc : c
  · rw [if_pos hc] at h; exact .inl h
  · rw [if_neg hc] at h; exact .inr h

theorem csrWrite_fix {core a : Nat} {v : BitVec 64} {s t : State} (h : csrWrite core a v s = some t) :
    fixedPart t = fixedPart s := by
  unfold csrWrite at h
  extract_lets cyc upd at h
  have hu : ∀ f, upd f = some t → fixedPart t = fixedPart s := by
    intro f e
    injection e with e
    subst e
    simp
  clear_value upd
  rcases of_ite_some h with h | h
  · cases h
  iterate 12
    rcases of_ite_some h with h | h
    · exact hu _ h
  · injection h with h
    rw [h]

@[simp] theorem opCsr_keeps (core : Nat) (w : Nat) (pc : BitVec 64) (s : State) : resKeeps s (opCsr core w pc s) := by
  unfold opCsr
  simp only []
  split
  · simp
  · split
    · simp
    · split
      · simp
      · rename_i h; simp [csrWrite_fix h]

@[simp] theorem opLoad_keeps (core w : Nat) (pc : BitVec 64) (s : State) : resKeeps s (opLoad core w pc s) := by
  unfold opLoad
  simp

@[simp] theorem opStore_keeps (core w : Nat) (pc : BitVec 64) (s : State) : resKeeps s (opStore core w pc s) := by
  unfold opStore
  simp

@[simp] theorem opAmo_keeps (core w : Nat) (pc : BitVec 64) (s : State) : resKeeps s (opAmo core w pc s) := by
  unfold opAmo
  simp

@[simp] theorem opReg_keeps (core w : Nat) (narrow : Bool) (pc : BitVec 64) (s : State) :
    resKeeps s (opReg core w narrow pc s) := by
  unfold opReg
  simp

@[simp] theorem opImm_keeps (core w : Nat) (narrow : Bool) (pc : BitVec 64) (s : State) :
    resKeeps s (opImm core w narrow pc s) := by
  unfold opImm
  simp

@[simp] theorem takeInterrupt_fix (core cause : Nat) (s : State) : fixedPart (takeInterrupt core cause s) = fixedPart s := by
  unfold takeInterrupt
  simp

@[simp] theorem opSystem_keeps (core w : Nat) (pc : BitVec 64) (s : State) : resKeeps s (opSystem core w pc s) := by
  unfold opSystem
  simp

@[simp] theorem execWord_keeps (core len : Nat) (word : BitVec 32) (s : State) : resKeeps s (execWord core len word s) := by
  unfold execWord
  simp only []
  (repeat' split) <;> simp

@[simp] theorem exec32_keeps (core len : Nat) (word : BitVec 32) (s : State) : resKeeps s (exec32 core len word s) := by
  unfold exec32
  exact inOrder_keeps (execWord_keeps core len word) core word s

@[simp] theorem execBaseInstruction_keeps (core : Nat) (word : BitVec 32) (s : State) :
    outKeeps s (execBaseInstruction core word s) := by
  unfold execBaseInstruction
  split
  · simp
  · split
    · simp [runInstr_fix]
    · refine runInstr_fix (fun s => ?_) core 2 s
      split <;> simp

@[simp] theorem execTimerInterrupt_keeps (core : Nat) (s : State) : outKeeps s (execTimerInterrupt core s) := by
  unfold execTimerInterrupt
  simp

@[simp] theorem execQworkInterrupt_keeps (core : Nat) (s : State) : outKeeps s (execQworkInterrupt core s) := by
  unfold execQworkInterrupt
  simp

@[simp] theorem startTask_fix (core : Nat) (p : PendingTask) (s : State) : fixedPart (startTask core p s) = fixedPart s := by
  unfold startTask
  simp

@[simp] theorem fetchDirect_fix (core : Nat) (s : State) :
    fixedPart (fetchDirect core s) = fixedPart s := by
  unfold fetchDirect
  exact fixedPart_foldl _ _ (fun s b => by split <;> simp) _

@[simp] theorem execTaskStart_keeps (core : Nat) (s : State) : outKeeps s (execTaskStart core s) := by
  unfold execTaskStart
  (repeat' split) <;> simp

@[simp] theorem execTaskLimitExpiry_keeps (core : Nat) (s : State) : outKeeps s (execTaskLimitExpiry core s) := by
  unfold execTaskLimitExpiry
  (repeat' split) <;> simp

@[simp] theorem runTensor_fix (core : Nat) (d : Desc) (org : Origin) (s : State) :
    fixedPart (runTensor core d org s) = fixedPart s := by
  unfold runTensor
  simp only []
  (repeat' split) <;> simp

@[simp] theorem takeTensor_fix (core : Nat) (d : Desc) (org : Origin) (s : State) :
    fixedPart (takeTensor core d org s) = fixedPart s := by
  unfold takeTensor
  simp

@[simp] theorem execVtensor_keeps (core : Nat) (desc : Desc) (org : Origin) (s : State) :
    outKeeps s (execVtensor core desc org s) := by
  unfold execVtensor
  simp

@[simp] theorem barRead_fix (bar4 : Bool) (offset bytes : Nat) (s : State) :
    fixedPart (barRead bar4 offset bytes s).2 = fixedPart s := by
  unfold barRead; split <;> simp

@[simp] theorem flushHeld_fix (held : List HeldRecord) (s : State) : fixedPart (flushHeld held s) = fixedPart s := by
  unfold flushHeld
  refine fixedPart_foldl _ _ (fun s h => ?_) s
  split <;> simp

@[simp] theorem noteReach_fix (s : State) : fixedPart (noteReach s) = fixedPart s := by
  unfold noteReach
  (repeat' split) <;> simp

@[simp] theorem execHostUnreachable_keeps (ev : HostEvent) (s : State) : outKeeps s (execHostUnreachable ev s) := by
  unfold execHostUnreachable
  (repeat' split) <;> simp

@[simp] theorem sendFarSignal_fix (n : Nat) (c : Cmd) (s : State) :
    fixedPart (sendFarSignal n c s) = fixedPart s := by
  unfold sendFarSignal
  split <;> simp

@[simp] theorem applyNearSignal_fix (n : Nat) (c : Cmd) (s : State) :
    fixedPart (applyNearSignal n c s) = fixedPart s := by
  unfold applyNearSignal
  (repeat' split) <;> simp

@[simp] theorem dropCompletion_fix (n : Nat) (c : Cmd) (s : State) :
    fixedPart (dropCompletion n c s) = fixedPart s := by
  unfold dropCompletion
  (repeat' split) <;> simp

@[simp] theorem dropQueue_fix (n : Nat) (s : State) : fixedPart (dropQueue n s) = fixedPart s := by
  unfold dropQueue
  simp

@[simp] theorem dropHeld_fix (s : State) : fixedPart (dropHeld s) = fixedPart s := by
  unfold dropHeld
  simp

@[simp] theorem dropLegacy_fix (c : Cmd) (s : State) :
    fixedPart (dropLegacy c s) = fixedPart s := by
  unfold dropLegacy
  simp

@[simp] theorem resetLegacy_fix (s : State) : fixedPart (resetLegacy s) = fixedPart s := by
  unfold resetLegacy
  simp

@[simp] theorem flrEffects_fix (s : State) : fixedPart (flrEffects s) = fixedPart s := by
  unfold flrEffects
  simp

@[simp] theorem execFunctionLevelReset_keeps (start : Bool) (s : State) : outKeeps s (execFunctionLevelReset start s) := by
  unfold execFunctionLevelReset
  simp

@[simp] theorem loseLink_fix (s : State) : fixedPart (loseLink s) = fixedPart s := by
  unfold loseLink
  simp

@[simp] theorem execLinkDown_keeps (s : State) : outKeeps s (execLinkDown s) := by
  unfold execLinkDown
  simp

@[simp] theorem execPerstN_keeps (ev : LinkReset) (s : State) : outKeeps s (execPerstN ev s) := by
  unfold execPerstN
  (repeat' split) <;> simp

@[simp] theorem execLinkTraining_keeps (partner : LinkPartner) (lanes : Nat) (s : State) :
    outKeeps s (execLinkTraining partner lanes s) := by
  unfold execLinkTraining
  simp

end Sys2Proof.Machine
end

