-- ==== Sys2Proof/Laws/KeepAll.lean ====
section
/-! SUPPORT. The definitions that do change the fixed part (dictionary writes, security, start-up, power, the end of
a job) and the ones that run them: each keeps the queue, lets no anti-rollback counter fall and keeps
the zeroise duty of a sealed job. -/

namespace Sys2Proof.Machine

open Sys2Proof

theorem writeVia_safe {a : Fixed} {action : ReqId → List Byte → State → State}
    (ha : ∀ r b s, safeRel a (fixedPart s) → safeRel a (fixedPart (action r b s))) (r : ReqId) (index sub : Nat)
    (bytes : List Byte) (s : State) (h : safeRel a (fixedPart s)) :
    safeRel a (fixedPart (writeVia action r index sub bytes s)) := by
  unfold writeVia
  simp only []
  split
  · exact ha _ _ _ (by simp [h])
  · simp [h]

theorem cmdVia_safe {a : Fixed} {action : ReqId → List Byte → State → State}
    (ha : ∀ r b s, safeRel a (fixedPart s) → safeRel a (fixedPart (action r b s))) (r : ReqId) (index sub : Nat)
    (bytes : List Byte) (s : State) (h : safeRel a (fixedPart s)) :
    safeRel a (fixedPart (cmdVia action r index sub bytes s)) :=
  writeVia_safe (fun r b s h => ha r b _ (by simp [h])) r index sub bytes s h

/-- A counter never falls at a fuse: one of them rises by 1, the others stay (R489). -/
theorem updAt_succ_le (l : List Nat) (k i : Nat) : l.getD i 0 ≤ (updAt l k (· + 1)).getD i 0 := by
  simp only [updAt, List.getD_eq_getElem?_getD, List.getElem?_modify]
  split <;> cases l[i]? <;> simp

@[simp] theorem blowFuse_safe {a : Fixed} (s : State) (h : safeRel a (fixedPart s)) :
    safeRel a (fixedPart (blowFuse s)) := by
  unfold blowFuse
  split
  · split
    · exact h
    · simp only [commitOn_fix]
      exact safeRel_trans h ⟨rfl, fun i _ => updAt_succ_le _ _ i, id⟩
  · simp [h]
  · exact h

@[simp] theorem rollbackCommitAction_safe {a : Fixed} (x0 : ReqId) (x1 : List Byte) (s : State) (h : safeRel a (fixedPart s)) :
    safeRel a (fixedPart (rollbackCommitAction x0 x1 s)) := by
  unfold rollbackCommitAction
  simp [h]

@[simp] theorem execRollbackCommit_safe (req : ReqId) (value : Nat) (s : State) : outSafe s (execRollbackCommit req value s) := by
  unfold execRollbackCommit
  simp only [outSafe_next]
  exact cmdVia_safe (fun r b s h => by simp [h]) _ _ _ _ _ (safeRel_refl _)

@[simp] theorem loseDomains_safe {a : Fixed} (s : State) (h : safeRel a (fixedPart s)) :
    safeRel a (fixedPart (loseDomains s)) := by
  refine safeRel_trans h ?_
  exact ⟨rfl, fun _ _ => Nat.le_refl _, fun _ h => by cases h⟩

@[simp] theorem trip_safe {a : Fixed} (cause : Nat) (s : State) (h : safeRel a (fixedPart s)) :
    safeRel a (fixedPart (trip cause s)) := by
  unfold trip
  (repeat' split) <;> simp [h]

@[simp] theorem execThermalTrip_safe (s : State) : outSafe s (execThermalTrip s) := by
  unfold execThermalTrip
  (repeat' split) <;> simp

@[simp] theorem powerOffAction_safe {a : Fixed} (x0 : ReqId) (x1 : List Byte) (s : State) (h : safeRel a (fixedPart s)) :
    safeRel a (fixedPart (powerOffAction x0 x1 s)) := by
  unfold powerOffAction
  simp [h]

@[simp] theorem execPowerOff_safe (req : ReqId) (value : Nat) (s : State) : outSafe s (execPowerOff req value s) := by
  unfold execPowerOff
  simp only [outSafe_next]
  exact cmdVia_safe (fun r b s h => by simp [h]) _ _ _ _ _ (safeRel_refl _)

@[simp] theorem execThermTripInN_safe (ns : Nat) (s : State) : outSafe s (execThermTripInN ns s) := by
  unfold execThermTripInN
  (repeat' split) <;> simp

@[simp] theorem enterNone_safe {a : Fixed} (s : State) (h : safeRel a (fixedPart s)) :
    safeRel a (fixedPart (enterNone s)) := by
  unfold enterNone
  simp only [switchNetOn_fix]
  refine safeRel_trans (b := fixedPart (setJobState jobNone s)) (by simp [h]) ?_
  exact ⟨rfl, fun _ _ => Nat.le_refl _, fun _ h => by cases h⟩

@[simp] theorem finishJob_safe {a : Fixed} (s : State) (h : safeRel a (fixedPart s)) :
    safeRel a (fixedPart (finishJob s)) := by
  unfold finishJob
  simp only []
  (repeat' split) <;> simp [h]

@[simp] theorem finishUndeploy_safe {a : Fixed} (s : State) (h : safeRel a (fixedPart s)) :
    safeRel a (fixedPart (finishUndeploy s)) := by
  unfold finishUndeploy
  simp [h]

@[simp] theorem settleUndeploy_safe {a : Fixed} (s : State) (h : safeRel a (fixedPart s)) :
    safeRel a (fixedPart (settleUndeploy s)) := by
  unfold settleUndeploy
  (repeat' split) <;> simp [h]

@[simp] theorem beginUndeploy_safe {a : Fixed} (s : State) (h : safeRel a (fixedPart s)) :
    safeRel a (fixedPart (beginUndeploy s)) := by
  unfold beginUndeploy
  simp [h]

@[simp] theorem jobUndeployAction_safe {a : Fixed} (x0 : ReqId) (x1 : List Byte) (s : State) (h : safeRel a (fixedPart s)) :
    safeRel a (fixedPart (jobUndeployAction x0 x1 s)) := by
  unfold jobUndeployAction
  (repeat' split) <;> simp [h]

@[simp] theorem execJobUndeploy_safe (req : ReqId) (value : Nat) (s : State) : outSafe s (execJobUndeploy req value s) := by
  unfold execJobUndeploy
  simp only [outSafe_next]
  exact cmdVia_safe (fun r b s h => by simp [h]) _ _ _ _ _ (safeRel_refl _)

@[simp] theorem execUndeployDrainTimeout_safe (s : State) : outSafe s (execUndeployDrainTimeout s) := by
  unfold execUndeployDrainTimeout
  (repeat' split) <;> simp

@[simp] theorem execQueueDrainDone_safe (queue : Nat) (s : State) : outSafe s (execQueueDrainDone queue s) := by
  unfold execQueueDrainDone
  (repeat' split) <;> simp

@[simp] theorem sealJob_safe {a : Fixed} (req : ReqId) (s : State) (h : safeRel a (fixedPart s)) :
    safeRel a (fixedPart (sealJob req s)) := by
  refine safeRel_trans h ?_
  unfold sealJob
  split
  · split
    · exact ⟨rfl, fun _ _ => Nat.le_refl _, fun _ _ => ⟨rfl, rfl⟩⟩
    · simp
  · simp

theorem allocStructures_fix {s t : State} (h : allocStructures s = some t) : fixedPart t = fixedPart s := by
  unfold allocStructures at h
  generalize jobStructures s = l at h
  have key : ∀ (l : List (Nat × Nat)) (o : Option State), (∀ u, o = some u → fixedPart u = fixedPart s) → ∀ t,
      l.foldl (fun (o : Option State) x => o.bind (fun s =>
        if x.2 = 0 then some s else (allocModule x.2 false none x.1 s).map (·.2))) o = some t → fixedPart t = fixedPart s := by
    intro l
    induction l with
    | nil => intro o ho t ht; exact ho t ht
    | cons x xs ih =>
      intro o ho t ht
      refine ih _ (fun u hu => ?_) t ht
      cases o with
      | none => cases hu
      | some v =>
        simp only [Option.bind_some] at hu
        split at hu
        · injection hu with hu; subst hu; exact ho _ rfl
        · obtain ⟨w, hw, rfl⟩ := Option.map_eq_some_iff.mp hu
          rw [allocModule_fix (f := w.1) (t := w.2) hw]
          exact ho _ rfl
  exact key l (some s) (fun u hu => by injection hu with hu; rw [hu]) t h

@[simp] theorem jobDeployAction_safe {a : Fixed} (req : ReqId) (bytes : List Byte) (s : State) (h : safeRel a (fixedPart s)) :
    safeRel a (fixedPart (jobDeployAction req bytes s)) := by
  unfold jobDeployAction
  simp only []
  split
  · simp [h]
  · split
    · simp [h]
    · rename_i x hx
      have hx : fixedPart x = fixedPart s := by simp [allocStructures_fix hx]
      have hs : safeRel a (fixedPart x) := by rw [hx]; exact h
      split <;> simp [hs]

@[simp] theorem execJobDeploy_safe (req : ReqId) (value : BitVec 128) (s : State) : outSafe s (execJobDeploy req value s) := by
  unfold execJobDeploy
  simp only [outSafe_next]
  exact cmdVia_safe (fun r b s h => by simp [h]) _ _ _ _ _ (safeRel_refl _)

@[simp] theorem settleColdWaits_fix (s : State) : fixedPart (settleColdWaits s) = fixedPart s := by
  unfold settleColdWaits
  split
  · rfl
  · exact fixedPart_foldl _ _ (fun s w => by split <;> simp) _

@[simp] theorem execPowerManagerTick_keeps (s : State) : outKeeps s (execPowerManagerTick s) := by
  unfold execPowerManagerTick
  simp

@[simp] theorem restartSteps_safe {a : Fixed} (s : State) (h : safeRel a (fixedPart s)) :
    safeRel a (fixedPart (restartSteps s)) := by
  unfold restartSteps
  simp [h]

@[simp] theorem endRestart_safe {a : Fixed} (f : FaultInfo) (s : State) (h : safeRel a (fixedPart s)) :
    safeRel a (fixedPart (endRestart f s)) := by
  unfold endRestart
  simp only []
  (repeat' split) <;> simp [h]

@[simp] theorem endJobNow_safe {a : Fixed} (s : State) (h : safeRel a (fixedPart s)) :
    safeRel a (fixedPart (endJobNow s)) := by
  unfold endJobNow
  simp [h]

theorem restartFor_safe {a : Fixed} {again : FaultInfo → State → State}
    (ha : ∀ f s, safeRel a (fixedPart s) → safeRel a (fixedPart (again f s))) (f : FaultInfo) (s : State)
    (h : safeRel a (fixedPart s)) : safeRel a (fixedPart (restartFor again f s)) := by
  unfold restartFor
  split
  · exact endJobNow_safe _ (by simpa using h)
  · split
    · exact endRestart_safe _ _ (restartSteps_safe _ h)
    · exact ha _ _ (restartSteps_safe _ h)

@[simp] theorem restartJob_safe {a : Fixed} (n : Nat) (f : FaultInfo) (s : State) (h : safeRel a (fixedPart s)) :
    safeRel a (fixedPart (restartJob n f s)) := by
  induction n generalizing f s with
  | zero => simpa only [restartJob] using h
  | succ n ih => simpa only [restartJob] using restartFor_safe ih f s h

@[simp] theorem execJobFault_safe (s : State) : outSafe s (execJobFault s) := by
  unfold execJobFault
  (repeat' split) <;> simp

theorem enterNone_drops {a : Fixed} (u : State) (hp : (fixedPart u).1 = a.1)
    (hr : ∀ i, i < 5 → a.2.2.1.getD i 0 ≤ (fixedPart u).2.2.1.getD i 0) : safeRel a (fixedPart (enterNone u)) := by
  unfold enterNone
  simp only [switchNetOn_fix]
  have h := setJobState_fix jobNone u
  simp only [fixedPart, Prod.mk.injEq] at h hp hr
  refine ⟨?_, ?_, fun _ k => by cases k⟩
  · simp only [fixedPart, h.1, hp]
  · simp only [fixedPart, h.2.2.1]
    exact hr

@[simp] theorem execZeroisation_safe (s : State) : outSafe s (execZeroisation s) := by
  unfold execZeroisation
  simp only [outSafe_next]
  split
  · simp
  · have hc := switchColdOn_fix s
    generalize switchColdOn s = u at hc
    simp only [fixedPart, Prod.mk.injEq] at hc
    have e1 : (fixedPart s).1 = s.pending := rfl
    have e2 : (fixedPart s).2.2.1 = s.security.rollback := rfl
    refine enterNone_drops _ ?_ ?_
    · simp [e1, hc]
    · simp [e2, hc]

@[simp] theorem wipeJob_safe {a : Fixed} (s : State) (h : safeRel a (fixedPart s)) :
    safeRel a (fixedPart (wipeJob s)) := by
  unfold wipeJob
  (repeat' split) <;> simp [h]

@[simp] theorem keyWipeAction_safe {a : Fixed} (req : ReqId) (x1 : List Byte) (s : State) (h : safeRel a (fixedPart s)) :
    safeRel a (fixedPart (keyWipeAction req x1 s)) := by
  unfold keyWipeAction
  simp [h]

@[simp] theorem execKeyWipe_safe (req : ReqId) (value : Nat) (s : State) : outSafe s (execKeyWipe req value s) := by
  unfold execKeyWipe
  simp only [outSafe_next]
  exact cmdVia_safe (fun r b s h => by simp [h]) _ _ _ _ _ (safeRel_refl _)

@[simp] theorem loseAon_safe {a : Fixed} (s : State) (h : safeRel a (fixedPart s)) :
    safeRel a (fixedPart (loseAon s)) := by
  refine safeRel_trans h ?_
  exact ⟨rfl, fun _ _ => Nat.le_refl _, fun _ h => by cases h⟩

@[simp] theorem coldReset_safe {a : Fixed} (cause : Nat) (s : State) (h : safeRel a (fixedPart s)) :
    safeRel a (fixedPart (coldReset cause s)) := by
  unfold coldReset
  (repeat' split) <;> simp [h]

@[simp] theorem coldResetAction_safe {a : Fixed} (x0 : ReqId) (x1 : List Byte) (s : State) (h : safeRel a (fixedPart s)) :
    safeRel a (fixedPart (coldResetAction x0 x1 s)) := by
  unfold coldResetAction
  simp [h]

@[simp] theorem execColdReset_safe (req : ReqId) (value : Nat) (s : State) : outSafe s (execColdReset req value s) := by
  unfold execColdReset
  simp only [outSafe_next]
  exact cmdVia_safe (fun r b s h => by simp [h]) _ _ _ _ _ (safeRel_refl _)

@[simp] theorem execModResetN_safe (ns : Nat) (s : State) : outSafe s (execModResetN ns s) := by
  unfold execModResetN
  (repeat' split) <;> simp

@[simp] theorem execWatchdogExpiry_safe (s : State) : outSafe s (execWatchdogExpiry s) := by
  unfold execWatchdogExpiry
  (repeat' split) <;> simp

@[simp] theorem execInputPowerLoss_safe (s : State) : outSafe s (execInputPowerLoss s) := by
  unfold execInputPowerLoss
  simp only [outSafe_next]
  split
  · simp
  · exact ⟨rfl, fun _ _ => Nat.le_refl _, fun _ h => by cases h⟩

@[simp] theorem powerReturn_safe {a : Fixed} (s : State) (h : safeRel a (fixedPart s)) :
    safeRel a (fixedPart (powerReturn s)) := by
  refine safeRel_trans h ?_
  exact ⟨rfl, fun _ _ => Nat.le_refl _, id⟩

@[simp] theorem execFirmwareFallback_safe (s : State) : outSafe s (execFirmwareFallback s) := by
  unfold execFirmwareFallback
  (repeat' split) <;> simp

@[simp] theorem boot1_safe {a : Fixed} (s : State) (h : safeRel a (fixedPart s)) :
    safeRel a (fixedPart (boot1 s)) := by
  unfold boot1
  simp only []
  (repeat' split) <;> simp [h]

@[simp] theorem boot11_safe {a : Fixed} (s : State) (h : safeRel a (fixedPart s)) : safeRel a (fixedPart (boot11 s)) := by
  unfold boot11
  extract_lets s1 s2 depth s3
  have h2 : safeRel a (fixedPart s2) := by simp [s2, s1, h]
  have e3 : fixedPart s3 = fixedPart s2 := fixedPart_foldl _ _ (fun s g => by simp) _
  have h3 : safeRel a (fixedPart s3) := by rw [e3]; exact h2
  clear_value s3
  split
  · simp only [enterZeroising_fix]
    refine safeRel_trans h3 ?_
    exact ⟨rfl, fun _ _ => Nat.le_refl _, fun _ _ => ⟨rfl, rfl⟩⟩
  · exact h3

@[simp] theorem bootEffect_safe {a : Fixed} (step : Nat) (s : State) (h : safeRel a (fixedPart s)) :
    safeRel a (fixedPart (bootEffect step s)) := by
  unfold bootEffect
  (repeat' split) <;> simp [h]

@[simp] theorem bootStep_safe {a : Fixed} (step : Nat) (s : State) (h : safeRel a (fixedPart s)) :
    safeRel a (fixedPart (bootStep step s)) := by
  unfold bootStep
  simp [h]

@[simp] theorem execStartUp_safe (s : State) : outSafe s (execStartUp s) := by
  unfold execStartUp
  (repeat' split) <;> simp

/-- A handler of relayed owner records that keeps the rules. -/
def GoodRelay (relay : RelayHandler) : Prop :=
  ∀ (a : Fixed) b s, safeRel a (fixedPart s) → safeRel a (fixedPart (relay b s))

theorem relayInAction_safe {a : Fixed} {relay : RelayHandler} (hr : GoodRelay relay) (x0 : ReqId) (bytes : List Byte) (s : State)
    (h : safeRel a (fixedPart s)) : safeRel a (fixedPart (relayInAction relay x0 bytes s)) := by
  unfold relayInAction
  simp [hr a _ _ h]

theorem actionTable_safe {a : Fixed} {relay : RelayHandler} (hr : GoodRelay relay) (p : Nat × (ReqId → List Byte → State → State))
    (hp : p ∈ actionTable relay) (r : ReqId) (b : List Byte) (s : State) (h : safeRel a (fixedPart s)) :
    safeRel a (fixedPart (p.2 r b s)) := by
  simp only [actionTable, List.mem_append, List.mem_cons, List.not_mem_nil, or_false] at hp
  rcases hp with hp | hp
  all_goals
    repeat' first
      | (subst hp; simp [h]; done)
      | (subst hp; simp [h, relayInAction_safe hr]; done)
      | (rcases hp with hp | hp)

theorem entryAction_safe {a : Fixed} {relay : RelayHandler} (hr : GoodRelay relay) (index sub : Nat) (r : ReqId) (b : List Byte)
    (s : State) (h : safeRel a (fixedPart s)) : safeRel a (fixedPart (entryAction relay index sub r b s)) := by
  unfold entryAction
  split
  · simp [selectAction, h]
  · split
    · simp [h]
    · split
      · simp [h]
      · split
        · simp [h]
        · split
          · simp [pendingSlotAction, h]
          · cases hf : (actionTable relay).find? (fun p => p.1 == entryKey index sub) with
            | some p => exact actionTable_safe hr _ (List.mem_of_find?_eq_some hf) r b s h
            | none => simp [storeEntry, h]

@[simp] theorem performWrite_safe {a : Fixed} (relay : RelayHandler) (r : ReqId) (index sub : Nat) (bytes : List Byte) (s : State)
    (hr : GoodRelay relay) (h : safeRel a (fixedPart s)) : safeRel a (fixedPart (performWrite relay r index sub bytes s)) := by
  unfold performWrite
  split
  · exact h
  · refine entryAction_safe hr _ _ _ _ _ ?_
    split <;> simp [h]

@[simp] theorem acceptWrite_safe {a : Fixed} (relay : RelayHandler) (r : ReqId) (m : DictMsg) (bytes : List Byte) (s : State) (hr : GoodRelay relay) (h : safeRel a (fixedPart s)) :
    safeRel a (fixedPart (acceptWrite relay r m bytes s)) := by
  unfold acceptWrite
  simp [h, hr]

@[simp] theorem takeSegmentOf_safe {a : Fixed} (relay : RelayHandler) (r : ReqId) (m : DictMsg) (before : List Byte) (s : State) (hr : GoodRelay relay) (h : safeRel a (fixedPart s)) :
    safeRel a (fixedPart (takeSegmentOf relay r m before s)) := by
  unfold takeSegmentOf
  simp only []
  (repeat' split) <;> simp [h, hr]

@[simp] theorem segmentMessage_safe {a : Fixed} (relay : RelayHandler) (r : ReqId) (m : DictMsg) (s : State) (hr : GoodRelay relay) (h : safeRel a (fixedPart s)) :
    safeRel a (fixedPart (segmentMessage relay r m s)) := by
  unfold segmentMessage
  (repeat' split) <;> simp [h, hr]

@[simp] theorem writeMessage_safe {a : Fixed} (relay : RelayHandler) (r : ReqId) (m : DictMsg) (s : State) (hr : GoodRelay relay) (h : safeRel a (fixedPart s)) :
    safeRel a (fixedPart (writeMessage relay r m s)) := by
  unfold writeMessage
  simp only []
  (repeat' split) <;> simp [h, hr]

@[simp] theorem applyItems_safe {a : Fixed} (relay : RelayHandler) (r : ReqId) (items : List DictItem) (s : State)
    (hr : GoodRelay relay) (h : safeRel a (fixedPart s)) : safeRel a (fixedPart (applyItems relay r items s)) := by
  unfold applyItems
  exact safeRel_foldl' _ _ (fun s i hs => performWrite_safe _ _ _ _ _ _ hr hs) _ h

@[simp] theorem multiWriteMessage_safe {a : Fixed} (relay : RelayHandler) (r : ReqId) (m : DictMsg) (s : State)
    (hr : GoodRelay relay) (h : safeRel a (fixedPart s)) : safeRel a (fixedPart (multiWriteMessage relay r m s)) := by
  unfold multiWriteMessage
  simp only []
  split
  · simp [h]
  · split
    · simp [h]
    · exact applyItems_safe _ _ _ _ hr (by simp [h])

@[simp] theorem performMessage_safe {a : Fixed} (relay : RelayHandler) (r : ReqId) (m : DictMsg) (s : State) (hr : GoodRelay relay) (h : safeRel a (fixedPart s)) :
    safeRel a (fixedPart (performMessage relay r m s)) := by
  unfold performMessage
  (repeat' split) <;> simp [h, hr]

@[simp] theorem serveMessage_safe {a : Fixed} (relay : RelayHandler) (r : ReqId) (message : List Byte) (s : State) (hr : GoodRelay relay) (h : safeRel a (fixedPart s)) :
    safeRel a (fixedPart (serveMessage relay r message s)) := by
  unfold serveMessage
  simp only []
  (repeat' split) <;> simp [h, hr]

@[simp] theorem serveRow_safe {a : Fixed} (op : Nat) (relay : RelayHandler) (req : ReqId) (message : DictFrame) (s : State) (hr : GoodRelay relay) (h : safeRel a (fixedPart s)) :
    safeRel a (fixedPart (serveRow op relay req message s)) := by
  unfold serveRow
  (repeat' split) <;> simp [h, hr]

theorem goodRelay_none : GoodRelay (fun _ s => s) := fun _ _ _ h => h

@[simp] theorem applyKind_safe {a : Fixed} (sid kind : Nat) (payload : List Byte) (s : State) (h : safeRel a (fixedPart s)) :
    safeRel a (fixedPart (applyKind sid kind payload s)) := by
  unfold applyKind
  split
  · exact serveMessage_safe _ _ _ _ goodRelay_none h
  · (repeat' split) <;> simp [h]

@[simp] theorem applyRecord_safe {a : Fixed} (sid kind : Nat) (payload : List Byte) (s : State) (h : safeRel a (fixedPart s)) :
    safeRel a (fixedPart (applyRecord sid kind payload s)) := by
  unfold applyRecord
  simp [h]

@[simp] theorem applyHeld_safe {a : Fixed} (fuel sid : Nat) (s : State) (h : safeRel a (fixedPart s)) :
    safeRel a (fixedPart (applyHeld fuel sid s)) := by
  induction fuel generalizing s with
  | zero => exact h
  | succ k ih =>
    unfold applyHeld
    (repeat' split) <;> first | exact h | (refine ih _ ?_; simp [h])

@[simp] theorem orderRecord_safe {a : Fixed} (via : Option UdpPath) (o : OwnerSession) (r : OwnerRec) (payload : List Byte) (s : State) (h : safeRel a (fixedPart s)) :
    safeRel a (fixedPart (orderRecord via o r payload s)) := by
  unfold orderRecord
  (repeat' split) <;> simp [h]

@[simp] theorem takeData_safe {a : Fixed} (via : Option UdpPath) (r : OwnerRec) (s : State) (h : safeRel a (fixedPart s)) :
    safeRel a (fixedPart (takeData via r s)) := by
  unfold takeData
  (repeat' split) <;> simp [h]

@[simp] theorem takeRecordOf_safe {a : Fixed} (via : Option UdpPath) (r : OwnerRec) (s : State) (h : safeRel a (fixedPart s)) :
    safeRel a (fixedPart (takeRecordOf via r s)) := by
  unfold takeRecordOf
  (repeat' split) <;> simp [h]

@[simp] theorem ownerArrives_safe {a : Fixed} (via : Option UdpPath) (record : List Byte) (s : State) (h : safeRel a (fixedPart s)) :
    safeRel a (fixedPart (ownerArrives via record s)) := by
  unfold ownerArrives
  (repeat' split) <;> simp [h]

@[simp] theorem ownerRow_safe {a : Fixed} (typ : Nat) (kind : Option Nat) (via : Option UdpPath) (record : List Byte) (s : State) (h : safeRel a (fixedPart s)) :
    safeRel a (fixedPart (ownerRow typ kind via record s)) := by
  unfold ownerRow
  (repeat' split) <;> simp [h]

@[simp] theorem execOwnerOpen_safe (via : Option UdpPath) (record : List Byte) (s : State) : outSafe s (execOwnerOpen via record s) := by
  unfold execOwnerOpen
  (repeat' split) <;> simp

@[simp] theorem execOwnerDict_safe (via : Option UdpPath) (record : List Byte) (s : State) : outSafe s (execOwnerDict via record s) := by
  unfold execOwnerDict
  (repeat' split) <;> simp

@[simp] theorem execOwnerStage_safe (via : Option UdpPath) (record : List Byte) (s : State) : outSafe s (execOwnerStage via record s) := by
  unfold execOwnerStage
  (repeat' split) <;> simp

@[simp] theorem execOwnerCommand_safe (via : Option UdpPath) (record : List Byte) (s : State) : outSafe s (execOwnerCommand via record s) := by
  unfold execOwnerCommand
  (repeat' split) <;> simp

@[simp] theorem execOwnerMap_safe (via : Option UdpPath) (record : List Byte) (s : State) : outSafe s (execOwnerMap via record s) := by
  unfold execOwnerMap
  (repeat' split) <;> simp

@[simp] theorem execOwnerClose_safe (via : Option UdpPath) (record : List Byte) (s : State) : outSafe s (execOwnerClose via record s) := by
  unfold execOwnerClose
  (repeat' split) <;> simp

theorem relayRecord_good : GoodRelay relayRecord := fun _ b s h => ownerArrives_safe none b s h

@[simp] theorem execRelayIn_safe (req : ReqId) (value : List Byte) (s : State) : outSafe s (execRelayIn req value s) := by
  unfold execRelayIn
  simp only [outSafe_next]
  exact cmdVia_safe (fun r b s h => relayInAction_safe relayRecord_good r b s h) _ _ _ _ _ (safeRel_refl _)

@[simp] theorem execDictRead_safe (req : ReqId) (message : DictFrame) (s : State) : outSafe s (execDictRead req message s) :=
  serveRow_safe 1 _ _ _ _ relayRecord_good (safeRel_refl _)

@[simp] theorem execDictWrite_safe (req : ReqId) (message : DictFrame) (s : State) : outSafe s (execDictWrite req message s) :=
  serveRow_safe 2 _ _ _ _ relayRecord_good (safeRel_refl _)

@[simp] theorem execMultiWrite_safe (req : ReqId) (message : DictFrame) (s : State) : outSafe s (execMultiWrite req message s) :=
  serveRow_safe 3 _ _ _ _ relayRecord_good (safeRel_refl _)

@[simp] theorem execMultiRead_safe (req : ReqId) (message : DictFrame) (s : State) : outSafe s (execMultiRead req message s) :=
  serveRow_safe 4 _ _ _ _ relayRecord_good (safeRel_refl _)

@[simp] theorem execDwGo_safe (request : List Byte) (w : HostWrite) (s : State) : outSafe s (execDwGo request w s) := by
  unfold execDwGo
  (repeat' split) <;> simp [relayRecord_good]

@[simp] theorem idleTick_safe {a : Fixed} (s : State) (h : safeRel a (fixedPart s)) : safeRel a (fixedPart (idleTick s)) := by
  have hn : fixedPart (noteReady (noteIdle (noteDebts (settleOutgoing s)))) = fixedPart s := by simp
  have ht : safeRel a (fixedPart (noteReady (noteIdle (noteDebts (settleOutgoing s))))) := hn.symm ▸ h
  have hb := blowFuse_safe (a := a)
    (noteScrubs (settleHoldoff (settleUndeploy { noteReady (noteIdle (noteDebts (settleOutgoing s))) with
      now := (noteReady (noteIdle (noteDebts (settleOutgoing s)))).now + 20 })))
    (by simp only [noteScrubs_fix, settleHoldoff_fix]
        exact settleUndeploy_safe _ (safeRel_trans ht ⟨rfl, fun _ _ => Nat.le_refl _, id⟩))
  unfold idleTick
  dsimp only
  split
  · simpa only [pumpAll_fix, resumeLinks_fix, joinLate_fix] using hb
  · simpa only [joinLate_fix] using hb

end Sys2Proof.Machine
end

