-- ==== Sys2Proof/Laws/Exec.lean ====
section
/-! SUPPORT. What one command can do to the queue, the anti-rollback counters and the zeroise
duty, whichever command it is: one lemma over `exec`, put together from the lemmas of the
meanings. -/

namespace Sys2Proof.Machine

open Sys2Proof

/-- A command that answers a next state leaves the queue as it was, lowers no anti-rollback
counter and keeps the zeroise duty of a sealed job. -/
theorem exec_safe (i : Instr) (s : State) : outSafe s (exec i s) := by
  cases i with
  | lorjoSegmentRx port src dst datagram => exact outSafe_of_keeps (execLorjoSegmentRx_keeps port src dst datagram s)
  | reassemblyTimeout src requestId => exact outSafe_of_keeps (execReassemblyTimeout_keeps src requestId s)
  | keepalive port src dst datagram => exact outSafe_of_keeps (execKeepalive_keeps port src dst datagram s)
  | probe port src dst datagram => exact outSafe_of_keeps (execProbe_keeps port src dst datagram s)
  | exitTimer request => exact outSafe_of_keeps (execExitTimer_keeps request s)
  | responseTransmit port => exact outSafe_of_keeps (execResponseTransmit_keeps port s)
  | bindingEnable req binding value => exact outSafe_of_keeps (execBindingEnable_keeps req binding value s)
  | svcEnable req value => exact outSafe_of_keeps (execSvcEnable_keeps req value s)
  | keyLoad req value => exact outSafe_of_keeps (execKeyLoad_keeps req value s)
  | lookup core desc org => exact outSafe_of_keeps (execLookup_keeps core desc org s)
  | laneServe lookup lane => exact outSafe_of_keeps (execLaneServe_keeps lookup lane s)
  | stackReduce lookup stack => exact outSafe_of_keeps (execStackReduce_keeps lookup stack s)
  | bagCombine lookup bag => exact outSafe_of_keeps (execBagCombine_keeps lookup bag s)
  | remoteTimeout lookup owner => exact outSafe_of_keeps (execRemoteTimeout_keeps lookup owner s)
  | tableDefine req desc => exact outSafe_of_keeps (execTableDefine_keeps req desc s)
  | tableDelete req tableId => exact outSafe_of_keeps (execTableDelete_keeps req tableId s)
  | tableDeleteComplete tableId => exact outSafe_of_keeps (execTableDeleteComplete_keeps tableId s)
  | rowWrite core desc org => exact outSafe_of_keeps (execRowWrite_keeps core desc org s)
  | immediateWriteChunk write lane => exact outSafe_of_keeps (execImmediateWriteChunk_keeps write lane s)
  | rowStage write lane => exact outSafe_of_keeps (execRowStage_keeps write lane s)
  | deferredRowRetry write lane => exact outSafe_of_keeps (execDeferredRowRetry_keeps write lane s)
  | deferLimitExpiry write => exact outSafe_of_keeps (execDeferLimitExpiry_keeps write s)
  | batchOpen core desc org => exact outSafe_of_keeps (execBatchOpen_keeps core desc org s)
  | batchCommit core desc org => exact outSafe_of_keeps (execBatchCommit_keeps core desc org s)
  | batchCommitProper write => exact outSafe_of_keeps (execBatchCommitProper_keeps write s)
  | commitWaitTimeout write => exact outSafe_of_keeps (execCommitWaitTimeout_keeps write s)
  | batchAbort core desc org => exact outSafe_of_keeps (execBatchAbort_keeps core desc org s)
  | backgroundCopy lane => exact outSafe_of_keeps (execBackgroundCopy_keeps lane s)
  | preimageFree epoch => exact outSafe_of_keeps (execPreimageFree_keeps epoch s)
  | remoteCommitTimeout write owner => exact outSafe_of_keeps (execRemoteCommitTimeout_keeps write owner s)
  | matmul core desc org => exact outSafe_of_keeps (execMatmul_keeps core desc org s)
  | tileStream core => exact outSafe_of_keeps (execTileStream_keeps core s)
  | chainDrain core accBase => exact outSafe_of_keeps (execChainDrain_keeps core accBase s)
  | chainReplay core accBase => exact outSafe_of_keeps (execChainReplay_keeps core accBase s)
  | tilePreempt core => exact outSafe_of_keeps (execTilePreempt_keeps core s)
  | vsetl core word => exact outSafe_of_keeps (execVsetl_keeps core word s)
  | vld core word => exact outSafe_of_keeps (execVld_keeps core word s)
  | vst core word => exact outSafe_of_keeps (execVst_keeps core word s)
  | vopVv core word => exact outSafe_of_keeps (execVopVv_keeps core word s)
  | vopVx core word => exact outSafe_of_keeps (execVopVx_keeps core word s)
  | vcvt core word => exact outSafe_of_keeps (execVcvt_keeps core word s)
  | vun core word => exact outSafe_of_keeps (execVun_keeps core word s)
  | vred core word => exact outSafe_of_keeps (execVred_keeps core word s)
  | vtopkSet core word => exact outSafe_of_keeps (execVtopkSet_keeps core word s)
  | vtopkInsert core word => exact outSafe_of_keeps (execVtopkInsert_keeps core word s)
  | vtopkStore core word => exact outSafe_of_keeps (execVtopkStore_keeps core word s)
  | vtopkFloor core word => exact outSafe_of_keeps (execVtopkFloor_keeps core word s)
  | eissue core word => exact outSafe_of_keeps (execEissue_keeps core word s)
  | efence core word => exact outSafe_of_keeps (execEfence_keeps core word s)
  | smrd core word => exact outSafe_of_keeps (execSmrd_keeps core word s)
  | hwait core word => exact outSafe_of_keeps (execHwait_keeps core word s)
  | hsig core word => exact outSafe_of_keeps (execHsig_keeps core word s)
  | sfop core word => exact outSafe_of_keeps (execSfop_keeps core word s)
  | resolve core word => exact outSafe_of_keeps (execResolve_keeps core word s)
  | taskend core word => exact outSafe_of_keeps (execTaskend_keeps core word s)
  | baseInstruction core word => exact outSafe_of_keeps (execBaseInstruction_keeps core word s)
  | timerInterrupt core => exact outSafe_of_keeps (execTimerInterrupt_keeps core s)
  | qworkInterrupt core => exact outSafe_of_keeps (execQworkInterrupt_keeps core s)
  | taskStart core => exact outSafe_of_keeps (execTaskStart_keeps core s)
  | taskLimitExpiry core => exact outSafe_of_keeps (execTaskLimitExpiry_keeps core s)
  | vtensor core desc org => exact outSafe_of_keeps (execVtensor_keeps core desc org s)
  | seqSummary core desc org => exact outSafe_of_keeps (execSeqSummary_keeps core desc org s)
  | segmentPass summary segment => exact outSafe_of_keeps (execSegmentPass_keeps summary segment s)
  | summaryMerge summary => exact outSafe_of_keeps (execSummaryMerge_keeps summary s)
  | appendStage launch stage => exact outSafe_of_keeps (execAppendStage_keeps launch stage s)
  | appendChunkWait launch => exact outSafe_of_keeps (execAppendChunkWait_keeps launch s)
  | sessionStep => exact outSafe_of_keeps (execSessionStep_keeps s)
  | sessionClose req session => exact outSafe_of_keeps (execSessionClose_keeps req session s)
  | transfer core desc org => exact outSafe_of_keeps (execTransfer_keeps core desc org s)
  | caravan core desc org => exact outSafe_of_keeps (execCaravan_keeps core desc org s)
  | tileRequest transfer => exact outSafe_of_keeps (execTileRequest_keeps transfer s)
  | tileDelivery transfer tile => exact outSafe_of_keeps (execTileDelivery_keeps transfer tile s)
  | weightRingStart core => exact outSafe_of_keeps (execWeightRingStart_keeps core s)
  | caravanTileSend transfer => exact outSafe_of_keeps (execCaravanTileSend_keeps transfer s)
  | catchupFetch transfer core => exact outSafe_of_keeps (execCatchupFetch_keeps transfer core s)
  | transferFaultResume transfer => exact outSafe_of_keeps (execTransferFaultResume_keeps transfer s)
  | stageBarrier launch stage => exact outSafe_of_keeps (execStageBarrier_keeps launch stage s)
  | stagePrologue launch stage => exact outSafe_of_keeps (execStagePrologue_keeps launch stage s)
  | residentSegmentLoad context => exact outSafe_of_keeps (execResidentSegmentLoad_keeps context s)
  | tailDoorbell queue w => exact outSafe_of_keeps (execTailDoorbell_keeps queue w s)
  | phaseRetry queue => exact outSafe_of_keeps (execPhaseRetry_keeps queue s)
  | cqHeadDoorbell queue w => exact outSafe_of_keeps (execCqHeadDoorbell_keeps queue w s)
  | nop queue => exact outSafe_of_keeps (execNop_keeps queue s)
  | launch queue => exact outSafe_of_keeps (execLaunch_keeps queue s)
  | descriptor queue => exact outSafe_of_keeps (execDescriptor_keeps queue s)
  | inlineWrite queue => exact outSafe_of_keeps (execInlineWrite_keeps queue s)
  | graphLoad queue => exact outSafe_of_keeps (execGraphLoad_keeps queue s)
  | graphPatch queue => exact outSafe_of_keeps (execGraphPatch_keeps queue s)
  | graphUnload queue => exact outSafe_of_keeps (execGraphUnload_keeps queue s)
  | task queue => exact outSafe_of_keeps (execTask_keeps queue s)
  | commandWaitMet queue => exact outSafe_of_keeps (execCommandWaitMet_keeps queue s)
  | hostPoll => exact outSafe_of_keeps (execHostPoll_keeps s)
  | hitchTimeout queue core => exact outSafe_of_keeps (execHitchTimeout_keeps queue core s)
  | commandCompletion queue cmd => exact outSafe_of_keeps (execCommandCompletion_keeps queue cmd s)
  | stageDispatch launch stage => exact outSafe_of_keeps (execStageDispatch_keeps launch stage s)
  | launchComplete launch => exact outSafe_of_keeps (execLaunchComplete_keeps launch s)
  | queueEnable req queue value => exact outSafe_of_keeps (execQueueEnable_keeps req queue value s)
  | queueDrainDone queue => exact execQueueDrainDone_safe queue s
  | patchSlotTimeout queue cmd => exact outSafe_of_keeps (execPatchSlotTimeout_keeps queue cmd s)
  | versionFree graph version => exact outSafe_of_keeps (execVersionFree_keeps graph version s)
  | specDispatch launch stage => exact outSafe_of_keeps (execSpecDispatch_keeps launch stage s)
  | branchResolve launch branch outcome => exact outSafe_of_keeps (execBranchResolve_keeps launch branch outcome s)
  | rangeInvalidate spec => exact outSafe_of_keeps (execRangeInvalidate_keeps spec s)
  | predictReset req value => exact outSafe_of_keeps (execPredictReset_keeps req value s)
  | lqCtrlWrite offset w => exact outSafe_of_keeps (execLqCtrlWrite_keeps offset w s)
  | sqTail w => exact outSafe_of_keeps (execSqTail_keeps w s)
  | legacyCqHead w => exact outSafe_of_keeps (execLegacyCqHead_keeps w s)
  | legacyNop => exact outSafe_of_keeps (execLegacyNop_keeps s)
  | legacyDma => exact outSafe_of_keeps (execLegacyDma_keeps s)
  | legacyDesc => exact outSafe_of_keeps (execLegacyDesc_keeps s)
  | legacyKernel => exact outSafe_of_keeps (execLegacyKernel_keeps s)
  | legacyLaunch => exact outSafe_of_keeps (execLegacyLaunch_keeps s)
  | legacyWait => exact outSafe_of_keeps (execLegacyWait_keeps s)
  | legacySignal => exact outSafe_of_keeps (execLegacySignal_keeps s)
  | jobDeploy req value => exact execJobDeploy_safe req value s
  | jobUndeploy req value => exact execJobUndeploy_safe req value s
  | undeployDrainTimeout => exact execUndeployDrainTimeout_safe s
  | contextCreate req desc => exact outSafe_of_keeps (execContextCreate_keeps req desc s)
  | contextDelete req context => exact outSafe_of_keeps (execContextDelete_keeps req context s)
  | schedCommit req value => exact outSafe_of_keeps (execSchedCommit_keeps req value s)
  | scheduleCycleStart => exact outSafe_of_keeps (execScheduleCycleStart_keeps s)
  | slotBoundary => exact outSafe_of_keeps (execSlotBoundary_keeps s)
  | reclaim core => exact outSafe_of_keeps (execReclaim_keeps core s)
  | predictiveWake cg => exact outSafe_of_keeps (execPredictiveWake_keeps cg s)
  | idleStepDown cg => exact outSafe_of_keeps (execIdleStepDown_keeps cg s)
  | patrolScrub cold symbols => exact outSafe_of_keeps (execPatrolScrub_keeps cold symbols s)
  | rowRemap copy => exact outSafe_of_keeps (execRowRemap_keeps copy s)
  | repairRun req value => exact outSafe_of_keeps (execRepairRun_keeps req value s)
  | repairAdd req entry => exact outSafe_of_keeps (execRepairAdd_keeps req entry s)
  | testPortRaw req value => exact outSafe_of_keeps (execTestPortRaw_keeps req value s)
  | mapTail w => exact outSafe_of_keeps (execMapTail_keeps w s)
  | alloc => exact outSafe_of_keeps (execAlloc_keeps s)
  | free => exact outSafe_of_keeps (execFree_keeps s)
  | mapHost => exact outSafe_of_keeps (execMapHost_keeps s)
  | setAbsent => exact outSafe_of_keeps (execSetAbsent_keeps s)
  | protect => exact outSafe_of_keeps (execProtect_keeps s)
  | migrate => exact outSafe_of_keeps (execMigrate_keeps s)
  | deny => exact outSafe_of_keeps (execDeny_keeps s)
  | pageFault agent va access => exact outSafe_of_keeps (execPageFault_keeps agent va access s)
  | fqHead w => exact outSafe_of_keeps (execFqHead_keeps w s)
  | fqOverflowClear req value => exact outSafe_of_keeps (execFqOverflowClear_keeps req value s)
  | faultReplay agent => exact outSafe_of_keeps (execFaultReplay_keeps agent s)
  | faultTimeout page => exact outSafe_of_keeps (execFaultTimeout_keeps page s)
  | bar2Read read bytes => exact outSafe_of_keeps (execBar2Read_keeps read bytes s)
  | bar2Write offset bytes => exact outSafe_of_keeps (execBar2Write_keeps offset bytes s)
  | bar2Atomic offset op width operand compare => exact outSafe_of_keeps (execBar2Atomic_keeps offset op width operand compare s)
  | eventCauseClear w => exact outSafe_of_keeps (execEventCauseClear_keeps w s)
  | functionLevelReset start => exact outSafe_of_keeps (execFunctionLevelReset_keeps start s)
  | perstN ev => exact outSafe_of_keeps (execPerstN_keeps ev s)
  | linkDown => exact outSafe_of_keeps (execLinkDown_keeps s)
  | linkTraining partnerGen lanes => exact outSafe_of_keeps (execLinkTraining_keeps partnerGen lanes s)
  | hostUnreachable ev => exact outSafe_of_keeps (execHostUnreachable_keeps ev s)
  | dmaRequestError busAddr agent error => exact outSafe_of_keeps (execDmaRequestError_keeps busAddr agent error s)
  | poisonedWrite correctable => exact outSafe_of_keeps (execPoisonedWrite_keeps correctable s)
  | dwGo request w => exact execDwGo_safe request w s
  | peerSet req value => exact outSafe_of_keeps (execPeerSet_keeps req value s)
  | fabricJoin req value => exact outSafe_of_keeps (execFabricJoin_keeps req value s)
  | fabricLeave req value => exact outSafe_of_keeps (execFabricLeave_keeps req value s)
  | hello iface datagram => exact outSafe_of_keeps (execHello_keeps iface datagram s)
  | accept iface datagram => exact outSafe_of_keeps (execAccept_keeps iface datagram s)
  | finish iface datagram => exact outSafe_of_keeps (execFinish_keeps iface datagram s)
  | handshakeTimeout peer => exact outSafe_of_keeps (execHandshakeTimeout_keeps peer s)
  | fabricDataRx iface ce datagram => exact outSafe_of_keeps (execFabricDataRx_keeps iface ce datagram s)
  | fabricAckRx iface ce datagram => exact outSafe_of_keeps (execFabricAckRx_keeps iface ce datagram s)
  | ackTimer peer => exact outSafe_of_keeps (execAckTimer_keeps peer s)
  | retransmitTimeout peer psn => exact outSafe_of_keeps (execRetransmitTimeout_keeps peer psn s)
  | cwndUpdate peer => exact outSafe_of_keeps (execCwndUpdate_keeps peer s)
  | rekey peer => exact outSafe_of_keeps (execRekey_keeps peer s)
  | pathMove peer path down => exact outSafe_of_keeps (execPathMove_keeps peer path down s)
  | fabricLoadServe peer seq => exact outSafe_of_keeps (execFabricLoadServe_keeps peer seq s)
  | fabricStoreServe peer seq => exact outSafe_of_keeps (execFabricStoreServe_keeps peer seq s)
  | fabricAtomicServe peer seq => exact outSafe_of_keeps (execFabricAtomicServe_keeps peer seq s)
  | fabricSignalServe peer seq => exact outSafe_of_keeps (execFabricSignalServe_keeps peer seq s)
  | fabricLookupServe peer seq => exact outSafe_of_keeps (execFabricLookupServe_keeps peer seq s)
  | fabricRowStage peer seq => exact outSafe_of_keeps (execFabricRowStage_keeps peer seq s)
  | fabricBatchCommit peer seq => exact outSafe_of_keeps (execFabricBatchCommit_keeps peer seq s)
  | fabricBatchAbort peer seq => exact outSafe_of_keeps (execFabricBatchAbort_keeps peer seq s)
  | fabricResponseRx peer record => exact outSafe_of_keeps (execFabricResponseRx_keeps peer record s)
  | opTimeout peer seq => exact outSafe_of_keeps (execOpTimeout_keeps peer seq s)
  | closeRx iface datagram => exact outSafe_of_keeps (execCloseRx_keeps iface datagram s)
  | peerDead peer => exact outSafe_of_keeps (execPeerDead_keeps peer s)
  | keepaliveAckTimer peer => exact outSafe_of_keeps (execKeepaliveAckTimer_keeps peer s)
  | fabricAtomic core desc org => exact outSafe_of_keeps (execFabricAtomic_keeps core desc org s)
  | fabricBarrier core desc org => exact outSafe_of_keeps (execFabricBarrier_keeps core desc org s)
  | fabricBroadcast core desc org => exact outSafe_of_keeps (execFabricBroadcast_keeps core desc org s)
  | fabricSnapshot core desc org => exact outSafe_of_keeps (execFabricSnapshot_keeps core desc org s)
  | globalTimeout group => exact outSafe_of_keeps (execGlobalTimeout_keeps group s)
  | ggroupEnable req group value => exact outSafe_of_keeps (execGgroupEnable_keeps req group value s)
  | ownerOpen via record => exact execOwnerOpen_safe via record s
  | ownerHandshakeTimeout via => exact outSafe_of_keeps (execOwnerHandshakeTimeout_keeps via s)
  | ownerDict via record => exact execOwnerDict_safe via record s
  | ownerStage via record => exact execOwnerStage_safe via record s
  | ownerCommand via record => exact execOwnerCommand_safe via record s
  | ownerMap via record => exact execOwnerMap_safe via record s
  | ownerClose via record => exact execOwnerClose_safe via record s
  | ownerGapTimeout session => exact outSafe_of_keeps (execOwnerGapTimeout_keeps session s)
  | relayIn req value => exact execRelayIn_safe req value s
  | relayOut req length => exact outSafe_of_keeps (execRelayOut_keeps req length s)
  | quoteNonce req value => exact outSafe_of_keeps (execQuoteNonce_keeps req value s)
  | measureExtend req value => exact outSafe_of_keeps (execMeasureExtend_keeps req value s)
  | rollbackCommit req value => exact execRollbackCommit_safe req value s
  | keyWipe req value => exact execKeyWipe_safe req value s
  | zeroisation => exact execZeroisation_safe s
  | opPointMove faster => exact outSafe_of_keeps (execOpPointMove_keeps faster s)
  | capProjection watts demand => exact outSafe_of_keeps (execCapProjection_keeps watts demand s)
  | powerCapWrite req value => exact outSafe_of_keeps (execPowerCapWrite_keeps req value s)
  | sensorSample temps => exact outSafe_of_keeps (execSensorSample_keeps temps s)
  | thermalTrip => exact execThermalTrip_safe s
  | powerOff req value => exact execPowerOff_safe req value s
  | thermTripInN ns => exact execThermTripInN_safe ns s
  | refClockLoss => exact outSafe_of_keeps (execRefClockLoss_keeps s)
  | cgWake cg => exact outSafe_of_keeps (execCgWake_keeps cg s)
  | cgWakeComplete cg => exact outSafe_of_keeps (execCgWakeComplete_keeps cg s)
  | netSwitchOn => exact outSafe_of_keeps (execNetSwitchOn_keeps s)
  | netSwitchOff => exact outSafe_of_keeps (execNetSwitchOff_keeps s)
  | coldSwitchOn => exact outSafe_of_keeps (execColdSwitchOn_keeps s)
  | coldSelfRefresh => exact outSafe_of_keeps (execColdSelfRefresh_keeps s)
  | selfRefreshExit => exact outSafe_of_keeps (execSelfRefreshExit_keeps s)
  | powerManagerTick => exact outSafe_of_keeps (execPowerManagerTick_keeps s)
  | bivGraphLoad => exact outSafe_of_keeps (execBivGraphLoad_keeps s)
  | coldReset req value => exact execColdReset_safe req value s
  | modResetN ns => exact execModResetN_safe ns s
  | startUp => exact execStartUp_safe s
  | firmwareFallback => exact execFirmwareFallback_safe s
  | jobFault => exact execJobFault_safe s
  | watchdogExpiry => exact execWatchdogExpiry_safe s
  | postilionWedge => exact outSafe_of_keeps (execPostilionWedge_keeps s)
  | maintMode req value => exact outSafe_of_keeps (execMaintMode_keeps req value s)
  | cgReset req mask => exact outSafe_of_keeps (execCgReset_keeps req mask s)
  | fwWrite req value => exact outSafe_of_keeps (execFwWrite_keeps req value s)
  | fwInstall req value => exact outSafe_of_keeps (execFwInstall_keeps req value s)
  | fwActivate req value => exact outSafe_of_keeps (execFwActivate_keeps req value s)
  | fwConfirm req value => exact outSafe_of_keeps (execFwConfirm_keeps req value s)
  | dictRead req message => exact execDictRead_safe req message s
  | dictWrite req message => exact execDictWrite_safe req message s
  | multiWrite req message => exact execMultiWrite_safe req message s
  | multiRead req message => exact execMultiRead_safe req message s
  | segmentLapse req => exact outSafe_of_keeps (execSegmentLapse_keeps req s)
  | snapshotLapse req => exact outSafe_of_keeps (execSnapshotLapse_keeps req s)
  | waybillRecordWrite => exact outSafe_of_keeps (execWaybillRecordWrite_keeps s)
  | rateWindowEnd => exact outSafe_of_keeps (execRateWindowEnd_keeps s)
  | wbRead req => exact outSafe_of_keeps (execWbRead_keeps req s)
  | wbClear req value => exact outSafe_of_keeps (execWbClear_keeps req value s)
  | wbClearCopyDone => exact outSafe_of_keeps (execWbClearCopyDone_keeps s)
  | inputPowerLoss => exact execInputPowerLoss_safe s
  | refClockRestored => exact outSafe_of_keeps (execRefClockRestored_keeps s)
  | interfaceUp iface => exact outSafe_of_keeps (execInterfaceUp_keeps iface s)
  | globalOperationRx peer record => exact outSafe_of_keeps (execGlobalOperationRx_keeps peer record s)
  | fabricAtomicCoreRelease id => exact outSafe_of_keeps (execFabricAtomicCoreRelease_keeps id s)
  | sessionRetry peer => exact outSafe_of_keeps (execSessionRetry_keeps peer s)
  | keptResponseLapse req => exact outSafe_of_keeps (execKeptResponseLapse_keeps req s)
  | msixTableWrite offset w => exact outSafe_of_keeps (execMsixTableWrite_keeps offset w s)
  | bar2Resize gib => exact outSafe_of_keeps (execBar2Resize_keeps gib s)
  | neighborDiscoveryFrame iface v6 request target sender mac => exact outSafe_of_keeps (execNeighborDiscoveryFrame_keeps iface v6 request target sender mac s)

end Sys2Proof.Machine
end

