-- ==== Sys2Proof/Laws/Memory.lean ====
section
/-! SUPPORT. The sparse memories: every operation keeps the canonical form, a read after a write gives
the bytes written, a write leaves every other byte alone, and the memories of the reset state are canonical. -/

namespace Sys2Proof.Machine

open Sys2Proof

theorem memWfFrom_mono {lo lo' : Nat} {m : SMem} (h : lo' ≤ lo) (w : memWfFrom lo m = true) : memWfFrom lo' m = true := by
  cases m with
  | nil => rfl
  | cons c t =>
    obtain ⟨k, v⟩ := c
    simp only [memWfFrom, Bool.and_eq_true, decide_eq_true_eq] at w ⊢
    exact ⟨⟨by omega, w.1.2⟩, w.2⟩

theorem memSet_wfFrom {lo : Nat} (m : SMem) (a : Nat) (b : Byte) (h : lo ≤ a) (w : memWfFrom lo m = true) :
    memWfFrom lo (memSet m a b) = true := by
  induction m generalizing lo with
  | nil =>
    unfold memSet
    split
    · rfl
    · rename_i hb
      simp only [memWfFrom, Bool.and_eq_true, decide_eq_true_eq]
      exact ⟨⟨h, by simpa using hb⟩, trivial⟩
  | cons c t ih =>
    obtain ⟨k, v⟩ := c
    simp only [memWfFrom, Bool.and_eq_true, decide_eq_true_eq] at w
    obtain ⟨⟨hk, hv⟩, ht⟩ := w
    unfold memSet
    split
    · split
      · simp [memWfFrom, hk, ht]
        simpa using hv
      · rename_i hlt hb
        simp only [memWfFrom, Bool.and_eq_true, decide_eq_true_eq]
        exact ⟨⟨h, by simpa using hb⟩, ⟨by omega, hv⟩, ht⟩
    · split
      · rename_i hlt he
        subst he
        split
        · exact memWfFrom_mono (by omega) ht
        · rename_i hb
          simp only [memWfFrom, Bool.and_eq_true, decide_eq_true_eq]
          exact ⟨⟨h, by simpa using hb⟩, ht⟩
      · simp only [memWfFrom, Bool.and_eq_true, decide_eq_true_eq]
        exact ⟨⟨hk, hv⟩, ih (by omega) ht⟩

theorem memSet_wf (m : SMem) (a : Nat) (b : Byte) (w : memWf m = true) : memWf (memSet m a b) = true :=
  memSet_wfFrom m a b (Nat.zero_le a) w

theorem memWrite_wf (m : SMem) (a : Nat) (bs : List Byte) (w : memWf m = true) : memWf (memWrite m a bs) = true := by
  induction bs generalizing m a with
  | nil => exact w
  | cons b t ih => exact ih _ _ (memSet_wf m a b w)

theorem memFilter_wfFrom {lo : Nat} (m : SMem) (p : Host.Cell → Bool) (w : memWfFrom lo m = true) :
    memWfFrom lo (m.filter p) = true := by
  induction m generalizing lo with
  | nil => rfl
  | cons c t ih =>
    obtain ⟨k, v⟩ := c
    simp only [memWfFrom, Bool.and_eq_true, decide_eq_true_eq] at w
    obtain ⟨⟨hk, hv⟩, ht⟩ := w
    rw [List.filter_cons]
    split
    · simp only [memWfFrom, Bool.and_eq_true, decide_eq_true_eq]
      exact ⟨⟨hk, hv⟩, ih ht⟩
    · exact memWfFrom_mono (by omega) (ih ht)

theorem memZero_wf (m : SMem) (lo hi : Nat) (w : memWf m = true) : memWf (memZero m lo hi) = true :=
  memFilter_wfFrom m _ w

theorem memGet_below {lo : Nat} (m : SMem) (a : Nat) (h : a < lo) (w : memWfFrom lo m = true) : memGet m a = 0 := by
  induction m generalizing lo with
  | nil => rfl
  | cons c t ih =>
    obtain ⟨k, v⟩ := c
    simp only [memWfFrom, Bool.and_eq_true, decide_eq_true_eq] at w
    obtain ⟨⟨hk, hv⟩, ht⟩ := w
    unfold memGet
    rw [if_neg (by omega)]
    exact ih (by omega : a < k + 1) ht

/-- A byte written reads as written; every other byte reads as before. -/
theorem memGet_memSetFrom {lo : Nat} (m : SMem) (a x : Nat) (b : Byte) (w : memWfFrom lo m = true) :
    memGet (memSet m a b) x = if x = a then b else memGet m x := by
  induction m generalizing lo with
  | nil =>
    unfold memSet
    split
    · rename_i hb
      simp [memGet, hb]
    · by_cases hx : x = a
      · simp [memGet, hx]
      · have : ¬ a = x := fun e => hx e.symm
        simp [memGet, hx, this]
  | cons c t ih =>
    obtain ⟨k, v⟩ := c
    simp only [memWfFrom, Bool.and_eq_true, decide_eq_true_eq] at w
    obtain ⟨⟨hk, hv⟩, ht⟩ := w
    unfold memSet
    split
    · rename_i hlt
      split
      · rename_i hb
        split
        · rename_i hx
          subst hx
          rw [hb]
          have : memWfFrom k ((k, v) :: t) = true := by
            simp only [memWfFrom, Bool.and_eq_true, decide_eq_true_eq]
            exact ⟨⟨Nat.le_refl k, hv⟩, ht⟩
          exact memGet_below _ _ hlt this
        · rfl
      · rw [memGet]
        by_cases hx : x = a
        · simp [hx]
        · have : ¬ a = x := fun e => hx e.symm
          simp [hx, this]
    · split
      · rename_i hlt he
        subst he
        split
        · rename_i hb
          split
          · rename_i hx
            subst hx
            rw [hb]
            exact memGet_below t x (Nat.lt_succ_self x) ht
          · rename_i hx
            have : ¬ a = x := fun e => hx e.symm
            simp [memGet, this]
        · rw [memGet]
          by_cases hx : x = a
          · simp [hx]
          · have : ¬ a = x := fun e => hx e.symm
            simp [hx, this, memGet]
      · rename_i hlt hne
        rw [memGet, ih ht]
        by_cases hx : x = a
        · have : ¬ k = x := fun e => hne (by omega)
          simp [hx]
          intro e
          exact absurd e.symm hne
        · simp [hx, memGet]

theorem memGet_memSet (m : SMem) (a x : Nat) (b : Byte) (w : memWf m = true) :
    memGet (memSet m a b) x = if x = a then b else memGet m x :=
  memGet_memSetFrom m a x b w

/-- Bytes outside a write read as before; those inside read as written. -/
theorem memGet_memWrite (m : SMem) (a x : Nat) (bs : List Byte) (w : memWf m = true) :
    memGet (memWrite m a bs) x = if a ≤ x ∧ x < a + bs.length then bs.getD (x - a) 0 else memGet m x := by
  induction bs generalizing m a with
  | nil =>
    have : ¬ (a ≤ x ∧ x < a + ([] : List Byte).length) := by simp
    rw [if_neg this]
    rfl
  | cons b t ih =>
    rw [memWrite, ih _ _ (memSet_wf m a b w), memGet_memSet m a x b w]
    by_cases h1 : a + 1 ≤ x ∧ x < a + 1 + t.length
    · have h2 : a ≤ x ∧ x < a + (b :: t).length := by simp; omega
      have h3 : x - a = (x - (a + 1)) + 1 := by omega
      rw [if_pos h1, if_pos h2, h3]
      simp
    · rw [if_neg h1]
      by_cases h4 : x = a
      · have h2 : a ≤ x ∧ x < a + (b :: t).length := by simp; omega
        rw [if_pos h4, if_pos h2, h4]
        simp
      · have h2 : ¬ (a ≤ x ∧ x < a + (b :: t).length) := by simp; omega
        rw [if_neg h4, if_neg h2]

/-- What a write stored is read back. -/
theorem memRead_memWrite (m : SMem) (a : Nat) (bs : List Byte) (w : memWf m = true) :
    memRead (memWrite m a bs) a bs.length = bs := by
  have key : ∀ n k, n + k = bs.length → memRead (memWrite m a bs) (a + k) n = bs.drop k := by
    intro n
    induction n with
    | zero => intro k hk; simp [memRead]; omega
    | succ n ih =>
      intro k hk
      rw [memRead, memGet_memWrite m a (a + k) bs w, show a + k + 1 = a + (k + 1) by omega, ih (k + 1) (by omega)]
      rw [← List.cons_getElem_drop_succ (h := show k < bs.length by omega)]
      simp [show k < bs.length by omega]
  simpa using key bs.length 0 (by omega)

/-- A read of bytes outside a write reads as before. -/
theorem memRead_memWrite_disjoint (m : SMem) (a b n : Nat) (bs : List Byte) (w : memWf m = true)
    (h : b + n ≤ a ∨ a + bs.length ≤ b) : memRead (memWrite m a bs) b n = memRead m b n := by
  induction n generalizing b with
  | zero => rfl
  | succ n ih =>
    rw [memRead, memRead, ih (b + 1) (by omega), memGet_memWrite m a b bs w, if_neg (by omega)]
/-- A range set to 0 reads 0; every other byte reads as before. -/
theorem memGet_memZero (m : SMem) (lo hi x : Nat) :
    memGet (memZero m lo hi) x = if lo ≤ x ∧ x < hi then 0 else memGet m x := by
  induction m with
  | nil => simp [memZero, memGet]
  | cons c t ih =>
    obtain ⟨k, v⟩ := c
    unfold memZero at ih ⊢
    rw [List.filter_cons]
    by_cases hx : k = x
    · subst hx
      by_cases hr : lo ≤ k ∧ k < hi
      · have h0 : (decide (k < lo) || decide (hi ≤ k)) = false := by simp; omega
        simp only [h0]
        rw [if_pos hr] at ih ⊢
        simpa using ih
      · have h0 : (decide (k < lo) || decide (hi ≤ k)) = true := by simp; omega
        simp [h0, hr, memGet]
    · by_cases h0 : (decide (k < lo) || decide (hi ≤ k)) = true
      · simp [h0, hx, memGet, ih]
      · simp only [h0, memGet, if_neg hx]
        simpa using ih

theorem reset_memories_wf :
    memWf State.reset.mem.dram = true ∧ memWf State.reset.mem.sram = true ∧ memWf State.reset.mem.staging = true ∧
    memWf State.reset.mem.host = true ∧ memWf State.reset.recovery.staging = true :=
  ⟨rfl, rfl, rfl, rfl, rfl⟩

end Sys2Proof.Machine
end

