-- ==== Sys2Proof/Laws/Sealed.lean ====
section
/-! SUPPORT. Sealed messages: what AES-256-GCM sealed opens again under the same key, nonce and additional data, and the headers
of fabric packets and owner records are read from their own bytes alone. -/

namespace Sys2Proof.Machine

open Sys2Proof

theorem xorBytes_length : ∀ a b : List Byte, (xorBytes a b).length = a.length
  | [], _ => rfl
  | _ :: _, [] => rfl
  | _ :: as, _ :: bs => by simp [xorBytes, xorBytes_length as bs]

theorem xorBytes_xorBytes : ∀ a b : List Byte, xorBytes (xorBytes a b) b = a
  | [], _ => by simp [xorBytes]
  | _ :: _, [] => by simp [xorBytes]
  | a :: as, b :: bs => by simp [xorBytes, xorBytes_xorBytes as bs]

theorem gcmSeal_length (key nonce aad pt : List Byte) : (gcmSeal key nonce aad pt).length = pt.length + 16 := by
  simp [gcmSeal, xorBytes_length]

theorem gcmOpen_gcmSeal (key nonce aad pt : List Byte) : gcmOpen key nonce aad (gcmSeal key nonce aad pt) = some pt := by
  have hl := xorBytes_length pt ((List.range pt.length).map (Config.gcmStreamByte key nonce))
  simp only [gcmOpen, gcmSeal, List.length_append, List.length_map, List.length_range]
  simp [hl, xorBytes_xorBytes]

/-- A tag that is not the one of its text opens to nothing. -/
theorem gcmOpen_badTag (key nonce aad tag : List Byte) (h : tag.length = 16)
    (ht : tag ≠ (List.range 16).map (Config.gcmTagByte key nonce aad [])) : gcmOpen key nonce aad tag = none := by
  simp [gcmOpen, h, ht]

theorem slice_append (a b : List Byte) (i n : Nat) (h : i + n ≤ a.length) : slice (a ++ b) i n = slice a i n := by
  simp only [slice]
  rw [List.drop_append_of_le_length (by omega), List.take_append_of_le_length (by simp; omega)]

theorem pktOf_append (hdr tail : List Byte) (h : hdr.length = 40) : pktOf (hdr ++ tail) = pktOf hdr := by
  have hb : ∀ i n, i + n ≤ 40 → beAt (hdr ++ tail) i n = beAt hdr i n := fun i n hi => by
    simp only [beAt, slice_append hdr tail i n (by omega)]
  simp only [pktOf, List.length_append, hb 0 8 (by omega), hb 8 8 (by omega), hb 16 8 (by omega), hb 24 8 (by omega),
    hb 32 8 (by omega)]
  simp [h]

theorem openPkt_sealed (keys : List Byte) (fromInitiator : Bool) (p : Pkt) (hdr pt : List Byte) (h : hdr.length = 40)
    (hl : pt.length = p.length) :
    openPkt keys fromInitiator p (hdr ++ gcmSeal (dirKey keys fromInitiator).1
      (fabNonce (dirKey keys fromInitiator).2 p.epoch p.psn) hdr pt) = some pt := by
  simp [openPkt, ← h, gcmOpen_gcmSeal]
  exact hl

theorem authentic_of (typ : Nat) (d : List Byte) (s : State) (p : Pkt) (pt keys : List Byte) (h : pktOf d = some p)
    (ht : p.typ = typ) (hd : p.dst = myModule s) (hr : (peerRec p.src s).isSome = true) (hs : (sessOf p.src s).state = 2)
    (hg : p.gen = (sessOf p.src s).gen) (hk : rxKeysFor (sessOf p.src s) p.epoch s.now = some keys)
    (ho : openPkt keys (!(sessOf p.src s).initiator) p d = some pt) : authentic typ d s = some (p, pt) := by
  have : peerRec p.src s ≠ none := fun e => by simp [e] at hr
  simp [authentic, h, ht, hd, hs, hg, hk, ho, this]

theorem parseOwner_sealed (hdr tail : List Byte) (h : hdr.length = 32) (hn : tail.length ≤ 8912)
    (hm : field (leAt hdr 0 8) 63 44 = 0x4F431) (ht : field (leAt hdr 0 8) 43 40 = 3)
    (hl : tail.length = field (leAt hdr 0 8) 31 0 + 16) :
    parseOwner (hdr ++ tail) = some
      { typ := 3, kind := field (leAt hdr 0 8) 39 32, sid := leAt hdr 8 8, seq := leAt hdr 16 8, frag := leAt hdr 24 1,
        header := hdr, payload := tail } := by
  have hb : ∀ i n, i + n ≤ 32 → leAt (hdr ++ tail) i n = leAt hdr i n := fun i n hi => by
    simp only [leAt, slice_append hdr tail i n (by omega)]
  simp only [parseOwner, List.length_append, hb 0 8 (by omega), hb 8 8 (by omega), hb 16 8 (by omega), hb 24 1 (by omega), h]
  rw [if_neg (by simp [hm, ht]; omega)]
  simp [ht, ← h]

end Sys2Proof.Machine
end

