-- ==== Sys2Proof/Tests/Slice0.lean ====
section
/-! SUPPORT. Witnesses that the hypotheses of the statements can be met, clause by clause, and a few tests of numbers
the spec itself gives. -/

namespace Sys2Proof.Tests

open Sys2Proof Sys2Proof.Machine

set_option Elab.async false

/-- The module running: start-up over, a job RUNNING, every core group on, the host reachable, one owner session. -/
def up : State :=
  { State.reset with
    recovery := { State.reset.recovery with bootStage := 11, hubRunning := true }
    power := { State.reset.power with
      mainOn := true, netOn := true, cold := 0,
      groups := List.replicate 16 { GroupPower.reset with code := 0, other := 0, left := 0 } }
    dispatch := { State.reset.dispatch with postilionState := 2 }
    hostif := { State.reset.hostif with bme := true, linkGen := 6, linkWidth := 16, unreachableSince := none }
    job := { State.reset.job with state := jobRunning }
    security := { State.reset.security with owners := [{ id := 1, keyDigest := 0, key := [], keyIn := [1], keyOut := [2], nextIn := 5, nextOut := 1, held := [], peer := none }] }
    waybill := { State.reset.waybill with restoreDue := false }
    now := 10000000000 }

/-- A requester of class S. -/
abbrev owner : ReqId := .owner 1

/-- `up` with page 0x100 of device memory mapped for every access, on frame 5 of its home stack. -/
def mapped : State := { up with xlate := { up.xlate with ptes := [(0x100, mkPte 1 2 5)] } }

/-- `mapped` with BAR2 closed by a pending zeroisation. -/
def closed : State := { mapped with security := { mapped.security with zeroisePending := true } }

/-- `up` with the request service enabled at address 1 of interface 0. -/
def svc : State :=
  { up with
    fabric := { up.fabric with ifUp := [0] }
    dict := { up.dict with values := [(Ent.svcEnable, [1]), (Ent.ifaceIpv4, leBytes 4 1)] } }

/-- A client and the service's endpoint. -/
abbrev client : Endpoint := { v6 := false, addr := 9, port := 4000 }
abbrev server : Endpoint := { v6 := false, addr := 1, port := 7460 }

/-- A plain Lorjo datagram of version 2 with the given type, segment words and payload, its CRC in place. -/
def datagram (typ seg : Nat) (payload : List Byte) : List Byte :=
  let head := beBytes 8 (0x4C4A * 2 ^ 48 + 2 * 2 ^ 44 + typ * 2 ^ 40 + seg) ++ beBytes 8 7 ++ List.replicate 28 0
  head ++ beBytes 4 (crc32c (head ++ List.replicate 4 0 ++ payload)).toNat ++ payload

/-- A request admitted at binding 0, its exit timer due, with the given launch. -/
def admitted (launch : Option Nat) : Admitted :=
  { seq := 3, hdr := {}, src := client, dst := server, port := 0, binding := 0, context := 0, queue := 0, arrived := 0,
    deadline := 0, exitAt := some 5, exitChosen := none, key := none, graph := 0, version := 0, epoch := 0, payload := [],
    buffer := none, cacheKey := none, maxSeg := 0, exitMin := 0, joined := false, launch := launch, launchedAt := 0, bivouac := false }

/-- A launch with one stage still waiting. -/
def aLaunch : Launch :=
  { id := 4, graph := 2, version := 0, epoch := 1, context := 0, queue := 0, number := 0, cmd := none, request := none,
    session := 0, stages := [{ num := 0, phase := .waiting, spec := 0, dispatchedAt := 0 }], resolved := [], args := [],
    argAt := 0, startedAt := 0, saturated := false, boundVoid := false, torn := false, exited := false, legacy := false }

/-- A response ready on port 0. -/
def aResponse : ReadyResp :=
  { port := 0, src := client, dst := server, hdr := {}, payload := [], arrived := 0, deadline := 0, maxSeg := 0,
    binding := 0, key := none, request := none, readyAt := 0 }

/-- A descriptor from its doublewords. -/
def descOf (ws : List Nat) : Desc := BitVec.ofNat 512 (ofLe (ws.flatMap (leBytes 8)))

/-- Table 5: 16 rows of 4 elements in slots of 32 bytes from VA 0x100000, on stack 0. -/
def aTable : Desc := descOf [5 * 2 ^ 52 + 5 * 2 ^ 32 + 4 * 2 ^ 16 + 1, 16, 0x100000, 0, 0, 0, 0, 0]

/-- `mapped` with table 5 defined. -/
def tabled : State :=
  { mapped with lookup := { mapped.lookup with tables := [(5, { desc := aTable, deleting := false, context := 0 })] } }

/-- A lookup of one bag of one entry of table 5, its indexes at VA 0x100000, its output in the core's SRAM. -/
def lookupDesc : Desc :=
  descOf [0x21 * 2 ^ 56 + 5 * 2 ^ 20 + 1, 0x100000, 0, 2 ^ 48, 0, 0x1000, 0, 0x2000]

def anEntry : LookupEntry := { pos := 0, bag := 0, place := 0, table := 5, row := 3, weight := 0, lane := 7 }

/-- That lookup in flight, its one entry sent to lane 7. -/
def aLookup : LookupJob :=
  { id := 2, core := 0, desc := lookupDesc, org := {}, epoch := 1, issuedAt := 0, spec := 0, dim := 4, shapeTable := 5,
    toServe := [anEntry], parked := [], lanePartials := [], stackPartials := [], placed := [], remote := [], written := [],
    released := 0, torn := 0, sat := 0, oor := 0, misses := 0, rowsRead := 0, retries := 0, timedOut := false,
    denied := false, serves := none }

/-- `tabled` with the given lookup in flight. -/
def looking (j : LookupJob) : State := { tabled with lookup := { tabled.lookup with jobs := [j] } }

/-- A write descriptor of the given opcode for one row of table 5, in the given batch. -/
def writeDesc (opcode batch : Nat) : Desc :=
  descOf [opcode * 2 ^ 56 + batch * 2 ^ 51 + 5 * 2 ^ 20 + 1, 1, 0x1000, 32, 0, 0x1000, 0, 0x2000]

/-- A row of table 5 on its way to lane 7. -/
def aRow (deferredAt : Option Nat) : RowJob :=
  { pos := 0, table := 5, row := 3, lane := 7, data := List.replicate 16 1, chunks := 0, word := 0, deferredAt := deferredAt }

/-- A write descriptor in flight with that row. -/
def aWrite (batch : Nat) (deferredAt : Option Nat) : WriteJob :=
  { id := 2, core := 0, desc := writeDesc 0x22 batch, org := {}, cls := .B, issuedAt := 0, rows := [aRow deferredAt],
    applied := 0, oor := 0, deferred := 0, remotePending := [], waiting := false, published := none, owners := [],
    status := 0, reason := 0, held := 0 }

/-- A commit of batch 1 in flight, one row of which is staged. -/
def aCommit : WriteJob := { aWrite 1 none with desc := writeDesc 0x24 1, rows := [], waiting := true }

/-- `tabled` with the given write descriptor in flight. -/
def writing (j : WriteJob) : State :=
  { tabled with updates := { tabled.updates with
      jobs := [j], staged := [{ batch := 1, table := 5, row := 3, lane := 7, data := [1] }],
      committed := [{ epoch := 1, table := 5, row := 3, lane := 7, data := [1], copied := false, chunks := 0, preImage := none }] } }

/-- An instruction word from its fields (R-type). -/
def word (f7 rs2 rs1 f3 rd op : Nat) : BitVec 32 :=
  BitVec.ofNat 32 (f7 * 2 ^ 25 + rs2 * 2 ^ 20 + rs1 * 2 ^ 15 + f3 * 2 ^ 12 + rd * 2 ^ 7 + op)

/-- A task that is not persistent. -/
def aTask : TaskRec :=
  { id := 3, launch := none, stage := 0, cmd := none, queue := 0, context := 0, graph := 0, version := 0, spec := 0,
    startedAt := 0, persistent := false, kept := false }

/-- `up` with that task on core 97, x1 = 64, x2 = 3, vectors of four F32 elements. -/
def tasked : State :=
  updVec 97 (fun k => { k with vl := 4, vfmt := 7 })
    (updCtl 97 (fun k => { k with task := some aTask, x := (k.x.set 1 64).set 2 3 }) up)

/-- `tasked` with the task speculative. -/
def speculating : State := updCtl 97 (fun k => { k with specid := 9 }) tasked

/-- `tasked` with a TopK set of two results. -/
def topked : State := updVec 97 (fun k => { k with topk := { isSet := true, k := 2, floor := 0, entries := [(5, 1), (4, 2)] } }) tasked

/-- `tasked` with its timer and software interrupts enabled and due. -/
def interrupted : State := updCtl 97 (fun k => { k with timecmp := 0, mip := 0x10000, mie := 0x10080, mstatus := 0x1808 }) tasked

/-- A vector tensor descriptor: an F32 addition of 4 elements in core 97's SRAM. -/
def tensorDesc : Desc :=
  descOf [0x40 * 2 ^ 56 + 4 * 2 ^ 46 + 7 * 2 ^ 42 + 7 * 2 ^ 38 + 4, 0x1000 * 2 ^ 32 + 0x2000, 0x3000 * 2 ^ 32, 0, 0, 0, 0, 0x4000 * 2 ^ 32]

/-- A matrix descriptor on array 0: one vector, one k tile, 8-bit elements, output in F32 to the core's SRAM. -/
def matrixDesc : Desc :=
  descOf [0x30 * 2 ^ 56 + 1 * 2 ^ 52 + 1 * 2 ^ 48 + 1 * 2 ^ 44 + 2 ^ 38, 0x1000 * 2 ^ 32, 0x2000 * 2 ^ 32, 0, 0x6000 * 2 ^ 32, 0,
    0x3F800000 * 2 ^ 32, 0x7000 * 2 ^ 32 + 1]

/-- That descriptor in a core's tile queue. -/
def aTile (done : Bool) : TileEntry := { num := 4, desc := matrixDesc, org := {}, tile := 0, done := done, preempted := false, loaded := [] }

/-- Its chain. -/
def aChain (done overflow : Bool) : Chain :=
  { accBase := 0, m := 1, mask := 1, actFmt := 1, wFmt := 1, group := 0, scaleFmt := 0, spec := 0, org := {},
    descs := [aTile done], products := 0, shift := 0, replays := 0, overflow := overflow, overflowFinal := false, groupReg := [],
    firstRead := none, lastRead := 0, waits := 0, rings := [] }

/-- `up` with that chain on core 97, its shadows holding the tile given. -/
def chained (done overflow : Bool) (tag : Option (Nat × Nat)) : State :=
  updMat 97 (fun k => { k with chains := [aChain done overflow], shadowTag := tag }) up

/-- A stage record with the given number and kind, with or without BARRIER, on no branch and no dependency. -/
def stageRec (num kind barrier : Nat) : BitVec 256 :=
  BitVec.ofNat 256 (num * 2 ^ 48 + kind * 2 ^ 44 + barrier * 2 ^ 43 + 0xFFFF + (2 ^ 64 - 1) * 2 ^ 128)

/-- A version of a graph with the given stage records, sequences of a window of 1,000 events. -/
def aVersion (stages : List (BitVec 256)) : GraphVersion :=
  { num := 0, running := 1, stages := stages, code := [], weights := [], featureMap := [], coreSets := [], groups := [],
    exits := [], sequence := some (1000, 64, 16, 1, 1), regions := [], imageBytes := 0, loaded := true }

def aGraph (stages : List (BitVec 256)) : Graph :=
  { id := 2, context := 0, current := 0, versions := [aVersion stages], created := 0, launches := 1, unloading := false,
    unloadCmd := none, loadCmd := none }

/-- `up` with graph 2 and a launch of it. -/
def launched (l : Launch) (stages : List (BitVec 256)) : State :=
  { up with dispatch := { up.dispatch with graphs := [aGraph stages], launches := [l] } }

/-- A launch with its stages in the given phases. -/
def launchAt (ps : List (Nat × StagePhase)) : Launch :=
  { aLaunch with stages := ps.map (fun p => { num := p.1, phase := p.2, spec := 0, dispatchedAt := 0 }) }

/-- A summary descriptor: 1 head, keys of 64 and values of 16 elements, a window of 1,000 events. -/
def summaryDesc : Desc :=
  descOf [0x50 * 2 ^ 56 + 1 * 2 ^ 51 + 64 * 2 ^ 16 + 16, 1000, 0, 0x1000 * 2 ^ 32 + 0x2000, 0x3F800000 * 2 ^ 32, 0x3000 * 2 ^ 32, 0, 0x4000]

/-- A summary in flight with one segment. -/
def aSummary (result : Option (List (BitVec 32 × BitVec 32 × List (BitVec 32)))) : SummaryJob :=
  { id := 6, core := 97, desc := summaryDesc, org := {}, session := 1, spec := 0, appended := 0, events := 0, inline := 0,
    segments := [{ core := 97, first := 0, last := 0, result := result, fromState := false }], blocksRecomputed := 0, decodedAt := 0,
    query := none }

/-- A transfer descriptor of two tiles of 64 bytes from VA 0x100000 to the core's SRAM. -/
def transferDesc (opcode release : Nat) : Desc :=
  descOf [opcode * 2 ^ 56 + 1 * 2 ^ 50 + release * 2 ^ 45, 0x100000, 0x1000, 64 * 2 ^ 40 + 1 * 2 ^ 20 + 1, 2 * 2 ^ 32, 0, 0x8000 * 2 ^ 32,
    0x9000 * 2 ^ 32 + 0xA000]

/-- A transfer of core 97 that runs. -/
def aTransfer (opcode release : Nat) : Transfer :=
  { id := 8, core := 97, desc := transferDesc opcode release, org := {}, spec := 0, issuedAt := 0, running := true, startedAt := 0,
    requested := 1, delivered := 0, inFlight := [0], faultTile := none, faultResumes := 0, rewinds := 0, members := [],
    memberCount := 0, detached := 0, catchup := 0, held := false, ringLoads := 0, ringWait := false, detSecond := 0,
    detCount := 0, detLow := 0, detAt := 0, dray := 0, waitSince := none, buf := [], storing := [], done := false,
    stopping := false, failed := none, recorded := false, status := 0 }

/-- `mapped` with that transfer. -/
def streaming1 (t : Transfer) : State := { mapped with streaming := { mapped.streaming with transfers := [t] } }

/-- A context of core group 0. -/
def aContext : Ctx :=
  { num := 1, cgMask := 1, sramBase := 0, sramBytes := 65536, stagingBase := 0, stagingBytes := 0, accBase := 0, accEntries := 64,
    hbmQuota := 1, hbmUsed := 0, coldQuota := 0, coldUsed := 0, segmentsLoaded := true }

/-- A command with the given opcode and phase. -/
def aCmd (opcode : Nat) (phase : CmdPhase) : Cmd :=
  { id := 5, queue := 3, count := 0, words := descOf [opcode * 2 ^ 56 + 3 * 2 ^ 44], ext := [], cls := .H, legacy := false,
    fetchedAt := 0, phase := phase, status := 0, reason := 0, result := 0, saturated := false, boundVoid := false,
    torn := false, request := none, watching := [] }

/-- `up` with queue 3 of class HOST and context 1 in the given state, with the given commands, the schedule followed. -/
def queued (state : Nat) (cmds : List Cmd) : State :=
  { up with
    job := { up.job with contexts := [aContext] },
    dict := { up.dict with values := [(Ent.queueClass + 256 * 3, [1]), (Ent.queueContext + 256 * 3, [1]), (Ent.schedEnable, [1])] },
    dispatch := { up.dispatch with queues := up.dispatch.queues.set 3 { Queue.reset with state := state, cmds := cmds } } }

/-- `queued` with slot `slot` of the schedule reserved for queue 3 on group 0, which runs for queue 5. -/
def scheduled (slot : Nat) : State :=
  let s := queued 1 [aCmd 0 .fetched]
  { s with job := { s.job with activeTable := [(slot, BitVec.ofNat 128 (2 ^ 63 + 3 * 2 ^ 56 + 1 * 2 ^ 32))], coreQueue := [(2, 5)],
                               schedPending := true } }

/-- `scheduled` with every core group in the given depth of sleep. -/
def asleep (slot code : Nat) : State :=
  let s := scheduled slot
  { s with power := { s.power with groups := List.replicate 16 { GroupPower.reset with code := code, other := code, left := 0 } } }

/-- `up` with the groups idle since time 0. -/
def lazyGroups : State :=
  { up with power := { up.power with groups := List.replicate 16 { GroupPower.reset with code := 0, other := 0, left := 0, idleSince := some 0 } } }

/-- `up` with a legacy command of the given opcode and phase in the interface. -/
def legacyAt (opcode : Nat) (phase : CmdPhase) : State :=
  { mapped with legacy := { mapped.legacy with state := 1, cmds := [{ aCmd opcode phase with words := descOf [opcode * 2 ^ 56, 0x100000, 0, 0] }] } }

/-- A version whose stage 1 stands on branch 7 and declares a region of core 0's SRAM. -/
def branchyVersion : GraphVersion :=
  { aVersion [stageRec 0 0 0, BitVec.ofNat 256 (1 * 2 ^ 48 + 7 + (2 ^ 64 - 1) * 2 ^ 128 + 1 * 2 ^ 224)] with
    coreSets := [1], regions := [BitVec.ofNat 128 (1 * 2 ^ 48 + 1 * 2 ^ 38 + 4096 + 64 * 2 ^ 96)] }

/-- Its launch, branch 7 predicted to go the way of stage 1. -/
def branching : State :=
  { up with
    dict := { up.dict with values := [(Ent.runAheadEnable, [1]), (Ent.specQueueMask, leBytes 8 1)] },
    runahead := { up.runahead with predictions := [{ queue := 0, graph := 2, branch := 7, outcome := 1 }] },
    dispatch := { up.dispatch with
      graphs := [{ aGraph [] with versions := [branchyVersion] }], launches := [launchAt [(0, .committed), (1, .waiting)]] } }

/-- `up` with no job deployed. -/
def idle : State := { up with job := State.reset.job }

/-- `idle` with the smallest structures that a job can have: no session pool, no row cache, no owner buffer. -/
def slim : State :=
  { idle with dict := { idle.dict with
      values := [(Ent.sessionPoolGb, [0]), (Ent.rowCacheGb, [0]), (Ent.updateLogMb, [64]), (Ent.ownerBufferMb, [0])] } }

theorem some_getD_of_isSome {α : Type} (o : Option α) (d : α) (h : o.isSome = true) : o = some (o.getD d) := by
  cases o with
  | none => cases h
  | some a => rfl

/-- `idle` in maintenance mode. -/
def maintained : State := { idle with recovery := { idle.recovery with maint := true } }

/-- `mapped` with a map record of the given first words, of the host, at the head of the map queue. -/
def mapWords (op pages va : Nat) : BitVec 256 := BitVec.ofNat 256 (op * 2 ^ 56 + pages + va * 2 ^ 64)
def mapRec (op pages va : Nat) : MapRecord := { count := 0, words := mapWords op pages va, at_ := none, cls := .H }
def mapping (op pages va : Nat) : State :=
  { mapped with dict := { mapped.dict with values := [(Ent.mapEnable, [1])] },
                xlate := { mapped.xlate with mapRecords := [mapRec op pages va] } }

/-- A page fault of page 0x200 that has waited since time 0. -/
def aFault : PendingFault :=
  { page := 0x200, firstAgent := 5, access := 0, typ := 0, spec := false, pte := 0, context := 0, time := 0, waiters := [5], work := (0, 0), queued := true }

/-- A dictionary request (Table 21.2). -/
def request (op count seq index sub : Nat) (body : List Byte) : List Byte :=
  leBytes 8 (op * 2 ^ 56 + 2 ^ 54 + count * 2 ^ 32 + seq * 2 ^ 16 + (if op = 1 then 4 else body.length)) ++
  leBytes 8 (index * 2 ^ 48 + sub * 2 ^ 40) ++ leBytes 8 0 ++ body

/-- `up` with the owner's requester record as given. -/
def asking (x : Requester) : State := { up with dict := { up.dict with requesters := [x] } }
def aRequester : Requester := { id := owner, kept := none, snapshot := none, partials := [], selectors := [], used := 0 }
def aKept (at_ : Nat) : Kept := { seq := 9, index := 0x2000, sub := 1, offset := 0, bytes := [1], at_ := at_ }

/-- `up` with a record of the given code waiting to be written. -/
def recording (code written : Nat) : State :=
  { up with waybill := { up.waybill with
      queue := [{ time := 0, code := code, inst := 0, held := false, p := [], num := 1 }],
      codes := [{ code := code, written := written, suppressed := 0, first := 0, last := 0, total := written }] } }

/-- `up` as module 1 of the fabric, JOINED, with peer 2 and the session given; BAR2's window open to the fabric. -/
def joined (x : FabSession) : State :=
  { mapped with
    dict := { mapped.dict with values := [(Ent.fabModuleNumber, leBytes 2 1), (Ent.fabWindowBase, leBytes 8 0),
      (Ent.fabWindowBytes, leBytes 8 0x1000000), (Ent.importWrites, [1]), (Ent.exportEnable, [1])] },
    fabric := { mapped.fabric with
      state := 2, ifUp := [0], sessions := [x], peers := [(2, BitVec.ofNat 512 (2 * 2 ^ 52 + 2 ^ 51))],
      groups := mapped.fabric.groups.set 3 { GGroup.reset with enabled := true } } }

/-- A session with module 2 that is up. -/
def aSession : FabSession := { FabSession.fresh 2 with state := 2 }

/-- A handshake with module 2 since the time given. -/
def aHandshake (initiator : Bool) (since : Nat) : Handshake :=
  { initiator := initiator, gen := 0, startedAt := since, transcript := [], frags := [], secret := [7] }

/-- The first 40 bytes of a fabric packet from module 2 to module 1, with its payload's length (Table 17.2). -/
def fabHeader (typ psn length : Nat) : List Byte :=
  beBytes 8 (0x4D42 * 2 ^ 48 + 2 ^ 44 + typ * 2 ^ 40 + 2 * 2 ^ 24 + 1 * 2 ^ 12) ++ beBytes 8 psn ++ beBytes 8 0 ++
  beBytes 8 (length * 2 ^ 48) ++ beBytes 8 0
def fabPkt (typ psn length : Nat) : Pkt :=
  { typ := typ, cls := 0, ackReq := false, ece := false, src := 2, dst := 1, frag := 0, epoch := 0, psn := psn, ackPsn := 0,
    sack := 0, length := length, gen := 0, ts := 0, tsEcho := 0 }

/-- An operation of the session. -/
def anOp (unit : FabUnit) : FabOp :=
  { seq := 5, opcode := 1, subop := 0, o1 := 0, body := [], cls := 0, unit := unit, issuedAt := 0, firstSent := none, queued := false }

/-- An operation received from module 2. -/
def rxOp (opcode o1 : Nat) (body : List Byte) : RxOp :=
  { seq := 1, opcode := opcode, subop := 0, o1 := BitVec.ofNat 64 o1, body := body, cls := 0 }
def served (opcode o1 : Nat) (body : List Byte) : State := joined { aSession with rxOps := [rxOp opcode o1 body] }

/-- Table 5 exported. -/
def exported : Desc := aTable ||| BitVec.ofNat 512 (2 ^ 39)
def exporting (opcode o1 : Nat) (body : List Byte) : State :=
  { served opcode o1 body with lookup := { up.lookup with tables := [(5, { desc := exported, deleting := false, context := 0 })] } }

/-- A response record, and an arrival record of group 3. -/
def aRecord (opcode o1 : Nat) : List Byte := leBytes 8 (opcode * 2 ^ 56) ++ leBytes 8 o1

/-- A fabric descriptor in progress. -/
def aFabDesc : FabDesc :=
  { id := 1, core := 97, desc := descOf [0x61 * 2 ^ 56 + 3 * 2 ^ 47], org := {}, issuedAt := 0, holdsCore := false, held := false,
    remaining := 0, gseq := 1 }

/-- `svc` with the client's link address known on interface 0. -/
def svcKnown : State :=
  { svc with fabric := { svc.fabric with neighbours := [{ iface := 0, v6 := false, addr := 9, mac := 1 }] } }

/-- `tasked` with a VTOPK STORE queued whose count goes to x3. -/
def awaiting : State :=
  updVec 97 (fun k => { k with vqueue := [.instr { word := word 4 0 1 7 3 0x0B, pc := 0, a := 0, b := 0, vl := 0, vfmt := 7 }] }) tasked

/-- `mapped` with the Dray queue of core 97 full. -/
def crowded : State :=
  { mapped with streaming := { mapped.streaming with transfers := List.replicate 32 { aTransfer 0x10 0 with running := false } } }

/-- A command that waits for the object at VA 0x100000 to hold at least 1, in queue 3 of a module with that page. -/
def aWaiter (met : Bool) : Cmd :=
  { aCmd 0 (.waiting 0 0) with words := descOf [3 * 2 ^ 44 + 1 * 2 ^ 43, 0x100000, 1, 0], met := met }
def waitingFor (met : Bool) : State :=
  { queued 1 [aWaiter met] with xlate := mapped.xlate }

/-- A legacy WAIT for the object at VA 0x100000, met or not yet evaluated. -/
def aLegacyWait (met : Bool) : Cmd := { aCmd 5 .fetched with words := descOf [5 * 2 ^ 56, 0x100000, 1, 0], met := met }
def legacyWaiting (met : Bool) : State :=
  { mapped with legacy := { mapped.legacy with state := 1, cmds := [aLegacyWait met] } }

/-- `scheduled` with every core group on its way to being off. -/
def sinking : State :=
  let s := scheduled 1
  let g : GroupPower := { GroupPower.reset with code := 6, other := 4, left := 0, until_ := s.now + 1000, wakeAfter := false }
  { s with power := { s.power with groups := List.replicate 16 g } }

/-- The same fabric seen from module 3, and a HELLO of module 2 to it. -/
def joinedAbove (x : FabSession) : State :=
  { joined x with dict := { (joined x).dict with values := [(Ent.fabModuleNumber, leBytes 2 3)] } }
def helloAbove : List Byte :=
  beBytes 8 (0x4D42 * 2 ^ 48 + 2 ^ 44 + 3 * 2 ^ 40 + 2 * 2 ^ 24 + 3 * 2 ^ 12) ++ beBytes 8 0 ++ beBytes 8 0 ++
  beBytes 8 (1 * 2 ^ 48) ++ beBytes 8 0 ++ [7]

/-- A commit of the anti-rollback counters under way, that of type 0 below the SVN of its running image. -/
def committing : State :=
  { up with
    security := { up.security with committing := some 0, rollback := List.replicate 5 0 },
    recovery := { up.recovery with runImages := List.replicate 5 (some { FwImage.factory with svn := 2 }) } }

theorem next_of (o : Host.Outcome State Fault Refusal) (h : (match o with | .next _ => true | _ => false) = true) :
    ∃ t, o = .next t := by
  cases o <;> simp_all

/-- A packet from module 2 to module 1, sealed under the session's first keys. -/
def sealedPkt (keys : List Byte) (typ psn : Nat) (pt : List Byte) : List Byte :=
  fabHeader typ psn pt.length ++ gcmSeal (dirKey keys true).1 (fabNonce (dirKey keys true).2 0 psn) (fabHeader typ psn pt.length) pt

theorem authentic_sealedPkt (typ psn : Nat) (pt : List Byte) (x : FabSession)
    (h40 : (fabHeader typ psn pt.length).length = 40)
    (hp : pktOf (fabHeader typ psn pt.length) = some (fabPkt typ psn pt.length))
    (hs : sessOf 2 (joined x) = x) (h2 : x.state = 2) (hg : x.gen = 0) (he : x.rxEpoch = 0) (hi : x.initiator = false) :
    authentic typ (sealedPkt x.rxKeys typ psn pt) (joined x) = some (fabPkt typ psn pt.length, pt) := by
  refine authentic_of typ _ _ _ pt x.rxKeys ?_ rfl rfl rfl ?_ ?_ ?_ ?_
  · rw [sealedPkt, pktOf_append _ _ h40, hp]
  · simpa [fabPkt, hs] using h2
  · simp [fabPkt, hs, hg]
  · simp [fabPkt, hs, rxKeysFor, he]
  · simp only [fabPkt, hs, hi, Bool.not_false, sealedPkt]
    exact openPkt_sealed x.rxKeys true (fabPkt typ psn pt.length) (fabHeader typ psn pt.length) pt h40 rfl

/-- The first 32 bytes of a SECURE record of the owner session 1 (Table 18.3), and the record sealed under its key. -/
def ownerHeader (kind seq : Nat) (length : Nat) : List Byte :=
  leBytes 8 (0x4F431 * 2 ^ 44 + 3 * 2 ^ 40 + kind * 2 ^ 32 + length) ++ leBytes 8 1 ++ leBytes 8 seq ++ leBytes 8 0
def ownerRecord (kind seq : Nat) (pt : List Byte) : List Byte :=
  ownerHeader kind seq pt.length ++ gcmSeal [1] (ownerNonce false seq) (ownerHeader kind seq pt.length) pt
/-- The same with a tag that is not its own. -/
def badTag (kind seq : Nat) : List Byte :=
  (List.range 16).map (fun i => Config.gcmTagByte [1] (ownerNonce false seq) (ownerHeader kind seq 0) [] i + 1)

def parsed (kind seq : Nat) (header payload : List Byte) : OwnerRec :=
  { typ := 3, kind := kind, sid := 1, seq := seq, frag := 0, header := header, payload := payload }

theorem parse_ownerRecord (tail : List Byte) (h : tail.length = 18) :
    parseOwner (ownerHeader 1 5 2 ++ tail) = some (parsed 1 5 (ownerHeader 1 5 2) tail) :=
  parseOwner_sealed (ownerHeader 1 5 2) tail (by decide +kernel) (by omega) (by decide +kernel) (by decide +kernel)
    (by rw [h]; decide +kernel)

theorem parse_laterRecord (tail : List Byte) (h : tail.length = 18) :
    parseOwner (ownerHeader 2 6 2 ++ tail) = some (parsed 2 6 (ownerHeader 2 6 2) tail) :=
  parseOwner_sealed (ownerHeader 2 6 2) tail (by decide +kernel) (by omega) (by decide +kernel) (by decide +kernel)
    (by rw [h]; decide +kernel)

theorem parse_badRecord (tail : List Byte) (h : tail.length = 16) :
    parseOwner (ownerHeader 1 5 0 ++ tail) = some (parsed 1 5 (ownerHeader 1 5 0) tail) :=
  parseOwner_sealed (ownerHeader 1 5 0) tail (by decide +kernel) (by omega) (by decide +kernel) (by decide +kernel)
    (by rw [h]; decide +kernel)

theorem badTag_opens_nothing : gcmOpen [1] (ownerNonce false 5) (ownerHeader 1 5 0) (badTag 1 5) = none := by
  refine gcmOpen_badTag _ _ _ _ (by simp [badTag]) fun h => ?_
  have := congrArg (fun l => l[0]?) h
  simp [badTag] at this

/-- The one owner session of `up`. -/
def aOwner : OwnerSession := { id := 1, keyDigest := 0, key := [], keyIn := [1], keyOut := [2], nextIn := 5, nextOut := 1, held := [], peer := none }

/-- A plain owner record of the given type, without payload (Table 18.3). -/
def plainRecord (typ : Nat) : List Byte := leBytes 8 (0x4F431 * 2 ^ 44 + typ * 2 ^ 40) ++ leBytes 8 1 ++ leBytes 8 0 ++ leBytes 8 0
def plainParsed (typ : Nat) : OwnerRec :=
  { typ := typ, kind := 0, sid := 1, seq := 0, frag := 0, header := plainRecord typ, payload := [] }

/-- `up` at the given temperatures. -/
def at_ (temp : Int) : State := { up with power := { up.power with temps := List.replicate 31 temp } }

/-- `up` with a graph bound to the Bivouac, its second version of stages placed past the Bivouac's SRAM where `past` says. -/
def bivouacking (target : Nat) : State :=
  { up with
    dict := { up.dict with values := [(Ent.bivGraph, leBytes 2 2), (Ent.bivBinding, [0]), (Ent.bindingContext, [0])] },
    power := { up.power with bivState := 1 },
    dispatch := { up.dispatch with graphs := [{ aGraph [] with versions :=
      [{ aVersion [] with weights := [{ offset := 0, bytes := 1, staging := false, target := target, data := [0] }] }] }] } }

/-- `up` with a job fault that restarts the job. -/
def faulted (begun : List Nat) : State :=
  { up with job := { up.job with state := jobRestarting }, recovery := { up.recovery with fault := some { time := 0, code := 5 }, begun := begun } }

/-- A write descriptor of core 97 that waits for its lists. -/
def stalledJob : WriteJob := { aWrite 0 none with core := 97, rows := [], stalled := true }

/-- Table 5 with rows of 512 elements in slots of 4 KiB. -/
def longTable : Desc := descOf [5 * 2 ^ 52 + 7 * 2 ^ 48 + 12 * 2 ^ 32 + 512 * 2 ^ 16 + 1, 16, 0x100000, 0, 0, 0, 0, 0]

/-- A write of one of its rows, whose first chunk is stored. -/
def longWrite : WriteJob := { aWrite 0 none with rows := [{ aRow none with chunks := 1, word := 3 }] }
def longWriting : State :=
  { writing longWrite with lookup := { tabled.lookup with tables := [(5, { desc := longTable, deleting := false, context := 0 })] } }

/-- `writing` with batch 1 open, its remote rows held by the given owners. -/
def batching (j : WriteJob) (owners : List (Nat × Nat)) : State :=
  { writing j with updates := { (writing j).updates with
      batches := [{ num := 1, cls := .B, accepting := true, owners := owners }] } }

/-- A launch for request 3, its stage 0 running. -/
def appendLaunch : Launch := { launchAt [(0, .running [])] with request := some 3 }

/-- A member that has left a stream. -/
def leftMember (delivered : Nat) : Member :=
  { core := 2, delivered := delivered, attached := false, ringLoads := 0, faulted := none }

/-- A wait of core 2 that no write has met. -/
def aWait : CoreWait :=
  { core := 2, addr := 0x1000, isLocal := false, cond := 0, threshold := 1, mask := 1, since := 0, lastSeen := 0 }

/-! `StepRunsTheFrontCommand`: states and operands that meet its hypotheses. -/

theorem witness_StepRunsTheFrontCommand_0 :
    ∃ (c : Instr) (rest : List Instr) (s : State), s.pending = c :: rest :=
  ⟨.nop 0, [], { up with pending := [.nop 0] }, rfl⟩

/-! `AnIdleStepIsOneTick`: states and operands that meet its hypotheses. -/

theorem witness_AnIdleStepIsOneTick_0 :
    ∃ (s : State), s.pending = [] :=
  ⟨up, rfl⟩

/-! `NoCommandTouchesTheQueue`: states and operands that meet its hypotheses. -/

theorem witness_NoCommandTouchesTheQueue_0 :
    ∃ (c : Instr) (s t : State), exec c s = .next t :=
  ⟨.linkDown, up, _, rfl⟩

/-! `AntiRollbackCountersNeverFall`: states and operands that meet its hypotheses. -/

theorem witness_AntiRollbackCountersNeverFall_0 :
    ∃ (s t : State), step s = .next t :=
  ⟨{ up with pending := [.linkDown] }, _, rfl⟩

/-! `ASealedJobKeepsItsZeroisation`: states and operands that meet its hypotheses. -/

theorem witness_ASealedJobKeepsItsZeroisation_0 :
    ∃ (s t : State), ZeroiseOwed s ∧ step s = .next t :=
  ⟨{ closed with job := { closed.job with sealed_ := true }, security := { closed.security with zeroiseMirror := true }, pending := [.linkDown] }, _, fun _ => ⟨rfl, rfl⟩, rfl⟩

/-! `EveryStepKeepsTheMemoriesCanonical`: states and operands that meet its hypotheses. -/

theorem witness_EveryStepKeepsTheMemoriesCanonical_0 :
    ∃ (s t : State), MemoriesCanonical s ∧ step s = .next t :=
  ⟨{ mapped with pending := [.bar2Write 0x100FFE [1, 2]] }, (next_of _ (by decide +kernel)).choose,
    by unfold MemoriesCanonical; decide +kernel, (next_of _ (by decide +kernel)).choose_spec⟩

/-! `WellFormedCommandsComplete`: states and operands that meet its hypotheses, clause by clause. -/

theorem witness_WellFormedCommandsComplete_0 :
    ∃ (c : Instr) (s : State), c.wf = true ∧
      (match c with
        | .bar2Read read bytes => read.offset + bytes ≤ s.hostif.bar2Size
        | .bar2Write offset bytes => offset + bytes.length ≤ s.hostif.bar2Size
        | .bar2Atomic offset _ width _ _ => offset + width ≤ s.hostif.bar2Size
        | _ => True) :=
  ⟨.bar2Read { offset := 0x3FFFFFFF8 } 8, up, by decide +kernel, by decide +kernel⟩

theorem witness_WellFormedCommandsComplete_0_write :
    Instr.wf (.bar2Write 0x3FFFFFFFF [7]) = true ∧ 0x3FFFFFFFF + [7].length ≤ up.hostif.bar2Size := by decide +kernel

theorem witness_WellFormedCommandsComplete_0_atomic :
    Instr.wf (.bar2Atomic 0x3FFFFFFF8 .fetchAdd 8 1 0) = true ∧ 0x3FFFFFFF8 + 8 ≤ up.hostif.bar2Size := by decide +kernel

/-! `RefusedWritesHaveNoEffect`: states and operands that meet its hypotheses. -/

theorem witness_RefusedWritesHaveNoEffect_0 :
    ∃ (i : Instr) (req : ReqId) (index sub : Nat) (bytes b : List Byte) (v : Nat) (w64 : BitVec 64) (w128 : BitVec
      128) (w256 : BitVec 256) (w512 : BitVec 512) (s : State), ((i = .keyLoad req b ∧ index = 0x2000 ∧ sub = 0x0B ∧
      bytes = b) ∨ (i = .svcEnable req v ∧ index = 0x2000 ∧ sub = 1 ∧ bytes = leBytes 1 v) ∨ (i = .sessionClose req
      w64 ∧ index = 0x2020 ∧ sub = 6 ∧ bytes = leBytes 8 w64.toNat) ∨ (i = .tableDefine req w512 ∧ index = 0x2100 ∧
      sub = 0x03 ∧ bytes = leBytes 64 w512.toNat) ∨ (i = .tableDelete req v ∧ index = 0x2100 ∧ sub = 0x04 ∧ bytes =
      leBytes 2 v) ∨ (i = .predictReset req v ∧ index = 0x2550 ∧ sub = 9 ∧ bytes = leBytes 1 v) ∨ (i = .jobDeploy req
      w128 ∧ index = 0x2600 ∧ sub = 2 ∧ bytes = leBytes 16 w128.toNat) ∨ (i = .jobUndeploy req v ∧ index = 0x2600 ∧
      sub = 3 ∧ bytes = leBytes 1 v) ∨ (i = .contextCreate req w256 ∧ index = 0x2601 ∧ sub = 1 ∧ bytes = leBytes 32
      w256.toNat) ∨ (i = .contextDelete req v ∧ index = 0x2601 ∧ sub = 2 ∧ bytes = leBytes 1 v) ∨ (i = .schedCommit
      req v ∧ index = 0x2603 ∧ sub = 0x02 ∧ bytes = leBytes 1 v) ∨ (i = .repairRun req v ∧ index = 0x6700 ∧ sub = 0x01
      ∧ bytes = leBytes 1 v) ∨ (i = .repairAdd req w128 ∧ index = 0x6700 ∧ sub = 0x03 ∧ bytes = leBytes 16 w128.toNat)
      ∨ (i = .testPortRaw req w512 ∧ index = 0x6700 ∧ sub = 0x04 ∧ bytes = leBytes 64 w512.toNat) ∨ (i =
      .fqOverflowClear req v ∧ index = 0x2800 ∧ sub = 0x06 ∧ bytes = leBytes 1 v) ∨ (i = .peerSet req b ∧ index =
      0x2A00 ∧ sub = 0x06 ∧ bytes = b) ∨ (i = .fabricJoin req v ∧ index = 0x2A00 ∧ sub = 0x03 ∧ bytes = leBytes 1 v) ∨
      (i = .fabricLeave req v ∧ index = 0x2A00 ∧ sub = 0x04 ∧ bytes = leBytes 1 v) ∨ (i = .rollbackCommit req v ∧
      index = 0x2B00 ∧ sub = 0x06 ∧ bytes = leBytes 1 v) ∨ (i = .quoteNonce req b ∧ index = 0x2B00 ∧ sub = 0x0A ∧
      bytes = b) ∨ (i = .measureExtend req b ∧ index = 0x2B00 ∧ sub = 0x0F ∧ bytes = b) ∨ (i = .relayIn req b ∧ index
      = 0x2B00 ∧ sub = 0x11 ∧ bytes = b) ∨ (i = .keyWipe req v ∧ index = 0x2B00 ∧ sub = 0x18 ∧ bytes = leBytes 1 v) ∨
      (i = .powerCapWrite req v ∧ index = 0x2C00 ∧ sub = 0x01 ∧ bytes = leBytes 2 v) ∨ (i = .powerOff req v ∧ index =
      0x2C00 ∧ sub = 0x10 ∧ bytes = leBytes 1 v) ∨ (i = .coldReset req v ∧ index = 0x2D00 ∧ sub = 0x01 ∧ bytes =
      leBytes 1 v) ∨ (i = .maintMode req v ∧ index = 0x2D00 ∧ sub = 0x05 ∧ bytes = leBytes 1 v) ∨ (i = .fwWrite req b
      ∧ index = 0x2D00 ∧ sub = 0x06 ∧ bytes = b) ∨ (i = .fwInstall req v ∧ index = 0x2D00 ∧ sub = 0x07 ∧ bytes =
      leBytes 4 v) ∨ (i = .fwActivate req v ∧ index = 0x2D00 ∧ sub = 0x08 ∧ bytes = leBytes 1 v) ∨ (i = .fwConfirm req
      v ∧ index = 0x2D00 ∧ sub = 0x09 ∧ bytes = leBytes 1 v) ∨ (i = .cgReset req v ∧ index = 0x6D00 ∧ sub = 0x01 ∧
      bytes = leBytes 2 v) ∨ (i = .wbClear req v ∧ index = 0x2E00 ∧ sub = 8 ∧ bytes = leBytes 1 v)) ∧ writeError req
      index sub bytes s ≠ erOk :=
  ⟨.svcEnable (.t1s 0) 1, .t1s 0, 0x2000, 1, leBytes 1 1, [], 1, 0, 0, 0, 0, State.reset,
    Or.inr (Or.inl ⟨rfl, rfl, rfl, rfl⟩), by decide +kernel⟩

/-! `Bar2WritesTouchOnlyTheirBytes`: states and operands that meet its hypotheses. -/

theorem witness_Bar2WritesTouchOnlyTheirBytes_0 :
    ∃ (offset : Nat) (bytes : List Byte) (s : State) (va : Nat), offset + bytes.length ≤ s.hostif.bar2Size ∧
      bar2Closed s = false ∧ va = ent Ent.bar2WindowVa s + offset ∧ bar2Mapped va bytes.length .write s = true ∧ (∀ p,
      p ∈ pagesOf va bytes.length → (pageView p s).frame ≠ none) :=
  ⟨0x100FFC, [1, 2, 3, 4], mapped, 0x100FFC, by decide +kernel⟩

/-! `DictionaryHeadersAreReadBack`: states and operands that meet its hypotheses. -/

theorem witness_DictionaryHeadersAreReadBack_0 :
    ∃ (op : Nat) (_final : Bool) (count seq index sub offset : Nat) (body : List Byte), op < 256 ∧ count < 256 ∧ seq <
      65536 ∧ index < 65536 ∧ sub < 256 ∧ offset < 2 ^ 32 ∧ body.length < 65536 ∧ op ≠ 1 :=
  ⟨255, true, 255, 65535, 65535, 255, 2 ^ 32 - 1, [1], by decide +kernel⟩

/-! `IndexValuesSelectRows`: states and operands that meet its hypotheses, clause by clause. -/

theorem witness_IndexValuesSelectRows_0 :
    ∃ (t : Desc) (_v : Nat), tIndexMode t = 0 :=
  ⟨0, 0, by decide +kernel⟩

theorem witness_IndexValuesSelectRows_1 :
    ∃ (t : Desc) (_v : Nat), tIndexMode t = 1 :=
  ⟨BitVec.ofNat 512 (2 ^ 36), 0, by decide +kernel⟩

theorem witness_IndexValuesSelectRows_2 :
    ∃ (t : Desc) (v x1 x2 x3 x4 : Nat), tIndexMode t = 2 ∧ v < 2 ^ 64 ∧ 0 < tRows t ∧ x1 = (v ^^^ tSeed t) *
      0xD1B54A32D192ED03 % 2 ^ 64 ∧ x2 = x1 ^^^ (x1 >>> 31) ∧ x3 = x2 * 0x8CB92BA72F3D8DD7 % 2 ^ 64 ∧ x4 = x3 ^^^ (x3
      >>> 29) :=
  by
  refine ⟨BitVec.ofNat 512 (2 * 2 ^ 36 + 5 * 2 ^ 64), 7, 7 * 0xD1B54A32D192ED03 % 2 ^ 64, _, _, _, ?_, ?_, ?_,
    ?_, rfl, rfl, rfl⟩ <;> decide +kernel

/-! `SlotsFollowTheTime`: states and operands that meet its hypotheses. -/

theorem witness_SlotsFollowTheTime_0 :
    ∃ (_s : State) (slot : Nat), slot < 128 :=
  ⟨up, 127, by decide +kernel⟩

/-! `ClosedBar2HasNoEffect`: states and operands that meet its hypotheses, clause by clause. -/

theorem witness_ClosedBar2HasNoEffect_1 :
    ∃ (read : WindowRead) (bytes : Nat) (s : State), bar2Closed s = true ∧ read.offset + bytes ≤ s.hostif.bar2Size :=
  ⟨{ offset := 0x3FFFFFFF8 }, 8, closed, by decide +kernel⟩

theorem witness_ClosedBar2HasNoEffect_2 :
    ∃ (offset : Nat) (bytes : List Byte) (s : State), bar2Closed s = true ∧ offset + bytes.length ≤ s.hostif.bar2Size :=
  ⟨0x3FFFFFFFE, [1, 2], closed, by decide +kernel⟩

theorem witness_ClosedBar2HasNoEffect_3 :
    ∃ (offset : Nat) (_op : AtomicOp) (width : Nat) (_operand _compare : BitVec 64) (s : State), bar2Closed s = true ∧
      offset + width ≤ s.hostif.bar2Size :=
  ⟨0, .swap, 8, 1, 0, closed, by decide +kernel⟩

theorem witness_ClosedBar2HasNoEffect_4 :
    ∃ (s : State), s.job.state < 16 ∧ s.dispatch.postilionState < 4 :=
  ⟨closed, by decide +kernel⟩

/-! `ServiceEntriesTakeTheirValues`: states and operands that meet its hypotheses, clause by clause. -/

theorem witness_ServiceEntriesTakeTheirValues_0 :
    ∃ (req : ReqId) (value : List Byte) (s : State), Accepted req 0x2000 0x0B value s ∧ leAt value 4 4 = 1 :=
  ⟨owner, leBytes 4 1023 ++ leBytes 4 1 ++ List.replicate 32 5, up, by unfold Accepted; decide +kernel⟩

theorem witness_ServiceEntriesTakeTheirValues_1 :
    ∃ (req : ReqId) (value : List Byte) (s : State), Accepted req 0x2000 0x0B value s ∧ leAt value 4 4 = 2 :=
  ⟨owner, leBytes 4 0 ++ leBytes 4 2 ++ List.replicate 32 0, up, by unfold Accepted; decide +kernel⟩

theorem witness_ServiceEntriesTakeTheirValues_2 :
    ∃ (req : ReqId) (value : Nat) (s : State), Accepted req 0x2000 1 (leBytes 1 value) s :=
  ⟨.window, 1, up, by unfold Accepted; decide +kernel⟩

theorem witness_ServiceEntriesTakeTheirValues_3 :
    ∃ (req : ReqId) (binding value : Nat) (s : State), binding < 16 ∧ Accepted req (0x2010 + binding) 5 (leBytes 1
      value) s :=
  ⟨.window, 15, 0, up, by unfold Accepted; decide +kernel⟩

/-! `RequestsAreReassembledAndAnswered`: states and operands that meet its hypotheses, clause by clause. -/

theorem witness_RequestsAreReassembledAndAnswered_0 :
    ∃ (port : Nat) (src dst : Endpoint) (datagram : List Byte) (frame : FrameCheck) (s : State) (h : LorjoHdr) (p :
      List Byte) (key : Option (BitVec 256)) (i hop : Nat) (m : BitVec 48), port < 4 ∧ frameSound src dst datagram
      frame = true ∧ forService port dst s = true ∧ moving s = false ∧ (parseLorjo datagram).typ = 3 ∧ acceptLorjo
      datagram (count Cnt.lorjoRx 1 s) = some (h, p, key) ∧ i = ifaceFor port dst s ∧ nextHop i src.v6 src.addr s =
      some hop ∧ hopMac i src.v6 hop s = some m :=
  ⟨0, client, server, datagram 3 0 [], {}, svcKnown, parseLorjo (datagram 3 0 []), [], none, 0, 9, 1, by decide +kernel⟩

theorem witness_RequestsAreReassembledAndAnswered_1 :
    ∃ (port : Nat) (src dst : Endpoint) (datagram : List Byte) (frame : FrameCheck) (s : State) (h : LorjoHdr) (p :
      List Byte) (key : Option (BitVec 256)) (i hop : Nat) (m : BitVec 48), port < 4 ∧ frameSound src dst datagram
      frame = true ∧ forService port dst s = true ∧ moving s = false ∧ (parseLorjo datagram).typ = 5 ∧ acceptLorjo
      datagram (count Cnt.lorjoRx 1 s) = some (h, p, key) ∧ i = ifaceFor port dst s ∧ nextHop i src.v6 src.addr s =
      some hop ∧ hopMac i src.v6 hop s = some m ∧ (h.secure = true ∨ ent Ent.requireSecure s ≠ 1) :=
  ⟨0, client, server, datagram 5 0 [], {}, svcKnown, parseLorjo (datagram 5 0 []), [], none, 0, 9, 1, by decide +kernel⟩

theorem witness_RequestsAreReassembledAndAnswered_2 :
    ∃ (port : Nat) (src dst : Endpoint) (datagram : List Byte) (frame : FrameCheck) (s : State) (h : LorjoHdr) (p :
      List Byte) (key : Option (BitVec 256)), port < 4 ∧ frameSound src dst datagram frame = true ∧ forService port
      dst s = true ∧ (parseLorjo datagram).typ = 1 ∧ acceptLorjo datagram (count Cnt.lorjoRx 1 s) = some (h, p, key) ∧
      s.service.reassembly = [] ∧ datagram.length ≤ 8944 ∧ p.length = h.segLen ∧ p.length ≤ 131072 ∧ h.segNo ≤
      h.segLast ∧ 0 < h.segLast ∧ h.ver ≠ 1 :=
  ⟨0, client, server, datagram 1 (2 ^ 22 + 1) [7], {}, svc, parseLorjo (datagram 1 (2 ^ 22 + 1) [7]), [7], none, by decide +kernel⟩

theorem witness_RequestsAreReassembledAndAnswered_3 :
    ∃ (port : Nat) (src dst : Endpoint) (datagram : List Byte) (frame : FrameCheck) (s : State) (h : LorjoHdr) (p :
      List Byte) (key : Option (BitVec 256)), port < 4 ∧ frameSound src dst datagram frame = true ∧ forService port
      dst s = true ∧ (parseLorjo datagram).typ = 1 ∧ acceptLorjo datagram (count Cnt.lorjoRx 1 s) = some (h, p, key) ∧
      s.service.reassembly = [] ∧ datagram.length ≤ 8944 ∧ p.length = h.segLen ∧ p.length ≤ 131072 ∧ h.segNo = 0 ∧
      h.segLast = 0 :=
  ⟨0, client, server, datagram 1 1 [7], {}, svc, parseLorjo (datagram 1 1 [7]), [7], none, by decide +kernel⟩

theorem witness_RequestsAreReassembledAndAnswered_4 :
    ∃ (port : Nat) (src dst : Endpoint) (datagram : List Byte) (frame : FrameCheck) (s : State), port < 4 ∧ frameSound
      src dst datagram frame = false ∧ portUp port s = true :=
  ⟨0, client, server, [], { fragment := true }, svc, by decide +kernel⟩

theorem witness_RequestsAreReassembledAndAnswered_5 :
    ∃ (src : Endpoint) (requestId : BitVec 64) (s : State) (r : Reassembly) (cut : Bool), s.service.reassembly.find?
      (sameRequest src requestId.toNat) = some r ∧ r.startedAt + ent Ent.reassemblyNs s ≤ s.now ∧ r.malformed = false
      ∧ wholeRequest r = false ∧ (cut = true ↔ r.hdr.typ = 1 ∧ s.job.state = jobRestarting) :=
  ⟨client, 0, { svc with service := { svc.service with reassembly := [{ src := client, dst := server, port := 0, key := none, hdr := { segLast := 1 }, startedAt := 0, segs := [(0, [7])], maxSeg := 9, malformed := false }] } }, _, false, rfl, by decide +kernel⟩

theorem witness_RequestsAreReassembledAndAnswered_6 :
    ∃ (request : Nat) (s : State) (a : Admitted) (e : Nat), s.service.admitted.find? (fun a => a.seq == request) =
      some a ∧ a.exitAt = some e ∧ e ≤ s.now ∧ a.exitChosen = none ∧ s.service.ready.any (fun r => r.request == some
      request) = false ∧ a.launch = none :=
  ⟨3, { svc with service := { svc.service with admitted := [admitted none] } }, admitted none, 5, by decide +kernel⟩

theorem witness_RequestsAreReassembledAndAnswered_7 :
    ∃ (request : Nat) (s : State) (a : Admitted) (e k : Nat) (l : Launch), s.service.admitted.find? (fun a => a.seq ==
      request) = some a ∧ a.exitAt = some e ∧ e ≤ s.now ∧ a.exitChosen = none ∧ s.service.ready.any (fun r =>
      r.request == some request) = false ∧ a.launch = some k ∧ launchOf k s = some l ∧ launchDone l = false :=
  ⟨3, { svc with service := { svc.service with admitted := [admitted (some 4)] }, dispatch := { svc.dispatch with launches := [aLaunch] } }, admitted (some 4), 5, 4, aLaunch, by decide +kernel⟩

theorem witness_RequestsAreReassembledAndAnswered_8 :
    ∃ (port : Nat) (s : State) (r : ReadyResp), port < 4 ∧ nextResp port s = some r ∧ moving s = false ∧ portUp port s
      = true ∧ s.service.portFreeAt.getD port 0 ≤ s.now :=
  ⟨0, { svc with service := { svc.service with ready := [aResponse] } }, aResponse, by decide +kernel⟩

theorem witness_RequestsAreReassembledAndAnswered_9 :
    ∃ (port : Nat) (s : State) (r : ReadyResp), port < 4 ∧ nextResp port s = some r ∧ moving s = true :=
  ⟨0, { svc with service := { svc.service with ready := [aResponse] }, power := { svc.power with moveUntil := some 10000002000 } }, aResponse, by decide +kernel⟩

theorem witness_RequestsAreReassembledAndAnswered_10 :
    ∃ (port : Nat) (s : State) (r : ReadyResp) (n : Nat), port < 4 ∧ nextResp port s = some r ∧ moving s = false ∧
      portUp port s = false ∧ (List.range 4).find? (fun n => portUp n s && (List.range 4).any (fun k =>
      s.fabric.ifUp.contains (4 * n + k) && ifaceHolds (4 * n + k) r.dst s)) = some n :=
  ⟨0, { svc with service := { svc.service with ready := [aResponse] }, fabric := { svc.fabric with ifUp := [4] }, dict := { svc.dict with values := alSet svc.dict.values (Ent.ifaceIpv4 + 256 * 4) (leBytes 4 1) } }, aResponse, 1, by decide +kernel⟩

theorem witness_RequestsAreReassembledAndAnswered_11 :
    ∃ (typ port : Nat) (src dst : Endpoint) (datagram : List Byte) (frame : FrameCheck) (s : State) (h : LorjoHdr) (p
      : List Byte) (key : Option (BitVec 256)), port < 4 ∧ frameSound src dst datagram frame = true ∧ forService port
      dst s = true ∧ (parseLorjo datagram).typ = typ ∧ acceptLorjo datagram (count Cnt.lorjoRx 1 s) = some (h, p, key) :=
  ⟨5, 0, client, server, datagram 5 0 [], {}, svcKnown, parseLorjo (datagram 5 0 []), [], none, by decide +kernel⟩

/-! `TablesAreDefinedAndDeleted`: states and operands that meet its hypotheses, clause by clause. -/

theorem witness_TablesAreDefinedAndDeleted_0 :
    ∃ (req : ReqId) (desc : Desc) (s : State) (rb sb n : Nat) (s' : State), Accepted req 0x2100 0x03 (leBytes 64
      desc.toNat) s ∧ tableOf (df desc 0 63 52) s = none ∧ tableBad desc = false ∧ (tCached desc = true →
      s.lookup.rowCacheGb ≠ 0) ∧ allocTable (df desc 0 63 52) desc (actionStart req 0x2100 0x03 s) = some ((rb, sb,
      n), s') ∧ (tCold desc = true → tRemote desc = false → coldUp s = true) :=
  ⟨owner, aTable, up, (((allocTable 5 aTable (actionStart owner 0x2100 3 up)).getD ((0, 0, 0), up)).1).1,
    (((allocTable 5 aTable (actionStart owner 0x2100 3 up)).getD ((0, 0, 0), up)).1).2.1,
    (((allocTable 5 aTable (actionStart owner 0x2100 3 up)).getD ((0, 0, 0), up)).1).2.2,
    ((allocTable 5 aTable (actionStart owner 0x2100 3 up)).getD ((0, 0, 0), up)).2, by unfold Accepted; decide +kernel⟩

theorem witness_TablesAreDefinedAndDeleted_1 :
    ∃ (req : ReqId) (desc : Desc) (s : State) (p : (Nat × Nat × Nat) × State), Accepted req 0x2100 0x03 (leBytes 64
      desc.toNat) s ∧ tableOf (df desc 0 63 52) s = none ∧ tableBad desc = false ∧ (tCached desc = true →
      s.lookup.rowCacheGb ≠ 0) ∧ allocTable (df desc 0 63 52) desc (actionStart req 0x2100 0x03 s) = some p ∧ tCold
      desc = true ∧ tRemote desc = false ∧ coldUp s = false :=
  ⟨owner, aTable ||| BitVec.ofNat 512 (2 ^ 42), { up with power := { up.power with cold := 2 } },
    (allocTable 5 (aTable ||| BitVec.ofNat 512 (2 ^ 42)) (actionStart owner 0x2100 3 { up with power := { up.power with cold := 2 } })).getD ((0, 0, 0), up), by unfold Accepted; decide +kernel⟩

theorem witness_TablesAreDefinedAndDeleted_2 :
    ∃ (req : ReqId) (tableId : Nat) (s : State) (x : Table), tableId < 65536 ∧ Accepted req 0x2100 0x04 (leBytes 2
      tableId) s ∧ alGet s.lookup.tables tableId = some x :=
  ⟨owner, 5, tabled, { desc := aTable, deleting := false, context := 0 }, by unfold Accepted; decide +kernel⟩

theorem witness_TablesAreDefinedAndDeleted_3 :
    ∃ (tableId : Nat) (s : State) (x : Table), alGet s.lookup.tables tableId = some x ∧ x.deleting = true ∧ tableInUse
      tableId s = false :=
  ⟨5, { tabled with lookup := { tabled.lookup with tables := [(5, { desc := aTable, deleting := true, context := 0 })] } }, { desc := aTable, deleting := true, context := 0 }, by decide +kernel⟩

/-! `LookupsRunToTheirBags`: states and operands that meet its hypotheses, clause by clause. -/

theorem witness_LookupsRunToTheirBags_0 :
    ∃ (core : Nat) (desc : Desc) (org : Origin) (s : State) (t0 : Desc), core < 98 ∧ inTurn core desc org s = true ∧
      (matOf core s).failed = false ∧ lookupFieldsOk desc = true ∧ lookupLists desc s = .ok ∧ agentWaits (drayAgent
      core) s = false ∧ tablesDefined desc s = true ∧ tableOf (shapeTable desc s) s = some t0 ∧ lookupPlacesOk core
      desc t0 org s = true :=
  ⟨97, lookupDesc, {}, tabled, aTable, by decide +kernel⟩

theorem witness_LookupsRunToTheirBags_1 :
    ∃ (core : Nat) (desc : Desc) (org : Origin) (s : State), core < 98 ∧ inTurn core desc org s = false :=
  ⟨97, lookupDesc, {}, updCtl 97 (fun k => { k with issued := [(lookupDesc + 1, {})] }) tabled, by decide +kernel⟩

theorem witness_LookupsRunToTheirBags_2 :
    ∃ (lookup lane : Nat) (s : State) (j : LookupJob) (e : LookupEntry) (t0 : Desc), lookupOf lookup s = some j ∧
      (j.parked ++ j.toServe).find? (fun e => e.lane == lane) = some e ∧ tableOf e.table s = some t0 ∧ rowCheck t0
      e.row s = .ok :=
  ⟨2, 7, looking aLookup, aLookup, anEntry, aTable, by decide +kernel⟩

theorem witness_LookupsRunToTheirBags_3 :
    ∃ (lookup lane : Nat) (s : State) (j : LookupJob) (e : LookupEntry) (t0 : Desc) (k : Nat) (v : State) (m : Nat),
      lookupOf lookup s = some j ∧ (j.parked ++ j.toServe).find? (fun e => e.lane == lane) = some e ∧ tableOf e.table
      s = some t0 ∧ rowCheck t0 e.row s = .ok ∧ v = ensureFrame (laneWord e t0 s k / 4096) s ∧ mpaOf (laneWord e t0 s
      k) v = some m :=
  ⟨2, 7, looking aLookup, aLookup, anEntry, aTable, 0, looking aLookup, (mpaOf (laneWord anEntry aTable (looking aLookup) 0) (looking aLookup)).getD 0, by decide +kernel⟩

theorem witness_LookupsRunToTheirBags_4 :
    ∃ (lookup lane symbols : Nat) (s : State) (j : LookupJob) (e : LookupEntry) (t0 : Desc) (k : Nat) (v : State) (m :
      Nat), lookupOf lookup s = some j ∧ (j.parked ++ j.toServe).find? (fun e => e.lane == lane) = some e ∧ tableOf
      e.table s = some t0 ∧ rowCheck t0 e.row s = .ok ∧ v = ensureFrame (laneWord e t0 s k / 4096) s ∧ mpaOf (laneWord
      e t0 s k) v = some m ∧ 2 ≤ symbols ∧ symbols ≤ 3 :=
  ⟨2, 7, 2, looking aLookup, aLookup, anEntry, aTable, 0, looking aLookup, (mpaOf (laneWord anEntry aTable (looking aLookup) 0) (looking aLookup)).getD 0, by decide +kernel⟩

theorem witness_LookupsRunToTheirBags_5 :
    ∃ (lookup stack : Nat) (s : State) (j : LookupJob), lookupOf lookup s = some j ∧ (j.toServe ++ j.parked).all (fun
      e => e.lane / 32 != stack) = true ∧ (j.lanePartials.filter (fun p => p.source / 32 == stack)) ≠ [] :=
  ⟨2, 0, looking { aLookup with toServe := [], lanePartials := [{ source := 7, bag := 0, n := 1, vec := [0, 0, 0, 0] }] },
    { aLookup with toServe := [], lanePartials := [{ source := 7, bag := 0, n := 1, vec := [0, 0, 0, 0] }] }, by decide +kernel⟩

theorem witness_LookupsRunToTheirBags_6 :
    ∃ (lookup bag : Nat) (s : State) (j : LookupJob) (t0 : Desc), lookupOf lookup s = some j ∧ bagReady j bag = true ∧
      j.serves = none ∧ coreOn j.core s = true ∧ tableOf j.shapeTable s = some t0 :=
  ⟨2, 0, looking { aLookup with toServe := [] }, { aLookup with toServe := [] }, aTable, by decide +kernel⟩

theorem witness_LookupsRunToTheirBags_7 :
    ∃ (lookup owner : Nat) (s : State) (j : LookupJob) (g : RemoteGroup) (u : Nat), lookupOf lookup s = some j ∧
      j.remote = [g] ∧ g.owner = owner ∧ g.settled = false ∧ g.sentAt = some u ∧ u + ent Ent.remoteTimeoutNs s ≤ s.now :=
  ⟨2, 4, looking { aLookup with remote := [{ owner := 4, entries := [anEntry], sentAt := some 0, settled := false }] },
    { aLookup with remote := [{ owner := 4, entries := [anEntry], sentAt := some 0, settled := false }] },
    { owner := 4, entries := [anEntry], sentAt := some 0, settled := false }, 0, by decide +kernel⟩

theorem witness_LookupsRunToTheirBags_8 :
    ∃ (lookup owner : Nat) (s : State) (j : LookupJob) (late : List Nat), lookupOf lookup s = some j ∧ late =
      (List.range j.remote.length).filter (fun k => (j.remote[k]?).any (fun g => g.owner == owner && !g.settled &&
      g.sentAt.any (fun u => decide (u + ent Ent.remoteTimeoutNs s ≤ s.now)))) :=
  ⟨2, 4, looking { aLookup with remote := [{ owner := 4, entries := [anEntry], sentAt := some 0, settled := false }] },
    { aLookup with remote := [{ owner := 4, entries := [anEntry], sentAt := some 0, settled := false }] }, [0], by decide +kernel⟩

/-! `WriteDescriptorsReachTheirRows`: states and operands that meet its hypotheses, clause by clause. -/

theorem witness_WriteDescriptorsReachTheirRows_0 :
    ∃ (core : Nat) (desc : Desc) (org : Origin) (s : State) (org0 : Origin) (u : State) (op : Nat) (i : Instr), core <
      98 ∧ inTurn core desc org s = true ∧ (matOf core s).failed = false ∧ wOpcode desc = op ∧ org0 = issuedOrigin
      core desc org s ∧ u = takeIssued core desc org s ∧ writeOk core desc org0 u = true ∧ stalledWrite core desc org0
      u = none ∧ (op = 0x25 → writesAhead core u.updates.nextId org0 (fun r => r.deferredAt.isNone) u = false) ∧ ((op
      = 0x22 ∧ i = .rowWrite core desc org) ∨ (op = 0x23 ∧ i = .batchOpen core desc org) ∨ (op = 0x24 ∧ i =
      .batchCommit core desc org) ∨ (op = 0x25 ∧ i = .batchAbort core desc org)) :=
  by
  refine ⟨97, writeDesc 0x22 0, {}, tabled, issuedOrigin 97 (writeDesc 0x22 0) {} tabled,
    takeIssued 97 (writeDesc 0x22 0) {} tabled, 0x22, .rowWrite 97 (writeDesc 0x22 0) {}, ?_, ?_, ?_, ?_, rfl,
    rfl, ?_, ?_, ?_, Or.inl ⟨rfl, rfl⟩⟩ <;> decide +kernel

theorem witness_WriteDescriptorsReachTheirRows_1 :
    ∃ (core : Nat) (desc : Desc) (org : Origin) (s : State) (org0 : Origin) (u : State) (j : WriteJob), core < 98 ∧
      inTurn core desc org s = true ∧ (matOf core s).failed = false ∧ wOpcode desc = 0x22 ∧ org0 = issuedOrigin core
      desc org s ∧ u = takeIssued core desc org s ∧ writeOk core desc org0 u = true ∧ stalledWrite core desc org0 u =
      some j :=
  by
  refine ⟨97, writeDesc 0x22 0, {}, writing stalledJob,
    issuedOrigin 97 (writeDesc 0x22 0) {} (writing stalledJob),
    takeIssued 97 (writeDesc 0x22 0) {} (writing stalledJob), stalledJob, ?_, ?_, ?_, ?_, rfl, rfl, ?_,
    ?_⟩ <;> decide +kernel

theorem witness_WriteDescriptorsReachTheirRows_2 :
    ∃ (write lane : Nat) (s : State) (j : WriteJob) (r : RowJob) (t0 : Desc), writeOf write s = some j ∧ rowAt j lane
      = some r ∧ tableOf (wTable j.desc) s = some t0 ∧ wBatch j.desc = 0 ∧ earlierAtLane j lane s = false ∧
      writeUnderway lane (some write) s = false ∧ (r.chunks = 0 → copyUnderway lane s = false) ∧ tVersioned t0 = false :=
  ⟨2, 7, writing (aWrite 0 none), aWrite 0 none, aRow none, aTable, by decide +kernel⟩

theorem witness_WriteDescriptorsReachTheirRows_3 :
    ∃ (write lane : Nat) (s : State) (j : WriteJob) (r : RowJob) (t0 : Desc), writeOf write s = some j ∧ rowAt j lane
      = some r ∧ tableOf (wTable j.desc) s = some t0 ∧ wBatch j.desc = 0 ∧ earlierAtLane j lane s = false ∧
      writeUnderway lane (some write) s = false ∧ r.chunks ≠ 0 ∧ tVersioned t0 = true ∧ r.chunks + 1 ≠ rowChunks t0 :=
  ⟨2, 7, longWriting, longWrite, { aRow none with chunks := 1, word := 3 }, longTable, by decide +kernel⟩

theorem witness_WriteDescriptorsReachTheirRows_4 :
    ∃ (write lane : Nat) (s : State) (j : WriteJob) (r : RowJob), writeOf write s = some j ∧ j.rows.find? (fun r =>
      r.lane == lane && r.deferredAt.isNone) = some r ∧ wBatch j.desc ≠ 0 ∧ earlierMoving j lane s = false :=
  ⟨2, 7, writing (aWrite 1 none), aWrite 1 none, aRow none, by decide +kernel⟩

theorem witness_WriteDescriptorsReachTheirRows_5 :
    ∃ (write lane : Nat) (s : State) (j : WriteJob) (r : RowJob), writeOf write s = some j ∧ j.rows.find? (fun r =>
      r.lane == lane && r.deferredAt.isSome) = some r :=
  ⟨2, 7, writing (aWrite 0 (some 0)), aWrite 0 (some 0), aRow (some 0), by decide +kernel⟩

theorem witness_WriteDescriptorsReachTheirRows_6 :
    ∃ (write : Nat) (s : State) (j : WriteJob) (n : Nat), writeOf write s = some j ∧ n = j.rows.countP (fun r =>
      r.deferredAt.any (fun u => decide (u + ent Ent.deferLimitNs s ≤ s.now))) ∧ n ≠ 0 ∧ batchStill j s = true :=
  ⟨2, batching (aWrite 1 (some 0)) [], aWrite 1 (some 0), 1, by decide +kernel⟩

theorem witness_WriteDescriptorsReachTheirRows_7 :
    ∃ (write : Nat) (s : State) (j : WriteJob), writeOf write s = some j ∧ batchStill j s = false ∧ j.rows.any (fun r
      => r.deferredAt.any (fun u => decide (u + ent Ent.deferLimitNs s ≤ s.now))) = true :=
  ⟨2, writing (aWrite 1 (some 0)), aWrite 1 (some 0), by decide +kernel⟩

/-! `CommitsPublishOrTimeOut`: states and operands that meet its hypotheses, clause by clause. -/

theorem witness_CommitsPublishOrTimeOut_0 :
    ∃ (write : Nat) (s : State) (j : WriteJob) (b : Batch) (n rows : Nat), writeOf write s = some j ∧ j.waiting = true
      ∧ commitBefore write s = false ∧ readersOf (s.updates.epoch - 1) s = 0 ∧ n = wBatch j.desc ∧ writesAhead j.core
      j.id j.org (fun r => r.deferredAt.isNone) s = false ∧ batchOf n s = some b ∧ b.accepting = true ∧ b.opening =
      j.opening ∧ (j.cls = .B ∨ j.cls = b.cls) ∧ rows = stagedCount n s + (b.owners.map (·.2)).foldl (· + ·) 0 ∧ rows
      = dword j.desc 1 % 2 ^ 32 :=
  ⟨2, batching aCommit [], aCommit, { num := 1, cls := .B, accepting := true, owners := [] }, 1, 1, by decide +kernel⟩

theorem witness_CommitsPublishOrTimeOut_1 :
    ∃ (write : Nat) (s : State) (j : WriteJob) (b : Batch) (n : Nat), writeOf write s = some j ∧ j.waiting = true ∧
      commitBefore write s = false ∧ readersOf (s.updates.epoch - 1) s = 0 ∧ n = wBatch j.desc ∧ writesAhead j.core
      j.id j.org (fun r => r.deferredAt.isNone) s = false ∧ batchOf n s = some b ∧ b.accepting = true ∧ b.opening =
      j.opening ∧ (j.cls = .B ∨ j.cls = b.cls) ∧ stagedCount n s + (b.owners.map (·.2)).foldl (· + ·) 0 ≠ dword j.desc
      1 % 2 ^ 32 :=
  ⟨2, batching aCommit [(4, 1)], aCommit, { num := 1, cls := .B, accepting := true, owners := [(4, 1)] }, 1, by decide +kernel⟩

theorem witness_CommitsPublishOrTimeOut_2 :
    ∃ (write : Nat) (s : State) (j : WriteJob), writeOf write s = some j ∧ j.waiting = true ∧ commitBefore write s =
      false ∧ readersOf (s.updates.epoch - 1) s = 0 ∧ writesAhead j.core j.id j.org (fun r => r.deferredAt.isNone) s =
      false ∧ batchOf (wBatch j.desc) s = none :=
  ⟨2, writing aCommit, aCommit, by decide +kernel⟩

theorem witness_CommitsPublishOrTimeOut_3 :
    ∃ (batch : Nat) (s : State), (∀ r ∈ s.updates.staged, r.batch ≠ batch) :=
  ⟨2, writing aCommit, by decide +kernel⟩

theorem witness_CommitsPublishOrTimeOut_4 :
    ∃ (write : Nat) (s : State) (j : WriteJob), writeOf write s = some j ∧ j.waiting = true ∧ j.waitFrom + ent
      Ent.commitWaitNs s < s.now :=
  ⟨2, writing aCommit, aCommit, by decide +kernel⟩

theorem witness_CommitsPublishOrTimeOut_5 :
    ∃ (write owner : Nat) (s : State) (j : WriteJob) (e n u : Nat), writeOf write s = some j ∧ j.published = some (e,
      n, u) ∧ j.owners.contains owner = true ∧ u + ent Ent.remoteCommitNs s ≤ s.now :=
  ⟨2, 4, writing { aCommit with published := some (2, 1, 0), owners := [4] }, { aCommit with published := some (2, 1, 0), owners := [4] }, 2, 1, 0, by decide +kernel⟩

theorem witness_CommitsPublishOrTimeOut_6 :
    ∃ (lane : Nat) (s : State) (c : CommittedRow) (t0 : Desc), nextCopy lane s = some c ∧ writeUnderway lane none s =
      false ∧ tableOf c.table s = some t0 ∧ (tVersioned t0 = false ∨ rowChunks t0 ≤ c.chunks + 1) :=
  ⟨7, writing aCommit, { epoch := 1, table := 5, row := 3, lane := 7, data := [1], copied := false, chunks := 0, preImage := none }, aTable, by decide +kernel⟩

theorem witness_CommitsPublishOrTimeOut_7 :
    ∃ (lane : Nat) (s : State) (c : CommittedRow) (t0 : Desc) (word : Nat) (w u : State), nextCopy lane s = some c ∧
      writeUnderway lane none s = false ∧ tableOf c.table s = some t0 ∧ tVersioned t0 = true ∧ c.chunks + 1 <
      rowChunks t0 ∧ word = (if c.chunks = 0 then nextWord (slotRow t0 c.row s).version else (slotRow t0 c.row
      s).version) ∧ w = (if tCold t0 = true then touchCold s else s) ∧ u = storeChunk t0 c.row c.chunks word c.data w :=
  by
  refine ⟨7, { longWriting with updates := { longWriting.updates with jobs := [] } },
    { epoch := 1, table := 5, row := 3, lane := 7, data := [1], copied := false, chunks := 0, preImage := none },
    longTable, 1, _, _, ?_, ?_, ?_, ?_, ?_, ?_, rfl, rfl⟩ <;> decide +kernel

theorem witness_CommitsPublishOrTimeOut_8 :
    ∃ (epoch : Nat) (s : State), epoch < s.updates.epoch ∧ readersOf epoch s = 0 :=
  ⟨0, tabled, by decide +kernel⟩

/-! `VectorSettingsReductionsAndTopK`: states and operands that meet its hypotheses, clause by clause. -/

theorem witness_VectorSettingsReductionsAndTopK_0 :
    ∃ (core : Nat) (word : BitVec 32) (s : State), MayRunVector core s ∧ iOp word = 0x0B ∧ iF3 word = 0 ∧ iF7 word /
      16 = 0 ∧ iRs2 word = 0 ∧ fmtOk (iF7 word % 16) = true :=
  ⟨97, word 7 0 1 0 3 0x0B, tasked, by unfold MayRunVector MayRun; decide +kernel⟩

theorem witness_VectorSettingsReductionsAndTopK_1 :
    ∃ (core : Nat) (word : BitVec 32) (s : State), MayRunVector core s ∧ iOp word = 0x0B ∧ iF3 word = 6 ∧ iRd word < 8
      ∧ iF7 word / 2 ≤ 5 ∧ (iF7 word / 2 = 4 ∨ iRs2 word = 0) :=
  ⟨97, word 8 5 4 6 3 0x0B, tasked, by unfold MayRunVector MayRun; decide +kernel⟩

theorem witness_VectorSettingsReductionsAndTopK_2 :
    ∃ (core : Nat) (word : BitVec 32) (s : State), MayRunVector core s ∧ iOp word = 0x0B ∧ iF3 word = 6 ∧ iRd word < 8
      ∧ iF7 word / 2 = 8 ∧ iRs1 word = 0 ∧ iRs2 word = 0 :=
  ⟨97, word 16 0 0 6 3 0x0B, tasked, by unfold MayRunVector MayRun; decide +kernel⟩

theorem witness_VectorSettingsReductionsAndTopK_3 :
    ∃ (core : Nat) (word : BitVec 32) (s : State), MayRunVector core s ∧ topkIs word 1 = true ∧ iVm word = false ∧ (xr
      core (iRs1 word) s).toNat ≠ 0 ∧ (xr core (iRs1 word) s).toNat ≤ 512 :=
  ⟨97, word 2 2 1 7 3 0x0B, tasked, by unfold MayRunVector MayRun; decide +kernel⟩

theorem witness_VectorSettingsReductionsAndTopK_4 :
    ∃ (core : Nat) (word : BitVec 32) (s : State), MayRunVector core s ∧ topkIs word 0 = true ∧ (vecOf core s).vl ≤
      128 ∧ (vecOf core s).topk.isSet = true :=
  ⟨97, word 0 2 1 7 3 0x0B, topked, by unfold MayRunVector MayRun; decide +kernel⟩

theorem witness_VectorSettingsReductionsAndTopK_5 :
    ∃ (core : Nat) (word : BitVec 32) (s : State), MayRunVector core s ∧ topkIs word 2 = true ∧ iVm word = false ∧
      iRs2 word = 0 ∧ inPart (taskPart core s) (xr core (iRs1 word) s).toNat (8 * (vecOf core s).topk.entries.length)
      = true :=
  ⟨97, word 4 0 1 7 3 0x0B, topked, by unfold MayRunVector MayRun; decide +kernel⟩

theorem witness_VectorSettingsReductionsAndTopK_6 :
    ∃ (core : Nat) (word : BitVec 32) (s : State), MayRunVector core s ∧ topkIs word 3 = true ∧ iVm word = false ∧
      iRs2 word = 0 :=
  ⟨97, word 6 0 1 7 3 0x0B, topked, by unfold MayRunVector MayRun; decide +kernel⟩

theorem witness_VectorSettingsReductionsAndTopK_7 :
    ∃ (core _n _k : Nat) (_s : State) (e : Nat), (core < 96 ∨ e < 32) :=
  ⟨97, 1, 0, up, 3, by decide +kernel⟩

/-! `VectorLoadsAndStores`: states and operands that meet its hypotheses, clause by clause. -/

theorem witness_VectorLoadsAndStores_0 :
    ∃ (core : Nat) (word : BitVec 32) (s : State), MayRunVector core s ∧ iOp word = 0x0B ∧ iF3 word = 1 ∧ bitOf
      word.toNat 31 = false ∧ vMemOk word = true ∧ (active core (iVm word) s).all (fun e => inPart (taskPart core s)
      (vAddr core word e s) (vBytes core s)) = true :=
  ⟨97, word 0 0 1 1 3 0x0B, tasked, by unfold MayRunVector MayRun; decide +kernel⟩

theorem witness_VectorLoadsAndStores_1 :
    ∃ (core : Nat) (word : BitVec 32) (s : State), MayRunVector core s ∧ iOp word = 0x0B ∧ iF3 word = 1 ∧ bitOf
      word.toNat 31 = true ∧ vMemOk word = true ∧ (active core (iVm word) s).all (fun e => inPart (taskPart core s)
      (vAddr core word e s) (vBytes core s)) = true :=
  ⟨97, word 0x60 2 1 1 3 0x0B, tasked, by unfold MayRunVector MayRun; decide +kernel⟩

/-! `VectorArithmeticWritesItsRegister`: states and operands that meet its hypotheses, clause by clause. -/

theorem witness_VectorArithmeticWritesItsRegister_0 :
    ∃ (core : Nat) (word : BitVec 32) (s : State) (vx : Bool) (i : Instr) (op c : Nat) (b : Nat → Nat) (l : List (Nat
      × Nat)), MayRunVector core s ∧ iOp word = 0x0B ∧ ((iF3 word = 2 ∧ vx = false ∧ i = .vopVv core word ∧ b = fun e
      => vElem (fmtBits c) e (vr core (iRs2 word) s)) ∨ (iF3 word = 3 ∧ vx = true ∧ i = .vopVx core word ∧ b = fun _
      => (xr core (iRs2 word) s).toNat % 2 ^ fmtBits c)) ∧ op = iF7 word / 2 ∧ c = (vecOf core s).vfmt ∧ vopOk op c vx
      = true ∧ (op = 0x18 ∨ op = 0x19 → iRs1 word = 0) ∧ l = (active core (iVm word) s).map (fun e => (e, vopElem op c
      (vElem (fmtBits c) e (vr core (iRs1 word) s)) (b e) (vElem (fmtBits c) e (vr core (iRd word) s)) e ((vr core 0
      s).getLsbD e))) :=
  by
  refine ⟨97, word 0x20 5 4 3 3 0x0B, tasked, true, .vopVx 97 (word 0x20 5 4 3 3 0x0B), 0x10, 7,
    fun _ => (xr 97 5 tasked).toNat % 2 ^ 32, _, by unfold MayRunVector MayRun; decide +kernel, ?_,
    Or.inr ⟨by decide +kernel, rfl, rfl, rfl⟩, ?_, ?_, ?_, ?_, rfl⟩ <;> decide +kernel

theorem witness_VectorArithmeticWritesItsRegister_1 :
    ∃ (core : Nat) (word : BitVec 32) (s : State), MayRunVector core s ∧ iOp word = 0x0B ∧ iF3 word = 5 ∧ iRs2 word =
      0 ∧ vunOk (iF7 word / 2) (vecOf core s).vfmt = true :=
  ⟨97, word 0 0 4 5 3 0x0B, tasked, by unfold MayRunVector MayRun; decide +kernel⟩

theorem witness_VectorArithmeticWritesItsRegister_2 :
    ∃ (core : Nat) (word : BitVec 32) (s : State) (divisor : Option (BitVec 32)) (cs : List Conv), MayRunVector core s
      ∧ iOp word = 0x0B ∧ iF3 word = 4 ∧ vcvtOk core word s = true ∧ bitOf (iF7 word) 4 = false ∧ divisor = (if iRs2
      word = 0 then none else some (BitVec.ofNat 32 (xr core (iRs2 word) s).toNat)) ∧ cs = ((List.range (vecOf core
      s).vl).map (fun e => groupElem core (iF7 word % 16) (iRs1 word) e s)).map (convElem (iF7 word % 16) (vecOf core
      s).vfmt divisor) :=
  ⟨97, word 8 0 4 4 3 0x0B, tasked, none,
    ((List.range (vecOf 97 tasked).vl).map (fun e => groupElem 97 8 4 e tasked)).map (convElem 8 7 none), by unfold MayRunVector MayRun; decide +kernel⟩

theorem witness_VectorArithmeticWritesItsRegister_3 :
    ∃ (core : Nat) (word : BitVec 32) (s : State) (vs : List FVal) (bs : List (Nat × List Conv)), MayRunVector core s
      ∧ iOp word = 0x0B ∧ iF3 word = 4 ∧ vcvtOk core word s = true ∧ bitOf (iF7 word) 4 = true ∧ iRs2 word = 0 ∧ vs =
      ((List.range (vecOf core s).vl).map (fun e => groupElem core (iF7 word % 16) (iRs1 word) e s)).map (decElem (iF7
      word % 16)) ∧ bs = (blocks32 vs).map (mxBlock (vecOf core s).vfmt) :=
  by
  refine ⟨97, word 0x18 0 4 4 3 0x0B, updVec 97 (fun k => { k with vl := 32, vfmt := 3 }) tasked, _, _,
    by unfold MayRunVector MayRun; decide +kernel, ?_, ?_, ?_, ?_, ?_, rfl, rfl⟩ <;> decide +kernel

theorem witness_VectorArithmeticWritesItsRegister_4 :
    ∃ (core : Nat) (word : BitVec 32) (s : State) (q : List VqEntry), MayRun core s ∧ awaitsCount core word s = false
      ∧ (vecOf core s).vqueue = q ∧ q ≠ [] ∧ q.length < 16 ∧ iOp word = 0x0B ∧ iF3 word = 5 ∧ iRs2 word = 0 ∧ vunOk
      (iF7 word / 2) (vecOf core s).vfmt = true :=
  ⟨97, word 0 0 4 5 3 0x0B, updVec 97 (fun k => { k with vqueue := [.tensor tensorDesc {}] }) tasked, [.tensor tensorDesc {}], by unfold MayRun; decide +kernel⟩

/-! `ControlInstructionsTakeEffect`: states and operands that meet its hypotheses, clause by clause. -/

theorem witness_ControlInstructionsTakeEffect_0 :
    ∃ (core : Nat) (word : BitVec 32) (s : State), MayRun core s ∧ awaitsCount core word s = false ∧ iOp word = 0x2B ∧
      iF3 word = 2 ∧ iF7 word = 0 ∧ iRs2 word = 0 ∧ iRs1 word < 8 ∧ (vecOf core s).vqueue.any (reducesTo (iRs1 word))
      = false :=
  ⟨97, word 0 0 5 2 3 0x2B, tasked, by unfold MayRun; decide +kernel⟩

theorem witness_ControlInstructionsTakeEffect_1 :
    ∃ (core : Nat) (word : BitVec 32) (s : State) (v : BitVec 64), MayRun core s ∧ awaitsCount core word s = false ∧
      iOp word = 0x2B ∧ iF3 word = 5 ∧ (iF7 word < 8 ∨ iRs2 word = 0) ∧ sfopValue (iF7 word) (xr core (iRs1 word) s)
      (xr core (iRs2 word) s) = some v :=
  ⟨97, word 0 2 1 5 3 0x2B, tasked, (add32 64 3).setWidth 64, by unfold MayRun; decide +kernel⟩

theorem witness_ControlInstructionsTakeEffect_2 :
    ∃ (core : Nat) (word : BitVec 32) (s : State), MayRun core s ∧ awaitsCount core word s = false ∧ iOp word = 0x2B ∧
      iF3 word = 1 ∧ iF7 word / 16 = 0 ∧ iRd word = 0 ∧ iRs1 word = 0 ∧ iRs2 word = 0 ∧ (bitOf (iF7 word) 0 = true →
      (vecOf core s).vqueue = []) ∧ (bitOf (iF7 word) 3 = true → (vecOf core s).vqueue.any isTopk = false) ∧ (bitOf
      (iF7 word) 1 = true → matrixQuiet core s = true) ∧ (bitOf (iF7 word) 2 = true → draysQuiet core s = true) :=
  ⟨97, word 3 0 0 1 0 0x2B, tasked, by unfold MayRun; decide +kernel⟩

theorem witness_ControlInstructionsTakeEffect_3 :
    ∃ (core : Nat) (word : BitVec 32) (s : State), MayRun core s ∧ awaitsCount core word s = false ∧ iOp word = 0x2B ∧
      iF3 word = 6 ∧ iF7 word = 0 ∧ iRd word = 0 ∧ (ctlOf core s).specid ≠ 0 :=
  ⟨97, word 0 2 1 6 0 0x2B, speculating, by unfold MayRun; decide +kernel⟩

theorem witness_ControlInstructionsTakeEffect_4 :
    ∃ (core : Nat) (word : BitVec 32) (s : State), MayRun core s ∧ awaitsCount core word s = false ∧ iOp word = 0x2B ∧
      iF3 word = 4 ∧ field (iF7 word) 5 1 = 0 ∧ iRd word = 0 ∧ bitOf (iF7 word) 6 = false ∧ (xr core (iRs1 word)
      s).toNat + 8 ≤ 2 ^ 52 ∧ storesAhead core s = false ∧ (ctlOf core s).specid ≠ 0 :=
  ⟨97, word 0 2 1 4 0 0x2B, speculating, by unfold MayRun; decide +kernel⟩

theorem witness_ControlInstructionsTakeEffect_5 :
    ∃ (core : Nat) (word : BitVec 32) (s : State) (l : Nat), MayRun core s ∧ awaitsCount core word s = false ∧ iOp
      word = 0x2B ∧ iF3 word = 6 ∧ iF7 word = 0 ∧ iRd word = 0 ∧ (ctlOf core s).specid = 0 ∧ (ctlOf core s).held = []
      ∧ (taskOrg core s).launch = some l :=
  ⟨97, word 0 2 1 6 0 0x2B, updCtl 97 (fun k => { k with task := some { aTask with launch := some 4 } }) tasked, 4, by unfold MayRun; decide +kernel⟩

theorem witness_ControlInstructionsTakeEffect_6 :
    ∃ (core : Nat) (word : BitVec 32) (s : State) (va : Nat), MayRun core s ∧ awaitsCount core word s = false ∧ iOp
      word = 0x2B ∧ iF3 word = 4 ∧ field (iF7 word) 5 1 = 0 ∧ iRd word = 0 ∧ bitOf (iF7 word) 6 = false ∧ va = (xr
      core (iRs1 word) s).toNat ∧ va + 8 ≤ 2 ^ 52 ∧ (ctlOf core s).specid = 0 ∧ (ctlOf core s).held = [] ∧ storesAhead
      core s = false ∧ memCheck va 8 .atomic s = .ok :=
  ⟨97, word 0 2 1 4 0 0x2B, updCtl 97 (fun k => { k with x := k.x.set 1 0x100FF8 }) { tasked with xlate := mapped.xlate }, 0x100FF8, by unfold MayRun; decide +kernel⟩

theorem witness_ControlInstructionsTakeEffect_7 :
    ∃ (core : Nat) (word : BitVec 32) (s : State) (i : Instr), MayRun core s ∧ awaitsCount core word s = true ∧ iOp
      word = 0x2B ∧ ((i = .eissue core word ∧ iF3 word = 0) ∨ (i = .efence core word ∧ iF3 word = 1) ∨ (i = .smrd core
      word ∧ iF3 word = 2) ∨ (i = .hwait core word ∧ iF3 word = 3) ∨ (i = .hsig core word ∧ iF3 word = 4) ∨ (i = .sfop
      core word ∧ iF3 word = 5) ∨ (i = .resolve core word ∧ iF3 word = 6) ∨ (i = .taskend core word ∧ iF3 word = 7)) :=
  by
  refine ⟨97, word 0 0 0 5 3 0x2B, awaiting, .sfop 97 (word 0 0 0 5 3 0x2B), by unfold MayRun; decide +kernel,
    ?_, ?_, ?_⟩ <;> decide +kernel

/-! `IssueWaitAndTaskEnd`: states and operands that meet its hypotheses, clause by clause. -/

theorem witness_IssueWaitAndTaskEnd_0 :
    ∃ (core : Nat) (word : BitVec 32) (s : State) (d : Desc), MayRun core s ∧ awaitsCount core word s = false ∧ iOp
      word = 0x2B ∧ iF3 word = 0 ∧ iF7 word = 0 ∧ iRd word = 0 ∧ iRs2 word = 0 ∧ inPart (taskPart core s) (xr core
      (iRs1 word) s).toNat 64 = true ∧ memoryAhead core s = false ∧ d = setSpecId (BitVec.ofNat 512 (ofLe (sramRead
      core (xr core (iRs1 word) s).toNat 64 s))) 6 (ctlOf core s).specid ∧ engineOpcode (df d 0 63 56) = true ∧
      engineFull core (df d 0 63 56) s = false :=
  ⟨97, word 0 0 1 0 0 0x2B, { tasked with mem := { tasked.mem with sram := memWrite [] (sramKey 97 64) (leBytes 8 (0x30 * 2 ^ 56)) } },
    setSpecId (descOf [0x30 * 2 ^ 56]) 6 0, by unfold MayRun; decide +kernel⟩

theorem witness_IssueWaitAndTaskEnd_1 :
    ∃ (core : Nat) (word : BitVec 32) (s : State), MayRun core s ∧ awaitsCount core word s = false ∧ iOp word = 0x2B ∧
      iF3 word = 3 ∧ field (iF7 word) 5 2 = 0 ∧ iF7 word % 4 ≠ 3 ∧ bitOf (iF7 word) 6 = true ∧ inPart (taskPart core
      s) (xr core (iRs1 word) s).toNat 8 = true ∧ condHolds (iF7 word % 4) (waitValue core (xr core (iRs1 word)
      s).toNat true s).toNat (xr core (iRs2 word) s).toNat (ctlOf core s).hmask.toNat = true :=
  ⟨97, word 0x42 2 1 3 0 0x2B, tasked, by unfold MayRun; decide +kernel⟩

theorem witness_IssueWaitAndTaskEnd_2 :
    ∃ (core : Nat) (word : BitVec 32) (s : State) (k : TaskRec), MayRun core s ∧ awaitsCount core word s = false ∧ iOp
      word = 0x2B ∧ iF3 word = 7 ∧ iF7 word = 0 ∧ iRd word = 0 ∧ iRs2 word = 0 ∧ (ctlOf core s).task = some k ∧ (vecOf
      core s).vqueue.any isInstr = false :=
  ⟨97, word 0 0 1 7 0 0x2B, tasked, aTask, by unfold MayRun; decide +kernel⟩

/-! `BaseInstructionsRun`: states and operands that meet its hypotheses, clause by clause. -/

theorem witness_BaseInstructionsRun_0 :
    ∃ (core : Nat) (word : BitVec 32) (s : State), MayRun core s ∧ word.toNat % 4 = 3 :=
  ⟨97, word 0 2 1 0 3 0x33, tasked, by unfold MayRun; decide +kernel⟩

theorem witness_BaseInstructionsRun_1 :
    ∃ (core : Nat) (word : BitVec 32) (s : State), MayRunWord core word s ∧ field word.toNat 6 0 = 0x37 :=
  ⟨97, word 0 2 1 0 3 0x37, tasked, by unfold MayRunWord MayRun; decide +kernel⟩

theorem witness_BaseInstructionsRun_2 :
    ∃ (core : Nat) (word : BitVec 32) (s : State), MayRunWord core word s ∧ field word.toNat 6 0 = 0x6F :=
  ⟨97, word 0 2 0 0 3 0x6F, tasked, by unfold MayRunWord MayRun; decide +kernel⟩

theorem witness_BaseInstructionsRun_3 :
    ∃ (core : Nat) (word : BitVec 32) (s : State) (w : Nat), MayRun core s ∧ word.toNat % 4 ≠ 3 ∧ expand16 (word.toNat
      % 65536) = some w :=
  ⟨97, 0x0085, tasked, 0x00108093, by unfold MayRun; decide +kernel⟩

theorem witness_BaseInstructionsRun_4 :
    ∃ (core : Nat) (word : BitVec 32) (s : State), MayRunWord core word s ∧ field word.toNat 6 0 = 0x17 :=
  ⟨97, word 0 2 1 0 3 0x17, tasked, by unfold MayRunWord MayRun; decide +kernel⟩

theorem witness_BaseInstructionsRun_5 :
    ∃ (core : Nat) (word : BitVec 32) (s : State), MayRunWord core word s ∧ field word.toNat 6 0 = 0x67 ∧ field
      word.toNat 14 12 = 0 :=
  ⟨97, word 0 2 1 0 3 0x67, tasked, by unfold MayRunWord MayRun; decide +kernel⟩

theorem witness_BaseInstructionsRun_6 :
    ∃ (core : Nat) (word : BitVec 32) (s : State) (f3 : Nat) (a b : BitVec 64), MayRunWord core word s ∧ field
      word.toNat 6 0 = 0x63 ∧ f3 = field word.toNat 14 12 ∧ f3 ≠ 2 ∧ f3 ≠ 3 ∧ a = xr core (field word.toNat 19 15) s ∧
      b = xr core (field word.toNat 24 20) s :=
  ⟨97, word 0 2 1 1 0 0x63, tasked, 1, 64, 3, by unfold MayRunWord MayRun; decide +kernel⟩

theorem witness_BaseInstructionsRun_7 :
    ∃ (core : Nat) (word : BitVec 32) (s : State) (f3 : Nat) (sh : Bool), MayRunWord core word s ∧ field word.toNat 6
      0 = 0x13 ∧ f3 = field word.toNat 14 12 ∧ (sh = decide (f3 = 1 ∨ f3 = 5)) ∧ (sh = true → field word.toNat 31 26 =
      0 ∨ (f3 = 5 ∧ field word.toNat 31 26 = 16)) :=
  ⟨97, word 32 3 1 5 3 0x13, tasked, 5, true, by unfold MayRunWord MayRun; decide +kernel⟩

theorem witness_BaseInstructionsRun_8 :
    ∃ (core : Nat) (word : BitVec 32) (s : State) (f3 f7 : Nat), MayRunWord core word s ∧ field word.toNat 6 0 = 0x33
      ∧ f3 = field word.toNat 14 12 ∧ f7 = field word.toNat 31 25 ∧ (f7 = 0 ∨ f7 = 1 ∨ (f7 = 32 ∧ (f3 = 0 ∨ f3 = 5))) :=
  ⟨97, word 1 2 1 4 3 0x33, tasked, 4, 1, by unfold MayRunWord MayRun; decide +kernel⟩

theorem witness_BaseInstructionsRun_9 :
    ∃ (core : Nat) (word : BitVec 32) (s : State) (f3 f7 : Nat) (a b : BitVec 64), MayRunWord core word s ∧ field
      word.toNat 6 0 = 0x3B ∧ f3 = field word.toNat 14 12 ∧ f7 = field word.toNat 31 25 ∧ a = xr core (field
      word.toNat 19 15) s ∧ b = xr core (field word.toNat 24 20) s ∧ ((f7 = 0 ∧ (f3 = 0 ∨ f3 = 1 ∨ f3 = 5)) ∨ (f7 = 1
      ∧ (f3 = 0 ∨ 4 ≤ f3)) ∨ (f7 = 32 ∧ (f3 = 0 ∨ f3 = 5))) :=
  ⟨97, word 32 2 1 5 3 0x3B, tasked, 5, 32, 64, 3, by unfold MayRunWord MayRun; decide +kernel⟩

theorem witness_BaseInstructionsRun_10 :
    ∃ (core : Nat) (word : BitVec 32) (s : State) (f3 : Nat), MayRunWord core word s ∧ field word.toNat 6 0 = 0x1B ∧
      f3 = field word.toNat 14 12 ∧ (f3 = 0 ∨ (f3 = 1 ∧ field word.toNat 31 25 = 0) ∨ (f3 = 5 ∧ (field word.toNat 31
      25 = 0 ∨ field word.toNat 31 25 = 32))) :=
  ⟨97, word 0 2 1 0 3 0x1B, tasked, 0, by unfold MayRunWord MayRun; decide +kernel⟩

theorem witness_BaseInstructionsRun_11 :
    ∃ (core : Nat) (word : BitVec 32) (s : State) (f3 a n v : Nat), MayRunWord core word s ∧ field word.toNat 6 0 =
      0x03 ∧ f3 = field word.toNat 14 12 ∧ f3 ≠ 7 ∧ a = (xr core (field word.toNat 19 15) s + immI word.toNat).toNat ∧
      n = 2 ^ (f3 % 4) ∧ inPart (taskPart core s) a n = true ∧ storesAhead core s = false ∧ v = ofLe (sramRead core a
      n s) :=
  ⟨97, word 0 0 1 3 3 0x03, tasked, 3, 64, 8, ofLe (sramRead 97 64 8 tasked), by unfold MayRunWord MayRun; decide +kernel⟩

theorem witness_BaseInstructionsRun_12 :
    ∃ (core : Nat) (word : BitVec 32) (s : State) (f3 a : Nat), MayRunWord core word s ∧ field word.toNat 6 0 = 0x23 ∧
      f3 = field word.toNat 14 12 ∧ f3 < 4 ∧ a = (xr core (field word.toNat 19 15) s + immS word.toNat).toNat ∧ inPart
      (taskPart core s) a (2 ^ f3) = true ∧ memoryAhead core s = false :=
  ⟨97, word 0 2 1 3 0 0x23, tasked, 3, 64, by unfold MayRunWord MayRun; decide +kernel⟩

theorem witness_BaseInstructionsRun_13 :
    ∃ (core : Nat) (word : BitVec 32) (s : State), MayRunWord core word s ∧ field word.toNat 6 0 = 0x0F ∧ field
      word.toNat 14 12 ≤ 1 :=
  ⟨97, word 0 0 0 0 0 0x0F, tasked, by unfold MayRunWord MayRun; decide +kernel⟩

theorem witness_BaseInstructionsRun_14 :
    ∃ (core : Nat) (word : BitVec 32) (s : State) (a : Nat) (old : BitVec 64), MayRunWord core word s ∧ field
      word.toNat 6 0 = 0x73 ∧ (field word.toNat 14 12 = 2 ∨ field word.toNat 14 12 = 3 ∨ field word.toNat 14 12 = 6 ∨
      field word.toNat 14 12 = 7) ∧ field word.toNat 19 15 = 0 ∧ a = field word.toNat 31 20 ∧ csrRead core a s = some
      old :=
  ⟨97, word 0x78 0x14 0 2 3 0x73, tasked, 0xF14, 97, by unfold MayRunWord MayRun; decide +kernel⟩

theorem witness_BaseInstructionsRun_15 :
    ∃ (core : Nat) (word : BitVec 32) (s : State) (a : Nat) (old src : BitVec 64) (u : State), MayRunWord core word s
      ∧ field word.toNat 6 0 = 0x73 ∧ ((field word.toNat 14 12 = 1 ∧ src = xr core (field word.toNat 19 15) s) ∨
      (field word.toNat 14 12 = 5 ∧ src = BitVec.ofNat 64 (field word.toNat 19 15))) ∧ a = field word.toNat 31 20 ∧
      csrRead core a s = some old ∧ csrWrite core a src s = some u :=
  ⟨97, word 0x3E 0 1 1 3 0x73, tasked, 0x7C0, (ctlOf 97 tasked).hmask, 64, updCtl 97 (fun k => { k with hmask := 64 }) tasked, by unfold MayRunWord MayRun; decide +kernel, by decide +kernel, Or.inl ⟨by decide +kernel, by decide +kernel⟩, by decide +kernel, rfl, rfl⟩

theorem witness_BaseInstructionsRun_17 :
    ∃ (core : Nat) (word : BitVec 32) (s : State), MayRunWord core word s ∧ word = 0x30200073#32 :=
  ⟨97, 0x30200073#32, tasked, by unfold MayRunWord MayRun; decide +kernel⟩

theorem witness_BaseInstructionsRun_18 :
    ∃ (core : Nat) (word : BitVec 32) (s : State), MayRunWord core word s ∧ word = 0x10500073#32 :=
  ⟨97, 0x10500073#32, tasked, by unfold MayRunWord MayRun; decide +kernel⟩

theorem witness_BaseInstructionsRun_19 :
    ∃ (core : Nat) (word : BitVec 32) (s : State) (f3 n a old _new rd : Nat), MayRunWord core word s ∧ field
      word.toNat 6 0 = 0x2F ∧ f3 = field word.toNat 14 12 ∧ (f3 = 2 ∨ f3 = 3) ∧ n = 2 ^ f3 ∧ a = (xr core (field
      word.toNat 19 15) s).toNat ∧ a % n = 0 ∧ inPart (taskPart core s) a n = true ∧ memoryAhead core s = false ∧ old
      = ofLe (sramRead core a n s) ∧ rd = field word.toNat 11 7 :=
  ⟨97, word 8 0 1 3 3 0x2F, tasked, 3, 8, 64, ofLe (sramRead 97 64 8 tasked), 0, 3, by unfold MayRunWord MayRun; decide +kernel⟩

theorem witness_BaseInstructionsRun_20 :
    ∃ (core : Nat) (_word : BitVec 32) (s : State), MayRun core s :=
  ⟨97, 0, tasked, by unfold MayRun; decide +kernel⟩

theorem witness_BaseInstructionsRun_21 :
    ∃ (core : Nat) (word : BitVec 32) (s : State) (w : Nat), MayRun core s ∧ word.toNat % 4 ≠ 3 ∧ expand16 (word.toNat
      % 65536) = some w ∧ awaitsCount core (BitVec.ofNat 32 w) s = false ∧ field (w % 2 ^ 32) 6 0 = 0x33 ∧ field (w %
      2 ^ 32) 14 12 = 0 ∧ field (w % 2 ^ 32) 31 25 = 0 :=
  ⟨97, 37254, tasked, 1147315, by unfold MayRun; decide +kernel⟩

theorem witness_BaseInstructionsRun_22 :
    ∃ (core : Nat) (word : BitVec 32) (s : State), MayRun core s ∧ word.toNat % 4 = 3 ∧ awaitsCount core word s = true :=
  ⟨97, word 0 2 3 0 4 0x33, awaiting, by unfold MayRun; decide +kernel⟩

/-! `InterruptsTrapAndTasksStart`: states and operands that meet its hypotheses, clause by clause. -/

theorem witness_InterruptsTrapAndTasksStart_0 :
    ∃ (core : Nat) (s : State), core < 98 ∧ interruptReady core 7 s = true :=
  ⟨97, interrupted, by decide +kernel⟩

theorem witness_InterruptsTrapAndTasksStart_1 :
    ∃ (core : Nat) (s : State), core < 98 ∧ interruptReady core 16 s = true :=
  ⟨97, interrupted, by decide +kernel⟩

theorem witness_InterruptsTrapAndTasksStart_2 :
    ∃ (core : Nat) (s : State) (p : PendingTask) (u : State), core < 98 ∧ (ctlOf core s).task = none ∧ coreOn core s =
      true ∧ dispatchStopped s = false ∧ movePaused core s = false ∧ nextTaskOf core s = some p ∧ (matOf core
      s).failed = false ∧ u = takeCore core p.task.queue s :=
  by
  refine ⟨97,
    { up with dispatch := { up.dispatch with tasks := [{ core := 97, entry := 0, arg := 0, launchWord := 0, task := aTask }] } },
    { core := 97, entry := 0, arg := 0, launchWord := 0, task := aTask }, _, ?_, ?_, ?_, ?_, ?_, ?_, ?_,
    rfl⟩ <;> decide +kernel

theorem witness_InterruptsTrapAndTasksStart_3 :
    ∃ (core queue : Nat) (s t : State), t = takeCore core queue s :=
  ⟨2, 3, scheduled 0, _, rfl⟩

theorem witness_InterruptsTrapAndTasksStart_4 :
    ∃ (core : Nat) (s : State) (k : TaskRec), core < 98 ∧ (ctlOf core s).task = some k ∧ k.persistent = false ∧
      dispatchStopped s = false ∧ k.startedAt + ent Ent.taskLimitNs s ≤ s.now :=
  ⟨97, tasked, aTask, by decide +kernel⟩

/-! `VectorTensorDescriptorsRun`: states and operands that meet its hypotheses, clause by clause. -/

theorem witness_VectorTensorDescriptorsRun_0 :
    ∃ (core : Nat) (desc : Desc) (org : Origin) (s : State), core < 98 ∧ coreOn core s = true ∧ ((vecOf core
      s).vqueue.head? = some (.tensor desc org) ∨ ((vecOf core s).vqueue.contains (.tensor desc org) = false ∧ inTurn
      core desc org s = true)) ∧ (matOf core (takeTensor core desc org s)).failed = false ∧ tensorOk core desc org
      (takeTensor core desc org s) = true :=
  ⟨97, tensorDesc, {}, updVec 97 (fun k => { k with vqueue := [.tensor tensorDesc {}] }) up, by decide +kernel⟩

theorem witness_VectorTensorDescriptorsRun_1 :
    ∃ (core : Nat) (desc : Desc) (org : Origin) (s : State), core < 98 ∧ (vecOf core s).vqueue.contains (.tensor desc
      org) = true ∧ (vecOf core s).vqueue.head? ≠ some (.tensor desc org) :=
  ⟨97, tensorDesc, {}, updVec 97 (fun k => { k with vqueue := [.tensor (tensorDesc + 1) {}, .tensor tensorDesc {}] }) up, by decide +kernel⟩

/-! `TilesJoinAndStream`: states and operands that meet its hypotheses, clause by clause. -/

theorem witness_TilesJoinAndStream_0 :
    ∃ (core : Nat) (desc : Desc) (org : Origin) (s : State), core < 98 ∧ inTurn core desc org s = true ∧ matDecodeOk
      core desc org s = true ∧ ringUsed (matOf core s) < s.job.tileRing ∧ ringTaken core desc s = false :=
  ⟨97, matrixDesc, {}, { up with job := { up.job with tileRing := 4 } }, by decide +kernel⟩

theorem witness_TilesJoinAndStream_1 :
    ∃ (core : Nat) (desc : Desc) (org : Origin) (s : State), core < 98 ∧ inTurn core desc org s = true ∧ matDecodeOk
      core desc org s = true ∧ (s.job.tileRing ≤ ringUsed (matOf core s) ∨ ringTaken core desc s = true) :=
  ⟨97, matrixDesc, {}, { up with job := { up.job with tileRing := 0 } }, by decide +kernel⟩

theorem witness_TilesJoinAndStream_2 :
    ∃ (core : Nat) (s : State) (e : TileEntry) (c : Chain), core < 98 ∧ nextEntry core s = some e ∧ chainOfEntry
      (matOf core s) e = some c ∧ coreOn core s = true ∧ (matOf core s).failed = false ∧ (matOf core s).chains.any
      needsReplay = false ∧ (mDep e.desc = true → e.tile = 0 → earlierDrain (matOf core s) e.num = false) ∧ (matOf
      core s).shadowTag = some (e.num, e.tile) :=
  ⟨97, chained false false (some (4, 0)), aTile false, aChain false false, by decide +kernel⟩

theorem witness_TilesJoinAndStream_3 :
    ∃ (core : Nat) (s : State) (e : TileEntry) (c : Chain) (bs : List (List Byte)) (u v : State) (c' : Chain), core <
      98 ∧ nextEntry core s = some e ∧ chainOfEntry (matOf core s) e = some c ∧ coreOn core s = true ∧ (matOf core
      s).failed = false ∧ (matOf core s).chains.any needsReplay = false ∧ (mDep e.desc = true → e.tile = 0 →
      earlierDrain (matOf core s) e.num = false) ∧ (matOf core s).shadowTag ≠ some (e.num, e.tile) ∧ (matOf core
      s).ringWaitSince = none ∧ loadTile core e s = some (bs, u) ∧ v = updMat core (fun x =>
      { x with ringWaitSince := none }) u ∧ chainOfEntry (matOf core v) e = some c' :=
  by
  refine ⟨97, chained false false none, aTile false, aChain false false, _, _, _, _, ?_, ?_, ?_, ?_, ?_, ?_, ?_,
    ?_, ?_, rfl, rfl, rfl⟩ <;> decide +kernel

/-! `ChainsDrainReplayAndYield`: states and operands that meet its hypotheses, clause by clause. -/

theorem witness_ChainsDrainReplayAndYield_0 :
    ∃ (core accBase : Nat) (s : State) (c : Chain) (e : TileEntry), core < 98 ∧ (matOf core s).chains.find? (fun c =>
      c.accBase == accBase && drainable c) = some c ∧ c.descs.find? (fun e => mAccOut e.desc) = some e ∧ coreOn core s
      = true ∧ (c.group = 0 ∨ c.products % (16 * 2 ^ c.group) = 0) :=
  ⟨97, 0, chained true false none, aChain true false, aTile true, by decide +kernel⟩

theorem witness_ChainsDrainReplayAndYield_1 :
    ∃ (core accBase : Nat) (s : State) (c : Chain) (own : Bool), core < 98 ∧ (matOf core s).chains.find? (fun c =>
      c.accBase == accBase && needsReplay c) = some c ∧ own = (matOf core s).shadowTag.any (fun t => c.descs.any (fun
      e => e.num == t.1)) :=
  ⟨97, 0, chained true true none, aChain true true, false, by decide +kernel⟩

theorem witness_ChainsDrainReplayAndYield_2 :
    ∃ (core : Nat) (s : State) (q : Nat) (left : Bool), core < 98 ∧ alGet s.job.coreQueue core = some q ∧ left =
      (matOf core s).shadowTag.any (fun t => (matOf core s).chains.any (fun c => c.descs.any (fun e => e.num == t.1 &&
      e.org.queue != q))) :=
  ⟨97, { up with job := { up.job with coreQueue := [(97, 3)] } }, 3, false, by decide +kernel⟩

theorem witness_ChainsDrainReplayAndYield_3 :
    ∃ (core : Nat) (s : State) (gone : Nat → Bool) (left : Bool), core < 98 ∧ alGet s.job.coreQueue core = none ∧ gone
      = (fun (q : Nat) => s.job.outgoing.any (fun o => o.core == core && o.queue == q)) ∧ left = (matOf core
      s).shadowTag.any (fun t => (matOf core s).chains.any (fun c => c.descs.any (fun e => e.num == t.1 && gone
      e.org.queue))) :=
  by
  refine ⟨97,
    { up with job := { up.job with outgoing := [{ core := 97, queue := 3, since := 0, reclaim := false }] } }, _,
    false, ?_, ?_, rfl, ?_⟩ <;> decide +kernel

/-! `SummariesAndSessionsAdvance`: states and operands that meet its hypotheses, clause by clause. -/

theorem witness_SummariesAndSessionsAdvance_0 :
    ∃ (core : Nat) (desc : Desc) (org : Origin) (s : State), core < 98 ∧ inTurn core desc org s = true ∧ (matOf core
      s).failed = false ∧ summaryOk core desc org s = true :=
  ⟨97, summaryDesc, {}, launched aLaunch [], by decide +kernel⟩

theorem witness_SummariesAndSessionsAdvance_1 :
    ∃ (summary segment : Nat) (s : State) (j : SummaryJob) (g : Segment) (ps : List Piece) (r : List (BitVec 32 ×
      BitVec 32 × List (BitVec 32)) × PassTally), summaryOf summary s = some j ∧ j.segments[segment]? = some g ∧
      g.result = none ∧ coreOn g.core s = true ∧ (matOf g.core s).failed = false ∧ arraysOn g.core s ≠ 0 ∧ ps =
      ((summaryPieces j).drop g.first).take (g.last - g.first) ∧ r = segmentState g.core j.desc (queryBytes g.core
      j.desc s) (summarySession j s) ps s :=
  by
  refine ⟨6, 0, { up with sequences := { up.sequences with summaries := [aSummary none] } }, aSummary none,
    { core := 97, first := 0, last := 0, result := none, fromState := false }, _, _, ?_, ?_, ?_, ?_, ?_, ?_, rfl,
    rfl⟩ <;> decide +kernel

theorem witness_SummariesAndSessionsAdvance_2 :
    ∃ (summary : Nat) (s : State) (j : SummaryJob), summaryOf summary s = some j ∧ j.segments.all (fun g =>
      g.result.isSome) = true ∧ coreOn j.core s = true ∧ j.spec = 0 :=
  ⟨6, { up with sequences := { up.sequences with summaries := [aSummary (some [])] } }, aSummary (some []), by decide +kernel⟩

theorem witness_SummariesAndSessionsAdvance_3 :
    ∃ (launch stage : Nat) (s : State) (l : Launch) (r : BitVec 256), launchOf launch s = some l ∧
      s.sequences.appends.any (fun a => a.launch == launch) = false ∧ stagePhase l stage = .running [] ∧ stageRecord l
      stage s = some r ∧ stageKind r = 1 ∧ requestOf l s = none :=
  ⟨4, 0, launched (launchAt [(0, .running [])]) [stageRec 0 1 0], launchAt [(0, .running [])], stageRec 0 1 0, by decide +kernel⟩

theorem witness_SummariesAndSessionsAdvance_4 :
    ∃ (launch stage : Nat) (s : State) (l : Launch) (r : BitVec 256) (a : Admitted), launchOf launch s = some l ∧
      s.sequences.appends.any (fun a => a.launch == launch) = false ∧ stagePhase l stage = .running [] ∧ stageRecord l
      stage s = some r ∧ stageKind r = 1 ∧ requestOf l s = some a ∧ earlierAppend a s = false :=
  ⟨4, 0, { launched appendLaunch [stageRec 0 1 0] with service := { up.service with admitted := [admitted (some 4)] } },
    appendLaunch, stageRec 0 1 0, admitted (some 4), by decide +kernel⟩

theorem witness_SummariesAndSessionsAdvance_5 :
    ∃ (launch _stage : Nat) (s : State) (l : Launch), launchOf launch s = some l ∧ s.sequences.appends.any (fun a =>
      a.launch == launch) = true :=
  ⟨4, 0, { launched appendLaunch [stageRec 0 1 0] with sequences := { up.sequences with appends := [{ launch := 4, stage := 0, context := 0, session := 1, events := [], written := 0, waiting := true, encoding := false }] } },
    appendLaunch, by decide +kernel⟩

theorem witness_SummariesAndSessionsAdvance_6 :
    ∃ (launch : Nat) (s : State), s.sequences.appends.any (fun a => a.launch == launch && a.waiting) = true :=
  ⟨4, { up with sequences := { up.sequences with appends := [{ launch := 4, stage := 0, context := 0, session := 1, events := [], written := 0, waiting := true, encoding := false }] } }, by decide +kernel⟩

theorem witness_SummariesAndSessionsAdvance_7 :
    ∃ (s : State), s.job.state = 2 ∧ s.sequences.lastStep + ent Ent.stepNs s ≤ s.now ∧ (queueOf (ent Ent.sessionQueue
      s) s).state ≠ 0 ∧ (queueOf (ent Ent.sessionQueue s) s).state ≠ 3 :=
  ⟨{ up with dispatch := { up.dispatch with queues := List.replicate 64 { Queue.reset with state := 1 } } }, by decide +kernel⟩

theorem witness_SummariesAndSessionsAdvance_8 :
    ∃ (req : ReqId) (session : BitVec 64) (s : State), Accepted req 0x2020 6 (leBytes 8 session.toNat) s :=
  ⟨owner, 7, up, by unfold Accepted; decide +kernel⟩

/-! `TransfersAreQueuedAndRequest`: states and operands that meet its hypotheses, clause by clause. -/

theorem witness_TransfersAreQueuedAndRequest_0 :
    ∃ (core : Nat) (desc : Desc) (org : Origin) (s : State) (op : Nat) (i : Instr) (org' : Origin) (u : State), core <
      98 ∧ inTurn core desc org s = true ∧ (matOf core s).failed = false ∧ ((ctlOf core s).issued.any (isIssue desc
      org) = true ∨ engineRoom core op 1 s = true) ∧ xOpcode desc = op ∧ org' = issuedOrigin core desc org s ∧ u =
      takeIssued core desc org s ∧ transferOk core desc org' u = true ∧ ((op = 0x10 ∧ i = .transfer core desc org) ∨
      (op = 0x11 ∧ i = .caravan core desc org ∧ ((groupCoresOf desc org' u).getD []).any (fun c => (matOf c u).failed)
      = false)) :=
  by
  refine ⟨97, transferDesc 0x10 0, {}, mapped, 0x10, .transfer 97 (transferDesc 0x10 0) {},
    issuedOrigin 97 (transferDesc 0x10 0) {} mapped, takeIssued 97 (transferDesc 0x10 0) {} mapped, ?_, ?_, ?_,
    ?_, ?_, rfl, rfl, ?_, Or.inl ⟨rfl, rfl⟩⟩ <;> decide +kernel

theorem witness_TransfersAreQueuedAndRequest_1 :
    ∃ (core : Nat) (s : State) (t : Transfer), core < 98 ∧ queueHead core s = some t ∧ t.ringWait = true :=
  ⟨97, streaming1 { aTransfer 0x10 0 with running := false, ringWait := true }, { aTransfer 0x10 0 with running := false, ringWait := true }, by decide +kernel⟩

theorem witness_TransfersAreQueuedAndRequest_2 :
    ∃ (tile : TileRead) (s u : State) (t : Transfer), u = leaveDrayQueue tile.transfer s ∧ transferOf tile.transfer u
      = some t ∧ t.running = true ∧ t.done = false ∧ t.stopping = false ∧ waitsDray t.core t = false ∧ drayStalled t u
      = false ∧ (xCaravan t.desc = true → streamDone t = false) ∧ t.faultTile = none ∧ t.requested < tilesDue t ∧
      coreOn t.core u = true :=
  by
  refine ⟨{ transfer := 8 }, streaming1 (aTransfer 0x10 0), streaming1 (aTransfer 0x10 0), aTransfer 0x10 0, rfl,
    ?_, ?_, ?_, ?_, ?_, ?_, ?_, ?_, ?_⟩ <;> decide +kernel

theorem witness_TransfersAreQueuedAndRequest_3 :
    ∃ (tile : TileRead) (s u : State) (t : Transfer), u = leaveDrayQueue tile.transfer s ∧ transferOf tile.transfer u
      = some t ∧ t.running = true ∧ t.done = false ∧ t.stopping = false ∧ waitsDray t.core t = false ∧ drayStalled t u
      = false ∧ xCaravan t.desc = true ∧ streamDone t = true :=
  by
  refine ⟨{ transfer := 8 }, streaming1 (aTransfer 0x11 1), streaming1 (aTransfer 0x11 1), aTransfer 0x11 1, rfl,
    ?_, ?_, ?_, ?_, ?_, ?_, ?_⟩ <;> decide +kernel

theorem witness_TransfersAreQueuedAndRequest_4 :
    ∃ (t : Transfer) (errors : List (Nat × Nat)) (_s : State), (xSrcSpace t.desc ≠ 0 ∨ errors = []) :=
  ⟨aTransfer 0x10 0, [], up, Or.inr rfl⟩

theorem witness_TransfersAreQueuedAndRequest_5 :
    ∃ (t : Transfer) (k _symbols : Nat) (s : State) (a : Nat) (v : State) (m : Nat), xSrcSpace t.desc = 0 ∧ runWord
      ((srcRuns t.desc t.requested).map (fun r => (r.1, r.2.2))) k = some a ∧ v = ensureFrame (a / 4096) s ∧ mpaOf a v
      = some m :=
  ⟨aTransfer 0x10 0, 0, 2, mapped, 0x100000, mapped, (mpaOf 0x100000 mapped).getD 0, by decide +kernel⟩

theorem witness_TransfersAreQueuedAndRequest_6 :
    ∃ (core : Nat) (desc : Desc) (org : Origin) (s : State), core < 98 ∧ (ctlOf core s).issued.any (isIssue desc org)
      = false :=
  ⟨97, transferDesc 0x10 0, {}, crowded, by decide +kernel⟩

theorem witness_TransfersAreQueuedAndRequest_7 :
    ∃ (transfer : Nat) (s : State) (t : Transfer), transferOf transfer s = some t :=
  ⟨8, streaming1 (aTransfer 0x10 0), aTransfer 0x10 0, by decide +kernel⟩

/-! `TilesAreDelivered`: states and operands that meet its hypotheses, clause by clause. -/

theorem witness_TilesAreDelivered_0 :
    ∃ (transfer tile : Nat) (s : State) (t : Transfer), transferOf transfer s = some t ∧ xCaravan t.desc = false ∧
      t.inFlight.contains tile = true ∧ tilePending transfer tile s = false ∧ (xSrcSpace t.desc ≠ 4 ∨ t.spec = 0) ∧
      tile < tilesDue t ∧ drayStalled t s = false ∧ (tile = t.delivered ∨ t.faultTile.any (fun f => decide (f < tile))
      = true) :=
  ⟨8, 0, streaming1 (aTransfer 0x10 0), aTransfer 0x10 0, by decide +kernel⟩

theorem witness_TilesAreDelivered_1 :
    ∃ (transfer : Nat) (s : State) (t : Transfer) (tile : Nat) (rest : List Nat), transferOf transfer s = some t ∧
      t.inFlight = tile :: rest ∧ xCaravan t.desc = true ∧ drayStalled t s = false ∧ t.faultTile.any (fun f => decide
      (f ≤ tile)) = false ∧ (tileCheck t.desc tile s).1 = .ok :=
  ⟨8, streaming1 (aTransfer 0x11 1), aTransfer 0x11 1, 0, [], by decide +kernel⟩

theorem witness_TilesAreDelivered_2 :
    ∃ (transfer core : Nat) (s : State) (t : Transfer) (m : Member) (k : Nat), transferOf transfer s = some t ∧
      t.members.find? (fun m => m.core == core && !m.attached) = some m ∧ t.stopping = false ∧ m.delivered < xTiles
      t.desc ∧ coreOn core s = true ∧ m.delivered ≤ releaseCount core t.desc s + 4 ∧ (m.ringWaits = true → activeRings
      core s < 4) ∧ ((m.faulted = none ∧ freeDray core s = some k) ∨ (m.faulted = some k ∧ agentWaits (drayNum core k)
      s = false)) :=
  ⟨8, 2, streaming1 { aTransfer 0x11 1 with members := [leftMember 0] }, { aTransfer 0x11 1 with members := [leftMember 0] }, leftMember 0, 0, by decide +kernel⟩

theorem witness_TilesAreDelivered_3 :
    ∃ (s : State) (t : Transfer) (m : Member) (_k : Nat) (w : State), w = stagingReady t.core t.desc s ∧ (tileCheck
      t.desc m.delivered w).1 = .ok ∧ m.faulted = none :=
  ⟨streaming1 { aTransfer 0x11 1 with members := [leftMember 0] }, { aTransfer 0x11 1 with members := [leftMember 0] }, leftMember 0, 0, _, rfl, by decide +kernel, by decide +kernel⟩

theorem witness_TilesAreDelivered_4 :
    ∃ (transfer : Nat) (s : State) (t : Transfer) (f : Nat), transferOf transfer s = some t ∧ t.faultTile = some f ∧
      agentWaits (drayNum t.core t.dray) s = false ∧ t.inFlight.any (fun x => decide (f < x) && decide (x < tilesDue
      t)) = false :=
  ⟨8, streaming1 { aTransfer 0x10 0 with faultTile := some 0 }, { aTransfer 0x10 0 with faultTile := some 0 }, 0, by decide +kernel⟩

/-! `StagesAreDispatched`: states and operands that meet its hypotheses, clause by clause. -/

theorem witness_StagesAreDispatched_0 :
    ∃ (launch stage : Nat) (s : State) (l : Launch) (r : BitVec 256), launchOf launch (skipStages launch s) = some l ∧
      stageRecord l stage (skipStages launch s) = some r ∧ stagePhase l stage = .waiting ∧ stageReady l r = true ∧
      mayDispatch l stage (skipStages launch s) = true ∧ stageBarrier r = false ∧ stageKind r ≠ 1 :=
  ⟨4, 0, launched (launchAt [(0, .waiting)]) [stageRec 0 0 0], launchAt [(0, .waiting)], stageRec 0 0 0, by decide +kernel⟩

theorem witness_StagesAreDispatched_1 :
    ∃ (launch stage : Nat) (s : State) (l : Launch) (r : BitVec 256), launchOf launch (skipStages launch s) = some l ∧
      stageRecord l stage (skipStages launch s) = some r ∧ stagePhase l stage = .waiting ∧ stageReady l r = true ∧
      mayDispatch l stage (skipStages launch s) = true ∧ stageBarrier r = false ∧ stageKind r = 1 :=
  ⟨4, 0, launched (launchAt [(0, .waiting)]) [stageRec 0 1 0], launchAt [(0, .waiting)], stageRec 0 1 0, by decide +kernel⟩

theorem witness_StagesAreDispatched_2 :
    ∃ (launch stage : Nat) (s : State) (l : Launch) (r : BitVec 256), launchOf launch (skipStages launch s) = some l ∧
      stageRecord l stage (skipStages launch s) = some r ∧ stagePhase l stage = .waiting ∧ stageReady l r = true ∧
      mayDispatch l stage (skipStages launch s) = true ∧ stageBarrier r = true ∧ launchDrained launch stage
      (skipStages launch s) = true ∧ stageKind r ≠ 1 :=
  ⟨4, 0, launched (launchAt [(0, .waiting)]) [stageRec 0 0 1], launchAt [(0, .waiting)], stageRec 0 0 1, by decide +kernel⟩

theorem witness_StagesAreDispatched_3 :
    ∃ (launch stage : Nat) (s : State) (l : Launch) (r : BitVec 256), launchOf launch s = some l ∧ stageRecord l stage
      s = some r ∧ stageBarrier r = false ∧ stage ≠ 0 ∧ stagePhase l (stage - 1) ≠ .waiting ∧
      s.streaming.prologues.contains (launch, stage) = false ∧ (s.streaming.transfers.filter (fun t => t.org.launch ==
      some launch && t.org.stage + 1 == stage)).all lastRequested = true ∧ s.control.any (fun k => k.issued.any (fun p
      => (xOpcode p.1 == 0x10 || xOpcode p.1 == 0x11) && p.2.launch == some launch && p.2.stage + 1 == stage)) = false :=
  ⟨4, 1, launched (launchAt [(0, .committed), (1, .waiting)]) [stageRec 0 0 0, stageRec 1 0 0],
    launchAt [(0, .committed), (1, .waiting)], stageRec 1 0 0, by decide +kernel⟩

theorem witness_StagesAreDispatched_4 :
    ∃ (context : Nat) (s : State) (c : Ctx), contextOf context s = some c ∧ c.segmentsLoaded = false ∧ s.job.state = 2 :=
  ⟨1, { up with job := { up.job with contexts := [{ num := 1, cgMask := 1, sramBase := 0, sramBytes := 65536, stagingBase := 0, stagingBytes := 0, accBase := 0, accEntries := 64, hbmQuota := 1, hbmUsed := 0, coldQuota := 0, coldUsed := 0, segmentsLoaded := false }] } },
    { num := 1, cgMask := 1, sramBase := 0, sramBytes := 65536, stagingBase := 0, stagingBytes := 0, accBase := 0, accEntries := 64, hbmQuota := 1, hbmUsed := 0, coldQuota := 0, coldUsed := 0, segmentsLoaded := false }, by decide +kernel⟩

/-! `DoorbellsAndEnablesMoveTheQueues`: states and operands that meet its hypotheses, clause by clause. -/

theorem witness_DoorbellsAndEnablesMoveTheQueues_0 :
    ∃ (queue : Nat) (w : HostWrite) (s : State), queue < 64 ∧ s.hostif.flr = false ∧ w.bytes = 8 ∧ w.offset = 0 ∧
      (queueOf queue s).state ≠ 0 ∧ queueClassOf queue s = 1 ∧ legacyBound queue s = false :=
  ⟨3, { value := 7 }, queued 1 [], by decide +kernel⟩

theorem witness_DoorbellsAndEnablesMoveTheQueues_1 :
    ∃ (queue : Nat) (w : HostWrite) (s : State), queue < 64 ∧ s.hostif.flr = false ∧ w.bytes = 8 ∧ w.offset = 0 ∧
      (queueOf queue s).state = 0 :=
  ⟨63, { value := 7 }, up, by decide +kernel⟩

theorem witness_DoorbellsAndEnablesMoveTheQueues_2 :
    ∃ (queue : Nat) (w : HostWrite) (s : State), queue < 64 ∧ s.hostif.flr = false ∧ w.bytes = 8 ∧ w.offset = 0 ∧
      queueClassOf queue s = 1 :=
  ⟨3, { value := 7 }, queued 1 [], by decide +kernel⟩

theorem witness_DoorbellsAndEnablesMoveTheQueues_3 :
    ∃ (queue : Nat) (w : HostWrite) (s : State), queue < 64 ∧ s.hostif.flr = false ∧ w.bytes ≠ 8 ∧ w.bytes ≠ 4 :=
  ⟨3, { bytes := 2, value := 7 }, queued 1 [], by decide +kernel⟩

theorem witness_DoorbellsAndEnablesMoveTheQueues_5 :
    ∃ (req : ReqId) (queue value : Nat) (s : State), queue < 64 ∧ Accepted req (0x2510 + queue) 6 (leBytes 1 value) s
      ∧ value % 256 = 1 ∧ ringsRefused queue value s = false ∧ (queueOf queue s).state = 0 :=
  ⟨owner, 3, 1, queued 0 [], by unfold Accepted; decide +kernel⟩

theorem witness_DoorbellsAndEnablesMoveTheQueues_6 :
    ∃ (req : ReqId) (queue value : Nat) (s : State), queue < 64 ∧ Accepted req (0x2510 + queue) 6 (leBytes 1 value) s
      ∧ value % 256 = 0 ∧ ringsRefused queue value s = false ∧ (queueOf queue s).state ≠ 0 ∧ (queueOf queue s).state ≠
      3 :=
  ⟨owner, 3, 0, queued 1 [], by unfold Accepted; decide +kernel⟩

/-! `QueueCommandsAreCarriedOutAndEnd`: states and operands that meet its hypotheses, clause by clause. -/

theorem witness_QueueCommandsAreCarriedOutAndEnd_0 :
    ∃ (queue : Nat) (s : State) (c : Cmd) (i : Instr) (r : State), queue < 64 ∧ dispatchStopped s = false ∧
      fetchStalled queue s = false ∧ nextCmdOf queue s = some c ∧ c.phase = .fetched ∧ badCommand queue c s = false ∧
      directCore queue s = 0xFF ∧ notPermitted queue c s = false ∧ cb c 53 = false ∧ scheduleHolds queue c s = false ∧
      cb c 43 = false ∧ ((cmdOpcode c = 0 ∧ i = .nop queue ∧ r = runNop queue c s) ∨ (cmdOpcode c = 1 ∧ i = .launch
      queue ∧ r = runLaunch queue c s) ∨ (cmdOpcode c = 2 ∧ i = .descriptor queue ∧ r = runDescriptor queue c s) ∨
      (cmdOpcode c = 3 ∧ i = .inlineWrite queue ∧ r = runInlineWrite queue c s) ∨ (cmdOpcode c = 4 ∧ i = .graphLoad
      queue ∧ r = runGraphLoad queue c s) ∨ (cmdOpcode c = 5 ∧ i = .graphPatch queue ∧ r = runGraphPatch queue c s) ∨
      (cmdOpcode c = 6 ∧ i = .graphUnload queue ∧ r = runGraphUnload queue c s) ∨ (cmdOpcode c = 7 ∧ i = .task queue ∧
      r = runTask queue c s)) :=
  by
  refine ⟨3, queued 1 [aCmd 0 .fetched], aCmd 0 .fetched, .nop 3,
    runNop 3 (aCmd 0 .fetched) (queued 1 [aCmd 0 .fetched]), ?_, ?_, ?_, ?_, ?_, ?_, ?_, ?_, ?_, ?_, ?_,
    Or.inl ⟨by decide +kernel, rfl, rfl⟩⟩ <;> decide +kernel

theorem witness_QueueCommandsAreCarriedOutAndEnd_1 :
    ∃ (queue : Nat) (s : State) (c : Cmd) (u : Nat) (seen : BitVec 64), queue < 64 ∧ dispatchStopped s = false ∧
      fetchStalled queue s = false ∧ nextCmdOf queue s = some c ∧ c.phase = .waiting u seen ∧ scheduleHolds queue c s
      = false ∧ (c.met = true ∨ ∃ v, shownValue c s = some v ∧ waitHolds c v = true) :=
  by
  refine ⟨3, waitingFor true, aWaiter true, 0, 0, ?_, ?_, ?_, ?_, rfl, ?_, Or.inl rfl⟩ <;> decide +kernel

theorem witness_QueueCommandsAreCarriedOutAndEnd_2 :
    ∃ (queue : Nat) (s : State) (c : Cmd), queue < 64 ∧ dispatchStopped s = false ∧ nextCmdOf queue s = some c ∧
      c.phase = .fetched ∧ badCommand queue c s = false ∧ directCore queue s = 0xFF ∧ notPermitted queue c s = false ∧
      cb c 53 = false ∧ scheduleHolds queue c s = true :=
  ⟨3, { queued 1 [{ aCmd 2 .fetched with words := descOf [2 * 2 ^ 56 + 2 ^ 48 + 3 * 2 ^ 44] }] with job := { (queued 1 []).job with debts := [{ queue := 3, cg := 0, amount := 5, payFrom := none }] } }, { aCmd 2 .fetched with words := descOf [2 * 2 ^ 56 + 2 ^ 48 + 3 * 2 ^ 44] }, by decide +kernel⟩

theorem witness_QueueCommandsAreCarriedOutAndEnd_3 :
    ∃ (core _q : Nat) (_s : State) (g : Nat), core < 96 ∧ g = cgOf core :=
  ⟨0, 3, up, 0, by decide +kernel⟩

theorem witness_QueueCommandsAreCarriedOutAndEnd_4 :
    ∃ (s u : State), s.dispatch.lastPoll + ent Ent.hostPollNs s ≤ s.now ∧ hostReachable s = true ∧ threadStalled 547 s
      = false ∧ (polledObjects s).all (fun o => onHostPage o.1 s) = true ∧ u = (polledObjects s).foldl (fun s o =>
      readObject o.1 s) s :=
  by
  refine ⟨up, up, ?_, ?_, ?_, ?_, rfl⟩ <;> decide +kernel

theorem witness_QueueCommandsAreCarriedOutAndEnd_5 :
    ∃ (queue : Nat) (_core : Option Nat) (s : State) (c : Cmd) (u : Nat) (seen : BitVec 64), dispatchStopped s = false
      ∧ nextCmdOf queue s = some c ∧ c.phase = .waiting u seen ∧ u + ent Ent.hitchTimeoutNs s ≤ s.now ∧ c.met = false :=
  ⟨3, none, queued 1 [aCmd 0 (.waiting 0 0)], aCmd 0 (.waiting 0 0), 0, 0, by decide +kernel⟩

theorem witness_QueueCommandsAreCarriedOutAndEnd_6 :
    ∃ (core : Nat) (s : State) (x : CoreWait), dispatchStopped s = false ∧ s.dispatch.coreWaits.find? (fun w => w.core
      == core) = some x ∧ x.since + ent Ent.hitchTimeoutNs s ≤ s.now ∧ x.met = false :=
  ⟨2, { up with dispatch := { up.dispatch with coreWaits := [aWait] } }, aWait, by decide +kernel⟩

theorem witness_QueueCommandsAreCarriedOutAndEnd_7 :
    ∃ (queue cmd : Nat) (s : State) (c : Cmd), queue < 64 ∧ cmdOfQueue queue cmd s = some c ∧ c.phase = .finished ∧
      dispatchStopped s = false :=
  ⟨3, 5, queued 1 [aCmd 0 .finished], aCmd 0 .finished, by decide +kernel⟩

theorem witness_QueueCommandsAreCarriedOutAndEnd_8 :
    ∃ (queue cmd : Nat) (s : State) (c : Cmd) (rest : List Cmd), queue < 64 ∧ cmdOfQueue queue cmd s = none ∧ (queueOf
      queue s).held = c :: rest ∧ c.id = cmd :=
  ⟨3, 5, { queued 1 [] with dispatch := { (queued 1 []).dispatch with queues := up.dispatch.queues.set 3 { Queue.reset with state := 1, held := [aCmd 0 .finished] } } },
    aCmd 0 .finished, [], by decide +kernel⟩

theorem witness_QueueCommandsAreCarriedOutAndEnd_9 :
    ∃ (launch : Nat) (s : State) (l : Launch), launchOf launch (skipStages launch s) = some l ∧ launchDone l = true ∧
      launchTasks launch (skipStages launch s) = false :=
  ⟨4, launched (launchAt [(0, .committed)]) [stageRec 0 0 0], launchAt [(0, .committed)], by decide +kernel⟩

theorem witness_QueueCommandsAreCarriedOutAndEnd_10 :
    ∃ (queue : Nat) (s : State), queue < 64 ∧ queueDrained queue s = true :=
  ⟨3, queued 3 [], by decide +kernel⟩

theorem witness_QueueCommandsAreCarriedOutAndEnd_11 :
    ∃ (queue cmd : Nat) (s : State) (p : PatchWait), s.dispatch.patchWaits.find? (fun p => p.queue == queue && p.cmd
      == cmd) = some p ∧ p.since + ent Ent.hitchTimeoutNs s ≤ s.now ∧ dispatchStopped s = false :=
  ⟨3, 5, { up with dispatch := { up.dispatch with patchWaits := [{ queue := 3, cmd := 5, graph := 2, since := 0 }] } },
    { queue := 3, cmd := 5, graph := 2, since := 0 }, by decide +kernel⟩

theorem witness_QueueCommandsAreCarriedOutAndEnd_13 :
    ∃ (queue : Nat) (s : State) (c : Cmd) (u : Nat) (seen : BitVec 64) (v : State) (w : Nat), queue < 64 ∧
      dispatchStopped s = false ∧ fetchStalled queue s = false ∧ nextCmdOf queue s = some c ∧ c.phase = .waiting u
      seen ∧ scheduleHolds queue c s = false ∧ c.met = false ∧ shownValue c s = none ∧ memCheck (cw c 1) 8 .read s =
      .ok ∧ v = readObject (cw c 1) s ∧ w = hitchRead (cw c 1) v :=
  by
  refine ⟨3, waitingFor false, aWaiter false, 0, 0, _, _, ?_, ?_, ?_, ?_, rfl, ?_, ?_, ?_, ?_, rfl,
    rfl⟩ <;> decide +kernel

/-! `SpeculationResolvesAndRetires`: states and operands that meet its hypotheses, clause by clause. -/

theorem witness_SpeculationResolvesAndRetires_0 :
    ∃ (launch branch : Nat) (outcome : BitVec 64) (s : State) (l : Launch) (u : State) (out : BitVec 32),
      s.runahead.resolves.find? (fun r => r.1 == launch && r.2.1 == branch) = some (launch, branch, outcome) ∧ u =
      { s with runahead := { s.runahead with resolves := s.runahead.resolves.erase (launch, branch, outcome) } } ∧
      launchOf launch u = some l ∧ alGet l.resolved branch = none ∧ out = outcome.setWidth 32 :=
  ⟨4, 7, 1, { launched aLaunch [] with runahead := { up.runahead with resolves := [(4, 7, 1)] } }, aLaunch, launched aLaunch [], 1, by decide +kernel⟩

theorem witness_SpeculationResolvesAndRetires_1 :
    ∃ (launch branch : Nat) (outcome : BitVec 64) (s : State), (∃ first, s.runahead.resolves.find? (fun r => r.1 ==
      launch && r.2.1 == branch) = some (launch, branch, first) ∧ first ≠ outcome) :=
  ⟨4, 7, 1, { launched aLaunch [] with runahead := { up.runahead with resolves := [(4, 7, 2)] } }, 2, by decide +kernel⟩

theorem witness_SpeculationResolvesAndRetires_2 :
    ∃ (spec : Nat) (s : State), s.runahead.ids.any (fun i => i.id == spec && i.squashed) = true ∧
      s.streaming.transfers.any (fun t => t.spec == spec) = false :=
  ⟨9, { up with runahead := { up.runahead with ids := [{ id := 9, set := [], queue := 0, squashed := true, kept := false }] } }, by decide +kernel⟩

theorem witness_SpeculationResolvesAndRetires_3 :
    ∃ (req : ReqId) (value : Nat) (s : State), value % 256 ≠ 0 ∧ Accepted req 0x2550 9 (leBytes 1 value) s :=
  ⟨owner, 1, up, by unfold Accepted; decide +kernel⟩

theorem witness_SpeculationResolvesAndRetires_4 :
    ∃ (launch stage : Nat) (s u : State) (l : Launch) (r : BitVec 256) (v : GraphVersion) (set : List (Nat × Nat ×
      BitVec 32)) (id : Nat), u = skipStages launch s ∧ launchOf launch u = some l ∧ stageRecord l stage u = some r ∧
      versionOf l.graph l.version u = some v ∧ stagePhase l stage = .waiting ∧ mayDispatch l stage u = true ∧
      aheadStage l r v u = true ∧ stageSet l (openBranches l v stage) u = some set ∧ windowRoom l u = true ∧ idFor set
      u = some id ∧ rangesFit (stageRanges v stage id) u = true :=
  ⟨4, 1, branching, skipStages 4 branching, launchAt [(0, .committed), (1, .waiting)],
    BitVec.ofNat 256 (1 * 2 ^ 48 + 7 + (2 ^ 64 - 1) * 2 ^ 128 + 1 * 2 ^ 224), branchyVersion, [(4, 7, 1)], 1, by decide +kernel⟩

/-! `TheLegacyInterfaceIsServed`: states and operands that meet its hypotheses, clause by clause. -/

theorem witness_TheLegacyInterfaceIsServed_0 :
    ∃ (w : HostWrite) (s : State), s.hostif.flr = false ∧ w.bytes = 8 ∧ w.offset = 0 :=
  ⟨{ value := 1 }, up, by decide +kernel⟩

theorem witness_TheLegacyInterfaceIsServed_1 :
    ∃ (w : HostWrite) (s : State), s.hostif.flr = false ∧ w.bytes = 8 ∧ w.offset = 0 ∧ s.legacy.state = 0 :=
  ⟨{ value := 1 }, up, by decide +kernel⟩

theorem witness_TheLegacyInterfaceIsServed_2 :
    ∃ (w : HostWrite) (s : State), s.hostif.flr = false ∧ w.bytes = 8 ∧ w.offset = 0 ∧ s.legacy.state ≠ 0 :=
  ⟨{ value := 1 }, legacyAt 0 .fetched, by decide +kernel⟩

theorem witness_TheLegacyInterfaceIsServed_3 :
    ∃ (w : HostWrite) (s : State), s.hostif.flr = false ∧ w.bytes = 8 ∧ w.offset = 0 ∧ s.legacy.state ≠ 0 :=
  ⟨{ value := 1 }, legacyAt 0 .fetched, by decide +kernel⟩

theorem witness_TheLegacyInterfaceIsServed_4 :
    ∃ (w : HostWrite) (s : State), s.hostif.flr = false ∧ w.bytes = 8 ∧ w.offset = 0 ∧ s.legacy.state ≠ 0 :=
  ⟨{ value := 1 }, legacyAt 0 .fetched, by decide +kernel⟩

theorem witness_TheLegacyInterfaceIsServed_5 :
    ∃ (s : State) (c : Cmd) (i : Instr) (r : State), ((nextLegacy 0 s = some c ∧ i = .legacyNop ∧ r = finishLeg c.id 0
      0 s) ∨ (nextLegacy 1 s = some c ∧ i = .legacyDma ∧ r = runLegacyDma c s) ∨ (nextLegacy 2 s = some c ∧ i =
      .legacyDesc ∧ r = runLegacyDesc c s) ∨ (nextLegacy 3 s = some c ∧ i = .legacyKernel ∧ r = runLegacyKernel c s) ∨
      (nextLegacy 4 s = some c ∧ i = .legacyLaunch ∧ r = runLegacyLaunch c s) ∨ (nextLegacy 6 s = some c ∧ i =
      .legacySignal ∧ r = finishLeg c.id 0 0 s)) :=
  ⟨legacyAt 0 .fetched, { aCmd 0 .fetched with words := descOf [0, 0x100000, 0, 0] }, .legacyNop, finishLeg 5 0 0 (legacyAt 0 .fetched),
    Or.inl ⟨by decide +kernel, rfl, rfl⟩⟩

theorem witness_TheLegacyInterfaceIsServed_6 :
    ∃ (s : State) (c : Cmd), s.legacy.cmds.find? (fun c => cmdOpcode c == 5 && c.phase != .finished && !legFenced c s)
      = some c ∧ threadStalled 546 s = false ∧ (c.met = true ∨ ∃ v, shownValue c s = some v ∧ condHolds (legCond c) v
      (cw c 2) (cw c 3) = true) :=
  ⟨legacyWaiting true, aLegacyWait true, by decide +kernel, by decide +kernel, Or.inl rfl⟩

theorem witness_TheLegacyInterfaceIsServed_7 :
    ∃ (cmd : Nat) (s : State) (c : Cmd), s.legacy.cmds.find? (fun c => c.id == cmd && c.phase == .finished &&
      !dispatchStopped s) = some c :=
  ⟨5, legacyAt 5 .finished, { aCmd 5 .finished with words := descOf [5 * 2 ^ 56, 0x100000, 0, 0] }, by decide +kernel⟩

theorem witness_TheLegacyInterfaceIsServed_8 :
    ∃ (s : State) (c : Cmd) (u : State) (v : Nat), s.legacy.cmds.find? (fun c => cmdOpcode c == 5 && c.phase !=
      .finished && !legFenced c s) = some c ∧ threadStalled 546 s = false ∧ c.met = false ∧ shownValue c s = none ∧
      memCheck (cw c 1) 8 .read s = .ok ∧ u = readObject (cw c 1) s ∧ v = hitchRead (cw c 1) u :=
  by
  refine ⟨legacyWaiting false, aLegacyWait false, _, _, ?_, ?_, ?_, ?_, ?_, rfl, rfl⟩ <;> decide +kernel

/-! `JobsAndContextsComeAndGo`: states and operands that meet its hypotheses, clause by clause. -/

theorem witness_JobsAndContextsComeAndGo_0 :
    ∃ (req : ReqId) (value : BitVec 128) (s x : State), Accepted req 0x2600 2 (leBytes 16 value.toNat) s ∧ leAt
      (leBytes 16 value.toNat) 8 1 ≠ 1 ∧ allocStructures (freshJob (actionStart req 0x2600 2 s)) = some x :=
  ⟨owner, 5, slim, (allocStructures (freshJob (actionStart owner 0x2600 2 slim))).getD slim, by unfold Accepted; decide +kernel,
    by decide +kernel, some_getD_of_isSome _ _ (by decide +kernel)⟩

theorem witness_JobsAndContextsComeAndGo_1 :
    ∃ (req : ReqId) (value : Nat) (s : State), Accepted req 0x2600 3 (leBytes 1 value) s ∧ s.job.state = jobRestarting :=
  ⟨owner, 1, { up with job := { up.job with state := jobRestarting } }, by unfold Accepted; decide +kernel⟩

theorem witness_JobsAndContextsComeAndGo_2 :
    ∃ (req : ReqId) (value : Nat) (s : State), Accepted req 0x2600 3 (leBytes 1 value) s ∧ s.job.state ≠ jobRestarting :=
  ⟨owner, 1, up, by unfold Accepted; decide +kernel⟩

theorem witness_JobsAndContextsComeAndGo_3 :
    ∃ (s : State), s.job.state = jobUndeploying ∧ s.job.undeployAt + ent Ent.undeployDrainNs s ≤ s.now :=
  ⟨{ up with job := { up.job with state := jobUndeploying, undeployAt := 0 } }, by decide +kernel⟩

theorem witness_JobsAndContextsComeAndGo_4 :
    ∃ (req : ReqId) (desc : BitVec 256) (s : State) (c : Ctx), Accepted req 0x2601 1 (leBytes 32 desc.toNat) s ∧
      ctxBad desc = false ∧ contextOf (kNum desc) s = none ∧ placeContext desc s = some c ∧ (c.coldQuota ≠ 0 → coldUp
      s = true) :=
  ⟨owner, BitVec.ofNat 256 (1 * 2 ^ 56 + 1 * 2 ^ 40 + 2 * 2 ^ 32 + 65536 + 4096 * 2 ^ 128), up,
    { aContext with hbmQuota := 4096, segmentsLoaded := false }, by unfold Accepted; decide +kernel⟩

theorem witness_JobsAndContextsComeAndGo_5 :
    ∃ (req : ReqId) (desc : BitVec 256) (s : State) (c : Ctx), Accepted req 0x2601 1 (leBytes 32 desc.toNat) s ∧
      ctxBad desc = false ∧ contextOf (kNum desc) s = none ∧ placeContext desc s = some c ∧ c.coldQuota ≠ 0 ∧ coldUp s
      = false :=
  ⟨owner, BitVec.ofNat 256 (1 * 2 ^ 56 + 1 * 2 ^ 40 + 2 * 2 ^ 32 + 65536 + 4096 * 2 ^ 128 + 4096 * 2 ^ 192),
    { up with power := { up.power with cold := 2 } }, { aContext with hbmQuota := 4096, coldQuota := 4096, segmentsLoaded := false }, by unfold Accepted; decide +kernel⟩

theorem witness_JobsAndContextsComeAndGo_6 :
    ∃ (req : ReqId) (context : Nat) (s : State), context < 256 ∧ Accepted req 0x2601 2 (leBytes 1 context) s ∧
      (contextOf context s).isSome = true ∧ contextInUse context s = false :=
  ⟨owner, 2, { up with job := { up.job with contexts := [{ aContext with num := 2 }] } }, by unfold Accepted; decide +kernel⟩

/-! `ScheduleIsFollowedAndGroupsSleep`: states and operands that meet its hypotheses, clause by clause. -/

theorem witness_ScheduleIsFollowedAndGroupsSleep_0 :
    ∃ (req : ReqId) (value : Nat) (s : State), Accepted req 0x2603 0x02 (leBytes 1 value) s ∧ s.job.pendingTable.all
      (fun p => slotOk p.2.toNat) = true :=
  ⟨owner, 1, scheduled 0, by unfold Accepted; decide +kernel⟩

theorem witness_ScheduleIsFollowedAndGroupsSleep_1 :
    ∃ (s : State), s.job.schedPending = true ∧ s.now % 128000 < 1000 ∧ s.job.committedIn < s.now / 128000 :=
  ⟨scheduled 0, by decide +kernel⟩

theorem witness_ScheduleIsFollowedAndGroupsSleep_2 :
    ∃ (core q old : Nat) (s : State), ent Ent.schedEnable s ≠ 0 ∧ s.now / 1000 ≠ s.job.boundaryAt ∧ s.job.outgoing = [] ∧
      s.job.debts = [] ∧ core < 96 ∧ alGet s.job.coreQueue core = some old ∧
      effectiveOn (currentSlot s) (cgOf core) s = some q ∧ readyWork q (cgOf core) s = true :=
  ⟨2, 3, 5, scheduled 0, by decide +kernel⟩

theorem witness_ScheduleIsFollowedAndGroupsSleep_3 :
    ∃ (s : State), (ent Ent.schedEnable s = 0 ∨ s.now / 1000 = s.job.boundaryAt) :=
  ⟨up, by decide +kernel⟩

theorem witness_ScheduleIsFollowedAndGroupsSleep_4 :
    ∃ (core q old : Nat) (s : State), core < 96 ∧ effectiveOn (currentSlot s) (cgOf core) s = some q ∧ alGet
      s.job.coreQueue core = some old ∧ q ≠ old ∧ readyWork q (cgOf core) s = true ∧ debtOf q (cgOf core) s = 0 :=
  ⟨2, 3, 5, scheduled 0, by decide +kernel⟩

theorem witness_ScheduleIsFollowedAndGroupsSleep_5 :
    ∃ (cg : Nat) (s u : State) (g : GroupPower) (n : Nat), cg < 16 ∧ u = settleGroups s ∧ g = u.power.groups.getD cg
      GroupPower.reset ∧ ent Ent.schedEnable u ≠ 0 ∧ s.power.mainOn = true ∧ g.code ≠ 0 ∧ g.code < 5 ∧ nextSlot (fun
      sl => awakeIn sl cg u) u = some n ∧ (n + 1) * 1000 - s.now % 1000 ≤ wakeNs g.code (residentMib cg u) + ent
      Ent.wakeMarginNs u :=
  ⟨0, asleep 1 2, settleGroups (asleep 1 2), ((settleGroups (asleep 1 2)).power.groups.getD 0 GroupPower.reset), 0, by decide +kernel⟩

theorem witness_ScheduleIsFollowedAndGroupsSleep_6 :
    ∃ (cg : Nat) (s u : State) (g : GroupPower) (n : Nat), cg < 16 ∧ u = settleGroups s ∧ g = u.power.groups.getD cg
      GroupPower.reset ∧ ent Ent.schedEnable u ≠ 0 ∧ g.code ≠ 0 ∧ g.code < 5 ∧ nextSlot (fun sl => awakeIn sl cg u) u
      = some n ∧ wakeNs g.code (residentMib cg u) + ent Ent.wakeMarginNs u < (n + 1) * 1000 - s.now % 1000 ∧ nextSlot
      (fun sl => decide (field (slotEntry u.job.activeTable sl) 111 109 + 1 < g.code)) u = none :=
  ⟨0, asleep 9 1, settleGroups (asleep 9 1), ((settleGroups (asleep 9 1)).power.groups.getD 0 GroupPower.reset), 8, by decide +kernel⟩

theorem witness_ScheduleIsFollowedAndGroupsSleep_7 :
    ∃ (cg : Nat) (s u : State) (g : GroupPower) (n m depth : Nat), cg < 16 ∧ u = settleGroups s ∧ g =
      u.power.groups.getD cg GroupPower.reset ∧ ent Ent.schedEnable u ≠ 0 ∧ s.power.mainOn = true ∧ g.code ≠ 0 ∧
      g.code < 5 ∧ nextSlot (fun sl => awakeIn sl cg u) u = some n ∧ wakeNs g.code (residentMib cg u) + ent
      Ent.wakeMarginNs u < (n + 1) * 1000 - s.now % 1000 ∧ nextSlot (fun sl => decide (field (slotEntry
      u.job.activeTable sl) 111 109 + 1 < g.code)) u = some m ∧ (m + 1) * 1000 - s.now % 1000 ≤ wakeNs g.code
      (residentMib cg u) + ent Ent.wakeMarginNs u ∧ depth = field (slotEntry u.job.activeTable ((currentSlot u + m +
      1) % 128)) 111 109 :=
  ⟨0, asleep 120 2, settleGroups (asleep 120 2), ((settleGroups (asleep 120 2)).power.groups.getD 0 GroupPower.reset), 119, 0, 0, by decide +kernel⟩

theorem witness_ScheduleIsFollowedAndGroupsSleep_8 :
    ∃ (cg : Nat) (s u : State) (g : GroupPower), cg < 16 ∧ u = settleGroups s ∧ g = u.power.groups.getD cg
      GroupPower.reset ∧ groupIdle cg u = true ∧ ent Ent.schedEnable u ≠ 1 ∧ g.idleSince = none :=
  ⟨0, up, settleGroups up, ((settleGroups up).power.groups.getD 0 GroupPower.reset), by decide +kernel⟩

theorem witness_ScheduleIsFollowedAndGroupsSleep_9 :
    ∃ (s : State) (cg : Nat) (g : GroupPower), s.power.groups[cg]? = some g :=
  ⟨up, 15, (up.power.groups.getD 15 GroupPower.reset), by decide +kernel⟩

theorem witness_ScheduleIsFollowedAndGroupsSleep_10 :
    ∃ (cg : Nat) (s u : State) (g : GroupPower) (since : Nat), cg < 16 ∧ u = settleGroups s ∧ g = u.power.groups.getD
      cg GroupPower.reset ∧ groupIdle cg u = true ∧ ent Ent.schedEnable u ≠ 1 ∧ g.idleSince = some since ∧ since + ent
      Ent.idleHoldNs u ≤ s.now ∧ (∀ core, core ∈ groupCores cg → (matOf core u).chains = []) :=
  ⟨0, lazyGroups, settleGroups lazyGroups, ((settleGroups lazyGroups).power.groups.getD 0 GroupPower.reset), 0, by decide +kernel⟩

theorem witness_ScheduleIsFollowedAndGroupsSleep_11 :
    ∃ (cg : Nat) (s u : State) (g : GroupPower) (n : Nat), cg < 16 ∧ u = settleGroups s ∧ g = u.power.groups.getD cg
      GroupPower.reset ∧ ent Ent.schedEnable u ≠ 0 ∧ u.power.mainOn = true ∧ g.code = 6 ∧ g.wakeAfter = false ∧
      nextSlot (fun sl => awakeIn sl cg u) u = some n ∧ (n + 1) * 1000 - u.now % 1000 ≤ (g.until_ - u.now) + wakeNs
      g.other (residentMib cg u) + ent Ent.wakeMarginNs u :=
  by
  refine ⟨0, sinking, settleGroups sinking, _, 0, ?_, rfl, rfl, ?_, ?_, ?_, ?_, ?_, ?_⟩ <;> decide +kernel

theorem witness_ScheduleIsFollowedAndGroupsSleep_12 :
    ∃ (s : State), s.job.schedPending = true ∧ s.now / 128000 ≤ s.job.committedIn :=
  ⟨{ scheduled 0 with job := { (scheduled 0).job with committedIn := 10000000000 } }, by decide +kernel⟩

/-! `MemoryErrorsAndRepairsFollowTheRules`: states and operands that meet its hypotheses, clause by clause. -/

theorem witness_MemoryErrorsAndRepairsFollowTheRules_0 :
    ∃ (s : State), tierOn false s = true ∧ s.mem.scrubHbm + 1 < tierWords false :=
  ⟨up, by decide +kernel⟩

theorem witness_MemoryErrorsAndRepairsFollowTheRules_1 :
    ∃ (s : State) (mpa : Nat), tierOn false s = true ∧ s.mem.scrubHbm + 1 < tierWords false ∧ mpa = wordMpa false
      s.mem.scrubHbm :=
  ⟨up, wordMpa false 0, by decide +kernel⟩

theorem witness_MemoryErrorsAndRepairsFollowTheRules_2 :
    ∃ (cold : Bool) (_symbols : Nat) (s : State), tierOn cold s = false :=
  ⟨false, 2, State.reset, by decide +kernel⟩

theorem witness_MemoryErrorsAndRepairsFollowTheRules_3 :
    ∃ (mpa : Nat) (d : RowAsk) (s u : State), s.mem.remapDue.find? (fun d => d.mpa / 2 ^ 40 == mpa / 2 ^ 40 && memUnit
      (mpa / 2 ^ 40) (d.mpa % 2 ^ 40) == memUnit (mpa / 2 ^ 40) (mpa % 2 ^ 40)) = some d ∧ sameRow d.mpa mpa = true ∧
      s.mem.failing.any (fun m => sameRow m.1 d.mpa) = false ∧ u =
      { s with mem := { s.mem with remapDue := s.mem.remapDue.filter (fun x => !sameRow x.mpa d.mpa) } } ∧ canRemap
      d.mpa u = true :=
  ⟨64, { mpa := 64, ue := true, source := 1, record := 0 }, { up with mem := { up.mem with remapDue := [{ mpa := 64, ue := true, source := 1, record := 0 }] } }, _,
    by decide +kernel, by simp [sameRow], rfl, rfl, by decide +kernel⟩

theorem witness_MemoryErrorsAndRepairsFollowTheRules_4 :
    ∃ (mpa : Nat) (d : RowAsk) (s u : State), s.mem.remapDue.find? (fun d => d.mpa / 2 ^ 40 == mpa / 2 ^ 40 && memUnit
      (mpa / 2 ^ 40) (d.mpa % 2 ^ 40) == memUnit (mpa / 2 ^ 40) (mpa % 2 ^ 40)) = some d ∧ sameRow d.mpa mpa = true ∧
      s.mem.failing.any (fun m => sameRow m.1 d.mpa) = false ∧ u =
      { s with mem := { s.mem with remapDue := s.mem.remapDue.filter (fun x => !sameRow x.mpa d.mpa) } } ∧ canRemap
      d.mpa u = false :=
  ⟨64, { mpa := 64, ue := true, source := 1, record := 0 }, { up with mem := { up.mem with remapDue := [{ mpa := 64, ue := true, source := 1, record := 0 }], remaps := [{ region := 0, unit := 0, bank := 0, row := 0, remaps := 64 }] } }, _,
    by decide +kernel, by simp [sameRow], rfl, rfl, Bool.and_eq_false_iff.mpr (Or.inr (by decide +kernel))⟩

theorem witness_MemoryErrorsAndRepairsFollowTheRules_5 :
    ∃ (mpa : Nat) (_errors : List (Nat × Nat)) (d : RowAsk) (s : State), s.mem.remapDue.find? (fun d => d.mpa / 2 ^ 40
      == mpa / 2 ^ 40 && memUnit (mpa / 2 ^ 40) (d.mpa % 2 ^ 40) == memUnit (mpa / 2 ^ 40) (mpa % 2 ^ 40)) = some d ∧
      sameRow d.mpa mpa = true :=
  ⟨64, [(3, 1)], { mpa := 64, ue := false, source := 0, record := 0 }, { up with mem := { up.mem with remapDue := [{ mpa := 64, ue := false, source := 0, record := 0 }] } }, by decide +kernel, by simp [sameRow]⟩

theorem witness_MemoryErrorsAndRepairsFollowTheRules_6 :
    ∃ (mpa : Nat) (d : RowAsk) (s : State), s.mem.remapDue.find? (fun d => d.mpa / 2 ^ 40 == mpa / 2 ^ 40 && memUnit
      (mpa / 2 ^ 40) (d.mpa % 2 ^ 40) == memUnit (mpa / 2 ^ 40) (mpa % 2 ^ 40)) = some d ∧ sameRow d.mpa mpa = true ∧
      s.mem.failing.any (fun m => sameRow m.1 d.mpa) = true :=
  ⟨64, { mpa := 64, ue := false, source := 0, record := 0 }, { up with mem := { up.mem with remapDue := [{ mpa := 64, ue := false, source := 0, record := 0 }], failing := [(64, 1)] } }, by decide +kernel, by simp [sameRow], by simp [sameRow]⟩

theorem witness_MemoryErrorsAndRepairsFollowTheRules_7 :
    ∃ (req : ReqId) (value : Nat) (s : State), Accepted req 0x6700 0x01 (leBytes 1 value) s :=
  ⟨.t1s 0, 1, maintained, by unfold Accepted; decide +kernel⟩

theorem witness_MemoryErrorsAndRepairsFollowTheRules_8 :
    ∃ (req : ReqId) (entry : BitVec 128) (j : Nat) (s : State) (unit : Nat), Accepted req 0x6700 0x03 (leBytes 16
      entry.toNat) s ∧ j = entry.toNat % 2 ^ 64 ∧ unit = (if field j 59 56 < 12 then field j 55 51 else
      Config.repairPackage (field j 55 51) (field j 50 45) (field j 44 27) % 16) ∧ s.mem.journal.any (fun x =>
      x.region == field j 59 56 && x.channel == field j 55 51 && x.bank == field j 50 45 && x.row == field j 44 27) =
      false ∧ s.mem.journal.length < 1024 :=
  ⟨.t1s 0, BitVec.ofNat 128 (1 * 2 ^ 60), 1 * 2 ^ 60, maintained, 0, by unfold Accepted; decide +kernel⟩

theorem witness_MemoryErrorsAndRepairsFollowTheRules_9 :
    ∃ (req : ReqId) (value : BitVec 512) (s : State) (bytes : List Byte) (stack : Nat), bytes = leBytes 64 value.toNat
      ∧ stack = leAt bytes 0 1 ∧ Accepted req 0x6700 0x04 bytes s :=
  ⟨.t1s 0, 0, maintained, leBytes 64 0, 0, by unfold Accepted; decide +kernel⟩

/-! `MapRecordsAreCarriedOut`: states and operands that meet its hypotheses, clause by clause. -/

theorem witness_MapRecordsAreCarriedOut_0 :
    ∃ (i : Instr) (s : State) (r : MapRecord) (rest : List MapRecord) (o : Nat), s.xlate.mapRecords = r :: rest ∧ o =
      (mapOp r.words).op ∧ (o = 6 → hostReachable s = true) ∧ ((o = 1 ∧ i = .alloc) ∨ (o = 2 ∧ i = .free) ∨ (o = 3 ∧ i
      = .mapHost) ∨ (o = 4 ∧ i = .setAbsent) ∨ (o = 5 ∧ i = .protect) ∨ (o = 6 ∧ i = .migrate) ∨ (o = 7 ∧ i = .deny)) :=
  by
  refine ⟨.protect, mapping 5 1 0x100000, mapRec 5 1 0x100000, [], 5, ?_, ?_, ?_, by simp⟩ <;> decide +kernel

theorem witness_MapRecordsAreCarriedOut_1 :
    ∃ (r : MapRecord) (s : State) (m : MapOp), m = mapOp r.words ∧ (mapBad r.words s || mapSealed r.cls m.op s ||
      mapInModule m || (mapPages m).any (fun p => pageBreaks m.op p s) || mapNoSpace m s) = true :=
  ⟨mapRec 0 1 0x100000, mapped, mapOp (mapWords 0 1 0x100000), rfl, by decide +kernel⟩

theorem witness_MapRecordsAreCarriedOut_2 :
    ∃ (r : MapRecord) (s : State) (m : MapOp), m = mapOp r.words ∧ (m.op = 3 ∨ m.op = 5) ∧ m.pages = 1 ∧ (mapBad
      r.words s || mapSealed r.cls m.op s || mapInModule m || (mapPages m).any (fun p => pageBreaks m.op p s) ||
      mapNoSpace m s) = false :=
  ⟨mapRec 5 1 0x100000, mapped, mapOp (mapWords 5 1 0x100000), rfl, by decide +kernel⟩

/-! `PageFaultsAndTheirRegisters`: states and operands that meet its hypotheses, clause by clause. -/

theorem witness_PageFaultsAndTheirRegisters_0 :
    ∃ (w : HostWrite) (s : State), s.hostif.flr = false ∧ w.bytes = 8 ∧ w.offset = 0 ∧ mapOn s = true :=
  ⟨{ value := 1 }, mapping 5 1 0, by decide +kernel⟩

theorem witness_PageFaultsAndTheirRegisters_1 :
    ∃ (w : HostWrite) (s : State), s.hostif.flr = false ∧ w.bytes = 8 ∧ w.offset = 0 ∧ mapOn s = false :=
  ⟨{ value := 1 }, up, by decide +kernel⟩

theorem witness_PageFaultsAndTheirRegisters_2 :
    ∃ (w : HostWrite) (s : State), s.hostif.flr = false ∧ w.bytes = 8 ∧ w.offset = 0 :=
  ⟨{ value := 1 }, up, by decide +kernel⟩

theorem witness_PageFaultsAndTheirRegisters_3 :
    ∃ (req : ReqId) (value : Nat) (s : State), Accepted req 0x2800 0x06 (leBytes 1 value) s :=
  ⟨owner, 1, up, by unfold Accepted; decide +kernel⟩

theorem witness_PageFaultsAndTheirRegisters_4 :
    ∃ (agent : Nat) (va : BitVec 64) (access : Access) (s : State), agent < 548 ∧ memCheck va.toNat 1 access s = .ok :=
  ⟨547, 0x100FFF, .read, mapped, by decide +kernel⟩

theorem witness_PageFaultsAndTheirRegisters_5 :
    ∃ (agent : Nat) (va : BitVec 64) (access : Access) (s : State) (p : Nat), agent < 548 ∧ memCheck va.toNat 1 access
      s = .absent p ∧ (inModuleRange (p * 4096) = false ∨ alGet s.xlate.ptes p ≠ some 0) :=
  ⟨547, 0x200000, .read, mapped, 0x200, by decide +kernel⟩

theorem witness_PageFaultsAndTheirRegisters_6 :
    ∃ (agent : Nat) (va : BitVec 64) (_access : Access) (_s : State), agent < 548 ∧ 2 ^ 52 ≤ va.toNat :=
  ⟨547, 0x10000000000000, .read, mapped, by decide +kernel⟩

theorem witness_PageFaultsAndTheirRegisters_7 :
    ∃ (agent : Nat) (s : State) (r : Nat × Nat), agent < 548 ∧ s.xlate.released.find? (fun r => r.1 == agent) = some r :=
  ⟨5, { up with xlate := { up.xlate with released := [(5, 0x200)] } }, (5, 0x200), by decide +kernel⟩

theorem witness_PageFaultsAndTheirRegisters_8 :
    ∃ (page : Nat) (s : State) (f : PendingFault), s.xlate.faults.find? (fun f => f.page == page && decide (f.time +
      ent Ent.faultTimeoutNs s ≤ s.now)) = some f :=
  ⟨0x200, { up with xlate := { up.xlate with faults := [aFault] } }, aFault, by decide +kernel⟩

/-! `Bar2ReachesMappedPages`: states and operands that meet its hypotheses, clause by clause. -/

theorem witness_Bar2ReachesMappedPages_0 :
    ∃ (read : WindowRead) (bytes : Nat) (s : State), read.offset + bytes ≤ s.hostif.bar2Size ∧ bar2Closed s = true :=
  ⟨{ offset := 0x3FFFFFFF8, errors := [(0, 2)] }, 8, closed, by decide +kernel⟩

theorem witness_Bar2ReachesMappedPages_1 :
    ∃ (offset bytes : Nat) (s : State) (va : Nat), offset + bytes ≤ s.hostif.bar2Size ∧ bar2Closed s = false ∧ va =
      ent Ent.bar2WindowVa s + offset ∧ bar2Mapped va bytes .read s = true ∧ s.hostif.unseen = [] :=
  ⟨0x100FF8, 8, mapped, 0x100FF8, by decide +kernel⟩

theorem witness_Bar2ReachesMappedPages_2 :
    ∃ (offset bytes : Nat) (s u : State) (va k m : Nat), offset + bytes ≤ s.hostif.bar2Size ∧ bar2Closed s = false ∧
      va = ent Ent.bar2WindowVa s + offset ∧ bar2Mapped va bytes .read s = true ∧ u = ensureFrame ((va / 32 * 32 + 32
      * k) / 4096) (hubAccess va bytes s) ∧ mpaOf (va / 32 * 32 + 32 * k) u = some m :=
  ⟨0x100FF8, 8, mapped, hubAccess 0x100FF8 8 mapped, 0x100FF8, 0, (mpaOf 0x100FE0 (hubAccess 0x100FF8 8 mapped)).getD 0, by decide +kernel⟩

theorem witness_Bar2ReachesMappedPages_3 :
    ∃ (read : WindowRead) (bytes : Nat) (s : State), read.offset + bytes ≤ s.hostif.bar2Size ∧ bar2Closed s = false ∧
      bar2Mapped (ent Ent.bar2WindowVa s + read.offset) bytes .read s = false :=
  ⟨{ offset := 0x100FFC }, 8, mapped, by decide +kernel⟩

theorem witness_Bar2ReachesMappedPages_4 :
    ∃ (offset : Nat) (bytes : List Byte) (s : State), offset + bytes.length ≤ s.hostif.bar2Size ∧ bar2Closed s = true :=
  ⟨0x3FFFFFFFE, [1, 2], closed, by decide +kernel⟩

theorem witness_Bar2ReachesMappedPages_5 :
    ∃ (offset : Nat) (bytes : List Byte) (s : State) (va : Nat), offset + bytes.length ≤ s.hostif.bar2Size ∧
      bar2Closed s = false ∧ va = ent Ent.bar2WindowVa s + offset ∧ bar2Mapped va bytes.length .write s = true :=
  ⟨0x100FFE, [1, 2], mapped, 0x100FFE, by decide +kernel⟩

theorem witness_Bar2ReachesMappedPages_6 :
    ∃ (offset : Nat) (_op : AtomicOp) (width : Nat) (_operand _compare : BitVec 64) (s : State) (va old : Nat), offset
      + width ≤ s.hostif.bar2Size ∧ (width = 4 ∨ width = 8) ∧ offset % width = 0 ∧ bar2Closed s = false ∧ va = ent
      Ent.bar2WindowVa s + offset ∧ bar2Mapped va width .atomic s = true ∧ old = devNat s va width :=
  ⟨0x100FF8, .swap, 8, 1, 0, mapped, 0x100FF8, 0, by decide +kernel⟩

theorem witness_Bar2ReachesMappedPages_7 :
    ∃ (offset : Nat) (_op : AtomicOp) (width : Nat) (_operand _compare : BitVec 64) (s : State), offset + width ≤
      s.hostif.bar2Size ∧ bar2Closed s = false ∧ ((width ≠ 4 ∧ width ≠ 8) ∨ offset % width ≠ 0) :=
  ⟨0x100FFC, .swap, 8, 1, 0, mapped, by decide +kernel⟩

theorem witness_Bar2ReachesMappedPages_8 :
    ∃ (n : Nat) (s : State), n ≤ 8 ∧ 7 ≤ s.recovery.bootStage :=
  ⟨8, up, by decide +kernel⟩

theorem witness_Bar2ReachesMappedPages_9 :
    ∃ (n : Nat) (s : State), n ≤ 8 ∧ s.recovery.bootStage < 7 :=
  ⟨8, { up with recovery := { up.recovery with bootStage := 6 } }, by decide +kernel⟩

theorem witness_Bar2ReachesMappedPages_10 :
    ∃ (offset bytes : Nat) (s : State) (va : Nat), offset + bytes ≤ s.hostif.bar2Size ∧ bar2Closed s = false ∧ va =
      ent Ent.bar2WindowVa s + offset ∧ bar2Mapped va bytes .read s = true :=
  ⟨0x100FF8, 8, mapped, 0x100FF8, by decide +kernel⟩

theorem witness_Bar2ReachesMappedPages_11 :
    ∃ (va n : Nat) (s : State), (∀ i, i < n → bar2Stale (va + i) s = false) :=
  ⟨0x100000, 4, { mapped with hostif := { mapped.hostif with unseen := [(9999999900, 0x100004, 0x100008)] } }, by decide +kernel⟩

theorem witness_Bar2ReachesMappedPages_12 :
    ∃ (va n : Nat) (s : State) (i : Nat) (b : Byte), (devRead s va n)[i]? = some b ∧ bar2Stale (va + i) s = true :=
  ⟨0x100000, 8, { mapped with hostif := { mapped.hostif with unseen := [(9999999851, 0x100004, 0x100008)] } }, 4, 0, by decide +kernel⟩

/-! `HostEventsAndLinkChanges`: states and operands that meet its hypotheses, clause by clause. -/

theorem witness_HostEventsAndLinkChanges_0 :
    ∃ (w : HostWrite) (_s : State), w.bytes = 8 ∧ w.offset = 0 :=
  ⟨{ value := 1 }, up, by decide +kernel⟩

theorem witness_HostEventsAndLinkChanges_1 :
    ∃ (v : Nat) (w : HostWrite) (_s : State), v < 128 ∧ w.bytes = 8 ∧ w.offset = 0 :=
  ⟨127, { value := 1 }, up, by decide +kernel⟩

theorem witness_HostEventsAndLinkChanges_2 :
    ∃ (v : Nat) (w : HostWrite) (s : State), v < 128 ∧ w.bytes = 8 ∧ w.offset = 0 ∧ w.value.getLsbD 32 = false ∧
      s.hostif.msixPending.contains v = true ∧ s.hostif.msixUnmasked.contains v = false ∧ s.hostif.bme = true ∧
      s.hostif.d3hot = false ∧ s.hostif.flr = false ∧ s.hostif.linkGen ≠ 0 :=
  ⟨127, { value := 1 }, { up with hostif := { up.hostif with msixPending := [127] } }, by decide +kernel⟩

theorem witness_HostEventsAndLinkChanges_3 :
    ∃ (s : State), 7 ≤ s.recovery.bootStage ∧ s.hostif.bme = true ∧ hostReachable s = true ∧ s.hostif.unreachableSince
      = none :=
  ⟨up, by decide +kernel⟩

theorem witness_HostEventsAndLinkChanges_4 :
    ∃ (_event : HostEvent) (s : State), s.recovery.bootStage < 7 :=
  ⟨.busMaster false, { up with recovery := { up.recovery with bootStage := 6 } }, by decide +kernel⟩

theorem witness_HostEventsAndLinkChanges_5 :
    ∃ (_busAddr agent _error : Nat) (_s : State), agent < 548 :=
  ⟨64, 547, 1, up, by decide +kernel⟩

theorem witness_HostEventsAndLinkChanges_10 :
    ∃ (s : State), s.hostif.linkGen ≠ 0 :=
  ⟨up, by decide +kernel⟩

theorem witness_HostEventsAndLinkChanges_11 :
    ∃ (partner : LinkPartner) (lanes : Nat) (s : State) (best : Nat), 7 ≤ s.recovery.bootStage ∧ s.pins.perstN = true
      ∧ 4 ≤ partner.highest ∧ 4 ≤ partner.trained ∧ 1 ≤ lanes ∧ best = Nat.min (Nat.min 7 partner.highest) (ent
      Ent.maxLinkGen s) :=
  ⟨{ highest := 7, trained := 5 }, 16, { up with pins := { up.pins with perstN := true } }, Nat.min (Nat.min 7 7) (ent Ent.maxLinkGen up), by decide +kernel⟩

/-! `DictionaryMessagesAreAnswered`: states and operands that meet its hypotheses, clause by clause. -/

theorem witness_DictionaryMessagesAreAnswered_0 :
    ∃ (req : ReqId) (msg : DictFrame) (s u : State) (m : DictMsg) (i : Instr), u = touchReq req s ∧ m = parseDict
      msg.bytes ∧ dictServed s = true ∧ reqExists req s = true ∧ 24 ≤ msg.bytes.length ∧ answersFrame req msg s = true
      ∧ keptFor req m s = none ∧ m.op = messageOp msg.bytes ∧ badFrame m = true ∧ ((m.op = 1 ∧ i = .dictRead req msg)
      ∨ (m.op = 2 ∧ i = .dictWrite req msg) ∨ (m.op = 3 ∧ i = .multiWrite req msg) ∨ (m.op = 4 ∧ i = .multiRead req
      msg)) :=
  by
  refine ⟨owner, { bytes := request 2 1 9 0x2000 1 [1] }, up, touchReq owner up,
    parseDict (request 2 1 9 0x2000 1 [1]), .dictWrite owner { bytes := request 2 1 9 0x2000 1 [1] }, rfl, rfl,
    ?_, ?_, ?_, ?_, ?_, ?_, ?_, Or.inr (Or.inl ⟨by decide +kernel, rfl⟩)⟩ <;> decide +kernel

theorem witness_DictionaryMessagesAreAnswered_1 :
    ∃ (req : ReqId) (msg : DictFrame) (s u : State) (m : DictMsg), u = touchReq req s ∧ m = parseDict msg.bytes ∧
      dictServed s = true ∧ reqExists req s = true ∧ 24 ≤ msg.bytes.length ∧ answersFrame req msg s = true ∧ keptFor
      req m s = none ∧ messageOp msg.bytes = 1 ∧ m.op = 1 ∧ badFrame m = false ∧ m.offset = 0 ∧ readRefusal req
      m.index m.sub u = erOk ∧ entryKey m.index m.sub ≠ Ent.wbRead ∧ entryKey m.index m.sub ≠ Ent.relayOut :=
  ⟨owner, { bytes := request 1 0 9 0x2000 1 [] }, up, touchReq owner up, parseDict (request 1 0 9 0x2000 1 []), by decide +kernel⟩

theorem witness_DictionaryMessagesAreAnswered_2 :
    ∃ (req : ReqId) (msg : DictFrame) (s u : State) (m : DictMsg) (e : EntryDef), u = touchReq req s ∧ m = parseDict
      msg.bytes ∧ dictServed s = true ∧ reqExists req s = true ∧ 24 ≤ msg.bytes.length ∧ answersFrame req msg s = true
      ∧ keptFor req m s = none ∧ messageOp msg.bytes = 2 ∧ m.op = 2 ∧ badFrame m = false ∧ writeRights req m.index
      m.sub m.body u = erOk ∧ entrySize m.index m.sub ≤ 1024 ∧ findEntry m.index m.sub = some e ∧ m.offset = 0 ∧
      m.final = true ∧ sizeOk e m.body.length = true ∧ valueError m.index m.sub m.body u = erOk :=
  ⟨owner, { bytes := request 2 0 9 0x2000 1 [1] }, up, touchReq owner up, parseDict (request 2 0 9 0x2000 1 [1]),
    (findEntry 0x2000 1).get (by decide +kernel), by decide +kernel⟩

theorem witness_DictionaryMessagesAreAnswered_3 :
    ∃ (req : ReqId) (msg : DictFrame) (s u : State) (m : DictMsg), u = touchReq req s ∧ m = parseDict msg.bytes ∧
      dictServed s = true ∧ reqExists req s = true ∧ 24 ≤ msg.bytes.length ∧ answersFrame req msg s = true ∧ keptFor
      req m s = none ∧ messageOp msg.bytes = 3 ∧ m.op = 3 ∧ badFrame m = false :=
  ⟨owner, { bytes := request 3 1 9 0 0 (leBytes 8 (0x2000 + 2 ^ 16 + 2 ^ 32) ++ leBytes 8 1) }, up, touchReq owner up,
    parseDict (request 3 1 9 0 0 (leBytes 8 (0x2000 + 2 ^ 16 + 2 ^ 32) ++ leBytes 8 1)), by decide +kernel⟩

theorem witness_DictionaryMessagesAreAnswered_4 :
    ∃ (req : ReqId) (msg : DictFrame) (s u : State) (m : DictMsg) (items : List (Nat × Nat)), u = touchReq req s ∧ m =
      parseDict msg.bytes ∧ dictServed s = true ∧ reqExists req s = true ∧ 24 ≤ msg.bytes.length ∧ answersFrame req
      msg s = true ∧ keptFor req m s = none ∧ messageOp msg.bytes = 4 ∧ m.op = 4 ∧ badFrame m = false ∧ items =
      (readItems m.count_ m.body).getD [] ∧ firstError (fun i => readItemError req i u) 0 items = none ∧ gatherSize
      items ≤ 1024 :=
  ⟨owner, { bytes := request 4 1 9 0 0 (leBytes 8 (0x2000 + 2 ^ 16)) }, up, touchReq owner up,
    parseDict (request 4 1 9 0 0 (leBytes 8 (0x2000 + 2 ^ 16))), [(0x2000, 1)], by decide +kernel⟩

theorem witness_DictionaryMessagesAreAnswered_5 :
    ∃ (req : ReqId) (msg : DictFrame) (s : State) (m : DictMsg) (bytes : List Byte), m = parseDict msg.bytes ∧
      dictServed s = true ∧ reqExists req s = true ∧ 24 ≤ msg.bytes.length ∧ answersFrame req msg s = true ∧ keptFor
      req m s = some bytes ∧ messageOp msg.bytes = 2 :=
  ⟨owner, { bytes := request 2 0 9 0x2000 1 [1] }, asking { aRequester with kept := some (aKept 10000000000) },
    parseDict (request 2 0 9 0x2000 1 [1]), [1], by decide +kernel⟩

theorem witness_DictionaryMessagesAreAnswered_6 :
    ∃ (req : ReqId) (msg : DictFrame) (s : State) (i : Instr), answersFrame req msg s = false ∧ (i = .dictRead req msg
      ∨ i = .dictWrite req msg ∨ i = .multiWrite req msg ∨ i = .multiRead req msg) :=
  ⟨.t1s 0, { bytes := request 2 0 9 0x2000 1 [1], dest := some (BitVec.allOnes 48) }, up, .dictWrite (.t1s 0) { bytes := request 2 0 9 0x2000 1 [1], dest := some (BitVec.allOnes 48) },
    by decide +kernel, Or.inr (Or.inl rfl)⟩

/-! `KeptAccessesLapseAndTheWindowServes`: states and operands that meet its hypotheses, clause by clause. -/

theorem witness_KeptAccessesLapseAndTheWindowServes_0 :
    ∃ (req : ReqId) (s : State) (x : Requester) (p : PartialWrite), x = reqOf req s ∧ p ∈ x.partials ∧ p.last +
      100000000 ≤ s.now :=
  ⟨owner, asking { aRequester with partials := [{ index := 0x2000, sub := 1, bytes := [1], last := 9900000000 }] },
    { aRequester with partials := [{ index := 0x2000, sub := 1, bytes := [1], last := 9900000000 }] }, { index := 0x2000, sub := 1, bytes := [1], last := 9900000000 }, by decide +kernel⟩

theorem witness_KeptAccessesLapseAndTheWindowServes_1 :
    ∃ (req : ReqId) (s : State) (x : Requester) (p : Snapshot), x = reqOf req s ∧ x.snapshot = some p ∧ p.lastRead +
      100000000 ≤ s.now :=
  ⟨owner, asking { aRequester with snapshot := some { index := 0x2000, sub := 1, bytes := [1], lastRead := 9900000000 } },
    { aRequester with snapshot := some { index := 0x2000, sub := 1, bytes := [1], lastRead := 9900000000 } }, { index := 0x2000, sub := 1, bytes := [1], lastRead := 9900000000 }, by decide +kernel⟩

theorem witness_KeptAccessesLapseAndTheWindowServes_2 :
    ∃ (req : ReqId) (s : State) (x : Requester) (p : Snapshot), x = reqOf req s ∧ x.snapshot = some p ∧ s.now <
      p.lastRead + 100000000 :=
  ⟨owner, asking { aRequester with snapshot := some { index := 0x2000, sub := 1, bytes := [1], lastRead := 9900000001 } },
    { aRequester with snapshot := some { index := 0x2000, sub := 1, bytes := [1], lastRead := 9900000001 } }, { index := 0x2000, sub := 1, bytes := [1], lastRead := 9900000001 }, by decide +kernel⟩

theorem witness_KeptAccessesLapseAndTheWindowServes_3 :
    ∃ (req : ReqId) (s : State) (x : Requester) (k : Kept), x = reqOf req s ∧ x.kept = some k ∧ k.at_ + 100000000 ≤
      s.now :=
  ⟨owner, asking { aRequester with kept := some (aKept 9900000000) }, { aRequester with kept := some (aKept 9900000000) }, aKept 9900000000, by decide +kernel⟩

theorem witness_KeptAccessesLapseAndTheWindowServes_4 :
    ∃ (req : ReqId) (s : State) (x : Requester) (k : Kept), x = reqOf req s ∧ x.kept = some k ∧ s.now < k.at_ +
      100000000 :=
  ⟨owner, asking { aRequester with kept := some (aKept 9900000001) }, { aRequester with kept := some (aKept 9900000001) }, aKept 9900000001, by decide +kernel⟩

theorem witness_KeptAccessesLapseAndTheWindowServes_5 :
    ∃ (_request : List Byte) (w : HostWrite) (s : State), s.hostif.flr = false ∧ w.bytes = 8 ∧ w.offset = 0 ∧
      s.dict.dwDone.getLsbD 16 = false ∧ dictServed s = true :=
  ⟨[1], { value := 1 }, up, by decide +kernel⟩

theorem witness_KeptAccessesLapseAndTheWindowServes_6 :
    ∃ (_request : List Byte) (w : HostWrite) (s : State), s.hostif.flr = false ∧ w.bytes = 8 ∧ w.offset = 0 ∧
      s.dict.dwDone.getLsbD 16 = true :=
  ⟨[1], { value := 1 }, { up with dict := { up.dict with dwDone := 0x10000 } }, by decide +kernel⟩

theorem witness_KeptAccessesLapseAndTheWindowServes_7 :
    ∃ (_request : List Byte) (_w : HostWrite) (s : State), s.hostif.flr = true :=
  ⟨[1], { value := 1 }, { up with hostif := { up.hostif with flr := true } }, by decide +kernel⟩

/-! `TheWaybillStoresReadsAndClears`: states and operands that meet its hypotheses, clause by clause. -/

theorem witness_TheWaybillStoresReadsAndClears_0 :
    ∃ (s : State) (r : WbSubmit) (rest : List WbSubmit), s.waybill.queue = r :: rest ∧ s.waybill.restoreDue = false ∧
      r.code ≠ 0xE001 ∧ (∀ l, codeLimit r.code = some l → (wbCode r.code s).written < l) :=
  ⟨recording 0x5001 0, { time := 0, code := 0x5001, inst := 0, held := false, p := [], num := 1 }, [], by decide +kernel, rfl, by decide +kernel,
    fun l h => by simp only [show codeLimit 0x5001 = some 1 from rfl, Option.some.injEq] at h; subst h; decide +kernel⟩

theorem witness_TheWaybillStoresReadsAndClears_1 :
    ∃ (s : State) (r : WbSubmit) (rest : List WbSubmit) (l : Nat), s.waybill.queue = r :: rest ∧ s.waybill.restoreDue
      = false ∧ codeLimit r.code = some l ∧ l ≤ (wbCode r.code s).written :=
  ⟨recording 0x5001 1, { time := 0, code := 0x5001, inst := 0, held := false, p := [], num := 1 }, [], 1, by decide +kernel⟩

theorem witness_TheWaybillStoresReadsAndClears_2 :
    ∃ (s : State), s.waybill.second < s.now / 1000000000 ∧ s.waybill.codes ≠ [] :=
  ⟨recording 0x5001 1, by decide +kernel⟩

theorem witness_TheWaybillStoresReadsAndClears_3 :
    ∃ (s : State), s.waybill.restoreDue = true :=
  ⟨{ State.reset with waybill := { State.reset.waybill with restoreDue := true } }, rfl⟩

theorem witness_TheWaybillStoresReadsAndClears_4 :
    ∃ (req : ReqId) (s u : State) (rec : WbRecord) (next : Nat), dictServed s = true ∧ reqExists req s = true ∧ u =
      touchReq req s ∧ readRefusal req 0x2E00 7 u = erOk ∧ (rec, next) = wbReadAt (selVal Ent.wbCursor req u) u :=
  by
  refine ⟨.t1s 0, up, touchReq (.t1s 0) up, _, _, ?_, ?_, rfl, ?_, rfl⟩ <;> decide +kernel

theorem witness_TheWaybillStoresReadsAndClears_5 :
    ∃ (req : ReqId) (value : Nat) (s : State), Accepted req 0x2E00 8 (leBytes 1 value) s :=
  ⟨.t1s 0, 1, up, by unfold Accepted; decide +kernel⟩

theorem witness_TheWaybillStoresReadsAndClears_6 :
    ∃ (s : State) (at_ : Nat), s.waybill.copying = some at_ :=
  ⟨{ up with waybill := { up.waybill with copying := some 7 } }, 7, by decide +kernel⟩

/-! `FabricMembershipChanges`: states and operands that meet its hypotheses, clause by clause. -/

theorem witness_FabricMembershipChanges_0 :
    ∃ (req : ReqId) (value : List Byte) (s : State) (r : BitVec 512), Accepted req 0x2A00 0x06 value s ∧
      s.fabric.state = 0 ∧ r = BitVec.ofNat 512 (ofLe value) ∧ db r 0 51 = true ∧ s.fabric.peers.length < 4095 :=
  ⟨owner, leBytes 64 (2 * 2 ^ 52 + 2 ^ 51), up, BitVec.ofNat 512 (2 * 2 ^ 52 + 2 ^ 51), by unfold Accepted; decide +kernel⟩

theorem witness_FabricMembershipChanges_1 :
    ∃ (req : ReqId) (value : List Byte) (s : State) (r : BitVec 512), Accepted req 0x2A00 0x06 value s ∧
      s.fabric.state = 0 ∧ r = BitVec.ofNat 512 (ofLe value) ∧ db r 0 51 = false :=
  ⟨owner, leBytes 64 (2 * 2 ^ 52), up, BitVec.ofNat 512 (2 * 2 ^ 52), by unfold Accepted; decide +kernel⟩

theorem witness_FabricMembershipChanges_2 :
    ∃ (req : ReqId) (value : Nat) (s : State), Accepted req 0x2A00 0x03 (leBytes 1 value) s :=
  ⟨owner, 1, { up with dict := { up.dict with values := [(Ent.fabModuleNumber, leBytes 2 1)] } }, by unfold Accepted; decide +kernel⟩

theorem witness_FabricMembershipChanges_3 :
    ∃ (req : ReqId) (value : Nat) (s : State), Accepted req 0x2A00 0x04 (leBytes 1 value) s ∧ s.fabric.state = 0 :=
  ⟨owner, 1, up, by unfold Accepted; decide +kernel⟩

theorem witness_FabricMembershipChanges_4 :
    ∃ (req : ReqId) (value : Nat) (s : State), Accepted req 0x2A00 0x04 (leBytes 1 value) s ∧ s.fabric.state ≠ 0 :=
  ⟨owner, 1, joined aSession, by unfold Accepted; decide +kernel⟩

theorem witness_FabricMembershipChanges_5 :
    ∃ (req : ReqId) (group value : Nat) (s : State), group < 16 ∧ Accepted req (0x2A30 + group) 2 (leBytes 1 value) s :=
  ⟨owner, 15, 1, up, by unfold Accepted; decide +kernel⟩

theorem witness_FabricMembershipChanges_6 :
    ∃ (iface : Nat) (s : State) (m : Nat), iface < 16 ∧ s.power.netOn = true ∧ s.fabric.ifUp.contains iface = false ∧
      m = (if (List.range 4).all (fun k => !s.fabric.ifUp.contains (4 * (iface / 4) + k)) then ent (Ent.portMode + 256
      * (iface / 4)) s else s.fabric.mode.getD (iface / 4) 0) ∧ iface % 4 < modeInterfaces m ∧ iface / 4 <
      s.fabric.mode.length :=
  ⟨4, joined aSession, 0, by decide +kernel⟩

theorem witness_FabricMembershipChanges_7 :
    ∃ (iface : Nat) (_v6 : Bool) (_target : Nat) (_mac : BitVec 48) (s : State), iface < 16 ∧ s.fabric.ifUp.contains
      iface = true :=
  ⟨0, false, 9, 1, svc, by decide +kernel⟩

theorem witness_FabricMembershipChanges_8 :
    ∃ (iface : Nat) (v6 : Bool) (target : Nat) (_mac : BitVec 48) (s : State), iface < 16 ∧ s.fabric.ifUp.contains
      iface = true ∧ moving s = false ∧ target ≠ 0 ∧ ifaceAddr iface v6 s = target :=
  ⟨0, false, 1, 1, svc, by decide +kernel⟩

theorem witness_FabricMembershipChanges_9 :
    ∃ (iface : Nat) (v6 : Bool) (target sender : Nat) (mac : BitVec 48) (s u : State), iface < 16 ∧
      s.fabric.ifUp.contains iface = true ∧ target ≠ 0 ∧ ifaceAddr iface v6 s = target ∧ u = (if sender = 0 then s
      else learn iface v6 sender mac s) :=
  ⟨0, false, 1, 9, 1, svc, learn 0 false 9 1 svc, by decide +kernel⟩

theorem witness_FabricMembershipChanges_10 :
    ∃ (req : ReqId) (value : Nat) (s u : State), Accepted req 0x2A00 0x03 (leBytes 1 value) s ∧ u = actionStart req
      0x2A00 0x03 s :=
  ⟨owner, 1, { up with dict := { up.dict with values := [(Ent.fabModuleNumber, leBytes 2 1)] } }, actionStart owner 0x2A00 0x03 { up with dict := { up.dict with values := [(Ent.fabModuleNumber, leBytes 2 1)] } }, by unfold Accepted; decide +kernel, rfl⟩

/-! `FabricSessionsOpenAndEnd`: states and operands that meet its hypotheses, clause by clause. -/

theorem witness_FabricSessionsOpenAndEnd_0 :
    ∃ (iface : Nat) (d : List Byte) (s : State) (p : Pkt) (x : FabSession) (fs : List (Nat × List Byte)) (msg : List
      Byte), iface < 16 ∧ s.fabric.ifUp.contains iface = true ∧ handshakePkt 3 d s = some p ∧ x = sessOf p.src s ∧
      x.handshake = none ∧ p.src ≤ myModule s ∧ handshakes s < 64 ∧ joinFrags [] p d = (fs, some msg) :=
  by
  refine ⟨0, helloAbove, joinedAbove (FabSession.fresh 2), { fabPkt 3 0 1 with dst := 3 }, FabSession.fresh 2,
    [(0, [7])], [7], ?_, ?_, rfl, ?_, ?_, ?_, ?_, ?_⟩ <;> decide +kernel

theorem witness_FabricSessionsOpenAndEnd_1 :
    ∃ (iface : Nat) (d : List Byte) (s : State) (p : Pkt), iface < 16 ∧ s.fabric.ifUp.contains iface = true ∧
      handshakePkt 3 d s = some p ∧ (sessOf p.src s).handshake.any (fun h => h.initiator) = true ∧ myModule s < p.src :=
  by
  refine ⟨0, fabHeader 3 0 1 ++ [7], joined { FabSession.fresh 2 with handshake := some (aHandshake true 0) },
    fabPkt 3 0 1, ?_, ?_, rfl, ?_, ?_⟩ <;> decide +kernel

theorem witness_FabricSessionsOpenAndEnd_2 :
    ∃ (iface : Nat) (d : List Byte) (s : State) (p : Pkt) (h : Handshake) (fs : List (Nat × List Byte)) (msg : List
      Byte), iface < 16 ∧ s.fabric.ifUp.contains iface = true ∧ handshakePkt 4 d s = some p ∧ (sessOf p.src
      s).handshake = some h ∧ h.initiator = true ∧ h.gen = p.gen ∧ joinFrags h.frags p d = (fs, some msg) :=
  by
  refine ⟨0, fabHeader 4 0 1 ++ [7], joined { FabSession.fresh 2 with handshake := some (aHandshake true 0) },
    fabPkt 4 0 1, aHandshake true 0, [(0, [7])], [7], ?_, ?_, rfl, ?_, ?_, ?_, ?_⟩ <;> decide +kernel

theorem witness_FabricSessionsOpenAndEnd_3 :
    ∃ (iface : Nat) (d : List Byte) (s : State) (p : Pkt) (h : Handshake) (keys pt : List Byte), iface < 16 ∧
      s.fabric.ifUp.contains iface = true ∧ handshakePkt 2 d s = some p ∧ (sessOf p.src s).handshake = some h ∧
      h.initiator = false ∧ h.secret ≠ [] ∧ h.gen = p.gen ∧ p.epoch = 0 ∧ p.psn = 0 ∧ keys = sessionKeys h.gen
      h.secret h.transcript s ∧ openPkt keys true p d = some pt :=
  by
  refine ⟨0,
    sealedPkt (sessionKeys 0 [7] [] (joined { FabSession.fresh 2 with handshake := some (aHandshake false 0) })) 2 0 [9],
    joined { FabSession.fresh 2 with handshake := some (aHandshake false 0) }, fabPkt 2 0 1, aHandshake false 0,
    _, [9], ?_, ?_, by rw [handshakePkt, sealedPkt, pktOf_append _ _ (by decide +kernel)]; rfl, ?_, ?_, ?_, ?_,
    ?_, ?_, rfl,
    openPkt_sealed _ true (fabPkt 2 0 1) (fabHeader 2 0 1) [9] (by decide +kernel) rfl⟩ <;> decide +kernel

theorem witness_FabricSessionsOpenAndEnd_4 :
    ∃ (peer : Nat) (s : State) (h : Handshake), (sessOf peer s).handshake = some h ∧ h.startedAt + 10000000 ≤ s.now :=
  ⟨2, joined { FabSession.fresh 2 with handshake := some (aHandshake true 0) }, aHandshake true 0, by decide +kernel⟩

theorem witness_FabricSessionsOpenAndEnd_5 :
    ∃ (peer : Nat) (s : State) (h : Handshake), (sessOf peer s).handshake = some h ∧ s.now < h.startedAt + 10000000 :=
  ⟨2, joined { FabSession.fresh 2 with handshake := some (aHandshake true 9990000001) }, aHandshake true 9990000001, by decide +kernel⟩

theorem witness_FabricSessionsOpenAndEnd_6 :
    ∃ (peer : Nat) (s : State), s.fabric.state = 2 ∧ (peerRec peer s).isSome = true ∧ (sessOf peer s).state = 3 ∧
      (sessOf peer s).handshake = none ∧ (sessOf peer s).failedAt + ent Ent.fabPeerDeadNs s ≤ s.now ∧ handshakes s <
      64 :=
  ⟨2, joined { FabSession.fresh 2 with state := 3 }, by decide +kernel⟩

theorem witness_FabricSessionsOpenAndEnd_7 :
    ∃ (iface : Nat) (d : List Byte) (s : State) (p : Pkt) (pt : List Byte), iface < 16 ∧ s.fabric.ifUp.contains iface
      = true ∧ authentic 5 d s = some (p, pt) :=
  ⟨0, sealedPkt [] 5 0 [7], joined aSession, fabPkt 5 0 1, [7], by decide +kernel, by decide +kernel,
    authentic_sealedPkt 5 0 [7] aSession (by decide +kernel) rfl (by decide +kernel) rfl rfl rfl rfl⟩

theorem witness_FabricSessionsOpenAndEnd_8 :
    ∃ (peer : Nat) (s : State), (sessOf peer s).state = 2 ∧ (sessOf peer s).lastRx + ent Ent.fabPeerDeadNs s ≤ s.now :=
  ⟨2, joined aSession, by decide +kernel⟩

theorem witness_FabricSessionsOpenAndEnd_9 :
    ∃ (peer : Nat) (s : State), (sessOf peer s).state = 2 ∧ s.now < (sessOf peer s).lastRx + ent Ent.fabPeerDeadNs s :=
  ⟨2, joined { aSession with lastRx := 10000000000 }, by decide +kernel⟩

theorem witness_FabricSessionsOpenAndEnd_10 :
    ∃ (peer : Nat) (s : State) (x : FabSession) (o : FabOp), x = sessOf peer s ∧ x.waiting.find? (fun o =>
      o.firstSent.elim (x.state != 2 && decide (o.issuedAt + opLimit o s ≤ s.now)) (fun t => decide (t + opLimit o s ≤
      s.now))) = some o :=
  ⟨2, joined { aSession with state := 3, waiting := [anOp (.atomic 1)] }, { aSession with state := 3, waiting := [anOp (.atomic 1)] }, anOp (.atomic 1), by decide +kernel⟩

theorem witness_FabricSessionsOpenAndEnd_11 :
    ∃ (peer seq : Nat) (s : State) (x : FabSession) (o : FabOp), x = sessOf peer s ∧ seq ≠ 0 ∧ x.ops.find? (fun o =>
      o.seq == seq && o.unit != .global && o.firstSent.elim (x.state != 2 && decide (o.issuedAt + opLimit o s ≤
      s.now)) (fun t => decide (t + opLimit o s ≤ s.now))) = some o ∧ o.queued = false ∧ x.sent.any (fun p =>
      p.ops.contains seq) = false :=
  ⟨2, 5, joined { aSession with state := 3, ops := [anOp (.atomic 1)] }, { aSession with state := 3, ops := [anOp (.atomic 1)] }, anOp (.atomic 1), by decide +kernel⟩

theorem witness_FabricSessionsOpenAndEnd_12 :
    ∃ (peer seq : Nat) (s : State) (x : FabSession) (o : FabOp), x = sessOf peer s ∧ seq ≠ 0 ∧ x.ops.find? (fun o =>
      o.seq == seq && o.unit != .global && o.firstSent.elim (x.state != 2 && decide (o.issuedAt + opLimit o s ≤
      s.now)) (fun t => decide (t + opLimit o s ≤ s.now))) = some o ∧ (o.queued = true ∨ x.sent.any (fun p =>
      p.ops.contains seq) = true) :=
  ⟨2, 5, joined { aSession with ops := [{ anOp .global with unit := .signal 0 0, queued := true, firstSent := some 0 }] },
    { aSession with ops := [{ anOp .global with unit := .signal 0 0, queued := true, firstSent := some 0 }] }, { anOp .global with unit := .signal 0 0, queued := true, firstSent := some 0 }, by decide +kernel⟩

theorem witness_FabricSessionsOpenAndEnd_14 :
    ∃ (iface : Nat) (d : List Byte) (s : State) (p : Pkt), iface < 16 ∧ s.fabric.ifUp.contains iface = true ∧
      handshakePkt 3 d s = some p ∧ (sessOf p.src s).handshake = none :=
  by
  refine ⟨0, fabHeader 3 0 1 ++ [7], joined (FabSession.fresh 2), fabPkt 3 0 1, ?_, ?_, rfl,
    ?_⟩ <;> decide +kernel

theorem witness_FabricSessionsOpenAndEnd_15 :
    ∃ (iface : Nat) (d : List Byte) (s : State) (p : Pkt) (h : Handshake) (fs : List (Nat × List Byte)) (msg : List
      Byte), iface < 16 ∧ s.fabric.ifUp.contains iface = true ∧ handshakePkt 3 d s = some p ∧ (sessOf p.src
      s).handshake = some h ∧ h.initiator = true ∧ p.src < myModule s ∧ joinFrags [] p d = (fs, some msg) :=
  by
  refine ⟨0, helloAbove, joinedAbove { FabSession.fresh 2 with handshake := some (aHandshake true 0) },
    { fabPkt 3 0 1 with dst := 3 }, aHandshake true 0, [(0, [7])], [7], ?_, ?_, rfl, ?_, ?_, ?_,
    ?_⟩ <;> decide +kernel

/-! `FabricPacketsAndTimersAct`: states and operands that meet its hypotheses, clause by clause. -/

theorem witness_FabricPacketsAndTimersAct_0 :
    ∃ (iface : Nat) (_ce : Bool) (d : List Byte) (s : State) (p : Pkt) (pt : List Byte) (rs : List (List Byte)) (psn :
      Nat), iface < 16 ∧ s.fabric.ifUp.contains iface = true ∧ authentic 1 d s = some (p, pt) ∧ recordsOf (pt.length +
      1) pt = some rs ∧ psn = extend32 (sessOf p.src s).ackPsn p.psn ∧ (sessOf p.src s).ackPsn ≤ psn ∧ (sessOf p.src
      s).received.contains psn = false ∧ inWindow (sessOf p.src s) rs = true :=
  by
  refine ⟨0, false, sealedPkt [] 1 0 (aRecord 1 0), joined aSession, fabPkt 1 0 16, aRecord 1 0, [aRecord 1 0],
    0, ?_, ?_,
    authentic_sealedPkt 1 0 (aRecord 1 0) aSession (by decide +kernel) rfl (by decide +kernel) rfl rfl rfl rfl,
    ?_, ?_, ?_, ?_, ?_⟩ <;> decide +kernel

theorem witness_FabricPacketsAndTimersAct_1 :
    ∃ (iface : Nat) (_ce : Bool) (d : List Byte) (s : State) (p : Pkt) (pt : List Byte) (rs : List (List Byte)) (psn :
      Nat), iface < 16 ∧ s.fabric.ifUp.contains iface = true ∧ authentic 1 d s = some (p, pt) ∧ recordsOf (pt.length +
      1) pt = some rs ∧ psn = extend32 (sessOf p.src s).ackPsn p.psn ∧ psn < (sessOf p.src s).ackPsn :=
  by
  refine ⟨0, false, sealedPkt [] 1 4 (aRecord 1 0), joined { aSession with ackPsn := 5 }, fabPkt 1 4 16,
    aRecord 1 0, [aRecord 1 0], 4, ?_, ?_,
    authentic_sealedPkt 1 4 (aRecord 1 0) { aSession with ackPsn := 5 } (by decide +kernel) rfl (by decide +kernel) rfl rfl rfl rfl,
    ?_, ?_, ?_⟩ <;> decide +kernel

theorem witness_FabricPacketsAndTimersAct_2 :
    ∃ (iface : Nat) (_ce : Bool) (_d : List Byte) (s : State), iface < 16 ∧ s.fabric.ifUp.contains iface = true :=
  ⟨0, false, [1], joined aSession, by decide +kernel⟩

theorem witness_FabricPacketsAndTimersAct_3 :
    ∃ (iface : Nat) (_ce : Bool) (d : List Byte) (s : State) (p : Pkt) (pt : List Byte), iface < 16 ∧
      s.fabric.ifUp.contains iface = true ∧ authentic 2 d s = some (p, pt) :=
  ⟨0, false, sealedPkt [] 2 0 [], joined aSession, fabPkt 2 0 0, [], by decide +kernel, by decide +kernel,
    authentic_sealedPkt 2 0 [] aSession (by decide +kernel) rfl (by decide +kernel) rfl rfl rfl rfl⟩

theorem witness_FabricPacketsAndTimersAct_4 :
    ∃ (peer : Nat) (s : State), moving s = false ∧ (sessOf peer s).state = 2 ∧ ((sessOf peer s).ackNow = true ∨ 4 ≤
      (sessOf peer s).owed ∨ (0 < (sessOf peer s).owed ∧ (sessOf peer s).owedSince + 2000 ≤ s.now)) :=
  ⟨2, joined { aSession with owed := 1 }, by decide +kernel⟩

theorem witness_FabricPacketsAndTimersAct_5 :
    ∃ (peer : Nat) (s : State), moving s = false ∧ (sessOf peer s).state = 2 ∧ (sessOf peer s).ops = [] ∧ (sessOf peer
      s).lastTx + ent Ent.fabPeerDeadNs s / 4 ≤ s.now :=
  ⟨2, joined aSession, by decide +kernel⟩

theorem witness_FabricPacketsAndTimersAct_6 :
    ∃ (peer psn : Nat) (s : State) (x : FabSession) (p : FabSent), x = sessOf peer s ∧ x.sent.find? (fun p => p.psn ==
      psn && decide (p.at_ + rtoOf x s ≤ s.now)) = some p :=
  ⟨2, 4, joined { aSession with sent := [{ psn := 4, path := 0, ops := [], responses := [], bytes := 100, at_ := 0, cls := 0 }] },
    { aSession with sent := [{ psn := 4, path := 0, ops := [], responses := [], bytes := 100, at_ := 0, cls := 0 }] },
    { psn := 4, path := 0, ops := [], responses := [], bytes := 100, at_ := 0, cls := 0 }, by decide +kernel⟩

theorem witness_FabricPacketsAndTimersAct_7 :
    ∃ (peer : Nat) (s : State) (x : FabSession), x = sessOf peer s ∧ x.state = 2 ∧ x.hasRtt = true ∧ x.cwndAt + x.srtt
      ≤ s.now ∧ x.eceAcked = 0 ∧ x.eceSeen = false :=
  ⟨2, joined { aSession with hasRtt := true }, { aSession with hasRtt := true }, by decide +kernel⟩

theorem witness_FabricPacketsAndTimersAct_8 :
    ∃ (peer : Nat) (s : State) (x : FabSession), x = sessOf peer s ∧ x.state = 2 ∧ (2 ^ 31 ≤ x.psn - x.epochPsn ∨
      x.epochSince + 1000000000 * ent Ent.fabRekeyS s ≤ s.now) :=
  ⟨2, joined { aSession with psn := 2 ^ 31 }, { aSession with psn := 2 ^ 31 }, by decide +kernel⟩

theorem witness_FabricPacketsAndTimersAct_9 :
    ∃ (peer path : Nat) (s : State) (q : FabPath) (u : State), path < 4 ∧ (sessOf peer s).paths[path]? = some q ∧ u =
      { s with fabric := { s.fabric with ifUp := s.fabric.ifUp.filter (· != q.iface) } } ∧ peerIfaces peer u = [] :=
  by
  refine ⟨2, 3, joined { aSession with paths := List.replicate 4 { iface := 0, port := 1, timeouts := 8 } },
    { iface := 0, port := 1, timeouts := 8 }, _, ?_, ?_, rfl, ?_⟩ <;> decide +kernel

theorem witness_FabricPacketsAndTimersAct_10 :
    ∃ (peer path : Nat) (s : State) (q : FabPath) (u : State), path < 4 ∧ (sessOf peer s).paths[path]? = some q ∧ u =
      { s with fabric := { s.fabric with ifUp := s.fabric.ifUp.filter (· != q.iface) } } ∧ peerIfaces peer u ≠ [] :=
  by
  refine ⟨2, 3, joined { aSession with paths := List.replicate 4 { iface := 4, port := 1, timeouts := 8 } },
    { iface := 4, port := 1, timeouts := 8 }, _, ?_, ?_, rfl, ?_⟩ <;> decide +kernel

/-! `FabricRequestsAreServed`: states and operands that meet its hypotheses, clause by clause. -/

theorem witness_FabricRequestsAreServed_0 :
    ∃ (peer seq : Nat) (s : State) (o : RxOp) (k : Nat) (i : Instr), servedOp peer seq k s = some o ∧ k ≠ 3 ∧ ((k = 1
      ∧ i = .fabricLoadServe peer seq ∧ windowOk o.o1.toNat (leAt o.body 0 4) s = false) ∨ (k = 2 ∧ i =
      .fabricStoreServe peer seq ∧ windowOk o.o1.toNat o.body.length s = false) ∨ (k = 4 ∧ i = .fabricSignalServe peer
      seq ∧ windowOk o.o1.toNat 8 s = false)) :=
  ⟨2, 1, served 1 0x2000000 (leBytes 4 8), rxOp 1 0x2000000 (leBytes 4 8), 1, .fabricLoadServe 2 1, by decide +kernel, by decide +kernel,
    Or.inl ⟨rfl, rfl, by decide +kernel⟩⟩

theorem witness_FabricRequestsAreServed_1 :
    ∃ (peer seq : Nat) (s : State) (o : RxOp) (va n : Nat), servedOp peer seq 1 s = some o ∧ va = o.o1.toNat ∧ n =
      leAt o.body 0 4 ∧ windowOk va n s = true ∧ n ≤ 4096 ∧ memCheck va n .read s = .ok :=
  ⟨2, 1, served 1 0x100FF8 (leBytes 4 8), rxOp 1 0x100FF8 (leBytes 4 8), 0x100FF8, 8, by decide +kernel⟩

theorem witness_FabricRequestsAreServed_2 :
    ∃ (peer seq : Nat) (s : State) (o : RxOp) (va : Nat), servedOp peer seq 2 s = some o ∧ va = o.o1.toNat ∧ windowOk
      va o.body.length s = true ∧ o.body.length ≤ 4096 ∧ memCheck va o.body.length .write s = .ok :=
  ⟨2, 1, served 2 0x100FF8 (leBytes 8 8), rxOp 2 0x100FF8 (leBytes 8 8), 0x100FF8, by decide +kernel⟩

theorem witness_FabricRequestsAreServed_3 :
    ∃ (peer seq : Nat) (s : State) (o : RxOp) (va page : Nat), servedOp peer seq 2 s = some o ∧ va = o.o1.toNat ∧
      windowOk va o.body.length s = true ∧ o.body.length ≤ 4096 ∧ memCheck va o.body.length .write s = .absent page :=
  ⟨2, 1, served 2 0x200000 (leBytes 8 8), rxOp 2 0x200000 (leBytes 8 8), 0x200000, 0x200, by decide +kernel⟩

theorem witness_FabricRequestsAreServed_4 :
    ∃ (peer seq : Nat) (s : State) (o : RxOp), servedOp peer seq 4 s = some o ∧ windowOk o.o1.toNat 8 s = true ∧
      memCheck o.o1.toNat 8 .atomic s = .ok :=
  ⟨2, 1, served 4 0x100FF8 [], rxOp 4 0x100FF8 [], by decide +kernel⟩

theorem witness_FabricRequestsAreServed_5 :
    ∃ (peer seq : Nat) (s : State) (o : RxOp), servedOp peer seq 3 s = some o ∧ linkedOps 4 (sessOf peer s) seq = some
      [o] ∧ unitOk [o] = true ∧ windowOk o.o1.toNat 8 s = true ∧ memCheck (o.o1.toNat / 4096 * 4096) 4096 .atomic s =
      .ok :=
  ⟨2, 1, served 3 0x100FF8 [], rxOp 3 0x100FF8 [], by decide +kernel⟩

theorem witness_FabricRequestsAreServed_6 :
    ∃ (peer seq : Nat) (s : State) (o : RxOp), servedOp peer seq 5 s = some o ∧ s.lookup.jobs.any (fun j => j.serves
      == some (peer, seq)) = false ∧ tableOf (field o.o1.toNat 63 52) s = none :=
  ⟨2, 1, served 5 (5 * 2 ^ 52) [], rxOp 5 (5 * 2 ^ 52) [], by decide +kernel⟩

theorem witness_FabricRequestsAreServed_7 :
    ∃ (peer seq : Nat) (s : State) (o : RxOp) (tb : Desc), servedOp peer seq 5 s = some o ∧ s.lookup.jobs.any (fun j
      => j.serves == some (peer, seq)) = false ∧ tableOf (field o.o1.toNat 63 52) s = some tb ∧ lookupDenied peer
      o.o1.toNat s = 0 ∧ o.body = [] :=
  ⟨2, 1, exporting 5 (5 * 2 ^ 52 + 3) [], rxOp 5 (5 * 2 ^ 52 + 3) [], exported, by decide +kernel⟩

theorem witness_FabricRequestsAreServed_8 :
    ∃ (peer seq : Nat) (s : State) (o : RxOp), rxOpOf peer seq 6 s = some o :=
  ⟨2, 1, exporting 6 (5 * 2 ^ 52) (leBytes 8 3 ++ [1, 2]), rxOp 6 (5 * 2 ^ 52) (leBytes 8 3 ++ [1, 2]), by decide +kernel⟩

theorem witness_FabricRequestsAreServed_9 :
    ∃ (peer seq : Nat) (s : State) (o : RxOp), rxOpOf peer seq 6 s = some o ∧ (ent Ent.importWrites s = 0 ∨ isMember
      peer s = false ∨ (tableOf (field o.o1.toNat 63 52) s).all (fun t => !tExport t) = true) :=
  ⟨2, 1, served 6 (5 * 2 ^ 52) (leBytes 8 3 ++ [1, 2]), rxOp 6 (5 * 2 ^ 52) (leBytes 8 3 ++ [1, 2]), by decide +kernel⟩

theorem witness_FabricRequestsAreServed_10 :
    ∃ (peer seq : Nat) (s : State) (o : RxOp) (b : RemoteBatch), rxOpOf peer seq 7 s = some o ∧
      s.updates.remoteBatches.find? (fun b => b.peer == peer && b.batch == o.subop) = some b ∧ b.rows = leAt o.body 0
      4 ∧ readersOf (s.updates.epoch - 1) s = 0 :=
  ⟨2, 1, { served 7 0 (leBytes 4 1) with updates := { up.updates with remoteBatches := [{ num := 1, peer := 2, batch := 0, rows := 1 }] } },
    rxOp 7 0 (leBytes 4 1), { num := 1, peer := 2, batch := 0, rows := 1 }, by decide +kernel⟩

theorem witness_FabricRequestsAreServed_11 :
    ∃ (peer seq : Nat) (s : State) (o : RxOp), rxOpOf peer seq 8 s = some o :=
  ⟨2, 1, served 8 0 [], rxOp 8 0 [], by decide +kernel⟩

theorem witness_FabricRequestsAreServed_12 :
    ∃ (peer : Nat) (record : List Byte) (s : State) (x : FabSession), x = sessOf peer s ∧ x.inbox.contains record =
      true ∧ 0x80 ≤ recOpcode record :=
  ⟨2, aRecord 0x81 0, joined { aSession with inbox := [aRecord 0x81 0] }, { aSession with inbox := [aRecord 0x81 0] }, by decide +kernel⟩

/-! `FabricDescriptorsAndGlobalsAct`: states and operands that meet its hypotheses, clause by clause. -/

theorem witness_FabricDescriptorsAndGlobalsAct_0 :
    ∃ (core : Nat) (desc : Desc) (org : Origin) (s u : State) (i : Instr), core < 98 ∧ inTurn core desc org s = true ∧
      u = takeIssued core desc org s ∧ (matOf core u).failed = false ∧ ((df desc 0 63 56 = 0x60 ∧ i = .fabricAtomic
      core desc org) ∨ (df desc 0 63 56 = 0x61 ∧ df desc 0 55 53 = 0 ∧ i = .fabricBarrier core desc org) ∨ (df desc 0
      63 56 = 0x61 ∧ df desc 0 55 53 = 1 ∧ i = .fabricBroadcast core desc org) ∨ (df desc 0 63 56 = 0x61 ∧ df desc 0
      55 53 = 2 ∧ i = .fabricSnapshot core desc org)) :=
  by
  refine ⟨97, descOf [0x61 * 2 ^ 56], {}, up, takeIssued 97 (descOf [0x61 * 2 ^ 56]) {} up,
    .fabricBarrier 97 (descOf [0x61 * 2 ^ 56]) {}, ?_, ?_, rfl, ?_,
    Or.inr (Or.inl ⟨by decide +kernel, by decide +kernel, rfl⟩)⟩ <;> decide +kernel

theorem witness_FabricDescriptorsAndGlobalsAct_1 :
    ∃ (core : Nat) (desc : Desc) (org : Origin) (s : State) (i : Instr), core < 98 ∧ inTurn core desc org s = false ∧
      (i = .fabricAtomic core desc org ∨ i = .fabricBarrier core desc org ∨ i = .fabricBroadcast core desc org ∨ i =
      .fabricSnapshot core desc org) :=
  ⟨97, descOf [0x61 * 2 ^ 56], {}, updCtl 97 (fun k => { k with issued := [(descOf [0x61 * 2 ^ 56, 1], {})] }) up,
    .fabricBarrier 97 (descOf [0x61 * 2 ^ 56]) {}, by decide +kernel, by decide +kernel, Or.inr (Or.inl rfl)⟩

theorem witness_FabricDescriptorsAndGlobalsAct_3 :
    ∃ (peer : Nat) (record : List Byte) (s : State) (x : FabSession) (o1 g gseq : Nat), x = sessOf peer s ∧ o1 =
      (recO1 record).toNat ∧ g = field o1 63 60 ∧ gseq = field o1 31 0 ∧ x.inbox.contains record = true ∧ recOpcode
      record = 9 ∧ (s.fabric.groups.getD g GGroup.reset).enabled = true ∧ (childModules g (myModule s) s).contains
      peer = true :=
  ⟨2, aRecord 9 (3 * 2 ^ 60 + 1),
    { joined { aSession with inbox := [aRecord 9 (3 * 2 ^ 60 + 1)] } with dict := { up.dict with values := [(Ent.fabModuleNumber, leBytes 2 1), (Ent.ggGgroupMembers + 256 * 3, leBytes 512 6)] } },
    { aSession with inbox := [aRecord 9 (3 * 2 ^ 60 + 1)] }, 3 * 2 ^ 60 + 1, 3, 1, by decide +kernel⟩

theorem witness_FabricDescriptorsAndGlobalsAct_4 :
    ∃ (group : Nat) (s : State) (f : FabDesc), group < 16 ∧ group < s.fabric.groups.length ∧ f ∈ s.fabric.descs ∧
      f.held = false ∧ df f.desc 0 63 56 = 0x61 ∧ df f.desc 0 50 47 = group ∧ f.issuedAt + ent Ent.fabGlobalTimeoutNs
      s ≤ s.now :=
  ⟨3, { up with fabric := { up.fabric with descs := [aFabDesc] } }, aFabDesc, by decide +kernel⟩

theorem witness_FabricDescriptorsAndGlobalsAct_5 :
    ∃ (group : Nat) (s : State), group < 16 ∧ s.fabric.descs = [] :=
  ⟨15, up, by decide +kernel⟩

/-! `OwnerRecordsAreTaken`: states and operands that meet its hypotheses, clause by clause. -/

theorem witness_OwnerRecordsAreTaken_0 :
    ∃ (via : Option UdpPath) (record : List Byte) (s : State) (r : OwnerRec) (msg : List Byte), ownerReaches via s =
      true ∧ parseOwner record = some r ∧ r.typ = 1 ∧ r.frag % 16 = 0 ∧ r.frag / 16 = 0 ∧ s.security.ownerHandshakes =
      [] ∧ msg = r.payload :=
  ⟨none, plainRecord 1, up, plainParsed 1, [], by decide +kernel⟩

theorem witness_OwnerRecordsAreTaken_1 :
    ∃ (via : Option UdpPath) (record : List Byte) (s : State) (r : OwnerRec) (o : OwnerSession) (payload : List Byte)
      (i : Instr), ownerReaches via s = true ∧ parseOwner record = some r ∧ r.typ = 3 ∧ ((r.kind = 1 ∧ i = .ownerDict
      via record) ∨ (r.kind = 2 ∧ i = .ownerStage via record) ∨ (r.kind = 3 ∧ i = .ownerCommand via record) ∨ (r.kind
      = 5 ∧ i = .ownerMap via record)) ∧ ownerOf r.sid s = some o ∧ gcmOpen o.keyIn (ownerNonce false r.seq) r.header
      r.payload = some payload ∧ r.seq = o.nextIn ∧ o.held = [] :=
  ⟨none, ownerRecord 1 5 [8, 9], up, parsed 1 5 (ownerHeader 1 5 2) _, aOwner, [8, 9], .ownerDict none (ownerRecord 1 5 [8, 9]), by decide +kernel,
    parse_ownerRecord _ (by rw [gcmSeal_length]; rfl), rfl, Or.inl ⟨rfl, rfl⟩, by decide +kernel, gcmOpen_gcmSeal .., rfl, rfl⟩

theorem witness_OwnerRecordsAreTaken_2 :
    ∃ (via : Option UdpPath) (record : List Byte) (s : State) (r : OwnerRec) (o : OwnerSession) (payload : List Byte),
      ownerReaches via s = true ∧ parseOwner record = some r ∧ r.typ = 3 ∧ r.kind = 2 ∧ ownerOf r.sid s = some o ∧
      gcmOpen o.keyIn (ownerNonce false r.seq) r.header r.payload = some payload ∧ o.nextIn < r.seq ∧ o.held = [] :=
  by
  refine ⟨none, ownerRecord 2 6 [8, 9], up, parsed 2 6 (ownerHeader 2 6 2) _, aOwner, [8, 9], ?_,
    parse_laterRecord _ (by rw [gcmSeal_length]; rfl), rfl, rfl, ?_, gcmOpen_gcmSeal .., ?_,
    rfl⟩ <;> decide +kernel

theorem witness_OwnerRecordsAreTaken_3 :
    ∃ (via : Option UdpPath) (record : List Byte) (s : State) (r : OwnerRec) (o : OwnerSession) (i : Instr),
      ownerReaches via s = true ∧ parseOwner record = some r ∧ r.typ = 3 ∧ ((r.kind = 1 ∧ i = .ownerDict via record) ∨
      (r.kind = 2 ∧ i = .ownerStage via record) ∨ (r.kind = 3 ∧ i = .ownerCommand via record) ∨ (r.kind = 5 ∧ i =
      .ownerMap via record)) ∧ ownerOf r.sid s = some o ∧ gcmOpen o.keyIn (ownerNonce false r.seq) r.header r.payload
      = none :=
  ⟨none, ownerHeader 1 5 0 ++ badTag 1 5, up, parsed 1 5 (ownerHeader 1 5 0) (badTag 1 5), aOwner, .ownerDict none (ownerHeader 1 5 0 ++ badTag 1 5), by decide +kernel,
    parse_badRecord _ (by simp [badTag]), rfl, Or.inl ⟨rfl, rfl⟩, by decide +kernel, badTag_opens_nothing⟩

theorem witness_OwnerRecordsAreTaken_4 :
    ∃ (via : Option UdpPath) (record : List Byte) (s : State) (r : OwnerRec), ownerReaches via s = true ∧ parseOwner
      record = some r ∧ r.typ = 4 ∧ (ownerOf r.sid s).isSome = true :=
  ⟨none, plainRecord 4, up, plainParsed 4, by decide +kernel⟩

theorem witness_OwnerRecordsAreTaken_5 :
    ∃ (via : Option UdpPath) (s : State) (h : OwnerHandshake), s.security.ownerHandshakes.find? (fun h => h.peer ==
      via) = some h ∧ h.startedAt + 100000000 ≤ s.now :=
  ⟨none, { up with security := { up.security with ownerHandshakes := [{ peer := none, startedAt := 9900000000, frags := [] }] } },
    { peer := none, startedAt := 9900000000, frags := [] }, by decide +kernel⟩

theorem witness_OwnerRecordsAreTaken_6 :
    ∃ (session : Nat) (s : State) (o : OwnerSession) (h : HeldOwnerRecord), ownerOf session s = some o ∧ h ∈ o.held ∧
      h.since + 10000000 ≤ s.now ∧ 0 < o.nextIn :=
  ⟨1, { up with security := { up.security with owners := [{ aOwner with held := [{ seq := 7, kind := 1, payload := [], since := 9990000000 }] }] } },
    { aOwner with held := [{ seq := 7, kind := 1, payload := [], since := 9990000000 }] }, { seq := 7, kind := 1, payload := [], since := 9990000000 }, by decide +kernel⟩

/-! `RootOfTrustActs`: states and operands that meet its hypotheses, clause by clause. -/

theorem witness_RootOfTrustActs_0 :
    ∃ (req : ReqId) (value : List Byte) (s : State) (r : Option OwnerRec), Accepted req 0x2B00 0x11 value s ∧ r =
      parseOwner (relayedRecord value) ∧ r = none :=
  ⟨.window, leBytes 32 1, up, none, by unfold Accepted; decide +kernel⟩

theorem witness_RootOfTrustActs_1 :
    ∃ (req : ReqId) (value : List Byte) (s : State) (r : OwnerRec), Accepted req 0x2B00 0x11 value s ∧ parseOwner
      (relayedRecord value) = some r :=
  ⟨.window, plainRecord 4, up, plainParsed 4, by unfold Accepted; decide +kernel⟩

theorem witness_RootOfTrustActs_2 :
    ∃ (req : ReqId) (length : Nat) (s u : State) (x : List Byte) (rest : List (List Byte)), dictServed s = true ∧
      reqExists req s = true ∧ 1 ≤ length ∧ length ≤ 1024 ∧ u = touchReq req s ∧ readRefusal req 0x2B00 0x12 u = erOk
      ∧ s.security.relayOut = x :: rest ∧ classOf req ≠ .S :=
  ⟨.window, 1024, { up with security := { up.security with relayOut := [[1], [2]] } }, touchReq .window { up with security := { up.security with relayOut := [[1], [2]] } }, [1], [[2]], by decide +kernel⟩

theorem witness_RootOfTrustActs_3 :
    ∃ (req : ReqId) (value : List Byte) (s : State), Accepted req 0x2B00 0x0A value s :=
  ⟨owner, leBytes 32 1, up, by unfold Accepted; decide +kernel⟩

theorem witness_RootOfTrustActs_4 :
    ∃ (req : ReqId) (value : List Byte) (s : State) (slot : Nat) (digest : BitVec 256), Accepted req 0x2B00 0x0F value
      s ∧ slot = leAt value 0 1 ∧ digest = BitVec.ofNat 256 (leAt value 1 32) ∧ slot < s.security.ms.length ∧
      s.security.log.length < 4096 :=
  ⟨owner, leBytes 33 15, up, 15, 0, by unfold Accepted; decide +kernel⟩

theorem witness_RootOfTrustActs_5 :
    ∃ (req : ReqId) (value : Nat) (s : State), Accepted req 0x2B00 0x06 (leBytes 1 value) s :=
  ⟨.window, 1, up, by unfold Accepted; decide +kernel⟩

theorem witness_RootOfTrustActs_6 :
    ∃ (req : ReqId) (value : Nat) (s : State), Accepted req 0x2B00 0x18 (leBytes 1 value) s :=
  ⟨owner, 1, up, by unfold Accepted; decide +kernel⟩

theorem witness_RootOfTrustActs_7 :
    ∃ (s : State), s.job.state = jobZeroising :=
  ⟨{ up with job := { up.job with state := jobZeroising } }, by decide +kernel⟩

theorem witness_RootOfTrustActs_8 :
    ∃ (s : State) (t k : Nat) (u : State), s.security.committing = some t ∧ t ≤ s.now ∧ lowCounter s = some k ∧ u =
      { s with security := { s.security with rollback := updAt s.security.rollback k (· + 1) } } :=
  by
  refine ⟨committing, 0, 0, _, ?_, ?_, ?_, rfl⟩ <;> decide +kernel

theorem witness_RootOfTrustActs_9 :
    ∃ (s : State) (k : Nat), lowCounter s = some k :=
  ⟨committing, 0, by decide +kernel⟩

/-! `PowerAndTemperatureAreHeld`: states and operands that meet its hypotheses, clause by clause. -/

theorem witness_PowerAndTemperatureAreHeld_0 :
    ∃ (s : State), moving s = false ∧ ent Ent.opMin s < s.power.opPoint :=
  ⟨{ up with power := { up.power with opPoint := 3 } }, by decide +kernel⟩

theorem witness_PowerAndTemperatureAreHeld_1 :
    ∃ (s : State) (_faster : Bool), moving s = true :=
  ⟨{ up with power := { up.power with moveUntil := some 10000000001 } }, true, by decide +kernel⟩

theorem witness_PowerAndTemperatureAreHeld_2 :
    ∃ (s : State), moving s = false ∧ s.power.opPoint < 3 :=
  ⟨{ up with power := { up.power with opPoint := 2 } }, by decide +kernel⟩

theorem witness_PowerAndTemperatureAreHeld_3 :
    ∃ (s : State), s.power.opPoint ≤ ent Ent.opMin s :=
  ⟨up, by decide +kernel⟩

theorem witness_PowerAndTemperatureAreHeld_4 :
    ∃ (watts _demand : Nat) (s : State), watts < 65536 ∧ s.power.capNext = none ∧ s.power.cap * 97 < watts * 100 ∧
      s.power.throttle < 16 :=
  ⟨1747, 0, up, by decide +kernel⟩

theorem witness_PowerAndTemperatureAreHeld_5 :
    ∃ (req : ReqId) (value : Nat) (s : State), value < 65536 ∧ Accepted req 0x2C00 0x01 (leBytes 2 value) s :=
  ⟨owner, 1800, up, by unfold Accepted; decide +kernel⟩

theorem witness_PowerAndTemperatureAreHeld_6 :
    ∃ (temps : List Int) (s : State) (i : Nat), temps.length = 31 ∧ i < 31 ∧ sensorLimit i (ent Ent.alarmC s) <
      temps.getD i 0 ∧ s.power.alarm = false :=
  ⟨List.replicate 31 110001, up, 30, by decide +kernel⟩

theorem witness_PowerAndTemperatureAreHeld_7 :
    ∃ (s : State) (i : Nat), i < 31 ∧ sensorLimit i 115 ≤ s.power.temps.getD i 0 ∧ s.power.tripped = false ∧
      s.recovery.powerGood = true :=
  ⟨at_ 115000, 30, by decide +kernel⟩

theorem witness_PowerAndTemperatureAreHeld_8 :
    ∃ (req : ReqId) (value : Nat) (s : State), Accepted req 0x2C00 0x10 (leBytes 1 value) s ∧ s.power.tripped = false
      ∧ s.recovery.powerGood = true :=
  ⟨.t1s 0, 1, up, by unfold Accepted; decide +kernel⟩

theorem witness_PowerAndTemperatureAreHeld_9 :
    ∃ (ns : Nat) (_s : State), 100 ≤ ns :=
  ⟨100, up, by decide +kernel⟩

theorem witness_PowerAndTemperatureAreHeld_10 :
    ∃ (ns : Nat) (_s : State), ns < 50 :=
  ⟨49, up, by decide +kernel⟩

/-! `ClocksAndDomainsFollow`: states and operands that meet its hypotheses, clause by clause. -/

theorem witness_ClocksAndDomainsFollow_0 :
    ∃ (s : State), s.power.refClockOk = true :=
  ⟨up, by decide +kernel⟩

theorem witness_ClocksAndDomainsFollow_1 :
    ∃ (s : State), s.power.refClockOk = false :=
  ⟨{ up with power := { up.power with refClockOk := false } }, by decide +kernel⟩

theorem witness_ClocksAndDomainsFollow_2 :
    ∃ (cg : Nat) (s : State) (g : GroupPower) (u v : State), cg < 16 ∧ u = settleGroups s ∧ cg < u.power.groups.length
      ∧ g = u.power.groups.getD cg GroupPower.reset ∧ s.power.mainOn = true ∧ 1 ≤ g.code ∧ g.code ≤ 4 ∧ g.wakeAfter =
      false ∧ v = settleGroups u :=
  by
  refine ⟨15, asleep 0 4, ((settleGroups (asleep 0 4)).power.groups.getD 15 GroupPower.reset), _, _, ?_, rfl, ?_,
    rfl, ?_, ?_, ?_, ?_, rfl⟩ <;> decide +kernel

theorem witness_ClocksAndDomainsFollow_3 :
    ∃ (cg : Nat) (s : State) (g : GroupPower), cg < 16 ∧ cg < s.power.groups.length ∧ g = s.power.groups.getD cg
      GroupPower.reset ∧ g.code = 5 ∧ g.left = 0 ∧ g.until_ ≤ s.now ∧ g.other ≠ 4 ∧ s.power.stageReload.getD (cg / 8)
      false = false :=
  ⟨15, { up with power := { up.power with groups := List.replicate 16 { GroupPower.reset with code := 5, other := 0, left := 0 } } },
    { GroupPower.reset with code := 5, other := 0, left := 0 }, by decide +kernel⟩

theorem witness_ClocksAndDomainsFollow_4 :
    ∃ (s : State), netWanted s = true ∧ s.power.mainOn = true ∧ s.power.netOn = false :=
  ⟨{ svc with dict := { svc.dict with values := [(Ent.svcEnable, [1])] }, power := { svc.power with netOn := false } }, by decide +kernel⟩

theorem witness_ClocksAndDomainsFollow_5 :
    ∃ (s : State) (since : Nat), s.power.netOn = true ∧ s.job.state = jobRunning ∧ ent Ent.svcEnable s = 0 ∧
      s.fabric.state = 0 ∧ s.security.owners = [] ∧ s.power.netIdleSince = some since ∧ since + 1000000000 ≤ s.now :=
  ⟨{ up with power := { up.power with netIdleSince := some 9000000000 }, security := { up.security with owners := [] } }, 9000000000, by decide +kernel⟩

theorem witness_ClocksAndDomainsFollow_6 :
    ∃ (s : State), s.power.mainOn = true ∧ s.job.state = jobDeploying ∧ s.power.cold = 2 :=
  ⟨{ up with job := { up.job with state := jobDeploying }, power := { up.power with cold := 2 } }, by decide +kernel⟩

theorem witness_ClocksAndDomainsFollow_7 :
    ∃ (s : State), coldUp s = false :=
  ⟨{ up with power := { up.power with cold := 0, coldUntil := some 10000000001 } }, by decide +kernel⟩

theorem witness_ClocksAndDomainsFollow_8 :
    ∃ (s : State), s.power.cold = 0 ∧ coldUp s = true ∧ s.power.coldLast + ent Ent.coldIdleNs s ≤ s.now :=
  ⟨up, by decide +kernel⟩

theorem witness_ClocksAndDomainsFollow_9 :
    ∃ (s : State), s.power.cold = 1 :=
  ⟨{ up with power := { up.power with cold := 1 } }, by decide +kernel⟩

theorem witness_ClocksAndDomainsFollow_10 :
    ∃ (s : State), s.job.state ≠ jobRunning ∧ s.power.coldWaits = [] :=
  ⟨idle, by decide +kernel⟩

theorem witness_ClocksAndDomainsFollow_11 :
    ∃ (s : State) (req : ReqId) (bytes : List Byte) (u : State), s.power.coldWaits = [(req, Ent.contextCreate, bytes)]
      ∧ u = powerTick s ∧ coldUp u = true :=
  ⟨{ up with power := { up.power with coldWaits := [(owner, Ent.contextCreate, leBytes 32 1)] } }, owner, leBytes 32 1, _, rfl, rfl, by decide +kernel⟩

theorem witness_ClocksAndDomainsFollow_12 :
    ∃ (s : State) (g : Machine.Graph) (v : GraphVersion), s.power.bivState = 1 ∧ bivGraphOf s = some (g, v) :=
  ⟨bivouacking 0, { aGraph [] with versions := [{ aVersion [] with weights := [{ offset := 0, bytes := 1, staging := false, target := 0, data := [0] }] }] },
    { aVersion [] with weights := [{ offset := 0, bytes := 1, staging := false, target := 0, data := [0] }] }, by decide +kernel⟩

/-! `ResetsAndJobFaultsRestart`: states and operands that meet its hypotheses, clause by clause. -/

theorem witness_ResetsAndJobFaultsRestart_0 :
    ∃ (s : State) (i : Instr) (c : Nat) (req : ReqId) (value : Nat), s.recovery.powerGood = true ∧ s.power.tripped =
      false ∧ ((i = .modResetN 1000 ∧ c = 1) ∨ (s.recovery.hubRunning = true ∧ i = .watchdogExpiry ∧ c = 3) ∨
      (Accepted req 0x2D00 0x01 (leBytes 1 value) s ∧ i = .coldReset req value ∧ c = 2)) :=
  ⟨up, .modResetN 1000, 1, owner, 0, by decide +kernel, by decide +kernel, Or.inl ⟨rfl, rfl⟩⟩

theorem witness_ResetsAndJobFaultsRestart_1 :
    ∃ (ns : Nat) (_s : State), ns < 1000 :=
  ⟨999, up, by decide +kernel⟩

theorem witness_ResetsAndJobFaultsRestart_2 :
    ∃ (s : State), s.recovery.powerGood = true ∧ s.power.tripped = true ∧ tooHot s = true :=
  ⟨{ at_ 120000 with power := { (at_ 120000).power with tripped := true } }, by decide +kernel⟩

theorem witness_ResetsAndJobFaultsRestart_3 :
    ∃ (s : State), s.recovery.powerGood = true ∧ s.recovery.heldReset = none ∧ starting s = true ∧ s.pins.modResetN =
      true ∧ s.pins.refPresent = true ∧ fallbackImage s = none :=
  ⟨State.reset, by decide +kernel⟩

theorem witness_ResetsAndJobFaultsRestart_4 :
    ∃ (s : State), s.recovery.powerGood = true ∧ s.recovery.heldReset = none ∧ starting s = true ∧ s.pins.modResetN =
      true ∧ s.pins.refPresent = true ∧ s.recovery.bootStage = 2 :=
  ⟨{ State.reset with recovery := { State.reset.recovery with bootStage := 2 } }, by decide +kernel⟩

theorem witness_ResetsAndJobFaultsRestart_5 :
    ∃ (s : State) (x : Nat), starting s = true ∧ fallbackImage s = some x :=
  ⟨{ State.reset with recovery := { State.reset.recovery with bootStage := 1, banks := List.replicate 2 (List.replicate 5 none) } }, 0, by decide +kernel⟩

theorem witness_ResetsAndJobFaultsRestart_6 :
    ∃ (s : State) (f : FaultInfo), s.recovery.fault = some f ∧ s.job.state = jobRestarting ∧ s.power.refClockOk = true
      ∧ s.power.refSince = 0 ∧ s.recovery.begun.length < ent Ent.restartLimit s :=
  ⟨faulted [], { time := 0, code := 5 }, by decide +kernel⟩

theorem witness_ResetsAndJobFaultsRestart_7 :
    ∃ (_n : Nat) (_f : FaultInfo) (s : State), ent Ent.restartLimit s ≤ s.recovery.begun.length :=
  ⟨0, { time := 0, code := 5 }, faulted (List.replicate 64 0), by decide +kernel⟩

theorem witness_ResetsAndJobFaultsRestart_8 :
    ∃ (s : State) (f : FaultInfo), s.recovery.fault = some f ∧ s.job.state = jobRestarting ∧ s.power.refClockOk = true
      ∧ s.power.refSince = 0 ∧ ent Ent.restartLimit s ≤ s.recovery.begun.length :=
  ⟨faulted (List.replicate 64 0), { time := 0, code := 5 }, by decide +kernel⟩

theorem witness_ResetsAndJobFaultsRestart_9 :
    ∃ (_code _detail : Nat) (s : State), s.job.state = jobRunning :=
  ⟨5, 0, up, by decide +kernel⟩

theorem witness_ResetsAndJobFaultsRestart_10 :
    ∃ (s : State), s.dispatch.postilionState = 2 ∧ s.recovery.hubRunning = true ∧ s.job.state = jobRunning :=
  ⟨up, by decide +kernel⟩

theorem witness_ResetsAndJobFaultsRestart_11 :
    ∃ (s : State), s.recovery.powerGood = true :=
  ⟨up, by decide +kernel⟩

/-! `FirmwareIsUpdatedOnTrial`: states and operands that meet its hypotheses, clause by clause. -/

theorem witness_FirmwareIsUpdatedOnTrial_0 :
    ∃ (req : ReqId) (value : Nat) (s : State), Accepted req 0x2D00 0x05 (leBytes 1 value) s ∧ value % 256 = 1 ∧
      s.recovery.maint = false :=
  ⟨.t1s 0, 1, idle, by unfold Accepted; decide +kernel⟩

theorem witness_FirmwareIsUpdatedOnTrial_1 :
    ∃ (req : ReqId) (value : Nat) (s : State), Accepted req 0x2D00 0x05 (leBytes 1 value) s ∧ value % 256 ≠ 1 ∧
      s.recovery.maint = false :=
  ⟨.t1s 0, 0, up, by unfold Accepted; decide +kernel⟩

theorem witness_FirmwareIsUpdatedOnTrial_2 :
    ∃ (req : ReqId) (mask : Nat) (s : State), Accepted req 0x6D00 0x01 (leBytes 2 mask) s :=
  ⟨.t1s 0, 0x8001, maintained, by unfold Accepted; decide +kernel⟩

theorem witness_FirmwareIsUpdatedOnTrial_3 :
    ∃ (req : ReqId) (value : List Byte) (s : State), Accepted req 0x2D00 0x06 value s :=
  ⟨.t1s 0, leBytes 4 0 ++ leBytes 4 2 ++ [1, 2], up, by unfold Accepted; decide +kernel⟩

/-- A staged image of the base code (type 0, SVN 1, key slot 0, version 3.0), its body empty, and the key it is signed with. -/
def stagedBytes : SMem :=
  memWrite (memWrite [] 0 (leBytes 8 (0x53544657 * 2 ^ 32 + 1 * 2 ^ 16) ++ leBytes 8 (3 * 2 ^ 24 * 2 ^ 32))) 32 (shake 32 [])
def signingKey : List Byte := memRead stagedBytes 3373 1952
def stagedState : State :=
  { up with recovery := { up.recovery with staging := stagedBytes },
            security := { up.security with fwKeyDigest := [shake256 signingKey, 0], rollback := List.replicate 5 0 } }
def theStaged : StagedImage :=
  { typ := 0,
    image := { version := BitVec.ofNat 32 (3 * 2 ^ 24), svn := 1, keySlot := 0, digest := shake256 (memRead stagedBytes 0 64), intact := true },
    signed := memRead stagedBytes 0 64, signature := memRead stagedBytes 64 3309, key := signingKey, digestOk := true }

theorem stagedBytes_read (b n : Nat) (h : b + n ≤ 32) :
    memRead stagedBytes b n =
      memRead (memWrite [] 0 (leBytes 8 (0x53544657 * 2 ^ 32 + 1 * 2 ^ 16) ++ leBytes 8 (3 * 2 ^ 24 * 2 ^ 32))) b n :=
  memRead_memWrite_disjoint _ 32 b n _ (memWrite_wf _ _ _ rfl) (Or.inl h)

theorem stagedBytes_digest : memRead stagedBytes 32 32 = shake 32 [] := by
  have h := memRead_memWrite (memWrite [] 0 (leBytes 8 (0x53544657 * 2 ^ 32 + 1 * 2 ^ 16) ++ leBytes 8 (3 * 2 ^ 24 * 2 ^ 32))) 32
    (shake 32 []) (memWrite_wf _ _ _ rfl)
  rw [show (shake 32 []).length = 32 by simp [shake]] at h
  exact h

theorem witness_FirmwareIsUpdatedOnTrial_4 :
    ∃ (req : ReqId) (value : Nat) (s : State) (x : StagedImage), value < 2 ^ 32 ∧ Accepted req 0x2D00 0x07 (leBytes 4 value) s ∧
      stagedImage value s = some x ∧ x.typ < 5 ∧ s.recovery.active < 2 ∧ s.recovery.banks.length = 2 := by
  refine ⟨.t1s 0, 5325, stagedState, theStaged, by decide, by unfold Accepted; decide +kernel, ?_, by decide, by decide +kernel, by decide +kernel⟩
  have h0 : ofLe (memRead stagedBytes 0 8) = 0x53544657 * 2 ^ 32 + 1 * 2 ^ 16 := by rw [stagedBytes_read _ _ (by omega)]; decide +kernel
  have h8 : ofLe (memRead stagedBytes 8 8) = 3 * 2 ^ 24 * 2 ^ 32 := by rw [stagedBytes_read _ _ (by omega)]; decide +kernel
  have h16 : ofLe (memRead stagedBytes 16 8) = 0 := by rw [stagedBytes_read _ _ (by omega)]; decide +kernel
  have h24 : ofLe (memRead stagedBytes 24 8) = 0 := by rw [stagedBytes_read _ _ (by omega)]; decide +kernel
  simp only [stagedImage, show stagedState.recovery.staging = stagedBytes from rfl, h0, h8, h16, h24]
  rw [if_neg (by decide +kernel)]
  rw [show memRead stagedBytes 64 0 = [] from rfl, stagedBytes_digest, BEq.rfl]
  rfl

theorem witness_FirmwareIsUpdatedOnTrial_5 :
    ∃ (req : ReqId) (value : Nat) (s : State), Accepted req 0x2D00 0x08 (leBytes 1 value) s :=
  ⟨.t1s 0, 1, up, by unfold Accepted; decide +kernel⟩

theorem witness_FirmwareIsUpdatedOnTrial_6 :
    ∃ (req : ReqId) (value : Nat) (s : State), Accepted req 0x2D00 0x09 (leBytes 1 value) s ∧ s.recovery.trial = true
      ∧ s.recovery.running = s.recovery.next ∧ s.recovery.running ≠ s.recovery.active :=
  ⟨.t1s 0, 1, { up with recovery := { up.recovery with trial := true, running := 1, next := 1 } }, by unfold Accepted; decide +kernel⟩

theorem witness_FirmwareIsUpdatedOnTrial_7 :
    ∃ (req : ReqId) (value : Nat) (s : State), Accepted req 0x2D00 0x05 (leBytes 1 value) s ∧ value % 256 = 1 ∧
      s.recovery.maint = true :=
  ⟨.t1s 0, 1, maintained, by unfold Accepted; decide +kernel⟩

theorem witness_FirmwareIsUpdatedOnTrial_8 :
    ∃ (req : ReqId) (value : Nat) (s : State), Accepted req 0x2D00 0x05 (leBytes 1 value) s ∧ value % 256 ≠ 1 ∧
      s.recovery.maint = true :=
  ⟨.t1s 0, 0, maintained, by unfold Accepted; decide +kernel⟩

theorem witness_FirmwareIsUpdatedOnTrial_10 :
    ∃ (value : List Byte) (i : Nat), i < leAt value 4 4 :=
  ⟨leBytes 8 (4096 * 2 ^ 32) ++ [7], 4095, by decide +kernel⟩

theorem witness_FirmwareIsUpdatedOnTrial_12 :
    ∃ (req : ReqId) (value : Nat) (s : State), value < 2 ^ 32 ∧ Accepted req 0x2D00 0x07 (leBytes 4 value) s ∧
      stagedImage value s = none :=
  ⟨.t1s 0, 5, up, by unfold Accepted; decide +kernel⟩

theorem witness_FirmwareIsUpdatedOnTrial_13 :
    ∃ (req : ReqId) (value : Nat) (s : State), Accepted req 0x2D00 0x09 (leBytes 1 value) s ∧ (s.recovery.trial =
      false ∨ s.recovery.running ≠ s.recovery.next ∨ s.recovery.running = s.recovery.active) :=
  ⟨.t1s 0, 1, up, by unfold Accepted; decide +kernel⟩

/-! Ill-formed commands, one for each check of well-formedness, are refused. -/

abbrev farEndpoint : Endpoint := { v6 := false, addr := 2 ^ 32, port := 1 }
abbrev farPort : Endpoint := { v6 := true, addr := 0, port := 65536 }

theorem test_illFormed_0 :
    List.all [
    .lorjoSegmentRx 4 client client { bytes := [] }, .lorjoSegmentRx 0 farEndpoint client { bytes := [] },
    .lorjoSegmentRx 0 farPort client { bytes := [] }, .lorjoSegmentRx 0 client farEndpoint { bytes := [] },
    .lorjoSegmentRx 0 client farPort { bytes := [] }, .reassemblyTimeout farEndpoint 0, .reassemblyTimeout farPort 0,
    .keepalive 4 client client { bytes := [] }, .keepalive 0 farEndpoint client { bytes := [] },
    .keepalive 0 farPort client { bytes := [] }, .keepalive 0 client farEndpoint { bytes := [] },
    .keepalive 0 client farPort { bytes := [] }, .probe 4 client client { bytes := [] },
    .probe 0 farEndpoint client { bytes := [] }, .probe 0 farPort client { bytes := [] },
    .probe 0 client farEndpoint { bytes := [] }, .probe 0 client farPort { bytes := [] }, .responseTransmit 4,
    .bindingEnable .window 16 0, .bindingEnable .window 0 (256 ^ 1), .svcEnable .window (256 ^ 1), .lookup 98 0 {},
    .lookup 0 0 { queue := 64 }, .lookup 0 0 { context := 256 }, .lookup 0 0 { stage := 65536 },
    .laneServe 0 { lane := 384 }, .laneServe 0 { lane := 0, errors := [(0, 37)] }, .stackReduce 0 12,
    .bagCombine 0 65536, .remoteTimeout 0 4096, .tableDelete .window (256 ^ 2), .tableDeleteComplete 65536,
    .rowWrite 98 0 {}, .rowWrite 0 0 { queue := 64 }, .rowWrite 0 0 { context := 256 },
    .rowWrite 0 0 { stage := 65536 }, .immediateWriteChunk 0 384, .rowStage 0 384, .deferredRowRetry 0 384,
    .batchOpen 98 0 {}] (fun i => !Instr.wf i) = true := by decide +kernel

theorem test_illFormed_1 :
    List.all [
    .batchOpen 0 0 { queue := 64 }, .batchOpen 0 0 { context := 256 }, .batchOpen 0 0 { stage := 65536 },
    .batchCommit 98 0 {}, .batchCommit 0 0 { queue := 64 }, .batchCommit 0 0 { context := 256 },
    .batchCommit 0 0 { stage := 65536 }, .batchAbort 98 0 {}, .batchAbort 0 0 { queue := 64 },
    .batchAbort 0 0 { context := 256 }, .batchAbort 0 0 { stage := 65536 }, .backgroundCopy 384,
    .remoteCommitTimeout 0 4096, .matmul 98 0 {}, .matmul 0 0 { queue := 64 }, .matmul 0 0 { context := 256 },
    .matmul 0 0 { stage := 65536 }, .tileStream 98, .chainDrain 98 0, .chainDrain 0 512, .chainReplay 98 0,
    .chainReplay 0 512, .tilePreempt 98, .vsetl 98 0, .vld 98 0, .vst 98 0, .vopVv 98 0, .vopVx 98 0, .vcvt 98 0,
    .vun 98 0, .vred 98 0, .vtopkSet 98 0, .vtopkInsert 98 0, .vtopkStore 98 0, .vtopkFloor 98 0, .eissue 98 0,
    .efence 98 0, .smrd 98 0, .hwait 98 0, .hsig 98 0] (fun i => !Instr.wf i) = true := by decide +kernel

theorem test_illFormed_2 :
    List.all [
    .sfop 98 0, .resolve 98 0, .taskend 98 0, .baseInstruction 98 0, .timerInterrupt 98, .qworkInterrupt 98,
    .taskStart 98, .taskLimitExpiry 98, .vtensor 98 0 {}, .vtensor 0 0 { queue := 64 },
    .vtensor 0 0 { context := 256 }, .vtensor 0 0 { stage := 65536 }, .seqSummary 98 0 {},
    .seqSummary 0 0 { queue := 64 }, .seqSummary 0 0 { context := 256 }, .seqSummary 0 0 { stage := 65536 },
    .appendStage 0 65536, .transfer 98 0 {}, .transfer 0 0 { queue := 64 }, .transfer 0 0 { context := 256 },
    .transfer 0 0 { stage := 65536 }, .caravan 98 0 {}, .caravan 0 0 { queue := 64 }, .caravan 0 0 { context := 256 },
    .caravan 0 0 { stage := 65536 }, .tileRequest { transfer := 0, errors := [(0, 37)] }, .weightRingStart 98,
    .catchupFetch 0 96, .stageBarrier 0 65536, .stagePrologue 0 65536, .residentSegmentLoad 16,
    .tailDoorbell 64 { value := 0 }, .tailDoorbell 0 { bytes := 0, value := 0 },
    .tailDoorbell 0 { bytes := 8, offset := 1, value := 0 }, .phaseRetry 66, .cqHeadDoorbell 64 { value := 0 },
    .cqHeadDoorbell 0 { bytes := 0, value := 0 }, .cqHeadDoorbell 0 { bytes := 8, offset := 1, value := 0 }, .nop 64,
    .launch 64] (fun i => !Instr.wf i) = true := by decide +kernel

theorem test_illFormed_3 :
    List.all [
    .descriptor 64, .inlineWrite 64, .graphLoad 64, .graphPatch 64, .graphUnload 64, .task 64, .commandWaitMet 64,
    .hitchTimeout (some 64) none, .hitchTimeout none (some 98), .commandCompletion 65 0, .stageDispatch 0 65536,
    .queueEnable .window 64 0, .queueEnable .window 0 (256 ^ 1), .queueDrainDone 64, .patchSlotTimeout 64 0,
    .versionFree 65536 0, .specDispatch 0 65536, .predictReset .window (256 ^ 1), .lqCtrlWrite 65536 { value := 0 },
    .lqCtrlWrite 0 { bytes := 0, value := 0 }, .lqCtrlWrite 0 { bytes := 8, offset := 1, value := 0 },
    .sqTail { bytes := 0, value := 0 }, .sqTail { bytes := 8, offset := 1, value := 0 },
    .legacyCqHead { bytes := 0, value := 0 }, .legacyCqHead { bytes := 8, offset := 1, value := 0 },
    .jobUndeploy .window (256 ^ 1), .contextDelete .window (256 ^ 1), .schedCommit .window (256 ^ 1), .reclaim 96,
    .predictiveWake 16, .idleStepDown 16, .rowRemap { mpa := 0, errors := [(0, 37)] }, .repairRun .window (256 ^ 1),
    .mapTail { bytes := 0, value := 0 }, .mapTail { bytes := 8, offset := 1, value := 0 }, .pageFault 548 0 .read,
    .fqHead { bytes := 0, value := 0 }, .fqHead { bytes := 8, offset := 1, value := 0 },
    .fqOverflowClear .window (256 ^ 1), .faultReplay 548] (fun i => !Instr.wf i) = true := by decide +kernel

theorem test_illFormed_4 :
    List.all [
    .bar2Read { offset := 2 ^ 38 } 8, .bar2Read { offset := 0, errors := [(0, 37)] } 8, .bar2Read { offset := 0 } 0,
    .bar2Read { offset := 0 } 4097, .bar2Write (2 ^ 38) [], .bar2Write 0 (List.replicate 4097 0),
    .bar2Atomic (2 ^ 38) .swap 8 0 0, .bar2Atomic 0 .swap 2 0 0, .eventCauseClear { bytes := 0, value := 0 },
    .eventCauseClear { bytes := 8, offset := 1, value := 0 }, .linkTraining { highest := 256 } 0,
    .linkTraining { highest := 7, trained := 256 } 0, .linkTraining { highest := 7 } 256,
    .dmaRequestError (2 ^ 64) 0 0, .dmaRequestError 0 548 0, .dmaRequestError 0 0 (2 ^ 64),
    .dwGo (List.replicate 2049 0) { value := 0 }, .dwGo [] { bytes := 0, value := 0 },
    .dwGo [] { bytes := 8, offset := 1, value := 0 }, .fabricJoin .window (256 ^ 1), .fabricLeave .window (256 ^ 1),
    .hello 16 [], .accept 16 [], .finish 16 [], .handshakeTimeout 4096, .fabricDataRx 16 false [],
    .fabricAckRx 16 false [], .ackTimer 4096, .retransmitTimeout 4096 0, .cwndUpdate 4096, .rekey 4096,
    .pathMove 4096 0 false, .pathMove 0 4 false, .fabricLoadServe 4096 0, .fabricStoreServe 4096 0,
    .fabricAtomicServe 4096 0, .fabricSignalServe 4096 0, .fabricLookupServe 4096 0, .fabricRowStage 4096 0,
    .fabricBatchCommit 4096 0] (fun i => !Instr.wf i) = true := by decide +kernel

theorem test_illFormed_5 :
    List.all [
    .fabricBatchAbort 4096 0, .fabricResponseRx 4096 [], .opTimeout 4096 0, .closeRx 16 [], .peerDead 4096,
    .keepaliveAckTimer 4096, .fabricAtomic 98 0 {}, .fabricAtomic 0 0 { queue := 64 },
    .fabricAtomic 0 0 { context := 256 }, .fabricAtomic 0 0 { stage := 65536 }, .fabricBarrier 98 0 {},
    .fabricBarrier 0 0 { queue := 64 }, .fabricBarrier 0 0 { context := 256 }, .fabricBarrier 0 0 { stage := 65536 },
    .fabricBroadcast 98 0 {}, .fabricBroadcast 0 0 { queue := 64 }, .fabricBroadcast 0 0 { context := 256 },
    .fabricBroadcast 0 0 { stage := 65536 }, .fabricSnapshot 98 0 {}, .fabricSnapshot 0 0 { queue := 64 },
    .fabricSnapshot 0 0 { context := 256 }, .fabricSnapshot 0 0 { stage := 65536 }, .globalTimeout 16,
    .ggroupEnable .window 16 0, .ggroupEnable .window 0 (256 ^ 1),
    .ownerOpen (some { iface := 16, peer := client, here := server }) [],
    .ownerOpen (some { iface := 0, peer := farPort, here := server }) [],
    .ownerOpen (some { iface := 0, peer := client, here := farPort }) [],
    .ownerHandshakeTimeout (some { iface := 16, peer := client, here := server }),
    .ownerHandshakeTimeout (some { iface := 0, peer := farPort, here := server }),
    .ownerHandshakeTimeout (some { iface := 0, peer := client, here := farPort }),
    .ownerDict (some { iface := 16, peer := client, here := server }) [],
    .ownerDict (some { iface := 0, peer := farPort, here := server }) [],
    .ownerDict (some { iface := 0, peer := client, here := farPort }) [],
    .ownerStage (some { iface := 16, peer := client, here := server }) [],
    .ownerStage (some { iface := 0, peer := farPort, here := server }) [],
    .ownerStage (some { iface := 0, peer := client, here := farPort }) [],
    .ownerCommand (some { iface := 16, peer := client, here := server }) [],
    .ownerCommand (some { iface := 0, peer := farPort, here := server }) [],
    .ownerCommand (some { iface := 0, peer := client, here := farPort }) []] (fun i => !Instr.wf i) = true := by decide +kernel

theorem test_illFormed_6 :
    List.all [
    .ownerMap (some { iface := 16, peer := client, here := server }) [],
    .ownerMap (some { iface := 0, peer := farPort, here := server }) [],
    .ownerMap (some { iface := 0, peer := client, here := farPort }) [],
    .ownerClose (some { iface := 16, peer := client, here := server }) [],
    .ownerClose (some { iface := 0, peer := farPort, here := server }) [],
    .ownerClose (some { iface := 0, peer := client, here := farPort }) [], .relayOut .window 1025,
    .rollbackCommit .window (256 ^ 1), .keyWipe .window (256 ^ 1), .capProjection 65536 0, .capProjection 0 65536,
    .powerCapWrite .window (256 ^ 2), .sensorSample [], .powerOff .window (256 ^ 1), .cgWake 16, .cgWakeComplete 16,
    .coldReset .window (256 ^ 1), .maintMode .window (256 ^ 1), .cgReset .window (256 ^ 2),
    .fwInstall .window (256 ^ 4), .fwActivate .window (256 ^ 1), .fwConfirm .window (256 ^ 1),
    .dictRead .window { bytes := List.replicate 2049 0 }, .dictWrite .window { bytes := List.replicate 2049 0 },
    .multiWrite .window { bytes := List.replicate 2049 0 }, .multiRead .window { bytes := List.replicate 2049 0 },
    .wbClear .window (256 ^ 1), .interfaceUp 16, .globalOperationRx 4096 [], .sessionRetry 4096,
    .msixTableWrite 2048 { value := 0 }, .msixTableWrite 4 { value := 0 },
    .msixTableWrite 0 { bytes := 0, value := 0 }, .msixTableWrite 0 { bytes := 8, offset := 1, value := 0 },
    .bar2Resize 0, .bar2Resize 257, .bar2Resize 3, .neighborDiscoveryFrame 16 false false 0 0 0,
    .neighborDiscoveryFrame 0 false false (2 ^ 32) 0 0, .neighborDiscoveryFrame 0 false false 0 (2 ^ 32) 0] (fun i => !Instr.wf i) = true := by decide +kernel

/-- Commands that carry more bytes than any frame holds. -/
theorem test_illFormed_long (l : List Byte) (h : 65536 < l.length) :
    List.all [
    .lorjoSegmentRx 0 client client { bytes := l }, .keepalive 0 client client { bytes := l },
    .probe 0 client client { bytes := l }, .keyLoad .window l, .peerSet .window l, .hello 0 l, .accept 0 l,
    .finish 0 l, .fabricDataRx 0 false l, .fabricAckRx 0 false l, .fabricResponseRx 0 l, .closeRx 0 l,
    .ownerOpen none l, .ownerDict none l, .ownerStage none l, .ownerCommand none l, .ownerMap none l,
    .ownerClose none l, .relayIn .window l, .quoteNonce .window l, .measureExtend .window l, .fwWrite .window l,
    .globalOperationRx 0 l] (fun i => !Instr.wf i) = true := by
  have h : ¬ l.length ≤ 65536 := Nat.not_le.mpr h
  simp [Instr.wf, h]

/-! Numbers of the spec's own worked examples. -/

/-- 02, the worked example's header words of segments 0 and 2 (R36, R37). -/
theorem test_lorjo_words :
    parseLorjo (beBytes 8 0x4C4A21A0008022B0 ++ beBytes 8 0 ++ beBytes 8 0x00000310006407D0 ++ beBytes 8 0x000124F800000017 ++
        List.replicate 16 0) =
      { ver := 2, typ := 1, secure := true, exitOk := true, segNo := 0, segLast := 2, segLen := 8880, modelId := 0x310,
        topK := 100, candCount := 2000, budgetNs := 75000, keyId := 0x17 } ∧
    ((parseLorjo (beBytes 8 0x4C4A21A010800ED8 ++ List.replicate 40 0)).segNo,
      (parseLorjo (beBytes 8 0x4C4A21A010800ED8 ++ List.replicate 40 0)).segLen) = (2, 3800) := by decide +kernel

/-- 03, table 0x01C: INT8 elements, DIM 128, a BF16 scale per row, hashed indices, slots of 128 bytes, STACK_MASK 0x03F. -/
theorem test_table_words :
    let t := descOf [0x01C140270080003F, 0x0000000000989680]
    (df t 0 63 52, tFmt t, tDim t, tScales t, tOffset t, tIndexMode t, tMask t) = (0x01C, 1, 128, 1, false, 2, 0x03F) ∧
    tRows t * 2 ^ tSlotLog t = 1280000000 ∧ tRows t * tRecSize t = 20000000 ∧ tVersioned t = false := by decide +kernel

/-- 03, the lookup descriptor of the worked example. -/
theorem test_lookup_words :
    let d := descOf [0x2196005F0000002A, 0, 0, 0x005F0C1200000000, 0, 0, 0x00002F8000310100, 0]
    (lMode d, lOutFmt d, lIdxFmt d, lConcat d, lBags d, lTag d) = (4, 5, 2, 95, 42, 0x0C12) ∧
    (lStride d, lSpec d, lProgress d, lookupFieldsOk d) = (12160, 0x31, 1, true) := by decide +kernel

/-- 10, the LAUNCH and the NOP of the worked example: opcodes, extension slots, tags, the wait for 7 or more, ORDERED. -/
def exLaunch : Cmd :=
  { aCmd 0 .fetched with
    words := descOf [0x0192390000000A51, 0x0000004000001000, 7, 0, 0x0000004000001008, 1, 0x0012000040000064, 0] }
def exNop : Cmd := { aCmd 0 .fetched with words := descOf [0x0020318000000A52] }
theorem test_launch_words :
    (cmdOpcode exLaunch, cf exLaunch 0 50 48, cmdTag exLaunch) = (1, 2, 0xA51) ∧ cb exLaunch 43 = true ∧ cb exLaunch 40 = true ∧
    waitHolds exLaunch 7 = true ∧ waitHolds exLaunch 6 = false ∧ badCommand 3 exLaunch (queued 1 []) = false := by decide +kernel
theorem test_nop_words :
    (cmdOpcode exNop, cmdTag exNop) = (0, 0xA52) ∧ cb exNop 53 = true ∧ cb exNop 43 = false ∧ cb exNop 40 = true ∧
    cb exNop 39 = true ∧ badCommand 3 exNop (queued 1 []) = false := by decide +kernel

/-- 12, the DMA of the worked example. -/
theorem test_legacy_words :
    let c := { aCmd 0 .fetched with words := descOf [0x0182000000000101, 0x0000004000200000, 0x0000008000000000, 0x00000000FF100000] }
    (cmdOpcode c, cmdTag c) = (1, 0x0101) := by decide +kernel

/-- 13, context 1 of the worked example, and its slot entries of slots 96 to 127. -/
theorem test_context_words :
    let d := BitVec.ofNat 256 (0x01C0001000400000 + 0x0080000000000000 * 2 ^ 64 + 0x00000003B9ACA000 * 2 ^ 128)
    (kNum d, kMask d, kSram d, kStaging d, kAcc d, kw d 2, ctxBad d) = (1, 0xC000, 4194304, 8388608, 512, 16000000000, false) ∧
    reservations 0xC8103FFFC0000000 = [(8, 0x3FFF), (4, 0xC000)] ∧ slotOk 0xC8103FFFC0000000 = true ∧
    slotOk (0x88003FFF00000000 + 0x0000400000000000 * 2 ^ 64) = true := by decide +kernel

/-- 14, the granule of the worked example lies on channel 0 of Stack[7] (R379). -/
theorem test_granule_lane : hbmChannel 0x0ABCDC00 = 0 ∧ laneOf 0x7000ABCDC00 = 32 * 7 := by decide +kernel

/-- 15 and 16, the pages of the worked examples are homed on Stack[4] and Stack[2], outside the module range; the PTE of the
first (R403, R404). -/
theorem test_home_stacks :
    homeStack 0x00007F3A12345000 = 4 ∧ homeStack 0x0000008000400000 = 2 ∧ inModuleRange 0x00007F3A12345000 = false ∧
    inModuleRange 0x0000008000400000 = false ∧ mkPte 0 1 0x1234567 = 0x11234567 := by decide +kernel

/-- 17, the packet of the worked example and its nonce (R459, R460, R461). -/
theorem test_fabric_words :
    pktOf (beBytes 8 0x4D421180123A7100 ++ beBytes 8 0x0000000300001C40 ++ beBytes 8 0 ++ beBytes 8 0x1010010200000000 ++ beBytes 8 0) =
      some { typ := 1, cls := 2, ackReq := false, ece := false, src := 0x012, dst := 0x3A7, frag := 0, epoch := 3, psn := 0x1C40,
             ackPsn := 0, sack := 0, length := 4112, gen := 2, ts := 0, tsEcho := 0 } ∧
    fabNonce [0x5E, 0x1F, 0x0A, 0x33] 3 0x1C40 = [0x5E, 0x1F, 0x0A, 0x33, 0, 0, 0, 3, 0, 0, 0x1C, 0x40] ∧
    recOpcode (leBytes 8 0x020010000000A210) = 2 ∧ recSeq (leBytes 8 0x020010000000A210) = 0xA210 := by
  exact ⟨rfl, by decide +kernel⟩

/-- 18, the COMMAND record of the worked example (Table 18.3). -/
theorem test_owner_words :
    (parseOwner (leBytes 8 0x4F43130300000040 ++ List.replicate (24 + 0x40 + 16) 0)).map (fun r => (r.typ, r.kind)) = some (3, 3) := by
  decide +kernel

end Sys2Proof.Tests
end

section
/-! SUPPORT. The BAR2 window: what an access through the hub TLB and a write at a device virtual address leave as they were,
and what each BAR2 command does (R432 to R435). -/

namespace Sys2Proof.Machine

open Sys2Proof

/-- A view of a folded value that no single element changes is not changed by the fold. -/
theorem foldl_view {α β γ : Type} (view : β → γ) (f : β → α → β) (h : ∀ b a, view (f b a) = view b) (l : List α) (b : β) :
    view (l.foldl f b) = view b := by
  induction l generalizing b with
  | nil => rfl
  | cons a l ih => rw [List.foldl_cons, ih, h]

/-! An access through the hub TLB touches TLBs, counters and the cold tier's power state (R397, R407). -/

theorem touchPteCache_frame (page : Nat) (s : State) :
    touchPteCache page s = { s with dict := (touchPteCache page s).dict,
                                    xlate := { s.xlate with pteCache := (touchPteCache page s).xlate.pteCache } } := by
  unfold touchPteCache
  split <;> rfl

theorem touchHub_frame (page : Nat) (s : State) :
    touchHub page s = { s with dict := (touchHub page s).dict,
                               xlate := { s.xlate with pteCache := (touchHub page s).xlate.pteCache,
                                                       hubTlb := (touchHub page s).xlate.hubTlb } } := by
  unfold touchHub
  split
  · rfl
  · simp only [count]; rw [touchPteCache_frame]

theorem touchCold_frame (s : State) : touchCold s = { s with power := (touchCold s).power } := by
  unfold touchCold switchColdOn
  split
  · split <;> rfl
  · split <;> rfl

theorem hubPage_frame (page : Nat) (s : State) :
    hubPage page s = { s with dict := (hubPage page s).dict, power := (hubPage page s).power,
                              xlate := { s.xlate with pteCache := (hubPage page s).xlate.pteCache,
                                                      hubTlb := (hubPage page s).xlate.hubTlb } } := by
  unfold hubPage
  split
  · rw [touchCold_frame, touchHub_frame]
  · rw [touchHub_frame]

@[simp] theorem hubAccess_mem (va n : Nat) (s : State) : (hubAccess va n s).mem = s.mem :=
  foldl_view State.mem _ (fun s p => by rw [hubPage_frame]) _ s
@[simp] theorem hubAccess_hostif (va n : Nat) (s : State) : (hubAccess va n s).hostif = s.hostif :=
  foldl_view State.hostif _ (fun s p => by rw [hubPage_frame]) _ s
@[simp] theorem hubAccess_dispatch (va n : Nat) (s : State) : (hubAccess va n s).dispatch = s.dispatch :=
  foldl_view State.dispatch _ (fun s p => by rw [hubPage_frame]) _ s
@[simp] theorem hubAccess_now (va n : Nat) (s : State) : (hubAccess va n s).now = s.now :=
  foldl_view State.now _ (fun s p => by rw [hubPage_frame]) _ s
@[simp] theorem hubAccess_ptes (va n : Nat) (s : State) : (hubAccess va n s).xlate.ptes = s.xlate.ptes :=
  foldl_view (fun s => s.xlate.ptes) _ (fun s p => by rw [hubPage_frame]) _ s

/-! What translation and a read see of the machine: the memories, the page table and the time. -/

theorem pageView_congr {s t : State} (hm : t.mem = s.mem) (hp : t.xlate.ptes = s.xlate.ptes) (page : Nat) :
    pageView page t = pageView page s := by
  unfold pageView; rw [hm, hp]

theorem devByte_congr {s t : State} (hm : t.mem = s.mem) (hp : t.xlate.ptes = s.xlate.ptes) (hn : t.now = s.now) (va : Nat) :
    devByte t va = devByte s va := by
  unfold devByte mpaOf busOf dramByte
  rw [pageView_congr hm hp, hm, hn]

@[simp] theorem devRead_hubAccess (va n : Nat) (s : State) (va' n' : Nat) :
    devRead (hubAccess va n s) va' n' = devRead s va' n' := by
  unfold devRead
  simp only [devByte_congr (hubAccess_mem va n s) (hubAccess_ptes va n s) (hubAccess_now va n s)]

/-! A write at a device virtual address. -/

theorem takeFrame_frame {r f : Nat} {s t : State} (h : takeFrame r s = some (f, t)) :
    t = { s with mem := { s.mem with alloc := t.mem.alloc } } := by
  unfold takeFrame at h
  simp only [] at h
  split at h
  · cases h; rfl
  · split at h <;> cases h
    rfl

theorem ensureFrame_frame (page : Nat) (s : State) :
    ensureFrame page s = { s with mem := { s.mem with alloc := (ensureFrame page s).mem.alloc },
                                  xlate := { s.xlate with ptes := (ensureFrame page s).xlate.ptes } } := by
  unfold ensureFrame setPte
  simp only []
  split
  · rfl
  · split
    · rename_i h; rw [takeFrame_frame h]
    · rfl

theorem devSetByte_frame (va : Nat) (b : Byte) (s : State) :
    devSetByte va b s = { s with dict := (devSetByte va b s).dict, mem := (devSetByte va b s).mem,
                                 xlate := { s.xlate with ptes := (devSetByte va b s).xlate.ptes } } := by
  unfold devSetByte count
  simp only []
  rw [ensureFrame_frame]
  split
  · rfl
  · split <;> rfl

theorem devPut_frame (va : Nat) (bs : List Byte) (s : State) :
    devPut va bs s = { s with dict := (devPut va bs s).dict, mem := (devPut va bs s).mem,
                              xlate := { s.xlate with ptes := (devPut va bs s).xlate.ptes } } := by
  induction bs generalizing va s with
  | nil => rfl
  | cons b bs ih => rw [devPut, ih, devSetByte_frame]

@[simp] theorem devWrite_hostif (va : Nat) (bs : List Byte) (s : State) : (devWrite va bs s).hostif = s.hostif := by
  unfold devWrite watchWrite; rw [devPut_frame]

/-- A write evaluates every core's wait: those on an object that it touches see the value written (R308). -/
theorem devWrite_coreWaits (va : Nat) (bs : List Byte) (s : State) :
    (devWrite va bs s).dispatch.coreWaits = s.dispatch.coreWaits.map (watchWait va bs.length (devPut va bs s)) := by
  change (devPut va bs s).dispatch.coreWaits.map _ = _
  rw [devPut_frame]

/-! A host write noted changes its record only; a completion sent changes the list of completions only. -/

@[simp] theorem noteBar2Write_mem (va n : Nat) (s : State) : (noteBar2Write va n s).mem = s.mem := by
  unfold noteBar2Write; split <;> rfl
@[simp] theorem noteBar2Write_dispatch (va n : Nat) (s : State) : (noteBar2Write va n s).dispatch = s.dispatch := by
  unfold noteBar2Write; split <;> rfl
@[simp] theorem noteBar2Write_completions (va n : Nat) (s : State) :
    (noteBar2Write va n s).hostif.completions = s.hostif.completions := by
  unfold noteBar2Write; split <;> rfl

@[simp] theorem bar2Complete_mem (offset : Nat) (data : Option (List Byte)) (s : State) :
    (bar2Complete offset data s).mem = s.mem := rfl
@[simp] theorem bar2Complete_completions (offset : Nat) (data : Option (List Byte)) (s : State) :
    (bar2Complete offset data s).hostif.completions = (offset, data) :: s.hostif.completions := rfl

/-! The bytes that a read returns (R440, R441; log 189). -/

theorem bar2Stale_of_unseen_nil {va : Nat} {s : State} (h : s.hostif.unseen = []) : bar2Stale va s = false := by
  simp [bar2Stale, h]

/-- Byte by byte, a read returns a free value where the byte is stale, and otherwise what the memory holds. -/
theorem bar2Bytes_getElem? (va n : Nat) (s : State) (i : Nat) :
    (bar2Bytes va n s)[i]? = (devRead s va n)[i]?.map
      (fun b => if bar2Stale (va + i) s then Config.unsteadyByte (2 ^ 64 + va + i) s.now else b) := by
  unfold bar2Bytes
  split
  · rename_i h
    simp [bar2Stale_of_unseen_nil (List.isEmpty_iff.mp h)]
  · simp [List.getElem?_zipIdx, Function.comp_def]

theorem bar2Bytes_of_not_stale {va n : Nat} {s : State} (h : ∀ i, i < n → bar2Stale (va + i) s = false) :
    bar2Bytes va n s = devRead s va n := by
  apply List.ext_getElem?
  intro i
  rw [bar2Bytes_getElem?]
  by_cases hi : i < n
  · simp [h i hi]
  · have hn : (devRead s va n)[i]? = none := by simp [devRead]; omega
    simp [hn]

/-! What each BAR2 command does, by the state of the window and of the pages. -/

theorem bar2Read_closed {read : WindowRead} {bytes : Nat} {s : State} (hsize : read.offset + bytes ≤ s.hostif.bar2Size)
    (hc : bar2Closed s = true) :
    exec (.bar2Read read bytes) s =
      .next (count Cnt.bar2Closed 1 (bar2Complete read.offset (some (allOnesBytes bytes)) s)) := by
  change execBar2Read read bytes s = _
  simp [execBar2Read, Nat.not_lt.mpr hsize, hc]

theorem bar2Read_mapped {read : WindowRead} {bytes : Nat} {s : State} (hsize : read.offset + bytes ≤ s.hostif.bar2Size)
    (hc : bar2Closed s = false) (hm : bar2Mapped (bar2Va read.offset s) bytes .read s = true) :
    exec (.bar2Read read bytes) s =
      .next (readWindow read (bar2Va read.offset s) bytes (hubAccess (bar2Va read.offset s) bytes s)) := by
  change execBar2Read read bytes s = _
  simp [execBar2Read, Nat.not_lt.mpr hsize, hc, hm]

theorem bar2Read_unmapped {read : WindowRead} {bytes : Nat} {s : State} (hsize : read.offset + bytes ≤ s.hostif.bar2Size)
    (hc : bar2Closed s = false) (hm : bar2Mapped (bar2Va read.offset s) bytes .read s = false) :
    exec (.bar2Read read bytes) s =
      .next (count Cnt.bar2Unmapped 1 (bar2Complete read.offset (some (allOnesBytes bytes)) s)) := by
  change execBar2Read read bytes s = _
  simp [execBar2Read, Nat.not_lt.mpr hsize, hc, hm]

theorem bar2Write_closed {offset : Nat} {bytes : List Byte} {s : State} (hsize : offset + bytes.length ≤ s.hostif.bar2Size)
    (hc : bar2Closed s = true) : exec (.bar2Write offset bytes) s = .next (count Cnt.bar2Closed 1 s) := by
  change execBar2Write offset bytes s = _
  simp [execBar2Write, Nat.not_lt.mpr hsize, hc]

theorem bar2Write_mapped {offset : Nat} {bytes : List Byte} {s : State} (hsize : offset + bytes.length ≤ s.hostif.bar2Size)
    (hc : bar2Closed s = false) (hm : bar2Mapped (bar2Va offset s) bytes.length .write s = true) :
    exec (.bar2Write offset bytes) s = .next (noteBar2Write (bar2Va offset s) bytes.length
      (devWrite (bar2Va offset s) bytes (hubAccess (bar2Va offset s) bytes.length s))) := by
  change execBar2Write offset bytes s = _
  simp [execBar2Write, Nat.not_lt.mpr hsize, hc, hm]

/-- A width or alignment that R433 does not allow, with the window open (log 16). -/
theorem bar2Atomic_unsupported {offset width : Nat} {op : AtomicOp} {operand compare : BitVec 64} {s : State}
    (hsize : offset + width ≤ s.hostif.bar2Size) (hc : bar2Closed s = false)
    (hbad : (width ≠ 4 ∧ width ≠ 8) ∨ offset % width ≠ 0) :
    exec (.bar2Atomic offset op width operand compare) s = .next (bar2Complete offset none s) := by
  change execBar2Atomic offset op width operand compare s = _
  simp only [execBar2Atomic, Nat.not_lt.mpr hsize, hc, hbad, if_false, if_true, Bool.false_eq_true]

/-- A mapped AtomicOp stores the new value and answers the old one. -/
theorem bar2Atomic_mapped {offset width : Nat} {op : AtomicOp} {operand compare : BitVec 64} {s : State}
    (hsize : offset + width ≤ s.hostif.bar2Size) (hw : width = 4 ∨ width = 8) (hal : offset % width = 0)
    (hc : bar2Closed s = false) (hm : bar2Mapped (bar2Va offset s) width .atomic s = true) :
    exec (.bar2Atomic offset op width operand compare) s =
      .next (bar2Complete offset (some (leBytes width (devNat s (bar2Va offset s) width)))
        (noteBar2Write (bar2Va offset s) width (devWrite (bar2Va offset s)
          (leBytes width (atomicNew op width (devNat s (bar2Va offset s) width) operand.toNat compare.toNat))
          (hubAccess (bar2Va offset s) width s)))) := by
  have hgood : ¬ ((width ≠ 4 ∧ width ≠ 8) ∨ offset % width ≠ 0) := by omega
  change execBar2Atomic offset op width operand compare s = _
  simp only [execBar2Atomic, Nat.not_lt.mpr hsize, hc, hgood, hm, if_false, if_true, Bool.false_eq_true, devNat,
    devRead_hubAccess]

/-- The sizes of the Resizable BAR capability: 1 to 256 GiB in powers of two (R429). -/
theorem bar2Size_allowed {n : Nat} (h : n ≤ 8) : 1 ≤ 2 ^ n ∧ 2 ^ n ≤ 256 ∧ 2 ^ Nat.log2 (2 ^ n) = 2 ^ n :=
  ⟨Nat.one_le_two_pow, Nat.pow_le_pow_right (by omega) h, by rw [Nat.log2_two_pow]⟩

theorem bar2Resize_allowed {n : Nat} (h : n ≤ 8) (s : State) :
    exec (.bar2Resize (2 ^ n)) s = .next (if configRetried s then retryConfig s
      else { s with hostif := { s.hostif with bar2Size := 2 ^ n * 2 ^ 30 } }) := by
  change execBar2Resize (2 ^ n) s = _
  unfold execBar2Resize
  rw [if_pos (bar2Size_allowed h)]
  split <;> rfl

/-! Codewords in error met by a read of the window (R384, R385; log 162). -/

theorem readWindow_clean (offset va bytes : Nat) (s : State) :
    readWindow { offset := offset } va bytes s = bar2Complete offset (some (bar2Bytes va bytes s)) s := rfl

theorem readWindow_oneError {offset va bytes k symbols m : Nat} {s u : State}
    (hu : u = ensureFrame ((va / 32 * 32 + 32 * k) / 4096) s) (hm : mpaOf (va / 32 * 32 + 32 * k) u = some m) :
    readWindow { offset := offset, errors := [(k, symbols)] } va bytes s =
      bar2Complete offset
        (if (codewordRead 0 m symbols u).1 then some (bar2Bytes va bytes (codewordRead 0 m symbols u).2) else none)
        (codewordRead 0 m symbols u).2 := by
  subst hu
  simp [readWindow, codewordsAt, hm]

theorem codewordRead_detected {symbols : Nat} (h2 : 2 ≤ symbols) (h3 : symbols ≤ 3) (source mpa : Nat) (s : State) :
    codewordRead source mpa symbols s = (false, uncorrectableError source mpa s) := by
  unfold codewordRead
  rw [if_neg (by omega), if_neg (by omega), if_pos h3]

end Sys2Proof.Machine

namespace Sys2Proof

open Sys2Proof.Machine

/-- Settles O45, clause by clause from what each BAR2 command does. -/
theorem bar2ReachesMappedPages : Obligations.Bar2ReachesMappedPages := by
  unfold Obligations.Bar2ReachesMappedPages
  refine ⟨?closedRead, ?plainRead, ?errorRead, ?unmappedRead, ?closedWrite, ?mappedWrite, ?mappedAtomic, ?badAtomic,
    ?resize, ?resizeEarly, ?openRead, ?settled, ?stale⟩
  case closedRead =>
    intro read bytes s hsize hc
    exact bar2Read_closed hsize hc
  case plainRead =>
    rintro offset bytes s va hsize hc rfl hm hseen
    refine ⟨_, bar2Read_mapped hsize hc hm, ?_, by simp [readWindow_clean]⟩
    rw [readWindow_clean, bar2Complete_completions, hubAccess_hostif,
      bar2Bytes_of_not_stale (fun i _ => bar2Stale_of_unseen_nil (by simpa using hseen)), devRead_hubAccess]
    rfl
  case errorRead =>
    rintro offset bytes s u va k m hsize hc rfl hm hu hmpa
    have hread (symbols : Nat) := (bar2Read_mapped (read := { offset := offset, errors := [(k, symbols)] }) hsize hc hm).trans
      (congrArg _ (readWindow_oneError hu hmpa))
    refine ⟨?_, fun symbols h2 h3 => ?_⟩
    · exact hread 1
    · have h := hread symbols
      rw [codewordRead_detected h2 h3] at h
      exact h
  case unmappedRead =>
    intro read bytes s hsize hc hm
    exact ⟨_, bar2Read_unmapped hsize hc hm, rfl, counter_count_self _ _ _⟩
  case closedWrite =>
    intro offset bytes s hsize hc
    exact bar2Write_closed hsize hc
  case mappedWrite =>
    rintro offset bytes s va hsize hc rfl hm
    exact bar2Write_mapped hsize hc hm
  case mappedAtomic =>
    rintro offset op width operand compare s va old hsize hw hal hc rfl hm rfl
    refine ⟨_, bar2Atomic_mapped hsize hw hal hc hm, by simp [bar2Va], ?_⟩
    rw [bar2Complete_mem, noteBar2Write_mem]
    cases op <;> rfl
  case badAtomic =>
    intro offset op width operand compare s hsize hc hbad
    exact bar2Atomic_unsupported hsize hc hbad
  case resize =>
    intro n s hn hboot
    have h : configRetried s = false := by simpa [configRetried] using hboot
    simp [bar2Resize_allowed hn, h]
  case resizeEarly =>
    intro n s hn hboot
    have h : configRetried s = true := by simpa [configRetried] using hboot
    simp [bar2Resize_allowed hn, h, retryConfig]
  case openRead =>
    rintro offset bytes s va hsize hc rfl hm
    exact bar2Read_mapped hsize hc hm
  case settled =>
    intro va n s h
    exact bar2Bytes_of_not_stale h
  case stale =>
    intro va n s i b hb hst
    simp [bar2Bytes_getElem?, hb, hst]

end Sys2Proof
end

section
/-! SUPPORT. A BAR2 write passes the watch filter of its object, so it can end a core's wait (R308, R433): a machine in which it
does. -/

namespace Sys2Proof.Machine

open Sys2Proof

/-- A core's wait, since time 0, until the object at an address in device memory holds 1 or more (R306). -/
def waitForOne (va : Nat) : CoreWait :=
  { core := 0, addr := va, isLocal := false, cond := 0, threshold := 1, mask := 0, since := 0, lastSeen := 0 }

/-- The machine after reset with page 0x100 of device memory mapped for every access, on frame 5 of its home stack, and a core
that waits for the object at its first byte. -/
def waitingAtPage : State :=
  { State.reset with
    xlate := { State.reset.xlate with ptes := [(0x100, mkPte 1 2 5)] }
    dispatch := { State.reset.dispatch with coreWaits := [waitForOne 0x100000] } }

/-- The wait is met once the byte 1 stands at its object. -/
theorem watchWait_waitingAtPage_met :
    (watchWait 0x100000 1 (devPut 0x100000 [1] (hubAccess 0x100000 1 waitingAtPage)) (waitForOne 0x100000)).met = true := by
  decide +kernel

end Sys2Proof.Machine

namespace Sys2Proof

open Sys2Proof.Machine

/-- Refutes O9: the host writes the byte 1 through BAR2 to the object that a core waits for. The write meets the wait (R308,
R433), so the dispatch state is not what it was. -/
theorem not_bar2WritesTouchOnlyTheirBytes : ¬ Obligations.Bar2WritesTouchOnlyTheirBytes := by
  unfold Obligations.Bar2WritesTouchOnlyTheirBytes
  intro h
  have hsize : 0x100000 + [(1 : Byte)].length ≤ waitingAtPage.hostif.bar2Size := by decide +kernel
  have hopen : bar2Closed waitingAtPage = false := by decide +kernel
  have hva : bar2Va 0x100000 waitingAtPage = 0x100000 := by decide +kernel
  have hmapped : bar2Mapped 0x100000 [(1 : Byte)].length .write waitingAtPage = true := by decide +kernel
  have hframes : ∀ p, p ∈ pagesOf 0x100000 [(1 : Byte)].length → (pageView p waitingAtPage).frame ≠ none := by decide +kernel
  obtain ⟨t, hexec, -, -, -, -, -, -, -, -, -, hdispatch, -, -⟩ :=
    h 0x100000 [1] waitingAtPage 0x100000 hsize hopen hva.symm hmapped hframes
  rw [bar2Write_mapped hsize hopen (by rw [hva]; exact hmapped), hva] at hexec
  injection hexec with ht
  have hwait : [watchWait 0x100000 1 (devPut 0x100000 [1] (hubAccess 0x100000 1 waitingAtPage)) (waitForOne 0x100000)] =
      [waitForOne 0x100000] := by
    have := congrArg Dispatch.coreWaits hdispatch
    rwa [← ht, noteBar2Write_dispatch, devWrite_coreWaits, hubAccess_dispatch] at this
  have hmet : (waitForOne 0x100000).met = true := by
    rw [← List.singleton_inj.mp hwait]; exact watchWait_waitingAtPage_met
  exact Bool.false_ne_true hmet

end Sys2Proof
end

section
/-! SUPPORT. The ST320-compatible queue interface: its registers and its commands (R338 to R350). -/

namespace Sys2Proof.Machine

open Sys2Proof

/-- A write of the whole register takes its value (R431). -/
theorem regWrite_whole {w : HostWrite} (hb : w.bytes = 8) (ho : w.offset = 0) (old : BitVec 64) :
    regWrite old w = some w.value := by
  simp [regWrite, hb, ho]

/-- Outside a function-level reset a write of a BAR4 register acts. -/
theorem lqCtrlWrite_noReset {s : State} (h : s.hostif.flr = false) (offset : Nat) (w : HostWrite) :
    exec (.lqCtrlWrite offset w) s = .next (writeBar4 offset w s) := by
  change execLqCtrlWrite offset w s = _
  simp [execLqCtrlWrite, h]

theorem writeBar4_lqCtrl {w : HostWrite} (hb : w.bytes = 8) (ho : w.offset = 0) (s : State) :
    writeBar4 0x008 w s = legacyEnable (w.value.toNat % 2 == 1) s := by
  simp [writeBar4, regWrite_whole hb ho]

/-- SQ_BASE is taken only while the interface is OFF (R339). -/
theorem writeBar4_sqBase {w : HostWrite} (hb : w.bytes = 8) (ho : w.offset = 0) (s : State) :
    writeBar4 0x018 w s =
      if s.legacy.state = 0 then { s with legacy := { s.legacy with sqBase := w.value } } else s := by
  simp [writeBar4, regWrite_whole hb ho, updLegacy]

theorem sqTail_enabled {w : HostWrite} {s : State} (h : s.hostif.flr = false) (hb : w.bytes = 8) (ho : w.offset = 0)
    (hs : s.legacy.state ≠ 0) :
    exec (.sqTail w) s = .next (legacyFetch { s with legacy := { s.legacy with
      sqTail := w.value.toNat % 2 ^ 32, staleReads := none } }) := by
  change execSqTail w s = _
  simp [execSqTail, h, writeSqTail, regWrite_whole hb ho, hs, updLegacy]

theorem legacyCqHead_enabled {w : HostWrite} {s : State} (h : s.hostif.flr = false) (hb : w.bytes = 8) (ho : w.offset = 0)
    (hs : s.legacy.state ≠ 0) :
    exec (.legacyCqHead w) s =
      .next (serveLegHeld { s with legacy := { s.legacy with cqHead := w.value.toNat % 2 ^ 32 } }) := by
  change execLegacyCqHead w s = _
  simp [execLegacyCqHead, h, writeLegCqHead, regWrite_whole hb ho, hs, updLegacy]

/-- A row takes up the command that is next of its opcode. -/
theorem takeLeg_next {op : Nat} {s : State} {c : Cmd} (h : nextLegacy op s = some c) (run : Cmd → State → State) :
    takeLeg op run s = .next (run c s) := by
  simp [takeLeg, h]

/-- LEGACY_WAIT evaluates the open WAIT that FENCE lets. -/
theorem legacyWait_runs {s : State} {c : Cmd}
    (hc : s.legacy.cmds.find? (fun c => cmdOpcode c == 5 && c.phase != .finished && !legFenced c s) = some c)
    (ht : threadStalled 546 s = false) : exec .legacyWait s = .next (runLegacyWait c s) := by
  change execLegacyWait s = _
  simp [execLegacyWait, ht, hc]

/-- A WAIT that a write has met, or whose shown value holds, ends OK (R306, R308). -/
theorem runLegacyWait_holds {c : Cmd} {s : State}
    (h : c.met = true ∨ ∃ v, shownValue c s = some v ∧ condHolds (legCond c) v (cw c 2) (cw c 3) = true) :
    runLegacyWait c s = legacyFetch (finishLeg c.id stOk 0 s) := by
  unfold runLegacyWait
  cases hmet : c.met with
  | true => rfl
  | false =>
    obtain ⟨v, hv, hcond⟩ := h.resolve_left (by simp [hmet])
    simp [hv, hcond]

/-- A WAIT that shows no value reads its object, which it may: it ends OK or is held at what it saw. -/
theorem runLegacyWait_reads {c : Cmd} {s : State} (hmet : c.met = false) (hv : shownValue c s = none)
    (hm : memCheck (cw c 1) 8 .read s = .ok) :
    runLegacyWait c s =
      if condHolds (legCond c) (hitchRead (cw c 1) (readObject (cw c 1) s)) (cw c 2) (cw c 3) = true
      then legacyFetch (finishLeg c.id stOk 0 (readObject (cw c 1) s))
      else holdLeg c (BitVec.ofNat 64 (hitchRead (cw c 1) (readObject (cw c 1) s))) (readObject (cw c 1) s) := by
  simp [runLegacyWait, hmet, hv, hm]

/-- COMMAND_COMPLETION of number 64 completes the finished legacy command it names (R301). -/
theorem commandCompletion_legacy {cmd : Nat} {s : State} {c : Cmd}
    (hc : s.legacy.cmds.find? (fun c => c.id == cmd && c.phase == .finished && !dispatchStopped s) = some c) :
    exec (.commandCompletion 64 cmd) s = .next (completeLegacy c s) := by
  change execCommandCompletion 64 cmd s = _
  simp [execCommandCompletion, hc]

end Sys2Proof.Machine

namespace Sys2Proof

open Sys2Proof.Machine

/-- Settles O39, clause by clause from what each register write and each row does. -/
theorem theLegacyInterfaceIsServed : Obligations.TheLegacyInterfaceIsServed := by
  unfold Obligations.TheLegacyInterfaceIsServed
  refine ⟨?lqCtrl, ?sqBaseOff, ?sqBaseOn, ?sqTail, ?cqHead, ?rows, ?waitHolds, ?completion, ?waitReads⟩
  case lqCtrl =>
    intro w s hflr hb ho
    rw [lqCtrlWrite_noReset hflr, writeBar4_lqCtrl hb ho]
  case sqBaseOff =>
    intro w s hflr hb ho hs
    rw [lqCtrlWrite_noReset hflr, writeBar4_sqBase hb ho, if_pos hs]
  case sqBaseOn =>
    intro w s hflr hb ho hs
    rw [lqCtrlWrite_noReset hflr, writeBar4_sqBase hb ho, if_neg hs]
  case sqTail =>
    intro w s hflr hb ho hs
    exact sqTail_enabled hflr hb ho hs
  case cqHead =>
    intro w s hflr hb ho hs
    exact ⟨_, rfl, legacyCqHead_enabled hflr hb ho hs⟩
  case rows =>
    rintro s c i r (⟨hc, rfl, rfl⟩ | ⟨hc, rfl, rfl⟩ | ⟨hc, rfl, rfl⟩ | ⟨hc, rfl, rfl⟩ | ⟨hc, rfl, rfl⟩ | ⟨hc, rfl, rfl⟩)
    · exact takeLeg_next hc (fun c s => finishLeg c.id stOk 0 s)
    · exact takeLeg_next hc runLegacyDma
    · exact takeLeg_next hc runLegacyDesc
    · exact takeLeg_next hc runLegacyKernel
    · exact takeLeg_next hc runLegacyLaunch
    · exact takeLeg_next hc (fun c s => finishLeg c.id stOk 0 s)
  case waitHolds =>
    intro s c hc ht h
    rw [legacyWait_runs hc ht, runLegacyWait_holds h]
  case completion =>
    intro cmd s c hc
    exact commandCompletion_legacy hc
  case waitReads =>
    intro s c u v hc ht hmet hshown hm hu hv
    rw [legacyWait_runs hc ht, runLegacyWait_reads hmet hshown hm, ← hu, ← hv]

end Sys2Proof
end

section
/-! SUPPORT. The front end's dictionary entries: the values and frames of KEY_LOAD, SVC_ENABLE and BINDING_ENABLE (R44, R64,
R513). -/

namespace Sys2Proof.Machine

open Sys2Proof

/-- An entry's value depends on the values written and on the straps. -/
theorem ent_congr {s t : State} (hvalues : t.dict.values = s.dict.values) (hpins : t.pins = s.pins) (key : Nat) :
    ent key t = ent key s := by
  unfold ent entryDefault
  rw [hvalues, hpins]

@[simp] theorem ent_wbSubmit (key code inst : Nat) (p : List Nat) (s : State) : ent key (wbSubmit code inst p s) = ent key s :=
  ent_congr (wbSubmit_values code inst p s) (by rw [wbSubmit_frame]) key

/-! KEY_LOAD (R44). -/

@[simp] theorem measureBytes_service (i event : Nat) (bs : List Byte) (s : State) : (measureBytes i event bs s).service = s.service := by
  rw [measureBytes_frame]

theorem keyLoad_accepted {req : ReqId} {value : List Byte} {s : State} (h : Accepted req 0x2000 0x0B value s) :
    exec (.keyLoad req value) s = .next (keyLoadAction req value (writeStart req 0x2000 0x0B s)) := by
  change execKeyLoad req value s = _
  rw [execKeyLoad, writeVia_accepted h]

theorem keyLoadAction_frame (req : ReqId) (bytes : List Byte) (s : State) :
    keyLoadAction req bytes s =
      { s with service := { s.service with keySlots := (keyLoadAction req bytes s).service.keySlots },
               security := (keyLoadAction req bytes s).security, waybill := (keyLoadAction req bytes s).waybill,
               dict := (keyLoadAction req bytes s).dict } := by
  unfold keyLoadAction
  dsimp only
  rw [wbSubmit_frame, measureBytes_frame]

theorem keyLoadAction_install {bytes : List Byte} (h : leAt bytes 4 4 = 1) (req : ReqId) (s : State) :
    (keyLoadAction req bytes s).service.keySlots =
      alSet s.service.keySlots (leAt bytes 0 4)
        { key := BitVec.ofNat 256 (ofLe (slice bytes 8 32)), highest := none, accepted := [] } := by
  simp [keyLoadAction, h]

theorem keyLoadAction_revoke {bytes : List Byte} (h : leAt bytes 4 4 = 2) (req : ReqId) (s : State) :
    (keyLoadAction req bytes s).service.keySlots = alErase s.service.keySlots (leAt bytes 0 4) := by
  simp [keyLoadAction, h]

/-! What the two ENABLE entries have in common. -/

/-- An ENABLE entry takes its value, and a change of it is recorded in the Waybill. -/
def recordEnable (key inst v : Nat) (s : State) : State :=
  if ent key s = v then setEnt key 1 v s else wbSubmit 0x1001 inst [v] (setEnt key 1 v s)

theorem recordEnable_frame (key inst v : Nat) (s : State) :
    recordEnable key inst v s = { s with waybill := (recordEnable key inst v s).waybill, dict := (recordEnable key inst v s).dict } := by
  unfold recordEnable
  split
  · rfl
  · rw [wbSubmit_frame]; rfl

@[simp] theorem ent_recordEnable (key inst v : Nat) (s : State) : ent key (recordEnable key inst v s) = v % 256 := by
  unfold recordEnable
  split <;> simp

theorem drainBinding_frame (b : Nat) (s : State) :
    drainBinding b s = { s with service := { s.service with bindings := (drainBinding b s).service.bindings } } := by
  unfold drainBinding
  split <;> rfl

@[simp] theorem ent_drainBinding (key b : Nat) (s : State) : ent key (drainBinding b s) = ent key s := by
  rw [drainBinding_frame]; exact ent_congr rfl rfl key

/-! BINDING_ENABLE (R64). -/

theorem bindingEnable_accepted {req : ReqId} {binding value : Nat} {s : State} (hb : binding < 16)
    (h : Accepted req (0x2010 + binding) 5 (leBytes 1 value) s) :
    exec (.bindingEnable req binding value) s =
      .next (bindingEnableAction binding req (leBytes 1 value) (writeStart req (0x2010 + binding) 5 s)) := by
  change execBindingEnable req binding value s = _
  rw [execBindingEnable, if_neg (by omega), writeVia_accepted h]

/-- The entry takes its value; a binding switched off drains. -/
theorem bindingEnableAction_eq (b : Nat) (req : ReqId) (bytes : List Byte) (s : State) :
    bindingEnableAction b req bytes s =
      if ofLe bytes = 0 ∧ bEnt Ent.bindingEnable b s = 1 then
        drainBinding b (recordEnable (Ent.bindingEnable + 256 * b) b (ofLe bytes) s)
      else recordEnable (Ent.bindingEnable + 256 * b) b (ofLe bytes) s := rfl

theorem bindingEnableAction_frame (b : Nat) (req : ReqId) (bytes : List Byte) (s : State) :
    bindingEnableAction b req bytes s =
      { s with service := { s.service with bindings := (bindingEnableAction b req bytes s).service.bindings },
               waybill := (bindingEnableAction b req bytes s).waybill, dict := (bindingEnableAction b req bytes s).dict } := by
  rw [bindingEnableAction_eq]
  split
  · rw [drainBinding_frame, recordEnable_frame]
  · rw [recordEnable_frame]

theorem ent_bindingEnableAction (b : Nat) (req : ReqId) (bytes : List Byte) (s : State) :
    ent (Ent.bindingEnable + 256 * b) (bindingEnableAction b req bytes s) = ofLe bytes % 256 := by
  rw [bindingEnableAction_eq]
  split <;> simp

/-! SVC_ENABLE (R64, R513). -/

theorem svcEnable_accepted {req : ReqId} {value : Nat} {s : State} (h : Accepted req 0x2000 1 (leBytes 1 value) s) :
    exec (.svcEnable req value) s = .next (svcEnableAction req (leBytes 1 value) (writeStart req 0x2000 1 s)) := by
  change execSvcEnable req value s = _
  rw [execSvcEnable, writeVia_accepted h]

@[simp] theorem ent_switchNetOn (key : Nat) (s : State) : ent key (switchNetOn s) = ent key s := ent_congr rfl rfl key

/-- The entry takes its value; the service on wants NET on, the service off lets every binding drain. -/
theorem svcEnableAction_eq (req : ReqId) (bytes : List Byte) (s : State) :
    svcEnableAction req bytes s =
      if ofLe bytes = 1 then switchNetOn (recordEnable Ent.svcEnable noInst (ofLe bytes) s)
      else (List.range 16).foldl (fun s b => drainBinding b s) (recordEnable Ent.svcEnable noInst (ofLe bytes) s) := rfl

theorem drainBindings_frame (bs : List Nat) (s : State) :
    bs.foldl (fun s b => drainBinding b s) s =
      { s with service := { s.service with bindings := (bs.foldl (fun s b => drainBinding b s) s).service.bindings } } := by
  induction bs generalizing s with
  | nil => rfl
  | cons b bs ih => rw [List.foldl_cons, ih, drainBinding_frame]

theorem svcEnableAction_frame (req : ReqId) (bytes : List Byte) (s : State) :
    svcEnableAction req bytes s =
      { s with service := { s.service with bindings := (svcEnableAction req bytes s).service.bindings },
               power := (svcEnableAction req bytes s).power, waybill := (svcEnableAction req bytes s).waybill,
               dict := (svcEnableAction req bytes s).dict } := by
  rw [svcEnableAction_eq]
  split
  · rw [recordEnable_frame]; rfl
  · rw [drainBindings_frame, recordEnable_frame]

theorem ent_svcEnableAction (req : ReqId) (bytes : List Byte) (s : State) :
    ent Ent.svcEnable (svcEnableAction req bytes s) = ofLe bytes % 256 := by
  rw [svcEnableAction_eq]
  split
  · rw [ent_switchNetOn, ent_recordEnable]
  · rw [foldl_view (ent Ent.svcEnable) _ (fun s b => ent_drainBinding _ b s), ent_recordEnable]

/-- The service on wants NET on (R513). -/
theorem svcEnableAction_netOn {bytes : List Byte} {s : State} (h : ofLe bytes = 1) (hmain : s.power.mainOn = true)
    (req : ReqId) : (svcEnableAction req bytes s).power.netOn = true := by
  rw [svcEnableAction_eq, if_pos h, recordEnable_frame]
  simp [switchNetOn, hmain]

end Sys2Proof.Machine

namespace Sys2Proof

open Sys2Proof.Machine

/-- Settles O16: each accepted write runs its entry's action, whose values and frame are known. -/
theorem serviceEntriesTakeTheirValues : Obligations.ServiceEntriesTakeTheirValues := by
  unfold Obligations.ServiceEntriesTakeTheirValues
  refine ⟨?install, ?revoke, ?svcEnable, ?bindingEnable⟩
  case install =>
    intro req value s hacc haction
    refine ⟨_, keyLoad_accepted hacc, ?_, ?_, ?_⟩
    · rw [keyLoadAction_install haction, alGet_alSet_self]
    · intro id hid
      rw [keyLoadAction_install haction, alGet_alSet_ne _ _ hid, writeStart_frame]
    · rw [keyLoadAction_frame, writeStart_frame]
  case revoke =>
    intro req value s hacc haction
    refine ⟨_, keyLoad_accepted hacc, ?_, ?_⟩
    · rw [keyLoadAction_revoke haction, alGet_alErase_self]
    · rw [keyLoadAction_frame, writeStart_frame]
  case svcEnable =>
    intro req value s hacc
    refine ⟨_, svcEnable_accepted hacc, ?_, ?_, ?_, ?_, ?_⟩
    · rw [ent_svcEnableAction]; simp
    · intro hv hmain
      exact svcEnableAction_netOn (by simpa using hv) (by rw [writeStart_frame]; exact hmain) req
    all_goals rw [svcEnableAction_frame, writeStart_frame]
  case bindingEnable =>
    intro req binding value s hb hacc
    refine ⟨_, bindingEnable_accepted hb hacc, ?_, ?_⟩
    · rw [ent_bindingEnableAction]; simp
    · rw [bindingEnableAction_frame, writeStart_frame]

end Sys2Proof
end

section
/-! SUPPORT. The front end's datagrams: liveness answers, segments and reassemblies, exit timers and the transmission of
responses (R34 to R64, R454). -/

namespace Sys2Proof.Machine

open Sys2Proof

/-! What a datagram's way out depends on (R454, R507). -/

/-- Two states in which a datagram leaves by the same interface, to the same next hop and at the same moment. -/
structure SameNet (s u : State) : Prop where
  values : u.dict.values = s.dict.values
  pins : u.pins = s.pins
  fabric : u.fabric = s.fabric
  power : u.power = s.power
  now : u.now = s.now

theorem SameNet.ent {s u : State} (h : SameNet s u) (key : Nat) : ent key u = ent key s :=
  ent_congr h.values h.pins key

theorem SameNet.moving {s u : State} (h : SameNet s u) : moving u = moving s := by
  simp only [Machine.moving, h.power, h.now]

theorem SameNet.ifaceAddr {s u : State} (h : SameNet s u) (i : Nat) (v6 : Bool) : ifaceAddr i v6 u = ifaceAddr i v6 s := by
  simp only [Machine.ifaceAddr, h.ent]

theorem SameNet.ifaceFor {s u : State} (h : SameNet s u) (port : Nat) (src : Endpoint) :
    ifaceFor port src u = ifaceFor port src s := by
  simp only [Machine.ifaceFor, ifaceHolds, h.ifaceAddr, h.fabric]

theorem SameNet.nextHop {s u : State} (h : SameNet s u) (i : Nat) (v6 : Bool) (addr : Nat) :
    nextHop i v6 addr u = nextHop i v6 addr s := by
  have honLink : onLink i v6 addr u = onLink i v6 addr s := by simp only [onLink, h.ifaceAddr, h.ent]
  have hgateway : ifaceGateway i v6 u = ifaceGateway i v6 s := by simp only [ifaceGateway, h.ent]
  simp only [Machine.nextHop, honLink, hgateway]

theorem SameNet.hopMac {s u : State} (h : SameNet s u) (i : Nat) (v6 : Bool) (hop : Nat) :
    hopMac i v6 hop u = hopMac i v6 hop s := by
  simp only [Machine.hopMac, h.fabric]

theorem SameNet.linkTo {s u : State} (h : SameNet s u) (i : Nat) (mac : BitVec 48) : linkTo i mac u = linkTo i mac s := by
  simp only [Machine.linkTo, h.ent]

/-- A datagram whose next hop is resolved leaves at once, unless the operating point moves (R454, R507). -/
theorem sendLink_resolved {i hop : Nat} {dst : Endpoint} {m : BitVec 48} {s : State} (hhop : nextHop i dst.v6 dst.addr s = some hop)
    (hmac : hopMac i dst.v6 hop s = some m) (hmove : moving s = false) (o : Departure) :
    sendLink i dst o s = depart (linkTo i m s) o s := by
  simp [sendLink, hhop, hmac, putOut, hmove]

/-- One datagram sent from a port, told in the terms of an earlier state with the same network. -/
theorem sendFrom_resolved {port hop : Nat} {src dst : Endpoint} {m : BitVec 48} {s u : State} (net : SameNet s u)
    (hhop : nextHop (ifaceFor port src s) dst.v6 dst.addr s = some hop)
    (hmac : hopMac (ifaceFor port src s) dst.v6 hop s = some m) (hmove : moving s = false) (bytes : List Byte) :
    sendFrom port src dst [bytes] u = { u with service := { u.service with
      sent := { link := linkTo (ifaceFor port src s) m s, port := port, src := src, dst := dst, dscp := ent Ent.respDscp s,
                bytes := bytes, at_ := s.now } :: u.service.sent } } := by
  rw [← net.ifaceFor, ← net.nextHop] at hhop
  rw [← net.ifaceFor, ← net.hopMac] at hmac
  rw [← net.moving] at hmove
  rw [← net.ifaceFor, ← net.linkTo, ← net.ent, ← net.now]
  exact sendLink_resolved hhop hmac hmove _

/-! Acceptance (R44, R45). -/

theorem noteAccepted_frame (h : LorjoHdr) (s : State) :
    noteAccepted h s = { s with service := { s.service with keySlots := (noteAccepted h s).service.keySlots } } := by
  unfold noteAccepted
  split
  · rfl
  · split <;> rfl

/-- A datagram counted and its REQUEST_ID noted leave the network as it was. -/
theorem sameNet_accepted (h : LorjoHdr) (key : Nat) (s : State) : SameNet s (noteAccepted h (count key 1 s)) := by
  rw [noteAccepted_frame]
  exact ⟨rfl, rfl, rfl, rfl, rfl⟩

/-! KEEPALIVE and PROBE (R58, R60). -/

section

variable {port : Nat} {src dst : Endpoint} {datagram : List Byte} {frame : FrameCheck} {s : State} {h : LorjoHdr} {p : List Byte}
  {key : Option (BitVec 256)}

theorem keepalive_accepted (hport : port < 4) (hsound : frameSound src dst datagram frame = true)
    (hsvc : forService port dst s = true) (htyp : (parseLorjo datagram).typ = 3)
    (hacc : acceptLorjo datagram (count Cnt.lorjoRx 1 s) = some (h, p, key)) :
    exec (.keepalive port src dst ⟨datagram, frame⟩) s =
      .next (sendFrom port dst src [sealLorjo (respHdr h 4 0 0 0) key []] (noteAccepted h (count Cnt.lorjoRx 1 s))) := by
  change answerLiveness 3 port src dst ⟨datagram, frame⟩ s = _
  simp [answerLiveness, Nat.not_le.mpr hport, hsound, hsvc, htyp, hacc]

theorem probe_accepted (hport : port < 4) (hsound : frameSound src dst datagram frame = true)
    (hsvc : forService port dst s = true) (htyp : (parseLorjo datagram).typ = 5)
    (hacc : acceptLorjo datagram (count Cnt.lorjoRx 1 s) = some (h, p, key))
    (hsecure : h.secure = true ∨ ent Ent.requireSecure s ≠ 1) :
    exec (.probe port src dst ⟨datagram, frame⟩) s =
      .next (sendFrom port dst src [sealLorjo (respHdr h 6 0 0 0) key (probeData (noteAccepted h (count Cnt.lorjoRx 1 s)))]
        (noteAccepted h (count Cnt.lorjoRx 1 s))) := by
  have hopen : ¬ (h.secure = false ∧ ent Ent.requireSecure (noteAccepted h (count Cnt.lorjoRx 1 s)) = 1) := by
    rw [(sameNet_accepted h Cnt.lorjoRx s).ent]
    rintro ⟨hplain, hreq⟩
    simp [hplain, hreq] at hsecure
  change answerLiveness 5 port src dst ⟨datagram, frame⟩ s = _
  simp [answerLiveness, Nat.not_le.mpr hport, hsound, hsvc, htyp, hacc, hopen]

/-! Segments (R38, R39, R46). -/

theorem lorjoSegmentRx_unsound (hport : port < 4) (hsound : frameSound src dst datagram frame = false) :
    exec (.lorjoSegmentRx port src dst ⟨datagram, frame⟩) s = .next (discardFrame port s) := by
  change execLorjoSegmentRx port src dst ⟨datagram, frame⟩ s = _
  simp [execLorjoSegmentRx, Nat.not_le.mpr hport, hsound]

theorem lorjoSegmentRx_accepted (hport : port < 4) (hsound : frameSound src dst datagram frame = true)
    (hsvc : forService port dst s = true) (htyp : (parseLorjo datagram).typ = 1)
    (hacc : acceptLorjo datagram (count Cnt.lorjoRx 1 s) = some (h, p, key)) :
    exec (.lorjoSegmentRx port src dst ⟨datagram, frame⟩) s =
      .next (takeSegment port src dst h p datagram.length key (count Cnt.lorjoRx 1 s)) := by
  change execLorjoSegmentRx port src dst ⟨datagram, frame⟩ s = _
  simp [execLorjoSegmentRx, Nat.not_le.mpr hport, hsound, hsvc, htyp, hacc]

end

theorem sameHeader_self (h : LorjoHdr) : sameHeader h h = true := by simp [sameHeader]

/-- The first segment of a request of several opens its reassembly (R38). -/
theorem takeSegment_first {h : LorjoHdr} {p : List Byte} {s : State} {len : Nat} (hnone : s.service.reassembly = [])
    (hlen : len ≤ 8944) (hseg : p.length = h.segLen) (hsize : p.length ≤ 131072) (hno : h.segNo ≤ h.segLast)
    (hlast : 0 < h.segLast) (hver : h.ver ≠ 1) (port : Nat) (src dst : Endpoint) (key : Option (BitVec 256)) :
    takeSegment port src dst h p len key s = { s with service := { s.service with
      reassembly := [{ src := src, dst := dst, port := port, key := key, hdr := h, startedAt := s.now, segs := [(h.segNo, p)],
                       maxSeg := len, malformed := false }] } } := by
  have hpart : h.segLast ≠ 0 := by omega
  rw [hseg] at hsize
  simp [takeSegment, hnone, putReassembly, wholeRequest, sameHeader_self, Nat.not_lt.mpr hlen, Nat.not_lt.mpr hno,
    Nat.not_lt.mpr hsize, hseg, hver, hpart]

/-- A request that is whole in one segment is served (R38, R47). -/
theorem takeSegment_single {h : LorjoHdr} {p : List Byte} {s : State} {len : Nat} (hnone : s.service.reassembly = [])
    (hlen : len ≤ 8944) (hseg : p.length = h.segLen) (hsize : p.length ≤ 131072) (hno : h.segNo = 0)
    (hlast : h.segLast = 0) (port : Nat) (src dst : Endpoint) (key : Option (BitVec 256)) :
    takeSegment port src dst h p len key s = serveRequest (draftRequest port src dst h p len key s) (noteAccepted h s) := by
  rw [hseg] at hsize
  simp [takeSegment, hnone, wholeRequest, sameHeader_self, Nat.not_lt.mpr hlen, Nat.not_lt.mpr hsize, hseg, hno, hlast, alGet]

/-! Refusals and reassemblies that time out (R46, R63). -/

/-- A refusal is one more header-only response, at the request's port and under its key; while the job restarts a request's is
RESTARTED. -/
theorem refuse_ready {a : Admitted} {s : State} {cut : Bool} (hcut : cut = true ↔ a.hdr.typ = 1 ∧ s.job.state = jobRestarting)
    (status reason : Nat) :
    ∃ r, (refuse a status reason s).service.ready = s.service.ready ++ [r] ∧ r.hdr.status = (if cut = true then 4 else status) ∧
      r.hdr.reason = (if cut = true then 9 else reason) ∧ r.payload = [] ∧ r.key = a.key ∧ r.port = a.port ∧
      r.src = a.src ∧ r.dst = a.dst := by
  have heq : cut = (a.hdr.typ == 1 && s.job.state == jobRestarting) := by
    rw [Bool.eq_iff_iff, hcut]; simp
  subst heq
  exact ⟨_, rfl, rfl, rfl, rfl, rfl, rfl, rfl, rfl⟩

@[simp] theorem refuse_reassembly (a : Admitted) (status reason : Nat) (s : State) :
    (refuse a status reason s).service.reassembly = s.service.reassembly := rfl

@[simp] theorem counter_refuse (a : Admitted) (status reason : Nat) (s : State) :
    counter Cnt.refused (refuse a status reason s) = (counter Cnt.refused s + 1) % 2 ^ 64 :=
  counter_count_self Cnt.refused 1 _

theorem reassemblyTimeout_expired {src : Endpoint} {requestId : BitVec 64} {s : State} {r : Reassembly}
    (hfind : s.service.reassembly.find? (sameRequest src requestId.toNat) = some r)
    (hdue : r.startedAt + ent Ent.reassemblyNs s ≤ s.now) (hgood : r.malformed = false) (hpart : wholeRequest r = false) :
    exec (.reassemblyTimeout src requestId) s =
      .next (refuse (draftRequest r.port r.src r.dst r.hdr [] r.maxSeg r.key s) 5 7
        { s with service := { s.service with reassembly := s.service.reassembly.erase r } }) := by
  change execReassemblyTimeout src requestId s = _
  simp [execReassemblyTimeout, hfind, Nat.not_lt.mpr hdue, hgood, hpart, draftRequest]

/-! Exit timers (R52, R54). -/

section

variable {request e : Nat} {s : State} {a : Admitted}

theorem exitTimer_unlaunched (hfind : s.service.admitted.find? (fun a => a.seq == request) = some a) (hat : a.exitAt = some e)
    (hdue : e ≤ s.now) (hopen : a.exitChosen = none)
    (hready : s.service.ready.any (fun r => r.request == some request) = false) (hlaunch : a.launch = none) :
    exec (.exitTimer request) s = .next (exitBeforeLaunch a s) := by
  change execExitTimer request s = _
  simp [execExitTimer, hfind, hat, Nat.not_lt.mpr hdue, hopen, hready, hlaunch, -List.any_eq_true, -List.any_eq_false]

theorem exitTimer_running {k : Nat} {l : Launch} (hfind : s.service.admitted.find? (fun a => a.seq == request) = some a)
    (hat : a.exitAt = some e) (hdue : e ≤ s.now) (hopen : a.exitChosen = none)
    (hready : s.service.ready.any (fun r => r.request == some request) = false) (hlaunch : a.launch = some k)
    (hl : launchOf k s = some l) (hruns : launchDone l = false) :
    exec (.exitTimer request) s =
      .next (stopLaunch l.id (updAdmitted request (fun a => { a with exitChosen := some (committedExit l s) }) s)) := by
  change execExitTimer request s = _
  simp [execExitTimer, hfind, hat, Nat.not_lt.mpr hdue, hopen, hready, hlaunch, hl, hruns, -List.any_eq_true,
    -List.any_eq_false]

end

/-! Transmission (R55, R56, R507). -/

section

variable {port : Nat} {s : State} {r : ReadyResp}

theorem responseTransmit_free (hport : port < 4) (hnext : nextResp port s = some r) (hmove : moving s = false)
    (hup : portUp port s = true) (hfree : s.service.portFreeAt.getD port 0 ≤ s.now) :
    exec (.responseTransmit port) s =
      .next (sendResp port r { s with service := { s.service with ready := s.service.ready.erase r } }) := by
  change execResponseTransmit port s = _
  simp only [execResponseTransmit, hnext, hmove, hup]
  simp [Nat.not_le.mpr hport, Nat.not_lt.mpr hfree, -List.getD_eq_getElem?_getD]

theorem responseTransmit_moving (hport : port < 4) (hnext : nextResp port s = some r) (hmove : moving s = true) :
    exec (.responseTransmit port) s = .next s := by
  change execResponseTransmit port s = _
  simp [execResponseTransmit, Nat.not_le.mpr hport, hnext, hmove]

theorem responseTransmit_down {n : Nat} (hport : port < 4) (hnext : nextResp port s = some r) (hmove : moving s = false)
    (hdown : portUp port s = false)
    (hother : (List.range 4).find? (fun n => portUp n s &&
      (List.range 4).any (fun k => s.fabric.ifUp.contains (4 * n + k) && ifaceHolds (4 * n + k) r.dst s)) = some n) :
    exec (.responseTransmit port) s =
      .next { s with service := { s.service with ready := s.service.ready.erase r ++ [{ r with port := n }] } } := by
  change execResponseTransmit port s = _
  simp only [execResponseTransmit, hnext, hmove, hdown, hother]
  simp [Nat.not_le.mpr hport]

end

end Sys2Proof.Machine

namespace Sys2Proof

open Sys2Proof.Machine

/-- Settles O17, clause by clause from what each command of the front end does. -/
theorem requestsAreReassembledAndAnswered : Obligations.RequestsAreReassembledAndAnswered := by
  unfold Obligations.RequestsAreReassembledAndAnswered
  refine ⟨?keepalive, ?probe, ?firstSegment, ?single, ?unsound, ?timeout, ?unlaunched, ?running, ?free, ?moving, ?down, ?liveness⟩
  case keepalive =>
    rintro port src dst datagram frame s h p key i hop m hport hsound hsvc hmove htyp hacc rfl hhop hmac
    refine ⟨_, keepalive_accepted hport hsound hsvc htyp hacc, ?_⟩
    rw [sendFrom_resolved (sameNet_accepted h _ s) hhop hmac hmove, noteAccepted_frame]
    exact ⟨rfl, rfl, rfl, counter_count_self _ 1 s⟩
  case probe =>
    rintro port src dst datagram frame s h p key i hop m hport hsound hsvc hmove htyp hacc rfl hhop hmac hsecure
    refine ⟨_, probe_accepted hport hsound hsvc htyp hacc hsecure, ?_⟩
    rw [sendFrom_resolved (sameNet_accepted h _ s) hhop hmac hmove, noteAccepted_frame]
    exact ⟨rfl, rfl, rfl⟩
  case firstSegment =>
    intro port src dst datagram frame s h p key hport hsound hsvc htyp hacc hnone hlen hseg hsize hno hlast hver
    refine ⟨_, lorjoSegmentRx_accepted hport hsound hsvc htyp hacc, ?_⟩
    rw [takeSegment_first (s := count Cnt.lorjoRx 1 s) hnone hlen hseg hsize hno hlast hver]
    rfl
  case single =>
    intro port src dst datagram frame s h p key hport hsound hsvc htyp hacc hnone hlen hseg hsize hno hlast
    rw [lorjoSegmentRx_accepted hport hsound hsvc htyp hacc,
      takeSegment_single (s := count Cnt.lorjoRx 1 s) hnone hlen hseg hsize hno hlast]
  case unsound =>
    intro port src dst datagram frame s hport hsound hup
    rw [lorjoSegmentRx_unsound hport hsound, discardFrame, if_pos hup]
  case timeout =>
    intro src requestId s r cut hfind hdue hgood hpart hcut
    exact ⟨_, reassemblyTimeout_expired hfind hdue hgood hpart, rfl, refuse_ready hcut 5 7, counter_refuse _ _ _ _⟩
  case unlaunched =>
    intro request s a e hfind hat hdue hopen hready hlaunch
    exact exitTimer_unlaunched hfind hat hdue hopen hready hlaunch
  case running =>
    intro request s a e k l hfind hat hdue hopen hready hlaunch hl hruns
    exact exitTimer_running hfind hat hdue hopen hready hlaunch hl hruns
  case free =>
    intro port s r hport hnext hmove hup hfree
    exact responseTransmit_free hport hnext hmove hup hfree
  case moving =>
    intro port s r hport hnext hmove
    exact responseTransmit_moving hport hnext hmove
  case down =>
    intro port s r n hport hnext hmove hdown hother
    exact ⟨_, responseTransmit_down hport hnext hmove hdown hother, rfl⟩
  case liveness =>
    intro typ port src dst datagram frame s h p key hport hsound hsvc htyp hacc
    refine ⟨?_, ?_⟩
    · rintro rfl
      exact keepalive_accepted hport hsound hsvc htyp hacc
    · rintro rfl hsecure
      exact probe_accepted hport hsound hsvc htyp hacc hsecure

end Sys2Proof
end

section
/-! SUPPORT. Embedding tables and lookups: the row of an index value, TABLE_DEFINE and TABLE_DELETE, and the commands that carry a
lookup from its core to its bags (R70 to R102). -/

namespace Sys2Proof.Machine

open Sys2Proof

/-! The row of an index value (R75). -/

/-- A row of a table that hashes its indices lies within the table. -/
theorem hashRow_lt (v seed : Nat) {rows : Nat} (h : 0 < rows) : hashRow v seed rows < rows := by
  have hxor (x y : Nat) : (x % 2 ^ 64) ^^^ (x % 2 ^ 64 / y) < 2 ^ 64 :=
    have hx : x % 2 ^ 64 < 2 ^ 64 := Nat.mod_lt _ (by decide)
    Nat.xor_lt_two_pow hx (Nat.lt_of_le_of_lt (Nat.div_le_self _ _) hx)
  unfold hashRow
  exact Nat.div_lt_of_lt_mul (Nat.mul_lt_mul_of_pos_right (hxor _ _) h)

theorem resolveRow_direct {t : Desc} (h : tIndexMode t = 0) (v : Nat) :
    resolveRow t v = if v < tRows t then some v else none := by simp [resolveRow, h]

theorem resolveRow_modulo {t : Desc} (h : tIndexMode t = 1) (v : Nat) : resolveRow t v = some (v % tRows t) := by
  simp [resolveRow, h]

theorem resolveRow_hashed {t : Desc} (h : tIndexMode t = 2) (v : Nat) :
    resolveRow t v = some (hashRow v (tSeed t) (tRows t)) := by simp [resolveRow, h]

/-! The start of a command entry's action (R551). -/

/-- An accepted write of a command entry begins with its record, its requester's and the entry's status, all in the
dictionary. -/
theorem actionStart_frame (req : ReqId) (index sub : Nat) (s : State) :
    actionStart req index sub s = { s with dict := (actionStart req index sub s).dict } := by
  change startCmd (entryKey index sub) req (writeStart req index sub s) =
    { s with dict := (startCmd (entryKey index sub) req (writeStart req index sub s)).dict }
  rw [writeStart_frame]
  rfl

@[simp] theorem actionStart_lookup (req : ReqId) (index sub : Nat) (s : State) :
    (actionStart req index sub s).lookup = s.lookup := by rw [actionStart_frame]
@[simp] theorem actionStart_power (req : ReqId) (index sub : Nat) (s : State) :
    (actionStart req index sub s).power = s.power := by rw [actionStart_frame]
@[simp] theorem actionStart_now (req : ReqId) (index sub : Nat) (s : State) : (actionStart req index sub s).now = s.now := by
  rw [actionStart_frame]

/-- While nothing has touched its entry since the start of its action, a command entry is RUNNING. -/
theorem runs_of_cmds {key index sub : Nat} {req : ReqId} {s u : State} (hk : key = entryKey index sub)
    (hc : u.dict.cmds = (actionStart req index sub s).dict.cmds) : Runs key req s u := by
  subst hk
  have h : cmdOf (entryKey index sub) u = cmdOf (entryKey index sub) (actionStart req index sub s) := by
    unfold cmdOf; rw [hc]
  unfold Runs
  rw [h]
  change cmdOf (entryKey index sub) (startCmd (entryKey index sub) req (writeStart req index sub s)) = _
  rw [cmdOf_startCmd]
  simp [cmdOf]

/-! TABLE_DEFINE (R71 to R74, R513). -/

theorem tableOf_congr {s u : State} (h : u.lookup = s.lookup) (id : Nat) : tableOf id u = tableOf id s := by
  simp only [tableOf, h]

theorem coldUp_congr {s u : State} (hpower : u.power = s.power) (hnow : u.now = s.now) : coldUp u = coldUp s := by
  simp only [coldUp, hpower, hnow]

/-- What switching COLD on does to the power state depends on that state and the time. -/
theorem switchColdOn_power_congr {s u : State} (hpower : u.power = s.power) (hnow : u.now = s.now) :
    (switchColdOn u).power = (switchColdOn s).power := by
  unfold switchColdOn
  rw [hpower, hnow]
  split
  · rfl
  · exact hpower

theorem awaitCold_frame (req : ReqId) (key : Nat) (bytes : List Byte) (s : State) :
    awaitCold req key bytes s = { s with power := { (switchColdOn s).power with
      coldWaits := s.power.coldWaits ++ [(req, key, bytes)] } } := by
  unfold awaitCold switchColdOn
  dsimp only
  split <;> rfl

/-- A descriptor written as its 64 bytes is read back. -/
theorem desc_of_bytes (desc : Desc) : BitVec.ofNat 512 (ofLe (leBytes 64 desc.toNat)) = desc := by
  rw [ofLe_leBytes, Nat.mod_eq_of_lt desc.isLt, BitVec.ofNat_toNat, BitVec.setWidth_eq]

section

variable {req : ReqId} {desc : Desc} {s : State}

theorem tableDefine_accepted (h : Accepted req 0x2100 0x03 (leBytes 64 desc.toNat) s) :
    exec (.tableDefine req desc) s =
      .next (tableDefineAction req (leBytes 64 desc.toNat) (actionStart req 0x2100 0x03 s)) := by
  change execTableDefine req desc s = _
  rw [execTableDefine, cmdVia_accepted h]

/-- A sound descriptor of a free TABLE_ID with storage found waits for the cold tier where it needs it, and is entered
otherwise. -/
theorem tableDefineAction_allocated {rb sb n : Nat} {v : State} (hfree : tableOf (df desc 0 63 52) s = none)
    (hsound : tableBad desc = false) (hcache : tCached desc = true → s.lookup.rowCacheGb ≠ 0)
    (halloc : allocTable (df desc 0 63 52) desc s = some ((rb, sb, n), v)) :
    tableDefineAction req (leBytes 64 desc.toNat) s =
      if tCold desc = true ∧ tRemote desc = false ∧ coldUp s = false then
        awaitCold req Ent.tableDefine (leBytes 64 desc.toNat) s
      else endCmd Ent.tableDefine 0 0 (measureBytes 8 8 (leBytes 64 desc.toNat) { v with lookup := { v.lookup with
        tables := alSet v.lookup.tables (df desc 0 63 52)
          { desc := fillTable desc rb sb n, deleting := false, context := classNum (classOf req) } } }) := by
  have hroom : ¬ (tCached desc = true ∧ s.lookup.rowCacheGb = 0) := fun ⟨hc, h0⟩ => hcache hc h0
  unfold tableDefineAction
  simp only [desc_of_bytes, hfree, hsound, hroom, halloc, Option.isSome_none, Bool.false_eq_true, if_false]

end

/-! TABLE_DELETE (R102, R133). -/

theorem tableDelete_accepted {req : ReqId} {tableId : Nat} {s : State} (h : Accepted req 0x2100 0x04 (leBytes 2 tableId) s) :
    exec (.tableDelete req tableId) s =
      .next (tableDeleteAction req (leBytes 2 tableId) (actionStart req 0x2100 0x04 s)) := by
  change execTableDelete req tableId s = _
  rw [execTableDelete, cmdVia_accepted h]

theorem tableDeleteAction_defined {tableId : Nat} {s : State} {x : Table} (hid : tableId < 65536)
    (hx : alGet s.lookup.tables tableId = some x) (req : ReqId) :
    tableDeleteAction req (leBytes 2 tableId) s =
      { s with lookup := { s.lookup with tables := alSet s.lookup.tables tableId { x with deleting := true } } } := by
  have hread : ofLe (leBytes 2 tableId) = tableId := by simpa using hid
  simp only [tableDeleteAction, hread, hx]

theorem tableDeleteComplete_unused {tableId : Nat} {s : State} {x : Table} (hx : alGet s.lookup.tables tableId = some x)
    (hdel : x.deleting = true) (hfree : tableInUse tableId s = false) :
    exec (.tableDeleteComplete tableId) s = .next (endCmd Ent.tableDelete 0 0 (dropTable tableId s)) := by
  change execTableDeleteComplete tableId s = _
  simp [execTableDeleteComplete, hx, hdel, hfree]

@[simp] theorem dropPage_lookup (page : Nat) (s : State) : (dropPage page s).lookup = s.lookup := by
  unfold dropPage
  dsimp only [invalidatePage]
  split
  · split <;> rfl
  · rfl

@[simp] theorem freeExtents_lookup (p : Extent → Bool) (s : State) : (freeExtents p s).lookup = s.lookup :=
  foldl_view State.lookup _ (fun s q => dropPage_lookup q s) _ s

theorem dropTable_tables (id : Nat) (s : State) : (dropTable id s).lookup.tables = alErase s.lookup.tables id := by
  simp [dropTable, recountRemote]

/-! The issue of a LOOKUP descriptor (R83, R261). -/

section

variable {core : Nat} {desc : Desc} {org : Origin} {s : State}

theorem lookup_inTurn {t : Desc} (hcore : core < 98) (hturn : inTurn core desc org s = true) (hgood : (matOf core s).failed = false)
    (hfields : lookupFieldsOk desc = true) (hlists : lookupLists desc s = .ok) (hagent : agentWaits (drayAgent core) s = false)
    (htables : tablesDefined desc s = true) (hshape : tableOf (shapeTable desc s) s = some t)
    (hplaces : lookupPlacesOk core desc t org s = true) :
    exec (.lookup core desc org) s =
      .next (startLookup core desc (issuedOrigin core desc org s) t (takeIssued core desc org s)) := by
  change execLookup core desc org s = _
  simp [execLookup, Nat.not_le.mpr hcore, hturn, hgood, hfields, hlists, hagent, htables, hshape, hplaces]

theorem lookup_notInTurn (hcore : core < 98) (hturn : inTurn core desc org s = false) :
    exec (.lookup core desc org) s = .next (holdIssued core desc org s) := by
  change execLookup core desc org s = _
  simp [execLookup, Nat.not_le.mpr hcore, hturn]

end

/-! Lanes (R85, R86, R95, R383). -/

/-- A read in which no codeword is in error. -/
theorem codewordsAt_nil (source : Nat) (va : Nat → Option Nat) (s : State) : codewordsAt source va [] s = (true, s) := rfl

/-- A read in which one codeword, which lies in a frame, is in error. -/
theorem codewordsAt_one {source k symbols a m : Nat} {va : Nat → Option Nat} {s : State} (hva : va k = some a)
    (hm : mpaOf a (ensureFrame (a / 4096) s) = some m) :
    codewordsAt source va [(k, symbols)] s = codewordRead source m symbols (ensureFrame (a / 4096) s) := by
  simp [codewordsAt, hva, hm]

theorem codewordRead_one (source mpa : Nat) (s : State) :
    codewordRead source mpa 1 s = (true, correctedError source mpa 1 s) := rfl

section

variable {lookup : Nat} {s : State} {j : LookupJob}

/-- A lane's next entry whose row is readable is served unless an error of its codewords cannot be corrected. -/
theorem laneServe_readable {read : LaneRead} {e : LookupEntry} {t : Desc} (hj : lookupOf lookup s = some j)
    (he : (j.parked ++ j.toServe).find? (fun e => e.lane == read.lane) = some e) (ht : tableOf e.table s = some t)
    (hrow : rowCheck t e.row s = .ok) {served : Bool} {u : State}
    (hread : codewordsAt 0 (fun k => some (laneWord e t s k)) read.errors s = (served, u)) :
    exec (.laneServe lookup read) s = .next (if served then serveEntry j e t u else u) := by
  change execLaneServe lookup read s = _
  simp only [execLaneServe, hj, he, ht, hrow, hread]

/-- The read of a lane that meets one codeword in error. -/
theorem laneRead_one {e : LookupEntry} {t : Desc} {k m : Nat} {v : State} (hv : v = ensureFrame (laneWord e t s k / 4096) s)
    (hm : mpaOf (laneWord e t s k) v = some m) (symbols : Nat) :
    codewordsAt 0 (fun k => some (laneWord e t s k)) [(k, symbols)] s = codewordRead 0 m symbols v := by
  subst hv
  exact codewordsAt_one rfl hm

/-! The stack reducer and the bag combiner (R86 to R90). -/

theorem stackReduce_served {stack : Nat} (hj : lookupOf lookup s = some j)
    (hserved : (j.toServe ++ j.parked).all (fun e => e.lane / 32 != stack) = true)
    (hmine : j.lanePartials.filter (fun p => p.source / 32 == stack) ≠ []) :
    exec (.stackReduce lookup stack) s = .next (drawFree (updLookup lookup (fun x => { x with
      lanePartials := x.lanePartials.filter (fun p => p.source / 32 != stack),
      stackPartials := x.stackPartials ++
        ((j.lanePartials.filter (fun p => p.source / 32 == stack)).map (·.bag)).eraseDups.filterMap
          (fun b => combine (lMode x.desc) stack b s.free
            ((j.lanePartials.filter (fun p => p.source / 32 == stack)).filter (fun p => p.bag == b))) }) s)) := by
  have hnone : (j.toServe ++ j.parked).any (fun e => e.lane / 32 == stack) = false := by
    rw [← Bool.not_eq_true', ← hserved, List.not_any_eq_all_not]; rfl
  have hsome : (j.lanePartials.filter (fun p => p.source / 32 == stack)).isEmpty = false := by
    rw [List.isEmpty_eq_false_iff]; exact hmine
  change execStackReduce lookup stack s = _
  simp only [execStackReduce, hj, hnone, hsome, Bool.or_self, Bool.false_eq_true, if_false]

theorem bagCombine_ready {bag : Nat} {t : Desc} (hj : lookupOf lookup s = some j) (hready : bagReady j bag = true)
    (hown : j.serves = none) (hon : coreOn j.core s = true) (ht : tableOf j.shapeTable s = some t) :
    exec (.bagCombine lookup bag) s = .next (releaseBags (lBags j.desc) lookup
      (updLookup lookup (fun j => { j with written := bag :: j.written }) (writeBag j bag s.free t (drawFree s)))) := by
  change execBagCombine lookup bag s = _
  simp [execBagCombine, hj, hready, hown, hon, ht]

end

/-! Remote groups that time out (R98). -/

theorem recordRemote_frame (j : LookupJob) (k st : Nat) (s : State) :
    recordRemote j k st s = { s with waybill := (recordRemote j k st s).waybill, dict := (recordRemote j k st s).dict } := by
  unfold recordRemote
  split
  · rw [wbSubmit_frame]
  · rfl

@[simp] theorem recordRemote_now (j : LookupJob) (k st : Nat) (s : State) : (recordRemote j k st s).now = s.now := by
  rw [recordRemote_frame]

@[simp] theorem ent_recordRemote (key : Nat) (j : LookupJob) (k st : Nat) (s : State) :
    ent key (recordRemote j k st s) = ent key s := by
  unfold recordRemote
  split
  · exact ent_wbSubmit ..
  · rfl

/-- A Waybill record raises no counter but that of suppressed records. -/
theorem counter_wbSubmit {key : Nat} (h : key ≠ Cnt.recordsSuppressed) (code inst : Nat) (p : List Nat) (s : State) :
    counter key (wbSubmit code inst p s) = counter key s := by
  unfold wbSubmit wbSubmitAt
  split
  · exact counter_count_ne 1 _ h
  · rfl

theorem counter_recordRemote {key : Nat} (h : key ≠ Cnt.recordsSuppressed) (j : LookupJob) (k st : Nat) (s : State) :
    counter key (recordRemote j k st s) = counter key s := by
  unfold recordRemote
  split
  · exact counter_wbSubmit h ..
  · rfl

/-- The time and the limit by which the groups of a silent owner are judged. -/
def remoteClock (s : State) : Nat × Nat := (ent Ent.remoteTimeoutNs s, s.now)

/-- A group of an owner waits for its answer longer than the limit. -/
def overdueGroup (owner : Nat) (clock : Nat × Nat) (g : RemoteGroup) : Bool :=
  g.owner == owner && !g.settled && g.sentAt.any (fun u => decide (u + clock.1 ≤ clock.2))

/-- A group settled leaves the time and the limit as they were. -/
theorem remoteClock_settleGroup98 (id k : Nat) (timeout : Bool) (s : State) :
    remoteClock (settleGroup98 id k timeout s) = remoteClock s := by
  unfold settleGroup98
  split
  · rfl
  · rename_i j _
    have hent (key n : Nat) (s : State) : ent Ent.remoteTimeoutNs (count key n s) = ent Ent.remoteTimeoutNs s := ent_congr rfl rfl _
    simp only [remoteClock, hent, ent_recordRemote, count_now, recordRemote_now]
    exact congrArg (·, s.now) (ent_congr rfl rfl _)

theorem counter_settleGroup98_timeout {id : Nat} {s : State} {j : LookupJob} (hj : lookupOf id s = some j) (k : Nat) :
    counter Cnt.remoteTimeouts (settleGroup98 id k true s) = (counter Cnt.remoteTimeouts s + 1) % 2 ^ 64 := by
  simp only [settleGroup98, hj, if_true, counter_count_self, counter_recordRemote (show Cnt.remoteTimeouts ≠ _ by decide)]
  rfl

/-- A fold that acts on the elements of a guard, where no action changes what the guard looks at, acts on those that the guard
lets pass at the start. -/
theorem foldl_guard {α σ γ : Type} (view : σ → γ) (p : γ → α → Bool) (f : σ → α → σ) (hf : ∀ s a, view (f s a) = view s)
    (l : List α) (s : σ) :
    l.foldl (fun s a => if p (view s) a then f s a else s) s = (l.filter (p (view s))).foldl f s := by
  induction l generalizing s with
  | nil => rfl
  | cons a l ih =>
    rw [List.foldl_cons, ih]
    cases h : p (view s) a with
    | true => simp [hf, h]
    | false => simp [h]

theorem remoteTimeout_settlesOverdue {lookup : Nat} {s : State} {j : LookupJob} (hj : lookupOf lookup s = some j) (owner : Nat) :
    exec (.remoteTimeout lookup owner) s =
      .next (((List.range j.remote.length).filter (fun k => (j.remote[k]?).any (overdueGroup owner (remoteClock s)))).foldl
        (fun s k => settleGroup98 lookup k true s) s) := by
  change execRemoteTimeout lookup owner s = _
  rw [← foldl_guard remoteClock (fun c k => (j.remote[k]?).any (overdueGroup owner c)) _
    (fun s k => remoteClock_settleGroup98 lookup k true s)]
  simp only [execRemoteTimeout, hj]
  refine congrArg _ (List.foldl_ext _ _ _ fun u k _ => ?_)
  cases j.remote[k]? <;> rfl

end Sys2Proof.Machine

namespace Sys2Proof

open Sys2Proof.Machine

/-- Settles O13, mode by mode; a hashed row is a 64-bit number's share of the table's rows. -/
theorem indexValuesSelectRows : Obligations.IndexValuesSelectRows := by
  unfold Obligations.IndexValuesSelectRows
  refine ⟨?direct, ?modulo, ?hashed⟩
  case direct =>
    intro t v hmode
    rw [resolveRow_direct hmode]
    exact ⟨fun h => if_pos h, fun h => if_neg (Nat.not_lt.mpr h)⟩
  case modulo =>
    intro t v hmode
    exact resolveRow_modulo hmode v
  case hashed =>
    intro t v x1 x2 x3 x4 hmode _ hrows h1 h2 h3 h4
    have hrow : hashRow v (tSeed t) (tRows t) = x4 * tRows t / 2 ^ 64 := by
      subst h1 h2 h3 h4
      simp only [hashRow, Nat.shiftRight_eq_div_pow, Nat.mod_mul_mod]
    exact ⟨by rw [resolveRow_hashed hmode, hrow], hrow ▸ hashRow_lt v (tSeed t) hrows⟩

/-- Settles O18: TABLE_DEFINE and TABLE_DELETE run their actions, and the end of a deletion drops the table. -/
theorem tablesAreDefinedAndDeleted : Obligations.TablesAreDefinedAndDeleted := by
  unfold Obligations.TablesAreDefinedAndDeleted
  refine ⟨?defined, ?waits, ?marked, ?dropped⟩
  case defined =>
    intro req desc s rb sb n s' hacc hfree hsound hcache halloc hcold
    refine ⟨_, tableDefine_accepted hacc, ?_⟩
    have hup : ¬ (tCold desc = true ∧ tRemote desc = false ∧ coldUp (actionStart req 0x2100 0x03 s) = false) := by
      rintro ⟨htier, hlocal, hoff⟩
      rw [coldUp_congr (actionStart_power ..) (actionStart_now ..), hcold htier hlocal] at hoff
      exact Bool.noConfusion hoff
    rw [tableDefineAction_allocated (by rw [tableOf_congr (actionStart_lookup ..), hfree]) hsound (by simpa using hcache) halloc,
      if_neg hup]
    refine ⟨rfl, ?_⟩
    rw [tableOf, endCmd_lookup, measureBytes_frame, alGet_alSet_self]
    rfl
  case waits =>
    intro req desc s p hacc hfree hsound hcache halloc htier hlocal hoff
    obtain ⟨⟨rb, sb, n⟩, v⟩ := p
    refine ⟨_, tableDefine_accepted hacc, ?_⟩
    rw [tableDefineAction_allocated (by rw [tableOf_congr (actionStart_lookup ..), hfree]) hsound (by simpa using hcache) halloc,
      if_pos ⟨htier, hlocal, by rw [coldUp_congr (actionStart_power ..) (actionStart_now ..), hoff]⟩, awaitCold_frame,
      switchColdOn_power_congr (actionStart_power ..) (actionStart_now ..), actionStart_power]
    exact ⟨runs_of_cmds rfl rfl, actionStart_lookup .., rfl⟩
  case marked =>
    intro req tableId s x hid hacc hx
    refine ⟨_, tableDelete_accepted hacc, ?_⟩
    rw [tableDeleteAction_defined hid (by simpa using hx)]
    refine ⟨runs_of_cmds rfl rfl, ?_⟩
    rw [actionStart_frame]
  case dropped =>
    intro tableId s x hx hdel hfree
    refine ⟨_, tableDeleteComplete_unused hx hdel hfree, rfl, ?_⟩
    rw [endCmd_lookup, dropTable_tables, alGet_alErase_self]

/-- Settles O19, clause by clause from what each command of a lookup's way does. -/
theorem lookupsRunToTheirBags : Obligations.LookupsRunToTheirBags := by
  unfold Obligations.LookupsRunToTheirBags
  refine ⟨?start, ?hold, ?serve, ?corrected, ?uncorrectable, ?reduce, ?combine, ?timeout, ?timeouts⟩
  case start =>
    intro core desc org s t0 hcore hturn hgood hfields hlists hagent htables hshape hplaces
    exact lookup_inTurn hcore hturn hgood hfields hlists hagent htables hshape hplaces
  case hold =>
    intro core desc org s hcore hturn
    exact lookup_notInTurn hcore hturn
  case serve =>
    intro lookup lane s j e t0 hj he ht hrow
    exact laneServe_readable (read := { lane := lane }) hj he ht hrow (codewordsAt_nil ..)
  case corrected =>
    intro lookup lane s j e t0 k v m hj he ht hrow hv hm
    exact laneServe_readable (read := ⟨lane, [(k, 1)]⟩) hj he ht hrow
      ((laneRead_one hv hm 1).trans (codewordRead_one 0 m v))
  case uncorrectable =>
    intro lookup lane symbols s j e t0 k v m hj he ht hrow hv hm h2 h3
    exact laneServe_readable (read := ⟨lane, [(k, symbols)]⟩) hj he ht hrow
      ((laneRead_one hv hm symbols).trans (codewordRead_detected h2 h3 0 m v))
  case reduce =>
    intro lookup stack s j hj hserved hmine
    exact ⟨_, stackReduce_served hj hserved hmine, rfl, rfl⟩
  case combine =>
    intro lookup bag s j t0 hj hready hown hon ht
    exact bagCombine_ready hj hready hown hon ht
  case timeout =>
    intro lookup owner s j g u hj hg howner hopen hsent hdue
    have hlate : overdueGroup owner (remoteClock s) g = true := by
      simp [overdueGroup, remoteClock, howner, hopen, hsent, hdue]
    refine ⟨_, ?_, rfl, counter_settleGroup98_timeout hj 0⟩
    rw [remoteTimeout_settlesOverdue hj, hg]
    simp [hlate]
  case timeouts =>
    rintro lookup owner s j late hj rfl
    exact remoteTimeout_settlesOverdue hj owner

end Sys2Proof
end

section
/-! SUPPORT. Table updates: a write descriptor taken by its splitter, its rows at their lanes, the commit of a batch, the
background copy and the pre-images of an epoch (R109 to R123, R131). -/

namespace Sys2Proof.Machine

open Sys2Proof

/-! A write descriptor taken by the splitter of its core (R109, R111, R127). -/

@[simp] theorem takeIssued_updates (core : Nat) (d : Desc) (org : Origin) (s : State) :
    (takeIssued core d org s).updates = s.updates := rfl

theorem bareOrigin_issuedOrigin (core : Nat) (d : Desc) (org : Origin) (s : State) :
    bareOrigin (issuedOrigin core d org s) = bareOrigin org := by
  unfold issuedOrigin
  split
  · rename_i p hp
    have hsame : isIssue d org p = true := List.find?_some hp
    simp only [isIssue, Bool.and_eq_true, beq_iff_eq] at hsame
    exact hsame.2
  · rfl

/-- A descriptor is taken alike by its origin with and without the moment of its issue. -/
@[simp] theorem takeIssued_issuedOrigin (core : Nat) (d : Desc) (org : Origin) (s : State) :
    takeIssued core d (issuedOrigin core d org s) s = takeIssued core d org s := by
  have hsame : isIssue d (issuedOrigin core d org s) = isIssue d org := by
    funext p
    simp only [isIssue, bareOrigin_issuedOrigin]
  simp only [takeIssued, hsame]

@[simp] theorem matOf_takeIssued (c core : Nat) (d : Desc) (org : Origin) (s : State) :
    matOf c (takeIssued core d org s) = matOf c s := rfl

theorem newWrite_takeIssued (core : Nat) (desc d : Desc) (org0 org : Origin) (s : State) :
    newWrite core desc org0 (takeIssued core d org s) = newWrite core desc org0 s := rfl

theorem pushWrite_eq (core : Nat) (d : Desc) (org : Origin) (s : State) :
    pushWrite core d org s = { s with updates := { s.updates with
      nextId := s.updates.nextId + 1, jobs := s.updates.jobs ++ [newWrite core d org s] } } := rfl

section

variable {op core : Nat} {desc : Desc} {org : Origin} {s : State}

/-- A write descriptor that passes the decode check in its turn takes the splitter's next number and starts, unless it is
held for its speculation ID. -/
theorem takeWrite_new (hcore : core < 98) (hturn : inTurn core desc org s = true) (hgood : (matOf core s).failed = false)
    (hop : wOpcode desc = op)
    (hok : writeOk core desc (issuedOrigin core desc org s) (takeIssued core desc org s) = true)
    (hnew : stalledWrite core desc (issuedOrigin core desc org s) (takeIssued core desc org s) = none)
    (habort : op = 0x25 → writesAhead core s.updates.nextId (issuedOrigin core desc org s) (fun r => r.deferredAt.isNone)
      (takeIssued core desc org s) = false) :
    takeWrite op core desc org s = .next (if wSpec desc = 0
      then startWrite s.updates.nextId (pushWrite core desc (issuedOrigin core desc org s) (takeIssued core desc org s))
      else pushWrite core desc (issuedOrigin core desc org s) (takeIssued core desc org s)) := by
  have hnoWait : ¬ (op = 0x25 ∧ writesAhead core s.updates.nextId (issuedOrigin core desc org s)
      (fun r => r.deferredAt.isNone) (takeIssued core desc org s) = true) := fun ⟨ha, hw⟩ => by simp [habort ha] at hw
  subst hop
  simp only [takeWrite, Nat.not_le.mpr hcore, hturn, takeIssued_issuedOrigin, takeIssued_updates, matOf_takeIssued, hnoWait, hgood, hok, hnew, ne_eq,
    not_true_eq_false, or_self, Bool.true_eq_false, Bool.false_eq_true, if_false]

/-- A row write that had waited for its lists goes on under the number it had. -/
theorem takeWrite_stalled {j : WriteJob} (hcore : core < 98) (hturn : inTurn core desc org s = true)
    (hgood : (matOf core s).failed = false) (hop : wOpcode desc = op) (hrow : op ≠ 0x25)
    (hok : writeOk core desc (issuedOrigin core desc org s) (takeIssued core desc org s) = true)
    (hstalled : stalledWrite core desc (issuedOrigin core desc org s) (takeIssued core desc org s) = some j) :
    takeWrite op core desc org s = .next (startWrite j.id (takeIssued core desc org s)) := by
  subst hop
  simp only [takeWrite, Nat.not_le.mpr hcore, hturn, takeIssued_issuedOrigin, takeIssued_updates, matOf_takeIssued, hrow, false_and, hgood, hok,
    hstalled, ne_eq, not_true_eq_false, or_self, Bool.true_eq_false, Bool.false_eq_true, if_false]

end

/-! Rows at their lanes (R112 to R117). -/

section

variable {write lane : Nat} {s : State} {j : WriteJob} {r : RowJob} {t : Desc}

/-- A row of an immediate write whose way at its lane is free, in a table without row versions, is stored whole. -/
theorem immediateWriteChunk_unversioned (hj : writeOf write s = some j) (hr : rowAt j lane = some r)
    (ht : tableOf (wTable j.desc) s = some t) (himm : wBatch j.desc = 0) (hfirst : earlierAtLane j lane s = false)
    (hlane : writeUnderway lane (some write) s = false) (hcopy : r.chunks = 0 → copyUnderway lane s = false)
    (hplain : tVersioned t = false) {w u : State} (hw : w = if tCold t = true then touchCold s else s)
    (hu : u = storeRow t r.row 0 r.data (if r.chunks = 0 then settleCopy r.table r.row t w else w)) :
    exec (.immediateWriteChunk write lane) s =
      .next (rowDone write r (fun j => { j with applied := j.applied + 1 }) (count Cnt.immediateRows 1 { u with
        updates := { u.updates with cutRows := u.updates.cutRows.filter (fun c => c != (r.table, r.row)) } })) := by
  have hfree : ¬ (r.chunks = 0 ∧ copyUnderway lane s = true) := fun ⟨h0, hc⟩ => by simp [hcopy h0] at hc
  subst hw hu
  change execImmediateWriteChunk write lane s = _
  simp only [execImmediateWriteChunk, hj, hr, ht, himm, hfirst, hlane, hfree, hplain, ne_eq, not_true_eq_false, or_self,
    Bool.false_eq_true, if_false]

/-- A chunk between the first and the last of a row with a version is stored under the word that the first one left. -/
theorem immediateWriteChunk_middle (hj : writeOf write s = some j) (hr : rowAt j lane = some r)
    (ht : tableOf (wTable j.desc) s = some t) (himm : wBatch j.desc = 0) (hfirst : earlierAtLane j lane s = false)
    (hlane : writeUnderway lane (some write) s = false) (hbegun : r.chunks ≠ 0) (hversioned : tVersioned t = true)
    (hlast : r.chunks + 1 ≠ rowChunks t) {w : State} (hw : w = if tCold t = true then touchCold s else s) :
    exec (.immediateWriteChunk write lane) s =
      .next (updWrite write (fun j => { j with
        rows := updFirst (fun x => x.pos == r.pos) (fun x => { x with chunks := r.chunks + 1, word := r.word }) j.rows })
        (storeChunk t r.row r.chunks r.word r.data w)) := by
  subst hw
  change execImmediateWriteChunk write lane s = _
  simp only [execImmediateWriteChunk, hj, hr, ht, himm, hfirst, hlane, hbegun, hversioned, hlast, ne_eq, not_true_eq_false,
    or_self, false_and, Bool.false_eq_true, if_true, if_false]

theorem rowStage_first (hj : writeOf write s = some j)
    (hr : j.rows.find? (fun r => r.lane == lane && r.deferredAt.isNone) = some r) (hbatch : wBatch j.desc ≠ 0)
    (hfirst : earlierMoving j lane s = false) : exec (.rowStage write lane) s = .next (stageAt j r s) := by
  change execRowStage write lane s = _
  simp only [execRowStage, hj, hr, hbatch, hfirst, Bool.false_eq_true, or_self, if_false]

theorem deferredRowRetry_found (hj : writeOf write s = some j)
    (hr : j.rows.find? (fun r => r.lane == lane && r.deferredAt.isSome) = some r) :
    exec (.deferredRowRetry write lane) s = .next (stageAt j r s) := by
  change execDeferredRowRetry write lane s = _
  simp only [execDeferredRowRetry, hj, hr]

/-- A row has been deferred for DEFER_LIMIT_NS. -/
def overdueRow (s : State) (r : RowJob) : Bool :=
  r.deferredAt.any (fun u => decide (u + ent Ent.deferLimitNs s ≤ s.now))

theorem deferLimitExpiry_accepting (hj : writeOf write s = some j) (hsome : j.rows.countP (overdueRow s) ≠ 0)
    (hstill : batchStill j s = true) :
    exec (.deferLimitExpiry write) s =
      .next (settleWrite write (count Cnt.deferredRows (j.rows.countP (overdueRow s)) (updWrite write
        (fun x => joinStatus stDeferred wrNoSpace { x with
          rows := x.rows.filter (fun r => !overdueRow s r),
          deferred := x.deferred + j.rows.countP (overdueRow s) }) s))) := by
  unfold overdueRow at *
  change execDeferLimitExpiry write s = _
  simp only [execDeferLimitExpiry, hj, hsome, hstill, Bool.true_eq_false, if_false]

theorem deferLimitExpiry_closed (hj : writeOf write s = some j) (hsome : j.rows.countP (overdueRow s) ≠ 0)
    (hclosed : batchStill j s = false) :
    exec (.deferLimitExpiry write) s =
      .next (settleWrite write (updWrite write (fun x => joinStatus stDenied wrNotOpen { x with
        rows := x.rows.filter (fun r => !overdueRow s r) }) s)) := by
  unfold overdueRow at *
  change execDeferLimitExpiry write s = _
  simp only [execDeferLimitExpiry, hj, hsome, hclosed, if_true, if_false]

end

/-! The commit of a batch (R111, R117, R118, R131). -/

/-- A batch that accepts the class of a descriptor it took still takes its rows and control. -/
theorem batchStill_of_open {j : WriteJob} {b : Batch} {s : State} (hb : batchOf (wBatch j.desc) s = some b)
    (hopen : b.accepting = true) (hsame : b.opening = j.opening) (hcls : j.cls = .B ∨ j.cls = b.cls) :
    batchStill j s = true := by
  simp [batchStill, batchTakes, openingOf, hb, hopen, hsame, hcls]

theorem batchStill_of_none {j : WriteJob} {s : State} (hb : batchOf (wBatch j.desc) s = none) : batchStill j s = false := by
  simp [batchStill, batchTakes, hb]

/-- A waiting commit whose turn has come: no other commit before it, no reader of the former epoch left, and no row that
its issuer sent before it on its way. -/
structure CommitDue (write : Nat) (j : WriteJob) (s : State) : Prop where
  found : writeOf write s = some j
  waits : j.waiting = true
  first : commitBefore write s = false
  unread : readersOf (s.updates.epoch - 1) s = 0
  arrived : writesAhead j.core j.id j.org (fun r => r.deferredAt.isNone) s = false

section

variable {write : Nat} {s : State} {j : WriteJob} {b : Batch}

theorem batchCommitProper_notOpen (due : CommitDue write j s) (hclosed : batchStill j s = false) :
    exec (.batchCommitProper write) s = .next (endWriteWith write stDenied wrNotOpen s) := by
  change execBatchCommitProper write s = _
  simp only [execBatchCommitProper, due.found, due.waits, due.first, due.unread, due.arrived, hclosed, ne_eq,
    not_true_eq_false, Bool.true_eq_false, Bool.false_eq_true, or_self, if_true, if_false]

theorem batchCommitProper_mismatch (due : CommitDue write j s) (hstill : batchStill j s = true)
    (hb : batchOf (wBatch j.desc) s = some b)
    (hcount : stagedCount (wBatch j.desc) s + (b.owners.map (·.2)).foldl (· + ·) 0 ≠ dword j.desc 1 % 2 ^ 32) :
    exec (.batchCommitProper write) s = .next (endWriteWith write stDenied wrCountMismatch s) := by
  change execBatchCommitProper write s = _
  simp only [execBatchCommitProper, due.found, due.waits, due.first, due.unread, due.arrived, hstill, hb, hcount,
    Option.map_some, Option.getD_some, ne_eq, not_true_eq_false, not_false_eq_true, Bool.true_eq_false, Bool.false_eq_true,
    or_self, if_true, if_false]

theorem batchCommitProper_publishes (due : CommitDue write j s) (hstill : batchStill j s = true)
    (hb : batchOf (wBatch j.desc) s = some b)
    (hcount : stagedCount (wBatch j.desc) s + (b.owners.map (·.2)).foldl (· + ·) 0 = dword j.desc 1 % 2 ^ 32)
    {u v : State} (hu : u = publishBatch (wBatch j.desc) (updBatch (wBatch j.desc) (fun b => { b with accepting := false }) s))
    (hv : v = updWrite write (fun x => { x with
      waiting := false, published := some (u.updates.epoch, dword j.desc 1 % 2 ^ 32, u.now), owners := b.owners.map (·.1) }) u) :
    exec (.batchCommitProper write) s = .next (settleCommit write (b.owners.foldl
      (fun s o => fabPost o.1 7 (wBatch j.desc) 0 (leBytes 4 o.2) 0 (.batchCommit write o.1) s) v)) := by
  subst hu hv
  change execBatchCommitProper write s = _
  simp only [execBatchCommitProper, due.found, due.waits, due.first, due.unread, due.arrived, hstill, hb, hcount,
    Option.map_some, Option.getD_some, ne_eq, not_true_eq_false, Bool.true_eq_false, Bool.false_eq_true,
    or_self, if_false]

/-- A commit past COMMIT_WAIT_NS ends if readers of the former epoch remain. -/
theorem commitWaitTimeout_late (hj : writeOf write s = some j) (hwait : j.waiting = true)
    (hlate : j.waitFrom + ent Ent.commitWaitNs s < s.now) :
    exec (.commitWaitTimeout write) s =
      .next (if readersOf (s.updates.epoch - 1) s = 0 then s else endWriteWith write stTimeout wrReadersRemain s) := by
  change execCommitWaitTimeout write s = _
  by_cases hread : readersOf (s.updates.epoch - 1) s = 0 <;> simp [execCommitWaitTimeout, hj, hwait, hlate, hread]

theorem remoteCommitTimeout_late {owner e n u : Nat} (hj : writeOf write s = some j) (hpub : j.published = some (e, n, u))
    (howner : j.owners.contains owner = true) (hlate : u + ent Ent.remoteCommitNs s ≤ s.now) :
    exec (.remoteCommitTimeout write owner) s = .next (ownerCommitted write owner stTimeout wrOwnerTimeout s) := by
  change execRemoteCommitTimeout write owner s = _
  simp only [execRemoteCommitTimeout, hj, hpub, howner, hlate, decide_true, Bool.and_self, if_true]

end

/-! Publication (R118, R119). -/

@[simp] theorem wbSubmit_updates (code inst : Nat) (p : List Nat) (s : State) :
    (wbSubmit code inst p s).updates = s.updates := by rw [wbSubmit_frame]
@[simp] theorem wbSubmit_lookup (code inst : Nat) (p : List Nat) (s : State) :
    (wbSubmit code inst p s).lookup = s.lookup := by rw [wbSubmit_frame]

/-- A batch with no row staged here publishes by the epoch alone. -/
theorem publishBatch_unstaged {batch : Nat} {s : State} (h : ∀ r ∈ s.updates.staged, r.batch ≠ batch) {w : State}
    (hw : w = dropStaged batch (freePreimages (s.updates.epoch - 1) s)) :
    publishBatch batch s = wbSubmit 0x3001 noInst [s.updates.epoch + 1, 0]
      (count Cnt.commits 1 { w with updates := { w.updates with epoch := s.updates.epoch + 1 } }) := by
  have hnone : s.updates.staged.filter (fun r => r.batch == batch) = [] :=
    List.filter_eq_nil_iff.mpr fun r hr => by simpa using h r hr
  subst hw
  simp only [publishBatch, hnone, List.foldl_nil, List.length_nil]
  rfl

/-! The background copy (R113, R120). -/

@[simp] theorem readersOf_touchCold (epoch : Nat) (s : State) : readersOf epoch (touchCold s) = readersOf epoch s := by
  rw [touchCold_frame]; rfl

@[simp] theorem slotRow_touchCold (t : Desc) (row : Nat) (s : State) : slotRow t row (touchCold s) = slotRow t row s := by
  have hread (va n : Nat) : devRead (touchCold s) va n = devRead s va n := by
    rw [touchCold_frame]; rfl
  simp only [slotRow, devNat, hread]

section

variable {lane : Nat} {s : State} {c : CommittedRow} {t : Desc}

/-- A row copied whole, or the last chunk of one, ends its copy. -/
theorem backgroundCopy_last (hc : nextCopy lane s = some c) (hlane : writeUnderway lane none s = false)
    (ht : tableOf c.table s = some t) (hlast : tVersioned t = false ∨ rowChunks t ≤ c.chunks + 1) :
    exec (.backgroundCopy lane) s = .next (finishCopy c t s) := by
  change execBackgroundCopy lane s = _
  simp only [execBackgroundCopy, hc, hlane, ht, hlast, Bool.false_eq_true, if_true, if_false]

/-- A chunk before the last is stored under the row's odd word; the content before the first is kept while it has readers. -/
theorem backgroundCopy_chunk (hc : nextCopy lane s = some c) (hlane : writeUnderway lane none s = false)
    (ht : tableOf c.table s = some t) (hversioned : tVersioned t = true) (hmore : c.chunks + 1 < rowChunks t)
    {word : Nat} {w u : State}
    (hword : word = if c.chunks = 0 then nextWord (slotRow t c.row s).version else (slotRow t c.row s).version)
    (hw : w = if tCold t = true then touchCold s else s) (hu : u = storeChunk t c.row c.chunks word c.data w) :
    exec (.backgroundCopy lane) s = .next { u with updates := { u.updates with
      committed := updFirst (fun x => x == c) (fun x => { x with
        chunks := c.chunks + 1,
        preImage := x.preImage.orElse (fun _ =>
          if readersOf (c.epoch - 1) s = 0 then none else some (asRecord (slotRow t c.row s))) }) u.updates.committed } } := by
  have hslot : slotRow t c.row w = slotRow t c.row s := by rw [hw]; split <;> simp
  have hread : readersOf (c.epoch - 1) w = readersOf (c.epoch - 1) s := by rw [hw]; split <;> simp
  have hnot : ¬ (tVersioned t = false ∨ rowChunks t ≤ c.chunks + 1) := by simp [hversioned, hmore]
  change execBackgroundCopy lane s = _
  simp only [execBackgroundCopy, hc, hlane, ht, hnot, Bool.false_eq_true, if_false, ← hw, hslot, hread, ← hword, ← hu, bne_iff_ne,
    ne_eq, ite_not]
  refine congrArg (fun f => Host.Outcome.next { u with updates := { u.updates with
    committed := updFirst (fun x => x == c) f u.updates.committed } }) (funext fun x => ?_)
  obtain ⟨_, _, _, _, _, _, _, _ | kept⟩ := x <;> rfl

end

/-! Pre-images freed (R123). -/

theorem preimageFree_unread {epoch : Nat} {s : State} (hold : epoch < s.updates.epoch) (hunread : readersOf epoch s = 0) :
    exec (.preimageFree epoch) s = .next (freePreimages epoch s) := by
  change execPreimageFree epoch s = _
  simp only [execPreimageFree, hold, hunread, and_self, if_true]

/-- The committed rows once an epoch has no readers: of those that replaced its content, the ones whose copy is not done,
without former content, and all others as they were. -/
theorem mem_freePreimages {epoch : Nat} {s : State} {c : CommittedRow} :
    c ∈ (freePreimages epoch s).updates.committed ↔
      (∃ d ∈ s.updates.committed, d.epoch = epoch + 1 ∧ d.copied = false ∧ c = { d with preImage := none }) ∨
      (c ∈ s.updates.committed ∧ c.epoch ≠ epoch + 1) := by
  simp only [freePreimages, List.mem_map, List.mem_filter]
  constructor
  · rintro ⟨d, ⟨hd, hkept⟩, rfl⟩
    by_cases he : d.epoch = epoch + 1
    · exact .inl ⟨d, hd, he, by simpa [he] using hkept, by simp [he]⟩
    · exact .inr (by simpa [he] using hd)
  · rintro (⟨d, hd, he, hcopied, rfl⟩ | ⟨hc, he⟩)
    · exact ⟨d, ⟨hd, by simp [hcopied]⟩, by simp [he]⟩
    · exact ⟨c, ⟨hc, by simp [he]⟩, by simp [he]⟩

end Sys2Proof.Machine

namespace Sys2Proof

open Sys2Proof.Machine

/-- Settles O20, clause by clause from what the splitter and a row's lane do. -/
theorem writeDescriptorsReachTheirRows : Obligations.WriteDescriptorsReachTheirRows := by
  unfold Obligations.WriteDescriptorsReachTheirRows
  refine ⟨?taken, ?stalled, ?whole, ?chunk, ?staged, ?retried, ?deferred, ?denied⟩
  case taken =>
    rintro core desc org s _ _ op i hcore hturn hgood hop rfl rfl hok hnew habort hi
    have hexec : exec i s = takeWrite op core desc org s := by
      obtain ⟨rfl, rfl⟩ | ⟨rfl, rfl⟩ | ⟨rfl, rfl⟩ | ⟨rfl, rfl⟩ := hi <;> rfl
    refine ⟨_, rfl, ?_⟩
    rw [hexec, takeWrite_new hcore hturn hgood hop hok hnew habort, pushWrite_eq, newWrite_takeIssued, takeIssued_updates]
  case stalled =>
    rintro core desc org s _ _ j hcore hturn hgood hop rfl rfl hok hstalled
    exact takeWrite_stalled hcore hturn hgood hop (by decide) hok hstalled
  case whole =>
    intro write lane s j r t0 hj hr ht himm hfirst hlane hcopy hplain
    exact ⟨_, _, rfl, rfl, immediateWriteChunk_unversioned hj hr ht himm hfirst hlane hcopy hplain rfl rfl⟩
  case chunk =>
    intro write lane s j r t0 hj hr ht himm hfirst hlane hbegun hversioned hlast
    exact ⟨_, rfl, immediateWriteChunk_middle hj hr ht himm hfirst hlane hbegun hversioned hlast rfl⟩
  case staged =>
    intro write lane s j r hj hr hbatch hfirst
    exact rowStage_first hj hr hbatch hfirst
  case retried =>
    intro write lane s j r hj hr
    exact deferredRowRetry_found hj hr
  case deferred =>
    rintro write s j _ hj rfl hsome hstill
    exact deferLimitExpiry_accepting hj hsome hstill
  case denied =>
    intro write s j hj hclosed hsome
    have hcount : j.rows.countP (overdueRow s) ≠ 0 := by
      obtain ⟨r, hr, hlate⟩ := List.any_eq_true.mp hsome
      exact (List.countP_pos_iff.mpr ⟨r, hr, hlate⟩).ne'
    exact deferLimitExpiry_closed hj hcount hclosed

/-- Settles O21, clause by clause from what a commit, its timeouts, the background copy and the end of an epoch's readers do. -/
theorem commitsPublishOrTimeOut : Obligations.CommitsPublishOrTimeOut := by
  unfold Obligations.CommitsPublishOrTimeOut
  refine ⟨?published, ?mismatch, ?notOpen, ?unstaged, ?waitTimeout, ?ownerTimeout, ?copied, ?chunk, ?freed⟩
  case published =>
    rintro write s j b _ rows hj hwaits hfirst hunread rfl harrived hb hopen hsame hcls hrows rfl
    exact ⟨_, _, rfl, rfl, batchCommitProper_publishes ⟨hj, hwaits, hfirst, hunread, harrived⟩
      (batchStill_of_open hb hopen hsame hcls) hb hrows.symm rfl rfl⟩
  case mismatch =>
    rintro write s j b _ hj hwaits hfirst hunread rfl harrived hb hopen hsame hcls hcount
    exact batchCommitProper_mismatch ⟨hj, hwaits, hfirst, hunread, harrived⟩ (batchStill_of_open hb hopen hsame hcls) hb hcount
  case notOpen =>
    intro write s j hj hwaits hfirst hunread harrived hb
    exact batchCommitProper_notOpen ⟨hj, hwaits, hfirst, hunread, harrived⟩ (batchStill_of_none hb)
  case unstaged =>
    intro batch s hnone
    rw [publishBatch_unstaged hnone rfl]
    simp [dropStaged, freePreimages]
  case waitTimeout =>
    intro write s j hj hwaits hlate
    exact commitWaitTimeout_late hj hwaits hlate
  case ownerTimeout =>
    intro write owner s j e n u hj hpub howner hlate
    exact remoteCommitTimeout_late hj hpub howner hlate
  case copied =>
    intro lane s c t0 hc hlane ht hlast
    exact backgroundCopy_last hc hlane ht hlast
  case chunk =>
    intro lane s c t0 word w u hc hlane ht hversioned hmore hword hw hu
    exact backgroundCopy_chunk hc hlane ht hversioned hmore hword hw hu
  case freed =>
    intro epoch s hold hunread
    refine ⟨_, preimageFree_unread hold hunread, ?_, ?_, ?_, rfl⟩
    · rintro c hc he
      obtain ⟨d, -, -, -, rfl⟩ | ⟨-, hne⟩ := mem_freePreimages.mp hc
      · rfl
      · exact absurd he hne
    · exact fun c hc hne => mem_freePreimages.mpr (.inr ⟨hc, hne⟩)
    · exact fun c hc he hcopied => mem_freePreimages.mpr (.inl ⟨c, hc, he, hcopied, rfl⟩)

end Sys2Proof
end

section
/-! SUPPORT. The matrix arrays: a MATMUL descriptor at decode, the streaming of tiles, and the drain, replay and pre-emption
of chains (R142 to R157, R190 to R195, R269, R365). -/

namespace Sys2Proof.Machine

open Sys2Proof

/-! A MATMUL descriptor in its turn (R148, R152, R269). -/

section

variable {core : Nat} {desc : Desc} {org : Origin} {s : State}

theorem matmul_joins (hcore : core < 98) (hturn : inTurn core desc org s = true) (hok : matDecodeOk core desc org s = true)
    (hroom : ringUsed (matOf core s) < s.job.tileRing) (hring : ringTaken core desc s = false) :
    exec (.matmul core desc org) s =
      .next (addToChain core desc (issuedOrigin core desc org s) (takeIssued core desc org s)) := by
  change execMatmul core desc org s = _
  simp [execMatmul, Nat.not_le.mpr hcore, hturn, hok, Nat.not_le.mpr hroom, hring]

theorem matmul_waits (hcore : core < 98) (hturn : inTurn core desc org s = true) (hok : matDecodeOk core desc org s = true)
    (hfull : s.job.tileRing ≤ ringUsed (matOf core s) ∨ ringTaken core desc s = true) :
    exec (.matmul core desc org) s = .next (holdIssued core desc org s) := by
  change execMatmul core desc org s = _
  simp [execMatmul, Nat.not_le.mpr hcore, hturn, hok, hfull]

end

/-! The next tile of the tile queue (R142 to R145, R154, R268). -/

/-- The next entry of a core's tile queue, with its chain, that nothing but its weight blocks can hold: the core is on and has
not failed, no chain waits for its replay, and no earlier drain that DEP waits for is open. -/
structure TileReady (core : Nat) (s : State) (e : TileEntry) (c : Chain) : Prop where
  next : nextEntry core s = some e
  chain : chainOfEntry (matOf core s) e = some c
  on : coreOn core s = true
  sound : (matOf core s).failed = false
  noReplay : (matOf core s).chains.any needsReplay = false
  noDrain : mDep e.desc = true → e.tile = 0 → earlierDrain (matOf core s) e.num = false

section

variable {core : Nat} {s : State} {e : TileEntry} {c : Chain}

theorem TileReady.not_held (h : TileReady core s e c) :
    ¬ (coreOn core s = false ∨ (matOf core s).failed = true ∨ (matOf core s).chains.any needsReplay = true ∨
      (mDep e.desc ∧ e.tile = 0 ∧ earlierDrain (matOf core s) e.num = true)) := by
  rintro (hoff | hfailed | hreplay | ⟨hdep, hfirst, hdrain⟩)
  · exact Bool.false_ne_true (hoff.symm.trans h.on)
  · exact Bool.false_ne_true (h.sound.symm.trans hfailed)
  · exact Bool.false_ne_true (h.noReplay.symm.trans hreplay)
  · exact Bool.false_ne_true ((h.noDrain hdep hfirst).symm.trans hdrain)

theorem tileStream_shadowed (h : TileReady core s e c) (hcore : core < 98)
    (hshadow : (matOf core s).shadowTag = some (e.num, e.tile)) :
    exec (.tileStream core) s = .next (sramErrors core (streamTile core c e (matOf core s).shadow true s)) := by
  change execTileStream core s = _
  simp only [execTileStream, Nat.not_le.mpr hcore, h.next, h.chain, h.not_held, hshadow, if_false, if_true]

/-- A tile whose blocks are loaded now and had not been waited for streams with them, in its chain as the load leaves it. -/
theorem tileStream_loaded {bs : List (List Byte)} {u : State} {c' : Chain} (h : TileReady core s e c) (hcore : core < 98)
    (hshadow : (matOf core s).shadowTag ≠ some (e.num, e.tile)) (hwait : (matOf core s).ringWaitSince = none)
    (hload : loadTile core e s = some (bs, u))
    (hagain : chainOfEntry (matOf core (updMat core (fun x => { x with ringWaitSince := none }) u)) e = some c') :
    exec (.tileStream core) s = .next (sramErrors core (streamTile core c' e bs false
      (updMat core (fun x => { x with ringWaitSince := none }) u))) := by
  change execTileStream core s = _
  simp only [execTileStream, Nat.not_le.mpr hcore, h.next, h.chain, h.not_held, hshadow, hwait, hload, hagain, if_false, if_true]

end

/-! Drain and replay (R155, R157, R190 to R195). -/

section

variable {core accBase : Nat} {s : State} {c : Chain}

theorem chainDrain_whole {e : TileEntry} (hcore : core < 98)
    (hc : (matOf core s).chains.find? (fun c => c.accBase == accBase && drainable c) = some c)
    (he : c.descs.find? (fun e => mAccOut e.desc) = some e) (hon : coreOn core s = true)
    (hgroup : c.group = 0 ∨ c.products % (16 * 2 ^ c.group) = 0) :
    exec (.chainDrain core accBase) s = .next (drainChain core c e.desc s) := by
  have hwhole : ¬ (c.group ≠ 0 ∧ c.products % (16 * 2 ^ c.group) ≠ 0) := by
    rintro ⟨hgrouped, hrest⟩
    exact hgroup.elim hgrouped hrest
  change execChainDrain core accBase s = _
  simp only [execChainDrain, Nat.not_le.mpr hcore, hc, he, hon, hwhole, Bool.true_eq_false, if_false]

theorem chainReplay_again (hcore : core < 98)
    (hc : (matOf core s).chains.find? (fun c => c.accBase == accBase && needsReplay c) = some c) :
    exec (.chainReplay core accBase) s = .next (replayChain core c
      (if (matOf core s).shadowTag.any (fun t => c.descs.any (fun e => e.num == t.1)) = true
        then updMat core (fun x => { x with shadowTag := none }) s else stashShadow core s)) := by
  change execChainReplay core accBase s = _
  simp only [execChainReplay, Nat.not_le.mpr hcore, hc, if_false]
  split <;> rfl

end

/-! Pre-emption (R153, R365). -/

section

variable {core : Nat} {s : State}

theorem leftQueue_of_queue {q : Nat} (hq : alGet s.job.coreQueue core = some q) (p : Nat) : leftQueue core p s = (p != q) := by
  simp only [leftQueue, hq]

theorem leftQueue_of_noQueue (hnone : alGet s.job.coreQueue core = none) (p : Nat) :
    leftQueue core p s = s.job.outgoing.any (fun o => o.core == core && o.queue == p) := by
  simp only [leftQueue, hnone]

/-- TILE_PREEMPT by what the core has left: the descriptors of a queue left are marked, and shadows loaded for one of them
are taken from it. -/
theorem tilePreempt_marks {gone : Nat → Bool} (hcore : core < 98) (hgone : ∀ p, leftQueue core p s = gone p) :
    exec (.tilePreempt core) s = .next (updMat core (fun x => { x with
      chains := x.chains.map (fun c => { c with
        descs := c.descs.map (fun e => if gone e.org.queue = true then { e with preempted := true } else e) }) })
      (if (matOf core s).shadowTag.any (fun t =>
          (matOf core s).chains.any (fun c => c.descs.any (fun e => e.num == t.1 && gone e.org.queue))) = true
        then stashShadow core s else s)) := by
  change execTilePreempt core s = _
  simp only [execTilePreempt, Nat.not_le.mpr hcore, hgone, if_false]

end

end Sys2Proof.Machine

namespace Sys2Proof

open Sys2Proof.Machine

/-- Settles O30, clause by clause from what a descriptor in its turn and a tile that nothing holds do. -/
theorem tilesJoinAndStream : Obligations.TilesJoinAndStream := by
  unfold Obligations.TilesJoinAndStream
  refine ⟨?joins, ?waits, ?shadowed, ?loaded⟩
  case joins =>
    intro core desc org s hcore hturn hok hroom hring
    exact matmul_joins hcore hturn hok hroom hring
  case waits =>
    intro core desc org s hcore hturn hok hfull
    exact matmul_waits hcore hturn hok hfull
  case shadowed =>
    intro core s e c hcore hnext hchain hon hsound hreplay hdrain hshadow
    exact tileStream_shadowed ⟨hnext, hchain, hon, hsound, hreplay, hdrain⟩ hcore hshadow
  case loaded =>
    rintro core s e c bs u _ c' hcore hnext hchain hon hsound hreplay hdrain hshadow hwait hload rfl hagain
    exact tileStream_loaded ⟨hnext, hchain, hon, hsound, hreplay, hdrain⟩ hcore hshadow hwait hload hagain

/-- Settles O31, clause by clause from what a drain, a replay and a pre-emption do. -/
theorem chainsDrainReplayAndYield : Obligations.ChainsDrainReplayAndYield := by
  unfold Obligations.ChainsDrainReplayAndYield
  refine ⟨?drain, ?replay, ?switched, ?released⟩
  case drain =>
    intro core accBase s c e hcore hc he hon hgroup
    exact chainDrain_whole hcore hc he hon hgroup
  case replay =>
    rintro core accBase s c _ hcore hc rfl
    exact chainReplay_again hcore hc
  case switched =>
    rintro core s q _ hcore hq rfl
    exact tilePreempt_marks hcore (leftQueue_of_queue hq)
  case released =>
    rintro core s _ _ hcore hnone rfl rfl
    exact tilePreempt_marks hcore (leftQueue_of_noQueue hnone)

end Sys2Proof
end

section
/-! SUPPORT. A control core's instruction in its place: what a completion, a stall and a place in the vector queue come to (R210, R216,
R226, R233; log 165). -/

namespace Sys2Proof.Machine

open Sys2Proof

/-- Two updates of a list that agree at its element there are one. -/
theorem updAt_congr {α : Type} {l : List α} {i : Nat} {f g : α → α} {d : α} (h : f (l.getD i d) = g (l.getD i d)) :
    updAt l i f = updAt l i g := by
  apply List.ext_getElem?
  intro j
  rw [updAt, updAt, List.getElem?_modify, List.getElem?_modify]
  by_cases hij : i = j
  · subst hij
    cases hi : l[i]? with
    | none => rfl
    | some a =>
      rw [List.getD_eq_getElem?_getD, hi] at h
      simpa using h
  · simp [hij]

theorem updCtl_congr {core : Nat} {f g : CoreControl → CoreControl} {s : State} (h : f (ctlOf core s) = g (ctlOf core s)) :
    updCtl core f s = updCtl core g s := by
  rw [updCtl, updCtl, updAt_congr h]

theorem updVec_congr {core : Nat} {f g : CoreVector → CoreVector} {s : State} (h : f (vecOf core s) = g (vecOf core s)) :
    updVec core f s = updVec core g s := by
  rw [updVec, updVec, updAt_congr h]

/-- An update that leaves a control core as it is leaves the machine as it is. -/
theorem updCtl_self {core : Nat} {f : CoreControl → CoreControl} {s : State} (h : f (ctlOf core s) = ctlOf core s) :
    updCtl core f s = s := by
  rw [updCtl_congr (g := id) h, updCtl, updAt, List.modify_id]

theorem inPart_of_le {p : Nat × Nat} {off n m : Nat} (hmn : m ≤ n) (h : inPart p off n = true) : inPart p off m = true := by
  simp only [inPart, Bool.and_eq_true, decide_eq_true_eq] at h ⊢
  omega

section

variable {core : Nat} {s u : State} {word : BitVec 32} {f : State → CoreRes} {is : Bool}

/-- A core that may run leaves what its instruction results in: none of the checks before it ends or changes anything. -/
theorem runInstr_of_mayRun {len : Nat} (h : MayRun core s) (hlen : len ≤ 4) (f : State → CoreRes) :
    runInstr core len f s = applyRes core s (f s) := by
  obtain ⟨-, htask, hon, hawake, heven, hin⟩ := h
  have hrun : updCtl core (fun k => { k with ccState := if k.ccState = 4 then 2 else k.ccState }) s = s :=
    updCtl_self (by simp [hawake])
  simp [runInstr, hrun, htask, hon, hawake, heven, inPart_of_le hlen hin]

theorem inOrder_of_ready (h : awaitsCount core word s = false) : inOrder core word f s = f s := by
  simp [inOrder, h]

theorem inOrder_of_awaits (h : awaitsCount core word s = true) : inOrder core word f s = .stall s := by
  simp [inOrder, h]

theorem awaitsCount_of_nil (h : (vecOf core s).vqueue = []) : awaitsCount core word s = false := by
  simp [awaitsCount, h]

theorem viaQueue_of_nil (h : (vecOf core s).vqueue = []) : viaQueue core word f s = f s := by
  simp [viaQueue, h]

/-- Behind the entries of a vector queue with room, an instruction that its engine takes is queued with its operands. -/
theorem viaQueue_queues {q : List VqEntry} (hq : (vecOf core s).vqueue = q) (hne : q ≠ []) (hroom : q.length < 16)
    (hf : f s = vDone core u) :
    viaQueue core word f s = done4 core (updVec core (fun k => { k with vqueue := k.vqueue ++ [.instr
      { word := word, pc := (ctlOf core s).pc, a := xr core (iRs1 word) s, b := xr core (iRs2 word) s,
        vl := (vecOf core s).vl, vfmt := (vecOf core s).vfmt }] }) s) := by
  rw [updVec_congr (g := fun k => { k with vqueue := k.vqueue ++ [.instr
    { word := word, pc := (ctlOf core s).pc, a := xr core (iRs1 word) s, b := xr core (iRs2 word) s, vl := k.vl,
      vfmt := k.vfmt }] }) rfl]
  simp [viaQueue, hq, hne, Nat.not_le.mpr hroom, hf, vDone, done4]

/-- A custom instruction that completes, on a core that may run and waits for no count. -/
theorem runCustom_retires {pc : BitVec 64} (h : MayRun core s) (hready : awaitsCount core word s = false) (his : is = true)
    (hf : f s = .done u pc) : runCustom core word is f s = .next (retire core pc u) := by
  simp only [runCustom, Nat.not_le.mpr h.1, his, runInstr_of_mayRun h le_rfl, inOrder_of_ready hready, hf, applyRes, if_false,
    if_true]

theorem runCustom_done (h : MayRun core s) (hready : awaitsCount core word s = false) (his : is = true)
    (hf : f s = done4 core u) : runCustom core word is f s = .next (retired core u) :=
  runCustom_retires h hready his hf

/-- A custom instruction that names the count of a queued VTOPK STORE stalls, whatever it would do (log 165). -/
theorem runCustom_awaits (h : MayRun core s) (hawaits : awaitsCount core word s = true) (his : is = true)
    (f : State → CoreRes) : runCustom core word is f s = .next (updCtl core (fun k => { k with ccState := 2 }) s) := by
  simp only [runCustom, Nat.not_le.mpr h.1, his, runInstr_of_mayRun h le_rfl, inOrder_of_awaits hawaits, if_false, if_true]
  rfl

/-- A vector instruction that completes, with nothing in the vector queue before it. -/
theorem runVector_done (h : MayRunVector core s) (his : is = true) (hf : f s = vDone core u) :
    runCustom core word is (viaQueue core word f) s = .next (retiredVector core u) := by
  obtain ⟨hrun, hempty⟩ := h
  refine runCustom_done hrun (awaitsCount_of_nil hempty) his ?_
  rw [viaQueue_of_nil hempty, hf]
  rfl

end

end Sys2Proof.Machine
end

section
/-! SUPPORT. The vector engine's instructions: what each of them leaves once its encoding and its accesses are in order (R211 to
R223). -/

namespace Sys2Proof.Machine

open Sys2Proof

section

variable {core : Nat} {word : BitVec 32} {s : State}

/-! VSETL, VRED and VTOPK (R211, R220, R221, R223). -/

theorem opVsetl_done (h7 : iF7 word / 16 = 0) (h2 : iRs2 word = 0) (hfmt : fmtOk (iF7 word % 16) = true) :
    opVsetl core word s = vDone core (setX core (iRd word)
      (BitVec.ofNat 64 (if iRs1 word = 0 then vlMax core (iF7 word % 16)
        else Nat.min (xr core (iRs1 word) s).toNat (vlMax core (iF7 word % 16))))
      (updVec core (fun k => { k with
        vl := if iRs1 word = 0 then vlMax core (iF7 word % 16)
          else Nat.min (xr core (iRs1 word) s).toNat (vlMax core (iF7 word % 16)),
        vfmt := iF7 word % 16 }) s)) := by
  simp only [opVsetl, h7, h2, hfmt, ne_eq, not_true_eq_false, Bool.true_eq_false, or_self, if_false]

theorem opVred_folds (hd : iRd word < 8) (hop : iF7 word / 2 ≤ 5) (hx : iF7 word / 2 = 4 ∨ iRs2 word = 0) :
    opVred core word s = vDone core (setSlot core (iRd word)
      (reduce (iF7 word / 2) (vecOf core s).vfmt (vecOf core s).vl
        ((xr core (iRs2 word) s).toNat % 2 ^ fmtBits (vecOf core s).vfmt)
        ((active core (iVm word) s).map (fun e => (e, vElem (fmtBits (vecOf core s).vfmt) e (vr core (iRs1 word) s))))) s) := by
  have h8 : iF7 word / 2 ≠ 8 := by omega
  have hlegal : ¬ (iF7 word / 2 ≠ 4 ∧ iRs2 word ≠ 0) := by tauto
  simp only [opVred, Nat.not_le.mpr hd, hop, hlegal, h8, decide_true, Bool.true_or, Bool.not_true, Bool.false_eq_true,
    false_and, or_self, if_false]

theorem opVred_thresh (hd : iRd word < 8) (hop : iF7 word / 2 = 8) (h1 : iRs1 word = 0) (h2 : iRs2 word = 0) :
    opVred core word s = vDone core (setSlot core (iRd word) (topkThresh (vecOf core s).topk) s) := by
  simp [opVred, hd, hop, h1, h2]

theorem opTopkSet_done (hvm : iVm word = false) (hpos : (xr core (iRs1 word) s).toNat ≠ 0)
    (hle : (xr core (iRs1 word) s).toNat ≤ 512) :
    opTopkSet core word s = vDone core (updVec core (fun x => { x with
      topk := { isSet := true, k := (xr core (iRs1 word) s).toNat,
                floor := if iRs2 word = 0 then negInf32 else BitVec.ofNat 32 (xr core (iRs2 word) s).toNat,
                entries := [] } }) s) := by
  simp only [opTopkSet, hvm, hpos, Nat.not_lt.mpr hle, Bool.false_eq_true, or_self, if_false]

theorem opTopkInsert_offers (hvl : (vecOf core s).vl ≤ 128) (hset : (vecOf core s).topk.isSet = true) :
    opTopkInsert core word s = vDone core (offer core
      ((active core (iVm word) s).map (fun e => (BitVec.ofNat 32 (vElem 32 e (wideVr core (iRs1 word) 0 s)),
        BitVec.ofNat 32 (vElem 32 e (wideVr core (iRs2 word) 1 s)))))
      (if core < 96 then s else drawFree (drawFree s))) := by
  simp only [opTopkInsert, Nat.not_lt.mpr hvl, hset, Bool.true_eq_false, false_and, or_self, if_false]

theorem opTopkStore_stores (hvm : iVm word = false) (h2 : iRs2 word = 0)
    (hin : inPart (taskPart core s) (xr core (iRs1 word) s).toNat (8 * (vecOf core s).topk.entries.length) = true) :
    opTopkStore core word s = vDone core (setX core (iRd word) (BitVec.ofNat 64 (vecOf core s).topk.entries.length)
      (taskStore core [((xr core (iRs1 word) s).toNat, topkBytes (vecOf core s).topk.entries)] s)) := by
  simp [opTopkStore, hvm, h2, hin]

theorem opTopkFloor_done (hvm : iVm word = false) (h2 : iRs2 word = 0) :
    opTopkFloor core word s = vDone core (updVec core (fun x => { x with
      topk := if flt (val32 x.topk.floor) (val32 (BitVec.ofNat 32 (xr core (iRs1 word) s).toNat)) then
        { x.topk with floor := BitVec.ofNat 32 (xr core (iRs1 word) s).toNat } else x.topk }) s) := by
  simp [opTopkFloor, hvm, h2]

/-- An element as a number: bit i of it is bit w·e + i of the register. -/
theorem testBit_vElem (w e i : Nat) (v : BitVec 4096) :
    (vElem w e v).testBit i = (decide (i < w) && v.getLsbD (w * e + i)) := by
  rw [vElem, Nat.testBit_mod_two_pow, Nat.testBit_div_two_pow, BitVec.testBit_toNat, Nat.add_comm]

/-- The elements of a register proper are the register's on every core; free values of the Bivouac lie beyond them (R208;
log 182). -/
theorem vElem_wideVr {n k e : Nat} (h : core < 96 ∨ e < 32) :
    vElem 32 e (wideVr core n k s) = vElem 32 e (vr core n s) := by
  by_cases hdie : core < 96
  · simp [wideVr, hdie]
  · have he : e < 32 := h.resolve_left hdie
    apply Nat.eq_of_testBit_eq
    intro i
    rw [testBit_vElem, testBit_vElem]
    by_cases hi : i < 32
    · have hlow : 32 * e + i < 1024 := by omega
      have hreg : 32 * e + i < 4096 := by omega
      have hmask : (BitVec.ofNat 4096 (2 ^ 1024 - 1)).getLsbD (32 * e + i) = true := by
        rw [BitVec.getLsbD_ofNat, Nat.testBit_two_pow_sub_one]
        simp only [hlow, hreg, decide_true, Bool.and_self]
      simp only [wideVr, hdie, if_false, BitVec.getLsbD_or, BitVec.getLsbD_and, hmask, BitVec.getLsbD_shiftLeft, hlow,
        decide_true, Bool.not_true, Bool.and_true, Bool.and_false, Bool.false_and, Bool.or_false]
    · simp [hi]

/-! VLD and VST (R217). -/

theorem opVld_loads (hok : vMemOk word = true)
    (hin : (active core (iVm word) s).all (fun e => inPart (taskPart core s) (vAddr core word e s) (vBytes core s)) = true) :
    opVld core word s = vDone core (vecSramWait core (sramErrors core (setV core (iRd word)
      (vPuts (fmtBits (vecOf core s).vfmt)
        ((active core (iVm word) s).map (fun e =>
          (e, ofLe (sramRead core (vAddr core word e s) (vBytes core s) s) / 16 ^ vHalf core word e s)))
        (vr core (iRd word) s)) s))) := by
  simp only [opVld, hok, hin, Bool.true_eq_false, if_false]

theorem opVst_stores (hok : vMemOk word = true)
    (hin : (active core (iVm word) s).all (fun e => inPart (taskPart core s) (vAddr core word e s) (vBytes core s)) = true) :
    opVst core word s = vDone core (vecSramWait core (taskStore core (vstWrites core word s) s)) := by
  simp only [opVst, hok, hin, Bool.true_eq_false, if_false]

/-! What the accesses of core SRAM meet changes no vector register and no byte of memory (R163, R207; logs 48 and 165). -/

/-- The vector engines and the memories. -/
def dataPart (s : State) : List CoreVector × Mem := (s.vector, s.mem)

@[simp] theorem dataPart_count (key n : Nat) (s : State) : dataPart (count key n s) = dataPart s := rfl
@[simp] theorem dataPart_drawFree (s : State) : dataPart (drawFree s) = dataPart s := rfl
@[simp] theorem dataPart_updMat (c : Nat) (f : CoreMatrix → CoreMatrix) (s : State) : dataPart (updMat c f s) = dataPart s := rfl

@[simp] theorem dataPart_wbSubmit (code inst : Nat) (p : List Nat) (s : State) :
    dataPart (wbSubmit code inst p s) = dataPart s := by
  rw [wbSubmit_frame]; rfl

@[simp] theorem dataPart_raiseVector (q : Option Nat) (v : Nat) (s : State) : dataPart (raiseVector q v s) = dataPart s := by
  unfold raiseVector
  split
  · rfl
  · split <;> rfl

@[simp] theorem dataPart_raiseEvent (bit : Nat) (s : State) : dataPart (raiseEvent bit s) = dataPart s := by
  unfold raiseEvent
  split
  · rfl
  · exact dataPart_raiseVector _ _ _

@[simp] theorem dataPart_setJobState (n : Nat) (s : State) : dataPart (setJobState n s) = dataPart s :=
  dataPart_wbSubmit _ _ _ _

theorem dataPart_raiseJobFaultOf (cause code detail : Nat) (s : State) :
    dataPart (raiseJobFaultOf cause code detail s) = dataPart s := by
  have hcounted : dataPart (count Cnt.jobFaults 1 (wbSubmit 0xE001 noInst [code, cause, detail] s)) = dataPart s := by simp
  unfold raiseJobFaultOf
  generalize count Cnt.jobFaults 1 (wbSubmit 0xE001 noInst [code, cause, detail] s) = u at hcounted
  simp only []
  split
  · rw [dataPart_raiseEvent, ← hcounted]
    split
    · exact dataPart_setJobState _ _
    · rfl
  · exact hcounted

@[simp] theorem dataPart_jobFaultPlain (unit inst cause tag opcode : Nat) (s : State) :
    dataPart (jobFaultPlain unit inst cause tag opcode s) = dataPart s := dataPart_raiseJobFaultOf _ _ _ _

@[simp] theorem dataPart_queueRepair (core : Nat) (r : Nat × Nat) (s : State) : dataPart (queueRepair core r s) = dataPart s := by
  unfold queueRepair
  split
  · rfl
  · simp

theorem dataPart_sramErrors (core : Nat) (s : State) : dataPart (sramErrors core s) = dataPart s := by
  unfold sramErrors
  simp only []
  split
  · split <;> simp
  · split <;> simp

theorem dataPart_vecSramWait (core : Nat) (s : State) : dataPart (vecSramWait core s) = dataPart s := by
  unfold vecSramWait
  split <;> simp

/-! VOP, VUN and VCVT (R212, R213, R218, R219). -/

theorem vop_done {vx : Bool} {b : Nat → Nat} (hok : vopOk (iF7 word / 2) (vecOf core s).vfmt vx = true)
    (hzero : iF7 word / 2 = 0x18 ∨ iF7 word / 2 = 0x19 → iRs1 word = 0) {l : List (Nat × Nat)}
    (hl : l = (active core (iVm word) s).map (fun e => (e, vopElem (iF7 word / 2) (vecOf core s).vfmt
      (vElem (fmtBits (vecOf core s).vfmt) e (vr core (iRs1 word) s)) (b e)
      (vElem (fmtBits (vecOf core s).vfmt) e (vr core (iRd word) s)) e ((vr core 0 s).getLsbD e)))) :
    vop core word vx b s = vDone core (setV core (iRd word)
      (if isCompare (iF7 word / 2) = true then putBits l (vecOf core s).vl (vr core (iRd word) s)
       else vPuts (fmtBits (vecOf core s).vfmt) l (vr core (iRd word) s)) s) := by
  have hlegal : ¬ ((iF7 word / 2 = 0x18 ∨ iF7 word / 2 = 0x19) ∧ iRs1 word ≠ 0) := fun h => h.2 (hzero h.1)
  simp only [vop, hok, hlegal, hl, Bool.true_eq_false, or_self, if_false]

theorem opVun_done (h2 : iRs2 word = 0) (hok : vunOk (iF7 word / 2) (vecOf core s).vfmt = true) :
    opVun core word s = vDone core (setV core (iRd word)
      (vPuts (fmtBits (vecOf core s).vfmt) ((active core (iVm word) s).map (fun e =>
        (e, vunElem (iF7 word / 2) (vecOf core s).vfmt (vElem (fmtBits (vecOf core s).vfmt) e (vr core (iRs1 word) s)))))
        (vr core (iRd word) s)) s) := by
  simp only [opVun, h2, hok, ne_eq, not_true_eq_false, Bool.true_eq_false, or_self, if_false]

theorem opVcvt_converts (hok : vcvtOk core word s = true) (hmx : bitOf (iF7 word) 4 = false) {divisor : Option (BitVec 32)}
    (hd : divisor = if iRs2 word = 0 then none else some (BitVec.ofNat 32 (xr core (iRs2 word) s).toNat)) {cs : List Conv}
    (hcs : cs = ((List.range (vecOf core s).vl).map (fun e => groupElem core (iF7 word % 16) (iRs1 word) e s)).map
      (convElem (iF7 word % 16) (vecOf core s).vfmt divisor)) :
    opVcvt core word s = vDone core (countTask core cs (setV core (iRd word)
      (vPuts (fmtBits (vecOf core s).vfmt) ((cs.map (·.code)).zipIdx.map (fun p => (p.2, p.1))) (vr core (iRd word) s)) s)) := by
  simp only [opVcvt, hok, hmx, ← hd, ← hcs, Bool.true_eq_false, Bool.false_eq_true, if_false]

theorem opVcvt_quantises (hok : vcvtOk core word s = true) (hmx : bitOf (iF7 word) 4 = true) (h2 : iRs2 word = 0)
    {bs : List (Nat × List Conv)}
    (hbs : bs = (blocks32 (((List.range (vecOf core s).vl).map (fun e => groupElem core (iF7 word % 16) (iRs1 word) e s)).map
      (decElem (iF7 word % 16)))).map (mxBlock (vecOf core s).vfmt)) {u : State}
    (hu : u = setV core (iRd word) (vPuts (fmtBits (vecOf core s).vfmt)
      (((bs.flatMap (·.2)).map (·.code)).zipIdx.map (fun p => (p.2, p.1))) (vr core (iRd word) s)) s) :
    opVcvt core word s = vDone core (countTask core (bs.flatMap (·.2)) (setV core (iRd word + 1)
      (vPuts 8 ((bs.map (·.1)).zipIdx.map (fun p => (p.2, p.1))) (vr core (iRd word + 1) u)) u)) := by
  simp only [opVcvt, hok, hmx, h2, ← hbs, ← hu, Bool.true_eq_false, if_false, if_true]

end

end Sys2Proof.Machine

namespace Sys2Proof

open Sys2Proof.Machine

/-- Settles O22, clause by clause from what each instruction leaves. -/
theorem vectorSettingsReductionsAndTopK : Obligations.VectorSettingsReductionsAndTopK := by
  unfold Obligations.VectorSettingsReductionsAndTopK
  refine ⟨?vsetl, ?folds, ?thresh, ?set, ?insert, ?store, ?floor, ?wide⟩
  case vsetl =>
    intro core word s h hop hf3 h7 h2 hfmt
    exact ⟨_, rfl, runCustom_done h.1 (awaitsCount_of_nil h.2) (by simp [hop, hf3]) (opVsetl_done h7 h2 hfmt)⟩
  case folds =>
    intro core word s h hop hf3 hd h7 h2
    exact runVector_done h (by simp [hop, hf3]) (opVred_folds hd h7 h2)
  case thresh =>
    intro core word s h hop hf3 hd h7 h1 h2
    exact runVector_done h (by simp [hop, hf3]) (opVred_thresh hd h7 h1 h2)
  case set =>
    intro core word s h his hvm hpos hle
    exact runVector_done h his (opTopkSet_done hvm hpos hle)
  case insert =>
    intro core word s h his hvl hset
    exact runVector_done h his (opTopkInsert_offers hvl hset)
  case store =>
    intro core word s h his hvm h2 hin
    exact runVector_done h his (opTopkStore_stores hvm h2 hin)
  case floor =>
    intro core word s h his hvm h2
    exact runVector_done h his (opTopkFloor_done hvm h2)
  case wide =>
    intro core n k s e h
    exact vElem_wideVr h

/-- Settles O23, clause by clause from what the accesses read, write and meet. -/
theorem vectorLoadsAndStores : Obligations.VectorLoadsAndStores := by
  unfold Obligations.VectorLoadsAndStores
  refine ⟨?vld, ?vst, ?met⟩
  case vld =>
    intro core word s h hop hf3 hload hok hin
    exact runVector_done h (by simp [hop, hf3, hload]) (opVld_loads hok hin)
  case vst =>
    intro core word s h hop hf3 hstore hok hin
    exact runVector_done h (by simp [hop, hf3, hstore]) (opVst_stores hok hin)
  case met =>
    intro core s
    have hwait := dataPart_vecSramWait core s
    have herrors := dataPart_sramErrors core s
    exact ⟨congrArg Prod.fst hwait, congrArg Prod.snd hwait, congrArg Prod.fst herrors, congrArg Prod.snd herrors⟩

/-- Settles O24, clause by clause from what each instruction writes, at once or from the vector queue. -/
theorem vectorArithmeticWritesItsRegister : Obligations.VectorArithmeticWritesItsRegister := by
  unfold Obligations.VectorArithmeticWritesItsRegister
  refine ⟨?vop, ?vun, ?converts, ?quantises, ?queued⟩
  case vop =>
    rintro core word s vx i op c b l h hop (⟨hf3, rfl, rfl, rfl⟩ | ⟨hf3, rfl, rfl, rfl⟩) rfl rfl hok hzero hl
    · exact runVector_done h (by simp [hop, hf3]) (vop_done hok hzero hl)
    · exact runVector_done h (by simp [hop, hf3]) (vop_done hok hzero hl)
  case vun =>
    intro core word s h hop hf3 h2 hok
    exact runVector_done h (by simp [hop, hf3]) (opVun_done h2 hok)
  case converts =>
    intro core word s divisor cs h hop hf3 hok hmx hd hcs
    exact runVector_done h (by simp [hop, hf3]) (opVcvt_converts hok hmx hd hcs)
  case quantises =>
    rintro core word s _ bs h hop hf3 hok hmx h2 rfl hbs
    exact ⟨_, rfl, runVector_done h (by simp [hop, hf3]) (opVcvt_quantises hok hmx h2 hbs rfl)⟩
  case queued =>
    intro core word s q h hready hq hne hroom hop hf3 h2 hok
    exact runCustom_done h hready (by simp [hop, hf3]) (viaQueue_queues hq hne hroom (opVun_done h2 hok))

end Sys2Proof
end

section
/-! SUPPORT. Engine control, HWAIT and the scalar F32 instructions: what each instruction of custom-1 leaves once its encoding is
legal and what it waits for is met (R214, R215, R222 to R225, R232, R237, R239). -/

namespace Sys2Proof.Machine

open Sys2Proof

section

variable {core : Nat} {word : BitVec 32} {s : State}

/-! SMRD, SFOP and EFENCE. -/

theorem opSmrd_reads (h7 : iF7 word = 0) (h2 : iRs2 word = 0) (hslot : iRs1 word < 8)
    (hnone : (vecOf core s).vqueue.any (reducesTo (iRs1 word)) = false) :
    opSmrd core word s = done4 core (setX core (iRd word) ((vecOf core s).slots.getD (iRs1 word) 0) s) := by
  simp only [opSmrd, h7, h2, Nat.not_le.mpr hslot, hnone, ne_eq, not_true_eq_false, Bool.false_eq_true, or_self, if_false]

theorem opSfop_done {v : BitVec 64} (hlegal : iF7 word < 8 ∨ iRs2 word = 0)
    (hv : sfopValue (iF7 word) (xr core (iRs1 word) s) (xr core (iRs2 word) s) = some v) :
    opSfop core word s = done4 core (setX core (iRd word) v s) := by
  have hnot : ¬ (8 ≤ iF7 word ∧ iRs2 word ≠ 0) := by rintro ⟨hhigh, hne⟩; omega
  simp only [opSfop, hnot, hv, if_false]

theorem opEfence_passes (h7 : iF7 word / 16 = 0) (hd : iRd word = 0) (h1 : iRs1 word = 0) (h2 : iRs2 word = 0)
    (hvec : bitOf (iF7 word) 0 = true → (vecOf core s).vqueue = [])
    (htop : bitOf (iF7 word) 3 = true → (vecOf core s).vqueue.any isTopk = false)
    (hmat : bitOf (iF7 word) 1 = true → matrixQuiet core s = true)
    (hdray : bitOf (iF7 word) 2 = true → draysQuiet core s = true) : opEfence core word s = done4 core s := by
  have hquiet0 : (bitOf (iF7 word) 0 && !(vecOf core s).vqueue.isEmpty) = false :=
    Bool.and_eq_false_imp.mpr fun hb => by simp [hvec hb]
  have hquiet3 : (bitOf (iF7 word) 3 && (vecOf core s).vqueue.any isTopk) = false := Bool.and_eq_false_imp.mpr htop
  have hquiet1 : (bitOf (iF7 word) 1 && !matrixQuiet core s) = false :=
    Bool.and_eq_false_imp.mpr fun hb => by simp [hmat hb]
  have hquiet2 : (bitOf (iF7 word) 2 && !draysQuiet core s) = false :=
    Bool.and_eq_false_imp.mpr fun hb => by simp [hdray hb]
  simp only [opEfence, h7, hd, h1, h2, hquiet0, hquiet1, hquiet2, hquiet3, ne_eq, not_true_eq_false, Bool.or_false,
    Bool.false_eq_true, or_self, if_false]

/-! RESOLVE and HSIG (R224, R237, R307). -/

/-- An effect of a speculative task is held behind the earlier ones. -/
theorem emitEffect_holds (hspec : (ctlOf core s).specid ≠ 0) (e : HeldEffect) :
    emitEffect core e s = done4 core (updCtl core (fun k => { k with
      held := k.held ++ [((ctlOf core s).specid, taskOrg core s, e)] }) s) := by
  simp only [emitEffect, hspec, ne_eq, not_false_eq_true, if_true]

/-- An effect of a task that is not speculative, with none held before it, is delivered at once. -/
theorem emitEffect_delivers {e : HeldEffect} {u : State} (hspec : (ctlOf core s).specid = 0) (hheld : (ctlOf core s).held = [])
    (hu : deliver core (taskOrg core s) e s = (u, true)) : emitEffect core e s = done4 core u := by
  have hflush : flushEffects core s = s := by rw [flushEffects, hheld]; rfl
  simp [emitEffect, hspec, hflush, hheld, hu]

theorem opResolve_emits (h7 : iF7 word = 0) (hd : iRd word = 0) :
    opResolve core word s =
      emitEffect core (.resolve ((xr core (iRs1 word) s).toNat % 65536) (xr core (iRs2 word) s)) s := by
  simp only [opResolve, h7, hd, ne_eq, not_true_eq_false, or_self, if_false]

/-- HSIG to an address of the module, after every vector store before it. -/
theorem opHsig_emits (h7 : field (iF7 word) 5 1 = 0) (hd : iRd word = 0) (hfar : bitOf (iF7 word) 6 = false)
    (haddr : (xr core (iRs1 word) s).toNat + 8 ≤ 2 ^ 52) (hstores : storesAhead core s = false) :
    opHsig core word s =
      emitEffect core (.hsig (xr core (iRs1 word) s).toNat false (bitOf (iF7 word) 0) (xr core (iRs2 word) s)) s := by
  simp only [opHsig, h7, hd, hfar, Nat.not_lt.mpr haddr, hstores, ne_eq, not_true_eq_false, Bool.false_eq_true, false_and,
    and_false, or_self, if_false]

theorem deliver_resolve {org : Origin} {l : Nat} (hl : org.launch = some l) (branch : Nat) (outcome : BitVec 64) :
    deliver core org (.resolve branch outcome) s =
      ({ s with runahead := { s.runahead with resolves := s.runahead.resolves ++ [(l, branch, outcome)] } }, true) := by
  simp only [deliver, hl]

theorem deliver_signal {org : Origin} {va : Nat} (hok : memCheck va 8 .atomic s = .ok) (store : Bool) (v : BitVec 64) :
    deliver core org (.hsig va false store v) s = (applySignal false va store v.toNat s, true) := by
  simp only [deliver, hok, Bool.false_eq_true, if_false, if_true]

/-! EISSUE, HWAIT and TASKEND (R214, R225, R232). -/

theorem opEissue_passes {d : Desc} (h7 : iF7 word = 0) (hd0 : iRd word = 0) (h2 : iRs2 word = 0)
    (hin : inPart (taskPart core s) (xr core (iRs1 word) s).toNat 64 = true) (hmem : memoryAhead core s = false)
    (hd : d = setSpecId (BitVec.ofNat 512 (ofLe (sramRead core (xr core (iRs1 word) s).toNat 64 s))) 6 (ctlOf core s).specid)
    (hop : engineOpcode (df d 0 63 56) = true) (hroom : engineFull core (df d 0 63 56) s = false) :
    opEissue core word s = done4 core (passDesc core d (taskOrg core s) s) := by
  simp only [opEissue, h7, hd0, h2, hin, hmem, ← hd, hop, hroom, ne_eq, not_true_eq_false, Bool.true_eq_false,
    Bool.false_eq_true, or_self, if_false]

theorem opHwait_met (h7 : field (iF7 word) 5 2 = 0) (hcond : iF7 word % 4 ≠ 3) (hlocal : bitOf (iF7 word) 6 = true)
    (hin : inPart (taskPart core s) (xr core (iRs1 word) s).toNat 8 = true)
    (hmet : condHolds (iF7 word % 4) (waitValue core (xr core (iRs1 word) s).toNat true s).toNat
      (xr core (iRs2 word) s).toNat (ctlOf core s).hmask.toNat = true) :
    opHwait core word s = done4 core
      (setX core (iRd word) (waitValue core (xr core (iRs1 word) s).toNat true s) (endWait core s)) := by
  simp only [opHwait, evalWait, h7, hcond, hlocal, hin, hmet, ne_eq, not_true_eq_false, or_self, if_false, if_true]

theorem opTaskend_ends {k : TaskRec} (h7 : iF7 word = 0) (hd : iRd word = 0) (h2 : iRs2 word = 0)
    (htask : (ctlOf core s).task = some k) (hnone : (vecOf core s).vqueue.any isInstr = false) :
    opTaskend core word s = .done (endTask core k (xr core (iRs1 word) (flushEffects core s)) (flushEffects core s))
      (pc4 core (flushEffects core s)) := by
  simp only [opTaskend, h7, hd, h2, htask, hnone, ne_eq, not_true_eq_false, Bool.false_eq_true, or_self, if_false]

end

end Sys2Proof.Machine

namespace Sys2Proof

open Sys2Proof.Machine

/-- Settles O25, clause by clause from what each instruction leaves; those that await a count differ in their name only. -/
theorem controlInstructionsTakeEffect : Obligations.ControlInstructionsTakeEffect := by
  unfold Obligations.ControlInstructionsTakeEffect
  refine ⟨?smrd, ?sfop, ?efence, ?resolveHeld, ?hsigHeld, ?resolve, ?hsig, ?awaits⟩
  case smrd =>
    intro core word s h hready hop hf3 h7 h2 hslot hnone
    exact runCustom_done h hready (by simp [hop, hf3]) (opSmrd_reads h7 h2 hslot hnone)
  case sfop =>
    intro core word s v h hready hop hf3 hlegal hv
    exact runCustom_done h hready (by simp [hop, hf3]) (opSfop_done hlegal hv)
  case efence =>
    intro core word s h hready hop hf3 h7 hd h1 h2 hvec htop hmat hdray
    exact runCustom_done h hready (by simp [hop, hf3]) (opEfence_passes h7 hd h1 h2 hvec htop hmat hdray)
  case resolveHeld =>
    intro core word s h hready hop hf3 h7 hd hspec
    exact runCustom_done h hready (by simp [hop, hf3]) ((opResolve_emits h7 hd).trans (emitEffect_holds hspec _))
  case hsigHeld =>
    intro core word s h hready hop hf3 h7 hd hfar haddr hstores hspec
    exact runCustom_done h hready (by simp [hop, hf3])
      ((opHsig_emits h7 hd hfar haddr hstores).trans (emitEffect_holds hspec _))
  case resolve =>
    intro core word s l h hready hop hf3 h7 hd hspec hheld hl
    exact runCustom_done h hready (by simp [hop, hf3])
      ((opResolve_emits h7 hd).trans (emitEffect_delivers hspec hheld (deliver_resolve hl _ _)))
  case hsig =>
    rintro core word s _ h hready hop hf3 h7 hd hfar rfl haddr hspec hheld hstores hok
    exact runCustom_done h hready (by simp [hop, hf3])
      ((opHsig_emits h7 hd hfar haddr hstores).trans (emitEffect_delivers hspec hheld (deliver_signal hok _ _)))
  case awaits =>
    rintro core word s i h hawaits hop
      (⟨rfl, hf3⟩ | ⟨rfl, hf3⟩ | ⟨rfl, hf3⟩ | ⟨rfl, hf3⟩ | ⟨rfl, hf3⟩ | ⟨rfl, hf3⟩ | ⟨rfl, hf3⟩ | ⟨rfl, hf3⟩) <;>
    exact runCustom_awaits h hawaits (by simp [hop, hf3]) _

/-- Settles O26, clause by clause from what each instruction leaves. -/
theorem issueWaitAndTaskEnd : Obligations.IssueWaitAndTaskEnd := by
  unfold Obligations.IssueWaitAndTaskEnd
  refine ⟨?eissue, ?hwait, ?taskend⟩
  case eissue =>
    intro core word s d h hready hop hf3 h7 hd0 h2 hin hmem hd hengine hroom
    exact runCustom_done h hready (by simp [hop, hf3]) (opEissue_passes h7 hd0 h2 hin hmem hd hengine hroom)
  case hwait =>
    intro core word s h hready hop hf3 h7 hcond hlocal hin hmet
    exact runCustom_done h hready (by simp [hop, hf3]) (opHwait_met h7 hcond hlocal hin hmet)
  case taskend =>
    intro core word s k h hready hop hf3 h7 hd h2 htask hnone
    exact runCustom_retires h hready (by simp [hop, hf3]) (opTaskend_ends h7 hd h2 htask hnone)

end Sys2Proof
end

section
/-! SUPPORT. The base instruction set of a control core: a word in its place, and what each instruction of RV64IMAC and Zicsr leaves
(R210, R216, R233 to R235, R239; log 6). -/

namespace Sys2Proof.Machine

open Sys2Proof

section

variable {core : Nat} {word : BitVec 32} {s u : State} {pc : BitVec 64}

/-! A word in its place (R210; log 165). -/

theorem baseInstruction_full (h : MayRun core s) (hfull : word.toNat % 4 = 3) :
    exec (.baseInstruction core word) s = .next (applyRes core s (exec32 core 4 word s)) := by
  change execBaseInstruction core word s = _
  simp only [execBaseInstruction, Nat.not_le.mpr h.1, hfull, runInstr_of_mayRun h le_rfl, if_false, if_true]

theorem baseInstruction_compressed {w : Nat} (h : MayRun core s) (hhalf : word.toNat % 4 ≠ 3)
    (hw : expand16 (word.toNat % 65536) = some w) :
    exec (.baseInstruction core word) s = .next (applyRes core s (exec32 core 2 (BitVec.ofNat 32 w) s)) := by
  change execBaseInstruction core word s = _
  simp only [execBaseInstruction, Nat.not_le.mpr h.1, hhalf, runInstr_of_mayRun h (by decide : 2 ≤ 4), hw, if_false]

/-- A compressed code that stands for no instruction is illegal (R235). -/
theorem baseInstruction_undefined (h : MayRun core s) (hhalf : word.toNat % 4 ≠ 3)
    (hw : expand16 (word.toNat % 65536) = none) :
    exec (.baseInstruction core word) s = .next (syncException core 2 s) := by
  change execBaseInstruction core word s = _
  simp only [execBaseInstruction, Nat.not_le.mpr h.1, hhalf, runInstr_of_mayRun h (by decide : 2 ≤ 4), hw, if_false]
  rfl

theorem exec32_of_ready {len : Nat} (h : awaitsCount core word s = false) :
    exec32 core len word s = execWord core len word s := inOrder_of_ready h

theorem baseInstruction_retires (h : MayRunWord core word s) (hx : execWord core 4 word s = .done u pc) :
    exec (.baseInstruction core word) s = .next (retire core pc u) := by
  obtain ⟨hrun, hfull, hready⟩ := h
  rw [baseInstruction_full hrun hfull, exec32_of_ready hready, hx]
  rfl

theorem baseInstruction_raises {cause : Nat} (h : MayRunWord core word s) (hx : execWord core 4 word s = .exc cause) :
    exec (.baseInstruction core word) s = .next (syncException core cause s) := by
  obtain ⟨hrun, hfull, hready⟩ := h
  rw [baseInstruction_full hrun hfull, exec32_of_ready hready, hx]
  rfl

/-! Upper immediates, jumps and branches. -/

theorem execWord_lui (h : field word.toNat 6 0 = 0x37) :
    execWord core 4 word s = .done (setX core (field word.toNat 11 7) (immU word.toNat) s) ((ctlOf core s).pc + 4) := by
  simp only [execWord, h]; rfl

theorem execWord_auipc (h : field word.toNat 6 0 = 0x17) :
    execWord core 4 word s =
      .done (setX core (field word.toNat 11 7) ((ctlOf core s).pc + immU word.toNat) s) ((ctlOf core s).pc + 4) := by
  simp only [execWord, h]; rfl

theorem execWord_jal (h : field word.toNat 6 0 = 0x6F) :
    execWord core 4 word s =
      .done (setX core (field word.toNat 11 7) ((ctlOf core s).pc + 4) s) ((ctlOf core s).pc + immJ word.toNat) := by
  simp only [execWord, h]; rfl

theorem execWord_jalr (h : field word.toNat 6 0 = 0x67) (hf3 : field word.toNat 14 12 = 0) :
    execWord core 4 word s = .done (setX core (field word.toNat 11 7) ((ctlOf core s).pc + 4) s)
      ((xr core (field word.toNat 19 15) s + immI word.toNat) &&& ~~~1#64) := by
  simp only [execWord, h, hf3, if_true]; rfl

theorem field_lt (x hi lo : Nat) : field x hi lo < 2 ^ (hi + 1 - lo) := Nat.mod_lt _ (Nat.two_pow_pos _)

/-- The six conditions of the branches (R210). -/
theorem branchTaken_iff {f3 : Nat} (a b : BitVec 64) (hf3 : f3 < 8) (h2 : f3 ≠ 2) (h3 : f3 ≠ 3) :
    branchTaken f3 a b = true ↔ (f3 = 0 ∧ a = b) ∨ (f3 = 1 ∧ a ≠ b) ∨ (f3 = 4 ∧ a.toInt < b.toInt) ∨
      (f3 = 5 ∧ b.toInt ≤ a.toInt) ∨ (f3 = 6 ∧ a.toNat < b.toNat) ∨ (f3 = 7 ∧ b.toNat ≤ a.toNat) := by
  interval_cases f3 <;> simp [branchTaken, BitVec.slt_eq_decide, BitVec.ult_eq_decide] at h2 h3 ⊢

theorem execWord_branch (h : field word.toNat 6 0 = 0x63) (h2 : field word.toNat 14 12 ≠ 2) (h3 : field word.toNat 14 12 ≠ 3) :
    execWord core 4 word s = .done s
      (if branchTaken (field word.toNat 14 12) (xr core (field word.toNat 19 15) s) (xr core (field word.toNat 24 20) s) = true
        then (ctlOf core s).pc + immB word.toNat else (ctlOf core s).pc + 4) := by
  simp only [execWord, h, h2, h3, or_self, if_false]; rfl

theorem execWord_fence (h : field word.toNat 6 0 = 0x0F) (hf3 : field word.toNat 14 12 ≤ 1) :
    execWord core 4 word s = .done s ((ctlOf core s).pc + 4) := by
  simp only [execWord, h, hf3, if_true]; rfl

/-! Where the words of each remaining opcode go. -/

theorem execWord_opImm (h : field word.toNat 6 0 = 0x13) :
    execWord core 4 word s = opImm core word.toNat false ((ctlOf core s).pc + 4) s := by
  simp only [execWord, h]; rfl

theorem execWord_opImm32 (h : field word.toNat 6 0 = 0x1B) :
    execWord core 4 word s = opImm core word.toNat true ((ctlOf core s).pc + 4) s := by
  simp only [execWord, h]; rfl

theorem execWord_op (h : field word.toNat 6 0 = 0x33) :
    execWord core 4 word s = opReg core word.toNat false ((ctlOf core s).pc + 4) s := by
  simp only [execWord, h]; rfl

theorem execWord_op32 (h : field word.toNat 6 0 = 0x3B) :
    execWord core 4 word s = opReg core word.toNat true ((ctlOf core s).pc + 4) s := by
  simp only [execWord, h]; rfl

theorem execWord_load (h : field word.toNat 6 0 = 0x03) :
    execWord core 4 word s = opLoad core word.toNat ((ctlOf core s).pc + 4) s := by
  simp only [execWord, h]; rfl

theorem execWord_store (h : field word.toNat 6 0 = 0x23) :
    execWord core 4 word s = opStore core word.toNat ((ctlOf core s).pc + 4) s := by
  simp only [execWord, h]; rfl

theorem execWord_amo (h : field word.toNat 6 0 = 0x2F) :
    execWord core 4 word s = opAmo core word.toNat ((ctlOf core s).pc + 4) s := by
  simp only [execWord, h]; rfl

theorem execWord_system (h : field word.toNat 6 0 = 0x73) :
    execWord core 4 word s = opSystem core word.toNat ((ctlOf core s).pc + 4) s := by
  simp only [execWord, h]; rfl

/-- ADD, as it stands or expanded from a compressed word. -/
theorem execWord_add {len : Nat} (h : field word.toNat 6 0 = 0x33) (hf3 : field word.toNat 14 12 = 0)
    (hf7 : field word.toNat 31 25 = 0) :
    execWord core len word s = .done (setX core (field word.toNat 11 7)
      (xr core (field word.toNat 19 15) s + xr core (field word.toNat 24 20) s) s)
      ((ctlOf core s).pc + BitVec.ofNat 64 len) := by
  simp only [execWord, h, opReg, hf3, hf7]; rfl

/-! The operations on integers (OP, OP-32, OP-IMM and OP-IMM-32). -/

section

variable {w : Nat}

theorem opImm_done {f3 : Nat} {sh : Bool} (hf3 : f3 = field w 14 12) (hsh : sh = decide (f3 = 1 ∨ f3 = 5))
    (hlegal : sh = true → field w 31 26 = 0 ∨ (f3 = 5 ∧ field w 31 26 = 16)) :
    opImm core w false pc s = .done (setX core (field w 11 7)
      (if sh = true then aluOp f3 (field w 31 26 == 16) (xr core (field w 19 15) s) (BitVec.ofNat 64 (field w 25 20)) 64
        else aluOp f3 false (xr core (field w 19 15) s) (immI w) 64) s) pc := by
  have hshift : (f3 == 1 || f3 == 5) = sh := by rw [hsh, Bool.decide_or]; rfl
  have halt : (field w 31 26 * 2 == 32) = (field w 31 26 == 16) := by
    rw [Bool.eq_iff_iff, beq_iff_eq, beq_iff_eq]; omega
  cases hcase : sh with
  | false => simp [opImm, ← hf3, hshift, hcase]
  | true =>
    have hnot : ¬ (field w 31 26 * 2 ≠ 0 ∧ (field w 31 26 * 2 ≠ 32 ∨ f3 = 1)) := by have := hlegal hcase; omega
    simp only [opImm, ← hf3, hshift, hcase, halt, Bool.false_eq_true, Bool.true_and, true_and, hnot, if_false, if_true]

theorem opImm_narrow {f3 : Nat} (hf3 : f3 = field w 14 12)
    (hlegal : f3 = 0 ∨ (f3 = 1 ∧ field w 31 25 = 0) ∨ (f3 = 5 ∧ (field w 31 25 = 0 ∨ field w 31 25 = 32))) :
    opImm core w true pc s = .done (setX core (field w 11 7)
      (if f3 = 0 then aluW 0 false (xr core (field w 19 15) s) (immI w)
        else aluW f3 (field w 31 25 == 32) (xr core (field w 19 15) s) (BitVec.ofNat 64 (field w 25 20))) s) pc := by
  rcases hlegal with h | ⟨h, htop⟩ | ⟨h, htop | htop⟩
  · simp [opImm, ← hf3, h]
  · simp [opImm, ← hf3, h, htop]
  · simp [opImm, ← hf3, h, htop]
  · simp [opImm, ← hf3, h, htop]

theorem opReg_done {f3 f7 : Nat} (hf3 : f3 = field w 14 12) (hf7 : f7 = field w 31 25)
    (hlegal : f7 = 0 ∨ f7 = 1 ∨ (f7 = 32 ∧ (f3 = 0 ∨ f3 = 5))) :
    opReg core w false pc s = .done (setX core (field w 11 7)
      (if f7 = 1 then BitVec.ofInt 64 (mulDiv f3 64 (xr core (field w 19 15) s).toNat (xr core (field w 24 20) s).toNat)
        else aluOp f3 (f7 == 32) (xr core (field w 19 15) s) (xr core (field w 24 20) s) 64) s) pc := by
  by_cases hmul : f7 = 1
  · simp [opReg, ← hf3, ← hf7, hmul]
  · have halu : f7 = 0 ∨ (f7 = 32 ∧ (f3 = 0 ∨ f3 = 5)) := by tauto
    simp only [opReg, ← hf3, ← hf7, hmul, halu, Bool.false_eq_true, if_false, if_true]

theorem opReg_narrow {f3 f7 : Nat} (hf3 : f3 = field w 14 12) (hf7 : f7 = field w 31 25)
    (hlegal : (f7 = 0 ∧ (f3 = 0 ∨ f3 = 1 ∨ f3 = 5)) ∨ (f7 = 1 ∧ (f3 = 0 ∨ 4 ≤ f3)) ∨ (f7 = 32 ∧ (f3 = 0 ∨ f3 = 5))) :
    opReg core w true pc s = .done (setX core (field w 11 7)
      (if f7 = 1 then sext 32 (unsigned 32 (mulDiv f3 32 ((xr core (field w 19 15) s).toNat % 2 ^ 32)
          ((xr core (field w 24 20) s).toNat % 2 ^ 32)))
        else aluW f3 (f7 == 32) (xr core (field w 19 15) s) (xr core (field w 24 20) s)) s) pc := by
  by_cases hmul : f7 = 1
  · have hop : f3 = 0 ∨ 4 ≤ f3 := by omega
    simp only [opReg, ← hf3, ← hf7, hmul, hop, if_true]
  · have halu : f7 = 0 ∨ (f7 = 32 ∧ (f3 = 0 ∨ f3 = 5)) := by omega
    have hop : f3 = 0 ∨ f3 = 1 ∨ f3 = 5 := by omega
    simp only [opReg, ← hf3, ← hf7, hmul, halu, hop, if_false, if_true]

end

/-! Loads, stores and atomics (R233, R239). -/

section

variable {w f3 n a : Nat}

theorem opLoad_loads (hf3 : f3 = field w 14 12) (hlegal : f3 ≠ 7)
    (ha : a = (xr core (field w 19 15) s + immI w).toNat) (hn : n = 2 ^ (f3 % 4)) (hin : inPart (taskPart core s) a n = true)
    (hstores : storesAhead core s = false) :
    opLoad core w pc s = .done (sramErrors core (setX core (field w 11 7)
      (if f3 < 4 then sext (8 * n) (ofLe (sramRead core a n s)) else BitVec.ofNat 64 (ofLe (sramRead core a n s))) s)) pc := by
  simp only [opLoad, accBytes, ← hf3, hlegal, ← ha, ← hn, hin, hstores, Bool.true_eq_false, Bool.false_eq_true, if_false]

theorem opStore_stores (hf3 : f3 = field w 14 12) (hlegal : f3 < 4)
    (ha : a = (xr core (field w 19 15) s + immS w).toNat) (hin : inPart (taskPart core s) a (2 ^ f3) = true)
    (hmem : memoryAhead core s = false) :
    opStore core w pc s =
      .done (taskStore core [(a, leBytes (2 ^ f3) (xr core (field w 24 20) s).toNat)] s) pc := by
  simp only [opStore, accBytes, ← hf3, Nat.mod_eq_of_lt hlegal, Nat.not_le.mpr hlegal, ← ha, hin, hmem, Bool.true_eq_false,
    Bool.false_eq_true, if_false]

/-- Whether an atomic operation is defined does not depend on its operands. -/
theorem amoValue_defined {f5 k old b new : Nat} (h : amoValue f5 k old b = some new) (old' b' : Nat) :
    amoValue f5 k old' b' ≠ none := by
  unfold amoValue at h ⊢
  split at h <;> simp_all

/-- An atomic operation whose access is in order: of 4 or 8 bytes, aligned, in the partition, with no vector load or store before
it. -/
structure AmoReady (core w : Nat) (s : State) (n a : Nat) : Prop where
  legal : field w 14 12 = 2 ∨ field w 14 12 = 3
  bytes : n = 2 ^ field w 14 12
  addr : a = (xr core (field w 19 15) s).toNat
  aligned : a % n = 0
  inside : inPart (taskPart core s) a n = true
  first : memoryAhead core s = false

theorem AmoReady.accBytes_eq (h : AmoReady core w s n a) : accBytes (field w 14 12) = n := by
  have hmod : field w 14 12 % 4 = field w 14 12 := by have := h.legal; omega
  rw [accBytes, hmod, h.bytes]

/-- What an atomic operation performs, by its funct5. -/
theorem opAmo_performs (h : AmoReady core w s n a) (hlr : field w 31 27 = 2 → field w 24 20 = 0)
    (hdefined : field w 31 27 ≠ 2 → field w 31 27 ≠ 3 → amoValue (field w 31 27) (8 * n) 0 0 ≠ none) :
    opAmo core w pc s =
      if field w 31 27 = 2 then
        .done (setX core (field w 11 7) (sext (8 * n) (ofLe (sramRead core a n s)))
          (updCtl core (fun k => { k with reservation := some (a, n) }) s)) pc
      else if field w 31 27 = 3 then
        if (ctlOf core s).reservation == some (a, n) then
          .done (setX core (field w 11 7) 0
            (taskStore core [(a, leBytes n ((xr core (field w 24 20) s).toNat % 2 ^ (8 * n)))]
              (updCtl core (fun k => { k with reservation := none }) s))) pc
        else .done (setX core (field w 11 7) 1 (updCtl core (fun k => { k with reservation := none }) s)) pc
      else
        .done (setX core (field w 11 7) (sext (8 * n) (ofLe (sramRead core a n s))) (taskStore core [(a, leBytes n
          ((amoValue (field w 31 27) (8 * n) (ofLe (sramRead core a n s))
            ((xr core (field w 24 20) s).toNat % 2 ^ (8 * n))).getD (ofLe (sramRead core a n s))))] s)) pc := by
  have hencoded : ¬ ((field w 14 12 ≠ 2 ∧ field w 14 12 ≠ 3) ∨ (field w 31 27 = 2 ∧ field w 24 20 ≠ 0)) := by
    rintro (⟨h2, h3⟩ | ⟨hload, hrs2⟩)
    · exact h.legal.elim h2 h3
    · exact hrs2 (hlr hload)
  have hop : ¬ (field w 31 27 ≠ 2 ∧ field w 31 27 ≠ 3 ∧ amoValue (field w 31 27) (8 * n) 0 0 = none) :=
    fun hno => hdefined hno.1 hno.2.1 hno.2.2
  have haligned : ¬ a % n ≠ 0 := not_not.mpr h.aligned
  simp only [opAmo, h.accBytes_eq, ← h.addr, hencoded, hop, haligned, h.inside, h.first, Bool.true_eq_false,
    Bool.false_eq_true, if_false]

/-- LR reads and reserves. -/
theorem opAmo_loadReserved (h : AmoReady core w s n a) (h5 : field w 31 27 = 2) (h2 : field w 24 20 = 0) :
    opAmo core w pc s = .done (setX core (field w 11 7) (sext (8 * n) (ofLe (sramRead core a n s)))
      (updCtl core (fun k => { k with reservation := some (a, n) }) s)) pc := by
  rw [opAmo_performs h (fun _ => h2) (fun hne => absurd h5 hne), if_pos h5]

/-- SC, with its reservation or without it, ends every reservation. -/
theorem opAmo_storeConditional (h : AmoReady core w s n a) (h5 : field w 31 27 = 3) :
    opAmo core w pc s =
      if (ctlOf core s).reservation == some (a, n) then
        .done (setX core (field w 11 7) 0
          (taskStore core [(a, leBytes n ((xr core (field w 24 20) s).toNat % 2 ^ (8 * n)))]
            (updCtl core (fun k => { k with reservation := none }) s))) pc
      else .done (setX core (field w 11 7) 1 (updCtl core (fun k => { k with reservation := none }) s)) pc := by
  have hne : field w 31 27 ≠ 2 := by omega
  rw [opAmo_performs h (fun hload => absurd hload hne) (fun _ hno => absurd h5 hno), if_neg hne, if_pos h5]

/-- An AMO stores its new value and returns the old one. -/
theorem opAmo_updates {new : Nat} (h : AmoReady core w s n a) (h2 : field w 31 27 ≠ 2) (h3 : field w 31 27 ≠ 3)
    (hnew : amoValue (field w 31 27) (8 * n) (ofLe (sramRead core a n s))
      ((xr core (field w 24 20) s).toNat % 2 ^ (8 * n)) = some new) :
    opAmo core w pc s = .done (setX core (field w 11 7) (sext (8 * n) (ofLe (sramRead core a n s)))
      (taskStore core [(a, leBytes n new)] s)) pc := by
  rw [opAmo_performs h (fun hload => absurd hload h2) (fun _ _ => amoValue_defined hnew 0 0), if_neg h2, if_neg h3, hnew]
  rfl

end

/-! SYSTEM: the CSR instructions, MRET and WFI (R216, R234; Table 7.8). -/

theorem opSystem_csr {w : Nat} (h0 : field w 14 12 ≠ 0) (h4 : field w 14 12 ≠ 4) : opSystem core w pc s = opCsr core w pc s := by
  simp only [opSystem, h0, h4, ne_eq, not_false_eq_true, if_false, if_true]

/-- A CSR instruction that sets or clears no bit, as it names x0 or no bit, only reads. -/
theorem opCsr_reads {w : Nat} {old : BitVec 64} (h3 : field w 14 12 % 4 ≠ 1) (hrs : field w 19 15 = 0)
    (hold : csrRead core (field w 31 20) s = some old) :
    opCsr core w pc s = .done (setX core (field w 11 7) old s) pc := by
  simp only [opCsr, hold, h3, hrs, ne_eq, not_false_eq_true, and_self, if_true]

theorem opCsr_writes {w : Nat} {old src : BitVec 64} (h3 : field w 14 12 % 4 = 1)
    (hsrc : src = if field w 14 12 < 4 then xr core (field w 19 15) s else BitVec.ofNat 64 (field w 19 15))
    (hold : csrRead core (field w 31 20) s = some old) (hu : csrWrite core (field w 31 20) src s = some u) :
    opCsr core w pc s = .done (setX core (field w 11 7) old u) pc := by
  simp only [opCsr, hold, h3, ← hsrc, hu, ne_eq, not_true_eq_false, false_and, if_false, if_true]

theorem execWord_mret : execWord core 4 0x30200073#32 s = .done (updCtl core (fun k => { k with
    mstatus := 0x1880#64 ||| (if k.mstatus.getLsbD 7 then 8#64 else 0) }) s) (ctlOf core s).mepc := rfl

theorem execWord_wfi : execWord core 4 0x10500073#32 s =
    .done (if wfiWakes core s = true then s else updCtl core (fun k => { k with ccState := 4 }) s)
      ((ctlOf core s).pc + 4) := rfl

theorem execWord_ecall : execWord core 4 0x00000073#32 s = .exc 11 := rfl

theorem execWord_ebreak : execWord core 4 0x00100073#32 s = .exc 3 := rfl

end

end Sys2Proof.Machine

namespace Sys2Proof

open Sys2Proof.Machine

/-- Settles O27, clause by clause from what the word in its place does. -/
theorem baseInstructionsRun : Obligations.BaseInstructionsRun := by
  unfold Obligations.BaseInstructionsRun
  refine ⟨?full, ?lui, ?jal, ?compressed, ?auipc, ?jalr, ?branch, ?opImm, ?op, ?op32, ?opImm32, ?load, ?store, ?fence,
    ?csrReads, ?csrWrites, ?csrs, ?mret, ?wfi, ?atomic, ?exceptions, ?add16, ?awaits, ?alu⟩
  case full =>
    intro core word s h hfull
    exact baseInstruction_full h hfull
  case lui =>
    intro core word s h hop
    exact baseInstruction_retires h (execWord_lui hop)
  case jal =>
    intro core word s h hop
    exact baseInstruction_retires h (execWord_jal hop)
  case compressed =>
    intro core word s w h hhalf hw
    exact baseInstruction_compressed h hhalf hw
  case auipc =>
    intro core word s h hop
    exact baseInstruction_retires h (execWord_auipc hop)
  case jalr =>
    intro core word s h hop hf3
    exact baseInstruction_retires h (execWord_jalr hop hf3)
  case branch =>
    rintro core word s _ _ _ h hop rfl h2 h3 rfl rfl
    rw [baseInstruction_retires h (execWord_branch hop h2 h3)]
    simp only [branchTaken_iff _ _ (field_lt word.toNat 14 12) h2 h3]
  case opImm =>
    intro core word s f3 sh h hop hf3 hsh hlegal
    exact baseInstruction_retires h ((execWord_opImm hop).trans (opImm_done hf3 hsh hlegal))
  case op =>
    intro core word s f3 f7 h hop hf3 hf7 hlegal
    exact baseInstruction_retires h ((execWord_op hop).trans (opReg_done hf3 hf7 hlegal))
  case op32 =>
    rintro core word s f3 f7 _ _ h hop hf3 hf7 rfl rfl hlegal
    exact baseInstruction_retires h ((execWord_op32 hop).trans (opReg_narrow hf3 hf7 hlegal))
  case opImm32 =>
    intro core word s f3 h hop hf3 hlegal
    exact baseInstruction_retires h ((execWord_opImm32 hop).trans (opImm_narrow hf3 hlegal))
  case load =>
    rintro core word s f3 a n _ h hop hf3 hlegal ha hn hin hstores rfl
    exact baseInstruction_retires h ((execWord_load hop).trans (opLoad_loads hf3 hlegal ha hn hin hstores))
  case store =>
    intro core word s f3 a h hop hf3 hlegal ha hin hmem
    exact baseInstruction_retires h ((execWord_store hop).trans (opStore_stores hf3 hlegal ha hin hmem))
  case fence =>
    intro core word s h hop hf3
    exact baseInstruction_retires h (execWord_fence hop hf3)
  case csrReads =>
    rintro core word s _ old h hop hf3 hrs rfl hold
    have hcsr : opSystem core word.toNat ((ctlOf core s).pc + 4) s = opCsr core word.toNat ((ctlOf core s).pc + 4) s :=
      opSystem_csr (by omega) (by omega)
    exact baseInstruction_retires h (((execWord_system hop).trans hcsr).trans (opCsr_reads (by omega) hrs hold))
  case csrWrites =>
    rintro core word s _ old src u h hop (⟨hf3, hsrc⟩ | ⟨hf3, hsrc⟩) rfl hold hu
    all_goals
      have hcsr : opSystem core word.toNat ((ctlOf core s).pc + 4) s = opCsr core word.toNat ((ctlOf core s).pc + 4) s :=
        opSystem_csr (by omega) (by omega)
      exact baseInstruction_retires h (((execWord_system hop).trans hcsr).trans
        (opCsr_writes (by omega) (by rw [hsrc, hf3]; rfl) hold hu))
  case csrs =>
    intro core s
    exact ⟨rfl, rfl, rfl, rfl, rfl, rfl, rfl, rfl, fun v => ⟨rfl, rfl, rfl, rfl⟩⟩
  case mret =>
    rintro core _ s h rfl
    exact baseInstruction_retires h execWord_mret
  case wfi =>
    rintro core _ s h rfl
    exact baseInstruction_retires h execWord_wfi
  case atomic =>
    rintro core word s _ n a _ new _ h hop rfl hlegal hn ha haligned hin hfirst rfl rfl
    have hready : AmoReady core word.toNat s n a := ⟨hlegal, hn, ha, haligned, hin, hfirst⟩
    refine ⟨?lr, ?scFails, ?scStores, ?amo⟩
    case lr =>
      intro h5 h2
      exact baseInstruction_retires h ((execWord_amo hop).trans (opAmo_loadReserved hready h5 h2))
    case scFails =>
      intro h5 hres
      have hnot : ¬ ((ctlOf core s).reservation == some (a, n)) = true := by simpa using hres
      exact baseInstruction_retires h (((execWord_amo hop).trans (opAmo_storeConditional hready h5)).trans (if_neg hnot))
    case scStores =>
      intro h5 hres
      exact baseInstruction_retires h
        (((execWord_amo hop).trans (opAmo_storeConditional hready h5)).trans (if_pos (beq_iff_eq.mpr hres)))
    case amo =>
      intro h2 h3 hnew
      exact baseInstruction_retires h ((execWord_amo hop).trans (opAmo_updates hready h2 h3 hnew))
  case exceptions =>
    refine fun core word s h => ⟨?undefined, ?ecall, ?ebreak⟩
    case undefined =>
      rintro ⟨hhalf, hw⟩
      exact baseInstruction_undefined h hhalf hw
    case ecall =>
      rintro hready rfl
      exact baseInstruction_raises ⟨h, rfl, hready⟩ execWord_ecall
    case ebreak =>
      rintro hready rfl
      exact baseInstruction_raises ⟨h, rfl, hready⟩ execWord_ebreak
  case add16 =>
    intro core word s w h hhalf hw hready hop hf3 hf7
    rw [baseInstruction_compressed h hhalf hw, exec32_of_ready hready, execWord_add (word := BitVec.ofNat 32 w) hop hf3 hf7]
    rfl
  case awaits =>
    intro core word s h hfull hawaits
    rw [baseInstruction_full h hfull, exec32, inOrder_of_awaits hawaits]
    rfl
  case alu =>
    intro a b
    refine ⟨rfl, rfl, rfl, rfl, rfl, rfl, rfl, rfl, ?slt, ?sltu⟩
    case slt => simp only [aluOp, BitVec.slt_eq_decide, decide_eq_true_eq]
    case sltu => simp only [aluOp, BitVec.ult_eq_decide, decide_eq_true_eq]

end Sys2Proof
end

section
/-! SUPPORT. Interrupts of a core, the start of a task and its limit (R232, R234, R236), and vector tensor descriptors (R205,
R226, R227). -/

namespace Sys2Proof.Machine

open Sys2Proof

section

variable {core : Nat} {s : State}

/-! Interrupts (R234). -/

theorem timerInterrupt_traps (hcore : core < 98) (hready : interruptReady core 7 s = true) :
    exec (.timerInterrupt core) s = .next (takeInterrupt core 7 s) := by
  change execTimerInterrupt core s = _
  simp only [execTimerInterrupt, Nat.not_le.mpr hcore, hready, if_false, if_true]

/-- QWORK is pending no more once it is taken (log 30). -/
theorem qworkInterrupt_traps (hcore : core < 98) (hready : interruptReady core 16 s = true) :
    exec (.qworkInterrupt core) s =
      .next (takeInterrupt core 16 (updCtl core (fun k => { k with mip := k.mip &&& ~~~(1#64 <<< 16) }) s)) := by
  change execQworkInterrupt core s = _
  simp only [execQworkInterrupt, Nat.not_le.mpr hcore, hready, if_false, if_true]

/-! A core taken by a queue, and the start of a task on it (R232, R364). -/

/-- Taking a core touches the job's core assignment and the counters. -/
theorem takeCore_frame (q : Nat) :
    takeCore core q s = { s with
      dict := (takeCore core q s).dict
      job := { s.job with
        coreQueue := alSet s.job.coreQueue core q
        outgoing := s.job.outgoing.filter (fun o => !(o.core == core && o.reclaim)) } } := by
  have hcounts : ∀ (l : List Outgoing) (t : State),
      l.foldl (fun s o => count Cnt.reclaimNs (s.now - o.since) s) t =
        { t with dict := (l.foldl (fun s o => count Cnt.reclaimNs (s.now - o.since) s) t).dict } := by
    intro l
    induction l with
    | nil => intro t; rfl
    | cons o l ih => intro t; rw [List.foldl_cons, ih]; rfl
  unfold takeCore
  simp only []
  rw [hcounts]

/-- The task that the schedule gives a free core that is on starts there, its queue taking the core. -/
theorem taskStart_starts {p : PendingTask} (hcore : core < 98) (hfree : (ctlOf core s).task = none) (hon : coreOn core s = true)
    (hrun : dispatchStopped s = false) (hpause : movePaused core s = false) (hp : nextTaskOf core s = some p)
    (hsound : (matOf core s).failed = false) :
    exec (.taskStart core) s = .next (if p.task.persistent = true
      then fetchDirect core (startTask core p (takeCore core p.task.queue s))
      else startTask core p (takeCore core p.task.queue s)) := by
  change execTaskStart core s = _
  simp [execTaskStart, Nat.not_le.mpr hcore, hfree, hon, hrun, hpause, hp, hsound]

theorem taskLimitExpiry_faults {k : TaskRec} (hcore : core < 98) (hk : (ctlOf core s).task = some k)
    (hends : k.persistent = false) (hrun : dispatchStopped s = false) (hdue : k.startedAt + ent Ent.taskLimitNs s ≤ s.now) :
    exec (.taskLimitExpiry core) s = .next (jobFaultPlain 5 core 4 0 0 s) := by
  change execTaskLimitExpiry core s = _
  simp [execTaskLimitExpiry, Nat.not_le.mpr hcore, hk, hends, hrun, hdue]

/-! Vector tensor descriptors (R205, R226, R227). -/

/-- A descriptor has its turn: it is at the head of the vector queue, or not in it and next of those the Postilion has passed. -/
def TensorTurn (core : Nat) (desc : Desc) (org : Origin) (s : State) : Prop :=
  (vecOf core s).vqueue.head? = some (.tensor desc org) ∨
    ((vecOf core s).vqueue.contains (.tensor desc org) = false ∧ inTurn core desc org s = true)

variable {desc : Desc} {org : Origin}

theorem contains_of_head? {q : List VqEntry} {e : VqEntry} (h : q.head? = some e) : q.contains e = true :=
  List.contains_iff_mem.mpr (List.mem_of_head? h)

theorem vtensor_runs (hcore : core < 98) (hon : coreOn core s = true) (hturn : TensorTurn core desc org s)
    (hsound : (matOf core (takeTensor core desc org s)).failed = false)
    (hok : tensorOk core desc org (takeTensor core desc org s) = true) :
    exec (.vtensor core desc org) s = .next (serveVq core (runTensor core desc org (takeTensor core desc org s))) := by
  change execVtensor core desc org s = _
  rcases hturn with hhead | ⟨hout, hnext⟩
  · simp only [execVtensor, Nat.not_le.mpr hcore, hon, hhead, contains_of_head? hhead, hsound, hok, ne_eq, not_true_eq_false,
      Bool.true_eq_false, Bool.false_eq_true, and_false, false_and, or_self, if_false]
  · simp only [execVtensor, Nat.not_le.mpr hcore, hon, hout, hnext, hsound, hok, Bool.true_eq_false, Bool.false_eq_true,
      and_false, false_and, or_self, if_false]

theorem vtensor_stays (hcore : core < 98) (hin : (vecOf core s).vqueue.contains (.tensor desc org) = true)
    (hbehind : (vecOf core s).vqueue.head? ≠ some (.tensor desc org)) : exec (.vtensor core desc org) s = .next s := by
  change execVtensor core desc org s = _
  simp only [execVtensor, Nat.not_le.mpr hcore, hin, hbehind, ne_eq, not_false_eq_true, and_self, or_true, if_false, if_true]

/-- The vector queue stands while a descriptor is at its head. -/
theorem serveVq_of_tensor {t : List VqEntry} (h : (vecOf core s).vqueue = .tensor desc org :: t) : serveVq core s = s := by
  simp only [serveVq, drainVq, h]

theorem serveVq_of_nil (h : (vecOf core s).vqueue = []) : serveVq core s = s := by
  simp only [serveVq, drainVq, h]

end

end Sys2Proof.Machine

namespace Sys2Proof

open Sys2Proof.Machine

/-- Settles O28, clause by clause from what a trap, a task's start and its limit leave. -/
theorem interruptsTrapAndTasksStart : Obligations.InterruptsTrapAndTasksStart := by
  unfold Obligations.InterruptsTrapAndTasksStart
  refine ⟨?timer, ?qwork, ?start, ?takes, ?limit⟩
  case timer =>
    intro core s hcore hready
    exact timerInterrupt_traps hcore hready
  case qwork =>
    intro core s hcore hready
    exact ⟨_, rfl, qworkInterrupt_traps hcore hready⟩
  case start =>
    rintro core s p _ hcore hfree hon hrun hpause hp hsound rfl
    refine ⟨_, taskStart_starts hcore hfree hon hrun hpause hp hsound, ?_⟩
    rw [takeCore_frame]
    rfl
  case takes =>
    rintro core queue s _ rfl
    rw [takeCore_frame]
    exact ⟨alGet_alSet_self _ _ _, rfl, rfl, rfl, rfl⟩
  case limit =>
    intro core s k hcore hk hends hrun hdue
    exact taskLimitExpiry_faults hcore hk hends hrun hdue

/-- Settles O29, clause by clause from the descriptor's place in the vector queue. -/
theorem vectorTensorDescriptorsRun : Obligations.VectorTensorDescriptorsRun := by
  unfold Obligations.VectorTensorDescriptorsRun
  refine ⟨?runs, ?stays, ?serve⟩
  case runs =>
    intro core desc org s hcore hon hturn hsound hok
    exact vtensor_runs hcore hon hturn hsound hok
  case stays =>
    intro core desc org s hcore hin hbehind
    exact vtensor_stays hcore hin hbehind
  case serve =>
    exact fun core s => ⟨fun _ _ _ h => serveVq_of_tensor h, serveVq_of_nil⟩

end Sys2Proof
end

section
/-! SUPPORT. Sequences: a summary's start, its segments and its merge, the appends of a launch, the session step and
SESSION_CLOSE (R244 to R255). -/

namespace Sys2Proof.Machine

open Sys2Proof

/-! Summaries (R247 to R251). -/

section

variable {s : State}

/-- A SEQ_SUMMARY descriptor in its turn that passes the checks of R247 starts. -/
theorem seqSummary_starts {core : Nat} {desc : Desc} {org : Origin} (hcore : core < 98) (hturn : inTurn core desc org s = true)
    (hsound : (matOf core s).failed = false) (hok : summaryOk core desc org s = true) :
    exec (.seqSummary core desc org) s = .next (startSummary core desc org (takeIssued core desc org s)) := by
  change execSeqSummary core desc org s = _
  simp only [execSeqSummary, Nat.not_le.mpr hcore, hturn, hsound, hok, Bool.true_eq_false, Bool.false_eq_true, if_false]

variable {summary : Nat} {j : SummaryJob}

/-- A segment without a result, on a core that is on and can run it, forms its states (R248). -/
theorem segmentPass_forms {segment : Nat} {g : Segment} (hj : summaryOf summary s = some j) (hg : j.segments[segment]? = some g)
    (hopen : g.result = none) (hon : coreOn g.core s = true) (hsound : (matOf g.core s).failed = false)
    (harrays : arraysOn g.core s ≠ 0) {ps : List Piece} (hps : ps = ((summaryPieces j).drop g.first).take (g.last - g.first))
    {r : List (BitVec 32 × BitVec 32 × List (BitVec 32)) × PassTally}
    (hr : r = segmentState g.core j.desc (queryBytes g.core j.desc s) (summarySession j s) ps s) :
    exec (.segmentPass summary segment) s = .next (updSummary summary (fun x => { x with
      segments := updAt x.segments segment (fun g' => { g' with result := some r.1 }) })
      (countPass r.2 (fetchPlanes g.core (hTag j.desc) (summarySession j s) ps s))) := by
  subst hps hr
  change execSegmentPass summary segment s = _
  simp only [execSegmentPass, hj, hg, hopen, hon, hsound, harrays, Option.isSome_none, Bool.true_eq_false, Bool.false_eq_true,
    or_self, if_false]

/-- No segment lacks its result once all of them have one. -/
theorem no_open_segment (hdone : j.segments.all (fun g => g.result.isSome) = true) :
    j.segments.any (fun g => g.result.isNone) = false := by
  simpa [Option.isSome_iff_ne_none] using hdone

/-- A summary that is not speculative and has all its segments writes its output and its status record, and is over
(R249, R250). -/
theorem summaryMerge_ends (hj : summaryOf summary s = some j) (hdone : j.segments.all (fun g => g.result.isSome) = true)
    (hon : coreOn j.core s = true) (hspec : j.spec = 0) {outs : List Conv} (houts : outs = (summaryValues j).map (fun v =>
      convOut (hOutFmt j.desc) (if hOutFmt j.desc = 4 then div32 v (hOutScale j.desc) else v))) {st : List Byte}
    (hst : st = summaryStatus j (outs.countP (·.sat))
      ((summaryValues j).foldl (fun a x => max32 a (enc32 (fabs (val32 x)))) 0) s.now) :
    exec (.summaryMerge summary) s = .next (descriptorDone j.org (ofLe (st.take 8))
      (specMark 0 j.org.launch (outs.countP (·.sat) != 0) false false
        (noteQuery 0 j.query (count Cnt.summaries 1 (countConv outs
          (coreStoreAll j.core 0 [(hOut j.desc, packCodes (outFmt (hOutFmt j.desc)) (outs.map (·.code))),
            (hStatus j.desc + 8, st.drop 8), (hStatus j.desc, st.take 8)] j.core 0 (hTag j.desc) 0x50
            { s with sequences := { s.sequences with
              summaries := s.sequences.summaries.filter (fun x => x.id != summary) } })))))) := by
  subst houts hst
  have hfree (ws : List (Nat × List Byte)) (p : Nat × List Byte → Bool) : ws.any (fun w => 0 != 0 && p w) = false := by simp
  change execSummaryMerge summary s = _
  simp only [execSummaryMerge, hj, no_open_segment hdone, hon, hspec, hfree, Bool.true_eq_false, Bool.false_eq_true, if_false]

end

/-! Appends (R244, R245, R253). -/

/-- The events that the append of a launch takes up: none without a request, with one that joins, or for a session that is not
resident. -/
def takenEvents (l : Launch) (s : State) : List (BitVec 128) :=
  ((requestOf l s).map (fun a =>
    if a.joined = true ∨ (sessionOf l.context l.session s).isNone = true then [] else appendEvents a.payload)).getD []

section

variable {launch stage : Nat} {s : State} {l : Launch}

theorem takenEvents_of_noRequest (h : requestOf l s = none) : takenEvents l s = [] := by
  simp only [takenEvents, h, Option.map_none, Option.getD_none]

theorem takenEvents_of_request {a : Admitted} (h : requestOf l s = some a) :
    takenEvents l s =
      if a.joined = true ∨ (sessionOf l.context l.session s).isNone = true then [] else appendEvents a.payload := by
  simp only [takenEvents, h, Option.map_some, Option.getD_some]

/-- A running append stage that has not begun takes up its events, where no earlier append of its session is to come. -/
theorem appendStage_begins {r : BitVec 256} (hl : launchOf launch s = some l)
    (hnew : s.sequences.appends.any (fun a => a.launch == launch) = false) (hrun : stagePhase l stage = .running [])
    (hr : stageRecord l stage s = some r) (hkind : stageKind r = 1)
    (hfirst : (requestOf l s).any (fun a => earlierAppend a s) = false) :
    exec (.appendStage launch stage) s = .next (advanceAppend launch { s with sequences := { s.sequences with
      appends := s.sequences.appends ++ [{ launch := launch, stage := stage, context := l.context, session := l.session,
                                           events := takenEvents l s, written := 0, waiting := false, encoding := false }] } }) := by
  have hstage : ¬ (stagePhase l stage ≠ .running [] ∨ (stageRecord l stage s).all (fun r => stageKind r != 1) = true) := by
    simp [hrun, hr, hkind]
  change execAppendStage launch stage s = _
  simp only [execAppendStage, hl, hnew, hstage, hfirst, Bool.false_eq_true, if_false]
  cases hreq : requestOf l s with
  | none => rw [takenEvents_of_noRequest hreq]
  | some a => rw [takenEvents_of_request hreq]

theorem appendStage_goesOn (hl : launchOf launch s = some l)
    (hbegun : s.sequences.appends.any (fun a => a.launch == launch) = true) :
    exec (.appendStage launch stage) s = .next (advanceAppend launch s) := by
  change execAppendStage launch stage s = _
  simp only [execAppendStage, hl, hbegun, if_true]

theorem appendChunkWait_goesOn (hwaits : s.sequences.appends.any (fun a => a.launch == launch && a.waiting) = true) :
    exec (.appendChunkWait launch) s = .next (advanceAppend launch s) := by
  change execAppendChunkWait launch s = _
  simp only [execAppendChunkWait, hwaits, if_true]

end

/-! The session step (R252 to R255). -/

/-- The state in which a due step serves its joins: the step and its leaves are counted, and the joins that waited are taken up. -/
def stepBegun (leaving : List Session) (s : State) : State :=
  let u := count Cnt.steps 1 { s with sequences := { s.sequences with lastStep := s.now, poolFree := poolLeft s, joins := [] } }
  if leaving = [] then u else count Cnt.leaves leaving.length u

@[simp] theorem ent_stepBegun (key : Nat) (leaving : List Session) (s : State) : ent key (stepBegun leaving s) = ent key s := by
  unfold stepBegun
  split <;> exact ent_congr rfl rfl key

/-- A due step serves the joins that are not idle, folds the sessions that stay and drops those that leave. -/
theorem sessionStep_due {s w : State} {leaving : List Session} (hrunning : s.job.state = 2)
    (hdue : s.sequences.lastStep + ent Ent.stepNs s ≤ s.now) (hnotOff : (queueOf (ent Ent.sessionQueue s) s).state ≠ 0)
    (hnotDraining : (queueOf (ent Ent.sessionQueue s) s).state ≠ 3)
    (hleaving : leaving = s.sequences.sessions.filter (fun x => sessionLeaves x s))
    (hw : w = foldSome leaving (serveJoins (ent Ent.stepJoinsMax s)
      (s.sequences.joins.filter (fun p => decide (s.now < p.lastRequest + ent Ent.sessionIdleNs s))) (stepBegun leaving s))) :
    exec .sessionStep s = .next { w with sequences := { w.sequences with
      sessions := w.sequences.sessions.filter (fun x => !leaving.any (fun y => y.id == x.id && y.context == x.context)) } } := by
  subst hleaving hw
  have hstep : ¬ (s.job.state ≠ jobRunning ∨ s.now < s.sequences.lastStep + ent Ent.stepNs s ∨
      (queueOf (ent Ent.sessionQueue s) s).state = 0 ∨ (queueOf (ent Ent.sessionQueue s) s).state = 3) := by
    rintro (hstopped | hearly | hzero | hthree)
    · exact hstopped hrunning
    · exact Nat.not_lt.mpr hdue hearly
    · exact hnotOff hzero
    · exact hnotDraining hthree
  change execSessionStep s = _
  rw [← ent_stepBegun Ent.stepJoinsMax (s.sequences.sessions.filter (fun x => sessionLeaves x s)) s]
  simp only [execSessionStep, hstep, if_false, stepBegun, List.isEmpty_iff]

/-! SESSION_CLOSE (R255). -/

theorem sessionClose_accepted {req : ReqId} {session : BitVec 64} {s : State}
    (h : Accepted req 0x2020 6 (leBytes 8 session.toNat) s) :
    exec (.sessionClose req session) s =
      .next (sessionCloseAction req (leBytes 8 session.toNat) (actionStart req 0x2020 6 s)) := by
  change execSessionClose req session s = _
  rw [execSessionClose, cmdVia_accepted h]

/-- The sessions of the ID written are marked and the entry ends. -/
theorem sessionCloseAction_eq (req : ReqId) (session : BitVec 64) (s : State) :
    sessionCloseAction req (leBytes 8 session.toNat) s =
      endCmd Ent.sessionClose stOk 0 { s with sequences := { s.sequences with
        sessions := s.sequences.sessions.map (fun x => if x.id = session.toNat then { x with closeMark := true } else x) } } := by
  have hread : leAt (leBytes 8 session.toNat) 0 8 = session.toNat := by
    simp [leAt, slice, List.take_of_length_le, Nat.mod_eq_of_lt session.isLt]
  rw [sessionCloseAction, hread]

end Sys2Proof.Machine

namespace Sys2Proof

open Sys2Proof.Machine

/-- Settles O32, clause by clause from what a summary's commands, an append, a due step and a close do. -/
theorem summariesAndSessionsAdvance : Obligations.SummariesAndSessionsAdvance := by
  unfold Obligations.SummariesAndSessionsAdvance
  refine ⟨?start, ?segment, ?merge, ?append, ?appendRequest, ?appendOn, ?chunk, ?step, ?close⟩
  case start =>
    intro core desc org s hcore hturn hsound hok
    exact seqSummary_starts hcore hturn hsound hok
  case segment =>
    intro summary segment s j g ps r hj hg hopen hon hsound harrays hps hr
    exact segmentPass_forms hj hg hopen hon hsound harrays hps hr
  case merge =>
    intro summary s j hj hdone hon hspec
    exact ⟨_, _, _, rfl, rfl, rfl, summaryMerge_ends hj hdone hon hspec rfl rfl⟩
  case append =>
    intro launch stage s l r hl hnew hrun hr hkind hreq
    rw [appendStage_begins hl hnew hrun hr hkind (by rw [hreq]; rfl), takenEvents_of_noRequest hreq]
  case appendRequest =>
    intro launch stage s l r a hl hnew hrun hr hkind hreq hfirst
    rw [appendStage_begins hl hnew hrun hr hkind (by rw [hreq]; exact hfirst), takenEvents_of_request hreq]
  case appendOn =>
    intro launch stage s l hl hbegun
    exact appendStage_goesOn hl hbegun
  case chunk =>
    intro launch s hwaits
    exact appendChunkWait_goesOn hwaits
  case step =>
    intro s hrunning hdue hnotOff hnotDraining
    exact ⟨_, _, _, _, _, rfl, rfl, rfl, rfl, rfl, sessionStep_due hrunning hdue hnotOff hnotDraining rfl rfl⟩
  case close =>
    intro req session s hacc
    refine ⟨_, sessionClose_accepted hacc, ?_, ?_⟩
    · rw [sessionCloseAction_eq]
      exact endedOk_endCmd rfl rfl (actionStart_now ..)
    · rw [sessionCloseAction_eq, actionStart_frame]
      rfl

end Sys2Proof
end

section
/-! SUPPORT. Drays, Caravan streams and stage boundaries: TRANSFER and CARAVAN descriptors at the Dray queue, the request of
the next tile, delivery, multicast and catch-up, and the dispatch of graph stages (R261 to R289). -/

namespace Sys2Proof.Machine

open Sys2Proof

/-! A TRANSFER or CARAVAN descriptor at its core's Dray queue (R164, R261, R264, R268). -/

section

variable {core op : Nat} {desc : Desc} {org org' : Origin} {s u : State}

theorem takeTransfer_notIssued_full (hnew : (ctlOf core s).issued.any (isIssue desc org) = false)
    (hfull : engineRoom core op 1 s = false) : takeTransfer core op desc org s = s := by
  rw [takeTransfer, if_pos ⟨hnew, hfull⟩]

/-- A descriptor in its turn that passes its checks, on a sound core and to sound members, joins the Dray queue. -/
theorem takeTransfer_joins
    (hroom : (ctlOf core s).issued.any (isIssue desc org) = true ∨ engineRoom core op 1 s = true)
    (hturn : inTurn core desc org s = true) (hop : xOpcode desc = op) (hsound : (matOf core s).failed = false)
    (horg : org' = issuedOrigin core desc org s) (hu : u = takeIssued core desc org s)
    (hmembers : xCaravan desc = true → ((groupCoresOf desc org' u).getD []).any (fun c => (matOf c u).failed) = false)
    (hok : transferOk core desc org' u = true) :
    takeTransfer core op desc org s = enqueueTransfer core desc org' u := by
  subst horg hu
  have hgo : ¬ ((ctlOf core s).issued.any (isIssue desc org) = false ∧ engineRoom core op 1 s = false) := by
    rintro ⟨hnew, hfull⟩
    simp [hnew, hfull] at hroom
  have hnoFault : ((matOf core (takeIssued core desc org s)).failed ||
      (xCaravan desc && ((groupCoresOf desc (issuedOrigin core desc org s) (takeIssued core desc org s)).getD []).any
        (fun c => (matOf c (takeIssued core desc org s)).failed))) = false := by
    cases hc : xCaravan desc with
    | false => simp [hsound]
    | true => simpa [hsound] using hmembers hc
  simp only [takeTransfer, takeIssued_issuedOrigin, hgo, hturn, hnoFault, hop, hok, Bool.true_eq_false, Bool.false_eq_true, ne_eq, not_true_eq_false,
    or_self, if_false]

theorem transfer_eq (hcore : core < 98) : exec (.transfer core desc org) s = .next (takeTransfer core 0x10 desc org s) := by
  change execTransfer core desc org s = _
  rw [execTransfer, if_neg (Nat.not_le.mpr hcore)]

theorem caravan_eq (hcore : core < 98) : exec (.caravan core desc org) s = .next (takeTransfer core 0x11 desc org s) := by
  change execCaravan core desc org s = _
  rw [execCaravan, if_neg (Nat.not_le.mpr hcore)]

theorem weightRingStart_waiting {t : Transfer} (hcore : core < 98) (hhead : queueHead core s = some t)
    (hwait : t.ringWait = true) : exec (.weightRingStart core) s = .next (serveDrays core s) := by
  change execWeightRingStart core s = _
  simp only [execWeightRingStart, Nat.not_le.mpr hcore, hhead, hwait, if_false, if_true]

end

/-! The request of the next tile (R266, R271, R275, R276, R383 to R385). -/

theorem leaveDrayQueue_eq {transfer : Nat} {s : State} {t : Transfer} (ht : transferOf transfer s = some t) :
    leaveDrayQueue transfer s = if t.running = true ∧ waitsDray t.core t = false then s else serveDrays t.core s := by
  simp only [leaveDrayQueue, ht, Bool.and_eq_true, Bool.not_eq_true']

/-- A transfer that runs on its Dray: neither ended nor stopping, and the Dray is not stalled by a fault of another access. -/
structure RunsOnDray (t : Transfer) (s : State) : Prop where
  running : t.running = true
  notDone : t.done = false
  notStopping : t.stopping = false
  hasDray : waitsDray t.core t = false
  notStalled : drayStalled t s = false

section

variable {tile : TileRead} {s u : State} {t : Transfer}

theorem RunsOnDray.not_held (h : RunsOnDray t s) :
    ¬ (t.running = false ∨ t.done = true ∨ t.stopping = true ∨ waitsDray t.core t = true ∨ drayStalled t s = true) := by
  simp [h.running, h.notDone, h.notStopping, h.hasDray, h.notStalled]

theorem tileRequest_streamDone (hu : u = leaveDrayQueue tile.transfer s) (ht : transferOf tile.transfer u = some t)
    (h : RunsOnDray t u) (hstream : xCaravan t.desc = true) (hdone : streamDone t = true) :
    exec (.tileRequest tile) s = .next (completeTransfer tile.transfer u) := by
  subst hu
  change execTileRequest tile s = _
  simp only [execTileRequest, ht, h.not_held, hstream, hdone, and_self, if_false, if_true]

/-- A transfer with a tile left to request, of a core that is on, requests it, ends its wait for a release, or notes it. -/
theorem tileRequest_next (hu : u = leaveDrayQueue tile.transfer s) (ht : transferOf tile.transfer u = some t)
    (h : RunsOnDray t u) (hopen : xCaravan t.desc = true → streamDone t = false) (hfault : t.faultTile = none)
    (hleft : t.requested < tilesDue t) (hon : coreOn t.core u = true) :
    exec (.tileRequest tile) s = .next (
      if mayRequest t u = true then readTile t tile.errors u
      else if paceOpen t u = true then endPaceWait t u
      else updTransfer tile.transfer (fun x => { x with waitSince := some (x.waitSince.getD u.now) }) u) := by
  subst hu
  have hmore : ¬ (xCaravan t.desc = true ∧ streamDone t = true) := fun ⟨hstream, hdone⟩ =>
    Bool.false_ne_true ((hopen hstream).symm.trans hdone)
  have hdue : ¬ (t.faultTile.isSome = true ∨ tilesDue t ≤ t.requested) := by
    simp [hfault, hleft]
  change execTileRequest tile s = _
  simp only [execTileRequest, ht, h.not_held, hmore, hdue, hon, Bool.true_eq_false, if_false]
  split
  · rfl
  · split <;> rfl

end

/-- Errors of codewords whose address is not in device memory are not met. -/
theorem codewordsAt_nowhere (source : Nat) (errors : List (Nat × Nat)) (s : State) :
    codewordsAt source (fun _ => none) errors s = (true, s) := by
  induction errors with
  | nil => rfl
  | cons e es ih => exact ih

section

variable {t : Transfer} {s : State}

/-- The read of a source outside device memory, or without an error, serves the tile. -/
theorem readTile_clean {errors : List (Nat × Nat)} (h : xSrcSpace t.desc ≠ 0 ∨ errors = []) :
    readTile t errors s = requestTile t s := by
  obtain hspace | rfl := h
  · simp only [readTile, hspace, if_false, codewordsAt_nowhere, if_true]
  · rfl

/-- The read of a tile of which one codeword is in error. -/
theorem readTile_one {k symbols a m : Nat} {v : State} (hspace : xSrcSpace t.desc = 0)
    (ha : runWord ((srcRuns t.desc t.requested).map (fun r => (r.1, r.2.2))) k = some a) (hv : v = ensureFrame (a / 4096) s)
    (hm : mpaOf a v = some m) :
    readTile t [(k, symbols)] s =
      if (codewordRead 0 m symbols v).1 = true then requestTile t (codewordRead 0 m symbols v).2
      else (codewordRead 0 m symbols v).2 := by
  subst hv
  simp only [readTile, hspace, if_true, codewordsAt_one ha hm]

end

/-! Delivery, multicast, catch-up and the resumption after a fault (R265, R268, R271, R279, R280). -/

section

variable {transfer tile core : Nat} {s : State} {t : Transfer} {m : Member} {k : Nat}

theorem tileDelivery_delivers (ht : transferOf transfer s = some t) (hsingle : xCaravan t.desc = false)
    (hflight : t.inFlight.contains tile = true) (hanswered : tilePending transfer tile s = false)
    (hfabric : xSrcSpace t.desc ≠ 4 ∨ t.spec = 0) (hdue : tile < tilesDue t) (hstall : drayStalled t s = false)
    (hturn : tile = t.delivered ∨ t.faultTile.any (fun f => decide (f < tile)) = true) :
    exec (.tileDelivery transfer tile) s = .next (deliverTile t tile s) := by
  have hspec : ¬ (xSrcSpace t.desc = 4 ∧ t.spec ≠ 0) := fun ⟨hsrc, hguess⟩ => hfabric.elim (· hsrc) hguess
  change execTileDelivery transfer tile s = _
  simp only [execTileDelivery, ht, hsingle, hflight, hanswered, hspec, Nat.not_le.mpr hdue, hstall, hturn, Bool.false_eq_true,
    Bool.true_eq_false, or_self, if_false, if_true]

theorem caravanTileSend_sends {rest : List Nat} (ht : transferOf transfer s = some t) (hflight : t.inFlight = tile :: rest)
    (hstream : xCaravan t.desc = true) (hstall : drayStalled t s = false)
    (hbefore : t.faultTile.any (fun f => decide (f ≤ tile)) = false) (hok : (tileCheck t.desc tile s).1 = .ok) :
    exec (.caravanTileSend transfer) s = .next (sendTile t tile s) := by
  change execCaravanTileSend transfer s = _
  simp [execCaravanTileSend, ht, hflight, hstream, hstall, hbefore, hok]

/-- A detached member fetches by a free Dray of its core, or by the Dray whose fault was served. -/
theorem catchupFetch_fetches (ht : transferOf transfer s = some t)
    (hm : t.members.find? (fun m => m.core == core && !m.attached) = some m) (hstop : t.stopping = false)
    (hleft : m.delivered < xTiles t.desc) (hon : coreOn core s = true) (hahead : m.delivered ≤ releaseCount core t.desc s + 4)
    (hring : m.ringWaits = true → activeRings core s < 4)
    (hdray : (m.faulted = none ∧ freeDray core s = some k) ∨
      (m.faulted = some k ∧ agentWaits (drayNum core k) s = false)) :
    exec (.catchupFetch transfer core) s =
      .next (fetchCatchup t m k (updMember t.id core (fun m => { m with ringWaits := false }) s)) := by
  have hmore : ¬ (t.stopping = true ∨ xTiles t.desc ≤ m.delivered) := by
    simp [hstop, hleft]
  have hroom : ¬ (releaseCount core t.desc s + 4 < m.delivered ∨ (m.ringWaits = true ∧ 4 ≤ activeRings core s)) := by
    rintro (hfar | ⟨hwait, hfull⟩)
    · exact Nat.not_lt.mpr hahead hfar
    · exact Nat.not_lt.mpr hfull (hring hwait)
  have hserved : m.faulted.or (freeDray core s) = some k ∧
      ¬ (m.faulted.isSome = true ∧ agentWaits (drayNum core k) s = true) := by
    obtain ⟨hnone, hfree⟩ | ⟨hsome, hagent⟩ := hdray
    · simp [hnone, hfree]
    · simp [hsome, hagent]
  obtain ⟨hk, hagent⟩ := hserved
  change execCatchupFetch transfer core s = _
  simp only [execCatchupFetch, ht, hm, hmore, hon, hroom, hk, hagent, Bool.true_eq_false, if_false]

/-- The state after a member's first fetch of its next tile, the staging SRAM being ready: the tile is landed and counted. -/
def caughtUp (t : Transfer) (m : Member) (k : Nat) (w : State) : State :=
  count Cnt.catchupTiles 1 (landTile t m.core m.delivered (tileData t m.delivered w)
    (updMember t.id m.core (fun x => { x with delivered := m.delivered + 1, faulted := none })
      (updTransfer t.id (fun x => { x with catchup := x.catchup + 1 }) (touchBy (drayNum m.core k) t.desc m.delivered w))))

theorem fetchCatchup_lands (hok : (tileCheck t.desc m.delivered (stagingReady t.core t.desc s)).1 = .ok)
    (hfault : m.faulted = none) :
    fetchCatchup t m k s = match transferOf t.id (caughtUp t m k (stagingReady t.core t.desc s)) with
      | some v => if streamDone v then completeTransfer t.id (caughtUp t m k (stagingReady t.core t.desc s))
          else caughtUp t m k (stagingReady t.core t.desc s)
      | none => caughtUp t m k (stagingReady t.core t.desc s) := by
  simp only [fetchCatchup, hok, hfault, ne_eq, not_true_eq_false, Option.isSome_none, Bool.false_eq_true, if_false]
  rfl

theorem transferFaultResume_resumes {f : Nat} (ht : transferOf transfer s = some t) (hfault : t.faultTile = some f)
    (hserved : agentWaits (drayNum t.core t.dray) s = false)
    (hbehind : t.inFlight.any (fun x => decide (f < x) && decide (x < tilesDue t)) = false) :
    exec (.transferFaultResume transfer) s = .next (count Cnt.faultResumes 1 (updTransfer transfer (fun x =>
      { x with requested := f, inFlight := x.inFlight.filter (fun y => decide (y < f)), faultTile := none,
               faultResumes := x.faultResumes + 1 }) s)) := by
  change execTransferFaultResume transfer s = _
  simp only [execTransferFaultResume, ht, hfault, hserved, hbehind, Bool.false_eq_true, or_self, if_false]

end

/-! Graph stages (R274, R275, R283, R289). -/

/-- A stage that waits in its launch, is ready and may be dispatched, once the stages to be skipped are. -/
structure StageDue (launch stage : Nat) (s : State) (l : Launch) (r : BitVec 256) : Prop where
  found : launchOf launch (skipStages launch s) = some l
  record : stageRecord l stage (skipStages launch s) = some r
  waiting : stagePhase l stage = .waiting
  ready : stageReady l r = true
  allowed : mayDispatch l stage (skipStages launch s) = true

section

variable {launch stage : Nat} {s : State} {l : Launch} {r : BitVec 256}

theorem stageDispatch_due (h : StageDue launch stage s l r) (hclass : stageBarrier r = false) :
    exec (.stageDispatch launch stage) s = .next (
      if stageKind r = 1 then setStage launch stage (.running []) 0 (skipStages launch s)
      else settleOutgoing (dispatchTasks l r 0 (skipStages launch s))) := by
  change execStageDispatch launch stage s = _
  simp only [execStageDispatch, h.found, h.record, h.waiting, h.ready, h.allowed, hclass, and_self, if_true]
  split <;> rfl

theorem stageBarrier_due (h : StageDue launch stage s l r) (hclass : stageBarrier r = true)
    (hdrained : launchDrained launch stage (skipStages launch s) = true) (hkind : stageKind r ≠ 1) :
    exec (.stageBarrier launch stage) s =
      .next (settleOutgoing (dispatchTasks l r 0 (count Cnt.barrierStages 1 (skipStages launch s)))) := by
  change execStageBarrier launch stage s = _
  simp only [execStageBarrier, h.found, h.record, h.waiting, h.ready, h.allowed, hclass, hdrained, hkind, and_self, if_true,
    if_false]

theorem stagePrologue_issues (hl : launchOf launch s = some l) (hr : stageRecord l stage s = some r)
    (hclass : stageBarrier r = false) (hlater : stage ≠ 0) (hbegun : stagePhase l (stage - 1) ≠ .waiting)
    (hfirst : s.streaming.prologues.contains (launch, stage) = false)
    (hrequested : (s.streaming.transfers.filter (fun t => t.org.launch == some launch && t.org.stage + 1 == stage)).all
      lastRequested = true)
    (htaken : s.control.any (fun k => k.issued.any (fun p => (xOpcode p.1 == 0x10 || xOpcode p.1 == 0x11) &&
      p.2.launch == some launch && p.2.stage + 1 == stage)) = false) :
    exec (.stagePrologue launch stage) s = .next ((List.range 98).foldl (fun s c => serveDrays c s)
      { s with streaming := { s.streaming with prologues := s.streaming.prologues ++ [(launch, stage)] } }) := by
  change execStagePrologue launch stage s = _
  simp only [execStagePrologue, hl, hr, hclass, hlater, hbegun, hfirst, hrequested, htaken, Bool.false_eq_true,
    Bool.true_eq_false, or_self, if_false]

theorem residentSegmentLoad_first {context : Nat} {c : Ctx} (hc : contextOf context s = some c)
    (hfirst : c.segmentsLoaded = false) (hjob : s.job.state = 2) :
    exec (.residentSegmentLoad context) s = .next (updContext context (fun c => { c with segmentsLoaded := true })
      ((s.dispatch.graphs.filter (fun (g : Graph) => g.context == context)).foldl (fun s g =>
        g.versions.foldl (fun s v => loadResident g.id v c s) s) s)) := by
  change execResidentSegmentLoad context s = _
  simp only [execResidentSegmentLoad, hc, hfirst, hjob, ne_eq, not_true_eq_false, Bool.false_eq_true, or_self, if_false]

end

end Sys2Proof.Machine

namespace Sys2Proof

open Sys2Proof.Machine

/-- Settles O33, clause by clause from what a descriptor at the Dray queue and the request of a tile do. -/
theorem transfersAreQueuedAndRequest : Obligations.TransfersAreQueuedAndRequest := by
  unfold Obligations.TransfersAreQueuedAndRequest
  refine ⟨?joins, ?ring, ?request, ?complete, ?clean, ?errors, ?full, ?leave⟩
  case joins =>
    rintro core desc org s op i org' u hcore hturn hsound hroom hop horg hu hok (⟨rfl, rfl⟩ | ⟨rfl, rfl, hmembers⟩)
    · have hsingle : xCaravan desc = false := by simp [xCaravan, hop]
      rw [transfer_eq hcore, takeTransfer_joins hroom hturn hop hsound horg hu (by simp [hsingle]) hok]
    · rw [caravan_eq hcore, takeTransfer_joins hroom hturn hop hsound horg hu (fun _ => hmembers) hok]
  case ring =>
    intro core s t hcore hhead hwait
    exact weightRingStart_waiting hcore hhead hwait
  case request =>
    intro tile s u t hu ht hrun hdone hstop hdray hstall hopen hfault hleft hon
    exact tileRequest_next hu ht ⟨hrun, hdone, hstop, hdray, hstall⟩ hopen hfault hleft hon
  case complete =>
    intro tile s u t hu ht hrun hdone hstop hdray hstall hstream hheld
    exact tileRequest_streamDone hu ht ⟨hrun, hdone, hstop, hdray, hstall⟩ hstream hheld
  case clean =>
    intro t errors s h
    exact readTile_clean h
  case errors =>
    intro t k symbols s a v m hspace ha hv hm
    refine ⟨?_, fun h2 h3 => ?_⟩
    · rw [readTile_one hspace ha hv hm, codewordRead_one, if_pos rfl]
    · rw [readTile_one hspace ha hv hm, codewordRead_detected h2 h3, if_neg Bool.false_ne_true]
  case full =>
    intro core desc org s hcore hnew
    refine ⟨fun hfull => ?_, fun hfull => ?_⟩
    · rw [transfer_eq hcore, takeTransfer_notIssued_full hnew hfull]
    · rw [caravan_eq hcore, takeTransfer_notIssued_full hnew hfull]
  case leave =>
    intro transfer s t ht
    exact leaveDrayQueue_eq ht

/-- Settles O34, clause by clause from what a delivery, a send, a catch-up fetch and a resumption do. -/
theorem tilesAreDelivered : Obligations.TilesAreDelivered := by
  unfold Obligations.TilesAreDelivered
  refine ⟨?delivery, ?send, ?fetch, ?caught, ?resume⟩
  case delivery =>
    intro transfer tile s t ht hsingle hflight hanswered hfabric hdue hstall hturn
    exact tileDelivery_delivers ht hsingle hflight hanswered hfabric hdue hstall hturn
  case send =>
    intro transfer s t tile rest ht hflight hstream hstall hbefore hok
    exact caravanTileSend_sends ht hflight hstream hstall hbefore hok
  case fetch =>
    intro transfer core s t m k ht hm hstop hleft hon hahead hring hdray
    exact catchupFetch_fetches ht hm hstop hleft hon hahead hring hdray
  case caught =>
    rintro s t m k w rfl hok hfault
    exact ⟨_, rfl, fetchCatchup_lands hok hfault⟩
  case resume =>
    intro transfer s t f ht hfault hserved hbehind
    exact transferFaultResume_resumes ht hfault hserved hbehind

/-- Settles O35, clause by clause from what a dispatch, a prologue and a load of resident segments do. -/
theorem stagesAreDispatched : Obligations.StagesAreDispatched := by
  unfold Obligations.StagesAreDispatched
  refine ⟨?dispatch, ?append, ?barrier, ?prologue, ?resident⟩
  case dispatch =>
    intro launch stage s l r hl hr hwait hready hmay hclass hkind
    rw [stageDispatch_due ⟨hl, hr, hwait, hready, hmay⟩ hclass, if_neg hkind]
  case append =>
    intro launch stage s l r hl hr hwait hready hmay hclass hkind
    rw [stageDispatch_due ⟨hl, hr, hwait, hready, hmay⟩ hclass, if_pos hkind]
  case barrier =>
    intro launch stage s l r hl hr hwait hready hmay hclass hdrained hkind
    exact stageBarrier_due ⟨hl, hr, hwait, hready, hmay⟩ hclass hdrained hkind
  case prologue =>
    intro launch stage s l r hl hr hclass hlater hbegun hfirst hrequested htaken
    exact stagePrologue_issues hl hr hclass hlater hbegun hfirst hrequested htaken
  case resident =>
    intro context s c hc hfirst hjob
    exact residentSegmentLoad_first hc hfirst hjob

end Sys2Proof
end

section
/-! SUPPORT. Command queues: the conditions of waits, doorbells, QUEUE_ENABLE, and the commands as they are taken up, wait, time
out and complete (R291 to R316). -/

namespace Sys2Proof.Machine

open Sys2Proof

/-! The conditions of a wait (R306). -/

theorem condHolds_atLeast (v t k : Nat) : condHolds 0 v t k = true ↔ v ≥ t := by simp [condHolds]

theorem condHolds_masked (v t k : Nat) : condHolds 1 v t k = true ↔ v &&& k = t &&& k := by simp [condHolds]

theorem condHolds_differs (v t k : Nat) : condHolds 2 v t k = true ↔ v ≠ t := by simp [condHolds]

/-! Doorbells (R297, R298, R431). -/

/-- A write of neither eight nor four bytes is none of a 64-bit register (R431). -/
theorem regWrite_otherWidth {w : HostWrite} (h8 : w.bytes ≠ 8) (h4 : w.bytes ≠ 4) (old : BitVec 64) : regWrite old w = none := by
  simp [regWrite, h8, h4]

section

variable {queue : Nat} {w : HostWrite} {s : State}

/-- The state once a queue has taken a TAIL. -/
def tailTaken (queue : Nat) (v : BitVec 64) (s : State) : State :=
  updQueue queue (fun q => { q with tail := v.toNat % 2 ^ 32, staleReads := none })
    { s with hostif := { s.hostif with tailReg := alSet s.hostif.tailReg queue v } }

/-- The state once a queue has taken a CQ_HEAD. -/
def cqHeadTaken (queue : Nat) (v : BitVec 64) (s : State) : State :=
  updQueue queue (fun q => { q with cqHead := v.toNat % 2 ^ 32 })
    { s with hostif := { s.hostif with cqHeadReg := alSet s.hostif.cqHeadReg queue v } }

theorem tailDoorbell_taken (hq : queue < 64) (hflr : s.hostif.flr = false) (hb : w.bytes = 8) (ho : w.offset = 0)
    (hon : (queueOf queue s).state ≠ 0) (hclass : queueClassOf queue s = 1) (hfree : legacyBound queue s = false) :
    exec (.tailDoorbell queue w) s = .next (fetchQueue queue (
      if directCore queue s = 0xFF then tailTaken queue w.value s
      else directShadow queue (w.value.toNat % 2 ^ 32) ((queueOf queue (tailTaken queue w.value s)).state == 3)
        (tailTaken queue w.value s))) := by
  have hkept : ¬ ((queueOf queue s).state = 0 ∨ queueClassOf queue s ≠ 1 ∨ legacyBound queue s = true) := by
    simp [hon, hclass, hfree]
  have hreset : (s.hostif.flr = true) = False := by simp [hflr]
  have hcore : directCore queue (tailTaken queue w.value s) = directCore queue s := rfl
  unfold tailTaken at hcore ⊢
  change execTailDoorbell queue w s = _
  simp only [execTailDoorbell, Nat.not_le.mpr hq, hreset, regWrite_whole hb ho, hkept, hcore, if_false]
  by_cases hdirect : directCore queue s = 0xFF
  · rw [if_neg (not_not.mpr hdirect), if_pos hdirect]
  · rw [if_pos hdirect, if_neg hdirect]

/-- TAIL of a queue that is OFF is discarded. -/
theorem tailDoorbell_off (hq : queue < 64) (hflr : s.hostif.flr = false) (hb : w.bytes = 8) (ho : w.offset = 0)
    (hoff : (queueOf queue s).state = 0) : exec (.tailDoorbell queue w) s = .next s := by
  change execTailDoorbell queue w s = _
  simp only [execTailDoorbell, Nat.not_le.mpr hq, hflr, regWrite_whole hb ho, hoff, Bool.false_eq_true, true_or, if_false, if_true]

theorem cqHeadDoorbell_taken (hq : queue < 64) (hflr : s.hostif.flr = false) (hb : w.bytes = 8) (ho : w.offset = 0)
    (hclass : queueClassOf queue s = 1) :
    exec (.cqHeadDoorbell queue w) s = .next (serveHeld queue (cqHeadTaken queue w.value s)) := by
  have hreset : (s.hostif.flr = true) = False := by simp [hflr]
  change execCqHeadDoorbell queue w s = _
  simp only [execCqHeadDoorbell, Nat.not_le.mpr hq, hreset, regWrite_whole hb ho, hclass, ne_eq, not_true_eq_false, if_false]
  rfl

theorem tailDoorbell_otherWidth (hq : queue < 64) (hflr : s.hostif.flr = false) (h8 : w.bytes ≠ 8) (h4 : w.bytes ≠ 4) :
    exec (.tailDoorbell queue w) s = .next (count Cnt.barBadAccess 1 s) := by
  change execTailDoorbell queue w s = _
  simp only [execTailDoorbell, Nat.not_le.mpr hq, hflr, regWrite_otherWidth h8 h4, Bool.false_eq_true, if_false]

theorem cqHeadDoorbell_otherWidth (hq : queue < 64) (hflr : s.hostif.flr = false) (h8 : w.bytes ≠ 8) (h4 : w.bytes ≠ 4) :
    exec (.cqHeadDoorbell queue w) s = .next (count Cnt.barBadAccess 1 s) := by
  change execCqHeadDoorbell queue w s = _
  simp only [execCqHeadDoorbell, Nat.not_le.mpr hq, hflr, regWrite_otherWidth h8 h4, Bool.false_eq_true, if_false]

theorem phaseRetry_queue (hq : queue < 64) : exec (.phaseRetry queue) s = .next (retryQueue queue s) := by
  change execPhaseRetry queue s = _
  rw [execPhaseRetry, if_pos hq]

end

/-! QUEUE_ENABLE (R291, R292, R316). -/

section

variable {req : ReqId} {queue value : Nat} {s : State}

theorem queueEnable_accepted (hq : queue < 64) (h : Accepted req (0x2510 + queue) 6 (leBytes 1 value) s)
    (hrings : ringsRefused queue value s = false) :
    exec (.queueEnable req queue value) s =
      .next (queueEnableAction queue req (leBytes 1 value) (writeStart req (0x2510 + queue) 6 s)) := by
  change execQueueEnable req queue value s = _
  simp only [execQueueEnable, Nat.not_le.mpr hq, hrings, Bool.false_eq_true, and_false, if_false, writeVia_accepted h]

@[simp] theorem queueOf_writeStart (n index sub : Nat) : queueOf n (writeStart req index sub s) = queueOf n s := by
  rw [writeStart_frame]; rfl

theorem queueEnableAction_enables {bytes : List Byte} (hv : ofLe bytes = 1) (hoff : (queueOf queue s).state = 0) :
    queueEnableAction queue req bytes s = enableQueue queue s := by
  simp only [queueEnableAction, hv, hoff, if_true]

/-- The state once an enabled queue is DRAINING. -/
def drainingFrom (queue : Nat) (s : State) : State :=
  updQueue queue (fun q => { q with state := 3, staleReads := none }) (setEnt (Ent.queueEnable + 256 * queue) 1 0 s)

theorem queueEnableAction_drains {bytes : List Byte} (hv : ofLe bytes = 0) (hon : (queueOf queue s).state ≠ 0)
    (hnew : (queueOf queue s).state ≠ 3) :
    queueEnableAction queue req bytes s =
      if (queueOf queue s).state = 4 then
        directShadow queue (queueOf queue (drainingFrom queue s)).tail true (drainingFrom queue s)
      else drainingFrom queue s := by
  have hdue : ¬ ((queueOf queue s).state = 0 ∨ (queueOf queue s).state = 3) := not_or.mpr ⟨hon, hnew⟩
  simp only [queueEnableAction, hv, hdue, Nat.zero_ne_one, if_false]
  rfl

end

@[simp] theorem directShadow_queues (n tail : Nat) (disabled : Bool) (s : State) :
    (directShadow n tail disabled s).dispatch.queues = s.dispatch.queues := rfl

@[simp] theorem directShadow_hostif (n tail : Nat) (disabled : Bool) (s : State) :
    (directShadow n tail disabled s).hostif = s.hostif := rfl

/-! The next command of a queue taken up (R296, R300). -/

/-- A command that R296 and R294 let through, of a queue that the Postilion serves, not ORDERED. -/
structure Admissible (queue : Nat) (c : Cmd) (s : State) : Prop where
  sound : badCommand queue c s = false
  served : directCore queue s = 0xFF
  permitted : notPermitted queue c s = false
  unordered : cb c 53 = false

section

variable {queue : Nat} {s : State} {c : Cmd}

theorem takeUp_fetched (hq : queue < 64) (hrun : dispatchStopped s = false) (hserved : fetchStalled queue s = false)
    (hc : nextCmdOf queue s = some c) (hphase : c.phase = .fetched) :
    takeUp (cmdOpcode c) queue s = .next (dispatchNext queue s) := by
  simp only [takeUp, Nat.not_le.mpr hq, hrun, hserved, hc, hphase, Bool.or_self, Bool.false_eq_true, true_or, and_self,
    if_false, if_true]

theorem dispatchNext_held (hc : nextCmdOf queue s = some c) (h : Admissible queue c s) (hheld : scheduleHolds queue c s = true) :
    dispatchNext queue s = s := by
  simp only [dispatchNext, hc, h.sound, h.served, h.permitted, h.unordered, hheld, ne_eq, not_true_eq_false, false_and,
    Bool.false_and, Bool.false_eq_true, if_false, if_true]

theorem dispatchNext_runs (hc : nextCmdOf queue s = some c) (h : Admissible queue c s) (hfree : scheduleHolds queue c s = false)
    (hwait : cb c 43 = false) : dispatchNext queue s = showWaiting queue (runCmd queue c s) := by
  simp only [dispatchNext, hc, h.sound, h.served, h.permitted, h.unordered, hfree, hwait, ne_eq, not_true_eq_false, false_and,
    Bool.false_and, Bool.false_eq_true, if_false, if_true]

/-- The row of an opcode and what it does are those of `runCmd`. -/
theorem opcode_row {i : Instr} {r : State}
    (h : (cmdOpcode c = 0 ∧ i = .nop queue ∧ r = runNop queue c s) ∨
      (cmdOpcode c = 1 ∧ i = .launch queue ∧ r = runLaunch queue c s) ∨
      (cmdOpcode c = 2 ∧ i = .descriptor queue ∧ r = runDescriptor queue c s) ∨
      (cmdOpcode c = 3 ∧ i = .inlineWrite queue ∧ r = runInlineWrite queue c s) ∨
      (cmdOpcode c = 4 ∧ i = .graphLoad queue ∧ r = runGraphLoad queue c s) ∨
      (cmdOpcode c = 5 ∧ i = .graphPatch queue ∧ r = runGraphPatch queue c s) ∨
      (cmdOpcode c = 6 ∧ i = .graphUnload queue ∧ r = runGraphUnload queue c s) ∨
      (cmdOpcode c = 7 ∧ i = .task queue ∧ r = runTask queue c s)) :
    exec i s = takeUp (cmdOpcode c) queue s ∧ r = runCmd queue c s := by
  rcases h with ⟨hop, rfl, rfl⟩ | ⟨hop, rfl, rfl⟩ | ⟨hop, rfl, rfl⟩ | ⟨hop, rfl, rfl⟩ | ⟨hop, rfl, rfl⟩ | ⟨hop, rfl, rfl⟩ |
    ⟨hop, rfl, rfl⟩ | ⟨hop, rfl, rfl⟩
  all_goals exact ⟨by rw [hop]; rfl, by simp [runCmd, hop]⟩

/-- Only a DESCRIPTOR is held back by the schedule. -/
theorem cmdOpcode_of_scheduleHolds (h : scheduleHolds queue c s = true) : cmdOpcode c = 2 := by
  simp only [scheduleHolds, Bool.and_eq_true, beq_iff_eq] at h
  exact h.1.1

/-- A DESCRIPTOR held back stays as it is (R364). -/
theorem descriptor_held (hq : queue < 64) (hrun : dispatchStopped s = false) (hc : nextCmdOf queue s = some c)
    (hphase : c.phase = .fetched) (h : Admissible queue c s) (hheld : scheduleHolds queue c s = true) :
    exec (.descriptor queue) s = .next s := by
  change takeUp 2 queue s = _
  cases hserved : fetchStalled queue s with
  | true => simp only [takeUp, Nat.not_le.mpr hq, hserved, Bool.or_true, if_false, if_true]
  | false =>
    rw [← cmdOpcode_of_scheduleHolds hheld, takeUp_fetched hq hrun hserved hc hphase, dispatchNext_held hc h hheld]

end

/-- What R364 lets a core of a group take of a queue. -/
theorem scheduleAllows_iff {core : Nat} (hcore : core < 96) (q : Nat) (s : State) :
    scheduleAllows core q s = true ↔ debtOf q (cgOf core) s = 0 ∧ coreOpen core q s = true ∧
      (∀ r, effectiveOn (currentSlot s) (cgOf core) s = some r →
        r = q ∨ readyWork r (cgOf core) s = false ∨ debtOf r (cgOf core) s ≠ 0) ∧
      (effectiveOn (currentSlot s) (cgOf core) s = some q ∨ coreHasWork core q s = true ∨
        leastLoad (fun x => debtOf x (cgOf core) s == 0 && (x == q || readyFor core x s)) s = some q) := by
  cases hr : effectiveOn (currentSlot s) (cgOf core) s with
  | none => simp [scheduleAllows, hr, Nat.not_le.mpr hcore, and_assoc]
  | some r =>
    simp only [scheduleAllows, hr, Nat.not_le.mpr hcore, and_assoc, or_assoc, Option.some.injEq, forall_eq', beq_iff_eq,
      Bool.not_and, Bool.and_eq_true, Bool.or_eq_true, Bool.not_eq_true', decide_eq_true_eq, beq_eq_false_iff_ne,
      false_or, ne_eq]

/-! A waiting command (R306, R308). -/

/-- A wait over, and its command carried out. -/
def waitOver (queue : Nat) (c : Cmd) (s : State) : State :=
  showWaiting queue (runCmd queue c (updCmd queue c.id (fun c => { c with phase := .fetched }) s))

/-- The next command of a queue waits, and nothing but its condition holds it back. -/
structure WaitTried (queue : Nat) (c : Cmd) (s : State) : Prop where
  unit : queue < 64
  running : dispatchStopped s = false
  served : fetchStalled queue s = false
  next : nextCmdOf queue s = some c
  waits : ∃ u seen, c.phase = .waiting u seen
  free : scheduleHolds queue c s = false

section

variable {queue : Nat} {s : State} {c : Cmd}

/-- A write has met the wait, or its shown value meets it. -/
theorem commandWaitMet_holds (h : WaitTried queue c s)
    (hmet : c.met = true ∨ ∃ v, shownValue c s = some v ∧ waitHolds c v = true) :
    exec (.commandWaitMet queue) s = .next (waitOver queue c s) := by
  obtain ⟨u, seen, hphase⟩ := h.waits
  change execCommandWaitMet queue s = _
  simp only [execCommandWaitMet, Nat.not_le.mpr h.unit, h.running, h.served, h.next, hphase, h.free, Bool.or_self,
    Bool.false_eq_true, if_false]
  cases hm : c.met with
  | true => rfl
  | false =>
    obtain ⟨v, hv, hholds⟩ := hmet.resolve_left (by simp [hm])
    simp only [hv, hholds, Bool.false_eq_true, if_false, if_true]
    rfl

/-- A wait that shows no value reads its object, which it may. -/
theorem commandWaitMet_reads (h : WaitTried queue c s) (hmet : c.met = false) (hv : shownValue c s = none)
    (hok : memCheck (cw c 1) 8 .read s = .ok) :
    exec (.commandWaitMet queue) s = .next (
      if waitHolds c (hitchRead (cw c 1) (readObject (cw c 1) s)) = true then waitOver queue c (readObject (cw c 1) s)
      else holdCmd queue c (BitVec.ofNat 64 (hitchRead (cw c 1) (readObject (cw c 1) s))) (readObject (cw c 1) s)) := by
  obtain ⟨u, seen, hphase⟩ := h.waits
  change execCommandWaitMet queue s = _
  simp only [execCommandWaitMet, Nat.not_le.mpr h.unit, h.running, h.served, h.next, hphase, h.free, hmet, hv, hok,
    Bool.or_self, Bool.false_eq_true, if_false]
  split <;> rfl

end

/-! HOST_POLL (R308). -/

@[simp] theorem noteDmaRead_mem (va n : Nat) (s : State) : (noteDmaRead va n s).mem = s.mem := by
  unfold noteDmaRead; dsimp only; split <;> rfl

@[simp] theorem noteDmaRead_xlate (va n : Nat) (s : State) : (noteDmaRead va n s).xlate = s.xlate := by
  unfold noteDmaRead; dsimp only; split <;> rfl

@[simp] theorem noteDmaRead_now (va n : Nat) (s : State) : (noteDmaRead va n s).now = s.now := by
  unfold noteDmaRead; dsimp only; split <;> rfl

@[simp] theorem readObject_now (va : Nat) (s : State) : (readObject va s).now = s.now := by simp [readObject]

/-- Reading an object moves no page. -/
@[simp] theorem onHostPage_readObject (x va : Nat) (s : State) : onHostPage x (readObject va s) = onHostPage x s := by
  have hm : (readObject va s).mem = s.mem := by simp [readObject]
  have hp : (readObject va s).xlate.ptes = s.xlate.ptes := by simp [readObject]
  simp only [onHostPage, pageView_congr hm hp]

/-- The objects of a poll read, each with its context and unit. -/
def readObjects (l : List (Nat × Nat × Nat × Nat)) (s : State) : State := l.foldl (fun s o => readObject o.1 s) s

@[simp] theorem readObjects_now (l : List (Nat × Nat × Nat × Nat)) (s : State) : (readObjects l s).now = s.now := by
  unfold readObjects
  exact foldl_view State.now _ (fun s (o : Nat × Nat × Nat × Nat) => readObject_now o.1 s) l s

@[simp] theorem onHostPage_readObjects (x : Nat) (l : List (Nat × Nat × Nat × Nat)) (s : State) :
    onHostPage x (readObjects l s) = onHostPage x s := by
  unfold readObjects
  exact foldl_view (onHostPage x) _ (fun s (o : Nat × Nat × Nat × Nat) => onHostPage_readObject x o.1 s) l s

/-- Every wait as a poll leaves it, the objects having been read. -/
def pollTaken (u : State) : State :=
  { u with
    legacy := { u.legacy with cmds := u.legacy.cmds.map (pollCmd u) },
    dispatch := { u.dispatch with
      lastPoll := u.now, queues := u.dispatch.queues.map (fun q => { q with cmds := q.cmds.map (pollCmd u) }),
      coreWaits := u.dispatch.coreWaits.map (pollWait u) } }

@[simp] theorem onHostPage_pollTaken (x : Nat) (u : State) : onHostPage x (pollTaken u) = onHostPage x u := rfl

/-- Thread 2 meets an object of a poll whose page is gone (R414). -/
def pollStalls (s : State) (o : Nat × Nat × Nat × Nat) : State :=
  if threadStalled 547 s then s else stallOn 547 o.2.1 0 o.2.2.1 o.2.2.2 0 0 .read (memCheck o.1 8 .read s) s

/-- What a poll does with the objects it has read to `u`. -/
def pollEnd (l : List (Nat × Nat × Nat × Nat)) (u : State) : State :=
  (l.filter (fun o => !onHostPage o.1 u)).foldl pollStalls u

theorem execHostPoll_eq (s : State) :
    execHostPoll s =
      if s.now < s.dispatch.lastPoll + ent Ent.hostPollNs s ∨ hostReachable s = false ∨ threadStalled 547 s = true then .next s
      else .next (pollEnd (polledObjects s)
        (pollTaken (readObjects ((polledObjects s).filter (fun o => onHostPage o.1 s)) s))) := rfl

/-- A poll whose objects all lie in host memory reads them, and meets no fault. -/
theorem hostPoll_reads {s : State} (hdue : s.dispatch.lastPoll + ent Ent.hostPollNs s ≤ s.now) (hhost : hostReachable s = true)
    (hserved : threadStalled 547 s = false) (hall : (polledObjects s).all (fun o => onHostPage o.1 s) = true) :
    exec .hostPoll s = .next (pollTaken (readObjects (polledObjects s) s)) := by
  have hread : (polledObjects s).filter (fun o => onHostPage o.1 s) = polledObjects s :=
    List.filter_eq_self.mpr (fun o ho => List.all_eq_true.mp hall o ho)
  have hgone : (polledObjects s).filter (fun o => !onHostPage o.1 s) = [] :=
    List.filter_eq_nil_iff.mpr (fun o ho => by simp [List.all_eq_true.mp hall o ho])
  have hlate : ¬ (s.now < s.dispatch.lastPoll + ent Ent.hostPollNs s ∨ hostReachable s = false ∨ threadStalled 547 s = true) := by
    simp [hhost, hserved, hdue]
  change execHostPoll s = _
  rw [execHostPoll_eq, if_neg hlate, hread, pollEnd]
  simp only [onHostPage_pollTaken, onHostPage_readObjects, hgone, List.foldl_nil]

/-! HITCH_TIMEOUT (R309). -/

theorem hitchTimeout_queue {queue u : Nat} {core : Option Nat} {s : State} {c : Cmd} {seen : BitVec 64}
    (hrun : dispatchStopped s = false) (hc : nextCmdOf queue s = some c) (hphase : c.phase = .waiting u seen)
    (hdue : u + ent Ent.hitchTimeoutNs s ≤ s.now) (hmet : c.met = false) :
    exec (.hitchTimeout (some queue) core) s =
      .next (raiseJobFault 0x6001 (faultDetail 6 queue 4 (cmdTag c) (cmdOpcode c))
        (wbSubmit 0x6001 queue [cw c 1, seen.toNat, cw c 2] (count Cnt.hitchTimeouts 1 s))) := by
  change execHitchTimeout (some queue) core s = _
  simp only [execHitchTimeout, hrun, hc, hphase, hdue, hmet, and_self, Bool.false_eq_true, if_false, if_true]

theorem hitchTimeout_core {core : Nat} {s : State} {x : CoreWait} (hrun : dispatchStopped s = false)
    (hx : s.dispatch.coreWaits.find? (fun w => w.core == core) = some x) (hdue : x.since + ent Ent.hitchTimeoutNs s ≤ s.now)
    (hmet : x.met = false) :
    exec (.hitchTimeout none (some core)) s =
      .next (raiseJobFault 0x6001 (faultDetail 5 core 4 0 0)
        (wbSubmit 0x6001 (0x100 + core) [x.addr, x.lastSeen.toNat, x.threshold.toNat] (count Cnt.hitchTimeouts 1 s))) := by
  change execHitchTimeout none (some core) s = _
  simp only [execHitchTimeout, hrun, hx, hdue, hmet, and_self, Bool.false_eq_true, if_false, if_true]

/-! Completion, and the end of launches, queues, patches and versions (R289, R301, R304, R314, R315). -/

theorem commandCompletion_native {queue : Nat} (hq : queue < 64) (cmd : Nat) (s : State) :
    exec (.commandCompletion queue cmd) s = .next (completeNative queue cmd s) := by
  change execCommandCompletion queue cmd s = _
  rw [execCommandCompletion, if_neg (by omega), if_neg (by omega)]

theorem completeNative_finished {queue cmd : Nat} {s : State} {c : Cmd} (hc : cmdOfQueue queue cmd s = some c)
    (hdone : c.phase = .finished) (hrun : dispatchStopped s = false) : completeNative queue cmd s = completeCmd queue c s := by
  simp only [completeNative, hc, hdone, hrun, and_self, if_true]

theorem completeNative_held {queue cmd : Nat} {s : State} {c : Cmd} {rest : List Cmd} (hgone : cmdOfQueue queue cmd s = none)
    (hheld : (queueOf queue s).held = c :: rest) (hid : c.id = cmd) : completeNative queue cmd s = serveHeld queue s := by
  simp [completeNative, hgone, hheld, hid]

theorem launchComplete_ends {launch : Nat} {s : State} {l : Launch} (hl : launchOf launch (skipStages launch s) = some l)
    (hdone : launchDone l = true) (htasks : launchTasks launch (skipStages launch s) = false) :
    exec (.launchComplete launch) s = .next (endLaunch l (skipStages launch s)) := by
  change execLaunchComplete launch s = _
  simp only [execLaunchComplete, hl, hdone, htasks, and_self, if_true]

theorem queueDrainDone_ends {queue : Nat} {s : State} (hq : queue < 64) (hdrained : queueDrained queue s = true) :
    exec (.queueDrainDone queue) s = .next (settleUndeploy (queueOff queue s)) := by
  change execQueueDrainDone queue s = _
  rw [execQueueDrainDone, if_neg (by omega), if_pos hdrained]

theorem patchSlotTimeout_ends {queue cmd : Nat} {s : State} {p : PatchWait}
    (hp : s.dispatch.patchWaits.find? (fun p => p.queue == queue && p.cmd == cmd) = some p)
    (hdue : p.since + ent Ent.hitchTimeoutNs s ≤ s.now) (hrun : dispatchStopped s = false) :
    exec (.patchSlotTimeout queue cmd) s = .next (finishCmd queue cmd stTimeout 0 0
      { s with dispatch := { s.dispatch with patchWaits := s.dispatch.patchWaits.erase p } }) := by
  change execPatchSlotTimeout queue cmd s = _
  simp only [execPatchSlotTimeout, hp, hdue, hrun, and_self, if_true]

end Sys2Proof.Machine

namespace Sys2Proof

open Sys2Proof.Machine

/-- Settles O12, condition by condition. -/
theorem waitConditionsAreThose : Obligations.WaitConditionsAreThose := by
  unfold Obligations.WaitConditionsAreThose
  exact fun v t k => ⟨condHolds_atLeast v t k, condHolds_masked v t k, condHolds_differs v t k⟩

/-- Settles O36, clause by clause from what a doorbell, a retry and a write of ENABLE do. -/
theorem doorbellsAndEnablesMoveTheQueues : Obligations.DoorbellsAndEnablesMoveTheQueues := by
  unfold Obligations.DoorbellsAndEnablesMoveTheQueues
  refine ⟨?tail, ?tailOff, ?cqHead, ?width, ?retry, ?enable, ?drain, ?shadow⟩
  case tail =>
    intro queue w s hq hflr hb ho hon hclass hfree
    exact ⟨_, rfl, tailDoorbell_taken hq hflr hb ho hon hclass hfree⟩
  case tailOff =>
    intro queue w s hq hflr hb ho hoff
    exact tailDoorbell_off hq hflr hb ho hoff
  case cqHead =>
    intro queue w s hq hflr hb ho hclass
    exact ⟨_, rfl, cqHeadDoorbell_taken hq hflr hb ho hclass⟩
  case width =>
    intro queue w s hq hflr h8 h4
    exact ⟨tailDoorbell_otherWidth hq hflr h8 h4, cqHeadDoorbell_otherWidth hq hflr h8 h4⟩
  case retry =>
    exact fun s => ⟨fun queue hq => phaseRetry_queue hq, rfl, rfl⟩
  case enable =>
    intro req queue value s hq hacc hv hrings hoff
    rw [queueEnable_accepted hq hacc hrings, queueEnableAction_enables (by simpa using hv) (by simpa using hoff)]
  case drain =>
    intro req queue value s hq hacc hv hrings hon hnew
    refine ⟨_, rfl, ?_⟩
    rw [queueEnable_accepted hq hacc hrings,
      queueEnableAction_drains (by simpa using hv) (by simpa using hon) (by simpa using hnew), queueOf_writeStart]
    rfl
  case shadow =>
    exact fun queue s => ⟨directShadow_queues queue 0 true s, directShadow_hostif queue 0 true s⟩

/-- Settles O37, clause by clause from what taking up, waiting, polling, timing out and completing do. -/
theorem queueCommandsAreCarriedOutAndEnd : Obligations.QueueCommandsAreCarriedOutAndEnd := by
  unfold Obligations.QueueCommandsAreCarriedOutAndEnd
  refine ⟨?rows, ?waitHolds, ?held, ?allows, ?poll, ?queueTimeout, ?coreTimeout, ?completes, ?retries, ?launch, ?drained,
    ?patch, ?version, ?waitReads⟩
  case rows =>
    intro queue s c i r hq hrun hserved hc hphase hsound hdirect hpermitted hordered hfree hwait hrow
    obtain ⟨hexec, rfl⟩ := opcode_row hrow
    rw [hexec, takeUp_fetched hq hrun hserved hc hphase,
      dispatchNext_runs hc ⟨hsound, hdirect, hpermitted, hordered⟩ hfree hwait]
  case waitHolds =>
    intro queue s c u seen hq hrun hserved hc hphase hfree hmet
    exact commandWaitMet_holds ⟨hq, hrun, hserved, hc, ⟨u, seen, hphase⟩, hfree⟩ hmet
  case held =>
    intro queue s c hq hrun hc hphase hsound hdirect hpermitted hordered hheld
    exact ⟨cmdOpcode_of_scheduleHolds hheld,
      descriptor_held hq hrun hc hphase ⟨hsound, hdirect, hpermitted, hordered⟩ hheld⟩
  case allows =>
    rintro core q s g hcore rfl
    exact scheduleAllows_iff hcore q s
  case poll =>
    rintro s u hdue hhost hserved hall hu
    change u = readObjects (polledObjects s) s at hu
    have hnow : s.now = u.now := by rw [hu, readObjects_now]
    rw [hostPoll_reads hdue hhost hserved hall, ← hu, hnow, pollTaken]
  case queueTimeout =>
    intro queue core s c u seen hrun hc hphase hdue hmet
    exact hitchTimeout_queue hrun hc hphase hdue hmet
  case coreTimeout =>
    intro core s x hrun hx hdue hmet
    exact hitchTimeout_core hrun hx hdue hmet
  case completes =>
    intro queue cmd s c hq hc hdone hrun
    rw [commandCompletion_native hq, completeNative_finished hc hdone hrun]
  case retries =>
    intro queue cmd s c rest hq hgone hheld hid
    rw [commandCompletion_native hq, completeNative_held hgone hheld hid, serveHeld]
  case launch =>
    intro launch s l hl hdone htasks
    exact launchComplete_ends hl hdone htasks
  case drained =>
    intro queue s hq hdrained
    exact queueDrainDone_ends hq hdrained
  case patch =>
    intro queue cmd s p hp hdue hrun
    exact patchSlotTimeout_ends hp hdue hrun
  case version =>
    exact fun graph version s => rfl
  case waitReads =>
    intro queue s c u seen v w hq hrun hserved hc hphase hfree hmet hshown hok hv hw
    have htried : WaitTried queue c s := ⟨hq, hrun, hserved, hc, ⟨u, seen, hphase⟩, hfree⟩
    rw [commandWaitMet_reads htried hmet hshown hok, ← hv, ← hw, waitOver]

end Sys2Proof
end

section
/-! SUPPORT. Page faults and their registers: MAP_TAIL, FQ_HEAD and FQ_OVERFLOW_CLEAR, an access that stalls, its replay and
its timeout (R401, R409, R414 to R419). -/

namespace Sys2Proof.Machine

open Sys2Proof

/-! The registers (R298, R409, R416, R417). -/

section

variable {w : HostWrite} {s : State}

theorem mapTail_on (hflr : s.hostif.flr = false) (hb : w.bytes = 8) (ho : w.offset = 0) (hon : mapOn s = true) :
    exec (.mapTail w) s = .next (fetchMap { s with
      hostif := { s.hostif with mapTailReg := w.value },
      xlate := { s.xlate with mapTail := w.value.toNat % 2 ^ 32, mapStale := none } }) := by
  change execMapTail w s = _
  simp only [execMapTail, hflr, regWrite_whole hb ho, hon, Bool.false_eq_true, if_false, if_true]

theorem mapTail_off (hflr : s.hostif.flr = false) (hb : w.bytes = 8) (ho : w.offset = 0) (hoff : mapOn s = false) :
    exec (.mapTail w) s = .next s := by
  change execMapTail w s = _
  simp only [execMapTail, hflr, regWrite_whole hb ho, hoff, Bool.false_eq_true, if_false]

theorem fqHead_taken (hflr : s.hostif.flr = false) (hb : w.bytes = 8) (ho : w.offset = 0) :
    exec (.fqHead w) s = .next (drainLatched s.xlate.faults.length { s with
      hostif := { s.hostif with fqHeadReg := w.value },
      xlate := { s.xlate with fqHead := w.value.toNat % 2 ^ 32 } }) := by
  change execFqHead w s = _
  simp only [execFqHead, hflr, regWrite_whole hb ho, Bool.false_eq_true, if_false]

end

theorem fqOverflowClear_accepted {req : ReqId} {value : Nat} {s : State} (h : Accepted req 0x2800 0x06 (leBytes 1 value) s) :
    exec (.fqOverflowClear req value) s =
      .next (fqOverflowClearAction req (leBytes 1 value) (actionStart req 0x2800 0x06 s)) := by
  change execFqOverflowClear req value s = _
  rw [execFqOverflowClear, cmdVia_accepted h]

/-- The action ends its entry OK, and clears the overflow where no fault is left unqueued. -/
theorem fqOverflowClearAction_eq (req : ReqId) (bytes : List Byte) (s : State) :
    fqOverflowClearAction req bytes s =
      { endCmd Ent.fqOverflowClear stOk 0 s with
        xlate := { s.xlate with overflow := s.xlate.overflow && !s.xlate.faults.all (fun f => f.queued) } } := by
  change (if s.xlate.faults.all (fun f => f.queued) = true then
    { endCmd Ent.fqOverflowClear stOk 0 s with xlate := { s.xlate with overflow := false } }
    else endCmd Ent.fqOverflowClear stOk 0 s) = _
  cases s.xlate.faults.all (fun f => f.queued) with
  | true => simp only [if_true, Bool.not_true, Bool.and_false]
  | false => simp only [Bool.false_eq_true, if_false, Bool.not_false, Bool.and_true]; rfl

@[simp] theorem actionStart_xlate (req : ReqId) (index sub : Nat) (s : State) :
    (actionStart req index sub s).xlate = s.xlate := by rw [actionStart_frame]

/-! An access that stalls, or does not (R401, R414, R415). -/

section

variable {agent : Nat} {va : BitVec 64} {access : Access} {s : State}

theorem pageFault_stalls (hagent : agent < 548) :
    exec (.pageFault agent va access) s =
      .next (stallOn agent (agentWork agent s).1 (agentWork agent s).2 (agentUnit agent).1 (agentUnit agent).2 0 0 access
        (memCheck va.toNat 1 access s) s) := by
  change execPageFault agent va access s = _
  rw [execPageFault, if_neg (by omega)]

theorem memCheck_beyond {a n : Nat} (h : 2 ^ 52 ≤ a) : memCheck a n access s = .badAddress := by
  rw [memCheck, if_pos (Or.inl h)]

/-- A page of the module range is lost only where its entry is all zero (R422). -/
theorem pageLost_eq_false {p : Nat} (h : inModuleRange (p * 4096) = false ∨ alGet s.xlate.ptes p ≠ some 0) :
    pageLost p s = false := by
  rcases h with hrange | hentry
  · rw [pageLost, hrange, Bool.and_false]
  · rw [pageLost, beq_eq_false_iff_ne.mpr hentry, Bool.false_and]

/-- FAULT_REPLAY takes an agent off the released ones (R418). -/
theorem faultReplay_replays {r : Nat × Nat} (hagent : agent < 548)
    (hr : s.xlate.released.find? (fun r => r.1 == agent) = some r) :
    exec (.faultReplay agent) s = .next (replayAgent agent (count Cnt.replays 1
      { s with xlate := { s.xlate with released := s.xlate.released.erase r } })) := by
  change execFaultReplay agent s = _
  simp only [execFaultReplay, Nat.not_le.mpr hagent, hr, if_false]

end

/-! FAULT_TIMEOUT (R419, R598). -/

theorem faultTimeout_faults {page : Nat} {s : State} {f : PendingFault}
    (hf : s.xlate.faults.find? (fun f => f.page == page && decide (f.time + ent Ent.faultTimeoutNs s ≤ s.now)) = some f) :
    exec (.faultTimeout page) s = .next (jobFaultPlain (agentUnit f.firstAgent).1 (agentUnit f.firstAgent).2 4 f.work.1 f.work.2
      { s with xlate := { s.xlate with faults := s.xlate.faults.filter (fun x => x.page != page) } }) := by
  change execFaultTimeout page s = _
  simp only [execFaultTimeout, hf]

/-- A vector raised changes the host interface only (R443). -/
theorem raiseVector_frame (q : Option Nat) (v : Nat) (s : State) :
    raiseVector q v s = { s with hostif := (raiseVector q v s).hostif } := by
  unfold raiseVector
  split
  · rfl
  · split <;> rfl

theorem raiseEvent_frame (bit : Nat) (s : State) : raiseEvent bit s = { s with hostif := (raiseEvent bit s).hostif } := by
  unfold raiseEvent
  split
  · rfl
  · rw [raiseVector_frame]

@[simp] theorem setJobState_xlate (n : Nat) (s : State) : (setJobState n s).xlate = s.xlate := wbSubmit_xlate _ _ _ _

/-- A job fault leaves translation, and the faults pending there, as they were. -/
@[simp] theorem raiseJobFaultOf_xlate (cause code detail : Nat) (s : State) :
    (raiseJobFaultOf cause code detail s).xlate = s.xlate := by
  have hcounted : (count Cnt.jobFaults 1 (wbSubmit 0xE001 noInst [code, cause, detail] s)).xlate = s.xlate := by simp
  unfold raiseJobFaultOf
  generalize count Cnt.jobFaults 1 (wbSubmit 0xE001 noInst [code, cause, detail] s) = u at hcounted
  dsimp only
  split
  · rw [raiseEvent_frame, ← hcounted]
    change (if u.job.state = jobRunning then setJobState jobRestarting u else u).xlate = u.xlate
    split
    · exact setJobState_xlate jobRestarting u
    · rfl
  · exact hcounted

@[simp] theorem jobFaultPlain_xlate (unit inst cause tag opcode : Nat) (s : State) :
    (jobFaultPlain unit inst cause tag opcode s).xlate = s.xlate := raiseJobFaultOf_xlate _ _ _ s

end Sys2Proof.Machine

namespace Sys2Proof

open Sys2Proof.Machine

/-- Settles O44, clause by clause from what a register write, an access, a replay and a timeout do. -/
theorem pageFaultsAndTheirRegisters : Obligations.PageFaultsAndTheirRegisters := by
  unfold Obligations.PageFaultsAndTheirRegisters
  refine ⟨?mapOn, ?mapOff, ?fqHead, ?overflow, ?translates, ?absent, ?beyond, ?replay, ?timeout⟩
  case mapOn =>
    intro w s hflr hb ho hon
    exact mapTail_on hflr hb ho hon
  case mapOff =>
    intro w s hflr hb ho hoff
    exact mapTail_off hflr hb ho hoff
  case fqHead =>
    intro w s hflr hb ho
    exact fqHead_taken hflr hb ho
  case overflow =>
    intro req value s hacc
    refine ⟨_, fqOverflowClear_accepted hacc, ?_⟩
    rw [fqOverflowClearAction_eq, actionStart_xlate]
    refine ⟨endedOk_endCmd (u := actionStart req 0x2800 0x06 s) rfl rfl (actionStart_now _ _ _ s), rfl, ?_⟩
    rw [actionStart_frame]
    rfl
  case translates =>
    intro agent va access s hagent hok
    rw [pageFault_stalls hagent, hok, stallOn]
  case absent =>
    intro agent va access s p hagent habsent hkept
    rw [pageFault_stalls hagent, habsent, stallOn, pageLost_eq_false hkept, if_neg Bool.false_ne_true]
  case beyond =>
    intro agent va access s hagent hva
    rw [pageFault_stalls hagent, memCheck_beyond hva, stallOn]
  case replay =>
    intro agent s r hagent hr
    exact faultReplay_replays hagent hr
  case timeout =>
    intro page s f hf
    refine ⟨_, faultTimeout_faults hf, rfl, ?_⟩
    simp

end Sys2Proof
end

section
/-! SUPPORT. Run-ahead: the outcome of a branch, the release of a squashed ID, PREDICT_RESET and the dispatch of a stage ahead
(R321 to R330). -/

namespace Sys2Proof.Machine

open Sys2Proof

/-! BRANCH_RESOLVE (R224, R323, R326). -/

/-- A RESOLVE taken from those that have reached the Postilion. -/
def takeResolve (r : Nat × Nat × BitVec 64) (s : State) : State :=
  { s with runahead := { s.runahead with resolves := s.runahead.resolves.erase r } }

/-- The prediction a branch of a launch stands on: the one already made for the launch, else the table's (R324). -/
def standingPrediction (l : Launch) (launch branch : Nat) (s : State) : Option (BitVec 32) :=
  (openPrediction launch branch s).or (predictionOf l.queue l.graph branch s)

/-- A prediction counted against the outcome, where there was one (R323). -/
def countPrediction (pred : Option (BitVec 32)) (out : BitVec 32) (s : State) : State :=
  if pred = none then s else count Cnt.predictions 1 (if pred = some out then s else count Cnt.mispredictions 1 s)

/-- An outcome written to the prediction table and to its launch. -/
def learnOutcome (l : Launch) (launch branch : Nat) (outcome : BitVec 64) (s : State) : State :=
  updLaunch launch (fun x => { x with resolved := x.resolved ++ [(branch, outcome)] })
    (notePrediction { queue := l.queue, graph := l.graph, branch := branch, outcome := outcome.setWidth 32 } s)

/-- Every live ID meets the resolution of a branch. -/
def settleIds (launch branch : Nat) (out : BitVec 32) (s : State) : State :=
  (s.runahead.ids.filter (fun i => !i.squashed)).foldl (fun s i => resolveId launch branch out i s) s

theorem countPrediction_match (pred : Option (BitVec 32)) (out : BitVec 32) (s : State) :
    countPrediction pred out s = match pred with
      | some p => count Cnt.predictions 1 (if p = out then s else count Cnt.mispredictions 1 s)
      | none => s := by
  cases pred with
  | none => rfl
  | some p => simp only [countPrediction, reduceCtorEq, if_false, Option.some.injEq]

section

variable {launch branch : Nat} {outcome : BitVec 64} {s : State}

/-- The first outcome of a branch in its launch is counted, learnt and met by the live IDs. -/
theorem branchResolve_first {l : Launch}
    (holdest : s.runahead.resolves.find? (fun r => r.1 == launch && r.2.1 == branch) = some (launch, branch, outcome))
    (hl : launchOf launch (takeResolve (launch, branch, outcome) s) = some l) (hopen : alGet l.resolved branch = none) :
    exec (.branchResolve launch branch outcome) s = .next (skipStages launch (settleIds launch branch (outcome.setWidth 32)
      (learnOutcome l launch branch outcome
        (countPrediction (standingPrediction l launch branch (takeResolve (launch, branch, outcome) s)) (outcome.setWidth 32)
          (takeResolve (launch, branch, outcome) s))))) := by
  change execBranchResolve launch branch outcome s = _
  rw [takeResolve] at hl
  rw [countPrediction_match]
  simp only [execBranchResolve, holdest, hl, hopen, ne_eq, not_true_eq_false, if_false, Option.isSome_none,
    Bool.false_eq_true]
  rfl

/-- A RESOLVE does not overtake an older one of its branch. -/
theorem branchResolve_overtaking {first : BitVec 64}
    (holdest : s.runahead.resolves.find? (fun r => r.1 == launch && r.2.1 == branch) = some (launch, branch, first))
    (hother : first ≠ outcome) : exec (.branchResolve launch branch outcome) s = .next s := by
  have hnot : s.runahead.resolves.find? (fun r => r.1 == launch && r.2.1 == branch) ≠ some (launch, branch, outcome) := by
    simpa [holdest] using hother
  change execBranchResolve launch branch outcome s = _
  rw [execBranchResolve, if_pos hnot]

end

/-! RANGE_INVALIDATE (R329). -/

/-- An ID and its ranges out of their tables. -/
def forgetId (spec : Nat) (s : State) : State :=
  { s with runahead := { s.runahead with
    ids := s.runahead.ids.filter (fun i => i.id != spec), ranges := s.runahead.ranges.filter (fun r => r.spec != spec) } }

theorem forgetId_ids (spec : Nat) (s : State) : (forgetId spec s).runahead.ids.any (fun i => i.id == spec) = false := by
  simp [forgetId]

theorem forgetId_ranges (spec : Nat) (s : State) :
    (forgetId spec s).runahead.ranges.any (fun r => r.spec == spec) = false := by
  simp [forgetId]

/-- A squashed ID that no transfer carries any more: the rows of its ranges are cleared, and it is forgotten. -/
theorem rangeInvalidate_squashed {spec : Nat} {s : State}
    (hsquashed : s.runahead.ids.any (fun i => i.id == spec && i.squashed) = true)
    (hstopped : s.streaming.transfers.any (fun t => t.spec == spec) = false) :
    exec (.rangeInvalidate spec) s = .next (forgetId spec
      ((s.runahead.ranges.filter (fun r => r.spec == spec)).foldl (fun s r => clearRange r s) s)) := by
  change execRangeInvalidate spec s = _
  rw [execRangeInvalidate, if_pos ⟨hsquashed, hstopped⟩]
  rfl

/-! PREDICT_RESET (R323). -/

/-- The prediction table emptied. -/
def emptyPredictions (s : State) : State := { s with runahead := { s.runahead with predictions := [] } }

theorem leAt_leBytes (n v : Nat) : leAt (leBytes n v) 0 n = v % 2 ^ (8 * n) := by
  simp [leAt, slice, List.take_of_length_le]

theorem predictReset_accepted {req : ReqId} {value : Nat} {s : State} (h : Accepted req 0x2550 9 (leBytes 1 value) s) :
    exec (.predictReset req value) s = .next (predictResetAction req (leBytes 1 value) (actionStart req 0x2550 9 s)) := by
  change execPredictReset req value s = _
  rw [execPredictReset, cmdVia_accepted h]

theorem predictResetAction_nonzero {value : Nat} (hv : value % 256 ≠ 0) (req : ReqId) (s : State) :
    predictResetAction req (leBytes 1 value) s = endCmd Ent.predictReset stOk 0 (emptyPredictions s) := by
  have hread : leAt (leBytes 1 value) 0 1 = value % 256 := leAt_leBytes 1 value
  rw [predictResetAction, hread, if_neg hv, emptyPredictions]

/-! SPEC_DISPATCH (R321, R324, R325, R327). -/

/-- A waiting stage whose predecessors and branches let it run ahead, that finds room in the window, an ID and room for its
ranges, is dispatched ahead under that ID. -/
theorem specDispatch_ahead {launch stage id : Nat} {s u : State} {l : Launch} {r : BitVec 256} {v : GraphVersion}
    {set : List (Nat × Nat × BitVec 32)} (hu : u = skipStages launch s) (hl : launchOf launch u = some l)
    (hr : stageRecord l stage u = some r) (hv : versionOf l.graph l.version u = some v)
    (hwaits : stagePhase l stage = .waiting) (hmay : mayDispatch l stage u = true) (hahead : aheadStage l r v u = true)
    (hset : stageSet l (openBranches l v stage) u = some set) (hroom : windowRoom l u = true) (hid : idFor set u = some id)
    (hfit : rangesFit (stageRanges v stage id) u = true) :
    exec (.specDispatch launch stage) s =
      .next (dispatchAhead l r id set (stageRanges v stage id) ((keptStages l u).contains stage) u) := by
  subst hu
  have hready : ¬ (stagePhase l stage ≠ .waiting ∨ mayDispatch l stage (skipStages launch s) = false ∨
      aheadStage l r v (skipStages launch s) = false) := by simp [hwaits, hmay, hahead]
  change execSpecDispatch launch stage s = _
  simp only [execSpecDispatch, hl, hr, hv, if_neg hready, hset, hroom, hid, hfit, Bool.true_eq_false, if_false, if_true]

end Sys2Proof.Machine

namespace Sys2Proof

open Sys2Proof.Machine

/-- Settles O38, clause by clause from what a RESOLVE, a release, a reset and a dispatch ahead do. -/
theorem speculationResolvesAndRetires : Obligations.SpeculationResolvesAndRetires := by
  unfold Obligations.SpeculationResolvesAndRetires
  refine ⟨?first, ?overtaking, ?release, ?reset, ?ahead⟩
  case first =>
    rintro launch branch outcome s l u out holdest rfl hl hopen rfl
    exact ⟨_, _, _, rfl, rfl, rfl, branchResolve_first holdest hl hopen⟩
  case overtaking =>
    rintro launch branch outcome s ⟨first, holdest, hother⟩
    exact branchResolve_overtaking holdest hother
  case release =>
    intro spec s hsquashed hstopped
    exact ⟨_, rangeInvalidate_squashed hsquashed hstopped, forgetId_ids spec _, forgetId_ranges spec _⟩
  case reset =>
    intro req value s hv hacc
    refine ⟨_, predictReset_accepted hacc, ?_⟩
    rw [predictResetAction_nonzero hv]
    refine ⟨endedOk_endCmd (u := emptyPredictions (actionStart req 0x2550 9 s)) rfl rfl (actionStart_now _ _ _ s), ?_⟩
    rw [actionStart_frame]
    rfl
  case ahead =>
    intro launch stage s u l r v set id hu hl hr hv hwaits hmay hahead hset hroom hid hfit
    exact specDispatch_ahead hu hl hr hv hwaits hmay hahead hset hroom hid hfit

end Sys2Proof
end

section
/-! SUPPORT. The cyclic schedule: the slot in force, the commit of a table, slot boundaries and returns of lent cores, and the
wake and step-down of core groups under it (R361 to R370). -/

namespace Sys2Proof.Machine

open Sys2Proof

/-! The slot in force and the commit of a table (R361, R363). -/

theorem currentSlot_eq_iff (s : State) (slot : Nat) :
    currentSlot s = slot ↔ 1000 * slot ≤ s.now % 128000 ∧ s.now % 128000 < 1000 * slot + 1000 := by
  unfold currentSlot
  omega

theorem schedCommit_accepted {req : ReqId} {value : Nat} {s : State} (h : Accepted req 0x2603 0x02 (leBytes 1 value) s) :
    exec (.schedCommit req value) s = .next (schedCommitAction req (leBytes 1 value) (actionStart req 0x2603 0x02 s)) := by
  change execSchedCommit req value s = _
  rw [execSchedCommit, cmdVia_accepted h]

/-- The pending table, as it is, waits for the next cycle. -/
def tableCommitted (s : State) : State :=
  { s with job := { s.job with
    schedPending := true, committedTable := s.job.pendingTable, committedIn := s.now / 128000 } }

theorem schedCommitAction_sound {s : State} (h : s.job.pendingTable.all (fun p => slotOk p.2.toNat) = true) (req : ReqId)
    (bytes : List Byte) : schedCommitAction req bytes s = endCmd Ent.schedCommit stOk 0 (tableCommitted s) := by
  rw [schedCommitAction, if_pos h, tableCommitted]

theorem scheduleCycleStart_due {s : State} (hpending : s.job.schedPending = true) (hslot : currentSlot s = 0)
    (hcycle : s.job.committedIn < s.now / 128000) :
    exec .scheduleCycleStart s = .next (count Cnt.schedCommits 1 { s with job := { s.job with
      activeTable := s.job.committedTable, schedPending := false, committedTable := [],
      replaced := (s.now / 1000, BitVec.ofNat 128 (slotEntry s.job.activeTable 127)) } }) := by
  change execScheduleCycleStart s = _
  simp [execScheduleCycleStart, hpending, hslot, hcycle]

theorem scheduleCycleStart_sameCycle {s : State} (h : s.now / 128000 ≤ s.job.committedIn) :
    exec .scheduleCycleStart s = .next s := by
  change execScheduleCycleStart s = _
  simp [execScheduleCycleStart, Nat.not_lt.mpr h]

/-! A core's change of queue (R364, R365). -/

theorem alGet_alErase_ne {α : Type} (l : List (Nat × α)) {k j : Nat} (h : j ≠ k) : alGet (alErase l k) j = alGet l j := by
  have hkeep : (fun p : Nat × α => decide ((p.1 != k) = true ∧ (p.1 == j) = true)) = fun p => p.1 == j := by
    funext p
    by_cases hp : p.1 = j <;> simp [hp, h]
  rw [alGet, alErase, List.find?_filter, hkeep, alGet]

/-- The state with nothing said of which core is whose, what a change of queue leaves behind, which boundary was last, and the
counters: what a slot boundary may change of a schedule without debts is gone. -/
def coresUnassigned (s : State) : State :=
  { s with
    dict := { s.dict with counters := [] },
    job := { s.job with coreQueue := [], outgoing := [], boundaryAt := 0 } }

/-- The choice of a queue does not look at which core is whose. -/
theorem chooseQueue_coresUnassigned (cg : Nat) (s : State) : chooseQueue cg (coresUnassigned s) = chooseQueue cg s := rfl

theorem effectiveOn_coresUnassigned (cg : Nat) (s : State) :
    effectiveOn (currentSlot (coresUnassigned s)) cg (coresUnassigned s) = effectiveOn (currentSlot s) cg s := rfl

/-- Which core is whose once a core has left its queue for another, or for none. -/
def queuesAfter (c : Nat) (next : Option Nat) (s : State) : List (Nat × Nat) :=
  match next with
  | some q => alSet s.job.coreQueue c q
  | none => alErase s.job.coreQueue c

theorem queuesAfter_other {c d : Nat} (hne : d ≠ c) (next : Option Nat) (s : State) :
    alGet (queuesAfter c next s) d = alGet s.job.coreQueue d := by
  cases next with
  | none => exact alGet_alErase_ne _ hne
  | some q => exact alGet_alSet_ne _ _ hne

/-- Work that a core has left of its old queue is outgoing; a return is noted whether or not work is left. -/
theorem changeCore_eq (c : Nat) (reclaim : Bool) (since : Nat) (next : Option Nat) (s : State) :
    changeCore c reclaim since next s =
      if alGet s.job.coreQueue c = next then s
      else match alGet s.job.coreQueue c with
      | some old =>
        if reclaim || coreHasWork c old s then
          { s with job := { s.job with
            coreQueue := queuesAfter c next s,
            outgoing := s.job.outgoing ++ [{ core := c, queue := old, since := since, reclaim := reclaim }] } }
        else { s with job := { s.job with coreQueue := queuesAfter c next s } }
      | none => { s with job := { s.job with coreQueue := queuesAfter c next s } } := rfl

/-- A core that changes its queue is noted as the new one's, and its work of the old one may be outgoing. -/
theorem changeCore_changes (c : Nat) (reclaim : Bool) (since : Nat) {next : Option Nat} {s : State}
    (h : alGet s.job.coreQueue c ≠ next) :
    ∃ out, changeCore c reclaim since next s =
      { s with job := { s.job with coreQueue := queuesAfter c next s, outgoing := out } } := by
  rw [changeCore_eq, if_neg h]
  split
  · split
    · exact ⟨_, rfl⟩
    · exact ⟨s.job.outgoing, rfl⟩
  · exact ⟨s.job.outgoing, rfl⟩

/-- A lent core goes to the queue that reclaims it, the return noted since that queue's work was ready. -/
theorem changeCore_reclaim {c q old since : Nat} {s : State} (hold : alGet s.job.coreQueue c = some old) (hne : q ≠ old) :
    changeCore c true since (some q) s = { s with job := { s.job with
      coreQueue := alSet s.job.coreQueue c q,
      outgoing := s.job.outgoing ++ [{ core := c, queue := old, since := since, reclaim := true }] } } := by
  simp [changeCore, hold, Ne.symm hne]

theorem reclaim_returns {core q old : Nat} {s : State} (hcore : core < 96)
    (heff : effectiveOn (currentSlot s) (cgOf core) s = some q) (hold : alGet s.job.coreQueue core = some old) (hne : q ≠ old)
    (hready : readyWork q (cgOf core) s = true) (hdebt : debtOf q (cgOf core) s = 0) :
    exec (.reclaim core) s = .next (count Cnt.reclaims 1 (changeCore core true (readySince core q s) (some q) s)) := by
  change execReclaim core s = _
  simp [execReclaim, hcore, heff, hold, hne, hready, hdebt]

/-! Slot boundaries (R364, R365). -/

/-- The queue with an effective reservation, with ready work and without debt, is the choice. -/
theorem chooseQueue_reserved {cg q : Nat} {s : State} (heff : effectiveOn (currentSlot s) cg s = some q)
    (hready : readyWork q cg s = true) (hdebt : debtOf q cg s = 0) : chooseQueue cg s = some q := by
  simp [chooseQueue, chooseAmong, heff, hready, hdebt]

theorem debtOf_of_noDebts {s : State} (h : s.job.debts = []) (q cg : Nat) : debtOf q cg s = 0 := by
  simp [debtOf, h]

/-- A core with a queue goes to the reserving queue that is the choice. -/
theorem boundaryCore_reserved {c q old : Nat} {s : State} (hold : alGet s.job.coreQueue c = some old)
    (heff : effectiveOn (currentSlot s) (cgOf c) s = some q) (hchoice : chooseQueue (cgOf c) s = some q) :
    alGet (boundaryCore c s).job.coreQueue c = some q := by
  by_cases hsame : q = old
  · subst hsame
    simp [boundaryCore, hold, hchoice]
  · have hne : alGet s.job.coreQueue c ≠ some q := by simpa [hold] using Ne.symm hsame
    have hgoes : boundaryCore c s = changeCore c false (slotStart s) (some q) s := by
      simp [boundaryCore, hold, heff, hchoice, hsame]
    obtain ⟨out, hchanged⟩ := changeCore_changes c false (slotStart s) hne
    rw [hgoes, hchanged]
    exact alGet_alSet_self _ _ _

/-- At a boundary a core keeps its queue, or it changes it and its work of the old one may be outgoing. -/
theorem boundaryCore_cases (c : Nat) (s : State) :
    boundaryCore c s = s ∨ ∃ next out, boundaryCore c s =
      { s with job := { s.job with coreQueue := queuesAfter c next s, outgoing := out } } := by
  have hchange {next : Option Nat} (h : ¬ next = alGet s.job.coreQueue c) :
      ∃ next' out, changeCore c false (slotStart s) next s =
        { s with job := { s.job with coreQueue := queuesAfter c next' s, outgoing := out } } :=
    ⟨next, changeCore_changes c false (slotStart s) (Ne.symm h)⟩
  cases hold : alGet s.job.coreQueue c with
  | none => exact .inl (by simp only [boundaryCore, hold])
  | some old =>
    rw [hold] at hchange
    simp only [boundaryCore, hold]
    split
    · exact .inl rfl
    · next hstays =>
      split
      · exact .inr (hchange hstays)
      · split
        · exact .inr (hchange hstays)
        · exact .inl rfl

theorem boundaryCore_other {c d : Nat} (hne : d ≠ c) (s : State) :
    alGet (boundaryCore c s).job.coreQueue d = alGet s.job.coreQueue d := by
  obtain h | ⟨next, out, h⟩ := boundaryCore_cases c s
  · rw [h]
  · rw [h]
    exact queuesAfter_other hne next s

@[simp] theorem boundaryCore_coresUnassigned (c : Nat) (s : State) :
    coresUnassigned (boundaryCore c s) = coresUnassigned s := by
  obtain h | ⟨next, out, h⟩ := boundaryCore_cases c s
  · rw [h]
  · rw [h]
    rfl

theorem boundaryCore_boundaryAt (c : Nat) (s : State) : (boundaryCore c s).job.boundaryAt = s.job.boundaryAt := by
  obtain h | ⟨next, out, h⟩ := boundaryCore_cases c s <;> rw [h]

/-- States that differ only in which core is whose have the same reservation in force and the same choice. -/
theorem reservation_congr {s u : State} (h : coresUnassigned u = coresUnassigned s) (cg : Nat) :
    effectiveOn (currentSlot u) cg u = effectiveOn (currentSlot s) cg s ∧ chooseQueue cg u = chooseQueue cg s := by
  constructor
  · rw [← effectiveOn_coresUnassigned, h, effectiveOn_coresUnassigned]
  · rw [← chooseQueue_coresUnassigned, h, chooseQueue_coresUnassigned]

/-- Of the cores whose turn it is at a boundary, each that has a queue goes to the reserving queue that is the choice; a core
that has gone to it stays. -/
theorem boundaryCores_reserved {core q : Nat} (l : List Nat) {s : State} {old : Nat}
    (hold : alGet s.job.coreQueue core = some old) (hturn : core ∈ l ∨ old = q)
    (heff : effectiveOn (currentSlot s) (cgOf core) s = some q) (hchoice : chooseQueue (cgOf core) s = some q) :
    alGet (l.foldl (fun s c => boundaryCore c s) s).job.coreQueue core = some q := by
  induction l generalizing s old with
  | nil =>
    obtain hin | rfl := hturn
    · cases hin
    · exact hold
  | cons c cs ih =>
    obtain ⟨heff', hchoice'⟩ := reservation_congr (boundaryCore_coresUnassigned c s) (cgOf core)
    rw [List.foldl_cons]
    by_cases hc : core = c
    · subst hc
      exact ih (boundaryCore_reserved hold heff hchoice) (.inr rfl) (heff'.trans heff) (hchoice'.trans hchoice)
    · have hlater : core ∈ cs ∨ old = q := hturn.imp_left fun h => (List.mem_cons.mp h).resolve_left hc
      exact ih ((boundaryCore_other hc s).trans hold) hlater (heff'.trans heff) (hchoice'.trans hchoice)

/-! What comes before the cores at a boundary: outgoing work, debts and late groups (R366, R367, R369). -/

theorem settleOutgoing_of_nil {s : State} (h : s.job.outgoing = []) : settleOutgoing s = s := by
  rw [settleOutgoing, h]
  rfl

theorem payDebts_of_nil {s : State} (h : s.job.debts = []) : payDebts s = s := by
  have hnone : s.job.debts.filter (fun d => debtLeft s.now d != 0) = s.job.debts := by rw [h]; rfl
  rw [payDebts, hnone]

theorem startPayments_of_nil {s : State} (h : s.job.debts = []) : startPayments s = s := by
  have hnone (f : Debt → Debt) : s.job.debts.map f = s.job.debts := by rw [h]; rfl
  rw [startPayments, hnone]

@[simp] theorem noteLate_job (s : State) : (noteLate s).job = s.job :=
  foldl_view State.job _ (fun s g => by split <;> rfl) _ s

@[simp] theorem noteLate_coresUnassigned (s : State) : coresUnassigned (noteLate s) = coresUnassigned s :=
  foldl_view coresUnassigned _ (fun s g => by split <;> rfl) _ s

/-- The state at a boundary when the turn of the cores comes, where no work is outgoing and no queue owes. -/
def boundaryBegun (s : State) : State := noteLate { s with job := { s.job with boundaryAt := s.now / 1000 } }

theorem slotBoundary_due {s : State} (hon : ent Ent.schedEnable s ≠ 0) (hnew : s.now / 1000 ≠ s.job.boundaryAt)
    (hout : s.job.outgoing = []) (hdebts : s.job.debts = []) :
    exec .slotBoundary s = .next ((List.range 96).foldl (fun s c => boundaryCore c s) (boundaryBegun s)) := by
  have hdue : ¬ (ent Ent.schedEnable s = 0 ∨ s.now / 1000 = s.job.boundaryAt) := not_or.mpr ⟨hon, hnew⟩
  change execSlotBoundary s = _
  rw [execSlotBoundary, if_neg hdue]
  simp only []
  rw [settleOutgoing_of_nil (by exact hout), payDebts_of_nil (by exact hdebts), startPayments_of_nil (by exact hdebts)]
  rfl

theorem slotBoundary_notDue {s : State} (h : ent Ent.schedEnable s = 0 ∨ s.now / 1000 = s.job.boundaryAt) :
    exec .slotBoundary s = .next s := by
  change execSlotBoundary s = _
  rw [execSlotBoundary, if_pos h]

theorem boundaryBegun_boundaryAt (s : State) : (boundaryBegun s).job.boundaryAt = s.now / 1000 := by
  rw [boundaryBegun, noteLate_job]

theorem boundaryBegun_coreQueue (s : State) : (boundaryBegun s).job.coreQueue = s.job.coreQueue := by
  rw [boundaryBegun, noteLate_job]

theorem boundaryBegun_coresUnassigned (s : State) : coresUnassigned (boundaryBegun s) = coresUnassigned s := by
  rw [boundaryBegun, noteLate_coresUnassigned]
  rfl

/-- A boundary due, with no work outgoing and no debt, is carried out: each core that has a queue goes to the queue with an
effective reservation and ready work. -/
theorem slotBoundary_serves {s t : State} (hdebts : s.job.debts = [])
    (ht : t = (List.range 96).foldl (fun s c => boundaryCore c s) (boundaryBegun s)) {core q old : Nat} (hcore : core < 96)
    (hold : alGet s.job.coreQueue core = some old) (heff : effectiveOn (currentSlot s) (cgOf core) s = some q)
    (hready : readyWork q (cgOf core) s = true) : alGet t.job.coreQueue core = some q := by
  obtain ⟨heff', hchoice'⟩ := reservation_congr (boundaryBegun_coresUnassigned s) (cgOf core)
  have hchoice := chooseQueue_reserved heff hready (debtOf_of_noDebts hdebts q (cgOf core))
  rw [ht]
  exact boundaryCores_reserved _ (by rw [boundaryBegun_coreQueue]; exact hold) (.inl (List.mem_range.mpr hcore))
    (heff'.trans heff) (hchoice'.trans hchoice)

/-! What settling the groups' entries leaves of the power state and the time (R510). -/

@[simp] theorem moveOpPoint_mainOn (faster : Bool) (s : State) : (moveOpPoint faster s).power.mainOn = s.power.mainOn := by
  unfold moveOpPoint
  simp only []
  (repeat' split) <;> rfl

@[simp] theorem reserveWake_mainOn (s : State) : (reserveWake s).power.mainOn = s.power.mainOn := by
  unfold reserveWake
  split
  · exact moveOpPoint_mainOn false s
  · rfl

@[simp] theorem loseCores_power (cs : List Nat) (s : State) : (cs.foldl (fun s c => loseCore c s) s).power = s.power :=
  foldl_view State.power (fun s c => loseCore c s) (fun _ _ => rfl) cs s

@[simp] theorem stageOn_mainOn (cg : Nat) (s : State) : (stageOn cg s).power.mainOn = s.power.mainOn := rfl

theorem mainOn_ite {c : Prop} [Decidable c] {a b : State} {on : Bool} (ha : a.power.mainOn = on) (hb : b.power.mainOn = on) :
    (if c then a else b).power.mainOn = on := by
  split <;> assumption

@[simp] theorem settleGroup_mainOn (cg : Nat) (s : State) : (settleGroup cg s).power.mainOn = s.power.mainOn := by
  have hlost (c : Prop) [Decidable c] : (if c then (groupCores cg).foldl (fun s c => loseCore c s) s else s).power.mainOn =
      s.power.mainOn := mainOn_ite (by rw [loseCores_power]) rfl
  unfold settleGroup
  dsimp only
  split
  · dsimp only
    refine mainOn_ite ?_ (hlost _)
    exact (stageOn_mainOn _ _).trans (mainOn_ite ((reserveWake_mainOn _).trans (hlost _)) (hlost _))
  · rfl

@[simp] theorem settleGroups_mainOn (s : State) : (settleGroups s).power.mainOn = s.power.mainOn := by
  unfold settleGroups
  exact foldl_view (fun s : State => s.power.mainOn) _ (fun s cg => settleGroup_mainOn cg s) _ s

/-- What keeps the fixed part lets no time pass. -/
theorem now_of_fixedPart {s t : State} (h : fixedPart t = fixedPart s) : t.now = s.now := congrArg (·.2.1) h

@[simp] theorem settleGroups_now (s : State) : (settleGroups s).now = s.now := now_of_fixedPart (settleGroups_fix s)

theorem slotStartIn_settled {s u : State} (hu : u = settleGroups s) (n : Nat) : slotStartIn n u = n * 1000 - s.now % 1000 := by
  rw [slotStartIn, hu, settleGroups_now]

/-! PREDICTIVE_WAKE (R369). -/

section

variable {cg n : Nat} {s u : State} {g : GroupPower}

/-- The time ahead of a slot at which a group that is not on is to begin to wake: the rest of its entry, its wake time and the
margin. -/
def wakeLead (cg : Nat) (g : GroupPower) (u : State) : Nat :=
  (if g.code = 6 then g.until_ - u.now else 0) + wakeNs (if g.code = 6 then g.other else g.code) (residentMib cg u) +
    ent Ent.wakeMarginNs u

theorem wakeLead_resting (h : g.code < 5) : wakeLead cg g u = wakeNs g.code (residentMib cg u) + ent Ent.wakeMarginNs u := by
  have h6 : g.code ≠ 6 := by omega
  simp [wakeLead, h6]

theorem wakeLead_entering (h : g.code = 6) :
    wakeLead cg g u = (g.until_ - u.now) + wakeNs g.other (residentMib cg u) + ent Ent.wakeMarginNs u := by
  simp [wakeLead, h]

theorem mayWake_eq (hcg : cg < 16) (hg : g = u.power.groups.getD cg GroupPower.reset) (h0 : g.code ≠ 0) (h5 : g.code ≠ 5) :
    mayWake cg u = u.power.mainOn := by
  subst hg
  simp only [mayWake, hcg, decide_true, Bool.true_and, bne_iff_ne.mpr h0, bne_iff_ne.mpr h5, Bool.and_true]

theorem mayWake_resting (hcg : cg < 16) (hu : u = settleGroups s) (hg : g = u.power.groups.getD cg GroupPower.reset)
    (hmain : s.power.mainOn = true) (h0 : g.code ≠ 0) (hrest : g.code < 5) : mayWake cg u = true := by
  rw [mayWake_eq hcg hg h0 (by omega), hu, settleGroups_mainOn, hmain]

/-- A group that may wake does so for a slot ahead that needs it and has come within its lead; a group at rest does so for the
depth that a slot ahead allows. -/
theorem predictiveWake_eq (hcg : cg < 16) (hu : u = settleGroups s) (hg : g = u.power.groups.getD cg GroupPower.reset)
    (hsched : ent Ent.schedEnable u ≠ 0) :
    exec (.predictiveWake cg) s = .next (
      if mayWake cg u = false ∨ (g.code = 6 ∧ g.wakeAfter = true) then u
      else if (nextSlot (fun sl => awakeIn sl cg u) u).any (fun n => decide (slotStartIn (n + 1) u ≤ wakeLead cg g u)) then
        count Cnt.predictiveWakes 1 (wakeGroup cg u)
      else if g.code = 6 then u else wakeForDepth cg (wakeLead cg g u) g.code u) := by
  change execPredictiveWake cg s = _
  simp only [execPredictiveWake, if_neg (Nat.not_le.mpr hcg), ← hu, ← hg, hsched, false_or]
  split
  · rfl
  · unfold wakeLead
    split
    · split <;> rfl
    · split <;> rfl

/-- The next slot that needs a group has come within its lead: the group begins to wake. -/
theorem predictiveWake_needed (hcg : cg < 16) (hu : u = settleGroups s) (hg : g = u.power.groups.getD cg GroupPower.reset)
    (hsched : ent Ent.schedEnable u ≠ 0) (hmay : mayWake cg u = true) (hafter : g.code = 6 → g.wakeAfter = false)
    (hn : nextSlot (fun sl => awakeIn sl cg u) u = some n) (hlead : slotStartIn (n + 1) u ≤ wakeLead cg g u) :
    exec (.predictiveWake cg) s = .next (count Cnt.predictiveWakes 1 (wakeGroup cg u)) := by
  have hfree : ¬ (mayWake cg u = false ∨ (g.code = 6 ∧ g.wakeAfter = true)) := by
    rintro (h | ⟨h6, h⟩)
    · simp [hmay] at h
    · simp [hafter h6] at h
  rw [predictiveWake_eq hcg hu hg hsched, if_neg hfree, hn]
  simp [hlead]

/-- The next slot that needs a group at rest is further ahead than its lead: it wakes for a depth only. -/
theorem predictiveWake_early (hcg : cg < 16) (hu : u = settleGroups s) (hg : g = u.power.groups.getD cg GroupPower.reset)
    (hsched : ent Ent.schedEnable u ≠ 0) (hrest : g.code < 5)
    (hn : nextSlot (fun sl => awakeIn sl cg u) u = some n) (hlead : wakeLead cg g u < slotStartIn (n + 1) u) :
    exec (.predictiveWake cg) s = .next (if mayWake cg u = false then u else wakeForDepth cg (wakeLead cg g u) g.code u) := by
  have h6 : g.code ≠ 6 := by omega
  rw [predictiveWake_eq hcg hu hg hsched, hn]
  simp [h6, Nat.not_le.mpr hlead]

theorem wakeForDepth_none {lead code : Nat}
    (h : nextSlot (fun sl => decide (field (slotEntry s.job.activeTable sl) 111 109 + 1 < code)) s = none) :
    wakeForDepth cg lead code s = s := by
  simp only [wakeForDepth, h]

theorem wakeForDepth_due {lead code : Nat}
    (h : nextSlot (fun sl => decide (field (slotEntry s.job.activeTable sl) 111 109 + 1 < code)) s = some n)
    (hlead : slotStartIn (n + 1) s ≤ lead) :
    wakeForDepth cg lead code s = count Cnt.predictiveWakes 1
      (wakeToDepth cg (field (slotEntry s.job.activeTable ((currentSlot s + n + 1) % 128)) 111 109) s) := by
  simp only [wakeForDepth, h, if_pos hlead]

end

/-! Idle groups (R370, R511). -/

/-- Each group's note of idleness runs on while it is idle, begins where it has become so, and ends otherwise. -/
theorem noteIdle_getElem? {cg : Nat} {g : GroupPower} {s : State} (h : s.power.groups[cg]? = some g) :
    (noteIdle s).power.groups[cg]? =
      some { g with idleSince := if groupIdle cg s = true then some (g.idleSince.getD s.now) else none } := by
  simp [noteIdle, List.getElem?_zipIdx, h]

section

variable {cg since : Nat} {s u : State} {g : GroupPower}

theorem idleStepDown_eq (hcg : cg < 16) (hu : u = settleGroups s) (hg : g = u.power.groups.getD cg GroupPower.reset)
    (hidle : groupIdle cg u = true) (hsched : ent Ent.schedEnable u ≠ 1) :
    exec (.idleStepDown cg) s = .next (
      if g.idleSince.any (fun t => decide (t + ent Ent.idleHoldNs u ≤ u.now)) &&
        !(groupCores cg).any (fun c => !(matOf c u).chains.isEmpty) then stepDownTo cg u else u) := by
  have hfree : ¬ (groupIdle cg u = false ∨ (ent Ent.schedEnable u = 1 ∧ awakeIn (currentSlot u) cg u = true)) := by
    simp [hidle, hsched]
  change execIdleStepDown cg s = _
  simp only [execIdleStepDown, if_neg (Nat.not_le.mpr hcg), ← hu, ← hg, if_neg hfree]
  cases g.idleSince with
  | none => rfl
  | some t =>
    simp only [Option.any_some, Bool.and_eq_true, decide_eq_true_eq]
    split <;> rfl

theorem no_chains (h : ∀ core, core ∈ groupCores cg → (matOf core u).chains = []) :
    (groupCores cg).any (fun c => !(matOf c u).chains.isEmpty) = false := by
  simp only [List.any_eq_false]
  intro c hc
  simp [h c hc]

/-- A group idle for IDLE_HOLD_NS takes the depth it may have. -/
theorem idleStepDown_held (hcg : cg < 16) (hu : u = settleGroups s) (hg : g = u.power.groups.getD cg GroupPower.reset)
    (hidle : groupIdle cg u = true) (hsched : ent Ent.schedEnable u ≠ 1) (hsince : g.idleSince = some since)
    (hheld : since + ent Ent.idleHoldNs u ≤ u.now)
    (hchains : ∀ core, core ∈ groupCores cg → (matOf core u).chains = []) :
    exec (.idleStepDown cg) s = .next (stepDownTo cg u) := by
  rw [idleStepDown_eq hcg hu hg hidle hsched, hsince]
  simp [hheld, no_chains hchains]

end

end Sys2Proof.Machine

namespace Sys2Proof

open Sys2Proof.Machine

/-- Settles O14: the number of whole microseconds of the cycle that have passed names the slot. -/
theorem slotsFollowTheTime : Obligations.SlotsFollowTheTime := by
  unfold Obligations.SlotsFollowTheTime
  intro s slot _
  exact currentSlot_eq_iff s slot

/-- Settles O41, clause by clause from what a commit, a cycle's start, a boundary, a return, a wake and a step-down do. -/
theorem scheduleIsFollowedAndGroupsSleep : Obligations.ScheduleIsFollowedAndGroupsSleep := by
  unfold Obligations.ScheduleIsFollowedAndGroupsSleep
  refine ⟨?commit, ?cycle, ?boundary, ?noBoundary, ?reclaim, ?needed, ?early, ?depth, ?notNoted, ?noted, ?held, ?entering,
    ?sameCycle⟩
  case commit =>
    intro req value s hacc hsound
    have hsound' : (actionStart req 0x2603 0x02 s).job.pendingTable.all (fun p => slotOk p.2.toNat) = true := by
      rw [actionStart_frame]; exact hsound
    refine ⟨_, schedCommit_accepted hacc, ?_, ?_⟩
    · rw [schedCommitAction_sound hsound']
      exact endedOk_endCmd (u := tableCommitted (actionStart req 0x2603 0x02 s)) rfl rfl (actionStart_now _ _ _ s)
    · rw [schedCommitAction_sound hsound', actionStart_frame]
      rfl
  case cycle =>
    intro s hpending hslot hcycle
    exact scheduleCycleStart_due hpending ((currentSlot_eq_iff s 0).mpr ⟨Nat.zero_le _, hslot⟩) hcycle
  case boundary =>
    intro s hon hnew hout hdebts
    refine ⟨_, slotBoundary_due hon hnew hout hdebts, ?_, ?_⟩
    · rw [foldl_view (fun s : State => s.job.boundaryAt) _ (fun s c => boundaryCore_boundaryAt c s), boundaryBegun_boundaryAt]
    · intro core q old hcore hold heff hready
      exact slotBoundary_serves hdebts rfl hcore hold heff hready
  case noBoundary =>
    intro s h
    exact slotBoundary_notDue h
  case reclaim =>
    intro core q old s hcore heff hold hne hready hdebt
    refine ⟨_, reclaim_returns hcore heff hold hne hready hdebt, ?_, ?_, ?_⟩ <;> rw [changeCore_reclaim hold hne]
    · exact alGet_alSet_self _ _ _
    · exact counter_count_self _ _ _
    · rfl
  case needed =>
    intro cg s u g n hcg hu hg hsched hmain h0 hrest hn hlead
    refine predictiveWake_needed hcg hu hg hsched (mayWake_resting hcg hu hg hmain h0 hrest) (fun h6 => by omega) hn ?_
    rwa [wakeLead_resting hrest, slotStartIn_settled hu]
  case early =>
    intro cg s u g n hcg hu hg hsched h0 hrest hn hlead hnone
    have hlate : wakeLead cg g u < slotStartIn (n + 1) u := by rwa [wakeLead_resting hrest, slotStartIn_settled hu]
    rw [predictiveWake_early hcg hu hg hsched hrest hn hlate, wakeForDepth_none hnone, ite_self]
  case depth =>
    intro cg s u g n m depth hcg hu hg hsched hmain h0 hrest hn hlead hm hdepth hd
    have hlate : wakeLead cg g u < slotStartIn (n + 1) u := by rwa [wakeLead_resting hrest, slotStartIn_settled hu]
    have hdue : slotStartIn (m + 1) u ≤ wakeLead cg g u := by rwa [wakeLead_resting hrest, slotStartIn_settled hu]
    rw [predictiveWake_early hcg hu hg hsched hrest hn hlate, mayWake_resting hcg hu hg hmain h0 hrest,
      wakeForDepth_due hm hdue, ← hd]
    rfl
  case notNoted =>
    intro cg s u g hcg hu hg hidle hsched hnone
    rw [idleStepDown_eq hcg hu hg hidle hsched, hnone]
    rfl
  case noted =>
    intro s cg g h
    exact noteIdle_getElem? h
  case held =>
    intro cg s u g since hcg hu hg hidle hsched hsince hheld hchains
    have hnow : u.now = s.now := by rw [hu, settleGroups_now]
    have hstep := idleStepDown_held hcg hu hg hidle hsched hsince (by rw [hnow]; exact hheld) hchains
    constructor
    · intro d hd
      rw [hstep, stepDownTo, hd]
    · intro hd
      rw [hstep, stepDownTo, hd]
  case entering =>
    intro cg s u g n hcg hu hg hsched hmain h6 hafter hn hlead
    have hmay : mayWake cg u = true := by
      rw [mayWake_eq hcg hg (by omega) (by omega), hmain]
    exact predictiveWake_needed hcg hu hg hsched hmay (fun _ => hafter) hn (by rw [wakeLead_entering h6]; exact hlead)
  case sameCycle =>
    intro s _ hcycle
    exact scheduleCycleStart_sameCycle hcycle

end Sys2Proof
end

section
/-! SUPPORT. Jobs and contexts: deploy, undeploy and its end, and the creation and deletion of contexts (R353 to R360). -/

namespace Sys2Proof.Machine

open Sys2Proof

/-! The start of a command entry's action (R551). -/

@[simp] theorem actionStart_job (req : ReqId) (index sub : Nat) (s : State) : (actionStart req index sub s).job = s.job := by
  rw [actionStart_frame]
@[simp] theorem actionStart_mem (req : ReqId) (index sub : Nat) (s : State) : (actionStart req index sub s).mem = s.mem := by
  rw [actionStart_frame]
@[simp] theorem actionStart_dispatch (req : ReqId) (index sub : Nat) (s : State) :
    (actionStart req index sub s).dispatch = s.dispatch := by rw [actionStart_frame]
@[simp] theorem actionStart_service (req : ReqId) (index sub : Nat) (s : State) :
    (actionStart req index sub s).service = s.service := by rw [actionStart_frame]
@[simp] theorem actionStart_pins (req : ReqId) (index sub : Nat) (s : State) :
    (actionStart req index sub s).pins = s.pins := by rw [actionStart_frame]

@[simp] theorem actionStart_values (req : ReqId) (index sub : Nat) (s : State) :
    (actionStart req index sub s).dict.values = s.dict.values := by
  change (startCmd (entryKey index sub) req (writeStart req index sub s)).dict.values = s.dict.values
  rw [startCmd_values, writeStart_frame]

/-! A change of the job's state and of COLD's (R353, R513). -/

@[simp] theorem setJobState_job (n : Nat) (s : State) : (setJobState n s).job = { s.job with state := n } :=
  wbSubmit_job _ _ _ _
@[simp] theorem setJobState_mem (n : Nat) (s : State) : (setJobState n s).mem = s.mem := wbSubmit_mem _ _ _ _
@[simp] theorem setJobState_service (n : Nat) (s : State) : (setJobState n s).service = s.service := wbSubmit_service _ _ _ _
@[simp] theorem setJobState_dispatch (n : Nat) (s : State) : (setJobState n s).dispatch = s.dispatch :=
  wbSubmit_dispatch _ _ _ _
@[simp] theorem setJobState_now (n : Nat) (s : State) : (setJobState n s).now = s.now := wbSubmit_now _ _ _ _
@[simp] theorem setJobState_cmds (n : Nat) (s : State) : (setJobState n s).dict.cmds = s.dict.cmds := wbSubmit_cmds _ _ _ _

@[simp] theorem switchColdOn_job (s : State) : (switchColdOn s).job = s.job := by unfold switchColdOn; split <;> rfl
@[simp] theorem switchColdOn_mem (s : State) : (switchColdOn s).mem = s.mem := by unfold switchColdOn; split <;> rfl
@[simp] theorem switchColdOn_service (s : State) : (switchColdOn s).service = s.service := by unfold switchColdOn; split <;> rfl
@[simp] theorem switchColdOn_dispatch (s : State) : (switchColdOn s).dispatch = s.dispatch := by
  unfold switchColdOn; split <;> rfl
@[simp] theorem switchColdOn_xlate (s : State) : (switchColdOn s).xlate = s.xlate := by unfold switchColdOn; split <;> rfl
@[simp] theorem switchColdOn_dict (s : State) : (switchColdOn s).dict = s.dict := by unfold switchColdOn; split <;> rfl
@[simp] theorem switchColdOn_now (s : State) : (switchColdOn s).now = s.now := by unfold switchColdOn; split <;> rfl

/-! JOB_DEPLOY (R353, R354). -/

theorem jobDeploy_accepted {req : ReqId} {value : BitVec 128} {s : State}
    (h : Accepted req 0x2600 2 (leBytes 16 value.toNat) s) :
    exec (.jobDeploy req value) s =
      .next (jobDeployAction req (leBytes 16 value.toNat) (actionStart req 0x2600 2 s)) := by
  change execJobDeploy req value s = _
  rw [execJobDeploy, cmdVia_accepted h]

/-- The first bytes of a number's little-endian bytes. -/
theorem take_leBytes (k n v : Nat) (h : k ≤ n) : (leBytes n v).take k = leBytes k v := by
  induction k generalizing n v with
  | zero => rfl
  | succ k ih =>
    obtain ⟨n, rfl⟩ := Nat.exists_eq_add_of_le' (Nat.lt_of_lt_of_le (Nat.succ_pos k) h)
    simp [leBytes, ih n _ (by omega)]

/-- TAG, the first eight bytes of the value written. -/
theorem tag_of_bytes (value : BitVec 128) : BitVec.ofNat 64 (leAt (leBytes 16 value.toNat) 0 8) = value.setWidth 64 := by
  have htag : leAt (leBytes 16 value.toNat) 0 8 = value.toNat % 2 ^ 64 := by
    simp [leAt, slice, take_leBytes]
  rw [htag]
  apply BitVec.eq_of_toNat_eq
  simp

/-- Allocations are all that is new: none of those before is gone, and nothing else has changed. -/
def Allocates (s t : State) : Prop := ∃ es, t = { s with mem := { s.mem with extents := s.mem.extents ++ es } }

theorem Allocates.refl (s : State) : Allocates s s := ⟨[], by rw [List.append_nil]⟩

theorem Allocates.trans {s t u : State} (h : Allocates s t) (k : Allocates t u) : Allocates s u := by
  obtain ⟨es, rfl⟩ := h
  obtain ⟨es', rfl⟩ := k
  exact ⟨es ++ es', by rw [← List.append_assoc]⟩

theorem allocModule_allocates {n : Nat} {cold : Bool} {context : Option Nat} {tag : Nat} {s : State} {r : Nat × State}
    (h : allocModule n cold context tag s = some r) : Allocates s r.2 := by
  unfold allocModule allocIn at h
  simp only [] at h
  split at h
  · cases h
    exact ⟨_, rfl⟩
  · cases h

/-- One job-wide structure, under its tag and of its pages, allocated where it has any. -/
def allocStructure (x : Nat × Nat) (s : State) : Option State :=
  if x.2 = 0 then some s else (allocModule x.2 false none x.1 s).map (·.2)

theorem allocStructure_allocates {x : Nat × Nat} {s t : State} (h : allocStructure x s = some t) : Allocates s t := by
  unfold allocStructure at h
  split at h
  · cases h
    exact .refl s
  · obtain ⟨r, hr, rfl⟩ := Option.map_eq_some_iff.mp h
    exact allocModule_allocates hr

theorem foldl_allocStructure_allocates (l : List (Nat × Nat)) {o : Option State} {s t : State}
    (ho : ∀ u, o = some u → Allocates s u) (h : l.foldl (fun o x => o.bind (allocStructure x)) o = some t) :
    Allocates s t := by
  induction l generalizing o with
  | nil => exact ho t h
  | cons x xs ih =>
    refine ih (fun u hu => ?_) h
    obtain ⟨v, hv, hstep⟩ := Option.bind_eq_some_iff.mp hu
    exact (ho v hv).trans (allocStructure_allocates hstep)

theorem allocStructures_allocates {s t : State} (h : allocStructures s = some t) : Allocates s t := by
  refine foldl_allocStructure_allocates (jobStructures s) (o := some s) (fun u hu => ?_) h
  cases hu
  exact .refl s

/-- A deploy of an open job whose structures find room. -/
theorem jobDeployAction_open {bytes : List Byte} {s x : State} (hopen : leAt bytes 8 1 ≠ 1)
    (hroom : allocStructures (freshJob s) = some x) (req : ReqId) :
    jobDeployAction req bytes s =
      endCmd Ent.jobDeploy stOk 0 (completeDeploy req bytes (switchColdOn (setJobState jobDeploying x))) := by
  simp [jobDeployAction, hopen, hroom]

/-- Launch commands of admitted requests are none where no request is admitted. -/
theorem placeWaiting_of_noRequest {s : State} (h : s.service.admitted = []) (n : Nat) : placeWaiting n s = s := by
  simp [placeWaiting, h]

theorem allocRings_changes {n : Nat} {s t : State} (h : allocRings n s = some t) :
    ∃ es d, t = { s with mem := { s.mem with extents := s.mem.extents ++ es }, dispatch := d } := by
  unfold allocRings at h
  simp only [] at h
  split at h
  · split at h
    · next first u hu =>
      obtain ⟨es, rfl⟩ : Allocates s u := allocModule_allocates hu
      cases h
      exact ⟨es, _, rfl⟩
    · cases h
  · cases h
    exact ⟨[], s.dispatch, by rw [List.append_nil]⟩

theorem startPersistent_frame (n : Nat) (s : State) :
    startPersistent n s =
      { s with dispatch := (startPersistent n s).dispatch, free := (startPersistent n s).free } := by
  unfold startPersistent
  split <;> rfl

/-- A queue whose rings stand, with its counts at 0 and its ENABLE set. -/
def queueOn (n : Nat) (s : State) : State :=
  updQueue n (fun q => { q with
    state := if directCore n s = 0xFF then 1 else 4, tail := 0, head := 0, cqHead := 0, written := 0, held := [],
    staleReads := none }) (setEnt (Ent.queueEnable + 256 * n) 1 1 s)

theorem enableQueue_of_rings {n : Nat} {s t : State} (hrings : allocRings n s = some t) (hnone : t.service.admitted = []) :
    enableQueue n s = if persistentTime (queueOn n t) then startPersistent n (queueOn n t) else queueOn n t := by
  simp only [enableQueue, hrings]
  rw [placeWaiting_of_noRequest (by exact hnone)]
  rfl

/-- A queue enabled while no request is admitted: its rings allocated, its ENABLE set and its task begun. -/
theorem enableQueue_changes {s : State} (h : s.service.admitted = []) (n : Nat) :
    ∃ es d v f, enableQueue n s = { s with mem := { s.mem with extents := s.mem.extents ++ es }, dispatch := d,
                                           dict := { s.dict with values := v }, free := f } := by
  cases hrings : allocRings n s with
  | none => exact ⟨[], s.dispatch, s.dict.values, s.free, by simp only [enableQueue, hrings, List.append_nil]⟩
  | some t =>
    obtain ⟨es, d, rfl⟩ := allocRings_changes hrings
    rw [enableQueue_of_rings hrings h]
    split
    · rw [startPersistent_frame]
      exact ⟨es, _, _, _, rfl⟩
    · exact ⟨es, _, _, _, rfl⟩

/-- The state of a deploy whose entries are in force when Q[63] comes on. -/
def deployPrepared (req : ReqId) (bytes : List Byte) (s : State) : State :=
  clearEnt (Ent.queueClass + 256 * 63)
    (measureBytes 6 6 (padTo 16 bytes ++ leBytes 1 (classNum (classOf req)) ++ digestBytes s.security.ownerDigest)
      (clearCounters (takeEntries s)))

theorem deployPrepared_frame (req : ReqId) (bytes : List Byte) (s : State) :
    deployPrepared req bytes s = { s with
      service := (takeEntries s).service, lookup := (takeEntries s).lookup, updates := (takeEntries s).updates,
      sequences := (takeEntries s).sequences, job := (takeEntries s).job, xlate := (takeEntries s).xlate,
      security := (deployPrepared req bytes s).security, power := { s.power with energyUj := 0 },
      dict := (deployPrepared req bytes s).dict } := by
  unfold deployPrepared
  rw [measureBytes_frame]
  rfl

@[simp] theorem deployPrepared_cmds (req : ReqId) (bytes : List Byte) (s : State) :
    (deployPrepared req bytes s).dict.cmds = s.dict.cmds := by
  unfold deployPrepared
  rw [measureBytes_frame]
  rfl

/-- A deploy carried out once Q[63] is on: its tag, time and deployer noted, RUNNING. -/
def deployNoted (req : ReqId) (bytes : List Byte) (s : State) : State :=
  setJobState jobRunning { s with job := { s.job with
    tag := BitVec.ofNat 64 (leAt bytes 0 8), deployedAt := s.now, deployer := classNum (classOf req), restarts := 0,
    restartTimes := [] } }

theorem completeDeploy_eq (req : ReqId) (bytes : List Byte) (s : State) :
    completeDeploy req bytes s = deployNoted req bytes (enableQueue 63 (deployPrepared req bytes s)) := by
  unfold completeDeploy deployNoted deployPrepared
  rfl

/-- What a deploy without admitted requests leaves: RUNNING under its tag, with the allocations there were and
those of Q[63]. -/
theorem completeDeploy_leaves {s : State} (h : s.service.admitted = []) (req : ReqId) (bytes : List Byte) {t : State}
    (ht : t = completeDeploy req bytes s) :
    t.dict.cmds = s.dict.cmds ∧ t.now = s.now ∧ (∃ es, t.mem.extents = s.mem.extents ++ es) ∧
      t.job = { s.job with
        state := jobRunning, tag := BitVec.ofNat 64 (leAt bytes 0 8), deployedAt := s.now,
        deployer := classNum (classOf req), restarts := 0, restartTimes := [], tileRing := ent Ent.tileRingEntries s } := by
  have hnone : (deployPrepared req bytes s).service.admitted = [] := by rw [deployPrepared_frame]; exact h
  obtain ⟨es, d, v, f, hon⟩ := enableQueue_changes hnone 63
  rw [completeDeploy_eq, hon, deployNoted] at ht
  subst ht
  refine ⟨?_, ?_, ⟨es, ?_⟩, ?_⟩
  · simp
  · rw [setJobState_now, deployPrepared_frame]
  · rw [setJobState_mem, deployPrepared_frame]
  · rw [setJobState_job, deployPrepared_frame]
    rfl

/-- A deploy begins with no request admitted. -/
theorem freshJob_admitted (s : State) : (freshJob s).service.admitted = [] := rfl

/-- What a deploy of an open job leaves, its structures allocated. -/
theorem jobDeployAction_leaves {bytes : List Byte} {s x : State} (hopen : leAt bytes 8 1 ≠ 1)
    (hroom : allocStructures (freshJob s) = some x) (req : ReqId) :
    ∃ u, jobDeployAction req bytes s = endCmd Ent.jobDeploy stOk 0 u ∧ u.dict.cmds = s.dict.cmds ∧ u.now = s.now ∧
      u.job.state = jobRunning ∧ u.job.tag = BitVec.ofNat 64 (leAt bytes 0 8) ∧ u.job.deployedAt = s.now ∧
      u.job.deployer = classNum (classOf req) ∧ u.job.restarts = 0 ∧ ∀ e, e ∈ x.mem.extents → e ∈ u.mem.extents := by
  obtain ⟨es, hx⟩ := allocStructures_allocates hroom
  have hnone : (switchColdOn (setJobState jobDeploying x)).service.admitted = [] := by
    rw [switchColdOn_service, setJobState_service, hx]
    exact freshJob_admitted s
  have hnow : x.now = s.now := by rw [hx]; rfl
  have hcmds : x.dict.cmds = s.dict.cmds := by rw [hx]; rfl
  obtain ⟨hc, hn, ⟨es', hm⟩, hj⟩ := completeDeploy_leaves hnone req bytes rfl
  refine ⟨_, jobDeployAction_open hopen hroom req, ?_⟩
  rw [hc, hn, hj, hm]
  simp +contextual [hnow, hcmds]

/-! JOB_UNDEPLOY and the end of a job (R355, R502). -/

theorem jobUndeploy_accepted {req : ReqId} {value : Nat} {s : State} (h : Accepted req 0x2600 3 (leBytes 1 value) s) :
    exec (.jobUndeploy req value) s = .next (jobUndeployAction req (leBytes 1 value) (actionStart req 0x2600 3 s)) := by
  change execJobUndeploy req value s = _
  rw [execJobUndeploy, cmdVia_accepted h]

theorem jobUndeployAction_restarting {s : State} (h : s.job.state = jobRestarting) (req : ReqId) (bytes : List Byte) :
    jobUndeployAction req bytes s = { s with job := { s.job with undeployHeld := true } } := by
  rw [jobUndeployAction, if_pos h]

theorem jobUndeployAction_begins {s : State} (h : s.job.state ≠ jobRestarting) (req : ReqId) (bytes : List Byte) :
    jobUndeployAction req bytes s = beginUndeploy s := by
  rw [jobUndeployAction, if_neg h]

/-- Nothing of a job is left: its contexts, memory, keys, requests, graphs and page table. -/
structure JobCleared (s : State) : Prop where
  contexts : s.job.contexts = []
  dram : s.mem.dram = []
  jobKeys : s.mem.jobKeys = none
  admitted : s.service.admitted = []
  graphs : s.dispatch.graphs = []
  ptes : s.xlate.ptes = []

theorem clearJob_cleared (s : State) : JobCleared (clearJob s) := ⟨rfl, rfl, rfl, rfl, rfl, rfl⟩

theorem switchNetOn_cleared {s : State} (h : JobCleared s) : JobCleared (switchNetOn s) :=
  ⟨h.contexts, h.dram, h.jobKeys, h.admitted, h.graphs, h.ptes⟩

theorem endCmd_cleared {s : State} (h : JobCleared s) (key status reason : Nat) : JobCleared (endCmd key status reason s) :=
  ⟨h.contexts, h.dram, h.jobKeys, h.admitted, h.graphs, h.ptes⟩

/-- What keeps the fixed part leaves a sealed job sealed, and no other. -/
theorem sealed_of_fixedPart {s t : State} (h : fixedPart t = fixedPart s) : t.job.sealed_ = s.job.sealed_ :=
  congrArg (·.2.2.2.1) h

theorem clearJob_sealed (s : State) : (clearJob s).job.sealed_ = s.job.sealed_ := sealed_of_fixedPart (clearJob_fix s)

theorem enterNone_cleared {s : State} (h : JobCleared s) : JobCleared (enterNone s) := by
  obtain ⟨hcontexts, hdram, hkeys, hadmitted, hgraphs, hptes⟩ := h
  constructor <;> simp [enterNone, switchNetOn, *]

theorem enterZeroising_cleared {s : State} (h : JobCleared s) : JobCleared (enterZeroising s) := by
  obtain ⟨hcontexts, hdram, hkeys, hadmitted, hgraphs, hptes⟩ := h
  constructor <;> simp [enterZeroising, *]

theorem enterNone_state (s : State) : (enterNone s).job.state = jobNone := by simp [enterNone, switchNetOn]

theorem enterZeroising_state (s : State) : (enterZeroising s).job.state = jobZeroising := by simp [enterZeroising]

/-- A cleared job is gone or, where it was sealed, its memory is to be overwritten. -/
def jobGone (s : State) : State := if s.job.sealed_ then enterZeroising s else enterNone s

theorem jobGone_cleared {s : State} (h : JobCleared s) : JobCleared (jobGone s) := by
  unfold jobGone
  split
  · exact enterZeroising_cleared h
  · exact enterNone_cleared h

theorem jobGone_state (s : State) : (jobGone s).job.state = if s.job.sealed_ then jobZeroising else jobNone := by
  unfold jobGone
  split
  · exact enterZeroising_state s
  · exact enterNone_state s

theorem finishJob_eq (s : State) : finishJob s = switchNetOn (jobGone (clearJob s)) := by
  unfold finishJob jobGone
  rfl

theorem finishUndeploy_eq (s : State) :
    finishUndeploy s = if (cmdOf Ent.jobUndeploy (finishJob s)).state = 1 then endCmd Ent.jobUndeploy stOk 0 (finishJob s)
      else finishJob s := by
  unfold finishUndeploy
  rfl

theorem finishUndeploy_cleared (s : State) : JobCleared (finishUndeploy s) := by
  have hcleared : JobCleared (finishJob s) := by
    rw [finishJob_eq]
    exact switchNetOn_cleared (jobGone_cleared (clearJob_cleared s))
  rw [finishUndeploy_eq]
  split
  · exact endCmd_cleared hcleared _ _ _
  · exact hcleared

theorem switchNetOn_job (s : State) : (switchNetOn s).job = s.job := rfl

theorem finishUndeploy_state (s : State) :
    (finishUndeploy s).job.state = if s.job.sealed_ then jobZeroising else jobNone := by
  have hstate : (finishJob s).job.state = if s.job.sealed_ then jobZeroising else jobNone := by
    rw [finishJob_eq, switchNetOn_job, jobGone_state, clearJob_sealed]
  rw [finishUndeploy_eq]
  split
  · rw [endCmd_job, hstate]
  · exact hstate

theorem undeployDrainTimeout_due {s : State} (hstate : s.job.state = jobUndeploying)
    (hdue : s.job.undeployAt + ent Ent.undeployDrainNs s ≤ s.now) :
    exec .undeployDrainTimeout s = .next (finishUndeploy (cutRequests (cutCommands (cutRecords s)))) := by
  change execUndeployDrainTimeout s = _
  rw [execUndeployDrainTimeout, if_pos ⟨hstate, hdue⟩]

/-! CONTEXT_CREATE (R356, R357, R513). -/

section

variable {req : ReqId} {desc : BitVec 256} {s : State} {c : Ctx}

theorem contextCreate_accepted (h : Accepted req 0x2601 1 (leBytes 32 desc.toNat) s) :
    exec (.contextCreate req desc) s =
      .next (contextCreateAction req (leBytes 32 desc.toNat) (actionStart req 0x2601 1 s)) := by
  change execContextCreate req desc s = _
  rw [execContextCreate, cmdVia_accepted h]

/-- A context descriptor written as its 32 bytes is read back. -/
theorem contextDesc_of_bytes (desc : BitVec 256) : BitVec.ofNat 256 (ofLe (leBytes 32 desc.toNat)) = desc := by
  rw [ofLe_leBytes, Nat.mod_eq_of_lt desc.isLt, BitVec.ofNat_toNat, BitVec.setWidth_eq]

/-- A sound descriptor of a free number whose partitions find room waits for the cold tier where it needs it, and is entered
otherwise. -/
theorem contextCreateAction_placed (hsound : ctxBad desc = false) (hfree : contextOf (kNum desc) s = none)
    (hplace : placeContext desc s = some c) :
    contextCreateAction req (leBytes 32 desc.toNat) s =
      if c.coldQuota ≠ 0 ∧ coldUp s = false then awaitCold req Ent.contextCreate (leBytes 32 desc.toNat) s
      else endCmd Ent.contextCreate stOk 0 (measureBytes 8 8 (padTo 32 (leBytes 32 desc.toNat))
        { s with job := { s.job with contexts := s.job.contexts ++ [c] } }) := by
  unfold contextCreateAction
  simp only [contextDesc_of_bytes, hsound, hfree, hplace, Option.isSome_none, Bool.false_eq_true, if_false]

@[simp] theorem measureBytes_dispatch (i event : Nat) (bs : List Byte) (s : State) :
    (measureBytes i event bs s).dispatch = s.dispatch := by rw [measureBytes_frame]

/-- A context is placed with its descriptor's number and quotas, of which it has used nothing. -/
theorem placeContext_quotas (h : placeContext desc s = some c) :
    c.num = kNum desc ∧ c.hbmQuota = kw desc 2 ∧ c.coldQuota = kw desc 3 ∧ c.hbmUsed = 0 ∧ c.coldUsed = 0 := by
  unfold placeContext at h
  dsimp only at h
  split at h
  · split at h
    · cases h
      exact ⟨rfl, rfl, rfl, rfl, rfl⟩
    · cases h
  · cases h

theorem contextOf_congr {s u : State} (h : u.job = s.job) (k : Nat) : contextOf k u = contextOf k s := by
  simp only [contextOf, h]

theorem placeContext_congr {s u : State} (hjob : u.job = s.job) (hmem : u.mem = s.mem) (d : BitVec 256) :
    placeContext d u = placeContext d s := by
  simp only [placeContext, sharing, sharingDie, freeCapacity, hjob, hmem]

end

/-! CONTEXT_DELETE (R357, R360). -/

theorem contextDelete_accepted {req : ReqId} {context : Nat} {s : State} (h : Accepted req 0x2601 2 (leBytes 1 context) s) :
    exec (.contextDelete req context) s =
      .next (contextDeleteAction req (leBytes 1 context) (actionStart req 0x2601 2 s)) := by
  change execContextDelete req context s = _
  rw [execContextDelete, cmdVia_accepted h]

theorem contextInUse_congr {s u : State} (hvalues : u.dict.values = s.dict.values) (hpins : u.pins = s.pins)
    (hdispatch : u.dispatch = s.dispatch) (k : Nat) : contextInUse k u = contextInUse k s := by
  simp only [contextInUse, queueContext, bEnt, ent_congr hvalues hpins, hdispatch]

/-- A context without its allocations and charges. -/
def contextDropped (k : Nat) (s : State) : State :=
  { freeExtents (fun e => e.context == some k) s with
    job := { (freeExtents (fun e => e.context == some k) s).job with
      contexts := (freeExtents (fun e => e.context == some k) s).job.contexts.filter (fun c => c.num != k) },
    xlate := { (freeExtents (fun e => e.context == some k) s).xlate with
      charged := (freeExtents (fun e => e.context == some k) s).xlate.charged.filter (fun p => p.2 != k) } }

theorem contextDeleteAction_unused {k : Nat} {s : State} (hk : k < 256) (hc : (contextOf k s).isSome = true)
    (hunused : contextInUse k s = false) (req : ReqId) :
    contextDeleteAction req (leBytes 1 k) s = endCmd Ent.contextDelete stOk 0 (contextDropped k s) := by
  have hread : ofLe (leBytes 1 k) = k := by simpa using hk
  have hnone : (contextOf k s).isNone = false := by simpa [Option.isNone_eq_false_iff] using hc
  simp only [contextDeleteAction, hread, hnone, hunused, Bool.false_eq_true, if_false]
  rfl

/-- A page dropped touches the memory and the translation only. -/
theorem dropPage_frame (page : Nat) (s : State) :
    dropPage page s = { s with mem := (dropPage page s).mem, xlate := (dropPage page s).xlate } := by
  unfold dropPage
  split
  · dsimp only
    split <;> rfl
  · rfl

@[simp] theorem freeExtents_job (p : Extent → Bool) (s : State) : (freeExtents p s).job = s.job :=
  foldl_view State.job _ (fun s q => by rw [dropPage_frame]) _ s
@[simp] theorem freeExtents_service (p : Extent → Bool) (s : State) : (freeExtents p s).service = s.service :=
  foldl_view State.service _ (fun s q => by rw [dropPage_frame]) _ s
@[simp] theorem freeExtents_dispatch (p : Extent → Bool) (s : State) : (freeExtents p s).dispatch = s.dispatch :=
  foldl_view State.dispatch _ (fun s q => by rw [dropPage_frame]) _ s
@[simp] theorem freeExtents_dict (p : Extent → Bool) (s : State) : (freeExtents p s).dict = s.dict :=
  foldl_view State.dict _ (fun s q => by rw [dropPage_frame]) _ s
@[simp] theorem freeExtents_now (p : Extent → Bool) (s : State) : (freeExtents p s).now = s.now :=
  now_of_fixedPart (freeExtents_fix p s)

/-- The allocations that a condition picks are gone. -/
theorem freeExtents_freed {p : Extent → Bool} {s : State} {e : Extent} (h : e ∈ (freeExtents p s).mem.extents) :
    p e = false := by
  unfold freeExtents at h
  simpa using (List.mem_filter.mp h).2

section

variable {k : Nat} {s : State}

@[simp] theorem contextDropped_dict : (contextDropped k s).dict = s.dict := freeExtents_dict _ s
@[simp] theorem contextDropped_now : (contextDropped k s).now = s.now := freeExtents_now _ s
@[simp] theorem contextDropped_dispatch : (contextDropped k s).dispatch = s.dispatch := freeExtents_dispatch _ s
@[simp] theorem contextDropped_service : (contextDropped k s).service = s.service := freeExtents_service _ s
@[simp] theorem contextDropped_contexts : (contextDropped k s).job.contexts = s.job.contexts.filter (fun c => c.num != k) := by
  simp only [contextDropped, freeExtents_job]

theorem contextDropped_extents {e : Extent} (h : e ∈ (contextDropped k s).mem.extents) : e.context ≠ some k := by
  rw [contextDropped] at h
  simpa using freeExtents_freed h

theorem contextDropped_charged {p : Nat × Nat} (h : p ∈ (contextDropped k s).xlate.charged) : p.2 ≠ k := by
  rw [contextDropped] at h
  simpa using (List.mem_filter.mp h).2

end

end Sys2Proof.Machine

namespace Sys2Proof

open Sys2Proof.Machine

/-- Settles O40, clause by clause from what a deploy, an undeploy and its end, a creation and a deletion leave. -/
theorem jobsAndContextsComeAndGo : Obligations.JobsAndContextsComeAndGo := by
  unfold Obligations.JobsAndContextsComeAndGo
  refine ⟨?deploy, ?held, ?begun, ?drained, ?created, ?waits, ?deleted⟩
  case deploy =>
    intro req value s x hacc hopen hroom
    obtain ⟨u, hu, hcmds, hnow, hstate, htag, hat, hdeployer, hrestarts, hkept⟩ := jobDeployAction_leaves hopen hroom req
    refine ⟨endCmd Ent.jobDeploy stOk 0 u, ?_, ?_, hstate, ?_, ?_, hdeployer, hrestarts, hkept⟩
    · rw [jobDeploy_accepted hacc, hu]
    · exact endedOk_endCmd rfl hcmds (by rw [hnow, actionStart_now])
    · rw [endCmd_job, htag, tag_of_bytes]
    · rw [endCmd_job, hat, actionStart_now]
  case held =>
    intro req value s hacc hrestarting
    have hstart : (actionStart req 0x2600 3 s).job.state = jobRestarting := by rw [actionStart_job]; exact hrestarting
    refine ⟨_, rfl, ?_, runs_of_cmds (index := 0x2600) (sub := 3) rfl rfl⟩
    rw [jobUndeploy_accepted hacc, jobUndeployAction_restarting hstart]
  case begun =>
    intro req value s hacc hfree
    have hstart : (actionStart req 0x2600 3 s).job.state ≠ jobRestarting := by rw [actionStart_job]; exact hfree
    rw [jobUndeploy_accepted hacc, jobUndeployAction_begins hstart]
  case drained =>
    intro s hstate hdue
    obtain ⟨hcontexts, hdram, hkeys, hadmitted, hgraphs, hptes⟩ :=
      finishUndeploy_cleared (cutRequests (cutCommands (cutRecords s)))
    exact ⟨_, undeployDrainTimeout_due hstate hdue, hcontexts, hdram, hkeys, hadmitted, hgraphs, hptes,
      finishUndeploy_state _⟩
  case created =>
    intro req desc s c hacc hsound hfree hplace hcold
    have hup : ¬ (c.coldQuota ≠ 0 ∧ coldUp (actionStart req 0x2601 1 s) = false) := by
      rintro ⟨hquota, hdown⟩
      rw [coldUp_congr (actionStart_power _ _ _ s) (actionStart_now _ _ _ s), hcold hquota] at hdown
      cases hdown
    rw [← contextOf_congr (actionStart_job req 0x2601 1 s)] at hfree
    rw [← placeContext_congr (actionStart_job req 0x2601 1 s) (actionStart_mem req 0x2601 1 s)] at hplace
    refine ⟨_, contextCreate_accepted hacc, ?_⟩
    rw [contextCreateAction_placed hsound hfree hplace, if_neg hup]
    exact ⟨endedOk_endCmd (index := 0x2601) (sub := 1) rfl (by simp) (by simp), by simp, by simp, by simp, by simp,
      placeContext_quotas hplace⟩
  case waits =>
    intro req desc s c hacc hsound hfree hplace hquota hdown
    have hwait : c.coldQuota ≠ 0 ∧ coldUp (actionStart req 0x2601 1 s) = false :=
      ⟨hquota, by rw [coldUp_congr (actionStart_power _ _ _ s) (actionStart_now _ _ _ s), hdown]⟩
    rw [← contextOf_congr (actionStart_job req 0x2601 1 s)] at hfree
    rw [← placeContext_congr (actionStart_job req 0x2601 1 s) (actionStart_mem req 0x2601 1 s)] at hplace
    refine ⟨_, contextCreate_accepted hacc, ?_⟩
    rw [contextCreateAction_placed hsound hfree hplace, if_pos hwait, awaitCold_frame]
    refine ⟨runs_of_cmds (index := 0x2601) (sub := 1) rfl rfl, actionStart_job _ _ _ s, actionStart_mem _ _ _ s, ?_⟩
    simp [switchColdOn_power_congr (actionStart_power req 0x2601 1 s) (actionStart_now req 0x2601 1 s)]
  case deleted =>
    intro req context s hk hacc hc hunused
    rw [← contextOf_congr (actionStart_job req 0x2601 2 s)] at hc
    rw [← contextInUse_congr (actionStart_values req 0x2601 2 s) (actionStart_pins _ _ _ s) (actionStart_dispatch _ _ _ s)]
      at hunused
    refine ⟨_, contextDelete_accepted hacc, ?_⟩
    rw [contextDeleteAction_unused hk hc hunused]
    refine ⟨endedOk_endCmd (index := 0x2601) (sub := 2) rfl (by simp) (by simp), by simp, ?_, ?_, by simp, by simp⟩
    · intro e he
      rw [endCmd_mem] at he
      exact contextDropped_extents he
    · intro p hp
      rw [endCmd_xlate] at hp
      exact contextDropped_charged hp

end Sys2Proof
end

section
/-! SUPPORT. What every command keeps and leaves: a step of the queue, a refused write of an entry of its own (R543), the
header of a dictionary message (R542), BAR2 while it is closed (R434), and the state after reset. -/

namespace Sys2Proof.Machine

open Sys2Proof

/-- What `exec_safe` says of a next state. -/
theorem exec_next_safe {c : Instr} {s t : State} (h : exec c s = .next t) : safeRel (fixedPart s) (fixedPart t) := by
  have hsafe := exec_safe c s
  rwa [h] at hsafe

/-- A step is a tick, or the command at the front on the state with the queue's rest. -/
theorem step_cases (s : State) :
    (s.pending = [] ∧ step s = .next (idleTick s)) ∨
    (∃ c rest, s.pending = c :: rest ∧ step s = exec c { s with pending := rest }) := by
  cases h : s.pending with
  | nil => exact .inl ⟨rfl, by rw [step, h]⟩
  | cons c rest => exact .inr ⟨c, rest, rfl, by rw [step, h]⟩

/-- Every step lowers no anti-rollback counter and keeps the zeroise duty, whether it is a tick or a command. -/
theorem step_safe {s t : State} (h : step s = .next t) : NoRollback s t ∧ (ZeroiseOwed s → ZeroiseOwed t) := by
  rcases step_cases s with ⟨-, htick⟩ | ⟨c, rest, -, hrun⟩
  · rw [htick] at h
    cases h
    exact (idleTick_safe s (safeRel_refl _)).2
  · rw [hrun] at h
    exact (exec_next_safe h).2

/-! The parts of a tick that change more than the fixed part let no time pass. -/

theorem switchNetOn_now (s : State) : (switchNetOn s).now = s.now := rfl

theorem enterNone_now (s : State) : (enterNone s).now = s.now := by simp [enterNone, switchNetOn]

theorem finishJob_now (s : State) : (finishJob s).now = s.now := by
  have hgone : (jobGone (clearJob s)).now = s.now := by
    unfold jobGone
    split
    · rw [now_of_fixedPart (enterZeroising_fix _), now_of_fixedPart (clearJob_fix s)]
    · rw [enterNone_now, now_of_fixedPart (clearJob_fix s)]
  rw [finishJob_eq, switchNetOn_now, hgone]

theorem settleUndeploy_now (s : State) : (settleUndeploy s).now = s.now := by
  unfold settleUndeploy
  split
  · rw [finishUndeploy_eq]
    split
    · rw [endCmd_now, finishJob_now]
    · exact finishJob_now s
  · rfl

theorem blowFuse_now (s : State) : (blowFuse s).now = s.now := by
  have hon : ∀ at_ u, (commitOn at_ u).now = u.now := fun at_ u => now_of_fixedPart (commitOn_fix at_ u)
  unfold blowFuse
  split
  · split
    · rfl
    · rw [hon]
  · rw [hon]
  · rfl

/-- A tick takes the time 20 ns on. -/
theorem idleTick_now (s : State) : (idleTick s).now = s.now + 20 := by
  have hnoted : (noteReady (noteIdle (noteDebts (settleOutgoing s)))).now = s.now := now_of_fixedPart (by simp)
  have hblown : ∀ u : State, (joinLate (blowFuse (noteScrubs (settleHoldoff (settleUndeploy u))))).now = u.now := fun u => by
    rw [now_of_fixedPart (joinLate_fix _), blowFuse_now, now_of_fixedPart (noteScrubs_fix _),
      now_of_fixedPart (settleHoldoff_fix _), settleUndeploy_now]
  unfold idleTick
  dsimp only
  split
  · rw [now_of_fixedPart (pumpAll_fix _), now_of_fixedPart (resumeLinks_fix _), hblown, hnoted]
  · rw [hblown, hnoted]

/-! A write that a check of R543 refuses. -/

/-- A refused write is counted or not, and changes nothing else. -/
theorem noteRefusal_frame (req : ReqId) (index sub err : Nat) (s : State) :
    noteRefusal req index sub err s =
      { s with dict := { s.dict with counters := (noteRefusal req index sub err s).dict.counters } } := by
  unfold noteRefusal
  split <;> rfl

/-- A refused write leaves the entries' values and the command entries' status, notes the refusal, and touches nothing but
the dictionary. -/
theorem writeVia_refused_effect {action : ReqId → List Byte → State → State} {req : ReqId} {index sub : Nat}
    {bytes : List Byte} {s : State} (h : writeError req index sub bytes s ≠ erOk) :
    ∃ t, Host.Outcome.next (φ := Fault) (ρ := Refusal) (writeVia action req index sub bytes s) = .next t ∧
      t.dict.values = s.dict.values ∧ t.dict.cmds = s.dict.cmds ∧
      t.dict.lastWrite = some (req, entryKey index sub, writeError req index sub bytes s) ∧ t = { s with dict := t.dict } := by
  refine ⟨_, rfl, ?_⟩
  rw [writeVia_refused h, noteRefusal_frame, noteWrite_frame]
  exact ⟨rfl, rfl, rfl, rfl⟩

/-! The words of a message's header. -/

theorem slice_append_left (a b : List Byte) (n : Nat) (h : a.length = n) : slice (a ++ b) 0 n = a := by
  simp [slice, ← h]

theorem slice_append_right (a b : List Byte) (o n : Nat) : slice (a ++ b) (a.length + o) n = slice b o n := by
  simp [slice, List.drop_append, List.drop_of_length_le]

/-- A number laid out at the front of a message is read back. -/
theorem leAt_leBytes_front (n v : Nat) (rest : List Byte) : leAt (leBytes n v ++ rest) 0 n = v % 2 ^ (8 * n) := by
  rw [leAt, slice_append_left _ _ _ (leBytes_length n v), ofLe_leBytes]

theorem leAt_leBytes_skip (k v o n : Nat) (rest : List Byte) :
    leAt (leBytes k v ++ rest) (k + o) n = leAt rest o n := by
  have h := slice_append_right (leBytes k v) rest o n
  rw [leBytes_length] at h
  rw [leAt, leAt, h]

/-- The three words of a header are read back, whatever body follows. -/
theorem header_words (d0 d1 d2 : Nat) (body : List Byte) {m : List Byte}
    (hm : m = leBytes 8 d0 ++ leBytes 8 d1 ++ leBytes 8 d2 ++ body) :
    leAt m 0 8 = d0 % 2 ^ 64 ∧ leAt m 8 8 = d1 % 2 ^ 64 ∧ leAt m 16 8 = d2 % 2 ^ 64 ∧ m.drop 24 = body := by
  subst hm
  rw [List.append_assoc, List.append_assoc]
  refine ⟨leAt_leBytes_front 8 d0 _, ?_, ?_, ?_⟩
  · rw [leAt_leBytes_skip 8 d0 0, leAt_leBytes_front]
  · rw [leAt_leBytes_skip 8 d0 8, leAt_leBytes_skip 8 d1 0, leAt_leBytes_front]
  · rw [← List.append_assoc, ← List.append_assoc, List.drop_append_of_le_length (by simp)]
    simp [List.drop_of_length_le]

/-- The fields of a header's first word lie in bits of their own (Table 21.2). -/
theorem header_word0_fields {op final count seq len d : Nat} (hop : op < 256) (hfinal : final < 2) (hcount : count < 256)
    (hseq : seq < 65536) (hlen : len < 65536)
    (hd : d = (op * 2 ^ 56 + final * 2 ^ 54 + count * 2 ^ 32 + seq * 2 ^ 16 + len) % 2 ^ 64) :
    field d 63 56 = op ∧ bitOf d 55 = false ∧ bitOf d 54 = (final == 1) ∧ field d 53 48 = 0 ∧ field d 39 32 = count ∧
      field d 31 16 = seq ∧ field d 15 0 = len := by
  have h55 : d / 2 ^ 55 % 2 = 0 := by omega
  have h54 : d / 2 ^ 54 % 2 = final := by omega
  refine ⟨?_, by rw [bitOf, h55]; rfl, by rw [bitOf, h54], ?_, ?_, ?_, ?_⟩ <;>
  · simp only [field, hd]
    omega

/-- The fields of a header's second word lie in bits of their own (Table 21.2). -/
theorem header_word1_fields {index sub offset d : Nat} (hindex : index < 65536) (hsub : sub < 256) (hoffset : offset < 2 ^ 32)
    (hd : d = (index * 2 ^ 48 + sub * 2 ^ 40 + offset) % 2 ^ 64) :
    field d 39 32 = 0 ∧ field d 63 48 = index ∧ field d 47 40 = sub ∧ field d 31 0 = offset := by
  simp only [field, hd]
  omega

end Sys2Proof.Machine

namespace Sys2Proof

open Sys2Proof.Machine

/-- Settles O4: a tick and every command are `safeRel` to the state before. -/
theorem antiRollbackCountersNeverFall : Obligations.AntiRollbackCountersNeverFall := by
  intro s t h
  exact (step_safe h).1

/-- Settles O5: a tick and every command are `safeRel` to the state before. -/
theorem aSealedJobKeepsItsZeroisation : Obligations.ASealedJobKeepsItsZeroisation := by
  intro s t howed h
  exact (step_safe h).2 howed

/-- Settles O3: the queue is part of what `exec_safe` compares. -/
theorem noCommandTouchesTheQueue : Obligations.NoCommandTouchesTheQueue := by
  intro c s t h
  exact (exec_next_safe h).1

/-- Settles O1: the queue has a front, so the step is that command's. -/
theorem stepRunsTheFrontCommand : Obligations.StepRunsTheFrontCommand := by
  intro c rest s h
  rw [step, h]

/-- Settles O2: the tick of a step with nothing waiting. -/
theorem anIdleStepIsOneTick : Obligations.AnIdleStepIsOneTick := by
  intro s h
  refine ⟨idleTick s, by rw [step, h], ?_, idleTick_now s⟩
  rw [← h]
  exact (idleTick_safe s (safeRel_refl _)).1

/-- Settles O8: each of these commands is a `writeVia` of its entry, and a refused one has no effect. -/
theorem refusedWritesHaveNoEffect : Obligations.RefusedWritesHaveNoEffect := by
  intro i req index sub bytes b v w64 w128 w256 w512 s hcmd herr
  have hvia : ∃ action, exec i s = .next (writeVia action req index sub bytes s) := by
    rcases hcmd with h | h | h | h | h | h | h | h | h | h | h | h | h | h | h | h | h | h | h | h | h | h | h | h | h | h |
      h | h | h | h | h | h | h <;>
    · obtain ⟨rfl, rfl, rfl, rfl⟩ := h
      exact ⟨_, rfl⟩
  obtain ⟨action, hexec⟩ := hvia
  rw [hexec]
  exact writeVia_refused_effect herr

/-- Settles O10: the header's words are read back, and each field lies in its own bits of them. -/
theorem dictionaryHeadersAreReadBack : Obligations.DictionaryHeadersAreReadBack := by
  intro op final count seq index sub offset body hop hcount hseq hindex hsub hoffset hbody hread
  have hbit : (if final = true then 2 ^ 54 else 0) = final.toNat * 2 ^ 54 := by cases final <;> rfl
  rw [hbit]
  obtain ⟨h0, h1, h2, hdrop⟩ := header_words (op * 2 ^ 56 + final.toNat * 2 ^ 54 + count * 2 ^ 32 + seq * 2 ^ 16 + body.length)
    (index * 2 ^ 48 + sub * 2 ^ 40 + offset) 0 body rfl
  obtain ⟨fop, fresponse, ffinal, frsvd0, fcount, fseq, flen⟩ := header_word0_fields hop (Bool.toNat_lt final) hcount hseq hbody h0
  obtain ⟨frsvd1, findex, fsub, foffset⟩ := header_word1_fields hindex hsub hoffset h1
  have frsvd2 : field (leAt (leBytes 8 (op * 2 ^ 56 + final.toNat * 2 ^ 54 + count * 2 ^ 32 + seq * 2 ^ 16 + body.length) ++
      leBytes 8 (index * 2 ^ 48 + sub * 2 ^ 40 + offset) ++ leBytes 8 0 ++ body) 16 8) 15 0 = 0 := by rw [h2]; rfl
  simp only [parseDict, fop, fresponse, ffinal, frsvd0, frsvd1, frsvd2, fcount, fseq, flen, findex, fsub, foffset, hdrop, hread,
    if_false, List.take_length]
  cases final <;> rfl

end Sys2Proof
end

section
/-! SUPPORT. BAR2 while it is closed (R434), and the state after reset (R425, R498). -/

namespace Sys2Proof.Machine

open Sys2Proof

theorem sealedJob_iff (s : State) : sealedJob s = true ↔ s.job.sealed_ = true ∧ s.job.state ≠ jobNone := by
  simp [sealedJob]

theorem bar2Closed_iff (s : State) : bar2Closed s = true ↔
    (s.job.sealed_ = true ∧ s.job.state ≠ jobNone) ∨ s.job.state = jobZeroising ∨ s.security.zeroisePending = true ∨
      s.security.zeroiseMirror = true := by
  simp [bar2Closed, sealedJob_iff, or_assoc]

/-- A closed AtomicOp is answered and counted (R434). -/
theorem bar2Atomic_closed {offset width : Nat} {op : AtomicOp} {operand compare : BitVec 64} {s : State}
    (hsize : offset + width ≤ s.hostif.bar2Size) (hc : bar2Closed s = true) :
    ∃ data, exec (.bar2Atomic offset op width operand compare) s =
      .next (count Cnt.bar2Closed 1 (bar2Complete offset data s)) := by
  change ∃ data, execBar2Atomic offset op width operand compare s = _
  simp only [execBar2Atomic, Nat.not_lt.mpr hsize, hc, if_false, if_true]
  exact ⟨_, rfl⟩

/-- Bit 5 of HIF_STATUS is BAR2_OPEN: the lower fields leave it alone, and the higher ones are multiples of 2^6. -/
theorem hifStatus_bit5 (s : State) : hifStatus s / 2 ^ 5 % 2 = 0 ↔ bar2Closed s = true := by
  have hstate : s.job.state % 16 < 16 := Nat.mod_lt _ (by omega)
  unfold hifStatus
  cases bar2Closed s <;> cases sealedJob s <;> cases s.xlate.overflow <;> simp <;> omega

/-- A register of BAR0 from 0x1000 up to 0x1400 reads 0 after reset: no doorbell has been written. -/
theorem bar0Word_doorbell_reset {offset : Nat} (h : 0x1000 ≤ offset ∧ offset < 0x1400) : bar0Word offset State.reset = 0 := by
  have hval : ∀ k, ((alGet (if offset % 16 = 0 then State.reset.hostif.tailReg else State.reset.hostif.cqHeadReg) k).getD
      (0 : BitVec 64)).toNat = 0 := fun k => by split <;> rfl
  unfold bar0Word
  rw [if_neg (by omega), if_neg (by omega), if_neg (by omega), if_neg (by omega), if_pos h, hval, Nat.zero_mod]

end Sys2Proof.Machine

namespace Sys2Proof

open Sys2Proof.Machine

/-- Settles O11, value by value; the doorbells by the one lemma about them. -/
theorem resetLeavesTheStatedValues : Obligations.ResetLeavesTheStatedValues := by
  refine ⟨rfl, rfl, (fun h => by cases h), reset_memories_wf, rfl, rfl, rfl, rfl, rfl, fun n hn => ?_, rfl⟩
  exact ⟨bar0Word_doorbell_reset (by omega), bar0Word_doorbell_reset (by omega)⟩

/-- Settles O15: when BAR2 is closed, and each access to it then. -/
theorem closedBar2HasNoEffect : Obligations.ClosedBar2HasNoEffect := by
  refine ⟨bar2Closed_iff, ?_, ?_, ?_, fun s _ _ => hifStatus_bit5 s⟩
  · intro read bytes s hc hsize
    exact ⟨_, bar2Read_closed hsize hc, rfl, rfl, counter_count_self _ _ _⟩
  · intro offset bytes s hc hsize
    exact ⟨_, bar2Write_closed hsize hc, rfl, rfl, counter_count_self _ _ _⟩
  · intro offset op width operand compare s hc hsize
    obtain ⟨data, hexec⟩ := bar2Atomic_closed (op := op) (operand := operand) (compare := compare) hsize hc
    exact ⟨_, hexec, rfl, rfl, counter_count_self _ _ _⟩

end Sys2Proof
end

section
/-! SUPPORT. Which commands complete: a command answers a next state unless it names a unit that the module does not have
(logs 60 and 61), so every well-formed one does. -/

namespace Sys2Proof.Machine

open Sys2Proof

/-- An outcome that is a next state. -/
def Completes (o : Host.Outcome State Fault Refusal) : Prop := ∃ t, o = .next t

theorem completes_next (t : State) : Completes (.next t) := ⟨t, rfl⟩

/-- A row that refuses a unit number the module does not have completes on the units it has. -/
theorem completes_guard {c : Prop} [Decidable c] {f : Fault} {o : Host.Outcome State Fault Refusal} (hc : ¬ c)
    (h : Completes o) : Completes (if c then .fault f else o) := by
  rw [if_neg hc]
  exact h

theorem completes_of_unit {c : Prop} [Decidable c] {f : Fault} {o : Host.Outcome State Fault Refusal} (hc : c)
    (h : Completes o) : Completes (if c then o else .fault f) := by
  rw [if_pos hc]
  exact h

theorem completes_ite {c : Prop} [Decidable c] {a b : Host.Outcome State Fault Refusal} (ha : Completes a)
    (hb : Completes b) : Completes (if c then a else b) := by
  split
  · exact ha
  · exact hb

/-! The rows that several commands share. -/

theorem runCustom_completes {core : Nat} (h : core < 98) (word : BitVec 32) (is : Bool) (f : State → CoreRes) (s : State) :
    Completes (runCustom core word is f s) :=
  completes_guard (by omega) (completes_ite (completes_next _) (completes_next _))

theorem takeUp_completes {queue : Nat} (h : queue < 64) (op : Nat) (s : State) : Completes (takeUp op queue s) := by
  refine completes_guard (by omega) (completes_ite (completes_next _) ?_)
  split
  · exact completes_ite (completes_next _) (completes_next _)
  · exact completes_next _

theorem takeMap_completes (op : Nat) (s : State) : Completes (takeMap op s) := by
  unfold takeMap
  split
  · exact completes_next _
  · exact completes_ite (completes_next _) (completes_ite (completes_next _) (completes_next _))

theorem takeWrite_completes {core : Nat} (h : core < 98) (op : Nat) (d : Desc) (org : Origin) (s : State) :
    Completes (takeWrite op core d org s) := by
  refine completes_guard (by omega) (completes_ite (completes_next _) (completes_ite (completes_next _)
    (completes_ite (completes_next _) (completes_ite (completes_next _) ?_))))
  split <;> exact completes_next _

theorem takeFab_completes {core : Nat} (h : core < 98) (opcode subop : Nat) (d : Desc) (org : Origin) (s : State) :
    Completes (takeFab opcode subop core d org s) :=
  completes_guard (by omega) (completes_ite (completes_next _) (completes_ite (completes_next _)
    (completes_ite (completes_next _) (completes_next _))))

theorem answerLiveness_completes {port : Nat} (h : port < 4) (typ : Nat) (src dst : Endpoint) (d : Received) (s : State) :
    Completes (answerLiveness typ port src dst d s) :=
  completes_guard (by omega) (completes_ite (completes_next _) (completes_ite (completes_next _) (completes_next _)))

/-- The host's accesses to BAR2 lie in the window (R432). -/
def InWindow (c : Instr) (s : State) : Prop :=
  match c with
  | .bar2Read read bytes => read.offset + bytes ≤ s.hostif.bar2Size
  | .bar2Write offset bytes => offset + bytes.length ≤ s.hostif.bar2Size
  | .bar2Atomic offset _ width _ _ => offset + width ≤ s.hostif.bar2Size
  | _ => True

/-- A well-formed command whose accesses to BAR2 lie in the window completes: the unit it names is one that the module has. -/
theorem exec_completes {c : Instr} {s : State} (hw : c.wf = true) (hwin : InWindow c s) : Completes (exec c s) := by
  cases c <;> simp only [Instr.wf, Bool.and_eq_true, decide_eq_true_eq, Bool.or_eq_true, beq_iff_eq] at hw <;>
    simp only [exec]
  -- the rows that name no unit and answer a next state at once
  any_goals exact completes_next _
  case vsetl | vld | vst | vopVv | vopVx | vcvt | vun | vred | vtopkSet | vtopkInsert | vtopkStore | vtopkFloor | eissue |
    efence | smrd | hwait | hsig | sfop | resolve | taskend =>
    exact runCustom_completes hw _ _ _ s
  case nop | launch | descriptor | inlineWrite | graphLoad | graphPatch | graphUnload | task =>
    exact takeUp_completes hw _ s
  case alloc | free | mapHost | setAbsent | protect | migrate | deny =>
    exact takeMap_completes _ s
  case rowWrite | batchOpen | batchCommit | batchAbort =>
    exact takeWrite_completes hw.1 _ _ _ s
  case fabricAtomic | fabricBarrier | fabricBroadcast | fabricSnapshot =>
    exact takeFab_completes hw.1 _ _ _ _ s
  case keepalive | probe =>
    exact answerLiveness_completes hw.1.1.1 _ _ _ _ s
  -- the rows that name no unit: each branch answers a next state
  case segmentPass | summaryMerge | appendStage | appendChunkWait | sessionStep | tileRequest | tileDelivery | caravanTileSend
    | catchupFetch | transferFaultResume | stageBarrier | stagePrologue | residentSegmentLoad | hostPoll | hitchTimeout |
    stageDispatch | launchComplete | specDispatch | branchResolve | rangeInvalidate | slotBoundary | patrolScrub | rowRemap
    | mapTail | fqHead | faultTimeout | eventCauseClear | linkTraining | dwGo | handshakeTimeout | retransmitTimeout |
    cwndUpdate | fabricLoadServe | fabricStoreServe | fabricAtomicServe | fabricSignalServe | fabricLookupServe |
    fabricRowStage | fabricBatchCommit | fabricBatchAbort | fabricResponseRx | opTimeout | ownerHandshakeTimeout |
    ownerGapTimeout | relayOut | thermTripInN | segmentLapse | snapshotLapse | waybillRecordWrite | rateWindowEnd | wbRead |
    wbClearCopyDone | globalOperationRx | keptResponseLapse =>
    simp only [execSegmentPass, execSummaryMerge, execAppendStage, execAppendChunkWait, execSessionStep, execTileRequest,
      execTileDelivery, execCaravanTileSend, execCatchupFetch, execTransferFaultResume, execStageBarrier, execStagePrologue,
      execResidentSegmentLoad, execHostPoll, execHitchTimeout, execStageDispatch, execLaunchComplete, execSpecDispatch,
      execBranchResolve, execRangeInvalidate, execSlotBoundary, execPatrolScrub, execRowRemap, execMapTail, execFqHead,
      execFaultTimeout, execEventCauseClear, execLinkTraining, execDwGo, execHandshakeTimeout, execRetransmitTimeout,
      execCwndUpdate, execFabricLoadServe, execFabricStoreServe, execFabricAtomicServe, execFabricSignalServe,
      execFabricLookupServe, execFabricRowStage, execFabricBatchCommit, execFabricBatchAbort, execFabricResponseRx,
      execOpTimeout, execOwnerHandshakeTimeout, execOwnerGapTimeout, execRelayOut, execThermTripInN, execSegmentLapse,
      execSnapshotLapse, execWaybillRecordWrite, execRateWindowEnd, execWbRead, execWbClearCopyDone, execGlobalOperationRx,
      execKeptResponseLapse]
    (repeat' split) <;> exact completes_next _
  -- the rows that check their unit first
  case lorjoSegmentRx | responseTransmit | bindingEnable | lookup | matmul | tileStream | chainDrain | chainReplay |
    tilePreempt | baseInstruction | timerInterrupt | qworkInterrupt | taskStart | taskLimitExpiry | vtensor | seqSummary |
    transfer | caravan | weightRingStart | tailDoorbell | cqHeadDoorbell | commandWaitMet | queueEnable | queueDrainDone |
    predictiveWake | idleStepDown | cgWakeComplete | pageFault | faultReplay | hello | accept | finish | fabricDataRx |
    fabricAckRx | closeRx | interfaceUp | neighborDiscoveryFrame | pathMove | globalTimeout | ggroupEnable | msixTableWrite =>
    simp only [execLorjoSegmentRx, execResponseTransmit, execBindingEnable, execLookup, execMatmul, execTileStream, execChainDrain,
      execChainReplay, execTilePreempt, execBaseInstruction, execTimerInterrupt, execQworkInterrupt, execTaskStart,
      execTaskLimitExpiry, execVtensor, execSeqSummary, execTransfer, execCaravan, execWeightRingStart, execTailDoorbell,
      execCqHeadDoorbell, execCommandWaitMet, execQueueEnable, execQueueDrainDone, execPredictiveWake, execIdleStepDown,
      execCgWakeComplete, execPageFault, execFaultReplay, execHello, execAccept, execFinish, execFabricDataRx,
      execFabricAckRx, execCloseRx, execInterfaceUp, execNeighborDiscoveryFrame, execPathMove, execGlobalTimeout,
      execGgroupEnable, execMsixTableWrite]
    refine completes_guard (by omega) ?_
    (repeat' split) <;> exact completes_next _
  case bar2Read | bar2Write | bar2Atomic =>
    simp only [InWindow, execBar2Read, execBar2Write, execBar2Atomic] at hwin ⊢
    refine completes_guard (by omega) ?_
    (repeat' split) <;> exact completes_next _
  case reclaim | sensorSample | cgWake =>
    exact completes_of_unit hw (completes_next _)
  case dmaRequestError =>
    exact completes_of_unit hw.1.2 (completes_next _)
  case bar2Resize =>
    exact completes_of_unit ⟨hw.1.1, hw.1.2, hw.2⟩ (completes_ite (completes_next _) (completes_next _))
  case phaseRetry =>
    unfold execPhaseRetry
    split
    · exact completes_next _
    · split
      · exact completes_next _
      · exact completes_of_unit (by omega) (completes_next _)
  case commandCompletion =>
    exact completes_ite (completes_next _) (completes_guard (by omega) (completes_next _))

end Sys2Proof.Machine

namespace Sys2Proof

open Sys2Proof.Machine

/-- Settles O7: the operands of a well-formed command name units that the module has. -/
theorem wellFormedCommandsComplete : Obligations.WellFormedCommandsComplete := by
  intro c s hw hwin
  refine exec_completes hw ?_
  cases c <;> exact hwin

end Sys2Proof
end

section
/-! SUPPORT. Memory errors and repairs: the patrol scrub, the remap of a row on the fly, and the hard-repair journal (R383 to
R395). -/

namespace Sys2Proof.Machine

open Sys2Proof

/-! The patrol scrub (R387). -/

/-- A pass noted late changes its mark and a counter only. -/
theorem noteScrubLate_frame (cold : Bool) (s : State) :
    noteScrubLate cold s = { s with
      dict := { s.dict with counters := (noteScrubLate cold s).dict.counters },
      mem := { s.mem with scrubHbmLate := (noteScrubLate cold s).mem.scrubHbmLate,
                          scrubColdLate := (noteScrubLate cold s).mem.scrubColdLate } } := by
  unfold noteScrubLate
  dsimp only
  (repeat' split) <;> rfl

theorem counter_noteScrubLate {key : Nat} (h : key ≠ Cnt.scrubLate) (cold : Bool) (s : State) :
    counter key (noteScrubLate cold s) = counter key s := by
  unfold noteScrubLate
  dsimp only
  (repeat' split) <;> first | exact counter_count_ne 1 _ h | rfl

theorem scrubAdvance_inPass {s : State} (h : s.mem.scrubHbm + 1 < tierWords false) :
    scrubAdvance false s = { s with mem := { s.mem with scrubHbm := s.mem.scrubHbm + 1 } } := by
  have hne : ¬ s.mem.scrubHbm + 1 = tierWords false := by omega
  simp [scrubAdvance, hne]

theorem patrolScrub_on {symbols : Nat} {s : State} (hon : tierOn false s = true) (h : symbols ≤ 36) :
    exec (.patrolScrub false symbols) s =
      .next (scrubAdvance false (codewordRead 1 (wordMpa false s.mem.scrubHbm) symbols (noteScrubLate false s)).2) := by
  have hgo : ¬ (tierOn false s = false ∨ 36 < symbols) := by simp [hon]; omega
  change execPatrolScrub false symbols s = _
  rw [execPatrolScrub, if_neg hgo]
  rfl

/-- The scrub's words of the HBM4E tier lie in stacks 0 to 11. -/
theorem wordMpa_hbm {k : Nat} (h : k + 1 < tierWords false) : wordMpa false k / 2 ^ 40 < 12 := by
  simp only [wordMpa, tierWords] at h ⊢
  norm_num at h ⊢
  omega

/-! Corrected errors (R384). -/

theorem raiseRow_frame (mpa : Nat) (s : State) :
    raiseRow mpa s = { s with mem := { s.mem with rowErrors := (raiseRow mpa s).mem.rowErrors } } := rfl

/-- The raised row stands first in the table, with one error more. -/
theorem rowErrorCount_raiseRow (mpa : Nat) (s : State) : rowErrorCount mpa (raiseRow mpa s) = rowErrorCount mpa s + 1 := by
  simp [rowErrorCount, raiseRow]

theorem rowErrorCount_congr {s t : State} (h : t.mem.rowErrors = s.mem.rowErrors) (mpa : Nat) :
    rowErrorCount mpa t = rowErrorCount mpa s := by
  unfold rowErrorCount
  rw [h]

theorem askRemap_frame (source mpa : Nat) (ue : Bool) (s : State) :
    askRemap source mpa ue s = { s with mem := { s.mem with remapDue := (askRemap source mpa ue s).mem.remapDue } } := rfl

/-- A corrected error counted at its row and recorded, before its row asks to be remapped. -/
def correctedNoted (source mpa symbols : Nat) (s : State) : State :=
  let s := raiseRow mpa (count (if mpa / 2 ^ 40 < 12 then Cnt.hbmCorrected else Cnt.coldCorrected) 1 s)
  memEvent 1 source mpa mpa (remapsOf mpa s) symbols (rowErrorCount mpa s) (pageOfMpa mpa s) s

theorem correctedError_cases (source mpa symbols : Nat) (s : State) :
    correctedError source mpa symbols s = askRemap source mpa false (correctedNoted source mpa symbols s) ∨
      correctedError source mpa symbols s = correctedNoted source mpa symbols s := ite_eq_or_eq _ _ _

theorem correctedNoted_mem (source mpa symbols : Nat) (s : State) :
    (correctedNoted source mpa symbols s).mem = { s.mem with rowErrors := (raiseRow mpa s).mem.rowErrors } := by
  rw [correctedNoted, memEvent, wbSubmit_mem]
  rfl

/-- A corrected error raises its row's count and may have the row ask for a remap; the rest of memory stays. -/
theorem correctedError_mem (source mpa symbols : Nat) (s : State) :
    (correctedError source mpa symbols s).mem = { s.mem with
      rowErrors := (raiseRow mpa s).mem.rowErrors, remapDue := (correctedError source mpa symbols s).mem.remapDue } := by
  rcases correctedError_cases source mpa symbols s with h | h
  · rw [h, askRemap_frame, correctedNoted_mem]
  · rw [h, correctedNoted_mem]

theorem counter_correctedError {mpa : Nat} (h : mpa / 2 ^ 40 < 12) (source symbols : Nat) (s : State) :
    counter Cnt.hbmCorrected (correctedError source mpa symbols s) = (counter Cnt.hbmCorrected s + 1) % 2 ^ 64 := by
  have hnoted : counter Cnt.hbmCorrected (correctedNoted source mpa symbols s) = (counter Cnt.hbmCorrected s + 1) % 2 ^ 64 := by
    rw [correctedNoted, memEvent, counter_wbSubmit (by decide), if_pos h]
    exact counter_count_self _ _ _
  rcases correctedError_cases source mpa symbols s with h | h
  · rw [h]
    exact hnoted
  · rw [h, hnoted]

/-! The remap of a row on the fly (R388 to R390). -/

theorem sameRow_self (mpa : Nat) : sameRow mpa mpa = true := by simp [sameRow]

/-- The oldest request of a channel or package is also the oldest of its own row. -/
theorem find_own_row {mpa : Nat} {d : RowAsk} {l : List RowAsk}
    (h : l.find? (fun d => d.mpa / 2 ^ 40 == mpa / 2 ^ 40 &&
      memUnit (mpa / 2 ^ 40) (d.mpa % 2 ^ 40) == memUnit (mpa / 2 ^ 40) (mpa % 2 ^ 40)) = some d) :
    l.find? (fun x => sameRow x.mpa d.mpa) = some d := by
  rw [List.find?_eq_some_iff_append] at h ⊢
  obtain ⟨hd, before, after, hl, hbefore⟩ := h
  refine ⟨sameRow_self d.mpa, before, after, hl, fun x hx => ?_⟩
  by_contra hsame
  simp only [Bool.and_eq_true, beq_iff_eq, Bool.not_eq_true, Bool.not_eq_false', sameRow] at hd hsame
  obtain ⟨⟨hregion, hunit⟩, -⟩ := hsame
  rw [hregion, hd.1, hd.2] at hunit
  have hother := hbefore x hx
  rw [hregion, hd.1, hunit] at hother
  simp at hother

/-- ROW_REMAP serves the oldest request of the row's channel or package, where that is the row's. -/
theorem rowRemap_oldest {mpa : Nat} {errors : List (Nat × Nat)} {d : RowAsk} {s : State}
    (h : s.mem.remapDue.find? (fun d => d.mpa / 2 ^ 40 == mpa / 2 ^ 40 &&
      memUnit (mpa / 2 ^ 40) (d.mpa % 2 ^ 40) == memUnit (mpa / 2 ^ 40) (mpa % 2 ^ 40)) = some d)
    (hrow : sameRow d.mpa mpa = true) :
    exec (.rowRemap { mpa := mpa, errors := errors }) s = .next (remapOnline d errors s) := by
  change execRowRemap _ s = _
  simp only [execRowRemap, h, hrow, if_true]

/-- A remap whose copy meets no error. -/
theorem remapOnline_clean {d : RowAsk} {s : State} (h : s.mem.remapDue.find? (fun x => sameRow x.mpa d.mpa) = some d) :
    remapOnline d [] s =
      if s.mem.failing.any (fun m => sameRow m.1 d.mpa) = true then dropAsk d.mpa s
      else if canRemap d.mpa (dropAsk d.mpa s) = true then
        if d.ue = true then zeroRow d.mpa (remapRow d.mpa d.source Cnt.remapsOnline (dropAsk d.mpa s))
        else remapRow d.mpa d.source Cnt.remapsOnline (dropAsk d.mpa s)
      else failRow d.mpa d.source d.record (if d.ue = true then 0x8002 else 0x8001) (dropAsk d.mpa s) := by
  have hread : codewordsRead 2 (rowWord d.mpa) [] s = (true, s) := rfl
  have hremaps : (dropAsk d.mpa s).mem.remaps = s.mem.remaps := rfl
  have hretired : (dropAsk d.mpa s).mem.retired = s.mem.retired := rfl
  have hfailing : (dropAsk d.mpa s).mem.failing = s.mem.failing := rfl
  simp only [remapOnline, hread, h, Option.getD_some, hremaps, hretired, hfailing, ne_eq, not_true_eq_false, or_false,
    Bool.not_true, Bool.or_false]

/-! Hard repair (R393, R394): what one entry's repair leaves, and then what all of them leave. -/

/-- A journal entry repaired or given up. -/
def Settled (e : JournalEntry) : Prop := e.state = 3 ∨ e.state = 4

/-- What a repair does not change: device memory, the queues, the command entries, the time, and how many entries there are. -/
def repairView (s : State) : SMem × Dispatch × List (Nat × CmdStatus) × Nat × Nat :=
  (s.mem.dram, s.dispatch, s.dict.cmds, s.now, s.mem.journal.length)

theorem repairEvent_mem (kind : Nat) (e : JournalEntry) (s : State) : (repairEvent kind e s).mem = s.mem := wbSubmit_mem ..

theorem repairEvent_view (kind : Nat) (e : JournalEntry) (s : State) : repairView (repairEvent kind e s) = repairView s := by
  simp [repairView, repairEvent]

theorem repairDone_journal (i : Nat) (e : JournalEntry) (s : State) :
    (repairDone i e s).mem.journal = updAt s.mem.journal i (fun x => { x with state := 3, time := s.now }) := by
  simp [repairDone, repairEvent]

theorem repairDone_view (i : Nat) (e : JournalEntry) (s : State) : repairView (repairDone i e s) = repairView s := by
  simp [repairView, repairDone, repairEvent]

theorem repairFailed_journal (i : Nat) (e : JournalEntry) (s : State) :
    (repairFailed i e s).mem.journal = updAt s.mem.journal i (fun x => { x with state := 4, time := s.now }) := by
  simp [repairFailed, repairEvent_mem]

theorem repairFailed_view (i : Nat) (e : JournalEntry) (s : State) : repairView (repairFailed i e s) = repairView s := by
  rw [repairFailed, repairEvent_view]
  simp [repairView]

/-- One entry of the journal is settled, and no other changes. -/
def SettlesEntry (i : Nat) (s t : State) : Prop :=
  ∃ f : JournalEntry → JournalEntry, (∀ x, Settled (f x)) ∧ t.mem.journal = updAt s.mem.journal i f

theorem SettlesEntry.of_changed {i : Nat} {g : JournalEntry → JournalEntry} {s u t : State} (h : SettlesEntry i u t)
    (hu : u.mem.journal = updAt s.mem.journal i g) : SettlesEntry i s t := by
  obtain ⟨f, hf, ht⟩ := h
  refine ⟨f ∘ g, fun x => hf (g x), ?_⟩
  rw [ht, hu, updAt, updAt, updAt, List.modify_modify_eq]

theorem repairDone_settles (i : Nat) (e : JournalEntry) (s : State) : SettlesEntry i s (repairDone i e s) :=
  ⟨_, fun _ => .inl rfl, repairDone_journal i e s⟩

theorem repairFailed_settles (i : Nat) (e : JournalEntry) (s : State) : SettlesEntry i s (repairFailed i e s) :=
  ⟨_, fun _ => .inr rfl, repairFailed_journal i e s⟩

/-- The state in which a row has been fused once more and is verified. -/
def fusedOnce (i attempt : Nat) (s : State) : State :=
  drawFree { s with mem := { s.mem with
    journal := updAt s.mem.journal i (fun x => { x with state := 2, attempts := attempt, time := s.now }) } }

theorem fusedOnce_view (i attempt : Nat) (s : State) : repairView (fusedOnce i attempt s) = repairView s := by
  simp [repairView, fusedOnce]

theorem fuseRow_succ (i : Nat) (e : JournalEntry) (fuel attempt : Nat) (s : State) :
    fuseRow i e (fuel + 1) attempt s =
      if Config.fuseWorks s.free then repairDone i e (fusedOnce i attempt s)
      else if Config.repairResource s.free then fuseRow i e fuel (attempt + 1) (fusedOnce i attempt s)
      else repairFailed i e (fusedOnce i attempt s) := rfl

/-- However often a row is fused, its entry ends settled and nothing else of the view changes. -/
theorem fuseRow_ends (i : Nat) (e : JournalEntry) (fuel attempt : Nat) (s : State) :
    SettlesEntry i s (fuseRow i e fuel attempt s) ∧ repairView (fuseRow i e fuel attempt s) = repairView s := by
  induction fuel generalizing attempt s with
  | zero => exact ⟨repairFailed_settles i e s, repairFailed_view i e s⟩
  | succ fuel ih =>
    obtain ⟨ihSettles, ihView⟩ := ih (attempt + 1) (fusedOnce i attempt s)
    have hview := fusedOnce_view i attempt s
    rw [fuseRow_succ]
    split
    · exact ⟨(repairDone_settles i e _).of_changed rfl, (repairDone_view i e _).trans hview⟩
    · split
      · exact ⟨ihSettles.of_changed rfl, ihView.trans hview⟩
      · exact ⟨(repairFailed_settles i e _).of_changed rfl, (repairFailed_view i e _).trans hview⟩

/-- One entry's turn: one that waits or is found in FUSING is settled, any other stays. -/
theorem repairEntry_ends (i : Nat) (s : State) :
    ((∃ e, s.mem.journal[i]? = some e ∧ (e.state = 1 ∨ e.state = 2)) ∧ SettlesEntry i s (repairEntry i s) ∨
      (∀ e, s.mem.journal[i]? = some e → e.state ≠ 1 ∧ e.state ≠ 2) ∧ repairEntry i s = s) ∧
    repairView (repairEntry i s) = repairView s := by
  unfold repairEntry
  cases hentry : s.mem.journal[i]? with
  | none => simp
  | some e =>
    dsimp only
    split
    case isTrue h1 =>
      obtain ⟨hsettles, hview⟩ := fuseRow_ends i e (2 - e.attempts) (e.attempts + 1) s
      exact ⟨.inl ⟨⟨e, rfl, .inl h1⟩, hsettles⟩, hview⟩
    case isFalse h1 =>
      split
      case isFalse h2 =>
        refine ⟨.inr ⟨?_, rfl⟩, rfl⟩
        rintro e' ⟨⟩
        exact ⟨h1, h2⟩
      case isTrue h2 =>
        have hwaits : ∃ e', some e = some e' ∧ (e'.state = 1 ∨ e'.state = 2) := ⟨e, rfl, .inr h2⟩
        split
        · exact ⟨.inl ⟨hwaits, repairDone_settles i e _⟩, repairDone_view i e _⟩
        · split
          · obtain ⟨hsettles, hview⟩ := fuseRow_ends i e 1 (Nat.max 1 e.attempts) (drawFree s)
            exact ⟨.inl ⟨hwaits, hsettles⟩, hview⟩
          · exact ⟨.inl ⟨hwaits, repairFailed_settles i e _⟩, repairFailed_view i e _⟩

/-- An entry after its turn: one that was settled is as it was, and one in any state of the journal's is settled. -/
def Repaired (x y : Option JournalEntry) : Prop :=
  (x = none → y = none) ∧
  ∀ e, x = some e → ∃ e', y = some e' ∧ (Settled e → e' = e) ∧ (1 ≤ e.state ∧ e.state ≤ 4 → Settled e')

theorem repairEntry_own (i : Nat) (s : State) : Repaired s.mem.journal[i]? (repairEntry i s).mem.journal[i]? := by
  obtain ⟨⟨⟨e, he, hwaits⟩, f, hf, hjournal⟩ | ⟨hdone, hsame⟩, -⟩ := repairEntry_ends i s
  · rw [hjournal, updAt, List.getElem?_modify_eq, he]
    refine ⟨fun h => (by cases h), ?_⟩
    rintro e' ⟨⟩
    exact ⟨f e, rfl, fun h => by unfold Settled at h; omega, fun _ => hf e⟩
  · rw [hsame]
    refine ⟨id, fun e he => ⟨e, he, fun _ => rfl, fun hstate => ?_⟩⟩
    have := hdone e he
    unfold Settled
    omega

theorem repairEntry_other {i j : Nat} (h : j ≠ i) (s : State) :
    (repairEntry i s).mem.journal[j]? = s.mem.journal[j]? := by
  obtain ⟨⟨-, f, -, hjournal⟩ | ⟨-, hsame⟩, -⟩ := repairEntry_ends i s
  · rw [hjournal, updAt, List.getElem?_modify_ne _ _ (Ne.symm h)]
  · rw [hsame]

/-- After the turns of the first n entries these are repaired, and the others are as they were. -/
theorem repairEntries_journal (n : Nat) (s : State) (j : Nat) :
    (j < n → Repaired s.mem.journal[j]? ((List.range n).foldl (fun s i => repairEntry i s) s).mem.journal[j]?) ∧
    (n ≤ j → ((List.range n).foldl (fun s i => repairEntry i s) s).mem.journal[j]? = s.mem.journal[j]?) := by
  induction n with
  | zero => exact ⟨fun h => absurd h (by omega), fun _ => rfl⟩
  | succ n ih =>
    rw [List.range_succ, List.foldl_append, List.foldl_cons, List.foldl_nil]
    refine ⟨fun h => ?_, fun h => ?_⟩
    · rcases Nat.lt_succ_iff_lt_or_eq.mp h with hlt | rfl
      · rw [repairEntry_other (by omega)]
        exact ih.1 hlt
      · have hown := repairEntry_own j ((List.range j).foldl (fun s i => repairEntry i s) s)
        rw [ih.2 (Nat.le_refl j)] at hown
        exact hown
    · rw [repairEntry_other (by omega)]
      exact ih.2 (by omega)

theorem repairEntries_view (n : Nat) (s : State) :
    repairView ((List.range n).foldl (fun s i => repairEntry i s) s) = repairView s :=
  foldl_view repairView _ (fun s i => (repairEntry_ends i s).2) _ s

/-! REPAIR_RUN, REPAIR_ADD and TEST_PORT_RAW. -/

theorem repairRun_accepted {req : ReqId} {value : Nat} {s : State} (h : Accepted req 0x6700 0x01 (leBytes 1 value) s) :
    exec (.repairRun req value) s = .next (repairRunAction req (leBytes 1 value) (actionStart req 0x6700 0x01 s)) := by
  change Host.Outcome.next _ = _
  rw [cmdVia_accepted h]

theorem repairAdd_accepted {req : ReqId} {entry : BitVec 128} {s : State}
    (h : Accepted req 0x6700 0x03 (leBytes 16 entry.toNat) s) :
    exec (.repairAdd req entry) s =
      .next (repairAddAction req (leBytes 16 entry.toNat) (actionStart req 0x6700 0x03 s)) := by
  change Host.Outcome.next _ = _
  rw [cmdVia_accepted h]

theorem testPortRaw_accepted {req : ReqId} {value : BitVec 512} {s : State}
    (h : Accepted req 0x6700 0x04 (leBytes 64 value.toNat) s) :
    exec (.testPortRaw req value) s =
      .next (testPortRawAction req (leBytes 64 value.toNat) (actionStart req 0x6700 0x04 s)) := by
  change Host.Outcome.next _ = _
  rw [cmdVia_accepted h]

theorem Repaired.of_after {x y : Option JournalEntry} (h : Repaired x y) {e' : JournalEntry} (hy : y = some e') :
    ∃ e, x = some e ∧ (Settled e → e' = e) ∧ (1 ≤ e.state ∧ e.state ≤ 4 → Settled e') := by
  obtain ⟨hnone, hsome⟩ := h
  cases x with
  | none => rw [hnone rfl] at hy; cases hy
  | some e =>
    obtain ⟨e'', he'', hkept, hsettled⟩ := hsome e rfl
    rw [hy] at he''
    cases he''
    exact ⟨e, rfl, hkept, hsettled⟩

/-- What REPAIR_RUN's action leaves when it ends: every entry has had its turn. -/
theorem repairRunAction_leaves (req : ReqId) (bytes : List Byte) (s : State) :
    ∃ u : State, repairRunAction req bytes s = endCmd Ent.repairRun stOk 0 u ∧ u.mem.dram = s.mem.dram ∧ u.dispatch = s.dispatch ∧
      u.dict.cmds = s.dict.cmds ∧ u.now = s.now ∧ u.mem.journal.length = s.mem.journal.length ∧
      ∀ i : Nat, Repaired s.mem.journal[i]? u.mem.journal[i]? := by
  have hview := repairEntries_view s.mem.journal.length { s with mem := { s.mem with repairDone := 0 } }
  simp only [repairView, Prod.mk.injEq] at hview
  obtain ⟨hdram, hdispatch, hcmds, hnow, hlength⟩ := hview
  refine ⟨_, rfl, hdram, hdispatch, hcmds, hnow, hlength, fun i => ?_⟩
  obtain ⟨hturn, hlater⟩ := repairEntries_journal s.mem.journal.length { s with mem := { s.mem with repairDone := 0 } } i
  by_cases hi : i < s.mem.journal.length
  · exact hturn hi
  · have hnone : s.mem.journal[i]? = none := List.getElem?_eq_none (by omega)
    exact ⟨fun _ => (hlater (by omega)).trans hnone, fun e he => by rw [hnone] at he; cases he⟩

/-- The journal's word of an entry's 16 bytes. -/
theorem leAt_padTo_front (v : Nat) : leAt (padTo 16 (leBytes 16 v)) 0 8 = v % 2 ^ 64 := by
  have htake : slice (padTo 16 (leBytes 16 v)) 0 8 = leBytes 8 v := by
    simp [slice, padTo, take_leBytes]
  rw [leAt, htake, ofLe_leBytes]

/-- The journal entry that REPAIR_ADD makes of a word (Table 14.4). -/
def addedEntry (j : Nat) (s : State) : JournalEntry :=
  let unit := if field j 59 56 < 12 then field j 55 51
    else Config.repairPackage (field j 55 51) (field j 50 45) (field j 44 27) % 16
  { state := 1, region := field j 59 56, unit := unit, channel := field j 55 51, bank := field j 50 45,
    row := field j 44 27, attempts := field j 26 24, time := s.now,
    mpa := Config.rowFirst (field j 59 56) unit (field j 50 45) (field j 44 27) }

/-- A new row is entered where the journal has room. -/
theorem repairAddAction_enters {v j : Nat} {req : ReqId} {s : State} (hj : j = v % 2 ^ 64)
    (hnew : s.mem.journal.any (fun x => x.region == field j 59 56 && x.channel == field j 55 51 && x.bank == field j 50 45 &&
      x.row == field j 44 27) = false) (hroom : s.mem.journal.length < 1024) :
    repairAddAction req (leBytes 16 v) s = { endCmd Ent.repairAdd stOk 0 s with
      mem := { s.mem with journal := s.mem.journal ++ [addedEntry j s] } } := by
  have hfull : ¬ 1024 ≤ s.mem.journal.length := by omega
  simp only [repairAddAction, leAt_padTo_front, ← hj, endCmd_mem, hnew, hfull, if_false, Bool.false_eq_true]
  rfl

theorem testPortRawAction_eq (req : ReqId) (bytes : List Byte) (s : State) :
    testPortRawAction req bytes s = endCmd Ent.testPortRaw stOk 0 { s with mem := { s.mem with
      scrambled := if Config.rawConfigures bytes = true ∧ s.mem.scrambled.contains (leAt bytes 0 1) = false then
        s.mem.scrambled ++ [leAt bytes 0 1] else s.mem.scrambled } } := by
  simp only [testPortRawAction, Bool.and_eq_true, Bool.not_eq_true']
  split <;> rfl

end Sys2Proof.Machine

namespace Sys2Proof

open Sys2Proof.Machine

/-- Settles O42, clause by clause from what a scrub, a remap and a repair leave. -/
theorem memoryErrorsAndRepairsFollowTheRules : Obligations.MemoryErrorsAndRepairsFollowTheRules := by
  unfold Obligations.MemoryErrorsAndRepairsFollowTheRules
  refine ⟨?clean, ?corrected, ?off, ?remapped, ?failed, ?copied, ?restart, ?run, ?added, ?raw⟩
  case clean =>
    intro s hon hpass
    have hread : (codewordRead 1 (wordMpa false s.mem.scrubHbm) 0 (noteScrubLate false s)).2 = noteScrubLate false s := rfl
    refine ⟨_, patrolScrub_on hon (by omega), ?_⟩
    have hscrub : (noteScrubLate false s).mem.scrubHbm = s.mem.scrubHbm := by rw [noteScrubLate_frame]
    rw [hread, scrubAdvance_inPass (by rw [hscrub]; exact hpass), noteScrubLate_frame]
    exact ⟨rfl, rfl, rfl, rfl⟩
  case corrected =>
    intro s mpa hon hpass hmpa
    have hhbm : mpa / 2 ^ 40 < 12 := hmpa ▸ wordMpa_hbm hpass
    have hread : (codewordRead 1 (wordMpa false s.mem.scrubHbm) 1 (noteScrubLate false s)).2 =
        correctedError 1 mpa 1 (noteScrubLate false s) := by rw [← hmpa]; rfl
    have hmem := correctedError_mem 1 mpa 1 (noteScrubLate false s)
    have hscrub : (correctedError 1 mpa 1 (noteScrubLate false s)).mem.scrubHbm = s.mem.scrubHbm := by
      rw [hmem, noteScrubLate_frame]
    refine ⟨_, patrolScrub_on hon (by omega), ?_⟩
    rw [hread, scrubAdvance_inPass (by rw [hscrub]; exact hpass)]
    refine ⟨congrArg (· + 1) hscrub, ?_, ?_, ?_⟩
    · change (correctedError 1 mpa 1 (noteScrubLate false s)).mem.dram = _
      rw [hmem, noteScrubLate_frame]
    · change counter Cnt.hbmCorrected (correctedError 1 mpa 1 (noteScrubLate false s)) = _
      rw [counter_correctedError hhbm, counter_noteScrubLate (by decide)]
    · have hcount : rowErrorCount mpa (noteScrubLate false s) = rowErrorCount mpa s :=
        rowErrorCount_congr (by rw [noteScrubLate_frame]) mpa
      rw [rowErrorCount_congr (t := { correctedError 1 mpa 1 (noteScrubLate false s) with mem := _ })
        (s := raiseRow mpa (noteScrubLate false s)) (by rw [hmem]) mpa, rowErrorCount_raiseRow, hcount]
  case off =>
    intro cold symbols s hoff
    change execPatrolScrub cold symbols s = _
    rw [execPatrolScrub, if_pos (.inl hoff)]
  case remapped =>
    intro mpa d s u hfind hrow hnone hu hcan
    rw [rowRemap_oldest hfind hrow, remapOnline_clean (find_own_row hfind), if_neg (by rw [hnone]; decide)]
    subst hu
    rw [dropAsk, if_pos hcan]
  case failed =>
    intro mpa d s u hfind hrow hnone hu hcan
    rw [rowRemap_oldest hfind hrow, remapOnline_clean (find_own_row hfind), if_neg (by rw [hnone]; decide)]
    rw [hu] at hcan ⊢
    rw [if_neg (by rw [dropAsk, hcan]; decide)]
    rfl
  case copied =>
    intro mpa errors d s hfind hrow
    exact rowRemap_oldest hfind hrow
  case restart =>
    intro mpa d s hfind hrow hfailing
    rw [rowRemap_oldest hfind hrow, remapOnline_clean (find_own_row hfind), if_pos hfailing]
    rfl
  case run =>
    intro req value s hacc
    obtain ⟨u, hu, hdram, hdispatch, hcmds, hnow, hlength, hjournal⟩ :=
      repairRunAction_leaves req (leBytes 1 value) (actionStart req 0x6700 0x01 s)
    rw [actionStart_mem] at hdram hlength hjournal
    refine ⟨endCmd Ent.repairRun stOk 0 u, by rw [repairRun_accepted hacc, hu], ?_, ?_, ?_, ?_, ?_, ?_⟩
    · exact endedOk_endCmd rfl hcmds (by rw [hnow, actionStart_now])
    · rw [endCmd_mem, hlength]
    · rw [endCmd_mem, hdram]
    · rw [endCmd_dispatch, hdispatch, actionStart_dispatch]
    · intro hstates e' he'
      rw [endCmd_mem] at he'
      obtain ⟨i, hi⟩ := List.mem_iff_getElem?.mp he'
      obtain ⟨e, he, -, hsettled⟩ := (hjournal i).of_after hi
      exact hsettled (hstates e (List.mem_of_getElem? he))
    · intro i e he hdone
      obtain ⟨e', he', hkept, -⟩ := (hjournal i).2 e he
      rw [endCmd_mem, he', hkept hdone]
  case added =>
    intro req entry j s unit hacc hj hunit hnew hroom
    rw [repairAdd_accepted hacc, repairAddAction_enters hj (by rw [actionStart_mem]; exact hnew) (by rw [actionStart_mem]; exact hroom)]
    have hended := endedOk_endCmd (u := actionStart req 0x6700 0x03 s) (key := Ent.repairAdd) rfl rfl (actionStart_now ..)
    refine ⟨_, rfl, hended, ?_⟩
    subst hunit
    rw [actionStart_frame]
    rfl
  case raw =>
    intro req value s bytes stack hbytes hstack hacc
    subst hbytes hstack
    have hstart := actionStart_mem req 0x6700 0x04 s
    refine ⟨_, _, rfl, by rw [testPortRaw_accepted hacc, testPortRawAction_eq], ?_, ?_⟩
    · exact endedOk_endCmd rfl rfl (actionStart_now ..)
    · rw [hstart]
      change State.mk .. = State.mk ..
      rw [actionStart_frame]
      rfl

end Sys2Proof
end

section
/-! SUPPORT. Map records (R409 to R413): an allocation in the cold tier waits while COLD is off. -/

namespace Sys2Proof.Machine

open Sys2Proof

/-- An ALLOC in the cold tier that finds COLD off switches it on and waits: its record stays at the front (R513). -/
theorem alloc_waitsForCold {r : MapRecord} {rest : List MapRecord} {s : State} (hfront : s.xlate.mapRecords = r :: rest)
    (hop : (mapOp r.words).op = 1) (htier : (mapOp r.words).tier = 1) (hbad : mapBad r.words s = false)
    (hcold : coldUp s = false) : exec .alloc s = .next (switchColdOn s) := by
  change takeMap 1 s = _
  simp [takeMap, hfront, hop, htier, hbad, hcold]

/-- A record that names a page of the module range is refused, whatever it asks, and leaves the queue of records (R411). -/
theorem runMap_inModule {r : MapRecord} {s : State} (hbad : mapBad r.words s = false)
    (hsealed : mapSealed r.cls (mapOp r.words).op s = false) (hmodule : mapInModule (mapOp r.words) = true) :
    runMap r s = mapComplete r stDenied 2 s := by
  simp [runMap, hbad, hsealed, hmodule]

/-- A record without a place for its completion: it leaves the queue and is counted. -/
theorem mapComplete_ofOwner {r : MapRecord} (h : r.at_ = none) (status reason : Nat) (s : State) :
    (mapComplete r status reason s).xlate.mapRecords = s.xlate.mapRecords.drop 1 := by
  simp [mapComplete, h]

/-- ALLOC of the first page of the module range in the cold tier for context 0. -/
def coldAlloc : MapRecord :=
  { count := 0, words := BitVec.ofNat 256 (0x0101000000000001 + 0xC000000000 * 2 ^ 64), at_ := none, cls := .S }

/-- The module after reset, COLD off, with context 0 and that record waiting. -/
def coldAllocWaits : State :=
  { State.reset with
    job := { State.reset.job with
      contexts := [{
        num := 0, cgMask := 1, sramBase := 0, sramBytes := 0, stagingBase := 0, stagingBytes := 0, accBase := 0,
        accEntries := 0, hbmQuota := 0, hbmUsed := 0, coldQuota := 4096, coldUsed := 0, segmentsLoaded := false }] }
    xlate := { State.reset.xlate with mapRecords := [coldAlloc] } }

theorem coldAllocWaits_checks : (mapOp coldAlloc.words).op = 1 ∧ (mapOp coldAlloc.words).tier = 1 ∧
    mapBad coldAlloc.words coldAllocWaits = false ∧ coldUp coldAllocWaits = false ∧
    mapSealed coldAlloc.cls (mapOp coldAlloc.words).op coldAllocWaits = false ∧
    mapInModule (mapOp coldAlloc.words) = true := by decide +kernel

end Sys2Proof.Machine

namespace Sys2Proof

open Sys2Proof.Machine

/-- Refutes O43: while COLD is off, an ALLOC in the cold tier is not carried out but waits for COLD's switch-on (R513), its
record still at the front, where `runMap` has taken it from the queue. -/
theorem not_mapRecordsAreCarriedOut : ¬ Obligations.MapRecordsAreCarriedOut := by
  unfold Obligations.MapRecordsAreCarriedOut
  rintro ⟨hcarried, -⟩
  obtain ⟨hop, htier, hbad, hcold, hsealed, hmodule⟩ := coldAllocWaits_checks
  have hrun := hcarried .alloc coldAllocWaits coldAlloc [] 1 rfl hop.symm (by decide) (.inl ⟨rfl, rfl⟩)
  rw [alloc_waitsForCold rfl hop htier hbad hcold, runMap_inModule hbad hsealed hmodule] at hrun
  have hqueue := congrArg (fun s => s.xlate.mapRecords) (Host.Outcome.next.inj hrun)
  rw [mapComplete_ofOwner rfl, switchColdOn_xlate] at hqueue
  cases hqueue

end Sys2Proof
end

section
/-! SUPPORT. The dictionary server (R542 to R554): what serving, answering and a requester's own record change, and what they
leave alone. -/

namespace Sys2Proof.Machine

open Sys2Proof

/-! What leaves the module changes the fabric, the Lorjo service and the owner channel only. -/

theorem depart_frame (l : Link) (o : Departure) (s : State) :
    depart l o s = { s with fabric := (depart l o s).fabric, service := (depart l o s).service, security := (depart l o s).security } := by
  unfold depart
  cases o <;> rfl

theorem putOut_frame (l : Link) (o : Departure) (s : State) :
    putOut l o s = { s with fabric := (putOut l o s).fabric, service := (putOut l o s).service, security := (putOut l o s).security } := by
  unfold putOut
  split
  · rfl
  · exact depart_frame l o s

theorem sendLink_frame (i : Nat) (dst : Endpoint) (o : Departure) (s : State) :
    sendLink i dst o s = { s with fabric := (sendLink i dst o s).fabric, service := (sendLink i dst o s).service,
                                  security := (sendLink i dst o s).security } := by
  unfold sendLink
  cases nextHop i dst.v6 dst.addr s with
  | none => rfl
  | some hop =>
    dsimp only
    cases hopMac i dst.v6 hop s with
    | some m => exact putOut_frame _ _ _
    | none =>
      dsimp only
      split
      · rfl
      · exact (putOut_frame _ _ _).trans rfl

theorem ownerEmit_frame (peer : Option UdpPath) (record : List Byte) (s : State) :
    ownerEmit peer record s = { s with fabric := (ownerEmit peer record s).fabric, service := (ownerEmit peer record s).service,
                                       security := (ownerEmit peer record s).security } := by
  cases peer with
  | none => rfl
  | some p => exact sendLink_frame _ _ _ _

theorem ownerSend_frame (sid kind : Nat) (payload : List Byte) (s : State) :
    ownerSend sid kind payload s = { s with fabric := (ownerSend sid kind payload s).fabric,
                                            service := (ownerSend sid kind payload s).service,
                                            security := (ownerSend sid kind payload s).security } := by
  unfold ownerSend
  cases ownerOf sid s with
  | none => rfl
  | some o => exact (ownerEmit_frame _ _ _).trans rfl

/-- A response leaves: it is the newest of the responses, and beside it only its transport changes. -/
theorem sendResponse_frame (r : ReqId) (bytes : List Byte) (s : State) :
    sendResponse r bytes s = { s with
      fabric := (sendResponse r bytes s).fabric, service := (sendResponse r bytes s).service,
      security := (sendResponse r bytes s).security,
      dict := { s.dict with
        responses := { dest := r, bytes := bytes, units := carried r bytes s } :: s.dict.responses,
        dwResponse := (sendResponse r bytes s).dict.dwResponse } } := by
  unfold sendResponse
  cases r with
  | owner sid =>
    dsimp only
    rw [ownerSend_frame]
  | _ => rfl

/-! A requester's own record. -/

theorem reqOf_id (r : ReqId) (s : State) : (reqOf r s).id = r := by
  unfold reqOf
  cases h : s.dict.requesters.find? (fun x => x.id == r) with
  | none => rfl
  | some x => simpa using List.find?_some h

theorem find?_updFirst {α : Type} {p : α → Bool} {y : α} (hy : p y = true) {l : List α} (h : l.any p = true) :
    (updFirst p (fun _ => y) l).find? p = some y := by
  induction l with
  | nil => simp at h
  | cons x l ih =>
    by_cases hx : p x = true
    · simp [updFirst, hx, hy]
    · have ht : l.any p = true := by simpa [hx] using h
      simp [updFirst, hx, ih ht]

theorem find?_updFirst_other {α : Type} {p q : α → Bool} {y : α} (hy : q y = false) (hpq : ∀ x, p x = true → q x = false)
    (l : List α) : (updFirst p (fun _ => y) l).find? q = l.find? q := by
  induction l with
  | nil => rfl
  | cons x l ih =>
    by_cases hx : p x = true
    · simp [updFirst, hx, hy, hpq x hx]
    · simp [updFirst, hx, List.find?_cons, ih]

/-- The record put is the one read back. -/
@[simp] theorem reqOf_putReq (x : Requester) (s : State) : reqOf x.id (putReq x s) = x := by
  unfold putReq reqOf
  split
  case isTrue h =>
    change ((updFirst (fun y => y.id == x.id) (fun _ => x) s.dict.requesters).find? (fun y => y.id == x.id)).getD _ = x
    rw [find?_updFirst (by simp) h]
    rfl
  case isFalse h =>
    have hnone : s.dict.requesters.find? (fun y => y.id == x.id) = none := by
      rw [List.find?_eq_none]
      simpa using h
    simp [List.find?_append, hnone]

theorem reqOf_putReq_of_id {x : Requester} {r : ReqId} (h : x.id = r) (s : State) : reqOf r (putReq x s) = x := by
  subst h
  exact reqOf_putReq x s

theorem reqOf_congr {s t : State} (h : t.dict.requesters = s.dict.requesters) (r : ReqId) : reqOf r t = reqOf r s := by
  unfold reqOf
  rw [h]

@[simp] theorem putReq_security (x : Requester) (s : State) : (putReq x s).security = s.security := by rw [putReq_frame]
@[simp] theorem putReq_responses (x : Requester) (s : State) : (putReq x s).dict.responses = s.dict.responses := by
  rw [putReq_frame]

theorem touchReq_frame (r : ReqId) (s : State) :
    touchReq r s = { s with dict := { s.dict with
      useClock := s.dict.useClock + 1, requesters := (touchReq r s).dict.requesters } } := by
  unfold touchReq
  rw [putReq_frame]

@[simp] theorem touchReq_security (r : ReqId) (s : State) : (touchReq r s).security = s.security := by rw [touchReq_frame]
@[simp] theorem touchReq_responses (r : ReqId) (s : State) : (touchReq r s).dict.responses = s.dict.responses := by
  rw [touchReq_frame]

/-- A response kept and sent: it is the newest of the responses, its requester's record holds it, and beside them only its
transport changes. -/
theorem respond_frame (r : ReqId) (m : DictMsg) (err size item : Nat) (body : List Byte) (s : State) :
    respond r m err size item body s = { s with
      fabric := (respond r m err size item body s).fabric, service := (respond r m err size item body s).service,
      security := (respond r m err size item body s).security,
      dict := { s.dict with
        requesters := (respond r m err size item body s).dict.requesters,
        responses := { dest := r, bytes := responseBytes m err size item body,
                       units := carried r (responseBytes m err size item body) s } :: s.dict.responses,
        dwResponse := (respond r m err size item body s).dict.dwResponse } } := by
  unfold respond
  rw [sendResponse_frame, putReq_frame]
  rfl

theorem respond_requesters (r : ReqId) (m : DictMsg) (err size item : Nat) (body : List Byte) (s : State) :
    (respond r m err size item body s).dict.requesters =
      (putReq { reqOf r s with kept := some {
        seq := m.seq, index := m.index, sub := m.sub, offset := m.offset,
        bytes := responseBytes m err size item body, at_ := s.now } } s).dict.requesters := by
  unfold respond
  rw [sendResponse_frame]

theorem respond_responses (r : ReqId) (m : DictMsg) (err size item : Nat) (body : List Byte) (s : State) :
    (respond r m err size item body s).dict.responses =
      { dest := r, bytes := responseBytes m err size item body,
        units := carried r (responseBytes m err size item body) s } :: s.dict.responses := by
  rw [respond_frame]

theorem selVal_congr {s t : State} (h : t.dict.requesters = s.dict.requesters) (key : Nat) (r : ReqId) :
    selVal key r t = selVal key r s := by
  unfold selVal
  rw [reqOf_congr h]

theorem selVal_putReq {x : Requester} {r : ReqId} (hid : x.id = r) (key : Nat) (s : State) :
    selVal key r (putReq x s) = (alGet x.selectors key).getD 0 := by
  unfold selVal
  rw [reqOf_putReq_of_id hid]

/-- A response leaves its requester's selectors as they were. -/
theorem selVal_respond (key : Nat) (r : ReqId) (m : DictMsg) (err size item : Nat) (body : List Byte) (s : State) :
    selVal key r (respond r m err size item body s) = selVal key r s := by
  rw [selVal_congr (respond_requesters r m err size item body s), selVal_putReq]
  · rfl
  · exact reqOf_id r s

theorem carried_congr {s t : State} (h : t.security = s.security) (r : ReqId) (bytes : List Byte) :
    carried r bytes t = carried r bytes s := by
  unfold carried
  rw [h]

/-! Serving a message (R542, R547). -/

section
variable {req : ReqId} {msg : DictFrame} {s : State} {relay : RelayHandler} {op : Nat}
  (hop : messageOp msg.bytes = op) (hserved : dictServed s = true) (hexists : reqExists req s = true)
  (hlen : 24 ≤ msg.bytes.length) (hanswers : answersFrame req msg s = true)
include hop hserved hexists hlen hanswers

theorem serveRow_served (hkept : keptFor req (parseDict msg.bytes) s = none) :
    serveRow op relay req msg s = performMessage relay req (parseDict msg.bytes) (touchReq req s) := by
  have hshort : ¬ msg.bytes.length < 24 := by omega
  simp [serveRow, servedBy, hop, hanswers, serveMessage, hserved, hexists, hshort, hkept]

theorem serveRow_repeated {bytes : List Byte} (hkept : keptFor req (parseDict msg.bytes) s = some bytes) :
    serveRow op relay req msg s = sendResponse req bytes (touchReq req s) := by
  have hshort : ¬ msg.bytes.length < 24 := by omega
  simp [serveRow, servedBy, hop, hanswers, serveMessage, hserved, hexists, hshort, hkept]

end

theorem serveRow_unanswered {req : ReqId} {msg : DictFrame} {s : State} (h : answersFrame req msg s = false) (op : Nat)
    (relay : RelayHandler) : serveRow op relay req msg s = s := by
  simp [serveRow, h]

/-- A whole read that meets no error answers with the value taken. -/
theorem readMessage_whole {r : ReqId} {m : DictMsg} {s : State} (hoff : m.offset = 0)
    (hok : readRefusal r m.index m.sub s = erOk) :
    readMessage r m s = respond r m erOk (takeValue r m.index m.sub s).1.length 0
      ((takeValue r m.index m.sub s).1.take (Nat.min m.length 1024))
      (putReq { reqOf r (takeValue r m.index m.sub s).2 with
        snapshot := some { index := m.index, sub := m.sub, bytes := (takeValue r m.index m.sub s).1,
                           lastRead := (takeValue r m.index m.sub s).2.now } } (takeValue r m.index m.sub s).2) := by
  simp [readMessage, hoff, hok, readBody]

end Sys2Proof.Machine

namespace Sys2Proof

open Sys2Proof.Machine

/-- Settles O47: a served message is performed from its requester's record, noted as used. -/
theorem dictionaryMessagesAreAnswered : Obligations.DictionaryMessagesAreAnswered := by
  unfold Obligations.DictionaryMessagesAreAnswered
  refine ⟨?badFrame, ?read, ?write, ?multiWrite, ?multiRead, ?repeated, ?unanswered, ?t1s, ?mctp⟩
  case badFrame =>
    intro req msg s u m i hu hm hserved hexists hlen hanswers hkept hop hbad hi
    subst hu hm
    have perform (op : Nat) (h : (parseDict msg.bytes).op = op) :
        serveRow op relayRecord req msg s = respond req (parseDict msg.bytes) erBadFrame 0 0 [] (touchReq req s) := by
      rw [serveRow_served (hop.symm.trans h) hserved hexists hlen hanswers hkept, performMessage, if_pos hbad]
    obtain ⟨h, rfl⟩ | ⟨h, rfl⟩ | ⟨h, rfl⟩ | ⟨h, rfl⟩ := hi
    · exact congrArg _ (perform 1 h)
    · exact congrArg _ (perform 2 h)
    · exact congrArg _ (perform 3 h)
    · exact congrArg _ (perform 4 h)
  case read =>
    intro req msg s u m hu hm hserved hexists hlen hanswers hkept hop hmop hbad hoff hok hwb hrelay
    subst hu hm
    have htake : takeValue req (parseDict msg.bytes).index (parseDict msg.bytes).sub (touchReq req s) =
        (entryBytes req (parseDict msg.bytes).index (parseDict msg.bytes).sub (touchReq req s), touchReq req s) := by
      rw [takeValue, if_neg hwb, if_neg hrelay]
    have hrun : serveRow 1 relayRecord req msg s = readMessage req (parseDict msg.bytes) (touchReq req s) := by
      rw [serveRow_served hop hserved hexists hlen hanswers hkept]
      simp [performMessage, hbad, hmop]
    rw [readMessage_whole hoff hok, htake] at hrun
    refine ⟨_, _, congrArg Host.Outcome.next hrun, rfl, ?_, ?_, ?_, ?_⟩
    · rw [respond_responses, carried_congr (s := s) (by simp)]
      simp
    · rw [respond_frame, putReq_frame, touchReq_frame]
    · rw [respond_frame, putReq_frame, touchReq_frame]
    · rw [respond_frame, putReq_frame, touchReq_frame]
  case write =>
    intro req msg s u m e hu hm hserved hexists hlen hanswers hkept hop hmop hbad hrights hsize he hoff hfinal hfits hvalue
    subst hu hm
    have hwhole : ¬ 1024 < entrySize (parseDict msg.bytes).index (parseDict msg.bytes).sub := by omega
    have hrun : serveRow 2 relayRecord req msg s = writeMessage relayRecord req (parseDict msg.bytes) (touchReq req s) := by
      rw [serveRow_served hop hserved hexists hlen hanswers hkept]
      simp [performMessage, hbad, hmop]
    refine congrArg _ (hrun.trans ?_)
    simp [writeMessage, hrights, hwhole, he, hoff, hfinal, hfits, hvalue, acceptWrite]
  case multiWrite =>
    intro req msg s u m hu hm hserved hexists hlen hanswers hkept hop hmop hbad
    subst hu hm
    have hrun : serveRow 3 relayRecord req msg s = multiWriteMessage relayRecord req (parseDict msg.bytes) (touchReq req s) := by
      rw [serveRow_served hop hserved hexists hlen hanswers hkept]
      simp [performMessage, hbad, hmop]
    refine ⟨fun n err herr => ?_, fun hnone hroom => ?_, fun i hnone hroom => ?_⟩
    · refine ⟨_, congrArg Host.Outcome.next hrun, ?_, ?_, ?_⟩ <;>
        simp only [multiWriteMessage, herr] <;> rw [respond_frame, noteRefusal_frame, touchReq_frame]
    · refine congrArg _ (hrun.trans ?_)
      simp only [multiWriteMessage, hnone, hroom]
      rfl
    · refine ⟨_, congrArg Host.Outcome.next hrun, ?_, ?_, ?_⟩ <;>
        simp only [multiWriteMessage, hnone, hroom] <;> rw [respond_frame, touchReq_frame]
  case multiRead =>
    intro req msg s u m items hu hm hserved hexists hlen hanswers hkept hop hmop hbad hitems hnone hsize
    subst hu hm hitems
    have hrun : serveRow 4 relayRecord req msg s = multiReadMessage req (parseDict msg.bytes) (touchReq req s) := by
      rw [serveRow_served hop hserved hexists hlen hanswers hkept]
      simp [performMessage, hbad, hmop]
    refine congrArg _ (hrun.trans ?_)
    have hfits : ¬ 1024 < gatherSize ((readItems (parseDict msg.bytes).count_ (parseDict msg.bytes).body).getD []) := by omega
    simp only [multiReadMessage, hnone, if_neg hfits]
  case repeated =>
    intro req msg s m bytes hm hserved hexists hlen hanswers hkept hop
    subst hm
    exact congrArg _ (serveRow_repeated hop hserved hexists hlen hanswers hkept)
  case unanswered =>
    intro req msg s i h hi
    obtain rfl | rfl | rfl | rfl := hi <;> exact congrArg _ (serveRow_unanswered h _ _)
  case t1s =>
    intro mac bytes s a
    refine ⟨rfl, ?_⟩
    simp [answersFrame, mgmtMac, broadcastMac, and_assoc]
  case mctp =>
    intro mac address bytes s typ vendor e a
    constructor
    · simp [answersFrame]
    · simp [answersFrame, and_assoc]

end Sys2Proof
end

section
/-! SUPPORT. The Waybill's writer (R571 to R581), and the lapse of what the dictionary server keeps (R545 to R547). -/

namespace Sys2Proof.Machine

open Sys2Proof

/-! What is kept for a requester, and the window of BAR0. -/

/-- A message served from the window's registers. -/
theorem execDwGo_served {request : List Byte} {w : HostWrite} {s : State} (hflr : s.hostif.flr = false) (hbytes : w.bytes = 8)
    (hoff : w.offset = 0) (hidle : s.dict.dwDone.getLsbD 16 = false) (hserved : dictServed s = true) {u : State}
    (hu : u = serveMessage relayRecord .window (padTo 2048 request)
      { s with dict := { s.dict with dwRequest := padTo 2048 request } }) :
    execDwGo request w s = .next (if u.recovery.boots = s.recovery.boots then
      { u with dict := { u.dict with dwDone := BitVec.ofNat 32 (w.value.toNat % 2 ^ 16) } } else u) := by
  subst hu
  simp only [execDwGo, hflr, regWrite_whole hbytes hoff, hidle, hserved, Bool.false_eq_true, Bool.true_eq_false, or_self, if_false,
    ne_eq, ite_not]
  split <;> rfl

/-! The writer (R571 to R576). -/

theorem acceptRecord_within {r : WbSubmit} {s : State} (h : ∀ l, codeLimit r.code = some l → (wbCode r.code s).written < l) :
    acceptRecord r s = storeRecord r.num r.time r.code r.inst (if r.held then 4 else 0) r.p s := by
  have hopen : ¬ (codeLimit r.code).any (fun l => decide (l ≤ (wbCode r.code s).written)) = true := by
    cases hl : codeLimit r.code with
    | none => simp
    | some l => simpa using h l hl
  simp only [acceptRecord, if_neg hopen]

theorem acceptRecord_beyond {r : WbSubmit} {s : State} {l : Nat} (hl : codeLimit r.code = some l)
    (h : l ≤ (wbCode r.code s).written) : acceptRecord r s = wbSuppress r.code r.time s := by
  simp [acceptRecord, hl, h]

theorem execWaybillRecordWrite_next {s : State} {r : WbSubmit} {rest : List WbSubmit} (hqueue : s.waybill.queue = r :: rest)
    (hrestore : s.waybill.restoreDue = false) :
    execWaybillRecordWrite s = .next (acceptRecord r { s with waybill := { s.waybill with queue := rest } }) := by
  unfold execWaybillRecordWrite
  rw [hqueue]
  exact congrArg Host.Outcome.next (if_neg (by simp [hrestore]))

/-- A stored record changes the Waybill and a counter only. -/
theorem storeRecord_frame (num time code inst flags : Nat) (p : List Nat) (s : State) :
    storeRecord num time code inst flags p s = { s with
      waybill := (storeRecord num time code inst flags p s).waybill,
      dict := { s.dict with counters := (storeRecord num time code inst flags p s).dict.counters } } := rfl

theorem resolveParams_of_ne {code : Nat} (h : code ≠ 0xE001) (p : List Nat) (s : State) : resolveParams code p s = p := by
  simp [resolveParams, h]

/-! The end of a second (R576, R577). -/

/-- No count of a code is left over from a window that has ended; SUPPRESSED records belong to the new one. -/
def CodesClear (s : State) : Prop := ∀ c, c ∈ s.waybill.codes → (c.code ≠ 0xF002 → c.written = 0) ∧ c.suppressed = 0

theorem wbCode_suppressed {s : State} (h : CodesClear s) (code : Nat) : (wbCode code s).suppressed = 0 := by
  unfold wbCode
  cases hf : s.waybill.codes.find? (fun c => c.code == code) with
  | none => rfl
  | some c => exact (h c (List.mem_of_find?_eq_some hf)).2

theorem wbCode_code (code : Nat) (s : State) : (wbCode code s).code = code := by
  unfold wbCode
  cases hf : s.waybill.codes.find? (fun c => c.code == code) with
  | none => rfl
  | some c => simpa using List.find?_some hf

theorem codesClear_storeSuppressed {s : State} (h : CodesClear s) (num time inst flags : Nat) (p : List Nat) :
    CodesClear (storeRecord num time 0xF002 inst flags p s) := by
  intro c hc
  have hcases : c ∈ s.waybill.codes ∨ c = { wbCode 0xF002 s with written := (wbCode 0xF002 s).written + 1 } := by
    simp only [storeRecord, putWbCode, count, List.mem_append, List.mem_cons, List.mem_filter] at hc
    tauto
  obtain hold | rfl := hcases
  · exact h c hold
  · exact ⟨fun hne => absurd (wbCode_code _ _) hne, wbCode_suppressed h _⟩

theorem codesClear_writeSuppressed (time : Nat) (n : Nat) (cs : List WbCode) {s : State} (h : CodesClear s) :
    CodesClear (writeSuppressed time n cs s) := by
  fun_induction writeSuppressed time n cs s with
  | case1 => exact h
  | case2 => exact h
  | case3 => exact codesClear_storeSuppressed h _ _ _ _ _
  | case4 => exact codesClear_storeSuppressed h _ _ _ _ _
  | case5 s n c cs ih => exact ih (codesClear_storeSuppressed h _ _ _ _ _)

theorem writeSuppressed_second (time n : Nat) (cs : List WbCode) (s : State) :
    (writeSuppressed time n cs s).waybill.second = s.waybill.second := by
  fun_induction writeSuppressed time n cs s with
  | case1 => rfl
  | case2 => rfl
  | case3 => rfl
  | case4 => rfl
  | case5 s n c cs ih => exact ih

theorem rollSat_now (s : State) : (rollSat s).now = s.now := by
  unfold rollSat
  split
  · rfl
  · dsimp only
    split
    · rw [wbSubmit_frame]
    · rfl

theorem closeWindow_second (s : State) : (closeWindow s).waybill.second = s.now / 1000000000 := by
  unfold closeWindow
  rw [writeSuppressed_second]

theorem codesClear_closeWindow (s : State) : CodesClear (closeWindow s) := by
  refine codesClear_writeSuppressed _ _ _ fun c hc => ?_
  obtain ⟨d, -, rfl⟩ := List.mem_map.mp hc
  exact ⟨fun _ => rfl, rfl⟩

/-! Reading at a cursor (R565, R579). -/

theorem wbBytes_length (r : WbRecord) : (wbBytes r).length = 64 := by
  simp [wbBytes, leBytes_length]

theorem setSelector_frame (key v : Nat) (r : ReqId) (s : State) :
    setSelector key v r s = { s with dict := { s.dict with requesters := (setSelector key v r s).dict.requesters } } := by
  unfold setSelector
  dsimp only
  rw [putReq_frame]
  split
  · cases oldestHolder s with
    | none => rfl
    | some o =>
      dsimp only
      rw [putReq_frame]
  · rfl

/-- A selector written reads back. -/
theorem selVal_setSelector (key v : Nat) (r : ReqId) (s : State) : selVal key r (setSelector key v r s) = v := by
  unfold setSelector
  dsimp only
  rw [selVal_putReq]
  · simp
  · exact reqOf_id r _

/-- The record taken at the cursor leaves the cursor behind it. -/
theorem takeWbRecord_eq {r : ReqId} {s : State} {rec : WbRecord} {next : Nat} (h : (rec, next) = wbReadAt (selVal Ent.wbCursor r s) s) :
    takeWbRecord r s = (wbBytes rec, if next = selVal Ent.wbCursor r s then s else setSelector Ent.wbCursor next r s) := by
  simp only [takeWbRecord, ← h]

theorem takeWbRecord_frame (r : ReqId) (s : State) :
    (takeWbRecord r s).2 = { s with dict := { s.dict with requesters := (takeWbRecord r s).2.dict.requesters } } := by
  unfold takeWbRecord
  dsimp only
  split
  · rfl
  · exact setSelector_frame _ _ _ _

theorem selVal_takeWbRecord {r : ReqId} {s : State} {rec : WbRecord} {next : Nat}
    (h : (rec, next) = wbReadAt (selVal Ent.wbCursor r s) s) : selVal Ent.wbCursor r (takeWbRecord r s).2 = next := by
  rw [takeWbRecord_eq h]
  dsimp only
  split
  case isTrue heq => exact heq.symm
  case isFalse => exact selVal_setSelector _ _ _ _

/-! The clear (R581). -/

@[simp] theorem clearWaybill_cmds (who : Nat) (s : State) : (clearWaybill who s).dict.cmds = s.dict.cmds := rfl

/-- The Waybill that a clear leaves: a new generation, with the clear's own record at its kept place 0. -/
theorem clearWaybill_waybill (who : Nat) (s : State) :
    (clearWaybill who s).waybill = { s.waybill with
      kept := [{ seq := 0, time := s.now, code := 0xF001, inst := noInst, flags := 0,
                 p := [s.waybill.nextSeq, s.waybill.suppressedTotal, who, s.waybill.clearGen],
                 gen := (s.waybill.clearGen + 1) % 2 ^ 16, boot := s.recovery.boots % 2 ^ 16 }],
      circ := [], nextSeq := 1, oldestFloor := 1024, suppressedTotal := 0, codes := (clearWaybill who s).waybill.codes,
      clearGen := (s.waybill.clearGen + 1) % 2 ^ 16, lastClear := s.now, copying := some s.now } := rfl

end Sys2Proof.Machine

namespace Sys2Proof

open Sys2Proof.Machine

/-- Settles O48: each lapse is a test of one time stamp; DW_GO serves the message of the registers. -/
theorem keptAccessesLapseAndTheWindowServes : Obligations.KeptAccessesLapseAndTheWindowServes := by
  unfold Obligations.KeptAccessesLapseAndTheWindowServes
  refine ⟨?segment, ?snapshot, ?snapshotKept, ?response, ?responseKept, ?served, ?busy, ?reset⟩
  case segment =>
    intro req s x p hx hp hlapsed
    subst hx
    have hany : (reqOf req s).partials.any (fun p => decide (p.last + lapseNs ≤ s.now)) = true :=
      List.any_eq_true.mpr ⟨p, hp, by simpa using hlapsed⟩
    change execSegmentLapse req s = _
    simp only [execSegmentLapse, if_pos hany]
  case snapshot =>
    intro req s x p hx hp hlapsed
    subst hx
    change execSnapshotLapse req s = _
    simp only [execSnapshotLapse, hp, if_pos hlapsed]
  case snapshotKept =>
    intro req s x p hx hp hopen
    subst hx
    change execSnapshotLapse req s = _
    simp only [execSnapshotLapse, hp, if_neg (Nat.not_le.mpr hopen)]
  case response =>
    intro req s x k hx hk hlapsed
    subst hx
    change execKeptResponseLapse req s = _
    simp only [execKeptResponseLapse, hk, if_pos hlapsed]
  case responseKept =>
    intro req s x k hx hk hopen
    subst hx
    change execKeptResponseLapse req s = _
    simp only [execKeptResponseLapse, hk, if_neg (Nat.not_le.mpr hopen)]
  case served =>
    intro request w s hflr hbytes hoff hidle hserved
    exact ⟨_, rfl, execDwGo_served hflr hbytes hoff hidle hserved rfl⟩
  case busy =>
    intro request w s hflr hbytes hoff hbusy
    change execDwGo request w s = _
    simp [execDwGo, hflr, regWrite_whole hbytes hoff, hbusy]
  case reset =>
    intro request w s hflr
    change execDwGo request w s = _
    simp [execDwGo, hflr]

/-- Settles O49: a record is stored or suppressed by its code's count, and a cleared Waybill holds its own record. -/
theorem theWaybillStoresReadsAndClears : Obligations.TheWaybillStoresReadsAndClears := by
  unfold Obligations.TheWaybillStoresReadsAndClears
  refine ⟨?stored, ?suppressed, ?window, ?held, ?read, ?clear, ?copied⟩
  case stored =>
    intro s r rest hqueue hrestore hcode hlimit
    have hrun : exec .waybillRecordWrite s = .next (storeRecord r.num r.time r.code r.inst (if r.held then 4 else 0) r.p
        { s with waybill := { s.waybill with queue := rest } }) := by
      change execWaybillRecordWrite s = _
      rw [execWaybillRecordWrite_next hqueue hrestore, acceptRecord_within]
      exact hlimit
    refine ⟨_, _, hrun, rfl, rfl, rfl, fun hlow => ?_, fun hhigh => ?_, rfl⟩
    · simp [storeRecord, count, putWbCode, hlow, resolveParams_of_ne hcode]
    · simp [storeRecord, count, putWbCode, Nat.not_lt.mpr hhigh, resolveParams_of_ne hcode]
  case suppressed =>
    intro s r rest l hqueue hrestore hl hfull
    have hrun : exec .waybillRecordWrite s =
        .next (wbSuppress r.code r.time { s with waybill := { s.waybill with queue := rest } }) := by
      change execWaybillRecordWrite s = _
      rw [execWaybillRecordWrite_next hqueue hrestore, acceptRecord_beyond hl]
      exact hfull
    exact ⟨_, hrun, rfl, rfl, rfl, counter_count_self _ _ _⟩
  case window =>
    intro s hended hrestore
    have hrun : exec .rateWindowEnd s = .next (closeWindow (rollSat s)) := by
      change execRateWindowEnd s = _
      rw [execRateWindowEnd, if_pos ⟨hended, hrestore⟩]
    exact ⟨_, hrun, (closeWindow_second _).trans (by rw [rollSat_now]), codesClear_closeWindow _⟩
  case held =>
    intro s hrestore
    constructor
    · change execWaybillRecordWrite s = _
      unfold execWaybillRecordWrite
      cases s.waybill.queue with
      | nil => rfl
      | cons r rest => simp [hrestore]
    · change execRateWindowEnd s = _
      simp [execRateWindowEnd, hrestore]
  case read =>
    intro req s u rec next hserved hexists hu hok hrec
    subst hu
    have hrun : exec (.wbRead req) s = .next (readMessage req (wholeRead 0x2E00 7 64) (touchReq req s)) := by
      change execWbRead req s = _
      simp [execWbRead, hserved, hexists]
    have htake : takeValue req 0x2E00 7 (touchReq req s) = takeWbRecord req (touchReq req s) := by
      rw [takeValue, if_pos (by decide)]
    have hbytes : (takeWbRecord req (touchReq req s)).1 = wbBytes rec := by rw [takeWbRecord_eq hrec]
    rw [readMessage_whole rfl hok] at hrun
    simp only [wholeRead, htake, hbytes, wbBytes_length] at hrun
    refine ⟨_, hrun, ?_, ?_, ?_⟩
    · rw [selVal_respond, selVal_putReq]
      · exact selVal_takeWbRecord hrec
      · exact reqOf_id _ _
    · have htaken := takeWbRecord_frame req (touchReq req s)
      rw [respond_responses, carried_congr (s := s) (by rw [putReq_security, htaken, touchReq_security])]
      rw [putReq_responses, htaken]
      simp [wholeRead, List.take_of_length_le, wbBytes_length]
    · rw [respond_frame, putReq_frame, takeWbRecord_frame, touchReq_frame]
  case clear =>
    intro req value s hacc
    have hrun : exec (.wbClear req value) s = .next (clearWaybill (whoId req) (actionStart req 0x2E00 8 s)) :=
      congrArg Host.Outcome.next (cmdVia_accepted hacc)
    refine ⟨_, hrun, runs_of_cmds rfl (clearWaybill_cmds _ _), ?_⟩
    rw [clearWaybill_waybill, actionStart_frame]
    exact ⟨rfl, rfl, rfl, rfl, rfl, rfl, rfl⟩
  case copied =>
    intro s at_ hcopying
    have hrun : exec .wbClearCopyDone s =
        .next (endCmd Ent.wbClear stOk 0 { s with waybill := { s.waybill with copying := none } }) := by
      change execWbClearCopyDone s = _
      simp only [execWbClearCopyDone, hcopying]
    refine ⟨_, hrun, ?_, ?_, rfl⟩ <;> rw [cmdOf_endCmd] <;> rfl

end Sys2Proof
end

section
/-! SUPPORT. Operating points, the power cap, sensors and trips (R507, R514 to R518, R591). -/

namespace Sys2Proof.Machine

open Sys2Proof

/-! Operating points (R507). -/

theorem moveOpPoint_faster {s : State} (hstill : moving s = false) (h : ent Ent.opMin s < s.power.opPoint) :
    moveOpPoint true s = count Cnt.opChanges 1 (setOpPoint (s.power.opPoint - 1) s) := by
  simp [moveOpPoint, hstill, h]

theorem moveOpPoint_slower {s : State} (hstill : moving s = false) (h : s.power.opPoint < 3) :
    moveOpPoint false s = count Cnt.opChanges 1 (setOpPoint (s.power.opPoint + 1) s) := by
  simp [moveOpPoint, hstill, h]

theorem moveOpPoint_moving {s : State} (hmoves : moving s = true) (faster : Bool) : moveOpPoint faster s = s := by
  simp [moveOpPoint, hmoves]

theorem moveOpPoint_fastest {s : State} (h : s.power.opPoint ≤ ent Ent.opMin s) : moveOpPoint true s = s := by
  unfold moveOpPoint
  dsimp only
  split
  · rfl
  · rw [if_pos rfl, if_neg (Nat.not_lt.mpr h)]

/-- A move changes the operating point, its clock and a counter only. -/
theorem moveOpPoint_frame (faster : Bool) (s : State) :
    moveOpPoint faster s = { s with
      power := { s.power with opPoint := (moveOpPoint faster s).power.opPoint, moveUntil := (moveOpPoint faster s).power.moveUntil,
                              clockMoves := (moveOpPoint faster s).power.clockMoves },
      dict := { s.dict with counters := (moveOpPoint faster s).dict.counters } } := by
  unfold moveOpPoint
  dsimp only
  (repeat' split) <;> rfl

/-! The power cap (R514, R515). -/

/-- Following a limit that lasts changes the operating point, its marks and a counter only. -/
theorem capPoint_frame (demand : Nat) (s : State) :
    capPoint demand s = { s with
      power := { s.power with
        opPoint := (capPoint demand s).power.opPoint, moveUntil := (capPoint demand s).power.moveUntil,
        clockMoves := (capPoint demand s).power.clockMoves, throttleSince := (capPoint demand s).power.throttleSince,
        lowSince := (capPoint demand s).power.lowSince },
      dict := { s.dict with counters := (capPoint demand s).dict.counters } } := by
  unfold capPoint
  dsimp only
  generalize (if decide (demand * 100 < s.power.cap * 85) then _ else _ : Option Nat) = low
  split
  · rw [moveOpPoint_frame]
  · split
    · rw [moveOpPoint_frame]
    · rfl

theorem settleCap_none {s : State} (h : s.power.capNext = none) : settleCap s = s := by
  simp [settleCap, h]

theorem throttleStep_over {watts : Nat} {s : State} (hover : s.power.cap * 97 < watts * 100) (h : s.power.throttle < 16) :
    (throttleStep watts s).power.throttle = s.power.throttle + 1 := by
  have hmin : Nat.min 16 (s.power.throttle + 1) = s.power.throttle + 1 := Nat.min_eq_right h
  simp [throttleStep, count, hover, hmin]

/-- Limiting issue changes the throttle and a counter only. -/
theorem throttleStep_frame (watts : Nat) (s : State) :
    throttleStep watts s = { s with
      power := { s.power with throttle := (throttleStep watts s).power.throttle,
                              throttleSince := (throttleStep watts s).power.throttleSince },
      dict := { s.dict with counters := (throttleStep watts s).dict.counters } } := rfl

/-! Sensors and the alarm (R517). -/

/-- Throttling a hot module leaves its sensors' values, the alarm, the dictionary's values and the straps. -/
theorem throttleHot_frame (s : State) :
    (throttleHot s).power.temps = s.power.temps ∧ (throttleHot s).power.alarm = s.power.alarm ∧
      (throttleHot s).dict.values = s.dict.values ∧ (throttleHot s).pins = s.pins := by
  unfold throttleHot
  dsimp only
  generalize List.filter _ (List.range s.power.temps.length) = hot
  split
  · exact ⟨rfl, rfl, rfl, rfl⟩
  · split
    · rw [moveOpPoint_frame]
      exact ⟨rfl, rfl, rfl, rfl⟩
    · exact ⟨rfl, rfl, rfl, rfl⟩

theorem raiseVector_eventCause (q : Option Nat) (v : Nat) (s : State) :
    (raiseVector q v s).hostif.eventCause = s.hostif.eventCause := by
  unfold raiseVector sendMsix
  (repeat' split) <;> rfl

theorem raiseEvent_eventCause {bit : Nat} (h : bit < 64) (s : State) : (raiseEvent bit s).hostif.eventCause.getLsbD bit = true := by
  unfold raiseEvent
  split
  · assumption
  · rw [raiseVector_eventCause]
    simp [h]

@[simp] theorem raiseEvent_power (bit : Nat) (s : State) : (raiseEvent bit s).power = s.power := by rw [raiseEvent_frame]

/-- The alarm is asserted, with its event, where a sensor stands above ALARM_C. -/
theorem alarmStep_asserts {s : State} {i : Nat} (hi : i < s.power.temps.length)
    (hhot : sensorLimit i (ent Ent.alarmC s) < s.power.temps.getD i 0) (hoff : s.power.alarm = false) :
    ∃ u : State, alarmStep s = raiseEvent 4 u ∧ u.power = { s.power with alarm := true } := by
  have hmem : i ∈ sensorsOver (ent Ent.alarmC s) s.power.temps :=
    List.mem_filter.mpr ⟨List.mem_range.mpr hi, by simpa using hhot⟩
  unfold alarmStep
  dsimp only
  cases hover : sensorsOver (ent Ent.alarmC s) s.power.temps with
  | nil =>
    rw [hover] at hmem
    exact absurd hmem List.not_mem_nil
  | cons j js =>
    refine ⟨_, if_neg (by simp [hoff]), ?_⟩
    unfold count
    rw [wbSubmit_frame]

/-! Trips (R518, R591). -/

/-- The state at a trip: recorded, the job ended, every domain but AON lost. -/
def tripped (cause hottest : Nat) (s : State) : State :=
  loseDomains (if (wbSubmit 0xD002 noInst [cause, hottest] s).job.state = jobNone then wbSubmit 0xD002 noInst [cause, hottest] s
    else setJobState jobNone (wbSubmit 0xD002 noInst [cause, hottest] s))

theorem trip_taken (cause : Nat) {s : State} (hnot : s.power.tripped = false) (hgood : s.recovery.powerGood = true) :
    ∃ hottest, trip cause s = { tripped cause hottest s with power := { (tripped cause hottest s).power with
      tripped := true, tripCause := cause, tripOut := cause != 3 } } := by
  refine ⟨unsigned 64 (s.power.temps.foldl (fun a b => if a < b then b else a) (s.power.temps.getD 0 0)), ?_⟩
  unfold trip
  rw [if_neg (by simp [hnot, hgood])]
  rfl

theorem tripped_jobState (cause hottest : Nat) (s : State) : (tripped cause hottest s).job.state = jobNone := by
  unfold tripped
  split
  case isTrue h => exact h
  case isFalse => exact congrArg Job.state (setJobState_job jobNone _)

@[simp] theorem setJobState_dict_cmds (n : Nat) (s : State) : (setJobState n s).dict.cmds = s.dict.cmds := wbSubmit_cmds _ _ _ _

theorem tripped_cmds (cause hottest : Nat) (s : State) : (tripped cause hottest s).dict.cmds = s.dict.cmds := by
  unfold tripped loseDomains
  split <;> simp

theorem tripped_now (cause hottest : Nat) (s : State) : (tripped cause hottest s).now = s.now := by
  unfold tripped loseDomains
  split <;> simp

/-- Every domain but AON is off, and both memory tiers and core SRAM are lost. -/
theorem tripped_off (cause hottest : Nat) (s : State) :
    (tripped cause hottest s).power.mainOn = false ∧ (tripped cause hottest s).power.netOn = false ∧
      (tripped cause hottest s).mem.dram = [] ∧ (tripped cause hottest s).mem.sram = [] := ⟨rfl, rfl, rfl, rfl⟩

end Sys2Proof.Machine

namespace Sys2Proof

open Sys2Proof.Machine

/-- Settles O57: one step of the operating point at a time, the cap's throttle, the alarm, and the trips. -/
theorem powerAndTemperatureAreHeld : Obligations.PowerAndTemperatureAreHeld := by
  unfold Obligations.PowerAndTemperatureAreHeld
  refine ⟨?faster, ?moving, ?slower, ?fastest, ?projection, ?newCap, ?sensors, ?hot, ?off, ?pin, ?pulse⟩
  case faster =>
    intro s hstill h
    exact congrArg Host.Outcome.next (moveOpPoint_faster hstill h)
  case moving =>
    intro s faster hmoves
    exact congrArg Host.Outcome.next (moveOpPoint_moving hmoves faster)
  case slower =>
    intro s hstill h
    exact congrArg Host.Outcome.next (moveOpPoint_slower hstill h)
  case fastest =>
    intro s h
    exact congrArg Host.Outcome.next (moveOpPoint_fastest h)
  case projection =>
    intro watts demand s _ hcap hover hthrottle
    refine ⟨_, rfl, ?_⟩
    rw [settleCap_none hcap, capPoint_frame]
    exact ⟨throttleStep_over hover hthrottle, rfl, rfl, rfl, rfl, rfl⟩
  case newCap =>
    intro req value s hvalue hacc
    have hrun : exec (.powerCapWrite req value) s = .next (powerCapAction req (leBytes 2 value) (writeStart req 0x2C00 0x01 s)) :=
      congrArg Host.Outcome.next (writeVia_accepted hacc)
    have hback : ofLe (leBytes 2 value) = value := by rw [ofLe_leBytes]; exact Nat.mod_eq_of_lt hvalue
    refine ⟨_, hrun, ?_, ?_, ?_⟩
    · rw [powerCapAction, ent_setEnt_self, hback]
      exact Nat.mod_eq_of_lt hvalue
    · simp only [powerCapAction, setEnt, hback, writeStart_now]
    · simp only [powerCapAction, setEnt]
      rw [writeStart_frame]
  case sensors =>
    intro temps s i hlen hi hhot hoff
    obtain ⟨htemps, halarm, hvalues, hpins⟩ :=
      throttleHot_frame (readInputMv { s with power := { s.power with temps := temps } })
    have hrun : exec (.sensorSample temps) s =
        .next (alarmStep (throttleHot (readInputMv { s with power := { s.power with temps := temps } }))) := by
      change execSensorSample temps s = _
      rw [execSensorSample, if_pos hlen]
    have hent := ent_congr (s := s) hvalues hpins Ent.alarmC
    obtain ⟨u, hu, hpower⟩ := alarmStep_asserts (i := i) (by rw [htemps]; exact hlen.symm ▸ hi) (by rw [hent, htemps]; exact hhot)
      (halarm.trans hoff)
    refine ⟨_, hrun, ?_, ?_, ?_⟩
    · rw [hu, raiseEvent_power, hpower]
      exact htemps
    · rw [hu, raiseEvent_power, hpower]
    · rw [hu]
      exact raiseEvent_eventCause (by decide) u
  case hot =>
    intro s i hi hhot hnot hgood
    have hany : (List.range 31).any (fun i => decide (sensorLimit i 115 ≤ s.power.temps.getD i 0)) = true :=
      List.any_eq_true.mpr ⟨i, List.mem_range.mpr hi, by simpa using hhot⟩
    have hrun : exec .thermalTrip s = .next (trip 1 s) := by
      change execThermalTrip s = _
      rw [execThermalTrip, if_pos hany]
    obtain ⟨hottest, htrip⟩ := trip_taken 1 hnot hgood
    obtain ⟨hmain, hnet, hdram, hsram⟩ := tripped_off 1 hottest s
    rw [htrip] at hrun
    exact ⟨_, hrun, rfl, rfl, rfl, tripped_jobState 1 hottest s, hmain, hnet, hdram, hsram⟩
  case off =>
    intro req value s hacc hnot hgood
    have hrun : exec (.powerOff req value) s = .next (trip 3 (endCmd Ent.powerOff stOk 0 (actionStart req 0x2C00 0x10 s))) :=
      congrArg Host.Outcome.next (cmdVia_accepted hacc)
    have hframe := actionStart_frame req 0x2C00 0x10 s
    obtain ⟨hottest, htrip⟩ := trip_taken 3 (s := endCmd Ent.powerOff stOk 0 (actionStart req 0x2C00 0x10 s))
      (by rw [hframe]; exact hnot) (by rw [hframe]; exact hgood)
    obtain ⟨-, -, hdram, -⟩ := tripped_off 3 hottest (endCmd Ent.powerOff stOk 0 (actionStart req 0x2C00 0x10 s))
    rw [htrip] at hrun
    refine ⟨_, hrun, ?_, rfl, rfl, rfl, tripped_jobState 3 hottest _, hdram⟩
    have hended : EndedOk Ent.powerOff req s (endCmd Ent.powerOff stOk 0 (actionStart req 0x2C00 0x10 s)) :=
      endedOk_endCmd rfl rfl (actionStart_now req 0x2C00 0x10 s)
    unfold EndedOk cmdOf at hended ⊢
    rw [← hended]
    exact congrArg (fun c => (alGet c Ent.powerOff).getD _) (tripped_cmds 3 hottest _)
  case pin =>
    intro ns s h
    change execThermTripInN ns s = _
    rw [execThermTripInN, if_pos h]
  case pulse =>
    intro ns s h
    change execThermTripInN ns s = _
    rw [execThermTripInN, if_neg (by omega), if_pos h]

end Sys2Proof
end

section
/-! SUPPORT. Cold resets, start-up and job faults (R518, R526 to R534, R574, R587, R591). -/

namespace Sys2Proof.Machine

open Sys2Proof

/-- A part of the state that no single element changes is not changed by a fold: `put t s` is s with the other parts of t. -/
theorem foldl_frame {α : Type} (put : State → State → State) (hself : ∀ s, put s s = s)
    (hput : ∀ x y s, put x (put y s) = put x s) (f : State → α → State) (h : ∀ s a, f s a = put (f s a) s) (l : List α) (s : State) :
    l.foldl f s = put (l.foldl f s) s := by
  induction l generalizing s with
  | nil => exact (hself s).symm
  | cons a l ih =>
    rw [List.foldl_cons]
    calc l.foldl f (f s a) = put (l.foldl f (f s a)) (f s a) := ih (f s a)
      _ = put (l.foldl f (f s a)) (put (f s a) s) := by rw [← h s a]
      _ = put (l.foldl f (f s a)) s := hput _ _ _

/-- Bindings switched off change the Waybill and the dictionary only. -/
theorem bindingsOff_frame (s : State) :
    bindingsOff s = { s with waybill := (bindingsOff s).waybill, dict := (bindingsOff s).dict } := by
  unfold bindingsOff
  refine foldl_frame (fun t s => { s with waybill := t.waybill, dict := t.dict }) (fun _ => rfl) (fun _ _ _ => rfl) _
    (fun s b => ?_) _ _
  split
  · rfl
  · rw [wbSubmit_frame, setEnt]

theorem setJobState_frame (n : Nat) (s : State) :
    setJobState n s = { s with waybill := (setJobState n s).waybill, dict := (setJobState n s).dict,
                               job := { s.job with state := n } } := by
  unfold setJobState
  rw [wbSubmit_frame]

/-! Cold resets (R518, R526, R527). -/

/-- A cold reset loses what every restart loses, from a state that differs from the present one in records, the dictionary and
the job; its cause is RESET_CAUSE. -/
theorem coldReset_taken (cause : Nat) {s : State} (hgood : s.recovery.powerGood = true) (hnot : s.power.tripped = false) :
    ∃ u : State, coldReset cause s = { loseAon u with recovery := { (loseAon u).recovery with cause := cause } } ∧
      u = { s with waybill := u.waybill, dict := u.dict, job := u.job } := by
  unfold coldReset
  rw [if_neg (by simp [hgood]), if_neg (by simp [hnot])]
  refine ⟨_, rfl, ?_⟩
  have hoff : bindingsOff (wbSubmit 0xE003 noInst [cause] s) = { s with
      waybill := (bindingsOff (wbSubmit 0xE003 noInst [cause] s)).waybill,
      dict := (bindingsOff (wbSubmit 0xE003 noInst [cause] s)).dict } := by
    rw [bindingsOff_frame, wbSubmit_frame]
  generalize bindingsOff (wbSubmit 0xE003 noInst [cause] s) = v at hoff ⊢
  have hservice : (if ent Ent.svcEnable v = 0 then v else wbSubmit 0x1001 noInst [0] v) = { s with
      waybill := (if ent Ent.svcEnable v = 0 then v else wbSubmit 0x1001 noInst [0] v).waybill,
      dict := (if ent Ent.svcEnable v = 0 then v else wbSubmit 0x1001 noInst [0] v).dict } := by
    split
    · exact hoff
    · rw [wbSubmit_frame, hoff]
  generalize (if ent Ent.svcEnable v = 0 then v else wbSubmit 0x1001 noInst [0] v) = w at hservice ⊢
  split
  · rw [hservice]
  · rw [setJobState_frame, hservice]

/-- What a cold reset leaves of the machine (Table 20.1). -/
def ColdStarted (cause : Nat) (s t : State) : Prop :=
  t.recovery.cause = cause ∧ t.recovery.bootStage = 0 ∧ t.recovery.bootAt = s.now ∧
    t.recovery.boots = s.recovery.boots + 1 ∧ t.job.state = jobNone ∧ t.power.mainOn = false ∧ t.power.netOn = false ∧
    t.mem.dram = [] ∧ t.mem.sram = [] ∧ t.service.keySlots = [] ∧ t.security.owners = [] ∧
    t.security.rollback = s.security.rollback ∧ t.mem.remaps = s.mem.remaps ∧ t.recovery.running = s.recovery.next

theorem coldReset_starts (cause : Nat) {s : State} (hgood : s.recovery.powerGood = true) (hnot : s.power.tripped = false) :
    ColdStarted cause s (coldReset cause s) := by
  obtain ⟨u, hrun, hu⟩ := coldReset_taken cause hgood hnot
  rw [hrun, hu]
  exact ⟨rfl, rfl, rfl, rfl, rfl, rfl, rfl, rfl, rfl, rfl, rfl, rfl, rfl, rfl⟩

theorem coldReset_held (cause : Nat) {s : State} (hgood : s.recovery.powerGood = true) (htripped : s.power.tripped = true)
    (hhot : tooHot s = true) : coldReset cause s = { s with recovery := { s.recovery with heldReset := some cause } } := by
  simp [coldReset, hgood, htripped, hhot]

/-! Start-up (R528, R539). -/

theorem execStartUp_steps {s : State} (hgood : s.recovery.powerGood = true) (hheld : s.recovery.heldReset = none)
    (hstarting : starting s = true) (hreset : s.pins.modResetN = true) (href : s.pins.refPresent = true)
    (himage : fallbackImage s = none) : execStartUp s = .next (bootStep (s.recovery.bootStage + 1) s) := by
  simp [execStartUp, hgood, hheld, hstarting, hreset, href, himage]

theorem noteBankRefused_recovery (x : Nat) (s : State) : (noteBankRefused x s).recovery = s.recovery := by
  unfold noteBankRefused noteRefused count
  rw [wbSubmit_frame]

/-! Job faults (R530, R532). -/

theorem execJobFault_restarts {s : State} {f : FaultInfo} (hfault : s.recovery.fault = some f) (hstate : s.job.state = jobRestarting)
    (hclock : s.power.refClockOk = true) (hsince : s.power.refSince = 0) : execJobFault s = .next (restartJob 64 f s) := by
  simp [execJobFault, hfault, hstate, referenceReady, hclock, hsince]

theorem restartJob_limit (n : Nat) (f : FaultInfo) {s : State} (h : ent Ent.restartLimit s ≤ s.recovery.begun.length) :
    restartJob (n + 1) f s = endJobNow (wbSubmit 0xE005 noInst [s.recovery.begun.length] s) := by
  rw [restartJob, restartFor, if_pos h]

theorem raiseEvent_counter (key bit : Nat) (s : State) : counter key (raiseEvent bit s) = counter key s := by
  rw [raiseEvent_frame]
  rfl

theorem counter_setJobState {key : Nat} (h : key ≠ Cnt.recordsSuppressed) (n : Nat) (s : State) :
    counter key (setJobState n s) = counter key s := counter_wbSubmit h _ _ _ _

/-- A job fault of a running job: the job waits for its restart, and the fault is noted, counted and an event. -/
theorem raiseJobFault_running (code detail : Nat) {s : State} (hstate : s.job.state = jobRunning) :
    ∃ u : State, raiseJobFault code detail s = raiseEvent 0 u ∧ u.job.state = jobRestarting ∧
      u.recovery = { s.recovery with fault := some { time := s.now, code := code },
                                     begun := s.now :: s.recovery.begun.filter (fun t => s.now < t + 1000000000) } ∧
      u.mem = s.mem ∧ counter Cnt.jobFaults u = (counter Cnt.jobFaults s + 1) % 2 ^ 64 := by
  unfold raiseJobFault raiseJobFaultOf
  generalize (if code = 0xE001 then 0 else s.waybill.submitted) = cause
  generalize hv : count Cnt.jobFaults 1 (wbSubmit 0xE001 noInst [code, cause, detail] s) = v
  have hframe : v.job = s.job ∧ v.recovery = s.recovery ∧ v.mem = s.mem ∧ v.now = s.now := by
    rw [← hv, wbSubmit_frame]
    exact ⟨rfl, rfl, rfl, rfl⟩
  have hcount : counter Cnt.jobFaults v = (counter Cnt.jobFaults s + 1) % 2 ^ 64 := by
    rw [← hv, counter_count_self, counter_wbSubmit (by decide)]
  obtain ⟨hjob, hrecovery, hmem, hnow⟩ := hframe
  have hrunning : v.job.state = jobRunning := by rw [hjob, hstate]
  rw [if_pos (Or.inl hrunning), if_pos hrunning]
  refine ⟨_, rfl, ?_, ?_, ?_, ?_⟩
  · simp
  · rw [← hrecovery, ← hnow, setJobState_frame]
  · rw [← hmem]
    simp
  · exact (counter_setJobState (by decide) _ _).trans hcount

end Sys2Proof.Machine

namespace Sys2Proof

open Sys2Proof.Machine

/-- Settles O59: each kind of restart from the state in which it is asked for. -/
theorem resetsAndJobFaultsRestart : Obligations.ResetsAndJobFaultsRestart := by
  unfold Obligations.ResetsAndJobFaultsRestart
  refine ⟨?cold, ?pulse, ?held, ?boot, ?identity, ?fallback, ?fault, ?limit, ?ended, ?raised, ?wedge, ?powerLoss⟩
  case cold =>
    intro s i c req value hgood hnot hi
    obtain ⟨rfl, rfl⟩ | ⟨hhub, rfl, rfl⟩ | ⟨hacc, rfl, rfl⟩ := hi
    · exact ⟨_, rfl, coldReset_starts 1 hgood hnot⟩
    · have hrun : exec .watchdogExpiry s = .next (coldReset 3 s) := by
        change execWatchdogExpiry s = _
        rw [execWatchdogExpiry, if_pos hhub]
      exact ⟨_, hrun, coldReset_starts 3 hgood hnot⟩
    · have hrun : exec (.coldReset req value) s = .next (coldReset 2 (endCmd Ent.coldReset stOk 0 (actionStart req 0x2D00 0x01 s))) :=
        congrArg Host.Outcome.next (cmdVia_accepted hacc)
      have hframe : endCmd Ent.coldReset stOk 0 (actionStart req 0x2D00 0x01 s) =
          { s with dict := (endCmd Ent.coldReset stOk 0 (actionStart req 0x2D00 0x01 s)).dict } := by
        rw [actionStart_frame]
        rfl
      rw [hframe] at hrun
      exact ⟨_, hrun, coldReset_starts 2 hgood hnot⟩
  case pulse =>
    intro ns s h
    change execModResetN ns s = _
    rw [execModResetN, if_neg (by omega)]
  case held =>
    intro s hgood htripped hhot
    exact congrArg Host.Outcome.next (coldReset_held 1 hgood htripped hhot)
  case boot =>
    intro s hgood hheld hstarting hreset href himage
    exact execStartUp_steps hgood hheld hstarting hreset href himage
  case identity =>
    intro s hgood hheld hstarting hreset href hstage
    have himage : fallbackImage s = none := by
      simp [fallbackImage, stepImage, hstage]
    have hrun := execStartUp_steps hgood hheld hstarting hreset href himage
    rw [hstage] at hrun
    have hstep : starting (bootEffect 3 s) = true := hstarting
    rw [bootStep] at hrun
    simp only [hstep, if_true] at hrun
    exact ⟨_, hrun, rfl, rfl⟩
  case fallback =>
    intro s x hstarting himage
    change execFirmwareFallback s = _
    simp only [execFirmwareFallback, hstarting, himage, Option.isNone_some, Bool.true_eq_false, Bool.false_eq_true, false_and,
      or_self, if_false, noteBankRefused_recovery]
  case fault =>
    intro s f hfault hstate hclock hsince hlimit
    have hrun : exec .jobFault s = .next (restartJob 64 f s) := execJobFault_restarts hfault hstate hclock hsince
    rw [restartJob, restartFor, if_neg (Nat.not_le.mpr hlimit)] at hrun
    refine ⟨fun hnone => ?_, fun g hsome => ?_⟩
    · rw [hrun, hnone]
    · rw [hrun, hsome]
  case limit =>
    intro n f s hlimit
    exact restartJob_limit n f hlimit
  case ended =>
    intro s f hfault hstate hclock hsince hlimit
    exact (execJobFault_restarts hfault hstate hclock hsince).trans (congrArg Host.Outcome.next (restartJob_limit 63 f hlimit))
  case raised =>
    intro code detail s hstate
    obtain ⟨u, hu, hjob, hrecovery, hmem, hcount⟩ := raiseJobFault_running code detail hstate
    refine ⟨_, rfl, ?_⟩
    rw [hu, raiseEvent_counter]
    refine ⟨?_, ?_, raiseEvent_eventCause (by decide) u, ?_, hcount⟩ <;> rw [raiseEvent_frame]
    · exact hjob
    · exact congrArg Reset.fault hrecovery
    · exact congrArg Mem.dram hmem
  case wedge =>
    intro s hpostilion hhub hstate
    obtain ⟨u, hu, hjob, hrecovery, -, -⟩ := raiseJobFault_running 0xE001 (faultDetail 6 noInst 0 0 0)
      (s := { s with recovery := { s.recovery with postilionWedged := true } }) hstate
    have hrun : exec .postilionWedge s = .next (raiseEvent 0 u) := by
      change execPostilionWedge s = _
      rw [execPostilionWedge, if_pos ⟨hpostilion, hhub⟩, jobFaultPlain, hu]
    refine ⟨_, hrun, ?_, ?_⟩ <;> rw [raiseEvent_frame]
    · exact congrArg Reset.postilionWedged hrecovery
    · exact hjob
  case powerLoss =>
    intro s hgood
    have hrun : exec .inputPowerLoss s = execInputPowerLoss s := rfl
    rw [execInputPowerLoss, if_neg (by simp [hgood])] at hrun
    exact ⟨_, hrun, rfl, rfl, rfl, rfl, rfl, rfl, rfl, rfl⟩

end Sys2Proof
end

section
/-! SUPPORT. The root of trust's commands: measurement, rollback counters, the wipe of keys and zeroisation (R485 to R503). -/

namespace Sys2Proof.Machine

open Sys2Proof

/-! Quotes and measurements (R485, R486, R492). -/

theorem makeQuote_congr {s t : State} (hframe : t = { s with dict := t.dict }) (nonce : List Byte) :
    makeQuote nonce t = makeQuote nonce s := by
  rw [hframe]
  rfl

/-- A measurement extends its slot and is logged, while the log has room. -/
theorem measure_logged {i : Nat} {s : State} (hslot : i < s.security.ms.length) (hroom : s.security.log.length < 4096) (event : Nat)
    (d : BitVec 256) :
    (measure i event d s).security.ms.getD i 0 = shake256 (digestBytes (s.security.ms.getD i 0) ++ digestBytes d) ∧
      (∀ k, k ≠ i → (measure i event d s).security.ms.getD k 0 = s.security.ms.getD k 0) ∧
      (measure i event d s).security.log = s.security.log ++ [{ slot := i, event := event, time := s.now, digest := d }] := by
  have hlog : (extendSlot i d s).security.log.length < 4096 := hroom
  unfold measure
  simp only [if_pos hlog]
  refine ⟨?_, fun k hk => ?_, rfl⟩
  · exact (updAt_getD _ _ _ _ _ hslot).trans (if_pos rfl)
  · exact (updAt_getD _ _ _ _ _ hslot).trans (if_neg hk)

theorem measure_frame (i event : Nat) (d : BitVec 256) (s : State) :
    measure i event d s = { s with security := (measure i event d s).security } := by
  unfold measure
  dsimp only
  split <;> rfl

/-! Rollback counters (R489). -/

theorem lowCounter_congr {s t : State} (hsecurity : t.security.rollback = s.security.rollback) (hrecovery : t.recovery = s.recovery) :
    lowCounter t = lowCounter s := by
  unfold lowCounter
  rw [hsecurity, hrecovery]

theorem commitOn_ends {s : State} (h : lowCounter s = none) (at_ : Nat) :
    commitOn at_ s = endCmd Ent.rollbackCommit stOk 0 { s with security := { s.security with committing := none } } := by
  simp [commitOn, h]

theorem commitOn_goes_on {s : State} (h : lowCounter s ≠ none) (at_ : Nat) :
    commitOn at_ s = { s with security := { s.security with committing := some (at_ + 20000) } } := by
  simp [commitOn, Option.isSome_iff_ne_none.mpr h]

theorem commitOn_rollback (at_ : Nat) (s : State) : (commitOn at_ s).security.rollback = s.security.rollback := by
  unfold commitOn
  split <;> rfl

theorem blowFuse_due {s : State} {t k : Nat} (hcommit : s.security.committing = some t) (hdue : t ≤ s.now)
    (hlow : lowCounter s = some k) :
    blowFuse s = commitOn t { s with security := { s.security with rollback := updAt s.security.rollback k (· + 1) } } := by
  simp [blowFuse, hcommit, hlow, Nat.not_lt.mpr hdue]

theorem lowCounter_below {s : State} {k : Nat} (h : lowCounter s = some k) : k < s.security.rollback.length ∧
    ∃ i, s.recovery.runImages.getD k none = some i ∧ s.security.rollback.getD k 0 < i.svn := by
  unfold lowCounter at h
  refine ⟨List.mem_range.mp (List.mem_of_find?_eq_some h), ?_⟩
  have hany := List.find?_some h
  rw [Option.any_eq_true] at hany
  obtain ⟨i, hi, hlow⟩ := hany
  exact ⟨i, hi, of_decide_eq_true hlow⟩

/-! What the wipe of a job leaves of the command entries and of the owner sessions (R503). -/

/-- The status of every command entry, and the owner sessions. -/
def ownersView (s : State) : List (Nat × CmdStatus) × List OwnerSession := (s.dict.cmds, s.security.owners)

@[simp] theorem ownersView_mk (a1 a2 a3 a4 a5 a6 a7 a8 a9 a10 a11 a12 a13 a14 a15 a16 a17 a18 a19 a20 a21 a22 a23 a24 a25 a26 a27) :
    ownersView (State.mk a1 a2 a3 a4 a5 a6 a7 a8 a9 a10 a11 a12 a13 a14 a15 a16 a17 a18 a19 a20 a21 a22 a23 a24 a25 a26 a27) =
      (a22.cmds, a19.owners) := (rfl)

@[simp] theorem ownersView_eta (s : State) : (s.dict.cmds, s.security.owners) = ownersView s := (rfl)

@[simp] theorem ownersView_count (key n : Nat) (s : State) : ownersView (count key n s) = ownersView s := (rfl)
@[simp] theorem ownersView_setPte (page : Nat) (e : BitVec 32) (s : State) : ownersView (setPte page e s) = ownersView s := (rfl)
@[simp] theorem ownersView_invalidatePage (page : Nat) (s : State) : ownersView (invalidatePage page s) = ownersView s := (rfl)
@[simp] theorem ownersView_updContext (k : Nat) (f : Ctx → Ctx) (s : State) : ownersView (updContext k f s) = ownersView s := (rfl)

@[simp] theorem ownersView_wbSubmit (code inst : Nat) (p : List Nat) (s : State) : ownersView (wbSubmit code inst p s) = ownersView s := by
  unfold ownersView
  rw [wbSubmit_cmds, wbSubmit_security]

@[simp] theorem ownersView_setJobState (n : Nat) (s : State) : ownersView (setJobState n s) = ownersView s :=
  ownersView_wbSubmit _ _ _ _

theorem ownersView_damageVersion (page : Nat) (s : State) : ownersView (damageVersion page s) = ownersView s := by
  unfold damageVersion
  split <;> rfl

@[simp] theorem ownersView_losePage (page : Nat) (s : State) : ownersView (losePage page s) = ownersView s := by
  unfold losePage
  dsimp only
  split
  · rfl
  · repeat' split
    · rfl
    · rfl
    · rfl
    · exact ownersView_damageVersion page s

theorem ownersView_takeFrame {r f : Nat} {s t : State} (h : takeFrame r s = some (f, t)) : ownersView t = ownersView s := by
  unfold takeFrame at h
  dsimp only at h
  split at h
  · cases h
    rfl
  · split at h
    · cases h
      rfl
    · cases h

theorem ownersView_retireFrame (r f : Nat) (s : State) : ownersView (retireFrame r f s) = ownersView s := by
  unfold retireFrame
  split
  · simp
  · dsimp only
    generalize hu : count Cnt.framesRetired 1 _ = u
    have hview : ownersView u = ownersView s := by
      rw [← hu]
      simp
    split
    · exact hview
    · split
      · split
        next htake => simp [ownersView_takeFrame htake, hview]
        next => simp [hview]
      · split <;> simp [hview]

theorem ownersView_journalRow (mpa : Nat) (s : State) : ownersView (journalRow mpa s) = ownersView s := by
  unfold journalRow
  dsimp only
  (repeat' split)
  · rfl
  · exact ownersView_wbSubmit 0x8007 noInst _ s
  · rfl

theorem ownersView_keepFor (mpa f : Nat) (s : State) : ownersView (keepFor mpa f s) = ownersView s := by
  unfold keepFor
  dsimp only
  split <;> rfl

theorem ownersView_retireRow (mpa source : Nat) (s : State) : ownersView (retireRow mpa source s) = ownersView s := by
  unfold retireRow
  refine (foldl_view ownersView _ (fun s page => ownersView_wbSubmit _ _ _ s) _ _).trans ?_
  rw [ownersView_journalRow]
  exact foldl_view ownersView _ (fun s f => by rw [ownersView_keepFor, ownersView_retireFrame]) _ s

theorem ownersView_remapRow (mpa source counter_ : Nat) (s : State) : ownersView (remapRow mpa source counter_ s) = ownersView s := by
  unfold remapRow
  dsimp only
  split
  · exact (ownersView_journalRow _ _).trans (ownersView_wbSubmit _ _ _ s)
  · exact ownersView_wbSubmit _ _ _ s

theorem ownersView_zeroRow (mpa : Nat) (s : State) : ownersView (zeroRow mpa s) = ownersView s := by
  unfold zeroRow
  refine foldl_view ownersView _ (fun s g => ?_) _ s
  dsimp only
  split
  · exact foldl_view ownersView (fun s p => invalidatePage p (setPte p 0 s)) (fun _ _ => rfl) _ _
  · rfl

theorem ownersView_settleRow (mpa source : Nat) (s : State) : ownersView (settleRow mpa source s) = ownersView s := by
  have hpages (pages : List Nat) :
      ownersView (pages.foldl (fun s p => damageVersion p s) (dropAsk mpa s)) = ownersView s :=
    foldl_view ownersView _ (fun s p => ownersView_damageVersion p s) _ _
  unfold settleRow
  dsimp only
  rw [ownersView_zeroRow]
  split
  · rw [ownersView_remapRow, hpages]
  · rw [ownersView_retireRow, hpages]

theorem ownersView_settleRows (s : State) : ownersView (settleRows s) = ownersView s :=
  foldl_view ownersView (fun s (m : Nat × Nat) => settleRow m.1 m.2 s) (fun s m => ownersView_settleRow m.1 m.2 s) _ _

theorem ownersView_bindingsOff (s : State) : ownersView (bindingsOff s) = ownersView s := by
  unfold bindingsOff
  refine foldl_view ownersView _ (fun s b => ?_) _ s
  split
  · rfl
  · exact ownersView_wbSubmit _ _ _ _

theorem ownersView_svcEnableAction (req : ReqId) (bytes : List Byte) (s : State) :
    ownersView (svcEnableAction req bytes s) = ownersView s := by
  have hrecord : ownersView (recordEnable Ent.svcEnable noInst (ofLe bytes) s) = ownersView s := by
    unfold recordEnable setEnt
    split <;> simp
  rw [svcEnableAction_eq]
  split
  · simpa [switchNetOn] using hrecord
  · rw [drainBindings_frame]
    simpa using hrecord

@[simp] theorem switchColdOn_security (s : State) : (switchColdOn s).security = s.security := by
  unfold switchColdOn
  split <;> rfl

@[simp] theorem switchColdOn_fabric (s : State) : (switchColdOn s).fabric = s.fabric := by
  unfold switchColdOn
  split <;> rfl

@[simp] theorem setJobState_security (n : Nat) (s : State) : (setJobState n s).security = s.security := wbSubmit_security _ _ _ _

@[simp] theorem setJobState_fabric (n : Nat) (s : State) : (setJobState n s).fabric = s.fabric := wbSubmit_fabric _ _ _ _

@[simp] theorem ownersView_switchColdOn (s : State) : ownersView (switchColdOn s) = ownersView s := by
  unfold switchColdOn
  split <;> simp

@[simp] theorem ownersView_switchNetOn (s : State) : ownersView (switchNetOn s) = ownersView s := (rfl)

theorem ownersView_jobGone (s : State) : ownersView (jobGone s) = ownersView s := by
  unfold jobGone
  split
  · simp [enterZeroising]
  · simp [enterNone, switchNetOn]

/-- The status of KEY_WIPE, and the owner sessions. -/
def wipeView (s : State) : CmdStatus × List OwnerSession := (cmdOf Ent.keyWipe s, s.security.owners)

theorem wipeView_congr {s t : State} (h : ownersView t = ownersView s) : wipeView t = wipeView s := by
  obtain ⟨hcmds, howners⟩ := Prod.mk.inj h
  unfold wipeView cmdOf
  rw [hcmds, howners]

theorem wipeView_endCmd {key : Nat} (h : Ent.keyWipe ≠ key) (status reason : Nat) (s : State) :
    wipeView (endCmd key status reason s) = wipeView s := by
  unfold wipeView cmdOf endCmd
  simp only [alGet_alSet_ne _ _ h]

/-- The commands of a job that a clear ends are others. -/
theorem wipeView_endJobCmds (s : State) : wipeView (endJobCmds s) = wipeView s := by
  have hend (keys : List Nat) (h : ∀ k, k ∈ keys → Ent.keyWipe ≠ k) (s : State) :
      wipeView (keys.foldl (fun s k => if (cmdOf k s).state = 1 then endCmd k stRestarted 0 s else s) s) = wipeView s := by
    induction keys generalizing s with
    | nil => rfl
    | cons k keys ih =>
      rw [List.foldl_cons, ih (fun k hk => h k (List.mem_cons_of_mem _ hk))]
      split
      · exact wipeView_endCmd (h k List.mem_cons_self) _ _ _
      · rfl
  exact hend _ (by decide) s

theorem clearJob_ownersView (s : State) : ownersView (clearJob s) = ownersView (endJobCmds (settleRows (bindingsOff s))) := by
  unfold clearJob clearJobSlots
  simp

theorem wipeView_clearJob (s : State) : wipeView (clearJob s) = wipeView s := by
  rw [wipeView_congr (clearJob_ownersView s), wipeView_endJobCmds, wipeView_congr (ownersView_settleRows _),
    wipeView_congr (ownersView_bindingsOff s)]

theorem wipeView_finishUndeploy (s : State) : wipeView (finishUndeploy s) = wipeView s := by
  have hview : wipeView (finishJob s) = wipeView s := by
    rw [finishJob_eq, ← wipeView_clearJob s]
    exact wipeView_congr ((ownersView_switchNetOn _).trans (ownersView_jobGone _))
  rw [finishUndeploy_eq]
  split
  · exact (wipeView_endCmd (by decide) _ _ _).trans hview
  · exact hview

/-- A job that is gone leaves the service and the fabric as they were. -/
theorem jobGone_parts (s : State) : (jobGone s).service = s.service ∧ (jobGone s).fabric = s.fabric := by
  unfold jobGone
  split
  · simp [enterZeroising]
  · simp [enterNone, switchNetOn]

/-- A job cleared leaves no key of the service and no session of the fabric. -/
theorem clearJob_keyless (s : State) : (clearJob s).service.keySlots = [] ∧ (clearJob s).fabric.sessions = [] := ⟨rfl, rfl⟩

theorem switchNetOn_parts (s : State) : (switchNetOn s).service = s.service ∧ (switchNetOn s).fabric = s.fabric := ⟨rfl, rfl⟩

theorem finishUndeploy_keyless (s : State) :
    (finishUndeploy s).service.keySlots = [] ∧ (finishUndeploy s).fabric.sessions = [] := by
  have hgone : (finishJob s).service.keySlots = [] ∧ (finishJob s).fabric.sessions = [] := by
    rw [finishJob_eq, (switchNetOn_parts _).1, (switchNetOn_parts _).2, (jobGone_parts _).1, (jobGone_parts _).2]
    exact clearJob_keyless s
  rw [finishUndeploy_eq]
  by_cases h : (cmdOf Ent.jobUndeploy (finishJob s)).state = 1
  · rw [if_pos h, endCmd_service, endCmd_fabric]
    exact hgone
  · rw [if_neg h]
    exact hgone

/-- A job is wiped, or there is none to wipe. -/
theorem wipeJob_cases (s : State) : wipeJob s = s ∨ wipeJob s = finishUndeploy s := by
  by_cases h : s.job.state = jobNone ∨ s.job.state = jobZeroising
  · exact Or.inl (if_pos h)
  · exact Or.inr (if_neg h)

/-- No key, owner session or job memory is left. -/
def KeysGone (s : State) : Prop :=
  s.service.keySlots = [] ∧ s.security.owners = [] ∧ s.mem.dram = [] ∧ s.mem.jobKeys = none ∧ s.fabric.sessions = []

theorem wipeJob_keysGone {s : State} (h : KeysGone s) : KeysGone (wipeJob s) := by
  obtain hkept | hwiped := wipeJob_cases s
  · rwa [hkept]
  · obtain ⟨-, howners, -, -, -⟩ := h
    obtain ⟨hslots, hsessions⟩ := finishUndeploy_keyless s
    have hcleared := finishUndeploy_cleared s
    have hview := wipeView_finishUndeploy s
    unfold wipeView at hview
    obtain ⟨-, hkept⟩ := Prod.mk.inj hview
    rw [hwiped]
    exact ⟨hslots, hkept.trans howners, hcleared.dram, hcleared.jobKeys, hsessions⟩

theorem wipeView_wipeJob (s : State) : wipeView (wipeJob s) = wipeView s := by
  obtain h | h := wipeJob_cases s
  · rw [h]
  · rw [h, wipeView_finishUndeploy]

theorem cmdOf_congr {s t : State} (h : t.dict.cmds = s.dict.cmds) (key : Nat) : cmdOf key t = cmdOf key s := by
  unfold cmdOf
  rw [h]

/-- What a transport carries depends on the module's address and ethertype only. -/
theorem carried_congr_address {s t : State} (hmac : t.security.macBase = s.security.macBase)
    (htype : t.security.dictEthertype = s.security.dictEthertype) (r : ReqId) (bytes : List Byte) :
    carried r bytes t = carried r bytes s := by
  unfold carried
  rw [hmac, htype]

theorem counter_congr {s t : State} (h : t.dict.counters = s.dict.counters) (key : Nat) : counter key t = counter key s := by
  unfold counter
  rw [h]

@[simp] theorem actionStart_counters (req : ReqId) (index sub : Nat) (s : State) :
    (actionStart req index sub s).dict.counters = s.dict.counters := by
  change (writeStart req index sub s).dict.counters = _
  rw [writeStart_frame]

/-- A response over a transport other than an owner's session leaves the root of trust as it was. -/
theorem respond_security {r : ReqId} (h : classOf r ≠ .S) (m : DictMsg) (err size item : Nat) (body : List Byte) (s : State) :
    (respond r m err size item body s).security = s.security := by
  unfold respond sendResponse
  cases r with
  | owner sid => exact absurd rfl h
  | _ => exact putReq_security _ s

/-- What KEY_WIPE has destroyed before the job is ended. -/
def keysWiped (req : ReqId) (s : State) : State :=
  { count Cnt.keyWipes 1 (wbSubmit 0xC002 noInst [classNum (classOf req)] s) with
    service := { s.service with keySlots := [], ready := s.service.ready.filter (fun r => r.key.isNone) },
    security := { s.security with owners := [], ownerHandshakes := [] },
    fabric := { s.fabric with state := 0, sessions := [] },
    mem := { s.mem with dram := [], jobKeys := none, idleKey := s.mem.idleKey + 1 } }

theorem keyWipeAction_eq (req : ReqId) (bytes : List Byte) (s : State) :
    keyWipeAction req bytes s = endCmd Ent.keyWipe stOk 0 (wipeJob (svcEnableAction .biv [0] (keysWiped req s))) := by
  unfold keyWipeAction keysWiped count
  simp

theorem keysWiped_keysGone (req : ReqId) (s : State) : KeysGone (svcEnableAction .biv [0] (keysWiped req s)) := by
  rw [svcEnableAction_frame]
  exact ⟨rfl, rfl, rfl, rfl, rfl⟩

theorem keysWiped_cmds (req : ReqId) (s : State) : (keysWiped req s).dict.cmds = s.dict.cmds := wbSubmit_cmds _ _ _ _

/-- The entry KEY_WIPE as the wipe of the job leaves it. -/
theorem keyWipe_status (req : ReqId) (s : State) :
    cmdOf Ent.keyWipe (wipeJob (svcEnableAction .biv [0] (keysWiped req s))) = cmdOf Ent.keyWipe s := by
  have hwipe (v : State) : cmdOf Ent.keyWipe (wipeJob v) = cmdOf Ent.keyWipe v := by
    obtain h | h := wipeJob_cases v
    · rw [h]
    · have hview := wipeView_finishUndeploy v
      unfold wipeView at hview
      rw [h]
      exact (Prod.mk.inj hview).1
  have hcmds : (svcEnableAction .biv [0] (keysWiped req s)).dict.cmds = s.dict.cmds := by
    have hview := ownersView_svcEnableAction .biv [0] (keysWiped req s)
    unfold ownersView at hview
    exact (Prod.mk.inj hview).1.trans (keysWiped_cmds req s)
  rw [hwipe, cmdOf_congr hcmds]

theorem wipeJob_now (s : State) : (wipeJob s).now = s.now := by
  obtain h | h := wipeJob_cases s
  · rw [h]
  · rw [h, finishUndeploy_eq]
    have hnow : (finishJob s).now = s.now := by
      have hgone : (jobGone (clearJob s)).now = (clearJob s).now := by
        unfold jobGone
        split
        · simp [enterZeroising]
        · simp [enterNone, switchNetOn]
      rw [finishJob_eq, switchNetOn_now, hgone, now_of_fixedPart (clearJob_fix s)]
    by_cases hu : (cmdOf Ent.jobUndeploy (finishJob s)).state = 1
    · rw [if_pos hu, endCmd_now, hnow]
    · rw [if_neg hu, hnow]

theorem keysWiped_now (req : ReqId) (s : State) : (wipeJob (svcEnableAction .biv [0] (keysWiped req s))).now = s.now := by
  rw [wipeJob_now, svcEnableAction_frame]
  exact wbSubmit_now _ _ _ _

/-- A command entry whose status is that of its action's start ends DONE. -/
theorem endedOk_of_status {key index sub : Nat} {req : ReqId} {s u : State} (hk : key = entryKey index sub)
    (hc : cmdOf key u = cmdOf key (actionStart req index sub s)) (hn : u.now = s.now) :
    EndedOk key req s (endCmd key stOk 0 u) := by
  have h := endedOk_endCmd (u := actionStart req index sub s) hk rfl (actionStart_now req index sub s)
  unfold EndedOk at h ⊢
  rw [cmdOf_endCmd] at h ⊢
  rw [hc, hn, ← h, actionStart_now]

/-! Zeroisation (R502). -/

@[simp] theorem raiseEvent_mem (bit : Nat) (s : State) : (raiseEvent bit s).mem = s.mem := by rw [raiseEvent_frame]
@[simp] theorem raiseEvent_security (bit : Nat) (s : State) : (raiseEvent bit s).security = s.security := by rw [raiseEvent_frame]

/-- The state of a finished zeroisation before NONE is entered. -/
def zeroised (s : State) : State :=
  let z := State.reset
  let s := switchColdOn s
  let s := { s with
    mem := { s.mem with dram := [], sram := [], staging := [], jobKeys := none },
    matrix := s.matrix.map (fun m => { m with acc := [] }),
    updates := z.updates,
    xlate := { s.xlate with ptes := [], drayTlb := [], hubTlb := [], pteCache := [] },
    security := { s.security with zeroiseProgress := 1024, zeroisePending := false, zeroiseMirror := false } }
  let s := count Cnt.zeroisations 1 (wbSubmit 0xC003 noInst [s.now - s.security.zeroiseAt] (raiseEvent 5 s))
  clearJobSlots { s with power := { s.power with cold := 2, coldUntil := none } }

theorem execZeroisation_ends {s : State} (h : s.job.state = jobZeroising) : execZeroisation s = .next (enterNone (zeroised s)) := by
  rw [execZeroisation, if_neg (by simp [h])]
  rfl

/-- Both tiers and the SRAMs are empty, and the promise is cleared in both copies. -/
theorem zeroised_empty (s : State) :
    (zeroised s).mem.dram = [] ∧ (zeroised s).mem.sram = [] ∧ (zeroised s).mem.staging = [] ∧
      (zeroised s).security.zeroisePending = false ∧ (zeroised s).security.zeroiseMirror = false := by
  unfold zeroised clearJobSlots count
  simp

theorem zeroised_counted (s : State) :
    counter Cnt.zeroisations (zeroised s) = (counter Cnt.zeroisations s + 1) % 2 ^ 64 := by
  unfold zeroised clearJobSlots
  refine (counter_count_self Cnt.zeroisations 1 _).trans ?_
  rw [counter_wbSubmit (by decide), raiseEvent_counter]
  exact congrArg (fun d => ((alGet (Dict.counters d) Cnt.zeroisations).getD 0 + 1) % 2 ^ 64) (switchColdOn_dict s)

theorem enterNone_leaves (s : State) :
    (enterNone s).mem = s.mem ∧ (enterNone s).job.sealed_ = false ∧
      (enterNone s).security.zeroisePending = s.security.zeroisePending ∧
      (enterNone s).security.zeroiseMirror = s.security.zeroiseMirror := by
  simp [enterNone, switchNetOn]

theorem counter_enterNone {key : Nat} (h : key ≠ Cnt.recordsSuppressed) (s : State) : counter key (enterNone s) = counter key s :=
  counter_setJobState h jobNone s

end Sys2Proof.Machine

namespace Sys2Proof

open Sys2Proof.Machine

/-- The oldest waiting record is answered with, and waits no more (R495, R546). -/
theorem relayOut_answers (req : ReqId) (length : Nat) (s u : State) (x : List Byte) (rest : List (List Byte)) (hserved : dictServed s = true)
    (hexists : reqExists req s = true) (hlow : 1 ≤ length) (hhigh : length ≤ 1024) (hu : u = touchReq req s)
    (hok : readRefusal req 0x2B00 0x12 u = erOk) (hwaits : s.security.relayOut = x :: rest) (hclass : classOf req ≠ .S) :
    ∃ t, exec (.relayOut req length) s = .next t ∧ t.security.relayOut = rest ∧
      t.dict.responses = {
        dest := req, bytes := responseBytes (wholeRead 0x2B00 0x12 length) erOk x.length 0 (x.take length),
        units := carried req (responseBytes (wholeRead 0x2B00 0x12 length) erOk x.length 0 (x.take length)) s } ::
        s.dict.responses := by
  subst hu
  have htake : takeValue req 0x2B00 0x12 (touchReq req s) =
      (x, { touchReq req s with security := { (touchReq req s).security with relayOut := rest } }) := by
    rw [takeValue, if_neg (by decide), if_pos (by decide), takeRelay, touchReq_security, hwaits]
  have hrun : exec (.relayOut req length) s = .next (readMessage req (wholeRead 0x2B00 0x12 length) (touchReq req s)) := by
    change execRelayOut req length s = _
    rw [execRelayOut, if_neg (by simp [hserved, hexists]; omega)]
  rw [readMessage_whole rfl hok] at hrun
  simp only [wholeRead, htake] at hrun
  have hmin : Nat.min length 1024 = length := Nat.min_eq_left hhigh
  rw [hmin] at hrun
  refine ⟨_, hrun, ?_, ?_⟩
  · rw [respond_security hclass, putReq_security]
  · rw [respond_responses, putReq_responses, carried_congr_address (s := s)]
    · exact congrArg (List.cons _) (touchReq_responses req s)
    · rw [putReq_security, touchReq_security]
    · rw [putReq_security, touchReq_security]

/-- The slot that is named is extended and the measurement logged (R485, R486). -/
theorem measureExtend_effect (req : ReqId) (value : List Byte) (s : State) (slot : Nat) (digest : BitVec 256)
    (hacc : Accepted req 0x2B00 0x0F value s) (hslot : slot = leAt value 0 1) (hdigest : digest = BitVec.ofNat 256 (leAt value 1 32))
    (hin : slot < s.security.ms.length) (hroom : s.security.log.length < 4096) :
    ∃ t, exec (.measureExtend req value) s = .next t ∧ EndedOk Ent.measureExtend req s t ∧
      t.security.ms.getD slot 0 = shake256 (digestBytes (s.security.ms.getD slot 0) ++ digestBytes digest) ∧
      (∀ k, k ≠ slot → t.security.ms.getD k 0 = s.security.ms.getD k 0) ∧
      t.security.log = s.security.log ++ [{ slot := slot, event := 12, time := s.now, digest := digest }] := by
  subst hslot hdigest
  have hframe := actionStart_frame req 0x2B00 0x0F s
  have hrun : exec (.measureExtend req value) s = .next (endCmd Ent.measureExtend stOk 0
      (measure (leAt value 0 1) 12 (BitVec.ofNat 256 (leAt value 1 32)) (actionStart req 0x2B00 0x0F s))) :=
    congrArg Host.Outcome.next (cmdVia_accepted hacc)
  have hsecurity : (actionStart req 0x2B00 0x0F s).security = s.security := by rw [hframe]
  obtain ⟨hms, hothers, hlog⟩ := measure_logged (s := actionStart req 0x2B00 0x0F s) (by rw [hsecurity]; exact hin)
    (by rw [hsecurity]; exact hroom) 12 (BitVec.ofNat 256 (leAt value 1 32))
  rw [hsecurity] at hms hothers hlog
  rw [actionStart_now] at hlog
  refine ⟨_, hrun, endedOk_endCmd (index := 0x2B00) (sub := 0x0F) rfl ?_ ?_, hms, hothers, hlog⟩
  · rw [measure_frame]
  · rw [measure_frame]
    exact actionStart_now req 0x2B00 0x0F s

/-- A commit with no counter below its image ends at once; else its first fuse is due 20 µs later (R489). -/
theorem rollbackCommit_effect (req : ReqId) (value : Nat) (s : State) (hacc : Accepted req 0x2B00 0x06 (leBytes 1 value) s) :
    ∃ t, exec (.rollbackCommit req value) s = .next t ∧ t.security.rollback = s.security.rollback ∧
      (lowCounter s = none → EndedOk Ent.rollbackCommit req s t ∧ t.security.committing = none) ∧
      (∀ k, lowCounter s = some k → Runs Ent.rollbackCommit req s t ∧ t.security.committing = some (s.now + 20000)) := by
  have hrun : exec (.rollbackCommit req value) s = .next (commitOn (actionStart req 0x2B00 0x06 s).now (actionStart req 0x2B00 0x06 s)) :=
    congrArg Host.Outcome.next (cmdVia_accepted hacc)
  have hlow : lowCounter (actionStart req 0x2B00 0x06 s) = lowCounter s :=
    lowCounter_congr (by rw [actionStart_frame]) (by rw [actionStart_frame])
  refine ⟨_, hrun, ?_, fun hnone => ?_, fun k hk => ?_⟩
  · rw [commitOn_rollback, actionStart_frame]
  · rw [commitOn_ends (hlow.trans hnone)]
    exact ⟨endedOk_endCmd rfl rfl (actionStart_now req 0x2B00 0x06 s), rfl⟩
  · rw [commitOn_goes_on (by simp [hlow, hk])]
    exact ⟨runs_of_cmds rfl rfl, by simp⟩

/-- A key wipe leaves no key, owner session or job memory (R503). -/
theorem keyWipe_effect (req : ReqId) (value : Nat) (s : State) (hacc : Accepted req 0x2B00 0x18 (leBytes 1 value) s) :
    ∃ t, exec (.keyWipe req value) s = .next t ∧ EndedOk Ent.keyWipe req s t ∧ t.service.keySlots = [] ∧
      t.security.owners = [] ∧ t.mem.dram = [] ∧ t.mem.jobKeys = none ∧ t.fabric.sessions = [] := by
  have hrun : exec (.keyWipe req value) s = .next (keyWipeAction req (leBytes 1 value) (actionStart req 0x2B00 0x18 s)) :=
    congrArg Host.Outcome.next (cmdVia_accepted hacc)
  rw [keyWipeAction_eq] at hrun
  obtain ⟨hslots, howners, hdram, hkeys, hsessions⟩ := wipeJob_keysGone (keysWiped_keysGone req (actionStart req 0x2B00 0x18 s))
  have hended := endedOk_of_status (index := 0x2B00) (sub := 0x18) rfl (keyWipe_status req _)
    ((keysWiped_now req _).trans (actionStart_now req 0x2B00 0x18 s))
  refine ⟨_, hrun, hended, ?_, ?_, ?_, ?_, ?_⟩
  · rw [endCmd_service, hslots]
  · rw [endCmd_security, howners]
  · rw [endCmd_mem, hdram]
  · rw [endCmd_mem, hkeys]
  · rw [endCmd_fabric, hsessions]

/-- Settles O56: each command of the root of trust by its action, a fuse at a time, and the end of a zeroisation. -/
theorem rootOfTrustActs : Obligations.RootOfTrustActs := by
  unfold Obligations.RootOfTrustActs
  refine ⟨?relayDropped, ?relayed, ?relayOut, ?quote, ?measured, ?rollback, ?wipe, ?zeroised, ?fuse, ?low⟩
  case relayDropped =>
    intro req value s r hacc hr hnone
    have hrecord : parseOwner (relayedRecord value) = none := hr.symm.trans hnone
    have hrun : exec (.relayIn req value) s =
        .next (endCmd Ent.relayIn stOk 0 (dropOwner (actionStart req 0x2B00 0x11 s))) := by
      refine congrArg Host.Outcome.next ((cmdVia_accepted hacc).trans ?_)
      simp only [relayInAction, relayRecord, ownerArrives, hrecord]
    refine ⟨_, hrun, endedOk_endCmd rfl rfl (actionStart_now req 0x2B00 0x11 s), ?_, ?_⟩
    · rw [counter_congr (endCmd_counters _ _ _ _), dropOwner, counter_count_self, counter_congr (actionStart_counters _ _ _ s)]
    · rw [actionStart_frame]
      rfl
  case relayed =>
    intro req value s r hacc hrecord
    refine congrArg Host.Outcome.next ((cmdVia_accepted hacc).trans ?_)
    simp only [relayInAction, relayRecord, ownerArrives, hrecord]
  case relayOut => exact relayOut_answers
  case quote =>
    intro req value s hacc
    have hrun : exec (.quoteNonce req value) s = .next (quoteNonceAction req value (actionStart req 0x2B00 0x0A s)) :=
      congrArg Host.Outcome.next (cmdVia_accepted hacc)
    refine ⟨_, hrun, endedOk_endCmd rfl rfl (actionStart_now req 0x2B00 0x0A s), ?_, ?_, ?_⟩
    · exact makeQuote_congr (actionStart_frame req 0x2B00 0x0A s) value
    · rw [quoteNonceAction, counter_congr (endCmd_counters _ _ _ _), counter_count_self]
      exact congrArg (fun n => (n + 1) % 2 ^ 64) (counter_congr (actionStart_counters req 0x2B00 0x0A s) Cnt.quotes)
    · rw [actionStart_frame]
      rfl
  case measured => exact measureExtend_effect
  case rollback => exact rollbackCommit_effect
  case wipe => exact keyWipe_effect
  case zeroised =>
    intro s hstate
    have hrun : exec .zeroisation s = .next (enterNone (zeroised s)) := execZeroisation_ends hstate
    obtain ⟨hmem, hsealed, hpending, hmirror⟩ := enterNone_leaves (zeroised s)
    obtain ⟨hdram, hsram, hstaging, hpromise, hcopy⟩ := zeroised_empty s
    refine ⟨_, hrun, enterNone_state _, ?_, ?_, ?_, hpending.trans hpromise, hmirror.trans hcopy, hsealed, ?_⟩
    · rw [hmem, hdram]
    · rw [hmem, hsram]
    · rw [hmem, hstaging]
    · rw [counter_enterNone (by decide), zeroised_counted]
  case fuse =>
    intro s t k u hcommit hdue hlow hu
    subst hu
    rw [blowFuse_due hcommit hdue hlow]
    refine ⟨commitOn_rollback _ _, fun hnone => ?_, fun hsome => ?_⟩
    · rw [commitOn_ends hnone]
      refine ⟨rfl, ?_⟩
      rw [cmdOf_endCmd]
      rfl
    · rw [commitOn_goes_on hsome]
  case low =>
    intro s k h
    exact lowCounter_below h

end Sys2Proof
end

section
/-! SUPPORT. The memories' canonical form (log 3) along the meanings: what a command can do to the five sparse memories, and,
with them, to the state of the host's link. -/

namespace Sys2Proof.Machine

open Sys2Proof

/-- The five sparse memories: device memory, core SRAM, staging SRAM, host memory, firmware staging. -/
abbrev Memories : Type := SMem × SMem × SMem × SMem × SMem

/-- A function-level reset in progress, and the generation and width of the link. -/
abbrev LinkView : Type := Bool × Nat × Nat

def memories (s : State) : Memories := (s.mem.dram, s.mem.sram, s.mem.staging, s.mem.host, s.recovery.staging)

def linkView (s : State) : LinkView := (s.hostif.flr, s.hostif.linkGen, s.hostif.linkWidth)

/-- Each memory is in its canonical form. -/
def Canonical (m : Memories) : Prop :=
  memWf m.1 = true ∧ memWf m.2.1 = true ∧ memWf m.2.2.1 = true ∧ memWf m.2.2.2.1 = true ∧ memWf m.2.2.2.2 = true

theorem memoriesCanonical_iff (s : State) : MemoriesCanonical s ↔ Canonical (memories s) := Iff.rfl

/-- Canonical memories stay canonical, and, where `link` is set, the link's state stays as it is. -/
def FormKeeps (link : Bool) (p q : Memories × LinkView) : Prop :=
  (Canonical p.1 → Canonical q.1) ∧ (link = true → q.2 = p.2)

/-- The memories and the link's state. -/
def formPart (s : State) : Memories × LinkView := (memories s, linkView s)

theorem form_refl (link : Bool) (p : Memories × LinkView) : FormKeeps link p p := ⟨id, fun _ => rfl⟩

/-! A state put together from its parts has the memories and the link's state that are put in. -/

@[simp] theorem formPart_mk (a1 a2 a3 a4 a5 a6 a7 a8 a9 a10 a11 a12 a13 a14 a15 a16 a17 a18 a19 a20 a21 a22 a23 a24 a25 a26 a27) :
    formPart (State.mk a1 a2 a3 a4 a5 a6 a7 a8 a9 a10 a11 a12 a13 a14 a15 a16 a17 a18 a19 a20 a21 a22 a23 a24 a25 a26 a27) =
      ((a15.dram, a15.sram, a15.staging, a15.host, a21.staging), a17.flr, a17.linkGen, a17.linkWidth) := (rfl)

@[simp] theorem formPart_eta (s : State) :
    ((s.mem.dram, s.mem.sram, s.mem.staging, s.mem.host, s.recovery.staging), s.hostif.flr, s.hostif.linkGen, s.hostif.linkWidth) =
      formPart s := (rfl)

@[simp] theorem formPart_ite (c : Prop) [Decidable c] (x y : State) :
    formPart (if c then x else y) = if c then formPart x else formPart y := by split <;> rfl

@[simp] theorem form_ite (link : Bool) (p : Memories × LinkView) (c : Prop) [Decidable c] (x y : Memories × LinkView) :
    FormKeeps link p (if c then x else y) = if c then FormKeeps link p x else FormKeeps link p y := by split <;> rfl

/-! Folds. -/

@[simp] theorem formPart_foldl {α : Type} (l : List α) (f : State → α → State) (h : ∀ s x, formPart (f s x) = formPart s) (s : State) :
    formPart (l.foldl f s) = formPart s := foldl_view formPart f h l s

@[simp] theorem formPart_foldl_snd {α β : Type} (l : List α) (f : β × State → α → β × State)
    (h : ∀ p x, formPart (f p x).2 = formPart p.2) (p : β × State) : formPart (l.foldl f p).2 = formPart p.2 :=
  foldl_view (fun p => formPart p.2) f h l p

section
variable {link : Bool} {p : Memories × LinkView}

@[simp] theorem form_foldl {α : Type} {l : List α} {f : State → α → State} {s : State} (hk : FormKeeps link p (formPart s))
    (hf : ∀ s x, FormKeeps link p (formPart s) → FormKeeps link p (formPart (f s x))) :
    FormKeeps link p (formPart (l.foldl f s)) := by
  induction l generalizing s with
  | nil => exact hk
  | cons x l ih => exact ih (hf s x hk)

@[simp] theorem form_foldl_snd {α β : Type} {l : List α} {f : β × State → α → β × State} {q : β × State}
    (hk : FormKeeps link p (formPart q.2)) (hf : ∀ q x, FormKeeps link p (formPart q.2) → FormKeeps link p (formPart (f q x).2)) :
    FormKeeps link p (formPart (l.foldl f q).2) := by
  induction l generalizing q with
  | nil => exact hk
  | cons x l ih => exact ih (hf q x hk)

end

/-! The operations on a memory keep its form (log 3). -/

section
variable {link : Bool} {p : Memories × LinkView} {dram sram staging host firmware : SMem} {v : LinkView}
  (h : FormKeeps link p ((dram, sram, staging, host, firmware), v))
include h

@[simp] theorem form_dram_write (a : Nat) (bs : List Byte) :
    FormKeeps link p ((memWrite dram a bs, sram, staging, host, firmware), v) :=
  ⟨fun hp => (h.1 hp).imp (memWrite_wf _ a bs) id, h.2⟩

@[simp] theorem form_dram_set (a : Nat) (b : Byte) : FormKeeps link p ((memSet dram a b, sram, staging, host, firmware), v) :=
  ⟨fun hp => (h.1 hp).imp (memSet_wf _ a b) id, h.2⟩

@[simp] theorem form_dram_zero (lo hi : Nat) : FormKeeps link p ((memZero dram lo hi, sram, staging, host, firmware), v) :=
  ⟨fun hp => (h.1 hp).imp (memZero_wf _ lo hi) id, h.2⟩

theorem form_dram_nil : FormKeeps link p (([], sram, staging, host, firmware), v) :=
  ⟨fun hp => (h.1 hp).imp (fun _ => rfl) id, h.2⟩

@[simp] theorem form_sram_write (a : Nat) (bs : List Byte) :
    FormKeeps link p ((dram, memWrite sram a bs, staging, host, firmware), v) :=
  ⟨fun hp => (h.1 hp).imp id (fun k => k.imp (memWrite_wf _ a bs) id), h.2⟩

@[simp] theorem form_sram_zero (lo hi : Nat) : FormKeeps link p ((dram, memZero sram lo hi, staging, host, firmware), v) :=
  ⟨fun hp => (h.1 hp).imp id (fun k => k.imp (memZero_wf _ lo hi) id), h.2⟩

theorem form_sram_nil : FormKeeps link p ((dram, [], staging, host, firmware), v) :=
  ⟨fun hp => (h.1 hp).imp id (fun k => k.imp (fun _ => rfl) id), h.2⟩

theorem form_staging_nil : FormKeeps link p ((dram, sram, [], host, firmware), v) :=
  ⟨fun hp => (h.1 hp).imp id (fun k => k.imp id (fun k => k.imp (fun _ => rfl) id)), h.2⟩

theorem form_firmware_nil : FormKeeps link p ((dram, sram, staging, host, []), v) :=
  ⟨fun hp => (h.1 hp).imp id (fun k => k.imp id (fun k => k.imp id (fun k => k.imp id (fun _ => rfl)))), h.2⟩

@[simp] theorem form_staging_write (a : Nat) (bs : List Byte) :
    FormKeeps link p ((dram, sram, memWrite staging a bs, host, firmware), v) :=
  ⟨fun hp => (h.1 hp).imp id (fun k => k.imp id (fun k => k.imp (memWrite_wf _ a bs) id)), h.2⟩

@[simp] theorem form_staging_zero (lo hi : Nat) : FormKeeps link p ((dram, sram, memZero staging lo hi, host, firmware), v) :=
  ⟨fun hp => (h.1 hp).imp id (fun k => k.imp id (fun k => k.imp (memZero_wf _ lo hi) id)), h.2⟩

@[simp] theorem form_host_write (a : Nat) (bs : List Byte) :
    FormKeeps link p ((dram, sram, staging, memWrite host a bs, firmware), v) :=
  ⟨fun hp => (h.1 hp).imp id (fun k => k.imp id (fun k => k.imp id (fun k => k.imp (memWrite_wf _ a bs) id))), h.2⟩

@[simp] theorem form_host_set (a : Nat) (b : Byte) : FormKeeps link p ((dram, sram, staging, memSet host a b, firmware), v) :=
  ⟨fun hp => (h.1 hp).imp id (fun k => k.imp id (fun k => k.imp id (fun k => k.imp (memSet_wf _ a b) id))), h.2⟩

@[simp] theorem form_firmware_write (a : Nat) (bs : List Byte) :
    FormKeeps link p ((dram, sram, staging, host, memWrite firmware a bs), v) :=
  ⟨fun hp => (h.1 hp).imp id (fun k => k.imp id (fun k => k.imp id (fun k => k.imp id (memWrite_wf _ a bs)))), h.2⟩

end

/-! Outcomes of commands and of core instructions. -/

/-- What `FormKeeps` says of the next state that a command leaves. -/
def OutForm (link : Bool) (p : Memories × LinkView) (o : Host.Outcome State Fault Refusal) : Prop :=
  match o with
  | .next t => FormKeeps link p (formPart t)
  | _ => True

/-- What `FormKeeps` says of the state that an instruction leaves; an exception leaves none of its own. -/
def ResForm (link : Bool) (p : Memories × LinkView) (r : CoreRes) : Prop :=
  match r with
  | .done t _ => FormKeeps link p (formPart t)
  | .stall t => FormKeeps link p (formPart t)
  | .wait t => FormKeeps link p (formPart t)
  | .exc _ => True

section
variable {link : Bool} {p : Memories × LinkView}

@[simp] theorem outForm_next (t : State) : OutForm link p (.next t) = FormKeeps link p (formPart t) := (rfl)
@[simp] theorem outForm_fault (f : Fault) : OutForm link p (.fault f) := trivial
@[simp] theorem outForm_ite (c : Prop) [Decidable c] (x y : Host.Outcome State Fault Refusal) :
    OutForm link p (if c then x else y) = if c then OutForm link p x else OutForm link p y := by split <;> rfl

@[simp] theorem resForm_done (t : State) (pc : BitVec 64) : ResForm link p (.done t pc) = FormKeeps link p (formPart t) := (rfl)
@[simp] theorem resForm_stall (t : State) : ResForm link p (.stall t) = FormKeeps link p (formPart t) := (rfl)
@[simp] theorem resForm_wait (t : State) : ResForm link p (.wait t) = FormKeeps link p (formPart t) := (rfl)
@[simp] theorem resForm_exc (c : Nat) : ResForm link p (.exc c) := trivial
@[simp] theorem resForm_ite (c : Prop) [Decidable c] (x y : CoreRes) :
    ResForm link p (if c then x else y) = if c then ResForm link p x else ResForm link p y := by split <;> rfl

end

end Sys2Proof.Machine
end

section
/-! SUPPORT. The form of the memories along the meanings, in the order of the model: from `count` to `execPredictiveWake`.
A lemma named `_part` says that a meaning touches neither the memories nor the link; one named `_form`, that it keeps what holds
of them. -/

namespace Sys2Proof.Machine

open Sys2Proof

variable {link : Bool} {base : Memories × LinkView}

@[simp] theorem count_part (key n : Nat) (s : State) :
    formPart (count key n s) = formPart s := by
  unfold count
  simp

@[simp] theorem setEnt_part (key n v : Nat) (s : State) :
    formPart (setEnt key n v s) = formPart s := by
  unfold setEnt
  simp

@[simp] theorem clearEnt_part (key : Nat) (s : State) :
    formPart (clearEnt key s) = formPart s := by
  unfold clearEnt
  simp

@[simp] theorem drawFree_part (s : State) :
    formPart (drawFree s) = formPart s := by
  unfold drawFree
  simp

@[simp] theorem putWbCode_part (c : WbCode) (s : State) :
    formPart (putWbCode c s) = formPart s := by
  unfold putWbCode
  simp

@[simp] theorem wbSuppress_part (code time : Nat) (s : State) :
    formPart (wbSuppress code time s) = formPart s := by
  unfold wbSuppress
  simp

@[simp] theorem wbSubmitAt_part (time : Nat) (held : Bool) (code inst : Nat) (p : List Nat) (s : State) :
    formPart (wbSubmitAt time held code inst p s) = formPart s := by
  unfold wbSubmitAt
  simp

@[simp] theorem wbSubmit_part (code inst : Nat) (p : List Nat) (s : State) :
    formPart (wbSubmit code inst p s) = formPart s := by
  unfold wbSubmit
  simp

@[simp] theorem rollSat_part (s : State) :
    formPart (rollSat s) = formPart s := by
  unfold rollSat
  simp

@[simp] theorem countSat_part (n : Nat) (s : State) :
    formPart (countSat n s) = formPart s := by
  unfold countSat
  simp

@[simp] theorem hostWrite_form (queue : Option Nat) (addr : Nat) (bytes : List Byte) (s : State)
    (hk : FormKeeps link base (formPart s)) :
    FormKeeps link base (formPart (hostWrite queue addr bytes s)) := by
  unfold hostWrite
  simp [hk]

@[simp] theorem sendMsix_part (v : Nat) (s : State) :
    formPart (sendMsix v s) = formPart s := by
  unfold sendMsix
  simp

@[simp] theorem raiseVector_part (queue : Option Nat) (v : Nat) (s : State) :
    formPart (raiseVector queue v s) = formPart s := by
  unfold raiseVector
  simp

@[simp] theorem settleHoldoff_part (s : State) :
    formPart (settleHoldoff s) = formPart s := by
  unfold settleHoldoff
  (repeat' split) <;> simp

@[simp] theorem raiseQueueVector_part (n v : Nat) (s : State) :
    formPart (raiseQueueVector n v s) = formPart s := by
  unfold raiseQueueVector
  simp

@[simp] theorem raiseEvent_part (bit : Nat) (s : State) :
    formPart (raiseEvent bit s) = formPart s := by
  unfold raiseEvent
  simp

@[simp] theorem setJobState_part (n : Nat) (s : State) :
    formPart (setJobState n s) = formPart s := by
  unfold setJobState
  simp

@[simp] theorem raiseJobFaultOf_part (cause code detail : Nat) (s : State) :
    formPart (raiseJobFaultOf cause code detail s) = formPart s := by
  unfold raiseJobFaultOf
  (repeat' split) <;> simp

@[simp] theorem raiseJobFault_part (code detail : Nat) (s : State) :
    formPart (raiseJobFault code detail s) = formPart s := by
  unfold raiseJobFault
  simp

@[simp] theorem jobFaultPlain_part (unit inst cause tag opcode : Nat) (s : State) :
    formPart (jobFaultPlain unit inst cause tag opcode s) = formPart s := by
  unfold jobFaultPlain
  simp

@[simp] theorem updCtl_part (c : Nat) (f : CoreControl → CoreControl) (s : State) :
    formPart (updCtl c f s) = formPart s := by
  unfold updCtl
  simp

@[simp] theorem updVec_part (c : Nat) (f : CoreVector → CoreVector) (s : State) :
    formPart (updVec c f s) = formPart s := by
  unfold updVec
  simp

@[simp] theorem updMat_part (c : Nat) (f : CoreMatrix → CoreMatrix) (s : State) :
    formPart (updMat c f s) = formPart s := by
  unfold updMat
  simp

@[simp] theorem updQueue_part (n : Nat) (f : Queue → Queue) (s : State) :
    formPart (updQueue n f s) = formPart s := by
  unfold updQueue
  simp

@[simp] theorem updLaunch_part (id : Nat) (f : Launch → Launch) (s : State) :
    formPart (updLaunch id f s) = formPart s := by
  unfold updLaunch
  simp

@[simp] theorem updContext_part (k : Nat) (f : Ctx → Ctx) (s : State) :
    formPart (updContext k f s) = formPart s := by
  unfold updContext
  simp

@[simp] theorem updGraph_part (id : Nat) (f : Graph → Graph) (s : State) :
    formPart (updGraph id f s) = formPart s := by
  unfold updGraph
  simp

@[simp] theorem markLaunch_part (id : Option Nat) (sat bv torn : Bool) (s : State) :
    formPart (markLaunch id sat bv torn s) = formPart s := by
  unfold markLaunch
  (repeat' split) <;> simp

@[simp] theorem watchLocal_part (core off n : Nat) (s : State) :
    formPart (watchLocal core off n s) = formPart s := by
  unfold watchLocal
  simp

@[simp] theorem sramWrite_form (core off : Nat) (bs : List Byte) (s : State) (hk : FormKeeps link base (formPart s)) :
    FormKeeps link base (formPart (sramWrite core off bs s)) := by
  unfold sramWrite
  simp [hk]

@[simp] theorem stagingWrite_form (die off : Nat) (bs : List Byte) (s : State) (hk : FormKeeps link base (formPart s)) :
    FormKeeps link base (formPart (stagingWrite die off bs s)) := by
  unfold stagingWrite
  simp [hk]

@[simp] theorem depart_part (l : Link) (o : Departure) (s : State) :
    formPart (depart l o s) = formPart s := by
  unfold depart
  split <;> simp

@[simp] theorem putOut_part (l : Link) (o : Departure) (s : State) :
    formPart (putOut l o s) = formPart s := by
  unfold putOut
  split <;> simp

@[simp] theorem resumeLinks_part (s : State) :
    formPart (resumeLinks s) = formPart s := by
  unfold resumeLinks
  simp

@[simp] theorem sendLink_part (i : Nat) (dst : Endpoint) (o : Departure) (s : State) :
    formPart (sendLink i dst o s) = formPart s := by
  unfold sendLink
  (repeat' split) <;> simp

@[simp] theorem setPte_part (page : Nat) (p : BitVec 32) (s : State) :
    formPart (setPte page p s) = formPart s := by
  unfold setPte
  simp

theorem takeFrame_part {r : Nat} {s t : State} {f : Nat} (h : takeFrame r s = some (f, t)) :
    formPart t = formPart s := by
  unfold takeFrame at h
  simp only [] at h
  split at h
  · cases h; simp
  · split at h
    · cases h; simp
    · cases h

@[simp] theorem giveFrame_form (r f : Nat) (s : State) (hk : FormKeeps link base (formPart s)) :
    FormKeeps link base (formPart (giveFrame r f s)) := by
  unfold giveFrame
  simp [hk]

@[simp] theorem ensureFrame_part (page : Nat) (s : State) :
    formPart (ensureFrame page s) = formPart s := by
  unfold ensureFrame
  simp only []
  split
  · rfl
  · split
    · rename_i h; simp [takeFrame_part h]
    · rfl

@[simp] theorem devSetByte_form (va : Nat) (b : Byte) (s : State) (hk : FormKeeps link base (formPart s)) :
    FormKeeps link base (formPart (devSetByte va b s)) := by
  unfold devSetByte
  simp only []
  split
  · simp [hk]
  · split <;> simp [hk]

@[simp] theorem devPut_form (va : Nat) (bs : List Byte) (s : State) (hk : FormKeeps link base (formPart s)) :
    FormKeeps link base (formPart (devPut va bs s)) := by
  fun_induction devPut va bs s <;> simp_all

@[simp] theorem watchWrite_part (va n : Nat) (s : State) :
    formPart (watchWrite va n s) = formPart s := by
  unfold watchWrite
  simp

@[simp] theorem devWrite_form (va : Nat) (bs : List Byte) (s : State) (hk : FormKeeps link base (formPart s)) :
    FormKeeps link base (formPart (devWrite va bs s)) := by
  induction bs generalizing va s with
  | nil => exact hk
  | cons b bs ih => simp [hk, devWrite, ih]

@[simp] theorem moduleWrite_form (unit va : Nat) (bs : List Byte) (s : State) (hk : FormKeeps link base (formPart s)) :
    FormKeeps link base (formPart (moduleWrite unit va bs s)) := by
  unfold moduleWrite
  (repeat' split) <;> simp [hk]

@[simp] theorem touchPteCache_part (page : Nat) (s : State) :
    formPart (touchPteCache page s) = formPart s := by
  unfold touchPteCache
  simp

@[simp] theorem touchHub_part (page : Nat) (s : State) :
    formPart (touchHub page s) = formPart s := by
  unfold touchHub
  simp

@[simp] theorem touchDray_part (d page : Nat) (s : State) :
    formPart (touchDray d page s) = formPart s := by
  unfold touchDray
  simp

@[simp] theorem switchColdOn_part (s : State) :
    formPart (switchColdOn s) = formPart s := by
  unfold switchColdOn
  simp

@[simp] theorem touchCold_part (s : State) :
    formPart (touchCold s) = formPart s := by
  unfold touchCold
  simp

@[simp] theorem hubPage_part (page : Nat) (s : State) :
    formPart (hubPage page s) = formPart s := by
  unfold hubPage
  simp

@[simp] theorem hubAccess_part (va n : Nat) (s : State) :
    formPart (hubAccess va n s) = formPart s := by
  unfold hubAccess
  simp

@[simp] theorem drayPage_part (d page : Nat) (s : State) :
    formPart (drayPage d page s) = formPart s := by
  unfold drayPage
  simp

@[simp] theorem drayAccess_part (d va n : Nat) (s : State) :
    formPart (drayAccess d va n s) = formPart s := by
  unfold drayAccess
  simp

@[simp] theorem noteDmaRead_form (va n : Nat) (s : State) (hk : FormKeeps link base (formPart s)) :
    FormKeeps link base (formPart (noteDmaRead va n s)) := by
  unfold noteDmaRead
  simp [hk]

@[simp] theorem invalidatePage_part (page : Nat) (s : State) :
    formPart (invalidatePage page s) = formPart s := by
  unfold invalidatePage
  simp

@[simp] theorem raiseFaultMsix_part (s : State) :
    formPart (raiseFaultMsix s) = formPart s := by
  unfold raiseFaultMsix
  simp

@[simp] theorem enqueueFault_form (f : PendingFault) (overflowed : Bool) (s : State) (hk : FormKeeps link base (formPart s)) :
    FormKeeps link base (formPart (enqueueFault f overflowed s)) := by
  unfold enqueueFault
  simp [hk]

@[simp] theorem submitFault_form (f : PendingFault) (s : State) (hk : FormKeeps link base (formPart s)) :
    FormKeeps link base (formPart (submitFault f s)) := by
  unfold submitFault
  simp [hk]

@[simp] theorem drainLatched_form (fuel : Nat) (s : State) (hk : FormKeeps link base (formPart s)) :
    FormKeeps link base (formPart (drainLatched fuel s)) := by
  induction fuel generalizing s with
  | zero => exact hk
  | succ k ih =>
    unfold drainLatched
    try simp only []
    (repeat' split) <;> simp_all

@[simp] theorem joinFault_form (agent page access context : Nat) (work : Nat × Nat) (spec : Bool) (s : State)
    (hk : FormKeeps link base (formPart s)) :
    FormKeeps link base (formPart (joinFault agent page access context work spec s)) := by
  unfold joinFault
  (repeat' split) <;> simp [hk]

@[simp] theorem pageFaultAt_form (agent page : Nat) (acc : Access) (context spec : Nat) (work : Nat × Nat) (s : State)
    (hk : FormKeeps link base (formPart s)) :
    FormKeeps link base (formPart (pageFaultAt agent page acc context spec work s)) := by
  unfold pageFaultAt
  simp [hk]

@[simp] theorem holdHostAccess_part (agent bus : Nat) (work : Nat × Nat) (s : State) :
    formPart (holdHostAccess agent bus work s) = formPart s := by
  unfold holdHostAccess
  simp

@[simp] theorem noteMiss_part (agent page : Nat) (s : State) :
    formPart (noteMiss agent page s) = formPart s := by
  unfold noteMiss
  (repeat' split) <;> simp

@[simp] theorem stallOn_form (agent context spec unit inst tag opcode : Nat) (acc : Access) (m : MemCheck) (s : State)
    (hk : FormKeeps link base (formPart s)) :
    FormKeeps link base (formPart (stallOn agent context spec unit inst tag opcode acc m s)) := by
  unfold stallOn
  (repeat' split) <;> simp [hk]

@[simp] theorem releasePage_part (page : Nat) (s : State) :
    formPart (releasePage page s) = formPart s := by
  unfold releasePage
  (repeat' split) <;> simp

@[simp] theorem hitchSignal_form (va : Nat) (store : Bool) (v : Nat) (s : State) (hk : FormKeeps link base (formPart s)) :
    FormKeeps link base (formPart (hitchSignal va store v s)) := by
  unfold hitchSignal
  simp [hk]

@[simp] theorem putReq_part (x : Requester) (s : State) :
    formPart (putReq x s) = formPart s := by
  unfold putReq
  simp

@[simp] theorem touchReq_part (r : ReqId) (s : State) :
    formPart (touchReq r s) = formPart s := by
  unfold touchReq
  simp

@[simp] theorem setSelector_part (key v : Nat) (r : ReqId) (s : State) :
    formPart (setSelector key v r s) = formPart s := by
  unfold setSelector
  (repeat' split) <;> simp

@[simp] theorem startCmd_part (key : Nat) (r : ReqId) (s : State) :
    formPart (startCmd key r s) = formPart s := by
  unfold startCmd
  simp

@[simp] theorem endCmd_part (key status reason : Nat) (s : State) :
    formPart (endCmd key status reason s) = formPart s := by
  unfold endCmd
  simp

@[simp] theorem dropPartial_part (r : ReqId) (index sub : Nat) (s : State) :
    formPart (dropPartial r index sub s) = formPart s := by
  unfold dropPartial
  simp

@[simp] theorem noteWrite_part (r : ReqId) (index sub err : Nat) (s : State) :
    formPart (noteWrite r index sub err s) = formPart s := by
  unfold noteWrite
  simp

@[simp] theorem noteRefusal_part (r : ReqId) (index sub err : Nat) (s : State) :
    formPart (noteRefusal r index sub err s) = formPart s := by
  unfold noteRefusal
  simp

@[simp] theorem writeVia_form {action : ReqId → List Byte → State → State}
    (ha : ∀ r b s, FormKeeps link base (formPart s) → FormKeeps link base (formPart (action r b s))) (r : ReqId) (index sub : Nat)
    (bytes : List Byte) (s : State) (hk : FormKeeps link base (formPart s)) :
    FormKeeps link base (formPart (writeVia action r index sub bytes s)) := by
  unfold writeVia
  simp only []
  split
  · exact ha _ _ _ (by simp [hk])
  · simp [hk]

@[simp] theorem cmdVia_form {action : ReqId → List Byte → State → State}
    (ha : ∀ r b s, FormKeeps link base (formPart s) → FormKeeps link base (formPart (action r b s))) (r : ReqId) (index sub : Nat)
    (bytes : List Byte) (s : State) (hk : FormKeeps link base (formPart s)) :
    FormKeeps link base (formPart (cmdVia action r index sub bytes s)) :=
  writeVia_form (fun r b s hk => ha r b _ (by simp [hk])) r index sub bytes s hk

@[simp] theorem specWriteFault_part (inst off spec unit tag opcode : Nat) (s : State) :
    formPart (specWriteFault inst off spec unit tag opcode s) = formPart s := by
  unfold specWriteFault
  simp

@[simp] theorem coreStore_form (core spec off : Nat) (bytes : List Byte) (inst unit tag opcode : Nat) (s : State)
    (hk : FormKeeps link base (formPart s)) :
    FormKeeps link base (formPart (coreStore core spec off bytes inst unit tag opcode s)) := by
  unfold coreStore
  simp [hk]

@[simp] theorem stagingStore_form (die spec off : Nat) (bytes : List Byte) (inst unit tag opcode : Nat) (s : State)
    (hk : FormKeeps link base (formPart s)) :
    FormKeeps link base (formPart (stagingStore die spec off bytes inst unit tag opcode s)) := by
  unfold stagingStore
  simp [hk]

@[simp] theorem devStore_form (spec va : Nat) (bytes : List Byte) (s : State) (hk : FormKeeps link base (formPart s)) :
    FormKeeps link base (formPart (devStore spec va bytes s)) := by
  unfold devStore
  simp [hk]

@[simp] theorem placeStore_form (p : SramPlace) (spec : Nat) (bytes : List Byte) (inst unit tag opcode : Nat) (s : State)
    (hk : FormKeeps link base (formPart s)) :
    FormKeeps link base (formPart (placeStore p spec bytes inst unit tag opcode s)) := by
  unfold placeStore
  simp [hk]

@[simp] theorem placeSignal_form (p : SramPlace) (spec : Nat) (bytes : List Byte) (inst unit tag opcode : Nat) (s : State)
    (hk : FormKeeps link base (formPart s)) :
    FormKeeps link base (formPart (placeSignal p spec bytes inst unit tag opcode s)) := by
  unfold placeSignal
  simp [hk]

@[simp] theorem applyHeldStore_form (h : HeldStore) (s : State) (hk : FormKeeps link base (formPart s)) :
    FormKeeps link base (formPart (applyHeldStore h s)) := by
  unfold applyHeldStore
  simp [hk]

@[simp] theorem specMark_part (spec : Nat) (launch : Option Nat) (sat bv torn : Bool) (s : State) :
    formPart (specMark spec launch sat bv torn s) = formPart s := by
  unfold specMark
  (repeat' split) <;> simp

@[simp] theorem noteSpecWork_part (spec rows cycles : Nat) (s : State) :
    formPart (noteSpecWork spec rows cycles s) = formPart s := by
  unfold noteSpecWork
  simp

@[simp] theorem specRecord_part (time spec code inst : Nat) (p : List Nat) (s : State) :
    formPart (specRecord time spec code inst p s) = formPart s := by
  unfold specRecord
  simp

@[simp] theorem pushIssued_part (core : Nat) (d : Desc) (org : Origin) (s : State) :
    formPart (pushIssued core d org s) = formPart s := by
  unfold pushIssued
  simp

@[simp] theorem takeIssued_part (core : Nat) (d : Desc) (org : Origin) (s : State) :
    formPart (takeIssued core d org s) = formPart s := by
  unfold takeIssued
  simp

@[simp] theorem holdIssued_part (core : Nat) (d : Desc) (org : Origin) (s : State) :
    formPart (holdIssued core d org s) = formPart s := by
  unfold holdIssued
  simp

@[simp] theorem returnIssued_part (core : Nat) (d : Desc) (org : Origin) (s : State) :
    formPart (returnIssued core d org s) = formPart s := by
  unfold returnIssued
  simp

@[simp] theorem coreStoreAll_form (core spec : Nat) (ws : List (Nat × List Byte)) (inst unit tag opcode : Nat) (s : State)
    (hk : FormKeeps link base (formPart s)) :
    FormKeeps link base (formPart (coreStoreAll core spec ws inst unit tag opcode s)) := by
  unfold coreStoreAll
  (repeat' split) <;> simp +contextual [hk]

@[simp] theorem queueRepair_part (core : Nat) (r : Nat × Nat) (s : State) :
    formPart (queueRepair core r s) = formPart s := by
  unfold queueRepair
  simp

@[simp] theorem sramErrors_part (core : Nat) (s : State) :
    formPart (sramErrors core s) = formPart s := by
  unfold sramErrors
  simp

@[simp] theorem setOpPoint_part (p : Nat) (s : State) :
    formPart (setOpPoint p s) = formPart s := by
  unfold setOpPoint
  simp

@[simp] theorem moveOpPoint_part (faster : Bool) (s : State) :
    formPart (moveOpPoint faster s) = formPart s := by
  unfold moveOpPoint
  simp

@[simp] theorem execOpPointMove_form (faster : Bool) (s : State) (hk : FormKeeps link base (formPart s)) :
    OutForm link base (execOpPointMove faster s) := by
  unfold execOpPointMove
  simp [hk]

@[simp] theorem settleCap_part (s : State) :
    formPart (settleCap s) = formPart s := by
  unfold settleCap
  (repeat' split) <;> simp

@[simp] theorem throttleStep_part (watts : Nat) (s : State) :
    formPart (throttleStep watts s) = formPart s := by
  unfold throttleStep
  simp

@[simp] theorem capPoint_part (demand : Nat) (s : State) :
    formPart (capPoint demand s) = formPart s := by
  unfold capPoint
  simp

@[simp] theorem addEnergy_part (watts : Nat) (s : State) :
    formPart (addEnergy watts s) = formPart s := by
  unfold addEnergy
  simp

@[simp] theorem execCapProjection_form (watts demand : Nat) (s : State) (hk : FormKeeps link base (formPart s)) :
    OutForm link base (execCapProjection watts demand s) := by
  unfold execCapProjection
  simp [hk]

@[simp] theorem powerCapAction_part (x0 : ReqId) (bytes : List Byte) (s : State) :
    formPart (powerCapAction x0 bytes s) = formPart s := by
  unfold powerCapAction
  simp

@[simp] theorem execPowerCapWrite_form (req : ReqId) (value : Nat) (s : State) (hk : FormKeeps link base (formPart s)) :
    OutForm link base (execPowerCapWrite req value s) := by
  unfold execPowerCapWrite
  simp [hk]

@[simp] theorem reserveWake_part (s : State) :
    formPart (reserveWake s) = formPart s := by
  unfold reserveWake
  simp

@[simp] theorem loseCore_form (c : Nat) (s : State) (hk : FormKeeps link base (formPart s)) :
    FormKeeps link base (formPart (loseCore c s)) := by
  unfold loseCore
  simp [hk]

@[simp] theorem stageUp_part (n : Nat) (s : State) :
    formPart (stageUp n s) = formPart s := by
  unfold stageUp
  (repeat' split) <;> simp

@[simp] theorem stageOn_part (cg : Nat) (s : State) :
    formPart (stageOn cg s) = formPart s := by
  unfold stageOn
  simp

@[simp] theorem settleGroup_form (cg : Nat) (s : State) (hk : FormKeeps link base (formPart s)) :
    FormKeeps link base (formPart (settleGroup cg s)) := by
  unfold settleGroup
  simp +contextual [hk]

@[simp] theorem settleGroups_form (s : State) (hk : FormKeeps link base (formPart s)) :
    FormKeeps link base (formPart (settleGroups s)) := by
  unfold settleGroups
  simp +contextual [hk]

@[simp] theorem stageStepDown_form (n : Nat) (s : State) (hk : FormKeeps link base (formPart s)) :
    FormKeeps link base (formPart (stageStepDown n s)) := by
  unfold stageStepDown
  simp [hk]

@[simp] theorem stepDownGroup_form (cg depth : Nat) (s : State) (hk : FormKeeps link base (formPart s)) :
    FormKeeps link base (formPart (stepDownGroup cg depth s)) := by
  unfold stepDownGroup
  simp [hk]

@[simp] theorem beginWake_part (cg code : Nat) (s : State) :
    formPart (beginWake cg code s) = formPart s := by
  unfold beginWake
  simp

@[simp] theorem wakeGroup_form (cg : Nat) (s : State) (hk : FormKeeps link base (formPart s)) :
    FormKeeps link base (formPart (wakeGroup cg s)) := by
  unfold wakeGroup
  simp [hk]

@[simp] theorem wakeOnDemand_form (cg : Nat) (s : State) (hk : FormKeeps link base (formPart s)) :
    FormKeeps link base (formPart (wakeOnDemand cg s)) := by
  unfold wakeOnDemand
  simp [hk]

@[simp] theorem wakeCore_form (core : Nat) (s : State) (hk : FormKeeps link base (formPart s)) :
    FormKeeps link base (formPart (wakeCore core s)) := by
  unfold wakeCore
  split <;> simp [hk]

@[simp] theorem execCgWake_form (cg : Nat) (s : State) (hk : FormKeeps link base (formPart s)) :
    OutForm link base (execCgWake cg s) := by
  unfold execCgWake
  simp [hk]

@[simp] theorem switchNetOn_part (s : State) :
    formPart (switchNetOn s) = formPart s := by
  unfold switchNetOn
  simp

@[simp] theorem execNetSwitchOn_form (s : State) (hk : FormKeeps link base (formPart s)) :
    OutForm link base (execNetSwitchOn s) := by
  unfold execNetSwitchOn
  simp [hk]

@[simp] theorem execNetSwitchOff_form (s : State) (hk : FormKeeps link base (formPart s)) :
    OutForm link base (execNetSwitchOff s) := by
  unfold execNetSwitchOff
  simp [hk]

@[simp] theorem execColdSwitchOn_form (s : State) (hk : FormKeeps link base (formPart s)) :
    OutForm link base (execColdSwitchOn s) := by
  unfold execColdSwitchOn
  simp [hk]

@[simp] theorem execColdSelfRefresh_form (s : State) (hk : FormKeeps link base (formPart s)) :
    OutForm link base (execColdSelfRefresh s) := by
  unfold execColdSelfRefresh
  simp [hk]

@[simp] theorem execSelfRefreshExit_form (s : State) (hk : FormKeeps link base (formPart s)) :
    OutForm link base (execSelfRefreshExit s) := by
  unfold execSelfRefreshExit
  simp [hk]

@[simp] theorem coldSwitchOff_part (s : State) :
    formPart (coldSwitchOff s) = formPart s := by
  unfold coldSwitchOff
  simp

@[simp] theorem holdOpMin_part (s : State) :
    formPart (holdOpMin s) = formPart s := by
  unfold holdOpMin
  split <;> simp

@[simp] theorem powerTick_form (s : State) (hk : FormKeeps link base (formPart s)) :
    FormKeeps link base (formPart (powerTick s)) := by
  unfold powerTick
  simp only [formPart_mk, formPart_eta, holdOpMin_part]
  exact stageStepDown_form _ _ (stageStepDown_form _ _ (settleGroups_form _ (by simp [hk])))

@[simp] theorem alarmStep_part (s : State) :
    formPart (alarmStep s) = formPart s := by
  unfold alarmStep
  simp only []
  (repeat' split) <;> simp

@[simp] theorem throttleHot_part (s : State) :
    formPart (throttleHot s) = formPart s := by
  unfold throttleHot
  simp only []
  (repeat' split) <;> simp

@[simp] theorem readInputMv_part (s : State) :
    formPart (readInputMv s) = formPart s := by
  unfold readInputMv
  simp

@[simp] theorem execSensorSample_form (temps : List Int) (s : State) (hk : FormKeeps link base (formPart s)) :
    OutForm link base (execSensorSample temps s) := by
  unfold execSensorSample
  simp [hk]

@[simp] theorem execRefClockLoss_form (s : State) (hk : FormKeeps link base (formPart s)) :
    OutForm link base (execRefClockLoss s) := by
  unfold execRefClockLoss
  simp [hk]

@[simp] theorem execRefClockRestored_form (s : State) (hk : FormKeeps link base (formPart s)) :
    OutForm link base (execRefClockRestored s) := by
  unfold execRefClockRestored
  simp [hk]

@[simp] theorem addDebt_part (q cg ns : Nat) (s : State) :
    formPart (addDebt q cg ns s) = formPart s := by
  unfold addDebt
  simp

@[simp] theorem settleOutgoing_part (s : State) :
    formPart (settleOutgoing s) = formPart s := by
  unfold settleOutgoing
  simp

@[simp] theorem payDebts_part (s : State) :
    formPart (payDebts s) = formPart s := by
  unfold payDebts
  simp

@[simp] theorem startPayments_part (s : State) :
    formPart (startPayments s) = formPart s := by
  unfold startPayments
  simp

@[simp] theorem noteDebts_part (s : State) :
    formPart (noteDebts s) = formPart s := by
  unfold noteDebts
  (repeat' split) <;> simp

@[simp] theorem chargeQueue_part (q ns : Nat) (s : State) :
    formPart (chargeQueue q ns s) = formPart s := by
  unfold chargeQueue
  (repeat' split) <;> simp

@[simp] theorem changeCore_part (c : Nat) (reclaim : Bool) (since : Nat) (next : Option Nat) (s : State) :
    formPart (changeCore c reclaim since next s) = formPart s := by
  unfold changeCore
  simp only []
  (repeat' split) <;> simp

@[simp] theorem noteLate_part (s : State) :
    formPart (noteLate s) = formPart s := by
  unfold noteLate
  simp

@[simp] theorem boundaryCore_form (c : Nat) (s : State) (hk : FormKeeps link base (formPart s)) :
    FormKeeps link base (formPart (boundaryCore c s)) := by
  unfold boundaryCore
  (repeat' split) <;> simp [hk]

@[simp] theorem execSlotBoundary_form (s : State) (hk : FormKeeps link base (formPart s)) :
    OutForm link base (execSlotBoundary s) := by
  unfold execSlotBoundary
  simp +contextual [hk]

@[simp] theorem execReclaim_form (core : Nat) (s : State) (hk : FormKeeps link base (formPart s)) :
    OutForm link base (execReclaim core s) := by
  unfold execReclaim
  (repeat' split) <;> simp [hk]

@[simp] theorem takeCore_part (core q : Nat) (s : State) :
    formPart (takeCore core q s) = formPart s := by
  unfold takeCore
  (repeat' split) <;> simp

@[simp] theorem schedCommitAction_part (x0 : ReqId) (x1 : List Byte) (s : State) :
    formPart (schedCommitAction x0 x1 s) = formPart s := by
  unfold schedCommitAction
  simp

@[simp] theorem execSchedCommit_form (req : ReqId) (value : Nat) (s : State) (hk : FormKeeps link base (formPart s)) :
    OutForm link base (execSchedCommit req value s) := by
  unfold execSchedCommit
  simp [hk]

@[simp] theorem execScheduleCycleStart_form (s : State) (hk : FormKeeps link base (formPart s)) :
    OutForm link base (execScheduleCycleStart s) := by
  unfold execScheduleCycleStart
  simp [hk]

@[simp] theorem wakeToDepth_form (cg depth : Nat) (s : State) (hk : FormKeeps link base (formPart s)) :
    FormKeeps link base (formPart (wakeToDepth cg depth s)) := by
  unfold wakeToDepth
  (repeat' split) <;> simp [hk]

@[simp] theorem wakeForDepth_form (cg lead code : Nat) (s : State) (hk : FormKeeps link base (formPart s)) :
    FormKeeps link base (formPart (wakeForDepth cg lead code s)) := by
  unfold wakeForDepth
  (repeat' split) <;> simp [hk]

@[simp] theorem noteIdle_form (s : State) (hk : FormKeeps link base (formPart s)) :
    FormKeeps link base (formPart (noteIdle s)) := by
  unfold noteIdle
  (repeat' split) <;> simp [hk]

@[simp] theorem execPredictiveWake_form (cg : Nat) (s : State) (hk : FormKeeps link base (formPart s)) :
    OutForm link base (execPredictiveWake cg s) := by
  unfold execPredictiveWake
  simp [hk]

end Sys2Proof.Machine
end

section
/-! SUPPORT. The form of the memories along the meanings, in the order of the model: from `stepDownTo` to `syncException`. -/

namespace Sys2Proof.Machine

open Sys2Proof

variable {link : Bool} {base : Memories × LinkView}

@[simp] theorem stepDownTo_form (cg : Nat) (s : State) (hk : FormKeeps link base (formPart s)) :
    FormKeeps link base (formPart (stepDownTo cg s)) := by
  unfold stepDownTo
  (repeat' split) <;> simp [hk]

@[simp] theorem execIdleStepDown_form (cg : Nat) (s : State) (hk : FormKeeps link base (formPart s)) :
    OutForm link base (execIdleStepDown cg s) := by
  have hk := settleGroups_form s hk
  unfold execIdleStepDown
  generalize settleGroups s = u at hk ⊢
  simp only []
  (repeat' split) <;> simp [hk]

@[simp] theorem extendSlot_part (i : Nat) (d : BitVec 256) (s : State) :
    formPart (extendSlot i d s) = formPart s := by
  unfold extendSlot
  simp

@[simp] theorem measure_part (i event : Nat) (d : BitVec 256) (s : State) :
    formPart (measure i event d s) = formPart s := by
  unfold measure
  simp

@[simp] theorem measureBytes_part (i event : Nat) (bs : List Byte) (s : State) :
    formPart (measureBytes i event bs s) = formPart s := by
  unfold measureBytes
  simp

@[simp] theorem clearJobSlots_part (s : State) :
    formPart (clearJobSlots s) = formPart s := by
  unfold clearJobSlots
  simp

@[simp] theorem quoteNonceAction_part (x0 : ReqId) (bytes : List Byte) (s : State) :
    formPart (quoteNonceAction x0 bytes s) = formPart s := by
  unfold quoteNonceAction
  simp

@[simp] theorem execQuoteNonce_form (req : ReqId) (value : List Byte) (s : State) (hk : FormKeeps link base (formPart s)) :
    OutForm link base (execQuoteNonce req value s) := by
  unfold execQuoteNonce
  simp [hk]

@[simp] theorem measureExtendAction_part (x0 : ReqId) (bytes : List Byte) (s : State) :
    formPart (measureExtendAction x0 bytes s) = formPart s := by
  unfold measureExtendAction
  simp

@[simp] theorem execMeasureExtend_form (req : ReqId) (value : List Byte) (s : State) (hk : FormKeeps link base (formPart s)) :
    OutForm link base (execMeasureExtend req value s) := by
  unfold execMeasureExtend
  simp [hk]

@[simp] theorem commitOn_part (at_ : Nat) (s : State) :
    formPart (commitOn at_ s) = formPart s := by
  unfold commitOn
  (repeat' split) <;> simp

theorem allocIn_part {m n : Nat} {cold : Bool} {context : Option Nat} {tag : Nat} {s t : State} {f : Nat}
    (h : allocIn m n cold context tag s = some (f, t)) :
    formPart t = formPart s := by
  unfold allocIn at h
  simp only [] at h
  split at h
  · cases h; simp
  · cases h

theorem allocModule_part {n : Nat} {cold : Bool} {context : Option Nat} {tag : Nat} {s t : State} {f : Nat}
    (h : allocModule n cold context tag s = some (f, t)) :
    formPart t = formPart s := allocIn_part h

@[simp] theorem dropPage_form (page : Nat) (s : State) (hk : FormKeeps link base (formPart s)) :
    FormKeeps link base (formPart (dropPage page s)) := by
  unfold dropPage
  (repeat' split) <;> simp [hk]

@[simp] theorem freeExtents_form (p : Extent → Bool) (s : State) (hk : FormKeeps link base (formPart s)) :
    FormKeeps link base (formPart (freeExtents p s)) := by
  unfold freeExtents
  simp +contextual [hk]

@[simp] theorem loadCore_form (graph core : Nat) (v : GraphVersion) (s : State) (hk : FormKeeps link base (formPart s)) :
    FormKeeps link base (formPart (loadCore graph core v s)) := by
  unfold loadCore
  simp +contextual [hk]

@[simp] theorem loadDie_form (die : Nat) (v : GraphVersion) (s : State) (hk : FormKeeps link base (formPart s)) :
    FormKeeps link base (formPart (loadDie die v s)) := by
  unfold loadDie
  simp +contextual [hk]

@[simp] theorem countResident_part (v : GraphVersion) (n m : Nat) (s : State) :
    formPart (countResident v n m s) = formPart s := by
  unfold countResident
  simp

@[simp] theorem loadResident_form (graph : Nat) (v : GraphVersion) (c : Ctx) (s : State)
    (hk : FormKeeps link base (formPart s)) : FormKeeps link base (formPart (loadResident graph v c s)) := by
  unfold loadResident
  simp only [countResident_part]
  exact form_foldl (form_foldl hk (fun s core hk => by simp [hk])) (fun s n hk => by simp [hk])

@[simp] theorem bar2Complete_part (offset : Nat) (data : Option (List Byte)) (s : State) :
    formPart (bar2Complete offset data s) = formPart s := by
  unfold bar2Complete
  simp

@[simp] theorem noteBar2Write_part (va n : Nat) (s : State) :
    formPart (noteBar2Write va n s) = formPart s := by
  unfold noteBar2Write
  simp

@[simp] theorem retryConfig_part (s : State) :
    formPart (retryConfig s) = formPart s := by
  unfold retryConfig
  simp

@[simp] theorem execBar2Write_form (offset : Nat) (bytes : List Byte) (s : State) (hk : FormKeeps link base (formPart s)) :
    OutForm link base (execBar2Write offset bytes s) := by
  unfold execBar2Write
  simp [hk]

@[simp] theorem execBar2Atomic_form (offset : Nat) (op : AtomicOp) (width : Nat) (operand compare : BitVec 64) (s : State)
    (hk : FormKeeps link base (formPart s)) :
    OutForm link base (execBar2Atomic offset op width operand compare s) := by
  unfold execBar2Atomic
  repeat' split
  all_goals simp [hk]

@[simp] theorem execBar2Resize_form (gib : Nat) (s : State) (hk : FormKeeps link base (formPart s)) :
    OutForm link base (execBar2Resize gib s) := by
  unfold execBar2Resize
  simp [hk]

@[simp] theorem execEventCauseClear_form (w : HostWrite) (s : State) (hk : FormKeeps link base (formPart s)) :
    OutForm link base (execEventCauseClear w s) := by
  unfold execEventCauseClear
  (repeat' split) <;> simp [hk]

@[simp] theorem setMask_part (v : Nat) (masked : Bool) (s : State) :
    formPart (setMask v masked s) = formPart s := by
  unfold setMask
  simp

@[simp] theorem execMsixTableWrite_form (offset : Nat) (w : HostWrite) (s : State) (hk : FormKeeps link base (formPart s)) :
    OutForm link base (execMsixTableWrite offset w s) := by
  unfold execMsixTableWrite
  simp only []
  (repeat' split) <;> simp [hk]

@[simp] theorem execDmaRequestError_form (busAddr agent error : Nat) (s : State) (hk : FormKeeps link base (formPart s)) :
    OutForm link base (execDmaRequestError busAddr agent error s) := by
  unfold execDmaRequestError
  simp [hk]

@[simp] theorem execPoisonedWrite_form (correctable : Bool) (s : State) (hk : FormKeeps link base (formPart s)) :
    OutForm link base (execPoisonedWrite correctable s) := by
  unfold execPoisonedWrite
  simp [hk]

@[simp] theorem putSess_part (x : FabSession) (s : State) :
    formPart (putSess x s) = formPart s := by
  unfold putSess
  simp

@[simp] theorem updSess_part (peer : Nat) (f : FabSession → FabSession) (s : State) :
    formPart (updSess peer f s) = formPart s := by
  unfold updSess
  simp

@[simp] theorem emit_part (iface peer cls srcPort : Nat) (bytes : List Byte) (s : State) :
    formPart (emit iface peer cls srcPort bytes s) = formPart s := by
  unfold emit
  simp

@[simp] theorem sendPacket_part (peer typ cls : Nat) (records : List (List Byte)) (ops resps : List Nat) (s : State) :
    formPart (sendPacket peer typ cls records ops resps s) = formPart s := by
  unfold sendPacket
  simp only []
  (repeat' split) <;> simp

@[simp] theorem pumpLoop_part (barrier : Bool) (fuel : Nat) (peer : Nat) (s : State) :
    formPart (pumpLoop barrier fuel peer s) = formPart s := by
  induction fuel generalizing peer s with
  | zero => rfl
  | succ k ih =>
    unfold pumpLoop
    try simp only []
    (repeat' split) <;> simp_all

@[simp] theorem pumpOf_part (barrier : Bool) (peer : Nat) (s : State) :
    formPart (pumpOf barrier peer s) = formPart s := by
  unfold pumpOf
  split <;> simp

@[simp] theorem pump_part (peer : Nat) (s : State) :
    formPart (pump peer s) = formPart s := by
  unfold pump
  simp

@[simp] theorem pumpAll_part (s : State) :
    formPart (pumpAll s) = formPart s := by
  unfold pumpAll
  simp

@[simp] theorem fabPost_part (peer opcode subop : Nat) (o1 : BitVec 64) (body : List Byte) (cls : Nat) (unit : FabUnit) (s : State) :
    formPart (fabPost peer opcode subop o1 body cls unit s) = formPart s := by
  unfold fabPost
  simp

@[simp] theorem fabRespond_part (peer seq opcode subop : Nat) (o1 : BitVec 64) (body : List Byte) (cls : Nat) (s : State) :
    formPart (fabRespond peer seq opcode subop o1 body cls s) = formPart s := by
  unfold fabRespond
  simp

@[simp] theorem fabRespondMore_part (peer seq opcode subop : Nat) (o1 : BitVec 64) (body : List Byte) (cls : Nat) (s : State) :
    formPart (fabRespondMore peer seq opcode subop o1 body cls s) = formPart s := by
  unfold fabRespondMore
  simp

@[simp] theorem settleSeq_part (peer seq : Nat) (s : State) :
    formPart (settleSeq peer seq s) = formPart s := by
  unfold settleSeq
  simp

@[simp] theorem fabStatus_form (f : FabDesc) (status reason w2 : Nat) (s : State) (hk : FormKeeps link base (formPart s)) :
    FormKeeps link base (formPart (fabStatus f status reason w2 s)) := by
  unfold fabStatus
  simp [hk]

@[simp] theorem endFabDesc_form (id status reason w2 : Nat) (s : State) (hk : FormKeeps link base (formPart s)) :
    FormKeeps link base (formPart (endFabDesc id status reason w2 s)) := by
  unfold endFabDesc
  (repeat' split) <;> simp [hk]

@[simp] theorem slotStall_form (peer seq context tag opcode : Nat) (acc : Access) (m : MemCheck) (s : State)
    (hk : FormKeeps link base (formPart s)) :
    FormKeeps link base (formPart (slotStall peer seq context tag opcode acc m s)) := by
  unfold slotStall
  generalize (match m with
      | .absent p => if pageLost p s then none else some p
      | .hostHeld b => some (b / 4096)
      | _ => none) = waits
  dsimp only
  split
  · exact hk
  · split <;> simp [hk]

@[simp] theorem serveStall_form (peer seq : Nat) (acc : Access) (m : MemCheck) (s : State)
    (hk : FormKeeps link base (formPart s)) :
    FormKeeps link base (formPart (serveStall peer seq acc m s)) := by
  unfold serveStall
  simp [hk]

@[simp] theorem descStall_form (f : FabDesc) (acc : Access) (m : MemCheck) (s : State) (hk : FormKeeps link base (formPart s)) :
    FormKeeps link base (formPart (descStall f acc m s)) := by
  unfold descStall
  simp [hk]

@[simp] theorem moduleRead_part (unit inst tag opcode va n : Nat) (s : State) :
    formPart (moduleRead unit inst tag opcode va n s) = formPart s := by
  unfold moduleRead
  split <;> simp

@[simp] theorem slotFree_part (peer seq : Nat) (s : State) :
    formPart (slotFree peer seq s) = formPart s := by
  unfold slotFree
  simp

@[simp] theorem localAtomic_form (f : FabDesc) (s : State) (hk : FormKeeps link base (formPart s)) :
    FormKeeps link base (formPart (localAtomic f s)) := by
  unfold localAtomic
  simp only []
  split
  · exact endFabDesc_form _ _ _ _ _ (form_foldl (by simp [hk]) (fun s k hk => by simp [hk]))
  · simp [hk]

@[simp] theorem startAtomic_form (f : FabDesc) (s : State) (hk : FormKeeps link base (formPart s)) :
    FormKeeps link base (formPart (startAtomic f s)) := by
  unfold startAtomic
  simp [hk]

@[simp] theorem sendGlobal_part (dst g gseq subop : Nat) (data : List Byte) (s : State) :
    formPart (sendGlobal dst g gseq subop data s) = formPart s := by
  unfold sendGlobal
  simp

@[simp] theorem globalLand_form (f : FabDesc) (data : List Byte) (s : State) (hk : FormKeeps link base (formPart s)) :
    FormKeeps link base (formPart (globalLand f data s)) := by
  unfold globalLand
  simp [hk]

@[simp] theorem completeGlobal_form (f : FabDesc) (status reason bytes : Nat) (s : State)
    (hk : FormKeeps link base (formPart s)) :
    FormKeeps link base (formPart (completeGlobal f status reason bytes s)) := by
  unfold completeGlobal
  simp [hk]

@[simp] theorem releaseGlobal_form (g gseq subop : Nat) (data : List Byte) (s : State) (hk : FormKeeps link base (formPart s)) :
    FormKeeps link base (formPart (releaseGlobal g gseq subop data s)) := by
  have hsent : FormKeeps link base (formPart ((childModules g (myModule s) s).foldl (fun s m => sendGlobal m g gseq subop data s) s)) :=
    form_foldl hk (fun s m hk => by simp [hk])
  unfold releaseGlobal
  generalize (childModules g (myModule s) s).foldl (fun s m => sendGlobal m g gseq subop data s) s = u at hsent ⊢
  simp only []
  split
  · simp [hsent]
  · split
    · simp [hsent]
    · exact completeGlobal_form _ _ _ _ _ (by split <;> simp [hsent])

@[simp] theorem tryGlobal_form (g gseq : Nat) (s : State) (hk : FormKeeps link base (formPart s)) :
    FormKeeps link base (formPart (tryGlobal g gseq s)) := by
  unfold tryGlobal
  (repeat' split) <;> simp [hk]

@[simp] theorem startGlobal_form (f : FabDesc) (s : State) (hk : FormKeeps link base (formPart s)) :
    FormKeeps link base (formPart (startGlobal f s)) := by
  unfold startGlobal
  simp [hk]

@[simp] theorem resumeFabDesc_form (id : Nat) (s : State) (hk : FormKeeps link base (formPart s)) :
    FormKeeps link base (formPart (resumeFabDesc id s)) := by
  unfold resumeFabDesc
  (repeat' split) <;> simp [hk]

@[simp] theorem startFabDesc_form (id : Nat) (s : State) (hk : FormKeeps link base (formPart s)) :
    FormKeeps link base (formPart (startFabDesc id s)) := by
  unfold startFabDesc
  (repeat' split) <;> simp [hk]

@[simp] theorem takeFabDesc_form (core : Nat) (d : Desc) (org : Origin) (s : State) (hk : FormKeeps link base (formPart s)) :
    FormKeeps link base (formPart (takeFabDesc core d org s)) := by
  unfold takeFabDesc
  simp [hk]

@[simp] theorem ownerEmit_part (peer : Option UdpPath) (record : List Byte) (s : State) :
    formPart (ownerEmit peer record s) = formPart s := by
  unfold ownerEmit
  (repeat' split) <;> simp

@[simp] theorem updOwner_part (sid : Nat) (f : OwnerSession → OwnerSession) (s : State) :
    formPart (updOwner sid f s) = formPart s := by
  unfold updOwner
  simp

@[simp] theorem ownerSend_part (sid kind : Nat) (payload : List Byte) (s : State) :
    formPart (ownerSend sid kind payload s) = formPart s := by
  unfold ownerSend
  (repeat' split) <;> simp

@[simp] theorem ownerCompletion_part (queue count_ : Nat) (record : List Byte) (s : State) :
    formPart (ownerCompletion queue count_ record s) = formPart s := by
  unfold ownerCompletion
  (repeat' split) <;> simp

@[simp] theorem updCmd_part (n id : Nat) (f : Cmd → Cmd) (s : State) :
    formPart (updCmd n id f s) = formPart s := by
  unfold updCmd
  simp

@[simp] theorem finishCmd_part (n id status reason : Nat) (result : BitVec 64) (s : State) :
    formPart (finishCmd n id status reason result s) = formPart s := by
  unfold finishCmd
  simp

@[simp] theorem slotRead_form (va : Nat) (s : State) (hk : FormKeeps link base (formPart s)) :
    FormKeeps link base (formPart (slotRead va s)) := by
  unfold slotRead
  simp [hk]

@[simp] theorem headRead_form (n : Nat) (s : State) (hk : FormKeeps link base (formPart s)) :
    FormKeeps link base (formPart (headRead n s)) := by
  unfold headRead
  simp [hk]

@[simp] theorem fetchLoop_form (fuel : Nat) (n : Nat) (s : State) (hk : FormKeeps link base (formPart s)) :
    FormKeeps link base (formPart (fetchLoop fuel n s)) := by
  induction fuel generalizing n s with
  | zero => exact hk
  | succ k ih =>
    unfold fetchLoop
    simp only []
    (repeat' split)
    · exact hk
    · exact hk
    · exact hk
    · simp [hk]
    · simp [hk]
    · simp [hk]
    · refine ih _ _ ?_
      simp only [updQueue_part, formPart_mk, formPart_eta]
      exact form_foldl hk (fun s i hk => by simp [hk])

@[simp] theorem fetchQueue_form (n : Nat) (s : State) (hk : FormKeeps link base (formPart s)) :
    FormKeeps link base (formPart (fetchQueue n s)) := by
  unfold fetchQueue
  (repeat' split) <;> simp [hk]

@[simp] theorem retryQueue_form (n : Nat) (s : State) (hk : FormKeeps link base (formPart s)) :
    FormKeeps link base (formPart (retryQueue n s)) := by
  unfold retryQueue
  simp only []
  (repeat' split) <;> simp [hk]

@[simp] theorem directShadow_form (n tail : Nat) (disabled : Bool) (s : State) (hk : FormKeeps link base (formPart s)) :
    FormKeeps link base (formPart (directShadow n tail disabled s)) := by
  unfold directShadow
  simp [hk]

@[simp] theorem execTailDoorbell_form (queue : Nat) (w : HostWrite) (s : State) (hk : FormKeeps link base (formPart s)) :
    OutForm link base (execTailDoorbell queue w s) := by
  unfold execTailDoorbell
  (repeat' split) <;> simp [hk]

@[simp] theorem produceCmd_form (n : Nat) (w : BitVec 512) (ext : List (BitVec 512)) (s : State)
    (hk : FormKeeps link base (formPart s)) : FormKeeps link base (formPart (produceCmd n w ext s)) := by
  unfold produceCmd
  refine fetchQueue_form _ _ ?_
  simp only [updQueue_part]
  exact form_foldl hk (fun s x hk => by simp [hk])

@[simp] theorem showWaiting_part (n : Nat) (s : State) :
    formPart (showWaiting n s) = formPart s := by
  unfold showWaiting
  simp

@[simp] theorem settleSkips_part (fuel : Nat) (id : Nat) (s : State) :
    formPart (settleSkips fuel id s) = formPart s := by
  induction fuel generalizing id s with
  | zero => rfl
  | succ k ih =>
    unfold settleSkips
    try simp only []
    (repeat' split) <;> simp_all

@[simp] theorem skipStages_part (id : Nat) (s : State) :
    formPart (skipStages id s) = formPart s := by
  unfold skipStages
  simp

@[simp] theorem setStage_part (id stage : Nat) (p : StagePhase) (spec : Nat) (s : State) :
    formPart (setStage id stage p spec s) = formPart s := by
  unfold setStage
  simp

@[simp] theorem dispatchTasks_form (l : Launch) (r : BitVec 256) (spec : Nat) (s : State)
    (hk : FormKeeps link base (formPart s)) : FormKeeps link base (formPart (dispatchTasks l r spec s)) := by
  unfold dispatchTasks
  simp only [setStage_part]
  refine form_foldl ?_ (fun s c hk => by simp [hk])
  split
  · exact form_foldl hk (fun s c hk => by simp [hk])
  · simp [hk]

@[simp] theorem execStageDispatch_form (launch stage : Nat) (s : State) (hk : FormKeeps link base (formPart s)) :
    OutForm link base (execStageDispatch launch stage s) := by
  unfold execStageDispatch
  simp only []
  (repeat' split) <;> simp [hk]

@[simp] theorem stageTaskEnded_part (id stage core : Nat) (s : State) :
    formPart (stageTaskEnded id stage core s) = formPart s := by
  unfold stageTaskEnded
  (repeat' split) <;> simp

@[simp] theorem beginLaunch_part (n graph version epoch : Nat) (cmd request : Option Nat) (session : Nat) (args : List Byte) (legacy : Bool) (s : State) :
    formPart (beginLaunch n graph version epoch cmd request session args legacy s) = formPart s := by
  unfold beginLaunch
  (repeat' split) <;> simp

@[simp] theorem updAdmitted_part (seq : Nat) (f : Admitted → Admitted) (s : State) :
    formPart (updAdmitted seq f s) = formPart s := by
  unfold updAdmitted
  simp

@[simp] theorem readyResp_part (a : Admitted) (h : LorjoHdr) (payload : List Byte) (request : Option Nat) (s : State) :
    formPart (readyResp a h payload request s) = formPart s := by
  unfold readyResp
  simp

@[simp] theorem answerRefused_part (c : Cmd) (s : State) :
    formPart (answerRefused c s) = formPart s := by
  unfold answerRefused
  (repeat' split) <;> simp

@[simp] theorem bindRequest_form (id seq : Nat) (s : State) (hk : FormKeeps link base (formPart s)) :
    FormKeeps link base (formPart (bindRequest id seq s)) := by
  unfold bindRequest
  (repeat' split) <;> simp [hk]

@[simp] theorem clearPredictions_part (graph : Nat) (s : State) :
    formPart (clearPredictions graph s) = formPart s := by
  unfold clearPredictions
  simp

@[simp] theorem uncharge_part (context n : Nat) (s : State) :
    formPart (uncharge context n s) = formPart s := by
  unfold uncharge
  simp

@[simp] theorem freeVersion_form (graph version : Nat) (s : State) (hk : FormKeeps link base (formPart s)) :
    FormKeeps link base (formPart (freeVersion graph version s)) := by
  unfold freeVersion
  simp only []
  (repeat' split) <;> simp [hk]

@[simp] theorem installVersion_form (n id graph : Nat) (v : GraphVersion) (digest : List Byte) (c : Ctx) (s : State)
    (hk : FormKeeps link base (formPart s)) :
    FormKeeps link base (formPart (installVersion n id graph v digest c s)) := by
  unfold installVersion
  simp only []
  split
  · rename_i h; simp [hk, allocModule_part h]
  · simp [hk]

@[simp] theorem refuseImage_part (n id graph reason : Nat) (record signature : Bool) (s : State) :
    formPart (refuseImage n id graph reason record signature s) = formPart s := by
  unfold refuseImage
  simp

@[simp] theorem runImage_form (n : Nat) (c : Cmd) (patch : Bool) (s : State) (hk : FormKeeps link base (formPart s)) :
    FormKeeps link base (formPart (runImage n c patch s)) := by
  unfold runImage
  simp only []
  (repeat' split) <;> simp [hk]

@[simp] theorem retryPatch_form (graph : Nat) (s : State) (hk : FormKeeps link base (formPart s)) :
    FormKeeps link base (formPart (retryPatch graph s)) := by
  unfold retryPatch
  (repeat' split) <;> simp [hk]

@[simp] theorem execVersionFree_form (graph version : Nat) (s : State) (hk : FormKeeps link base (formPart s)) :
    OutForm link base (execVersionFree graph version s) := by
  unfold execVersionFree
  simp [hk]

@[simp] theorem execPatchSlotTimeout_form (queue cmd : Nat) (s : State) (hk : FormKeeps link base (formPart s)) :
    OutForm link base (execPatchSlotTimeout queue cmd s) := by
  unfold execPatchSlotTimeout
  (repeat' split) <;> simp [hk]

@[simp] theorem cmdStall_form (n : Nat) (c : Cmd) (acc : Access) (m : MemCheck) (s : State)
    (hk : FormKeeps link base (formPart s)) :
    FormKeeps link base (formPart (cmdStall n c acc m s)) := by
  unfold cmdStall
  simp [hk]

@[simp] theorem markDispatched_part (n id : Nat) (s : State) :
    formPart (markDispatched n id s) = formPart s := by
  unfold markDispatched
  simp

@[simp] theorem runNop_part (n : Nat) (c : Cmd) (s : State) :
    formPart (runNop n c s) = formPart s := by
  unfold runNop
  simp

@[simp] theorem runLaunch_form (n : Nat) (c : Cmd) (s : State) (hk : FormKeeps link base (formPart s)) :
    FormKeeps link base (formPart (runLaunch n c s)) := by
  unfold runLaunch
  simp only []
  (repeat' split) <;> simp [hk]

@[simp] theorem takeDescCore_form (n core op k : Nat) (s : State) (hk : FormKeeps link base (formPart s)) :
    FormKeeps link base (formPart (takeDescCore n core op k s).2) := by
  unfold takeDescCore
  (repeat' split) <;> simp [hk]

@[simp] theorem runDescriptor_form (n : Nat) (c : Cmd) (s : State) (hk : FormKeeps link base (formPart s)) :
    FormKeeps link base (formPart (runDescriptor n c s)) := by
  unfold runDescriptor
  simp [hk]

@[simp] theorem runInlineWrite_form (n : Nat) (c : Cmd) (s : State) (hk : FormKeeps link base (formPart s)) :
    FormKeeps link base (formPart (runInlineWrite n c s)) := by
  unfold runInlineWrite
  simp only []
  (repeat' split) <;> simp [hk]

@[simp] theorem readImage_form (c : Cmd) (s : State) (hk : FormKeeps link base (formPart s)) :
    FormKeeps link base (formPart (readImage c s)) := by
  unfold readImage
  (repeat' split) <;> simp [hk]

@[simp] theorem runGraphLoad_form (n : Nat) (c : Cmd) (s : State) (hk : FormKeeps link base (formPart s)) :
    FormKeeps link base (formPart (runGraphLoad n c s)) := by
  unfold runGraphLoad
  (repeat' split) <;> simp [hk]

@[simp] theorem runGraphPatch_form (n : Nat) (c : Cmd) (s : State) (hk : FormKeeps link base (formPart s)) :
    FormKeeps link base (formPart (runGraphPatch n c s)) := by
  unfold runGraphPatch
  (repeat' split) <;> simp [hk]

@[simp] theorem runGraphUnload_form (n : Nat) (c : Cmd) (s : State) (hk : FormKeeps link base (formPart s)) :
    FormKeeps link base (formPart (runGraphUnload n c s)) := by
  unfold runGraphUnload
  simp +contextual [hk]

@[simp] theorem scrubControl_part (core : Nat) (s : State) :
    formPart (scrubControl core s) = formPart s := by
  unfold scrubControl
  simp

@[simp] theorem noteReady_form (s : State) (hk : FormKeeps link base (formPart s)) :
    FormKeeps link base (formPart (noteReady s)) := by
  unfold noteReady
  simp [hk]

@[simp] theorem placeTask_form (n : Nat) (c : Cmd) (core entry arg : Nat) (s : State) (hk : FormKeeps link base (formPart s)) :
    FormKeeps link base (formPart (placeTask n c core entry arg s)) := by
  unfold placeTask
  simp [hk]

@[simp] theorem runTask_form (n : Nat) (c : Cmd) (s : State) (hk : FormKeeps link base (formPart s)) :
    FormKeeps link base (formPart (runTask n c s)) := by
  unfold runTask
  simp [hk]

@[simp] theorem runCmd_form (n : Nat) (c : Cmd) (s : State) (hk : FormKeeps link base (formPart s)) :
    FormKeeps link base (formPart (runCmd n c s)) := by
  unfold runCmd
  simp [hk]

@[simp] theorem readObject_form (va : Nat) (s : State) (hk : FormKeeps link base (formPart s)) :
    FormKeeps link base (formPart (readObject va s)) := by
  unfold readObject
  (repeat' split) <;> simp [hk]

@[simp] theorem holdCmd_part (n : Nat) (c : Cmd) (v : BitVec 64) (s : State) :
    formPart (holdCmd n c v s) = formPart s := by
  unfold holdCmd
  (repeat' split) <;> simp

@[simp] theorem dispatchNext_form (n : Nat) (s : State) (hk : FormKeeps link base (formPart s)) :
    FormKeeps link base (formPart (dispatchNext n s)) := by
  unfold dispatchNext
  (repeat' split) <;> simp [hk]

@[simp] theorem takeUp_form (op n : Nat) (s : State) (hk : FormKeeps link base (formPart s)) :
    OutForm link base (takeUp op n s) := by
  unfold takeUp
  (repeat' split) <;> simp [hk]

@[simp] theorem execNop_form (queue : Nat) (s : State) (hk : FormKeeps link base (formPart s)) :
    OutForm link base (execNop queue s) := by
  unfold execNop
  simp [hk]

@[simp] theorem execLaunch_form (queue : Nat) (s : State) (hk : FormKeeps link base (formPart s)) :
    OutForm link base (execLaunch queue s) := by
  unfold execLaunch
  simp [hk]

@[simp] theorem execDescriptor_form (queue : Nat) (s : State) (hk : FormKeeps link base (formPart s)) :
    OutForm link base (execDescriptor queue s) := by
  unfold execDescriptor
  simp [hk]

@[simp] theorem execInlineWrite_form (queue : Nat) (s : State) (hk : FormKeeps link base (formPart s)) :
    OutForm link base (execInlineWrite queue s) := by
  unfold execInlineWrite
  simp [hk]

@[simp] theorem execGraphLoad_form (queue : Nat) (s : State) (hk : FormKeeps link base (formPart s)) :
    OutForm link base (execGraphLoad queue s) := by
  unfold execGraphLoad
  simp [hk]

@[simp] theorem execGraphPatch_form (queue : Nat) (s : State) (hk : FormKeeps link base (formPart s)) :
    OutForm link base (execGraphPatch queue s) := by
  unfold execGraphPatch
  simp [hk]

@[simp] theorem execGraphUnload_form (queue : Nat) (s : State) (hk : FormKeeps link base (formPart s)) :
    OutForm link base (execGraphUnload queue s) := by
  unfold execGraphUnload
  simp [hk]

@[simp] theorem execTask_form (queue : Nat) (s : State) (hk : FormKeeps link base (formPart s)) :
    OutForm link base (execTask queue s) := by
  unfold execTask
  simp [hk]

@[simp] theorem execCommandWaitMet_form (queue : Nat) (s : State) (hk : FormKeeps link base (formPart s)) :
    OutForm link base (execCommandWaitMet queue s) := by
  unfold execCommandWaitMet
  (repeat' split) <;> simp [hk]

@[simp] theorem execHostPoll_form (s : State) (hk : FormKeeps link base (formPart s)) : OutForm link base (execHostPoll s) := by
  have hread : FormKeeps link base
      (formPart (((polledObjects s).filter (fun o => onHostPage o.1 s)).foldl (fun s o => readObject o.1 s) s)) :=
    form_foldl hk (fun s o hk => by simp [hk])
  unfold execHostPoll
  split
  · exact hk
  · refine form_foldl ?_ (fun s o hk => by simp [hk])
    simpa using hread

@[simp] theorem execHitchTimeout_form (queue core : Option Nat) (s : State) (hk : FormKeeps link base (formPart s)) :
    OutForm link base (execHitchTimeout queue core s) := by
  unfold execHitchTimeout
  (repeat' split) <;> simp [hk]

@[simp] theorem recordWrite_form (n : Nat) (drop : Bool) (va : Nat) (bytes : List Byte) (s : State)
    (hk : FormKeeps link base (formPart s)) :
    FormKeeps link base (formPart (recordWrite n drop va bytes s)) := by
  unfold recordWrite
  (repeat' split) <;> simp [hk]

@[simp] theorem applySignal_form (drop : Bool) (va : Nat) (store : Bool) (v : Nat) (s : State)
    (hk : FormKeeps link base (formPart s)) :
    FormKeeps link base (formPart (applySignal drop va store v s)) := by
  unfold applySignal
  (repeat' split) <;> simp [hk]

@[simp] theorem noteFlag_part (c : Cmd) (s : State) :
    formPart (noteFlag c s) = formPart s := by
  unfold noteFlag
  (repeat' split) <;> simp

@[simp] theorem postCompletion_form (n : Nat) (c : Cmd) (s : State) (hk : FormKeeps link base (formPart s)) :
    FormKeeps link base (formPart (postCompletion n c s)) := by
  unfold postCompletion
  (repeat' split) <;> simp [hk]

@[simp] theorem tryPost_form (n : Nat) (c : Cmd) (s : State) (hk : FormKeeps link base (formPart s)) :
    FormKeeps link base (formPart (tryPost n c s).1) := by
  unfold tryPost
  simp only []
  (repeat' split) <;> simp [hk]

@[simp] theorem completeCmd_form (n : Nat) (c : Cmd) (s : State) (hk : FormKeeps link base (formPart s)) :
    FormKeeps link base (formPart (completeCmd n c s)) := by
  unfold completeCmd
  simp only []
  (repeat' split) <;> simp [hk]

@[simp] theorem releaseHeld_form (fuel : Nat) (n : Nat) (s : State) (hk : FormKeeps link base (formPart s)) :
    FormKeeps link base (formPart (releaseHeld fuel n s)) := by
  induction fuel generalizing n s with
  | zero => exact hk
  | succ k ih =>
    unfold releaseHeld
    try simp only []
    (repeat' split) <;> simp_all

@[simp] theorem serveHeld_form (n : Nat) (s : State) (hk : FormKeeps link base (formPart s)) :
    FormKeeps link base (formPart (serveHeld n s)) := by
  unfold serveHeld
  (repeat' split) <;> simp [hk]

@[simp] theorem completeNative_form (queue cmd : Nat) (s : State) (hk : FormKeeps link base (formPart s)) :
    FormKeeps link base (formPart (completeNative queue cmd s)) := by
  unfold completeNative
  (repeat' split) <;> simp [hk]

@[simp] theorem execCqHeadDoorbell_form (queue : Nat) (w : HostWrite) (s : State) (hk : FormKeeps link base (formPart s)) :
    OutForm link base (execCqHeadDoorbell queue w s) := by
  unfold execCqHeadDoorbell
  (repeat' split) <;> simp [hk]

@[simp] theorem chargeDesc_part (org : Origin) (s : State) :
    formPart (chargeDesc org s) = formPart s := by
  unfold chargeDesc
  (repeat' split) <;> simp

@[simp] theorem descriptorDone_part (org : Origin) (w0 : Nat) (s : State) :
    formPart (descriptorDone org w0 s) = formPart s := by
  unfold descriptorDone
  (repeat' split) <;> simp

@[simp] theorem descriptorSilent_part (org : Origin) (s : State) :
    formPart (descriptorSilent org s) = formPart s := by
  unfold descriptorSilent
  (repeat' split) <;> simp

theorem allocRings_part {n : Nat} {s t : State} (h : allocRings n s = some t) :
    formPart t = formPart s := by
  unfold allocRings at h
  simp only [] at h
  split at h
  · split at h
    · rename_i h'; cases h; simp [allocModule_part h']
    · cases h
  · cases h; rfl

@[simp] theorem placeRequest_form (a : Admitted) (s : State) (hk : FormKeeps link base (formPart s)) :
    FormKeeps link base (formPart (placeRequest a s)) := by
  unfold placeRequest
  simp [hk]

@[simp] theorem placeWaiting_form (n : Nat) (s : State) (hk : FormKeeps link base (formPart s)) :
    FormKeeps link base (formPart (placeWaiting n s)) := by
  unfold placeWaiting
  simp +contextual [hk]

@[simp] theorem startPersistent_part (n : Nat) (s : State) :
    formPart (startPersistent n s) = formPart s := by
  unfold startPersistent
  simp

@[simp] theorem enableQueue_form (n : Nat) (s : State) (hk : FormKeeps link base (formPart s)) :
    FormKeeps link base (formPart (enableQueue n s)) := by
  unfold enableQueue
  split
  · exact hk
  · rename_i h; simp [hk, allocRings_part h]

@[simp] theorem queueEnableAction_form (n : Nat) (x1 : ReqId) (bytes : List Byte) (s : State)
    (hk : FormKeeps link base (formPart s)) :
    FormKeeps link base (formPart (queueEnableAction n x1 bytes s)) := by
  unfold queueEnableAction
  simp [hk]

@[simp] theorem execQueueEnable_form (req : ReqId) (queue value : Nat) (s : State) (hk : FormKeeps link base (formPart s)) :
    OutForm link base (execQueueEnable req queue value s) := by
  unfold execQueueEnable
  simp +contextual [hk]

@[simp] theorem queueOff_form (n : Nat) (s : State) (hk : FormKeeps link base (formPart s)) :
    FormKeeps link base (formPart (queueOff n s)) := by
  unfold queueOff
  simp [hk]

@[simp] theorem setX_part (core n : Nat) (v : BitVec 64) (s : State) :
    formPart (setX core n v s) = formPart s := by
  unfold setX
  simp

@[simp] theorem done4_form (core : Nat) (t : State) : ResForm link base (done4 core t) = FormKeeps link base (formPart t) := by
  simp [done4]

@[simp] theorem syncException_part (core cause : Nat) (s : State) :
    formPart (syncException core cause s) = formPart s := by
  unfold syncException
  simp

end Sys2Proof.Machine
end

section
/-! SUPPORT. The form of the memories along the meanings, in the order of the model: from `retire` to `retireFrame`. -/

namespace Sys2Proof.Machine

open Sys2Proof

variable {link : Bool} {base : Memories × LinkView}

@[simp] theorem retire_part (core : Nat) (pc : BitVec 64) (s : State) :
    formPart (retire core pc s) = formPart s := by
  unfold retire
  simp

theorem applyRes_form {s : State} {r : CoreRes} (core : Nat) (h : ResForm link base r) (hk : FormKeeps link base (formPart s)) :
    FormKeeps link base (formPart (applyRes core s r)) := by
  cases r <;> simp_all [applyRes]

theorem runInstr_form {f : State → CoreRes} (h : ∀ s, FormKeeps link base (formPart s) → ResForm link base (f s)) (core len : Nat)
    (s : State) (hk : FormKeeps link base (formPart s)) : FormKeeps link base (formPart (runInstr core len f s)) := by
  unfold runInstr
  simp only []
  split
  · exact hk
  · split
    · simp [hk]
    · split
      · simp [hk]
      · exact applyRes_form core (h _ (by simp [hk])) (by simp [hk])

theorem inOrder_form {f : State → CoreRes} (h : ∀ s, FormKeeps link base (formPart s) → ResForm link base (f s)) (core : Nat)
    (w : BitVec 32) (s : State) (hk : FormKeeps link base (formPart s)) : ResForm link base (inOrder core w f s) := by
  unfold inOrder
  split
  · simp [hk]
  · exact h s hk

@[simp] theorem runCustom_form {f : State → CoreRes} (h : ∀ s, FormKeeps link base (formPart s) → ResForm link base (f s)) (core : Nat)
    (word : BitVec 32) (is : Bool) (s : State) (hk : FormKeeps link base (formPart s)) :
    OutForm link base (runCustom core word is f s) := by
  unfold runCustom
  (repeat' split)
  · trivial
  · exact runInstr_form (inOrder_form h core word) core 4 s hk
  · exact hk

@[simp] theorem taskStore_form (core : Nat) (ws : List (Nat × List Byte)) (s : State) (hk : FormKeeps link base (formPart s)) :
    FormKeeps link base (formPart (taskStore core ws s)) := by
  unfold taskStore
  simp [hk]

@[simp] theorem countConv_part (l : List Conv) (s : State) :
    formPart (countConv l s) = formPart s := by
  unfold countConv
  simp

@[simp] theorem setV_part (core n : Nat) (v : BitVec 4096) (s : State) :
    formPart (setV core n v s) = formPart s := by
  unfold setV
  simp

@[simp] theorem vDone_form (core : Nat) (t : State) : ResForm link base (vDone core t) = FormKeeps link base (formPart t) := by
  simp [vDone, done4]

@[simp] theorem vecSramWait_part (core : Nat) (s : State) :
    formPart (vecSramWait core s) = formPart s := by
  unfold vecSramWait
  simp

@[simp] theorem viaQueue_form (core : Nat) (w : BitVec 32) (f : State → CoreRes) (s : State) (h : ResForm link base (f s))
    (hk : FormKeeps link base (formPart s)) : ResForm link base (viaQueue core w f s) := by
  unfold viaQueue
  simp only []
  split
  · exact h
  · split
    · trivial
    · simp [hk]

@[simp] theorem opVsetl_form (core : Nat) (w : BitVec 32) (s : State) (hk : FormKeeps link base (formPart s)) :
    ResForm link base (opVsetl core w s) := by
  unfold opVsetl
  simp [hk]

@[simp] theorem execVsetl_form (core : Nat) (word : BitVec 32) (s : State) (hk : FormKeeps link base (formPart s)) :
    OutForm link base (execVsetl core word s) := by
  unfold execVsetl
  simp +contextual [hk]

@[simp] theorem opVld_form (core : Nat) (w : BitVec 32) (s : State) (hk : FormKeeps link base (formPart s)) :
    ResForm link base (opVld core w s) := by
  unfold opVld
  simp [hk]

@[simp] theorem execVld_form (core : Nat) (word : BitVec 32) (s : State) (hk : FormKeeps link base (formPart s)) :
    OutForm link base (execVld core word s) := by
  unfold execVld
  exact runCustom_form (fun s hk => by simp [hk]) _ _ _ s hk

@[simp] theorem opVst_form (core : Nat) (w : BitVec 32) (s : State) (hk : FormKeeps link base (formPart s)) :
    ResForm link base (opVst core w s) := by
  unfold opVst
  simp [hk]

@[simp] theorem execVst_form (core : Nat) (word : BitVec 32) (s : State) (hk : FormKeeps link base (formPart s)) :
    OutForm link base (execVst core word s) := by
  unfold execVst
  exact runCustom_form (fun s hk => by simp [hk]) _ _ _ s hk

@[simp] theorem vop_form (core : Nat) (w : BitVec 32) (vx : Bool) (b : Nat → Nat) (s : State)
    (hk : FormKeeps link base (formPart s)) :
    ResForm link base (vop core w vx b s) := by
  unfold vop
  simp [hk]

@[simp] theorem opVopVv_form (core : Nat) (w : BitVec 32) (s : State) (hk : FormKeeps link base (formPart s)) :
    ResForm link base (opVopVv core w s) := by
  unfold opVopVv
  simp [hk]

@[simp] theorem execVopVv_form (core : Nat) (word : BitVec 32) (s : State) (hk : FormKeeps link base (formPart s)) :
    OutForm link base (execVopVv core word s) := by
  unfold execVopVv
  exact runCustom_form (fun s hk => by simp [hk]) _ _ _ s hk

@[simp] theorem opVopVx_form (core : Nat) (w : BitVec 32) (s : State) (hk : FormKeeps link base (formPart s)) :
    ResForm link base (opVopVx core w s) := by
  unfold opVopVx
  simp [hk]

@[simp] theorem execVopVx_form (core : Nat) (word : BitVec 32) (s : State) (hk : FormKeeps link base (formPart s)) :
    OutForm link base (execVopVx core word s) := by
  unfold execVopVx
  exact runCustom_form (fun s hk => by simp [hk]) _ _ _ s hk

@[simp] theorem opVun_form (core : Nat) (w : BitVec 32) (s : State) (hk : FormKeeps link base (formPart s)) :
    ResForm link base (opVun core w s) := by
  unfold opVun
  simp [hk]

@[simp] theorem execVun_form (core : Nat) (word : BitVec 32) (s : State) (hk : FormKeeps link base (formPart s)) :
    OutForm link base (execVun core word s) := by
  unfold execVun
  exact runCustom_form (fun s hk => by simp [hk]) _ _ _ s hk

@[simp] theorem countTask_part (core : Nat) (l : List Conv) (s : State) :
    formPart (countTask core l s) = formPart s := by
  unfold countTask
  simp

@[simp] theorem opVcvt_form (core : Nat) (w : BitVec 32) (s : State) (hk : FormKeeps link base (formPart s)) :
    ResForm link base (opVcvt core w s) := by
  unfold opVcvt
  simp [hk]

@[simp] theorem execVcvt_form (core : Nat) (word : BitVec 32) (s : State) (hk : FormKeeps link base (formPart s)) :
    OutForm link base (execVcvt core word s) := by
  unfold execVcvt
  exact runCustom_form (fun s hk => by simp [hk]) _ _ _ s hk

@[simp] theorem setSlot_part (core n : Nat) (v : BitVec 64) (s : State) :
    formPart (setSlot core n v s) = formPart s := by
  unfold setSlot
  simp

@[simp] theorem opVred_form (core : Nat) (w : BitVec 32) (s : State) (hk : FormKeeps link base (formPart s)) :
    ResForm link base (opVred core w s) := by
  unfold opVred
  simp [hk]

@[simp] theorem execVred_form (core : Nat) (word : BitVec 32) (s : State) (hk : FormKeeps link base (formPart s)) :
    OutForm link base (execVred core word s) := by
  unfold execVred
  exact runCustom_form (fun s hk => by simp [hk]) _ _ _ s hk

@[simp] theorem offer_part (core : Nat) (l : List (BitVec 32 × BitVec 32)) (s : State) :
    formPart (offer core l s) = formPart s := by
  unfold offer
  simp

@[simp] theorem opTopkSet_form (core : Nat) (w : BitVec 32) (s : State) (hk : FormKeeps link base (formPart s)) :
    ResForm link base (opTopkSet core w s) := by
  unfold opTopkSet
  simp [hk]

@[simp] theorem execVtopkSet_form (core : Nat) (word : BitVec 32) (s : State) (hk : FormKeeps link base (formPart s)) :
    OutForm link base (execVtopkSet core word s) := by
  unfold execVtopkSet
  exact runCustom_form (fun s hk => by simp [hk]) _ _ _ s hk

@[simp] theorem opTopkInsert_form (core : Nat) (w : BitVec 32) (s : State) (hk : FormKeeps link base (formPart s)) :
    ResForm link base (opTopkInsert core w s) := by
  unfold opTopkInsert
  simp [hk]

@[simp] theorem execVtopkInsert_form (core : Nat) (word : BitVec 32) (s : State) (hk : FormKeeps link base (formPart s)) :
    OutForm link base (execVtopkInsert core word s) := by
  unfold execVtopkInsert
  exact runCustom_form (fun s hk => by simp [hk]) _ _ _ s hk

@[simp] theorem opTopkStore_form (core : Nat) (w : BitVec 32) (s : State) (hk : FormKeeps link base (formPart s)) :
    ResForm link base (opTopkStore core w s) := by
  unfold opTopkStore
  simp [hk]

@[simp] theorem execVtopkStore_form (core : Nat) (word : BitVec 32) (s : State) (hk : FormKeeps link base (formPart s)) :
    OutForm link base (execVtopkStore core word s) := by
  unfold execVtopkStore
  exact runCustom_form (fun s hk => by simp [hk]) _ _ _ s hk

@[simp] theorem opTopkFloor_form (core : Nat) (w : BitVec 32) (s : State) (hk : FormKeeps link base (formPart s)) :
    ResForm link base (opTopkFloor core w s) := by
  unfold opTopkFloor
  simp [hk]

@[simp] theorem execVtopkFloor_form (core : Nat) (word : BitVec 32) (s : State) (hk : FormKeeps link base (formPart s)) :
    OutForm link base (execVtopkFloor core word s) := by
  unfold execVtopkFloor
  exact runCustom_form (fun s hk => by simp [hk]) _ _ _ s hk

@[simp] theorem vecOp_form (core : Nat) (w : BitVec 32) (s : State) (hk : FormKeeps link base (formPart s)) :
    ResForm link base (vecOp core w s) := by
  unfold vecOp
  (repeat' split) <;> simp [hk]

@[simp] theorem opCustom0_form (core : Nat) (w : BitVec 32) (s : State) (hk : FormKeeps link base (formPart s)) :
    ResForm link base (opCustom0 core w s) := by
  unfold opCustom0
  (repeat' split) <;> simp [hk]

theorem vecOp_result {core : Nat} {w : BitVec 32} {u : State} {r : CoreRes} (h : vecOp core w u = r)
    (hk : FormKeeps link base (formPart u)) : ResForm link base r :=
  h ▸ vecOp_form core w u hk

@[simp] theorem runQueued_form (core : Nat) (i : VqInstr) (s : State) (hk : FormKeeps link base (formPart s)) :
    FormKeeps link base (formPart (runQueued core i s)) := by
  unfold runQueued
  simp only [updCtl_part, updVec_part]
  split
  next h => simpa using vecOp_result (link := link) (base := base) h (by simp [hk])
  next h => simpa using vecOp_result (link := link) (base := base) h (by simp [hk])
  next h => simpa using vecOp_result (link := link) (base := base) h (by simp [hk])
  next h => simp [hk]

@[simp] theorem drainVq_form (fuel core : Nat) (s : State) (hk : FormKeeps link base (formPart s)) :
    FormKeeps link base (formPart (drainVq fuel core s)) := by
  induction fuel generalizing core s with
  | zero => exact hk
  | succ k ih =>
    unfold drainVq
    (repeat' split) <;> simp_all

@[simp] theorem serveVq_form (core : Nat) (s : State) (hk : FormKeeps link base (formPart s)) :
    FormKeeps link base (formPart (serveVq core s)) := by
  unfold serveVq
  simp [hk]

@[simp] theorem passDesc_part (core : Nat) (d : Desc) (org : Origin) (s : State) :
    formPart (passDesc core d org s) = formPart s := by
  unfold passDesc
  simp

@[simp] theorem opEissue_form (core : Nat) (w : BitVec 32) (s : State) (hk : FormKeeps link base (formPart s)) :
    ResForm link base (opEissue core w s) := by
  unfold opEissue
  simp [hk]

@[simp] theorem execEissue_form (core : Nat) (word : BitVec 32) (s : State) (hk : FormKeeps link base (formPart s)) :
    OutForm link base (execEissue core word s) := by
  unfold execEissue
  simp +contextual [hk]

@[simp] theorem opEfence_form (core : Nat) (w : BitVec 32) (s : State) (hk : FormKeeps link base (formPart s)) :
    ResForm link base (opEfence core w s) := by
  unfold opEfence
  simp [hk]

@[simp] theorem execEfence_form (core : Nat) (word : BitVec 32) (s : State) (hk : FormKeeps link base (formPart s)) :
    OutForm link base (execEfence core word s) := by
  unfold execEfence
  simp +contextual [hk]

@[simp] theorem opSmrd_form (core : Nat) (w : BitVec 32) (s : State) (hk : FormKeeps link base (formPart s)) :
    ResForm link base (opSmrd core w s) := by
  unfold opSmrd
  simp [hk]

@[simp] theorem execSmrd_form (core : Nat) (word : BitVec 32) (s : State) (hk : FormKeeps link base (formPart s)) :
    OutForm link base (execSmrd core word s) := by
  unfold execSmrd
  simp +contextual [hk]

@[simp] theorem dropWait_part (core : Nat) (s : State) :
    formPart (dropWait core s) = formPart s := by
  unfold dropWait
  simp

@[simp] theorem endWait_part (core : Nat) (s : State) :
    formPart (endWait core s) = formPart s := by
  unfold endWait
  (repeat' split) <;> simp

@[simp] theorem putWait_part (x : CoreWait) (s : State) :
    formPart (putWait x s) = formPart s := by
  unfold putWait
  simp

@[simp] theorem holdWait_part (core : Nat) (w : BitVec 32) (addr : Nat) (isLocal : Bool) (v : BitVec 64) (s : State) :
    formPart (holdWait core w addr isLocal v s) = formPart s := by
  unfold holdWait
  (repeat' split) <;> simp

-- an HWAIT's result is judged from the state in which it was evaluated

theorem evalWait_form (core : Nat) (w : BitVec 32) (addr : Nat) (isLocal : Bool) (s : State)
    (hk : FormKeeps link base (formPart s)) :
    ResForm link base (evalWait core w addr isLocal s) := by
  unfold evalWait
  simp [hk]

@[simp] theorem opHwait_form (core : Nat) (w : BitVec 32) (s : State) (hk : FormKeeps link base (formPart s)) :
    ResForm link base (opHwait core w s) := by
  unfold opHwait
  extract_lets addr isLocal m
  split
  · simp [hk]
  · split
    · split
      · exact evalWait_form _ _ _ _ _ hk
      · simp [hk]
    · split
      · exact evalWait_form _ _ _ _ _ (by simp [hk])
      · split <;> simp [hk]

@[simp] theorem execHwait_form (core : Nat) (word : BitVec 32) (s : State) (hk : FormKeeps link base (formPart s)) :
    OutForm link base (execHwait core word s) := by
  unfold execHwait
  simp +contextual [hk]

@[simp] theorem deliver_form (core : Nat) (org : Origin) (e : HeldEffect) (s : State) (hk : FormKeeps link base (formPart s)) :
    FormKeeps link base (formPart (deliver core org e s).1) := by
  unfold deliver
  simp only []
  (repeat' split) <;> simp [hk]

@[simp] theorem deliverHeld_form (fuel : Nat) (core : Nat) (s : State) (hk : FormKeeps link base (formPart s)) :
    FormKeeps link base (formPart (deliverHeld fuel core s)) := by
  induction fuel generalizing core s with
  | zero => exact hk
  | succ k ih =>
    unfold deliverHeld
    try simp only []
    (repeat' split) <;> simp_all

@[simp] theorem flushEffects_form (core : Nat) (s : State) (hk : FormKeeps link base (formPart s)) :
    FormKeeps link base (formPart (flushEffects core s)) := by
  unfold flushEffects
  simp [hk]

@[simp] theorem emitEffect_form (core : Nat) (e : HeldEffect) (s : State) (hk : FormKeeps link base (formPart s)) :
    ResForm link base (emitEffect core e s) := by
  unfold emitEffect
  simp [hk]

@[simp] theorem opHsig_form (core : Nat) (w : BitVec 32) (s : State) (hk : FormKeeps link base (formPart s)) :
    ResForm link base (opHsig core w s) := by
  unfold opHsig
  simp [hk]

@[simp] theorem execHsig_form (core : Nat) (word : BitVec 32) (s : State) (hk : FormKeeps link base (formPart s)) :
    OutForm link base (execHsig core word s) := by
  unfold execHsig
  simp +contextual [hk]

@[simp] theorem opResolve_form (core : Nat) (w : BitVec 32) (s : State) (hk : FormKeeps link base (formPart s)) :
    ResForm link base (opResolve core w s) := by
  unfold opResolve
  simp [hk]

@[simp] theorem execResolve_form (core : Nat) (word : BitVec 32) (s : State) (hk : FormKeeps link base (formPart s)) :
    OutForm link base (execResolve core word s) := by
  unfold execResolve
  simp +contextual [hk]

@[simp] theorem opSfop_form (core : Nat) (w : BitVec 32) (s : State) (hk : FormKeeps link base (formPart s)) :
    ResForm link base (opSfop core w s) := by
  unfold opSfop
  (repeat' split) <;> simp [hk]

@[simp] theorem execSfop_form (core : Nat) (word : BitVec 32) (s : State) (hk : FormKeeps link base (formPart s)) :
    OutForm link base (execSfop core word s) := by
  unfold execSfop
  simp +contextual [hk]

@[simp] theorem freeCore_part (core : Nat) (s : State) :
    formPart (freeCore core s) = formPart s := by
  unfold freeCore
  simp

@[simp] theorem chargeTask_part (t : TaskRec) (s : State) :
    formPart (chargeTask t s) = formPart s := by
  unfold chargeTask
  simp

@[simp] theorem endTask_part (core : Nat) (t : TaskRec) (code : BitVec 64) (s : State) :
    formPart (endTask core t code s) = formPart s := by
  unfold endTask
  (repeat' split) <;> simp

@[simp] theorem opTaskend_form (core : Nat) (w : BitVec 32) (s : State) (hk : FormKeeps link base (formPart s)) :
    ResForm link base (opTaskend core w s) := by
  unfold opTaskend
  (repeat' split) <;> simp [hk]

@[simp] theorem execTaskend_form (core : Nat) (word : BitVec 32) (s : State) (hk : FormKeeps link base (formPart s)) :
    OutForm link base (execTaskend core word s) := by
  unfold execTaskend
  simp +contextual [hk]

@[simp] theorem opCustom1_form (core : Nat) (w : BitVec 32) (s : State) (hk : FormKeeps link base (formPart s)) :
    ResForm link base (opCustom1 core w s) := by
  unfold opCustom1
  (repeat' split) <;> simp [hk]

@[simp] theorem touchRow_part (t : Desc) (row : Nat) (s : State) :
    formPart (touchRow t row s) = formPart s := by
  unfold touchRow
  (repeat' split) <;> simp

@[simp] theorem storeRow_form (t : Desc) (row version : Nat) (data : List Byte) (s : State)
    (hk : FormKeeps link base (formPart s)) : FormKeeps link base (formPart (storeRow t row version data s)) := by
  unfold storeRow
  refine moduleWrite_form _ _ _ _ (moduleWrite_form _ _ _ _ ?_)
  split <;> simp [hk]

@[simp] theorem finishCopy_form (c : CommittedRow) (t : Desc) (s : State) (hk : FormKeeps link base (formPart s)) :
    FormKeeps link base (formPart (finishCopy c t s)) := by
  unfold finishCopy
  simp [hk]

@[simp] theorem settleCopy_form (id row : Nat) (t : Desc) (s : State) (hk : FormKeeps link base (formPart s)) :
    FormKeeps link base (formPart (settleCopy id row t s)) := by
  unfold settleCopy
  (repeat' split) <;> simp [hk]

@[simp] theorem cacheFill_part (id row : Nat) (t : Desc) (s : State) :
    formPart (cacheFill id row t s) = formPart s := by
  unfold cacheFill
  simp

@[simp] theorem coldAccess_part (id row spec : Nat) (t : Desc) (s : State) :
    formPart (coldAccess id row spec t s).2 = formPart s := by
  unfold coldAccess
  simp only []
  (repeat' split) <;> simp

theorem allocTable_part {id : Nat} {d : Desc} {s t : State} {r : Nat × Nat × Nat} (h : allocTable id d s = some (r, t)) :
    formPart t = formPart s := by
  unfold allocTable at h
  simp only [] at h
  split at h
  · cases h; rfl
  · split at h
    · rename_i h'; cases h; exact allocIn_part h'
    · cases h

@[simp] theorem awaitCold_part (req : ReqId) (key : Nat) (bytes : List Byte) (s : State) :
    formPart (awaitCold req key bytes s) = formPart s := by
  unfold awaitCold
  simp only [formPart_mk, formPart_eta, switchColdOn_part]

@[simp] theorem tableDefineAction_form (req : ReqId) (bytes : List Byte) (s : State) (hk : FormKeeps link base (formPart s)) :
    FormKeeps link base (formPart (tableDefineAction req bytes s)) := by
  unfold tableDefineAction
  simp only []
  (repeat' split)
  all_goals first
    | (simp [hk]; done)
    | (rename_i h; simp [hk, allocTable_part h]; done)
    | (rename_i h _; simp [hk, allocTable_part h]; done)
    | (rename_i h; rw [endCmd_part, measureBytes_part]; split <;> simp [hk, allocTable_part h])
    | (rename_i h _; rw [endCmd_part, measureBytes_part]; exact allocTable_part h)

@[simp] theorem execTableDefine_form (req : ReqId) (desc : Desc) (s : State) (hk : FormKeeps link base (formPart s)) :
    OutForm link base (execTableDefine req desc s) := by
  unfold execTableDefine
  simp +contextual [hk]

@[simp] theorem tableDeleteAction_part (x0 : ReqId) (bytes : List Byte) (s : State) :
    formPart (tableDeleteAction x0 bytes s) = formPart s := by
  unfold tableDeleteAction
  simp only []
  (repeat' split) <;> simp

@[simp] theorem execTableDelete_form (req : ReqId) (tableId : Nat) (s : State) (hk : FormKeeps link base (formPart s)) :
    OutForm link base (execTableDelete req tableId s) := by
  unfold execTableDelete
  simp [hk]

@[simp] theorem updTransfer_part (id : Nat) (f : Transfer → Transfer) (s : State) :
    formPart (updTransfer id f s) = formPart s := by
  unfold updTransfer
  simp

@[simp] theorem updMember_part (id core : Nat) (f : Member → Member) (s : State) :
    formPart (updMember id core f s) = formPart s := by
  unfold updMember
  simp

@[simp] theorem setRingLoads_part (id core n : Nat) (s : State) :
    formPart (setRingLoads id core n s) = formPart s := by
  unfold setRingLoads
  (repeat' split) <;> simp

@[simp] theorem purgeRings_part (s : State) :
    formPart (purgeRings s) = formPart s := by
  unfold purgeRings
  simp

@[simp] theorem flushDetach_part (id : Nat) (s : State) :
    formPart (flushDetach id s) = formPart s := by
  unfold flushDetach
  (repeat' split) <;> simp

@[simp] theorem detachMember_part (id core : Nat) (s : State) :
    formPart (detachMember id core s) = formPart s := by
  unfold detachMember
  (repeat' split) <;> simp

@[simp] theorem rewindRing_form (id core f : Nat) (s : State) (hk : FormKeeps link base (formPart s)) :
    FormKeeps link base (formPart (rewindRing id core f s)) := by
  unfold rewindRing
  (repeat' split) <;> simp [hk]

@[simp] theorem clearEntries_part (core accBase m mask : Nat) (s : State) :
    formPart (clearEntries core accBase m mask s) = formPart s := by
  unfold clearEntries
  simp

@[simp] theorem addToChain_part (core : Nat) (d : Desc) (org : Origin) (s : State) :
    formPart (addToChain core d org s) = formPart s := by
  unfold addToChain
  simp

@[simp] theorem execMatmul_form (core : Nat) (desc : Desc) (org : Origin) (s : State) (hk : FormKeeps link base (formPart s)) :
    OutForm link base (execMatmul core desc org s) := by
  unfold execMatmul
  simp [hk]

@[simp] theorem updEntry_part (core num : Nat) (f : Chain → Chain) (g : TileEntry → TileEntry) (s : State) :
    formPart (updEntry core num f g s) = formPart s := by
  unfold updEntry
  simp

theorem loadTile_form {core : Nat} {e : TileEntry} {s t : State} {b : List (List Byte)} (h : loadTile core e s = some (b, t))
    (hk : FormKeeps link base (formPart s)) :
    FormKeeps link base (formPart t) := by
  unfold loadTile at h
  simp only [] at h
  split at h
  · cases h; exact hk
  · split at h
    · cases h; exact hk
    · split at h
      · cases h
      · cases h; simp [hk]

@[simp] theorem stashShadow_part (core : Nat) (s : State) :
    formPart (stashShadow core s) = formPart s := by
  unfold stashShadow
  simp only []
  (repeat' split) <;> simp

@[simp] theorem prefetchTile_form (core start : Nat) (s : State) (hk : FormKeeps link base (formPart s)) :
    FormKeeps link base (formPart (prefetchTile core start s)) := by
  unfold prefetchTile
  split
  · simp [hk]
  · split
    · simp [hk]
    · split
      · simp [hk]
      · rename_i h; simp [hk, loadTile_form h]

@[simp] theorem streamTile_form (core : Nat) (c : Chain) (e : TileEntry) (blocks : List (List Byte)) (shadowed : Bool) (s : State)
    (hk : FormKeeps link base (formPart s)) :
    FormKeeps link base (formPart (streamTile core c e blocks shadowed s)) := by
  unfold streamTile
  simp [hk]

@[simp] theorem execTileStream_form (core : Nat) (s : State) (hk : FormKeeps link base (formPart s)) :
    OutForm link base (execTileStream core s) := by
  unfold execTileStream
  split
  · simp [hk]
  · extract_lets x
    clear_value x
    split
    · simp [hk]
    · split
      · simp [hk]
      · split
        · simp [hk]
        · split
          · simp [hk]
          · split
            · simp [hk]
            · rename_i h
              simp [hk]
              split <;> simp [hk, loadTile_form h]

@[simp] theorem releaseChain_part (core : Nat) (c : Chain) (s : State) :
    formPart (releaseChain core c s) = formPart s := by
  unfold releaseChain
  simp

@[simp] theorem drainChain_form (core : Nat) (c : Chain) (d : Desc) (s : State) (hk : FormKeeps link base (formPart s)) :
    FormKeeps link base (formPart (drainChain core c d s)) := by
  unfold drainChain
  simp [hk]

@[simp] theorem execChainDrain_form (core accBase : Nat) (s : State) (hk : FormKeeps link base (formPart s)) :
    OutForm link base (execChainDrain core accBase s) := by
  unfold execChainDrain
  (repeat' split) <;> simp [hk]

@[simp] theorem replayChain_form (core : Nat) (c : Chain) (s : State) (hk : FormKeeps link base (formPart s)) :
    FormKeeps link base (formPart (replayChain core c s)) := by
  unfold replayChain
  (repeat' split) <;> simp +contextual [hk]

@[simp] theorem execChainReplay_form (core accBase : Nat) (s : State) (hk : FormKeeps link base (formPart s)) :
    OutForm link base (execChainReplay core accBase s) := by
  unfold execChainReplay
  (repeat' split) <;> simp [hk]

@[simp] theorem execTilePreempt_form (core : Nat) (s : State) (hk : FormKeeps link base (formPart s)) :
    OutForm link base (execTilePreempt core s) := by
  unfold execTilePreempt
  (repeat' split) <;> simp [hk]

@[simp] theorem dropChains_part (core : Nat) (p : Chain → Bool) (s : State) :
    formPart (dropChains core p s) = formPart s := by
  unfold dropChains
  simp

@[simp] theorem updSession_part (context id : Nat) (f : Session → Session) (s : State) :
    formPart (updSession context id f s) = formPart s := by
  unfold updSession
  simp

@[simp] theorem countPass_part (t : PassTally) (s : State) :
    formPart (countPass t s) = formPart s := by
  unfold countPass
  simp

@[simp] theorem putQuery_part (q : FoldQuery) (s : State) :
    formPart (putQuery q s) = formPart s := by
  unfold putQuery
  simp

@[simp] theorem noteQuery_part (spec : Nat) (q : Option FoldQuery) (s : State) :
    formPart (noteQuery spec q s) = formPart s := by
  unfold noteQuery
  (repeat' split) <;> simp

@[simp] theorem startSummary_part (core : Nat) (d : Desc) (org : Origin) (s : State) :
    formPart (startSummary core d org s) = formPart s := by
  unfold startSummary
  simp
  split <;> simp
  all_goals split <;> simp

@[simp] theorem execSeqSummary_form (core : Nat) (desc : Desc) (org : Origin) (s : State)
    (hk : FormKeeps link base (formPart s)) :
    OutForm link base (execSeqSummary core desc org s) := by
  unfold execSeqSummary
  simp [hk]

@[simp] theorem updSummary_part (id : Nat) (f : SummaryJob → SummaryJob) (s : State) :
    formPart (updSummary id f s) = formPart s := by
  unfold updSummary
  simp

@[simp] theorem fetchPlanes_part (core tag : Nat) (x : Option Session) (ps : List Piece) (s : State) :
    formPart (fetchPlanes core tag x ps s) = formPart s := by
  unfold fetchPlanes
  (repeat' split) <;> simp

@[simp] theorem execSegmentPass_form (summary segment : Nat) (s : State) (hk : FormKeeps link base (formPart s)) :
    OutForm link base (execSegmentPass summary segment s) := by
  unfold execSegmentPass
  (repeat' split) <;> simp [hk]

@[simp] theorem execSummaryMerge_form (summary : Nat) (s : State) (hk : FormKeeps link base (formPart s)) :
    OutForm link base (execSummaryMerge summary s) := by
  unfold execSummaryMerge
  (repeat' split) <;> simp [hk]

@[simp] theorem dropSummaries_part (p : SummaryJob → Bool) (s : State) :
    formPart (dropSummaries p s) = formPart s := by
  unfold dropSummaries
  simp

@[simp] theorem updAppend_part (launch : Nat) (f : AppendJob → AppendJob) (s : State) :
    formPart (updAppend launch f s) = formPart s := by
  unfold updAppend
  simp

@[simp] theorem writeEvents_form (x : Session) (n : Nat) (l : List (BitVec 128)) (s : State)
    (hk : FormKeeps link base (formPart s)) :
    FormKeeps link base (formPart (writeEvents x n l s)) := by
  induction l generalizing n s with
  | nil => exact hk
  | cons e t ih => simp [hk, writeEvents, ih]

@[simp] theorem writeChunks_form (fuel : Nat) (launch : Nat) (s : State) (hk : FormKeeps link base (formPart s)) :
    FormKeeps link base (formPart (writeChunks fuel launch s)) := by
  induction fuel generalizing launch s with
  | zero => exact hk
  | succ k ih =>
    unfold writeChunks
    try simp only []
    (repeat' split) <;> simp_all

@[simp] theorem startEncoder_form (launch : Nat) (s : State) (hk : FormKeeps link base (formPart s)) :
    FormKeeps link base (formPart (startEncoder launch s)) := by
  unfold startEncoder
  (repeat' split) <;> simp [hk]

@[simp] theorem setAppended_form (context session n : Nat) (s : State) (hk : FormKeeps link base (formPart s)) :
    FormKeeps link base (formPart (setAppended context session n s)) := by
  unfold setAppended
  simp [hk]

@[simp] theorem storeAppended_form (launch : Nat) (a : AppendJob) (s : State) (hk : FormKeeps link base (formPart s)) :
    FormKeeps link base (formPart (storeAppended launch a s)) := by
  unfold storeAppended
  simp only []
  (repeat' split) <;> simp [hk]

@[simp] theorem advanceAppend_form (launch : Nat) (s : State) (hk : FormKeeps link base (formPart s)) :
    FormKeeps link base (formPart (advanceAppend launch s)) := by
  have hk : FormKeeps link base (formPart (startEncoder launch (writeChunks 262144 launch s))) := by simp [hk]
  unfold advanceAppend
  simp only []
  (repeat' split) <;> simp [hk]

@[simp] theorem execAppendStage_form (launch stage : Nat) (s : State) (hk : FormKeeps link base (formPart s)) :
    OutForm link base (execAppendStage launch stage s) := by
  unfold execAppendStage
  (repeat' split) <;> simp [hk]

@[simp] theorem execAppendChunkWait_form (launch : Nat) (s : State) (hk : FormKeeps link base (formPart s)) :
    OutForm link base (execAppendChunkWait launch s) := by
  unfold execAppendChunkWait
  simp [hk]

@[simp] theorem freePlanes_form (x : Session) (events : Nat) (s : State) (hk : FormKeeps link base (formPart s)) :
    FormKeeps link base (formPart (freePlanes x events s)) := by
  unfold freePlanes
  simp +contextual [hk]

theorem serveJoin_form {p : PendingJoin} {s t : State} (h : serveJoin p s = some t) (hk : FormKeeps link base (formPart s)) :
    FormKeeps link base (formPart t) := by
  unfold serveJoin at h
  simp only [] at h
  split at h
  · cases h
    exact hk
  · split at h
    · cases h
    · cases h
      split <;>
        simpa using setAppended_form _ _ _ _ (freePlanes_form _ _ _ (writeEvents_form _ _ _ _ (by simp [hk])))

@[simp] theorem deferJoin_form (s : State) (hk : FormKeeps link base (formPart s)) :
    FormKeeps link base (formPart (deferJoin s)) := by
  unfold deferJoin
  simp [hk]

@[simp] theorem serveJoins_form (n : Nat) (l : List PendingJoin) (s : State) (hk : FormKeeps link base (formPart s)) :
    FormKeeps link base (formPart (serveJoins n l s)) := by
  induction l generalizing n s with
  | nil => exact hk
  | cons p t ih =>
    unfold serveJoins
    split
    · rename_i h
      split at h
      · cases h
      · simp +contextual [hk, ih, serveJoin_form h]
    · simp +contextual [hk]

@[simp] theorem foldBlock_form (x : Session) (b : Nat) (s : State) (hk : FormKeeps link base (formPart s)) :
    FormKeeps link base (formPart (foldBlock x b s)) := by
  unfold foldBlock
  (repeat' split) <;> simp [hk]

@[simp] theorem foldSome_form (leaving : List Session) (s : State) (hk : FormKeeps link base (formPart s)) :
    FormKeeps link base (formPart (foldSome leaving s)) := by
  unfold foldSome
  simp +contextual [hk]

@[simp] theorem execSessionStep_form (s : State) (hk : FormKeeps link base (formPart s)) :
    OutForm link base (execSessionStep s) := by
  unfold execSessionStep
  simp [hk]

@[simp] theorem sessionCloseAction_part (x0 : ReqId) (bytes : List Byte) (s : State) :
    formPart (sessionCloseAction x0 bytes s) = formPart s := by
  unfold sessionCloseAction
  simp

@[simp] theorem execSessionClose_form (req : ReqId) (session : BitVec 64) (s : State) (hk : FormKeeps link base (formPart s)) :
    OutForm link base (execSessionClose req session s) := by
  unfold execSessionClose
  simp [hk]

@[simp] theorem dropRowErrors_part (mpa : Nat) (s : State) :
    formPart (dropRowErrors mpa s) = formPart s := by
  unfold dropRowErrors
  simp

@[simp] theorem raiseRow_part (mpa : Nat) (s : State) :
    formPart (raiseRow mpa s) = formPart s := by
  unfold raiseRow
  simp

@[simp] theorem memEvent_part (kind source row mpa remaps symbols ce : Nat) (page : Option Nat) (s : State) :
    formPart (memEvent kind source row mpa remaps symbols ce page s) = formPart s := by
  unfold memEvent
  simp

@[simp] theorem zeroRow_form (mpa : Nat) (s : State) (hk : FormKeeps link base (formPart s)) :
    FormKeeps link base (formPart (zeroRow mpa s)) := by
  unfold zeroRow
  simp +contextual [hk]

@[simp] theorem journalRow_part (mpa : Nat) (s : State) :
    formPart (journalRow mpa s) = formPart s := by
  unfold journalRow
  simp

@[simp] theorem remapRow_part (mpa source counter_ : Nat) (s : State) :
    formPart (remapRow mpa source counter_ s) = formPart s := by
  unfold remapRow
  simp

@[simp] theorem damageVersion_part (page : Nat) (s : State) :
    formPart (damageVersion page s) = formPart s := by
  unfold damageVersion
  (repeat' split) <;> simp

@[simp] theorem losePage_part (page : Nat) (s : State) :
    formPart (losePage page s) = formPart s := by
  unfold losePage
  (repeat' split) <;> simp

@[simp] theorem keepFor_part (mpa f : Nat) (s : State) :
    formPart (keepFor mpa f s) = formPart s := by
  unfold keepFor
  (repeat' split) <;> simp

@[simp] theorem retireFrame_form (r f : Nat) (s : State) (hk : FormKeeps link base (formPart s)) :
    FormKeeps link base (formPart (retireFrame r f s)) := by
  unfold retireFrame
  split
  · exact hk
  · simp only []
    generalize hu : count Cnt.framesRetired 1 _ = u
    have hk : FormKeeps link base (formPart u) := by
      rw [← hu]
      simp [hk]
    split
    · exact hk
    · split
      · split
        next h => simp [takeFrame_part h, hk]
        next => simp [hk]
      · split <;> simp [hk]

end Sys2Proof.Machine
end

section
/-! SUPPORT. The form of the memories along the meanings, in the order of the model: from `retireRow` to `execBranchResolve`. -/

namespace Sys2Proof.Machine

open Sys2Proof

variable {link : Bool} {base : Memories × LinkView}

@[simp] theorem retireRow_form (mpa source : Nat) (s : State) (hk : FormKeeps link base (formPart s)) :
    FormKeeps link base (formPart (retireRow mpa source s)) := by
  unfold retireRow
  simp +contextual [hk]

@[simp] theorem dropAsk_part (mpa : Nat) (s : State) :
    formPart (dropAsk mpa s) = formPart s := by
  unfold dropAsk
  (repeat' split) <;> simp

@[simp] theorem settleRow_form (mpa source : Nat) (s : State) (hk : FormKeeps link base (formPart s)) :
    FormKeeps link base (formPart (settleRow mpa source s)) := by
  unfold settleRow
  simp [hk]

@[simp] theorem settleRows_form (s : State) (hk : FormKeeps link base (formPart s)) :
    FormKeeps link base (formPart (settleRows s)) := by
  unfold settleRows
  simp +contextual [hk]

@[simp] theorem failRow_form (mpa source record code : Nat) (s : State) (hk : FormKeeps link base (formPart s)) :
    FormKeeps link base (formPart (failRow mpa source record code s)) := by
  unfold failRow
  simp [hk]

@[simp] theorem askRemap_part (source mpa : Nat) (ue : Bool) (s : State) :
    formPart (askRemap source mpa ue s) = formPart s := by
  unfold askRemap
  simp

@[simp] theorem correctedError_part (source mpa symbols : Nat) (s : State) :
    formPart (correctedError source mpa symbols s) = formPart s := by
  unfold correctedError
  simp

@[simp] theorem uncorrectableError_form (source mpa : Nat) (s : State) (hk : FormKeeps link base (formPart s)) :
    FormKeeps link base (formPart (uncorrectableError source mpa s)) := by
  unfold uncorrectableError
  simp [hk]

@[simp] theorem codewordRead_form (source mpa symbols : Nat) (s : State) (hk : FormKeeps link base (formPart s)) :
    FormKeeps link base (formPart (codewordRead source mpa symbols s).2) := by
  unfold codewordRead
  simp only []
  (repeat' split) <;> simp [hk]

@[simp] theorem codewordsRead_form (source : Nat) (at_ : Nat → Option Nat) (errors : List (Nat × Nat)) (s : State)
    (hk : FormKeeps link base (formPart s)) :
    FormKeeps link base (formPart (codewordsRead source at_ errors s).2) := by
  unfold codewordsRead
  refine form_foldl_snd hk (fun q e hk => ?_)
  split
  · exact hk
  · simp [hk]

@[simp] theorem codewordsAt_form (source : Nat) (va : Nat → Option Nat) (errors : List (Nat × Nat)) (s : State)
    (hk : FormKeeps link base (formPart s)) :
    FormKeeps link base (formPart (codewordsAt source va errors s).2) := by
  unfold codewordsAt
  refine form_foldl_snd hk (fun q e hk => ?_)
  split
  · exact hk
  · dsimp only
    split <;> simp [hk]

@[simp] theorem noteScrubLate_part (cold : Bool) (s : State) :
    formPart (noteScrubLate cold s) = formPart s := by
  unfold noteScrubLate
  simp

@[simp] theorem scrubAdvance_part (cold : Bool) (s : State) :
    formPart (scrubAdvance cold s) = formPart s := by
  unfold scrubAdvance
  simp

@[simp] theorem execPatrolScrub_form (cold : Bool) (symbols : Nat) (s : State) (hk : FormKeeps link base (formPart s)) :
    OutForm link base (execPatrolScrub cold symbols s) := by
  unfold execPatrolScrub
  simp [hk]

@[simp] theorem remapOnline_form (d : RowAsk) (errors : CodewordErrors) (s : State) (hk : FormKeeps link base (formPart s)) :
    FormKeeps link base (formPart (remapOnline d errors s)) := by
  unfold remapOnline
  (repeat' split) <;> simp [hk]

@[simp] theorem execRowRemap_form (copy : RowCopy) (s : State) (hk : FormKeeps link base (formPart s)) :
    OutForm link base (execRowRemap copy s) := by
  unfold execRowRemap
  simp only []
  split
  · simp [hk]
  · split <;> simp [hk]

@[simp] theorem finishRemaps_form (s : State) (hk : FormKeeps link base (formPart s)) :
    FormKeeps link base (formPart (finishRemaps s)) := by
  unfold finishRemaps
  simp +contextual [hk]

@[simp] theorem repairEvent_part (kind : Nat) (e : JournalEntry) (s : State) :
    formPart (repairEvent kind e s) = formPart s := by
  unfold repairEvent
  (repeat' split) <;> simp

@[simp] theorem repairDone_part (i : Nat) (e : JournalEntry) (s : State) :
    formPart (repairDone i e s) = formPart s := by
  unfold repairDone
  simp

@[simp] theorem repairFailed_part (i : Nat) (e : JournalEntry) (s : State) :
    formPart (repairFailed i e s) = formPart s := by
  unfold repairFailed
  simp

@[simp] theorem fuseRow_part (i : Nat) (e : JournalEntry) (fuel n : Nat) (s : State) :
    formPart (fuseRow i e fuel n s) = formPart s := by
  induction fuel generalizing n s with
  | zero => simp [fuseRow]
  | succ k ih =>
    unfold fuseRow
    simp only []
    split <;> simp [ih]

@[simp] theorem repairEntry_part (i : Nat) (s : State) :
    formPart (repairEntry i s) = formPart s := by
  unfold repairEntry
  (repeat' split) <;> simp

@[simp] theorem repairRunAction_part (x0 : ReqId) (x1 : List Byte) (s : State) :
    formPart (repairRunAction x0 x1 s) = formPart s := by
  unfold repairRunAction
  simp

@[simp] theorem execRepairRun_form (req : ReqId) (value : Nat) (s : State) (hk : FormKeeps link base (formPart s)) :
    OutForm link base (execRepairRun req value s) := by
  unfold execRepairRun
  simp [hk]

@[simp] theorem repairAddAction_part (x0 : ReqId) (bytes : List Byte) (s : State) :
    formPart (repairAddAction x0 bytes s) = formPart s := by
  unfold repairAddAction
  simp only []
  (repeat' split) <;> simp

@[simp] theorem execRepairAdd_form (req : ReqId) (entry : BitVec 128) (s : State) (hk : FormKeeps link base (formPart s)) :
    OutForm link base (execRepairAdd req entry s) := by
  unfold execRepairAdd
  simp [hk]

@[simp] theorem testPortRawAction_part (x0 : ReqId) (x1 : List Byte) (s : State) :
    formPart (testPortRawAction x0 x1 s) = formPart s := by
  unfold testPortRawAction
  simp

@[simp] theorem execTestPortRaw_form (req : ReqId) (value : BitVec 512) (s : State) (hk : FormKeeps link base (formPart s)) :
    OutForm link base (execTestPortRaw req value s) := by
  unfold execTestPortRaw
  simp [hk]

@[simp] theorem updLookup_part (id : Nat) (f : LookupJob → LookupJob) (s : State) :
    formPart (updLookup id f s) = formPart s := by
  unfold updLookup
  simp

@[simp] theorem splitEntry_part (d shape : Desc) (j : LookupJob) (e : Nat × Nat × Nat) (s : State) :
    formPart (splitEntry d shape j e s).2 = formPart s := by
  unfold splitEntry
  simp only []
  (repeat' split) <;> simp

@[simp] theorem recordRemote_part (j : LookupJob) (k st : Nat) (s : State) :
    formPart (recordRemote j k st s) = formPart s := by
  unfold recordRemote
  (repeat' split) <;> simp

@[simp] theorem sendGroup_part (id k : Nat) (s : State) :
    formPart (sendGroup id k s) = formPart s := by
  unfold sendGroup
  (repeat' split) <;> simp

@[simp] theorem sendGroups_part (id : Nat) (s : State) :
    formPart (sendGroups id s) = formPart s := by
  unfold sendGroups
  split
  · rfl
  · refine formPart_foldl _ _ (fun s k => ?_) s
    split <;> simp

@[simp] theorem startLookup_form (core : Nat) (d : Desc) (org : Origin) (shape : Desc) (s : State)
    (hk : FormKeeps link base (formPart s)) :
    FormKeeps link base (formPart (startLookup core d org shape s)) := by
  unfold startLookup
  simp only [formPart_ite, sendGroups_part, formPart_mk, formPart_eta, ite_self]
  refine form_foldl_snd (form_foldl ?_ (fun s r hk => ?_)) (fun q e hk => by simp [hk])
  · split <;> simp [hk]
  · split <;> simp [hk]

@[simp] theorem execLookup_form (core : Nat) (desc : Desc) (org : Origin) (s : State) (hk : FormKeeps link base (formPart s)) :
    OutForm link base (execLookup core desc org s) := by
  unfold execLookup
  (repeat' split) <;> simp [hk]

@[simp] theorem retryEntry_part (j : LookupJob) (e : LookupEntry) (s : State) :
    formPart (retryEntry j e s) = formPart s := by
  unfold retryEntry
  simp

@[simp] theorem readEntry_part (j : LookupJob) (e : LookupEntry) (t : Desc) (s : State) :
    formPart (readEntry j e t s).2 = formPart s := by
  unfold readEntry
  (repeat' split) <;> simp

@[simp] theorem poolEntry_part (j : LookupJob) (e : LookupEntry) (t : Desc) (r : RowData) (torn miss : Bool) (s : State) :
    formPart (poolEntry j e t r torn miss s) = formPart s := by
  unfold poolEntry
  simp

@[simp] theorem serveEntry_part (j : LookupJob) (e : LookupEntry) (t : Desc) (s : State) :
    formPart (serveEntry j e t s) = formPart s := by
  unfold serveEntry
  simp

@[simp] theorem execLaneServe_form (lookup : Nat) (lane : LaneRead) (s : State) (hk : FormKeeps link base (formPart s)) :
    OutForm link base (execLaneServe lookup lane s) := by
  unfold execLaneServe
  (repeat' split) <;> simp [hk]

@[simp] theorem execStackReduce_form (lookup stack : Nat) (s : State) (hk : FormKeeps link base (formPart s)) :
    OutForm link base (execStackReduce lookup stack s) := by
  unfold execStackReduce
  (repeat' split) <;> simp [hk]

@[simp] theorem lookupSignal_form (j : LookupJob) (off : Nat) (bytes : List Byte) (s : State)
    (hk : FormKeeps link base (formPart s)) :
    FormKeeps link base (formPart (lookupSignal j off bytes s)) := by
  unfold lookupSignal
  (repeat' split) <;> simp [hk]

@[simp] theorem endLookup_form (id : Nat) (s : State) (hk : FormKeeps link base (formPart s)) :
    FormKeeps link base (formPart (endLookup id s)) := by
  unfold endLookup
  split
  · exact hk
  · simp only [descriptorDone_part, noteSpecWork_part, count_part, formPart_mk, formPart_eta]
    exact lookupSignal_form _ _ _ _ (lookupSignal_form _ _ _ _ (lookupSignal_form _ _ _ _ (lookupSignal_form _ _ _ _ hk)))

@[simp] theorem releaseBags_form (fuel : Nat) (id : Nat) (s : State) (hk : FormKeeps link base (formPart s)) :
    FormKeeps link base (formPart (releaseBags fuel id s)) := by
  induction fuel generalizing id s with
  | zero => exact hk
  | succ k ih =>
    unfold releaseBags
    try simp only []
    (repeat' split) <;> simp_all

@[simp] theorem writeBag_form (j : LookupJob) (bag draw : Nat) (t : Desc) (s : State) (hk : FormKeeps link base (formPart s)) :
    FormKeeps link base (formPart (writeBag j bag draw t s)) := by
  unfold writeBag
  simp only []
  (repeat' split) <;> simp [hk]

@[simp] theorem answerBag_part (j : LookupJob) (peer seq bag draw : Nat) (s : State) :
    formPart (answerBag j peer seq bag draw s) = formPart s := by
  unfold answerBag
  simp

@[simp] theorem execBagCombine_form (lookup bag : Nat) (s : State) (hk : FormKeeps link base (formPart s)) :
    OutForm link base (execBagCombine lookup bag s) := by
  unfold execBagCombine
  (repeat' split) <;> simp [hk]

@[simp] theorem settleGroup98_part (id k : Nat) (timeout : Bool) (s : State) :
    formPart (settleGroup98 id k timeout s) = formPart s := by
  unfold settleGroup98
  (repeat' split) <;> simp

@[simp] theorem execRemoteTimeout_form (lookup owner : Nat) (s : State) (hk : FormKeeps link base (formPart s)) :
    OutForm link base (execRemoteTimeout lookup owner s) := by
  unfold execRemoteTimeout
  split
  · simp [hk]
  · refine form_foldl hk (fun s k hk => ?_)
    split
    · split <;> simp [hk]
    · exact hk

@[simp] theorem lookupAnswer_part (id k o1 : Nat) (body : List Byte) (s : State) :
    formPart (lookupAnswer id k o1 body s) = formPart s := by
  unfold lookupAnswer
  (repeat' split) <;> simp

@[simp] theorem updWrite_part (id : Nat) (f : WriteJob → WriteJob) (s : State) :
    formPart (updWrite id f s) = formPart s := by
  unfold updWrite
  simp

@[simp] theorem updBatch_part (n : Nat) (f : Batch → Batch) (s : State) :
    formPart (updBatch n f s) = formPart s := by
  unfold updBatch
  simp

@[simp] theorem endWrite_form (id : Nat) (s : State) (hk : FormKeeps link base (formPart s)) :
    FormKeeps link base (formPart (endWrite id s)) := by
  unfold endWrite
  split
  next => exact hk
  next j hj =>
    extract_lets epoch w s1
    have hw (off v : Nat) (s : State) (hk : FormKeeps link base (formPart s)) : FormKeeps link base (formPart (w off v s)) := by
      simp only [w]
      split <;> simp [hk]
    simpa using hw _ _ _ (hw _ _ _ (hw _ _ _ (hw _ _ _ hk)))

@[simp] theorem endWriteWith_form (id st reason : Nat) (s : State) (hk : FormKeeps link base (formPart s)) :
    FormKeeps link base (formPart (endWriteWith id st reason s)) := by
  unfold endWriteWith
  simp [hk]

@[simp] theorem settleWrite_form (id : Nat) (s : State) (hk : FormKeeps link base (formPart s)) :
    FormKeeps link base (formPart (settleWrite id s)) := by
  unfold settleWrite
  (repeat' split) <;> simp [hk]

@[simp] theorem joinBatch_part (j : WriteJob) (s : State) :
    formPart (joinBatch j s) = formPart s := by
  unfold joinBatch
  simp

@[simp] theorem sendRow_part (d t : Desc) (i : Nat) (j : WriteJob) (s : State) :
    formPart (sendRow d t i j s).2 = formPart s := by
  unfold sendRow
  simp only []
  split <;> simp

@[simp] theorem sendRemoteRows_form (id : Nat) (d t : Desc) (s : State) (hk : FormKeeps link base (formPart s)) :
    FormKeeps link base (formPart (sendRemoteRows id d t s)) := by
  unfold sendRemoteRows
  simp [hk]

@[simp] theorem startRowWrite_form (j : WriteJob) (t : Desc) (s : State) (hk : FormKeeps link base (formPart s)) :
    FormKeeps link base (formPart (startRowWrite j t s)) := by
  unfold startRowWrite
  extract_lets d j1 s1 read s2 r
  have hread (va n : Nat) (s : State) (hk : FormKeeps link base (formPart s)) : FormKeeps link base (formPart (read va n s)) := by
    simp [read, hk]
  have hk2 : FormKeeps link base (formPart s2) := hread _ _ _ (hread _ _ _ (by simp [s1, hk]))
  clear_value read s2
  (repeat' split)
  · simp [hk]
  · simp [hk]
  · simp [hk2]
  · have hkr : FormKeeps link base (formPart r.2) := form_foldl_snd (q := (j1, s2)) hk2 (fun q i hk => by simp [hk])
    simp [hkr]

@[simp] theorem startOpen_form (j : WriteJob) (s : State) (hk : FormKeeps link base (formPart s)) :
    FormKeeps link base (formPart (startOpen j s)) := by
  unfold startOpen
  simp [hk]

@[simp] theorem startCommit_form (j : WriteJob) (s : State) (hk : FormKeeps link base (formPart s)) :
    FormKeeps link base (formPart (startCommit j s)) := by
  unfold startCommit
  simp [hk]

@[simp] theorem dropStaged_part (batch : Nat) (s : State) :
    formPart (dropStaged batch s) = formPart s := by
  unfold dropStaged
  simp

@[simp] theorem startAbort_form (j : WriteJob) (s : State) (hk : FormKeeps link base (formPart s)) :
    FormKeeps link base (formPart (startAbort j s)) := by
  unfold startAbort
  extract_lets n owners waits s1 s2 s3
  have hk1 : FormKeeps link base (formPart s1) := form_foldl hk (fun s id hk => by simp [hk])
  have hk2 : FormKeeps link base (formPart s2) := form_foldl hk1 (fun s o hk => by simp [hk])
  have hk3 : FormKeeps link base (formPart s3) := by simp [s3, hk2]
  split
  · simp [hk]
  · simp [hk3]

@[simp] theorem startWrite_form (id : Nat) (s : State) (hk : FormKeeps link base (formPart s)) :
    FormKeeps link base (formPart (startWrite id s)) := by
  unfold startWrite
  simp only []
  (repeat' split) <;> simp [hk]

@[simp] theorem pushWrite_part (core : Nat) (d : Desc) (org : Origin) (s : State) :
    formPart (pushWrite core d org s) = formPart s := by
  unfold pushWrite
  (repeat' split) <;> simp

@[simp] theorem takeWrite_form (op core : Nat) (d : Desc) (org : Origin) (s : State) (hk : FormKeeps link base (formPart s)) :
    OutForm link base (takeWrite op core d org s) := by
  unfold takeWrite
  simp only []
  (repeat' split) <;> simp [hk]

@[simp] theorem execRowWrite_form (core : Nat) (desc : Desc) (org : Origin) (s : State)
    (hk : FormKeeps link base (formPart s)) :
    OutForm link base (execRowWrite core desc org s) := by
  unfold execRowWrite
  simp [hk]

@[simp] theorem execBatchOpen_form (core : Nat) (desc : Desc) (org : Origin) (s : State)
    (hk : FormKeeps link base (formPart s)) :
    OutForm link base (execBatchOpen core desc org s) := by
  unfold execBatchOpen
  simp [hk]

@[simp] theorem execBatchCommit_form (core : Nat) (desc : Desc) (org : Origin) (s : State)
    (hk : FormKeeps link base (formPart s)) :
    OutForm link base (execBatchCommit core desc org s) := by
  unfold execBatchCommit
  simp [hk]

@[simp] theorem execBatchAbort_form (core : Nat) (desc : Desc) (org : Origin) (s : State)
    (hk : FormKeeps link base (formPart s)) :
    OutForm link base (execBatchAbort core desc org s) := by
  unfold execBatchAbort
  simp [hk]

@[simp] theorem storeChunk_form (t : Desc) (row i word : Nat) (data : List Byte) (s : State)
    (hk : FormKeeps link base (formPart s)) :
    FormKeeps link base (formPart (storeChunk t row i word data s)) := by
  unfold storeChunk
  extract_lets lo hi s1 s2
  have hk1 : FormKeeps link base (formPart s1) := by simp [s1, hk]
  have hk2 : FormKeeps link base (formPart s2) := by
    simp only [s2]
    split <;> simp [hk1]
  split
  · simp [hk2]
  · exact hk2

@[simp] theorem rowDone_form (id : Nat) (r : RowJob) (f : WriteJob → WriteJob) (s : State)
    (hk : FormKeeps link base (formPart s)) :
    FormKeeps link base (formPart (rowDone id r f s)) := by
  unfold rowDone
  simp [hk]

@[simp] theorem execImmediateWriteChunk_form (write lane : Nat) (s : State) (hk : FormKeeps link base (formPart s)) :
    OutForm link base (execImmediateWriteChunk write lane s) := by
  unfold execImmediateWriteChunk
  split
  · exact hk
  · split
    · split
      · exact hk
      · extract_lets s1 s2 last word s3
        have hk2 : FormKeeps link base (formPart s2) := by
          simp only [s2, s1]
          (repeat' split) <;> simp [hk]
        have hlast (s : State) (hk : FormKeeps link base (formPart s)) : FormKeeps link base (formPart (last s)) := by
          simp [last, hk]
        have hk3 : FormKeeps link base (formPart s3) := by simp [s3, hk2]
        clear_value s2 last s3
        (repeat' split)
        · exact hlast _ hk3
        · simp [hk3]
        · exact hlast _ (by simp [hk2])
    · exact hk

theorem stageRow_part {batch table row lane : Nat} {d : Desc} {data : List Byte} {s t : State}
    (h : stageRow batch table row lane d data s = some t) :
    formPart t = formPart s := by
  unfold stageRow at h
  simp only [] at h
  split at h
  · cases h; simp
  · split at h
    · cases h; simp
    · cases h

@[simp] theorem deferRow_part (id : Nat) (r : RowJob) (s : State) :
    formPart (deferRow id r s) = formPart s := by
  unfold deferRow
  simp

@[simp] theorem stageAt_form (j : WriteJob) (r : RowJob) (s : State) (hk : FormKeeps link base (formPart s)) :
    FormKeeps link base (formPart (stageAt j r s)) := by
  unfold stageAt
  (repeat' split)
  all_goals first
    | (simp [hk]; done)
    | (rename_i h; simp [hk, stageRow_part h])

@[simp] theorem execRowStage_form (write lane : Nat) (s : State) (hk : FormKeeps link base (formPart s)) :
    OutForm link base (execRowStage write lane s) := by
  unfold execRowStage
  (repeat' split) <;> simp [hk]

@[simp] theorem execDeferredRowRetry_form (write lane : Nat) (s : State) (hk : FormKeeps link base (formPart s)) :
    OutForm link base (execDeferredRowRetry write lane s) := by
  unfold execDeferredRowRetry
  (repeat' split) <;> simp [hk]

@[simp] theorem execDeferLimitExpiry_form (write : Nat) (s : State) (hk : FormKeeps link base (formPart s)) :
    OutForm link base (execDeferLimitExpiry write s) := by
  unfold execDeferLimitExpiry
  (repeat' split) <;> simp [hk]

@[simp] theorem freePreimages_part (epoch : Nat) (s : State) :
    formPart (freePreimages epoch s) = formPart s := by
  unfold freePreimages
  simp

@[simp] theorem publishRow_form (r : StagedRow) (s : State) (hk : FormKeeps link base (formPart s)) :
    FormKeeps link base (formPart (publishRow r s)) := by
  unfold publishRow
  (repeat' split) <;> simp [hk]

@[simp] theorem publishBatch_form (batch : Nat) (s : State) (hk : FormKeeps link base (formPart s)) :
    FormKeeps link base (formPart (publishBatch batch s)) := by
  unfold publishBatch
  simp +contextual [hk]

@[simp] theorem closeBatch_part (n : Nat) (s : State) :
    formPart (closeBatch n s) = formPart s := by
  unfold closeBatch
  simp

@[simp] theorem settleCommit_form (id : Nat) (s : State) (hk : FormKeeps link base (formPart s)) :
    FormKeeps link base (formPart (settleCommit id s)) := by
  unfold settleCommit
  (repeat' split) <;> simp [hk]

@[simp] theorem execBatchCommitProper_form (write : Nat) (s : State) (hk : FormKeeps link base (formPart s)) :
    OutForm link base (execBatchCommitProper write s) := by
  unfold execBatchCommitProper
  (repeat' split) <;> simp [hk]

@[simp] theorem execCommitWaitTimeout_form (write : Nat) (s : State) (hk : FormKeeps link base (formPart s)) :
    OutForm link base (execCommitWaitTimeout write s) := by
  unfold execCommitWaitTimeout
  (repeat' split) <;> simp [hk]

@[simp] theorem ownerCommitted_form (id owner st reason : Nat) (s : State) (hk : FormKeeps link base (formPart s)) :
    FormKeeps link base (formPart (ownerCommitted id owner st reason s)) := by
  unfold ownerCommitted
  simp [hk]

@[simp] theorem execRemoteCommitTimeout_form (write owner : Nat) (s : State) (hk : FormKeeps link base (formPart s)) :
    OutForm link base (execRemoteCommitTimeout write owner s) := by
  unfold execRemoteCommitTimeout
  (repeat' split) <;> simp [hk]

@[simp] theorem remoteRowDone_form (id owner st index : Nat) (s : State) (hk : FormKeeps link base (formPart s)) :
    FormKeeps link base (formPart (remoteRowDone id owner st index s)) := by
  unfold remoteRowDone
  (repeat' split) <;> simp [hk]

@[simp] theorem execBackgroundCopy_form (lane : Nat) (s : State) (hk : FormKeeps link base (formPart s)) :
    OutForm link base (execBackgroundCopy lane s) := by
  unfold execBackgroundCopy
  (repeat' split) <;> simp [hk]

@[simp] theorem execPreimageFree_form (epoch : Nat) (s : State) (hk : FormKeeps link base (formPart s)) :
    OutForm link base (execPreimageFree epoch s) := by
  unfold execPreimageFree
  simp [hk]

theorem remoteBatchFor_part {peer batch : Nat} {s t : State} {n : Nat} (h : remoteBatchFor peer batch s = some (n, t)) :
    formPart t = formPart s := by
  unfold remoteBatchFor at h
  split at h
  · cases h; rfl
  · split at h
    · cases h; simp
    · cases h

@[simp] theorem recountRemote_part (s : State) :
    formPart (recountRemote s) = formPart s := by
  unfold recountRemote
  simp

theorem stageRemoteRow_part {peer batch tableId : Nat} {body : List Byte} {s t : State}
    (h : stageRemoteRow peer batch tableId body s = .staged t) :
    formPart t = formPart s := by
  unfold stageRemoteRow at h
  split at h
  · cases h
  · split at h
    · cases h
    · split at h
      · cases h
      · split at h
        · cases h
        · rename_i hb
          have hb := remoteBatchFor_part hb
          split at h
          · injection h with h; subst h; simp [hb]
          · extract_lets s1 at h
            have h1 : formPart s1 = formPart s := by simp [s1, hb]
            clear_value s1
            split at h
            · rename_i hs; injection h with h; subst h; simp [stageRow_part hs, h1]
            · cases h

@[simp] theorem abortRemote_part (p : RemoteBatch → Bool) (s : State) :
    formPart (abortRemote p s) = formPart s := by
  unfold abortRemote
  simp

@[simp] theorem dropTable_form (id : Nat) (s : State) (hk : FormKeeps link base (formPart s)) :
    FormKeeps link base (formPart (dropTable id s)) := by
  unfold dropTable
  simp [hk]

@[simp] theorem execTableDeleteComplete_form (tableId : Nat) (s : State) (hk : FormKeeps link base (formPart s)) :
    OutForm link base (execTableDeleteComplete tableId s) := by
  unfold execTableDeleteComplete
  (repeat' split) <;> simp [hk]

@[simp] theorem giveDrays_part (fuel core : Nat) (s : State) :
    formPart (giveDrays fuel core s) = formPart s := by
  induction fuel generalizing core s with
  | zero => rfl
  | succ k ih =>
    unfold giveDrays
    (repeat' split) <;> simp_all

@[simp] theorem startTransfer_form (t : Transfer) (dray : Nat) (s : State) (hk : FormKeeps link base (formPart s)) :
    FormKeeps link base (formPart (startTransfer t dray s)) := by
  unfold startTransfer
  simp +contextual [hk]

@[simp] theorem startQueue_form (fuel : Nat) (core : Nat) (s : State) (hk : FormKeeps link base (formPart s)) :
    FormKeeps link base (formPart (startQueue fuel core s)) := by
  induction fuel generalizing core s with
  | zero => exact hk
  | succ k ih =>
    unfold startQueue
    try simp only []
    (repeat' split) <;> simp_all

@[simp] theorem serveDrays_form (core : Nat) (s : State) (hk : FormKeeps link base (formPart s)) :
    FormKeeps link base (formPart (serveDrays core s)) := by
  unfold serveDrays
  simp [hk]

@[simp] theorem enqueueTransfer_form (core : Nat) (d : Desc) (org : Origin) (s : State)
    (hk : FormKeeps link base (formPart s)) :
    FormKeeps link base (formPart (enqueueTransfer core d org s)) := by
  unfold enqueueTransfer
  simp [hk]

@[simp] theorem takeTransfer_form (core opcode : Nat) (d : Desc) (org : Origin) (s : State)
    (hk : FormKeeps link base (formPart s)) :
    FormKeeps link base (formPart (takeTransfer core opcode d org s)) := by
  unfold takeTransfer
  simp [hk]

@[simp] theorem execTransfer_form (core : Nat) (desc : Desc) (org : Origin) (s : State)
    (hk : FormKeeps link base (formPart s)) :
    OutForm link base (execTransfer core desc org s) := by
  unfold execTransfer
  simp [hk]

@[simp] theorem execCaravan_form (core : Nat) (desc : Desc) (org : Origin) (s : State) (hk : FormKeeps link base (formPart s)) :
    OutForm link base (execCaravan core desc org s) := by
  unfold execCaravan
  simp [hk]

@[simp] theorem execWeightRingStart_form (core : Nat) (s : State) (hk : FormKeeps link base (formPart s)) :
    OutForm link base (execWeightRingStart core s) := by
  unfold execWeightRingStart
  (repeat' split) <;> simp [hk]

@[simp] theorem stallTile_form (t : Transfer) (tile : Nat) (m : MemCheck) (acc : Access) (s : State)
    (hk : FormKeeps link base (formPart s)) :
    FormKeeps link base (formPart (stallTile t tile m acc s)) := by
  unfold stallTile
  simp [hk]

@[simp] theorem touchBy_form (k : Nat) (d : Desc) (tile : Nat) (s : State) (hk : FormKeeps link base (formPart s)) :
    FormKeeps link base (formPart (touchBy k d tile s)) := by
  unfold touchBy
  (repeat' split) <;> simp +contextual [hk]

@[simp] theorem touchTile_form (t : Transfer) (tile : Nat) (s : State) (hk : FormKeeps link base (formPart s)) :
    FormKeeps link base (formPart (touchTile t tile s)) := by
  unfold touchTile
  simp [hk]

@[simp] theorem failTile_part (id tile st : Nat) (s : State) :
    formPart (failTile id tile st s) = formPart s := by
  unfold failTile
  simp

@[simp] theorem postLoads_part (t : Transfer) (tile : Nat) (s : State) :
    formPart (postLoads t tile s) = formPart s := by
  unfold postLoads
  simp

@[simp] theorem writeTile_form (t : Transfer) (core tile : Nat) (data : List Byte) (s : State)
    (hk : FormKeeps link base (formPart s)) :
    FormKeeps link base (formPart (writeTile t core tile data s)) := by
  unfold writeTile
  simp +contextual [hk]

@[simp] theorem writeTransferStatus_form (t : Transfer) (status : Nat) (s : State) (hk : FormKeeps link base (formPart s)) :
    FormKeeps link base (formPart (writeTransferStatus t status s)) := by
  unfold writeTransferStatus
  simp [hk]

@[simp] theorem completeTransfer_form (id : Nat) (s : State) (hk : FormKeeps link base (formPart s)) :
    FormKeeps link base (formPart (completeTransfer id s)) := by
  unfold completeTransfer
  (repeat' split) <;> simp [hk]

@[simp] theorem settleStopped_form (id : Nat) (s : State) (hk : FormKeeps link base (formPart s)) :
    FormKeeps link base (formPart (settleStopped id s)) := by
  unfold settleStopped
  (repeat' split) <;> simp [hk]

@[simp] theorem settleFailed_form (id : Nat) (s : State) (hk : FormKeeps link base (formPart s)) :
    FormKeeps link base (formPart (settleFailed id s)) := by
  unfold settleFailed
  (repeat' split) <;> simp [hk]

@[simp] theorem landTile_form (t : Transfer) (core tile : Nat) (data : List Byte) (s : State)
    (hk : FormKeeps link base (formPart s)) :
    FormKeeps link base (formPart (landTile t core tile data s)) := by
  unfold landTile
  simp [hk]

@[simp] theorem postStores_part (t : Transfer) (tile : Nat) (data : List Byte) (s : State) :
    formPart (postStores t tile data s) = formPart s := by
  unfold postStores
  simp

@[simp] theorem deliverTile_form (t : Transfer) (tile : Nat) (s : State) (hk : FormKeeps link base (formPart s)) :
    FormKeeps link base (formPart (deliverTile t tile s)) := by
  unfold deliverTile
  simp [hk]

@[simp] theorem execTileDelivery_form (transfer tile : Nat) (s : State) (hk : FormKeeps link base (formPart s)) :
    OutForm link base (execTileDelivery transfer tile s) := by
  unfold execTileDelivery
  (repeat' split) <;> simp [hk]

@[simp] theorem endPaceWait_part (t : Transfer) (s : State) :
    formPart (endPaceWait t s) = formPart s := by
  unfold endPaceWait
  (repeat' split) <;> simp

@[simp] theorem detachLate_part (t : Transfer) (tile : Nat) (s : State) :
    formPart (detachLate t tile s) = formPart s := by
  unfold detachLate
  (repeat' split) <;> simp

@[simp] theorem reloadDie_form (die : Nat) (s : State) (hk : FormKeeps link base (formPart s)) :
    FormKeeps link base (formPart (reloadDie die s)) := by
  unfold reloadDie
  split
  · refine form_foldl (by simp [hk]) (fun s g hk => ?_)
    split
    · split <;> simp [hk]
    · exact hk
  · exact hk

@[simp] theorem stagingReady_form (core : Nat) (d : Desc) (s : State) (hk : FormKeeps link base (formPart s)) :
    FormKeeps link base (formPart (stagingReady core d s)) := by
  unfold stagingReady
  refine form_foldl hk (fun s n hk => ?_)
  split <;> simp [hk]

@[simp] theorem requestTile_form (t : Transfer) (s : State) (hk : FormKeeps link base (formPart s)) :
    FormKeeps link base (formPart (requestTile t s)) := by
  unfold requestTile
  extract_lets n c s1 s2 s3
  have hk1 : FormKeeps link base (formPart s1) := by
    simp only [s1]
    split <;> simp [hk]
  have hk3 : FormKeeps link base (formPart s3) := by simp [s3, s2, hk1]
  clear_value s3 s1
  (repeat' split)
  · simp [hk1]
  · simp [hk3]
  · exact hk3

@[simp] theorem readTile_form (t : Transfer) (errors : CodewordErrors) (s : State) (hk : FormKeeps link base (formPart s)) :
    FormKeeps link base (formPart (readTile t errors s)) := by
  unfold readTile
  simp [hk]

@[simp] theorem leaveDrayQueue_form (transfer : Nat) (s : State) (hk : FormKeeps link base (formPart s)) :
    FormKeeps link base (formPart (leaveDrayQueue transfer s)) := by
  unfold leaveDrayQueue
  (repeat' split) <;> simp [hk]

@[simp] theorem execTileRequest_form (tile : TileRead) (s : State) (hk : FormKeeps link base (formPart s)) :
    OutForm link base (execTileRequest tile s) := by
  unfold execTileRequest
  extract_lets transfer s1
  have hk1 : FormKeeps link base (formPart s1) := by simp [s1, hk]
  clear_value s1
  (repeat' split) <;> simp [hk1]

@[simp] theorem sendTile_form (t : Transfer) (tile : Nat) (s : State) (hk : FormKeeps link base (formPart s)) :
    FormKeeps link base (formPart (sendTile t tile s)) := by
  unfold sendTile
  extract_lets data here take s1 s2
  have hk1 : FormKeeps link base (formPart s1) := by simp [s1, hk]
  have hk2 : FormKeeps link base (formPart s2) := form_foldl hk1 (fun s m hk => by simp [hk])
  clear_value s1 s2
  (repeat' split) <;> simp [hk, hk2]

@[simp] theorem settleBehind_form (t : Transfer) (tile : Nat) (s : State) (hk : FormKeeps link base (formPart s)) :
    FormKeeps link base (formPart (settleBehind t tile s)) := by
  unfold settleBehind
  (repeat' split) <;> simp +contextual [hk]

@[simp] theorem execCaravanTileSend_form (transfer : Nat) (s : State) (hk : FormKeeps link base (formPart s)) :
    OutForm link base (execCaravanTileSend transfer s) := by
  unfold execCaravanTileSend
  (repeat' split) <;> simp [hk]

@[simp] theorem fetchCatchup_form (t : Transfer) (m : Member) (k : Nat) (s : State) (hk : FormKeeps link base (formPart s)) :
    FormKeeps link base (formPart (fetchCatchup t m k s)) := by
  unfold fetchCatchup
  extract_lets tile s1 c data s2 s3 s4 s5
  have hk1 : FormKeeps link base (formPart s1) := by simp [s1, hk]
  have hk2 : FormKeeps link base (formPart s2) := by simp [s2, hk1]
  have hk3 : FormKeeps link base (formPart s3) := by
    simp only [s3]
    split <;> simp [hk2]
  have hk5 : FormKeeps link base (formPart s5) := by simp [s5, s4, hk3]
  clear_value s1 s2 s3 s4 s5
  (repeat' split) <;> simp [hk1, hk5]

@[simp] theorem execCatchupFetch_form (transfer core : Nat) (s : State) (hk : FormKeeps link base (formPart s)) :
    OutForm link base (execCatchupFetch transfer core s) := by
  unfold execCatchupFetch
  (repeat' split) <;> simp [hk]

@[simp] theorem execTransferFaultResume_form (transfer : Nat) (s : State) (hk : FormKeeps link base (formPart s)) :
    OutForm link base (execTransferFaultResume transfer s) := by
  unfold execTransferFaultResume
  (repeat' split) <;> simp [hk]

@[simp] theorem dropTransfers_part (p : Transfer → Bool) (s : State) :
    formPart (dropTransfers p s) = formPart s := by
  unfold dropTransfers
  simp

@[simp] theorem execStageBarrier_form (launch stage : Nat) (s : State) (hk : FormKeeps link base (formPart s)) :
    OutForm link base (execStageBarrier launch stage s) := by
  unfold execStageBarrier
  simp only []
  (repeat' split) <;> simp [hk]

@[simp] theorem execStagePrologue_form (launch stage : Nat) (s : State) (hk : FormKeeps link base (formPart s)) :
    OutForm link base (execStagePrologue launch stage s) := by
  unfold execStagePrologue
  (repeat' split) <;> simp +contextual [hk]

@[simp] theorem execResidentSegmentLoad_form (context : Nat) (s : State) (hk : FormKeeps link base (formPart s)) :
    OutForm link base (execResidentSegmentLoad context s) := by
  unfold execResidentSegmentLoad
  (repeat' split)
  · exact hk
  · exact hk
  · simpa using form_foldl hk (fun s (g : Graph) hk => form_foldl hk (fun s v hk => by simp [hk]))

@[simp] theorem stopTask_part (core : Nat) (squash : Bool) (s : State) :
    formPart (stopTask core squash s) = formPart s := by
  unfold stopTask
  (repeat' split) <;> simp

@[simp] theorem stopTasks_part (p : TaskRec → Bool) (squash : Bool) (s : State) :
    formPart (stopTasks p squash s) = formPart s := by
  unfold stopTasks
  simp

@[simp] theorem stopWork_part (p : TaskRec → Bool) (squash : Bool) (s : State) :
    formPart (stopWork p squash s) = formPart s := by
  unfold stopWork
  simp

@[simp] theorem stopEngines_form (p : Origin → Nat → Bool) (s : State) (hk : FormKeeps link base (formPart s)) :
    FormKeeps link base (formPart (stopEngines p s)) := by
  unfold stopEngines
  extract_lets s1 s2 s3
  have hk1 : FormKeeps link base (formPart s1) :=
    form_foldl hk (fun s c hk => by
      extract_lets s1 s2 tiles s3
      have hk2 : FormKeeps link base (formPart s2) := by simp [s2, s1, hk]
      have hk3 : FormKeeps link base (formPart s3) := by
        simp only [s3]
        split <;> simp [hk2]
      simpa using hk3)
  have hk2 : FormKeeps link base (formPart s2) := by simp [s2, hk1]
  have hk3 : FormKeeps link base (formPart s3) := form_foldl hk2 (fun s c hk => by simp [hk])
  simp [hk3]

@[simp] theorem squashId_form (id : Nat) (s : State) (hk : FormKeeps link base (formPart s)) :
    FormKeeps link base (formPart (squashId id s)) := by
  unfold squashId
  simp [hk]

@[simp] theorem unmark_part (id : Nat) (s : State) :
    formPart (unmark id s) = formPart s := by
  unfold unmark
  simp

@[simp] theorem commitFault_form (h : HeldFault) (s : State) (hk : FormKeeps link base (formPart s)) :
    FormKeeps link base (formPart (commitFault h s)) := by
  unfold commitFault
  (repeat' split) <;> simp [hk]

@[simp] theorem sendCommitted_form (transfers lookups writes descs : List Nat) (s : State)
    (hk : FormKeeps link base (formPart s)) :
    FormKeeps link base (formPart (sendCommitted transfers lookups writes descs s)) := by
  unfold sendCommitted
  refine form_foldl (form_foldl (form_foldl (form_foldl hk (fun s t hk => ?_)) (fun s j hk => by simp [hk]))
    (fun s j hk => by simp [hk])) (fun s f hk => by simp [hk])
  split
  · split
    · exact settleFailed_form _ _ (form_foldl hk (fun s n hk => by simp [hk]))
    · exact hk
  · exact hk

@[simp] theorem commitId_form (id : Nat) (s : State) (hk : FormKeeps link base (formPart s)) :
    FormKeeps link base (formPart (commitId id s)) := by
  unfold commitId
  extract_lets stores records marks queries faults ts ls ws fs launches s1 fabric s2 s3 s4 s5 s6 s7 s8 s9 s10
  have hk2 : FormKeeps link base (formPart s2) := by simp [s2, s1, fabric, hk]
  have hk3 : FormKeeps link base (formPart s3) := form_foldl hk2 (fun s h hk => by simp [hk])
  have hk4 : FormKeeps link base (formPart s4) := form_foldl hk3 (fun s h hk => by simp [hk])
  have hk5 : FormKeeps link base (formPart s5) := form_foldl hk4 (fun s h hk => by simp [hk])
  have hk6 : FormKeeps link base (formPart s6) := form_foldl hk5 (fun s h hk => by simp [hk])
  have hk7 : FormKeeps link base (formPart s7) := by simp [s7, hk6]
  have hk8 : FormKeeps link base (formPart s8) := form_foldl hk7 (fun s h hk => by simp [hk])
  have hk9 : FormKeeps link base (formPart s9) := form_foldl hk8 (fun s h hk => by simp [hk])
  have hk10 : FormKeeps link base (formPart s10) := form_foldl hk9 (fun s h hk => by simp [hk])
  simp only [count_part]
  exact form_foldl hk10 (fun s l hk => by simp [hk])

@[simp] theorem notePrediction_part (p : Prediction) (s : State) :
    formPart (notePrediction p s) = formPart s := by
  unfold notePrediction
  simp

@[simp] theorem resolveId_form (launch branch : Nat) (out : BitVec 32) (i : SpecId) (s : State)
    (hk : FormKeeps link base (formPart s)) :
    FormKeeps link base (formPart (resolveId launch branch out i s)) := by
  unfold resolveId
  (repeat' split) <;> simp [hk]

@[simp] theorem execBranchResolve_form (launch branch : Nat) (outcome : BitVec 64) (s : State)
    (hk : FormKeeps link base (formPart s)) :
    OutForm link base (execBranchResolve launch branch outcome s) := by
  unfold execBranchResolve
  simp only []
  (repeat' split) <;> simp +contextual [hk]

end Sys2Proof.Machine
end

section
/-! SUPPORT. The form of the memories along the meanings, in the order of the model: from `dispatchAhead` to `execRekey`. -/

namespace Sys2Proof.Machine

open Sys2Proof

variable {link : Bool} {base : Memories × LinkView}

@[simp] theorem dispatchAhead_form (l : Launch) (r : BitVec 256) (id : Nat) (set : List (Nat × Nat × BitVec 32))
    (rs : List ProvRange) (kept : Bool) (s : State) (hk : FormKeeps link base (formPart s)) :
    FormKeeps link base (formPart (dispatchAhead l r id set rs kept s)) := by
  unfold dispatchAhead
  simp only [count_part, settleOutgoing_part]
  refine dispatchTasks_form _ _ _ _ ?_
  simp only [formPart_mk, formPart_eta, formPart_ite, ite_self]
  refine form_foldl hk (fun s k hk => ?_)
  split <;> simp [hk]

@[simp] theorem execSpecDispatch_form (launch stage : Nat) (s : State) (hk : FormKeeps link base (formPart s)) :
    OutForm link base (execSpecDispatch launch stage s) := by
  unfold execSpecDispatch
  simp only []
  (repeat' split) <;> simp [hk]

@[simp] theorem clearRange_form (r : ProvRange) (s : State) (hk : FormKeeps link base (formPart s)) :
    FormKeeps link base (formPart (clearRange r s)) := by
  unfold clearRange
  simp [hk]

@[simp] theorem execRangeInvalidate_form (spec : Nat) (s : State) (hk : FormKeeps link base (formPart s)) :
    OutForm link base (execRangeInvalidate spec s) := by
  unfold execRangeInvalidate
  simp +contextual [hk]

@[simp] theorem predictResetAction_part (x0 : ReqId) (bytes : List Byte) (s : State) :
    formPart (predictResetAction x0 bytes s) = formPart s := by
  unfold predictResetAction
  simp

@[simp] theorem execPredictReset_form (req : ReqId) (value : Nat) (s : State) (hk : FormKeeps link base (formPart s)) :
    OutForm link base (execPredictReset req value s) := by
  unfold execPredictReset
  simp [hk]

@[simp] theorem stopLaunch_form (launch : Nat) (s : State) (hk : FormKeeps link base (formPart s)) :
    FormKeeps link base (formPart (stopLaunch launch s)) := by
  unfold stopLaunch
  split
  · exact hk
  · extract_lets kept s1 mine s2 s3 s4
    have hk1 : FormKeeps link base (formPart s1) := by simp [s1, hk]
    have hk2 : FormKeeps link base (formPart s2) := form_foldl hk1 (fun s i hk => by simp [hk])
    have hk4 : FormKeeps link base (formPart s4) := by simp [s4, s3, hk2]
    simp [hk4]

@[simp] theorem discardFrame_part (port : Nat) (s : State) :
    formPart (discardFrame port s) = formPart s := by
  unfold discardFrame
  simp

@[simp] theorem updBinding_part (b : Nat) (f : BindingRun → BindingRun) (s : State) :
    formPart (updBinding b f s) = formPart s := by
  unfold updBinding
  simp

@[simp] theorem noteAccepted_part (h : LorjoHdr) (s : State) :
    formPart (noteAccepted h s) = formPart s := by
  unfold noteAccepted
  (repeat' split) <;> simp

@[simp] theorem refuse_part (a : Admitted) (status reason : Nat) (s : State) :
    formPart (refuse a status reason s) = formPart s := by
  unfold refuse
  simp

@[simp] theorem sendFrom_part (port : Nat) (src dst : Endpoint) (ds : List (List Byte)) (s : State) :
    formPart (sendFrom port src dst ds s) = formPart s := by
  unfold sendFrom
  simp

@[simp] theorem cachePut_part (e : CacheEntry) (s : State) :
    formPart (cachePut e s) = formPart s := by
  unfold cachePut
  simp

@[simp] theorem holdEvents_part (a : Admitted) (s : State) :
    formPart (holdEvents a s) = formPart s := by
  unfold holdEvents
  simp

@[simp] theorem noteSession_part (a : Admitted) (s : State) :
    formPart (noteSession a s) = formPart s := by
  unfold noteSession
  simp

@[simp] theorem launchBivouac_form (a : Admitted) (s : State) (hk : FormKeeps link base (formPart s)) :
    FormKeeps link base (formPart (launchBivouac a s)) := by
  unfold launchBivouac
  simp [hk]

@[simp] theorem admitRequest_form (a : Admitted) (exitAt : Option Nat) (biv : Bool) (s : State)
    (hk : FormKeeps link base (formPart s)) :
    FormKeeps link base (formPart (admitRequest a exitAt biv s)) := by
  unfold admitRequest
  extract_lets joins buffer a1 a2 s1 s2 fields s3 s4 groups s5
  have hk2 : FormKeeps link base (formPart s2) := by
    simp only [s2, s1]
    (repeat' split) <;> simp [hk]
  have hk3 : FormKeeps link base (formPart s3) := by simp [s3, fields, hk2]
  have hk4 : FormKeeps link base (formPart s4) := by
    clear_value buffer
    simp only [s4]
    split <;> simp [hk3]
  have hk5 : FormKeeps link base (formPart s5) := form_foldl hk4 (fun s g hk => by simp [hk])
  clear_value s5
  (repeat' split) <;> simp [hk5]

@[simp] theorem deadlineCheck_form (a : Admitted) (s : State) (hk : FormKeeps link base (formPart s)) :
    FormKeeps link base (formPart (deadlineCheck a s)) := by
  unfold deadlineCheck
  simp [hk]

@[simp] theorem serveRequest_form (a : Admitted) (s : State) (hk : FormKeeps link base (formPart s)) :
    FormKeeps link base (formPart (serveRequest a s)) := by
  unfold serveRequest
  simp only []
  (repeat' split) <;> simp [hk]

@[simp] theorem putReassembly_part (r : Reassembly) (s : State) :
    formPart (putReassembly r s) = formPart s := by
  unfold putReassembly
  simp

@[simp] theorem takeSegment_form (port : Nat) (src dst : Endpoint) (h : LorjoHdr) (payload : List Byte) (len : Nat) (key : Option (BitVec 256)) (s : State)
    (hk : FormKeeps link base (formPart s)) :
    FormKeeps link base (formPart (takeSegment port src dst h payload len key s)) := by
  unfold takeSegment
  simp [hk]

@[simp] theorem execLorjoSegmentRx_form (port : Nat) (src dst : Endpoint) (datagram : Received) (s : State)
    (hk : FormKeeps link base (formPart s)) :
    OutForm link base (execLorjoSegmentRx port src dst datagram s) := by
  unfold execLorjoSegmentRx
  simp only []
  (repeat' split) <;> simp [hk]

@[simp] theorem execReassemblyTimeout_form (src : Endpoint) (requestId : BitVec 64) (s : State)
    (hk : FormKeeps link base (formPart s)) :
    OutForm link base (execReassemblyTimeout src requestId s) := by
  unfold execReassemblyTimeout
  (repeat' split) <;> simp [hk]

@[simp] theorem answerLiveness_form (typ port : Nat) (src dst : Endpoint) (datagram : Received) (s : State)
    (hk : FormKeeps link base (formPart s)) :
    OutForm link base (answerLiveness typ port src dst datagram s) := by
  unfold answerLiveness
  simp only []
  (repeat' split) <;> simp [hk]

@[simp] theorem execKeepalive_form (port : Nat) (src dst : Endpoint) (datagram : Received) (s : State)
    (hk : FormKeeps link base (formPart s)) :
    OutForm link base (execKeepalive port src dst datagram s) := by
  unfold execKeepalive
  simp [hk]

@[simp] theorem execProbe_form (port : Nat) (src dst : Endpoint) (datagram : Received) (s : State)
    (hk : FormKeeps link base (formPart s)) :
    OutForm link base (execProbe port src dst datagram s) := by
  unfold execProbe
  simp [hk]

@[simp] theorem answerRequest_part (a : Admitted) (status exit_ : Nat) (torn sat bv : Bool) (s : State) :
    formPart (answerRequest a status exit_ torn sat bv s) = formPart s := by
  unfold answerRequest
  simp

@[simp] theorem measureBinding_part (a : Admitted) (service exit_ : Option Nat) (s : State) :
    formPart (measureBinding a service exit_ s) = formPart s := by
  unfold measureBinding
  simp

@[simp] theorem endRequest_part (l : Launch) (a : Admitted) (exit_ : Nat) (ok : Bool) (s : State) :
    formPart (endRequest l a exit_ ok s) = formPart s := by
  unfold endRequest
  simp

@[simp] theorem endLaunch_part (l : Launch) (s : State) :
    formPart (endLaunch l s) = formPart s := by
  unfold endLaunch
  simp only []
  (repeat' split) <;> simp

@[simp] theorem execLaunchComplete_form (launch : Nat) (s : State) (hk : FormKeeps link base (formPart s)) :
    OutForm link base (execLaunchComplete launch s) := by
  unfold execLaunchComplete
  simp only []
  (repeat' split) <;> simp [hk]

@[simp] theorem exitBeforeLaunch_part (a : Admitted) (s : State) :
    formPart (exitBeforeLaunch a s) = formPart s := by
  unfold exitBeforeLaunch
  simp only []
  (repeat' split) <;> simp

@[simp] theorem execExitTimer_form (request : Nat) (s : State) (hk : FormKeeps link base (formPart s)) :
    OutForm link base (execExitTimer request s) := by
  unfold execExitTimer
  (repeat' split) <;> simp [hk]

@[simp] theorem freeBuffer_part (b : Option Nat) (s : State) :
    formPart (freeBuffer b s) = formPart s := by
  unfold freeBuffer
  split <;> simp

@[simp] theorem releaseRequest_part (seq : Nat) (s : State) :
    formPart (releaseRequest seq s) = formPart s := by
  unfold releaseRequest
  (repeat' split) <;> simp

@[simp] theorem noteResponse_part (r : ReadyResp) (late : Bool) (s : State) :
    formPart (noteResponse r late s) = formPart s := by
  unfold noteResponse
  simp

@[simp] theorem storeResult_part (r : ReadyResp) (a : Admitted) (late : Bool) (s : State) :
    formPart (storeResult r a late s) = formPart s := by
  unfold storeResult
  (repeat' split) <;> simp

@[simp] theorem sendResp_part (port : Nat) (r : ReadyResp) (s : State) :
    formPart (sendResp port r s) = formPart s := by
  unfold sendResp
  simp only []
  (repeat' split) <;> simp

@[simp] theorem execResponseTransmit_form (port : Nat) (s : State) (hk : FormKeeps link base (formPart s)) :
    OutForm link base (execResponseTransmit port s) := by
  unfold execResponseTransmit
  (repeat' split) <;> simp [hk]

@[simp] theorem drainBinding_part (b : Nat) (s : State) :
    formPart (drainBinding b s) = formPart s := by
  unfold drainBinding
  simp

@[simp] theorem bindingEnableAction_part (b : Nat) (x1 : ReqId) (bytes : List Byte) (s : State) :
    formPart (bindingEnableAction b x1 bytes s) = formPart s := by
  unfold bindingEnableAction
  simp

@[simp] theorem execBindingEnable_form (req : ReqId) (binding value : Nat) (s : State) (hk : FormKeeps link base (formPart s)) :
    OutForm link base (execBindingEnable req binding value s) := by
  unfold execBindingEnable
  simp [hk]

@[simp] theorem svcEnableAction_part (x0 : ReqId) (bytes : List Byte) (s : State) :
    formPart (svcEnableAction x0 bytes s) = formPart s := by
  unfold svcEnableAction
  simp

@[simp] theorem execSvcEnable_form (req : ReqId) (value : Nat) (s : State) (hk : FormKeeps link base (formPart s)) :
    OutForm link base (execSvcEnable req value s) := by
  unfold execSvcEnable
  simp [hk]

@[simp] theorem keyLoadAction_part (x0 : ReqId) (bytes : List Byte) (s : State) : formPart (keyLoadAction x0 bytes s) = formPart s := by
  unfold keyLoadAction
  simp only [formPart_mk, formPart_eta, wbSubmit_part, measureBytes_part]

@[simp] theorem execKeyLoad_form (req : ReqId) (value : List Byte) (s : State) (hk : FormKeeps link base (formPart s)) :
    OutForm link base (execKeyLoad req value s) := by
  unfold execKeyLoad
  simp [hk]

@[simp] theorem updLegacy_part (f : Legacy → Legacy) (s : State) :
    formPart (updLegacy f s) = formPart s := by
  unfold updLegacy
  simp

@[simp] theorem updLeg_part (id : Nat) (f : Cmd → Cmd) (s : State) :
    formPart (updLeg id f s) = formPart s := by
  unfold updLeg
  simp

@[simp] theorem finishLeg_part (id status reason : Nat) (s : State) :
    formPart (finishLeg id status reason s) = formPart s := by
  unfold finishLeg
  simp

@[simp] theorem legRead_form (s : State) (hk : FormKeeps link base (formPart s)) :
    FormKeeps link base (formPart (legRead s)) := by
  unfold legRead
  simp [hk]

@[simp] theorem takeLegacy_form (w : BitVec 512) (s : State) (hk : FormKeeps link base (formPart s)) :
    FormKeeps link base (formPart (takeLegacy w s)) := by
  unfold takeLegacy
  simp [hk]

@[simp] theorem legLoop_form (fuel : Nat) (s : State) (hk : FormKeeps link base (formPart s)) :
    FormKeeps link base (formPart (legLoop fuel s)) := by
  induction fuel generalizing s with
  | zero => exact hk
  | succ k ih =>
    unfold legLoop
    try simp only []
    (repeat' split) <;> simp_all

@[simp] theorem legacyFetch_form (s : State) (hk : FormKeeps link base (formPart s)) :
    FormKeeps link base (formPart (legacyFetch s)) := by
  unfold legacyFetch
  (repeat' split) <;> simp [hk]

@[simp] theorem retryLegacy_form (s : State) (hk : FormKeeps link base (formPart s)) :
    FormKeeps link base (formPart (retryLegacy s)) := by
  unfold retryLegacy
  (repeat' split) <;> simp [hk]

@[simp] theorem legacyOff_part (s : State) :
    formPart (legacyOff s) = formPart s := by
  unfold legacyOff
  simp

@[simp] theorem legacyEnable_part (on : Bool) (s : State) :
    formPart (legacyEnable on s) = formPart s := by
  unfold legacyEnable
  simp

@[simp] theorem writeSqTail_form (w : HostWrite) (s : State) (hk : FormKeeps link base (formPart s)) :
    FormKeeps link base (formPart (writeSqTail w s)) := by
  unfold writeSqTail
  (repeat' split) <;> simp [hk]

@[simp] theorem execSqTail_form (w : HostWrite) (s : State) (hk : FormKeeps link base (formPart s)) :
    OutForm link base (execSqTail w s) := by
  unfold execSqTail
  simp [hk]

@[simp] theorem takeLeg_form {run : Cmd → State → State} (op : Nat)
    (h : ∀ c s, FormKeeps link base (formPart s) → FormKeeps link base (formPart (run c s))) (s : State)
    (hk : FormKeeps link base (formPart s)) : OutForm link base (takeLeg op run s) := by
  unfold takeLeg
  split
  · exact h _ _ hk
  · exact hk

@[simp] theorem runLegacyDma_form (c : Cmd) (s : State) (hk : FormKeeps link base (formPart s)) :
    FormKeeps link base (formPart (runLegacyDma c s)) := by
  unfold runLegacyDma
  simp +contextual [hk]

@[simp] theorem runLegacyDesc_form (c : Cmd) (s : State) (hk : FormKeeps link base (formPart s)) :
    FormKeeps link base (formPart (runLegacyDesc c s)) := by
  unfold runLegacyDesc
  (repeat' split) <;> simp [hk]

@[simp] theorem runLegacyKernel_form (c : Cmd) (s : State) (hk : FormKeeps link base (formPart s)) :
    FormKeeps link base (formPart (runLegacyKernel c s)) := by
  unfold runLegacyKernel
  simp [hk]

@[simp] theorem runLegacyLaunch_form (c : Cmd) (s : State) (hk : FormKeeps link base (formPart s)) :
    FormKeeps link base (formPart (runLegacyLaunch c s)) := by
  unfold runLegacyLaunch
  simp only []
  (repeat' split) <;> simp [hk]

@[simp] theorem execLegacyNop_form (s : State) (hk : FormKeeps link base (formPart s)) :
    OutForm link base (execLegacyNop s) := by
  unfold execLegacyNop
  simp [hk]

@[simp] theorem execLegacyDma_form (s : State) (hk : FormKeeps link base (formPart s)) :
    OutForm link base (execLegacyDma s) := by
  unfold execLegacyDma
  exact takeLeg_form _ (fun c s hk => by simp [hk]) s hk

@[simp] theorem execLegacyDesc_form (s : State) (hk : FormKeeps link base (formPart s)) :
    OutForm link base (execLegacyDesc s) := by
  unfold execLegacyDesc
  exact takeLeg_form _ (fun c s hk => by simp [hk]) s hk

@[simp] theorem execLegacyKernel_form (s : State) (hk : FormKeeps link base (formPart s)) :
    OutForm link base (execLegacyKernel s) := by
  unfold execLegacyKernel
  exact takeLeg_form _ (fun c s hk => by simp [hk]) s hk

@[simp] theorem execLegacyLaunch_form (s : State) (hk : FormKeeps link base (formPart s)) :
    OutForm link base (execLegacyLaunch s) := by
  unfold execLegacyLaunch
  exact takeLeg_form _ (fun c s hk => by simp [hk]) s hk

@[simp] theorem execLegacySignal_form (s : State) (hk : FormKeeps link base (formPart s)) :
    OutForm link base (execLegacySignal s) := by
  unfold execLegacySignal
  simp [hk]

@[simp] theorem holdLeg_part (c : Cmd) (v : BitVec 64) (s : State) :
    formPart (holdLeg c v s) = formPart s := by
  unfold holdLeg
  (repeat' split) <;> simp

@[simp] theorem runLegacyWait_form (c : Cmd) (s : State) (hk : FormKeeps link base (formPart s)) :
    FormKeeps link base (formPart (runLegacyWait c s)) := by
  unfold runLegacyWait
  (repeat' split) <;> simp [hk]

@[simp] theorem execLegacyWait_form (s : State) (hk : FormKeeps link base (formPart s)) :
    OutForm link base (execLegacyWait s) := by
  unfold execLegacyWait
  (repeat' split) <;> simp [hk]

@[simp] theorem legRecord_form (c : Cmd) (s : State) (hk : FormKeeps link base (formPart s)) :
    FormKeeps link base (formPart (legRecord c s)) := by
  unfold legRecord
  simp [hk]

@[simp] theorem legPost_form (c : Cmd) (s : State) (hk : FormKeeps link base (formPart s)) :
    FormKeeps link base (formPart (legPost c s)) := by
  unfold legPost
  simp [hk]

@[simp] theorem legStall_form (c : Cmd) (m : MemCheck × Access) (s : State) (hk : FormKeeps link base (formPart s)) :
    FormKeeps link base (formPart (legStall c m s)) := by
  unfold legStall
  (repeat' split) <;> simp [hk]

@[simp] theorem completeLegacy_form (c : Cmd) (s : State) (hk : FormKeeps link base (formPart s)) :
    FormKeeps link base (formPart (completeLegacy c s)) := by
  unfold completeLegacy
  (repeat' split) <;> simp [hk]

@[simp] theorem releaseLegHeld_form (fuel : Nat) (s : State) (hk : FormKeeps link base (formPart s)) :
    FormKeeps link base (formPart (releaseLegHeld fuel s)) := by
  induction fuel generalizing s with
  | zero => exact hk
  | succ k ih =>
    unfold releaseLegHeld
    try simp only []
    (repeat' split) <;> simp_all

@[simp] theorem serveLegHeld_form (s : State) (hk : FormKeeps link base (formPart s)) :
    FormKeeps link base (formPart (serveLegHeld s)) := by
  unfold serveLegHeld
  (repeat' split) <;> simp [hk]

@[simp] theorem writeLegCqHead_form (w : HostWrite) (s : State) (hk : FormKeeps link base (formPart s)) :
    FormKeeps link base (formPart (writeLegCqHead w s)) := by
  unfold writeLegCqHead
  (repeat' split) <;> simp [hk]

@[simp] theorem execLegacyCqHead_form (w : HostWrite) (s : State) (hk : FormKeeps link base (formPart s)) :
    OutForm link base (execLegacyCqHead w s) := by
  unfold execLegacyCqHead
  simp [hk]

@[simp] theorem writeBar4_form (offset : Nat) (w : HostWrite) (s : State) (hk : FormKeeps link base (formPart s)) :
    FormKeeps link base (formPart (writeBar4 offset w s)) := by
  unfold writeBar4
  simp only []
  (repeat' split) <;> simp [hk]

@[simp] theorem execLqCtrlWrite_form (offset : Nat) (w : HostWrite) (s : State) (hk : FormKeeps link base (formPart s)) :
    OutForm link base (execLqCtrlWrite offset w s) := by
  unfold execLqCtrlWrite
  simp [hk]

@[simp] theorem execCommandCompletion_form (queue cmd : Nat) (s : State) (hk : FormKeeps link base (formPart s)) :
    OutForm link base (execCommandCompletion queue cmd s) := by
  unfold execCommandCompletion
  (repeat' split) <;> simp [hk]

@[simp] theorem mapFetch_part (fuel : Nat) (s : State) :
    formPart (mapFetch fuel s) = formPart s := by
  induction fuel generalizing s with
  | zero => rfl
  | succ k ih =>
    unfold mapFetch
    try simp only []
    (repeat' split) <;> simp_all

@[simp] theorem fetchMap_part (s : State) :
    formPart (fetchMap s) = formPart s := by
  unfold fetchMap
  simp

@[simp] theorem execMapTail_form (w : HostWrite) (s : State) (hk : FormKeeps link base (formPart s)) :
    OutForm link base (execMapTail w s) := by
  unfold execMapTail
  (repeat' split) <;> simp [hk]

@[simp] theorem retryMap_part (s : State) :
    formPart (retryMap s) = formPart s := by
  unfold retryMap
  (repeat' split) <;> simp

@[simp] theorem execPhaseRetry_form (queue : Nat) (s : State) (hk : FormKeeps link base (formPart s)) :
    OutForm link base (execPhaseRetry queue s) := by
  unfold execPhaseRetry
  simp [hk]

@[simp] theorem chargePage_part (cold : Bool) (k page : Nat) (s : State) :
    formPart (chargePage cold k page s) = formPart s := by
  unfold chargePage
  simp

@[simp] theorem refundPage_part (page : Nat) (s : State) :
    formPart (refundPage page s) = formPart s := by
  unfold refundPage
  (repeat' split) <;> simp

@[simp] theorem allocPage_part (m : MapOp) (page : Nat) (s : State) :
    formPart (allocPage m page s) = formPart s := by
  unfold allocPage
  extract_lets cold
  split
  · rename_i h; simp [takeFrame_part h]
  · rfl

@[simp] theorem freePage_form (page : Nat) (s : State) (hk : FormKeeps link base (formPart s)) :
    FormKeeps link base (formPart (freePage page s)) := by
  unfold freePage
  simp [hk]

@[simp] theorem mapHostPage_part (m : MapOp) (page : Nat) (s : State) :
    formPart (mapHostPage m page s) = formPart s := by
  unfold mapHostPage
  simp

@[simp] theorem absentPage_part (m : MapOp) (page : Nat) (s : State) :
    formPart (absentPage m page s) = formPart s := by
  unfold absentPage
  simp

@[simp] theorem protectPage_part (m : MapOp) (page : Nat) (s : State) :
    formPart (protectPage m page s) = formPart s := by
  unfold protectPage
  simp

@[simp] theorem migratePage_form (m : MapOp) (page : Nat) (s : State) (hk : FormKeeps link base (formPart s)) :
    FormKeeps link base (formPart (migratePage m page s)) := by
  unfold migratePage
  extract_lets v bus r
  split
  · exact hk
  next f s1 h =>
    rw [← takeFrame_part h] at hk
    extract_lets data m s2
    have hk2 : FormKeeps link base (formPart s2) := by
      simp only [s2, m, formPart_mk]
      exact form_dram_write hk _ _
    simp [hk2]

@[simp] theorem mapPage_form (m : MapOp) (page : Nat) (s : State) (hk : FormKeeps link base (formPart s)) :
    FormKeeps link base (formPart (mapPage m page s)) := by
  unfold mapPage
  (repeat' split) <;> simp [hk]

@[simp] theorem mapComplete_form (r : MapRecord) (status reason : Nat) (s : State) (hk : FormKeeps link base (formPart s)) :
    FormKeeps link base (formPart (mapComplete r status reason s)) := by
  unfold mapComplete
  (repeat' split) <;> simp [hk]

@[simp] theorem denyFault_part (page : Nat) (s : State) :
    formPart (denyFault page s) = formPart s := by
  unfold denyFault
  (repeat' split) <;> simp

@[simp] theorem runMap_form (r : MapRecord) (s : State) (hk : FormKeeps link base (formPart s)) :
    FormKeeps link base (formPart (runMap r s)) := by
  unfold runMap
  extract_lets m inv s1 s2 s3
  have hk1 : FormKeeps link base (formPart s1) := form_foldl hk (fun s p hk => by simp [hk])
  have hk3 : FormKeeps link base (formPart s3) := by
    simp only [s3, s2]
    split <;> simp [hk1]
  clear_value s3
  (repeat' split)
  · simp [hk]
  · simp [hk]
  · simp [hk]
  · simp [hk]
  · simp [hk]
  · simp [hk]
  · exact form_foldl hk3 (fun s p hk => by split <;> simp [hk])

@[simp] theorem takeMap_form (op : Nat) (s : State) (hk : FormKeeps link base (formPart s)) :
    OutForm link base (takeMap op s) := by
  unfold takeMap
  (repeat' split) <;> simp [hk]

@[simp] theorem execAlloc_form (s : State) (hk : FormKeeps link base (formPart s)) :
    OutForm link base (execAlloc s) := by
  unfold execAlloc
  simp [hk]

@[simp] theorem execFree_form (s : State) (hk : FormKeeps link base (formPart s)) :
    OutForm link base (execFree s) := by
  unfold execFree
  simp [hk]

@[simp] theorem execMapHost_form (s : State) (hk : FormKeeps link base (formPart s)) :
    OutForm link base (execMapHost s) := by
  unfold execMapHost
  simp [hk]

@[simp] theorem execSetAbsent_form (s : State) (hk : FormKeeps link base (formPart s)) :
    OutForm link base (execSetAbsent s) := by
  unfold execSetAbsent
  simp [hk]

@[simp] theorem execProtect_form (s : State) (hk : FormKeeps link base (formPart s)) :
    OutForm link base (execProtect s) := by
  unfold execProtect
  simp [hk]

@[simp] theorem execMigrate_form (s : State) (hk : FormKeeps link base (formPart s)) :
    OutForm link base (execMigrate s) := by
  unfold execMigrate
  simp [hk]

@[simp] theorem execDeny_form (s : State) (hk : FormKeeps link base (formPart s)) :
    OutForm link base (execDeny s) := by
  unfold execDeny
  simp [hk]

@[simp] theorem execPageFault_form (agent : Nat) (va : BitVec 64) (access : Access) (s : State)
    (hk : FormKeeps link base (formPart s)) :
    OutForm link base (execPageFault agent va access s) := by
  unfold execPageFault
  simp [hk]

@[simp] theorem execFqHead_form (w : HostWrite) (s : State) (hk : FormKeeps link base (formPart s)) :
    OutForm link base (execFqHead w s) := by
  unfold execFqHead
  (repeat' split) <;> simp [hk]

@[simp] theorem fqOverflowClearAction_part (x0 : ReqId) (x1 : List Byte) (s : State) :
    formPart (fqOverflowClearAction x0 x1 s) = formPart s := by
  unfold fqOverflowClearAction
  simp

@[simp] theorem execFqOverflowClear_form (req : ReqId) (value : Nat) (s : State) (hk : FormKeeps link base (formPart s)) :
    OutForm link base (execFqOverflowClear req value s) := by
  unfold execFqOverflowClear
  simp [hk]

@[simp] theorem resumeFetch_form (s : State) (hk : FormKeeps link base (formPart s)) :
    FormKeeps link base (formPart (resumeFetch s)) := by
  unfold resumeFetch
  exact legacyFetch_form _ (form_foldl hk (fun s n hk => by simp [hk]))

@[simp] theorem resumeHeld_form (s : State) (hk : FormKeeps link base (formPart s)) :
    FormKeeps link base (formPart (resumeHeld s)) := by
  unfold resumeHeld
  exact serveLegHeld_form _ (form_foldl hk (fun s n hk => by split <;> simp [hk]))

@[simp] theorem serveSlots_form (s : State) (hk : FormKeeps link base (formPart s)) :
    FormKeeps link base (formPart (serveSlots s)) := by
  unfold serveSlots
  simp +contextual [hk]

@[simp] theorem replayAgent_form (agent : Nat) (s : State) (hk : FormKeeps link base (formPart s)) :
    FormKeeps link base (formPart (replayAgent agent s)) := by
  unfold replayAgent
  (repeat' split) <;> simp [hk]

@[simp] theorem execFaultReplay_form (agent : Nat) (s : State) (hk : FormKeeps link base (formPart s)) :
    OutForm link base (execFaultReplay agent s) := by
  unfold execFaultReplay
  (repeat' split) <;> simp [hk]

@[simp] theorem execFaultTimeout_form (page : Nat) (s : State) (hk : FormKeeps link base (formPart s)) :
    OutForm link base (execFaultTimeout page s) := by
  unfold execFaultTimeout
  simp only []
  (repeat' split) <;> simp [hk]

@[simp] theorem tileFailed_form (id tile st : Nat) (s : State) (hk : FormKeeps link base (formPart s)) :
    FormKeeps link base (formPart (tileFailed id tile st s)) := by
  unfold tileFailed
  simp [hk]

@[simp] theorem tileLoaded_part (id tile va : Nat) (data : List Byte) (s : State) :
    formPart (tileLoaded id tile va data s) = formPart s := by
  unfold tileLoaded
  (repeat' split) <;> simp

@[simp] theorem atomicAnswer_form (id va old : Nat) (s : State) (hk : FormKeeps link base (formPart s)) :
    FormKeeps link base (formPart (atomicAnswer id va old s)) := by
  unfold atomicAnswer
  split
  · exact hk
  · extract_lets s1
    have hk1 : FormKeeps link base (formPart s1) := by simp [s1, hk]
    clear_value s1
    split <;> simp [hk1]

@[simp] theorem signalDone_part (queue cmd st : Nat) (s : State) :
    formPart (signalDone queue cmd st s) = formPart s := by
  unfold signalDone
  simp

@[simp] theorem opFailed_form (o : FabOp) (st reason : Nat) (s : State) (hk : FormKeeps link base (formPart s)) :
    FormKeeps link base (formPart (opFailed o st reason s)) := by
  unfold opFailed
  (repeat' split) <;> simp [hk]

@[simp] theorem opApplied_form (o : FabOp) (s : State) (hk : FormKeeps link base (formPart s)) :
    FormKeeps link base (formPart (opApplied o s)) := by
  unfold opApplied
  (repeat' split) <;> simp [hk]

@[simp] theorem retryGlobals_form (s : State) (hk : FormKeeps link base (formPart s)) :
    FormKeeps link base (formPart (retryGlobals s)) := by
  unfold retryGlobals
  simp +contextual [hk]

@[simp] theorem dropServed_part (peer : Nat) (s : State) :
    formPart (dropServed peer s) = formPart s := by
  unfold dropServed
  simp

@[simp] theorem endSession_form (peer cause : Nat) (s : State) (hk : FormKeeps link base (formPart s)) :
    FormKeeps link base (formPart (endSession peer cause s)) := by
  unfold endSession
  extract_lets x pend n unused fresh s1 s2
  have hk1 : FormKeeps link base (formPart s1) := by simp [s1, hk]
  have hk2 : FormKeeps link base (formPart s2) := by simp [s2, hk1]
  exact form_foldl hk2 (fun s o hk => by simp [hk])

@[simp] theorem checkMember_part (s : State) :
    formPart (checkMember s) = formPart s := by
  unfold checkMember
  simp

@[simp] theorem sendFragments_part (peer typ gen : Nat) (msg : List Byte) (s : State) :
    formPart (sendFragments peer typ gen msg s) = formPart s := by
  unfold sendFragments
  (repeat' split) <;> simp

@[simp] theorem startHandshake_part (peer : Nat) (s : State) :
    formPart (startHandshake peer s) = formPart s := by
  unfold startHandshake
  simp

@[simp] theorem startHandshakes_part (s : State) :
    formPart (startHandshakes s) = formPart s := by
  unfold startHandshakes
  simp

@[simp] theorem failHandshake_part (peer : Nat) (s : State) :
    formPart (failHandshake peer s) = formPart s := by
  unfold failHandshake
  simp

@[simp] theorem sessionUp_form (peer gen : Nat) (initiator : Bool) (keys : List Byte) (s : State)
    (hk : FormKeeps link base (formPart s)) :
    FormKeeps link base (formPart (sessionUp peer gen initiator keys s)) := by
  unfold sessionUp
  simp [hk]

@[simp] theorem peerSetAction_part (x0 : ReqId) (bytes : List Byte) (s : State) :
    formPart (peerSetAction x0 bytes s) = formPart s := by
  unfold peerSetAction
  simp

@[simp] theorem execPeerSet_form (req : ReqId) (value : List Byte) (s : State) (hk : FormKeeps link base (formPart s)) :
    OutForm link base (execPeerSet req value s) := by
  unfold execPeerSet
  simp [hk]

@[simp] theorem joinFabric_part (s : State) :
    formPart (joinFabric s) = formPart s := by
  unfold joinFabric
  simp

@[simp] theorem fabricJoinAction_part (x0 : ReqId) (x1 : List Byte) (s : State) :
    formPart (fabricJoinAction x0 x1 s) = formPart s := by
  unfold fabricJoinAction
  simp

@[simp] theorem execFabricJoin_form (req : ReqId) (value : Nat) (s : State) (hk : FormKeeps link base (formPart s)) :
    OutForm link base (execFabricJoin req value s) := by
  unfold execFabricJoin
  simp [hk]

@[simp] theorem tryLeave_part (s : State) :
    formPart (tryLeave s) = formPart s := by
  unfold tryLeave
  simp

@[simp] theorem leaveFabric_part (s : State) :
    formPart (leaveFabric s) = formPart s := by
  unfold leaveFabric
  simp

@[simp] theorem fabricLeaveAction_part (x0 : ReqId) (x1 : List Byte) (s : State) :
    formPart (fabricLeaveAction x0 x1 s) = formPart s := by
  unfold fabricLeaveAction
  simp

@[simp] theorem execFabricLeave_form (req : ReqId) (value : Nat) (s : State) (hk : FormKeeps link base (formPart s)) :
    OutForm link base (execFabricLeave req value s) := by
  unfold execFabricLeave
  simp [hk]

@[simp] theorem takeAck_part (peer : Nat) (p : Pkt) (s : State) :
    formPart (takeAck peer p s) = formPart s := by
  unfold takeAck
  simp

@[simp] theorem dropPacket_part (s : State) :
    formPart (dropPacket s) = formPart s := by
  unfold dropPacket
  simp

@[simp] theorem execFabricDataRx_form (iface : Nat) (ce : Bool) (datagram : List Byte) (s : State)
    (hk : FormKeeps link base (formPart s)) :
    OutForm link base (execFabricDataRx iface ce datagram s) := by
  unfold execFabricDataRx
  (repeat' split) <;> simp [hk]

@[simp] theorem execFabricAckRx_form (iface : Nat) (ce : Bool) (datagram : List Byte) (s : State)
    (hk : FormKeeps link base (formPart s)) :
    OutForm link base (execFabricAckRx iface ce datagram s) := by
  unfold execFabricAckRx
  (repeat' split) <;> simp [hk]

@[simp] theorem execAckTimer_form (peer : Nat) (s : State) (hk : FormKeeps link base (formPart s)) :
    OutForm link base (execAckTimer peer s) := by
  unfold execAckTimer
  simp [hk]

@[simp] theorem execRetransmitTimeout_form (peer psn : Nat) (s : State) (hk : FormKeeps link base (formPart s)) :
    OutForm link base (execRetransmitTimeout peer psn s) := by
  unfold execRetransmitTimeout
  simp only []
  (repeat' split) <;> simp [hk]

@[simp] theorem execCwndUpdate_form (peer : Nat) (s : State) (hk : FormKeeps link base (formPart s)) :
    OutForm link base (execCwndUpdate peer s) := by
  unfold execCwndUpdate
  simp [hk]

@[simp] theorem execRekey_form (peer : Nat) (s : State) (hk : FormKeeps link base (formPart s)) :
    OutForm link base (execRekey peer s) := by
  unfold execRekey
  simp [hk]

end Sys2Proof.Machine
end

section
/-! SUPPORT. The form of the memories along the meanings, in the order of the model: from `execPathMove` to `execSegmentLapse`. -/

namespace Sys2Proof.Machine

open Sys2Proof

variable {link : Bool} {base : Memories × LinkView}

@[simp] theorem execPathMove_form (peer path : Nat) (down : Bool) (s : State) (hk : FormKeeps link base (formPart s)) :
    OutForm link base (execPathMove peer path down s) := by
  unfold execPathMove
  simp only []
  (repeat' split) <;> simp [hk]

@[simp] theorem answerHello_part (peer gen : Nat) (msg : List Byte) (s : State) :
    formPart (answerHello peer gen msg s) = formPart s := by
  unfold answerHello
  simp

@[simp] theorem execHello_form (iface : Nat) (datagram : List Byte) (s : State) (hk : FormKeeps link base (formPart s)) :
    OutForm link base (execHello iface datagram s) := by
  unfold execHello
  simp only []
  (repeat' split) <;> simp [hk]

@[simp] theorem takeAccept_form (peer : Nat) (h : Handshake) (msg : List Byte) (s : State)
    (hk : FormKeeps link base (formPart s)) :
    FormKeeps link base (formPart (takeAccept peer h msg s)) := by
  unfold takeAccept
  simp [hk]

@[simp] theorem execAccept_form (iface : Nat) (datagram : List Byte) (s : State) (hk : FormKeeps link base (formPart s)) :
    OutForm link base (execAccept iface datagram s) := by
  unfold execAccept
  simp only []
  (repeat' split) <;> simp [hk]

@[simp] theorem execFinish_form (iface : Nat) (datagram : List Byte) (s : State) (hk : FormKeeps link base (formPart s)) :
    OutForm link base (execFinish iface datagram s) := by
  unfold execFinish
  (repeat' split) <;> simp [hk]

@[simp] theorem execHandshakeTimeout_form (peer : Nat) (s : State) (hk : FormKeeps link base (formPart s)) :
    OutForm link base (execHandshakeTimeout peer s) := by
  unfold execHandshakeTimeout
  repeat' split
  all_goals simp [hk]

@[simp] theorem execSessionRetry_form (peer : Nat) (s : State) (hk : FormKeeps link base (formPart s)) :
    OutForm link base (execSessionRetry peer s) := by
  unfold execSessionRetry
  simp [hk]

@[simp] theorem execCloseRx_form (iface : Nat) (datagram : List Byte) (s : State) (hk : FormKeeps link base (formPart s)) :
    OutForm link base (execCloseRx iface datagram s) := by
  unfold execCloseRx
  (repeat' split) <;> simp [hk]

@[simp] theorem execPeerDead_form (peer : Nat) (s : State) (hk : FormKeeps link base (formPart s)) :
    OutForm link base (execPeerDead peer s) := by
  unfold execPeerDead
  simp [hk]

@[simp] theorem execKeepaliveAckTimer_form (peer : Nat) (s : State) (hk : FormKeeps link base (formPart s)) :
    OutForm link base (execKeepaliveAckTimer peer s) := by
  unfold execKeepaliveAckTimer
  simp [hk]

@[simp] theorem execOpTimeout_form (peer seq : Nat) (s : State) (hk : FormKeeps link base (formPart s)) :
    OutForm link base (execOpTimeout peer seq s) := by
  unfold execOpTimeout
  simp only []
  (repeat' split) <;> simp [hk]

@[simp] theorem execInterfaceUp_form (iface : Nat) (s : State) (hk : FormKeeps link base (formPart s)) :
    OutForm link base (execInterfaceUp iface s) := by
  unfold execInterfaceUp
  simp [hk]

@[simp] theorem learn_part (iface : Nat) (v6 : Bool) (addr : Nat) (mac : BitVec 48) (s : State) :
    formPart (learn iface v6 addr mac s) = formPart s := by
  unfold learn
  simp

@[simp] theorem execNeighborDiscoveryFrame_form (iface : Nat) (v6 request : Bool) (target sender : Nat) (mac : BitVec 48) (s : State)
    (hk : FormKeeps link base (formPart s)) :
    OutForm link base (execNeighborDiscoveryFrame iface v6 request target sender mac s) := by
  unfold execNeighborDiscoveryFrame
  simp [hk]

@[simp] theorem cutNative_form (n : Nat) (c : Cmd) (s : State) (hk : FormKeeps link base (formPart s)) :
    FormKeeps link base (formPart (cutNative n c s)) := by
  unfold cutNative
  simp only []
  (repeat' split) <;> simp [hk]

@[simp] theorem cutLegacy_form (c : Cmd) (s : State) (hk : FormKeeps link base (formPart s)) :
    FormKeeps link base (formPart (cutLegacy c s)) := by
  unfold cutLegacy
  simp only []
  (repeat' split) <;> simp [hk]

@[simp] theorem cutIssued_form (core : Nat) (p : Desc × Origin) (s : State) (hk : FormKeeps link base (formPart s)) :
    FormKeeps link base (formPart (cutIssued core p s)) := by
  unfold cutIssued
  simp [hk]

@[simp] theorem cutRecords_form (s : State) (hk : FormKeeps link base (formPart s)) :
    FormKeeps link base (formPart (cutRecords s)) := by
  unfold cutRecords
  exact form_foldl (form_foldl (form_foldl (form_foldl hk (fun s c hk => form_foldl hk (fun s p hk => by simp [hk])))
    (fun s t hk => by simp [hk])) (fun s j hk => by simp [hk])) (fun s f hk => by simp [hk])

@[simp] theorem cutSignalled_part (n : Nat) (s : State) :
    formPart (cutSignalled n s) = formPart s := by
  unfold cutSignalled
  split <;> simp

@[simp] theorem cutCommands_form (s : State) (hk : FormKeeps link base (formPart s)) :
    FormKeeps link base (formPart (cutCommands s)) := by
  unfold cutCommands
  rw [legacyOff_part]
  exact form_foldl (form_foldl (form_foldl hk (fun s n hk => by simp [hk]))
    (fun s n hk => form_foldl hk (fun s c hk => by simp [hk]))) (fun s c hk => by simp [hk])

@[simp] theorem cutRequests_part (s : State) :
    formPart (cutRequests s) = formPart s := by
  unfold cutRequests
  simp

@[simp] theorem endJobCmds_part (s : State) :
    formPart (endJobCmds s) = formPart s := by
  unfold endJobCmds
  simp

@[simp] theorem bindingsOff_part (s : State) :
    formPart (bindingsOff s) = formPart s := by
  unfold bindingsOff
  exact formPart_foldl _ _ (fun s b => by split <;> simp) _

@[simp] theorem clearJob_form (s : State) (hk : FormKeeps link base (formPart s)) :
    FormKeeps link base (formPart (clearJob s)) := by
  have hk : FormKeeps link base (formPart (clearJobSlots (endJobCmds (settleRows (bindingsOff s))))) := by simp [hk]
  unfold clearJob
  simp only [formPart_mk]
  exact form_dram_nil hk

@[simp] theorem enterZeroising_form (s : State) (hk : FormKeeps link base (formPart s)) :
    FormKeeps link base (formPart (enterZeroising s)) := by
  have hk : FormKeeps link base (formPart (setJobState jobZeroising s)) := by simp [hk]
  unfold enterZeroising
  simp only [switchColdOn_part, formPart_mk]
  exact form_sram_nil (form_staging_nil hk)

@[simp] theorem freshJob_form (s : State) (hk : FormKeeps link base (formPart s)) :
    FormKeeps link base (formPart (freshJob s)) := by
  have hk : FormKeeps link base (formPart (clearJobSlots s)) := by simp [hk]
  unfold freshJob
  simp only [formPart_mk]
  exact form_dram_nil hk

@[simp] theorem takeEntries_part (s : State) :
    formPart (takeEntries s) = formPart s := by
  unfold takeEntries
  simp

@[simp] theorem clearCounters_part (s : State) :
    formPart (clearCounters s) = formPart s := by
  unfold clearCounters
  simp

@[simp] theorem completeDeploy_form (req : ReqId) (bytes : List Byte) (s : State) (hk : FormKeeps link base (formPart s)) :
    FormKeeps link base (formPart (completeDeploy req bytes s)) := by
  unfold completeDeploy
  simp [hk]

@[simp] theorem contextCreateAction_form (x0 : ReqId) (bytes : List Byte) (s : State) (hk : FormKeeps link base (formPart s)) :
    FormKeeps link base (formPart (contextCreateAction x0 bytes s)) := by
  unfold contextCreateAction
  simp only []
  (repeat' split) <;> simp [hk]

@[simp] theorem execContextCreate_form (req : ReqId) (desc : BitVec 256) (s : State) (hk : FormKeeps link base (formPart s)) :
    OutForm link base (execContextCreate req desc s) := by
  unfold execContextCreate
  simp +contextual [hk]

@[simp] theorem contextDeleteAction_form (x0 : ReqId) (bytes : List Byte) (s : State) (hk : FormKeeps link base (formPart s)) :
    FormKeeps link base (formPart (contextDeleteAction x0 bytes s)) := by
  unfold contextDeleteAction
  simp [hk]

@[simp] theorem execContextDelete_form (req : ReqId) (context : Nat) (s : State) (hk : FormKeeps link base (formPart s)) :
    OutForm link base (execContextDelete req context s) := by
  unfold execContextDelete
  simp +contextual [hk]

@[simp] theorem noteScrubs_part (s : State) :
    formPart (noteScrubs s) = formPart s := by
  unfold noteScrubs
  (repeat' split) <;> simp

@[simp] theorem joinLate_part (s : State) :
    formPart (joinLate s) = formPart s := by
  unfold joinLate
  (repeat' split) <;> simp

@[simp] theorem storeRecord_part (num time code inst flags : Nat) (p : List Nat) (s : State) :
    formPart (storeRecord num time code inst flags p s) = formPart s := by
  unfold storeRecord
  simp

@[simp] theorem acceptRecord_part (r : WbSubmit) (s : State) :
    formPart (acceptRecord r s) = formPart s := by
  unfold acceptRecord
  simp

@[simp] theorem execWaybillRecordWrite_form (s : State) (hk : FormKeeps link base (formPart s)) :
    OutForm link base (execWaybillRecordWrite s) := by
  unfold execWaybillRecordWrite
  (repeat' split) <;> simp [hk]

@[simp] theorem writeSuppressed_part (time n : Nat) (l : List WbCode) (s : State) :
    formPart (writeSuppressed time n l s) = formPart s := by
  fun_induction writeSuppressed time n l s <;> simp_all

@[simp] theorem closeWindow_part (s : State) :
    formPart (closeWindow s) = formPart s := by
  unfold closeWindow
  simp

@[simp] theorem execRateWindowEnd_form (s : State) (hk : FormKeeps link base (formPart s)) :
    OutForm link base (execRateWindowEnd s) := by
  unfold execRateWindowEnd
  simp [hk]

@[simp] theorem clearWaybill_part (who : Nat) (s : State) :
    formPart (clearWaybill who s) = formPart s := by
  unfold clearWaybill
  simp

@[simp] theorem answer_part (peer : Nat) (o : RxOp) (opcode : Nat) (body : List Byte) (s : State) :
    formPart (answer peer o opcode body s) = formPart s := by
  unfold answer
  simp

@[simp] theorem answerStatus_part (peer : Nat) (o : RxOp) (st reason : Nat) (s : State) :
    formPart (answerStatus peer o st reason s) = formPart s := by
  unfold answerStatus
  simp

@[simp] theorem execFabricLoadServe_form (peer seq : Nat) (s : State) (hk : FormKeeps link base (formPart s)) :
    OutForm link base (execFabricLoadServe peer seq s) := by
  unfold execFabricLoadServe
  simp only []
  (repeat' split) <;> simp [hk]

@[simp] theorem execFabricStoreServe_form (peer seq : Nat) (s : State) (hk : FormKeeps link base (formPart s)) :
    OutForm link base (execFabricStoreServe peer seq s) := by
  unfold execFabricStoreServe
  simp only []
  (repeat' split) <;> simp [hk]

@[simp] theorem serveWord_form (peer : Nat) (o : RxOp) (s : State) (hk : FormKeeps link base (formPart s)) :
    FormKeeps link base (formPart (serveWord peer o s)) := by
  unfold serveWord
  simp [hk]

@[simp] theorem execFabricAtomicServe_form (peer seq : Nat) (s : State) (hk : FormKeeps link base (formPart s)) :
    OutForm link base (execFabricAtomicServe peer seq s) := by
  unfold execFabricAtomicServe
  (repeat' split) <;> simp +contextual [hk]

@[simp] theorem execFabricSignalServe_form (peer seq : Nat) (s : State) (hk : FormKeeps link base (formPart s)) :
    OutForm link base (execFabricSignalServe peer seq s) := by
  unfold execFabricSignalServe
  simp only []
  (repeat' split) <;> simp [hk]

@[simp] theorem serveRemoteEntry_part (id : Nat) (t : Desc) (e : List Byte) (k : Nat) (a : LookupJob × State) :
    formPart (serveRemoteEntry id t e k a).2 = formPart a.2 := by
  unfold serveRemoteEntry
  simp only []
  split <;> simp

@[simp] theorem execFabricLookupServe_form (peer seq : Nat) (s : State) (hk : FormKeeps link base (formPart s)) :
    OutForm link base (execFabricLookupServe peer seq s) := by
  unfold execFabricLookupServe
  simp only []
  (repeat' split) <;> simp [hk]

@[simp] theorem noteWait_part (peer seq : Nat) (s : State) :
    formPart (noteWait peer seq s) = formPart s := by
  unfold noteWait
  simp

@[simp] theorem execFabricRowStage_form (peer seq : Nat) (s : State) (hk : FormKeeps link base (formPart s)) :
    OutForm link base (execFabricRowStage peer seq s) := by
  unfold execFabricRowStage
  split
  · simp [hk]
  · split
    · simp [hk]
    · rename_i h; simp [hk, stageRemoteRow_part h]
    · simp [hk]

@[simp] theorem execFabricBatchCommit_form (peer seq : Nat) (s : State) (hk : FormKeeps link base (formPart s)) :
    OutForm link base (execFabricBatchCommit peer seq s) := by
  unfold execFabricBatchCommit
  (repeat' split) <;> simp [hk]

@[simp] theorem execFabricBatchAbort_form (peer seq : Nat) (s : State) (hk : FormKeeps link base (formPart s)) :
    OutForm link base (execFabricBatchAbort peer seq s) := by
  unfold execFabricBatchAbort
  (repeat' split) <;> simp [hk]

@[simp] theorem dropOp_part (peer seq : Nat) (s : State) :
    formPart (dropOp peer seq s) = formPart s := by
  unfold dropOp
  simp

@[simp] theorem takeResponse_form (peer : Nat) (r : List Byte) (s : State) (hk : FormKeeps link base (formPart s)) :
    FormKeeps link base (formPart (takeResponse peer r s)) := by
  unfold takeResponse
  simp only []
  (repeat' split) <;> simp +contextual [hk]

@[simp] theorem execFabricResponseRx_form (peer : Nat) (record : List Byte) (s : State)
    (hk : FormKeeps link base (formPart s)) :
    OutForm link base (execFabricResponseRx peer record s) := by
  unfold execFabricResponseRx
  simp [hk]

@[simp] theorem takeFab_form (opcode subop core : Nat) (d : Desc) (org : Origin) (s : State)
    (hk : FormKeeps link base (formPart s)) :
    OutForm link base (takeFab opcode subop core d org s) := by
  unfold takeFab
  extract_lets s1
  have hk1 : FormKeeps link base (formPart s1) := by simp [s1, hk]
  clear_value s1
  (repeat' split) <;> simp [hk, hk1]

@[simp] theorem execFabricAtomic_form (core : Nat) (desc : Desc) (org : Origin) (s : State)
    (hk : FormKeeps link base (formPart s)) :
    OutForm link base (execFabricAtomic core desc org s) := by
  unfold execFabricAtomic
  simp [hk]

@[simp] theorem execFabricBarrier_form (core : Nat) (desc : Desc) (org : Origin) (s : State)
    (hk : FormKeeps link base (formPart s)) :
    OutForm link base (execFabricBarrier core desc org s) := by
  unfold execFabricBarrier
  simp [hk]

@[simp] theorem execFabricBroadcast_form (core : Nat) (desc : Desc) (org : Origin) (s : State)
    (hk : FormKeeps link base (formPart s)) :
    OutForm link base (execFabricBroadcast core desc org s) := by
  unfold execFabricBroadcast
  simp [hk]

@[simp] theorem execFabricSnapshot_form (core : Nat) (desc : Desc) (org : Origin) (s : State)
    (hk : FormKeeps link base (formPart s)) :
    OutForm link base (execFabricSnapshot core desc org s) := by
  unfold execFabricSnapshot
  simp [hk]

@[simp] theorem execFabricAtomicCoreRelease_form (id : Nat) (s : State) (hk : FormKeeps link base (formPart s)) :
    OutForm link base (execFabricAtomicCoreRelease id s) := by
  unfold execFabricAtomicCoreRelease
  simp [hk]

@[simp] theorem takeRelease_form (peer g gseq subop : Nat) (record : List Byte) (s : State)
    (hk : FormKeeps link base (formPart s)) :
    FormKeeps link base (formPart (takeRelease peer g gseq subop record s)) := by
  unfold takeRelease
  simp only []
  (repeat' split) <;> simp [hk]

@[simp] theorem execGlobalOperationRx_form (peer : Nat) (record : List Byte) (s : State)
    (hk : FormKeeps link base (formPart s)) :
    OutForm link base (execGlobalOperationRx peer record s) := by
  unfold execGlobalOperationRx
  simp [hk]

@[simp] theorem execGlobalTimeout_form (group : Nat) (s : State) (hk : FormKeeps link base (formPart s)) :
    OutForm link base (execGlobalTimeout group s) := by
  unfold execGlobalTimeout
  simp +contextual [hk]

@[simp] theorem ggroupEnableAction_part (g : Nat) (x1 : ReqId) (bytes : List Byte) (s : State) :
    formPart (ggroupEnableAction g x1 bytes s) = formPart s := by
  unfold ggroupEnableAction
  simp

@[simp] theorem execGgroupEnable_form (req : ReqId) (group value : Nat) (s : State) (hk : FormKeeps link base (formPart s)) :
    OutForm link base (execGgroupEnable req group value s) := by
  unfold execGgroupEnable
  simp [hk]

@[simp] theorem reloadCore_form (core : Nat) (s : State) (hk : FormKeeps link base (formPart s)) :
    FormKeeps link base (formPart (reloadCore core s)) := by
  unfold reloadCore
  refine form_foldl hk (fun s g hk => ?_)
  split
  · split <;> simp [hk]
  · exact hk

@[simp] theorem execCgWakeComplete_form (cg : Nat) (s : State) (hk : FormKeeps link base (formPart s)) :
    OutForm link base (execCgWakeComplete cg s) := by
  unfold execCgWakeComplete
  split
  · trivial
  · extract_lets g power s1 s2
    have hk2 : FormKeeps link base (formPart s2) := by
      simp only [s2]
      split
      · exact form_foldl (by simp [s1, power, hk]) (fun s c hk => by simp [hk])
      · simp [s1, power, hk]
    clear_value s2
    split
    · exact form_foldl (by simp [hk2]) (fun s c hk => by simp [hk])
    · exact hk

@[simp] theorem loadBivouac_form (s : State) (hk : FormKeeps link base (formPart s)) :
    FormKeeps link base (formPart (loadBivouac s)) := by
  unfold loadBivouac
  (repeat' split) <;> simp [hk]

@[simp] theorem execBivGraphLoad_form (s : State) (hk : FormKeeps link base (formPart s)) :
    OutForm link base (execBivGraphLoad s) := by
  unfold execBivGraphLoad
  simp [hk]

@[simp] theorem squashAll_form (s : State) (hk : FormKeeps link base (formPart s)) :
    FormKeeps link base (formPart (squashAll s)) := by
  unfold squashAll
  simp +contextual [hk]

@[simp] theorem cutUpdates_part (s : State) :
    formPart (cutUpdates s) = formPart s := by
  unfold cutUpdates
  simp

@[simp] theorem cutWork_form (s : State) (hk : FormKeeps link base (formPart s)) :
    FormKeeps link base (formPart (cutWork s)) := by
  unfold cutWork
  have hk : FormKeeps link base
      (formPart ((List.range 98).foldl (fun s c => if (ctlOf c s).task.isSome then freeCore c s else s) s)) :=
    form_foldl hk (fun s c hk => by split <;> simp [hk])
  generalize (List.range 98).foldl (fun s c => if (ctlOf c s).task.isSome then freeCore c s else s) s = u at hk ⊢
  simp only [formPart_mk]
  exact form_sram_nil (form_staging_nil hk)

@[simp] theorem cutActions_part (s : State) :
    formPart (cutActions s) = formPart s := by
  unfold cutActions
  simp

@[simp] theorem cutFabric_part (s : State) :
    formPart (cutFabric s) = formPart s := by
  unfold cutFabric
  simp

@[simp] theorem tagOk_part (graph : Nat) (v : GraphVersion) (s : State) :
    formPart (tagOk graph v s) = formPart s := by
  unfold tagOk
  simp

@[simp] theorem checkTags_form (s : State) (hk : FormKeeps link base (formPart s)) :
    FormKeeps link base (formPart (checkTags s)) := by
  unfold checkTags
  refine form_foldl hk (fun s g hk => ?_)
  extract_lets t keep u kept
  have ht : FormKeeps link base (formPart t) := by
    simp only [t]
    split <;> simp [hk]
  have hu : FormKeeps link base (formPart u) := form_foldl ht (fun s v hk => by simp [hk])
  clear_value u
  split <;> simp [hu]

@[simp] theorem reloadAll_form (s : State) (hk : FormKeeps link base (formPart s)) :
    FormKeeps link base (formPart (reloadAll s)) := by
  unfold reloadAll
  extract_lets t src u
  have ht : FormKeeps link base (formPart t) := form_foldl hk (fun s g hk => by split <;> simp [hk])
  have hu : FormKeeps link base (formPart u) := by simp [u, src, ht]
  split <;> simp [hu]

@[simp] theorem resumeQueues_form (s : State) (hk : FormKeeps link base (formPart s)) :
    FormKeeps link base (formPart (resumeQueues s)) := by
  unfold resumeQueues
  exact legacyFetch_form _ (form_foldl (by simp [hk]) (fun s n hk => by split <;> simp [hk]))

@[simp] theorem execPostilionWedge_form (s : State) (hk : FormKeeps link base (formPart s)) :
    OutForm link base (execPostilionWedge s) := by
  unfold execPostilionWedge
  simp [hk]

@[simp] theorem restoreWaybill_part (s : State) :
    formPart (restoreWaybill s) = formPart s := by
  unfold restoreWaybill
  simp

@[simp] theorem noteRefused_part (t check version : Nat) (s : State) :
    formPart (noteRefused t check version s) = formPart s := by
  unfold noteRefused
  simp

@[simp] theorem noteBankRefused_part (t : Nat) (s : State) :
    formPart (noteBankRefused t s) = formPart s := by
  unfold noteBankRefused
  simp

@[simp] theorem measureImage_part (slot t : Nat) (s : State) :
    formPart (measureImage slot t s) = formPart s := by
  unfold measureImage
  (repeat' split) <;> simp

@[simp] theorem softRepair_part (core : Nat) (faulty : List (Nat × Nat)) (r : Nat × Nat) (s : State) :
    formPart (softRepair core faulty r s) = formPart s := by
  unfold softRepair
  simp

@[simp] theorem selfTest_part (draw core : Nat) (s : State) :
    formPart (selfTest draw core s) = formPart s := by
  unfold selfTest
  simp

@[simp] theorem softRepairs_part (draw core : Nat) (s : State) :
    formPart (softRepairs draw core s) = formPart s := by
  unfold softRepairs
  simp

@[simp] theorem selfTests_part (cores : List Nat) (s : State) :
    formPart (selfTests cores s) = formPart s := by
  unfold selfTests
  simp

@[simp] theorem startPersistents_part (s : State) :
    formPart (startPersistents s) = formPart s := by
  unfold startPersistents
  simp

@[simp] theorem stopPersistents_part (s : State) :
    formPart (stopPersistents s) = formPart s := by
  unfold stopPersistents
  simp

@[simp] theorem boot2_part (s : State) :
    formPart (boot2 s) = formPart s := by
  unfold boot2
  simp

@[simp] theorem boot8_part (s : State) :
    formPart (boot8 s) = formPart s := by
  unfold boot8
  simp

@[simp] theorem boot9_part (s : State) :
    formPart (boot9 s) = formPart s := by
  unfold boot9
  simp

@[simp] theorem boot10_form (s : State) (hk : FormKeeps link base (formPart s)) :
    FormKeeps link base (formPart (boot10 s)) := by
  unfold boot10
  simp +contextual [hk]

@[simp] theorem endMaintenance_part (s : State) :
    formPart (endMaintenance s) = formPart s := by
  unfold endMaintenance
  simp

@[simp] theorem maintModeAction_part (x0 : ReqId) (bytes : List Byte) (s : State) :
    formPart (maintModeAction x0 bytes s) = formPart s := by
  unfold maintModeAction
  simp

@[simp] theorem execMaintMode_form (req : ReqId) (value : Nat) (s : State) (hk : FormKeeps link base (formPart s)) :
    OutForm link base (execMaintMode req value s) := by
  unfold execMaintMode
  simp [hk]

@[simp] theorem resetGroup_form (cg : Nat) (s : State) (hk : FormKeeps link base (formPart s)) :
    FormKeeps link base (formPart (resetGroup cg s)) := by
  unfold resetGroup
  simp +contextual [hk]

@[simp] theorem cgResetAction_form (x0 : ReqId) (bytes : List Byte) (s : State) (hk : FormKeeps link base (formPart s)) :
    FormKeeps link base (formPart (cgResetAction x0 bytes s)) := by
  unfold cgResetAction
  simp +contextual [hk]

@[simp] theorem execCgReset_form (req : ReqId) (mask : Nat) (s : State) (hk : FormKeeps link base (formPart s)) :
    OutForm link base (execCgReset req mask s) := by
  unfold execCgReset
  simp +contextual [hk]

@[simp] theorem fwWriteAction_form (x0 : ReqId) (bytes : List Byte) (s : State) (hk : FormKeeps link base (formPart s)) :
    FormKeeps link base (formPart (fwWriteAction x0 bytes s)) := by
  unfold fwWriteAction
  simp [hk]

@[simp] theorem execFwWrite_form (req : ReqId) (value : List Byte) (s : State) (hk : FormKeeps link base (formPart s)) :
    OutForm link base (execFwWrite req value s) := by
  unfold execFwWrite
  simp +contextual [hk]

@[simp] theorem installImage_part (i : StagedImage) (s : State) :
    formPart (installImage i s) = formPart s := by
  unfold installImage
  simp

@[simp] theorem fwInstallAction_part (x0 : ReqId) (bytes : List Byte) (s : State) :
    formPart (fwInstallAction x0 bytes s) = formPart s := by
  unfold fwInstallAction
  (repeat' split) <;> simp

@[simp] theorem execFwInstall_form (req : ReqId) (value : Nat) (s : State) (hk : FormKeeps link base (formPart s)) :
    OutForm link base (execFwInstall req value s) := by
  unfold execFwInstall
  simp [hk]

@[simp] theorem fwActivateAction_part (x0 : ReqId) (x1 : List Byte) (s : State) :
    formPart (fwActivateAction x0 x1 s) = formPart s := by
  unfold fwActivateAction
  simp

@[simp] theorem execFwActivate_form (req : ReqId) (value : Nat) (s : State) (hk : FormKeeps link base (formPart s)) :
    OutForm link base (execFwActivate req value s) := by
  unfold execFwActivate
  simp [hk]

@[simp] theorem fwConfirmAction_part (x0 : ReqId) (x1 : List Byte) (s : State) :
    formPart (fwConfirmAction x0 x1 s) = formPart s := by
  unfold fwConfirmAction
  simp

@[simp] theorem execFwConfirm_form (req : ReqId) (value : Nat) (s : State) (hk : FormKeeps link base (formPart s)) :
    OutForm link base (execFwConfirm req value s) := by
  unfold execFwConfirm
  simp [hk]

@[simp] theorem sendResponse_part (r : ReqId) (bytes : List Byte) (s : State) :
    formPart (sendResponse r bytes s) = formPart s := by
  unfold sendResponse
  (repeat' split) <;> simp

@[simp] theorem respond_part (r : ReqId) (m : DictMsg) (err entryBytes_ item : Nat) (body : List Byte) (s : State) :
    formPart (respond r m err entryBytes_ item body s) = formPart s := by
  unfold respond
  simp

@[simp] theorem takeWbRecord_part (r : ReqId) (s : State) :
    formPart (takeWbRecord r s).2 = formPart s := by
  unfold takeWbRecord
  simp only []
  split <;> simp

@[simp] theorem takeRelay_part (s : State) :
    formPart (takeRelay s).2 = formPart s := by
  unfold takeRelay; split <;> simp

@[simp] theorem takeValue_part (r : ReqId) (index sub : Nat) (s : State) :
    formPart (takeValue r index sub s).2 = formPart s := by
  unfold takeValue; (repeat' split) <;> simp

@[simp] theorem readOn_part (r : ReqId) (m : DictMsg) (s : State) :
    formPart (readOn r m s) = formPart s := by
  unfold readOn
  (repeat' split) <;> simp

@[simp] theorem readMessage_part (r : ReqId) (m : DictMsg) (s : State) :
    formPart (readMessage r m s) = formPart s := by
  unfold readMessage
  simp only []
  (repeat' split) <;> simp

@[simp] theorem gatherItems_part (r : ReqId) (l : List (Nat × Nat)) (s : State) :
    formPart (gatherItems r l s).2 = formPart s := by
  induction l generalizing s with
  | nil => rfl
  | cons i t ih => simp [gatherItems, ih]

@[simp] theorem multiReadMessage_part (r : ReqId) (m : DictMsg) (s : State) :
    formPart (multiReadMessage r m s) = formPart s := by
  unfold multiReadMessage
  simp only []
  (repeat' split) <;> simp

@[simp] theorem storeEntry_part (key size : Nat) (x2 : ReqId) (bytes : List Byte) (s : State) :
    formPart (storeEntry key size x2 bytes s) = formPart s := by
  unfold storeEntry
  simp

@[simp] theorem selectAction_part (key : Nat) (r : ReqId) (bytes : List Byte) (s : State) :
    formPart (selectAction key r bytes s) = formPart s := by
  unfold selectAction
  simp

@[simp] theorem pendingSlotAction_part (slot : Nat) (x1 : ReqId) (bytes : List Byte) (s : State) :
    formPart (pendingSlotAction slot x1 bytes s) = formPart s := by
  unfold pendingSlotAction
  simp

@[simp] theorem mapEnableAction_part (x0 : ReqId) (bytes : List Byte) (s : State) :
    formPart (mapEnableAction x0 bytes s) = formPart s := by
  unfold mapEnableAction
  simp

@[simp] theorem bivGraphAction_part (x0 : ReqId) (bytes : List Byte) (s : State) :
    formPart (bivGraphAction x0 bytes s) = formPart s := by
  unfold bivGraphAction
  simp

@[simp] theorem wbClearAction_part (r : ReqId) (x1 : List Byte) (s : State) :
    formPart (wbClearAction r x1 s) = formPart s := by
  unfold wbClearAction
  simp

@[simp] theorem refuseWrite_part (r : ReqId) (m : DictMsg) (err : Nat) (s : State) :
    formPart (refuseWrite r m err s) = formPart s := by
  unfold refuseWrite
  simp

@[simp] theorem execSegmentLapse_form (req : ReqId) (s : State) (hk : FormKeeps link base (formPart s)) :
    OutForm link base (execSegmentLapse req s) := by
  unfold execSegmentLapse
  simp [hk]

end Sys2Proof.Machine
end

section
/-! SUPPORT. The form of the memories along the meanings, in the order of the model: from `execSnapshotLapse` to `idleTick`. -/

namespace Sys2Proof.Machine

open Sys2Proof

variable {link : Bool} {base : Memories × LinkView}

@[simp] theorem execSnapshotLapse_form (req : ReqId) (s : State) (hk : FormKeeps link base (formPart s)) :
    OutForm link base (execSnapshotLapse req s) := by
  unfold execSnapshotLapse
  simp only []
  (repeat' split) <;> simp [hk]

@[simp] theorem execKeptResponseLapse_form (req : ReqId) (s : State) (hk : FormKeeps link base (formPart s)) :
    OutForm link base (execKeptResponseLapse req s) := by
  unfold execKeptResponseLapse
  simp only []
  (repeat' split) <;> simp [hk]

@[simp] theorem execWbRead_form (req : ReqId) (s : State) (hk : FormKeeps link base (formPart s)) :
    OutForm link base (execWbRead req s) := by
  unfold execWbRead
  simp [hk]

@[simp] theorem execWbClear_form (req : ReqId) (value : Nat) (s : State) (hk : FormKeeps link base (formPart s)) :
    OutForm link base (execWbClear req value s) := by
  unfold execWbClear
  simp [hk]

@[simp] theorem execWbClearCopyDone_form (s : State) (hk : FormKeeps link base (formPart s)) :
    OutForm link base (execWbClearCopyDone s) := by
  unfold execWbClearCopyDone
  (repeat' split) <;> simp [hk]

@[simp] theorem execRelayOut_form (req : ReqId) (length : Nat) (s : State) (hk : FormKeeps link base (formPart s)) :
    OutForm link base (execRelayOut req length s) := by
  unfold execRelayOut
  simp [hk]

@[simp] theorem readWindow_form (read : WindowRead) (va bytes : Nat) (s : State) (hk : FormKeeps link base (formPart s)) :
    FormKeeps link base (formPart (readWindow read va bytes s)) := by
  unfold readWindow
  simp [hk]

@[simp] theorem execBar2Read_form (read : WindowRead) (bytes : Nat) (s : State) (hk : FormKeeps link base (formPart s)) :
    OutForm link base (execBar2Read read bytes s) := by
  unfold execBar2Read
  (repeat' split) <;> simp [hk]

@[simp] theorem dropOwner_part (s : State) :
    formPart (dropOwner s) = formPart s := by
  unfold dropOwner
  simp

@[simp] theorem sendOpenAck_part (via : Option UdpPath) (sid : Nat) (ack : List Byte) (s : State) :
    formPart (sendOpenAck via sid ack s) = formPart s := by
  unfold sendOpenAck
  simp

@[simp] theorem answerOpen_part (via : Option UdpPath) (msg : List Byte) (s : State) :
    formPart (answerOpen via msg s) = formPart s := by
  unfold answerOpen
  simp

@[simp] theorem takeOpen_part (via : Option UdpPath) (r : OwnerRec) (s : State) :
    formPart (takeOpen via r s) = formPart s := by
  unfold takeOpen
  simp only []
  (repeat' split) <;> simp

@[simp] theorem stageBytes_form (sid : Nat) (payload : List Byte) (s : State) (hk : FormKeeps link base (formPart s)) :
    FormKeeps link base (formPart (stageBytes sid payload s)) := by
  unfold stageBytes
  simp [hk]

@[simp] theorem placeSlots_form (sid n : Nat) (slots : List (Nat × Bool × Nat)) (s : State)
    (hk : FormKeeps link base (formPart s)) :
    FormKeeps link base (formPart (placeSlots sid n slots s)) := by
  unfold placeSlots
  extract_lets d s1 security s2 tail s3
  have hk1 : FormKeeps link base (formPart s1) := form_foldl hk (fun s x hk => by simp [hk])
  have hk3 : FormKeeps link base (formPart s3) := by simp [s3, s2, security, hk1]
  clear_value s3
  split <;> simp [hk3]

@[simp] theorem commandSlots_form (sid : Nat) (payload : List Byte) (s : State) (hk : FormKeeps link base (formPart s)) :
    FormKeeps link base (formPart (commandSlots sid payload s)) := by
  unfold commandSlots
  simp [hk]

@[simp] theorem ownerMapRecords_part (sid : Nat) (payload : List Byte) (s : State) :
    formPart (ownerMapRecords sid payload s) = formPart s := by
  unfold ownerMapRecords
  simp

@[simp] theorem takeClose_part (r : OwnerRec) (s : State) :
    formPart (takeClose r s) = formPart s := by
  unfold takeClose
  simp

@[simp] theorem execOwnerHandshakeTimeout_form (via : Option UdpPath) (s : State) (hk : FormKeeps link base (formPart s)) :
    OutForm link base (execOwnerHandshakeTimeout via s) := by
  unfold execOwnerHandshakeTimeout
  (repeat' split) <;> simp [hk]

@[simp] theorem execOwnerGapTimeout_form (session : Nat) (s : State) (hk : FormKeeps link base (formPart s)) :
    OutForm link base (execOwnerGapTimeout session s) := by
  unfold execOwnerGapTimeout
  (repeat' split) <;> simp [hk]

theorem csrWrite_part {core a : Nat} {v : BitVec 64} {s t : State} (h : csrWrite core a v s = some t) :
    formPart t = formPart s := by
  unfold csrWrite at h
  extract_lets cyc upd at h
  have hu : ∀ f, upd f = some t → formPart t = formPart s := by
    intro f e
    injection e with e
    subst e
    simp
  clear_value upd
  rcases of_ite_some h with h | h
  · cases h
  iterate 12
    rcases of_ite_some h with h | h
    · exact hu _ h
  · injection h with h
    rw [h]

@[simp] theorem opCsr_form (core : Nat) (w : Nat) (pc : BitVec 64) (s : State) (hk : FormKeeps link base (formPart s)) :
    ResForm link base (opCsr core w pc s) := by
  unfold opCsr
  simp only []
  split
  · simp [hk]
  · split
    · simp [hk]
    · split
      · simp [hk]
      · rename_i h; simp [hk, csrWrite_part h]

@[simp] theorem opLoad_form (core w : Nat) (pc : BitVec 64) (s : State) (hk : FormKeeps link base (formPart s)) :
    ResForm link base (opLoad core w pc s) := by
  unfold opLoad
  simp [hk]

@[simp] theorem opStore_form (core w : Nat) (pc : BitVec 64) (s : State) (hk : FormKeeps link base (formPart s)) :
    ResForm link base (opStore core w pc s) := by
  unfold opStore
  simp [hk]

@[simp] theorem opAmo_form (core w : Nat) (pc : BitVec 64) (s : State) (hk : FormKeeps link base (formPart s)) :
    ResForm link base (opAmo core w pc s) := by
  unfold opAmo
  simp [hk]

@[simp] theorem opReg_form (core w : Nat) (narrow : Bool) (pc : BitVec 64) (s : State) (hk : FormKeeps link base (formPart s)) :
    ResForm link base (opReg core w narrow pc s) := by
  unfold opReg
  simp [hk]

@[simp] theorem opImm_form (core w : Nat) (narrow : Bool) (pc : BitVec 64) (s : State) (hk : FormKeeps link base (formPart s)) :
    ResForm link base (opImm core w narrow pc s) := by
  unfold opImm
  simp [hk]

@[simp] theorem takeInterrupt_part (core cause : Nat) (s : State) :
    formPart (takeInterrupt core cause s) = formPart s := by
  unfold takeInterrupt
  simp

@[simp] theorem opSystem_form (core w : Nat) (pc : BitVec 64) (s : State) (hk : FormKeeps link base (formPart s)) :
    ResForm link base (opSystem core w pc s) := by
  unfold opSystem
  simp [hk]

@[simp] theorem execWord_form (core len : Nat) (word : BitVec 32) (s : State) (hk : FormKeeps link base (formPart s)) :
    ResForm link base (execWord core len word s) := by
  unfold execWord
  simp only []
  (repeat' split) <;> simp [hk]

@[simp] theorem exec32_form (core len : Nat) (word : BitVec 32) (s : State) (hk : FormKeeps link base (formPart s)) :
    ResForm link base (exec32 core len word s) := by
  unfold exec32
  exact inOrder_form (fun s hk => execWord_form core len word s hk) core word s hk

@[simp] theorem execBaseInstruction_form (core : Nat) (word : BitVec 32) (s : State) (hk : FormKeeps link base (formPart s)) :
    OutForm link base (execBaseInstruction core word s) := by
  unfold execBaseInstruction
  split
  · trivial
  · split
    · exact runInstr_form (fun s hk => exec32_form core 4 word s hk) core 4 s hk
    · refine runInstr_form (fun s hk => ?_) core 2 s hk
      split <;> simp [hk]

@[simp] theorem execTimerInterrupt_form (core : Nat) (s : State) (hk : FormKeeps link base (formPart s)) :
    OutForm link base (execTimerInterrupt core s) := by
  unfold execTimerInterrupt
  simp [hk]

@[simp] theorem execQworkInterrupt_form (core : Nat) (s : State) (hk : FormKeeps link base (formPart s)) :
    OutForm link base (execQworkInterrupt core s) := by
  unfold execQworkInterrupt
  simp [hk]

@[simp] theorem startTask_part (core : Nat) (p : PendingTask) (s : State) :
    formPart (startTask core p s) = formPart s := by
  unfold startTask
  simp

@[simp] theorem fetchDirect_form (core : Nat) (s : State) (hk : FormKeeps link base (formPart s)) :
    FormKeeps link base (formPart (fetchDirect core s)) := by
  unfold fetchDirect
  exact form_foldl (by simp [hk]) (fun s b hk => by split <;> simp [hk])

@[simp] theorem execTaskStart_form (core : Nat) (s : State) (hk : FormKeeps link base (formPart s)) :
    OutForm link base (execTaskStart core s) := by
  unfold execTaskStart
  (repeat' split) <;> simp [hk]

@[simp] theorem execTaskLimitExpiry_form (core : Nat) (s : State) (hk : FormKeeps link base (formPart s)) :
    OutForm link base (execTaskLimitExpiry core s) := by
  unfold execTaskLimitExpiry
  (repeat' split) <;> simp [hk]

@[simp] theorem runTensor_form (core : Nat) (d : Desc) (org : Origin) (s : State) (hk : FormKeeps link base (formPart s)) :
    FormKeeps link base (formPart (runTensor core d org s)) := by
  unfold runTensor
  simp only []
  (repeat' split) <;> simp [hk]

@[simp] theorem takeTensor_part (core : Nat) (d : Desc) (org : Origin) (s : State) :
    formPart (takeTensor core d org s) = formPart s := by
  unfold takeTensor
  simp

@[simp] theorem execVtensor_form (core : Nat) (desc : Desc) (org : Origin) (s : State) (hk : FormKeeps link base (formPart s)) :
    OutForm link base (execVtensor core desc org s) := by
  unfold execVtensor
  simp [hk]

@[simp] theorem barRead_part (bar4 : Bool) (offset bytes : Nat) (s : State) :
    formPart (barRead bar4 offset bytes s).2 = formPart s := by
  unfold barRead; split <;> simp

@[simp] theorem flushHeld_form (held : List HeldRecord) (s : State) (hk : FormKeeps link base (formPart s)) :
    FormKeeps link base (formPart (flushHeld held s)) := by
  unfold flushHeld
  refine form_foldl hk (fun s h hk => ?_)
  split <;> simp [hk]

@[simp] theorem noteReach_form (s : State) (hk : FormKeeps link base (formPart s)) :
    FormKeeps link base (formPart (noteReach s)) := by
  unfold noteReach
  (repeat' split)
  · exact hk
  · refine drainLatched_form _ _ (form_foldl ?_ (fun s h hk => by simp [hk]))
    rw [fetchMap_part]
    exact resumeFetch_form _ (resumeHeld_form _ (flushHeld_form _ _ (by simp [hk])))
  · exact hk
  · simp [hk]

@[simp] theorem execHostUnreachable_form (ev : HostEvent) (s : State) (hk : FormKeeps link base (formPart s)) :
    OutForm link base (execHostUnreachable ev s) := by
  unfold execHostUnreachable
  (repeat' split) <;> simp [hk]

@[simp] theorem sendFarSignal_part (n : Nat) (c : Cmd) (s : State) :
    formPart (sendFarSignal n c s) = formPart s := by
  unfold sendFarSignal
  split <;> simp

@[simp] theorem applyNearSignal_form (n : Nat) (c : Cmd) (s : State) (hk : FormKeeps link base (formPart s)) :
    FormKeeps link base (formPart (applyNearSignal n c s)) := by
  unfold applyNearSignal
  (repeat' split) <;> simp [hk]

@[simp] theorem dropCompletion_form (n : Nat) (c : Cmd) (s : State) (hk : FormKeeps link base (formPart s)) :
    FormKeeps link base (formPart (dropCompletion n c s)) := by
  unfold dropCompletion
  (repeat' split) <;> simp [hk]

@[simp] theorem dropQueue_form (n : Nat) (s : State) (hk : FormKeeps link base (formPart s)) :
    FormKeeps link base (formPart (dropQueue n s)) := by
  unfold dropQueue
  split
  · extract_lets s1 direct tail s2
    have hk2 : FormKeeps link base (formPart s2) := by
      simp only [s2, setEnt_part, updQueue_part]
      exact form_foldl hk (fun s c hk => by simp [hk])
    clear_value s2
    split <;> simp [hk2]
  · exact hk

@[simp] theorem dropHeld_part (s : State) :
    formPart (dropHeld s) = formPart s := by
  unfold dropHeld
  simp

@[simp] theorem dropLegacy_form (c : Cmd) (s : State) (hk : FormKeeps link base (formPart s)) :
    FormKeeps link base (formPart (dropLegacy c s)) := by
  unfold dropLegacy
  simp [hk]

@[simp] theorem resetLegacy_form (s : State) (hk : FormKeeps link base (formPart s)) :
    FormKeeps link base (formPart (resetLegacy s)) := by
  unfold resetLegacy
  simp +contextual [hk]

@[simp] theorem flrEffects_form (s : State) (hk : FormKeeps link base (formPart s)) :
    FormKeeps link base (formPart (flrEffects s)) := by
  unfold flrEffects
  refine noteReach_form _ ?_
  simp only [formPart_mk, formPart_eta, setEnt_part]
  exact form_foldl (by simp [hk]) (fun s n hk => dropQueue_form n s hk)

/-- Where the link may change, its state is not looked at. -/
theorem form_relink {p q q' : Memories × LinkView} (h : FormKeeps false p q) (e : q'.1 = q.1) : FormKeeps false p q' :=
  ⟨fun hp => e ▸ h.1 hp, nofun⟩

@[simp] theorem execFunctionLevelReset_form (start : Bool) (s : State) (hk : FormKeeps false base (formPart s)) :
    OutForm false base (execFunctionLevelReset start s) := by
  unfold execFunctionLevelReset
  rw [outForm_next]
  split
  · rw [count_part]
    exact flrEffects_form _ (form_relink hk rfl)
  · exact noteReach_form _ (form_relink hk rfl)

@[simp] theorem loseLink_form (s : State) (hk : FormKeeps false base (formPart s)) :
    FormKeeps false base (formPart (loseLink s)) := by
  unfold loseLink
  split
  · exact hk
  · refine noteReach_form _ ?_
    rw [count_part, wbSubmit_part]
    exact form_relink hk rfl

@[simp] theorem execLinkDown_form (s : State) (hk : FormKeeps false base (formPart s)) :
    OutForm false base (execLinkDown s) := by
  unfold execLinkDown
  simp [hk]

@[simp] theorem execPerstN_form (ev : LinkReset) (s : State) (hk : FormKeeps false base (formPart s)) :
    OutForm false base (execPerstN ev s) := by
  unfold execPerstN
  (repeat' split) <;> simp [hk]

@[simp] theorem execLinkTraining_form (partner : LinkPartner) (lanes : Nat) (s : State)
    (hk : FormKeeps false base (formPart s)) :
    OutForm false base (execLinkTraining partner lanes s) := by
  unfold execLinkTraining
  split
  · exact hk
  · extract_lets best gen width was s1 hostif s2
    have hk1 : FormKeeps false base (formPart s1) := by
      simp only [s1]
      split
      · exact flrEffects_form s hk
      · exact hk
    have hk2 : FormKeeps false base (formPart s2) := noteReach_form _ (form_relink hk1 rfl)
    clear_value s2
    rw [outForm_next]
    split <;> simp [hk2]

@[simp] theorem blowFuse_form (s : State) (hk : FormKeeps false base (formPart s)) :
    FormKeeps false base (formPart (blowFuse s)) := by
  unfold blowFuse
  split
  · split
    · exact hk
    · rw [commitOn_part]
      exact hk
  · rw [commitOn_part]
    exact hk
  · exact hk

@[simp] theorem rollbackCommitAction_form (x0 : ReqId) (x1 : List Byte) (s : State) (hk : FormKeeps false base (formPart s)) :
    FormKeeps false base (formPart (rollbackCommitAction x0 x1 s)) := by
  unfold rollbackCommitAction
  simp [hk]

@[simp] theorem execRollbackCommit_form (req : ReqId) (value : Nat) (s : State) (hk : FormKeeps false base (formPart s)) :
    OutForm false base (execRollbackCommit req value s) := by
  unfold execRollbackCommit
  simp only [outForm_next]
  exact cmdVia_form (fun r b s hk => by simp [hk]) _ _ _ _ _ (hk)

@[simp] theorem loseDomains_form (s : State) (hk : FormKeeps false base (formPart s)) :
    FormKeeps false base (formPart (loseDomains s)) := by
  unfold loseDomains
  exact form_relink (form_dram_nil (form_sram_nil (form_staging_nil hk))) rfl

@[simp] theorem trip_form (cause : Nat) (s : State) (hk : FormKeeps false base (formPart s)) :
    FormKeeps false base (formPart (trip cause s)) := by
  unfold trip
  (repeat' split) <;> simp [hk]

@[simp] theorem execThermalTrip_form (s : State) (hk : FormKeeps false base (formPart s)) :
    OutForm false base (execThermalTrip s) := by
  unfold execThermalTrip
  (repeat' split) <;> simp [hk]

@[simp] theorem powerOffAction_form (x0 : ReqId) (x1 : List Byte) (s : State) (hk : FormKeeps false base (formPart s)) :
    FormKeeps false base (formPart (powerOffAction x0 x1 s)) := by
  unfold powerOffAction
  simp [hk]

@[simp] theorem execPowerOff_form (req : ReqId) (value : Nat) (s : State) (hk : FormKeeps false base (formPart s)) :
    OutForm false base (execPowerOff req value s) := by
  unfold execPowerOff
  simp only [outForm_next]
  exact cmdVia_form (fun r b s hk => by simp [hk]) _ _ _ _ _ (hk)

@[simp] theorem execThermTripInN_form (ns : Nat) (s : State) (hk : FormKeeps false base (formPart s)) :
    OutForm false base (execThermTripInN ns s) := by
  unfold execThermTripInN
  (repeat' split) <;> simp [hk]

@[simp] theorem enterNone_form (s : State) (hk : FormKeeps false base (formPart s)) :
    FormKeeps false base (formPart (enterNone s)) := by
  unfold enterNone
  rw [switchNetOn_part]
  exact form_relink (q := formPart (setJobState jobNone s)) (by rwa [setJobState_part]) rfl

@[simp] theorem finishJob_form (s : State) (hk : FormKeeps false base (formPart s)) :
    FormKeeps false base (formPart (finishJob s)) := by
  unfold finishJob
  simp only []
  (repeat' split) <;> simp [hk]

@[simp] theorem finishUndeploy_form (s : State) (hk : FormKeeps false base (formPart s)) :
    FormKeeps false base (formPart (finishUndeploy s)) := by
  unfold finishUndeploy
  simp [hk]

@[simp] theorem settleUndeploy_form (s : State) (hk : FormKeeps false base (formPart s)) :
    FormKeeps false base (formPart (settleUndeploy s)) := by
  unfold settleUndeploy
  (repeat' split) <;> simp [hk]

@[simp] theorem beginUndeploy_form (s : State) (hk : FormKeeps false base (formPart s)) :
    FormKeeps false base (formPart (beginUndeploy s)) := by
  unfold beginUndeploy
  extract_lets job s1 s2 s3
  have hk2 : FormKeeps false base (formPart s2) := by simp [s2, s1, job, hk]
  have hk3 : FormKeeps false base (formPart s3) := form_foldl hk2 (fun s n hk => by split <;> simp [hk])
  clear_value s3
  simp [hk3]

@[simp] theorem jobUndeployAction_form (x0 : ReqId) (x1 : List Byte) (s : State) (hk : FormKeeps false base (formPart s)) :
    FormKeeps false base (formPart (jobUndeployAction x0 x1 s)) := by
  unfold jobUndeployAction
  (repeat' split) <;> simp [hk]

@[simp] theorem execJobUndeploy_form (req : ReqId) (value : Nat) (s : State) (hk : FormKeeps false base (formPart s)) :
    OutForm false base (execJobUndeploy req value s) := by
  unfold execJobUndeploy
  simp only [outForm_next]
  exact cmdVia_form (fun r b s hk => by simp [hk]) _ _ _ _ _ (hk)

@[simp] theorem execUndeployDrainTimeout_form (s : State) (hk : FormKeeps false base (formPart s)) :
    OutForm false base (execUndeployDrainTimeout s) := by
  unfold execUndeployDrainTimeout
  rw [outForm_next]
  split
  · refine finishUndeploy_form _ ?_
    rw [cutRequests_part]
    exact cutCommands_form _ (cutRecords_form _ hk)
  · exact hk

@[simp] theorem execQueueDrainDone_form (queue : Nat) (s : State) (hk : FormKeeps false base (formPart s)) :
    OutForm false base (execQueueDrainDone queue s) := by
  unfold execQueueDrainDone
  (repeat' split) <;> simp [hk]

@[simp] theorem sealJob_form (req : ReqId) (s : State) (hk : FormKeeps false base (formPart s)) :
    FormKeeps false base (formPart (sealJob req s)) := by
  unfold sealJob
  (repeat' split) <;> exact hk

theorem allocStructures_part {s t : State} (h : allocStructures s = some t) :
    formPart t = formPart s := by
  unfold allocStructures at h
  generalize jobStructures s = l at h
  have key : ∀ (l : List (Nat × Nat)) (o : Option State), (∀ u, o = some u → formPart u = formPart s) → ∀ t,
      l.foldl (fun (o : Option State) x => o.bind (fun s =>
        if x.2 = 0 then some s else (allocModule x.2 false none x.1 s).map (·.2))) o = some t → formPart t = formPart s := by
    intro l
    induction l with
    | nil => intro o ho t ht; exact ho t ht
    | cons x xs ih =>
      intro o ho t ht
      refine ih _ (fun u hu => ?_) t ht
      cases o with
      | none => cases hu
      | some v =>
        simp only [Option.bind_some] at hu
        split at hu
        · injection hu with hu; subst hu; exact ho _ rfl
        · obtain ⟨w, hw, rfl⟩ := Option.map_eq_some_iff.mp hu
          rw [allocModule_part (f := w.1) (t := w.2) hw]
          exact ho _ rfl
  exact key l (some s) (fun u hu => by injection hu with hu; rw [hu]) t h

@[simp] theorem jobDeployAction_form (req : ReqId) (bytes : List Byte) (s : State) (hk : FormKeeps false base (formPart s)) :
    FormKeeps false base (formPart (jobDeployAction req bytes s)) := by
  unfold jobDeployAction
  extract_lets sealing
  split
  · simp [hk]
  · split
    · simp [hk]
    · rename_i x hx
      have hs : FormKeeps false base (formPart x) := by
        rw [allocStructures_part hx]
        exact freshJob_form s hk
      extract_lets y
      have hy : FormKeeps false base (formPart y) := by
        simp only [y, switchColdOn_part, setJobState_part]
        split <;> simp [hs]
      clear_value y
      simp [hy]

@[simp] theorem execJobDeploy_form (req : ReqId) (value : BitVec 128) (s : State) (hk : FormKeeps false base (formPart s)) :
    OutForm false base (execJobDeploy req value s) := by
  unfold execJobDeploy
  simp only [outForm_next]
  exact cmdVia_form (fun r b s hk => by simp [hk]) _ _ _ _ _ (hk)

@[simp] theorem settleColdWaits_form (s : State) (hk : FormKeeps false base (formPart s)) :
    FormKeeps false base (formPart (settleColdWaits s)) := by
  unfold settleColdWaits
  split
  · exact hk
  · exact form_foldl (by simp [hk]) (fun s w hk => by split <;> simp [hk])

@[simp] theorem execPowerManagerTick_form (s : State) (hk : FormKeeps false base (formPart s)) :
    OutForm false base (execPowerManagerTick s) := by
  unfold execPowerManagerTick
  simp [hk]

@[simp] theorem restartSteps_form (s : State) (hk : FormKeeps false base (formPart s)) :
    FormKeeps false base (formPart (restartSteps s)) := by
  unfold restartSteps
  extract_lets s1 recovery s2
  have hk1 : FormKeeps false base (formPart s1) := by
    simp only [s1]
    refine cutCommands_form _ ?_
    rw [cutRequests_part]
    refine cutRecords_form _ ?_
    rw [cutUpdates_part]
    exact squashAll_form _ hk
  clear_value s1
  have hk2 : FormKeeps false base (formPart s2) := by
    refine settleRows_form _ (finishRemaps_form _ ?_)
    rw [cutActions_part, cutFabric_part]
    exact cutWork_form _ hk1
  exact reloadAll_form _ (checkTags_form _ hk2)

@[simp] theorem endRestart_form (f : FaultInfo) (s : State) (hk : FormKeeps false base (formPart s)) :
    FormKeeps false base (formPart (endRestart f s)) := by
  unfold endRestart
  simp only []
  (repeat' split) <;> simp [hk]

@[simp] theorem endJobNow_form (s : State) (hk : FormKeeps false base (formPart s)) :
    FormKeeps false base (formPart (endJobNow s)) := by
  unfold endJobNow
  refine finishUndeploy_form _ ?_
  rw [svcEnableAction_part, cutRequests_part]
  exact cutCommands_form _ (cutRecords_form _ hk)

theorem restartFor_form {again : FaultInfo → State → State}
    (ha : ∀ f s, FormKeeps false base (formPart s) → FormKeeps false base (formPart (again f s))) (f : FaultInfo) (s : State)
    (hk : FormKeeps false base (formPart s)) :
    FormKeeps false base (formPart (restartFor again f s)) := by
  unfold restartFor
  split
  · exact endJobNow_form _ (by simpa using hk)
  · split
    · exact endRestart_form _ _ (restartSteps_form _ hk)
    · exact ha _ _ (restartSteps_form _ hk)

@[simp] theorem restartJob_form (n : Nat) (f : FaultInfo) (s : State) (hk : FormKeeps false base (formPart s)) :
    FormKeeps false base (formPart (restartJob n f s)) := by
  induction n generalizing f s with
  | zero => simpa only [restartJob] using hk
  | succ n ih => simpa only [restartJob] using restartFor_form ih f s hk

@[simp] theorem execJobFault_form (s : State) (hk : FormKeeps false base (formPart s)) :
    OutForm false base (execJobFault s) := by
  unfold execJobFault
  (repeat' split) <;> simp [hk]

@[simp] theorem execZeroisation_form (s : State) (hk : FormKeeps false base (formPart s)) :
    OutForm false base (execZeroisation s) := by
  unfold execZeroisation
  rw [outForm_next]
  split
  · exact hk
  · refine enterNone_form _ ?_
    rw [clearJobSlots_part]
    have hk : FormKeeps false base (formPart (switchColdOn s)) := by rwa [switchColdOn_part]
    simp only [formPart_mk, formPart_eta, count_part, wbSubmit_part, raiseEvent_part]
    exact form_relink (form_dram_nil (form_sram_nil (form_staging_nil hk))) rfl

@[simp] theorem wipeJob_form (s : State) (hk : FormKeeps false base (formPart s)) :
    FormKeeps false base (formPart (wipeJob s)) := by
  unfold wipeJob
  (repeat' split) <;> simp [hk]

@[simp] theorem keyWipeAction_form (req : ReqId) (x1 : List Byte) (s : State) (hk : FormKeeps false base (formPart s)) :
    FormKeeps false base (formPart (keyWipeAction req x1 s)) := by
  unfold keyWipeAction
  rw [endCmd_part]
  refine wipeJob_form _ ?_
  rw [svcEnableAction_part]
  have hk : FormKeeps false base (formPart (count Cnt.keyWipes 1 (wbSubmit 0xC002 noInst [classNum (classOf req)] s))) := by
    rwa [count_part, wbSubmit_part]
  exact form_dram_nil hk

@[simp] theorem execKeyWipe_form (req : ReqId) (value : Nat) (s : State) (hk : FormKeeps false base (formPart s)) :
    OutForm false base (execKeyWipe req value s) := by
  unfold execKeyWipe
  simp only [outForm_next]
  exact cmdVia_form (fun r b s hk => by simp [hk]) _ _ _ _ _ (hk)

@[simp] theorem loseAon_form (s : State) (hk : FormKeeps false base (formPart s)) :
    FormKeeps false base (formPart (loseAon s)) := by
  unfold loseAon
  have hk := loseDomains_form s hk
  exact form_firmware_nil hk

@[simp] theorem coldReset_form (cause : Nat) (s : State) (hk : FormKeeps false base (formPart s)) :
    FormKeeps false base (formPart (coldReset cause s)) := by
  unfold coldReset
  (repeat' split) <;> simp [hk]

@[simp] theorem coldResetAction_form (x0 : ReqId) (x1 : List Byte) (s : State) (hk : FormKeeps false base (formPart s)) :
    FormKeeps false base (formPart (coldResetAction x0 x1 s)) := by
  unfold coldResetAction
  simp [hk]

@[simp] theorem execColdReset_form (req : ReqId) (value : Nat) (s : State) (hk : FormKeeps false base (formPart s)) :
    OutForm false base (execColdReset req value s) := by
  unfold execColdReset
  simp only [outForm_next]
  exact cmdVia_form (fun r b s hk => by simp [hk]) _ _ _ _ _ (hk)

@[simp] theorem execModResetN_form (ns : Nat) (s : State) (hk : FormKeeps false base (formPart s)) :
    OutForm false base (execModResetN ns s) := by
  unfold execModResetN
  (repeat' split) <;> simp [hk]

@[simp] theorem execWatchdogExpiry_form (s : State) (hk : FormKeeps false base (formPart s)) :
    OutForm false base (execWatchdogExpiry s) := by
  unfold execWatchdogExpiry
  (repeat' split) <;> simp [hk]

@[simp] theorem execInputPowerLoss_form (s : State) (hk : FormKeeps false base (formPart s)) :
    OutForm false base (execInputPowerLoss s) := by
  unfold execInputPowerLoss
  rw [outForm_next]
  split
  · exact hk
  · exact form_relink (loseAon_form s hk) rfl

@[simp] theorem powerReturn_form (s : State) (hk : FormKeeps false base (formPart s)) :
    FormKeeps false base (formPart (powerReturn s)) := by
  unfold powerReturn
  exact form_relink hk rfl

@[simp] theorem execFirmwareFallback_form (s : State) (hk : FormKeeps false base (formPart s)) :
    OutForm false base (execFirmwareFallback s) := by
  unfold execFirmwareFallback
  (repeat' split) <;> simp [hk]

@[simp] theorem boot1_form (s : State) (hk : FormKeeps false base (formPart s)) :
    FormKeeps false base (formPart (boot1 s)) := by
  unfold boot1
  simp only []
  (repeat' split) <;> simp [hk]

@[simp] theorem boot11_form (s : State) (hk : FormKeeps false base (formPart s)) :
    FormKeeps false base (formPart (boot11 s)) := by
  unfold boot11
  extract_lets s1 s2 depth s3
  have hk3 : FormKeeps false base (formPart s3) := form_foldl (by simp [s2, s1, hk]) (fun s g hk => by simp [hk])
  clear_value s3
  split
  · exact enterZeroising_form _ (form_relink hk3 rfl)
  · exact hk3

@[simp] theorem bootEffect_form (step : Nat) (s : State) (hk : FormKeeps false base (formPart s)) :
    FormKeeps false base (formPart (bootEffect step s)) := by
  unfold bootEffect
  (repeat' split) <;> simp [hk]

@[simp] theorem bootStep_form (step : Nat) (s : State) (hk : FormKeeps false base (formPart s)) :
    FormKeeps false base (formPart (bootStep step s)) := by
  unfold bootStep
  simp [hk]

@[simp] theorem execStartUp_form (s : State) (hk : FormKeeps false base (formPart s)) :
    OutForm false base (execStartUp s) := by
  unfold execStartUp
  (repeat' split) <;> simp [hk]

/-- A handler of relayed owner records that keeps the memories' form. -/
def FormRelay (base : Memories × LinkView) (relay : RelayHandler) : Prop :=
  ∀ b s, FormKeeps false base (formPart s) → FormKeeps false base (formPart (relay b s))

theorem formRelay_none : FormRelay base (fun _ s => s) := fun _ _ h => h

theorem relayInAction_form {relay : RelayHandler} (hr : FormRelay base relay) (x0 : ReqId) (bytes : List Byte) (s : State)
    (hk : FormKeeps false base (formPart s)) :
    FormKeeps false base (formPart (relayInAction relay x0 bytes s)) := by
  unfold relayInAction
  simp [hr _ _ hk]

theorem actionTable_form {relay : RelayHandler} (hr : FormRelay base relay) (p : Nat × (ReqId → List Byte → State → State))
    (hp : p ∈ actionTable relay) (r : ReqId) (b : List Byte) (s : State) (hk : FormKeeps false base (formPart s)) :
    FormKeeps false base (formPart (p.2 r b s)) := by
  simp only [actionTable, List.mem_append, List.mem_cons, List.not_mem_nil, or_false] at hp
  rcases hp with hp | hp
  all_goals
    repeat' first
      | (subst hp; simp [hk]; done)
      | (subst hp; simp [hk, relayInAction_form hr]; done)
      | (rcases hp with hp | hp)

theorem entryAction_form {relay : RelayHandler} (hr : FormRelay base relay) (index sub : Nat) (r : ReqId) (b : List Byte)
    (s : State) (hk : FormKeeps false base (formPart s)) :
    FormKeeps false base (formPart (entryAction relay index sub r b s)) := by
  unfold entryAction
  split
  · simp [selectAction, hk]
  · split
    · simp [hk]
    · split
      · simp [hk]
      · split
        · simp [hk]
        · split
          · simp [pendingSlotAction, hk]
          · cases hf : (actionTable relay).find? (fun p => p.1 == entryKey index sub) with
            | some p => exact actionTable_form hr _ (List.mem_of_find?_eq_some hf) r b s hk
            | none => simp [storeEntry, hk]

@[simp] theorem performWrite_form (relay : RelayHandler) (r : ReqId) (index sub : Nat) (bytes : List Byte) (s : State)
    (hr : FormRelay base relay) (hk : FormKeeps false base (formPart s)) :
    FormKeeps false base (formPart (performWrite relay r index sub bytes s)) := by
  unfold performWrite
  split
  · exact hk
  · refine entryAction_form hr _ _ _ _ _ ?_
    split <;> simp [hk]

@[simp] theorem acceptWrite_form (relay : RelayHandler) (r : ReqId) (m : DictMsg) (bytes : List Byte) (s : State) (hr : FormRelay base relay) (hk : FormKeeps false base (formPart s)) :
    FormKeeps false base (formPart (acceptWrite relay r m bytes s)) := by
  unfold acceptWrite
  simp [hk, hr]

@[simp] theorem takeSegmentOf_form (relay : RelayHandler) (r : ReqId) (m : DictMsg) (before : List Byte) (s : State) (hr : FormRelay base relay) (hk : FormKeeps false base (formPart s)) :
    FormKeeps false base (formPart (takeSegmentOf relay r m before s)) := by
  unfold takeSegmentOf
  simp only []
  (repeat' split) <;> simp [hk, hr]

@[simp] theorem segmentMessage_form (relay : RelayHandler) (r : ReqId) (m : DictMsg) (s : State) (hr : FormRelay base relay) (hk : FormKeeps false base (formPart s)) :
    FormKeeps false base (formPart (segmentMessage relay r m s)) := by
  unfold segmentMessage
  (repeat' split) <;> simp [hk, hr]

@[simp] theorem writeMessage_form (relay : RelayHandler) (r : ReqId) (m : DictMsg) (s : State) (hr : FormRelay base relay) (hk : FormKeeps false base (formPart s)) :
    FormKeeps false base (formPart (writeMessage relay r m s)) := by
  unfold writeMessage
  simp only []
  (repeat' split) <;> simp [hk, hr]

@[simp] theorem applyItems_form (relay : RelayHandler) (r : ReqId) (items : List DictItem) (s : State)
    (hr : FormRelay base relay) (hk : FormKeeps false base (formPart s)) :
    FormKeeps false base (formPart (applyItems relay r items s)) := by
  unfold applyItems
  exact form_foldl hk (fun s i hk => performWrite_form _ _ _ _ _ _ hr hk)

@[simp] theorem multiWriteMessage_form (relay : RelayHandler) (r : ReqId) (m : DictMsg) (s : State)
    (hr : FormRelay base relay) (hk : FormKeeps false base (formPart s)) :
    FormKeeps false base (formPart (multiWriteMessage relay r m s)) := by
  unfold multiWriteMessage
  simp only []
  split
  · simp [hk]
  · split
    · simp [hk]
    · exact applyItems_form _ _ _ _ hr (by simp [hk])

@[simp] theorem performMessage_form (relay : RelayHandler) (r : ReqId) (m : DictMsg) (s : State) (hr : FormRelay base relay) (hk : FormKeeps false base (formPart s)) :
    FormKeeps false base (formPart (performMessage relay r m s)) := by
  unfold performMessage
  (repeat' split) <;> simp [hk, hr]

@[simp] theorem serveMessage_form (relay : RelayHandler) (r : ReqId) (message : List Byte) (s : State) (hr : FormRelay base relay) (hk : FormKeeps false base (formPart s)) :
    FormKeeps false base (formPart (serveMessage relay r message s)) := by
  unfold serveMessage
  simp only []
  (repeat' split) <;> simp [hk, hr]

@[simp] theorem serveRow_form (op : Nat) (relay : RelayHandler) (req : ReqId) (message : DictFrame) (s : State) (hr : FormRelay base relay) (hk : FormKeeps false base (formPart s)) :
    FormKeeps false base (formPart (serveRow op relay req message s)) := by
  unfold serveRow
  (repeat' split) <;> simp [hk, hr]

@[simp] theorem applyKind_form (sid kind : Nat) (payload : List Byte) (s : State) (hk : FormKeeps false base (formPart s)) :
    FormKeeps false base (formPart (applyKind sid kind payload s)) := by
  unfold applyKind
  split
  · exact serveMessage_form _ _ _ _ formRelay_none hk
  · (repeat' split) <;> simp [hk]

@[simp] theorem applyRecord_form (sid kind : Nat) (payload : List Byte) (s : State) (hk : FormKeeps false base (formPart s)) :
    FormKeeps false base (formPart (applyRecord sid kind payload s)) := by
  unfold applyRecord
  simp [hk]

@[simp] theorem applyHeld_form (fuel sid : Nat) (s : State) (hk : FormKeeps false base (formPart s)) :
    FormKeeps false base (formPart (applyHeld fuel sid s)) := by
  induction fuel generalizing s with
  | zero => exact hk
  | succ k ih =>
    unfold applyHeld
    (repeat' split) <;> first | exact hk | (refine ih _ ?_; simp [hk])

@[simp] theorem orderRecord_form (via : Option UdpPath) (o : OwnerSession) (r : OwnerRec) (payload : List Byte) (s : State) (hk : FormKeeps false base (formPart s)) :
    FormKeeps false base (formPart (orderRecord via o r payload s)) := by
  unfold orderRecord
  (repeat' split) <;> simp [hk]

@[simp] theorem takeData_form (via : Option UdpPath) (r : OwnerRec) (s : State) (hk : FormKeeps false base (formPart s)) :
    FormKeeps false base (formPart (takeData via r s)) := by
  unfold takeData
  (repeat' split) <;> simp [hk]

@[simp] theorem takeRecordOf_form (via : Option UdpPath) (r : OwnerRec) (s : State) (hk : FormKeeps false base (formPart s)) :
    FormKeeps false base (formPart (takeRecordOf via r s)) := by
  unfold takeRecordOf
  (repeat' split) <;> simp [hk]

@[simp] theorem ownerArrives_form (via : Option UdpPath) (record : List Byte) (s : State) (hk : FormKeeps false base (formPart s)) :
    FormKeeps false base (formPart (ownerArrives via record s)) := by
  unfold ownerArrives
  (repeat' split) <;> simp [hk]

@[simp] theorem ownerRow_form (typ : Nat) (kind : Option Nat) (via : Option UdpPath) (record : List Byte) (s : State) (hk : FormKeeps false base (formPart s)) :
    FormKeeps false base (formPart (ownerRow typ kind via record s)) := by
  unfold ownerRow
  (repeat' split) <;> simp [hk]

@[simp] theorem execOwnerOpen_form (via : Option UdpPath) (record : List Byte) (s : State)
    (hk : FormKeeps false base (formPart s)) :
    OutForm false base (execOwnerOpen via record s) := by
  unfold execOwnerOpen
  (repeat' split) <;> simp [hk]

@[simp] theorem execOwnerDict_form (via : Option UdpPath) (record : List Byte) (s : State)
    (hk : FormKeeps false base (formPart s)) :
    OutForm false base (execOwnerDict via record s) := by
  unfold execOwnerDict
  (repeat' split) <;> simp [hk]

@[simp] theorem execOwnerStage_form (via : Option UdpPath) (record : List Byte) (s : State)
    (hk : FormKeeps false base (formPart s)) :
    OutForm false base (execOwnerStage via record s) := by
  unfold execOwnerStage
  (repeat' split) <;> simp [hk]

@[simp] theorem execOwnerCommand_form (via : Option UdpPath) (record : List Byte) (s : State)
    (hk : FormKeeps false base (formPart s)) :
    OutForm false base (execOwnerCommand via record s) := by
  unfold execOwnerCommand
  (repeat' split) <;> simp [hk]

@[simp] theorem execOwnerMap_form (via : Option UdpPath) (record : List Byte) (s : State)
    (hk : FormKeeps false base (formPart s)) :
    OutForm false base (execOwnerMap via record s) := by
  unfold execOwnerMap
  (repeat' split) <;> simp [hk]

@[simp] theorem execOwnerClose_form (via : Option UdpPath) (record : List Byte) (s : State)
    (hk : FormKeeps false base (formPart s)) :
    OutForm false base (execOwnerClose via record s) := by
  unfold execOwnerClose
  (repeat' split) <;> simp [hk]

theorem relayRecord_form : FormRelay base relayRecord := fun b s hk => ownerArrives_form none b s hk

@[simp] theorem execRelayIn_form (req : ReqId) (value : List Byte) (s : State) (hk : FormKeeps false base (formPart s)) :
    OutForm false base (execRelayIn req value s) := by
  unfold execRelayIn
  simp only [outForm_next]
  exact cmdVia_form (fun r b s h => relayInAction_form relayRecord_form r b s h) _ _ _ _ _ (hk)

@[simp] theorem execDictRead_form (req : ReqId) (message : DictFrame) (s : State) (hk : FormKeeps false base (formPart s)) :
    OutForm false base (execDictRead req message s) :=
  serveRow_form 1 _ _ _ _ relayRecord_form (hk)

@[simp] theorem execDictWrite_form (req : ReqId) (message : DictFrame) (s : State) (hk : FormKeeps false base (formPart s)) :
    OutForm false base (execDictWrite req message s) :=
  serveRow_form 2 _ _ _ _ relayRecord_form (hk)

@[simp] theorem execMultiWrite_form (req : ReqId) (message : DictFrame) (s : State) (hk : FormKeeps false base (formPart s)) :
    OutForm false base (execMultiWrite req message s) :=
  serveRow_form 3 _ _ _ _ relayRecord_form (hk)

@[simp] theorem execMultiRead_form (req : ReqId) (message : DictFrame) (s : State) (hk : FormKeeps false base (formPart s)) :
    OutForm false base (execMultiRead req message s) :=
  serveRow_form 4 _ _ _ _ relayRecord_form (hk)

@[simp] theorem execDwGo_form (request : List Byte) (w : HostWrite) (s : State) (hk : FormKeeps false base (formPart s)) :
    OutForm false base (execDwGo request w s) := by
  unfold execDwGo
  (repeat' split) <;> simp [hk, relayRecord_form]

@[simp] theorem idleTick_form (s : State) (hk : FormKeeps false base (formPart s)) :
    FormKeeps false base (formPart (idleTick s)) := by
  unfold idleTick
  extract_lets moved s1 s2
  have hk1 : FormKeeps false base (formPart s1) := by
    refine noteReady_form _ (noteIdle_form _ ?_)
    rwa [noteDebts_part, settleOutgoing_part]
  have hk2 : FormKeeps false base (formPart s2) := by
    simp only [s2, joinLate_part]
    refine blowFuse_form _ ?_
    rw [noteScrubs_part, settleHoldoff_part]
    exact settleUndeploy_form _ hk1
  clear_value s2
  split <;> simp [hk2]

end Sys2Proof.Machine
end

section
/-! SUPPORT and O6. What one command can do to the form of the memories, whichever command it is, and what a step can. -/

namespace Sys2Proof.Machine

open Sys2Proof

variable {base : Memories × LinkView}

/-- A command that answers a next state keeps each memory in its canonical form. -/
theorem exec_form (i : Instr) (s : State) (hk : FormKeeps false base (formPart s)) : OutForm false base (exec i s) := by
  cases i with
  | lorjoSegmentRx port src dst datagram => exact execLorjoSegmentRx_form port src dst datagram s hk
  | reassemblyTimeout src requestId => exact execReassemblyTimeout_form src requestId s hk
  | keepalive port src dst datagram => exact execKeepalive_form port src dst datagram s hk
  | probe port src dst datagram => exact execProbe_form port src dst datagram s hk
  | exitTimer request => exact execExitTimer_form request s hk
  | responseTransmit port => exact execResponseTransmit_form port s hk
  | bindingEnable req binding value => exact execBindingEnable_form req binding value s hk
  | svcEnable req value => exact execSvcEnable_form req value s hk
  | keyLoad req value => exact execKeyLoad_form req value s hk
  | lookup core desc org => exact execLookup_form core desc org s hk
  | laneServe lookup lane => exact execLaneServe_form lookup lane s hk
  | stackReduce lookup stack => exact execStackReduce_form lookup stack s hk
  | bagCombine lookup bag => exact execBagCombine_form lookup bag s hk
  | remoteTimeout lookup owner => exact execRemoteTimeout_form lookup owner s hk
  | tableDefine req desc => exact execTableDefine_form req desc s hk
  | tableDelete req tableId => exact execTableDelete_form req tableId s hk
  | tableDeleteComplete tableId => exact execTableDeleteComplete_form tableId s hk
  | rowWrite core desc org => exact execRowWrite_form core desc org s hk
  | immediateWriteChunk write lane => exact execImmediateWriteChunk_form write lane s hk
  | rowStage write lane => exact execRowStage_form write lane s hk
  | deferredRowRetry write lane => exact execDeferredRowRetry_form write lane s hk
  | deferLimitExpiry write => exact execDeferLimitExpiry_form write s hk
  | batchOpen core desc org => exact execBatchOpen_form core desc org s hk
  | batchCommit core desc org => exact execBatchCommit_form core desc org s hk
  | batchCommitProper write => exact execBatchCommitProper_form write s hk
  | commitWaitTimeout write => exact execCommitWaitTimeout_form write s hk
  | batchAbort core desc org => exact execBatchAbort_form core desc org s hk
  | backgroundCopy lane => exact execBackgroundCopy_form lane s hk
  | preimageFree epoch => exact execPreimageFree_form epoch s hk
  | remoteCommitTimeout write owner => exact execRemoteCommitTimeout_form write owner s hk
  | matmul core desc org => exact execMatmul_form core desc org s hk
  | tileStream core => exact execTileStream_form core s hk
  | chainDrain core accBase => exact execChainDrain_form core accBase s hk
  | chainReplay core accBase => exact execChainReplay_form core accBase s hk
  | tilePreempt core => exact execTilePreempt_form core s hk
  | vsetl core word => exact execVsetl_form core word s hk
  | vld core word => exact execVld_form core word s hk
  | vst core word => exact execVst_form core word s hk
  | vopVv core word => exact execVopVv_form core word s hk
  | vopVx core word => exact execVopVx_form core word s hk
  | vcvt core word => exact execVcvt_form core word s hk
  | vun core word => exact execVun_form core word s hk
  | vred core word => exact execVred_form core word s hk
  | vtopkSet core word => exact execVtopkSet_form core word s hk
  | vtopkInsert core word => exact execVtopkInsert_form core word s hk
  | vtopkStore core word => exact execVtopkStore_form core word s hk
  | vtopkFloor core word => exact execVtopkFloor_form core word s hk
  | eissue core word => exact execEissue_form core word s hk
  | efence core word => exact execEfence_form core word s hk
  | smrd core word => exact execSmrd_form core word s hk
  | hwait core word => exact execHwait_form core word s hk
  | hsig core word => exact execHsig_form core word s hk
  | sfop core word => exact execSfop_form core word s hk
  | resolve core word => exact execResolve_form core word s hk
  | taskend core word => exact execTaskend_form core word s hk
  | baseInstruction core word => exact execBaseInstruction_form core word s hk
  | timerInterrupt core => exact execTimerInterrupt_form core s hk
  | qworkInterrupt core => exact execQworkInterrupt_form core s hk
  | taskStart core => exact execTaskStart_form core s hk
  | taskLimitExpiry core => exact execTaskLimitExpiry_form core s hk
  | vtensor core desc org => exact execVtensor_form core desc org s hk
  | seqSummary core desc org => exact execSeqSummary_form core desc org s hk
  | segmentPass summary segment => exact execSegmentPass_form summary segment s hk
  | summaryMerge summary => exact execSummaryMerge_form summary s hk
  | appendStage launch stage => exact execAppendStage_form launch stage s hk
  | appendChunkWait launch => exact execAppendChunkWait_form launch s hk
  | sessionStep => exact execSessionStep_form s hk
  | sessionClose req session => exact execSessionClose_form req session s hk
  | transfer core desc org => exact execTransfer_form core desc org s hk
  | caravan core desc org => exact execCaravan_form core desc org s hk
  | tileRequest transfer => exact execTileRequest_form transfer s hk
  | tileDelivery transfer tile => exact execTileDelivery_form transfer tile s hk
  | weightRingStart core => exact execWeightRingStart_form core s hk
  | caravanTileSend transfer => exact execCaravanTileSend_form transfer s hk
  | catchupFetch transfer core => exact execCatchupFetch_form transfer core s hk
  | transferFaultResume transfer => exact execTransferFaultResume_form transfer s hk
  | stageBarrier launch stage => exact execStageBarrier_form launch stage s hk
  | stagePrologue launch stage => exact execStagePrologue_form launch stage s hk
  | residentSegmentLoad context => exact execResidentSegmentLoad_form context s hk
  | tailDoorbell queue w => exact execTailDoorbell_form queue w s hk
  | phaseRetry queue => exact execPhaseRetry_form queue s hk
  | cqHeadDoorbell queue w => exact execCqHeadDoorbell_form queue w s hk
  | nop queue => exact execNop_form queue s hk
  | launch queue => exact execLaunch_form queue s hk
  | descriptor queue => exact execDescriptor_form queue s hk
  | inlineWrite queue => exact execInlineWrite_form queue s hk
  | graphLoad queue => exact execGraphLoad_form queue s hk
  | graphPatch queue => exact execGraphPatch_form queue s hk
  | graphUnload queue => exact execGraphUnload_form queue s hk
  | task queue => exact execTask_form queue s hk
  | commandWaitMet queue => exact execCommandWaitMet_form queue s hk
  | hostPoll => exact execHostPoll_form s hk
  | hitchTimeout queue core => exact execHitchTimeout_form queue core s hk
  | commandCompletion queue cmd => exact execCommandCompletion_form queue cmd s hk
  | stageDispatch launch stage => exact execStageDispatch_form launch stage s hk
  | launchComplete launch => exact execLaunchComplete_form launch s hk
  | queueEnable req queue value => exact execQueueEnable_form req queue value s hk
  | queueDrainDone queue => exact execQueueDrainDone_form queue s hk
  | patchSlotTimeout queue cmd => exact execPatchSlotTimeout_form queue cmd s hk
  | versionFree graph version => exact execVersionFree_form graph version s hk
  | specDispatch launch stage => exact execSpecDispatch_form launch stage s hk
  | branchResolve launch branch outcome => exact execBranchResolve_form launch branch outcome s hk
  | rangeInvalidate spec => exact execRangeInvalidate_form spec s hk
  | predictReset req value => exact execPredictReset_form req value s hk
  | lqCtrlWrite offset w => exact execLqCtrlWrite_form offset w s hk
  | sqTail w => exact execSqTail_form w s hk
  | legacyCqHead w => exact execLegacyCqHead_form w s hk
  | legacyNop => exact execLegacyNop_form s hk
  | legacyDma => exact execLegacyDma_form s hk
  | legacyDesc => exact execLegacyDesc_form s hk
  | legacyKernel => exact execLegacyKernel_form s hk
  | legacyLaunch => exact execLegacyLaunch_form s hk
  | legacyWait => exact execLegacyWait_form s hk
  | legacySignal => exact execLegacySignal_form s hk
  | jobDeploy req value => exact execJobDeploy_form req value s hk
  | jobUndeploy req value => exact execJobUndeploy_form req value s hk
  | undeployDrainTimeout => exact execUndeployDrainTimeout_form s hk
  | contextCreate req desc => exact execContextCreate_form req desc s hk
  | contextDelete req context => exact execContextDelete_form req context s hk
  | schedCommit req value => exact execSchedCommit_form req value s hk
  | scheduleCycleStart => exact execScheduleCycleStart_form s hk
  | slotBoundary => exact execSlotBoundary_form s hk
  | reclaim core => exact execReclaim_form core s hk
  | predictiveWake cg => exact execPredictiveWake_form cg s hk
  | idleStepDown cg => exact execIdleStepDown_form cg s hk
  | patrolScrub cold symbols => exact execPatrolScrub_form cold symbols s hk
  | rowRemap copy => exact execRowRemap_form copy s hk
  | repairRun req value => exact execRepairRun_form req value s hk
  | repairAdd req entry => exact execRepairAdd_form req entry s hk
  | testPortRaw req value => exact execTestPortRaw_form req value s hk
  | mapTail w => exact execMapTail_form w s hk
  | alloc => exact execAlloc_form s hk
  | free => exact execFree_form s hk
  | mapHost => exact execMapHost_form s hk
  | setAbsent => exact execSetAbsent_form s hk
  | protect => exact execProtect_form s hk
  | migrate => exact execMigrate_form s hk
  | deny => exact execDeny_form s hk
  | pageFault agent va access => exact execPageFault_form agent va access s hk
  | fqHead w => exact execFqHead_form w s hk
  | fqOverflowClear req value => exact execFqOverflowClear_form req value s hk
  | faultReplay agent => exact execFaultReplay_form agent s hk
  | faultTimeout page => exact execFaultTimeout_form page s hk
  | bar2Read read bytes => exact execBar2Read_form read bytes s hk
  | bar2Write offset bytes => exact execBar2Write_form offset bytes s hk
  | bar2Atomic offset op width operand compare => exact execBar2Atomic_form offset op width operand compare s hk
  | eventCauseClear w => exact execEventCauseClear_form w s hk
  | functionLevelReset start => exact execFunctionLevelReset_form start s hk
  | perstN ev => exact execPerstN_form ev s hk
  | linkDown => exact execLinkDown_form s hk
  | linkTraining partnerGen lanes => exact execLinkTraining_form partnerGen lanes s hk
  | hostUnreachable ev => exact execHostUnreachable_form ev s hk
  | dmaRequestError busAddr agent error => exact execDmaRequestError_form busAddr agent error s hk
  | poisonedWrite correctable => exact execPoisonedWrite_form correctable s hk
  | dwGo request w => exact execDwGo_form request w s hk
  | peerSet req value => exact execPeerSet_form req value s hk
  | fabricJoin req value => exact execFabricJoin_form req value s hk
  | fabricLeave req value => exact execFabricLeave_form req value s hk
  | hello iface datagram => exact execHello_form iface datagram s hk
  | accept iface datagram => exact execAccept_form iface datagram s hk
  | finish iface datagram => exact execFinish_form iface datagram s hk
  | handshakeTimeout peer => exact execHandshakeTimeout_form peer s hk
  | fabricDataRx iface ce datagram => exact execFabricDataRx_form iface ce datagram s hk
  | fabricAckRx iface ce datagram => exact execFabricAckRx_form iface ce datagram s hk
  | ackTimer peer => exact execAckTimer_form peer s hk
  | retransmitTimeout peer psn => exact execRetransmitTimeout_form peer psn s hk
  | cwndUpdate peer => exact execCwndUpdate_form peer s hk
  | rekey peer => exact execRekey_form peer s hk
  | pathMove peer path down => exact execPathMove_form peer path down s hk
  | fabricLoadServe peer seq => exact execFabricLoadServe_form peer seq s hk
  | fabricStoreServe peer seq => exact execFabricStoreServe_form peer seq s hk
  | fabricAtomicServe peer seq => exact execFabricAtomicServe_form peer seq s hk
  | fabricSignalServe peer seq => exact execFabricSignalServe_form peer seq s hk
  | fabricLookupServe peer seq => exact execFabricLookupServe_form peer seq s hk
  | fabricRowStage peer seq => exact execFabricRowStage_form peer seq s hk
  | fabricBatchCommit peer seq => exact execFabricBatchCommit_form peer seq s hk
  | fabricBatchAbort peer seq => exact execFabricBatchAbort_form peer seq s hk
  | fabricResponseRx peer record => exact execFabricResponseRx_form peer record s hk
  | opTimeout peer seq => exact execOpTimeout_form peer seq s hk
  | closeRx iface datagram => exact execCloseRx_form iface datagram s hk
  | peerDead peer => exact execPeerDead_form peer s hk
  | keepaliveAckTimer peer => exact execKeepaliveAckTimer_form peer s hk
  | fabricAtomic core desc org => exact execFabricAtomic_form core desc org s hk
  | fabricBarrier core desc org => exact execFabricBarrier_form core desc org s hk
  | fabricBroadcast core desc org => exact execFabricBroadcast_form core desc org s hk
  | fabricSnapshot core desc org => exact execFabricSnapshot_form core desc org s hk
  | globalTimeout group => exact execGlobalTimeout_form group s hk
  | ggroupEnable req group value => exact execGgroupEnable_form req group value s hk
  | ownerOpen via record => exact execOwnerOpen_form via record s hk
  | ownerHandshakeTimeout via => exact execOwnerHandshakeTimeout_form via s hk
  | ownerDict via record => exact execOwnerDict_form via record s hk
  | ownerStage via record => exact execOwnerStage_form via record s hk
  | ownerCommand via record => exact execOwnerCommand_form via record s hk
  | ownerMap via record => exact execOwnerMap_form via record s hk
  | ownerClose via record => exact execOwnerClose_form via record s hk
  | ownerGapTimeout session => exact execOwnerGapTimeout_form session s hk
  | relayIn req value => exact execRelayIn_form req value s hk
  | relayOut req length => exact execRelayOut_form req length s hk
  | quoteNonce req value => exact execQuoteNonce_form req value s hk
  | measureExtend req value => exact execMeasureExtend_form req value s hk
  | rollbackCommit req value => exact execRollbackCommit_form req value s hk
  | keyWipe req value => exact execKeyWipe_form req value s hk
  | zeroisation => exact execZeroisation_form s hk
  | opPointMove faster => exact execOpPointMove_form faster s hk
  | capProjection watts demand => exact execCapProjection_form watts demand s hk
  | powerCapWrite req value => exact execPowerCapWrite_form req value s hk
  | sensorSample temps => exact execSensorSample_form temps s hk
  | thermalTrip => exact execThermalTrip_form s hk
  | powerOff req value => exact execPowerOff_form req value s hk
  | thermTripInN ns => exact execThermTripInN_form ns s hk
  | refClockLoss => exact execRefClockLoss_form s hk
  | cgWake cg => exact execCgWake_form cg s hk
  | cgWakeComplete cg => exact execCgWakeComplete_form cg s hk
  | netSwitchOn => exact execNetSwitchOn_form s hk
  | netSwitchOff => exact execNetSwitchOff_form s hk
  | coldSwitchOn => exact execColdSwitchOn_form s hk
  | coldSelfRefresh => exact execColdSelfRefresh_form s hk
  | selfRefreshExit => exact execSelfRefreshExit_form s hk
  | powerManagerTick => exact execPowerManagerTick_form s hk
  | bivGraphLoad => exact execBivGraphLoad_form s hk
  | coldReset req value => exact execColdReset_form req value s hk
  | modResetN ns => exact execModResetN_form ns s hk
  | startUp => exact execStartUp_form s hk
  | firmwareFallback => exact execFirmwareFallback_form s hk
  | jobFault => exact execJobFault_form s hk
  | watchdogExpiry => exact execWatchdogExpiry_form s hk
  | postilionWedge => exact execPostilionWedge_form s hk
  | maintMode req value => exact execMaintMode_form req value s hk
  | cgReset req mask => exact execCgReset_form req mask s hk
  | fwWrite req value => exact execFwWrite_form req value s hk
  | fwInstall req value => exact execFwInstall_form req value s hk
  | fwActivate req value => exact execFwActivate_form req value s hk
  | fwConfirm req value => exact execFwConfirm_form req value s hk
  | dictRead req message => exact execDictRead_form req message s hk
  | dictWrite req message => exact execDictWrite_form req message s hk
  | multiWrite req message => exact execMultiWrite_form req message s hk
  | multiRead req message => exact execMultiRead_form req message s hk
  | segmentLapse req => exact execSegmentLapse_form req s hk
  | snapshotLapse req => exact execSnapshotLapse_form req s hk
  | waybillRecordWrite => exact execWaybillRecordWrite_form s hk
  | rateWindowEnd => exact execRateWindowEnd_form s hk
  | wbRead req => exact execWbRead_form req s hk
  | wbClear req value => exact execWbClear_form req value s hk
  | wbClearCopyDone => exact execWbClearCopyDone_form s hk
  | inputPowerLoss => exact execInputPowerLoss_form s hk
  | refClockRestored => exact execRefClockRestored_form s hk
  | interfaceUp iface => exact execInterfaceUp_form iface s hk
  | globalOperationRx peer record => exact execGlobalOperationRx_form peer record s hk
  | fabricAtomicCoreRelease id => exact execFabricAtomicCoreRelease_form id s hk
  | sessionRetry peer => exact execSessionRetry_form peer s hk
  | keptResponseLapse req => exact execKeptResponseLapse_form req s hk
  | msixTableWrite offset w => exact execMsixTableWrite_form offset w s hk
  | bar2Resize gib => exact execBar2Resize_form gib s hk
  | neighborDiscoveryFrame iface v6 request target sender mac => exact execNeighborDiscoveryFrame_form iface v6 request target sender mac s hk

/-- Settles O6: `FormKeeps` from the state before the step, whichever command runs, and over an idle tick. -/
theorem everyStepKeepsTheMemoriesCanonical : Obligations.EveryStepKeepsTheMemoriesCanonical := by
  unfold Obligations.EveryStepKeepsTheMemoriesCanonical
  intro s t hs hstep
  have hk : FormKeeps false (formPart s) (formPart t) := by
    rcases step_cases s with ⟨-, htick⟩ | ⟨c, rest, -, hrun⟩
    · rw [htick] at hstep
      cases hstep
      exact idleTick_form s (form_refl _ _)
    · have hform : OutForm false (formPart s) (exec c { s with pending := rest }) := exec_form c _ (form_refl _ _)
      rwa [← hrun, hstep] at hform
  exact hk.1 hs

end Sys2Proof.Machine
end

section
/-! SUPPORT and O46. What a reset of the function and a change of the host's link leave alone, and the events of the host's
interface (R427, R428, R431, R443 to R450). -/

namespace Sys2Proof.Machine

open Sys2Proof

/-! A datagram of the fabric touches the fabric only. -/

theorem putOut_fabric_frame (l : Link) (o : FabOut) (s : State) :
    putOut l (.fabric o) s = { s with fabric := (putOut l (.fabric o) s).fabric } := by
  unfold putOut depart
  split <;> rfl

theorem sendLink_fabric_frame (i : Nat) (dst : Endpoint) (o : FabOut) (s : State) :
    sendLink i dst (.fabric o) s = { s with fabric := (sendLink i dst (.fabric o) s).fabric } := by
  unfold sendLink
  split
  · rfl
  · split
    · exact putOut_fabric_frame _ _ _
    · extract_lets asked fabric u
      split
      · rfl
      · unfold neighbourFrame
        rw [putOut_fabric_frame]

theorem emit_frame (iface peer cls srcPort : Nat) (bytes : List Byte) (s : State) :
    emit iface peer cls srcPort bytes s = { s with fabric := (emit iface peer cls srcPort bytes s).fabric } := by
  unfold emit
  exact sendLink_fabric_frame _ _ _ _

theorem sendPacket_frame (peer typ cls : Nat) (records : List (List Byte)) (ops resps : List Nat) (s : State) :
    sendPacket peer typ cls records ops resps s =
      { s with fabric := (sendPacket peer typ cls records ops resps s).fabric, dict := (sendPacket peer typ cls records ops resps s).dict } := by
  unfold sendPacket
  extract_lets x u body ks
  cases nextPathOf x s with
  | none => rfl
  | some k =>
    dsimp -zeta only
    extract_lets p hdr bytes x'
    have hu : u = { s with dict := u.dict } := by
      simp only [u]
      split <;> rfl
    clear_value u
    rw [emit_frame, hu]
    rfl

theorem pumpLoop_frame (barrier : Bool) (fuel peer : Nat) (s : State) :
    pumpLoop barrier fuel peer s =
      { s with fabric := (pumpLoop barrier fuel peer s).fabric, dict := (pumpLoop barrier fuel peer s).dict } := by
  induction fuel generalizing s with
  | zero => rfl
  | succ fuel ih =>
    have hsent : ∀ cls rs ops resps, pumpLoop barrier fuel peer (sendPacket peer 1 cls rs ops resps s) =
        { s with fabric := (pumpLoop barrier fuel peer (sendPacket peer 1 cls rs ops resps s)).fabric,
                 dict := (pumpLoop barrier fuel peer (sendPacket peer 1 cls rs ops resps s)).dict } := fun cls rs ops resps => by
      rw [ih, sendPacket_frame]
    rw [pumpLoop]
    extract_lets x
    split
    · rfl
    · split
      · split
        · rfl
        · split
          · exact hsent _ _ _ _
          · rfl
      · split
        · rfl
        · split
          · exact hsent _ _ _ _
          · rfl
      · rfl

/-! What a reset of the function leaves alone while it drops what is held: the job, the map records, the count of resets and
the state of the legacy interface. -/

def resetView (s : State) : Job × List MapRecord × Nat × Nat :=
  (s.job, s.xlate.mapRecords, counter Cnt.flrs s, s.legacy.state)

theorem count_resetView {key : Nat} (h : Cnt.flrs ≠ key) (n : Nat) (s : State) : resetView (count key n s) = resetView s := by
  unfold resetView
  rw [counter_count_ne n s h]
  rfl

@[simp] theorem touchPteCache_resetView (page : Nat) (s : State) : resetView (touchPteCache page s) = resetView s := by
  unfold touchPteCache
  split
  · rfl
  · exact count_resetView (by decide) _ _

@[simp] theorem touchHub_resetView (page : Nat) (s : State) : resetView (touchHub page s) = resetView s := by
  unfold touchHub
  split
  · rfl
  · exact (count_resetView (by decide) _ _).trans (touchPteCache_resetView page s)

@[simp] theorem hubPage_resetView (page : Nat) (s : State) : resetView (hubPage page s) = resetView s := by
  unfold hubPage
  split
  · rw [touchCold_frame]
    exact touchHub_resetView page s
  · exact touchHub_resetView page s

@[simp] theorem hubAccess_resetView (va n : Nat) (s : State) : resetView (hubAccess va n s) = resetView s :=
  foldl_view resetView _ (fun s p => hubPage_resetView p s) _ s

@[simp] theorem devSetByte_resetView (va : Nat) (b : Byte) (s : State) : resetView (devSetByte va b s) = resetView s := by
  unfold devSetByte
  rw [ensureFrame_frame]
  dsimp only
  split
  · rfl
  · split
    · exact count_resetView (by decide) _ _
    · rfl

@[simp] theorem devPut_resetView (va : Nat) (bs : List Byte) (s : State) : resetView (devPut va bs s) = resetView s := by
  induction bs generalizing va s with
  | nil => rfl
  | cons b bs ih => rw [devPut, ih, devSetByte_resetView]

theorem watchWrite_resetView (va n : Nat) (s : State) : resetView (watchWrite va n s) = resetView s := (rfl)

@[simp] theorem hitchSignal_resetView (va : Nat) (store : Bool) (v : Nat) (s : State) :
    resetView (hitchSignal va store v s) = resetView s := by
  unfold hitchSignal devWrite
  rw [watchWrite_resetView, devPut_resetView]

@[simp] theorem applySignal_resetView (drop : Bool) (va : Nat) (store : Bool) (v : Nat) (s : State) :
    resetView (applySignal drop va store v s) = resetView s := by
  unfold applySignal
  split
  · split
    · exact count_resetView (by decide) _ _
    · dsimp only
      rw [hitchSignal_resetView]
      split
      · exact hubAccess_resetView _ _ _
      · rw [count_resetView (by decide), hubAccess_resetView]
  · rw [hitchSignal_resetView, hubAccess_resetView]

@[simp] theorem sendPacket_resetView (peer typ cls : Nat) (records : List (List Byte)) (ops resps : List Nat) (s : State) :
    resetView (sendPacket peer typ cls records ops resps s) = resetView s := by
  unfold sendPacket
  extract_lets x u body ks
  cases nextPathOf x s with
  | none => rfl
  | some k =>
    dsimp -zeta only
    extract_lets p hdr bytes x'
    have hu : resetView u = resetView s := by
      simp only [u]
      split
      · rfl
      · exact count_resetView (by decide) _ _
    rw [emit_frame, ← hu]
    rfl

@[simp] theorem pumpLoop_resetView (barrier : Bool) (fuel peer : Nat) (s : State) :
    resetView (pumpLoop barrier fuel peer s) = resetView s := by
  induction fuel generalizing s with
  | zero => rfl
  | succ fuel ih =>
    unfold pumpLoop
    dsimp only
    (repeat' split) <;> simp [ih]

@[simp] theorem fabPost_resetView (peer opcode subop : Nat) (o1 : BitVec 64) (body : List Byte) (cls : Nat) (unit : FabUnit)
    (s : State) : resetView (fabPost peer opcode subop o1 body cls unit s) = resetView s := by
  unfold fabPost pump pumpOf
  split
  · rw [pumpLoop_resetView]
    rfl
  · rfl

theorem dropCompletion_resetView (n : Nat) (c : Cmd) (s : State) : resetView (dropCompletion n c s) = resetView s := by
  have hfar : resetView (applyNearSignal n c (sendFarSignal n c s)) = resetView s := by
    unfold applyNearSignal sendFarSignal
    (repeat' split) <;> simp
  unfold dropCompletion
  dsimp only
  (repeat' split) <;> simp only [count_resetView (key := Cnt.recordsDropped) (by decide), hfar]

theorem dropLegacy_resetView (c : Cmd) (s : State) : resetView (dropLegacy c s) = resetView s := by
  unfold dropLegacy
  rw [count_resetView (by decide)]
  split <;> simp

theorem dropQueue_resetView (n : Nat) (s : State) : resetView (dropQueue n s) = resetView s := by
  have hfold : resetView ((queueOf n s).held.foldl (fun s c => dropCompletion n c s) s) = resetView s :=
    foldl_view resetView _ (fun s c => dropCompletion_resetView n c s) _ s
  unfold dropQueue
  dsimp only
  split
  · split <;> exact hfold
  · rfl

theorem dropHeld_resetView (s : State) : resetView (dropHeld s) = resetView s := count_resetView (by decide) _ _

/-- The interface is OFF; the rest of the view stays. -/
theorem resetLegacy_resetView (s : State) : resetView (resetLegacy s) = (s.job, s.xlate.mapRecords, counter Cnt.flrs s, 0) := by
  have hfold : resetView (s.legacy.held.foldl (fun s c => dropLegacy c s) s) = resetView s :=
    foldl_view resetView _ (fun s c => dropLegacy_resetView c s) _ s
  obtain ⟨hjob, hrecs, hcount, -⟩ : _ ∧ _ ∧ _ ∧ _ := by simpa only [resetView, Prod.mk.injEq] using hfold
  unfold resetLegacy resetView
  rw [← hjob, ← hrecs, ← hcount]
  rfl

/-! With nothing held, nothing is written into device memory. -/

theorem mem_updAt {α : Type} {l : List α} {i : Nat} {f : α → α} {x : α} (h : x ∈ updAt l i f) : x ∈ l ∨ ∃ y, x = f y := by
  unfold updAt at h
  rw [List.mem_iff_getElem] at h
  obtain ⟨k, hk, rfl⟩ := h
  rw [List.getElem_modify]
  split
  · exact .inr ⟨_, rfl⟩
  · exact .inl (List.getElem_mem _)

/-- No queue holds a completion. -/
def NoneHeld (s : State) : Prop := ∀ q, q ∈ s.dispatch.queues → q.held = []

theorem queueOf_held_of_noneHeld {s : State} (h : NoneHeld s) (n : Nat) : (queueOf n s).held = [] := by
  unfold queueOf
  rw [List.getD_eq_getElem?_getD]
  cases hq : s.dispatch.queues[n]? with
  | none => rfl
  | some q => exact h q (List.mem_of_getElem? hq)

theorem dropQueue_noneHeld {s : State} (h : NoneHeld s) (n : Nat) :
    NoneHeld (dropQueue n s) ∧ (dropQueue n s).mem.dram = s.mem.dram := by
  unfold dropQueue
  rw [queueOf_held_of_noneHeld h n]
  dsimp only
  split
  · have hnone : ∀ q, q ∈ updAt s.dispatch.queues n (fun q => { q with
        state := if q.state = 0 then 0 else if (keepDispatched q.cmds).isEmpty then 0 else 3,
        cmds := keepDispatched q.cmds, staleReads := none, tail := 0, cqHead := 0, written := 0, held := [] }) → q.held = [] := by
      intro q hq
      rcases mem_updAt hq with hq | ⟨y, rfl⟩
      · exact h q hq
      · rfl
    split <;> exact ⟨hnone, rfl⟩
  · exact ⟨h, rfl⟩

theorem dropQueues_noneHeld {s : State} (h : NoneHeld s) (l : List Nat) :
    (l.foldl (fun s n => dropQueue n s) s).mem.dram = s.mem.dram := by
  induction l generalizing s with
  | nil => rfl
  | cons n l ih =>
    obtain ⟨hheld, hdram⟩ := dropQueue_noneHeld h n
    rw [List.foldl_cons, ih hheld, hdram]

theorem resetLegacy_nothingHeld {s : State} (h : s.legacy.held = []) :
    resetLegacy s = { s with legacy := { State.reset.legacy with cmds := keepDispatched s.legacy.cmds } } := by
  unfold resetLegacy
  rw [h]
  rfl

/-! The function's reset as a whole. -/

theorem hostReachable_of_notMaster {s : State} (h : s.hostif.bme = false) : hostReachable s = false := by
  simp [hostReachable, h]

/-- While the host is not reachable, only since when is noted. -/
theorem noteReach_unreachable {s : State} (h : hostReachable s = false) :
    noteReach s = { s with hostif := { s.hostif with unreachableSince := some (s.hostif.unreachableSince.getD s.now) } } := by
  unfold noteReach
  rw [if_neg (by simp [h])]
  split
  · rename_i t ht
    have hsince : some (s.hostif.unreachableSince.getD s.now) = s.hostif.unreachableSince := by rw [ht, Option.getD_some]
    rw [hsince]
  · rename_i ht
    rw [ht]
    rfl

/-- What the drop of the held work leaves before the host's registers are reset. -/
def droppedWork (s : State) : State := (List.range 64).foldl (fun s n => dropQueue n s) (resetLegacy (dropHeld s))

theorem droppedWork_resetView (s : State) : resetView (droppedWork s) = (s.job, s.xlate.mapRecords, counter Cnt.flrs s, 0) := by
  have hheld := dropHeld_resetView s
  obtain ⟨hjob, hrecs, hcount, -⟩ : _ ∧ _ ∧ _ ∧ _ := by simpa only [resetView, Prod.mk.injEq] using hheld
  unfold droppedWork
  rw [foldl_view resetView _ (fun s n => dropQueue_resetView n s), resetLegacy_resetView, hjob, hrecs, hcount]

theorem droppedWork_linkView (s : State) : linkView (droppedWork s) = linkView s := by
  have hk : FormKeeps true (formPart s) (formPart (droppedWork s)) :=
    form_foldl (resetLegacy_form _ (by rw [dropHeld_part]; exact form_refl _ _)) (fun s n hk => dropQueue_form n s hk)
  exact hk.2 rfl

theorem resetLegacy_noneHeld {s : State} (hq : NoneHeld s) (hl : s.legacy.held = []) :
    NoneHeld (resetLegacy s) ∧ (resetLegacy s).mem.dram = s.mem.dram := by
  rw [resetLegacy_nothingHeld hl]
  exact ⟨hq, rfl⟩

theorem droppedWork_dram {s : State} (hq : NoneHeld s) (hl : s.legacy.held = []) : (droppedWork s).mem.dram = s.mem.dram := by
  obtain ⟨hnone, hdram⟩ := resetLegacy_noneHeld (s := dropHeld s) hq hl
  unfold droppedWork
  rw [dropQueues_noneHeld hnone, hdram]
  rfl

/-- The host's registers at their reset values and the map ring empty (R449). -/
def hostRegistersReset (s : State) : State :=
  { s with
    xlate := { s.xlate with fqHead := 0, mapTail := 0, mapRecords := s.xlate.mapRecords.filter (fun r => r.at_.isNone), mapStale := none },
    hostif := { s.hostif with
      eventCause := 0, tailReg := [], cqHeadReg := [], fqHeadReg := 0, mapTailReg := 0, msixAddr := [], msixData := [],
      msixUnmasked := [], msixPending := [], holdoff := [], bme := false, d3hot := false, atomicEnable := false,
      bar2Size := ent Ent.bar2ResetGib s * 2 ^ 30 } }

theorem hostRegistersReset_unreachable (s : State) : hostReachable (hostRegistersReset s) = false :=
  hostReachable_of_notMaster rfl

/-- The host unreachable, and since when. -/
def hostLost (s : State) : State :=
  { s with hostif := { s.hostif with unreachableSince := some (s.hostif.unreachableSince.getD s.now) } }

theorem flrEffects_eq (s : State) : flrEffects s = hostLost (hostRegistersReset (setEnt Ent.mapEnable 1 0 (droppedWork s))) := by
  rw [hostLost, ← noteReach_unreachable (hostRegistersReset_unreachable _)]
  unfold flrEffects droppedWork hostRegistersReset
  dsimp only

/-- What the reset of the function leaves: the host's registers at their reset values, the map ring empty, the legacy interface
OFF, and the link, the job and the count of resets as they were. -/
theorem flrEffects_effect (s : State) :
    linkView (flrEffects s) = linkView s ∧ (flrEffects s).hostif.msixAddr = [] ∧ (flrEffects s).hostif.msixUnmasked = [] ∧
      (flrEffects s).hostif.bme = false ∧
      (flrEffects s).xlate.mapRecords = s.xlate.mapRecords.filter (fun r => r.at_.isNone) ∧ ent Ent.mapEnable (flrEffects s) = 0 ∧
      (flrEffects s).legacy.state = 0 ∧ (flrEffects s).job = s.job ∧ counter Cnt.flrs (flrEffects s) = counter Cnt.flrs s ∧
      (NoneHeld s → s.legacy.held = [] → (flrEffects s).mem.dram = s.mem.dram) := by
  obtain ⟨hjob, hrecs, hcount, hlegacy⟩ : _ ∧ _ ∧ _ ∧ _ := by
    simpa only [resetView, Prod.mk.injEq] using droppedWork_resetView s
  have hlink := droppedWork_linkView s
  have hdram : NoneHeld s → s.legacy.held = [] → (droppedWork s).mem.dram = s.mem.dram := droppedWork_dram
  rw [flrEffects_eq]
  generalize droppedWork s = u at *
  rw [← hlink, ← hrecs, ← hjob, ← hcount]
  exact ⟨rfl, rfl, rfl, rfl, rfl, ent_setEnt_self Ent.mapEnable 1 0 u, hlegacy, rfl, rfl, hdram⟩

theorem flr_of_linkView {s t : State} (h : linkView t = linkView s) : t.hostif.flr = s.hostif.flr := congrArg Prod.fst h

theorem noteReach_linkView (s : State) : linkView (noteReach s) = linkView s :=
  (noteReach_form (link := true) (base := formPart s) s (form_refl _ _)).2 rfl

/-! The link. -/

theorem loseLink_up {s : State} (h : s.hostif.linkGen ≠ 0) :
    loseLink s = hostLost (count Cnt.linkDowns 1 (wbSubmit 0xA001 noInst [0, 0, 0]
      { s with hostif := { s.hostif with linkGen := 0, linkWidth := 0, wasUp := true } })) := by
  unfold loseLink
  rw [if_neg h, wbSubmit_frame]
  exact noteReach_unreachable (by simp [hostReachable, count])

theorem raiseEvent_linkView (bit : Nat) (s : State) : linkView (raiseEvent bit s) = linkView s :=
  congrArg Prod.snd (raiseEvent_part bit s)

theorem wbSubmit_linkView (code inst : Nat) (p : List Nat) (s : State) : linkView (wbSubmit code inst p s) = linkView s :=
  congrArg Prod.snd (wbSubmit_part code inst p s)

/-- A link that trains has the generation and the width reached, and one that is narrower or slower than it could be is an
event (R427, R428). -/
theorem execLinkTraining_trained {partner : LinkPartner} {lanes : Nat} {s : State} (hboot : 7 ≤ s.recovery.bootStage)
    (hperst : s.pins.perstN = true) (hhighest : 4 ≤ partner.highest) (htrained : 4 ≤ partner.trained) (hlanes : 1 ≤ lanes)
    {gen width best : Nat} (hbest : best = Nat.min (Nat.min 7 partner.highest) (ent Ent.maxLinkGen s))
    (hgen : gen = Nat.min best partner.trained) (hwidth : width = 2 ^ Nat.log2 (Nat.min lanes 16)) :
    ∃ u, linkView u = (s.hostif.flr, gen, width) ∧ execLinkTraining partner lanes s =
      .next (if width < 16 ∨ gen < best then raiseEvent 2 u else u) := by
  subst hwidth hgen hbest
  unfold execLinkTraining
  rw [if_neg (by simp [hperst]; omega)]
  extract_lets best gen width was v hostif u
  have hflr : v.hostif.flr = s.hostif.flr := by
    simp only [v]
    split
    · exact flr_of_linkView (flrEffects_effect s).1
    · rfl
  clear_value v
  have hu : linkView u = (s.hostif.flr, gen, width) := by
    rw [noteReach_linkView, ← hflr]
    rfl
  clear_value u
  refine ⟨wbSubmit 0xA001 noInst (if width < 16 ∨ gen < best then [2, gen, width] else [1, gen, width]) u, ?_, ?_⟩
  · rw [wbSubmit_linkView, hu]
  · split <;> rfl

/-! The message table. -/

theorem contains_insertSorted (v : Nat) (l : List Nat) : (insertSorted v l).contains v = true := by
  induction l with
  | nil => simp [insertSorted]
  | cons y l ih =>
    unfold insertSorted
    split
    · simp
    · simp only [List.contains_cons, ih, Bool.or_true]

theorem raiseVector_unmasked {v : Nat} {s : State} (hhost : hostReachable s = true) (h : s.hostif.msixUnmasked.contains v = true)
    (queue : Option Nat) : raiseVector queue v s = sendMsix v s := by
  rw [raiseVector, if_neg (by simp [hhost]), if_pos h]

theorem setMask_unmasks {v : Nat} {s : State} (hhost : hostReachable s = true) (hpending : s.hostif.msixPending.contains v = true) :
    setMask v false s = sendMsix v { s with hostif := { s.hostif with
      msixUnmasked := insertSorted v (s.hostif.msixUnmasked.filter (· != v)),
      msixPending := s.hostif.msixPending.filter (· != v) } } := by
  unfold setMask
  dsimp only
  rw [if_pos (by rw [hpending]; rfl), if_neg (by decide), raiseVector_unmasked]
  · exact hhost
  · exact contains_insertSorted v _

theorem msixTableWrite_address {v : Nat} {w : HostWrite} {s : State} (hv : v < 128) (hb : w.bytes = 8) (ho : w.offset = 0) :
    exec (.msixTableWrite (16 * v) w) s = .next { s with hostif := { s.hostif with
      msixAddr := alSet s.hostif.msixAddr v w.value,
      msixTorn := if s.hostif.msixUnmasked.contains v = false ∨ s.hostif.msixTorn.contains v = true then s.hostif.msixTorn
        else v :: s.hostif.msixTorn } } := by
  have hvector : 16 * v / 16 = v := by omega
  change execMsixTableWrite (16 * v) w s = _
  rw [execMsixTableWrite, if_neg (by omega)]
  dsimp only
  rw [if_pos (by omega), regWrite_whole hb ho, hvector]
  simp only [Bool.not_eq_true']

/-- The vector unmasked with its data written: the message that was pending goes out. -/
theorem msixTableWrite_unmasks {v : Nat} {w : HostWrite} {s : State} (hv : v < 128) (hb : w.bytes = 8) (ho : w.offset = 0)
    (hmask : w.value.getLsbD 32 = false) (hpending : s.hostif.msixPending.contains v = true)
    (hmasked : s.hostif.msixUnmasked.contains v = false) (hhost : hostReachable s = true) :
    exec (.msixTableWrite (16 * v + 8) w) s = .next (sendMsix v { s with hostif := { s.hostif with
      msixData := alSet s.hostif.msixData v (w.value.setWidth 32),
      msixUnmasked := insertSorted v (s.hostif.msixUnmasked.filter (· != v)),
      msixPending := s.hostif.msixPending.filter (· != v) } }) := by
  have hvector : (16 * v + 8) / 16 = v := by omega
  have hbit : bitOf w.value.toNat 32 = false := by
    rw [← hmask, BitVec.getLsbD, Nat.testBit_eq_decide_div_mod_eq, bitOf]
    rfl
  change execMsixTableWrite (16 * v + 8) w s = _
  rw [execMsixTableWrite, if_neg (by omega)]
  dsimp only
  rw [if_neg (by omega), regWrite_whole hb ho, hvector]
  dsimp only
  rw [hmasked, hbit]
  simp only [Bool.not_false, true_or, if_true, ite_self]
  exact congrArg Host.Outcome.next (setMask_unmasks hhost hpending)

theorem contains_filter_ne (v : Nat) (l : List Nat) : (l.filter (· != v)).contains v = false := by
  simp

end Sys2Proof.Machine

namespace Sys2Proof

open Sys2Proof.Machine

/-- Settles O46, clause by clause from what a reset of the function, the link and the message table do. -/
theorem hostEventsAndLinkChanges : Obligations.HostEventsAndLinkChanges := by
  unfold Obligations.HostEventsAndLinkChanges
  refine ⟨?cause, ?address, ?unmask, ?busMaster, ?retried, ?dmaError, ?poisoned, ?reset, ?resetEnd, ?perst, ?down, ?trained⟩
  case cause =>
    intro w s hb ho
    change execEventCauseClear w s = _
    rw [execEventCauseClear, regWrite_whole hb ho]
  case address => exact fun v w s hv hb ho => msixTableWrite_address hv hb ho
  case unmask =>
    intro v w s hv hb ho hmask hpending hmasked hbme hd3 hflr hlink
    have hhost : hostReachable s = true := by simp [hostReachable, hbme, hd3, hflr, hlink]
    refine ⟨_, msixTableWrite_unmasks hv hb ho hmask hpending hmasked hhost, contains_filter_ne v _, contains_insertSorted v _, ?_⟩
    simp only [sendMsix, alGet_alSet_self, Option.getD_some]
  case busMaster =>
    intro s hboot hbme hhost hsince
    have hlost : hostReachable { s with hostif := { s.hostif with bme := false } } = false := hostReachable_of_notMaster rfl
    have hanswers : ¬configRetried s = true := by simp [configRetried]; omega
    have hrun : exec (.hostUnreachable (.busMaster false)) s = .next (noteReach { s with hostif := { s.hostif with bme := false } }) :=
      congrArg Host.Outcome.next (if_neg hanswers)
    rw [noteReach_unreachable hlost] at hrun
    simp only [hsince, Option.getD_none] at hrun
    exact ⟨_, hrun, hostReachable_of_notMaster rfl, rfl⟩
  case retried =>
    intro event s hboot
    have hretried : configRetried s = true := by simp [configRetried]; omega
    exact congrArg Host.Outcome.next (if_pos hretried)
  case dmaError =>
    intro busAddr agent error s hagent
    exact if_pos (.inl hagent)
  case poisoned => exact fun s => ⟨_, rfl, counter_count_self _ _ _, rfl, rfl⟩
  case reset =>
    intro s
    obtain ⟨hlink, haddr, hunmasked, hbme, hrecs, hmap, hlegacy, hjob, hcount, hdram⟩ :=
      flrEffects_effect { s with hostif := { s.hostif with flr := true } }
    have hrun : exec (.functionLevelReset true) s =
        .next (count Cnt.flrs 1 (flrEffects { s with hostif := { s.hostif with flr := true } })) := congrArg Host.Outcome.next (if_pos rfl)
    have hflr := flr_of_linkView hlink
    generalize flrEffects { s with hostif := { s.hostif with flr := true } } = u at *
    refine ⟨_, hrun, hflr, haddr, hunmasked, hbme, hrecs, hmap, hlegacy, hostReachable_of_notMaster hbme, hjob, hdram, ?_⟩
    rw [counter_count_self, hcount]
    rfl
  case resetEnd =>
    intro s
    exact ⟨_, congrArg Host.Outcome.next (if_neg (by decide)), flr_of_linkView (s := { s with hostif := { s.hostif with flr := false } }) (noteReach_linkView _)⟩
  case perst => exact fun s => ⟨rfl, rfl, fun hperst => congrArg Host.Outcome.next (if_pos hperst)⟩
  case down =>
    intro s hlink
    refine ⟨_, congrArg Host.Outcome.next (loseLink_up hlink), ?_⟩
    rw [wbSubmit_frame]
    refine ⟨rfl, rfl, by simp [hostReachable, hostLost, count], ?_⟩
    change counter Cnt.linkDowns (count Cnt.linkDowns 1 _) = _
    rw [counter_count_self]
    congr 2
    exact counter_wbSubmit (by decide) _ _ _ _
  case trained =>
    intro partner lanes s best hboot hperst hhighest htrained hlanes hbest
    obtain ⟨u, hu, hrun⟩ := execLinkTraining_trained hboot hperst hhighest htrained hlanes hbest rfl rfl
    refine ⟨_, hrun, ?_⟩
    simp only [linkView, Prod.mk.injEq] at hu
    obtain ⟨-, hgen, hwidth⟩ := hu
    split
    · have hview := raiseEvent_linkView 2 u
      simp only [linkView, Prod.mk.injEq] at hview
      obtain ⟨-, hg, hw⟩ := hview
      exact ⟨hg.trans hgen, hw.trans hwidth, fun _ => raiseEvent_eventCause (by decide) u⟩
    · rename_i hwhole
      refine ⟨hgen, hwidth, fun h => absurd ?_ hwhole⟩
      rwa [hgen, hwidth] at h

end Sys2Proof
end

section
/-! SUPPORT and O50. The fabric's membership: what sending over the fabric leaves alone, joining, leaving, and the interfaces
(R454, R456, R457, R472, R485). -/

namespace Sys2Proof.Machine

open Sys2Proof

/-! Sending over the fabric changes neither the membership nor the interfaces, no command entry and no memory. -/

abbrev FabricView : Type :=
  Mem × Job × List (Nat × CmdStatus) × Power × Nat × Nat × Nat × List Nat × List Nat × List GGroup

def fabricView (s : State) : FabricView :=
  (s.mem, s.job, s.dict.cmds, s.power, s.now, s.fabric.state, s.fabric.joinAt, s.fabric.ifUp, s.fabric.mode, s.fabric.groups)

theorem count_fabricView (key n : Nat) (s : State) : fabricView (count key n s) = fabricView s := (rfl)

theorem putSess_fabricView (x : FabSession) (s : State) : fabricView (putSess x s) = fabricView s := (rfl)

theorem drawFree_fabricView (s : State) : fabricView (drawFree s) = fabricView s := (rfl)

theorem putOut_fabricView (l : Link) (o : FabOut) (s : State) : fabricView (putOut l (.fabric o) s) = fabricView s := by
  unfold putOut
  split <;> rfl

theorem sendLink_fabricView (i : Nat) (dst : Endpoint) (o : FabOut) (s : State) :
    fabricView (sendLink i dst (.fabric o) s) = fabricView s := by
  unfold sendLink
  split
  · rfl
  · split
    · exact putOut_fabricView _ _ _
    · extract_lets asked fabric u
      split
      · rfl
      · exact putOut_fabricView _ _ _

theorem emit_fabricView (iface peer cls srcPort : Nat) (bytes : List Byte) (s : State) :
    fabricView (emit iface peer cls srcPort bytes s) = fabricView s := sendLink_fabricView _ _ _ _

theorem sendPacket_fabricView (peer typ cls : Nat) (records : List (List Byte)) (ops resps : List Nat) (s : State) :
    fabricView (sendPacket peer typ cls records ops resps s) = fabricView s := by
  unfold sendPacket
  extract_lets x u body ks
  cases nextPathOf x s with
  | none => rfl
  | some k =>
    dsimp -zeta only
    extract_lets p hdr bytes x'
    rw [emit_fabricView, putSess_fabricView]
    simp only [u]
    split <;> rfl

theorem pumpLoop_fabricView (barrier : Bool) (fuel peer : Nat) (s : State) :
    fabricView (pumpLoop barrier fuel peer s) = fabricView s := by
  induction fuel generalizing s with
  | zero => rfl
  | succ fuel ih =>
    unfold pumpLoop
    dsimp only
    (repeat' split) <;> simp only [ih, sendPacket_fabricView]

theorem pumpOf_fabricView (barrier : Bool) (peer : Nat) (s : State) : fabricView (pumpOf barrier peer s) = fabricView s := by
  unfold pumpOf
  split
  · rw [pumpLoop_fabricView]
    exact putSess_fabricView _ _
  · rfl

theorem pumpAll_fabricView (s : State) : fabricView (pumpAll s) = fabricView s := by
  unfold pumpAll
  dsimp only
  rw [foldl_view fabricView (fun s (x : FabSession) => pump x.peer s) (fun s x => pumpOf_fabricView false x.peer s),
    foldl_view fabricView (fun s (x : FabSession) => pumpOf true x.peer s) (fun s x => pumpOf_fabricView true x.peer s)]

theorem sendFragments_fabricView (peer typ gen : Nat) (msg : List Byte) (s : State) :
    fabricView (sendFragments peer typ gen msg s) = fabricView s := by
  unfold sendFragments
  split
  · rfl
  · dsimp only
    rw [drawFree_fabricView]
    exact foldl_view fabricView _ (fun s x => emit_fabricView _ _ _ _ _ _) _ s

theorem startHandshake_fabricView (peer : Nat) (s : State) : fabricView (startHandshake peer s) = fabricView s := by
  unfold startHandshake
  dsimp only
  rw [sendFragments_fabricView]
  refine (putSess_fabricView _ _).trans ?_
  split <;> rfl

theorem startHandshakes_fabricView (s : State) : fabricView (startHandshakes s) = fabricView s := by
  unfold startHandshakes
  split
  · refine foldl_view fabricView _ (fun s p => ?_) _ s
    dsimp only
    split
    · exact startHandshake_fabricView _ _
    · rfl
  · rfl

/-! Joining. -/

/-- Every peer's session is up or has failed once. -/
def allTried (s : State) : Bool := s.fabric.peers.all (fun p => sessUp p.1 s || (sessOf p.1 s).tried)

/-- JOINING begins and, with every peer tried, is MEMBER at once; NET is on. -/
theorem joinFabric_fabricView (s : State) : ∃ power, (s.power.mainOn = true → power.netOn = true) ∧
    fabricView (joinFabric s) =
      (s.mem, s.job, s.dict.cmds, power, s.now, if allTried s then 2 else 1, s.now, s.fabric.ifUp, s.fabric.mode, s.fabric.groups) := by
  refine ⟨if s.power.netOn then s.power else (switchNetOn s).power, fun hmain => ?_, ?_⟩
  · split
    · assumption
    · simp [switchNetOn, hmain]
  · unfold joinFabric
    dsimp only
    rw [startHandshakes_fabricView]
    by_cases hnet : s.power.netOn = true <;> by_cases htried : allTried s = true
    · rw [if_pos hnet, if_pos hnet, if_pos htried, checkMember, if_pos ⟨rfl, htried⟩]
      rfl
    · rw [if_pos hnet, if_pos hnet, if_neg htried, checkMember, if_neg (fun h => htried h.2)]
      rfl
    · rw [if_neg hnet, if_neg hnet, if_pos htried, checkMember, if_pos ⟨rfl, htried⟩]
      rfl
    · rw [if_neg hnet, if_neg hnet, if_neg htried, checkMember, if_neg (fun h => htried h.2)]
      rfl

/-- FABRIC_JOIN measures the module number, the fabric and the peer records, and joins (R485). -/
theorem fabricJoin_run {req : ReqId} {value : Nat} {s : State} (hacc : Accepted req 0x2A00 0x03 (leBytes 1 value) s) :
    exec (.fabricJoin req value) s = .next (joinFabric (measureBytes 10 10 (joinBytes s)
      (endCmd Ent.fabFabricJoin stOk 0 (actionStart req 0x2A00 0x03 s)))) := by
  have hbytes : joinBytes (actionStart req 0x2A00 0x03 s) = joinBytes s := by
    unfold joinBytes myModule
    rw [ent_congr (actionStart_values req 0x2A00 0x03 s) (actionStart_pins req 0x2A00 0x03 s),
      ent_congr (actionStart_values req 0x2A00 0x03 s) (actionStart_pins req 0x2A00 0x03 s), actionStart_frame]
  rw [← hbytes]
  exact congrArg Host.Outcome.next (cmdVia_accepted hacc)

theorem fabricJoin_effect {req : ReqId} {value : Nat} {s : State} (hacc : Accepted req 0x2A00 0x03 (leBytes 1 value) s) :
    ∃ t, exec (.fabricJoin req value) s = .next t ∧ EndedOk Ent.fabFabricJoin req s t ∧
      t.fabric.state = (if allTried s then 2 else 1) ∧ t.fabric.joinAt = s.now ∧ t.mem = s.mem ∧ t.job = s.job ∧
      (s.power.mainOn = true → t.power.netOn = true) := by
  have hended : EndedOk Ent.fabFabricJoin req s (endCmd Ent.fabFabricJoin stOk 0 (actionStart req 0x2A00 0x03 s)) :=
    endedOk_endCmd rfl rfl (actionStart_now req 0x2A00 0x03 s)
  refine ⟨_, fabricJoin_run hacc, ?_⟩
  rw [measureBytes_frame]
  obtain ⟨power, hnet, hview⟩ := joinFabric_fabricView
    { endCmd Ent.fabFabricJoin stOk 0 (actionStart req 0x2A00 0x03 s) with
      security := (measureBytes 10 10 (joinBytes s) (endCmd Ent.fabFabricJoin stOk 0 (actionStart req 0x2A00 0x03 s))).security }
  generalize joinFabric _ = t at hview ⊢
  simp only [fabricView, Prod.mk.injEq] at hview
  obtain ⟨hmem, hjob, hcmds, hpower, hnow, hstate, hjoin, -⟩ := hview
  refine ⟨(cmdOf_congr hcmds _).trans hended, ?_, ?_, ?_, ?_, fun hmain => ?_⟩
  · rw [hstate]
    unfold allTried sessUp sessOf
    rw [endCmd, actionStart_frame]
  · exact hjoin.trans (actionStart_now req 0x2A00 0x03 s)
  · exact hmem.trans (actionStart_mem req 0x2A00 0x03 s)
  · exact hjob.trans (actionStart_job req 0x2A00 0x03 s)
  · rw [hpower]
    refine hnet ?_
    rw [← hmain]
    exact congrArg (fun p : Power => p.mainOn) (actionStart_power req 0x2A00 0x03 s)

/-! Peers and groups. -/

theorem peerSet_run {req : ReqId} {value : List Byte} {s : State} (hacc : Accepted req 0x2A00 0x06 value s) :
    exec (.peerSet req value) s = .next (peerSetAction req value (actionStart req 0x2A00 0x06 s)) :=
  congrArg Host.Outcome.next (cmdVia_accepted hacc)

theorem peerSetAction_valid {req : ReqId} {value : List Byte} {s : State} (hout : s.fabric.state = 0)
    (hvalid : db (BitVec.ofNat 512 (ofLe value)) 0 51 = true) (hroom : s.fabric.peers.length < 4095) :
    peerSetAction req value s = endCmd Ent.fabPeerSet stOk 0 { s with fabric := { s.fabric with
      peers := alSet s.fabric.peers (df (BitVec.ofNat 512 (ofLe value)) 0 63 52) (BitVec.ofNat 512 (ofLe value)) } } := by
  unfold peerSetAction
  dsimp only
  rw [if_neg (by simp [hout]), if_neg (by simp [hvalid]), if_neg (by omega)]

theorem peerSetAction_removed {req : ReqId} {value : List Byte} {s : State} (hout : s.fabric.state = 0)
    (hgone : db (BitVec.ofNat 512 (ofLe value)) 0 51 = false) :
    peerSetAction req value s = endCmd Ent.fabPeerSet stOk 0 { s with fabric := { s.fabric with
      peers := alErase s.fabric.peers (df (BitVec.ofNat 512 (ofLe value)) 0 63 52) } } := by
  unfold peerSetAction
  dsimp only
  rw [if_neg (by simp [hout]), if_pos hgone]

/-! An interface that comes up. -/

theorem not_down {iface : Nat} {s : State} (h : s.fabric.ifUp.contains iface = true) : ¬s.fabric.ifUp.contains iface = false := by
  rw [h]
  decide

theorem freshPaths_fabricView (l : List FabSession) (s : State) : fabricView (l.foldl (fun s x =>
    if x.state = 2 ∧ (nextPathOf x s).isNone then drawFree (putSess { x with paths := makePaths x.peer s } s) else s) s) =
      fabricView s := by
  refine foldl_view fabricView _ (fun s x => ?_) l s
  split <;> rfl

theorem interfaceUp_effect {iface : Nat} {s : State} {m : Nat} (hi : iface < 16) (hnet : s.power.netOn = true)
    (hdown : s.fabric.ifUp.contains iface = false)
    (hm : m = (if (List.range 4).all (fun k => !s.fabric.ifUp.contains (4 * (iface / 4) + k)) then
      ent (Ent.portMode + 256 * (iface / 4)) s else s.fabric.mode.getD (iface / 4) 0))
    (hmode : iface % 4 < modeInterfaces m) :
    ∃ t, exec (.interfaceUp iface) s = .next t ∧ t.fabric.ifUp = insertSorted iface s.fabric.ifUp ∧
      t.fabric.mode = updAt s.fabric.mode (iface / 4) (fun _ => m) ∧ t.mem = s.mem ∧ t.job = s.job := by
  subst hm
  have hrun : ∃ t, execInterfaceUp iface s = .next t ∧ fabricView t = fabricView { s with fabric := { s.fabric with
      ifUp := insertSorted iface s.fabric.ifUp,
      mode := updAt s.fabric.mode (iface / 4) (fun _ =>
        if (List.range 4).all (fun k => !s.fabric.ifUp.contains (4 * (iface / 4) + k)) then
          ent (Ent.portMode + 256 * (iface / 4)) s else s.fabric.mode.getD (iface / 4) 0) } } := by
    unfold execInterfaceUp
    rw [if_neg (by omega)]
    dsimp only
    rw [if_neg (by simp only [hnet, hdown]; simpa using hmode)]
    exact ⟨_, rfl, (startHandshakes_fabricView _).trans ((pumpAll_fabricView _).trans (freshPaths_fabricView _ _))⟩
  obtain ⟨t, ht, hview⟩ := hrun
  simp only [fabricView, Prod.mk.injEq] at hview
  obtain ⟨hmem, hjob, -, -, -, -, -, hup, hmodes, -⟩ := hview
  exact ⟨t, ht, hup, hmodes, hmem, hjob⟩

end Sys2Proof.Machine

namespace Sys2Proof

open Sys2Proof.Machine

/-- Settles O50, clause by clause from what the commands do to the membership, the groups, the interfaces and the neighbours. -/
theorem fabricMembershipChanges : Obligations.FabricMembershipChanges := by
  unfold Obligations.FabricMembershipChanges
  refine ⟨?peerSet, ?peerRemoved, ?join, ?leaveOut, ?leave, ?group, ?up, ?learned, ?answered, ?answers, ?joinRun⟩
  case peerSet =>
    intro req value s r hacc hout hr hvalid hroom
    subst hr
    have hrun := peerSet_run hacc
    rw [peerSetAction_valid (by rw [actionStart_frame]; exact hout) hvalid (by rw [actionStart_frame]; exact hroom)] at hrun
    refine ⟨_, hrun, endedOk_endCmd rfl rfl (actionStart_now req 0x2A00 0x06 s), ?_⟩
    rw [actionStart_frame]
    rfl
  case peerRemoved =>
    intro req value s r hacc hout hr hgone
    subst hr
    have hrun := peerSet_run hacc
    rw [peerSetAction_removed (by rw [actionStart_frame]; exact hout) hgone] at hrun
    refine ⟨_, hrun, endedOk_endCmd rfl rfl (actionStart_now req 0x2A00 0x06 s), alGet_alErase_self _ _, ?_⟩
    rw [actionStart_frame]
    rfl
  case join => exact fun req value s hacc => fabricJoin_effect hacc
  case leaveOut =>
    intro req value s hacc hout
    have hout : (actionStart req 0x2A00 0x04 s).fabric.state = 0 := by rw [actionStart_frame]; exact hout
    refine ⟨endCmd Ent.fabFabricLeave stOk 0 (actionStart req 0x2A00 0x04 s),
      congrArg Host.Outcome.next ((cmdVia_accepted hacc).trans (if_pos hout)),
      endedOk_endCmd rfl rfl (actionStart_now req 0x2A00 0x04 s), ?_⟩
    rw [actionStart_frame]
    rfl
  case leave =>
    intro req value s hacc hin
    have hin : (actionStart req 0x2A00 0x04 s).fabric.state ≠ 0 := by rw [actionStart_frame]; exact hin
    exact congrArg Host.Outcome.next ((cmdVia_accepted hacc).trans (if_neg hin))
  case group =>
    intro req group value s hgroup hacc
    have hrun : exec (.ggroupEnable req group value) s =
        .next (ggroupEnableAction group req (leBytes 1 value) (writeStart req (0x2A30 + group) 2 s)) :=
      (if_neg (by omega)).trans (congrArg Host.Outcome.next (writeVia_accepted hacc))
    refine ⟨_, hrun, ?_⟩
    unfold ggroupEnableAction
    rw [ofLe_leBytes, writeStart_frame]
    refine ⟨?_, ?_, rfl⟩
    · exact (ent_setEnt_self _ 1 _ _).trans (Nat.mod_mod value 256)
    · simp only [setEnt, Bool.and_eq_true, beq_iff_eq, Nat.reduceMul, Nat.reducePow]
  case up =>
    intro iface s m hi hnet hdown hm hmode hport
    obtain ⟨t, hrun, hup, hmodes, hmem, hjob⟩ := interfaceUp_effect hi hnet hdown hm hmode
    refine ⟨t, hrun, hup, ?_, hmem, hjob⟩
    rw [hmodes, updAt_getD _ _ _ _ _ hport, if_pos rfl]
  case learned =>
    intro iface v6 target mac s hi hup
    exact (if_neg (by omega)).trans ((if_neg (not_down hup)).trans (if_neg (by decide)))
  case answered =>
    intro iface v6 target mac s hi hup hmoving htarget haddr
    refine ⟨_, (if_neg (by omega)).trans ((if_neg (not_down hup)).trans ((if_pos rfl).trans (if_neg (by simp [htarget, haddr])))), ?_⟩
    rw [if_pos rfl, putOut, if_neg (by simp [hmoving]), neighbourFrame, depart, haddr]
  case answers =>
    intro iface v6 target sender mac s u hi hup htarget haddr hu
    subst hu
    exact (if_neg (by omega)).trans ((if_neg (not_down hup)).trans ((if_pos rfl).trans (if_neg (by simp [htarget, haddr]))))
  case joinRun =>
    intro req value s u hacc hu
    subst hu
    exact fabricJoin_run hacc

end Sys2Proof
end

section
/-! SUPPORT and O51. Handshakes, and how sessions and operations of the fabric end (R457, R458, R462, R466, R468, R475). -/

namespace Sys2Proof.Machine

open Sys2Proof

section
variable {iface : Nat} {d : List Byte} {s : State} {p : Pkt}

/-- A handshake begun by a peer, with the fragments that have come. -/
def peersHandshake (p : Pkt) (now : Nat) (fs : List (Nat × List Byte)) : Handshake :=
  { initiator := false, gen := p.gen, startedAt := now, transcript := [], frags := fs, secret := [] }

/-- A HELLO that is whole is answered where it begins a handshake, or takes the place of this module's own (log 82). -/
theorem execHello_whole {fs : List (Nat × List Byte)} {msg : List Byte} (hi : iface < 16)
    (hup : s.fabric.ifUp.contains iface = true) (hpkt : handshakePkt 3 d s = some p)
    (hfresh : (sessOf p.src s).handshake = none ∧ handshakes s < 64 ∨ ∃ h, (sessOf p.src s).handshake = some h ∧ h.initiator = true)
    (hlower : p.src ≤ myModule s) (hwhole : joinFrags [] p d = (fs, some msg)) :
    exec (.hello iface d) s = .next (answerHello p.src p.gen msg (updSess p.src (fun x => { x with
      state := if x.state = 2 then 2 else 1, handshake := some (peersHandshake p s.now fs) }) s)) := by
  have hnot : decide (myModule s < p.src) = false := by simpa using hlower
  change execHello iface d s = _
  unfold execHello
  rw [if_neg (by omega), if_neg (not_down hup), hpkt]
  dsimp only
  rw [hnot, Bool.false_and, if_neg Bool.false_ne_true]
  rcases hfresh with ⟨hnone, hroom⟩ | ⟨h, hsome, hmine⟩
  · rw [hnone, if_neg (by simp [hroom])]
    dsimp only
    rw [if_neg (by simp), hwhole]
    rfl
  · have hnotTheirs : ¬(h.initiator = false ∧ h.gen = p.gen) := by simp [hmine]
    rw [hsome, if_neg (by simp)]
    simp only [if_neg hnotTheirs]
    rw [if_neg (by simp), hwhole]
    rfl

theorem execHello_dropped (hi : iface < 16) (hup : s.fabric.ifUp.contains iface = true) (hpkt : handshakePkt 3 d s = some p)
    (hmine : (sessOf p.src s).handshake.any (fun h => h.initiator) = true) (hhigher : myModule s < p.src) :
    exec (.hello iface d) s = .next s := by
  change execHello iface d s = _
  unfold execHello
  rw [if_neg (by omega), if_neg (not_down hup), hpkt]
  dsimp only
  rw [hmine, if_pos (by simp [hhigher]), if_pos rfl]

theorem execHello_own (hi : iface < 16) (hup : s.fabric.ifUp.contains iface = true) (hpkt : handshakePkt 3 d s = some p)
    (hnone : (sessOf p.src s).handshake = none) (hhigher : myModule s < p.src) (hroom : handshakes s < 64) :
    exec (.hello iface d) s = .next (startHandshake p.src s) := by
  change execHello iface d s = _
  unfold execHello
  rw [if_neg (by omega), if_neg (not_down hup), hpkt]
  dsimp only
  rw [hnone, if_pos (by simp [hhigher, hroom]), if_neg (by simp)]

theorem execHello_full (hi : iface < 16) (hup : s.fabric.ifUp.contains iface = true) (hpkt : handshakePkt 3 d s = some p)
    (hnone : (sessOf p.src s).handshake = none) (hfull : 64 ≤ handshakes s) : exec (.hello iface d) s = .next s := by
  change execHello iface d s = _
  unfold execHello
  rw [if_neg (by omega), if_neg (not_down hup), hpkt]
  dsimp only
  rw [hnone, if_neg (by simp; omega), if_pos ⟨rfl, hfull⟩]

theorem execAccept_whole {h : Handshake} {fs : List (Nat × List Byte)} {msg : List Byte} (hi : iface < 16)
    (hup : s.fabric.ifUp.contains iface = true) (hpkt : handshakePkt 4 d s = some p) (hsome : (sessOf p.src s).handshake = some h)
    (hmine : h.initiator = true) (hgen : h.gen = p.gen) (hwhole : joinFrags h.frags p d = (fs, some msg)) :
    exec (.accept iface d) s =
      .next (takeAccept p.src h msg (updSess p.src (fun x => { x with handshake := some { h with frags := fs } }) s)) := by
  change execAccept iface d s = _
  unfold execAccept
  rw [if_neg (by omega), if_neg (not_down hup), hpkt]
  dsimp only
  rw [hsome]
  dsimp only
  rw [if_neg (by simp [hmine, hgen]), hwhole]

theorem execFinish_up {h : Handshake} {keys pt : List Byte} (hi : iface < 16)
    (hup : s.fabric.ifUp.contains iface = true) (hpkt : handshakePkt 2 d s = some p) (hsome : (sessOf p.src s).handshake = some h)
    (htheirs : h.initiator = false) (hsecret : h.secret ≠ []) (hgen : h.gen = p.gen) (hepoch : p.epoch = 0) (hpsn : p.psn = 0)
    (hkeys : keys = sessionKeys h.gen h.secret h.transcript s) (hopen : openPkt keys true p d = some pt) :
    exec (.finish iface d) s = .next (pump p.src (updSess p.src
      (notePacket p 0 (count Cnt.packetsReceived 1 (sessionUp p.src h.gen false keys s)).now false false)
        (count Cnt.packetsReceived 1 (sessionUp p.src h.gen false keys s)))) := by
  subst hkeys
  change execFinish iface d s = _
  unfold execFinish
  rw [if_neg (by omega), if_neg (not_down hup), hpkt]
  dsimp only
  rw [hsome]
  dsimp only
  rw [if_neg (by simp only [htheirs, hsecret, hgen, hepoch, hpsn]; rw [← hgen, hopen]; simp)]

end

/-! Operations that run out of time. -/

/-- An operation has run out of its time, from its first sending, or without a session from its issue (R468). -/
def opDue (x : FabSession) (s : State) (o : FabOp) : Bool :=
  o.firstSent.elim (x.state != 2 && decide (o.issuedAt + opLimit o s ≤ s.now)) (fun t => decide (t + opLimit o s ≤ s.now))

/-- OP_TIMEOUT ends the oldest operation that waits and has run out of its time. -/
theorem execOpTimeout_waiting {peer : Nat} {s : State} {o : FabOp}
    (hfind : (sessOf peer s).waiting.find? (opDue (sessOf peer s) s) = some o) :
    exec (.opTimeout peer 0) s = .next (tryLeave (retryGlobals (opFailed o stTimeout 0
      (if o.unit = .global then putSess { sessOf peer s with waiting := (sessOf peer s).waiting.erase o } s
        else count Cnt.opsTimedOut 1 (putSess { sessOf peer s with waiting := (sessOf peer s).waiting.erase o } s))))) := by
  change execOpTimeout peer 0 s = _
  unfold execOpTimeout
  extract_lets x due
  have hdue : due = opDue x s := funext fun o => by
    simp only [due, opDue]
    cases o.firstSent <;> rfl
  rw [if_pos rfl, hdue, hfind]

/-- OP_TIMEOUT ends an operation in flight, which keeps its place where a packet carries it (R468). -/
theorem execOpTimeout_inFlight {peer seq : Nat} {s : State} {o : FabOp} (hseq : seq ≠ 0)
    (hfind : (sessOf peer s).ops.find? (fun o => o.seq == seq && o.unit != .global && opDue (sessOf peer s) s o) = some o) :
    exec (.opTimeout peer seq) s = .next (tryLeave (retryGlobals (pump peer (opFailed o stTimeout 0 (count Cnt.opsTimedOut 1 (putSess
      { sessOf peer s with ops :=
          if o.queued || (sessOf peer s).sent.any (fun p => p.ops.contains seq) then
            (sessOf peer s).ops.map (fun q => if q.seq = seq then { q with unit := .global } else q)
          else (sessOf peer s).ops.filter (fun q => q.seq != seq) } s)))))) := by
  change execOpTimeout peer seq s = _
  unfold execOpTimeout
  extract_lets x due
  have hdue : due = opDue x s := funext fun o => by
    simp only [due, opDue]
    cases o.firstSent <;> rfl
  rw [if_neg hseq, hdue, hfind]

end Sys2Proof.Machine

namespace Sys2Proof

open Sys2Proof.Machine

/-- Settles O51, clause by clause from what the handshake's messages and the timers do. -/
theorem fabricSessionsOpenAndEnd : Obligations.FabricSessionsOpenAndEnd := by
  unfold Obligations.FabricSessionsOpenAndEnd
  refine ⟨?hello, ?helloDropped, ?accept, ?finish, ?failed, ?running, ?retry, ?close, ?dead, ?alive, ?waiting, ?ended, ?carried,
    ?limit, ?own, ?crossed⟩
  case hello =>
    intro iface d s p x fs msg hi hup hpkt hx hnone hlower hroom hwhole
    subst hx
    exact ⟨_, rfl, execHello_whole hi hup hpkt (.inl ⟨hnone, hroom⟩) hlower hwhole⟩
  case helloDropped => exact fun iface d s p hi hup hpkt hmine hhigher => execHello_dropped hi hup hpkt hmine hhigher
  case accept =>
    exact fun iface d s p h fs msg hi hup hpkt hsome hmine hgen hwhole =>
      ⟨_, rfl, execAccept_whole hi hup hpkt hsome hmine hgen hwhole⟩
  case finish =>
    exact fun iface d s p h keys pt hi hup hpkt hsome htheirs hsecret hgen hepoch hpsn hkeys hopen =>
      ⟨_, rfl, execFinish_up hi hup hpkt hsome htheirs hsecret hgen hepoch hpsn hkeys hopen⟩
  case failed =>
    intro peer s h hsome hdue
    change execHandshakeTimeout peer s = _
    rw [execHandshakeTimeout, hsome]
    exact if_pos hdue
  case running =>
    intro peer s h hsome hearly
    change execHandshakeTimeout peer s = _
    rw [execHandshakeTimeout, hsome]
    exact if_neg (by omega)
  case retry =>
    intro peer s hmember hpeer hstate hnone hdue hroom
    exact congrArg Host.Outcome.next (if_pos ⟨.inr hmember, hpeer, hstate, by simp [hnone], hdue, hroom⟩)
  case close =>
    intro iface d s p pt hi hup hauth
    change execCloseRx iface d s = _
    rw [execCloseRx, if_neg (by omega), if_neg (not_down hup), hauth]
  case dead => exact fun peer s hstate hdue => congrArg Host.Outcome.next (if_pos ⟨hstate, hdue⟩)
  case alive => exact fun peer s hstate hearly => congrArg Host.Outcome.next (if_neg (by omega))
  case waiting =>
    intro peer s x o hx hfind
    subst hx
    exact execOpTimeout_waiting hfind
  case ended =>
    intro peer seq s x o hx hseq hfind hqueued hcarried
    subst hx
    have hrun := execOpTimeout_inFlight hseq hfind
    rwa [hqueued, hcarried, Bool.or_false, if_neg Bool.false_ne_true] at hrun
  case carried =>
    intro peer seq s x o hx hseq hfind hcarried
    subst hx
    have hrun := execOpTimeout_inFlight hseq hfind
    rwa [if_pos (by simpa only [Bool.or_eq_true] using hcarried)] at hrun
  case limit => exact fun o s => rfl
  case own =>
    intro iface d s p hi hup hpkt hnone
    exact ⟨execHello_own hi hup hpkt hnone, execHello_full hi hup hpkt hnone⟩
  case crossed =>
    intro iface d s p h fs msg hi hup hpkt hsome hmine hlower hwhole
    exact ⟨_, rfl, execHello_whole hi hup hpkt (.inr ⟨h, hsome, hmine⟩) (by omega) hwhole⟩

end Sys2Proof
end

section
/-! SUPPORT and O52. The packets of the fabric, their acknowledgements and the transport's timers (R459 to R465, R475). -/

namespace Sys2Proof.Machine

open Sys2Proof

section
variable {iface : Nat} {ce : Bool} {d : List Byte} {s : State} {p : Pkt} {pt : List Byte}

/-- A datagram that is no authentic packet is dropped and counted. -/
theorem notAuthentic_dropped (hi : iface < 16) (hup : s.fabric.ifUp.contains iface = true) (ce : Bool) :
    (authentic 1 d s = none → exec (.fabricDataRx iface ce d) s = .next (count Cnt.packetsDropped 1 s)) ∧
    (authentic 2 d s = none → exec (.fabricAckRx iface ce d) s = .next (count Cnt.packetsDropped 1 s)) ∧
    (authentic 5 d s = none → exec (.closeRx iface d) s = .next (count Cnt.packetsDropped 1 s)) := by
  refine ⟨fun h => ?_, fun h => ?_, fun h => ?_⟩
  · change execFabricDataRx iface ce d s = _
    rw [execFabricDataRx, if_neg (by omega), if_neg (not_down hup), h]
    rfl
  · change execFabricAckRx iface ce d s = _
    rw [execFabricAckRx, if_neg (by omega), if_neg (not_down hup), h]
    rfl
  · change execCloseRx iface d s = _
    rw [execCloseRx, if_neg (by omega), if_neg (not_down hup), h]
    rfl

theorem execFabricDataRx_taken {rs : List (List Byte)} {psn : Nat} (hi : iface < 16) (hup : s.fabric.ifUp.contains iface = true)
    (hauth : authentic 1 d s = some (p, pt)) (hrecords : recordsOf (pt.length + 1) pt = some rs)
    (hpsn : psn = extend32 (sessOf p.src s).ackPsn p.psn) (hnew : (sessOf p.src s).ackPsn ≤ psn)
    (hfirst : (sessOf p.src s).received.contains psn = false) (hwindow : inWindow (sessOf p.src s) rs = true) :
    exec (.fabricDataRx iface ce d) s = .next (pump p.src (takeAck p.src p (count Cnt.packetsReceived 1
      (updSess p.src (fun x => rs.foldl (takeRecord p.cls s.updates.epoch s.now) (notePacket p psn s.now ce true x)) s)))) := by
  subst hpsn
  change execFabricDataRx iface ce d s = _
  unfold execFabricDataRx
  rw [if_neg (by omega), if_neg (not_down hup), hauth]
  dsimp only
  rw [hrecords]
  dsimp only
  rw [if_neg (by rw [hfirst]; simp; omega), hwindow, if_neg (by decide)]

theorem execFabricDataRx_repeated {rs : List (List Byte)} {psn : Nat} (hi : iface < 16) (hup : s.fabric.ifUp.contains iface = true)
    (hauth : authentic 1 d s = some (p, pt)) (hrecords : recordsOf (pt.length + 1) pt = some rs)
    (hpsn : psn = extend32 (sessOf p.src s).ackPsn p.psn) (hold : psn < (sessOf p.src s).ackPsn) :
    exec (.fabricDataRx iface ce d) s = .next (updSess p.src (fun x => { x with ackNow := true, lastRx := s.now })
      (pump p.src (takeAck p.src p (count Cnt.packetsReceived 1 s)))) := by
  subst hpsn
  change execFabricDataRx iface ce d s = _
  unfold execFabricDataRx
  rw [if_neg (by omega), if_neg (not_down hup), hauth]
  dsimp only
  rw [hrecords]
  exact if_pos (.inl hold)

theorem execFabricAckRx_taken (hi : iface < 16) (hup : s.fabric.ifUp.contains iface = true)
    (hauth : authentic 2 d s = some (p, pt)) :
    exec (.fabricAckRx iface ce d) s = .next (pump p.src (takeAck p.src p (count Cnt.packetsReceived 1
      (updSess p.src (fun x => { notePacket p (extend32 (sessOf p.src s).ackPsn p.psn) s.now ce false x with
        ackNow := (notePacket p (extend32 (sessOf p.src s).ackPsn p.psn) s.now ce false x).ackNow || p.ackReq ||
          decide (x.received.foldl Nat.max (x.ackPsn - 1) + 1 < extend32 (sessOf p.src s).ackPsn p.psn) }) s)))) := by
  change execFabricAckRx iface ce d s = _
  rw [execFabricAckRx, if_neg (by omega), if_neg (not_down hup), hauth]

end

/-- A packet that has gone unanswered for the retransmission timeout is lost (R463 to R465). -/
theorem execRetransmitTimeout_lost {peer psn : Nat} {s : State} {p : FabSent}
    (hfind : (sessOf peer s).sent.find? (fun p => p.psn == psn && decide (p.at_ + rtoOf (sessOf peer s) s ≤ s.now)) = some p) :
    exec (.retransmitTimeout peer psn) s = .next (pump peer (putSess { losePacket p (sessOf peer s) with
      cwnd := Nat.max 9216 (Nat.min ((sessOf peer s).cwnd / 2) (1024 * ent Ent.fabCwndMaxKib s)),
      paths := updAt (sessOf peer s).paths p.path (fun q => { q with timeouts := q.timeouts + 1 }) }
        (count Cnt.rtoEvents 1 (count Cnt.retransmits (lostOps p (sessOf peer s)) s)))) := by
  change execRetransmitTimeout peer psn s = _
  unfold execRetransmitTimeout
  dsimp only
  rw [hfind]
  rfl

/-- With no congestion echoed CWND grows by one MTU within its bounds (R464). -/
theorem execCwndUpdate_grows {peer : Nat} {s : State} (hup : (sessOf peer s).state = 2) (hrtt : (sessOf peer s).hasRtt = true)
    (hdue : (sessOf peer s).cwndAt + (sessOf peer s).srtt ≤ s.now) (hacked : (sessOf peer s).eceAcked = 0)
    (hseen : (sessOf peer s).eceSeen = false) :
    exec (.cwndUpdate peer) s = .next (pump peer (putSess { sessOf peer s with
      alpha := 15 * (sessOf peer s).alpha / 16, acked := 0, eceAcked := 0, cwndAt := s.now,
      cwnd := Nat.max 9216 (Nat.min ((sessOf peer s).cwnd + ent Ent.fabFabricMtu s) (1024 * ent Ent.fabCwndMaxKib s)) } s)) := by
  have hshare : (if (sessOf peer s).acked = 0 then 0 else 65536 * (sessOf peer s).eceAcked / (sessOf peer s).acked) = 0 := by
    rw [hacked]
    simp
  change execCwndUpdate peer s = _
  unfold execCwndUpdate
  dsimp only
  rw [if_neg (by simp [hup, hrtt]; omega), hshare, hseen]
  rfl

/-- A path leaves an interface that went down (R465). -/
theorem execPathMove_down {peer path : Nat} {s u : State} {q : FabPath} (hpath : path < 4)
    (hq : (sessOf peer s).paths[path]? = some q)
    (hu : u = { s with fabric := { s.fabric with ifUp := s.fabric.ifUp.filter (· != q.iface) } }) :
    exec (.pathMove peer path true) s = if peerIfaces peer u = [] then .next u else
      .next (pump peer (count Cnt.pathMoves 1 (updSess peer (fun x => { x with
        paths := updAt x.paths path (fun q => { q with iface := leastUsed x (peerIfaces peer u), timeouts := 0 }) }) u))) := by
  subst hu
  change execPathMove peer path true s = _
  unfold execPathMove
  rw [if_neg (by omega), hq]
  dsimp only
  rw [if_pos rfl]
  split
  · rename_i h
    rw [if_pos h]
  · rename_i h
    rw [if_neg h]

end Sys2Proof.Machine

namespace Sys2Proof

open Sys2Proof.Machine

/-- Settles O52, clause by clause from what the packets and the timers do. -/
theorem fabricPacketsAndTimersAct : Obligations.FabricPacketsAndTimersAct := by
  unfold Obligations.FabricPacketsAndTimersAct
  refine ⟨?taken, ?repeated, ?dropped, ?ack, ?ackTimer, ?keepalive, ?lost, ?cwnd, ?rekey, ?noPath, ?moved⟩
  case taken =>
    exact fun iface ce d s p pt rs psn hi hup hauth hrecords hpsn hnew hfirst hwindow =>
      ⟨_, rfl, execFabricDataRx_taken hi hup hauth hrecords hpsn hnew hfirst hwindow⟩
  case repeated =>
    exact fun iface ce d s p pt rs psn hi hup hauth hrecords hpsn hold => execFabricDataRx_repeated hi hup hauth hrecords hpsn hold
  case dropped => exact fun iface ce d s hi hup => notAuthentic_dropped hi hup ce
  case ack => exact fun iface ce d s p pt hi hup hauth => ⟨_, rfl, execFabricAckRx_taken hi hup hauth⟩
  case ackTimer => exact fun peer s hstill hup hdue => congrArg Host.Outcome.next (if_pos ⟨hstill, hup, hdue⟩)
  case keepalive =>
    intro peer s hstill hup hops hdue
    have hempty : (sessOf peer s).ops.isEmpty = true := by simp [hops]
    exact congrArg Host.Outcome.next (if_pos ⟨hstill, hup, hempty, hdue⟩)
  case lost =>
    intro peer psn s x p hx hfind
    subst hx
    exact ⟨_, rfl, execRetransmitTimeout_lost hfind⟩
  case cwnd =>
    intro peer s x hx hup hrtt hdue hacked hseen
    subst hx
    exact execCwndUpdate_grows hup hrtt hdue hacked hseen
  case rekey =>
    intro peer s x hx hup hdue
    subst hx
    exact congrArg Host.Outcome.next (if_pos ⟨hup, hdue⟩)
  case noPath => exact fun peer path s q u hpath hq hu hnone => (execPathMove_down hpath hq hu).trans (if_pos hnone)
  case moved => exact fun peer path s q u hpath hq hu hsome => ⟨_, rfl, (execPathMove_down hpath hq hu).trans (if_neg hsome)⟩

end Sys2Proof
end

section
/-! SUPPORT and O53. What a module serves for another: memory, lookups, rows and batches (R97, R130, R131, R467 to R470). -/

namespace Sys2Proof.Machine

open Sys2Proof

section
variable {peer seq : Nat} {s : State} {o : RxOp}

/-! Memory. -/

theorem execFabricLoadServe_denied (hop : servedOp peer seq 1 s = some o) (hwindow : windowOk o.o1.toNat (leAt o.body 0 4) s = false) :
    exec (.fabricLoadServe peer seq) s = .next (answerStatus peer o stDenied 2 s) := by
  change execFabricLoadServe peer seq s = _
  rw [execFabricLoadServe, hop]
  exact congrArg Host.Outcome.next (if_pos (.inl hwindow))

theorem execFabricStoreServe_denied (hop : servedOp peer seq 2 s = some o) (hwindow : windowOk o.o1.toNat o.body.length s = false) :
    exec (.fabricStoreServe peer seq) s = .next (answerStatus peer o stDenied 2 s) := by
  change execFabricStoreServe peer seq s = _
  rw [execFabricStoreServe, hop]
  exact congrArg Host.Outcome.next (if_pos (.inl hwindow))

theorem execFabricSignalServe_denied (hop : servedOp peer seq 4 s = some o) (hwindow : windowOk o.o1.toNat 8 s = false) :
    exec (.fabricSignalServe peer seq) s = .next (answerStatus peer o stDenied 2 s) := by
  change execFabricSignalServe peer seq s = _
  rw [execFabricSignalServe, hop]
  exact congrArg Host.Outcome.next (if_pos hwindow)

theorem execFabricLoadServe_answered (hop : servedOp peer seq 1 s = some o)
    (hwindow : windowOk o.o1.toNat (leAt o.body 0 4) s = true) (hsize : leAt o.body 0 4 ≤ 4096)
    (hcheck : memCheck o.o1.toNat (leAt o.body 0 4) .read s = .ok) :
    exec (.fabricLoadServe peer seq) s = .next (answer peer o 0x81 (devRead s o.o1.toNat (leAt o.body 0 4))
      (noteDmaRead o.o1.toNat (leAt o.body 0 4) (hubAccess o.o1.toNat (leAt o.body 0 4) s))) := by
  change execFabricLoadServe peer seq s = _
  rw [execFabricLoadServe, hop]
  dsimp only
  rw [if_neg (by rw [hwindow]; simp; omega), hcheck]

/-- A STORE within the window, by what its translation finds. -/
theorem execFabricStoreServe_window (hop : servedOp peer seq 2 s = some o)
    (hwindow : windowOk o.o1.toNat o.body.length s = true) (hsize : o.body.length ≤ 4096) :
    exec (.fabricStoreServe peer seq) s = .next (
      if memCheck o.o1.toNat o.body.length .write s = .ok then
        answer peer o 0x82 [] (devWrite o.o1.toNat o.body (hubAccess o.o1.toNat o.body.length s))
      else serveStall peer seq .write (memCheck o.o1.toNat o.body.length .write s) s) := by
  change execFabricStoreServe peer seq s = _
  rw [execFabricStoreServe, hop]
  dsimp only
  rw [if_neg (by rw [hwindow]; simp; omega)]
  split
  · rename_i h
    rw [if_pos h]
  · rename_i h
    rw [if_neg h]

theorem execFabricSignalServe_answered (hop : servedOp peer seq 4 s = some o) (hwindow : windowOk o.o1.toNat 8 s = true)
    (hcheck : memCheck o.o1.toNat 8 .atomic s = .ok) :
    exec (.fabricSignalServe peer seq) s = .next (answer peer o 0x82 []
      (hitchSignal o.o1.toNat (o.subop == 1) (leAt o.body 0 8) (hubAccess o.o1.toNat 8 s))) := by
  change execFabricSignalServe peer seq s = _
  rw [execFabricSignalServe, hop]
  dsimp only
  rw [if_neg (by simp [hwindow]), hcheck]

theorem execFabricAtomicServe_single (hop : servedOp peer seq 3 s = some o)
    (hlinked : linkedOps 4 (sessOf peer s) seq = some [o]) (hunit : unitOk [o] = true) (hwindow : windowOk o.o1.toNat 8 s = true)
    (hcheck : memCheck (o.o1.toNat / 4096 * 4096) 4096 .atomic s = .ok) :
    exec (.fabricAtomicServe peer seq) s = .next (serveWord peer o (hubAccess o.o1.toNat 8 s)) := by
  change execFabricAtomicServe peer seq s = _
  rw [execFabricAtomicServe, hop]
  dsimp only
  rw [hlinked]
  dsimp only
  rw [if_neg (by simp [hunit]), if_neg (by simp [hwindow]), hcheck, List.foldl_cons, List.foldl_nil]

/-! Lookups. -/

theorem execFabricLookupServe_noTable (hop : servedOp peer seq 5 s = some o)
    (hnew : s.lookup.jobs.any (fun j => j.serves == some (peer, seq)) = false)
    (htable : tableOf (field o.o1.toNat 63 52) s = none) :
    exec (.fabricLookupServe peer seq) s = .next (count Cnt.remoteDenied 1 (answerStatus peer o stDenied 3 s)) := by
  change execFabricLookupServe peer seq s = _
  rw [execFabricLookupServe, hop]
  dsimp only
  rw [if_neg (by simp [hnew]), htable]

/-- A lookup that is allowed is a new job, which answers for the request. -/
theorem execFabricLookupServe_issued {tb : Desc} (hop : servedOp peer seq 5 s = some o)
    (hnew : s.lookup.jobs.any (fun j => j.serves == some (peer, seq)) = false)
    (htable : tableOf (field o.o1.toNat 63 52) s = some tb) (hallowed : lookupDenied peer o.o1.toNat s = 0) (hbody : o.body = []) :
    ∃ t j, exec (.fabricLookupServe peer seq) s = .next t ∧ t.lookup.jobs = s.lookup.jobs ++ [j] ∧
      j.serves = some (peer, seq) ∧ t.lookup.nextId = s.lookup.nextId + 1 := by
  change ∃ t j, execFabricLookupServe peer seq s = _ ∧ _
  rw [execFabricLookupServe, hop]
  dsimp only
  rw [if_neg (by simp [hnew]), htable]
  dsimp only
  rw [if_neg (by simp [hallowed]), hbody]
  exact ⟨_, _, rfl, rfl, rfl, rfl⟩

/-! Rows and batches. -/

theorem execFabricRowStage_eq (hop : rxOpOf peer seq 6 s = some o) :
    exec (.fabricRowStage peer seq) s = .next (match stageRemoteRow peer o.subop (field o.o1.toNat 63 52) o.body s with
      | .staged u => answer peer o 0x82 [] u
      | .refuse st reason => answerStatus peer o st reason s
      | .wait => if waitedFor o (ent Ent.deferLimitNs s) s then answerStatus peer o stDeferred 0 s else noteWait peer seq s) := by
  change execFabricRowStage peer seq s = _
  rw [execFabricRowStage, hop]
  dsimp only
  split <;> rename_i h <;> rw [h]

/-- A row for a module that imports none, from one that is no member, or of a table that is not exported is refused (R130). -/
theorem stageRemoteRow_refused {batch tableId : Nat} {body : List Byte}
    (h : ent Ent.importWrites s = 0 ∨ isMember peer s = false ∨ (tableOf tableId s).all (fun t => !tExport t) = true) :
    stageRemoteRow peer batch tableId body s = .refuse stDenied 3 := by
  unfold stageRemoteRow
  cases htable : tableOf tableId s with
  | none => rfl
  | some t =>
    rw [htable] at h
    simp only [Option.all_some, Bool.not_eq_true'] at h
    exact if_pos (h.imp id Or.symm)

theorem execFabricBatchCommit_published {b : RemoteBatch} (hop : rxOpOf peer seq 7 s = some o)
    (hbatch : s.updates.remoteBatches.find? (fun b => b.peer == peer && b.batch == o.subop) = some b)
    (hrows : b.rows = leAt o.body 0 4) (hreaders : readersOf (s.updates.epoch - 1) s = 0) :
    exec (.fabricBatchCommit peer seq) s = .next (answer peer o 0x87 (leBytes 8 (publishBatch (16 + b.num) s).updates.epoch)
      { publishBatch (16 + b.num) s with updates := { (publishBatch (16 + b.num) s).updates with
        remoteBatches := (publishBatch (16 + b.num) s).updates.remoteBatches.filter (fun x => x.num != b.num) } }) := by
  change execFabricBatchCommit peer seq s = _
  rw [execFabricBatchCommit, hop]
  dsimp only
  rw [hbatch]
  dsimp only
  rw [if_neg (by simp [hrows]), if_neg (by simp [hreaders])]

end

end Sys2Proof.Machine

namespace Sys2Proof

open Sys2Proof.Machine

/-- Settles O53, clause by clause from what each row serves. -/
theorem fabricRequestsAreServed : Obligations.FabricRequestsAreServed := by
  unfold Obligations.FabricRequestsAreServed
  refine ⟨?denied, ?load, ?store, ?absent, ?signal, ?atomic, ?noTable, ?lookup, ?row, ?rowRefused, ?commit, ?abort, ?response⟩
  case denied =>
    intro peer seq s o k i hop hk hrow
    rcases hrow with ⟨rfl, rfl, hwindow⟩ | ⟨rfl, rfl, hwindow⟩ | ⟨rfl, rfl, hwindow⟩
    · exact execFabricLoadServe_denied hop hwindow
    · exact execFabricStoreServe_denied hop hwindow
    · exact execFabricSignalServe_denied hop hwindow
  case load =>
    intro peer seq s o va n hop hva hn hwindow hsize hcheck
    subst hva hn
    exact execFabricLoadServe_answered hop hwindow hsize hcheck
  case store =>
    intro peer seq s o va hop hva hwindow hsize hcheck
    subst hva
    rw [execFabricStoreServe_window hop hwindow hsize, if_pos hcheck]
  case absent =>
    intro peer seq s o va page hop hva hwindow hsize hcheck
    subst hva
    rw [execFabricStoreServe_window hop hwindow hsize, hcheck, if_neg (by simp)]
  case signal => exact fun peer seq s o hop hwindow hcheck => execFabricSignalServe_answered hop hwindow hcheck
  case atomic =>
    exact fun peer seq s o hop hlinked hunit hwindow hcheck =>
      ⟨_, _, rfl, rfl, execFabricAtomicServe_single hop hlinked hunit hwindow hcheck⟩
  case noTable => exact fun peer seq s o hop hnew htable => execFabricLookupServe_noTable hop hnew htable
  case lookup =>
    intro peer seq s o tb hop hnew htable hallowed hbody
    obtain ⟨t, j, hrun, hjobs, hserves, hid⟩ := execFabricLookupServe_issued hop hnew htable hallowed hbody
    refine ⟨t, hrun, ?_, hid, ?_⟩
    · rw [hjobs, List.length_append, List.length_singleton]
    · rw [hjobs]
      simp [hserves]
  case row => exact fun peer seq s o hop => execFabricRowStage_eq hop
  case rowRefused =>
    intro peer seq s o hop hrefused
    rw [execFabricRowStage_eq hop, stageRemoteRow_refused hrefused]
  case commit =>
    exact fun peer seq s o b hop hbatch hrows hreaders =>
      ⟨_, _, rfl, rfl, execFabricBatchCommit_published hop hbatch hrows hreaders⟩
  case abort =>
    intro peer seq s o hop
    change execFabricBatchAbort peer seq s = _
    rw [execFabricBatchAbort, hop]
  case response =>
    intro peer record s x hx hin hresponse
    subst hx
    exact if_neg (by rw [hin]; simp; omega)

end Sys2Proof
end

section
/-! SUPPORT and O54. Fabric descriptors and the global operations of a group (R471, R472). -/

namespace Sys2Proof.Machine

open Sys2Proof

/-- A descriptor in its turn, on a core that works, goes to the fabric engine under its own row. -/
theorem takeFab_taken {opcode subop core : Nat} {desc : Desc} {org : Origin} {s : State} (hcore : core < 98)
    (hturn : inTurn core desc org s = true) (hworks : (matOf core (takeIssued core desc org s)).failed = false)
    (hop : df desc 0 63 56 = opcode) (hsub : opcode = 0x61 → df desc 0 55 53 = subop) :
    takeFab opcode subop core desc org s = .next (takeFabDesc core desc org (takeIssued core desc org s)) := by
  have hown : ¬(df desc 0 63 56 ≠ opcode ∨ (opcode = 0x61 ∧ df desc 0 55 53 ≠ subop)) := by
    rintro (h | ⟨h, hne⟩)
    · exact h hop
    · exact hne (hsub h)
  unfold takeFab
  rw [if_neg (by omega), if_neg (by simp [hturn])]
  dsimp only
  rw [if_neg (by rw [hworks]; exact Bool.false_ne_true), if_neg hown]

theorem takeFab_waits {core : Nat} {desc : Desc} {org : Origin} {s : State} (hcore : core < 98)
    (hturn : inTurn core desc org s = false) (opcode subop : Nat) :
    takeFab opcode subop core desc org s = .next (holdIssued core desc org s) := by
  unfold takeFab
  rw [if_neg (by omega), if_pos hturn]

/-- An arrival from a child of this module in the group's tree is noted (R472). -/
theorem execGlobalOperationRx_arrival {peer : Nat} {record : List Byte} {s : State} {g gseq : Nat}
    (hg : g = field (recO1 record).toNat 63 60) (hgseq : gseq = field (recO1 record).toNat 31 0)
    (hin : (sessOf peer s).inbox.contains record = true) (hop : recOpcode record = 9)
    (hgroup : (s.fabric.groups.getD g GGroup.reset).enabled = true) (hchild : (childModules g (myModule s) s).contains peer = true) :
    exec (.globalOperationRx peer record) s = .next (tryGlobal g gseq
      { putSess { sessOf peer s with inbox := (sessOf peer s).inbox.erase record } s with
        fabric := { (putSess { sessOf peer s with inbox := (sessOf peer s).inbox.erase record } s).fabric with
          groups := updAt (putSess { sessOf peer s with inbox := (sessOf peer s).inbox.erase record } s).fabric.groups g
            (fun y => { y with arrivals := y.arrivals ++ [(peer, gseq, recSubop record)] }) } }) := by
  subst hg hgseq
  change execGlobalOperationRx peer record s = _
  unfold execGlobalOperationRx
  dsimp only
  rw [if_neg (by rw [hin, hop, hgroup]; simp), if_pos hchild]

/-! A group whose operation has run out of time. -/

theorem endFabDesc_groups (id status reason w2 : Nat) (s : State) :
    (endFabDesc id status reason w2 s).fabric.groups = s.fabric.groups := by
  unfold endFabDesc
  split
  · rfl
  · simp only [fabStatus, sramWrite_fabric]

theorem completeGlobal_groups (f : FabDesc) (status reason bytes : Nat) (s : State) :
    (completeGlobal f status reason bytes s).fabric.groups = s.fabric.groups := by
  unfold completeGlobal
  dsimp only
  split
  · rw [endFabDesc_groups, wbSubmit_frame]
    rfl
  · rw [endFabDesc_groups]
    rfl

theorem completeGlobals_groups (l : List FabDesc) (s : State) :
    (l.foldl (fun s f => completeGlobal f stTimeout 0 0 (slotFree (myModule s) (descSlotKey f.id) s)) s).fabric.groups =
      s.fabric.groups :=
  foldl_view (fun s : State => s.fabric.groups) _ (fun s f => completeGlobal_groups f stTimeout 0 0 (slotFree (myModule s) (descSlotKey f.id) s)) l s

theorem execGlobalTimeout_blocks {group : Nat} {s : State} {f : FabDesc} (hgroup : group < 16) (hlen : group < s.fabric.groups.length)
    (hf : f ∈ s.fabric.descs) (hheld : f.held = false) (hop : df f.desc 0 63 56 = 0x61) (hg : df f.desc 0 50 47 = group)
    (hlate : f.issuedAt + ent Ent.fabGlobalTimeoutNs s ≤ s.now) :
    ∃ t, exec (.globalTimeout group) s = .next t ∧ (t.fabric.groups.getD group GGroup.reset).blocked = true := by
  have hsome : ¬(s.fabric.descs.filter (fun f => !f.held && df f.desc 0 63 56 == 0x61 && df f.desc 0 50 47 == group &&
      decide (f.issuedAt + ent Ent.fabGlobalTimeoutNs s ≤ s.now))).isEmpty = true := by
    rw [List.isEmpty_iff]
    exact List.ne_nil_of_mem (List.mem_filter.2 ⟨hf, by simp [hheld, hop, hg, hlate]⟩)
  refine ⟨_, (if_neg (by omega)).trans (if_neg hsome), ?_⟩
  rw [completeGlobals_groups]
  dsimp only
  rw [updAt_getD _ _ _ _ _ hlen, if_pos rfl]

end Sys2Proof.Machine

namespace Sys2Proof

open Sys2Proof.Machine

/-- Settles O54, clause by clause from what the descriptor rows and the group rows do. -/
theorem fabricDescriptorsAndGlobalsAct : Obligations.FabricDescriptorsAndGlobalsAct := by
  unfold Obligations.FabricDescriptorsAndGlobalsAct
  refine ⟨?taken, ?waits, ?release, ?arrival, ?late, ?idle⟩
  case taken =>
    intro core desc org s u i hcore hturn hu hworks hrow
    subst hu
    rcases hrow with ⟨hop, rfl⟩ | ⟨hop, hsub, rfl⟩ | ⟨hop, hsub, rfl⟩ | ⟨hop, hsub, rfl⟩
    · exact takeFab_taken hcore hturn hworks hop (fun h => absurd h (by decide))
    · exact takeFab_taken hcore hturn hworks hop (fun _ => hsub)
    · exact takeFab_taken hcore hturn hworks hop (fun _ => hsub)
    · exact takeFab_taken hcore hturn hworks hop (fun _ => hsub)
  case waits =>
    intro core desc org s i hcore hturn hrow
    rcases hrow with rfl | rfl | rfl | rfl
    · exact takeFab_waits hcore hturn 0x60 0
    · exact takeFab_waits hcore hturn 0x61 0
    · exact takeFab_waits hcore hturn 0x61 1
    · exact takeFab_waits hcore hturn 0x61 2
  case release =>
    intro id s
    refine ⟨_, rfl, rfl, fun f hf hid hdue => ?_, fun f hf hid => ?_⟩
    · obtain ⟨g, -, rfl⟩ := List.mem_map.1 hf
      split
      · rfl
      · rename_i hkept
        rw [if_neg hkept] at hid hdue
        simpa [hid, hdue] using hkept
    · exact List.mem_map.2 ⟨f, hf, if_neg (fun h => hid h.1)⟩
  case arrival =>
    intro peer record s x o1 g gseq hx ho1 hg hgseq hin hop hgroup hchild
    subst hx ho1
    exact ⟨_, _, rfl, rfl, execGlobalOperationRx_arrival hg hgseq hin hop hgroup hchild⟩
  case late =>
    exact fun group s f hgroup hlen hf hheld hop hg hlate => execGlobalTimeout_blocks hgroup hlen hf hheld hop hg hlate
  case idle =>
    intro group s hgroup hnone
    refine (if_neg (by omega)).trans (if_pos ?_)
    rw [hnone]
    rfl

end Sys2Proof
end

section
/-! SUPPORT and O55. The records of the owner channel (R494 to R496). -/

namespace Sys2Proof.Machine

open Sys2Proof

/-! A record that goes out opens and ends no session. -/

theorem depart_owners (l : Link) (o : Departure) (s : State) : (depart l o s).security.owners = s.security.owners := by
  cases o <;> rfl

theorem putOut_owners (l : Link) (o : Departure) (s : State) : (putOut l o s).security.owners = s.security.owners := by
  unfold putOut
  split
  · rfl
  · exact depart_owners l o s

theorem sendLink_owners (i : Nat) (dst : Endpoint) (o : Departure) (s : State) :
    (sendLink i dst o s).security.owners = s.security.owners := by
  unfold sendLink
  split
  · rfl
  · split
    · exact putOut_owners _ _ _
    · extract_lets asked fabric u
      split
      · rfl
      · exact putOut_owners _ _ _

theorem ownerEmit_owners (via : Option UdpPath) (record : List Byte) (s : State) :
    (ownerEmit via record s).security.owners = s.security.owners := by
  cases via with
  | none => rfl
  | some p => exact sendLink_owners _ _ _ _

theorem sendOpenAck_owners (via : Option UdpPath) (sid : Nat) (ack : List Byte) (s : State) :
    (sendOpenAck via sid ack s).security.owners = s.security.owners :=
  foldl_view (fun s : State => s.security.owners) _ (fun s r => ownerEmit_owners via r s) _ s

theorem measure_owners (i event : Nat) (d : BitVec 256) (s : State) : (measure i event d s).security.owners = s.security.owners := by
  unfold measure extendSlot
  dsimp only
  split <;> rfl

/-- A whole OPEN opens one session, or is counted and opens none (Table 18.7). -/
theorem answerOpen_cases (via : Option UdpPath) (msg : List Byte) (s : State) :
    (openOk msg s = false → answerOpen via msg s = count Cnt.ownerAuthFailures 1 s) ∧
    (openOk msg s = true → (answerOpen via msg s).security.owners.length = s.security.owners.length + 1) := by
  refine ⟨fun h => if_pos h, fun h => ?_⟩
  unfold answerOpen
  rw [if_neg (by simp [h])]
  dsimp only
  rw [sendOpenAck_owners, measure_owners]
  exact List.length_append

/-- An OPEN in one fragment is whole. -/
theorem takeOpen_whole {via : Option UdpPath} {r : OwnerRec} {s : State} (hlast : r.frag % 16 = 0) (hfirst : r.frag / 16 = 0)
    (hnone : s.security.ownerHandshakes = []) : takeOpen via r s = answerOpen via r.payload s := by
  have hsame : { s with security := { s.security with ownerHandshakes := [] } } = s := by rw [← hnone]
  unfold takeOpen
  rw [hlast, hfirst, hnone]
  exact congrArg₂ (answerOpen via) (List.append_nil _) hsame

/-! Records under their rows. -/

section
variable {via : Option UdpPath} {record : List Byte} {s : State} {r : OwnerRec}

/-- A record that reaches the module under the row of its TYPE and KIND is taken. -/
theorem ownerRow_taken (hreaches : ownerReaches via s = true) (hparsed : parseOwner record = some r) {typ : Nat} (htyp : r.typ = typ)
    {kind : Option Nat} (hkind : ∀ k, kind = some k → r.kind = k) :
    (if ownerReaches via s then ownerRow typ kind via record s else s) = takeRecordOf via r s := by
  have hown : ¬(r.typ ≠ typ ∨ kind.any (fun k => k != r.kind) = true) := by
    rintro (h | h)
    · exact h htyp
    · cases kind with
      | none => cases h
      | some k => simp [hkind k rfl] at h
  rw [if_pos hreaches, ownerRow, hparsed]
  exact if_neg hown

/-- A DATA record under its row is taken. -/
theorem ownerData_taken (hreaches : ownerReaches via s = true) (hparsed : parseOwner record = some r) (htyp : r.typ = 3) {i : Instr}
    (hrow : (r.kind = 1 ∧ i = .ownerDict via record) ∨ (r.kind = 2 ∧ i = .ownerStage via record) ∨
      (r.kind = 3 ∧ i = .ownerCommand via record) ∨ (r.kind = 5 ∧ i = .ownerMap via record)) :
    exec i s = .next (takeData via r s) := by
  have hdata : takeRecordOf via r s = takeData via r s := by
    rw [takeRecordOf, if_neg (by omega), if_pos htyp]
  have htaken : ∀ k, r.kind = k → (if ownerReaches via s then ownerRow 3 (some k) via record s else s) = takeData via r s :=
    fun k hk => (ownerRow_taken hreaches hparsed htyp (fun j hj => by cases hj; exact hk)).trans hdata
  rcases hrow with ⟨hk, rfl⟩ | ⟨hk, rfl⟩ | ⟨hk, rfl⟩ | ⟨hk, rfl⟩
  · exact congrArg Host.Outcome.next (htaken 1 hk)
  · exact congrArg Host.Outcome.next (htaken 2 hk)
  · exact congrArg Host.Outcome.next (htaken 3 hk)
  · exact congrArg Host.Outcome.next (htaken 5 hk)

theorem takeData_authentic {o : OwnerSession} {payload : List Byte} (ho : ownerOf r.sid s = some o)
    (htag : gcmOpen o.keyIn (ownerNonce false r.seq) r.header r.payload = some payload) :
    takeData via r s = orderRecord via o r payload s := by
  rw [takeData, ho]
  dsimp only
  rw [htag]

theorem takeData_badTag {o : OwnerSession} (ho : ownerOf r.sid s = some o)
    (htag : gcmOpen o.keyIn (ownerNonce false r.seq) r.header r.payload = none) : takeData via r s = dropOwner s := by
  rw [takeData, ho]
  dsimp only
  rw [htag]

theorem orderRecord_inTurn {o : OwnerSession} {payload : List Byte} (hturn : r.seq = o.nextIn) (hheld : o.held = []) :
    orderRecord via o r payload s = applyRecord r.sid r.kind payload (updOwner r.sid (fun o => { o with peer := via }) s) := by
  unfold orderRecord
  rw [if_neg (by simp [hturn, hheld]), if_pos hturn, hheld]
  rfl

theorem orderRecord_behindGap {o : OwnerSession} {payload : List Byte} (hgap : o.nextIn < r.seq) (hheld : o.held = []) :
    orderRecord via o r payload s =
      updOwner r.sid (fun o => { o with held := o.held ++ [{ seq := r.seq, kind := r.kind, payload := payload, since := s.now }] })
        (updOwner r.sid (fun o => { o with peer := via }) s) := by
  unfold orderRecord
  rw [if_neg (by simp [hheld]; omega), if_neg (by omega)]
  rfl

end

theorem find?_updFirst_map {α : Type} {p : α → Bool} {f : α → α} (hf : ∀ x, p x = true → p (f x) = true) (l : List α) :
    (updFirst p f l).find? p = (l.find? p).map f := by
  induction l with
  | nil => rfl
  | cons x l ih =>
    unfold updFirst
    cases hx : p x with
    | true => simp [hx, hf x hx]
    | false => simp [hx, ih]

theorem ownerOf_updOwner {f : OwnerSession → OwnerSession} (hf : ∀ o, (f o).id = o.id) (sid : Nat) (s : State) :
    ownerOf sid (updOwner sid f s) = (ownerOf sid s).map f :=
  find?_updFirst_map (fun o ho => by simpa [hf] using ho) _

end Sys2Proof.Machine

namespace Sys2Proof

open Sys2Proof.Machine

/-- Settles O55, clause by clause from what a record under its row does. -/
theorem ownerRecordsAreTaken : Obligations.OwnerRecordsAreTaken := by
  unfold Obligations.OwnerRecordsAreTaken
  refine ⟨?opened, ?applied, ?held, ?badTag, ?closed, ?lapsed, ?gap⟩
  case opened =>
    intro via record s r msg hreaches hparsed htyp hlast hfirst hnone hmsg
    subst hmsg
    have hrun : exec (.ownerOpen via record) s = .next (answerOpen via r.payload s) := by
      refine congrArg Host.Outcome.next ((ownerRow_taken hreaches hparsed htyp (kind := none) (fun k hk => nomatch hk)).trans ?_)
      rw [takeRecordOf, if_pos htyp, takeOpen_whole hlast hfirst hnone]
    exact ⟨_, hrun, answerOpen_cases via r.payload s⟩
  case applied =>
    intro via record s r o payload i hreaches hparsed htyp hrow ho htag hturn hheld
    rw [ownerData_taken hreaches hparsed htyp hrow, takeData_authentic ho htag, orderRecord_inTurn hturn hheld]
  case held =>
    intro via record s r o payload hreaches hparsed htyp hkind ho htag hgap hheld
    refine ⟨_, ownerData_taken hreaches hparsed htyp (.inr (.inl ⟨hkind, rfl⟩)), ?_⟩
    rw [takeData_authentic ho htag, orderRecord_behindGap hgap hheld, hkind, ownerOf_updOwner, ownerOf_updOwner, ho]
    · simp only [Option.map_some, hheld, List.nil_append, true_and]
      rfl
    · exact fun _ => rfl
    · exact fun _ => rfl
  case badTag =>
    intro via record s r o i hreaches hparsed htyp hrow ho htag
    rw [ownerData_taken hreaches hparsed htyp hrow, takeData_badTag ho htag]
    rfl
  case closed =>
    intro via record s r hreaches hparsed htyp hopen
    have hrun : exec (.ownerClose via record) s = .next (takeClose r s) := by
      refine congrArg Host.Outcome.next ((ownerRow_taken hreaches hparsed htyp (kind := none) (fun k hk => nomatch hk)).trans ?_)
      rw [takeRecordOf, if_neg (by omega), if_neg (by omega), if_pos htyp]
    refine ⟨_, hrun, ?_⟩
    have hone : ¬(ownerOf r.sid s).isNone = true := by
      rw [Option.isNone_iff_eq_none]
      exact Option.isSome_iff_ne_none.1 hopen
    rw [takeClose, if_neg hone]
    refine ⟨?_, rfl⟩
    simp [ownerOf, List.find?_eq_none]
  case lapsed =>
    intro via s h hfind hlate
    change execOwnerHandshakeTimeout via s = _
    rw [execOwnerHandshakeTimeout, hfind]
    exact if_pos hlate
  case gap =>
    intro session s o h ho hh hlate happlied
    have hany : o.held.any (fun h => decide (h.since + 10000000 ≤ s.now)) = true := List.any_eq_true.2 ⟨h, hh, decide_eq_true hlate⟩
    change execOwnerGapTimeout session s = _
    rw [execOwnerGapTimeout, ho]
    dsimp only
    rw [if_pos hany, if_neg (by omega)]

end Sys2Proof
end

section
/-! SUPPORT and O58. Clocks, core groups, the NET and COLD domains, and the Bivouac's load (R29, R509 to R513, R516, R519, R521). -/

namespace Sys2Proof.Machine

open Sys2Proof

/-! What settling the groups' entries and the rest of a tick of the power manager leave alone. -/

def tickView (s : State) : Job × Security × SMem × List (ReqId × Nat × List Byte) × Nat :=
  (s.job, s.security, s.mem.dram, s.power.coldWaits, counter Cnt.wakesOnDemand s)

theorem counter_of_tickView {s t : State} (h : tickView t = tickView s) :
    counter Cnt.wakesOnDemand t = counter Cnt.wakesOnDemand s := congrArg (fun v => v.2.2.2.2) h

theorem coldWaits_of_tickView {s t : State} (h : tickView t = tickView s) : t.power.coldWaits = s.power.coldWaits :=
  congrArg (fun v => v.2.2.2.1) h

theorem tickView_ite {c : Prop} [Decidable c] {a b s : State} (ha : tickView a = tickView s) (hb : tickView b = tickView s) :
    tickView (if c then a else b) = tickView s := by
  split <;> assumption

theorem moveOpPoint_tickView (faster : Bool) (s : State) : tickView (moveOpPoint faster s) = tickView s := by
  have hmoved : ∀ p, tickView (count Cnt.opChanges 1 (setOpPoint p s)) = tickView s := fun p => by
    unfold tickView
    rw [counter_count_ne _ _ (by decide)]
    rfl
  unfold moveOpPoint
  dsimp only
  exact tickView_ite rfl (tickView_ite (tickView_ite (hmoved _) rfl) (tickView_ite (hmoved _) rfl))

theorem reserveWake_tickView (s : State) : tickView (reserveWake s) = tickView s :=
  tickView_ite (moveOpPoint_tickView false s) rfl

theorem stageOn_tickView (cg : Nat) (s : State) : tickView (stageOn cg s) = tickView s := (rfl)

theorem loseCores_tickView (cs : List Nat) (s : State) : tickView (cs.foldl (fun s c => loseCore c s) s) = tickView s :=
  foldl_view tickView (fun s c => loseCore c s) (fun _ _ => rfl) cs s

theorem settleGroup_tickView (cg : Nat) (s : State) : tickView (settleGroup cg s) = tickView s := by
  have hlost (c : Prop) [Decidable c] : tickView (if c then (groupCores cg).foldl (fun s c => loseCore c s) s else s) = tickView s :=
    tickView_ite (loseCores_tickView _ s) rfl
  have hput (u : State) (gs : List GroupPower) : tickView { u with power := { u.power with groups := gs } } = tickView u := rfl
  unfold settleGroup
  dsimp only
  split
  · rw [hput]
    exact tickView_ite ((stageOn_tickView _ _).trans (tickView_ite ((reserveWake_tickView _).trans (hlost _)) (hlost _))) (hlost _)
  · rfl

theorem settleGroups_tickView (s : State) : tickView (settleGroups s) = tickView s :=
  foldl_view tickView _ (fun s cg => settleGroup_tickView cg s) _ s

theorem stageStepDown_tickView (n : Nat) (s : State) : tickView (stageStepDown n s) = tickView s := by
  have hput (u : State) (st : List Nat) : tickView { u with power := { u.power with stage := st } } = tickView u := rfl
  unfold stageStepDown
  dsimp only
  rw [hput]
  exact tickView_ite rfl rfl

theorem settleCap_tickView (s : State) : tickView (settleCap s) = tickView s := by
  unfold settleCap
  split
  · exact tickView_ite rfl rfl
  · rfl

theorem coldSwitchOff_tickView (s : State) : tickView (coldSwitchOff s) = tickView s := tickView_ite rfl rfl

theorem holdOpMin_tickView (s : State) : tickView (holdOpMin s) = tickView s := tickView_ite (moveOpPoint_tickView false s) rfl

/-- The state of a tick before the time for which NET could be off is noted. -/
def tickSettled (s : State) : State := holdOpMin (stageStepDown 0 (stageStepDown 1 (settleGroups (settleCap (coldSwitchOff s)))))

theorem tickSettled_tickView (s : State) : tickView (tickSettled s) = tickView s := by
  unfold tickSettled
  rw [holdOpMin_tickView, stageStepDown_tickView, stageStepDown_tickView, settleGroups_tickView, settleCap_tickView,
    coldSwitchOff_tickView]

/-- The time for which NET could be off, noted. -/
def noteNetIdle (since : Option Nat) (s : State) : State := { s with power := { s.power with netIdleSince := since } }

theorem powerTick_eq (s : State) : ∃ since, (netMayGoOff (tickSettled s) = false → since = none) ∧
    powerTick s = noteNetIdle since (tickSettled s) := by
  unfold powerTick tickSettled noteNetIdle
  exact ⟨_, fun h => if_neg (by rw [h]; exact Bool.false_ne_true), rfl⟩

theorem noteNetIdle_tickView (since : Option Nat) (s : State) : tickView (noteNetIdle since s) = tickView s := (rfl)

theorem powerTick_tickView (s : State) : tickView (powerTick s) = tickView s := by
  obtain ⟨since, -, htick⟩ := powerTick_eq s
  rw [htick, noteNetIdle_tickView, tickSettled_tickView]

/-- While no job runs NET is not to go off, and nothing is noted. -/
theorem powerTick_notRunning {s : State} (h : s.job.state ≠ jobRunning) : (powerTick s).power.netIdleSince = none := by
  obtain ⟨since, hnone, htick⟩ := powerTick_eq s
  have hview := tickSettled_tickView s
  rw [htick]
  generalize tickSettled s = u at hview hnone
  have hjob : u.job = s.job := congrArg Prod.fst hview
  exact hnone (by simp [netMayGoOff, hjob, h])

/-! A group at rest stays as it is while the others' entries are settled. -/

theorem getD_set_ne {α : Type} {l : List α} {i j : Nat} {x d : α} (h : i ≠ j) : (l.set i x).getD j d = l.getD j d := by
  rw [List.getD_eq_getElem?_getD, List.getElem?_set_ne h, ← List.getD_eq_getElem?_getD]

theorem moveOpPoint_groups (faster : Bool) (s : State) : (moveOpPoint faster s).power.groups = s.power.groups := by
  unfold moveOpPoint
  dsimp only
  (repeat' split) <;> rfl

theorem reserveWake_groups (s : State) : (reserveWake s).power.groups = s.power.groups := by
  unfold reserveWake
  split
  · exact moveOpPoint_groups false s
  · rfl

/-- Settling a group's entry changes that group only. -/
theorem settleGroup_groups (cg : Nat) (s : State) :
    settleGroup cg s = s ∨ (s.power.groups.getD cg GroupPower.reset).code = 6 ∧
      ∃ g', (settleGroup cg s).power.groups = s.power.groups.set cg g' := by
  unfold settleGroup
  dsimp only
  split
  · rename_i hdue
    refine .inr ⟨hdue.1, ?_⟩
    have hlost : (if (s.power.groups.getD cg GroupPower.reset).other = 4 then (groupCores cg).foldl (fun s c => loseCore c s) s
        else s).power.groups = s.power.groups := by
      split
      · rw [loseCores_power]
      · rfl
    generalize (if (s.power.groups.getD cg GroupPower.reset).other = 4 then (groupCores cg).foldl (fun s c => loseCore c s) s
      else s) = u at hlost ⊢
    by_cases hafter : (s.power.groups.getD cg GroupPower.reset).wakeAfter = true
    · simp only [if_pos hafter, if_true]
      exact ⟨_, congrArg (fun l => List.set l cg _) ((reserveWake_groups u).trans hlost)⟩
    · simp only [if_neg hafter]
      exact ⟨_, congrArg (fun l => List.set l cg _) hlost⟩
  · exact .inl rfl

theorem settleGroup_resting {cg : Nat} {s : State} (h : (s.power.groups.getD cg GroupPower.reset).code ≠ 6) (k : Nat) :
    (settleGroup k s).power.groups.getD cg GroupPower.reset = s.power.groups.getD cg GroupPower.reset ∧
      (settleGroup k s).power.groups.length = s.power.groups.length := by
  rcases settleGroup_groups k s with hsame | ⟨hentering, g', hset⟩
  · rw [hsame]
    exact ⟨rfl, rfl⟩
  · have hk : k ≠ cg := fun e => h (e ▸ hentering)
    rw [hset, getD_set_ne hk, List.length_set]
    exact ⟨rfl, rfl⟩

theorem settleGroups_resting {cg : Nat} {s : State} (h : (s.power.groups.getD cg GroupPower.reset).code ≠ 6) :
    (settleGroups s).power.groups.getD cg GroupPower.reset = s.power.groups.getD cg GroupPower.reset ∧
      (settleGroups s).power.groups.length = s.power.groups.length := by
  unfold settleGroups
  generalize List.range 16 = l
  induction l generalizing s with
  | nil => exact ⟨rfl, rfl⟩
  | cons k l ih =>
    obtain ⟨hgroup, hlen⟩ := settleGroup_resting h k
    obtain ⟨hrest, hrestLen⟩ := ih (s := settleGroup k s) (by rwa [hgroup])
    exact ⟨hrest.trans hgroup, hrestLen.trans hlen⟩

/-! A wake. -/

theorem wakeDelay_stageOn (v t : State) (cg : Nat) : wakeDelay v (stageOn cg t) = wakeDelay v t := (rfl)

/-- A group that begins to wake is on when the delay of a move and its wake time have passed (R509, R516). -/
theorem beginWake_effect {cg code : Nat} {v : State} (hcg : cg < v.power.groups.length) :
    ((beginWake cg code v).power.groups.getD cg GroupPower.reset).code = 5 ∧
      ((beginWake cg code v).power.groups.getD cg GroupPower.reset).until_ =
        v.now + wakeDelay v (reserveWake v) + wakeNs code (residentMib cg v) ∧
      counter Cnt.wakesOnDemand (beginWake cg code v) = counter Cnt.wakesOnDemand v := by
  have hgroups : (stageOn cg (reserveWake v)).power.groups = v.power.groups := reserveWake_groups v
  have hview : tickView (stageOn cg (reserveWake v)) = tickView v := (stageOn_tickView cg _).trans (reserveWake_tickView v)
  unfold beginWake
  dsimp only
  rw [hgroups, updAt_getD _ _ _ _ _ hcg, if_pos rfl, wakeDelay_stageOn]
  exact ⟨rfl, rfl, counter_of_tickView hview⟩

theorem wakeGroup_resting {cg : Nat} {u : State} (hmay : mayWake cg (settleGroups u) = true)
    (hcode : ((settleGroups u).power.groups.getD cg GroupPower.reset).code ≠ 6) :
    wakeGroup cg u = beginWake cg ((settleGroups u).power.groups.getD cg GroupPower.reset).code (settleGroups u) := by
  unfold wakeGroup
  rw [if_neg (by simp [hmay]), if_neg hcode]

theorem cgWake_effect {cg : Nat} {s u : State} {g : GroupPower} (hcg : cg < 16) (hu : u = settleGroups s)
    (hlen : cg < u.power.groups.length) (hg : g = u.power.groups.getD cg GroupPower.reset) (hmain : s.power.mainOn = true)
    (hlow : 1 ≤ g.code) (hhigh : g.code ≤ 4) (hafter : g.wakeAfter = false) :
    ∃ t, exec (.cgWake cg) s = .next t ∧ (t.power.groups.getD cg GroupPower.reset).code = 5 ∧
      (t.power.groups.getD cg GroupPower.reset).until_ =
        s.now + wakeDelay (settleGroups u) (reserveWake (settleGroups u)) + wakeNs g.code (residentMib cg (settleGroups u)) ∧
      counter Cnt.wakesOnDemand t = (counter Cnt.wakesOnDemand u + 1) % 2 ^ 64 := by
  have hrest : (u.power.groups.getD cg GroupPower.reset).code ≠ 6 := by rw [← hg]; omega
  obtain ⟨hsame, hsameLen⟩ := settleGroups_resting hrest
  have hmay : mayWake cg u = true := mayWake_resting hcg hu hg hmain (by omega) (by omega)
  have hmayTwice : mayWake cg (settleGroups u) = true :=
    mayWake_resting hcg rfl (hg.trans hsame.symm) (by rw [hu, settleGroups_mainOn, hmain]) (by omega) (by omega)
  have hrun : exec (.cgWake cg) s = .next (count Cnt.wakesOnDemand 1 (wakeGroup cg u)) := by
    change execCgWake cg s = _
    rw [execCgWake, if_pos hcg, wakeOnDemand, ← hu]
    rw [if_neg (by rw [hmay, ← hg, hafter]; simp)]
  have hwake : wakeGroup cg u = beginWake cg g.code (settleGroups u) := by
    rw [wakeGroup_resting hmayTwice (by rw [hsame]; exact hrest), hsame, hg]
  obtain ⟨hcode, huntil, hcount⟩ := beginWake_effect (code := g.code) (v := settleGroups u) (cg := cg) (by rw [hsameLen]; exact hlen)
  have hnow : (settleGroups u).now = s.now := by rw [settleGroups_now, hu, settleGroups_now]
  refine ⟨_, hrun, ?_, ?_, ?_⟩
  · rw [hwake]
    exact hcode
  · rw [hwake, ← hnow]
    exact huntil
  · rw [counter_count_self, hwake, hcount]
    exact congrArg (fun n => (n + 1) % 2 ^ 64) (counter_of_tickView (settleGroups_tickView u))

theorem reloadDie_none {die : Nat} {s : State} (h : s.power.stageReload.getD die false = false) : reloadDie die s = s :=
  if_neg (by rw [h]; exact Bool.false_ne_true)

/-! What waited for COLD (R513). -/

theorem powerManagerTick_run (s : State) : exec .powerManagerTick s = .next (settleColdWaits (powerTick s)) := (rfl)

theorem settleColdWaits_nothing {s : State} (h : s.power.coldWaits = []) :
    settleColdWaits s = if coldUp s = false then s else { s with power := { s.power with coldWaits := [] } } := by
  rw [settleColdWaits, h]
  rfl

theorem settleColdWaits_context {s : State} {req : ReqId} {bytes : List Byte}
    (h : s.power.coldWaits = [(req, Ent.contextCreate, bytes)]) (hup : coldUp s = true) :
    settleColdWaits s = contextCreateAction req bytes { s with power := { s.power with coldWaits := [] } } := by
  rw [settleColdWaits, if_neg (by rw [hup]; decide), h, List.foldl_cons, List.foldl_nil]
  exact if_pos rfl

/-- A tick of the power manager with nothing waiting touches neither job, security nor device memory. -/
theorem powerManagerTick_effect {s : State} (hjob : s.job.state ≠ jobRunning) (hnone : s.power.coldWaits = []) :
    ∃ t, exec .powerManagerTick s = .next t ∧ t.power.netIdleSince = none ∧ t.job = s.job ∧ t.mem.dram = s.mem.dram ∧
      t.security = s.security := by
  have hidle := powerTick_notRunning hjob
  have hview := powerTick_tickView s
  refine ⟨_, powerManagerTick_run s, ?_⟩
  generalize powerTick s = u at hidle hview ⊢
  simp only [tickView, Prod.mk.injEq] at hview
  obtain ⟨hjobs, hsecurity, hdram, hwaits, -⟩ := hview
  rw [settleColdWaits_nothing (hwaits.trans hnone)]
  split <;> exact ⟨hidle, hjobs, hdram, hsecurity⟩

end Sys2Proof.Machine

namespace Sys2Proof

open Sys2Proof.Machine

/-- Settles O58, clause by clause from what the clocks, the groups, the domains and the power manager do. -/
theorem clocksAndDomainsFollow : Obligations.ClocksAndDomainsFollow := by
  unfold Obligations.ClocksAndDomainsFollow
  refine ⟨?lost, ?restored, ?wake, ?awake, ?netOn, ?netOff, ?coldOn, ?coldNotUp, ?coldIdle, ?coldAccess, ?tick, ?waits, ?bivouac⟩
  case lost => exact fun s hok => congrArg Host.Outcome.next (if_pos hok)
  case restored => exact fun s hlost => congrArg Host.Outcome.next (if_neg (by simp [hlost]))
  case wake =>
    intro cg s g u v hcg hu hlen hg hmain hlow hhigh hafter hv
    rw [hv]
    exact cgWake_effect hcg hu hlen hg hmain hlow hhigh hafter
  case awake =>
    intro cg s g hcg hlen hg hcode hleft hdue hnotOff hreload
    subst hg
    refine ⟨_, rfl, ?_⟩
    change execCgWakeComplete cg s = _
    unfold execCgWakeComplete
    rw [if_neg (by omega)]
    dsimp only
    rw [if_pos ⟨hcode, hdue⟩, if_neg hnotOff, hleft, reloadDie_none]
    exact hreload
  case netOn =>
    intro s hwanted hmain hoff
    refine congrArg Host.Outcome.next ((if_pos hwanted).trans ?_)
    rw [switchNetOn, hmain, Bool.or_true]
  case netOff =>
    intro s since hon hjob hsvc hfabric howners hsince hdue
    have hmay : netMayGoOff s = true := by simp [netMayGoOff, hjob, hsvc, hfabric, howners]
    have hlong : s.power.netIdleSince.any (fun t => decide (t + 1000000000 ≤ s.now)) = true := by
      rw [hsince, Option.any_some, decide_eq_true_iff]
      exact hdue
    refine congrArg Host.Outcome.next (if_pos ?_)
    rw [hon, hmay, hlong]
    rfl
  case coldOn =>
    intro s hmain hjob hcold
    exact congrArg Host.Outcome.next ((if_pos (by simp [hmain, hjob])).trans (if_pos ⟨hcold, hmain⟩))
  case coldNotUp => exact fun s hup => congrArg Host.Outcome.next (if_neg (by simp [hup]))
  case coldIdle => exact fun s hcold hup hidle => congrArg Host.Outcome.next (if_pos ⟨hcold, hup, hidle⟩)
  case coldAccess => exact fun s hcold => congrArg Host.Outcome.next (if_pos hcold)
  case tick => exact fun s hjob hnone => powerManagerTick_effect hjob hnone
  case waits =>
    intro s req bytes u hwaits hu hup
    have hsame : u.power.coldWaits = s.power.coldWaits := by
      rw [hu]
      exact coldWaits_of_tickView (powerTick_tickView s)
    rw [powerManagerTick_run, ← hu, settleColdWaits_context (hsame.trans hwaits) hup]
  case bivouac =>
    intro s g v hstate hgraph
    have hdue : bivLoadDue s = true := by simp [bivLoadDue, hstate]
    refine ⟨_, congrArg Host.Outcome.next (if_pos hdue), fun hholds => ?_, fun hrefused => ?_⟩
    · rw [loadBivouac, hgraph]
      dsimp only
      rw [if_neg (by simp [hholds])]
      exact ⟨rfl, rfl, rfl⟩
    · rw [loadBivouac, hgraph]
      exact if_pos hrefused

end Sys2Proof
end

section
/-! SUPPORT and O60. Maintenance mode, the reset of core groups, and firmware update (R485 to R488, R537, R538, R541). -/

namespace Sys2Proof.Machine

open Sys2Proof

/-! Tasks that begin and end touch neither recovery nor power, and no command entry. -/

def upkeepView (s : State) : Reset × Power × List (Nat × CmdStatus) × Nat := (s.recovery, s.power, s.dict.cmds, s.now)

theorem count_upkeepView (key n : Nat) (s : State) : upkeepView (count key n s) = upkeepView s := (rfl)

theorem addDebt_upkeepView (q cg ns : Nat) (s : State) : upkeepView (addDebt q cg ns s) = upkeepView s := (rfl)

theorem settleOutgoing_upkeepView (s : State) : upkeepView (settleOutgoing s) = upkeepView s := by
  refine foldl_view upkeepView _ (fun s o => ?_) _ s
  dsimp only
  split
  · rfl
  · split
    · rfl
    · split
      · exact addDebt_upkeepView _ _ _ _
      · rfl

theorem freeCore_upkeepView (core : Nat) (s : State) : upkeepView (freeCore core s) = upkeepView s := by
  have hwait : upkeepView (endWait core s) = upkeepView s := by
    unfold endWait
    split
    · rfl
    · split <;> rfl
  exact hwait

theorem stopTask_upkeepView (core : Nat) (s : State) : upkeepView (stopTask core false s) = upkeepView s := by
  unfold stopTask
  split
  · rfl
  · simp only [Bool.false_eq_true, if_false]
    rw [settleOutgoing_upkeepView, freeCore_upkeepView]
    rfl

theorem stopPersistents_upkeepView (s : State) : upkeepView (stopPersistents s) = upkeepView s := by
  refine foldl_view upkeepView _ (fun s c => ?_) _ _
  split
  · exact stopTask_upkeepView c s
  · rfl

theorem startPersistent_upkeepView (n : Nat) (s : State) : upkeepView (startPersistent n s) = upkeepView s := by
  rw [startPersistent_frame]
  rfl

theorem startPersistents_upkeepView (s : State) : upkeepView (startPersistents s) = upkeepView s :=
  foldl_view upkeepView _ (fun s n => startPersistent_upkeepView n s) _ s

theorem startPersistent_postilion (n : Nat) (s : State) :
    (startPersistent n s).dispatch.postilionState = s.dispatch.postilionState := by
  unfold startPersistent
  split <;> rfl

theorem startPersistents_postilion (s : State) : (startPersistents s).dispatch.postilionState = s.dispatch.postilionState := by
  unfold startPersistents
  exact foldl_view (fun s : State => s.dispatch.postilionState) (fun s n => startPersistent n s)
    (fun s n => startPersistent_postilion n s) _ s

theorem queueRepair_upkeepView (core : Nat) (r : Nat × Nat) (s : State) : upkeepView (queueRepair core r s) = upkeepView s := by
  unfold queueRepair
  split
  · rfl
  · rw [wbSubmit_frame]
    unfold upkeepView
    rw [wbSubmit_cmds]
    rfl

theorem selfTests_upkeepView (cores : List Nat) (s : State) : upkeepView (selfTests cores s) = upkeepView s := by
  refine foldl_view upkeepView _ (fun s c => ?_) cores s
  exact foldl_view upkeepView _ (fun s r => queueRepair_upkeepView c r s) _ s

/-! Maintenance mode. -/

/-- Maintenance mode as it begins: the Postilion stopped. -/
def maintEntered (s : State) : State :=
  { s with recovery := { s.recovery with maint := true, maintEnding := false }, dispatch := { s.dispatch with postilionState := 0 } }

theorem maintEntered_of_eq {s u : State} (hrecovery : u.recovery = s.recovery) (hdispatch : u.dispatch = s.dispatch) :
    maintEntered u = { u with
      recovery := { s.recovery with maint := true, maintEnding := false },
      dispatch := { s.dispatch with postilionState := 0 } } := by
  rw [← hrecovery, ← hdispatch]
  rfl

theorem maintEntered_actionStart (req : ReqId) (index sub : Nat) (s : State) : maintEntered (actionStart req index sub s) =
    { actionStart req index sub s with
      recovery := { s.recovery with maint := true, maintEnding := false },
      dispatch := { s.dispatch with postilionState := 0 } } :=
  maintEntered_of_eq (by rw [actionStart_frame]) (by rw [actionStart_frame])

theorem maintModeAction_cases (req : ReqId) (value : Nat) (s : State) :
    maintModeAction req (leBytes 1 value) s = endCmd Ent.maintMode stOk 0 (
      if value % 256 = 1 then (if s.recovery.maint then s else startPersistents (maintEntered s))
      else if s.recovery.maint then endMaintenance s else s) := by
  unfold maintModeAction
  rw [ofLe_leBytes]
  rfl

theorem endMaintenance_effect (s : State) :
    (endMaintenance s).recovery.maint = false ∧ (endMaintenance s).dict.cmds = s.dict.cmds ∧ (endMaintenance s).now = s.now := by
  unfold endMaintenance
  dsimp only
  split
  · exact ⟨rfl, rfl, rfl⟩
  · have hview := stopPersistents_upkeepView { s with
      recovery := { s.recovery with maint := false, maintEnding := false }, dispatch := { s.dispatch with postilionState := 2 } }
    simp only [upkeepView, Prod.mk.injEq] at hview
    obtain ⟨hrecovery, -, hcmds, hnow⟩ := hview
    exact ⟨congrArg (fun r : Reset => r.maint) hrecovery, hcmds, hnow⟩

section
variable {req : ReqId} {value : Nat} {s : State} (hacc : Accepted req 0x2D00 0x05 (leBytes 1 value) s)
include hacc

theorem maintMode_run : exec (.maintMode req value) s = .next (endCmd Ent.maintMode stOk 0 (
    if value % 256 = 1 then
      (if s.recovery.maint then actionStart req 0x2D00 0x05 s else startPersistents (maintEntered (actionStart req 0x2D00 0x05 s)))
    else if s.recovery.maint then endMaintenance (actionStart req 0x2D00 0x05 s) else actionStart req 0x2D00 0x05 s)) := by
  have hrecovery : (actionStart req 0x2D00 0x05 s).recovery = s.recovery := by rw [actionStart_frame]
  rw [← hrecovery]
  exact congrArg Host.Outcome.next ((cmdVia_accepted hacc).trans (maintModeAction_cases req value _))

omit hacc in
/-- With nothing to change the command ends DONE. -/
theorem maintMode_unchanged (hrun : exec (.maintMode req value) s =
    .next (endCmd Ent.maintMode stOk 0 (actionStart req 0x2D00 0x05 s))) :
    ∃ t, exec (.maintMode req value) s = .next t ∧ EndedOk Ent.maintMode req s t ∧ t = { s with dict := t.dict } := by
  refine ⟨_, hrun, endedOk_endCmd rfl rfl (actionStart_now req 0x2D00 0x05 s), ?_⟩
  rw [actionStart_frame]
  rfl

theorem maintMode_stays_out (hvalue : value % 256 ≠ 1) (hout : s.recovery.maint = false) :
    ∃ t, exec (.maintMode req value) s = .next t ∧ EndedOk Ent.maintMode req s t ∧ t = { s with dict := t.dict } := by
  have hrun := maintMode_run hacc
  rw [if_neg hvalue, hout, if_neg Bool.false_ne_true] at hrun
  exact maintMode_unchanged hrun

theorem maintMode_stays_in (hvalue : value % 256 = 1) (hin : s.recovery.maint = true) :
    ∃ t, exec (.maintMode req value) s = .next t ∧ EndedOk Ent.maintMode req s t ∧ t = { s with dict := t.dict } := by
  have hrun := maintMode_run hacc
  rw [if_pos hvalue, hin, if_pos rfl] at hrun
  exact maintMode_unchanged hrun

theorem maintMode_enters (hvalue : value % 256 = 1) (hout : s.recovery.maint = false) :
    ∃ t, exec (.maintMode req value) s = .next t ∧ EndedOk Ent.maintMode req s t ∧ t.recovery.maint = true ∧
      t.dispatch.postilionState = 0 ∧
      t = endCmd Ent.maintMode stOk 0 (startPersistents { actionStart req 0x2D00 0x05 s with
        recovery := { s.recovery with maint := true, maintEnding := false },
        dispatch := { s.dispatch with postilionState := 0 } }) := by
  have hrun := maintMode_run hacc
  rw [if_pos hvalue, hout, if_neg Bool.false_ne_true] at hrun
  have hview := startPersistents_upkeepView (maintEntered (actionStart req 0x2D00 0x05 s))
  simp only [upkeepView, Prod.mk.injEq] at hview
  obtain ⟨hrecovery, -, hcmds, hnow⟩ := hview
  refine ⟨_, hrun, endedOk_endCmd rfl hcmds (hnow.trans (actionStart_now req 0x2D00 0x05 s)), ?_, ?_,
    congrArg (fun u => endCmd Ent.maintMode stOk 0 (startPersistents u)) (maintEntered_actionStart req 0x2D00 0x05 s)⟩
  · rw [endCmd_recovery, hrecovery]
    rfl
  · rw [endCmd_dispatch, startPersistents_postilion]
    rfl

theorem maintMode_ends (hvalue : value % 256 ≠ 1) (hin : s.recovery.maint = true) :
    ∃ t, exec (.maintMode req value) s = .next t ∧ EndedOk Ent.maintMode req s t ∧ t.recovery.maint = false ∧
      t = endCmd Ent.maintMode stOk 0 (endMaintenance (actionStart req 0x2D00 0x05 s)) := by
  have hrun := maintMode_run hacc
  rw [if_neg hvalue, hin, if_pos rfl] at hrun
  obtain ⟨hmaint, hcmds, hnow⟩ := endMaintenance_effect (actionStart req 0x2D00 0x05 s)
  refine ⟨_, hrun, endedOk_endCmd rfl hcmds (hnow.trans (actionStart_now req 0x2D00 0x05 s)), ?_, rfl⟩
  rw [endCmd_recovery, hmaint]

end

/-! A group's reset. -/

theorem lostCore_upkeepView (c : Nat) (s : State) : upkeepView (updCtl c idleControl (loseCore c s)) = upkeepView s := (rfl)

theorem stoppedCores_upkeepView (cores : List Nat) (s : State) :
    upkeepView (cores.foldl (fun s c => updCtl c idleControl (loseCore c (stopTask c false s))) s) = upkeepView s :=
  foldl_view upkeepView (fun s c => updCtl c idleControl (loseCore c (stopTask c false s)))
    (fun s c => (lostCore_upkeepView c _).trans (stopTask_upkeepView c s)) cores s

/-- The persistent tasks of the cores of a group begun anew. -/
def restartPersistents (cores : List Nat) (s : State) : State :=
  (List.range 64).foldl (fun s n => if cores.contains (directCore n s) then startPersistent n s else s) s

theorem restartPersistents_upkeepView (cores : List Nat) (s : State) : upkeepView (restartPersistents cores s) = upkeepView s := by
  unfold restartPersistents
  refine foldl_view upkeepView (fun s n => if cores.contains (directCore n s) then startPersistent n s else s) (fun s n => ?_) _ s
  split
  · exact startPersistent_upkeepView n s
  · rfl

theorem power_of_upkeepView {s t : State} (h : upkeepView t = upkeepView s) : t.power = s.power := congrArg (fun v => v.2.1) h

/-- A group on again: its start-up lies behind it. -/
def groupOnAgain (cg : Nat) (s : State) : State :=
  { s with power := { s.power with groups := s.power.groups.set cg { GroupPower.reset with code := 0, other := 0, left := 0 } } }

theorem resetGroup_eq {cg : Nat} {s : State} (hmain : s.power.mainOn = true) : ∃ u, upkeepView u = upkeepView s ∧
    resetGroup cg s = restartPersistents (groupCores cg) (selfTests (groupCores cg) (groupOnAgain cg (stageOn cg u))) := by
  refine ⟨_, stoppedCores_upkeepView (groupCores cg) s, ?_⟩
  unfold resetGroup restartPersistents groupOnAgain
  rw [if_neg (by rw [hmain]; decide)]

theorem resetGroup_on {cg : Nat} {s : State} (hmain : s.power.mainOn = true) (hcg : cg < s.power.groups.length) :
    ((resetGroup cg s).power.groups.getD cg GroupPower.reset).code = 0 := by
  obtain ⟨u, hu, hreset⟩ := resetGroup_eq (cg := cg) hmain
  have hlen : cg < (stageOn cg u).power.groups.length := by
    change cg < u.power.groups.length
    rwa [power_of_upkeepView hu]
  rw [hreset, power_of_upkeepView (restartPersistents_upkeepView _ _), power_of_upkeepView (selfTests_upkeepView _ _)]
  unfold groupOnAgain
  dsimp only
  rw [List.getD_eq_getElem?_getD, List.getElem?_set_self hlen]
  rfl

/-! Firmware. -/

theorem slice_length (bs : List Byte) (o n : Nat) : (slice bs o n).length = n := by
  simp [slice]

theorem slice_getElem? {bs : List Byte} {o n i : Nat} (h : i < n) : (slice bs o n)[i]? = some (bs.getD (o + i) 0) := by
  unfold slice
  dsimp only
  by_cases hin : o + i < bs.length
  · rw [List.getElem?_append_left (by simp; omega), List.getElem?_take_of_lt h, List.getElem?_drop, List.getElem?_eq_getElem hin,
      List.getD_eq_getElem?_getD, List.getElem?_eq_getElem hin, Option.getD_some]
  · rw [List.getElem?_append_right (by simp; omega), List.getElem?_replicate, if_pos (by simp; omega),
      List.getD_eq_getElem?_getD, List.getElem?_eq_none (by omega), Option.getD_none]

theorem slice_all {bs : List Byte} {o n : Nat} (h : bs.length = o + n) : slice bs o n = bs.drop o := by
  have hlen : (bs.drop o).length = n := by rw [List.length_drop]; omega
  unfold slice
  dsimp only
  rw [← hlen, List.take_length, Nat.sub_self, List.replicate_zero, List.append_nil]

theorem noteRefused_recovery (t check version : Nat) (s : State) : (noteRefused t check version s).recovery = s.recovery := by
  unfold noteRefused
  rw [count_recovery, wbSubmit_frame]

/-- An image that passes every check is in the inactive bank afterwards, the active one staying as it is. -/
theorem installImage_banks {x : StagedImage} {s : State} (htyp : x.typ < 5) (hactive : s.recovery.active < 2)
    (hbanks : s.recovery.banks.length = 2) :
    bankImage (1 - s.recovery.active) x.typ (installImage x s) = some x.image ∧
      (∀ k, bankImage s.recovery.active k (installImage x s) = bankImage s.recovery.active k s) := by
  unfold bankImage installImage
  dsimp only
  refine ⟨?_, fun k => ?_⟩
  · rw [List.getD_eq_getElem?_getD, List.getD_eq_getElem?_getD, List.getElem?_set_self (by omega), Option.getD_some,
      List.getElem?_map, List.getElem?_range htyp, Option.map_some, if_pos rfl, Option.getD_some]
  · rw [getD_set_ne (by omega)]

section
variable {req : ReqId} {value : Nat} {s u : State}

theorem active_of_recovery {s t : State} (h : t.recovery = s.recovery) : t.recovery.active = s.recovery.active := by rw [h]

theorem bankImage_of_recovery {s t : State} (h : t.recovery = s.recovery) (b k : Nat) : bankImage b k t = bankImage b k s := by
  unfold bankImage
  rw [h]

theorem installImage_active (x : StagedImage) (s : State) : (installImage x s).recovery.active = s.recovery.active := (rfl)

theorem installImage_cmds (x : StagedImage) (s : State) : (installImage x s).dict.cmds = s.dict.cmds := (rfl)

theorem installImage_now (x : StagedImage) (s : State) : (installImage x s).now = s.now := (rfl)

/-- FW_INSTALL: what its action sees of the staged image is what stood when it was written. -/
theorem fwInstall_run (hsmall : value < 2 ^ 32) (hacc : Accepted req 0x2D00 0x07 (leBytes 4 value) s) :
    exec (.fwInstall req value) s = .next (match stagedImage value s with
      | none => endCmd Ent.fwInstall stDenied erBadValue (noteRefused (ofLe (memRead s.recovery.staging 3 1)) 1
          (ofLe (memRead s.recovery.staging 12 4)) (actionStart req 0x2D00 0x07 s))
      | some i => match stagedFault i s with
        | some c => endCmd Ent.fwInstall stDenied erBadValue (noteRefused i.typ c i.image.version.toNat (actionStart req 0x2D00 0x07 s))
        | none => endCmd Ent.fwInstall stOk 0 (installImage i (actionStart req 0x2D00 0x07 s))) := by
  have hvalue : ofLe (leBytes 4 value) = value := (ofLe_leBytes 4 value).trans (Nat.mod_eq_of_lt hsmall)
  have himage : stagedImage value (actionStart req 0x2D00 0x07 s) = stagedImage value s := by
    unfold stagedImage
    rw [actionStart_frame]
  have hfault : ∀ i, stagedFault i (actionStart req 0x2D00 0x07 s) = stagedFault i s := fun i => by
    unfold stagedFault
    rw [actionStart_frame]
  have hrecovery : (actionStart req 0x2D00 0x07 s).recovery = s.recovery := by rw [actionStart_frame]
  refine congrArg Host.Outcome.next ((cmdVia_accepted hacc).trans ?_)
  unfold fwInstallAction
  rw [hvalue, himage, hrecovery]
  cases stagedImage value s with
  | none => rfl
  | some i =>
    dsimp only
    generalize hchecked : stagedFault i (actionStart req 0x2D00 0x07 s) = fault
    rw [hfault] at hchecked
    subst hchecked
    cases stagedFault i s <;> rfl

/-- A refused installation ends DENIED and leaves the banks and the staged bytes as they are. -/
theorem fwInstall_refused (t check version : Nat)
    (hu : u = endCmd Ent.fwInstall stDenied erBadValue (noteRefused t check version (actionStart req 0x2D00 0x07 s))) :
    (cmdOf Ent.fwInstall u).state = 3 ∧ (cmdOf Ent.fwInstall u).status = stDenied ∧
      (cmdOf Ent.fwInstall u).reason = erBadValue ∧ u.recovery = s.recovery := by
  rw [hu, cmdOf_endCmd, endCmd_recovery, noteRefused_recovery, actionStart_frame]
  exact ⟨rfl, rfl, rfl, rfl⟩

theorem fwInstall_effect {x : StagedImage} (hsmall : value < 2 ^ 32) (hacc : Accepted req 0x2D00 0x07 (leBytes 4 value) s)
    (himage : stagedImage value s = some x) (htyp : x.typ < 5) (hactive : s.recovery.active < 2) (hbanks : s.recovery.banks.length = 2) :
    ∃ t, exec (.fwInstall req value) s = .next t ∧
      (stagedFault x s = none → EndedOk Ent.fwInstall req s t ∧ bankImage (1 - s.recovery.active) x.typ t = some x.image ∧
        (∀ k, bankImage s.recovery.active k t = bankImage s.recovery.active k s)) ∧
      (stagedFault x s ≠ none → (cmdOf Ent.fwInstall t).state = 3 ∧ (cmdOf Ent.fwInstall t).status = stDenied ∧
        (cmdOf Ent.fwInstall t).reason = erBadValue ∧ t.recovery = s.recovery) ∧ t.recovery.active = s.recovery.active := by
  refine ⟨_, fwInstall_run hsmall hacc, ?_⟩
  rw [himage]
  dsimp only
  cases stagedFault x s with
  | some c =>
    obtain ⟨hstate, hstatus, hreason, hrecovery⟩ := fwInstall_refused (req := req) (s := s) x.typ c x.image.version.toNat rfl
    exact ⟨nofun, fun _ => ⟨hstate, hstatus, hreason, hrecovery⟩, active_of_recovery hrecovery⟩
  | none =>
    have hrecovery : (actionStart req 0x2D00 0x07 s).recovery = s.recovery := by rw [actionStart_frame]
    obtain ⟨hnew, hkept⟩ := installImage_banks (s := actionStart req 0x2D00 0x07 s) htyp (by rw [hrecovery]; exact hactive)
      (by rw [hrecovery]; exact hbanks)
    rw [hrecovery] at hnew hkept
    have hended : EndedOk Ent.fwInstall req s (endCmd Ent.fwInstall stOk 0 (installImage x (actionStart req 0x2D00 0x07 s))) :=
      endedOk_endCmd rfl (installImage_cmds x _) ((installImage_now x _).trans (actionStart_now req 0x2D00 0x07 s))
    have hends := endCmd_recovery Ent.fwInstall stOk 0 (installImage x (actionStart req 0x2D00 0x07 s))
    dsimp only
    refine ⟨fun _ => ⟨hended, ?_, fun k => ?_⟩, fun h => absurd rfl h, ?_⟩
    · rw [bankImage_of_recovery hends, hnew]
    · rw [bankImage_of_recovery hends, hkept, bankImage_of_recovery hrecovery]
    · rw [hends, installImage_active, hrecovery]

theorem fwInstall_no_image (hsmall : value < 2 ^ 32) (hacc : Accepted req 0x2D00 0x07 (leBytes 4 value) s)
    (hnone : stagedImage value s = none) :
    ∃ t, exec (.fwInstall req value) s = .next t ∧ (cmdOf Ent.fwInstall t).state = 3 ∧
      (cmdOf Ent.fwInstall t).status = stDenied ∧ t.recovery = s.recovery := by
  obtain ⟨hstate, hstatus, -, hrecovery⟩ := fwInstall_refused (req := req) (s := s) (ofLe (memRead s.recovery.staging 3 1)) 1
    (ofLe (memRead s.recovery.staging 12 4)) rfl
  have hrun := fwInstall_run hsmall hacc
  rw [hnone] at hrun
  exact ⟨_, hrun, hstate, hstatus, hrecovery⟩

theorem cgReset_run {mask : Nat} (hacc : Accepted req 0x6D00 0x01 (leBytes 2 mask) s) :
    exec (.cgReset req mask) s = .next (endCmd Ent.cgReset stOk 0
      ((setBits 16 (mask % 65536)).foldl (fun s g => resetGroup g s) (actionStart req 0x6D00 0x01 s))) := by
  refine congrArg Host.Outcome.next ((cmdVia_accepted hacc).trans ?_)
  rw [cgResetAction, ofLe_leBytes]
  rfl

theorem fwWrite_run {value : List Byte} (hacc : Accepted req 0x2D00 0x06 value s) :
    ∃ t, exec (.fwWrite req value) s = .next t ∧ EndedOk Ent.fwWrite req s t ∧
      t = { s with dict := t.dict, recovery := { s.recovery with
        staging := memWrite s.recovery.staging (leAt value 0 4) (slice value 8 (leAt value 4 4)) } } := by
  refine ⟨_, congrArg Host.Outcome.next (cmdVia_accepted hacc), endedOk_endCmd rfl rfl (actionStart_now req 0x2D00 0x06 s), ?_⟩
  unfold fwWriteAction
  rw [actionStart_frame]
  rfl

theorem fwActivate_run (hacc : Accepted req 0x2D00 0x08 (leBytes 1 value) s) :
    ∃ t, exec (.fwActivate req value) s = .next t ∧ EndedOk Ent.fwActivate req s t ∧
      t = { s with dict := t.dict, recovery := { s.recovery with next := 1 - s.recovery.active, trial := true, written := [] } } := by
  refine ⟨_, congrArg Host.Outcome.next (cmdVia_accepted hacc), endedOk_endCmd rfl rfl (actionStart_now req 0x2D00 0x08 s), ?_⟩
  unfold fwActivateAction
  rw [actionStart_frame]
  rfl

/-- FW_CONFIRM takes effect where the module runs on trial from the bank that was selected. -/
theorem fwConfirmAction_cases (req : ReqId) (v : List Byte) (hrecovery : u.recovery = s.recovery) :
    fwConfirmAction req v u =
      if s.recovery.trial = true ∧ s.recovery.running = s.recovery.next ∧ s.recovery.running ≠ s.recovery.active then
        endCmd Ent.fwConfirm stOk 0 { u with recovery := { s.recovery with active := s.recovery.running, trial := false } }
      else endCmd Ent.fwConfirm stDenied erWrongState u := by
  rw [← hrecovery]
  rfl

theorem fwConfirm_trial (hacc : Accepted req 0x2D00 0x09 (leBytes 1 value) s) (htrial : s.recovery.trial = true)
    (hruns : s.recovery.running = s.recovery.next) (hinactive : s.recovery.running ≠ s.recovery.active) :
    ∃ t, exec (.fwConfirm req value) s = .next t ∧ EndedOk Ent.fwConfirm req s t ∧
      t = { s with dict := t.dict, recovery := { s.recovery with active := s.recovery.running, trial := false } } := by
  have hrun := (cmdVia_accepted (action := fwConfirmAction) hacc).trans
    (fwConfirmAction_cases req (leBytes 1 value) (by rw [actionStart_frame]))
  rw [if_pos ⟨htrial, hruns, hinactive⟩] at hrun
  refine ⟨_, congrArg Host.Outcome.next hrun, endedOk_endCmd rfl rfl (actionStart_now req 0x2D00 0x09 s), ?_⟩
  rw [actionStart_frame]
  rfl

theorem fwConfirm_no_trial (hacc : Accepted req 0x2D00 0x09 (leBytes 1 value) s)
    (hnot : s.recovery.trial = false ∨ s.recovery.running ≠ s.recovery.next ∨ s.recovery.running = s.recovery.active) :
    ∃ t, exec (.fwConfirm req value) s = .next t ∧ (cmdOf Ent.fwConfirm t).state = 3 ∧
      (cmdOf Ent.fwConfirm t).status = stDenied ∧ t = { s with dict := t.dict } := by
  have hrun := (cmdVia_accepted (action := fwConfirmAction) hacc).trans
    (fwConfirmAction_cases req (leBytes 1 value) (by rw [actionStart_frame]))
  have hfails : ¬ (s.recovery.trial = true ∧ s.recovery.running = s.recovery.next ∧ s.recovery.running ≠ s.recovery.active) := by
    rintro ⟨htrial, hruns, hinactive⟩
    rcases hnot with h | h | h
    · exact Bool.false_ne_true (h.symm.trans htrial)
    · exact h hruns
    · exact hinactive h
  rw [if_neg hfails] at hrun
  refine ⟨_, congrArg Host.Outcome.next hrun, ?_, ?_, ?_⟩
  · rw [cmdOf_endCmd]
    rfl
  · rw [cmdOf_endCmd]
  · rw [actionStart_frame]
    rfl

end

end Sys2Proof.Machine

namespace Sys2Proof

open Sys2Proof.Machine

/-- Settles O60, clause by clause from what the commands of maintenance and of firmware update do. -/
theorem firmwareIsUpdatedOnTrial : Obligations.FirmwareIsUpdatedOnTrial := by
  unfold Obligations.FirmwareIsUpdatedOnTrial
  refine ⟨?enters, ?stays, ?groups, ?staged, ?installed, ?activated, ?confirmed, ?within, ?ends, ?group, ?bytes, ?length, ?noImage, ?noTrial⟩
  case enters => exact fun _ _ _ hacc hvalue hout => maintMode_enters hacc hvalue hout
  case stays => exact fun _ _ _ hacc hvalue hout => maintMode_stays_out hacc hvalue hout
  case groups => exact fun _ _ _ hacc => cgReset_run hacc
  case staged =>
    intro req value s hacc
    obtain ⟨t, hrun, hended, ht⟩ := fwWrite_run hacc
    refine ⟨t, hrun, hended, ht, fun hwhole => ?_⟩
    rw [ht, slice_all hwhole]
  case installed => exact fun _ _ _ _ hsmall hacc himage htyp hactive hbanks => fwInstall_effect hsmall hacc himage htyp hactive hbanks
  case activated => exact fun _ _ _ hacc => fwActivate_run hacc
  case confirmed => exact fun _ _ _ hacc htrial hruns hinactive => fwConfirm_trial hacc htrial hruns hinactive
  case within => exact fun _ _ _ hacc hvalue hin => maintMode_stays_in hacc hvalue hin
  case ends => exact fun _ _ _ hacc hvalue hin => maintMode_ends hacc hvalue hin
  case group => exact fun _ _ => ⟨fun hoff => if_pos hoff, fun hmain hcg => resetGroup_on hmain hcg⟩
  case bytes => exact fun _ _ hi => slice_getElem? hi
  case length => exact fun _ => slice_length _ _ _
  case noImage => exact fun _ _ _ hsmall hacc hnone => fwInstall_no_image hsmall hacc hnone
  case noTrial => exact fun _ _ _ hacc hnot => fwConfirm_no_trial hacc hnot

end Sys2Proof
end
